-- ==== Sys2Proof/Word.lean ====
section
/-! DEFINITION. The word types of the Lemquin machine and their plainest readings (spec 03 R31, 05 helpers). -/

namespace Sys2Proof

/-- A byte of memory. -/
abbrev Byte := BitVec 8

/-- One 64-bit value: a register slot's contents or an address (08 R149). -/
abbrev Word := BitVec 64

/-- One halfword of code (03 R31). -/
abbrev HW := BitVec 16

/-- A 16-lane mask: a predicate or one flag of `fl` (08 R161). -/
abbrev Mask := BitVec 16

end Sys2Proof
end

