-- ==== Sys2Proof/Forms.lean ====
section
/-! DEFINITION. Operand forms, modifiers and variants of the encoded instructions (spec 03 to 22), and what the
events of the opcode table carry: the data another party hands to the part. -/

namespace Sys2Proof

/-- A scalar operand: an operand code (0 lt, 1 to 7 a1 to a7) or a main-file slot given by XREG (R35, R42).
On the forms whose operand b is a vector when XREG replaces it, the slot names the vector (R212). -/
inductive Opnd where
  | code (n : Fin 8)
  | slot (n : Fin 256)
  deriving DecidableEq, Repr

/-- Format tags of register slots (R159). -/
inductive Tag where
  | raw | i32 | f32 | bf16 | f16 | e4m3 | e5m2 | i8 | i16 | f64 | s16 | s8 | s4 | s2 | addr | unwritten
  deriving DecidableEq, Repr

/-- ORD of XMOD (R44). -/
inductive Ord where
  | none | acq | rel | acqrel
  deriving DecidableEq, Repr

/-- Scopes (R44, R303); the fourth code is reserved. -/
inductive Scope where
  | cl | dv | sy
  deriving DecidableEq, Repr

/-- Rounding modes (R44, R193). -/
inductive Rnd where
  | rne | rtz | rdn | rup
  deriving DecidableEq, Repr

/-- The modifiers one XMOD prefix carries (R44). -/
structure XMod where
  weak : Bool := false
  ord : Ord := .none
  scope : Scope := .cl
  sat : Bool := false
  rnd : Rnd := .rne
  fovr : Bool := false
  deriving DecidableEq, Repr

/-- Comparison conditions of CMP and CMPI (R48). -/
inductive Cond where
  | eq | ne | lt | le | ltn | len | gt | ge
  deriving DecidableEq, Repr

/-- Conditions of VCMP (R222). -/
inductive VCond where
  | eq | ne | lt | le | gt | ge | un | ord
  deriving DecidableEq, Repr

/-- LEA's scales (R91). -/
inductive Scale where
  | x1 | x2 | x4 | x8 | x64
  deriving DecidableEq, Repr

/-- Spaces of the memory instructions (R50, R274). -/
inductive Space where
  | g | s | a | c
  deriving DecidableEq, Repr

/-- Sizes of scalar accesses (R50). -/
inductive Size where
  | b | h | w | d
  deriving DecidableEq, Repr

/-- Sizes of the zero-extending loads (R50). -/
inductive NSize where
  | b | h | w
  deriving DecidableEq, Repr

/-- VBCAST's element sizes (R226). -/
inductive BcSize where
  | w | d | h | b
  deriving DecidableEq, Repr

/-- The reductions VSCAN shares with VRED (R228, R229). -/
inductive ScanOp where
  | fadd | fmax | fmin | iadd | imax | imin
  deriving DecidableEq, Repr

/-- The lane reductions of VRED (R228). -/
inductive RedOp where
  | scan (o : ScanOp)
  | and | or | xor
  deriving DecidableEq, Repr

/-- The five sticky flags of fl (R161). -/
inductive Flag where
  | iv | dz | of | uf | nx
  deriving DecidableEq, Repr

/-- What VRED reduces: the lanes of a vector, or one flag of fl with no vector operand (R228). -/
inductive RedSrc where
  | lanes (o : RedOp) (a : Fin 256)
  | flag (f : Flag)
  deriving DecidableEq, Repr

/-- What VOTE counts: a predicate or one flag of fl (R238). -/
inductive VoteSrc where
  | pred (q : Fin 8)
  | flag (f : Flag)
  deriving DecidableEq, Repr

/-- VOTE's operations (R238). -/
inductive VoteOp where
  | any | all | cnt | mask
  deriving DecidableEq, Repr

/-- CVT's targets (R231). -/
inductive CvtTo where
  | i64 | i32 | f32 | bf16 | f16 | e4m3 | e5m2 | i8 | i16 | f64
  deriving DecidableEq, Repr

/-- VCVT's variants (R232). -/
inductive VcvtOp where
  | i32 | f32 | n32 | f32n | rint | f64 | f32d
  deriving DecidableEq, Repr

/-- Widths of described-block elements (R198). -/
inductive Blk where
  | s16 | s8 | s4 | s2
  deriving DecidableEq, Repr

/-- The narrow formats of VPACK and VUNPK with the part h of the register (R235). -/
inductive PackFmt where
  | bf16 (h : Fin 2)
  | f16 (h : Fin 2)
  | e4m3 (h : Fin 4)
  | e5m2 (h : Fin 4)
  deriving DecidableEq, Repr

/-- FLRD's choices (R236): one flag, or the OR of all. -/
inductive FlSel where
  | one (f : Flag)
  | any
  deriving DecidableEq, Repr

/-- Functions of the SFU (R241). -/
inductive Sfu where
  | sqrt | rcp | rsqrt | exp2 | log2 | sin | cos | tanh | sigm | gelu | erf
  deriving DecidableEq, Repr

/-- Sizes of a gang (R75). -/
inductive GangSize where
  | two | four | eight
  deriving DecidableEq, Repr

/-- MCONV's output formats (R255). -/
inductive McFmt where
  | f32 | bf16
  deriving DecidableEq, Repr

/-- Destination spaces of the copy and gather commands (R341). -/
inductive EDst where
  | g | s | a
  deriving DecidableEq, Repr

/-- Source spaces of the copy and scatter commands (R341). -/
inductive ESrc where
  | g | s | c
  deriving DecidableEq, Repr

/-- What XST stores (R311): 8 or 4 bytes of a scalar, or a vector register. -/
inductive XstSrc where
  | d (r : Opnd)
  | w (r : Opnd)
  | v (r : Fin 256)
  deriving DecidableEq, Repr

/-- Sizes of the atomics without a natural form (R312). -/
inductive ASize where
  | d | w
  deriving DecidableEq, Repr

/-- Sizes of AMIN and AMAX (R312). -/
inductive MSize where
  | d | w | n64 | n32
  deriving DecidableEq, Repr

/-- Spaces of the atomics (R312). -/
inductive ASpace where
  | g | s
  deriving DecidableEq, Repr

/-- TCALL's key forms (R111): TCALL.1 to TCALL.4 and TCALL.k. -/
inductive TForm where
  | n1 | n2 | n3 | n4 | k
  deriving DecidableEq, Repr

/-- PREF's variants (R410). -/
inductive PrefKind where
  | line | page
  deriving DecidableEq, Repr

/-! What the events carry. -/

/-- A global task identifier: context in bits 47 to 40, serial below (R71). -/
abbrev Gid := Nat

/-- Kinds of engine (R334). -/
inductive EngKind where
  | sequencer | copy | collective | loader | storer
  deriving DecidableEq, Repr

/-- One engine: its kind and its unit number, bits 11 to 0 of R172's UNIT field. -/
structure EngRef where
  kind : EngKind
  unit : Nat
  deriving DecidableEq, Repr

/-- The units that stop and report (R171, R172). -/
inductive UnitRef where
  | core (n : Nat)
  | matrix (cl : Nat)
  | eng (e : EngRef)
  | taskUnit (cl : Nat)
  deriving DecidableEq, Repr

/-- The blocks with power states (R421). -/
inductive Block where
  | core (n : Nat)
  | matrix (cl : Nat)
  | sfu (cl : Nat)
  | eng (e : EngRef)
  | slice (n : Nat)
  | endpoint (n : Nat)
  | port (p : Nat)
  deriving DecidableEq, Repr

/-- Storage an error strikes (R405, R468): the line that holds the bad bit; an image's by its physical address and whether a
register cache holds it. -/
inductive Storage where
  | hbm (pa : Nat)
  | scratch (core off : Nat)
  | shadow (core off : Nat)
  | act (core off : Nat)
  | acc (core off : Nat)
  | kaolin (cl addr : Nat)
  | image (g : Gid) (pa : Nat) (cached : Bool)
  | entry (idx : Nat)
  | log (pa : Nat)
  deriving DecidableEq, Repr

/-- Which trap a kernel decision settles: an entry of a partition's fault buffer (R288), or the one trap a task
parked on the kernel route holds outside it (TBL_EXHAUST, SYSC; R166). -/
inductive FaultRef where
  | entry (part idx : Nat)
  | task (g : Gid)
  deriving DecidableEq, Repr

/-- A launch record as the kernel, the loader and LPATCH write it (R346); the HW fields stand in the state. -/
structure LaunchRec where
  entry : Nat := 0
  lo : Nat := 0
  hi : Nat := 0
  shape : Nat := 0
  alloc : Nat := 0
  viewV : Nat := 0
  viewT : Nat := 0
  viewC : Nat := 0
  steal : Nat := 0
  token : Nat := 0
  flags : Nat := 0
  npred : Nat := 0
  rsv3e : Nat := 0
  args : List Word := []
  wpreset : Nat := 0
  rsv78 : Nat := 0
  tiles : List Nat := []
  succ : List Nat := []
  completion : Nat := 0
  rsvf8 : Nat := 0
  deriving DecidableEq, Repr

/-- A channel's task-table entry (R360), and the context it serves. -/
structure ChanEntry where
  ctx : Nat := 0
  entry : Nat := 0
  alloc : Nat := 8
  prio : Nat := 0
  blocked : Bool := false
  valid : Bool := false
  paged : Bool := false
  gen : Nat := 0
  viewV : Nat := 0
  viewT : Nat := 0
  viewC : Nat := 0
  modes : Nat := 0
  trapVec : Nat := 0
  deriving DecidableEq, Repr

/-- A member of a collective group (R435): the route of ports to its module and its context there. -/
structure Member where
  route : List Nat := []
  ctx : Nat := 0
  deriving DecidableEq, Repr

/-- An entry of a Rinair port's import table (R433): an arriving access within [base, limit) may read, write or perform an
atomic as the rights say, for a context. -/
structure Import where
  base : Nat := 0
  limit : Nat := 0
  r : Bool := false
  w : Bool := false
  a : Bool := false
  ctx : Nat := 0
  deriving DecidableEq, Repr

/-- Active energy of a record's tasks and commands in an interval (R355), in microjoules. -/
structure Charge where
  ctx : Nat
  rec_ : Nat
  active : Nat
  deriving DecidableEq, Repr

/-- A block's idle and leakage energy in an interval (R355), in microjoules; the contexts that held it, each with its occupied
cycles; and the slot-cycles that the tasks of each of their records occupied: context, record, slot-cycles. -/
structure BlockEnergy where
  uj : Nat
  cycles : List (Nat × Nat) := []
  slots : List (Nat × Nat × Nat) := []
  deriving DecidableEq, Repr

/-- A part of a register image (R150): a register by its key, with its tag; a predicate; the flags, by their five masks; an index
register. -/
inductive ImgPart where
  | reg (j : Nat) (v : Word) (t : Tag)
  | pred (n : Nat) (v : Mask)
  | flags (iv dz of uf nx : Mask)
  | index (n : Nat) (v : BitVec 16)
  deriving DecidableEq, Repr

/-- What the kernel pre-empts (R175): tasks, for another cluster where it names one (R66). -/
structure Preemption where
  tasks : List Gid
  cluster : Option Nat := none
  deriving DecidableEq, Repr

/-- What the kernel gives an answer table that grows (R130, R131): a new entry array of twice the sets, at a physical and a virtual
address; cells for the answer pool and the key pool, each where it says. -/
structure Growth where
  array : Option (Nat × Nat) := none
  ans : Nat := 0
  ansAt : Nat := 0
  keys : Nat := 0
  keysAt : Nat := 0
  deriving DecidableEq, Repr

/-- What the resident kernel or the loader writes to a context (R393): physical bytes (page tables, code and data
among them), launch records, channels, group entries, scratchpad bytes, a physical byte range made private, the records
it arms through the system port (R440), in order, the number of error records it has read (R447's TAIL) and of MSI-X
entries (R441), and entries of import tables (R433), by 64 × port + entry; and, at a resume, parts of the images of a halted
context's tasks and of their gangs' members, and their pcs (R154), and its SILT_CTL (R407). -/
structure KWork where
  mem : List (Nat × Byte) := []
  recs : List (Nat × LaunchRec) := []
  chans : List (Nat × Nat × ChanEntry) := []
  groups : List (Nat × List Member) := []
  scratch : List (Nat × Nat × Byte) := []
  guards : List (Nat × Nat) := []
  arms : List Nat := []
  errRead : Nat := 0
  msiRead : Nat := 0
  imports : List (Nat × Import) := []
  regs : List (Gid × Nat × ImgPart) := []
  pcs : List (Gid × Word) := []
  siltCtl : Option Nat := none
  deriving DecidableEq, Repr

/-- What the kernel chooses when it creates a context (R79, R113, R394, R444, R467): its partition, with the clusters and
stacks where it fences the partition anew, roots and regions with their sizes, and the first loader writes. -/
structure CtxInit where
  ctx : Nat := 0
  part : Nat := 0
  fence : Option (List Nat × List Nat) := none
  isSealed : Bool := false
  root : Nat := 0
  silt : Nat := 0
  siltSize : Nat := 0x400000000
  siltCtl : Nat := 0x180010
  loam : Nat := 0
  loamVa : Nat := 0
  nsets : Nat := 0x100000
  ansCells : Nat := 0x2000000
  keyCells : Nat := 0x400000
  keepFailed : Bool := false
  pool : Nat := 0
  stop : Nat := 0
  stopCap : Nat := 0
  dbgArea : Nat := 0
  ownerHash : Nat := 0
  images : Nat := 0
  frames : Nat := 0x1000
  work : KWork := {}
  deriving DecidableEq, Repr

/-- Levels of a debug session (R428). -/
inductive DbgLevel where
  | d0 | d1 | d2
  deriving DecidableEq, Repr

/-- What kamdb asks for (R387, R392, R393, R411, R412, R417, R418, R430). -/
inductive DbgOp where
  | halt
  | resume
  | setBreak (i addr task : Nat) (en : Bool)
  | setStep (g : Gid) (ctl : Nat)
  | setWatch (g : Gid) (addr mask ctl : Nat)
  | readTask (g : Gid)
  | counters (g : Gid)
  | editReg (g : Gid) (member : Nat) (p : ImgPart)
  | editMem (pa : Nat) (b : Byte)
  | siltLevel (full : Bool)
  | reset
  deriving DecidableEq, Repr

/-- Lifecycle states of the module (R425). -/
inductive Lifecycle where
  | blank | provisioned | locked | rma
  deriving DecidableEq, Repr

/-- An atomic that a peer sends (R433, 16 R313); `nat` reads natural numbers, and `cas` carries the value it expects. -/
inductive PeerOp where
  | add | and | or | xor | xchg
  | min (nat : Bool)
  | max (nat : Bool)
  | cas (was : Word)
  deriving DecidableEq, Repr

/-- What a peer's access asks of the module (R433): a load, a store of bytes, or an atomic of n bytes with its operand. -/
inductive PeerAcc where
  | load (n : Nat)
  | store (bs : List Byte)
  | atomic (op : PeerOp) (n : Nat) (v : Word)
  deriving DecidableEq, Repr

/-- One row of a link-grid dump (R420): FLITS and STALL of one virtual channel of one endpoint. -/
abbrev LinkCount := Nat × Nat

end Sys2Proof
end

