-- ==== Sys2Proof/Machine/Tab.lean ====
section
/-! DEFINITION. Sparse tables: finite maps from numbers to plain data, in one canonical form. Registers, predicates,
memory and the tables of the part are held in them, so that equal contents are equal data. -/

namespace Sys2Proof.Machine

/-- A sparse table: keys strictly rising, and no entry equal to what an unlisted key reads as. -/
abbrev Tab (α : Type) := List (Nat × α)

/-- The value a table holds under key i; d is what an unlisted key reads as. -/
def Tab.look {α : Type} (d : α) : Tab α → Nat → α
  | [], _ => d
  | (k, v) :: r, i => if i = k then v else Tab.look d r i

/-- The table with v under key i, at its place in the order. -/
def Tab.ins {α : Type} : Tab α → Nat → α → Tab α
  | [], i, v => [(i, v)]
  | (k, w) :: r, i, v =>
    if i < k then (i, v) :: (k, w) :: r else if i = k then (i, v) :: r else (k, w) :: Tab.ins r i v

/-- The table with v under key i. Writing d removes the entry. -/
def Tab.put {α : Type} [DecidableEq α] (d : α) (t : Tab α) (i : Nat) (v : α) : Tab α :=
  if v = d then t.filter fun p => p.1 != i else Tab.ins t i v

/-- The canonical form, with every key at least lo. -/
def Tab.wfFrom {α : Type} [DecidableEq α] (d : α) : Nat → Tab α → Bool
  | _, [] => true
  | lo, (k, v) :: r => decide (lo ≤ k) && decide (v ≠ d) && Tab.wfFrom d (k + 1) r

/-- The canonical form of a table. -/
def Tab.wf {α : Type} [DecidableEq α] (d : α) (t : Tab α) : Bool := Tab.wfFrom d 0 t

theorem Tab.look_ins {α : Type} (d : α) :
    ∀ (t : Tab α) (i j : Nat) (v : α), Tab.look d (Tab.ins t i v) j = if j = i then v else Tab.look d t j
  | [], i, j, v => by simp [Tab.ins, Tab.look]
  | (k, w) :: r, i, j, v => by
    have ih := Tab.look_ins d r i j v
    unfold Tab.ins
    by_cases h3 : j = i
    · subst h3
      rw [if_pos rfl] at ih ⊢
      split_ifs with h1 h2
      · simp [Tab.look]
      · simp [Tab.look]
      · simp [Tab.look, h2, ih]
    · rw [if_neg h3] at ih ⊢
      split_ifs with h1 h2
      · simp [Tab.look, h3]
      · subst h2; simp [Tab.look, h3]
      · simp [Tab.look, ih]

theorem Tab.look_drop {α : Type} (d : α) :
    ∀ (t : Tab α) (i j : Nat), Tab.look d (t.filter fun p => p.1 != i) j = if j = i then d else Tab.look d t j
  | [], i, j => by simp [Tab.look]
  | (k, w) :: r, i, j => by
    have ih := Tab.look_drop d r i j
    by_cases hk : k = i
    · subst hk
      by_cases hj : j = k
      · subst hj; simpa using ih
      · simp [ih, hj, Tab.look]
    · have hb : (k != i) = true := by simp [hk]
      rw [List.filter_cons, if_pos (by exact hb)]
      by_cases hj : j = i
      · subst hj
        have : ¬ j = k := fun e => hk e.symm
        simp [Tab.look, this, ih]
      · simp [Tab.look, ih, hj]

/-- A read after a write. -/
@[simp] theorem Tab.look_put {α : Type} [DecidableEq α] (d : α) (t : Tab α) (i j : Nat) (v : α) :
    Tab.look d (Tab.put d t i v) j = if j = i then v else Tab.look d t j := by
  unfold Tab.put
  split_ifs with h1 h2 h2
  · rw [Tab.look_drop, if_pos h2, h1]
  · rw [Tab.look_drop, if_neg h2]
  · rw [Tab.look_ins, if_pos h2]
  · rw [Tab.look_ins, if_neg h2]

theorem Tab.wfFrom_mono {α : Type} [DecidableEq α] (d : α) :
    ∀ (t : Tab α) (a b : Nat), a ≤ b → Tab.wfFrom d b t = true → Tab.wfFrom d a t = true
  | [], _, _, _, _ => rfl
  | (k, v) :: r, a, b, hab, h => by
    simp only [Tab.wfFrom, Bool.and_eq_true, decide_eq_true_eq] at h ⊢
    exact ⟨⟨by omega, h.1.2⟩, h.2⟩

theorem Tab.wfFrom_ins {α : Type} [DecidableEq α] (d : α) :
    ∀ (t : Tab α) (lo i : Nat) (v : α), v ≠ d → lo ≤ i → Tab.wfFrom d lo t = true → Tab.wfFrom d lo (Tab.ins t i v) = true
  | [], lo, i, v, hv, hi, _ => by simp [Tab.ins, Tab.wfFrom, hv, hi]
  | (k, w) :: r, lo, i, v, hv, hi, h => by
    simp only [Tab.wfFrom, Bool.and_eq_true, decide_eq_true_eq] at h
    unfold Tab.ins
    split_ifs with h1 h2
    · simp only [Tab.wfFrom, Bool.and_eq_true, decide_eq_true_eq]
      exact ⟨⟨hi, hv⟩, ⟨by omega, h.1.2⟩, h.2⟩
    · subst h2
      simp only [Tab.wfFrom, Bool.and_eq_true, decide_eq_true_eq]
      exact ⟨⟨hi, hv⟩, h.2⟩
    · simp only [Tab.wfFrom, Bool.and_eq_true, decide_eq_true_eq]
      exact ⟨h.1, Tab.wfFrom_ins d r (k + 1) i v hv (by omega) h.2⟩

/-- Entries taken out keep the canonical form. -/
theorem Tab.wfFrom_filter {α : Type} [DecidableEq α] (d : α) (p : Nat × α → Bool) :
    ∀ (t : Tab α) (lo : Nat), Tab.wfFrom d lo t = true → Tab.wfFrom d lo (t.filter p) = true
  | [], _, _ => rfl
  | (k, w) :: r, lo, h => by
    simp only [Tab.wfFrom, Bool.and_eq_true, decide_eq_true_eq] at h
    have ih := Tab.wfFrom_filter d p r (k + 1) h.2
    rw [List.filter_cons]
    split
    · simp only [Tab.wfFrom, Bool.and_eq_true, decide_eq_true_eq]
      exact ⟨h.1, ih⟩
    · exact Tab.wfFrom_mono d _ lo (k + 1) (by omega) ih

/-- A write keeps the canonical form. -/
theorem Tab.wf_put {α : Type} [DecidableEq α] (d : α) (t : Tab α) (i : Nat) (v : α) (h : Tab.wf d t = true) :
    Tab.wf d (Tab.put d t i v) = true := by
  unfold Tab.put
  split_ifs with h1
  · exact Tab.wfFrom_filter d _ t 0 h
  · exact Tab.wfFrom_ins d t 0 i v h1 (Nat.zero_le i) h

/-- The keys a table lists. -/
def Tab.keys {α : Type} (t : Tab α) : List Nat := t.map Prod.fst

/-- The table with f applied under key i. -/
def Tab.upd {α : Type} [DecidableEq α] (d : α) (t : Tab α) (i : Nat) (f : α → α) : Tab α :=
  Tab.put d t i (f (Tab.look d t i))

end Sys2Proof.Machine
end

