-- ==== Sys2Proof/Machine/TaskState.lean ====
section
/-! DEFINITION. What a task carries (04 R66): its register image (08 R150), its control registers (09 R183), its
place in its launch, its cursors, its open region (20 R363), its gang's follower images (04 R76) and its wait. -/

namespace Sys2Proof.Machine

/-- A mark of a reconciling region (21 R368): the symbol slot and whether the sense is negative. -/
structure Mark where
  slot : Nat
  neg : Bool
  deriving DecidableEq, Repr

/-- One register: its 64 bits, its tag (R159) and, in an open region, its mark (R368). -/
structure RCell where
  val : Word := 0
  tag : Tag := .unwritten
  mark : Option Mark := none
  deriving DecidableEq, Repr

/-- What a register reads as that nothing has written: zero, unwritten (R151). -/
def RCell.fresh : RCell := {}

/-- The five sticky flags, one bit a lane (R161). -/
structure Flags where
  iv : Mask := 0
  dz : Mask := 0
  of : Mask := 0
  uf : Mask := 0
  nx : Mask := 0
  deriving DecidableEq, Repr

/-- The part of a register image that a member of a gang holds for itself (R76, R158). Register keys: 0 lt, 1 to 7
a1 to a7, 8 + j the slot wj; a follower uses its vector view's slots alone. Predicate keys: 1 to 7. -/
structure Image where
  regs : Tab RCell := []
  p : Tab Mask := []
  fl : Flags := {}
  deriving DecidableEq, Repr

/-- TRAP_CODE (R168). -/
structure TrapCode where
  inH : Bool := false
  member : BitVec 3 := 0
  code : BitVec 8 := 0
  deriving DecidableEq, Repr

/-- A view over the main file (R156): how many registers, and the first one's slot. -/
structure View where
  count : BitVec 6 := 0
  base : BitVec 8 := 0
  deriving DecidableEq, Repr

/-- The control registers a task holds (R183), each as wide as its field map. CTX_ID, TASK_GID, THREAD_ID and WORK_ID
stand beside them in the task; CYCLE, ENERGY_UJ, SILT_CTL, SILT_WIN and the windows stand outside it. -/
structure Ctl where
  widShape : BitVec 36 := 0
  alloc : BitVec 9 := 0
  viewV : View := {}
  viewT : View := {}
  viewC : View := {}
  fmtMode : BitVec 1 := 0
  fpMode : BitVec 3 := 0
  flgEn : BitVec 9 := 0
  fpSup : BitVec 12 := 0
  trapPc : BitVec 52 := 0
  trapCode : TrapCode := {}
  trapAddr : Word := 0
  trapVec : BitVec 52 := 0
  stepCtl : Word := 0
  wpAddr : BitVec 52 := 0
  wpMask : Word := 0
  wpCtl : BitVec 6 := 0
  deriving DecidableEq, Repr

/-- A key of a symbol slot or a store record: the byte key of the memory store (15 R274), the size in bytes. -/
structure RKey where
  key : Nat
  size : Nat
  deriving DecidableEq, Repr

/-- A symbol slot (R369): its key, whether the load zero-extends, the value it delivered, whether it is pinned. -/
structure SymSlot where
  at_ : RKey
  zext : Bool
  observed : Word
  pinned : Bool := false
  deriving DecidableEq, Repr

/-- A constraint (R364, R374): the marked operand's mark, whether it stands on the right, the condition, both values,
and the outcome. -/
structure Constraint where
  mark : Mark
  swapped : Bool
  cond : Cond
  x : Word
  y : Word
  outcome : Bool
  deriving DecidableEq, Repr

/-- A store record (R364, R374): key, the virtual address it was made at, the value and its mark, and the core whose
window is checked at the commit when the store is remote (R373). -/
structure RStore where
  at_ : RKey
  va : Word
  val : Word
  mark : Option Mark
  remote : Option Nat
  deriving DecidableEq, Repr

/-- What ABEGIN keeps for an abort (R363). -/
structure Saved where
  img : Image
  x : Tab (BitVec 16)
  fol : List Image
  ctl : Ctl
  deriving DecidableEq, Repr

/-- An open reconciling region (20, 21). -/
structure Region where
  fail : Word
  saved : Saved
  slots : List SymSlot := []
  cons : List Constraint := []
  pins : Nat := 0
  stores : List RStore := []
  shadow : List Nat := []
  deriving DecidableEq, Repr

/-- ASTAT's status (R385); OPEN is whether a region is open. -/
structure RStatus where
  insns : Nat := 0
  cons : Nat := 0
  stores : Nat := 0
  slots : Nat := 0
  cause : Nat := 0
  adj : Bool := false
  ok : Bool := false
  deriving DecidableEq, Repr

/-- The kinds of task (R67). -/
inductive Kind where
  | graph | range | message | producer
  deriving DecidableEq, Repr

/-- What an unbounded wait waits for (R64, R65). -/
inductive Wait where
  /-- LDFE (0), LDFF (1) or STFE (2) on a scratchpad word, R310: core, offset, destination or none, the value to store,
  place in the order of arrival, whether the owner holds the request (else it is a wake note, R65), and the scope of an
  acquire it carries. -/
  | word (op core off : Nat) (d : Opnd) (v : Word) (seq : Nat) (held : Bool) (acq : Option Scope)
  /-- BWAIT for a residue (R318). -/
  | barrier (core off : Nat) (k : Nat) (d : Opnd) (seq : Nat) (held : Bool)
  /-- GBAR after its credit (R319). -/
  | gbar (core off : Nat) (k : Nat) (d : Opnd) (seq : Nat) (held : Bool)
  /-- Room in the Silt log (23 R401). -/
  | silt
  | answer (entry : Nat)
  | suspend (producer : Gid)
  | gang (n : Nat)
  /-- An entry of a fault buffer, or 4096 while the buffer is full, with the trap's code and TRAP_ADDR (15 R288). -/
  | fault (part idx code : Nat) (addr : Word)
  | sysc (k : Nat)
  | tbl (addr : Word)
  deriving DecidableEq, Repr

/-- Why a thread is in a bounded park (R64). -/
inductive Park where
  | mem | sfu | matrix | command | order | commit | tlb | root (port : Nat) (va : Word) | held (port : Nat)
  /-- The accesses of several members of a gang (16 R308), until every one is answered. -/
  | members (n : Nat)
  /-- A free entry among the cluster's tracked transfers (15 R292). -/
  | transfer
  /-- Register lines (08 R152); code lines (03 R58). -/
  | line | code
  /-- MWAIT on tile q (13 R265) for the commands queued before a place in the order of requests. -/
  | mwait (q upTo : Nat)
  /-- WMARK until its marker is taken (23 R409), with its destination. -/
  | marker (d : Opnd)
  deriving DecidableEq, Repr

/-- A message on its way to a channel's owner (R360, R210): MSEND with its words, TBLK, TUNBLK, or an event message;
how often it was answered RETRY. DESIGN CHOICE, log entry 54. -/
structure Sending where
  op : Nat
  handle : Word
  words : List Word
  retries : Nat := 0
  backoff : Bool := false
  deriving DecidableEq, Repr

/-- What the SFU owes a parked SFN or SFNV (12 R240): the leader's and the followers' images with the results and the flags, and
the event message that follows it (11 R210). A halt or a pre-emption discards it, and the instruction is reissued whole.
DEDUCED, log entry 19. -/
structure Owed where
  img : Image
  fol : List Image
  msg : Option Sending := none
  deriving DecidableEq, Repr

/-- Where a task stands between its creation and its end (R63 to R67, R84). -/
inductive Phase where
  | ready
  | parked (why : Park)
  | sending (m : Sending)
  | waiting (w : Wait)
  | ended
  deriving DecidableEq, Repr

/-- What the stop record of a task will say that a trap of its own, a breakpoint or a step has stopped (R148, 24 R413, R414):
CAUSE, CODE, ADDR and PC. -/
structure StopCause where
  cause : Nat
  code : Nat
  addr : Word
  pc : Word
  deriving DecidableEq, Repr

/-- A cursor over an entry's answers (06 R117, R118). -/
structure Cursor where
  entry : Nat
  pos : Nat
  gen : Nat
  creation : Nat
  deriving DecidableEq, Repr

/-- Where a task stands with the task unit (19 R361): its seat, its queue and its binding. -/
structure TaskSched where
  /-- Core and slot of the seat (R66). -/
  seat : Option (Nat × Nat) := none
  cluster : Nat := 0
  /-- The core it is bound to (19 R361, 09 R176). -/
  bound : Option Nat := none
  /-- The core that holds its register lines (19 R361), and when it became a continuation. -/
  lines : Option Nat := none
  contAt : Nat := 0
  prio : Nat := 0
  basePrio : Nat := 0
  queuedAt : Nat := 0
  queueNo : Nat := 0
  /-- It waited behind the gates of its record when it was last looked at (19 R356). -/
  gated : Bool := false
  /-- The first cycle in which it may issue: no slot issues twice in one cycle, and a park ends a cycle before (R61, R63). -/
  readyFrom : Nat := 0
  migrates : Bool := false
  /-- Gang size it must re-form with when seated again, 0 for none (R78). -/
  regang : Nat := 0
  /-- ISSUED, PARKED and SEATED (24 R418). -/
  issued : Nat := 0
  parkedCycles : Nat := 0
  seated : Nat := 0
  deriving DecidableEq, Repr

/-- What a task keeps about halts, breakpoints and watches. -/
structure TaskHalt where
  /-- Its own trap, breakpoint or step that raised a halt, until its stop record is written (R148). -/
  stop : Option StopCause := none
  /-- It has stopped for a halt and issues nothing until the context resumes (R171, R174). -/
  halted : Bool := false
  /-- Instructions issued since the halt line was raised (09 R171). -/
  skid : Nat := 0
  /-- The halt's striker issues nothing more (22 R390). -/
  struck : Bool := false
  /-- The next execution is not checked against the breakpoint or the watchpoint (24 R413, 22 R389). -/
  passBreak : Bool := false
  /-- A stepped instruction has completed, and its halt is due (24 R414). -/
  stepDue : Bool := false
  passWatch : Bool := false
  /-- The physical block WP_ADDR translated to when the watch was armed (22 R388). -/
  wpPhys : Option Nat := none
  /-- It leaves its slot as soon as what it has in flight is answered (09 R175), for a cluster that the kernel names (R66). -/
  leave : Bool := false
  sendTo : Option Nat := none
  deriving DecidableEq, Repr

/-- A task (R66). -/
structure Task extends TaskSched, TaskHalt where
  gid : Gid := 0
  kind : Kind := .graph
  /-- The launch record it belongs to (19 R351). -/
  rec_ : Option Nat := none
  img : Image := {}
  x : Tab (BitVec 16) := []
  fol : List Image := []
  ctl : Ctl := {}
  pc : Word := 0
  /-- The model's latch of next_pc (05), the address after the instruction that issues. -/
  npc : Word := 0
  /-- WORK_ID (R73), the remaining interval and its seal (R70, 14 R271). -/
  workId : Word := 0
  lo : Nat := 0
  hi : Nat := 0
  isSealed : Bool := false
  /-- Cursors 0 to 31 and the generation the next one takes (06 R117, R118). -/
  curs : Tab (Option Cursor) := []
  curGen : Nat := 1
  /-- The entry it produces and the caller it must resume (02 R24, 06 R117, R126). -/
  produces : Option Nat := none
  /-- The creation number of that entry, which tells it from a later one of the same way (06 R115, R129). -/
  prodNo : Nat := 0
  caller : Option Gid := none
  region : Option Region := none
  rstat : RStatus := {}
  phase : Phase := .ready
  /-- What the SFU owes it (12 R240). -/
  owed : Option Owed := none
  /-- The epoch a GBAR that was withdrawn after its credit still awaits: core, offset, residue (16 R319). -/
  gbarE : Option (Nat × Nat × Nat) := none
  /-- A weak store of it that the owner's window refused (15 R278), by its address: the trap comes before its next instruction.
  DESIGN CHOICE, log entry 76. -/
  nack : Option Word := none
  /-- The number of its image among its context's, and the lines of it that an instruction has written, the others being fresh
  (08 R150, R151). -/
  frame : Nat := 0
  written : List Nat := []
  /-- The read outside the module it is parked on has been answered (25 R434, R441). -/
  answered : Bool := false
  /-- Places in the order of requests of its last acquire at each scope: a later weak load reuses no request made before
  it (16 R303). -/
  acqCl : Nat := 0
  acqDv : Nat := 0
  acqSy : Nat := 0
  deriving DecidableEq, Repr

end Sys2Proof.Machine
end

