-- ==== Sys2Proof/Machine/ChipState.lean ====
section
/-! DEFINITION. What the chip holds beside its tasks: weak accesses in flight, translations, faults, windows (15, 16),
the Silt log (23), the answer table (06), the launch pool (19), channels (19), stop records (07, 09, 22). -/

namespace Sys2Proof.Machine

/-! ### Accesses and translation -/

/-- Where an access is performed, as far as releases order it (16 R303): the issuing core's cluster, another cluster
of the module, the module's HBM, a Rinair peer, root-port space, device space. -/
inductive Home where
  | cluster (cl : Nat)
  | hbm
  | peer (port : Nat)
  | root (port : Nat)
  | dev
  deriving DecidableEq, Repr

/-- A place in the memory store: the first byte's key, the virtual or scratchpad address it was named by, the home,
SPACE's code of 23 R395, and the page's IRREV and ENG attributes (15 R284). -/
structure Loc where
  key : Nat
  va : Word
  home : Home
  space : Nat
  irrev : Bool := false
  eng : Bool := false
  /-- The core another core's scratchpad belongs to, when the access is remote (R186). -/
  remote : Option Nat := none
  deriving DecidableEq, Repr

/-- A weak store on its way to its home (16 R302): an access of n bytes, of which it writes some. DEDUCED, log entry 4. -/
structure WStore where
  gid : Gid
  core : Nat
  rec_ : Option Nat
  loc : Loc
  n : Nat
  bytes : List (Nat × Byte)
  deriving DecidableEq, Repr

/-- A weak load's request in flight, with which another weak load of the cluster may merge (16 R302): the line and the
bytes it took, when it was made, and the bytes at which a task's later access must not reuse it (R321): the task, the first key,
how many. DEDUCED, log entry 4. -/
structure MReq where
  gid : Gid
  cluster : Nat
  line : Nat
  bytes : List Byte
  home : Home
  seq : Nat
  barred : List (Gid × Nat × Nat)
  deriving DecidableEq, Repr

/-- A line of a register image that a core's register cache holds (08 R152, R153): the task, the member of its gang, the line's
number in the image, and whether it was written since it was fetched or allocated. -/
structure RLine where
  gid : Gid
  member : Nat
  line : Nat
  dirty : Bool := false
  deriving DecidableEq, Repr

/-- A translation held in a TLB (15 R287): context, first virtual and physical address, size, and the leaf's bits 7 to 2. -/
structure TlbEnt where
  ctx : Nat
  va : Nat
  pa : Nat
  size : Nat
  attr : Nat
  deriving DecidableEq, Repr

/-- An entry of a fault buffer (15 R288), with its wait list. -/
structure FaultEnt where
  va : Nat
  ctx : Nat
  access : Nat
  cause : Nat
  waiters : Nat
  task : Gid
  time : Nat
  tasks : List Gid := []
  engs : List EngRef := []
  deriving DecidableEq, Repr

/-- A scratchpad window (15 R277): bits 16 to 3 of BASE and LIM, and the rights X, W, R. -/
structure Window where
  base : BitVec 14 := 0
  lim : BitVec 14 := 0
  rights : BitVec 3 := 0
  deriving DecidableEq, Repr

/-- The clusters and stacks of a partition (04 R79). -/
structure Part where
  clusters : List Nat := []
  hbmStacks : List Nat := []
  /-- Cores fenced out of every partition (26 R448). -/
  fenced : List Nat := []
  deriving DecidableEq, Repr

/-- A byte that a store replaced, with its place in the order of requests (03 R60). -/
structure CodeOld where
  ctx : Nat
  key : Nat
  old : Byte
  seq : Nat
  deriving DecidableEq, Repr

/-! ### The answer table (06) -/

/-- States of an entry (R115). -/
inductive EState where
  | free | eval | complete | failed
  deriving DecidableEq, Repr

/-- An entry of the answer table (R115). A key of form .k holds its length first. An answer is seven words. -/
structure Entry where
  state : EState := .free
  form : Nat := 0
  code : Nat := 0
  pins : Nat := 0
  hash : Word := 0
  callee : Word := 0
  key : List Word := []
  creation : Nat := 0
  leader : Nat := 0
  producer : Gid := 0
  /-- The producer is DONE (R123); otherwise it is PARKED or RUN as its task stands. -/
  pdone : Bool := false
  answers : List (List Word) := []
  /-- The cells of its answers and of its key, in order, by their indices in the pools. -/
  ansCells : List Nat := []
  keyCells : List Nat := []
  lru : Nat := 0
  deriving DecidableEq, Repr

/-- The rehash in progress (R131): the old array's first set that has not moved, and where that array lies. -/
structure Moving where
  set : Nat
  base : Nat
  va : Nat
  deriving DecidableEq, Repr

/-- A context's answer table (R113): the entries by their index, those of an array that a rehash is emptying after the others;
the free cells of the pools; where the array lies, and the extents of the pools, each with its base and its cells. -/
structure Loam where
  nsets : Nat := 0
  entries : Tab Entry := []
  ansFree : Nat := 0
  keyFree : Nat := 0
  creations : Nat := 0
  clock : Nat := 0
  keepFailed : Bool := false
  /-- A launch boundary has come that the kernel has not handled: the creation numbers of the entries that it finds FAILED and
  without pins (R128). -/
  boundary : Option (List Nat) := none
  base : Nat := 0
  /-- The virtual address of the array (R130). -/
  va : Nat := 0
  ansExt : List (Nat × Nat) := []
  keyExt : List (Nat × Nat) := []
  moving : Option Moving := none
  deriving DecidableEq, Repr

/-! ### The launch pool (19) -/

/-- STATE of a record (R346). -/
inductive RState where
  | idle | armed | running | retired
  deriving DecidableEq, Repr

/-- A launch record with its HW fields (R346), what its completion record reports (R354), and its place in the launch
order when it was armed and started. -/
structure PoolRec where
  r : LaunchRec := {}
  energy : Nat := 0
  /-- The part of ENERGY that is a share of idle and leakage energy (R355). -/
  sharedUj : Nat := 0
  state : RState := .idle
  earlyOn : Bool := false
  pending : Nat := 0
  live : Nat := 0
  armedAt : Nat := 0
  armer : Gid := 0
  created : Nat := 0
  reached : List Nat := []
  armedNo : Nat := 0
  startNo : Nat := 0
  deriving DecidableEq, Repr

/-- A channel with its queue of messages: the words and the sender (R360). -/
structure Chan where
  e : ChanEntry := {}
  queue : List (List Word × Word) := []
  deriving DecidableEq, Repr

/-- A completion record (R354). -/
structure DoneRec where
  status : Nat
  ctx : Nat
  sink : Nat
  armedAt : Nat
  retiredAt : Nat
  tasks : Nat
  activeUj : Nat
  sharedUj : Nat
  armer : Gid
  addr : Nat
  deriving DecidableEq, Repr

/-! ### The Silt log (23) -/

/-- KIND of a record (R395). -/
inductive SKind where
  | write | group | table | launch | swap | marker | module | external
  deriving DecidableEq, Repr

/-- What a record keeps to undo its write (R395): old bytes with old full/empty bits; an old table entry, with the other places
at which a rehash may have put what stands in its way (06 R131); an old launch record; the members of a group are records of
their own and share its number. -/
inductive SOld where
  | none
  | bytes (l : List Byte) (fe : List Bool)
  | entry (i : Nat) (e : Entry) (also : List Nat)
  | launch (r : Nat) (p : LaunchRec)
  | swap (core : Nat)
  deriving DecidableEq, Repr

/-- A record of the log (R395): the first byte's key in the memory store, or a mark's target; `raw` holds the old bytes of a line
of the table region or of the launch pool. -/
structure SRec where
  seq : Nat
  kind : SKind
  key : Nat := 0
  space : Nat := 0
  window : Nat := 0
  party : Nat := 0
  gid : Gid := 0
  old : SOld := .none
  raw : List Byte := []
  deriving DecidableEq, Repr

/-! ### Stop records -/

/-- A record of a stop area: a core's task record (07 R148), another unit's (09 R172), a watch record (22 R391), an
overflow record (R172). DESIGN CHOICE, log entry 46. -/
inductive StopRec where
  | core (cause code core slot ctx : Nat) (task : Gid) (pc addr : Word) (time : Nat) (work : Word)
      (window alloc state image : Nat)
  | unit (kind cause code unit ctx : Nat) (task : Gid) (op addr : Nat) (time : Nat) (progress : Nat)
      (window pending state save : Nat)
  | watch (imprecise : Bool) (striker size ctx : Nat) (watcher task : Gid) (addr : Word) (time : Nat) (old : Word)
      (window skid seq : Nat)
  | overflow (ctx time lost : Nat)
  deriving DecidableEq, Repr

end Sys2Proof.Machine
end

