-- ==== Sys2Proof/Machine/EngineState.lean ====
section
/-! DEFINITION. What the matrix unit and Kaolin (13), the engines (18), the streams (15 R293 to R295) and the collectives
(25 R435 to R439) hold. -/

namespace Sys2Proof.Machine

/-! ### The matrix unit (13 R245) -/

/-- The residues of one tile element modulo 65535, 65536 and 65537 (11 R202). -/
structure Res where
  r1 : Nat := 0
  r2 : Nat := 0
  r3 : Nat := 0
  deriving DecidableEq, Repr

/-- A residue tile (R246, R266). `e0` and `bound` (R204) stand as at their place in queue order. `lastQ` and `waited` are
the places, in the order of requests, of the last command queued on it and of the last MWAIT on it. -/
structure MTile where
  holder : Option Gid := none
  lastCtx : Option Nat := none
  els : Tab Res := []
  e0 : Int := 0
  bound : Nat := 0
  metaBad : Bool := false
  cvt : Bool := false
  boundHit : Bool := false
  shift : Bool := false
  uf : Bool := false
  of : Bool := false
  nx : Bool := false
  ops : Nat := 0
  lastQ : Nat := 0
  waited : Nat := 0
  deriving DecidableEq, Repr

/-- A format byte and a scale byte (11 R198). -/
abbrev Hdr := Byte × Byte

/-- A schedule in a core's queue (R267, R268): the table, the barrier's offset, the next entry's number, what its header
gave once read, and FP_MODE at issue. -/
structure Sched where
  table : Nat
  bar : Nat
  next : Nat := 0
  count : Nat := 0
  credit : Nat := 0
  started : Bool := false
  rnd : Rnd := .rne
  flush : Bool := false
  deriving DecidableEq, Repr

/-- A command in a core's queue (R250). MZERO takes no entry but a place. MOP and MOPS carry the headers latched at
enqueue (R253). -/
inductive MCmd where
  | mop (sparse : Bool) (q a slot : Nat) (w : Blk) (ha hb : List Hdr)
  | mconv (q a : Nat) (f : McFmt) (ac : Bool) (rnd : Rnd) (flush : Bool)
  | mzero (q : Nat) (e : Int)
  | msched (s : Sched)
  deriving DecidableEq, Repr

/-- A queued command: its task, record and issuing instruction, when it reached the unit, whether a schedule's entry issued it,
and the columns a conversion has written (R258). -/
structure QEnt where
  gid : Gid
  rec_ : Option Nat
  op : Nat
  reach : Nat
  bySched : Bool
  cmd : MCmd
  cols : Nat := 0
  deriving DecidableEq, Repr

/-- The operation on the arrays: the core, the command, the A payload latched in the feed and the popped metadata. -/
structure MRun where
  core : Nat
  ent : QEnt
  adata : List Byte
  metas : List Nat
  deriving DecidableEq, Repr

/-- A core's row buffer (R245, R252): the command it is fed for, and the 64-byte blocks of its A tile read so far. -/
structure RowBuf where
  ent : QEnt
  blocks : Tab (List Byte) := []
  deriving DecidableEq, Repr

/-- The state of a Kaolin slot (R247). -/
inductive KState where
  | empty | loading | ready
  deriving DecidableEq, Repr

/-- A Kaolin slot's state and owner. -/
structure KSlot where
  state : KState := .empty
  owner : Nat := 0
  deriving DecidableEq, Repr

/-- A matrix unit. Queues, row buffers and metadata queues are keyed by the core's index in the cluster, weights by
256 × index + context. -/
structure Matrix where
  queues : Tab (List QEnt) := []
  rows : Tab (Option RowBuf) := []
  tiles : Tab MTile := []
  slots : Tab KSlot := []
  metaq : Tab (List Nat) := []
  weights : Tab Nat := []
  visit : Nat := 0
  used : Nat := 0
  run : Option MRun := none
  stalledAt : Option Nat := none
  /-- Tile operations finished for each context, for a stop record's PROGRESS (R258). -/
  finished : Tab Nat := []
  /-- Contexts for which the unit has stopped (R171). -/
  stopped : List Nat := []
  deriving DecidableEq, Repr

/-! ### Engines (18) -/

/-- A requester merged into a command (R338). -/
structure Req where
  core : Nat
  serial : Nat
  gid : Gid
  rec_ : Option Nat
  deriving DecidableEq, Repr

/-- A command (R335): its four words, who issued it, and its ticket's serial. A command written to SHADOW has the store's
address as its operation's address. -/
structure ECmd where
  hdr : Word := 0
  dst : Word := 0
  src : Word := 0
  len : Word := 0
  ctx : Nat := 0
  core : Nat := 0
  serial : Nat := 0
  gid : Gid := 0
  rec_ : Option Nat := none
  op : Nat := 0
  /-- A LOADB entry of a schedule handed it over (13 R268): no ticket names it. -/
  bySched : Bool := false
  /-- Requesters merged into it (R338). -/
  merged : List Req := []
  deriving DecidableEq, Repr

/-- Why an operation faults (R340): the error code of 26 R449, ADDR where it has one, and DETAIL. -/
structure EFail where
  code : Nat
  addr : Option Nat := none
  detail : Nat := 0
  deriving DecidableEq, Repr

/-- A word that an engine has read and not yet written (R339): its offset in the operation, the address it goes to, its bytes. -/
structure EWord where
  off : Nat
  dst : Word
  bytes : List Byte
  deriving DecidableEq, Repr

/-- An operation of an engine (R339): its command, its bitmap, the chunk it has begun with the offset of the next word to read,
and the words it has read and not written. -/
structure EOp where
  cmd : ECmd
  bitmap : BitVec 64
  part : Option (Nat × Nat) := none
  held : List EWord := []
  /-- The page it waits for, with the fault's cause (R340, 15 R288). -/
  waiting : Option (Nat × Nat) := none
  failed : Option EFail := none
  /-- It has written outside the module or to an irreversible page (23 R402). -/
  ext : Bool := false
  /-- When a Kaolin load reached the matrix unit (13 R247), and whether its slot is READY. -/
  reach : Option Nat := none
  isReady : Bool := false
  /-- How many of its requesters' barriers it has credited at its end (R338, 22 R390). -/
  credits : Nat := 0
  deriving DecidableEq, Repr

/-- A mailbox (R334). -/
structure Mailbox where
  count : Nat := 0
  status : Nat := 0
  ticket : Nat := 0
  deriving DecidableEq, Repr

/-- A stream's descriptor as it was read (15 R293). -/
structure StreamDesc where
  store : Bool
  addr : Nat
  stride : Int
  count : Nat
  tile : Nat
  ringBase : Nat
  ringSize : Nat
  barrier : Nat
  done : Nat
  check : Bool
  deriving DecidableEq, Repr

/-- A stream at a loader or a storer (15 R293, R294): its descriptor and command, the next tile, the largest DONE seen, the
counters; the ring blocks read since their tile arrived, the slots whose tile has been demanded, and those whose next
tile has; the bytes of the next tile read so far, and the words read and not written. -/
structure Stream extends StreamDesc where
  cmd : ECmd
  k : Nat := 0
  seen : Nat := 0
  pushed : Nat := 0
  used : Nat := 0
  timely : Nat := 0
  demanded : Nat := 0
  readBlocks : List Nat := []
  dem : List Nat := []
  early : List Nat := []
  moved : Nat := 0
  held : List EWord := []
  waiting : Option (Nat × Nat) := none
  failed : Option EFail := none
  /-- No write-back of its counters is due for the stop or the fault in progress, and one that is waits for a page (R295). -/
  counted : Bool := false
  counting : Bool := false
  ext : Bool := false
  deriving DecidableEq, Repr

/-- An engine: active set, shadow set, commands behind it, the operations of halted contexts it has saved (09 R172),
SHADOW registers (keyed 4 × context + word), mailboxes, the tickets and bitmaps of the last 64 operations of each context
that have ended (R343), streams, and the contexts for which it has stopped (09 R171). -/
structure Engine where
  active : Option EOp := none
  shadow : Option ECmd := none
  pend : List ECmd := []
  saved : List EOp := []
  regs : Tab Word := []
  mail : Tab Mailbox := []
  finished : Tab (List (List Nat × BitVec 64)) := []
  streams : List Stream := []
  stopped : List Nat := []
  deriving DecidableEq, Repr

/-- A command held at a cluster's combining node (R338): the engine, the command, when it arrived. -/
structure HeldCmd where
  eng : EngRef
  cmd : ECmd
  since : Nat
  deriving DecidableEq, Repr

/-! ### Collectives (25 R435 to R439) -/

/-- A collective's descriptor as it was read (25 R436), with this member's rank and the members' number. -/
structure CollDesc where
  op : Nat
  type : Nat
  red : Nat
  root : Nat
  group : Nat
  src : Nat
  dst : Nat
  count : Nat
  tag : Nat
  rank : Nat
  n : Nat
  deriving DecidableEq, Repr

/-- A collective in progress at a die's engine: whether it has started, the elements it has performed, the flags it has
raised, and whether HOLD flits have been sent for it (25 R438). -/
structure Coll extends CollDesc where
  cmd : ECmd
  started : Bool := false
  step : Nat := 0
  flags : Nat := 0
  held : Bool := false
  waiting : Option (Nat × Nat) := none
  failed : Option EFail := none
  aborted : Bool := false
  deriving DecidableEq, Repr

end Sys2Proof.Machine
end

