-- ==== Sys2Proof/Syntax.lean ====
section
/-! DEFINITION. The steps of the part: one constructor for each row of the opcode table, the 180 encoded instructions
first and the 96 events after them, in the order of the table. `m` is the XMOD prefix, `g` the governing predicate. -/

namespace Sys2Proof

/-- The steps of the part (opcode table). -/
inductive Instr where
  /-- Integer add (R89). -/
  | add (m : Option XMod) (d : Opnd) (a : Opnd) (b : Opnd)
  /-- Integer subtract (R89). -/
  | sub (m : Option XMod) (d : Opnd) (a : Opnd) (b : Opnd)
  /-- Bitwise AND (R89). -/
  | and (m : Option XMod) (d : Opnd) (a : Opnd) (b : Opnd)
  /-- Bitwise OR (R89). -/
  | or (m : Option XMod) (d : Opnd) (a : Opnd) (b : Opnd)
  /-- Bitwise XOR (R89). -/
  | xor (m : Option XMod) (d : Opnd) (a : Opnd) (b : Opnd)
  /-- Shift left (R89). -/
  | shl (m : Option XMod) (d : Opnd) (a : Opnd) (b : Opnd)
  /-- Logical shift right (R89). -/
  | shr (m : Option XMod) (d : Opnd) (a : Opnd) (b : Opnd)
  /-- Arithmetic shift right (R89). -/
  | sar (m : Option XMod) (d : Opnd) (a : Opnd) (b : Opnd)
  /-- Low product (R89). -/
  | mul (m : Option XMod) (d : Opnd) (a : Opnd) (b : Opnd)
  /-- High signed product (R89). -/
  | mulh (m : Option XMod) (d : Opnd) (a : Opnd) (b : Opnd)
  /-- High natural product (R89). -/
  | mulhn (m : Option XMod) (d : Opnd) (a : Opnd) (b : Opnd)
  /-- Signed minimum (R89). -/
  | min (m : Option XMod) (d : Opnd) (a : Opnd) (b : Opnd)
  /-- Signed maximum (R89). -/
  | max (m : Option XMod) (d : Opnd) (a : Opnd) (b : Opnd)
  /-- Natural minimum (R89). -/
  | minn (m : Option XMod) (d : Opnd) (a : Opnd) (b : Opnd)
  /-- Natural maximum (R89). -/
  | maxn (m : Option XMod) (d : Opnd) (a : Opnd) (b : Opnd)
  /-- a and not b (R89). -/
  | andn (m : Option XMod) (d : Opnd) (a : Opnd) (b : Opnd)
  /-- Signed division (R90). -/
  | div (m : Option XMod) (d : Opnd) (a : Opnd) (b : Opnd)
  /-- Natural division (R90). -/
  | divn (m : Option XMod) (d : Opnd) (a : Opnd) (b : Opnd)
  /-- Signed remainder (R90). -/
  | rem (m : Option XMod) (d : Opnd) (a : Opnd) (b : Opnd)
  /-- Natural remainder (R90). -/
  | remn (m : Option XMod) (d : Opnd) (a : Opnd) (b : Opnd)
  /-- Address arithmetic (R91). -/
  | lea (m : Option XMod) (sc : Scale) (d : Opnd) (a : Opnd) (b : Opnd)
  /-- Bit-field extract (R92). -/
  | bfx (m : Option XMod) (d : Opnd) (a : Opnd) (b : Opnd)
  /-- Bit-field insert (R92). -/
  | bfi (m : Option XMod) (d : Opnd) (a : Opnd) (b : Opnd) (c : Opnd)
  /-- Select (R93). -/
  | sel (m : Option XMod) (d : Opnd) (a : Opnd) (b : Opnd) (c : Opnd)
  /-- Add a signed immediate (R94). -/
  | addi (m : Option XMod) (d : Opnd) (a : Opnd) (imm : Int)
  /-- Load a signed immediate (R95). -/
  | movi (d : Opnd) (imm : Int)
  /-- Move with the tag (R96). -/
  | mov (m : Option XMod) (d : Opnd) (a : Opnd)
  /-- Complement (R96). -/
  | not (m : Option XMod) (d : Opnd) (a : Opnd)
  /-- Negate (R96). -/
  | neg (m : Option XMod) (d : Opnd) (a : Opnd)
  /-- Absolute value (R96). -/
  | abs (m : Option XMod) (d : Opnd) (a : Opnd)
  /-- Leading zeros (R96). -/
  | clz (m : Option XMod) (d : Opnd) (a : Opnd)
  /-- Trailing zeros (R96). -/
  | ctz (m : Option XMod) (d : Opnd) (a : Opnd)
  /-- Population count (R96). -/
  | popc (m : Option XMod) (d : Opnd) (a : Opnd)
  /-- Bit reversal (R96). -/
  | brev (m : Option XMod) (d : Opnd) (a : Opnd)
  /-- Sign-extend a byte (R96). -/
  | sextB (m : Option XMod) (d : Opnd) (a : Opnd)
  /-- Sign-extend 16 bits (R96). -/
  | sextH (m : Option XMod) (d : Opnd) (a : Opnd)
  /-- Sign-extend 32 bits (R96). -/
  | sextW (m : Option XMod) (d : Opnd) (a : Opnd)
  /-- Zero-extend a byte (R96). -/
  | zextB (m : Option XMod) (d : Opnd) (a : Opnd)
  /-- Zero-extend 16 bits (R96). -/
  | zextH (m : Option XMod) (d : Opnd) (a : Opnd)
  /-- Zero-extend 32 bits (R96). -/
  | zextW (m : Option XMod) (d : Opnd) (a : Opnd)
  /-- Field n of the work identifier (R74, R98). -/
  | wid (d : Opnd) (n : Fin 6)
  /-- Shift left by an immediate (R97). -/
  | shli (m : Option XMod) (d : Opnd) (a : Opnd) (k : Nat)
  /-- Logical shift right by an immediate (R97). -/
  | shri (m : Option XMod) (d : Opnd) (a : Opnd) (k : Nat)
  /-- Arithmetic shift right by an immediate (R97). -/
  | sari (m : Option XMod) (d : Opnd) (a : Opnd) (k : Nat)
  /-- AND with a signed immediate (R97). -/
  | andi (m : Option XMod) (d : Opnd) (a : Opnd) (imm : Int)
  /-- Compare registers into a predicate (R99). -/
  | cmp (m : Option XMod) (c : Cond) (p : Fin 8) (a : Opnd) (b : Opnd)
  /-- Compare with an immediate (R99, R40). -/
  | cmpi (m : Option XMod) (c : Cond) (p : Fin 8) (a : Opnd) (imm : Int)
  /-- Branch when lane 0 of p is 1 (R100). -/
  | bc (p : Fin 8) (off : Int)
  /-- Branch when lane 0 of p is 0 (R100). -/
  | bcN (p : Fin 8) (off : Int)
  /-- Branch (R101). -/
  | br (off : Int)
  /-- Call (R101). -/
  | call (off : Int)
  /-- Changes the program counter alone (R105). -/
  | nop
  /-- Branch to a register (R102). -/
  | bri (a : Opnd)
  /-- Call through a register (R102). -/
  | calli (a : Opnd)
  /-- Return through w0 (R102). -/
  | ret
  /-- Decrement and branch (R104). -/
  | loop (m : Option XMod) (a : Opnd) (off : Int)
  /-- Give up the slot (R106). -/
  | yield
  /-- End the task (R107). -/
  | exit
  /-- Sign-extending load (R304). -/
  | ld (m : Option XMod) (t : Tag) (z : Size) (sp : Space) (d : Opnd) (a : Opnd)
  /-- Zero-extending load (R304). -/
  | ldN (m : Option XMod) (t : Tag) (z : NSize) (sp : Space) (d : Opnd) (a : Opnd)
  /-- Store (R304). -/
  | st (m : Option XMod) (z : Size) (sp : Space) (d : Opnd) (a : Opnd)
  /-- Vector load (R305). -/
  | ldv (m : Option XMod) (g : Fin 8) (t : Tag) (sp : Space) (d : Fin 256) (a : Opnd)
  /-- Vector store (R305). -/
  | stv (m : Option XMod) (g : Fin 8) (sp : Space) (d : Fin 256) (a : Opnd)
  /-- Read the slot x + k (R162). -/
  | ldx (m : Option XMod) (d : Opnd) (x : Fin 4) (k : Nat)
  /-- Write the slot x + k (R162). -/
  | stx (m : Option XMod) (d : Opnd) (x : Fin 4) (k : Nat)
  /-- Set an index register (R163). -/
  | xset (x : Fin 4) (k : Nat)
  /-- Add to an index register (R163). -/
  | xadd (x : Fin 4) (k : Int)
  /-- Floating add (R219). -/
  | vadd (m : Option XMod) (g : Fin 8) (d : Fin 256) (a : Fin 256) (b : Opnd)
  /-- Floating subtract (R219). -/
  | vsub (m : Option XMod) (g : Fin 8) (d : Fin 256) (a : Fin 256) (b : Opnd)
  /-- Floating multiply (R219). -/
  | vmul (m : Option XMod) (g : Fin 8) (d : Fin 256) (a : Fin 256) (b : Opnd)
  /-- a b + d, fused (R219). -/
  | vfma (m : Option XMod) (g : Fin 8) (d : Fin 256) (a : Fin 256) (b : Opnd)
  /-- a b - d, fused (R219). -/
  | vfms (m : Option XMod) (g : Fin 8) (d : Fin 256) (a : Fin 256) (b : Opnd)
  /-- -(a b) + d, fused (R219). -/
  | vfnma (m : Option XMod) (g : Fin 8) (d : Fin 256) (a : Fin 256) (b : Opnd)
  /-- Floating minimum (R219). -/
  | vmin (m : Option XMod) (g : Fin 8) (d : Fin 256) (a : Fin 256) (b : Opnd)
  /-- Floating maximum (R219). -/
  | vmax (m : Option XMod) (g : Fin 8) (d : Fin 256) (a : Fin 256) (b : Opnd)
  /-- Clear sign bits (R220). -/
  | vabs (m : Option XMod) (g : Fin 8) (d : Fin 256) (a : Fin 256)
  /-- Invert sign bits (R220). -/
  | vneg (m : Option XMod) (g : Fin 8) (d : Fin 256) (a : Fin 256)
  /-- BF16 dot products (R221). -/
  | vdot2 (m : Option XMod) (g : Fin 8) (d : Fin 256) (a : Fin 256) (b : Opnd)
  /-- FP8 dot products (R221). -/
  | vdot4 (m : Option XMod) (g : Fin 8) (d : Fin 256) (a : Fin 256) (b : Opnd)
  /-- Floating compare (R222). -/
  | vcmp (m : Option XMod) (g : Fin 8) (c : VCond) (p : Fin 8) (a : Fin 256) (b : Fin 256)
  /-- Select lanes or zero (R223). -/
  | vsel (m : Option XMod) (g : Fin 8) (d : Fin 256) (a : Fin 256) (q : Fin 8)
  /-- Classify (R224). -/
  | vclass (m : Option XMod) (g : Fin 8) (d : Fin 256) (a : Fin 256)
  /-- Move lanes (R223). -/
  | vmov (m : Option XMod) (g : Fin 8) (d : Fin 256) (a : Fin 256)
  /-- Integer lanes add (R225). -/
  | viadd (m : Option XMod) (g : Fin 8) (d : Fin 256) (a : Fin 256) (b : Opnd)
  /-- Integer lanes subtract (R225). -/
  | visub (m : Option XMod) (g : Fin 8) (d : Fin 256) (a : Fin 256) (b : Opnd)
  /-- Integer lanes multiply (R225). -/
  | vimul (m : Option XMod) (g : Fin 8) (d : Fin 256) (a : Fin 256) (b : Opnd)
  /-- Lanes AND (R225). -/
  | vand (m : Option XMod) (g : Fin 8) (d : Fin 256) (a : Fin 256) (b : Opnd)
  /-- Lanes OR (R225). -/
  | vor (m : Option XMod) (g : Fin 8) (d : Fin 256) (a : Fin 256) (b : Opnd)
  /-- Lanes XOR (R225). -/
  | vxor (m : Option XMod) (g : Fin 8) (d : Fin 256) (a : Fin 256) (b : Opnd)
  /-- Lanes shift left (R225). -/
  | vshl (m : Option XMod) (g : Fin 8) (d : Fin 256) (a : Fin 256) (b : Opnd)
  /-- Lanes shift right, arithmetic when ar (R225). -/
  | vshr (m : Option XMod) (g : Fin 8) (ar : Bool) (d : Fin 256) (a : Fin 256) (b : Opnd)
  /-- Broadcast a scalar (R226). -/
  | vbcast (m : Option XMod) (g : Fin 8) (z : BcSize) (d : Fin 256) (a : Opnd)
  /-- Gang-wide shuffle (R227). -/
  | vshuf (m : Option XMod) (d : Fin 256) (a : Fin 256) (b : Fin 256)
  /-- Byte permute within a member (R227). -/
  | vperm (m : Option XMod) (d : Fin 256) (a : Fin 256) (b : Fin 256)
  /-- Reduce into a scalar (R228). -/
  | vred (m : Option XMod) (g : Fin 8) (d : Opnd) (src : RedSrc)
  /-- Scan (R229). -/
  | vscan (m : Option XMod) (g : Fin 8) (o : ScanOp) (d : Fin 256) (a : Fin 256)
  /-- Insert a lane (R230). -/
  | vins (m : Option XMod) (g : Fin 8) (d : Fin 256) (a : Opnd) (b : Opnd)
  /-- Extract a lane (R230). -/
  | vext (m : Option XMod) (d : Opnd) (a : Fin 256) (b : Opnd)
  /-- Lane numbers (R230). -/
  | vlanei (g : Fin 8) (d : Fin 256)
  /-- Scalar conversion (R231). -/
  | cvt (m : Option XMod) (t : CvtTo) (d : Opnd) (a : Opnd)
  /-- Lane conversion (R232). -/
  | vcvt (m : Option XMod) (g : Fin 8) (o : VcvtOp) (d : Fin 256) (a : Fin 256)
  /-- Pack a described block (R233). -/
  | blkpk (m : Option XMod) (w : Blk) (nat : Bool) (d : Fin 256) (a : Fin 256)
  /-- Unpack a described block, to BF16 when bf (R234). -/
  | blkup (m : Option XMod) (bf : Bool) (d : Fin 256) (a : Fin 256)
  /-- Narrow lanes (R235). -/
  | vpack (m : Option XMod) (g : Fin 8) (t : PackFmt) (d : Fin 256) (a : Fin 256)
  /-- Widen elements (R235). -/
  | vunpk (m : Option XMod) (g : Fin 8) (t : PackFmt) (d : Fin 256) (a : Fin 256)
  /-- Relabel (R164). -/
  | tagset (m : Option XMod) (g : Fin 8) (t : Tag) (d : Opnd) (a : Opnd)
  /-- Read a tag (R164). -/
  | tagget (m : Option XMod) (g : Fin 8) (d : Opnd) (a : Opnd)
  /-- Read flags into a predicate (R236). -/
  | flrd (g : Fin 8) (f : FlSel) (p : Fin 8)
  /-- Clear flags (R237). -/
  | flclr (g : Fin 8) (f : Option Flag)
  /-- Vote (R238). -/
  | vote (g : Fin 8) (o : VoteOp) (d : Opnd) (src : VoteSrc)
  /-- Exchange FLG_EN (R239). -/
  | flen (m : Option XMod) (d : Opnd) (a : Opnd)
  /-- Scalar special function (R240). -/
  | sfn (m : Option XMod) (f : Sfu) (d : Opnd) (a : Opnd)
  /-- Vector special function (R240). -/
  | sfnv (m : Option XMod) (g : Fin 8) (f : Sfu) (d : Fin 256) (a : Fin 256)
  /-- Form a gang (R243). -/
  | gang (n : GangSize)
  /-- Disband the gang (R244). -/
  | disband
  /-- Tile operation (R262). -/
  | mop (m : Option XMod) (ta : Blk) (tb : Blk) (q : Fin 2) (a : Opnd) (b : Opnd)
  /-- Sparse tile operation (R262). -/
  | mops (m : Option XMod) (ta : Blk) (tb : Blk) (q : Fin 2) (a : Opnd) (b : Opnd)
  /-- Convert a tile, adding to the old value when ac (R263). -/
  | mconv (m : Option XMod) (f : McFmt) (ac : Bool) (q : Fin 2) (a : Opnd)
  /-- Wait for a tile (R265). -/
  | mwait (q : Fin 2)
  /-- Tile status (R266). -/
  | mstat (d : Opnd) (q : Fin 2)
  /-- Run a schedule (R267). -/
  | msched (m : Option XMod) (a : Opnd) (b : Opnd)
  /-- Zero a tile (R261). -/
  | mzero (q : Fin 2) (e : Int)
  /-- Set the queue weight (R264). -/
  | mqw (k : Nat)
  /-- Send a raw command (R341). -/
  | ecmd (m : Option XMod) (a : Opnd)
  /-- Copy command (R341). -/
  | ecpy (m : Option XMod) (ds : EDst) (ss : ESrc) (d : Opnd) (a : Opnd) (b : Opnd) (c : Opnd)
  /-- Gather command (R341). -/
  | egath (m : Option XMod) (ds : EDst) (d : Opnd) (a : Opnd) (b : Opnd) (c : Opnd)
  /-- Scatter command (R341). -/
  | escat (m : Option XMod) (ss : ESrc) (d : Opnd) (a : Opnd) (b : Opnd) (c : Opnd)
  /-- Install a stream (R341). -/
  | esub (m : Option XMod) (a : Opnd) (b : Opnd)
  /-- Collective command (R341). -/
  | ecoll (m : Option XMod) (a : Opnd) (b : Opnd)
  /-- Completion bitmap of a ticket (R343). -/
  | ebmp (m : Option XMod) (d : Opnd) (a : Opnd)
  /-- Load a Kaolin slot (R341). -/
  | mloadb (m : Option XMod) (d : Opnd) (a : Opnd) (b : Opnd)
  /-- Wait full, read, leave empty (R309). -/
  | ldfe (m : Option XMod) (d : Opnd) (a : Opnd)
  /-- Wait full, read (R309). -/
  | ldff (m : Option XMod) (d : Opnd) (a : Opnd)
  /-- Wait empty, write, leave full (R309). -/
  | stfe (m : Option XMod) (d : Opnd) (a : Opnd)
  /-- Mark full (R309). -/
  | feset (m : Option XMod) (a : Opnd)
  /-- Mark empty (R309). -/
  | feclr (m : Option XMod) (a : Opnd)
  /-- Exchange store (R311). -/
  | xst (m : Option XMod) (a : Opnd) (src : XstSrc)
  /-- Atomic exchange (R313). -/
  | axchg (m : Option XMod) (z : ASize) (sp : ASpace) (d : Opnd) (a : Opnd) (b : Opnd)
  /-- Atomic compare and swap (R313). -/
  | acas (m : Option XMod) (z : ASize) (sp : ASpace) (d : Opnd) (a : Opnd) (b : Opnd) (c : Opnd)
  /-- Atomic add (R313). -/
  | aadd (m : Option XMod) (z : ASize) (sp : ASpace) (d : Opnd) (a : Opnd) (b : Opnd)
  /-- Atomic AND (R313). -/
  | aand (m : Option XMod) (z : ASize) (sp : ASpace) (d : Opnd) (a : Opnd) (b : Opnd)
  /-- Atomic OR (R313). -/
  | aor (m : Option XMod) (z : ASize) (sp : ASpace) (d : Opnd) (a : Opnd) (b : Opnd)
  /-- Atomic XOR (R313). -/
  | axor (m : Option XMod) (z : ASize) (sp : ASpace) (d : Opnd) (a : Opnd) (b : Opnd)
  /-- Atomic minimum (R313). -/
  | amin (m : Option XMod) (z : MSize) (sp : ASpace) (d : Opnd) (a : Opnd) (b : Opnd)
  /-- Atomic maximum (R313). -/
  | amax (m : Option XMod) (z : MSize) (sp : ASpace) (d : Opnd) (a : Opnd) (b : Opnd)
  /-- Release, acquire or both (R314). -/
  | fence (m : Option XMod)
  /-- Wait for the predecessors' writes (R272, R315). -/
  | pvis
  /-- Initialise a barrier object (R316). -/
  | binit (m : Option XMod) (a : Opnd) (b : Opnd)
  /-- Credit a barrier object (R317). -/
  | barr (m : Option XMod) (a : Opnd) (b : Opnd)
  /-- Wait on a barrier object; k is the variant (R318). -/
  | bwait (m : Option XMod) (k : Fin 16) (d : Opnd) (a : Opnd)
  /-- Group barrier with bank swap (R319). -/
  | gbar (m : Option XMod) (d : Opnd) (a : Opnd)
  /-- Arm a launch record (R349). -/
  | larm (m : Option XMod) (a : Opnd)
  /-- Seal the interval (R271). -/
  | learly
  /-- Next index (R70). -/
  | rnext (d : Opnd)
  /-- Send a message (R360). -/
  | msend (m : Option XMod) (a : Opnd)
  /-- Block a channel (R360). -/
  | tblk (m : Option XMod) (a : Opnd)
  /-- Unblock a channel (R360). -/
  | tunblk (m : Option XMod) (a : Opnd)
  /-- Split the interval (R359). -/
  | spawn (m : Option XMod) (d : Opnd) (a : Opnd) (b : Opnd)
  /-- Patch a launch record (R362). -/
  | lpatch (m : Option XMod) (d : Opnd) (a : Opnd) (k : Nat)
  /-- Next answer of the cursor a7 into seven slots from d (R138). -/
  | tans (m : Option XMod) (d : Opnd)
  /-- Append an answer from seven slots at a (R139). -/
  | tret (m : Option XMod) (a : Opnd)
  /-- Producer done (R140). -/
  | tdone
  /-- Fail the group (R141). -/
  | tfail (m : Option XMod) (a : Opnd)
  /-- Release the cursor a7 (R143). -/
  | trel (m : Option XMod)
  /-- Tabled call (R137). -/
  | tcall (m : Option XMod) (f : TForm) (off : Int)
  /-- Read about the entry (R142). -/
  | tinfo (m : Option XMod) (d : Opnd) (k : Nat)
  /-- Commit the region (R365, R383). -/
  | acommit
  /-- Region status (R385). -/
  | astat (d : Opnd)
  /-- Open a region (R382). -/
  | abegin (off : Int)
  /-- Abort the region (R384). -/
  | aabort (k : Nat)
  /-- Return from a trap handler (R179). -/
  | rfe
  /-- Request a window marker (R409). -/
  | wmark (d : Opnd)
  /-- Prefetch hint (R410). -/
  | pref (m : Option XMod) (k : PrefKind) (a : Opnd)
  /-- Drop translations; all of the context's without an operand (R182). -/
  | tlbinv (m : Option XMod) (a : Option Opnd)
  /-- Raise the halt line (R181). -/
  | halt
  /-- Raise trap 0x13 (R178). -/
  | trap (k : Nat)
  /-- System call (R178). -/
  | sysc (k : Nat)
  /-- Read a control register (R180). -/
  | crr (d : Opnd) (k : Nat)
  /-- Write a control register (R180). -/
  | crw (m : Option XMod) (a : Opnd) (k : Nat)
  /-- Breakpoint instruction (R416). -/
  | brk (k : Nat)
  /-- The kernel resolves a trap; every waiter replays (R169). -/
  | faultResolved (r : FaultRef) (w : KWork)
  /-- The kernel refuses a trap (R288). -/
  | faultRefused (r : FaultRef)
  /-- The kernel serves a system call (R178). -/
  | syscServe (g : Gid) (r1 : Word) (r2 : Word) (rl : Word)
  /-- A bounded park ends (R63). -/
  | parkResolved (g : Gid)
  /-- The n-th waiting weak store is performed at its home (R320). -/
  | accessPerformed (n : Nat)
  /-- The task unit fills a slot of a core (R361). -/
  | taskSeat (core : Nat)
  /-- A ready task rises a level (R80). -/
  | taskAging (g : Gid)
  /-- A continuation becomes eligible elsewhere (R361). -/
  | continuationMigrate (g : Gid)
  /-- An idle slot steals (R358). -/
  | steal (core : Nat) (slot : Nat)
  /-- A gang forms (R75). -/
  | gangForm (g : Gid)
  /-- A record starts early (R353). -/
  | earlyStart (ctx : Nat) (r : Nat)
  /-- A record retires (R270). -/
  | recordRetire (ctx : Nat) (r : Nat)
  /-- FAILED entries are cleared (R128). -/
  | tableClearFailed (ctx : Nat)
  /-- The table grows (R131). -/
  | tableGrow (ctx : Nat) (dbl : Option (Nat × Nat)) (ans keys : Nat × Nat)
  /-- The message of a parked sender reaches its owner (R360). -/
  | messageArrival (g : Gid)
  /-- A sender's backoff expires (R360). -/
  | msendRetryTimer (g : Gid)
  /-- The arbiter starts a tile operation (R251). -/
  | tileOpStart (cl : Nat)
  /-- The running tile operation is final (R252). -/
  | tileOpFinal (cl : Nat)
  /-- A conversion finishes (R263). -/
  | mconvComplete (cl : Nat) (core : Nat)
  /-- A metadata stall times out (R257). -/
  | metadataStallTimeout (cl : Nat)
  /-- The next schedule entry runs (R268). -/
  | scheduleEntry (cl : Nat) (core : Nat)
  /-- A schedule ends (R268). -/
  | scheduleEnd (cl : Nat) (core : Nat)
  /-- A Kaolin load reaches the unit and writes (R247). -/
  | kaolinLoad (cl : Nat)
  /-- A Kaolin load ends (R247). -/
  | kaolinLoadComplete (cl : Nat)
  /-- SHADOW is submitted (R337). -/
  | kick (e : EngRef) (ctx : Nat) (core : Nat) (g : Gid)
  /-- A store to SHADOW (R334). -/
  | registerWrite (e : EngRef) (ctx : Nat) (off : Nat) (bs : List Byte)
  /-- The node forwards its n-th held command (R338). -/
  | commandForward (cl : Nat) (n : Nat)
  /-- An engine takes its next command (R337). -/
  | engineOperationStart (e : EngRef)
  /-- Chunk k is written and acknowledged (R339). -/
  | chunkComplete (e : EngRef) (k : Nat)
  /-- An operation ends (R339). -/
  | engineOperationEnd (e : EngRef)
  /-- The running operation faults (R340). -/
  | engineFault (e : EngRef)
  /-- One metadata entry is pushed (R335). -/
  | metadataPush (cl : Nat)
  /-- Stream n loads its next tile (R294). -/
  | streamTileLoad (e : EngRef) (n : Nat)
  /-- Stream n stores its next tile (R294). -/
  | streamTileStore (e : EngRef) (n : Nat)
  /-- Stream n ends (R295). -/
  | streamEnd (e : EngRef) (n : Nat)
  /-- A commit is decided (R373). -/
  | commitAtHome (g : Gid)
  /-- A die's n-th collective performs its next element with its peers' contributions in rank order (R437). -/
  | collectiveStep (die : Nat) (n : Nat) (bs : List Byte)
  /-- HOLD flits (R438). -/
  | collectiveHold (die : Nat) (ctx : Nat)
  /-- RESUME flits (R438). -/
  | collectiveResume (die : Nat) (ctx : Nat)
  /-- A collective aborts (R439). -/
  | memberAbort (die : Nat) (ctx : Nat) (g : Nat)
  /-- A dump is made, or ends early (R451). -/
  | dump (ctx : Nat) (bad : Option (Nat × Nat))
  /-- A block wakes (R421). -/
  | powerWake (b : Block)
  /-- The halt line is raised by the kernel, or by a debugger (R170). -/
  | haltLine (ctx : Nat) (dbg : Bool)
  /-- A unit stops (R171). -/
  | unitStop (u : UnitRef) (ctx : Nat)
  /-- The halt is complete (R171). -/
  | haltComplete (ctx : Nat)
  /-- The kernel resumes a context (R174). -/
  | contextResume (ctx : Nat) (w : KWork)
  /-- The kernel pre-empts tasks (R175). -/
  | preempt (gs : Preemption)
  /-- Another context is seated (R175). -/
  | contextSwitch (ctx : Nat) (nxt : Nat)
  /-- A watch is struck by another party (R390). -/
  | watchStrike (w : Gid) (striker : Nat) (who : Gid) (addr : Nat) (n : Nat) (old : Word) (seq : Nat)
  /-- A stepped instruction has completed (R414). -/
  | step (g : Gid)
  /-- A marker is taken (R399). -/
  | windowMarker (ctx : Nat) (cause : Nat)
  /-- The store-count threshold is met (R398). -/
  | siltThreshold (ctx : Nat)
  /-- The oldest window is dropped (R401). -/
  | siltShed (ctx : Nat)
  /-- Writers wait for room (R401). -/
  | siltStall (ctx : Nat)
  /-- Undo n writes (R403). -/
  | rstep (ctx : Nat) (n : Nat)
  /-- Re-apply n writes (R392, R404). -/
  | rfwd (ctx : Nat) (n : Nat)
  /-- Rewind to a window (R404). -/
  | rwin (ctx : Nat) (n : Nat)
  /-- An uncorrectable soft error (R405). -/
  | uncorrData (ctx : Nat) (st : Storage) (syn : Word)
  /-- A corrected error (R449). -/
  | correctedMemoryError (unit : Nat) (addr : Nat) (syn : Word)
  /-- A checkpoint starts (R406). -/
  | checkpoint (ctx : Nat)
  /-- A checkpoint ends (R406). -/
  | checkpointCopyEnd (ctx : Nat)
  /-- A link-grid dump (R419). -/
  | linkGridDump (rows : List LinkCount) (uj : Nat) (room : Bool)
  /-- Idle energy is divided (R355). -/
  | energyInterval (active : List Charge) (blocks : List BlockEnergy)
  /-- A block dozes (R421). -/
  | powerDoze (b : Block)
  /-- A block retains (R421). -/
  | powerRetain (b : Block)
  /-- A block turns off (R422). -/
  | powerOff (b : Block)
  /-- A block fails to wake (R449). -/
  | wakeTimeout (b : Block)
  /-- Clock stretching begins or ends (R424). -/
  | clockStretch (b : Block) (on : Bool) (temp : Nat)
  /-- The module trips (R424). -/
  | thermalTrip (unit : Nat) (temp : Nat)
  /-- A supply fails (R449). -/
  | supplyFault (rail : Nat)
  /-- The security block signs a report (R426). -/
  | attestation (ctx : Nat) (nonce : Nat)
  /-- A session asks for a level (R428). -/
  | debugGrant (ses : Nat) (lv : DbgLevel) (ctx : Nat) (token : Nat)
  /-- A debug operation is settled (R430). -/
  | debugRequest (ses : Nat) (ctx : Nat) (op : DbgOp) (blk : Block)
  /-- The lifecycle moves forward (R425). -/
  | lifecycleTransition (dst : Lifecycle) (token : Nat) (release : Nat)
  /-- A flit is discarded and resent (R431). -/
  | rinairFlitError (p : Nat)
  /-- A port is declared down (R431). -/
  | portDown (p : Nat)
  /-- A peer's access arrives (R433). -/
  | remoteAccessArrival (p : Nat) (pa : Nat) (acc : PeerAcc)
  /-- A device interrupt (R441). -/
  | msiXInterrupt (vec : Nat)
  /-- A device writes memory, in the page of the context its I/O page table names (R441). -/
  | dmaWrite (port : Nat) (pa : Nat) (bs : List Byte) (ctx : Option Nat)
  /-- A root-port read times out (R441). -/
  | completionTimeout (g : Gid)
  /-- A device is removed (R441). -/
  | surpriseRemoval (port : Nat)
  /-- The module boots; fail is the step whose verification fails, 0 for none (R442). -/
  | powerOnReset (fail : Nat)
  /-- The kernel is lost (R443). -/
  | watchdogExpiry (panic : Bool)
  /-- An entry is checked after a warm reboot, with the digest found in it (R445). -/
  | registryReadopt (ctx : Nat) (found : Nat)
  /-- The kernel ends a context (R448). -/
  | killContext (ctx : Nat)
  /-- The kernel creates a context (R113). -/
  | contextCreate (ci : CtxInit)
  /-- A Shale flit is resent (R449). -/
  | shaleFlitError (ep : Nat) (vc : Nat)
  /-- A Shale endpoint fails (R449). -/
  | shaleEndpointFailure (ep : Nat)
  /-- Kernel memory fails (R449). -/
  | kernelMemoryError (pa : Nat) (syn : Word)
  /-- A block is fenced (R448). -/
  | offlineBlock (b : Block)
  /-- A port retrains (R431). -/
  | portRetrain (p : Nat)
  /-- A port comes up (R431). -/
  | portUp (p : Nat) (keyOk : Bool)
  /-- A device is inserted (R441). -/
  | hotPlug (port : Nat)
  /-- An AER error (R441). -/
  | aerError (port : Nat) (uncorr : Bool) (status : Word)
  /-- A context is restored (R427). -/
  | checkpointRestore (ci : CtxInit) (mac : Nat)
  /-- The log gains room (R401). -/
  | siltRegionEnlarge (ctx : Nat) (bytes : Nat) (drop : Bool)
  deriving DecidableEq, Repr

end Sys2Proof
end

