-- ==== Sys2Proof/Machine/State.lean ====
section
/-! DEFINITION. The state of the NX4 as the spec gives it, the reasons a step stops, and the state at power-on.
`Mach` is what instructions and engines act on; `Sys` is the system die and the module around them, which no encoded
instruction can write. -/

namespace Sys2Proof.Machine

/-! ### Contexts (04 R79) -/

/-- The state a window marker sets aside (23 R400). -/
structure Snap where
  window : Nat
  seq : Nat
  tasks : List Task
  pool : Tab PoolRec
  loam : Loam
  chans : List (Nat × Chan)
  matrix : Tab Matrix
  engines : Tab Engine
  nodes : Tab (List HeldCmd)
  colls : Tab (List Coll)
  deriving DecidableEq, Repr

/-- A record undone by a reverse step, with what the undo replaced (22 R392). -/
structure Undone where
  r : SRec
  was : SOld
  deriving DecidableEq, Repr

/-- What a rewind keeps so that it can be taken back (23 R404): the state it left, with its window, and how many records stood
undone then and right after it. -/
structure Rewound where
  left : Snap
  undone : Nat
  place : Nat
  since : Nat
  requests : List (Nat × Gid)
  deriving DecidableEq, Repr

/-- A context's Silt log (23). `full` is LEVEL, `shedPolicy` POLICY. -/
structure Silt where
  full : Bool := false
  shedPolicy : Bool := false
  horiz : Bool := false
  pin : Bool := false
  xw : Bool := true
  isSealed : Bool := false
  thresh : Nat := 24
  size : Nat := 0
  recs : List SRec := []
  /-- TAIL (R394). -/
  tail : Nat := 0
  nextSeq : Nat := 1
  horizon : Nat := 1
  current : Nat := 1
  horizonSeq : Nat := 0
  lastExt : Nat := 0
  shed : Nat := 0
  /-- Records appended since the last marker (R398). -/
  since : Nat := 0
  /-- Marker requests not yet served, the earliest first: cause and task (R398). -/
  requests : List (Nat × Gid) := []
  snaps : List Snap := []
  undone : List Undone := []
  rewound : Option Rewound := none
  /-- The kernel or kamdb has written to the halted context since its last marker (R393). -/
  edited : Bool := false
  /-- The window a checkpoint in progress holds (R406). -/
  held : Option Nat := none
  /-- A write of an engine or of another unit has found no room, and none has been made since (R401). -/
  starved : Bool := false
  deriving DecidableEq, Repr

/-- A record of the error ring (26 R446). -/
structure ErrRec where
  code : Nat
  severity : Nat
  action : Nat
  unit : Nat
  ctx : Nat := 0
  valid : Nat := 0
  task : Gid := 0
  addr : Nat := 0
  syndrome : Nat := 0
  time : Nat := 0
  seq : Nat := 0
  count : Nat := 1
  window : Nat := 0
  detail : Nat := 0
  deriving DecidableEq, Repr

/-- A unit's own fault until its stop record is written (09 R172): the unit, TASK, OP, ADDR and PROGRESS. -/
structure UFault where
  unit : UnitRef
  task : Gid
  op : Nat
  addr : Nat
  progress : Nat
  deriving DecidableEq, Repr

/-- A context's halt (09 R170, R171): the line, whether a debugger raised it, the task whose HALT raised it, whether
it is complete, and what its records will say. -/
structure Halt where
  line : Bool := false
  dbg : Bool := false
  origin : Option Gid := none
  complete : Bool := false
  raisedAt : Nat := 0
  /-- The error records to write once the halt is complete (26 R447). -/
  errors : List ErrRec := []
  faults : List UFault := []
  /-- Units that have stopped for it (R171). -/
  stopped : List UnitRef := []
  /-- The parties that have struck a watchpoint since the line was raised: unit code, and the task of a thread (22 R390). -/
  strikers : List (Nat × Gid) := []
  deriving DecidableEq, Repr

/-- A breakpoint (24 R412). -/
structure Breakpoint where
  addr : Nat := 0
  task : Nat := 0
  en : Bool := false
  deriving DecidableEq, Repr

/-- A context: its registry entry (25 R444), halt, stop area, breakpoints, table, pool, log, groups and guarded ranges. -/
structure Ctx where
  valid : Bool := false
  isSealed : Bool := false
  part : Nat := 0
  root : Nat := 0
  stop : Nat := 0
  stopCap : Nat := 0
  siltAt : Nat := 0
  poolAt : Nat := 0
  imagesAt : Nat := 0
  dbgArea : Nat := 0
  ownerHash : Nat := 0
  digest : Nat := 0
  halt : Halt := {}
  stops : List StopRec := []
  /-- Records of the halt in progress. -/
  stopCount : Nat := 0
  breaks : Tab Breakpoint := []
  nextSerial : Nat := 1
  /-- The blocks of serials that the task units of its clusters have drawn: the next serial, and how many are left (04 R71). -/
  blocks : Tab (Nat × Nat) := []
  loam : Loam := {}
  pool : Tab PoolRec := []
  silt : Silt := {}
  groups : Tab (List Member) := []
  /-- The next TAG of each group, and the groups whose collectives abort until the kernel rewrites them (25 R437, R439). -/
  tags : Tab Nat := []
  deadGroups : List Nat := []
  guards : List (Nat × Nat) := []
  /-- An uncorrectable error was replayed since the last marker (23 R405). -/
  uncorr : Bool := false
  /-- Being switched out (09 R175). -/
  out : Bool := false
  /-- Killed by the kernel (26 R448). -/
  killed : Bool := false
  /-- The place in the order of requests of the context's first LARM (24 R426). -/
  firstArm : Option Nat := none
  /-- Next number of each core's engine commands (18 R336). -/
  serials : Tab Nat := []
  deriving DecidableEq, Repr

/-! ### What instructions and engines act on -/

/-- The compute dies, base dies and memory. `t` is the task in focus; keys of `ctxs` are context numbers; of `chans`
64 × core + channel; of `windows` (256 × core + context) × 4 + n; of `matrix` clusters; of `engines`
4096 × KIND + unit (18 R334); of `tlb` clusters and of `dtlb` dies; of `rcache` and `icache` cores; of `faults` 4096 × partition + index. -/
structure Mach where
  t : Task := {}
  others : List Task := []
  cycle : Nat := 0
  mem : List Host.Cell := []
  front : Tab Bool := []
  fe : Tab Bool := []
  windows : Tab Window := []
  tlb : Tab (List TlbEnt) := []
  dtlb : Tab (List TlbEnt) := []
  /-- The lines each core's register cache and instruction cache hold, the last used first (08 R152, 03 R58). -/
  rcache : Tab (List RLine) := []
  icache : Tab (List Nat) := []
  weak : List WStore := []
  reqs : List MReq := []
  codeOld : List CodeOld := []
  faults : Tab (Option FaultEnt) := []
  /-- Cores whose GBAR counted toward a barrier object's epoch, by the object's address (16 R319). -/
  gbars : Tab (List Nat) := []
  /-- The barrier objects whose WAITERS their owners keep, by 65536 × core + offset (15 R282). -/
  objects : List Nat := []
  ctxs : Tab Ctx := []
  parts : Tab Part := []
  chans : Tab Chan := []
  matrix : Tab Matrix := []
  engines : Tab Engine := []
  nodes : Tab (List HeldCmd) := []
  colls : Tab (List Coll) := []
  done : List DoneRec := []
  /-- Accesses performed outside the module: home, addresses and bytes (17 R320). -/
  ext : List (Home × List (Nat × Byte)) := []
  /-- Rinair ports that are up, and those retraining (25 R431). -/
  portsUp : List Nat := []
  portsTrain : List Nat := []
  /-- Import tables, by 64 × port + entry (25 R433). -/
  imports : Tab Import := []
  /-- Root ports whose link is up (25 R441). -/
  rootsUp : List Nat := []
  /-- Error records detected and not yet in the error ring (26 R447). -/
  errs : List ErrRec := []
  /-- The interrupts raised to the application cores that nothing has taken: kind (1 an error, 2 a halt
  complete, 3 a completion record, 4 writers without room, 5 a trap of the kernel route, 6 a marker taken) and context. -/
  irqs : List (Nat × Nat) := []
  /-- Places in the order of requests (the model's own). -/
  order : Nat := 0
  /-- Free values taken so far (the model's own, log entry 7). -/
  free : Nat := 0
  deriving DecidableEq, Repr

/-! ### The system die and the module -/

/-- A record of the reset ring (26 R450): the boot count, CAUSE, CYCLE, and SEQ and CODE of the last error record. -/
structure ResetRec where
  boot : Nat
  cause : Nat
  time : Nat
  lastSeq : Nat
  lastCode : Nat
  deriving DecidableEq, Repr

/-- States of a block's power (24 R421). -/
inductive PState4 where
  | run | doze | retain | off
  deriving DecidableEq, Repr

/-- A debug session's grant (24 R428). -/
structure Grant where
  ses : Nat
  lv : DbgLevel
  ctx : Nat
  deriving DecidableEq, Repr

/-- A link-grid dump (24 R420). DEDUCED, log entry 64. -/
structure GridDump where
  seq : Nat
  time : Nat
  interval : Nat
  moduleUj : Nat
  unheldUj : Nat
  lost : Nat
  rows : List LinkCount
  deriving DecidableEq, Repr

/-- A dump of a killed context (26 R451): the error records that name it, its stop area, its register images, its log's header;
where it ended early, the offset reached and the error's CODE. -/
structure Dump where
  ctx : Nat
  images : List Task
  silt : Silt
  stops : List StopRec := []
  errors : List ErrRec := []
  ended : Option (Nat × Nat) := none
  deriving DecidableEq, Repr

/-- A checkpoint that has left the module (23 R406): its context, its window, the bytes of the context's memory as they stood at
the window's marker, those not listed being zero, and the snapshot it carries, which holds the table and the pool. -/
structure Checkpoint where
  ctx : Nat
  window : Nat
  bytes : List Host.Cell
  snap : Snap
  deriving DecidableEq, Repr

/-- The system die and the module around it. -/
structure Sys where
  /-- A reset other than power-on has happened since the last boot (26 R450). -/
  restarting : Bool := false
  /-- The contexts the kernel has still to check after a warm reboot (25 R445). -/
  readopt : List Nat := []
  /-- Corrected memory errors of the last second: 64 KiB region and CYCLE (26 R449). -/
  corrected : List (Nat × Nat) := []
  booted : Bool := false
  step : Nat := 0
  kernel : Bool := false
  boots : Nat := 0
  failures : Nat := 0
  lifecycle : Lifecycle := .blank
  /-- The error ring (26 R447): its unread records, those read that it still holds, and how many have been read. -/
  ring : List ErrRec := []
  ringPast : List ErrRec := []
  ringTail : Nat := 0
  ringLost : Nat := 0
  ringSeq : Nat := 1
  /-- SEQ and CODE of the last error record (26 R450). -/
  lastErr : Nat × Nat := (0, 0)
  resets : List ResetRec := []
  grants : List Grant := []
  reports : List (Nat × Nat) := []
  power : Tab PState4 := []
  stretched : List Nat := []
  offline : List Block := []
  inService : Bool := true
  dumpNo : Nat := 0
  dumpLost : Nat := 0
  gridAt : Nat := 0
  grid : List GridDump := []
  unheldUj : Nat := 0
  /-- Dumps made, and those queued, the oldest first (26 R451). -/
  dumps : List Dump := []
  dumpQueue : List Dump := []
  /-- Checkpoints copied out (23 R406). -/
  checkpoints : List Checkpoint := []
  msix : List Nat := []
  msixLost : Bool := false
  portKeys : List Nat := []
  deriving DecidableEq, Repr

/-- The whole state: the chip, the module, and the events that happen next, in order (log entry 2). -/
structure State where
  m : Mach := {}
  sys : Sys := {}
  agenda : List Instr := []
  deriving DecidableEq, Repr

/-- Why a step stops with a fault. -/
inductive Fault where
  /-- Raised by step when the agenda holds an encoded instruction, which no party can make happen from outside: no
  behaviour of the part. Safe: the machine stops. -/
  | notAnEvent
  deriving DecidableEq, Repr

/-- Why a step is refused. -/
inductive Refusal where
  /-- Raised by an arm of exec whose instruction has no meaning yet, by its mnemonic. Safe: nothing happens. -/
  | notModelled (mnemonic : String)
  deriving DecidableEq, Repr

/-- The module at power-on: no task, no context, nothing in memory, the blank task in focus (log entries 1, 5, 8, 20). -/
def State.reset : State := { m := { t := { phase := .ended } } }

end Sys2Proof.Machine
end

