-- ==== Sys2Proof/Machine/Errors.lean ====
section
/-! DEFINITION. The error ring (26 R446, R447): how a record enters it, folds into the newest, or is lost. -/

namespace Sys2Proof.Machine

/-- The cycles of one millisecond. -/
def msCycles : Nat := 2400000

/-- A record as it is written for a sealed context (26 R446). -/
def ErrRec.hide (r : ErrRec) : ErrRec :=
  { r with task := 0, addr := 0, syndrome := 0, detail := 0, window := 0, valid := r.valid % 2 }

/-- The newest unread record folds an error of the same CODE, UNIT and CTX within 1 ms (R447). -/
def ErrRec.folds (n r : ErrRec) : Bool :=
  n.code == r.code && n.unit == r.unit && n.ctx == r.ctx && decide (r.time ≤ n.time + msCycles)

/-- A new record written (R447). -/
def Sys.appendError (y : Sys) (r : ErrRec) : Sys :=
  { y with ring := y.ring ++ [{ r with seq := y.ringSeq }], ringSeq := y.ringSeq + 1, lastErr := (y.ringSeq, r.code) }

/-- An error written, folded or lost (R447). -/
def Sys.logError (y : Sys) (r : ErrRec) : Sys :=
  match y.ring.getLast? with
  | some n =>
    if n.folds r then { y with ring := y.ring.dropLast ++ [{ n with count := n.count + 1 }] }
    else if 4096 ≤ y.ring.length then { y with ringLost := y.ringLost + 1 }
    else y.appendError r
  | none => y.appendError r

/-- The records that the ring holds, the oldest first: those read, as far as no later one has taken their places, and those
unread. -/
def Sys.ringHeld (y : Sys) : List ErrRec := (y.ringPast ++ y.ring).drop (y.ringPast.length + y.ring.length - 4096)

/-- The kernel has read n records: TAIL moves on (R447). -/
def Sys.readErrors (y : Sys) (n : Nat) : Sys :=
  let l := y.ringPast ++ y.ring.take n
  { y with ring := y.ring.drop n, ringPast := l.drop (l.length - 4096), ringTail := y.ringTail + min n y.ring.length }

/-- An error of the chip detected: those of a sealed context without what would show it. A record written interrupts the kernel. -/
def State.logErr (s : State) (r : ErrRec) : State :=
  let r1 := if r.valid % 2 = 1 ∧ (Tab.look {} s.m.ctxs r.ctx).isSealed then r.hide else r
  let y := s.sys.logError r1
  { s with sys := y, m := if y.ringSeq = s.sys.ringSeq then s.m else { s.m with irqs := s.m.irqs ++ [(1, r.ctx)] } }

/-- The errors the chip has detected written into the ring, in their order. -/
def State.flushErrs (s : State) : State :=
  s.m.errs.foldl State.logErr { s with m := { s.m with errs := [] } }

end Sys2Proof.Machine
end

