-- ==== Sys2Proof/Decode.lean ====
section
/-! DEFINITION. Decoding (spec 03): halfwords to an instruction, or the decode trap that names what is wrong
(R31 to R56, R464); total on any halfwords. The encoder, from the same tables, stands at the end. -/

namespace Sys2Proof

/-! The codes of the enumerated fields, in the order of the tables of the spec. -/

/-- The code of a `Tag`. -/
def Tag.toNat : Tag → Nat
  | .raw => 0
  | .i32 => 1
  | .f32 => 2
  | .bf16 => 3
  | .f16 => 4
  | .e4m3 => 5
  | .e5m2 => 6
  | .i8 => 7
  | .i16 => 8
  | .f64 => 9
  | .s16 => 10
  | .s8 => 11
  | .s4 => 12
  | .s2 => 13
  | .addr => 14
  | .unwritten => 15

/-- The `Tag` of a code; a code past the table never reaches it. -/
def Tag.ofCode : Nat → Tag
  | 0 => .raw
  | 1 => .i32
  | 2 => .f32
  | 3 => .bf16
  | 4 => .f16
  | 5 => .e4m3
  | 6 => .e5m2
  | 7 => .i8
  | 8 => .i16
  | 9 => .f64
  | 10 => .s16
  | 11 => .s8
  | 12 => .s4
  | 13 => .s2
  | 14 => .addr
  | _ => .unwritten

/-- The code of a `Ord`. -/
def Ord.toNat : Ord → Nat
  | .none => 0
  | .acq => 1
  | .rel => 2
  | .acqrel => 3

/-- The `Ord` of a code; a code past the table never reaches it. -/
def Ord.ofCode : Nat → Ord
  | 0 => .none
  | 1 => .acq
  | 2 => .rel
  | _ => .acqrel

/-- The code of a `Scope`. -/
def Scope.toNat : Scope → Nat
  | .cl => 0
  | .dv => 1
  | .sy => 2

/-- The `Scope` of a code; a code past the table never reaches it. -/
def Scope.ofCode : Nat → Scope
  | 0 => .cl
  | 1 => .dv
  | _ => .sy

/-- The code of a `Rnd`. -/
def Rnd.toNat : Rnd → Nat
  | .rne => 0
  | .rtz => 1
  | .rdn => 2
  | .rup => 3

/-- The `Rnd` of a code; a code past the table never reaches it. -/
def Rnd.ofCode : Nat → Rnd
  | 0 => .rne
  | 1 => .rtz
  | 2 => .rdn
  | _ => .rup

/-- The code of a `Cond`. -/
def Cond.toNat : Cond → Nat
  | .eq => 0
  | .ne => 1
  | .lt => 2
  | .le => 3
  | .ltn => 4
  | .len => 5
  | .gt => 6
  | .ge => 7

/-- The `Cond` of a code; a code past the table never reaches it. -/
def Cond.ofCode : Nat → Cond
  | 0 => .eq
  | 1 => .ne
  | 2 => .lt
  | 3 => .le
  | 4 => .ltn
  | 5 => .len
  | 6 => .gt
  | _ => .ge

/-- The code of a `VCond`. -/
def VCond.toNat : VCond → Nat
  | .eq => 0
  | .ne => 1
  | .lt => 2
  | .le => 3
  | .gt => 4
  | .ge => 5
  | .un => 6
  | .ord => 7

/-- The `VCond` of a code; a code past the table never reaches it. -/
def VCond.ofCode : Nat → VCond
  | 0 => .eq
  | 1 => .ne
  | 2 => .lt
  | 3 => .le
  | 4 => .gt
  | 5 => .ge
  | 6 => .un
  | _ => .ord

/-- The code of a `Scale`. -/
def Scale.toNat : Scale → Nat
  | .x1 => 0
  | .x2 => 1
  | .x4 => 2
  | .x8 => 3
  | .x64 => 4

/-- The `Scale` of a code; a code past the table never reaches it. -/
def Scale.ofCode : Nat → Scale
  | 0 => .x1
  | 1 => .x2
  | 2 => .x4
  | 3 => .x8
  | _ => .x64

/-- The code of a `Space`. -/
def Space.toNat : Space → Nat
  | .g => 0
  | .s => 1
  | .a => 2
  | .c => 3

/-- The `Space` of a code; a code past the table never reaches it. -/
def Space.ofCode : Nat → Space
  | 0 => .g
  | 1 => .s
  | 2 => .a
  | _ => .c

/-- The code of a `Size`. -/
def Size.toNat : Size → Nat
  | .b => 0
  | .h => 1
  | .w => 2
  | .d => 3

/-- The `Size` of a code; a code past the table never reaches it. -/
def Size.ofCode : Nat → Size
  | 0 => .b
  | 1 => .h
  | 2 => .w
  | _ => .d

/-- The code of a `NSize`. -/
def NSize.toNat : NSize → Nat
  | .b => 0
  | .h => 1
  | .w => 2

/-- The `NSize` of a code; a code past the table never reaches it. -/
def NSize.ofCode : Nat → NSize
  | 0 => .b
  | 1 => .h
  | _ => .w

/-- The code of a `BcSize`. -/
def BcSize.toNat : BcSize → Nat
  | .w => 0
  | .d => 1
  | .h => 2
  | .b => 3

/-- The `BcSize` of a code; a code past the table never reaches it. -/
def BcSize.ofCode : Nat → BcSize
  | 0 => .w
  | 1 => .d
  | 2 => .h
  | _ => .b

/-- The code of a `ScanOp`. -/
def ScanOp.toNat : ScanOp → Nat
  | .fadd => 0
  | .fmax => 1
  | .fmin => 2
  | .iadd => 3
  | .imax => 4
  | .imin => 5

/-- The `ScanOp` of a code; a code past the table never reaches it. -/
def ScanOp.ofCode : Nat → ScanOp
  | 0 => .fadd
  | 1 => .fmax
  | 2 => .fmin
  | 3 => .iadd
  | 4 => .imax
  | _ => .imin

/-- The code of a `Flag`. -/
def Flag.toNat : Flag → Nat
  | .iv => 0
  | .dz => 1
  | .of => 2
  | .uf => 3
  | .nx => 4

/-- The `Flag` of a code; a code past the table never reaches it. -/
def Flag.ofCode : Nat → Flag
  | 0 => .iv
  | 1 => .dz
  | 2 => .of
  | 3 => .uf
  | _ => .nx

/-- The code of a `VoteOp`. -/
def VoteOp.toNat : VoteOp → Nat
  | .any => 0
  | .all => 1
  | .cnt => 2
  | .mask => 3

/-- The `VoteOp` of a code; a code past the table never reaches it. -/
def VoteOp.ofCode : Nat → VoteOp
  | 0 => .any
  | 1 => .all
  | 2 => .cnt
  | _ => .mask

/-- The code of a `CvtTo`. -/
def CvtTo.toNat : CvtTo → Nat
  | .i64 => 0
  | .i32 => 1
  | .f32 => 2
  | .bf16 => 3
  | .f16 => 4
  | .e4m3 => 5
  | .e5m2 => 6
  | .i8 => 7
  | .i16 => 8
  | .f64 => 9

/-- The `CvtTo` of a code; a code past the table never reaches it. -/
def CvtTo.ofCode : Nat → CvtTo
  | 0 => .i64
  | 1 => .i32
  | 2 => .f32
  | 3 => .bf16
  | 4 => .f16
  | 5 => .e4m3
  | 6 => .e5m2
  | 7 => .i8
  | 8 => .i16
  | _ => .f64

/-- The code of a `VcvtOp`. -/
def VcvtOp.toNat : VcvtOp → Nat
  | .i32 => 0
  | .f32 => 1
  | .n32 => 2
  | .f32n => 3
  | .rint => 4
  | .f64 => 5
  | .f32d => 6

/-- The `VcvtOp` of a code; a code past the table never reaches it. -/
def VcvtOp.ofCode : Nat → VcvtOp
  | 0 => .i32
  | 1 => .f32
  | 2 => .n32
  | 3 => .f32n
  | 4 => .rint
  | 5 => .f64
  | _ => .f32d

/-- The code of a `Blk`. -/
def Blk.toNat : Blk → Nat
  | .s16 => 0
  | .s8 => 1
  | .s4 => 2
  | .s2 => 3

/-- The `Blk` of a code; a code past the table never reaches it. -/
def Blk.ofCode : Nat → Blk
  | 0 => .s16
  | 1 => .s8
  | 2 => .s4
  | _ => .s2

/-- The code of a `Sfu`. -/
def Sfu.toNat : Sfu → Nat
  | .sqrt => 0
  | .rcp => 1
  | .rsqrt => 2
  | .exp2 => 3
  | .log2 => 4
  | .sin => 5
  | .cos => 6
  | .tanh => 7
  | .sigm => 8
  | .gelu => 9
  | .erf => 10

/-- The `Sfu` of a code; a code past the table never reaches it. -/
def Sfu.ofCode : Nat → Sfu
  | 0 => .sqrt
  | 1 => .rcp
  | 2 => .rsqrt
  | 3 => .exp2
  | 4 => .log2
  | 5 => .sin
  | 6 => .cos
  | 7 => .tanh
  | 8 => .sigm
  | 9 => .gelu
  | _ => .erf

/-- The code of a `GangSize`. -/
def GangSize.toNat : GangSize → Nat
  | .two => 0
  | .four => 1
  | .eight => 2

/-- The `GangSize` of a code; a code past the table never reaches it. -/
def GangSize.ofCode : Nat → GangSize
  | 0 => .two
  | 1 => .four
  | _ => .eight

/-- The code of a `McFmt`. -/
def McFmt.toNat : McFmt → Nat
  | .f32 => 0
  | .bf16 => 1

/-- The `McFmt` of a code; a code past the table never reaches it. -/
def McFmt.ofCode : Nat → McFmt
  | 0 => .f32
  | _ => .bf16

/-- The code of a `EDst`. -/
def EDst.toNat : EDst → Nat
  | .g => 0
  | .s => 1
  | .a => 2

/-- The `EDst` of a code; a code past the table never reaches it. -/
def EDst.ofCode : Nat → EDst
  | 0 => .g
  | 1 => .s
  | _ => .a

/-- The code of a `ASize`. -/
def ASize.toNat : ASize → Nat
  | .d => 0
  | .w => 1

/-- The `ASize` of a code; a code past the table never reaches it. -/
def ASize.ofCode : Nat → ASize
  | 0 => .d
  | _ => .w

/-- The code of a `MSize`. -/
def MSize.toNat : MSize → Nat
  | .d => 0
  | .w => 1
  | .n64 => 2
  | .n32 => 3

/-- The `MSize` of a code; a code past the table never reaches it. -/
def MSize.ofCode : Nat → MSize
  | 0 => .d
  | 1 => .w
  | 2 => .n64
  | _ => .n32

/-- The code of a `ASpace`. -/
def ASpace.toNat : ASpace → Nat
  | .g => 0
  | .s => 1

/-- The `ASpace` of a code; a code past the table never reaches it. -/
def ASpace.ofCode : Nat → ASpace
  | 0 => .g
  | _ => .s

/-- The code of a `TForm`. -/
def TForm.toNat : TForm → Nat
  | .n1 => 0
  | .n2 => 1
  | .n3 => 2
  | .n4 => 3
  | .k => 4

/-- The `TForm` of a code; a code past the table never reaches it. -/
def TForm.ofCode : Nat → TForm
  | 0 => .n1
  | 1 => .n2
  | 2 => .n3
  | 3 => .n4
  | _ => .k

/-- The code of a `PrefKind`. -/
def PrefKind.toNat : PrefKind → Nat
  | .line => 0
  | .page => 1

/-- The `PrefKind` of a code; a code past the table never reaches it. -/
def PrefKind.ofCode : Nat → PrefKind
  | 0 => .line
  | _ => .page

/-- VRED's variants (R228): six scans, three bitwise reductions, five flags. -/
def RedSrc.toNat : RedSrc → Nat
  | .lanes (.scan o) _ => o.toNat
  | .lanes .and _ => 6
  | .lanes .or _ => 7
  | .lanes .xor _ => 8
  | .flag f => 9 + f.toNat

/-- Bits 3 to 2 of ECPY's variant (R341). -/
def ESrc.toNat : ESrc → Nat
  | .g => 0
  | .s => 1
  | .c => 3

def ESrc.ofCode : Nat → ESrc
  | 0 => .g
  | 1 => .s
  | _ => .c

/-- VPACK's and VUNPK's variants (R235). -/
def PackFmt.toNat : PackFmt → Nat
  | .bf16 h => h.val
  | .f16 h => 2 + h.val
  | .e4m3 h => 4 + h.val
  | .e5m2 h => 8 + h.val

def PackFmt.ofCode : Nat → PackFmt
  | 0 => .bf16 0
  | 1 => .bf16 1
  | 2 => .f16 0
  | 3 => .f16 1
  | 4 => .e4m3 0
  | 5 => .e4m3 1
  | 6 => .e4m3 2
  | 7 => .e4m3 3
  | 8 => .e5m2 0
  | 9 => .e5m2 1
  | 10 => .e5m2 2
  | _ => .e5m2 3

/-- FLRD's variants (R236). -/
def FlSel.toNat : FlSel → Nat
  | .one f => f.toNat
  | .any => 5

def FlSel.ofCode (n : Nat) : FlSel := if n < 5 then .one (Flag.ofCode n) else .any

/-- FLCLR's variants (R237): all, or one. -/
def flagOptToNat : Option Flag → Nat
  | none => 0
  | some f => 1 + f.toNat

def flagOptOfNat : Nat → Option Flag
  | 0 => none
  | n + 1 => some (Flag.ofCode n)

/-- The tag of a block width (R159), as MOP's type fields carry it. -/
def Blk.tagNat (b : Blk) : Nat := 10 + b.toNat

/-- The variant of an atomic without a natural form (R312): size, then space. -/
def atVar (z : ASize) (sp : ASpace) : Nat := z.toNat + 4 * sp.toNat

/-- The variant of AMIN and AMAX (R312): size, natural, space. -/
def atVarN (z : MSize) (sp : ASpace) : Nat := z.toNat + 4 * sp.toNat

/-- The ten bits of an XMOD payload (R44). -/
def XMod.bits (x : XMod) : Nat :=
  512 * x.weak.toNat + 128 * x.ord.toNat + 32 * x.scope.toNat + 16 * x.sat.toNat + 4 * x.rnd.toNat +
    2 * x.fovr.toNat

/-- The modifiers of a payload that passed R45's checks. -/
def XMod.ofBits (n : Nat) : XMod :=
  { weak := n / 512 % 2 == 1, ord := Ord.ofCode (n / 128 % 4), scope := Scope.ofCode (n / 32 % 4),
    sat := n / 16 % 2 == 1, rnd := Rnd.ofCode (n / 4 % 4), fovr := n / 2 % 2 == 1 }

namespace Opnd

/-- The slot of an operand given by XREG. -/
def slotD : Opnd → Fin 256
  | .slot s => s
  | .code _ => 0

/-- The code of an operand field. -/
def codeD : Opnd → Fin 8
  | .code n => n
  | .slot _ => 0

/-- A tile number held in an operand field (R259). -/
def tileD : Opnd → Fin 2
  | .code n => if n.val = 1 then 1 else 0
  | .slot _ => 0

/-- The three bits of the word's field: a field replaced by XREG holds 000 (R17). -/
def fieldNat : Opnd → Nat
  | .code n => n.val
  | .slot _ => 0

end Opnd

/-- The field of a tile number. -/
def tileOpnd (q : Fin 2) : Opnd := .code ⟨q.val, by omega⟩

/-- What a field of the word holds for an instruction (R42, R212, R259). -/
inductive Role where
  /-- a scalar register operand, or a broadcast operand: a code, or a slot by XREG -/
  | reg
  /-- a vector register or a main-file block: by XREG only -/
  | vec
  /-- a predicate or a number: no XREG -/
  | num
  /-- a tile number, 0 or 1: no XREG -/
  | tile
  /-- reserved: 000, no XREG -/
  | zero
  /-- bits the layout uses in its own way: no XREG -/
  | own
  deriving DecidableEq, Repr

/-- The classes of R45's table. -/
inductive XClass where
  | none | fovr | ld | st | xst | ldfe | stfe | atom | fence | sat | rnd | cvt | mconv
  | sfn (sqrt : Bool)
  deriving DecidableEq, Repr

/-- The variant prefix of an instruction (R41): none; optional, with or without a governing predicate, and the
variants defined; or required, with the payloads defined. -/
inductive Pay where
  | none
  | opt (pred : Bool) (vs : List Nat)
  | req (ps : List Nat)
  deriving DecidableEq, Repr

/-- An immediate field (R36, R39): its width and place in the word, its reading, the fewest XIMM it needs (R40),
and the range its entry allows. -/
structure ImmSpec where
  w : Nat
  pos : Nat
  signed : Bool
  minX : Nat := 0
  lim : Option (Int × Int) := Option.none
  deriving DecidableEq, Repr

/-- The encoding of one instruction: its page, the fixed bits of its word, the roles of its fields. -/
structure Spec where
  page : Nat
  base : Nat
  d : Role := .zero
  a : Role := .zero
  b : Role := .zero
  c : Role := .zero
  pay : Pay := .none
  xc : XClass := .fovr
  imm : Option ImmSpec := Option.none
  deriving DecidableEq, Repr

/-- What the fields of an instruction hold. -/
structure Fields where
  d : Opnd := .code 0
  a : Opnd := .code 0
  b : Opnd := .code 0
  c : Opnd := .code 0
  g : Fin 8 := 0
  v : Nat := 0
  imm : Int := 0
  m : Option XMod := Option.none
  deriving DecidableEq, Repr

/-! ### The checks of an instruction's fields, shared by decoding and by well-formedness. -/

/-- R42: which operands a role takes. -/
def Role.takes : Role → Opnd → Bool
  | .reg, _ => true
  | .vec, .slot _ => true
  | .vec, .code _ => false
  | .num, .code _ => true
  | .tile, .code n => decide (n.val ≤ 1)
  | .zero, .code n => decide (n.val = 0)
  | .own, .code n => decide (n.val = 0)
  | _, .slot _ => false

/-- R42: the fourth register operand exists through XREG c alone, and names lt without it. -/
def Role.takesC : Role → Opnd → Bool
  | .reg, .slot _ => true
  | _, .code n => decide (n.val = 0)
  | _, .slot _ => false

/-- R45: which modifiers a class accepts. -/
def XClass.takes (c : XClass) (x : XMod) : Bool :=
  let noMem := !x.weak && x.ord == .none && x.scope == .cl
  let noArith := !x.sat && x.rnd == .rne
  let scopeOk := x.scope == .cl || x.ord != .none
  match c with
  | .none => false
  | .fovr => noMem && noArith
  | .ld => (x.ord == .none || x.ord == .acq) && scopeOk && noArith
  | .st => (x.ord == .none || x.ord == .rel) && scopeOk && noArith
  | .xst => !x.weak && (x.ord == .none || x.ord == .rel) && scopeOk && noArith
  | .ldfe => !x.weak && (x.ord == .none || x.ord == .acq) && scopeOk && noArith
  | .stfe => !x.weak && (x.ord == .none || x.ord == .rel) && scopeOk && noArith
  | .atom => !x.weak && scopeOk && noArith
  | .fence => !x.weak && x.ord != .none && noArith && !x.fovr
  | .sat => noMem && x.rnd == .rne
  | .rnd => noMem && !x.sat
  | .cvt => noMem
  | .mconv => noMem && !x.sat && !x.fovr
  | .sfn sqrt => noMem && !x.sat && (sqrt || x.rnd == .rne)

/-- R44, R45: FENCE always carries XMOD; elsewhere none is all defaults. -/
def XClass.takesOpt (c : XClass) : Option XMod → Bool
  | Option.none => c != .fence
  | some x => c.takes x

/-- R41: which payloads the variant prefix may carry. -/
def Pay.takes : Pay → Nat → Bool
  | .none, p => p == 0
  | .opt pred vs, p => decide (p < 1024) && (pred || p / 128 == 0) && vs.contains (p % 128)
  | .req ps, p => ps.contains p

/-- The payload of an instruction's variant prefix. -/
def Fields.payload (f : Fields) : Nat := 128 * f.g.val + f.v

/-- R39: an immediate of n bits holds the value. -/
def immFits (signed : Bool) (n : Nat) (v : Int) : Bool :=
  if signed then decide (-(2 ^ (n - 1) : Int) ≤ v) && decide (v < 2 ^ (n - 1)) else decide (0 ≤ v) && decide (v < 2 ^ n)

/-- The fewest XIMM prefixes, from n up with the given fuel, that hold the value (R16, R37); 5 where none do. -/
def immCount (s : ImmSpec) (v : Int) : Nat → Nat → Nat
  | 0, _ => 5
  | fuel + 1, n => if immFits s.signed (s.w + 10 * n) v then n else immCount s v fuel (n + 1)

/-- The XIMM prefixes an instruction carries: its immediate's, or its variant prefix. -/
def Fields.ximms (f : Fields) (s : Spec) : Nat :=
  match s.imm with
  | some im => immCount im f.imm (5 - im.minX) im.minX
  | Option.none =>
    match s.pay with
    | .req _ => 1
    | _ => if f.payload == 0 then 0 else 1

/-- One for an operand that needs XREG. -/
def Opnd.xcount : Opnd → Nat
  | .slot _ => 1
  | .code _ => 0

/-- The prefixes of an instruction (R38). -/
def Fields.prefixes (f : Fields) (s : Spec) : Nat :=
  (if s.page == 0 then 0 else 1) + f.d.xcount + f.a.xcount + f.b.xcount + f.c.xcount +
    (if f.m.isSome then 1 else 0) + f.ximms s

/-- The value of an immediate lies in the range its entry gives, and in no immediate without a field. -/
def Fields.immOk (f : Fields) (s : Spec) : Bool :=
  match s.imm with
  | some im =>
    match im.lim with
    | some (lo, hi) => decide (lo ≤ f.imm) && decide (f.imm ≤ hi)
    | Option.none => true
  | Option.none => f.imm == 0

/-- The fields of a well-formed instruction: every operand of a kind its field takes, modifiers and variant of its
class, an immediate in range, at most four prefixes. -/
def Fields.ok (f : Fields) (s : Spec) : Bool :=
  s.d.takes f.d && s.a.takes f.a && s.b.takes f.b && s.c.takesC f.c && s.xc.takesOpt f.m &&
    (s.pay.takes f.payload && decide (f.v < 128 ∨ f.g = 0)) && f.immOk s && decide (f.prefixes s ≤ 4)


/-! ### The encoding tables (R46 to R54, and each instruction's own entry). -/

/-- Major and minor of a three-operand word. -/
def w3 (major minor : Nat) : Nat := major * 4096 + minor

/-- Tag variants a load or TAGSET may name (R41). -/
def tagVars : List Nat := List.range 15

/-- Page 0, three scalar operands. -/
def sR3 (major minor : Nat) (xc : XClass) (c : Role := .zero) (pay : Pay := .none) : Spec :=
  { page := 0, base := w3 major minor, d := .reg, a := .reg, b := .reg, c := c, xc := xc, pay := pay }

/-- Major 0x6, kind and value in the low six bits (R47). -/
def sTwo (low6 : Nat) (xc : XClass) (imm : Option ImmSpec := Option.none) : Spec :=
  { page := 0, base := 0x6000 + low6, d := .reg, a := .reg, b := .own, xc := xc, imm := imm }

def sWid (n : Nat) : Spec := { page := 0, base := 0x6010 + n, d := .reg, a := .zero, b := .own, xc := .none }

def sAddi : Spec :=
  { page := 0, base := 0x4000, d := .reg, a := .reg, b := .own, xc := .sat, imm := some { w := 6, pos := 0, signed := true } }

def sMovi : Spec :=
  { page := 0, base := 0x5000, d := .reg, a := .own, b := .own, xc := .none, imm := some { w := 9, pos := 0, signed := true } }

def sCmp (c : Nat) : Spec := { page := 0, base := 0x7000 + c, d := .num, a := .reg, b := .reg }

def sCmpi (c : Nat) : Spec :=
  { page := 0, base := 0x7000 + c, d := .num, a := .reg, b := .own, imm := some { w := 3, pos := 3, signed := true, minX := 1 } }

def sBc (s : Nat) : Spec :=
  { page := 0, base := 0x8000 + 256 * s, d := .num, a := .own, b := .own, xc := .none, imm := some { w := 8, pos := 0, signed := true } }

def sBr (l : Nat) : Spec :=
  { page := 0, base := 0x9000 + 2048 * l, d := .own, a := .own, b := .own, xc := .none, imm := some { w := 11, pos := 0, signed := true } }

/-- Major 0xA (R50): op, the size or direction bits, the space. -/
def sMem (op sz sp : Nat) (xc : XClass) (d : Role) (pay : Pay) : Spec :=
  { page := 0, base := 0xA000 + 16 * sp + 4 * sz + op, d := d, a := .reg, b := .own, xc := xc, pay := pay }

/-- Major 0xB (R51). -/
def sCtl (sub : Nat) (a : Role) : Spec := { page := 0, base := 0xB000 + 512 * sub, d := .own, a := a, b := .zero, xc := .none }

def sLoop : Spec :=
  { page := 0, base := 0xB800, d := .own, a := .reg, b := .own, imm := some { w := 6, pos := 0, signed := true } }

/-- Major 0xE (R52). -/
def sWin (op x : Nat) (d : Role) (xc : XClass) (signed : Bool) (lim : Option (Int × Int)) : Spec :=
  { page := 0, base := 0xE000 + 128 * x + 32 * op, d := d, a := .own, b := .own, xc := xc,
    imm := some { w := 5, pos := 0, signed := signed, lim := lim } }

/-- Pages 1 to 11 (R53). -/
def sP (page major minor : Nat) (d a b : Role) (xc : XClass := .fovr) (pay : Pay := .none) (c : Role := .zero) : Spec :=
  { page := page, base := w3 major minor, d := d, a := a, b := b, c := c, xc := xc, pay := pay }

/-- Pages 1 to 11, with the immediate k in bits 5 to 3 (R53). -/
def sK (page minor : Nat) (d a : Role) (xc : XClass) (signed : Bool) (lim : Option (Int × Int)) : Spec :=
  { page := page, base := w3 0xD minor, d := d, a := a, b := .own, xc := xc,
    imm := some { w := 3, pos := 3, signed := signed, lim := lim } }

/-- A predicate and the one variant 0. -/
def pOnly : Pay := .opt true [0]

/-- A predicate and n variants. -/
def pVar (n : Nat) : Pay := .opt true (List.range n)

/-- n variants, no predicate. -/
def vOnly (n : Nat) : Pay := .opt false (List.range n)

/-- Type payloads of MOP and MOPS (R41, R255): B tag, A tag, each 10 to 13. -/
def mopPays : List Nat :=
  [170, 171, 172, 173, 186, 187, 188, 189, 202, 203, 204, 205, 218, 219, 220, 221]

/-- VRED (R228): for the flag variants field a is 000. -/
def sVred (v : Nat) : Spec :=
  sP 2 0xD 3 .reg (if v < 9 ∨ 13 < v then .vec else .zero) .zero .fovr (pVar 14)

/-- VOTE (R238): source n in field a; only source 0 reads field b. -/
def sVote (n : Nat) : Spec :=
  sP 3 0xD 2 .reg .num (if n = 0 then .num else .zero) .none (pVar 4)

/-- XST (R311): .v stores a vector register. -/
def sXst (v : Nat) : Spec := sP 6 0xC 5 (if v = 2 then .vec else .reg) .reg .zero .xst (vOnly 3)

/-- TLBINV (R182): .all has a = 000. -/
def sTlbinv (v : Nat) : Spec := sP 11 0xC 3 .zero (if v = 1 then .zero else .reg) .zero .fovr (vOnly 2)

def sSfn (minor : Nat) (d : Role) (pred : Bool) (v : Nat) : Spec :=
  sP 3 0xD minor d (if pred then .vec else .reg) .zero (.sfn (v == 0)) (.opt pred (List.range 11))

def sTcall (f : Nat) : Spec :=
  { page := 9, base := 0xD000 + 8 * f, d := .own, a := .own, b := .own, imm := some { w := 6, pos := 6, signed := true } }

def sAbegin : Spec :=
  { page := 10, base := 0xD000, d := .own, a := .own, b := .own, xc := .none, imm := some { w := 9, pos := 3, signed := true } }

/-- VOTE's field a (R238). -/
def VoteSrc.field : VoteSrc → Nat
  | .pred _ => 0
  | .flag f => 1 + f.toNat

/-- VOTE's fields a and b. -/
def VoteSrc.fields : VoteSrc → Opnd × Opnd
  | .pred q => (.code 0, .code q)
  | .flag .iv => (.code 1, .code 0)
  | .flag .dz => (.code 2, .code 0)
  | .flag .of => (.code 3, .code 0)
  | .flag .uf => (.code 4, .code 0)
  | .flag .nx => (.code 5, .code 0)

def Fields.voteSrc (f : Fields) : VoteSrc :=
  if f.a.codeD.val = 0 then .pred f.b.codeD else .flag (Flag.ofCode (f.a.codeD.val - 1))

/-- VRED's field a. -/
def RedSrc.field : RedSrc → Opnd
  | .lanes _ a => .slot a
  | .flag _ => .code 0

def Fields.redSrc (f : Fields) : RedSrc :=
  if f.v < 6 then .lanes (.scan (ScanOp.ofCode f.v)) f.a.slotD
  else if f.v = 6 then .lanes .and f.a.slotD
  else if f.v = 7 then .lanes .or f.a.slotD
  else if f.v = 8 then .lanes .xor f.a.slotD
  else .flag (Flag.ofCode (f.v - 9))

/-- XST's variant and field d. -/
def XstSrc.var : XstSrc → Nat
  | .d _ => 0
  | .w _ => 1
  | .v _ => 2

def XstSrc.field : XstSrc → Opnd
  | .d r => r
  | .w r => r
  | .v r => .slot r

def Fields.xstSrc (f : Fields) : XstSrc :=
  if f.v = 0 then .d f.d else if f.v = 1 then .w f.d else .v f.d.slotD

def Fields.tlbOp (f : Fields) : Option Opnd := if f.v = 0 then some f.a else Option.none

/-- The encoding of an instruction: its table row and what its fields hold; none for an event. -/
def Instr.enc : Instr → Option (Spec × Fields)
  | .add m d a b => some (sR3 1 0 .sat, { m := m, d := d, a := a, b := b })
  | .sub m d a b => some (sR3 1 1 .sat, { m := m, d := d, a := a, b := b })
  | .and m d a b => some (sR3 1 2 .fovr, { m := m, d := d, a := a, b := b })
  | .or m d a b => some (sR3 1 3 .fovr, { m := m, d := d, a := a, b := b })
  | .xor m d a b => some (sR3 1 4 .fovr, { m := m, d := d, a := a, b := b })
  | .shl m d a b => some (sR3 1 5 .fovr, { m := m, d := d, a := a, b := b })
  | .shr m d a b => some (sR3 1 6 .fovr, { m := m, d := d, a := a, b := b })
  | .sar m d a b => some (sR3 1 7 .fovr, { m := m, d := d, a := a, b := b })
  | .mul m d a b => some (sR3 2 0 .sat, { m := m, d := d, a := a, b := b })
  | .mulh m d a b => some (sR3 2 1 .fovr, { m := m, d := d, a := a, b := b })
  | .mulhn m d a b => some (sR3 2 2 .fovr, { m := m, d := d, a := a, b := b })
  | .min m d a b => some (sR3 2 3 .fovr, { m := m, d := d, a := a, b := b })
  | .max m d a b => some (sR3 2 4 .fovr, { m := m, d := d, a := a, b := b })
  | .minn m d a b => some (sR3 2 5 .fovr, { m := m, d := d, a := a, b := b })
  | .maxn m d a b => some (sR3 2 6 .fovr, { m := m, d := d, a := a, b := b })
  | .andn m d a b => some (sR3 2 7 .fovr, { m := m, d := d, a := a, b := b })
  | .div m d a b => some (sR3 3 0 .fovr, { m := m, d := d, a := a, b := b })
  | .divn m d a b => some (sR3 3 1 .fovr, { m := m, d := d, a := a, b := b })
  | .rem m d a b => some (sR3 3 2 .fovr, { m := m, d := d, a := a, b := b })
  | .remn m d a b => some (sR3 3 3 .fovr, { m := m, d := d, a := a, b := b })
  | .lea m sc d a b => some (sR3 3 4 .fovr .zero (vOnly 5), { m := m, v := sc.toNat, d := d, a := a, b := b })
  | .bfx m d a b => some (sR3 3 5 .fovr, { m := m, d := d, a := a, b := b })
  | .bfi m d a b c => some (sR3 3 6 .fovr .reg, { m := m, d := d, a := a, b := b, c := c })
  | .sel m d a b c => some (sR3 3 7 .fovr .reg, { m := m, d := d, a := a, b := b, c := c })
  | .addi m d a imm => some (sAddi, { m := m, d := d, a := a, imm := imm })
  | .movi d imm => some (sMovi, { d := d, imm := imm })
  | .mov m d a => some (sTwo 0 .fovr, { m := m, d := d, a := a })
  | .not m d a => some (sTwo 1 .fovr, { m := m, d := d, a := a })
  | .neg m d a => some (sTwo 2 .sat, { m := m, d := d, a := a })
  | .abs m d a => some (sTwo 3 .sat, { m := m, d := d, a := a })
  | .clz m d a => some (sTwo 4 .fovr, { m := m, d := d, a := a })
  | .ctz m d a => some (sTwo 5 .fovr, { m := m, d := d, a := a })
  | .popc m d a => some (sTwo 6 .fovr, { m := m, d := d, a := a })
  | .brev m d a => some (sTwo 7 .fovr, { m := m, d := d, a := a })
  | .sextB m d a => some (sTwo 8 .fovr, { m := m, d := d, a := a })
  | .sextH m d a => some (sTwo 9 .fovr, { m := m, d := d, a := a })
  | .sextW m d a => some (sTwo 10 .fovr, { m := m, d := d, a := a })
  | .zextB m d a => some (sTwo 12 .fovr, { m := m, d := d, a := a })
  | .zextH m d a => some (sTwo 13 .fovr, { m := m, d := d, a := a })
  | .zextW m d a => some (sTwo 14 .fovr, { m := m, d := d, a := a })
  | .wid d n => some (sWid n.val, { d := d })
  | .shli m d a k => some (sTwo 32 .fovr (some { w := 3, pos := 0, signed := false, lim := some (0, 63) }), { m := m, d := d, a := a, imm := k })
  | .shri m d a k => some (sTwo 40 .fovr (some { w := 3, pos := 0, signed := false, lim := some (0, 63) }), { m := m, d := d, a := a, imm := k })
  | .sari m d a k => some (sTwo 48 .fovr (some { w := 3, pos := 0, signed := false, lim := some (0, 63) }), { m := m, d := d, a := a, imm := k })
  | .andi m d a imm => some (sTwo 56 .fovr (some { w := 3, pos := 0, signed := true }), { m := m, d := d, a := a, imm := imm })
  | .cmp m c p a b => some (sCmp c.toNat, { m := m, d := .code p, a := a, b := b })
  | .cmpi m c p a imm => some (sCmpi c.toNat, { m := m, d := .code p, a := a, imm := imm })
  | .bc p off => some (sBc 1, { d := .code p, imm := off })
  | .bcN p off => some (sBc 0, { d := .code p, imm := off })
  | .br off => some (sBr 0, { imm := off })
  | .call off => some (sBr 1, { imm := off })
  | .nop => some (sCtl 0 .zero, {})
  | .bri a => some (sCtl 1 .reg, { a := a })
  | .calli a => some (sCtl 2 .reg, { a := a })
  | .ret => some (sCtl 3 .zero, {})
  | .loop m a off => some (sLoop, { m := m, a := a, imm := off })
  | .yield => some (sCtl 5 .zero, {})
  | .exit => some (sCtl 6 .zero, {})
  | .ld m t z sp d a => some (sMem 0 z.toNat sp.toNat .ld .reg (.opt false tagVars), { m := m, v := t.toNat, d := d, a := a })
  | .ldN m t z sp d a => some (sMem 1 z.toNat sp.toNat .ld .reg (.opt false tagVars), { m := m, v := t.toNat, d := d, a := a })
  | .st m z sp d a => some (sMem 2 z.toNat sp.toNat .st .reg .none, { m := m, d := d, a := a })
  | .ldv m g t sp d a => some (sMem 3 0 sp.toNat .ld .vec (.opt true tagVars), { m := m, g := g, v := t.toNat, d := .slot d, a := a })
  | .stv m g sp d a => some (sMem 3 1 sp.toNat .st .vec pOnly, { m := m, g := g, d := .slot d, a := a })
  | .ldx m d x k => some (sWin 0 x.val .reg .fovr false Option.none, { m := m, d := d, imm := k })
  | .stx m d x k => some (sWin 1 x.val .reg .fovr false Option.none, { m := m, d := d, imm := k })
  | .xset x k => some (sWin 2 x.val .zero .none false (some (0, 65535)), { imm := k })
  | .xadd x k => some (sWin 3 x.val .zero .none true (some (-32768, 32767)), { imm := k })
  | .vadd m g d a b => some (sP 1 0xC 0 .vec .vec .reg .rnd pOnly, { m := m, g := g, d := .slot d, a := .slot a, b := b })
  | .vsub m g d a b => some (sP 1 0xC 1 .vec .vec .reg .rnd pOnly, { m := m, g := g, d := .slot d, a := .slot a, b := b })
  | .vmul m g d a b => some (sP 1 0xC 2 .vec .vec .reg .rnd pOnly, { m := m, g := g, d := .slot d, a := .slot a, b := b })
  | .vfma m g d a b => some (sP 1 0xC 3 .vec .vec .reg .rnd pOnly, { m := m, g := g, d := .slot d, a := .slot a, b := b })
  | .vfms m g d a b => some (sP 1 0xC 4 .vec .vec .reg .rnd pOnly, { m := m, g := g, d := .slot d, a := .slot a, b := b })
  | .vfnma m g d a b => some (sP 1 0xC 5 .vec .vec .reg .rnd pOnly, { m := m, g := g, d := .slot d, a := .slot a, b := b })
  | .vmin m g d a b => some (sP 1 0xC 6 .vec .vec .reg .rnd pOnly, { m := m, g := g, d := .slot d, a := .slot a, b := b })
  | .vmax m g d a b => some (sP 1 0xC 7 .vec .vec .reg .rnd pOnly, { m := m, g := g, d := .slot d, a := .slot a, b := b })
  | .vabs m g d a => some (sP 1 0xD 0 .vec .vec .zero .fovr pOnly, { m := m, g := g, d := .slot d, a := .slot a })
  | .vneg m g d a => some (sP 1 0xD 1 .vec .vec .zero .fovr pOnly, { m := m, g := g, d := .slot d, a := .slot a })
  | .vdot2 m g d a b => some (sP 1 0xD 2 .vec .vec .reg .rnd pOnly, { m := m, g := g, d := .slot d, a := .slot a, b := b })
  | .vdot4 m g d a b => some (sP 1 0xD 3 .vec .vec .reg .rnd pOnly, { m := m, g := g, d := .slot d, a := .slot a, b := b })
  | .vcmp m g c p a b => some (sP 1 0xD 4 .num .vec .vec .fovr (pVar 8), { m := m, g := g, v := c.toNat, d := .code p, a := .slot a, b := .slot b })
  | .vsel m g d a q => some (sP 1 0xD 5 .vec .vec .num .fovr pOnly, { m := m, g := g, d := .slot d, a := .slot a, b := .code q })
  | .vclass m g d a => some (sP 1 0xD 6 .vec .vec .zero .fovr pOnly, { m := m, g := g, d := .slot d, a := .slot a })
  | .vmov m g d a => some (sP 1 0xD 7 .vec .vec .zero .fovr pOnly, { m := m, g := g, d := .slot d, a := .slot a })
  | .viadd m g d a b => some (sP 2 0xC 0 .vec .vec .reg .sat pOnly, { m := m, g := g, d := .slot d, a := .slot a, b := b })
  | .visub m g d a b => some (sP 2 0xC 1 .vec .vec .reg .sat pOnly, { m := m, g := g, d := .slot d, a := .slot a, b := b })
  | .vimul m g d a b => some (sP 2 0xC 2 .vec .vec .reg .sat pOnly, { m := m, g := g, d := .slot d, a := .slot a, b := b })
  | .vand m g d a b => some (sP 2 0xC 3 .vec .vec .reg .fovr pOnly, { m := m, g := g, d := .slot d, a := .slot a, b := b })
  | .vor m g d a b => some (sP 2 0xC 4 .vec .vec .reg .fovr pOnly, { m := m, g := g, d := .slot d, a := .slot a, b := b })
  | .vxor m g d a b => some (sP 2 0xC 5 .vec .vec .reg .fovr pOnly, { m := m, g := g, d := .slot d, a := .slot a, b := b })
  | .vshl m g d a b => some (sP 2 0xC 6 .vec .vec .reg .fovr pOnly, { m := m, g := g, d := .slot d, a := .slot a, b := b })
  | .vshr m g ar d a b => some (sP 2 0xC 7 .vec .vec .reg .fovr (pVar 2), { m := m, g := g, v := ar.toNat, d := .slot d, a := .slot a, b := b })
  | .vbcast m g z d a => some (sP 2 0xD 0 .vec .reg .zero .fovr (pVar 4), { m := m, g := g, v := z.toNat, d := .slot d, a := a })
  | .vshuf m d a b => some (sP 2 0xD 1 .vec .vec .vec, { m := m, d := .slot d, a := .slot a, b := .slot b })
  | .vperm m d a b => some (sP 2 0xD 2 .vec .vec .vec, { m := m, d := .slot d, a := .slot a, b := .slot b })
  | .vred m g d src => some (sVred src.toNat, { m := m, g := g, d := d, v := src.toNat, a := src.field })
  | .vscan m g o d a => some (sP 2 0xD 4 .vec .vec .zero .fovr (pVar 6), { m := m, g := g, v := o.toNat, d := .slot d, a := .slot a })
  | .vins m g d a b => some (sP 2 0xD 5 .vec .reg .reg .fovr pOnly, { m := m, g := g, d := .slot d, a := a, b := b })
  | .vext m d a b => some (sP 2 0xD 6 .reg .vec .reg, { m := m, d := d, a := .slot a, b := b })
  | .vlanei g d => some (sP 2 0xD 7 .vec .zero .zero .none pOnly, { g := g, d := .slot d })
  | .cvt m t d a => some (sP 3 0xC 0 .reg .reg .zero .cvt (vOnly 10), { m := m, v := t.toNat, d := d, a := a })
  | .vcvt m g o d a => some (sP 3 0xC 1 .vec .vec .zero .cvt (pVar 7), { m := m, g := g, v := o.toNat, d := .slot d, a := .slot a })
  | .blkpk m w nat d a => some (sP 3 0xC 2 .vec .vec .zero .cvt (vOnly 8), { m := m, v := w.toNat + 4 * nat.toNat, d := .slot d, a := .slot a })
  | .blkup m bf d a => some (sP 3 0xC 3 .vec .vec .zero .fovr (vOnly 2), { m := m, v := bf.toNat, d := .slot d, a := .slot a })
  | .vpack m g t d a => some (sP 3 0xC 4 .vec .vec .zero .cvt (pVar 12), { m := m, g := g, v := t.toNat, d := .slot d, a := .slot a })
  | .vunpk m g t d a => some (sP 3 0xC 5 .vec .vec .zero .fovr (pVar 12), { m := m, g := g, v := t.toNat, d := .slot d, a := .slot a })
  | .tagset m g t d a => some (sP 3 0xC 6 .reg .reg .zero .fovr (pVar 15), { m := m, g := g, v := t.toNat, d := d, a := a })
  | .tagget m g d a => some (sP 3 0xC 7 .reg .reg .zero .fovr pOnly, { m := m, g := g, d := d, a := a })
  | .flrd g f p => some (sP 3 0xD 0 .num .zero .zero .none (pVar 6), { g := g, v := f.toNat, d := .code p })
  | .flclr g f => some (sP 3 0xD 1 .zero .zero .zero .none (pVar 6), { g := g, v := flagOptToNat f })
  | .vote g o d src => some (sVote src.field, { g := g, d := d, v := o.toNat, a := src.fields.1, b := src.fields.2 })
  | .flen m d a => some (sP 3 0xD 3 .reg .reg .zero, { m := m, d := d, a := a })
  | .sfn m f d a => some (sSfn 4 .reg false f.toNat, { m := m, v := f.toNat, d := d, a := a })
  | .sfnv m g f d a => some (sSfn 5 .vec true f.toNat, { m := m, g := g, v := f.toNat, d := .slot d, a := .slot a })
  | .gang n => some (sK 3 6 .zero .zero .none false (some (1, 3)), { imm := n.toNat + 1 })
  | .disband => some (sP 3 0xD 7 .zero .zero .zero .none, {})
  | .mop m ta tb q a b => some (sP 4 0xC 0 .tile .reg .reg .fovr (.req mopPays), { m := m, v := 16 * tb.tagNat + ta.tagNat, d := tileOpnd q, a := a, b := b })
  | .mops m ta tb q a b => some (sP 4 0xC 1 .tile .reg .reg .fovr (.req mopPays), { m := m, v := 16 * tb.tagNat + ta.tagNat, d := tileOpnd q, a := a, b := b })
  | .mconv m f ac q a => some (sP 4 0xC 2 .tile .reg .zero .mconv (.req [2, 3, 18, 19]), { m := m, v := 2 + f.toNat + 16 * ac.toNat, d := tileOpnd q, a := a })
  | .mwait q => some (sP 4 0xC 3 .tile .zero .zero .none, { d := tileOpnd q })
  | .mstat d q => some (sP 4 0xC 4 .reg .tile .zero .none, { d := d, a := tileOpnd q })
  | .msched m a b => some (sP 4 0xC 5 .zero .reg .reg, { m := m, a := a, b := b })
  | .mzero q e => some (sK 4 0 .tile .zero .none true (some (-256, 255)), { d := tileOpnd q, imm := e })
  | .mqw k => some (sK 4 1 .zero .zero .none false (some (1, 15)), { imm := k })
  | .ecmd m a => some (sP 5 0xC 0 .zero .reg .zero, { m := m, a := a })
  | .ecpy m ds ss d a b c => some (sP 5 0xC 1 .reg .reg .reg .fovr (.opt false [0, 1, 2, 4, 5, 6, 12, 13, 14]) .reg, { m := m, v := ds.toNat + 4 * ss.toNat, d := d, a := a, b := b, c := c })
  | .egath m ds d a b c => some (sP 5 0xC 2 .reg .reg .reg .fovr (vOnly 3) .reg, { m := m, v := ds.toNat, d := d, a := a, b := b, c := c })
  | .escat m ss d a b c => some (sP 5 0xC 3 .reg .reg .reg .fovr (.opt false [0, 1, 3]) .reg, { m := m, v := ss.toNat, d := d, a := a, b := b, c := c })
  | .esub m a b => some (sP 5 0xC 4 .zero .reg .reg, { m := m, a := a, b := b })
  | .ecoll m a b => some (sP 5 0xC 5 .zero .reg .reg, { m := m, a := a, b := b })
  | .ebmp m d a => some (sP 5 0xC 6 .reg .reg .zero, { m := m, d := d, a := a })
  | .mloadb m d a b => some (sP 5 0xC 7 .reg .reg .reg, { m := m, d := d, a := a, b := b })
  | .ldfe m d a => some (sP 6 0xC 0 .reg .reg .zero .ldfe (vOnly 1), { m := m, d := d, a := a })
  | .ldff m d a => some (sP 6 0xC 1 .reg .reg .zero .ldfe (vOnly 1), { m := m, d := d, a := a })
  | .stfe m d a => some (sP 6 0xC 2 .reg .reg .zero .stfe (vOnly 1), { m := m, d := d, a := a })
  | .feset m a => some (sP 6 0xC 3 .zero .reg .zero .stfe (vOnly 1), { m := m, a := a })
  | .feclr m a => some (sP 6 0xC 4 .zero .reg .zero .stfe (vOnly 1), { m := m, a := a })
  | .xst m a src => some (sXst src.var, { m := m, a := a, v := src.var, d := src.field })
  | .axchg m z sp d a b => some (sP 6 0xC 6 .reg .reg .reg .atom (.opt false [0, 1, 4, 5]), { m := m, v := atVar z sp, d := d, a := a, b := b })
  | .acas m z sp d a b c => some (sP 6 0xC 7 .reg .reg .reg .atom (.opt false [0, 1, 4, 5]) .reg, { m := m, v := atVar z sp, d := d, a := a, b := b, c := c })
  | .aadd m z sp d a b => some (sP 6 0xD 0 .reg .reg .reg .atom (.opt false [0, 1, 4, 5]), { m := m, v := atVar z sp, d := d, a := a, b := b })
  | .aand m z sp d a b => some (sP 6 0xD 1 .reg .reg .reg .atom (.opt false [0, 1, 4, 5]), { m := m, v := atVar z sp, d := d, a := a, b := b })
  | .aor m z sp d a b => some (sP 6 0xD 2 .reg .reg .reg .atom (.opt false [0, 1, 4, 5]), { m := m, v := atVar z sp, d := d, a := a, b := b })
  | .axor m z sp d a b => some (sP 6 0xD 3 .reg .reg .reg .atom (.opt false [0, 1, 4, 5]), { m := m, v := atVar z sp, d := d, a := a, b := b })
  | .amin m z sp d a b => some (sP 6 0xD 4 .reg .reg .reg .atom (vOnly 8), { m := m, v := atVarN z sp, d := d, a := a, b := b })
  | .amax m z sp d a b => some (sP 6 0xD 5 .reg .reg .reg .atom (vOnly 8), { m := m, v := atVarN z sp, d := d, a := a, b := b })
  | .fence m => some (sP 6 0xD 6 .zero .zero .zero .fence, { m := m })
  | .pvis => some (sP 6 0xD 7 .zero .zero .zero .none, {})
  | .binit m a b => some (sP 7 0xC 0 .zero .reg .reg, { m := m, a := a, b := b })
  | .barr m a b => some (sP 7 0xC 1 .zero .reg .reg, { m := m, a := a, b := b })
  | .bwait m k d a => some (sP 7 0xC 2 .reg .reg .zero .fovr (vOnly 16), { m := m, v := k.val, d := d, a := a })
  | .gbar m d a => some (sP 7 0xC 3 .reg .reg .zero, { m := m, d := d, a := a })
  | .larm m a => some (sP 8 0xC 0 .zero .reg .zero, { m := m, a := a })
  | .learly => some (sP 8 0xC 1 .zero .zero .zero .none, {})
  | .rnext d => some (sP 8 0xC 2 .reg .zero .zero .none, { d := d })
  | .msend m a => some (sP 8 0xC 3 .zero .reg .zero, { m := m, a := a })
  | .tblk m a => some (sP 8 0xC 4 .zero .reg .zero, { m := m, a := a })
  | .tunblk m a => some (sP 8 0xC 5 .zero .reg .zero, { m := m, a := a })
  | .spawn m d a b => some (sP 8 0xC 6 .reg .reg .reg, { m := m, d := d, a := a, b := b })
  | .lpatch m d a k => some (sK 8 0 .reg .reg .fovr false (some (0, 15)), { m := m, d := d, a := a, imm := k })
  | .tans m d => some (sP 9 0xC 0 .vec .zero .zero, { m := m, d := d })
  | .tret m a => some (sP 9 0xC 1 .zero .vec .zero, { m := m, a := a })
  | .tdone => some (sP 9 0xC 2 .zero .zero .zero .none, {})
  | .tfail m a => some (sP 9 0xC 3 .zero .reg .zero, { m := m, a := a })
  | .trel m => some (sP 9 0xC 4 .zero .zero .zero, { m := m })
  | .tcall m f off => some (sTcall f.toNat, { m := m, imm := off })
  | .tinfo m d k => some (sK 9 1 .reg .zero .fovr false (some (0, 7)), { m := m, d := d, imm := k })
  | .acommit => some (sP 10 0xC 0 .zero .zero .zero .none, {})
  | .astat d => some (sP 10 0xC 1 .reg .zero .zero .none, { d := d })
  | .abegin off => some (sAbegin, { imm := off })
  | .aabort k => some (sK 10 1 .zero .zero .none false (some (0, 255)), { imm := k })
  | .rfe => some (sP 11 0xC 0 .zero .zero .zero .none, {})
  | .wmark d => some (sP 11 0xC 1 .reg .zero .zero .none, { d := d })
  | .pref m k a => some (sP 11 0xC 2 .zero .reg .zero .fovr (vOnly 2), { m := m, v := k.toNat, a := a })
  | .tlbinv m a => some (sTlbinv (if a.isNone then 1 else 0), { m := m, v := if a.isNone then 1 else 0, a := a.getD (.code 0) })
  | .halt => some (sP 11 0xC 4 .zero .zero .zero .none, {})
  | .trap k => some (sK 11 0 .zero .zero .none false Option.none, { imm := k })
  | .sysc k => some (sK 11 1 .zero .zero .none false Option.none, { imm := k })
  | .crr d k => some (sK 11 2 .reg .zero .none false Option.none, { d := d, imm := k })
  | .crw m a k => some (sK 11 3 .zero .reg .fovr false Option.none, { m := m, a := a, imm := k })
  | .brk k => some (sK 11 4 .zero .zero .none false Option.none, { imm := k })
  | .faultResolved _ _ => Option.none
  | .faultRefused _ => Option.none
  | .syscServe _ _ _ _ => Option.none
  | .parkResolved _ => Option.none
  | .accessPerformed _ => Option.none
  | .taskSeat _ => Option.none
  | .taskAging _ => Option.none
  | .continuationMigrate _ => Option.none
  | .steal _ _ => Option.none
  | .gangForm _ => Option.none
  | .earlyStart _ _ => Option.none
  | .recordRetire _ _ => Option.none
  | .tableClearFailed _ => Option.none
  | .tableGrow _ _ _ _ => Option.none
  | .messageArrival _ => Option.none
  | .msendRetryTimer _ => Option.none
  | .tileOpStart _ => Option.none
  | .tileOpFinal _ => Option.none
  | .mconvComplete _ _ => Option.none
  | .metadataStallTimeout _ => Option.none
  | .scheduleEntry _ _ => Option.none
  | .scheduleEnd _ _ => Option.none
  | .kaolinLoad _ => Option.none
  | .kaolinLoadComplete _ => Option.none
  | .kick _ _ _ _ => Option.none
  | .registerWrite _ _ _ _ => Option.none
  | .commandForward _ _ => Option.none
  | .engineOperationStart _ => Option.none
  | .chunkComplete _ _ => Option.none
  | .engineOperationEnd _ => Option.none
  | .engineFault _ => Option.none
  | .metadataPush _ => Option.none
  | .streamTileLoad _ _ => Option.none
  | .streamTileStore _ _ => Option.none
  | .streamEnd _ _ => Option.none
  | .commitAtHome _ => Option.none
  | .haltLine _ _ => Option.none
  | .unitStop _ _ => Option.none
  | .haltComplete _ => Option.none
  | .contextResume _ _ => Option.none
  | .preempt _ => Option.none
  | .contextSwitch _ _ => Option.none
  | .watchStrike _ _ _ _ _ _ _ => Option.none
  | .step _ => Option.none
  | .windowMarker _ _ => Option.none
  | .siltThreshold _ => Option.none
  | .siltShed _ => Option.none
  | .siltStall _ => Option.none
  | .rstep _ _ => Option.none
  | .rfwd _ _ => Option.none
  | .rwin _ _ => Option.none
  | .uncorrData _ _ _ => Option.none
  | .correctedMemoryError _ _ _ => Option.none
  | .checkpoint _ => Option.none
  | .checkpointCopyEnd _ => Option.none
  | .linkGridDump _ _ _ => Option.none
  | .energyInterval _ _ => Option.none
  | .powerDoze _ => Option.none
  | .powerRetain _ => Option.none
  | .powerOff _ => Option.none
  | .powerWake _ => Option.none
  | .wakeTimeout _ => Option.none
  | .clockStretch _ _ _ => Option.none
  | .thermalTrip _ _ => Option.none
  | .supplyFault _ => Option.none
  | .attestation _ _ => Option.none
  | .debugGrant _ _ _ _ => Option.none
  | .debugRequest _ _ _ _ => Option.none
  | .lifecycleTransition _ _ _ => Option.none
  | .rinairFlitError _ => Option.none
  | .portDown _ => Option.none
  | .remoteAccessArrival _ _ _ => Option.none
  | .collectiveStep _ _ _ => Option.none
  | .collectiveHold _ _ => Option.none
  | .collectiveResume _ _ => Option.none
  | .memberAbort _ _ _ => Option.none
  | .msiXInterrupt _ => Option.none
  | .dmaWrite _ _ _ _ => Option.none
  | .completionTimeout _ => Option.none
  | .surpriseRemoval _ => Option.none
  | .powerOnReset _ => Option.none
  | .watchdogExpiry _ => Option.none
  | .registryReadopt _ _ => Option.none
  | .killContext _ => Option.none
  | .dump _ _ => Option.none
  | .contextCreate _ => Option.none
  | .shaleFlitError _ _ => Option.none
  | .shaleEndpointFailure _ => Option.none
  | .kernelMemoryError _ _ => Option.none
  | .offlineBlock _ => Option.none
  | .portRetrain _ => Option.none
  | .portUp _ _ => Option.none
  | .hotPlug _ => Option.none
  | .aerError _ _ _ => Option.none
  | .checkpointRestore _ _ => Option.none
  | .siltRegionEnlarge _ _ _ => Option.none

/-! ### Looking a word up. -/

/-- A row of the tables: its encoding, and the instruction its checked fields make. -/
structure Row where
  spec : Spec
  make : Fields → Instr

/-- Major 0x1 (R46). -/
def rows1 : List Row :=
  [⟨sR3 1 0 .sat, fun f => .add f.m f.d f.a f.b⟩,
   ⟨sR3 1 1 .sat, fun f => .sub f.m f.d f.a f.b⟩,
   ⟨sR3 1 2 .fovr, fun f => .and f.m f.d f.a f.b⟩,
   ⟨sR3 1 3 .fovr, fun f => .or f.m f.d f.a f.b⟩,
   ⟨sR3 1 4 .fovr, fun f => .xor f.m f.d f.a f.b⟩,
   ⟨sR3 1 5 .fovr, fun f => .shl f.m f.d f.a f.b⟩,
   ⟨sR3 1 6 .fovr, fun f => .shr f.m f.d f.a f.b⟩,
   ⟨sR3 1 7 .fovr, fun f => .sar f.m f.d f.a f.b⟩]

/-- Major 0x2 (R46). -/
def rows2 : List Row :=
  [⟨sR3 2 0 .sat, fun f => .mul f.m f.d f.a f.b⟩,
   ⟨sR3 2 1 .fovr, fun f => .mulh f.m f.d f.a f.b⟩,
   ⟨sR3 2 2 .fovr, fun f => .mulhn f.m f.d f.a f.b⟩,
   ⟨sR3 2 3 .fovr, fun f => .min f.m f.d f.a f.b⟩,
   ⟨sR3 2 4 .fovr, fun f => .max f.m f.d f.a f.b⟩,
   ⟨sR3 2 5 .fovr, fun f => .minn f.m f.d f.a f.b⟩,
   ⟨sR3 2 6 .fovr, fun f => .maxn f.m f.d f.a f.b⟩,
   ⟨sR3 2 7 .fovr, fun f => .andn f.m f.d f.a f.b⟩]

/-- Major 0x3 (R46). -/
def rows3 : List Row :=
  [⟨sR3 3 0 .fovr, fun f => .div f.m f.d f.a f.b⟩,
   ⟨sR3 3 1 .fovr, fun f => .divn f.m f.d f.a f.b⟩,
   ⟨sR3 3 2 .fovr, fun f => .rem f.m f.d f.a f.b⟩,
   ⟨sR3 3 3 .fovr, fun f => .remn f.m f.d f.a f.b⟩,
   ⟨sR3 3 4 .fovr .zero (vOnly 5), fun f => .lea f.m (Scale.ofCode f.v) f.d f.a f.b⟩,
   ⟨sR3 3 5 .fovr, fun f => .bfx f.m f.d f.a f.b⟩,
   ⟨sR3 3 6 .fovr .reg, fun f => .bfi f.m f.d f.a f.b f.c⟩,
   ⟨sR3 3 7 .fovr .reg, fun f => .sel f.m f.d f.a f.b f.c⟩]

/-- Major 0x6, kind 000 (R47). -/
def rows6a : List Row :=
  [⟨sTwo 0 .fovr, fun f => .mov f.m f.d f.a⟩,
   ⟨sTwo 1 .fovr, fun f => .not f.m f.d f.a⟩,
   ⟨sTwo 2 .sat, fun f => .neg f.m f.d f.a⟩,
   ⟨sTwo 3 .sat, fun f => .abs f.m f.d f.a⟩,
   ⟨sTwo 4 .fovr, fun f => .clz f.m f.d f.a⟩,
   ⟨sTwo 5 .fovr, fun f => .ctz f.m f.d f.a⟩,
   ⟨sTwo 6 .fovr, fun f => .popc f.m f.d f.a⟩,
   ⟨sTwo 7 .fovr, fun f => .brev f.m f.d f.a⟩]

/-- Page 1, major 0xC (R53). -/
def rowsP1C : List Row :=
  [⟨sP 1 0xC 0 .vec .vec .reg .rnd pOnly, fun f => .vadd f.m f.g f.d.slotD f.a.slotD f.b⟩,
   ⟨sP 1 0xC 1 .vec .vec .reg .rnd pOnly, fun f => .vsub f.m f.g f.d.slotD f.a.slotD f.b⟩,
   ⟨sP 1 0xC 2 .vec .vec .reg .rnd pOnly, fun f => .vmul f.m f.g f.d.slotD f.a.slotD f.b⟩,
   ⟨sP 1 0xC 3 .vec .vec .reg .rnd pOnly, fun f => .vfma f.m f.g f.d.slotD f.a.slotD f.b⟩,
   ⟨sP 1 0xC 4 .vec .vec .reg .rnd pOnly, fun f => .vfms f.m f.g f.d.slotD f.a.slotD f.b⟩,
   ⟨sP 1 0xC 5 .vec .vec .reg .rnd pOnly, fun f => .vfnma f.m f.g f.d.slotD f.a.slotD f.b⟩,
   ⟨sP 1 0xC 6 .vec .vec .reg .rnd pOnly, fun f => .vmin f.m f.g f.d.slotD f.a.slotD f.b⟩,
   ⟨sP 1 0xC 7 .vec .vec .reg .rnd pOnly, fun f => .vmax f.m f.g f.d.slotD f.a.slotD f.b⟩]

/-- Page 1, major 0xD. -/
def rowsP1D : List Row :=
  [⟨sP 1 0xD 0 .vec .vec .zero .fovr pOnly, fun f => .vabs f.m f.g f.d.slotD f.a.slotD⟩,
   ⟨sP 1 0xD 1 .vec .vec .zero .fovr pOnly, fun f => .vneg f.m f.g f.d.slotD f.a.slotD⟩,
   ⟨sP 1 0xD 2 .vec .vec .reg .rnd pOnly, fun f => .vdot2 f.m f.g f.d.slotD f.a.slotD f.b⟩,
   ⟨sP 1 0xD 3 .vec .vec .reg .rnd pOnly, fun f => .vdot4 f.m f.g f.d.slotD f.a.slotD f.b⟩,
   ⟨sP 1 0xD 4 .num .vec .vec .fovr (pVar 8), fun f => .vcmp f.m f.g (VCond.ofCode f.v) f.d.codeD f.a.slotD f.b.slotD⟩,
   ⟨sP 1 0xD 5 .vec .vec .num .fovr pOnly, fun f => .vsel f.m f.g f.d.slotD f.a.slotD f.b.codeD⟩,
   ⟨sP 1 0xD 6 .vec .vec .zero .fovr pOnly, fun f => .vclass f.m f.g f.d.slotD f.a.slotD⟩,
   ⟨sP 1 0xD 7 .vec .vec .zero .fovr pOnly, fun f => .vmov f.m f.g f.d.slotD f.a.slotD⟩]

/-- Page 2, major 0xC. -/
def rowsP2C : List Row :=
  [⟨sP 2 0xC 0 .vec .vec .reg .sat pOnly, fun f => .viadd f.m f.g f.d.slotD f.a.slotD f.b⟩,
   ⟨sP 2 0xC 1 .vec .vec .reg .sat pOnly, fun f => .visub f.m f.g f.d.slotD f.a.slotD f.b⟩,
   ⟨sP 2 0xC 2 .vec .vec .reg .sat pOnly, fun f => .vimul f.m f.g f.d.slotD f.a.slotD f.b⟩,
   ⟨sP 2 0xC 3 .vec .vec .reg .fovr pOnly, fun f => .vand f.m f.g f.d.slotD f.a.slotD f.b⟩,
   ⟨sP 2 0xC 4 .vec .vec .reg .fovr pOnly, fun f => .vor f.m f.g f.d.slotD f.a.slotD f.b⟩,
   ⟨sP 2 0xC 5 .vec .vec .reg .fovr pOnly, fun f => .vxor f.m f.g f.d.slotD f.a.slotD f.b⟩,
   ⟨sP 2 0xC 6 .vec .vec .reg .fovr pOnly, fun f => .vshl f.m f.g f.d.slotD f.a.slotD f.b⟩,
   ⟨sP 2 0xC 7 .vec .vec .reg .fovr (pVar 2), fun f => .vshr f.m f.g (f.v == 1) f.d.slotD f.a.slotD f.b⟩]

/-- Page 3, major 0xC. -/
def rowsP3C : List Row :=
  [⟨sP 3 0xC 0 .reg .reg .zero .cvt (vOnly 10), fun f => .cvt f.m (CvtTo.ofCode f.v) f.d f.a⟩,
   ⟨sP 3 0xC 1 .vec .vec .zero .cvt (pVar 7), fun f => .vcvt f.m f.g (VcvtOp.ofCode f.v) f.d.slotD f.a.slotD⟩,
   ⟨sP 3 0xC 2 .vec .vec .zero .cvt (vOnly 8), fun f => .blkpk f.m (Blk.ofCode (f.v % 4)) (f.v / 4 == 1) f.d.slotD f.a.slotD⟩,
   ⟨sP 3 0xC 3 .vec .vec .zero .fovr (vOnly 2), fun f => .blkup f.m (f.v == 1) f.d.slotD f.a.slotD⟩,
   ⟨sP 3 0xC 4 .vec .vec .zero .cvt (pVar 12), fun f => .vpack f.m f.g (PackFmt.ofCode f.v) f.d.slotD f.a.slotD⟩,
   ⟨sP 3 0xC 5 .vec .vec .zero .fovr (pVar 12), fun f => .vunpk f.m f.g (PackFmt.ofCode f.v) f.d.slotD f.a.slotD⟩,
   ⟨sP 3 0xC 6 .reg .reg .zero .fovr (pVar 15), fun f => .tagset f.m f.g (Tag.ofCode f.v) f.d f.a⟩,
   ⟨sP 3 0xC 7 .reg .reg .zero .fovr pOnly, fun f => .tagget f.m f.g f.d f.a⟩]

/-- Page 4, major 0xC. -/
def rowsP4C : List Row :=
  [⟨sP 4 0xC 0 .tile .reg .reg .fovr (.req mopPays), fun f => .mop f.m (Blk.ofCode (f.v % 16 - 10)) (Blk.ofCode (f.v / 16 - 10)) f.d.tileD f.a f.b⟩,
   ⟨sP 4 0xC 1 .tile .reg .reg .fovr (.req mopPays), fun f => .mops f.m (Blk.ofCode (f.v % 16 - 10)) (Blk.ofCode (f.v / 16 - 10)) f.d.tileD f.a f.b⟩,
   ⟨sP 4 0xC 2 .tile .reg .zero .mconv (.req [2, 3, 18, 19]), fun f => .mconv f.m (McFmt.ofCode (f.v % 16 - 2)) (f.v / 16 == 1) f.d.tileD f.a⟩,
   ⟨sP 4 0xC 3 .tile .zero .zero .none, fun f => .mwait f.d.tileD⟩,
   ⟨sP 4 0xC 4 .reg .tile .zero .none, fun f => .mstat f.d f.a.tileD⟩,
   ⟨sP 4 0xC 5 .zero .reg .reg, fun f => .msched f.m f.a f.b⟩]

/-- Page 4, major 0xD. -/
def rowsP4D : List Row :=
  [⟨sK 4 0 .tile .zero .none true (some (-256, 255)), fun f => .mzero f.d.tileD f.imm⟩,
   ⟨sK 4 1 .zero .zero .none false (some (1, 15)), fun f => .mqw f.imm.toNat⟩]

/-- Page 5, major 0xC. -/
def rowsP5C : List Row :=
  [⟨sP 5 0xC 0 .zero .reg .zero, fun f => .ecmd f.m f.a⟩,
   ⟨sP 5 0xC 1 .reg .reg .reg .fovr (.opt false [0, 1, 2, 4, 5, 6, 12, 13, 14]) .reg, fun f => .ecpy f.m (EDst.ofCode (f.v % 4)) (ESrc.ofCode (f.v / 4)) f.d f.a f.b f.c⟩,
   ⟨sP 5 0xC 2 .reg .reg .reg .fovr (vOnly 3) .reg, fun f => .egath f.m (EDst.ofCode f.v) f.d f.a f.b f.c⟩,
   ⟨sP 5 0xC 3 .reg .reg .reg .fovr (.opt false [0, 1, 3]) .reg, fun f => .escat f.m (ESrc.ofCode f.v) f.d f.a f.b f.c⟩,
   ⟨sP 5 0xC 4 .zero .reg .reg, fun f => .esub f.m f.a f.b⟩,
   ⟨sP 5 0xC 5 .zero .reg .reg, fun f => .ecoll f.m f.a f.b⟩,
   ⟨sP 5 0xC 6 .reg .reg .zero, fun f => .ebmp f.m f.d f.a⟩,
   ⟨sP 5 0xC 7 .reg .reg .reg, fun f => .mloadb f.m f.d f.a f.b⟩]

/-- Page 6, major 0xD. -/
def rowsP6D : List Row :=
  [⟨sP 6 0xD 0 .reg .reg .reg .atom (.opt false [0, 1, 4, 5]), fun f => .aadd f.m (ASize.ofCode (f.v % 4)) (ASpace.ofCode (f.v / 4)) f.d f.a f.b⟩,
   ⟨sP 6 0xD 1 .reg .reg .reg .atom (.opt false [0, 1, 4, 5]), fun f => .aand f.m (ASize.ofCode (f.v % 4)) (ASpace.ofCode (f.v / 4)) f.d f.a f.b⟩,
   ⟨sP 6 0xD 2 .reg .reg .reg .atom (.opt false [0, 1, 4, 5]), fun f => .aor f.m (ASize.ofCode (f.v % 4)) (ASpace.ofCode (f.v / 4)) f.d f.a f.b⟩,
   ⟨sP 6 0xD 3 .reg .reg .reg .atom (.opt false [0, 1, 4, 5]), fun f => .axor f.m (ASize.ofCode (f.v % 4)) (ASpace.ofCode (f.v / 4)) f.d f.a f.b⟩,
   ⟨sP 6 0xD 4 .reg .reg .reg .atom (vOnly 8), fun f => .amin f.m (MSize.ofCode (f.v % 4)) (ASpace.ofCode (f.v / 4)) f.d f.a f.b⟩,
   ⟨sP 6 0xD 5 .reg .reg .reg .atom (vOnly 8), fun f => .amax f.m (MSize.ofCode (f.v % 4)) (ASpace.ofCode (f.v / 4)) f.d f.a f.b⟩,
   ⟨sP 6 0xD 6 .zero .zero .zero .fence, fun f => .fence f.m⟩,
   ⟨sP 6 0xD 7 .zero .zero .zero .none, fun _ => .pvis⟩]

/-- Page 7, major 0xC. -/
def rowsP7C : List Row :=
  [⟨sP 7 0xC 0 .zero .reg .reg, fun f => .binit f.m f.a f.b⟩,
   ⟨sP 7 0xC 1 .zero .reg .reg, fun f => .barr f.m f.a f.b⟩,
   ⟨sP 7 0xC 2 .reg .reg .zero .fovr (vOnly 16), fun f => .bwait f.m (Fin.ofNat 16 f.v) f.d f.a⟩,
   ⟨sP 7 0xC 3 .reg .reg .zero, fun f => .gbar f.m f.d f.a⟩]

/-- Page 8, major 0xC. -/
def rowsP8C : List Row :=
  [⟨sP 8 0xC 0 .zero .reg .zero, fun f => .larm f.m f.a⟩,
   ⟨sP 8 0xC 1 .zero .zero .zero .none, fun _ => .learly⟩,
   ⟨sP 8 0xC 2 .reg .zero .zero .none, fun f => .rnext f.d⟩,
   ⟨sP 8 0xC 3 .zero .reg .zero, fun f => .msend f.m f.a⟩,
   ⟨sP 8 0xC 4 .zero .reg .zero, fun f => .tblk f.m f.a⟩,
   ⟨sP 8 0xC 5 .zero .reg .zero, fun f => .tunblk f.m f.a⟩,
   ⟨sP 8 0xC 6 .reg .reg .reg, fun f => .spawn f.m f.d f.a f.b⟩]

/-- Page 8, major 0xD. -/
def rowsP8D : List Row :=
  [⟨sK 8 0 .reg .reg .fovr false (some (0, 15)), fun f => .lpatch f.m f.d f.a f.imm.toNat⟩]

/-- Page 9, major 0xC. -/
def rowsP9C : List Row :=
  [⟨sP 9 0xC 0 .vec .zero .zero, fun f => .tans f.m f.d⟩,
   ⟨sP 9 0xC 1 .zero .vec .zero, fun f => .tret f.m f.a⟩,
   ⟨sP 9 0xC 2 .zero .zero .zero .none, fun _ => .tdone⟩,
   ⟨sP 9 0xC 3 .zero .reg .zero, fun f => .tfail f.m f.a⟩,
   ⟨sP 9 0xC 4 .zero .zero .zero, fun f => .trel f.m⟩]

/-- Page 10, major 0xC. -/
def rowsP10C : List Row :=
  [⟨sP 10 0xC 0 .zero .zero .zero .none, fun _ => .acommit⟩,
   ⟨sP 10 0xC 1 .reg .zero .zero .none, fun f => .astat f.d⟩]

/-- Page 10, major 0xD. -/
def rowsP10D : List Row :=
  [⟨sAbegin, fun f => .abegin f.imm⟩,
   ⟨sK 10 1 .zero .zero .none false (some (0, 255)), fun f => .aabort f.imm.toNat⟩]

/-- Page 11, major 0xD. -/
def rowsP11D : List Row :=
  [⟨sK 11 0 .zero .zero .none false Option.none, fun f => .trap f.imm.toNat⟩,
   ⟨sK 11 1 .zero .zero .none false Option.none, fun f => .sysc f.imm.toNat⟩,
   ⟨sK 11 2 .reg .zero .none false Option.none, fun f => .crr f.d f.imm.toNat⟩,
   ⟨sK 11 3 .zero .reg .fovr false Option.none, fun f => .crw f.m f.a f.imm.toNat⟩,
   ⟨sK 11 4 .zero .zero .none false Option.none, fun f => .brk f.imm.toNat⟩]

/-- Page 2, major 0xD; VRED depends on its variant. -/
def rowsP2D (pv : Nat) : List Row :=
  [⟨sP 2 0xD 0 .vec .reg .zero .fovr (pVar 4), fun f => .vbcast f.m f.g (BcSize.ofCode f.v) f.d.slotD f.a⟩,
   ⟨sP 2 0xD 1 .vec .vec .vec, fun f => .vshuf f.m f.d.slotD f.a.slotD f.b.slotD⟩,
   ⟨sP 2 0xD 2 .vec .vec .vec, fun f => .vperm f.m f.d.slotD f.a.slotD f.b.slotD⟩,
   ⟨sVred pv, fun f => .vred f.m f.g f.d f.redSrc⟩,
   ⟨sP 2 0xD 4 .vec .vec .zero .fovr (pVar 6), fun f => .vscan f.m f.g (ScanOp.ofCode f.v) f.d.slotD f.a.slotD⟩,
   ⟨sP 2 0xD 5 .vec .reg .reg .fovr pOnly, fun f => .vins f.m f.g f.d.slotD f.a f.b⟩,
   ⟨sP 2 0xD 6 .reg .vec .reg, fun f => .vext f.m f.d f.a.slotD f.b⟩,
   ⟨sP 2 0xD 7 .vec .zero .zero .none pOnly, fun f => .vlanei f.g f.d.slotD⟩]

/-- Page 3, major 0xD; VOTE depends on its source, SFN on its function. -/
def rowsP3D (pv fa : Nat) : List Row :=
  [⟨sP 3 0xD 0 .num .zero .zero .none (pVar 6), fun f => .flrd f.g (FlSel.ofCode f.v) f.d.codeD⟩,
   ⟨sP 3 0xD 1 .zero .zero .zero .none (pVar 6), fun f => .flclr f.g (flagOptOfNat f.v)⟩,
   ⟨sVote fa, fun f => .vote f.g (VoteOp.ofCode f.v) f.d f.voteSrc⟩,
   ⟨sP 3 0xD 3 .reg .reg .zero, fun f => .flen f.m f.d f.a⟩,
   ⟨sSfn 4 .reg false pv, fun f => .sfn f.m (Sfu.ofCode f.v) f.d f.a⟩,
   ⟨sSfn 5 .vec true pv, fun f => .sfnv f.m f.g (Sfu.ofCode f.v) f.d.slotD f.a.slotD⟩,
   ⟨sK 3 6 .zero .zero .none false (some (1, 3)), fun f => .gang (GangSize.ofCode (f.imm.toNat - 1))⟩,
   ⟨sP 3 0xD 7 .zero .zero .zero .none, fun _ => .disband⟩]

/-- Page 6, major 0xC; XST depends on its variant. -/
def rowsP6C (pv : Nat) : List Row :=
  [⟨sP 6 0xC 0 .reg .reg .zero .ldfe (vOnly 1), fun f => .ldfe f.m f.d f.a⟩,
   ⟨sP 6 0xC 1 .reg .reg .zero .ldfe (vOnly 1), fun f => .ldff f.m f.d f.a⟩,
   ⟨sP 6 0xC 2 .reg .reg .zero .stfe (vOnly 1), fun f => .stfe f.m f.d f.a⟩,
   ⟨sP 6 0xC 3 .zero .reg .zero .stfe (vOnly 1), fun f => .feset f.m f.a⟩,
   ⟨sP 6 0xC 4 .zero .reg .zero .stfe (vOnly 1), fun f => .feclr f.m f.a⟩,
   ⟨sXst pv, fun f => .xst f.m f.a f.xstSrc⟩,
   ⟨sP 6 0xC 6 .reg .reg .reg .atom (.opt false [0, 1, 4, 5]), fun f => .axchg f.m (ASize.ofCode (f.v % 4)) (ASpace.ofCode (f.v / 4)) f.d f.a f.b⟩,
   ⟨sP 6 0xC 7 .reg .reg .reg .atom (.opt false [0, 1, 4, 5]) .reg, fun f => .acas f.m (ASize.ofCode (f.v % 4)) (ASpace.ofCode (f.v / 4)) f.d f.a f.b f.c⟩]

/-- Page 11, major 0xC; TLBINV depends on its variant. -/
def rowsP11C (pv : Nat) : List Row :=
  [⟨sP 11 0xC 0 .zero .zero .zero .none, fun _ => .rfe⟩,
   ⟨sP 11 0xC 1 .reg .zero .zero .none, fun f => .wmark f.d⟩,
   ⟨sP 11 0xC 2 .zero .reg .zero .fovr (vOnly 2), fun f => .pref f.m (PrefKind.ofCode f.v) f.a⟩,
   ⟨sTlbinv pv, fun f => .tlbinv f.m f.tlbOp⟩,
   ⟨sP 11 0xC 4 .zero .zero .zero .none, fun _ => .halt⟩]

/-- Page 9, major 0xD; TCALL by its form (R54), which is 0 to 4. -/
def rowsP9D (form : Nat) : List Row :=
  [⟨sTcall form, fun f => .tcall f.m (TForm.ofCode form) f.imm⟩,
   ⟨sK 9 1 .reg .zero .fovr false (some (0, 7)), fun f => .tinfo f.m f.d f.imm.toNat⟩]

/-- Major 0x6 (R47): kind in bits 5 to 3, value in bits 2 to 0. -/
def lookup6 (kind val : Nat) : Option Row :=
  match kind, val with
  | 0, v => rows6a[v]?
  | 1, 0 => some ⟨sTwo 8 .fovr, fun f => .sextB f.m f.d f.a⟩
  | 1, 1 => some ⟨sTwo 9 .fovr, fun f => .sextH f.m f.d f.a⟩
  | 1, 2 => some ⟨sTwo 10 .fovr, fun f => .sextW f.m f.d f.a⟩
  | 1, 4 => some ⟨sTwo 12 .fovr, fun f => .zextB f.m f.d f.a⟩
  | 1, 5 => some ⟨sTwo 13 .fovr, fun f => .zextH f.m f.d f.a⟩
  | 1, 6 => some ⟨sTwo 14 .fovr, fun f => .zextW f.m f.d f.a⟩
  | 2, v => if h : v < 6 then some ⟨sWid v, fun f => .wid f.d ⟨v, h⟩⟩ else Option.none
  | 4, _ => some ⟨sTwo 32 .fovr (some { w := 3, pos := 0, signed := false, lim := some (0, 63) }), fun f => .shli f.m f.d f.a f.imm.toNat⟩
  | 5, _ => some ⟨sTwo 40 .fovr (some { w := 3, pos := 0, signed := false, lim := some (0, 63) }), fun f => .shri f.m f.d f.a f.imm.toNat⟩
  | 6, _ => some ⟨sTwo 48 .fovr (some { w := 3, pos := 0, signed := false, lim := some (0, 63) }), fun f => .sari f.m f.d f.a f.imm.toNat⟩
  | 7, _ => some ⟨sTwo 56 .fovr (some { w := 3, pos := 0, signed := true }), fun f => .andi f.m f.d f.a f.imm⟩
  | _, _ => Option.none

/-- Major 0xA (R50): space in bits 5 to 4, size in 3 to 2, op in 1 to 0. -/
def lookupA (sp sz op : Nat) : Option Row :=
  match op, sz with
  | 0, _ => some ⟨sMem 0 sz sp .ld .reg (.opt false tagVars), fun f => .ld f.m (Tag.ofCode f.v) (Size.ofCode sz) (Space.ofCode sp) f.d f.a⟩
  | 1, 3 => Option.none
  | 1, _ => some ⟨sMem 1 sz sp .ld .reg (.opt false tagVars), fun f => .ldN f.m (Tag.ofCode f.v) (NSize.ofCode sz) (Space.ofCode sp) f.d f.a⟩
  | 2, _ => some ⟨sMem 2 sz sp .st .reg .none, fun f => .st f.m (Size.ofCode sz) (Space.ofCode sp) f.d f.a⟩
  | 3, 0 => some ⟨sMem 3 0 sp .ld .vec (.opt true tagVars), fun f => .ldv f.m f.g (Tag.ofCode f.v) (Space.ofCode sp) f.d.slotD f.a⟩
  | 3, 1 => some ⟨sMem 3 1 sp .st .vec pOnly, fun f => .stv f.m f.g (Space.ofCode sp) f.d.slotD f.a⟩
  | _, _ => Option.none

/-- Major 0xB (R51). -/
def lookupB (sub : Nat) : Option Row :=
  match sub with
  | 0 => some ⟨sCtl 0 .zero, fun _ => .nop⟩
  | 1 => some ⟨sCtl 1 .reg, fun f => .bri f.a⟩
  | 2 => some ⟨sCtl 2 .reg, fun f => .calli f.a⟩
  | 3 => some ⟨sCtl 3 .zero, fun _ => .ret⟩
  | 4 => some ⟨sLoop, fun f => .loop f.m f.a f.imm⟩
  | 5 => some ⟨sCtl 5 .zero, fun _ => .yield⟩
  | 6 => some ⟨sCtl 6 .zero, fun _ => .exit⟩
  | _ => Option.none

/-- Major 0xE (R52): index register and op. -/
def lookupE (x op : Nat) : Option Row :=
  match op with
  | 0 => some ⟨sWin 0 x .reg .fovr false Option.none, fun f => .ldx f.m f.d (Fin.ofNat 4 x) f.imm.toNat⟩
  | 1 => some ⟨sWin 1 x .reg .fovr false Option.none, fun f => .stx f.m f.d (Fin.ofNat 4 x) f.imm.toNat⟩
  | 2 => some ⟨sWin 2 x .zero .none false (some (0, 65535)), fun f => .xset (Fin.ofNat 4 x) f.imm.toNat⟩
  | _ => some ⟨sWin 3 x .zero .none true (some (-32768, 32767)), fun f => .xadd (Fin.ofNat 4 x) f.imm⟩

/-- Pages 1 to 11 (R53, R54). DEDUCED, log entry 11. -/
def lookupPage (page major minor pv fa fb : Nat) : Option Row :=
  match page, major with
  | 1, 12 => rowsP1C[minor]?
  | 1, 13 => rowsP1D[minor]?
  | 2, 12 => rowsP2C[minor]?
  | 2, 13 => (rowsP2D pv)[minor]?
  | 3, 12 => rowsP3C[minor]?
  | 3, 13 => if minor = 2 ∧ 5 < fa then Option.none else (rowsP3D pv fa)[minor]?
  | 4, 12 => rowsP4C[minor]?
  | 4, 13 => rowsP4D[minor]?
  | 5, 12 => rowsP5C[minor]?
  | 6, 12 => (rowsP6C pv)[minor]?
  | 6, 13 => rowsP6D[minor]?
  | 7, 12 => rowsP7C[minor]?
  | 8, 12 => rowsP8C[minor]?
  | 8, 13 => rowsP8D[minor]?
  | 9, 12 => rowsP9C[minor]?
  | 9, 13 => if minor = 0 ∧ 4 < fb then Option.none else (rowsP9D fb)[minor]?
  | 10, 12 => rowsP10C[minor]?
  | 10, 13 => rowsP10D[minor]?
  | 11, 12 => (rowsP11C pv)[minor]?
  | 11, 13 => rowsP11D[minor]?
  | _, _ => Option.none

/-- The row of a word (R43, R46): page, word, whether XIMM is present (R40), and the variant number the first XIMM
would carry, on which the roles of a few fields depend. -/
def lookup (page word : Nat) (hasX : Bool) (pv : Nat) : Option Row :=
  let major := word / 4096
  let minor := word % 8
  if 12 ≤ major ∧ major ≤ 13 then lookupPage page major minor pv (word / 64 % 8) (word / 8 % 8)
  else if page ≠ 0 then Option.none
  else
    match major with
    | 1 => rows1[minor]?
    | 2 => rows2[minor]?
    | 3 => rows3[minor]?
    | 4 => some ⟨sAddi, fun f => .addi f.m f.d f.a f.imm⟩
    | 5 => some ⟨sMovi, fun f => .movi f.d f.imm⟩
    | 6 => lookup6 (word / 8 % 8) minor
    | 7 => if hasX then some ⟨sCmpi minor, fun f => .cmpi f.m (Cond.ofCode minor) f.d.codeD f.a f.imm⟩
           else some ⟨sCmp minor, fun f => .cmp f.m (Cond.ofCode minor) f.d.codeD f.a f.b⟩
    | 8 => if word / 256 % 2 = 1 then some ⟨sBc 1, fun f => .bc f.d.codeD f.imm⟩
           else some ⟨sBc 0, fun f => .bcN f.d.codeD f.imm⟩
    | 9 => if word / 2048 % 2 = 1 then some ⟨sBr 1, fun f => .call f.imm⟩ else some ⟨sBr 0, fun f => .br f.imm⟩
    | 10 => lookupA (word / 16 % 4) (word / 4 % 4) (word % 4)
    | 11 => lookupB (word / 512 % 8)
    | 14 => lookupE (word / 128 % 4) (word / 32 % 4)
    | _ => Option.none


/-! ### Decoding. -/

/-- What a decode trap names (R464): ILL_PFX or ILL_OP, and the halfword, counted from the instruction's first. -/
structure DecErr where
  pfx : Bool
  idx : Nat
  deriving DecidableEq, Repr

/-- The prefixes of an instruction, each with its place. -/
structure Prefixes where
  n : Nat := 0
  page : Option (Nat × Nat) := Option.none
  xmod : Option (Nat × Nat) := Option.none
  xd : Option (Nat × Nat) := Option.none
  xa : Option (Nat × Nat) := Option.none
  xb : Option (Nat × Nat) := Option.none
  xc : Option (Nat × Nat) := Option.none
  ximm : List (Nat × Nat) := []
  deriving DecidableEq, Repr

/-- One prefix, at its place (R17, R37, R38): a fifth prefix, a second XPAGE or XMOD, or a second XREG of one
field is misuse. XIMM payloads are kept with the last first. -/
def Prefixes.add (p : Prefixes) (h : Nat) : Except DecErr Prefixes :=
  let i := p.n
  let pay := h % 1024
  if 4 ≤ i then .error ⟨true, i⟩
  else
    match h / 1024 with
    | 0 => .ok { p with n := i + 1, ximm := (pay, i) :: p.ximm }
    | 1 =>
      let e := (pay % 256, i)
      match pay / 256 with
      | 0 => if p.xd.isSome then .error ⟨true, i⟩ else .ok { p with n := i + 1, xd := some e }
      | 1 => if p.xa.isSome then .error ⟨true, i⟩ else .ok { p with n := i + 1, xa := some e }
      | 2 => if p.xb.isSome then .error ⟨true, i⟩ else .ok { p with n := i + 1, xb := some e }
      | _ => if p.xc.isSome then .error ⟨true, i⟩ else .ok { p with n := i + 1, xc := some e }
    | 2 => if p.page.isSome then .error ⟨true, i⟩ else .ok { p with n := i + 1, page := some (pay, i) }
    | _ => if p.xmod.isSome then .error ⟨true, i⟩ else .ok { p with n := i + 1, xmod := some (pay, i) }

/-- The prefixes up to the word, and the word. Halfwords that end before a word are no instruction. -/
def scan : List HW → Prefixes → Except DecErr (Prefixes × Nat)
  | [], p => .error ⟨true, p.n⟩
  | h :: rest, p =>
    if h.toNat / 4096 = 0 then
      match p.add h.toNat with
      | .error e => .error e
      | .ok p' => scan rest p'
    else .ok (p, h.toNat)

/-- The operand a field gives: by XREG, or by its code. -/
def fieldOf (x : Option (Nat × Nat)) (bits : Nat) : Opnd :=
  match x with
  | some (s, _) => .slot (Fin.ofNat 256 s)
  | Option.none => .code (Fin.ofNat 8 bits)

/-- A field of the layout's own has no operand. -/
def Role.bits (r : Role) (bits : Nat) : Nat :=
  match r with
  | .own => 0
  | _ => bits

/-- The halfword a bad field d, a or b is charged to (R464, R42): the XREG where the field takes none, else the
word; none where the field is good. n is the word's place. DEDUCED, log entry 11. -/
def badField (r : Role) (x : Option (Nat × Nat)) (bits n : Nat) : Option Nat :=
  match x with
  | some (_, i) =>
    match r with
    | .reg => if bits = 0 then Option.none else some n
    | .vec => if bits = 0 then Option.none else some n
    | _ => some i
  | Option.none => if r.takes (.code (Fin.ofNat 8 (r.bits bits))) then Option.none else some n

/-- The first of two places. -/
def firstOf (a b : Option Nat) : Option Nat :=
  match a, b with
  | some i, some j => some (min i j)
  | some i, Option.none => some i
  | Option.none, j => j

/-- R56, step 5: reserved fields and XREG placement. The reserved low bits of a word stand in its fixed bits.
DEDUCED, log entry 11. -/
def badFields (s : Spec) (p : Prefixes) (word : Nat) : Option Nat :=
  let low := if s.imm.isNone && s.b == .zero && s.base / 4096 == 11 && word % 8 != 0 then some p.n else Option.none
  firstOf (firstOf (firstOf (badField s.d p.xd (s.d.bits (word / 512 % 8)) p.n)
    (badField s.a p.xa (s.a.bits (word / 64 % 8)) p.n)) (firstOf (badField s.b p.xb (s.b.bits (word / 8 % 8)) p.n)
    (match p.xc, s.c with
     | some _, .reg => Option.none
     | some (_, i), _ => some i
     | Option.none, _ => Option.none))) low

/-- R56, step 6: the XMOD payload as R45 has it. FENCE without one is charged to the word. DEDUCED, log entries 11 and 12. -/
def badXMod (s : Spec) (p : Prefixes) : Option Nat :=
  match p.xmod with
  | Option.none => if s.xc == .fence then some p.n else Option.none
  | some (x, i) => if x % 2 = 1 ∨ x / 32 % 4 = 3 ∨ !s.xc.takes (XMod.ofBits x) then some i else Option.none

/-- The immediate's bits above the word's field: the XIMM payloads, the first the most significant (R39); the list
has the last first. -/
def ximmVal : List (Nat × Nat) → Nat
  | [] => 0
  | (p, _) :: rest => p + 1024 * ximmVal rest

/-- The value of an immediate (R36, R39). -/
def immVal (im : ImmSpec) (xs : List (Nat × Nat)) (word : Nat) : Int :=
  let u := word / 2 ^ im.pos % 2 ^ im.w + 2 ^ im.w * ximmVal xs
  let n := im.w + 10 * xs.length
  if im.signed && decide (2 ^ (n - 1) ≤ u) then (u : Int) - 2 ^ n else u

/-- R56, step 7: XIMM and variants. Answers the payload. DEDUCED, log entries 11 and 12. -/
def payOf (s : Spec) (p : Prefixes) : Except DecErr Nat :=
  match s.imm, s.pay, p.ximm.reverse with
  | some _, _, _ => .ok 0
  | Option.none, .none, [] => .ok 0
  | Option.none, .none, (_, i) :: _ => .error ⟨false, i⟩
  | Option.none, .req _, [] => .error ⟨false, p.n⟩
  | Option.none, .opt _ _, [] => .ok 0
  | Option.none, pay, (v, i) :: more =>
    if pay.takes v then
      match more with
      | [] => .ok v
      | (_, j) :: _ => .error ⟨false, j⟩
    else .error ⟨false, i⟩

/-- The fields of a checked instruction. -/
def fieldsOf (s : Spec) (p : Prefixes) (word pay : Nat) : Fields :=
  { d := fieldOf p.xd (s.d.bits (word / 512 % 8)), a := fieldOf p.xa (s.a.bits (word / 64 % 8)),
    b := fieldOf p.xb (s.b.bits (word / 8 % 8)), c := fieldOf p.xc 0,
    g := match s.pay with
      | .opt _ _ => Fin.ofNat 8 (pay / 128)
      | _ => 0,
    v := match s.pay with
      | .opt _ _ => pay % 128
      | _ => pay,
    imm := match s.imm with
      | some im => immVal im p.ximm word
      | Option.none => 0,
    m := p.xmod.map fun x => XMod.ofBits x.1 }

/-- An instruction from its prefixes and its word, with the checks in the order of R56 from step 3 on.
DEDUCED, log entries 11 and 12. -/
def decodeWord (p : Prefixes) (word : Nat) : Except DecErr Instr :=
  let page := match p.page with
    | some (v, _) => v
    | Option.none => 0
  let pageAt := match p.page with
    | some (_, i) => i
    | Option.none => 0
  if 11 < page then .error ⟨false, pageAt⟩
  else
    let pv := match p.ximm.reverse with
      | (v, _) :: _ => v % 16
      | [] => 0
    match lookup page word (!p.ximm.isEmpty) pv with
    | Option.none => .error ⟨false, p.n⟩
    | some r =>
      match badFields r.spec p word with
      | some i => .error ⟨false, i⟩
      | Option.none =>
        match badXMod r.spec p with
        | some i => .error ⟨false, i⟩
        | Option.none =>
          match payOf r.spec p with
          | .error e => .error e
          | .ok pay =>
            let f := fieldsOf r.spec p word pay
            if f.immOk r.spec then .ok (r.make f) else .error ⟨false, p.n⟩

/-- Decoding of a stream of halfwords: the instruction and how many halfwords it takes. -/
def decode (hs : List HW) : Except DecErr (Instr × Nat) :=
  match scan hs {} with
  | .error e => .error e
  | .ok (p, word) =>
    match decodeWord p word with
    | .error e => .error e
    | .ok i => .ok (i, p.n + 1)

/-- The halfwords of a table row's bits. Of a row's two halfwords the prefix comes first in the stream (R31), and the table writes
it in bits 31 to 16 (log entry 6). -/
def tableHalfwords (nbits w : Nat) : List HW :=
  if nbits ≤ 16 then [BitVec.ofNat 16 w]
  else if w % 65536 < 4096 then [BitVec.ofNat 16 w, BitVec.ofNat 16 (w / 65536)]
  else [BitVec.ofNat 16 (w / 65536), BitVec.ofNat 16 w]

/-- The instruction the decoder reads from a row of the opcode table. DEDUCED, log entry 6. -/
def decodeTableWord (nbits w : Nat) : Option Instr :=
  match decode (tableHalfwords nbits w) with
  | .ok (i, _) => some i
  | .error _ => Option.none

/-! ### Encoding (R16, R37): XPAGE, XREG d, a, b, c, XMOD, XIMM with the most significant first, the word. -/

/-- A prefix's halfword. -/
def prefixHw (kind pay : Nat) : HW := BitVec.ofNat 16 (kind * 1024 + pay)

/-- The XREG prefix of an operand, by the number of its field. -/
def Opnd.xreg (o : Opnd) (field : Nat) : List HW :=
  match o with
  | .slot s => [prefixHw 1 (field * 256 + s.val)]
  | .code _ => []

/-- The payloads of n XIMM prefixes over the bits u of an immediate above the word's field, the most significant
first. -/
def ximmHws (u : Nat) : Nat → List HW
  | 0 => []
  | n + 1 => prefixHw 0 (u / 1024 ^ n % 1024) :: ximmHws u n

/-- The bits of an immediate whose field and n XIMM prefixes hold it (R39). -/
def immBits (im : ImmSpec) (n : Nat) (v : Int) : Nat := (v % (2 ^ (im.w + 10 * n) : Int)).toNat

/-- The XIMM prefixes of an instruction. -/
def Fields.ximmList (f : Fields) (s : Spec) : List HW :=
  match s.imm with
  | some im => ximmHws (immBits im (f.ximms s) f.imm / 2 ^ im.w) (f.ximms s)
  | Option.none => if f.ximms s = 0 then [] else [prefixHw 0 f.payload]

/-- The instruction word (R34). -/
def Fields.word (f : Fields) (s : Spec) : Nat :=
  s.base + 512 * f.d.fieldNat + 64 * f.a.fieldNat + 8 * f.b.fieldNat +
    (match s.imm with
     | some im => immBits im (f.ximms s) f.imm % 2 ^ im.w * 2 ^ im.pos
     | Option.none => 0)

/-- The halfwords of a row's fields. -/
def encodeFields (s : Spec) (f : Fields) : List HW :=
  (if s.page = 0 then [] else [prefixHw 2 s.page]) ++ f.d.xreg 0 ++ f.a.xreg 1 ++ f.b.xreg 2 ++ f.c.xreg 3 ++
    (match f.m with
     | some x => [prefixHw 3 x.bits]
     | Option.none => []) ++ f.ximmList s ++ [BitVec.ofNat 16 (f.word s)]

/-- The halfwords of an instruction; an event has none. -/
def encode (i : Instr) : List HW :=
  match i.enc with
  | some (s, f) => encodeFields s f
  | Option.none => []

end Sys2Proof
end

