-- ==== Sys2Proof/Config.lean ====
section
/-! DEFINITION. What the spec leaves open: free values, each an opaque constant applied to a counter of the state or to the
operands it depends on, so that no proof can see what it is (log entry 7). -/

namespace Sys2Proof.Config

/-- Whether a weak load merges with an earlier request of its cluster (16 R302, 17 R320). DEDUCED, log entry 4.
DESIGN CHOICE, log entry 7. -/
opaque mergeLoad : Nat → Bool

/-- Whether a weak store merges with one of its thread still waiting on the same 64 bytes (16 R302). DEDUCED, log entry 4. -/
opaque mergeStore : Nat → Bool

/-- How a weak store is split where it is performed in parts (16 R302): the base-2 logarithm of an aligned part's size, and
which of the parts that its bytes span goes first; none where it goes whole. DEDUCED, log entry 4. -/
opaque splitStore : Nat → Option (Nat × Nat)

/-- Whether a weak store that has been performed is performed again (16 R302). DEDUCED, log entry 4. -/
opaque repeatStore : Nat → Bool

/-- Whether an engine that holds a word it has read reads the next one before it writes that word (18 R339).
DEDUCED, log entry 41. -/
opaque readsAhead : Nat → Bool

/-- Which of the words it holds an engine writes next (18 R339): its stores are weak. DEDUCED, log entry 41. -/
opaque heldNext : Nat → Nat

/-- Which of the blocks of an A tile that a feed has still to read it reads next (13 R253). DEDUCED, log entry 36. -/
opaque feedNext : Nat → Nat

/-- How many serials a task unit draws at once for a context (04 R71). DESIGN CHOICE, log entry 75. -/
opaque serialBlock : Nat → Nat

/-- Whether a fetch of a halfword replaced within the running launch returns the old one (03 R60).
DESIGN CHOICE, log entry 7. -/
opaque oldCode : Nat → Bool

/-- A byte that a Rinair peer or a root port answers (17 R320, 25 R433, R441). DESIGN CHOICE, log entry 7. -/
opaque outsideByte : Nat → Byte

/-- Whether a Rinair peer refuses an access (25 R433): its import table lies outside the module.
DESIGN CHOICE, log entry 7. -/
opaque peerRefuses : Nat → Bool

/-- A byte that a collective writes from its peers' contributions, and the order of the sum (25 R437).
DESIGN CHOICE, log entry 7. -/
opaque collByte : Nat → Byte

/-- How far, in units of the last place of an FP32 result, the SFU's answer may stand from the correctly rounded one:
the function, FLUSH, the input's bits (12 R241). The result is the bits themselves, taken only within the bound.
DESIGN CHOICE, log entries 7 and 33. -/
opaque sfu : Sfu → Bool → BitVec 32 → BitVec 32

/-- Whether a signature verifies under SM2 (24 R425 to R428): the key, the message and the signature.
DESIGN CHOICE, log entry 7. -/
opaque sm2 : Nat → Nat → Nat → Bool

/-- The vendor's key, and the owner's root hash that LOCKED fuses (24 R425, R428). -/
opaque vendorKey : Nat
opaque ownerRoot : Nat

/-- A nonce of the security block (24 R428). DESIGN CHOICE, log entry 7. -/
opaque nonce : Nat → Nat

/-- The SM3 HMAC over a checkpoint image, under the security block's per-context key (24 R427).
DESIGN CHOICE, log entries 7 and 68. -/
opaque hmac : Nat → List Nat → Nat

/-- The digest of a message (24 R426). DESIGN CHOICE, log entry 7. -/
opaque sm3 : List Nat → Nat

/-- The device's identity (24 R428). -/
opaque device : Nat

/-- The measurements of the boot firmware and the resident kernel (24 R426), and of a context's code and launch pool as they
stood at its first LARM, by the context and that LARM's place in the order of requests. DESIGN CHOICE, log entry 7. -/
opaque measure : Nat → Nat → Nat

/-- The 32-bit hash that an answer cell holds of its answer (06 R115). DESIGN CHOICE, log entry 83. -/
opaque answerHash : List Nat → BitVec 32

/-- Where a window's snapshot lies, by context and window (23 R395); where a unit saves its registers for a context, by its unit
code (09 R172). DESIGN CHOICE, log entry 82. -/
opaque snapAt : Nat → Nat → Nat
opaque saveAt : Nat → Nat → Nat

end Sys2Proof.Config
end

