-- ==== Sys2Proof/Machine/Operands.lean ====
section
/-! DEFINITION. Operands of the encoded instructions over one task: register keys, reads with the tag check of R85 and
R160, the bounds of R149, R157 and R469, writes with lt (R12, R13), marks of a region (R368, R371). -/

namespace Sys2Proof.Machine

/-- Why an instruction does not take its effect: a trap with TRAP_ADDR and the gang member that raised it (R165, R77);
a PAGE_FAULT or a PROT for the fault buffer (15 R288: cause 0 not present, 1 rights, 2 malformed; access bits 0 read,
1 write, 2 fetch, 3 engine); the abort of the open region (R370, R372); an unbounded wait, after which it is
reissued (R64, R65); or a bounded park before the instruction could act, after which it is reissued (R63). -/
inductive Stop where
  | trap (code : Nat) (addr : Word) (member : Nat)
  | xfault (cause acc : Nat) (va : Word) (member : Nat)
  | abort (cause : Nat)
  /-- A precise strike (22 R389): the first watched byte, and the key, the address and the size of the access. -/
  | watch (addr : Word) (key : Nat) (va : Word) (n : Nat)
  | wait (w : Wait)
  | retry (why : Park)
  deriving DecidableEq, Repr

/-! Trap codes (R166). -/

def illOp : Nat := 0x01
def illPfx : Nat := 0x02
def regBound : Nat := 0x03
def fmtMismatch : Nat := 0x04
def alignTrap : Nat := 0x05
def pageFault : Nat := 0x06
def prot : Nat := 0x07
def nackWindow : Nat := 0x08
def staleHandle : Nat := 0x09
def divZero : Nat := 0x0A
def mxCombo : Nat := 0x0B
def tblExhaust : Nat := 0x0C
def fpEvent : Nat := 0x0D
def watchTrap : Nat := 0x0E
def brkTrap : Nat := 0x0F
def gangFault : Nat := 0x10
def uncorrData : Nat := 0x11
def engineFault : Nat := 0x12
def trapTrap : Nat := 0x13
def syscTrap : Nat := 0x14

/-! Causes of a region's abort (R375). -/

def abConflict : Nat := 0x01
def abSlots : Nat := 0x02
def abConstraints : Nat := 0x03
def abStores : Nat := 0x04
def abShadow : Nat := 0x05
def abLength : Nat := 0x06
def abOverlap : Nat := 0x07
def abTable : Nat := 0x08
def abEngine : Nat := 0x09
def abIrrev : Nat := 0x0A
def abPreempt : Nat := 0x0B
def abHalt : Nat := 0x0C
def abFault : Nat := 0x0D
def abForbidden : Nat := 0x0E
def abExplicit (k : Nat) : Nat := 0x0F + 256 * k

/-- The key of main-file slot j. -/
def slotKey (j : Nat) : Nat := 8 + j

end Sys2Proof.Machine

namespace Sys2Proof

/-- The register key an operand names. -/
def Opnd.key : Opnd → Nat
  | .code n => n.val
  | .slot j => Machine.slotKey j.val

end Sys2Proof

namespace Sys2Proof.Machine

/-- The latch lt as an operand (R12). -/
def lt : Opnd := .code 0

/-- a1 to a7 as operands. -/
def ar (n : Fin 8) : Opnd := .code n

/-- A register's cell in an image. -/
def Image.cell (g : Image) (k : Nat) : RCell := Tab.look RCell.fresh g.regs k

/-- A register's value: one tagged unwritten reads zero (R19). -/
def RCell.read (c : RCell) : Word := if c.tag = .unwritten then 0 else c.val

/-- A task's register. -/
def Task.cell (t : Task) (k : Nat) : RCell := t.img.cell k

/-- The value of a task's operand, with no tag check. -/
def Task.val (t : Task) (o : Opnd) : Word := (t.cell o.key).read

/-- The tag of a task's operand. -/
def Task.tag (t : Task) (o : Opnd) : Tag := (t.cell o.key).tag

/-- ALLOC (R149). -/
def Task.alloc (t : Task) : Nat := t.ctl.alloc.toNat

/-- The image lines of a main-file slot that an abort would have to restore: the line of its value, and, numbered from
32, the line of its tag (R372). The head and control lines are not counted. -/
def shadowLines (k : Nat) : List Nat := if k < 8 then [] else [(k - 8) / 8, 32 + (k - 8) / 128]

/-- A region with the lines of register k shadowed (R372). -/
def Region.shadowed (r : Region) (k : Nat) : Region :=
  { r with shadow := (shadowLines k).foldl (fun l n => if n ∈ l then l else l ++ [n]) r.shadow }

/-- A register written. -/
def Task.putCell (t : Task) (k : Nat) (c : RCell) : Task :=
  { t with
    img := { t.img with regs := Tab.put RCell.fresh t.img.regs k c }
    region := t.region.map (·.shadowed k) }

/-- A scalar result written to d and to lt (R12, R13), with a mark or none. -/
def Task.wrMark (t : Task) (d : Opnd) (v : Word) (g : Tag) (mk : Option Mark) : Task :=
  (t.putCell d.key ⟨v, g, mk⟩).putCell 0 ⟨v, g, mk⟩

/-- A scalar result written to d and to lt (R12, R13). -/
def Task.wr (t : Task) (d : Opnd) (v : Word) (g : Tag) : Task := t.wrMark d v g none

/-! Bounds (R149, R157, R469). -/

/-- The slots of scalar operands at or beyond ALLOC. -/
def Task.badScalars (t : Task) (os : List Opnd) : List Nat :=
  os.filterMap fun o => match o with
    | .code _ => none
    | .slot j => if t.alloc ≤ j.val then some j.val else none

/-- The failing slot of an operand of n registers of a view, each of `size` slots, that starts at slot s (R157, R469). -/
def View.bad (w : View) (size n s : Nat) : Option Nat :=
  let b := w.base.toNat
  let c := w.count.toNat
  if s < b ∨ (s - b) % size ≠ 0 ∨ b + size * c ≤ s then some s
  else if b + size * c < s + size * n then some (b + size * c) else none

/-- The least of a list of slots. -/
def leastSlot : List Nat → Option Nat
  | [] => none
  | j :: r => some (r.foldl Nat.min j)

/-- The trap of R469 for a list of failing slots. -/
def boundsOf (bad : List Nat) : Except Stop Unit :=
  match leastSlot bad with
  | none => .ok ()
  | some j => .error (.trap regBound (BitVec.ofNat 64 j) 0)

/-- Every scalar operand lies below ALLOC, or the trap of R469. DEDUCED, log entry 9. -/
def Task.bounds (t : Task) (os : List Opnd) : Except Stop Unit := boundsOf (t.badScalars os)

/-! Tag checks (R85, R160). -/

/-- A mismatched tag is read unchanged: FMT_MODE.CONV or the instruction's FOVR (R160). -/
def Task.conv (t : Task) (m : Option XMod) : Bool :=
  t.ctl.fmtMode == 1 || (match m with | some x => x.fovr | none => false)

/-- The tags a raw integer operand accepts (R85). -/
def rawTags : List Tag := [.raw, .addr, .unwritten]

/-- A cell's tag passes: it is unwritten, one of those expected, or read under CONV or FOVR (R160). -/
def Task.tagOk (t : Task) (m : Option XMod) (want : List Tag) (c : RCell) : Bool :=
  t.conv m || c.tag == .unwritten || want.contains c.tag

/-- A scalar operand read as a raw integer (R85). -/
def Task.raw (t : Task) (m : Option XMod) (o : Opnd) : Except Stop Word :=
  if t.tagOk m rawTags (t.cell o.key) then .ok (t.val o) else .error (.trap fmtMismatch t.pc 0)

/-- A scalar operand read as one of several formats (R160). -/
def Task.readAs (t : Task) (m : Option XMod) (want : List Tag) (o : Opnd) : Except Stop Word :=
  if t.tagOk m want (t.cell o.key) then .ok (t.val o) else .error (.trap fmtMismatch t.pc 0)

/-! Predicates (R35, R161). -/

/-- A predicate of an image; p0 reads all ones. -/
def Image.pred (g : Image) (p : Fin 8) : Mask := if p = 0 then BitVec.allOnes 16 else Tab.look 0 g.p p.val

/-- An image with a predicate written; a write to p0 is discarded. -/
def Image.setPred (g : Image) (p : Fin 8) (v : Mask) : Image := if p = 0 then g else { g with p := Tab.put 0 g.p p.val v }

/-- All lanes 1 or all lanes 0. -/
def laneFill (b : Bool) : Mask := if b then BitVec.allOnes 16 else 0

/-- A scalar comparison's predicate: every lane, in every member of the gang (R99, R76). -/
def Task.setPredAll (t : Task) (p : Fin 8) (b : Bool) : Task :=
  { t with img := t.img.setPred p (laneFill b), fol := t.fol.map (·.setPred p (laneFill b)) }

/-- Lane 0 of a predicate of member 0. -/
def Task.lane0 (t : Task) (p : Fin 8) : Bool := (t.img.pred p).getLsbD 0

/-! Marks (R368, R371). -/

/-- The mark of a register that counts: none where its slot is pinned (R371). -/
def Task.markOf (t : Task) (k : Nat) : Option Mark :=
  match t.region, (t.cell k).mark with
  | some r, some k' =>
    match r.slots[k'.slot]? with
    | some s => if s.pinned then none else some k'
    | none => none
  | _, _ => none

/-- A region with slot i pinned (R371): the first time, one constraint entry. -/
def Region.pin (r : Region) (i : Nat) : Region :=
  match r.slots[i]? with
  | some s => if s.pinned then r else { r with slots := r.slots.set i { s with pinned := true }, pins := r.pins + 1 }
  | none => r

/-- A register concretized (R371). -/
def Task.concKey (t : Task) (k : Nat) : Task :=
  match t.markOf k with
  | some k' => { t with region := t.region.map (·.pin k'.slot) }
  | none => t

/-- Registers concretized. -/
def Task.conc (t : Task) (ks : List Nat) : Task := ks.foldl Task.concKey t

/-- How an open region treats an instruction (R370): it carries marks itself; it aborts the region; every marked
source is concretized first; the same outside a gang, and in a gang it aborts. -/
inductive RRule where
  | own
  | abort (cause : Nat)
  | conc (srcs : List Nat)
  | vec (srcs : List Nat)
  deriving DecidableEq, Repr

/-- The register keys of scalar operands. -/
def keysOf (os : List Opnd) : List Nat := os.map Opnd.key

/-- The register keys of a vector operand's eight slots. -/
def vecKeys (s : Fin 256) : List Nat := (List.range 8).map fun i => slotKey (s.val + i)

/-- The abort of R372 when a region's buffers exceed their limits. -/
def Region.over (r : Region) : Option Nat :=
  if 8 < r.slots.length then some abSlots
  else if 16 < r.cons.length + r.pins then some abConstraints
  else if 8 < r.stores.length then some abStores
  else if 8 < r.shadow.length then some abShadow
  else none

/-- What R370 and the limit on a region's length (R372) do before an instruction acts. DESIGN CHOICE, log entry 31. -/
def Task.allow (t : Task) (rule : RRule) : Except Stop Task :=
  match t.region with
  | none => .ok t
  | some _ =>
    if 128 < t.rstat.insns then .error (.abort abLength)
    else match rule with
      | .own => .ok t
      | .abort c => .error (.abort c)
      | .conc srcs => .ok (t.conc srcs)
      | .vec srcs => if t.fol.isEmpty then .ok (t.conc srcs) else .error (.abort abForbidden)

/-- The abort an instruction's effect brings when it exceeds a buffer of the region (R372). -/
def Task.within (t : Task) : Except Stop Task :=
  match t.region with
  | none => .ok t
  | some r =>
    match r.over with
    | some c => .error (.abort c)
    | none => .ok t

/-- The registers of a region's abort restored, lt holding the cause (R366, R375); control at the failure label.
DEDUCED, log entry 13. -/
def Task.aborted (t : Task) (cause : Nat) : Task :=
  match t.region with
  | none => t
  | some r =>
    { t with
      img := { r.saved.img with
               regs := Tab.put RCell.fresh r.saved.img.regs 0 ⟨BitVec.ofNat 64 cause, .raw, none⟩ }
      x := r.saved.x
      fol := r.saved.fol
      ctl := r.saved.ctl
      region := none
      rstat := { insns := t.rstat.insns, cons := r.cons.length + r.pins, stores := r.stores.length,
                 slots := r.slots.length, cause := cause % 256, adj := false, ok := false }
      pc := r.fail
      npc := r.fail }

/-- An effect on one task, under the region's rules. -/
def Task.perform (t : Task) (rule : RRule) (f : Task → Except Stop Task) : Except Stop Task := do
  let t1 ← t.allow rule
  let t2 ← f t1
  t2.within

end Sys2Proof.Machine
end

