-- ==== Sys2Proof/Machine/Base.lean ====
section
/-! DEFINITION. Access to the parts of the chip: tasks, contexts, bytes and their keys, full/empty bits, tables of
engines; and the Silt appends that every write makes (15 R274, 23 R393 to R402). -/

namespace Sys2Proof.Machine

/-! ### Identifiers -/

/-- The context of a task (04 R71). -/
def ctxOf (g : Gid) : Nat := g / 2 ^ 40

/-- The serial of a task (04 R71). -/
def serialOf (g : Gid) : Nat := g % 2 ^ 40

/-- The identifier of a task (04 R71). -/
def gidOf (c serial : Nat) : Gid := c * 2 ^ 40 + serial % 2 ^ 40

/-- The cluster of a global core number (04 R72). -/
def clusterOf (core : Nat) : Nat := core / 8

/-- The die of a global core number (04 R72). -/
def dieOf (core : Nat) : Nat := core / 1024

/-- The core a task sits on; 0 when it has no slot. -/
def Task.core (t : Task) : Nat := match t.seat with
  | some (c, _) => c
  | none => 0

/-- The slot a task sits on. -/
def Task.slot (t : Task) : Nat := match t.seat with
  | some (_, s) => s
  | none => 0

/-- A task that lives and holds a slot. -/
def Task.seatedOn (t : Task) : Bool := t.seat.isSome && t.phase != .ended

/-! ### Contexts and tasks -/

/-- A context. -/
def Mach.ctx (m : Mach) (c : Nat) : Ctx := Tab.look {} m.ctxs c

/-- A context changed. -/
def Mach.setCtx (m : Mach) (c : Nat) (f : Ctx → Ctx) : Mach := { m with ctxs := Tab.upd {} m.ctxs c f }

/-- Every task, the one in focus first. -/
def Mach.tasks (m : Mach) : List Task := m.t :: m.others

/-- A live task by its identifier. -/
def Mach.find (m : Mach) (g : Gid) : Option Task := m.tasks.find? fun t => t.gid == g && t.phase != .ended

/-- A change of every live task with an identifier. -/
def Mach.mapTask (m : Mach) (g : Gid) (f : Task → Task) : Mach :=
  { m with
    t := if m.t.gid = g ∧ m.t.phase ≠ .ended then f m.t else m.t
    others := m.others.map fun t => if t.gid = g ∧ t.phase ≠ .ended then f t else t }

/-- A change of every task. -/
def Mach.mapTasks (m : Mach) (f : Task → Task) : Mach := { m with t := f m.t, others := m.others.map f }

/-- The context of the task in focus. -/
def Mach.cur (m : Mach) : Nat := ctxOf m.t.gid

/-- The next place in the order of requests. -/
def Mach.tick (m : Mach) : Mach := { m with order := m.order + 1 }

/-- A partition. -/
def Mach.part (m : Mach) (p : Nat) : Part := Tab.look {} m.parts p

/-- The partition of a context. -/
def Mach.partOf (m : Mach) (c : Nat) : Part := m.part (m.ctx c).part

/-- A core belongs to a context's partition. -/
def Mach.ownsCore (m : Mach) (c core : Nat) : Bool :=
  (m.partOf c).clusters.contains (clusterOf core) && !(m.partOf c).fenced.contains core

/-! ### Units (26 R446) -/

/-- KIND of an engine (18 R334). -/
def kindCode : EngKind → Nat
  | .sequencer => 2
  | .copy => 3
  | .collective => 4
  | .loader => 5
  | .storer => 6

/-- The engine kind of a KIND. -/
def kindOf : Nat → Option EngKind
  | 2 => some .sequencer
  | 3 => some .copy
  | 4 => some .collective
  | 5 => some .loader
  | 6 => some .storer
  | _ => none

/-- The key of an engine. -/
def engKey (e : EngRef) : Nat := 4096 * kindCode e.kind + e.unit % 4096

/-- The unit code of an engine (26 R446). -/
def engParty (e : EngRef) : Nat := engKey e

/-- An engine. -/
def Mach.eng (m : Mach) (e : EngRef) : Engine := Tab.look {} m.engines (engKey e)

/-- An engine changed. -/
def Mach.setEng (m : Mach) (e : EngRef) (f : Engine → Engine) : Mach :=
  { m with engines := Tab.upd {} m.engines (engKey e) f }

/-- The unit code of a unit (26 R446). -/
def unitCode : UnitRef → Nat
  | .core n => 0x1000 + n % 4096
  | .matrix cl => 0x2000 + cl % 4096
  | .eng e => engKey e
  | .taskUnit cl => 0x7000 + cl % 4096

/-! ### Keys of the memory store (15 R274) -/

/-- Where each space but global memory starts in the memory store: one multiple of 2^52 for each. -/
def spaceBase (n : Nat) : Nat := n * 2 ^ 52

/-- A byte of a core's scratchpad bank (0 or 1). -/
def scratchKey (bank : Bool) (core off : Nat) : Nat :=
  spaceBase 1 + ((if bank then 4096 else 0) + core) * 65536 + off

/-- A byte of an activation buffer. -/
def actKey (core off : Nat) : Nat := spaceBase 2 + core * 65536 + off

/-- A byte of an accumulator buffer. -/
def accKey (core off : Nat) : Nat := spaceBase 3 + core * 65536 + off

/-- A byte of Kaolin, at 8192 × slot + offset of a cluster. -/
def kaolinKey (cl addr : Nat) : Nat := spaceBase 4 + cl * 2 ^ 19 + addr

/-- The front bank of a core (15 R279). -/
def Mach.frontOf (m : Mach) (core : Nat) : Bool := Tab.look false m.front core

/-- A byte of a core's front bank. -/
def Mach.frontKey (m : Mach) (core off : Nat) : Nat := scratchKey (m.frontOf core) core off

/-- A byte of a core's back bank. -/
def Mach.backKey (m : Mach) (core off : Nat) : Nat := scratchKey (!m.frontOf core) core off

/-! ### Bytes -/

/-- What an unlisted byte of memory reads as (log entry 1). -/
def emptyByte : Byte := 0

/-- A byte of the memory store. DESIGN CHOICE, log entry 1. -/
def Mach.byte (m : Mach) (k : Nat) : Byte := Tab.look emptyByte m.mem k

/-- n bytes from a key. -/
def Mach.peek (m : Mach) (k n : Nat) : List Byte := (List.range n).map fun i => m.byte (k + i)

/-- Bytes written from a key on, in a memory. DESIGN CHOICE, log entry 1. -/
def pokeMem (mem : List Host.Cell) (k : Nat) : List Byte → List Host.Cell
  | [] => mem
  | b :: r => pokeMem (Tab.put emptyByte mem k b) (k + 1) r

/-- Single bytes written in a memory. -/
def pokeCells (mem : List Host.Cell) : List (Nat × Byte) → List Host.Cell
  | [] => mem
  | (k, b) :: r => pokeCells (Tab.put emptyByte mem k b) r

/-- Bytes as a little-endian number (00 R10). -/
def leNat : List Byte → Nat
  | [] => 0
  | b :: r => b.toNat + 256 * leNat r

/-- The n low bytes of a number, little-endian (00 R10). -/
def leBytes (v : Nat) : Nat → List Byte
  | 0 => []
  | n + 1 => BitVec.ofNat 8 v :: leBytes (v / 256) n

/-- A word at a key. -/
def Mach.word (m : Mach) (k : Nat) : Nat := leNat (m.peek k 8)

/-- The canonical form of memory. DESIGN CHOICE, log entry 1. -/
abbrev memWf (mem : List Host.Cell) : Prop := Tab.wf emptyByte mem = true

/-- Consecutive bytes as cells. -/
def cellsFrom (k : Nat) : List Byte → List (Nat × Byte)
  | [] => []
  | b :: r => (k, b) :: cellsFrom (k + 1) r

/-- The full/empty bit of a scratchpad word (15 R279). -/
def Mach.full (m : Mach) (k : Nat) : Bool := Tab.look false m.fe (k / 8)

/-- A full/empty bit written. -/
def Mach.setFull (m : Mach) (k : Nat) (b : Bool) : Mach := { m with fe := Tab.put false m.fe (k / 8) b }

/-! ### The Silt log (23) -/

/-- The bytes a record takes (R395). -/
def SRec.bytes (r : SRec) : Nat :=
  32 + match r.old with
    | .bytes l _ => (l.length + 7) / 8 * 8
    | _ => (r.raw.length + 7) / 8 * 8

/-- The bytes the log's records take (R394). -/
def Silt.used (s : Silt) : Nat := (s.recs.map SRec.bytes).sum

/-- The log has room for n more bytes (R401). -/
def Silt.room (s : Silt) (n : Nat) : Bool := decide (s.used + n ≤ s.size)

/-- Records appended under one sequence number (R396). -/
def Silt.append (s : Silt) (rs : List SRec) : Silt :=
  { s with
    recs := s.recs ++ rs.map fun r => { r with seq := s.nextSeq, window := s.current }
    nextSeq := s.nextSeq + 1
    since := s.since + rs.length }

/-- The 64-byte line of a key is covered in the open window (R397). -/
def Silt.covered (s : Silt) (line : Nat) : Bool :=
  s.recs.any fun r => r.window == s.current && r.key == line * 64 &&
    (match r.old with | .bytes l _ => l.length == 64 | _ => false)

/-- The 64-byte line at an address of the table region or the launch pool is covered in the open window (R397). -/
def Silt.coveredArea (s : Silt) (k : SKind) (at_ : Nat) : Bool :=
  s.recs.any fun r => r.window == s.current && r.kind == k && r.key == at_ && r.raw.length == 64

/-- A mark in place of a record (R402), with the marker an external one requests under XW. -/
def Silt.mark (s : Silt) (k : SKind) (key party : Nat) (g : Gid) : Silt :=
  let s1 := s.append [{ seq := 0, kind := k, key := key, party := party, gid := g }]
  if k = .external then
    { s1 with lastExt := s.nextSeq, requests := if s.xw then s1.requests ++ [(6, g)] else s1.requests }
  else s1

/-- The full/empty bits a record of n bytes at a key holds (R395). -/
def Mach.feBits (m : Mach) (space k n : Nat) : List Bool :=
  if space = 1 ∨ space = 2 then (List.range ((k % 8 + n + 7) / 8)).map fun i => m.full (k + 8 * i) else []

/-- The record of one write, or none where the window's line record stands (R397). -/
def Mach.siltRec (m : Mach) (s : Silt) (space k n party : Nat) (g : Gid) : List SRec :=
  if s.full then
    [{ seq := 0, kind := .write, key := k, space := space, party := party, gid := g,
       old := .bytes (m.peek k n) (m.feBits space k n) }]
  else if s.covered (k / 64) then []
  else
    [{ seq := 0, kind := .write, key := k / 64 * 64, space := space, party := party, gid := g,
       old := .bytes (m.peek (k / 64 * 64) 64) (m.feBits space (k / 64 * 64) 64) }]

/-- The append a write of n bytes at a key makes in a context's log (R393, R397). -/
def Mach.siltWrite (m : Mach) (c space k n party : Nat) (g : Gid) : Mach :=
  let s := (m.ctx c).silt
  match m.siltRec s space k n party g with
  | [] => m
  | rs => m.setCtx c fun x => { x with silt := x.silt.append rs }

/-- What an effect appended to a context's log fits into it (R401): nothing was appended, or the records still fit. -/
def Mach.fits (m m1 : Mach) (c : Nat) : Bool :=
  (m1.ctx c).silt.nextSeq == (m.ctx c).silt.nextSeq || (m1.ctx c).silt.room 0

/-- An event whose appends find no room in a context's log waits (R401): it leaves the chip as it was, but that the log is known
to lack room. DESIGN CHOICE, log entry 22. -/
def Mach.orHold (m : Mach) (c : Nat) (m1 : Mach) : Mach :=
  if m.fits m1 c then m1 else m.setCtx c fun x => { x with silt := { x.silt with starved := true } }

/-- The unit code of a core (22 R391). -/
def threadParty (core : Nat) : Nat := 0x1000 + core % 4096

end Sys2Proof.Machine
end

