-- ==== Sys2Proof/Machine/Layout.lean ====
section
/-! DEFINITION. How the areas that the hardware keeps in a context's memory are laid out, byte by byte: register images (08 R150),
launch records (19 R346), the answer table's entries and cells (06 R115), stop and watch records (07 R148, 09 R172, 22 R391), the
log's header and records (23 R394, R395), the fault buffer's entries (15 R288), the breakpoint table (24 R412) and the areas
of the kernel (24 R420, 25 R444, 26 R446 to R451). No task and no
engine reaches any of them (06 R114, 08 R155, 17 R328, 19 R345), so the state holds what they say, and these functions give the
bytes (log entry 81). -/

namespace Sys2Proof.Machine

/-- The low n bytes of a list, padded with zeros. -/
def padTo (n : Nat) (l : List Byte) : List Byte := l.take n ++ List.replicate (n - l.length) 0

/-- Words, little-endian, eight bytes each. -/
def wordsBytes (l : List Word) : List Byte := l.flatMap fun w => leBytes w.toNat 8

/-! ### Register images (08 R150) -/

/-- A tag as an image stores it: complemented. -/
def tagNibble (c : RCell) : Nat := 15 - c.tag.toNat

/-- Tag nibbles from a key on, two to a byte, the lower key in bits 3 to 0. -/
def tagBytes (g : Image) (first n : Nat) : List Byte :=
  (List.range n).map fun i => BitVec.ofNat 8
    (tagNibble (Tab.look RCell.fresh g.regs (first + 2 * i)) + 16 * tagNibble (Tab.look RCell.fresh g.regs (first + 2 * i + 1)))

/-- The head line: lt and a1 to a7. -/
def Image.headLine (g : Image) : List Byte := wordsBytes ((List.range 8).map fun k => (Tab.look RCell.fresh g.regs k).val)

/-- The control line: the tags of the head line, x0 to x3, p1 to p7 and fl. -/
def Image.controlLine (g : Image) (x : Tab (BitVec 16)) : List Byte :=
  tagBytes g 0 4 ++
  ((List.range 4).flatMap fun i => leBytes (Tab.look 0 x i).toNat 2) ++
  ((List.range 7).flatMap fun i => leBytes (Tab.look 0 g.p (i + 1)).toNat 2) ++
  ([g.fl.iv, g.fl.dz, g.fl.of, g.fl.uf, g.fl.nx].flatMap fun f => leBytes f.toNat 2) ++ List.replicate 28 0

/-- A register image (R150). -/
def Image.bytes (g : Image) (x : Tab (BitVec 16)) (alloc : Nat) : List Byte :=
  g.headLine ++ g.controlLine x ++ tagBytes g 8 128 ++
  wordsBytes ((List.range alloc).map fun j => (Tab.look RCell.fresh g.regs (8 + j)).val)

/-- The bytes that hold one image at the largest allocation. -/
def imageSize : Nat := 0x900

/-- Where the image of a member of a task's gang lies, member 0 being the task (R150, R158). Where images lie is the resident
kernel's policy (25 R467). DESIGN CHOICE, log entry 82. -/
def Mach.imageAt (m : Mach) (c frame member : Nat) : Nat := (m.ctx c).imagesAt + imageSize * (8 * frame + member)

/-- A line of an image is fresh: nothing has written it (R151). -/
def Task.lineFresh (t : Task) (member line : Nat) : Bool := !t.written.contains (64 * member + line)

/-! ### Launch records (19 R346) -/

/-- ARGS of a record: six words. -/
def args6 (r : LaunchRec) : List Word := (r.args ++ List.replicate 6 0).take 6

/-- STATE's code. -/
def RState.code : RState → Nat
  | .idle => 0
  | .armed => 1
  | .running => 2
  | .retired => 3

/-- A launch record with its HW fields. -/
def PoolRec.bytes (p : PoolRec) : List Byte :=
  let r := p.r
  let run := p.state.code + (if p.earlyOn then 4 else 0) + p.pending % 65536 * 65536 + p.live % 2 ^ 32 * 2 ^ 32
  leBytes r.entry 8 ++ leBytes r.lo 8 ++ leBytes r.hi 8 ++ leBytes r.shape 8 ++ leBytes r.alloc 2 ++ leBytes r.viewV 2 ++
  leBytes r.viewT 2 ++ leBytes r.viewC 2 ++ leBytes r.steal 8 ++ leBytes r.token 8 ++ leBytes r.flags 4 ++ leBytes r.npred 2 ++
  leBytes r.rsv3e 2 ++ wordsBytes (args6 r) ++ leBytes r.wpreset 8 ++ leBytes r.rsv78 8 ++
  (((r.tiles ++ List.replicate 8 0).take 8).flatMap fun d => leBytes d 8) ++
  (((r.succ ++ List.replicate 16 0xFFFF).take 16).flatMap fun s => leBytes s 2) ++
  leBytes p.energy 8 ++ leBytes run 8 ++ leBytes r.completion 8 ++ leBytes r.rsvf8 8

/-! ### The answer table (06 R115) -/

/-- STATE's code. -/
def EState.code : EState → Nat
  | .free => 0
  | .eval => 1
  | .complete => 2
  | .failed => 3

/-- The header of an entry. -/
def Entry.header (e : Entry) : Nat :=
  e.state.code * 2 ^ 62 + e.form % 8 * 2 ^ 59 + e.code % 65536 * 2 ^ 40 + e.pins % 2 ^ 32

/-- The key field of an entry: the argument words, or the key-pool cell and the length of a .k key. -/
def Entry.keyField (e : Entry) : List Word :=
  let ws := if e.form = 4 then [BitVec.ofNat 64 (e.keyCells.headD 0), e.key.headD 0] else e.key
  (ws ++ List.replicate 4 0).take 4

/-- An entry's 128 bytes, for a group of so many members where the entry leads one. -/
def Entry.bytes (e : Entry) (members : Nat) : List Byte :=
  if e.state = .free then List.replicate 128 0
  else
    leBytes e.header 8 ++ leBytes e.hash.toNat 8 ++ leBytes e.callee.toNat 8 ++ wordsBytes e.keyField ++ leBytes e.creation 8 ++
    leBytes e.leader 4 ++ leBytes members 4 ++ leBytes e.producer 8 ++ leBytes e.answers.length 4 ++ leBytes 0 4 ++
    leBytes (e.ansCells.headD 0) 8 ++ leBytes (e.ansCells.getLastD 0) 8 ++ leBytes e.lru 8 ++ List.replicate 16 0

/-- A cell: 56 bytes, the next cell's index, and 32 bits more. -/
def cellBytes (data : List Byte) (next : Option Nat) (hash : Nat) : List Byte :=
  padTo 56 data ++ leBytes (next.getD 0xFFFFFFFF) 4 ++ leBytes hash 4

/-- The cells of a chain with their indices: each holds its data, the index of the next, and a hash of its data where it holds an
answer, whose function the spec leaves open (R115). DESIGN CHOICE, log entry 83. -/
def chainBytes (answers : Bool) : List Nat → List (List Byte) → List (Nat × List Byte)
  | c :: cs, d :: ds =>
    let h := if answers then (Config.answerHash (d.map (·.toNat))).toNat else 0
    (c, cellBytes d cs.head? h) :: chainBytes answers cs ds
  | _, _ => []

/-- The key bytes of a .k entry, 56 to a cell. -/
def Entry.keyChunks (e : Entry) : List (List Byte) :=
  if e.form = 4 then
    let bs := wordsBytes (e.key.drop 1)
    (List.range e.keyCells.length).map fun i => (bs.drop (56 * i)).take 56
  else []

/-- The answer cells and the key cells of an entry, by their indices in their pools. -/
def Entry.ansChain (e : Entry) : List (Nat × List Byte) := chainBytes true e.ansCells (e.answers.map wordsBytes)
def Entry.keyChain (e : Entry) : List (Nat × List Byte) := chainBytes false e.keyCells e.keyChunks

/-- The physical address of a cell of a pool that lies in extents, each with its base and its cells. -/
def cellAt : List (Nat × Nat) → Nat → Nat
  | [], n => 64 * n
  | (b, k) :: r, n => if n < k then b + 64 * n else cellAt r (n - k)

/-- The physical address of an entry: of the array, or of the array that a rehash is emptying (R131). -/
def Loam.entryPa (l : Loam) (i : Nat) : Nat := match l.moving with
  | some v => if 16 * l.nsets ≤ i then v.base + 128 * (i - 16 * l.nsets) else l.base + 128 * i
  | none => l.base + 128 * i

/-- The members of the group of a leader (R121). -/
def Loam.groupSize (l : Loam) (i : Nat) : Nat := (l.entries.filter fun p => p.2.state == .eval && p.2.leader == i).length

/-- The 64-byte lines that an entry's state occupies in the table region: those of the entry, of its answers and of its key. -/
def Loam.entryLines (l : Loam) (i : Nat) (e : Entry) : List (Nat × List Byte) :=
  let bs := e.bytes (if e.leader = i ∧ e.state = .eval then l.groupSize i else 0)
  [(l.entryPa i, bs.take 64), (l.entryPa i + 64, bs.drop 64)] ++
  (e.ansChain.map fun p => (cellAt l.ansExt p.1, p.2)) ++ (e.keyChain.map fun p => (cellAt l.keyExt p.1, p.2))

/-! ### Lines that a change touches (23 R397) -/

/-- The bytes of a line among lines: a free cell and an unlisted line hold zeros. DESIGN CHOICE, log entry 83. -/
def lineOf (ls : List (Nat × List Byte)) (a : Nat) : List Byte := ((ls.find? (·.1 == a)).map Prod.snd).getD (List.replicate 64 0)

/-- The first and one past the last of the positions at which two lines differ. -/
def diffSpan (a b : List Byte) : Option (Nat × Nat) :=
  let ds := (List.range 64).filter fun i => a.getD i 0 != b.getD i 0
  match ds.head?, ds.getLast? with
  | some i, some j => some (i, j + 1)
  | _, _ => none

/-- The lines that a change from some lines to others writes: the address, the old bytes, the span written. -/
def changedLines (old new : List (Nat × List Byte)) : List (Nat × List Byte × Nat × Nat) :=
  (((old ++ new).map Prod.fst).eraseDups).filterMap fun a =>
    (diffSpan (lineOf old a) (lineOf new a)).map fun s => (a, lineOf old a, s.1, s.2)

/-! ### Stop records (07 R148, 09 R172, 22 R391) -/

/-- The 64 bytes of a record of a stop area. -/
def StopRec.image : StopRec → List Byte
  | .core cause code n slot c g pc addr time work win alloc state at_ =>
    leBytes 1 2 ++ leBytes cause 1 ++ leBytes code 1 ++ leBytes n 2 ++ leBytes slot 1 ++ leBytes c 1 ++ leBytes g 8 ++
    leBytes pc.toNat 8 ++ leBytes addr.toNat 8 ++ leBytes time 8 ++ leBytes work.toNat 8 ++ leBytes win 4 ++ leBytes alloc 2 ++
    leBytes state 2 ++ leBytes at_ 8
  | .unit kind cause code u c g op addr time progress win pending state save =>
    leBytes kind 2 ++ leBytes cause 1 ++ leBytes code 1 ++ leBytes u 2 ++ leBytes 0 1 ++ leBytes c 1 ++ leBytes g 8 ++
    leBytes op 8 ++ leBytes addr 8 ++ leBytes time 8 ++ leBytes progress 8 ++ leBytes win 4 ++ leBytes pending 2 ++
    leBytes state 2 ++ leBytes save 8
  | .watch imprecise striker size c w g addr time old win skid seq =>
    leBytes 8 2 ++ leBytes (if imprecise then 1 else 0) 1 ++ leBytes 0x0E 1 ++ leBytes striker 2 ++ leBytes size 1 ++ leBytes c 1 ++
    leBytes w 8 ++ leBytes g 8 ++ leBytes addr.toNat 8 ++ leBytes time 8 ++ leBytes old.toNat 8 ++ leBytes win 4 ++ leBytes skid 2 ++
    leBytes 0 2 ++ leBytes seq 8
  | .overflow c time lost =>
    leBytes 9 2 ++ leBytes 1 1 ++ leBytes 0 4 ++ leBytes c 1 ++ leBytes 0 24 ++ leBytes time 8 ++ leBytes lost 8 ++ leBytes 0 16

/-! ### The Silt log (23 R394, R395) -/

/-- KIND's code. -/
def SKind.code : SKind → Nat
  | .write => 1
  | .group => 2
  | .table => 3
  | .launch => 4
  | .swap => 5
  | .marker => 6
  | .module => 7
  | .external => 8

/-- The old bytes that follow a record's header. -/
def SRec.oldBytes (r : SRec) : List Byte := match r.old with
  | .bytes l _ => l
  | _ => r.raw

/-- FE of a record: the old full/empty bits, one a word. -/
def SRec.feCode (r : SRec) : Nat := match r.old with
  | .bytes _ fe => (fe.zipIdx.map fun p => if p.1 then 2 ^ p.2 else 0).sum
  | _ => 0

/-- ADDR of a record, as SPACE and KIND select: a physical address; R186's form; the core and offset of a buffer; the cluster and
address in Kaolin; of a SWAP the core; of the others what `key` holds. -/
def SRec.addr (r : SRec) : Nat :=
  let rest := r.key % 2 ^ 52
  if r.kind = .swap then 2 ^ 32 + r.key * 2 ^ 20
  else match r.space with
    | 1 => 2 ^ 32 + rest / 65536 % 4096 * 2 ^ 20 + rest % 65536
    | 2 => 2 ^ 32 + rest / 65536 % 4096 * 2 ^ 20 + rest % 65536
    | 3 => rest / 65536 * 2 ^ 20 + rest % 65536
    | 4 => rest / 65536 * 2 ^ 20 + rest % 65536
    | 5 => rest / 2 ^ 19 * 2 ^ 20 + rest % 2 ^ 19
    | _ => r.key

/-- A record's bytes (R395). -/
def SRec.image (r : SRec) : List Byte :=
  leBytes r.seq 8 ++ leBytes r.kind.code 1 ++ leBytes r.oldBytes.length 1 ++ leBytes r.feCode 1 ++ leBytes r.space 1 ++
  leBytes r.window 4 ++ leBytes r.addr 8 ++ leBytes (r.party % 65536 * 2 ^ 48 + r.gid % 2 ^ 48) 8 ++
  padTo ((r.oldBytes.length + 7) / 8 * 8) r.oldBytes

/-- HEAD: the offset of the next record (R394). -/
def Silt.head (s : Silt) : Nat := (s.tail + s.used) % s.size

/-- The header of a log's region (R394). -/
def Silt.header (s : Silt) : List Byte :=
  leBytes s.size 8 ++ leBytes s.head 8 ++ leBytes s.tail 8 ++ leBytes s.nextSeq 8 ++ leBytes s.horizon 4 ++ leBytes s.current 4 ++
  leBytes s.horizonSeq 8 ++ leBytes s.lastExt 8 ++ leBytes s.shed 8

/-- The byte at an offset of a log's record space: the records stand end to end from TAIL on, round the ring (R394). -/
def Silt.ringByte (s : Silt) (o : Nat) : Byte := (s.recs.flatMap SRec.image).getD ((o + s.size - s.tail) % s.size) 0

/-! ### The fault buffer (15 R288) and the breakpoint table (24 R412) -/

/-- The 32 bytes of an entry of a fault buffer. -/
def FaultEnt.bytes (f : FaultEnt) : List Byte :=
  leBytes f.va 8 ++ leBytes f.ctx 1 ++ leBytes f.access 1 ++ leBytes f.cause 2 ++ leBytes f.waiters 4 ++ leBytes f.task 8 ++
  leBytes f.time 8

/-- The 16 bytes of a breakpoint. -/
def Breakpoint.bytes (b : Breakpoint) : List Byte :=
  leBytes (b.addr % 2 ^ 52 / 2 * 2 + (if b.en then 1 else 0)) 8 ++ leBytes (b.task % 2 ^ 48) 8

/-! ### The kernel's areas: the registry (25 R444), the error ring and the reset ring (26 R446, R447, R450), the link grid's dumps
(24 R420), the dumps of contexts (26 R451) -/

/-- The 256 bytes of a context's registry entry. -/
def Ctx.registry (x : Ctx) : List Byte :=
  leBytes ((if x.valid then 1 else 0) + (if x.isSealed then 2 else 0) + x.part % 8 * 4) 8 ++ leBytes x.root 8 ++ leBytes x.siltAt 8 ++
  leBytes x.loam.base 8 ++ leBytes x.poolAt 8 ++ leBytes x.stop 8 ++ leBytes x.dbgArea 8 ++ leBytes x.ownerHash 32 ++
  List.replicate 136 0 ++ leBytes x.digest 32

/-- The 64 bytes of an error record. -/
def ErrRec.bytes (r : ErrRec) : List Byte :=
  leBytes r.code 2 ++ leBytes r.severity 1 ++ leBytes r.action 1 ++ leBytes r.unit 2 ++ leBytes r.ctx 1 ++ leBytes r.valid 1 ++
  leBytes (r.task % 2 ^ 48) 8 ++ leBytes r.addr 8 ++ leBytes r.syndrome 8 ++ leBytes r.time 8 ++ leBytes r.seq 8 ++
  leBytes r.count 4 ++ leBytes r.window 4 ++ leBytes r.detail 8

/-- The header of the error ring: HEAD and TAIL count records, which R447 does not say. DESIGN CHOICE, log entry 81. -/
def Sys.ringHeader (y : Sys) : List Byte :=
  leBytes (y.ringTail + y.ring.length) 8 ++ leBytes y.ringTail 8 ++ leBytes y.ringLost 8 ++ List.replicate 40 0

/-- The 64 bytes of a record of the reset ring. -/
def ResetRec.bytes (r : ResetRec) : List Byte :=
  leBytes r.cause 8 ++ leBytes r.boot 8 ++ leBytes r.time 8 ++ leBytes r.lastSeq 8 ++ leBytes r.lastCode 8 ++ List.replicate 24 0

/-- The 22,592 bytes of a link-grid dump. -/
def GridDump.bytes (d : GridDump) : List Byte :=
  leBytes 0x4C470001 4 ++ leBytes 704 4 ++ leBytes d.seq 8 ++ leBytes d.time 8 ++ leBytes d.interval 8 ++ leBytes d.moduleUj 8 ++
  leBytes d.unheldUj 8 ++ leBytes d.lost 4 ++ List.replicate 12 0 ++
  padTo 22528 (d.rows.flatMap fun r => leBytes r.1 4 ++ leBytes r.2 4)

/-- The register images of a task: its own, then those of its gang's other members. -/
def Task.images (t : Task) : List Byte := t.img.bytes t.x t.ctl.alloc.toNat ++ t.fol.flatMap fun g => g.bytes [] t.ctl.alloc.toNat

/-- The records between the first and the last of a dump. -/
def Dump.body (d : Dump) : List Byte :=
  d.errors.flatMap ErrRec.bytes ++ d.stops.flatMap StopRec.image ++ d.images.flatMap Task.images ++ d.silt.header

/-- A dump: its header, its body, its end record, which says where a dump that an error ended stood. The record count takes all of
the body. DESIGN CHOICE, log entry 81. -/
def Dump.bytes (d : Dump) : List Byte :=
  let all := leBytes 0x11 2 ++ leBytes 0 1 ++ leBytes d.ctx 1 ++ leBytes 0 4 ++ leBytes (d.body.length / 64) 8 ++
    List.replicate 48 0 ++ d.body
  let (off, code) := d.ended.getD (all.length, 0)
  all.take off ++ leBytes 0x12 2 ++ leBytes 0 6 ++ leBytes (if d.ended.isSome then off else 0) 8 ++ leBytes code 2 ++
  List.replicate 46 0

end Sys2Proof.Machine
end

