-- ==== Sys2Proof/Machine/MemOps.lean ====
section
/-! DEFINITION. Memory as instructions and engines reach it: translation (15 R283 to R288), scratchpad addresses and
windows (10 R186, 15 R277), reads and writes with their Silt records and watchpoints, weak accesses, releases and
acquires (16 R302, R303), full/empty requests (R310) and barrier objects (15 R282). -/

namespace Sys2Proof.Machine

/-! ### Translation (15 R283 to R287) -/

/-- A level of the walk: where its index lies, how wide it is, whether a leaf may stand there, and the size in bytes of
the next level's tables. -/
structure Level where
  shift : Nat
  width : Nat
  leaf : Bool
  next : Nat
  deriving DecidableEq, Repr

/-- The four levels (R283). -/
def levels : List Level := [⟨41, 11, false, 32768⟩, ⟨29, 12, true, 2048⟩, ⟨21, 8, true, 256⟩, ⟨16, 5, true, 0⟩]

/-- The form of an HBM address (R285): stacks 0 to 11, offsets below 48 GiB, the bits above the stack zero. -/
def hbmForm (a : Nat) : Bool :=
  decide (a / 2 ^ 40 = 0) && decide (a / 2 ^ 36 % 16 < 12) && decide (a % 2 ^ 36 < 48 * 2 ^ 30)

/-- The HBM stack of a physical address (R285). -/
def stackOf (pa : Nat) : Nat := pa / 2 ^ 36 % 16

/-- A physical address that R285 admits as a page of a partition's contexts. -/
def Part.admits (p : Part) (pa : Nat) : Bool :=
  match pa / 2 ^ 48 with
  | 0 => hbmForm pa && p.hbmStacks.contains (stackOf pa)
  | 1 => hbmForm (pa % 2 ^ 44)
  | 2 => decide (pa / 2 ^ 47 % 2 = 0)
  | 3 => true
  | _ => false

/-- Bits of a leaf's attributes, as R284 numbers the entry's bits. -/
def attrBit (a n : Nat) : Bool := decide (a / 2 ^ n % 2 = 1)

/-- The walk of a virtual address from a table through the levels that remain (R283, R284): the leaf, or the cause of
R288 (0 not present, 2 malformed). A table may stand on any stack of the module, and the walkers read it through the home
slices (R287), so one outside HBM is malformed. DEDUCED, log entry 77. -/
def walkFrom (m : Mach) (p : Part) (c va : Nat) : List Level → Nat → Except Nat TlbEnt
  | [], _ => .error 2
  | l :: rest, table =>
    let e := m.word (table + 8 * (va / 2 ^ l.shift % 2 ^ l.width))
    let addr := e % 2 ^ 52 / 256 * 256
    let isLeaf := attrBit e 1
    if !attrBit e 0 then .error 0
    else if e / 2 ^ 52 ≠ 0 then .error 2
    else if isLeaf then
      if !l.leaf || decide (addr % 2 ^ l.shift ≠ 0) || !p.admits addr ||
          (decide (addr / 2 ^ 48 ≠ 0) && !attrBit e 6) then .error 2
      else .ok ⟨c, va / 2 ^ l.shift * 2 ^ l.shift, addr, 2 ^ l.shift, e % 256⟩
    else if l.next = 0 ∨ e / 4 % 64 ≠ 0 ∨ addr % l.next ≠ 0 ∨ !hbmForm addr then .error 2
    else walkFrom m p c va rest addr

/-- A TLB's entry for an address of a context. -/
def tlbFind (l : List TlbEnt) (c va : Nat) : Option TlbEnt :=
  l.find? fun e => e.ctx == c && decide (e.va ≤ va) && decide (va < e.va + e.size)

/-- A TLB with an entry added; the oldest leaves beyond n entries. DESIGN CHOICE, log entry 14. -/
def tlbFill (n : Nat) (l : List TlbEnt) (e : TlbEnt) : List TlbEnt := (e :: l.filter (· != e)).take n

/-- The translation of an address of context c for a party of cluster cl, with the TLBs it leaves (R287): the cluster's
TLB, then the die's, then a walk. DESIGN CHOICE, log entry 14. -/
def Mach.translate (m : Mach) (c cl va : Nat) : Except Nat (TlbEnt × Mach) :=
  let near := Tab.look [] m.tlb cl
  let far := Tab.look [] m.dtlb (cl / 128)
  match tlbFind near c va with
  | some e => .ok (e, m)
  | none =>
    match tlbFind far c va with
    | some e => .ok (e, { m with tlb := Tab.put [] m.tlb cl (tlbFill 256 near e) })
    | none =>
      match walkFrom m (m.partOf c) c va levels (m.ctx c).root with
      | .error k => .error k
      | .ok e => .ok (e, { m with tlb := Tab.put [] m.tlb cl (tlbFill 256 near e)
                                  dtlb := Tab.put [] m.dtlb (cl / 128) (tlbFill 8192 far e) })

/-- Bytes [pa, pa + n) meet a guarded range of a context: its images, table, pool, log or stop area (06 R114, 08 R155,
17 R328, 19 R345). -/
def Mach.guarded (m : Mach) (c pa n : Nat) : Bool :=
  (m.ctx c).guards.any fun (lo, hi) => decide (lo < pa + n) && decide (pa < hi)

/-- Access bits of R288. -/
def accRead : Nat := 1
def accWrite : Nat := 2
def accFetch : Nat := 4
def accEngine : Nat := 8

/-- The rights an access needs of a leaf (R284, R286). -/
def rightsOk (attr acc : Nat) : Bool :=
  (acc % 2 == 0 || attrBit attr 2) && (acc / 2 % 2 == 0 || attrBit attr 3) && (acc / 4 % 2 == 0 || attrBit attr 4)

/-- The home of a physical address (17 R320). -/
def homeOf (pa : Nat) : Home :=
  match pa / 2 ^ 48 with
  | 0 => .hbm
  | 1 => .peer (pa / 2 ^ 44 % 16)
  | 2 => .root (pa / 2 ^ 44 % 8)
  | _ => .dev

/-- An access of n bytes to a global address (R283, R286, R288): the place, or PAGE_FAULT or PROT. -/
def Mach.reach (m : Mach) (c cl : Nat) (va : Word) (n acc : Nat) : Except Nat (Loc × Mach) :=
  if 2 ^ 52 ≤ va.toNat then .error 0
  else
    match m.translate c cl va.toNat with
    | .error k => .error k
    | .ok (e, m1) =>
      let pa := e.pa + (va.toNat - e.va)
      if !rightsOk e.attr acc then .error 1
      else if m.guarded c pa n then .error 1
      else .ok (⟨pa, va, homeOf pa, 0, attrBit e.attr 6, attrBit e.attr 7, none⟩, m1)

/-! ### Scratchpad addresses (10 R186) and the other spaces of a core (15 R275) -/

/-- Rights a remote access needs: X 4, W 2, R 1 (15 R277). -/
def needR : Nat := 1
def needW : Nat := 2
def needRW : Nat := 3
def needX : Nat := 4

/-- The access bits of R288 for the rights an access needs: XST's is a write. -/
def accOf (need : Nat) : Nat := if need = needX then accWrite else need

/-- A window of a context on a core. -/
def Mach.window (m : Mach) (c core n : Nat) : Window := Tab.look {} m.windows ((core * 256 + c) * 4 + n)

/-- A window grants bytes [off, off + n) for a kind of access (R277). -/
def Window.grants (w : Window) (off n need : Nat) : Bool :=
  decide (w.base.toNat * 8 ≤ off) && decide (off + n ≤ w.lim.toNat * 8) && decide (w.rights.toNat &&& need = need)

/-- The owner's windows grant a remote access of a context (R277, R278). -/
def Mach.windowsGrant (m : Mach) (c core off n need : Nat) : Bool :=
  (List.range 4).any fun i => (m.window c core i).grants off n need

/-- The fields of a scratchpad address: the core it names for an issuer on `core`, and the offset; none where PROT
(R186, R275). -/
def scratchOf (core : Nat) (a : Word) : Option (Nat × Nat) :=
  let v := a.toNat
  let rem := decide (v / 2 ^ 32 % 2 = 1)
  let named := v / 2 ^ 20 % 4096
  let off := v % 2 ^ 20
  if v / 2 ^ 33 ≠ 0 ∨ 65536 ≤ off ∨ (rem = false ∧ named ≠ 0) then none
  else some (if rem then named else core, off)

/-- R186's form of a scratchpad byte with REMOTE = 1. -/
def remoteForm (core off : Nat) : Word := BitVec.ofNat 64 (2 ^ 32 + core * 2 ^ 20 + off)

/-- A scratchpad access by a party on `core` (R186, R277, R278): the place in the front bank, or, for XST, the back bank. -/
def Mach.reachS (m : Mach) (c core : Nat) (a : Word) (n need : Nat) (back : Bool) : Except Stop Loc :=
  match scratchOf core a with
  | none => .error (.xfault 1 (accOf need) a 0)
  | some (owner, off) =>
    let key := if back then m.backKey owner off else m.frontKey owner off
    let sp := if back then 2 else 1
    if owner = core then .ok ⟨key, remoteForm owner off, .cluster (clusterOf core), sp, false, false, none⟩
    else if m.ownsCore c owner && m.windowsGrant c owner off n need then
      .ok ⟨key, remoteForm owner off, .cluster (clusterOf owner), sp, false, false, some owner⟩
    else .error (.trap nackWindow a 0)

/-- An access to the activation (3) or accumulator (4) buffer of the issuing core (R275). -/
def reachAC (core : Nat) (sp : Nat) (a : Word) (n acc : Nat) : Except Stop Loc :=
  let lim := if sp = 3 then 65536 else 32768
  if lim < a.toNat + n then .error (.xfault 1 acc a 0)
  else .ok ⟨if sp = 3 then actKey core a.toNat else accKey core a.toNat,
    BitVec.ofNat 64 (core * 2 ^ 20 + a.toNat), .cluster (clusterOf core), sp, false, false, none⟩

/-- SPACE's code of a space (23 R395). -/
def spaceCode : Space → Nat
  | .g => 0
  | .s => 1
  | .a => 3
  | .c => 4

/-- A load's or store's place for a party of context c on `core`, checks 4 to 6 of R298 in order. DEDUCED, log entry 9. -/
def Mach.resolve (m : Mach) (c core : Nat) (sp : Space) (a : Word) (n : Nat) (write : Bool) :
    Except Stop (Loc × Mach) :=
  let acc := if write then accWrite else accRead
  match sp with
  | .g =>
    match m.reach c (clusterOf core) a n acc with
    | .ok r => .ok r
    | .error k => .error (.xfault k acc a 0)
  | .s =>
    match m.reachS c core a n (if write then needW else needR) false with
    | .ok l => .ok (l, m)
    | .error e => .error e
  | .a =>
    match reachAC core 3 a n acc with
    | .ok l => .ok (l, m)
    | .error e => .error e
  | .c =>
    match reachAC core 4 a n acc with
    | .ok l => .ok (l, m)
    | .error e => .error e

/-! ### The halt line and watchpoints -/

/-- A context's halt line raised (09 R170), which opens the stop area anew (R172); a line already raised stays as it was. -/
def Mach.raiseLine (m : Mach) (c : Nat) (dbg : Bool) (origin : Option Gid) : Mach :=
  m.setCtx c fun x =>
    if x.halt.line then x
    else
      let h : Halt := { line := true, dbg := dbg, origin := origin, raisedAt := m.cycle }
      { x with halt := h, stops := [], stopCount := 0 }

/-- An error record to write once the context's halt is complete (26 R447). -/
def Mach.haltError (m : Mach) (c : Nat) (r : ErrRec) : Mach :=
  m.setCtx c fun x => { x with halt := { x.halt with
    errors := x.halt.errors ++ [{ r with ctx := c, time := m.cycle, window := x.silt.current }] } }

/-- An error record to write at once (26 R447). DEDUCED, log entry 58. -/
def Mach.note (m : Mach) (c : Nat) (r : ErrRec) : Mach :=
  { m with errs := m.errs ++ [{ r with ctx := c, time := m.cycle, window := (m.ctx c).silt.current }] }

/-- A unit's own fault (09 R166): the halt line, what its stop record will say, and the error record (26 R449). -/
def Mach.unitFault (m : Mach) (c : Nat) (u : UnitRef) (op addr : Nat) (r : ErrRec) (progress : Nat := 0) : Mach :=
  let m1 := (m.raiseLine c false none).haltError c { r with unit := unitCode u, severity := 2, action := 3 }
  m1.setCtx c fun x => { x with halt := { x.halt with faults := x.halt.faults ++ [⟨u, r.task, op, addr, progress⟩] } }

/-- A stop record as it is written for a sealed context (24 R429). -/
def StopRec.hide : StopRec → StopRec
  | .core cause code _ _ c _ _ _ time _ _ _ _ _ => .core cause code 0 0 c 0 0 0 time 0 0 0 0 0
  | .unit kind cause code _ c _ _ _ time _ _ _ _ _ => .unit kind cause code 0 c 0 0 0 time 0 0 0 0 0
  | .watch _ _ _ c _ _ _ time _ _ _ _ => .watch false 0 0 c 0 0 0 time 0 0 0 0
  | .overflow c time _ => .overflow c time 0

/-- A record appended to a context's stop area, or counted in the overflow record of its last position (09 R172). -/
def Mach.addStop (m : Mach) (c : Nat) (q : StopRec) : Mach :=
  m.setCtx c fun x =>
    let n := x.stopCount
    let r := if x.isSealed then q.hide else q
    if n + 1 < x.stopCap ∨ x.stopCap = 0 then { x with stops := x.stops ++ [r], stopCount := n + 1 }
    else if n + 1 = x.stopCap then
      { x with stops := x.stops ++ [.overflow c m.cycle 1], stopCount := n + 1 }
    else { x with stops := x.stops.map fun q => match q with
      | .overflow c' t k => .overflow c' t (k + 1)
      | q => q }

/-- The window open in a context's log. -/
def Mach.windowNo (m : Mach) (c : Nat) : Nat := (m.ctx c).silt.current

/-- The first of a list of addresses that a mask over the block at base watches (22 R387). -/
def firstWatched (base : Nat) (mask : Word) (xs : List Nat) : Option Nat :=
  xs.find? fun x => decide (base ≤ x) && decide (x < base + 64) && mask.getLsbD (x - base)

/-- The first n offsets of an access. -/
def span (n : Nat) : List Nat := List.range n

/-- The watchpoint's fields (22 R387). -/
def Task.watchEn (t : Task) : Bool := t.ctl.wpCtl.getLsbD 0
def Task.watchRd (t : Task) : Bool := t.ctl.wpCtl.getLsbD 2
def Task.watchScratch (t : Task) : Bool := t.ctl.wpCtl.getLsbD 3
def Task.watchWho (t : Task) : Nat := t.ctl.wpCtl.toNat / 16 % 4
def Task.watchBase (t : Task) : Nat := t.ctl.wpAddr.toNat / 64 * 64

/-- The first byte of the task's own access, at offsets offs of its place, that its watchpoint covers (22 R388): a global
access by its virtual address, a scratchpad access in either form, an XST by its offset. DEDUCED, log entry 25. -/
def Task.watches (t : Task) (l : Loc) (offs : List Nat) (write : Bool) : Option Nat :=
  if !t.watchEn || !(write || t.watchRd) then none
  else
    let hit := firstWatched t.watchBase t.ctl.wpMask (offs.map (l.va.toNat + ·))
    if t.watchScratch then if l.space = 1 ∨ l.space = 2 then hit else none
    else if l.space = 0 then hit else none

/-- The precise strike of an instruction outside a region (22 R389). -/
def Task.watchCheck (t : Task) (l : Loc) (n : Nat) (offs : List Nat) (write : Bool) : Except Stop Unit :=
  if t.region.isSome || t.passWatch then .ok ()
  else match t.watches l offs write with
    | some a => .error (.watch (BitVec.ofNat 64 a) l.key l.va n)
    | none => .ok ()

/-- A striker as the halt remembers it: an engine, or a thread with its task. -/
def strikerOf (striker : Nat) (who : Gid) : Nat × Gid := (striker, if striker / 4096 = 1 then who else 0)

/-- A watch record, and the halt line it raises (22 R390, R391). -/
def Mach.strike (m : Mach) (w : Task) (striker : Nat) (who : Gid) (addr : Word) (n : Nat) (old : Word) (seq : Nat) : Mach :=
  let c := ctxOf w.gid
  let m1 := (m.raiseLine c false (some w.gid)).setCtx c fun x =>
    { x with halt := { x.halt with strikers := x.halt.strikers ++ [strikerOf striker who] } }
  m1.addStop c (.watch true striker n c w.gid who addr m.cycle old (m.windowNo c) 0 seq)

/-- The bytes at offsets offs of a place meet a task's watched ones, as another party's write meets them (22 R388): a
scratchpad's by its address, a global block's by the physical address BASE translated to. -/
def Task.watchMeets (w : Task) (l : Loc) (offs : List Nat) : Bool :=
  if w.watchScratch then (decide (l.space = 1) || decide (l.space = 2)) &&
    (firstWatched w.watchBase w.ctl.wpMask (offs.map (l.va.toNat + ·))).isSome
  else match w.wpPhys with
    | some b => decide (l.space = 0) && (firstWatched b w.ctl.wpMask (offs.map (l.key + ·))).isSome
    | none => false

/-- A write at offsets offs of a place covers a watched byte of a task that admits the party (22 R388): WHO 1 the
engines it commanded, 2 every write. The task's own instructions are checked where they issue (R389) or commit (R470). -/
def Task.struckBy (w : Task) (l : Loc) (offs : List Nat) (g : Gid) (engine : Bool) : Bool :=
  w.phase != .ended && w.watchEn && (engine || decide (w.gid ≠ g)) &&
  (decide (w.watchWho = 2) || (decide (w.watchWho = 1) && engine && decide (w.gid = g))) && w.watchMeets l offs

/-- A strike that a party has made is reported for the halt in progress (22 R390). -/
def StopRec.isStrikeOf (q : StopRec) (striker : Nat) (who : Gid) : Bool := match q with
  | .watch true k _ _ _ g _ _ _ _ _ _ => k == striker && (striker / 4096 != 1 || g == who)
  | _ => false

/-- A party has struck since the line was raised (22 R390): it makes no credit and no mailbox store until the resume, and its
writes are counted and not reported again. -/
def Mach.hasStruck (m : Mach) (c striker : Nat) (who : Gid) : Bool :=
  (m.ctx c).halt.line && (m.ctx c).halt.strikers.contains (strikerOf striker who)

/-- Bytes that a striker writes after its strike, counted in the report's SKID (22 R390, R391). -/
def StopRec.skidded (striker : Nat) (who : Gid) (n : Nat) (q : StopRec) : StopRec :=
  if q.isStrikeOf striker who then match q with
    | .watch i k z c w g a t o win skid seq => .watch i k z c w g a t o win (skid + n) seq
    | q => q
  else q

/-- The imprecise strikes of a write of n bytes just performed (22 R390): the striking thread issues nothing more, and what a
party writes after its strike is counted and not reported again. -/
def Mach.strikes (m : Mach) (c : Nat) (l : Loc) (n : Nat) (offs : List Nat) (g : Gid) (party : Nat) (old : Word)
    (seq : Nat) : Mach :=
  let engine := decide (party / 4096 ≠ 1)
  if m.hasStruck c party g then m.setCtx c fun x => { x with stops := x.stops.map (·.skidded party g offs.length) }
  else
    let ws := m.tasks.filter fun w => ctxOf w.gid == c && w.struckBy l offs g engine
    let m1 := ws.foldl (fun a w => a.strike w party g l.va n old seq) m
    if ws.isEmpty || engine then m1 else m1.mapTask g fun t => { t with struck := true }

/-! ### Barrier objects (15 R281, R282) -/

/-- A barrier object (R281). -/
structure Bar where
  quota : Nat
  owed : Nat
  epoch : Nat
  err : Bool
  status : Nat
  waiters : Nat
  deriving DecidableEq, Repr

/-- A barrier object as its bytes hold it. -/
def Mach.bar (m : Mach) (core off : Nat) : Bar :=
  let k := m.frontKey core off
  { quota := leNat (m.peek k 4), owed := leNat (m.peek (k + 4) 4), epoch := leNat (m.peek (k + 8) 2),
    err := (m.byte (k + 10)).getLsbD 0, status := (m.byte (k + 11)).toNat, waiters := leNat (m.peek (k + 12) 2) }

/-- The first twelve bytes of a barrier object; reserved bits of byte 0x0A are zero. -/
def Bar.bytes (b : Bar) : List Byte :=
  leBytes b.quota 4 ++ leBytes b.owed 4 ++ leBytes b.epoch 2 ++ [if b.err then 1 else 0, BitVec.ofNat 8 b.status]

/-- A waiter for residue k is satisfied (16 R318). DEDUCED, log entry 21. -/
def Bar.satisfies (b : Bar) (k : Nat) : Bool := b.err || decide ((b.epoch + 65536 - k) % 16 < 8)

/-- What a BWAIT or a GBAR delivers (R318). -/
def Bar.answer (b : Bar) : Word := BitVec.ofNat 64 ((if b.err then 256 else 0) + b.status)

/-- The object after a credit of n bytes with err (R282). -/
def Bar.credit (b : Bar) (n err : Nat) : Bar :=
  if err ≠ 0 then { b with err := true, status := err, owed := b.quota, epoch := (b.epoch + 1) % 65536 }
  else if b.quota = 0 then b
  else if n < b.owed then { b with owed := b.owed - n }
  else
    let x := n - b.owed
    { b with epoch := (b.epoch + 1 + x / b.quota) % 65536, owed := b.quota - x % b.quota }

/-- The epochs a credit of n bytes with err completes (R281, R282): an error ends one at once. -/
def Bar.completes (b : Bar) (n err : Nat) : Nat :=
  if err ≠ 0 then 1 else if b.quota = 0 ∨ n < b.owed then 0 else 1 + (n - b.owed) / b.quota

/-! ### Requests held at an owner (16 R310, R318) -/

/-- A task in the order of arrival of its request; none when no request of it is held at `core`. -/
def Task.waitSeq (t : Task) (core : Nat) : Option Nat :=
  if t.phase = .ended then none
  else match t.phase with
    | .waiting (.word _ c _ _ _ s true _) => if c = core then some s else none
    | .waiting (.barrier c _ _ _ s true) => if c = core then some s else none
    | .waiting (.gbar c _ _ _ s true) => if c = core then some s else none
    | _ => none

/-- An acquire (16 R303): no later weak load at the scope reuses a request made before it. -/
def Task.acquire (t : Task) (sc : Scope) (now : Nat) : Task :=
  match sc with
  | .cl => { t with acqCl := now }
  | .dv => { t with acqCl := now, acqDv := now }
  | .sy => { t with acqCl := now, acqDv := now, acqSy := now }

/-- An acquire, where an instruction carries one. -/
def Task.acquireAt (t : Task) (sc : Option Scope) (now : Nat) : Task :=
  match sc with
  | some s => t.acquire s now
  | none => t

/-- An instruction has completed: the next one issues (R62, R63); its own pass of a breakpoint or a watchpoint, or the
answer it waited for, is used up; under STEP_CTL's step a halt is due (24 R414, R415). -/
def Task.retire (t : Task) : Task :=
  { t with
    pc := t.npc, passWatch := false, passBreak := false, answered := false
    stepDue := t.ctl.stepCtl.getLsbD 63 && t.region.isNone }

/-- An instruction that waited has completed. -/
def Task.resume (t : Task) : Task := { t.retire with phase := .ready }

/-- The wake note of a withdrawn wait dropped: the task is a ready continuation (04 R65). Tasks that one access makes ready
are queued at the tail together and stand in the order of the model's list of tasks, since the spec gives none.
DESIGN CHOICE, log entry 78. -/
def Task.noteDropped (t : Task) (now no : Nat) : Task :=
  { t with phase := .ready, queuedAt := now, queueNo := no, contAt := now, migrates := false }

/-- The condition of a request that waits at the scratchpad of a core. -/
def Mach.holds (m : Mach) (t : Task) : Bool :=
  match t.phase with
  | .waiting (.word op c o _ _ _ _ _) => if op = 2 then !m.full (m.frontKey c o) else m.full (m.frontKey c o)
  | .waiting (.barrier c o k _ _ _) => (m.bar c o).satisfies k
  | .waiting (.gbar c o k _ _ _) => (m.bar c o).satisfies k
  | _ => false

/-- The place of a scratchpad word. -/
def Mach.frontLoc (m : Mach) (core off : Nat) : Loc :=
  ⟨m.frontKey core off, remoteForm core off, .cluster (clusterOf core), 1, false, false, none⟩

/-- What a withdrawn wait of a task waits for stands otherwise: its word's full/empty bit, or EPOCH or ERR of its object. -/
def Mach.noteMoved (m m1 : Mach) (t : Task) : Bool :=
  let barMoved := fun c o => (m.bar c o).epoch != (m1.bar c o).epoch || (m.bar c o).err != (m1.bar c o).err
  match t.phase with
  | .waiting (.word _ c o _ _ _ false _) => m.full (m.frontKey c o) != m1.full (m1.frontKey c o)
  | .waiting (.barrier c o _ _ _ false) => barMoved c o
  | .waiting (.gbar c o _ _ _ false) => barMoved c o
  | _ => false

/-- An access has made m1 of m: the wake notes on what it changed are dropped (04 R65). -/
def Mach.dropNotes (m1 m : Mach) : Mach :=
  m1.mapTasks fun t => if m.noteMoved m1 t then t.noteDropped m1.cycle m1.order else t

/-- A full/empty operation performed at the owner on its word (16 R309): LDFE (0), LDFF (1), STFE (2), FECLR (3), FESET (4),
with the Silt record of the word and its bit (R299), the strikes it makes (22 R388), and the wake notes it drops. -/
def Mach.performFe (m : Mach) (g : Gid) (party op core off : Nat) (v : Word) : Mach × Word :=
  let l := m.frontLoc core off
  let k := l.key
  let old := BitVec.ofNat 64 (m.word k)
  if op = 1 then (m, old)
  else
    let m1 := m.siltWrite (ctxOf g) 1 k 8 party g
    let m2 := if op = 2 then { m1 with mem := pokeMem m1.mem k (leBytes v.toNat 8) } else m1
    let m3 := m2.setFull k (decide (op = 2 ∨ op = 4))
    ((m3.strikes (ctxOf g) l 8 (span 8) g party old (m.ctx (ctxOf g)).silt.nextSeq).dropNotes m, old)

/-- One request held for a task served: it is performed, unless the log has no room for its record (23 R401), and its
instruction completes. -/
def Mach.serve (m : Mach) (t : Task) : Mach :=
  match t.phase with
  | .waiting (.word op c o d v _ _ acq) =>
    let (m1, old) := m.performFe t.gid (threadParty t.core) op c o v
    m.orHold (ctxOf t.gid) (m1.mapTask t.gid fun x => ((if op = 2 then x else x.wr d old .raw).acquireAt acq m.order).resume)
  | .waiting (.barrier c o _ d _ _) =>
    m.mapTask t.gid fun x => ((x.wr d (m.bar c o).answer .raw).acquire .dv m.order).resume
  | .waiting (.gbar c o _ d _ _) =>
    m.mapTask t.gid fun x => (({ x with gbarE := none }.wr d (m.bar c o).answer .raw).acquire .dv m.order).resume
  | _ => m

/-- The oldest request held at a core's scratchpad whose condition holds. -/
def Mach.nextServed (m : Mach) (core : Nat) : Option Task :=
  (m.tasks.filterMap fun t => match t.waitSeq core with
    | some s => if m.holds t then some (s, t) else none
    | none => none).foldl (fun a p => match a with
      | none => some p
      | some q => if p.1 < q.1 then some p else some q) none |>.map Prod.snd

/-- The tasks held in a wait on a barrier object (R281's WAITERS). -/
def Mach.waitersOn (m : Mach) (core off : Nat) : Nat :=
  (m.tasks.filter fun t => t.phase != .ended && match t.phase with
    | .waiting (.barrier c o _ _ _ h) => c == core && o == off && h
    | .waiting (.gbar c o _ _ _ h) => c == core && o == off && h
    | _ => false).length

/-- WAITERS of a barrier object rewritten (R282); its owner keeps it from then on. DEDUCED, log entry 21. -/
def Mach.setWaiters (m : Mach) (core off : Nat) : Mach :=
  let k := core * 65536 + off
  { m with mem := pokeMem m.mem (m.frontKey core off + 12) (leBytes (m.waitersOn core off) 2)
           objects := if m.objects.contains k then m.objects else k :: m.objects }

/-- The owner serves its waiting requests, the oldest whose condition holds first, until none holds (R310); n bounds
how many it serves. -/
def Mach.settle (m : Mach) (core : Nat) : Nat → Mach
  | 0 => m
  | n + 1 =>
    match m.nextServed core with
    | none => m
    | some t =>
      let m1 := m.serve t
      let m2 := match t.phase with
        | .waiting (.barrier c o _ _ _ _) => m1.setWaiters c o
        | .waiting (.gbar c o _ _ _ _) => m1.setWaiters c o
        | _ => m1
      m2.settle core n

/-- Every request at a core's scratchpad re-examined. -/
def Mach.settleAll (m : Mach) (core : Nat) : Mach := m.settle core (m.tasks.length + 1)

/-! ### Writes -/

/-- The owner of a scratchpad place, in a front bank. -/
def Loc.frontOwner (l : Loc) : Option Nat :=
  if l.space = 1 then some (l.va.toNat / 2 ^ 20 % 4096) else none

/-- The bytes a write replaces are remembered for fetches of the running launches (03 R60). -/
def Mach.noteCode (m : Mach) (c : Nat) (l : Loc) (cells : List (Nat × Byte)) : Mach :=
  if l.space = 0 ∧ l.home = .hbm then
    { m with codeOld := m.codeOld ++ cells.map fun (k, _) => ⟨c, k, m.byte k, m.order⟩ }
  else m

/-- A write outside the module, with its irreversible mark (17 R320, 23 R402). -/
def Mach.writeOut (m : Mach) (g : Gid) (party : Nat) (l : Loc) (cells : List (Nat × Byte)) : Mach :=
  { (m.setCtx (ctxOf g) fun x => { x with silt := x.silt.mark .external l.key party g }) with
    ext := m.ext ++ [(l.home, cells)] }

/-- A write performed at its home, by a task or for it (16 R299, 17 R320): its Silt record of n bytes or its mark, the
cells written, the strikes it makes, and the requests it lets through. `party` is the unit code of 22 R391. -/
def Mach.writeCells (m : Mach) (g : Gid) (party : Nat) (l : Loc) (n : Nat) (cells : List (Nat × Byte)) : Mach :=
  let c := ctxOf g
  let m0 := m.tick
  match l.home with
  | .peer _ => m0.writeOut g party l cells
  | .root _ => m0.writeOut g party l cells
  | .dev => m0.setCtx c fun x => { x with silt := x.silt.mark .module l.key party g }
  | _ =>
    let old := BitVec.ofNat 64 (m0.word l.key)
    let seq := (m0.ctx c).silt.nextSeq
    let m1 := if l.irrev then m0.setCtx c fun x => { x with silt := x.silt.mark .external l.key party g }
              else m0.siltWrite c l.space l.key n party g
    let m2 := m1.noteCode c l cells
    let m3 := { m2 with mem := pokeCells m2.mem cells }
    let m4 := m3.strikes c l n (cells.map fun p => p.1 - l.key) g party old seq
    match l.frontOwner with
    | some core => (m4.dropNotes m).settleAll core
    | none => m4

/-- A write of consecutive bytes. -/
def Mach.write (m : Mach) (g : Gid) (party : Nat) (l : Loc) (bs : List Byte) : Mach :=
  m.writeCells g party l bs.length (cellsFrom l.key bs)

/-- The key of a scratchpad byte of a core after its banks have changed places: what named a byte of one bank names the byte of
the other at the same offset. -/
def swapKey (core k : Nat) : Nat :=
  if spaceBase 1 ≤ k ∧ k < spaceBase 2 ∧ (k - spaceBase 1) / 65536 % 4096 = core then
    if (k - spaceBase 1) / 65536 < 4096 then k + 4096 * 65536 else k - 4096 * 65536
  else k

/-- A weak store to a scratchpad reaches the bank that is in front when it is performed (R279). -/
def WStore.swapped (core : Nat) (w : WStore) : WStore :=
  { w with loc := { w.loc with key := swapKey core w.loc.key }, bytes := w.bytes.map fun p => (swapKey core p.1, p.2) }

/-- The slots and the store records of a region name the bytes that its accesses reach now (R279, 21 R369, R374). -/
def Region.swapped (core : Nat) (r : Region) : Region :=
  { r with
    slots := r.slots.map fun s => { s with at_ := { s.at_ with key := swapKey core s.at_.key } }
    stores := r.stores.map fun s => { s with at_ := { s.at_ with key := swapKey core s.at_.key } } }

/-- A core's banks exchanged (R280). -/
def Mach.swapFront (m : Mach) (core : Nat) : Mach :=
  { m.mapTasks fun t => { t with region := t.region.map (·.swapped core) } with
    front := Tab.upd false m.front core (!·), weak := m.weak.map (·.swapped core) }

/-- A credit at a barrier object (R282, R280): one atomic step at the owner, with its Silt record. When it completes epochs, an
error's among them, the cores whose GBAR counted toward them exchange their banks once. DEDUCED, log entry 21. -/
def Mach.credit (m : Mach) (g : Gid) (party core off n err : Nat) : Mach :=
  let b := m.bar core off
  let l := m.frontLoc core off
  let key := core * 65536 + off
  let members := Tab.look [] m.gbars key
  let m0 := m.tick.siltWrite (ctxOf g) 1 l.key 16 party g
  let m1 := { m0 with mem := pokeMem m0.mem l.key (b.credit n err).bytes }
  let m2 := m1.strikes (ctxOf g) l 16 (span 12) g party (BitVec.ofNat 64 (m.word l.key)) (m.ctx (ctxOf g)).silt.nextSeq
  if b.completes n err = 0 then m2
  else
    let m3 := (m2.dropNotes m).settleAll core
    let m4 := { m3 with gbars := Tab.put [] m3.gbars key [] }
    if members.isEmpty then m4
    else
      let m5 := members.foldl Mach.swapFront m4
      let head : SRec := { seq := 0, kind := .group, key := members.length, party := party, gid := g }
      let swaps : List SRec := members.map fun c =>
        { seq := 0, kind := .swap, key := c, party := party, gid := g, old := .swap c }
      let m6 := m5.setCtx (ctxOf g) fun x => { x with silt := x.silt.append (head :: swaps) }
      members.foldl (fun a c => (a.dropNotes m4).settleAll c) m6

/-! ### Weak accesses, releases, acquires (16 R302, R303) -/

/-- A home lies within a scope, for a thread of a cluster (R303). -/
def Home.within (h : Home) (cl : Nat) (sc : Scope) : Bool :=
  match sc, h with
  | .cl, .cluster k => k == cl
  | .cl, _ => false
  | .dv, .cluster _ => true
  | .dv, .hbm => true
  | .dv, .dev => true
  | .dv, _ => false
  | .sy, _ => true

/-- The windows of its owner admit a weak store to another core's scratchpad when it reaches the port (15 R278). -/
def Mach.windowsAdmit (m : Mach) (w : WStore) : Bool :=
  match w.loc.remote with
  | none => true
  | some owner => m.windowsGrant (ctxOf w.gid) owner (w.loc.va.toNat % 2 ^ 20) w.n needW

/-- A weak store performed at its home (R320), or refused there by the owner's windows (15 R278): its thread is to trap.
DEDUCED, log entry 4. DESIGN CHOICE, log entry 76. -/
def Mach.performWeak (m : Mach) (w : WStore) : Mach :=
  if m.windowsAdmit w then m.writeCells w.gid (threadParty w.core) w.loc w.n w.bytes
  else m.mapTask w.gid fun t => { t with nack := some w.loc.va }

/-- Two weak stores of one thread have a byte in common. -/
def WStore.overlaps (v w : WStore) : Bool := v.gid == w.gid && v.bytes.any fun p => w.bytes.any fun q => p.1 == q.1

/-- A store may be performed: no earlier one of its thread stands before it on a byte of it (R321). -/
def Mach.foremost (m : Mach) (n : Nat) : Bool :=
  match m.weak[n]? with
  | none => false
  | some w => !(m.weak.take n).any (·.overlaps w)

/-- The bytes [lo, hi) of a weak store as a store of their own, where it writes any. -/
def WStore.cut (w : WStore) (lo hi : Nat) : List WStore :=
  let a := max lo w.loc.key
  let b := min hi (w.loc.key + w.n)
  let bs := w.bytes.filter fun p => decide (a ≤ p.1) && decide (p.1 < b)
  if bs.isEmpty then []
  else [{ w with loc := { w.loc with key := a, va := w.loc.va + BitVec.ofNat 64 (a - w.loc.key) }, n := b - a, bytes := bs }]

/-- A weak store split at an aligned part (R302): the part to perform now, and what is left of it. -/
def WStore.split (w : WStore) (lg i : Nat) : List WStore × List WStore :=
  let z := 2 ^ lg
  let first := w.loc.key / z
  let k := first + i % ((w.loc.key + w.n - 1) / z - first + 1)
  match w.cut (k * z) ((k + 1) * z) with
  | [] => ([w], [])
  | p => (p, w.cut 0 (k * z) ++ w.cut ((k + 1) * z) (w.loc.key + w.n))

/-- What of a weak store is performed, and what waits on, by the free choices to split and to repeat (R302); accesses outside
the module go whole and once. DEDUCED, log entry 4. -/
def WStore.choose (w : WStore) (f : Nat) : List WStore × List WStore :=
  match w.loc.home with
  | .peer _ => ([w], [])
  | .root _ => ([w], [])
  | _ =>
    let (go, rest) := match Config.splitStore f with
      | some (lg, i) => w.split lg i
      | none => ([w], [])
    (go, (if Config.repeatStore f then go else []) ++ rest)

/-- The n-th waiting weak store performed, or a part of it. -/
def Mach.performNth (m : Mach) (n : Nat) : Mach :=
  match m.weak[n]? with
  | none => m
  | some w =>
    if !m.foremost n then m
    else
      let (go, rest) := w.choose m.free
      go.foldl Mach.performWeak { m with weak := m.weak.take n ++ rest ++ m.weak.drop (n + 1), free := m.free + 1 }

/-- The waiting weak stores that satisfy p, with the earlier ones of their threads to the same bytes (R321), and the others. -/
def drained (p : WStore → Bool) : List WStore → List WStore × List WStore
  | [] => ([], [])
  | w :: r =>
    let (go, rest) := drained p r
    if p w || go.any (w.overlaps ·) then (w :: go, rest) else (go, w :: rest)

/-- The waiting weak stores that satisfy p performed in order. -/
def Mach.drain (m : Mach) (p : WStore → Bool) : Mach :=
  let (go, rest) := drained p m.weak
  go.foldl Mach.performWeak { m with weak := rest }

/-- Bytes [k, k + n) meet a weak store. -/
def WStore.meets (w : WStore) (k n : Nat) : Bool := w.bytes.any fun (j, _) => decide (k ≤ j) && decide (j < k + n)

/-- A thread's waiting stores to the bytes it now accesses are performed first (R321, per-byte coherence). -/
def Mach.drainOwn (m : Mach) (g : Gid) (k n : Nat) : Mach := m.drain fun w => w.gid == g && w.meets k n

/-- A release at a scope by a task (R303): every home in its touched mask within the scope has acknowledged. -/
def Mach.release (m : Mach) (g : Gid) (core : Nat) (sc : Scope) : Mach :=
  m.drain fun w => w.gid == g && w.loc.home.within (clusterOf core) sc

/-- A release of every write of a task, whatever its home. -/
def Mach.releaseAll (m : Mach) (g : Gid) : Mach := m.drain fun w => w.gid == g

/-- A task's access to n bytes bars its later weak loads of them from the requests made before it (R321). -/
def Mach.touchLine (m : Mach) (g : Gid) (k n : Nat) : Mach :=
  { m with reqs := m.reqs.map fun r =>
      if r.line = k / 64 ∧ ¬ r.barred.contains (g, k, n) then { r with barred := (g, k, n) :: r.barred } else r }

/-- The order of R321 keeps a task's access to n bytes from a request. -/
def MReq.bars (r : MReq) (g : Gid) (k n : Nat) : Bool :=
  r.barred.any fun (h, j, z) => h == g && decide (j < k + n) && decide (k < j + z)

/-- The place of the task's last acquire that covers a home. -/
def Task.acquired (t : Task) (core : Nat) (h : Home) : Nat :=
  match h with
  | .cluster k => if k = clusterOf core then t.acqCl else t.acqDv
  | .peer _ => t.acqSy
  | .root _ => t.acqSy
  | _ => t.acqDv

/-- The request of the cluster a weak load of the task may merge with (R302, R320). DEDUCED, log entry 4. -/
def Mach.mergeable (m : Mach) (t : Task) (l : Loc) (n : Nat) : Option MReq :=
  m.reqs.find? fun r => r.cluster == clusterOf t.core && r.line == l.key / 64 && !r.bars t.gid l.key n &&
    decide (t.acquired t.core l.home ≤ r.seq)

/-- n free bytes from outside the module, and how many free values they take. DESIGN CHOICE, log entry 7. -/
def outsideBytes (f n : Nat) : List Byte := (List.range n).map fun i => Config.outsideByte (f + i)

/-- The bytes of a strong load at its home (R320). -/
def Mach.read (m : Mach) (l : Loc) (n : Nat) : List Byte × Mach :=
  match l.home with
  | .peer _ => (outsideBytes m.free n, { m with free := m.free + n })
  | .root _ => (outsideBytes m.free n, { m with free := m.free + n })
  | _ => (m.peek l.key n, m)

/-- The bytes of a weak load: its own request, or the request it merges with (R302). DEDUCED, log entry 4. -/
def Mach.readWeak (m : Mach) (l : Loc) (n : Nat) : List Byte × Mach :=
  match l.home with
  | .peer _ => m.read l n
  | .root _ => m.read l n
  | _ =>
    let base := l.key / 64 * 64
    match m.mergeable m.t l n with
    | some r =>
      let m1 := { m with free := m.free + 1 }
      if Config.mergeLoad m.free then ((r.bytes.drop (l.key - base)).take n, m1.touchLine m.t.gid l.key n)
      else (m.peek l.key n, m1.touchLine m.t.gid l.key n)
    | none =>
      let m1 := m.touchLine m.t.gid l.key n
      (m.peek l.key n,
        { m1 with order := m1.order + 1
                  reqs := m1.reqs ++ [⟨m.t.gid, clusterOf m.t.core, l.key / 64, m.peek base 64, l.home, m.order, [(m.t.gid, l.key, n)]⟩] })

/-- Two waiting stores of one thread that may become one write of consecutive bytes, or the later of which overwrites the
earlier (R302). -/
def WStore.joins (v w : WStore) : Bool :=
  v.gid == w.gid && v.loc.key / 64 == w.loc.key / 64 &&
  ((v.loc.key + v.n == w.loc.key && v.bytes.length == v.n && w.bytes.length == w.n) ||
   (v.loc.key == w.loc.key && v.n == w.n && v.bytes.map Prod.fst == w.bytes.map Prod.fst))

/-- The merged write, at the later store's place. -/
def WStore.join (v w : WStore) : WStore :=
  if v.loc.key = w.loc.key then w else { w with loc := v.loc, n := v.n + w.n, bytes := v.bytes ++ w.bytes }

/-- The last weak store of a thread that one now issued may merge with: none of the thread that stands after it has a byte of
either (R321). -/
def Mach.joinable (m : Mach) (w : WStore) : Option Nat :=
  ((List.range m.weak.length).filter fun i => match m.weak[i]? with
    | none => false
    | some v => v.joins w && !(m.weak.drop (i + 1)).any fun u => u.overlaps v || u.overlaps w).getLast?

/-- A weak store issued (R302): it waits, merged with one of its thread to the same 64 bytes where the free choice says so.
DEDUCED, log entry 4. -/
def Mach.issueWeak (m : Mach) (w : WStore) : Mach :=
  match (m.joinable w).bind fun i => m.weak[i]?.map fun v => (i, v) with
  | some (i, v) =>
    let m1 := { m with free := m.free + 1 }
    if Config.mergeStore m.free then { m1 with weak := m1.weak.eraseIdx i ++ [v.join w] }
    else { m1 with weak := m1.weak ++ [w] }
  | none => { m with weak := m.weak ++ [w] }

/-! ### Tracked transfers (15 R292, 00 R7) -/

/-- An access whose instruction parks until it is answered (R307). DESIGN CHOICE, log entry 3. -/
def parks (l : Loc) : Bool := l.space == 0 || l.remote.isSome

/-- The entries of its cluster's transfers that a task's accesses hold until they are answered (15 R292). -/
def Task.transfers (t : Task) : Nat :=
  if !t.seatedOn then 0
  else
    let far := fun c => if c = t.core then 0 else 1
    match t.phase with
    | .parked .mem => 1
    | .parked (.members n) => n
    | .parked (.root _ _) => 1
    | .parked (.held _) => 1
    | .waiting (.word _ c _ _ _ _ true _) => far c
    | .waiting (.barrier c _ _ _ _ true) => far c
    | .waiting (.gbar c _ _ _ _ true) => far c
    | _ => 0

/-- The transfers a cluster tracks (15 R292): its threads' accesses and the weak stores on their way. -/
def Mach.tracked (m : Mach) (cl : Nat) : Nat :=
  (m.weak.filter fun w => clusterOf w.core == cl).length +
  ((m.tasks.filter fun t => clusterOf t.core == cl).map Task.transfers).sum

/-- The bursts a base die tracks (00 R7): the weak stores on their way to its stack. DESIGN CHOICE, log entry 79. -/
def Mach.bursts (m : Mach) (stack : Nat) : Nat :=
  (m.weak.filter fun w => w.loc.home == .hbm && stackOf w.loc.key == stack).length

/-- The tracker of a cluster and those of the base dies have entries for accesses at places ls (15 R292, 00 R7). -/
def Mach.entriesFree (m : Mach) (cl : Nat) (ls : List Loc) : Bool :=
  decide (m.tracked cl + ls.length ≤ 750) &&
  ls.all fun l => l.home != .hbm || decide (m.bursts (stackOf l.key) + ls.length ≤ 12800)

/-- Accesses of the task in focus at places that need entries find them, or the thread parks (15 R292, 04 R64). -/
def Mach.needEntries (m : Mach) (ls : List Loc) : Except Stop Unit :=
  let far := ls.filter parks
  if far.isEmpty || m.entriesFree (clusterOf m.t.core) far then .ok () else .error (.retry .transfer)

/-- A release at a scope by the task in focus (R303): it parks while a port it needs retrains.
DEDUCED, log entry 4. -/
def Mach.releaseAt (m : Mach) (sc : Option Scope) : Except Stop Mach :=
  match sc with
  | none => .ok m
  | some s =>
    let mine := m.weak.filter fun w => w.gid == m.t.gid && w.loc.home.within (clusterOf m.t.core) s
    match mine.findSome? (fun w => match w.loc.home with
        | .peer p => if m.portsUp.contains p then none else some (p, w.loc.va)
        | _ => none) with
    | some (p, va) => .error (if m.portsTrain.contains p then .retry (.held p) else .xfault 1 accWrite va 0)
    | none =>
      if mine.isEmpty then .ok m else .ok (m.release m.t.gid m.t.core s)

/-- Whether an access outside the module goes on: one to a peer parks while its port retrains, and traps PROT where the port is
down (25 R434) or the peer refuses it (25 R433); a read of root-port space parks until it is answered (25 R441).
DESIGN CHOICE, log entry 7. -/
def Mach.outside (m : Mach) (l : Loc) (write : Bool) : Except Stop Mach :=
  match l.home with
  | .peer p =>
    if m.portsTrain.contains p then .error (.retry (.held p))
    else if !m.portsUp.contains p || Config.peerRefuses m.free then
      .error (.xfault 1 (if write then accWrite else accRead) l.va 0)
    else .ok { m with free := m.free + 1 }
  | .root p => if !write && !m.t.answered then .error (.retry (.root p l.va)) else .ok m
  | _ => .ok m

end Sys2Proof.Machine
end

