-- ==== Sys2Proof/Machine/TaskOps.lean ====
section
/-! DEFINITION. The life of tasks: creation (04 R68), queueing (R80, R81), the answer table's groups (06 R121 to R128),
producers and their callers (02 R24), launch records (19 R351 to R354), and the end of a task. -/

namespace Sys2Proof.Machine

/-! ### Queueing -/

/-- A task put at the tail of its level when it holds no slot (R80). -/
def Task.requeue (t : Task) (now no : Nat) : Task :=
  if t.seat.isSome then t else { t with queuedAt := now, queueNo := no }

/-- A continuation queued when it holds no slot (R80, R361). -/
def Task.enqueue (t : Task) (now no : Nat) : Task :=
  if t.seat.isSome then t else { t with queuedAt := now, queueNo := no, contAt := now, migrates := false }

/-- A waiting task made ready (R65). -/
def Task.wake (t : Task) (now no : Nat) : Task := { t with phase := .ready }.enqueue now no

/-- A task woken. -/
def Mach.wakeTask (m : Mach) (g : Gid) : Mach :=
  let m1 := m.tick
  m1.mapTask g (·.wake m.cycle m.order)

/-- A task raised to a priority, requeued at the tail of its new level (R81, R132). -/
def Mach.raisePrio (m : Mach) (g : Gid) (p : Nat) : Mach :=
  match m.find g with
  | some t => if t.prio < p then (m.tick).mapTask g fun x => { x with prio := p }.requeue m.cycle m.order else m
  | none => m

/-- A task unit with no serial left draws the next block of its context's counter (R71). DESIGN CHOICE, log entry 75. -/
def Mach.drawBlock (m : Mach) (c cl : Nat) : Mach :=
  match Tab.look (0, 0) (m.ctx c).blocks cl with
  | (_, 0) =>
    let n := Config.serialBlock m.free + 1
    { m.setCtx c fun x => { x with
        nextSerial := (x.nextSerial + n) % 2 ^ 40, blocks := Tab.put (0, 0) x.blocks cl (x.nextSerial % 2 ^ 40, n) } with
      free := m.free + 1 }
  | _ => m

/-- The next serial of a task unit's blocks (R71). DESIGN CHOICE, log entry 75. -/
def Mach.nextSerialOf (m : Mach) (c cl : Nat) : Nat × Mach :=
  let m1 := m.drawBlock c cl
  let b := Tab.look (0, 0) (m1.ctx c).blocks cl
  (b.1, m1.setCtx c fun x => { x with blocks := Tab.put (0, 0) x.blocks cl ((b.1 + 1) % 2 ^ 40, b.2 - 1) })

/-- The first serial of a task unit's blocks that no live task holds (R71); n bounds how many it passes over. -/
def Mach.serialFrom (m : Mach) (c cl : Nat) : Nat → Nat × Mach
  | 0 => m.nextSerialOf c cl
  | n + 1 =>
    let (s, m1) := m.nextSerialOf c cl
    if (m.find (gidOf c s)).isSome then m1.serialFrom c cl n else (s, m1)

/-- The serial that the task unit of a cluster gives a new task of a context (R71). DESIGN CHOICE, log entry 75. -/
def Mach.takeSerial (m : Mach) (c cl : Nat) : Nat × Mach := m.serialFrom c cl m.tasks.length

/-- The least number that a list does not hold. -/
def leastFree (used : List Nat) : Nat := ((List.range (used.length + 1)).find? fun k => !used.contains k).getD 0

/-- The place of a new task's image among its context's: the lowest that no live task holds. DESIGN CHOICE, log entry 82. -/
def Mach.freeFrame (m : Mach) (c : Nat) : Nat :=
  leastFree ((m.tasks.filter fun t => ctxOf t.gid == c && t.phase != .ended).map (·.frame))

/-- Operand registers written with tag 0, from operand code n on. DEDUCED, log entry 27. -/
def setArgs (regs : Tab RCell) (n : Nat) : List Word → Tab RCell
  | [] => regs
  | v :: r => setArgs (Tab.put RCell.fresh regs n ⟨v, .raw, none⟩) (n + 1) r

/-! ### The answer table (06) -/

/-- An entry of a context's table. -/
def Mach.entry (m : Mach) (c i : Nat) : Entry := Tab.look {} (m.ctx c).loam.entries i

/-- An entry changed with no mark: pins, LRU stamp. -/
def Mach.updEntry (m : Mach) (c i : Nat) (f : Entry → Entry) : Mach :=
  m.setCtx c fun x => { x with loam := { x.loam with entries := Tab.upd {} x.loam.entries i f } }

/-- The unit code of a task's core, as PARTY of a record (23 R395); for a task that has ended, the core in focus. -/
def Mach.partyOf (m : Mach) (g : Gid) : Nat := match m.find g with
  | some t => threadParty t.core
  | none => threadParty m.t.core

/-- The lines that the entries of a list occupy in the table region. -/
def Loam.linesOf (l : Loam) (is : List Nat) : List (Nat × List Byte) := is.flatMap fun i => l.entryLines i (Tab.look {} l.entries i)

/-- The members of a table mark's or a launch mark's group for one structure (23 R395, R397): at FULL exactly the bytes that
change, a line a record; at WINDOW the lines that no record of the window covers. The first carries what undoes the change. -/
def Silt.lineRecs (s : Silt) (k : SKind) (space party : Nat) (g : Gid) (old : SOld) (ls : List (Nat × List Byte × Nat × Nat)) :
    List SRec :=
  let rs : List SRec := ls.filterMap fun (a, bs, lo, hi) =>
    if s.full then some { seq := 0, kind := k, key := a + lo, space := space, party := party, gid := g, raw := (bs.take hi).drop lo }
    else if s.coveredArea k a then none
    else some { seq := 0, kind := k, key := a, space := space, party := party, gid := g, raw := bs }
  match rs with
  | [] => []
  | r :: rest => { r with old := old } :: rest

/-- The members of a table mark: those of each entry that changes between two tables. -/
def Silt.entryRecs (s : Silt) (party : Nat) (g : Gid) (old new : Loam) (is : List Nat) : List SRec :=
  is.flatMap fun i =>
    s.lineRecs .table 6 party g (.entry i (Tab.look {} old.entries i) []) (changedLines (old.linesOf [i]) (new.linesOf [i]))

/-- A group record of a context's log: its header, then its members (R396). -/
def Mach.appendGroup (m : Mach) (c party : Nat) (g : Gid) (ms : List SRec) : Mach :=
  let head : SRec := { seq := 0, kind := .group, key := ms.length, party := party, gid := g }
  m.setCtx c fun x => { x with silt := x.silt.append (head :: ms) }

/-- Entries changed under one table mark of the log (R134, 23 R395, R397), made by a party. -/
def Mach.markEntriesBy (m : Mach) (party c : Nat) (g : Gid) (is : List Nat) (f : Entry → Entry) : Mach :=
  let m1 := is.foldl (fun a i => a.updEntry c i f) m
  m1.appendGroup c party g ((m.ctx c).silt.entryRecs party g (m.ctx c).loam (m1.ctx c).loam is)

/-- Entries changed under one table mark, for a task. -/
def Mach.markEntries (m : Mach) (c : Nat) (g : Gid) (is : List Nat) (f : Entry → Entry) : Mach :=
  m.markEntriesBy (m.partyOf g) c g is f

/-- The members of the group whose leader is entry l (R121). -/
def Mach.members (m : Mach) (c l : Nat) : List Nat :=
  (m.ctx c).loam.entries.filterMap fun (i, e) => if e.state = .eval ∧ e.leader = l then some i else none

/-- The entry and position of a cursor. -/
def Task.cursor (t : Task) (n : Nat) : Option Cursor := Tab.look none t.curs n

/-- The entry that a task produces, while its way still holds it: not once it was evicted (R129) or freed (R128, R134). -/
def Mach.produced (m : Mach) (t : Task) : Option Nat :=
  t.produces.filter fun e =>
    decide ((m.entry (ctxOf t.gid) e).creation = t.prodNo) && (m.entry (ctxOf t.gid) e).state != .free

/-- A task is parked in TANS on entry e (R123). -/
def Task.parkedOn (t : Task) (e : Nat) : Bool := t.phase == .waiting (.answer e)

/-- The entry a task is parked on in TANS. -/
def Task.tansEntry (t : Task) : Option Nat := match t.phase with
  | .waiting (.answer e) => some e
  | _ => none

/-- A task has an unread answer on some consumer cursor on an entry of a list (R124). -/
def Mach.hasUnread (m : Mach) (c : Nat) (t : Task) (es : List Nat) : Bool :=
  t.curs.any fun (n, cu) => match cu with
    | some k => decide (n ≠ 0) && es.contains k.entry && decide ((m.entry c k.entry).creation = k.creation) &&
        decide (k.pos < (m.entry c k.entry).answers.length)
    | none => false

/-- The tasks parked in TANS on entries of a list. -/
def Mach.parkedAt (m : Mach) (c : Nat) (es : List Nat) : List Task :=
  m.tasks.filter fun t => ctxOf t.gid == c && t.phase != .ended && (match t.tansEntry with
    | some e => es.contains e
    | none => false)

/-- Every task parked on the entries wakes; each is queued at the higher of its own priority and its producer's (R81).
DEDUCED, log entry 27. -/
def Mach.wakeParked (m : Mach) (c : Nat) (es : List Nat) : Mach :=
  (m.parkedAt c es).foldl (fun a t =>
    let p := match t.tansEntry with
      | some e => match a.find (a.entry c e).producer with
        | some q => q.prio
        | none => 0
      | none => 0
    (a.tick).mapTask t.gid fun x => ({ x with prio := max x.prio p }.wake a.cycle a.order)) m

/-- The producers of a group run at the highest priority among them and the tasks parked on its members (R132).
DEDUCED, log entry 27. -/
def Mach.inheritPrio (m : Mach) (c l : Nat) : Mach :=
  let es := m.members c l
  let ps := es.map fun e => (m.entry c e).producer
  let top := ((m.parkedAt c es).map (·.prio) ++ ps.filterMap fun g => (m.find g).map (·.prio)).foldl max 0
  ps.foldl (fun a g => a.raisePrio g top) m

/-- Completion of a group (R124). -/
def Mach.completeGroup (m : Mach) (c : Nat) (g : Gid) (es : List Nat) : Mach :=
  (m.wakeParked c es).markEntries c g es fun e => { e with state := .complete }

/-- The evaluation of a group at its home after an event that might complete it (R124, R125). Nothing takes effect
while the context is halted (R126). -/
def Mach.evalGroup (m : Mach) (c l : Nat) (g : Gid) : Mach :=
  let es := m.members c l
  let live := es.filterMap fun e => if (m.entry c e).pdone then none else m.find (m.entry c e).producer
  let settled := live.all fun t => match t.tansEntry with
    | some e => es.contains e
    | none => false
  if es.isEmpty || (m.ctx c).halt.complete || !settled then m
  else
    let unread := live.filter fun t => m.hasUnread c t es
    if unread.isEmpty then m.completeGroup c g es
    else unread.foldl (fun a t =>
      (a.tick).mapTask t.gid fun x => ((x.putCell 0 ⟨3, .raw, none⟩).resume).enqueue a.cycle a.order) m

/-- Every member of a group FAILED with a code, and every task parked on a member woken (R28, R127). -/
def Mach.failGroup (m : Mach) (c l : Nat) (g : Gid) (code : Nat) : Mach :=
  let es := m.members c l
  (m.wakeParked c es).markEntries c g es fun e => { e with state := .failed, code := code % 65536 }

/-- The merge of R26: every EVAL entry created between the two joins one group, with the groups that hold any of them;
the leader is the oldest. -/
def Mach.mergeGroups (m : Mach) (c : Nat) (g : Gid) (mine other : Nat) : Mach :=
  let a := (m.entry c other).creation
  let b := (m.entry c mine).creation
  let all := (m.ctx c).loam.entries.filter fun (_, e) => e.state == .eval
  let range := all.filter fun (_, e) => decide (a ≤ e.creation) && decide (e.creation ≤ b)
  let leaders := range.map fun (_, e) => e.leader
  let joined := all.filter fun (_, e) => leaders.contains e.leader
  match joined.foldl (fun (acc : Option (Nat × Entry)) p => match acc with
      | none => some p
      | some q => if p.2.creation < q.2.creation then some p else some q) none with
  | none => m
  | some (lead, _) => m.markEntries c g (joined.map Prod.fst) fun e => { e with leader := lead }

/-- A cursor released (R30, R117). -/
def Mach.dropCursor (m : Mach) (g : Gid) (n : Nat) : Mach :=
  match (m.find g).bind (·.cursor n) with
  | none => m
  | some k =>
    (m.updEntry (ctxOf g) k.entry fun e => if e.creation = k.creation then { e with pins := e.pins - 1 } else e).mapTask g
      fun t => { t with curs := Tab.put none t.curs n none }

/-- Every cursor of a task released (R30). -/
def Mach.dropCursors (m : Mach) (g : Gid) : Mach := (List.range 32).foldl (fun a n => a.dropCursor g n) m

/-- The suspended caller of a producer made ready (R24). -/
def Mach.resumeCaller (m : Mach) (g : Gid) : Mach :=
  match (m.find g).bind (·.caller) with
  | none => m
  | some k => (m.mapTask g fun t => { t with caller := none }).wakeTask k

/-! ### The launch pool (19) -/

/-- A launch record of a context. -/
def Mach.launch (m : Mach) (c r : Nat) : PoolRec := Tab.look {} (m.ctx c).pool r

/-- A launch record's HW fields changed (R345: nothing is logged). -/
def Mach.updRec (m : Mach) (c r : Nat) (f : PoolRec → PoolRec) : Mach :=
  m.setCtx c fun x => { x with pool := Tab.upd {} x.pool r f }

/-- The lines of a launch record. -/
def PoolRec.lines (p : PoolRec) (at_ : Nat) : List (Nat × List Byte) :=
  (List.range 4).map fun i => (at_ + 64 * i, (p.bytes.drop (64 * i)).take 64)

/-- A launch record changed under a launch mark of the log (R345, 23 R397). -/
def Mach.markRec (m : Mach) (c r : Nat) (g : Gid) (f : PoolRec → PoolRec) : Mach :=
  let party := m.partyOf g
  let at_ := (m.ctx c).poolAt + 256 * r
  let m1 := m.updRec c r f
  m1.appendGroup c party g ((m.ctx c).silt.lineRecs .launch 7 party g (.launch r (m.launch c r).r)
    (changedLines ((m.launch c r).lines at_) ((m1.launch c r).lines at_)))

/-- The control registers of a task of a record (R68). -/
def LaunchCtl (r : LaunchRec) : Ctl :=
  { widShape := BitVec.ofNat 36 r.shape
    alloc := BitVec.ofNat 9 r.alloc
    viewV := ⟨BitVec.ofNat 6 (r.viewV / 256), BitVec.ofNat 8 r.viewV⟩
    viewT := ⟨BitVec.ofNat 6 (r.viewT / 256), BitVec.ofNat 8 r.viewT⟩
    viewC := ⟨BitVec.ofNat 6 (r.viewC / 256), BitVec.ofNat 8 r.viewC⟩
    fmtMode := BitVec.ofNat 1 (r.flags / 32)
    fpMode := BitVec.ofNat 3 (r.flags / 128 % 4 + r.flags / 64 % 2 * 4) }

/-- ARGS of a record's FLAGS (R346). -/
def recArgs (r : LaunchRec) : Bool := decide (r.flags / 16 % 2 = 1)
def recEarly (r : LaunchRec) : Bool := decide (r.flags / 8 % 2 = 1)
def recSink (r : LaunchRec) : Bool := decide (r.flags / 4 % 2 = 1)
def recPrio (r : LaunchRec) : Nat := r.flags % 4

/-- The priority a new task of a record takes: 0 while the record runs by early start with predecessors pending (R353). -/
def PoolRec.prio (p : PoolRec) : Nat := if p.earlyOn ∧ 0 < p.pending then 0 else recPrio p.r

/-- The core whose matrix unit holds tiles of a task (09 R176). -/
def Mach.tileCore (m : Mach) (g : Gid) : Option Nat :=
  m.matrix.findSome? fun (cl, x) => x.tiles.findSome? fun (k, t) => if t.holder = some g then some (8 * cl + k / 2) else none

/-- The core a task is bound to (R361): by itself, by its tiles, or as the unseated task of a gang. -/
def Mach.boundTo (m : Mach) (t : Task) : Option Nat :=
  match t.bound with
  | some c => some c
  | none =>
    match m.tileCore t.gid with
    | some c => some c
    | none => if t.regang ≠ 0 then t.lines else none

/-- The valid tile declarations of a record: offset and residue (R356). -/
def tileDecls (r : LaunchRec) : List (Nat × Nat) :=
  r.tiles.filterMap fun d => if d / 2 ^ 20 % 2 = 1 then some (d % 65536 / 16 * 16, d / 2 ^ 16 % 16) else none

/-- The declarations that gate a task. -/
def Mach.declsOf (m : Mach) (t : Task) : List (Nat × Nat) := match t.rec_ with
  | some r => tileDecls (m.launch (ctxOf t.gid) r).r
  | none => []

/-- Every declaration holds on a core (R356). DEDUCED, log entry 34. -/
def Mach.gatesHold (m : Mach) (t : Task) (core : Nat) : Bool :=
  (m.declsOf t).all fun (off, k) => (m.bar core off).satisfies k

/-- The cores a task could be seated on: the one it is bound to, or those of its cluster. -/
def Mach.homeCores (m : Mach) (t : Task) : List Nat := match m.boundTo t with
  | some c => [c]
  | none => (List.range 8).map (8 * t.cluster + ·)

/-- A task's gates hold on no core it could be seated on: it is not ready (R356). -/
def Mach.isGated (m : Mach) (t : Task) : Bool := !(m.homeCores t).any fun c => m.gatesHold t c

/-- The number of ready tasks queued at a cluster; one behind its gates is not ready (R351, R356). -/
def Mach.queued (m : Mach) (cl : Nat) : Nat :=
  (m.tasks.filter fun t => t.phase == .ready && t.seat.isNone && t.cluster == cl && !m.isGated t).length

/-- The cluster of a partition with the fewest queued ready tasks, the lowest number winning a tie (R351). -/
def Mach.fewest (m : Mach) (cls : List Nat) : Nat :=
  match cls with
  | [] => 0
  | k :: r => r.foldl (fun a b => if m.queued b < m.queued a ∨ (m.queued b = m.queued a ∧ b < a) then b else a) k

/-- A task added to the machine. -/
def Mach.addTask (m : Mach) (t : Task) : Mach := { m with others := m.others ++ [t] }

/-- A range task of a record over [lo, hi), its WORK_ID the interval's lo (R67, R68, R346). -/
def Mach.newRange (m : Mach) (c r : Nat) (kind : Kind) (lo hi : Nat) (isSealed : Bool) (cl : Nat) : Task × Mach :=
  let (s, m1) := m.takeSerial c cl
  let p := m1.launch c r
  let t : Task :=
    { gid := gidOf c s, kind := kind, rec_ := some r, frame := m1.freeFrame c, ctl := LaunchCtl p.r, pc := BitVec.ofNat 64 p.r.entry,
      npc := BitVec.ofNat 64 p.r.entry,
      img := { regs := if recArgs p.r then setArgs [] 1 (args6 p.r) else [] },
      workId := BitVec.ofNat 64 lo, lo := lo, hi := hi, isSealed := isSealed, cluster := cl,
      prio := p.prio, basePrio := p.prio, queuedAt := m1.cycle, queueNo := m1.order }
  (t.acquire .dv m1.order, m1.tick.updRec c r fun q => { q with live := q.live + 1, created := q.created + 1 })

/-- A window preset applied on every core of a context's partition (R185, R346). -/
def Mach.preset (m : Mach) (c w : Nat) : Mach :=
  if w / 2 ^ 38 % 2 = 0 then m
  else
    let win : Window := ⟨BitVec.ofNat 14 (w / 2 ^ 17 % 65536 / 8), BitVec.ofNat 14 (w % 2 ^ 17 / 8), BitVec.ofNat 3 (w / 2 ^ 35)⟩
    let cores := (m.partOf c).clusters.flatMap fun cl => (List.range 8).map (8 * cl + ·)
    { m with windows := cores.foldl (fun a k => Tab.put {} a ((k * 256 + c) * 4 + w / 2 ^ 33 % 4) win) m.windows }

/-- start(r) (R351), early or not (R353). -/
def Mach.startRec (m : Mach) (c r : Nat) (early : Bool) : Mach :=
  let m1 := (m.preset c (m.launch c r).r.wpreset).updRec c r fun p =>
    { p with state := .running, earlyOn := early, startNo := m.order }
  let p := m1.launch c r
  let (t, m2) := m1.newRange c r .graph p.r.lo p.r.hi false (m1.fewest (m1.partOf c).clusters)
  m2.addTask t

/-- A successor's PENDING falls by one; it starts, or returns to its base priority, when none is left (R352, R353). -/
def Mach.predecessorDone (m : Mach) (c r : Nat) (reached : List Nat) (s : Nat) : Mach :=
  let p := m.launch c s
  if p.state ≠ .armed ∧ p.state ≠ .running then m
  else
    let m1 := m.updRec c s fun q =>
      { q with pending := q.pending - 1
               reached := (r :: reached).foldl (fun l n => if n ∈ l then l else l ++ [n]) q.reached }
    let q := m1.launch c s
    if q.pending ≠ 0 then m1
    else if q.state = .armed then m1.startRec c s false
    else
      let b := recPrio q.r
      m1.mapTasks fun t => if ctxOf t.gid = c ∧ t.rec_ = some s ∧ t.phase ≠ .ended then
        { t with basePrio := b, prio := max t.prio b } else t

/-- A command belongs to a launch record of a context. -/
def ECmd.ofRec (c : ECmd) (ctx r : Nat) : Bool := c.ctx == ctx && (c.rec_ == some r || c.merged.any fun q => q.rec_ == some r)

/-- Every command an engine has taken and not finished. -/
def Engine.cmds (e : Engine) : List ECmd :=
  (e.active.toList ++ e.saved).map (·.cmd) ++ e.shadow.toList ++ e.pend ++ e.streams.map (·.cmd)

/-- A record is done: none of its tasks live, nothing pending, and every write and command of theirs acknowledged
(R270, R352). -/
def Mach.recordDone (m : Mach) (c r : Nat) : Bool :=
  let p := m.launch c r
  p.state == .running && p.live == 0 && p.pending == 0 &&
  !(m.weak.any fun w => ctxOf w.gid == c && w.rec_ == some r) &&
  !(m.nodes.any fun (_, l) => l.any fun h => h.cmd.ofRec c r) &&
  !(m.engines.any fun (_, e) => e.cmds.any (·.ofRec c r)) &&
  !(m.colls.any fun (_, l) => l.any fun k => k.cmd.ofRec c r) &&
  !(m.matrix.any fun (_, x) => x.queues.any (fun (_, q) => q.any fun k => ctxOf k.gid == c && k.rec_ == some r) ||
      (match x.run with | some k => ctxOf k.ent.gid == c && k.ent.rec_ == some r | none => false))

/-! ### The end of a task -/

/-- A queued command is on tile q of its core (R250); a schedule may yet issue commands on either (R267). -/
def MCmd.onTile (q : Nat) : MCmd → Bool
  | .mop _ k _ _ _ _ _ => k == q
  | .mconv k _ _ _ _ _ => k == q
  | .mzero k _ => k == q
  | .msched _ => true

/-- A command of a task on tile q of the core at an index of its cluster has not finished. -/
def Matrix.busy (x : Matrix) (g : Gid) (i q : Nat) : Bool :=
  x.queues.any (fun (k, l) => k == i && l.any fun e => e.gid == g && e.cmd.onTile q) ||
  (match x.run with | some r => r.core % 8 == i && r.ent.gid == g && r.ent.cmd.onTile q | none => false)

/-- A task's tiles with no command left on them are released (13 R246, R258). -/
def Mach.freeTiles (m : Mach) (g : Gid) : Mach :=
  { m with matrix := m.matrix.map fun (cl, x) => (cl, { x with
      tiles := x.tiles.map fun (k, t) =>
        if t.holder = some g ∧ ¬ x.busy g (k / 2) (k % 2) then (k, { t with holder := none }) else (k, t) }) }

/-- The end of a task (19 R351): cursors released (R30), its slot and its gang's slots given up, LIVE falls. -/
def Mach.endTask (m : Mach) (g : Gid) : Mach :=
  match m.find g with
  | none => m
  | some t =>
    let m1 := (m.dropCursors g).mapTask g fun x =>
      { x with phase := .ended, seat := none, fol := [], region := none, ctl := { x.ctl with wpCtl := 0 } }
    let m2 := m1.freeTiles g
    match t.rec_ with
    | some r => m2.updRec (ctxOf g) r fun p => { p with live := p.live - 1 }
    | none => m2

/-- A producer ends (R140, R141): its group fails first where its entry is EVAL and a code is given (R28); then it is DONE, its
cursors are released, its caller resumes, its group is evaluated, and it ends. One whose entry is gone only ends (R126). -/
def Mach.endProducer (m : Mach) (g : Gid) (fail : Option Nat) : Mach :=
  let c := ctxOf g
  match (m.find g).bind m.produced with
  | none => ((m.dropCursors g).resumeCaller g).endTask g
  | some e =>
    let m1 := match fail with
      | some code => if (m.entry c e).state == EState.eval then m.failGroup c (m.entry c e).leader g code else m
      | none => m
    let m2 := m1.updEntry c e fun x => { x with pdone := x.pdone || x.state == EState.eval }
    let m3 := (m2.dropCursors g).resumeCaller g
    (if (m3.entry c e).state = .eval then m3.evalGroup c (m3.entry c e).leader g else m3).endTask g

end Sys2Proof.Machine
end

