-- ==== Sys2Proof/Machine/Ops.lean ====
section
/-! DEFINITION. Taking an exception (09 R165 to R168) and returning from one, the fault buffer (15 R288), the abort of a
region (20 R366, 21 R377), and how an instruction's effect or its stop becomes the next state. -/

namespace Sys2Proof.Machine

/-! ### The fault buffer (15 R288) -/

/-- A fault's code: rights failures are PROT, the others PAGE_FAULT. -/
def faultCode (cause : Nat) : Nat := if cause = 1 then prot else pageFault

/-- An entry of a partition's fault buffer. -/
def Mach.faultAt (m : Mach) (part idx : Nat) : Option FaultEnt := Tab.look none m.faults (4096 * part + idx)

/-- The indices below n of a partition's buffer that satisfy p, the lowest. -/
def Mach.firstFault (m : Mach) (part : Nat) (p : Option FaultEnt → Bool) : Nat → Nat → Option Nat
  | _, 0 => none
  | i, n + 1 => if p (m.faultAt part i) then some i else m.firstFault part p (i + 1) n

/-- A fault joins the pending entry of its context, page and cause (R288): its index. -/
def Mach.pendingFault (m : Mach) (part c va cause : Nat) : Option Nat :=
  (m.faults.find? fun (k, e) => k / 4096 == part && (match e with
    | some f => f.ctx == c && f.va == va && f.cause == cause
    | none => false)).map fun p => p.1 % 4096

/-- A fault enters the buffer or joins an entry (R288): the entry, 4096 when the buffer is full. -/
def Mach.enterFault (m : Mach) (c : Nat) (va : Word) (cause acc : Nat) (g : Option Gid) (e : Option EngRef) : Nat × Mach :=
  let part := (m.ctx c).part
  let page := va.toNat / 65536 * 65536
  match m.pendingFault part c page cause with
  | some i =>
    (i, { m with faults := Tab.upd none m.faults (4096 * part + i) fun x => x.map fun f =>
      { f with access := f.access ||| acc, waiters := f.waiters + 1, tasks := f.tasks ++ g.toList, engs := f.engs ++ e.toList } })
  | none =>
    match m.firstFault part Option.isNone 0 4096 with
    | none => (4096, m)
    | some i =>
      (i, { m with faults := Tab.put none m.faults (4096 * part + i) (some
        { va := page, ctx := c, access := acc, cause := cause, waiters := 1, task := g.getD 0, time := m.cycle,
          tasks := g.toList, engs := e.toList }) })

/-! ### Traps -/

/-- The route a code takes (R166). -/
inductive Route where
  | handler | kernel | halt
  deriving DecidableEq, Repr

/-- R166's table. -/
def route (code : Nat) : Route :=
  if code = pageFault ∨ code = prot ∨ code = tblExhaust ∨ code = syscTrap then .kernel
  else if code = watchTrap ∨ code = brkTrap ∨ code = uncorrData ∨ code = engineFault then .halt
  else .handler

/-- Delivery to the handler (R167): the trap registers, IN, and control at TRAP_VEC.ADDR. The execution that trapped has used
up its pass of a breakpoint or a watchpoint. -/
def Task.deliver (t : Task) (code : Nat) (addr : Word) (member : Nat) : Task :=
  let v := t.ctl.trapVec.toNat / 2 * 2
  { t with
    passWatch := false, passBreak := false
    ctl := { t.ctl with
             trapPc := BitVec.ofNat 52 t.pc.toNat
             trapAddr := addr
             trapCode := ⟨true, BitVec.ofNat 3 member, BitVec.ofNat 8 code⟩ }
    pc := BitVec.ofNat 64 v
    npc := BitVec.ofNat 64 v }

/-- The trap registers of a trap that takes the halt route (R168): IN stays as it is. -/
def Task.record (t : Task) (code : Nat) (addr : Word) (member : Nat) : Task :=
  { t with ctl := { t.ctl with
      trapPc := BitVec.ofNat 52 t.pc.toNat
      trapAddr := addr
      trapCode := ⟨t.ctl.trapCode.inH, BitVec.ofNat 3 member, BitVec.ofNat 8 code⟩ } }

/-- Codes of the halt route that write no error record 0x10nn (26 R449). -/
def quietCode (code : Nat) : Bool := code == watchTrap || code == brkTrap || code == uncorrData || code == engineFault

/-- The halt route (R166, R170): the trap registers, the halt line, and what the stop record and the error record will
say. After BRK the task resumes at the next instruction (24 R416); after WATCH the next execution is not checked
(22 R389). `own` is the code of the member that trapped (R77). -/
def Mach.haltRoute (m : Mach) (g : Gid) (code : Nat) (addr : Word) (member own : Nat) : Mach :=
  let c := ctxOf g
  let m1 := m.mapTask g fun t =>
    let t1 := t.record code addr member
    { t1 with
      phase := .ready
      stop := some ⟨0, own, addr, t.pc⟩
      pc := if code = brkTrap then t.npc else t.pc
      passWatch := if code = watchTrap then true else t.passWatch }
  let m2 := m1.raiseLine c false (some g)
  if quietCode code then m2
  else
    let pc := ((m.find g).map fun t => t.pc.toNat).getD 0
    m2.haltError c { code := 0x1000 + code, severity := 2, action := 3, unit := m.partyOf g, valid := 3,
                     task := g, syndrome := addr.toNat, detail := pc }

/-- A SYSC or a TBL_EXHAUST enters the fault buffer under an entry of its own and interrupts the kernel (R166, R466); while the
buffer is full it waits as other faults do (R288). DESIGN CHOICE, log entry 84. -/
def Mach.enterTrap (m : Mach) (code : Nat) (addr : Word) (w : Wait) : Mach :=
  let g := m.t.gid
  let c := ctxOf g
  let part := (m.ctx c).part
  match m.firstFault part Option.isNone 0 4096 with
  | none => { m with t := { m.t with phase := .waiting (.fault part 4096 code addr) } }
  | some i =>
    { m with
      faults := Tab.put none m.faults (4096 * part + i) (some
        { va := addr.toNat / 65536 * 65536, ctx := c, access := 0, cause := code, waiters := 1, task := g, time := m.cycle,
          tasks := [g] })
      irqs := m.irqs ++ [(5, c)]
      t := { m.t with phase := .waiting w } }

/-- The kernel route (R166): the task waits, and the trap enters the fault buffer. -/
def Mach.kernelRoute (m : Mach) (code : Nat) (addr : Word) (cause acc : Nat) : Mach :=
  let g := m.t.gid
  if code = syscTrap then m.enterTrap code addr (.sysc addr.toNat)
  else if code = tblExhaust then m.enterTrap code addr (.tbl addr)
  else
    let (i, m1) := m.enterFault (ctxOf g) addr cause acc (some g) none
    { m1 with t := { m1.t with phase := .waiting (.fault (m.ctx (ctxOf g)).part i code addr) } }

/-- What a task's stop record will say, where no earlier cause of its own has stopped it. -/
def Task.stopsWith (t : Task) (c : StopCause) : Task := { t with stop := some (t.stop.getD c) }

/-- An effect of the task in focus whose writes find no room in the log: the task waits with nothing of it done (23 R401).
DESIGN CHOICE, log entry 22. -/
def Mach.orWait (m m1 : Mach) : Mach := if m.fits m1 m.cur then m1 else { m with t := { m.t with phase := .waiting .silt } }

/-- The route that a trap takes (R166, R167, R77, R377): the region aborts first, then the gang disbands; a trap raised in a
handler takes the halt route; the handler route without a handler halts the context, or ends a producer as though by TFAIL (06 R127), its release among it (R141).
DEDUCED, log entry 13. -/
def Mach.takeRoute (m : Mach) (code : Nat) (addr : Word) (member cause acc : Nat) : Mach :=
  let code' := if member = 0 then code else gangFault
  let t := { m.t.aborted abFault with fol := [], regang := 0, answered := false }
  let m1 := { m with t := t }
  if t.ctl.trapCode.inH then m1.haltRoute t.gid code' addr member code
  else match route code' with
    | .handler =>
      if t.ctl.trapVec.getLsbD 0 then { m1 with t := t.deliver code' addr member }
      else if t.kind = .producer then m.orWait ((m1.release t.gid t.core .dv).endProducer t.gid (some code'))
      else m1.haltRoute t.gid code' addr member code
    | .kernel => m1.kernelRoute code' addr cause acc
    | .halt => m1.haltRoute t.gid code' addr member code

/-- Taking an exception: the one operation every trap goes through. It takes its route; where the context's halt line is up
already, the task's stop record says this trap (R173). A producer whose entry is COMPLETE takes its ordinary course, the one of
every producer (06 R126). DEDUCED, log entry 13. -/
def Mach.raise (m : Mach) (code : Nat) (addr : Word) (member cause acc : Nat) : Mach :=
  let g := m.t.gid
  let h := (m.ctx (ctxOf g)).halt
  let m1 := m.takeRoute code addr member cause acc
  if h.line && !h.complete then m1.mapTask g (·.stopsWith ⟨0, code, addr, m.t.pc⟩) else m1

/-- A precise strike (22 R389, R391): WATCH on the halt route, with its watch record. -/
def Mach.raiseWatch (m : Mach) (a : Word) (key : Nat) (va : Word) (n : Nat) : Mach :=
  let c := m.cur
  let g := m.t.gid
  (m.raise watchTrap a 0 0 0).addStop c
    (.watch false (threadParty m.t.core) n c g g va m.cycle (BitVec.ofNat 64 (m.word key)) (m.windowNo c) 0 0)

/-- The return from an exception (R179). -/
def rfeT (t : Task) : Except Stop Task :=
  if !t.ctl.trapCode.inH then .error (.trap illOp t.pc 0)
  else
    let a := BitVec.ofNat 64 t.ctl.trapPc.toNat
    if a.getLsbD 0 then .error (.trap alignTrap a 0)
    else .ok { t with ctl := { t.ctl with trapCode := { t.ctl.trapCode with inH := false } }, npc := a }

/-! ### From an effect to the next state -/

/-- Kinds of a message a thread sends (R360): MSEND, TBLK, TUNBLK, and the event message of an instruction that has
completed (11 R210). -/
def sendMsg : Nat := 0
def sendBlk : Nat := 1
def sendUnblk : Nat := 2
def sendEvent : Nat := 3

/-- The task's instruction has not completed: it waits with part of its effect done (R310, R318, R319). -/
def Task.isHeld (t : Task) : Bool := match t.phase with
  | .waiting _ => true
  | .sending s => s.op != sendEvent
  | .parked (.marker _) => true
  | .parked (.mwait _ _) => true
  | .parked .sfu => true
  | _ => false

/-- An effect on the chip, under the region's rules (R370, R372); one whose writes find no room in the log waits, with
nothing of it done (23 R401). -/
def Mach.attempt (m : Mach) (rule : RRule) (f : Mach → Except Stop Mach) : Except Stop Mach := do
  let t1 ← m.t.allow rule
  let m2 ← f { m with t := t1 }
  let t2 ← m2.t.within
  if m.fits m2 m.cur then .ok { m2 with t := t2 } else .error (.wait .silt)

/-- What becomes of an instruction: its effect and the pc's advance, or, with nothing of its effect, the trap, the
region's abort, or the wait (R33, R165). -/
def Mach.conclude (m : Mach) (r : Except Stop Mach) : Mach :=
  match r with
  | .ok m1 => if m1.t.isHeld then m1 else { m1 with t := m1.t.retire }
  | .error (.trap code addr k) => m.raise code addr k 0 0
  | .error (.xfault cause acc va k) => { m.raise (faultCode cause) va k cause acc with free := m.free + 1 }
  | .error (.abort c) => { m with t := m.t.aborted c }
  | .error (.watch a k va n) => m.raiseWatch a k va n
  | .error (.wait w) => { m with t := { m.t with phase := .waiting w } }
  | .error (.retry p) => { m with t := { m.t with phase := .parked p } }

/-- What a step of this machine answers. -/
abbrev Step (σ : Type) := Host.Outcome σ Fault Refusal

/-- An encoded instruction on the whole state: only the chip changes. -/
def issue (rule : RRule) (f : Mach → Except Stop Mach) (s : State) : Host.Outcome State Fault Refusal :=
  .next { s with m := s.m.conclude (s.m.attempt rule f) }

/-- An effect on the task alone. -/
def onTask (f : Task → Except Stop Task) (m : Mach) : Except Stop Mach :=
  match f m.t with
  | .ok t => .ok { m with t := t }
  | .error e => .error e

/-- An encoded instruction whose effect is on its task alone. -/
def issueT (rule : RRule) (f : Task → Except Stop Task) (s : State) : Host.Outcome State Fault Refusal :=
  issue rule (onTask f) s

/-- A live task brought into focus. -/
def Mach.focus (m : Mach) (g : Gid) : Mach :=
  if m.t.gid = g ∧ m.t.phase ≠ .ended then m
  else match m.others.find? fun t => t.gid == g && t.phase != .ended with
    | none => m
    | some t =>
      let rest := m.others.filter fun x => !(x.gid == g && x.phase != .ended)
      { m with t := t, others := if m.t.phase = .ended then rest else m.t :: rest }

/-- An event of the opcode table that acts on the chip; the errors it detects enter the ring. -/
def eventM (f : Mach → Mach) (s : State) : Host.Outcome State Fault Refusal :=
  .next ({ s with m := f s.m } : State).flushErrs

/-- An event of the opcode table that acts on the whole state. -/
def eventS (f : State → State) (s : State) : Host.Outcome State Fault Refusal := .next (f s).flushErrs

end Sys2Proof.Machine
end

