-- ==== Sys2Proof/Machine/Device.lean ====
section
/-! DEFINITION. The engines' register pages (18 R334), their commands' way to them (R335 to R338), and reads and writes
of device space. -/

namespace Sys2Proof.Machine

/-- STATUS of a context's page (R334): busy while an operation, a stream or a collective of the context runs.
DEDUCED, log entry 45. -/
def Engine.status (e : Engine) (c : Nat) (colls : List Coll) : Nat :=
  let op := match e.active with
    | some o => decide (o.cmd.ctx = c)
    | none => false
  (if op || e.streams.any (·.cmd.ctx == c) || colls.any (·.cmd.ctx == c) then 1 else 0) +
  (if e.active.isSome && e.shadow.isSome then 2 else 0) +
  256 * (e.pend.filter fun k => k.ctx == c).length

/-- MAILBOX of a context's page (R334). -/
def Mailbox.word (b : Mailbox) : Nat := b.count % 65536 * 2 ^ 48 + b.status % 256 * 2 ^ 40 + b.ticket % 2 ^ 36

/-- A ticket (R336). -/
def ticketOf (k : EngKind) (core serial : Nat) : Nat := kindCode k * 2 ^ 36 + core % 4096 * 2 ^ 24 + serial % 65536

/-- The commands a core has at its cluster's combining node (R337). -/
def Mach.heldOf (m : Mach) (core : Nat) : Nat :=
  ((Tab.look [] m.nodes (clusterOf core)).map fun h =>
    (if h.cmd.core = core then 1 else 0) + (h.cmd.merged.filter fun q => q.core == core).length).sum

/-- The next serial of a core's engine commands (R336). -/
def Mach.takeTicket (m : Mach) (c core : Nat) : Nat × Mach :=
  let n := Tab.look 0 (m.ctx c).serials core
  (n, m.setCtx c fun x => { x with serials := Tab.put 0 x.serials core ((n + 1) % 65536) })

/-- OP, VAR, NB, NM and BAR of a command (R335). -/
def ECmd.opc (c : ECmd) : Nat := c.hdr.toNat % 256
def ECmd.var (c : ECmd) : Nat := c.hdr.toNat / 2 ^ 8 % 16
def ECmd.nb (c : ECmd) : Bool := c.hdr.getLsbD 12
def ECmd.nm (c : ECmd) : Bool := c.hdr.getLsbD 13
def ECmd.bar (c : ECmd) : Nat := c.hdr.toNat / 2 ^ 16 % 2 ^ 16

/-- A command the node holds for merging (R335, R338). -/
def ECmd.merges (c : ECmd) : Bool :=
  !c.nm && (c.opc == 2 || c.opc == 6 || (c.opc == 1 && (c.var % 4 == 1 || c.var % 4 == 2) && c.var / 4 == 0))

/-- The commands of two requests are the same 32 bytes of one context (R338). -/
def ECmd.same (a b : ECmd) : Bool := a.hdr == b.hdr && a.dst == b.dst && a.src == b.src && a.len == b.len && a.ctx == b.ctx

/-- The cores of a command's requesters. -/
def ECmd.cores (c : ECmd) : List Nat := c.core :: c.merged.map (·.core)

/-- A core has a command among those held for an engine. -/
def holdsOf (e : EngRef) (core : Nat) (l : List HeldCmd) : Bool := l.any fun h => h.eng == e && h.cmd.cores.contains core

/-- A command arrives at the combining node: it joins an equal one held for merging, or is held itself (R338). It joins none
that stands before an older command of its core to the engine, so that both can start in issue order (R337).
DEDUCED, log entry 45. -/
def joinNode (now : Nat) (e : EngRef) (cmd : ECmd) : List HeldCmd → List HeldCmd
  | [] => [⟨e, cmd, now⟩]
  | h :: r =>
    if cmd.merges ∧ h.eng = e ∧ h.cmd.same cmd ∧ now < h.since + 64 ∧ holdsOf e cmd.core r = false then
      let q : Req := ⟨cmd.core, cmd.serial, cmd.gid, cmd.rec_⟩
      { h with cmd := { h.cmd with merged := h.cmd.merged ++ [q] } } :: r
    else h :: joinNode now e cmd r

/-- A command sent to the combining node (R337, R338): its ticket, or a park while the node is full. -/
def Mach.send (m : Mach) (e : EngRef) (cmd : ECmd) : Except Stop (Nat × Mach) :=
  if 16 ≤ m.heldOf cmd.core then .error (.retry .command)
  else
    let (n, m1) := m.takeTicket cmd.ctx cmd.core
    let nodes' := Tab.upd [] m1.nodes (clusterOf cmd.core) (joinNode m.cycle e { cmd with serial := n })
    .ok (ticketOf e.kind cmd.core n, { m1 with nodes := nodes' })

/-- An engine's path is full (R337). DEDUCED, log entry 45. -/
def Engine.full (e : Engine) : Bool := decide (128 ≤ e.pend.length)

/-- A command taken by an engine (R337): by its active set when it is idle (it stands in the shadow set until
ENGINE_OPERATION_START), by its shadow set, or behind it. DEDUCED, log entry 45. -/
def Engine.accept (e : Engine) (c : ECmd) : Engine :=
  if e.shadow.isNone && e.pend.isEmpty then { e with shadow := some c } else { e with pend := e.pend ++ [c] }

/-- The engine and context of a page of device space, and the offset in it (R334). A page whose UNIT names an engine that the
module does not have is treated as the page of one that it has: the spec does not say what such a page does.
DESIGN CHOICE, log entry 80. -/
def devPage (pa : Nat) : Option (EngRef × Nat × Nat) :=
  match kindOf (pa / 2 ^ 44 % 16) with
  | none => none
  | some k =>
    if pa / 2 ^ 24 % 256 ≠ 0 then none else some (⟨k, pa / 2 ^ 32 % 4096⟩, pa / 2 ^ 16 % 256, pa % 65536)

/-- The collectives in progress at an engine (25 R435). -/
def Mach.engColls (m : Mach) (e : EngRef) : List Coll := if e.kind = .collective then Tab.look [] m.colls e.unit else []

/-- A load of n bytes from device space (R334). -/
def Mach.devRead (m : Mach) (l : Loc) (n : Nat) : Except Stop (List Byte) :=
  match devPage l.key with
  | none => .error (.xfault 1 accRead l.va 0)
  | some (e, c, off) =>
    if 0x28 ≤ off ∧ off + n ≤ 0x30 then .ok (((leBytes ((m.eng e).status c (m.engColls e)) 8).drop (off - 0x28)).take n)
    else if 0x30 ≤ off ∧ off + n ≤ 0x38 then
      .ok (((leBytes (Tab.look {} (m.eng e).mail c).word 8).drop (off - 0x30)).take n)
    else .error (.xfault 1 accRead l.va 0)

/-- Bytes of SHADOW written (R334), each at its offset. -/
def Engine.putShadow (e : Engine) (c : Nat) (bs : List (Nat × Byte)) : Engine :=
  let old := (List.range 4).flatMap fun i => leBytes (Tab.look 0 e.regs (4 * c + i)).toNat 8
  let new := bs.foldl (fun l p => l.set p.1 p.2) old
  let regs' := (List.range 4).foldl
    (fun r i => Tab.put 0 r (4 * c + i) (BitVec.ofNat 64 (leNat ((new.drop (8 * i)).take 8)))) e.regs
  { e with regs := regs' }

/-- The command SHADOW holds (R337), submitted by a store at address op. -/
def Engine.shadowCmd (e : Engine) (c core : Nat) (g : Gid) (r : Option Nat) (op : Nat) : ECmd :=
  { hdr := Tab.look 0 e.regs (4 * c), dst := Tab.look 0 e.regs (4 * c + 1), src := Tab.look 0 e.regs (4 * c + 2),
    len := Tab.look 0 e.regs (4 * c + 3), ctx := c, core := core, gid := g, rec_ := r, op := op }

/-- A store to SHADOW (R334): the bytes, and the mark of module class it leaves (23 R402). -/
def Mach.regWrite (m : Mach) (e : EngRef) (c : Nat) (bs : List (Nat × Byte)) (g : Gid) (l : Loc) (party n : Nat) : Mach :=
  (m.writeCells g party l n bs).setEng e fun x => x.putShadow c bs

/-- SHADOW submitted (R334, R337). -/
def Mach.kickOp (m : Mach) (e : EngRef) (c core : Nat) (g : Gid) (r : Option Nat) (op : Nat) : Except Stop Mach :=
  match m.send e ((m.eng e).shadowCmd c core g r op) with
  | .ok (_, m1) => .ok m1
  | .error x => .error x

/-- A store of some bytes to device space (R334), each by its key: those of SHADOW are written, and then one that reaches KICK
submits it. -/
def Mach.devWrite (m : Mach) (l : Loc) (cells : List (Nat × Byte)) : Except Stop Mach :=
  match devPage l.key with
  | none => .error (.xfault 1 accWrite l.va 0)
  | some (e, c, off) =>
    let bs := cells.map fun p => (off + (p.1 - l.key), p.2)
    if !bs.all fun p => p.1 < 0x28 then .error (.xfault 1 accWrite l.va 0)
    else
      let m1 := m.regWrite e c (bs.filter (·.1 < 0x20)) m.t.gid l (threadParty m.t.core) bs.length
      if bs.all (·.1 < 0x20) then .ok m1 else m1.kickOp e c m.t.core m.t.gid m.t.rec_ m.t.pc.toNat

/-! ### What the loaders see of the activation buffer (15 R293) -/

/-- The slots of a stream's ring. -/
def Stream.slots (s : Stream) : Nat := s.ringSize / s.tile

/-- The tile that last arrived in a ring slot. -/
def Stream.arrived (s : Stream) (slot : Nat) : Option Nat :=
  if slot < s.k then some (s.k - 1 - (s.k - 1 - slot) % s.slots) else none

/-- A read of block b of the ring: its block is USED while it holds a pushed tile, and the slot's tile, or the next one once
the core is done with it, is DEMANDED, TIMELY where it had arrived. DEDUCED, log entry 43. -/
def Stream.readBlock (s : Stream) (b : Nat) : Stream :=
  let slot := b / (s.tile / 64)
  let have_ := s.arrived slot
  let s1 := if have_.isSome && !s.readBlocks.contains b then { s with used := s.used + 1, readBlocks := b :: s.readBlocks } else s
  let current := match have_ with
    | some k => decide (s.seen ≤ k)
    | none => false
  if current then
    if s.dem.contains slot then s1 else { s1 with dem := slot :: s.dem, demanded := s.demanded + 1, timely := s.timely + 1 }
  else if s.early.contains slot || decide (s.count ≤ s.k) then s1
  else { s1 with early := slot :: s.early, demanded := s.demanded + 1 }

/-- The ring blocks of a load stream that n bytes at an offset of a core's activation buffer touch. -/
def Stream.blocksAt (s : Stream) (core off n : Nat) : List Nat :=
  if s.store || s.cmd.core != core then []
  else ((List.range (off / 64 + (n + 63) / 64 + 1)).drop (off / 64)).filterMap fun b =>
    if s.ringBase / 64 ≤ b ∧ b < (s.ringBase + s.ringSize) / 64 ∧ 64 * b < off + n then some (b - s.ringBase / 64) else none

/-- A read of the activation buffer noted by the streams of its ring. DEDUCED, log entry 43. -/
def Mach.noteAct (m : Mach) (core off n : Nat) : Mach :=
  { m with engines := m.engines.map fun (k, e) => (k, { e with
      streams := e.streams.map fun s => (s.blocksAt core off n).foldl Stream.readBlock s }) }

end Sys2Proof.Machine
end

