-- ==== Sys2Proof/Machine/Float.lean ====
section
/-! DEFINITION. Floating-point formats, exact values and the one rounding of every result (11 R190 to R196, R207). -/

namespace Sys2Proof.Machine

/-- A floating-point format (R190): exponent bits, fraction bits, bias; E4M3 has no infinity (R191). -/
structure Fmt where
  e : Nat
  f : Nat
  bias : Nat
  ofp : Bool := false
  deriving DecidableEq, Repr

def fp64 : Fmt := ⟨11, 52, 1023, false⟩
def fp32 : Fmt := ⟨8, 23, 127, false⟩
def fp16 : Fmt := ⟨5, 10, 15, false⟩
def bf16 : Fmt := ⟨8, 7, 127, false⟩
def e4m3 : Fmt := ⟨4, 3, 7, true⟩
def e5m2 : Fmt := ⟨5, 2, 15, false⟩

/-- The width of a format in bits. -/
def Fmt.width (m : Fmt) : Nat := 1 + m.e + m.f

/-- A value: a NaN with its fraction left-aligned in 52 bits, an infinity, or (−1)^neg × mant × 2^exp. -/
inductive FVal where
  | nan (neg : Bool) (frac : Nat) (signalling : Bool)
  | inf (neg : Bool)
  | fin (neg : Bool) (mant : Nat) (exp : Int)
  deriving DecidableEq, Repr

/-- Flags one element raises (R195). -/
structure FSet where
  iv : Bool := false
  dz : Bool := false
  of : Bool := false
  uf : Bool := false
  nx : Bool := false
  deriving DecidableEq, Repr

/-- The flags of two events of one element. -/
def FSet.or (a b : FSet) : FSet := ⟨a.iv || b.iv, a.dz || b.dz, a.of || b.of, a.uf || b.uf, a.nx || b.nx⟩

/-- The rounding mode, FLUSH and SAT an instruction runs under (R193, R194). -/
structure FCtx where
  rnd : Rnd := .rne
  flush : Bool := false
  sat : Bool := false
  deriving DecidableEq, Repr

/-- The value that bits encode (R190, R191). -/
def Fmt.decode (m : Fmt) (b : Nat) : FVal :=
  let neg := b.testBit (m.e + m.f)
  let e := b / 2 ^ m.f % 2 ^ m.e
  let f := b % 2 ^ m.f
  if m.ofp then
    if e = 15 ∧ f = 7 then .nan neg (f * 2 ^ (52 - m.f)) false
    else if e = 0 then .fin neg f (1 - m.bias - m.f) else .fin neg (2 ^ m.f + f) ((e : Int) - m.bias - m.f)
  else if e = 2 ^ m.e - 1 then
    if f = 0 then .inf neg else .nan neg (f * 2 ^ (52 - m.f)) (!f.testBit (m.f - 1))
  else if e = 0 then .fin neg f (1 - m.bias - m.f)
  else .fin neg (2 ^ m.f + f) ((e : Int) - m.bias - m.f)

/-- The bits encode a subnormal. -/
def Fmt.isSub (m : Fmt) (b : Nat) : Bool := b / 2 ^ m.f % 2 ^ m.e == 0 && b % 2 ^ m.f != 0

/-- An operand read as a number: a subnormal under FLUSH reads as zero of its sign (R194). -/
def Fmt.operand (m : Fmt) (c : FCtx) (b : Nat) : FVal :=
  if c.flush && m.isSub b then .fin (b.testBit (m.e + m.f)) 0 0 else m.decode b

/-- The sign bit of a format. -/
def Fmt.signBit (m : Fmt) (neg : Bool) : Nat := if neg then 2 ^ (m.e + m.f) else 0

/-- Infinity; in E4M3 the largest finite value. -/
def Fmt.maxMag (m : Fmt) : Nat := if m.ofp then 2 ^ (m.e + m.f) - 2 else (2 ^ m.e - 2) * 2 ^ m.f + 2 ^ m.f - 1

/-- The bits of an infinity. -/
def Fmt.infBits (m : Fmt) (neg : Bool) : Nat := m.signBit neg + (2 ^ m.e - 1) * 2 ^ m.f

/-- The bits of a zero. -/
def Fmt.zero (m : Fmt) (neg : Bool) : Nat := m.signBit neg

/-- A NaN in a format: sign kept, the leading fraction bits kept, quieted (R192). -/
def Fmt.nanBits (m : Fmt) (neg : Bool) (frac : Nat) : Nat :=
  if m.ofp then m.signBit neg + 2 ^ (m.e + m.f) - 1
  else m.signBit neg + (2 ^ m.e - 1) * 2 ^ m.f + (frac / 2 ^ (52 - m.f) ||| 2 ^ (m.f - 1))

/-- The canonical quiet NaN (R191). -/
def Fmt.canonical (m : Fmt) : Nat := m.nanBits false (2 ^ 51)

/-- An invalid result: the canonical quiet NaN with IV (R192, R195). -/
def Fmt.invalid (m : Fmt) : Nat × FSet := (m.canonical, { iv := true })

/-! ### Rounding (R193, R194) -/

/-- A magnitude mant × 2^exp, plus something below its last bit when sticky, rounded to a multiple of 2^q: the multiple and
whether it is inexact. -/
def roundTo (r : Rnd) (neg : Bool) (mant : Nat) (exp : Int) (sticky : Bool) (q : Int) : Nat × Bool :=
  if q ≤ exp then (mant * 2 ^ (exp - q).toNat, sticky)
  else
    let k := (q - exp).toNat
    let n := mant / 2 ^ k
    let low := mant % 2 ^ k
    let half := 2 ^ (k - 1)
    let inexact := low != 0 || sticky
    let up := match r with
      | .rne => decide (half < low) || (low == half && (sticky || n % 2 == 1))
      | .rtz => false
      | .rdn => neg && inexact
      | .rup => !neg && inexact
    (if up then n + 1 else n, inexact)

/-- What a result beyond the largest finite value becomes (R193, R196). -/
def Fmt.overflow (m : Fmt) (c : FCtx) (neg : Bool) : Nat :=
  let big := m.signBit neg + m.maxMag
  if m.ofp || c.sat then big
  else match c.rnd with
    | .rne => m.infBits neg
    | .rtz => big
    | .rdn => if neg then m.infBits neg else big
    | .rup => if neg then big else m.infBits neg

/-- An exact non-zero magnitude rounded once to a format, with its flags. -/
def Fmt.round (m : Fmt) (c : FCtx) (neg : Bool) (mant : Nat) (exp : Int) (sticky : Bool) : Nat × FSet :=
  let e : Int := Nat.log2 mant + exp
  let emin : Int := 1 - m.bias
  let q := max e emin - m.f
  let (n, inexact) := roundTo c.rnd neg mant exp sticky q
  -- tininess after rounding: as though the exponent had no least value
  let (n', _) := roundTo c.rnd neg mant exp sticky (e - m.f)
  let tiny := decide (e < emin) && !(decide (e = emin - 1) && decide (n' = 2 ^ (m.f + 1)))
  if e < emin then
    if c.flush && decide (n < 2 ^ m.f) && (n != 0 || inexact) then (m.zero neg, { uf := true, nx := true })
    else (m.signBit neg + n, { uf := tiny && inexact, nx := inexact })
  else
    let n1 := if n = 2 ^ (m.f + 1) then 2 ^ m.f else n
    let e1 := if n = 2 ^ (m.f + 1) then e + 1 else e
    let mag := (e1 + m.bias).toNat * 2 ^ m.f + (n1 - 2 ^ m.f)
    if m.maxMag < mag then (m.overflow c neg, { of := true, nx := true })
    else (m.signBit neg + mag, { nx := inexact })

/-- An exact value, an integer multiple of 2^exp, rounded; `zneg` is the sign of an exact zero. -/
def Fmt.roundInt (m : Fmt) (c : FCtx) (v : Int) (exp : Int) (zneg : Bool) : Nat × FSet :=
  if v = 0 then (m.zero zneg, {}) else m.round c (decide (v < 0)) v.natAbs exp false

/-! ### Exact sums (R193, R207) -/

/-- The sign of a value. -/
def FVal.neg : FVal → Bool
  | .nan s _ _ => s
  | .inf s => s
  | .fin s _ _ => s

/-- A NaN. -/
def FVal.isNan : FVal → Bool
  | .nan _ _ _ => true
  | _ => false

/-- A signalling NaN. -/
def FVal.isSig : FVal → Bool
  | .nan _ _ s => s
  | _ => false

/-- A zero. -/
def FVal.isZero : FVal → Bool
  | .fin _ 0 _ => true
  | _ => false

/-- An infinity. -/
def FVal.isInf : FVal → Bool
  | .inf _ => true
  | _ => false

/-- A value with its sign inverted; a NaN stays. -/
def FVal.negate : FVal → FVal
  | .nan s f g => .nan s f g
  | .inf s => .inf (!s)
  | .fin s m e => .fin (!s) m e

/-- An exact product; none when it is 0 × ∞. -/
def FVal.mul : FVal → FVal → Option FVal
  | .fin s m e, .fin s' m' e' => some (.fin (s != s') (m * m') (e + e'))
  | .inf s, .inf s' => some (.inf (s != s'))
  | .inf s, .fin s' m _ => if m = 0 then none else some (.inf (s != s'))
  | .fin s m _, .inf s' => if m = 0 then none else some (.inf (s != s'))
  | .nan s f g, _ => some (.nan s f g)
  | _, .nan s f g => some (.nan s f g)

/-- The first NaN of a list of operands, in order, quieted in a format; IV when any signals (R192). -/
def Fmt.nanOf (m : Fmt) (ops : List FVal) : Option (Nat × FSet) :=
  match ops.find? FVal.isNan with
  | some (.nan s f _) => some (m.nanBits s f, { iv := ops.any FVal.isSig })
  | _ => none

/-- The least exponent of finite terms. -/
def leastExp (ts : List FVal) : Int :=
  (ts.filterMap fun t => match t with
    | .fin _ m e => if m = 0 then none else some e
    | _ => none).foldl (fun a e => match a with
      | none => some e
      | some x => some (min x e)) none |>.getD 0

/-- A finite term as a multiple of 2^q. -/
def termInt (q : Int) : FVal → Int
  | .fin s m e => (if s then -1 else 1) * ((m * 2 ^ (e - q).toNat : Nat) : Int)
  | _ => 0

/-- The sum of terms without a NaN, exact, rounded once: opposite infinities are invalid; an exact zero is +0, or −0 under
RDN, unless every term is a zero of one sign. -/
def Fmt.sum (m : Fmt) (c : FCtx) (ts : List FVal) : Nat × FSet :=
  let infs := ts.filter FVal.isInf
  match infs with
  | i :: r => if r.all fun x => x.neg == i.neg then (m.infBits i.neg, {}) else m.invalid
  | [] =>
    let q := leastExp ts
    let v := (ts.map (termInt q)).sum
    let same := ts.all (fun t => t.isZero && t.neg) || ts.all (fun t => t.isZero && !t.neg)
    let zneg := if same then (match ts with | t :: _ => t.neg | [] => false) else c.rnd == .rdn
    m.roundInt c v q zneg

/-- a × b + c with the signs of product and addend given (R219): NaNs in the order a, b, c. -/
def Fmt.fma (m : Fmt) (c : FCtx) (negP negC : Bool) (x y z : Nat) : Nat × FSet :=
  let a := m.operand c x
  let b := m.operand c y
  let d := m.operand c z
  match m.nanOf [a, b, d] with
  | some r => r
  | none =>
    match a.mul b with
    | none => m.invalid
    | some p => m.sum c [if negP then p.negate else p, if negC then d.negate else d]

/-- a + b, or a − b (R219). -/
def Fmt.add (m : Fmt) (c : FCtx) (minus : Bool) (x y : Nat) : Nat × FSet :=
  let a := m.operand c x
  let b := m.operand c y
  match m.nanOf [a, b] with
  | some r => r
  | none => m.sum c [a, if minus then b.negate else b]

/-- a × b (R219). -/
def Fmt.mul (m : Fmt) (c : FCtx) (x y : Nat) : Nat × FSet :=
  let a := m.operand c x
  let b := m.operand c y
  match m.nanOf [a, b] with
  | some r => r
  | none =>
    match a.mul b with
    | none => m.invalid
    | some (.fin s k e) => m.roundInt c ((if s then -1 else 1) * (k : Int)) e s
    | some p => m.sum c [p]

/-- Exact order of two values, none of them a NaN; −0 is below +0. -/
def FVal.less : FVal → FVal → Bool
  | .inf s, .inf s' => s && !s'
  | .inf s, _ => s
  | _, .inf s' => !s'
  | a, b =>
    let q := leastExp [a, b]
    let x := termInt q a
    let y := termInt q b
    decide (x < y) || (decide (x = y) && decide (x = 0) && a.neg && !b.neg)

/-- Numeric equality: zeros are equal. -/
def FVal.same (a b : FVal) : Bool := (!a.less b && !b.less a) || (a.isZero && b.isZero)

/-- An operand's own bits, a flushed one as zero of its sign (R194). -/
def Fmt.kept (m : Fmt) (c : FCtx) (x : Nat) : Nat := if c.flush && m.isSub x then m.zero (x.testBit (m.e + m.f)) else x

/-- VMIN (false) and VMAX (true) (R219). -/
def Fmt.minmax (m : Fmt) (c : FCtx) (big : Bool) (x y : Nat) : Nat × FSet :=
  let a := m.operand c x
  let b := m.operand c y
  match m.nanOf [a, b] with
  | some r => r
  | none => if (a.less b) = big then (m.kept c y, {}) else (m.kept c x, {})

/-- VDOT2 and VDOT4 in one lane (R207): elements of one format each, c in FP32. -/
def dot (c : FCtx) (fa fb : Fmt) (xs ys : List Nat) (z : Nat) : Nat × FSet :=
  let as := xs.map (fa.operand c)
  let bs := ys.map (fb.operand c)
  let d := fp32.operand c z
  match fp32.nanOf (as ++ bs ++ [d]) with
  | some r => r
  | none =>
    let ps := (as.zip bs).map fun p => p.1.mul p.2
    if ps.any Option.isNone then fp32.invalid else fp32.sum c (ps.filterMap id ++ [d])

/-- VCMP's relations (R222), with IV: a signalling NaN under every condition, any NaN under the orderings. -/
def Fmt.compare (m : Fmt) (c : FCtx) (k : VCond) (x y : Nat) : Bool × FSet :=
  let a := m.operand c x
  let b := m.operand c y
  if a.isNan || b.isNan then
    let ordering := k == .lt || k == .le || k == .gt || k == .ge
    (k == .ne || k == .un, { iv := ordering || a.isSig || b.isSig })
  else
    let lt := a.less b && !(a.isZero && b.isZero)
    let gt := b.less a && !(a.isZero && b.isZero)
    (match k with
      | .eq => !lt && !gt
      | .ne => lt || gt
      | .lt => lt
      | .le => !gt
      | .gt => gt
      | .ge => !lt
      | .un => false
      | .ord => true, {})

/-- VCLASS's bit (R224). -/
def Fmt.classBit (m : Fmt) (x : Nat) : Nat :=
  match m.decode x with
  | .nan _ _ s => if s then 8 else 9
  | .inf s => if s then 0 else 7
  | .fin s 0 _ => if s then 3 else 4
  | .fin s _ _ => if m.isSub x then (if s then 2 else 5) else (if s then 1 else 6)

/-! ### Conversions (R196) -/

/-- A floating value converted to another format. -/
def Fmt.convert (src dst : Fmt) (c : FCtx) (x : Nat) : Nat × FSet :=
  match src.operand c x with
  | .nan s f g => (dst.nanBits s f, { iv := g })
  | .inf s => if dst.ofp then (dst.signBit s + dst.maxMag, { of := true, nx := true }) else (dst.infBits s, {})
  | .fin s k e => dst.roundInt c ((if s then -1 else 1) * (k : Int)) e s

/-- An integer converted to a floating format. -/
def Fmt.ofInt (m : Fmt) (c : FCtx) (v : Int) : Nat × FSet := m.roundInt c v 0 false

/-- A finite value rounded to an integer, and whether it is inexact. -/
def roundInteger (r : Rnd) (neg : Bool) (mant : Nat) (exp : Int) : Int × Bool :=
  let (n, x) := roundTo r neg mant exp false 0
  (if neg then -(n : Int) else n, x)

/-- A floating value converted to an integer of [lo, hi]. -/
def Fmt.toInt (m : Fmt) (c : FCtx) (lo hi : Int) (x : Nat) : Int × FSet :=
  match m.operand c x with
  | .nan _ _ _ => (0, { iv := true })
  | .inf s => (if s then lo else hi, { iv := true })
  | .fin s k e =>
    let (v, inexact) := roundInteger c.rnd s k e
    if v < lo then (lo, { iv := true }) else if hi < v then (hi, { iv := true }) else (v, { nx := inexact })

/-- A floating value rounded to an integral one of its own format (R232's .rint). -/
def Fmt.rint (m : Fmt) (c : FCtx) (x : Nat) : Nat × FSet :=
  match m.operand c x with
  | .nan s f g => (m.nanBits s f, { iv := g })
  | .inf s => (m.infBits s, {})
  | .fin s k e =>
    let (v, inexact) := roundInteger c.rnd s k e
    if v = 0 then (m.zero s, { nx := inexact }) else ((m.roundInt c v 0 s).1, { nx := inexact })

/-- An integer clamped to the signed range of w bits under SAT, else reduced to its low bits (R196, R197). -/
def narrowInt (sat : Bool) (w : Nat) (v : Int) : Nat :=
  let lo : Int := -(2 ^ (w - 1))
  let hi : Int := 2 ^ (w - 1) - 1
  let u := if sat then max lo (min hi v) else v
  (u % (2 ^ w : Int)).toNat

end Sys2Proof.Machine
end

