-- ==== Sys2Proof/Machine/Lanes.lean ====
section
/-! DEFINITION. Vector operands: sixteen 32-bit lanes in eight slots of the vector view (08 R156, R157), of member 0 and of
the followers of a gang (04 R76). -/

namespace Sys2Proof.Machine

/-- Lane i of the vector register at slot s. A slot tagged unwritten reads zero (R19). -/
def Image.lane (g : Image) (s i : Nat) : BitVec 32 :=
  let v := (g.cell (slotKey (s + i / 2))).read
  if i % 2 = 0 then v.setWidth 32 else (v >>> 32).setWidth 32

/-- Two lanes as a slot's value. -/
def lanePair (lo hi : BitVec 32) : Word := hi ++ lo

/-- The register keys of a vector's slots that have an enabled lane. -/
def enabledKeys (s : Nat) (en : Mask) : List Nat :=
  (List.range 8).filterMap fun i => if en.getLsbD (2 * i) || en.getLsbD (2 * i + 1) then some (slotKey (s + i)) else none

/-- The register keys of slots with one lane enabled and the other not. -/
def mixedKeys (s : Nat) (en : Mask) : List Nat :=
  (List.range 8).filterMap fun i => if en.getLsbD (2 * i) != en.getLsbD (2 * i + 1) then some (slotKey (s + i)) else none

/-- One slot of a lane write. -/
def Image.setSlot (g : Image) (s : Nat) (en : Mask) (f : Nat → BitVec 32) (tag : Tag) (i : Nat) : Image :=
  if en.getLsbD (2 * i) || en.getLsbD (2 * i + 1) then
    let lo := if en.getLsbD (2 * i) then f (2 * i) else g.lane s (2 * i)
    let hi := if en.getLsbD (2 * i + 1) then f (2 * i + 1) else g.lane s (2 * i + 1)
    { g with regs := Tab.put RCell.fresh g.regs (slotKey (s + i)) ⟨lanePair lo hi, tag, none⟩ }
  else g

/-- The enabled lanes written, and the slots that hold one tagged (R160). -/
def Image.setLanes (g : Image) (s : Nat) (en : Mask) (f : Nat → BitVec 32) (tag : Tag) : Image :=
  (List.range 8).foldl (fun a i => a.setSlot s en f tag i) g

/-- The image of member j of the task's gang. -/
def Task.member (t : Task) (j : Nat) : Image := if j = 0 then t.img else t.fol.getD (j - 1) {}

/-- How many members the task's gang has; 1 outside a gang. -/
def Task.gangSize (t : Task) : Nat := t.fol.length + 1

/-- The image of member j replaced. -/
def Task.setMember (t : Task) (j : Nat) (g : Image) : Task :=
  if j = 0 then { t with img := g } else { t with fol := t.fol.set (j - 1) g }

/-- A lane write in member j; in an open region it shadows the lines it writes, and a mark in a slot it writes in part is
concretized first (R371, R372). DEDUCED, log entry 24. -/
def Task.putLanes (t : Task) (j s : Nat) (en : Mask) (f : Nat → BitVec 32) (tag : Tag) : Task :=
  let t1 := if j = 0 then t.conc (mixedKeys s en) else t
  let t2 := t1.setMember j ((t1.member j).setLanes s en f tag)
  { t2 with region := t2.region.map fun r => (enabledKeys s en).foldl Region.shadowed r }

/-- The failing slots of vector operands (R157, R469). -/
def Task.badVecs (t : Task) (vs : List (Fin 256)) : List Nat :=
  vs.filterMap fun v => t.ctl.viewV.bad 8 1 v.val

/-- Every vector operand lies in the vector view and every scalar one below ALLOC, or the trap of R469. -/
def Task.vbounds (t : Task) (vs : List (Fin 256)) (os : List Opnd) : Except Stop Unit :=
  boundsOf (t.badVecs vs ++ t.badScalars os)

/-- The eight tags of a vector operand of member j. -/
def Image.vecTags (g : Image) (s : Nat) : List Tag := (List.range 8).map fun i => (g.cell (slotKey (s + i))).tag

/-- A vector operand's tags pass in member j, or FMT_MISMATCH (R160); a follower's trap names it (R77). -/
def Task.vecTag (t : Task) (m : Option XMod) (want : List Tag) (j s : Nat) : Except Stop Unit :=
  if t.conv m || ((t.member j).vecTags s).all fun g => g == .unwritten || want.contains g then .ok ()
  else .error (.trap fmtMismatch t.pc j)

end Sys2Proof.Machine
end

