-- ==== Sys2Proof/Machine/Flags.lean ====
section
/-! DEFINITION. Flags: how an instruction sets them in fl (08 R161, 11 R195), how fl is read and cleared (12 R236, R237),
and the FP events they raise (11 R208 to R211). -/

namespace Sys2Proof.Machine

/-- One flag of fl. -/
def Flags.get (l : Flags) : Flag → Mask
  | .iv => l.iv
  | .dz => l.dz
  | .of => l.of
  | .uf => l.uf
  | .nx => l.nx

/-- Flags of two sources. -/
def Flags.or (a b : Flags) : Flags := ⟨a.iv ||| b.iv, a.dz ||| b.dz, a.of ||| b.of, a.uf ||| b.uf, a.nx ||| b.nx⟩

/-- The OR of the five flags of every lane. -/
def Flags.any (l : Flags) : Mask := l.iv ||| l.dz ||| l.of ||| l.uf ||| l.nx

/-- Bit i of a mask. -/
def laneBit (i : Nat) (b : Bool) : Mask := if b then BitVec.ofNat 16 (2 ^ i) else 0

/-- One element's flags in lane i. -/
def FSet.inLane (f : FSet) (i : Nat) : Flags :=
  ⟨laneBit i f.iv, laneBit i f.dz, laneBit i f.of, laneBit i f.uf, laneBit i f.nx⟩

/-- The flags of a list of elements, each in its lane. -/
def flagsOf (fs : List (Nat × FSet)) : Flags := fs.foldl (fun a p => a.or (p.2.inLane p.1)) {}

/-- A mask of chosen lanes cleared in one flag, or in all. -/
def Flags.clear (l : Flags) (f : Option Flag) (en : Mask) : Flags :=
  let keep := fun (g : Flag) (v : Mask) => if f = none ∨ f = some g then v &&& ~~~en else v
  ⟨keep .iv l.iv, keep .dz l.dz, keep .of l.of, keep .uf l.uf, keep .nx l.nx⟩

/-- The flags enabled in FLG_EN, of those raised, in its bit order (R208). -/
def enabledFlags (en : BitVec 9) (l : Flags) : Nat :=
  let b := fun (n : Nat) (v : Mask) => if en.getLsbD n && v != 0 then 2 ^ n else 0
  b 0 l.nx + b 1 l.uf + b 2 l.of + b 3 l.dz + b 4 l.iv

/-- The lanes that raised an enabled flag. DEDUCED, log entry 26. -/
def eventLanes (en : BitVec 9) (l : Flags) : Mask :=
  let b := fun (n : Nat) (v : Mask) => if en.getLsbD n then v else 0
  b 0 l.nx ||| b 1 l.uf ||| b 2 l.of ||| b 3 l.dz ||| b 4 l.iv

/-- What an FP event says: the enabled flags and the lanes (R209). DEDUCED, log entry 26. -/
def eventWord (en : BitVec 9) (l : Flags) : Nat := enabledFlags en l + (eventLanes en l).toNat * 65536

/-- fl of member j with flags added. -/
def Task.addFlags (t : Task) (j : Nat) (l : Flags) : Task :=
  let g := t.member j
  t.setMember j { g with fl := g.fl.or l }

/-- Flags raised in members 0, 1, …: fl set, and the FP event of the first member that raises an enabled one (R208 to R211).
`now` is CYCLE. DEDUCED, log entries 19 and 26. -/
def Task.settleFlags (t : Task) (raised : List Flags) (now : Nat) : Except Stop Task :=
  let t1 := (raised.zipIdx).foldl (fun a p => a.addFlags p.2 p.1) t
  let en := t.ctl.flgEn
  match (raised.zipIdx).find? fun p => enabledFlags en p.1 != 0 with
  | none => .ok t1
  | some (l, j) =>
    if !en.getLsbD 8 then .error (.trap fpEvent (BitVec.ofNat 64 (eventWord en l)) j)
    else if t.region.isSome then .error (.abort abFault)
    else
      let msg : Sending := { op := sendEvent, handle := BitVec.ofNat 64 (t.ctl.fpSup.toNat), words :=
        [BitVec.ofNat 64 t.gid, t.pc, BitVec.ofNat 64 (eventWord en l + j * 2 ^ 32), BitVec.ofNat 64 now] }
      .ok { t1 with phase := .sending msg }

end Sys2Proof.Machine
end

