-- ==== Sys2Proof/Machine/SpecialFn.lean ====
section
/-! DEFINITION. The SFU's functions (12 R241, R242): special operands, the correctly rounded square root, and, for every
other function, a free result held to the spec's bound around the exact value. The exact values are computed in fixed point
with enough bits that the bound is decided (log entry 33). -/

namespace Sys2Proof.Machine

/-! ### Fixed point: an Int v stands for v / 2^fxBits -/

/-- Fraction bits of the fixed-point evaluations. -/
def fxBits : Nat := 512

/-- One. -/
def fxOne : Int := 2 ^ fxBits

/-- The largest value below one: what an exact result stands for that lies closer to one than the evaluation resolves, so that
its last place is the one below one (R241). -/
def fxBelow : Int := fxOne - 1

/-- Product. -/
def fxMul (a b : Int) : Int := a * b / 2 ^ fxBits

/-- Quotient. -/
def fxDiv (a b : Int) : Int := a * 2 ^ fxBits / b

/-- Σ of a power series: the n-th term is obtained from the one before by `next`. -/
def fxSeries (next : Nat → Int → Int) (term : Nat → Int → Int) (k : Nat) (t acc : Int) : Nat → Int
  | 0 => acc
  | fuel + 1 => fxSeries next term (k + 1) (next k t) (acc + term k t) fuel

/-- e^y for |y| ≤ 1. -/
def fxExp (y : Int) : Int := fxSeries (fun k t => fxMul t y / (k + 1)) (fun _ t => t) 0 fxOne 0 120

/-- atanh z for |z| ≤ 1/3: Σ z^(2k+1) / (2k+1). -/
def fxAtanh (z : Int) : Int :=
  let z2 := fxMul z z
  fxSeries (fun _ t => fxMul t z2) (fun k t => t / (2 * k + 1)) 0 z 0 170

/-- ln 2. -/
def fxLn2 : Int := 2 * fxAtanh (fxOne / 3)

/-- atan (1/n): Σ (−1)^k / ((2k+1) n^(2k+1)). -/
def fxAtanInv (n : Int) : Int :=
  fxSeries (fun _ t => -t / (n * n)) (fun k t => t / (2 * k + 1)) 0 (fxOne / n) 0 120

/-- π, by Machin's formula. -/
def fxPi : Int := 16 * fxAtanInv 5 - 4 * fxAtanInv 239

/-- cos y for |y| ≤ π. -/
def fxCos (y : Int) : Int :=
  let y2 := fxMul y y
  fxSeries (fun k t => -fxMul t y2 / ((2 * k + 1) * (2 * k + 2))) (fun _ t => t) 0 fxOne 0 80

/-- sin y for |y| ≤ π. -/
def fxSin (y : Int) : Int :=
  let y2 := fxMul y y
  fxSeries (fun k t => -fxMul t y2 / ((2 * k + 2) * (2 * k + 3))) (fun _ t => t) 0 y 0 80

/-- A value mant × 2^exp in fixed point. -/
def fxOf (neg : Bool) (mant : Nat) (exp : Int) : Int :=
  let k := exp + fxBits
  let v : Int := if 0 ≤ k then (mant * 2 ^ k.toNat : Nat) else (mant / 2 ^ (-k).toNat : Nat)
  if neg then -v else v

/-- e^y: y is split at a multiple of ln 2. -/
def fxExpAll (y : Int) : Int :=
  let n := y / fxLn2
  let r := fxExp (y - n * fxLn2)
  if 0 ≤ n then r * 2 ^ n.toNat else r / 2 ^ (-n).toNat

/-- The integral Σ (−1)^k y^(2k+1) / (k! (2k+1)) of e^(−t²) from 0 to y, for |y| ≤ 11. -/
def fxErfInt (y : Int) : Int :=
  let y2 := fxMul y y
  fxSeries (fun k t => -fxMul t y2 / (k + 1)) (fun k t => t / (2 * k + 1)) 0 y 0 600

/-- √v by bits, from bit k down. -/
def isqrtFrom (v : Nat) (acc : Nat) : Nat → Nat
  | 0 => acc
  | k + 1 => if (acc + 2 ^ k) * (acc + 2 ^ k) ≤ v then isqrtFrom v (acc + 2 ^ k) k else isqrtFrom v acc k

/-- The integer square root of a number below 2^(2k). -/
def isqrt (v k : Nat) : Nat := isqrtFrom v 0 k

/-- √v in fixed point, for 0 ≤ v < 2^200. -/
def fxSqrt (v : Int) : Int := isqrt (v.toNat * 2 ^ fxBits) (fxBits + 100)

/-- erf y. -/
def fxErf (y : Int) : Int :=
  if 9 * fxOne < y then fxBelow else if y < -(9 * fxOne) then -fxBelow
  else fxDiv (2 * fxErfInt y) (fxSqrt (fxPi))

/-- The exact value of a function at a finite operand, in fixed point; for sqrt, rcp and rsqrt it is not used.
DESIGN CHOICE, log entry 33. -/
def fxValue (f : Sfu) (neg : Bool) (mant : Nat) (exp : Int) : Int :=
  let x := fxOf neg mant exp
  match f with
  | .exp2 => fxExpAll (fxMul x fxLn2)
  | .log2 =>
    let e : Int := Nat.log2 mant
    let m := fxOf false mant (-e)
    fxDiv (2 * fxAtanh (fxDiv (m - fxOne) (m + fxOne))) fxLn2 + (e + exp) * fxOne
  | .sin => fxSin (x % (2 * fxPi) - (if fxPi < x % (2 * fxPi) then 2 * fxPi else 0))
  | .cos => fxCos (x % (2 * fxPi) - (if fxPi < x % (2 * fxPi) then 2 * fxPi else 0))
  | .tanh =>
    if 100 * fxOne < x then fxBelow else if x < -(100 * fxOne) then -fxBelow
    else
      let u := fxExpAll (2 * x)
      fxDiv (u - fxOne) (u + fxOne)
  | .sigm =>
    if 200 * fxOne < x then fxBelow else if x < -(200 * fxOne) then 0
    else
      let u := fxExpAll x
      fxDiv u (fxOne + u)
  | .gelu =>
    if 12 * fxOne < x then x - 1 else if x < -(15 * fxOne) then 0
    else
      let y := fxDiv x (fxSqrt (2 * fxOne))
      fxMul x (fxOne + fxDiv (2 * fxErfInt y) (fxSqrt fxPi)) / 2
  | .erf => fxErf x
  | _ => 0

/-! ### Bounds (R241) -/

/-- The bound of a function, in units of the last place. -/
def ulps : Sfu → Nat
  | .sqrt => 0
  | .rcp => 1
  | .rsqrt => 1
  | .exp2 => 2
  | .log2 => 2
  | _ => 4

/-- The unit of the last place of an exact fixed-point magnitude. -/
def fxUlp (v : Nat) : Int :=
  let e : Int := (Nat.log2 v : Int) - fxBits
  2 ^ (max e (-126) - 23 + fxBits).toNat

/-- Finite FP32 bits as fixed point. -/
def fxBitsOf (b : Nat) : Option Int :=
  match fp32.decode b with
  | .fin s k e => some (fxOf s k e)
  | _ => none

/-- A result lies within the bound around an exact value v. DESIGN CHOICE, log entry 33. -/
def sfuWithin (f : Sfu) (big : Bool) (v : Int) (b : Nat) : Bool :=
  match fxBitsOf b with
  | none => false
  | some r =>
    if big then decide ((r - v).natAbs ≤ (fxOne / 1024).natAbs) && decide (r.natAbs ≤ fxOne.natAbs)
    else decide ((r - v).natAbs ≤ ulps f * (fxUlp v.natAbs).natAbs)

/-- The flags of a result held to a bound: NX always (R242), UF when it is tiny. -/
def tinyFlags (b : Nat) : FSet := { uf := decide (b % 2 ^ 31 < 2 ^ 23), nx := true }

/-- A subnormal or zero result under FLUSH (R194). -/
def flushed (c : FCtx) (b : Nat) : Nat :=
  if c.flush && decide (b % 2 ^ 31 < 2 ^ 23) then fp32.zero (b.testBit 31) else b

/-- The free choice within the bound (R241): the implementation's bits where they lie within it, else the correctly rounded
value; an exact value beyond the largest finite one overflows under R193. DESIGN CHOICE, log entries 7 and 33. -/
def sfuChoice (c : FCtx) (f : Sfu) (big : Bool) (x : BitVec 32) (v : Int) : Nat × FSet :=
  let near := fp32.roundInt {} v (-(fxBits : Int)) (f == .gelu)
  if near.2.of then near
  else
    let r := (Config.sfu f c.flush x).toNat
    let b := if sfuWithin f big v r then r else near.1
    (flushed c b, tinyFlags b)

/-! ### The functions -/

/-- √ of a positive value, correctly rounded: bits enough below the last place, and a sticky rest.
DESIGN CHOICE, log entry 33. -/
def sqrtRound (c : FCtx) (mant : Nat) (exp : Int) : Nat × FSet :=
  let odd := exp % 2
  let m := mant * 2 ^ (64 + odd.toNat)
  let e := (exp - odd - 64) / 2
  let s := isqrt m 50
  fp32.round { c with sat := false } false s e (s * s != m)

/-- A power of two times a sign. -/
def pow2Of (mant : Nat) : Bool := decide (mant = 2 ^ Nat.log2 mant)

/-- An exact power of two as a result: no NX unless flushed (R242). -/
def exactPow (c : FCtx) (neg : Bool) (e : Int) : Nat × FSet := fp32.round { flush := c.flush } neg 1 e false

/-- An answer of 1/x or 1/√x held to one unit of the exact magnitude v (R241). -/
def sfuRatio (c : FCtx) (f : Sfu) (x : BitVec 32) (neg : Bool) (v : Int) : Nat × FSet :=
  let near := fp32.roundInt {} (if neg then -v else v) (-(fxBits : Int)) neg
  if near.2.of then near
  else
    let r := (Config.sfu f c.flush x).toNat
    let b := if sfuWithin f false (if neg then -v else v) r then r else near.1
    (flushed c b, tinyFlags b)

/-- A magnitude beyond 65,536 (R241). -/
def beyond (mant : Nat) (exp : Int) : Bool :=
  decide (17 ≤ (Nat.log2 mant : Int) + exp) || (decide ((Nat.log2 mant : Int) + exp = 16) && !pow2Of mant)

/-- A function's result and flags at FP32 bits (R240 to R242). DESIGN CHOICE, log entry 33. -/
def sfuValue (c : FCtx) (f : Sfu) (x : BitVec 32) : Nat × FSet :=
  match fp32.operand c x.toNat with
  | .nan s k g => (fp32.nanBits s k, { iv := g })
  | .inf s =>
    match f with
    | .sqrt => if s then fp32.invalid else (fp32.infBits false, {})
    | .rcp => (fp32.zero s, {})
    | .rsqrt => if s then fp32.invalid else (fp32.zero false, {})
    | .exp2 => if s then (fp32.zero false, {}) else (fp32.infBits false, {})
    | .log2 => if s then fp32.invalid else (fp32.infBits false, {})
    | .sin => fp32.invalid
    | .cos => fp32.invalid
    | .tanh => (fp32.signBit s + 0x3F800000, {})
    | .erf => (fp32.signBit s + 0x3F800000, {})
    | .sigm => if s then (fp32.zero false, {}) else (0x3F800000, {})
    | .gelu => if s then (fp32.zero true, {}) else (fp32.infBits false, {})
  | .fin s k e =>
    if k = 0 then
      match f with
      | .sqrt => (fp32.zero s, {})
      | .rcp => (fp32.infBits s, { dz := true })
      | .rsqrt => (fp32.infBits s, { dz := true })
      | .exp2 => (0x3F800000, {})
      | .log2 => (fp32.infBits true, { dz := true })
      | .sin => (fp32.zero s, {})
      | .tanh => (fp32.zero s, {})
      | .erf => (fp32.zero s, {})
      | .gelu => (fp32.zero s, {})
      | _ => sfuChoice c f false x (fxValue f s k e)
    else
      match f with
      | .sqrt => if s then fp32.invalid else sqrtRound c k e
      | .rcp =>
        if pow2Of k then exactPow c s (-(Nat.log2 k : Int) - e)
        else sfuRatio c f x s (fxDiv fxOne (fxOf false k e))
      | .rsqrt =>
        let l : Int := Nat.log2 k + e
        if s then fp32.invalid
        else if pow2Of k ∧ l % 2 = 0 then exactPow c false (-(l / 2))
        else sfuRatio c f x false (fxSqrt (fxDiv fxOne (fxOf false k e)))
      | .exp2 =>
        let (n, inexact) := roundInteger .rtz s k e
        if !inexact && decide (-126 ≤ n) && decide (n ≤ 127) then (fp32.round {} false 1 n false)
        else if 8 ≤ (Nat.log2 k : Int) + e then
          if s then sfuChoice c f false x 0 else (fp32.overflow {} false, { of := true, nx := true })
        else sfuChoice c f false x (fxValue f s k e)
      | .log2 =>
        if s then fp32.invalid
        else if pow2Of k then
          fp32.ofInt {} ((Nat.log2 k : Int) + e)
        else sfuChoice c f false x (fxValue f s k e)
      | .sin => sfuChoice c f (beyond k e) x (fxValue f s k e)
      | .cos => sfuChoice c f (beyond k e) x (fxValue f s k e)
      | .tanh => sfuChoice c f false x (fxValue f s k e)
      | .sigm => sfuChoice c f false x (fxValue f s k e)
      | .gelu => sfuChoice c f false x (fxValue f s k e)
      | .erf => sfuChoice c f false x (fxValue f s k e)

end Sys2Proof.Machine
end

