-- ==== Sys2Proof/Machine/VecOps.lean ====
section
/-! DEFINITION. The effects of pages 1 to 3 (12): floating and integer elements, lane movement, reductions, conversions,
flags and votes, over every member of a gang (R217). -/

namespace Sys2Proof.Machine

/-! ### Sources (R212, R215) -/

/-- A source as an instruction sees it in one member: its lanes, its 64-bit elements, and the tags of its slots. -/
structure VSrc where
  lane : Nat → BitVec 32
  el64 : Nat → Word
  tags : List Tag

/-- A vector register of an image. -/
def Image.vec (g : Image) (s : Nat) : VSrc :=
  ⟨g.lane s, fun e => (g.cell (slotKey (s + e))).read, g.vecTags s⟩

/-- A scalar broadcast to every lane (R212). -/
def Task.scalarSrc (t : Task) (o : Opnd) : VSrc :=
  ⟨fun _ => (t.val o).setWidth 32, fun _ => t.val o, [t.tag o]⟩

/-- Field b of the arithmetic forms in member j: a vector when XREG gives it, else a scalar of the leader (R212). -/
def Task.srcB (t : Task) (j : Nat) (b : Opnd) : VSrc :=
  match b with
  | .code n => t.scalarSrc (.code n)
  | .slot s => (t.member j).vec s.val

/-- The vector operand field b names, if it is one. -/
def vecOf : Opnd → List (Fin 256)
  | .code _ => []
  | .slot s => [s]

/-- The scalar operand field b names, if it is one. -/
def scalarOf : Opnd → List Opnd
  | .code n => [.code n]
  | .slot _ => []

/-- The register keys a region concretizes of field b. -/
def keysB : Opnd → List Nat
  | .code n => [(Opnd.code n).key]
  | .slot s => vecKeys s

/-- The first tag that is not unwritten (R215). -/
def firstTag (l : List Tag) : Tag := (l.find? (· != .unwritten)).getD .unwritten

/-- The register keys of the first n slots of a vector. -/
def firstKeys (n : Nat) (s : Fin 256) : List Nat := (List.range n).map fun i => slotKey (s.val + i)

/-- The register keys that a floating instruction reads of a, b and d: an FP64 vector's first four slots (R215). -/
def Task.fpKeys (t : Task) (a : Fin 256) (b : List Opnd) (d : List (Fin 256)) : List Nat :=
  let tags := fun (o : Opnd) => match o with
    | .code n => [t.tag (.code n)]
    | .slot s => t.img.vecTags s.val
  let all := t.img.vecTags a.val ++ b.flatMap tags ++ d.flatMap fun v => t.img.vecTags v.val
  let n := if firstTag all = .f64 then 4 else 8
  firstKeys n a ++ (b.flatMap fun o => match o with
    | .code c => [(Opnd.code c).key]
    | .slot s => firstKeys n s) ++ d.flatMap (firstKeys n)

/-- Tags pass in member j, or FMT_MISMATCH (R160, R77). -/
def Task.passTags (t : Task) (m : Option XMod) (want : List Tag) (j : Nat) (l : List Tag) : Except Stop Unit :=
  if t.conv m || l.all fun g => g == .unwritten || want.contains g then .ok () else .error (.trap fmtMismatch t.pc j)

/-- The rounding context of an instruction: XMOD's mode where it carries one, else FP_MODE's (R193).
DEDUCED, log entry 18. -/
def Task.fctx (t : Task) (m : Option XMod) : FCtx :=
  { rnd := match m with
      | some x => x.rnd
      | none => match t.ctl.fpMode.toNat % 4 with
        | 0 => .rne
        | 1 => .rtz
        | 2 => .rdn
        | _ => .rup
    flush := t.ctl.fpMode.getLsbD 2
    sat := match m with
      | some x => x.sat
      | none => false }

/-- The governing predicate of member j. -/
def Task.gov (t : Task) (g : Fin 8) (j : Nat) : Mask := (t.member j).pred g

/-- Both lanes of each FP64 element whose even lane is enabled, elements 0 to 3 (R214, R215). -/
def mask64 (en : Mask) : Mask :=
  (List.range 4).foldl (fun a e => if en.getLsbD (2 * e) then a ||| BitVec.ofNat 16 (3 * 4 ^ e) else a) 0

/-- Both lanes of each 64-bit slot whose even lane is enabled. -/
def maskSlots (en : Mask) : Mask :=
  (List.range 8).foldl (fun a e => if en.getLsbD (2 * e) then a ||| BitVec.ofNat 16 (3 * 4 ^ e) else a) 0

/-- Lanes of 64-bit elements. -/
def lanesOf64 (f : Nat → Word) (i : Nat) : BitVec 32 :=
  if i % 2 = 0 then (f (i / 2)).setWidth 32 else (f (i / 2) >>> 32).setWidth 32

/-- The lanes enabled in a mask, from lane i on, n of them. -/
def enabled (en : Mask) : List Nat := (List.range 16).filter fun i => en.getLsbD i

/-! ### Running an instruction in every member (R217) -/

/-- What an instruction does in one member: its new task and the flags it raises there. -/
abbrev MemberFn := Task → Nat → Except Stop (Task × Flags)

/-- Members j, j + 1, … in order: sources are read from the task as it stood (t0). -/
def runMembers (f : Task → MemberFn) (t0 t : Task) (j : Nat) : Nat → Except Stop (Task × List Flags)
  | 0 => .ok (t, [])
  | n + 1 => do
    let (t1, l) ← f t0 t j
    let (t2, ls) ← runMembers f t0 t1 (j + 1) n
    .ok (t2, l :: ls)

/-- An instruction run in every member, its flags set and its FP event raised. -/
def vecRun (now : Nat) (f : Task → MemberFn) (t : Task) : Except Stop Task := do
  let (t1, ls) ← runMembers f t t 0 t.gangSize
  t1.settleFlags ls now

/-- The same where no flag can be raised. -/
def vecMove (f : Task → Task → Nat → Except Stop Task) (t : Task) : Except Stop Task := do
  let (t1, _) ← runMembers (fun t0 a j => do
    let b ← f t0 a j
    .ok (b, {})) t t 0 t.gangSize
  .ok t1

/-! ### Floating arithmetic (R219) -/

/-- An operation on elements of a format: a, b and d's old element. -/
abbrev FOp := Fmt → FCtx → Nat → Nat → Nat → Nat × FSet

/-- The page-1 major 0xC forms in one member. -/
def fpMember (m : Option XMod) (g : Fin 8) (d a : Fin 256) (b : Opnd) (useD : Bool) (op : FOp) (t0 : Task) : MemberFn :=
  fun t j => do
    let A := (t0.member j).vec a.val
    let B := t0.srcB j b
    let D := (t0.member j).vec d.val
    let tags := A.tags ++ B.tags ++ (if useD then D.tags else [])
    let c := t0.fctx m
    let en := t0.gov g j
    if firstTag tags = .f64 then
      t0.passTags m [.f64] j (A.tags.take 4 ++ B.tags.take 4 ++ (if useD then D.tags.take 4 else []))
      let r := fun e => op fp64 c (A.el64 e).toNat (B.el64 e).toNat (D.el64 e).toNat
      let es := (List.range 4).filter fun e => en.getLsbD (2 * e)
      .ok (t.putLanes j d.val (mask64 en) (lanesOf64 fun e => BitVec.ofNat 64 (r e).1) .f64,
        flagsOf (es.map fun e => (2 * e, (r e).2)))
    else
      t0.passTags m [.f32] j tags
      let r := fun i => op fp32 c (A.lane i).toNat (B.lane i).toNat (D.lane i).toNat
      .ok (t.putLanes j d.val en (fun i => BitVec.ofNat 32 (r i).1) .f32,
        flagsOf ((enabled en).map fun i => (i, (r i).2)))

/-- The page-1 major 0xC forms (R219). -/
def fpT (m : Option XMod) (g : Fin 8) (d a : Fin 256) (b : Opnd) (useD : Bool) (op : FOp) (now : Nat) (t : Task) :
    Except Stop Task := do
  t.vbounds ([d, a] ++ vecOf b) (scalarOf b)
  vecRun now (fpMember m g d a b useD op) t

/-- The width of an element of a floating tag (R190). -/
def tagWidth : Tag → Nat
  | .f32 => 32
  | .f64 => 64
  | .bf16 => 16
  | .f16 => 16
  | .e4m3 => 8
  | .e5m2 => 8
  | _ => 32

/-- A lane with a bit operation on the sign bit of each of its elements of width w: the mask of sign bits. -/
def signMask : Nat → BitVec 32
  | 8 => 0x80808080
  | 16 => 0x80008000
  | _ => 0x80000000

/-- The tags VABS and VNEG expect (R220). -/
def signTags : List Tag := [.f32, .bf16, .f16, .e4m3, .e5m2, .f64]

/-- VABS and VNEG (R220): the format is that of a's first written slot. -/
def signT (m : Option XMod) (g : Fin 8) (d a : Fin 256) (f : BitVec 32 → BitVec 32 → BitVec 32) (t : Task) :
    Except Stop Task := do
  t.vbounds [d, a] []
  vecMove (fun t0 t j => do
    let A := (t0.member j).vec a.val
    let k := firstTag A.tags
    let tag := if signTags.contains k then k else .f32
    let en := t0.gov g j
    if tag = .f64 then
      t0.passTags m signTags j (A.tags.take 4)
      .ok (t.putLanes j d.val (mask64 en) (fun i => if i % 2 = 1 then f (A.lane i) 0x80000000 else A.lane i) .f64)
    else
      t0.passTags m signTags j A.tags
      .ok (t.putLanes j d.val en (fun i => f (A.lane i) (signMask (tagWidth tag))) tag)) t

/-- Elements of width w of a lane, lowest first. -/
def splitLane (w : Nat) (v : BitVec 32) : List Nat := (List.range (32 / w)).map fun k => v.toNat / 2 ^ (w * k) % 2 ^ w

/-- The format of an FP8 tag. -/
def fp8Of : Tag → Fmt
  | .e5m2 => e5m2
  | _ => e4m3

/-- VDOT2 (R207, R221). -/
def dot2T (m : Option XMod) (g : Fin 8) (d a : Fin 256) (b : Opnd) (now : Nat) (t : Task) : Except Stop Task := do
  t.vbounds ([d, a] ++ vecOf b) (scalarOf b)
  vecRun now (fun t0 t j => do
    let A := (t0.member j).vec a.val
    let B := t0.srcB j b
    let D := (t0.member j).vec d.val
    t0.passTags m [.bf16] j (A.tags ++ B.tags)
    t0.passTags m [.f32] j D.tags
    let c := t0.fctx m
    let en := t0.gov g j
    let r := fun i => dot c bf16 bf16 (splitLane 16 (A.lane i)) (splitLane 16 (B.lane i)) (D.lane i).toNat
    .ok (t.putLanes j d.val en (fun i => BitVec.ofNat 32 (r i).1) .f32,
      flagsOf ((enabled en).map fun i => (i, (r i).2)))) t

/-- VDOT4 (R207, R221): each source carries one FP8 tag. -/
def dot4T (m : Option XMod) (g : Fin 8) (d a : Fin 256) (b : Opnd) (now : Nat) (t : Task) : Except Stop Task := do
  t.vbounds ([d, a] ++ vecOf b) (scalarOf b)
  vecRun now (fun t0 t j => do
    let A := (t0.member j).vec a.val
    let B := t0.srcB j b
    let D := (t0.member j).vec d.val
    let ka := firstTag A.tags
    let kb := firstTag B.tags
    t0.passTags m (if ka = .e4m3 ∨ ka = .e5m2 then [ka] else [.e4m3, .e5m2]) j A.tags
    t0.passTags m (if kb = .e4m3 ∨ kb = .e5m2 then [kb] else [.e4m3, .e5m2]) j B.tags
    t0.passTags m [.f32] j D.tags
    let c := t0.fctx m
    let en := t0.gov g j
    let r := fun i => dot c (fp8Of ka) (fp8Of kb) (splitLane 8 (A.lane i)) (splitLane 8 (B.lane i)) (D.lane i).toNat
    .ok (t.putLanes j d.val en (fun i => BitVec.ofNat 32 (r i).1) .f32,
      flagsOf ((enabled en).map fun i => (i, (r i).2)))) t

/-- A mask from a list of lanes that hold. -/
def maskOf (f : Nat → Bool) : Mask := BitVec.ofNat 16 ((List.range 16).map fun i => if f i then 2 ^ i else 0).sum

/-- Predicate p of member j written. -/
def Task.putPred (t : Task) (j : Nat) (p : Fin 8) (v : Mask) : Task := t.setMember j ((t.member j).setPred p v)

/-- VCMP (R222). -/
def vcmpT (m : Option XMod) (g : Fin 8) (k : VCond) (p : Fin 8) (a b : Fin 256) (now : Nat) (t : Task) :
    Except Stop Task := do
  t.vbounds [a, b] []
  vecRun now (fun t0 t j => do
    let A := (t0.member j).vec a.val
    let B := (t0.member j).vec b.val
    let c := t0.fctx m
    let en := t0.gov g j
    if firstTag (A.tags ++ B.tags) = .f64 then
      t0.passTags m [.f64] j (A.tags.take 4 ++ B.tags.take 4)
      let r := fun e => fp64.compare c k (A.el64 e).toNat (B.el64 e).toNat
      let es := (List.range 4).filter fun e => en.getLsbD (2 * e)
      .ok (t.putPred j p (maskOf fun i => decide (i < 8) && en.getLsbD (2 * (i / 2)) && (r (i / 2)).1),
        flagsOf (es.map fun e => (2 * e, (r e).2)))
    else
      t0.passTags m [.f32] j (A.tags ++ B.tags)
      let r := fun i => fp32.compare c k (A.lane i).toNat (B.lane i).toNat
      .ok (t.putPred j p (maskOf fun i => en.getLsbD i && (r i).1),
        flagsOf ((enabled en).map fun i => (i, (r i).2)))) t

/-- Slots of d written lane by lane, each with a tag of its own (R223). -/
def Task.putSlots (t : Task) (j s : Nat) (en : Mask) (f : Nat → BitVec 32) (tag : Nat → Tag) : Task :=
  (List.range 8).foldl (fun a i => a.putLanes j s (en &&& BitVec.ofNat 16 (3 * 4 ^ i)) f (tag i)) t

/-- VSEL and VMOV (R223): no tag check; each slot takes the tag of the matching slot of a. -/
def vmovT (g : Fin 8) (d a : Fin 256) (q : Option (Fin 8)) (t : Task) : Except Stop Task := do
  t.vbounds [d, a] []
  vecMove (fun t0 t j =>
    let A := (t0.member j).vec a.val
    let sel := match q with
      | some p => (t0.member j).pred p
      | none => BitVec.allOnes 16
    .ok (t.putSlots j d.val (t0.gov g j) (fun i => if sel.getLsbD i then A.lane i else 0)
      (fun i => A.tags.getD i .unwritten))) t

/-- VCLASS (R224). -/
def vclassT (m : Option XMod) (g : Fin 8) (d a : Fin 256) (t : Task) : Except Stop Task := do
  t.vbounds [d, a] []
  vecMove (fun t0 t j => do
    let A := (t0.member j).vec a.val
    let en := t0.gov g j
    if firstTag A.tags = .f64 then
      t0.passTags m [.f64] j (A.tags.take 4)
      .ok (t.putLanes j d.val (mask64 en)
        (fun i => if i % 2 = 0 then BitVec.ofNat 32 (2 ^ fp64.classBit (A.el64 (i / 2)).toNat) else 0) .i32)
    else
      t0.passTags m [.f32] j A.tags
      .ok (t.putLanes j d.val en (fun i => BitVec.ofNat 32 (2 ^ fp32.classBit (A.lane i).toNat)) .i32)) t

/-! ### Integer elements (R225) -/

/-- An operation on elements of width w. -/
abbrev IOp := Nat → Nat → Nat → Nat

/-- The signed reading of w bits. -/
def signedOf (w v : Nat) : Int := if v % 2 ^ w < 2 ^ (w - 1) then (v % 2 ^ w : Nat) else (v % 2 ^ w : Nat) - (2 ^ w : Nat)

/-- A signed operation, wrapped or saturated (R197). -/
def satOp (sat : Bool) (f : Int → Int → Int) : IOp := fun w a b => narrowInt sat w (f (signedOf w a) (signedOf w b))

/-- VSHR's arithmetic form. -/
def sarOp : IOp := fun w a b => narrowInt false w (signedOf w a / 2 ^ (b % w))

/-- An operation on each element of two lanes. -/
def laneOp (w : Nat) (op : IOp) (a b : BitVec 32) : BitVec 32 :=
  BitVec.ofNat 32 (((splitLane w a).zip (splitLane w b)).zipIdx.map fun p => op w p.1.1 p.1.2 % 2 ^ w * 2 ^ (w * p.2)).sum

/-- The page-2 major 0xC forms (R215, R225). -/
def intT (m : Option XMod) (g : Fin 8) (d a : Fin 256) (b : Opnd) (op : IOp) (t : Task) : Except Stop Task := do
  t.vbounds ([d, a] ++ vecOf b) (scalarOf b)
  vecMove (fun t0 t j => do
    let A := (t0.member j).vec a.val
    let B := t0.srcB j b
    let tag := match firstTag (A.tags ++ B.tags) with
      | .i8 => Tag.i8
      | .i16 => .i16
      | _ => .i32
    let w := match tag with
      | .i8 => 8
      | .i16 => 16
      | _ => 32
    t0.passTags m [tag, .raw, .addr] j (A.tags ++ B.tags)
    .ok (t.putLanes j d.val (t0.gov g j) (fun i => laneOp w op (A.lane i) (B.lane i)) tag)) t

/-! ### Lanes (R226 to R230) -/

/-- VBCAST (R226). -/
def vbcastT (g : Fin 8) (z : BcSize) (d : Fin 256) (a : Opnd) (t : Task) : Except Stop Task := do
  t.vbounds [d] [a]
  let v := t.val a
  let k := t.tag a
  let (f, tag) : (Nat → BitVec 32) × Tag := match z with
    | .w => (fun _ => v.setWidth 32, if k = .i32 ∨ k = .f32 then k else .i32)
    | .d => (lanesOf64 fun _ => v, if k = .unwritten then .raw else k)
    | .h => (fun _ => v.setWidth 16 ++ v.setWidth 16, if k = .bf16 ∨ k = .f16 ∨ k = .i16 then k else .i16)
    | .b => (fun _ => v.setWidth 8 ++ v.setWidth 8 ++ (v.setWidth 8 ++ v.setWidth 8),
        if k = .e4m3 ∨ k = .e5m2 ∨ k = .i8 then k else .i8)
  vecMove (fun t0 t j =>
    let en := t0.gov g j
    .ok (t.putLanes j d.val (if z = .d then maskSlots en else en) f tag)) t

/-- The tags VSHUF and VPERM expect of b (R227). -/
def shufTags : List Tag := [.i32, .raw, .i8, .i16, .addr]

/-- The result tag of VSHUF and VPERM. -/
def shufTag (l : List Tag) : Tag := if firstTag l = .unwritten then .raw else firstTag l

/-- Gang lane n of a vector. -/
def Task.gangLane (t : Task) (s n : Nat) : BitVec 32 := (t.member (n / 16)).lane s (n % 16)

/-- The tags of a vector's slots across the gang. -/
def Task.gangTags (t : Task) (s : Nat) : List Tag := (List.range t.gangSize).flatMap fun j => (t.member j).vecTags s

/-- VSHUF (R227). -/
def vshufT (m : Option XMod) (d a b : Fin 256) (t : Task) : Except Stop Task := do
  t.vbounds [d, a, b] []
  vecMove (fun t0 t j => do
    let B := (t0.member j).vec b.val
    t0.passTags m shufTags j B.tags
    .ok (t.putLanes j d.val (BitVec.allOnes 16)
      (fun i => t0.gangLane a.val ((B.lane i).toNat % (16 * t0.gangSize))) (shufTag (t0.gangTags a.val)))) t

/-- Byte m of a vector. -/
def VSrc.byte (v : VSrc) (m : Nat) : Nat := (v.lane (m / 4)).toNat / 2 ^ (8 * (m % 4)) % 256

/-- VPERM (R227). -/
def vpermT (m : Option XMod) (d a b : Fin 256) (t : Task) : Except Stop Task := do
  t.vbounds [d, a, b] []
  vecMove (fun t0 t j => do
    let A := (t0.member j).vec a.val
    let B := (t0.member j).vec b.val
    t0.passTags m shufTags j B.tags
    let byte := fun k => if 128 ≤ B.byte k then 0 else A.byte (B.byte k % 64)
    .ok (t.putLanes j d.val (BitVec.allOnes 16)
      (fun i => BitVec.ofNat 32 ((List.range 4).map fun k => byte (4 * i + k) * 2 ^ (8 * k)).sum) (shufTag A.tags))) t

/-- The enabled lanes of the gang, in order: member and lane. -/
def Task.gangEnabled (t : Task) (g : Fin 8) : List (Nat × Nat) :=
  (List.range t.gangSize).flatMap fun j => (enabled (t.gov g j)).map fun i => (j, i)

/-- The tags a reduction expects: FP32 lanes, or 32-bit integer lanes as page 2 reads them (R215, R228).
DEDUCED, log entry 15. -/
def redTags : RedOp → List Tag
  | .scan .fadd => [.f32]
  | .scan .fmax => [.f32]
  | .scan .fmin => [.f32]
  | _ => [.i32, .raw, .addr]

/-- An FP32 extreme over lanes, as VMAX or VMIN one after another (R228). -/
def foldExt (c : FCtx) (big : Bool) (ls : List Nat) : Nat × FSet :=
  match ls with
  | [] => (fp32.infBits big, {})
  | x :: r =>
    match fp32.nanOf (ls.map (fp32.operand c)) with
    | some q => q
    | none => (r.foldl (fun a y => (fp32.minmax c big a y).1) (fp32.kept c x), {})

/-- An exact FP32 sum of lanes, rounded once (R207, R228). -/
def foldSum (c : FCtx) (ls : List Nat) : Nat × FSet :=
  let vs := ls.map (fp32.operand c)
  match fp32.nanOf vs with
  | some q => q
  | none => fp32.sum c vs

/-- A signed 32-bit extreme. -/
def foldInt (big : Bool) (ls : List Int) : Int :=
  match ls with
  | [] => if big then -(2 ^ 31) else 2 ^ 31 - 1
  | x :: r => r.foldl (fun a y => if big then max a y else min a y) x

/-- The operation of R228 over a list of 32-bit lanes: the value and the flags; a floating infinity for no lane is the
identity of the extreme. -/
def scanValue (c : FCtx) (o : ScanOp) (ls : List Nat) : Word × FSet :=
  match o with
  | .fadd => let r := foldSum c ls; (BitVec.ofNat 64 r.1, r.2)
  | .fmax => let r := if ls = [] then (fp32.infBits true, {}) else foldExt c true ls; (BitVec.ofNat 64 r.1, r.2)
  | .fmin => let r := if ls = [] then (fp32.infBits false, {}) else foldExt c false ls; (BitVec.ofNat 64 r.1, r.2)
  | .iadd => (BitVec.ofInt 64 (ls.map (signedOf 32)).sum, {})
  | .imax => (BitVec.ofInt 64 (foldInt true (ls.map (signedOf 32))), {})
  | .imin => (BitVec.ofInt 64 (foldInt false (ls.map (signedOf 32))), {})

/-- The result tag of a reduction. -/
def scanFloat : ScanOp → Bool
  | .fadd => true
  | .fmax => true
  | .fmin => true
  | _ => false

/-- The tags of vector a pass in every member. -/
def Task.passAll (t : Task) (m : Option XMod) (want : List Tag) (s : Nat) (j : Nat) : Nat → Except Stop Unit
  | 0 => .ok ()
  | n + 1 => do
    t.passTags m want j ((t.member j).vecTags s)
    t.passAll m want s (j + 1) n

/-- A scalar result with flags in lane 0 of the leader. -/
def Task.scalarFlags (t : Task) (d : Opnd) (v : Word) (tag : Tag) (f : FSet) (now : Nat) : Except Stop Task :=
  (t.wr d v tag).settleFlags [f.inLane 0] now

/-- VRED (R228). DEDUCED, log entry 15. -/
def vredT (m : Option XMod) (g : Fin 8) (d : Opnd) (src : RedSrc) (now : Nat) (t : Task) : Except Stop Task := do
  match src with
  | .flag f =>
    t.bounds [d]
    let hit := (t.gangEnabled g).any fun p => ((t.member p.1).fl.get f).getLsbD p.2
    .ok (t.wr d (if hit then 1 else 0) .raw)
  | .lanes o a =>
    t.vbounds [a] [d]
    t.passAll m (redTags o) a.val 0 t.gangSize
    let ls := (t.gangEnabled g).map fun p => ((t.member p.1).lane a.val p.2).toNat
    match o with
    | .scan k =>
      let (v, f) := scanValue (t.fctx m) k ls
      t.scalarFlags d v (if scanFloat k then .f32 else .raw) f now
    | .and => .ok (t.wr d (BitVec.ofNat 64 (ls.foldl (· &&& ·) (2 ^ 32 - 1))) .raw)
    | .or => .ok (t.wr d (BitVec.ofNat 64 (ls.foldl (· ||| ·) 0)) .raw)
    | .xor => .ok (t.wr d (BitVec.ofNat 64 (ls.foldl (· ^^^ ·) 0)) .raw)

/-- VSCAN (R229). DEDUCED, log entry 15. -/
def vscanT (m : Option XMod) (g : Fin 8) (o : ScanOp) (d a : Fin 256) (now : Nat) (t : Task) : Except Stop Task := do
  t.vbounds [d, a] []
  t.passAll m (redTags (.scan o)) a.val 0 t.gangSize
  vecRun now (fun t0 t j =>
    let all := t0.gangEnabled g
    let upto := fun i => (all.filter fun p => decide (16 * p.1 + p.2 ≤ 16 * j + i)).map fun p =>
      ((t0.member p.1).lane a.val p.2).toNat
    let r := fun i => scanValue (t0.fctx m) o (upto i)
    let en := t0.gov g j
    .ok (t.putLanes j d.val en (fun i => (r i).1.setWidth 32) (if scanFloat o then .f32 else .i32),
      flagsOf ((enabled en).map fun i => (i, (r i).2)))) t

/-- VINS (R230). -/
def vinsT (m : Option XMod) (g : Fin 8) (d : Fin 256) (a b : Opnd) (t : Task) : Except Stop Task := do
  t.vbounds [d] [a, b]
  let y ← t.raw m b
  let l := y.toNat % (16 * t.gangSize)
  let j := l / 16
  let en := t.gov g j &&& laneBit (l % 16) true
  .ok (t.putLanes j d.val en (fun _ => (t.val a).setWidth 32) (if t.tag a = .f32 then .f32 else .i32))

/-- VEXT (R230). -/
def vextT (m : Option XMod) (d : Opnd) (a : Fin 256) (b : Opnd) (t : Task) : Except Stop Task := do
  t.vbounds [a] [d, b]
  let y ← t.raw m b
  let l := y.toNat % (16 * t.gangSize)
  let v := t.gangLane a.val l
  let k := ((t.member (l / 16)).cell (slotKey (a.val + l % 16 / 2))).tag
  .ok (if k = .f32 then t.wr d (v.setWidth 64) .f32 else t.wr d (v.signExtend 64) .raw)

/-- The register keys that VEXT reads (R230): the slot of the lane, and b. -/
def Task.extKeys (t : Task) (a : Fin 256) (b : Opnd) : List Nat :=
  [slotKey (a.val + (t.val b).toNat % 16 / 2), b.key]

/-- VLANEI (R230). -/
def vlaneiT (g : Fin 8) (d : Fin 256) (t : Task) : Except Stop Task := do
  t.vbounds [d] []
  vecMove (fun t0 t j => .ok (t.putLanes j d.val (t0.gov g j) (fun i => BitVec.ofNat 32 (16 * j + i)) .i32)) t

/-! ### Conversions (R231 to R235) -/

/-- Element 0 of a scalar in the format of its tag (R231): a float's format and bits, or an integer. -/
def cvtSource (k : Tag) (v : Word) : Fmt × Nat ⊕ Int :=
  match k with
  | .raw => .inr v.toInt
  | .addr => .inr v.toInt
  | .i32 => .inr (signedOf 32 v.toNat)
  | .i16 => .inr (signedOf 16 v.toNat)
  | .i8 => .inr (signedOf 8 v.toNat)
  | .f32 => .inl (fp32, v.toNat % 2 ^ 32)
  | .bf16 => .inl (bf16, v.toNat % 2 ^ 16)
  | .f16 => .inl (fp16, v.toNat % 2 ^ 16)
  | .e4m3 => .inl (e4m3, v.toNat % 256)
  | .e5m2 => .inl (e5m2, v.toNat % 256)
  | .f64 => .inl (fp64, v.toNat)
  | .unwritten => .inr 0
  | _ => .inr v.toInt

/-- A CVT target: a floating format or an integer width, and the result tag. -/
def cvtTarget : CvtTo → (Fmt ⊕ Nat) × Tag
  | .i64 => (.inr 64, .raw)
  | .i32 => (.inr 32, .i32)
  | .f32 => (.inl fp32, .f32)
  | .bf16 => (.inl bf16, .bf16)
  | .f16 => (.inl fp16, .f16)
  | .e4m3 => (.inl e4m3, .e4m3)
  | .e5m2 => (.inl e5m2, .e5m2)
  | .i8 => (.inr 8, .i8)
  | .i16 => (.inr 16, .i16)
  | .f64 => (.inl fp64, .f64)

/-- One conversion (R196). -/
def convertTo (c : FCtx) (src : Fmt × Nat ⊕ Int) (dst : Fmt ⊕ Nat) : Nat × FSet :=
  match src, dst with
  | .inl (f, b), .inl g => f.convert g c b
  | .inl (f, b), .inr w =>
    let (v, x) := f.toInt c (-(2 ^ (w - 1))) (2 ^ (w - 1) - 1) b
    ((v % (2 ^ w : Int)).toNat, x)
  | .inr v, .inl g => g.ofInt c v
  | .inr v, .inr w => (narrowInt c.sat w v, {})

/-- CVT (R231). -/
def cvtT (m : Option XMod) (k : CvtTo) (d a : Opnd) (now : Nat) (t : Task) : Except Stop Task := do
  t.bounds [d, a]
  let g := t.tag a
  if !t.conv m && (g == .s16 || g == .s8 || g == .s4 || g == .s2) then .error (.trap fmtMismatch t.pc 0)
  else
    let (dst, tag) := cvtTarget k
    let (v, f) := convertTo (t.fctx m) (cvtSource g (t.val a)) dst
    t.scalarFlags d (BitVec.ofNat 64 v) tag f now

/-- The register keys that VCVT reads of a (R232). -/
def cvtKeys (o : VcvtOp) (a : Fin 256) : List Nat := match o with
  | .f64 => firstKeys 2 a
  | .f32d => firstKeys 4 a
  | _ => vecKeys a

/-- VCVT (R232). DEDUCED, log entry 16. -/
def vcvtT (m : Option XMod) (g : Fin 8) (o : VcvtOp) (d a : Fin 256) (now : Nat) (t : Task) : Except Stop Task := do
  t.vbounds [d, a] []
  vecRun now (fun t0 t j => do
    let A := (t0.member j).vec a.val
    let c := t0.fctx m
    let en := t0.gov g j
    let lanes := fun (want : List Tag) (tag : Tag) (f : Nat → Nat × FSet) => do
      t0.passTags m want j A.tags
      let r := fun i => f (A.lane i).toNat
      Except.ok (t.putLanes j d.val en (fun i => BitVec.ofNat 32 (r i).1) tag,
        flagsOf ((enabled en).map fun i => (i, (r i).2)))
    match o with
    | .i32 => lanes [.f32] .i32 fun x => convertTo c (.inl (fp32, x)) (.inr 32)
    | .f32 => lanes [.i32, .raw, .addr] .f32 fun x => fp32.ofInt c (signedOf 32 x)
    | .n32 => lanes [.f32] .i32 fun x =>
        let (v, f) := fp32.toInt c 0 (2 ^ 32 - 1) x
        (v.toNat, f)
    | .f32n => lanes [.i32, .raw, .addr] .f32 fun x => fp32.ofInt c x
    | .rint => lanes [.f32] .f32 fun x => fp32.rint c x
    | .f64 => do
      t0.passTags m [.f32] j (A.tags.take 2)
      let r := fun e => fp32.convert fp64 c (A.lane e).toNat
      let es := (List.range 4).filter fun e => en.getLsbD (2 * e)
      .ok (t.putLanes j d.val (mask64 en) (lanesOf64 fun e => BitVec.ofNat 64 (r e).1) .f64,
        flagsOf (es.map fun e => (2 * e, (r e).2)))
    | .f32d => do
      t0.passTags m [.f64] j (A.tags.take 4)
      let r := fun e => fp64.convert fp32 c (A.el64 e).toNat
      .ok (t.putLanes j d.val (en &&& 15) (fun e => BitVec.ofNat 32 (r e).1) .f32,
        flagsOf ((enabled (en &&& 15)).map fun e => (e, (r e).2)))) t

/-! Described blocks (R198 to R201, R233, R234). -/

/-- Bits of an element of a block. -/
def blkBits : Blk → Nat
  | .s16 => 16
  | .s8 => 8
  | .s4 => 4
  | .s2 => 2

/-- Elements of a block (R198). -/
def blkCount (w : Blk) : Nat := 496 / blkBits w

/-- The WIDTH code of a format byte. -/
def blkCode : Blk → Nat
  | .s2 => 0
  | .s4 => 1
  | .s8 => 2
  | .s16 => 3

/-- The width a format byte names. -/
def blkWidth (b : Byte) : Blk :=
  match b.toNat / 64 with
  | 0 => .s2
  | 1 => .s4
  | 2 => .s8
  | _ => .s16

/-- The tag of a block's slots. -/
def blkTag : Blk → Tag
  | .s16 => .s16
  | .s8 => .s8
  | .s4 => .s4
  | .s2 => .s2

/-- MARK is right (R199). -/
def blkMark (b : Byte) : Bool := b.toNat % 16 == 10

/-- ZERO of a format byte. -/
def blkZero (b : Byte) : Bool := b.getLsbD 4

/-- SIGNED of a format byte. -/
def blkSigned (b : Byte) : Bool := b.getLsbD 5

/-- The scale byte's exponent. -/
def blkScale (b : Byte) : Int := b.toInt

/-- Element i of a block's payload, as an integer (R198). -/
def blkElem (h : Byte) (payload : Nat) (i : Nat) : Int :=
  let w := blkBits (blkWidth h)
  let v := payload / 2 ^ (w * i) % 2 ^ w
  if blkZero h then 0 else if blkSigned h then signedOf w v else v

/-- The floor of log2 of a finite non-zero magnitude. -/
def FVal.log : FVal → Option Int
  | .fin _ k e => if k = 0 then none else some (Nat.log2 k + e)
  | _ => none

/-- One element of a packed block (R200): its integer and its flags. DEDUCED, log entry 17. -/
def packElem (r : Rnd) (signed : Bool) (lim : Nat) (e : Int) (v : FVal) : Int × FSet :=
  match v with
  | .nan _ _ _ => (0, { iv := true })
  | .inf s => if s && !signed then (0, { iv := true }) else (if s then -(lim : Int) else lim, { of := true, nx := true })
  | .fin s k x =>
    if k = 0 then (0, {})
    else if s && !signed then (0, { iv := true })
    else
      let (q, nx) := roundTo r s k (x - e) false 0
      let q1 := if lim < q then lim else q
      (if s then -(q1 : Int) else q1, { nx := nx, of := decide (lim < q), uf := decide (q1 = 0) })

/-- A block packed from values (R200): the format byte, the scale byte, the payload and each input's flags.
DEDUCED, log entry 17. -/
def packBlock (r : Rnd) (w : Blk) (signed : Bool) (vs : List FVal) : Nat × Nat × Nat × List FSet :=
  let bits := blkBits w
  let base := blkCode w * 64 + (if signed then 32 else 0) + 10
  let logs := vs.filterMap FVal.log
  if logs.isEmpty && !vs.any FVal.isInf then
    (base + 16, 0, 0, vs.map fun _ => {})
  else
    let top := match logs with
      | [] => 0
      | x :: l => l.foldl max x
    let e := max (-128) (min 127 (top - (if signed then (bits : Int) - 2 else bits - 1)))
    let lim := if signed then 2 ^ (bits - 1) - 1 else 2 ^ bits - 1
    let qs := vs.map (packElem r signed lim e)
    if qs.all fun q => q.1 == 0 then (base + 16, 0, 0, qs.map Prod.snd)
    else (base, (e % 256).toNat,
      (qs.zipIdx.map fun p => (p.1.1 % (2 ^ bits : Int)).toNat * 2 ^ (bits * p.2)).sum, qs.map Prod.snd)

/-- Registers BLKPK reads (R233). -/
def blkRegs (w : Blk) : Nat := (blkCount w + 15) / 16

/-- The slot of the k-th register from v on. -/
def nthVec (v : Fin 256) (k : Nat) : Nat := v.val + 8 * k

/-- The failing slot of an operand of n consecutive vector registers. -/
def Task.badBlock (t : Task) (v : Fin 256) (n : Nat) : List Nat := (t.ctl.viewV.bad 8 n v.val).toList

/-- Slots BLKPK reads: those that hold its n inputs. -/
def blkSlots (w : Blk) : Nat := (blkCount w + 1) / 2

/-- BLKPK (R233). -/
def blkpkT (m : Option XMod) (w : Blk) (nat : Bool) (d a : Fin 256) (now : Nat) (t : Task) : Except Stop Task := do
  boundsOf (t.badVecs [d] ++ t.badBlock a (blkRegs w))
  vecRun now (fun t0 t j => do
    let g := t0.member j
    t0.passTags m [.f32] j ((List.range (blkSlots w)).map fun i => (g.cell (slotKey (a.val + i))).tag)
    let c := t0.fctx m
    let vs := (List.range (blkCount w)).map fun i => fp32.operand c (g.lane (nthVec a (i / 16)) (i % 16)).toNat
    let (h, e, p, fs) := packBlock c.rnd w (!nat) vs
    let word := h + 256 * e + 65536 * p
    .ok (t.putLanes j d.val (BitVec.allOnes 16) (fun i => BitVec.ofNat 32 (word / 2 ^ (32 * i))) (blkTag w),
      flagsOf (fs.zipIdx.map fun q => (q.2 % 16, q.1)))) t

/-- A vector as one number. -/
def Image.vecNat (g : Image) (s : Nat) : Nat := ((List.range 16).map fun i => (g.lane s i).toNat * 2 ^ (32 * i)).sum

/-- Registers BLKUP writes (R234). -/
def upRegs (bf : Bool) (n : Nat) : Nat := if bf then (n + 31) / 32 else (n + 15) / 16

/-- One element of an unpacked block (R201). -/
def upElem (c : FCtx) (f : Fmt) (h : Byte) (e : Int) (p i : Nat) : Nat × FSet := f.roundInt c (blkElem h p i) e false

/-- BLKUP in one member (R234). -/
def blkupMember (m : Option XMod) (bf : Bool) (d a : Fin 256) (t0 : Task) : MemberFn := fun t j => do
  let g := t0.member j
  t0.passTags m [.raw, .s16, .s8, .s4, .s2] j (g.vecTags a.val)
  let v := g.vecNat a.val
  let h : Byte := BitVec.ofNat 8 v
  if !blkMark h then .error (.trap fmtMismatch t0.pc j)
  else
    let n := blkCount (blkWidth h)
    let e := if blkZero h then 0 else blkScale (BitVec.ofNat 8 (v / 256))
    let p := v / 65536
    let c := t0.fctx m
    let regs := upRegs bf n
    match t0.badBlock d regs with
    | x :: _ => .error (.trap regBound (BitVec.ofNat 64 x) j)
    | [] =>
      if bf then
        let el := fun i => if i < n then upElem c bf16 h e p i else (0, {})
        let lane := fun k i => BitVec.ofNat 32 ((el (32 * k + 2 * i)).1 + 65536 * (el (32 * k + 2 * i + 1)).1)
        .ok ((List.range regs).foldl (fun b k => b.putLanes j (nthVec d k) (BitVec.allOnes 16) (lane k) .bf16) t,
          flagsOf ((List.range n).map fun i => (i % 32 / 2, (el i).2)))
      else
        let el := fun i => if i < n then upElem c fp32 h e p i else (0, {})
        .ok ((List.range regs).foldl (fun b k => b.putLanes j (nthVec d k) (BitVec.allOnes 16)
            (fun i => BitVec.ofNat 32 (el (16 * k + i)).1) .f32) t,
          flagsOf ((List.range n).map fun i => (i % 16, (el i).2)))

/-- BLKUP (R234): the first register of d must be one of the view's; the rest are checked with the block's width. -/
def blkupT (m : Option XMod) (bf : Bool) (d a : Fin 256) (now : Nat) (t : Task) : Except Stop Task := do
  t.vbounds [d, a] []
  vecRun now (blkupMember m bf d a) t

/-- A pack format: the format, its part and its tag (R235). -/
def packFmt : PackFmt → Fmt × Nat × Tag
  | .bf16 h => (bf16, h.val, .bf16)
  | .f16 h => (fp16, h.val, .f16)
  | .e4m3 h => (e4m3, h.val, .e4m3)
  | .e5m2 h => (e5m2, h.val, .e5m2)

/-- The slots of a vector that hold elements 16h to 16h + 15 of width w, and the number of elements in a slot. -/
def packSlots (w h : Nat) : List Nat := (List.range (w / 4)).map (w / 4 * h + ·)

/-- The slots of d that a pack writes in part: they hold an enabled element and one that is not (R235). -/
def packMixed (w h : Nat) (d : Fin 256) (en : Mask) : List Nat :=
  (packSlots w h).filterMap fun k =>
    let els := (List.range (64 / w)).map fun q => en.getLsbD (64 / w * k + q - 16 * h)
    if els.any id && !els.all id then some (slotKey (d.val + k)) else none

/-- VPACK (R235): an element is enabled with its own lane of the predicate; a mark in a slot of d that keeps old elements is
concretized (21 R371). -/
def vpackT (m : Option XMod) (g : Fin 8) (k : PackFmt) (d a : Fin 256) (now : Nat) (t : Task) : Except Stop Task := do
  t.vbounds [d, a] []
  let (f, h, tag) := packFmt k
  let w := f.width
  vecRun now (fun t0 t j => do
    let A := (t0.member j).vec a.val
    t0.passTags m [.f32] j A.tags
    let en := t0.gov g j
    let r := fun i => fp32.convert f (t0.fctx m) (A.lane i).toNat
    let per := 32 / w
    let old := (t0.member j).vec d.val
    let lane := fun n => BitVec.ofNat 32 ((List.range per).map fun q =>
      let i := n * per + q - 16 * h
      let on := decide (16 * h ≤ n * per + q) && decide (i < 16) && en.getLsbD i
      (if on then (r i).1 else (old.lane n).toNat / 2 ^ (w * q) % 2 ^ w) * 2 ^ (w * q)).sum
    let wr := maskOf fun n => (List.range per).any fun q =>
      decide (16 * h ≤ n * per + q) && decide (n * per + q < 16 * h + 16) && en.getLsbD (n * per + q - 16 * h)
    let t1 := if j = 0 then t.conc (packMixed w h d en) else t
    .ok (t1.putLanes j d.val wr lane tag, flagsOf ((enabled en).map fun i => (i, (r i).2)))) t

/-- The register keys that VUNPK reads of a (R235). -/
def unpkKeys (k : PackFmt) (a : Fin 256) : List Nat :=
  (packSlots (packFmt k).1.width (packFmt k).2.1).map fun i => slotKey (a.val + i)

/-- VUNPK (R235). -/
def vunpkT (m : Option XMod) (g : Fin 8) (k : PackFmt) (d a : Fin 256) (now : Nat) (t : Task) : Except Stop Task := do
  t.vbounds [d, a] []
  let (f, h, tag) := packFmt k
  let w := f.width
  vecRun now (fun t0 t j => do
    let A := (t0.member j).vec a.val
    t0.passTags m [tag] j ((packSlots w h).map fun i => A.tags.getD i .unwritten)
    let en := t0.gov g j
    let per := 32 / w
    let el := fun i => (A.lane ((16 * h + i) / per)).toNat / 2 ^ (w * ((16 * h + i) % per)) % 2 ^ w
    let r := fun i => f.convert fp32 (t0.fctx m) (el i)
    .ok (t.putLanes j d.val en (fun i => BitVec.ofNat 32 (r i).1) .f32,
      flagsOf ((enabled en).map fun i => (i, (r i).2)))) t

/-! ### Flags and votes (R236 to R239) -/

/-- FLRD (R236). -/
def flrdT (g : Fin 8) (f : FlSel) (p : Fin 8) (t : Task) : Except Stop Task :=
  vecMove (fun t0 t j =>
    let l := (t0.member j).fl
    let v := match f with
      | .one k => l.get k
      | .any => l.any
    .ok (t.putPred j p (v &&& t0.gov g j))) t

/-- FLCLR (R237). -/
def flclrT (g : Fin 8) (f : Option Flag) (t : Task) : Except Stop Task :=
  vecMove (fun t0 t j =>
    let im := t.member j
    .ok (t.setMember j { im with fl := im.fl.clear f (t0.gov g j) })) t

/-- VOTE (R238). -/
def voteT (g : Fin 8) (o : VoteOp) (d : Opnd) (src : VoteSrc) (t : Task) : Except Stop Task := do
  t.bounds [d]
  let bit := fun (p : Nat × Nat) => match src with
    | .pred q => ((t.member p.1).pred q).getLsbD p.2
    | .flag f => ((t.member p.1).fl.get f).getLsbD p.2
  let all := t.gangEnabled g
  let ones := all.filter bit
  let v : Nat := match o with
    | .any => if ones.isEmpty then 0 else 1
    | .all => if ones.length = all.length then 1 else 0
    | .cnt => ones.length
    | .mask => (ones.map fun p => 2 ^ (16 * p.1 + p.2)).sum
  .ok (t.wr d (BitVec.ofNat 64 v) .raw)

/-- FLEN (R239). -/
def flenT (m : Option XMod) (d a : Opnd) (t : Task) : Except Stop Task := do
  t.bounds [d, a]
  let y ← t.raw m a
  let old : Word := BitVec.ofNat 64 t.ctl.flgEn.toNat
  let new : BitVec 9 := BitVec.ofNat 9 (y.toNat % 32 + (if y.getLsbD 8 then 256 else 0))
  .ok { t.wr d old .raw with ctl := { t.ctl with flgEn := new } }

/-! ### Special functions (R240 to R242) -/

/-- t's request to the SFU, t1 being t once its results have returned (R240): the thread parks, its images as they stood. What
the SFU answers depends on the request alone (R241), and an event message carries the CYCLE of the issue (R210).
DESIGN CHOICE, log entry 3. DEDUCED, log entry 19. -/
def Task.parkSfu (t t1 : Task) : Task :=
  { t1 with
    img := t.img, fol := t.fol, phase := .parked .sfu
    owed := some ⟨t1.img, t1.fol, match t1.phase with | .sending k => some k | _ => none⟩ }

/-- SFN (R240). DEDUCED, log entry 19. -/
def sfnT (m : Option XMod) (f : Sfu) (d a : Opnd) (now : Nat) (t : Task) : Except Stop Task := do
  t.bounds [d, a]
  let v ← t.readAs m [.f32] a
  let (r, x) := sfuValue (t.fctx m) f (v.setWidth 32)
  let t1 ← t.scalarFlags d (BitVec.ofNat 64 r) .f32 x now
  .ok (t.parkSfu t1)

/-- SFNV (R240). DEDUCED, log entry 19. -/
def sfnvT (m : Option XMod) (g : Fin 8) (f : Sfu) (d a : Fin 256) (now : Nat) (t : Task) : Except Stop Task := do
  t.vbounds [d, a] []
  let t1 ← vecRun now (fun t0 t j => do
    let A := (t0.member j).vec a.val
    t0.passTags m [.f32] j A.tags
    let en := t0.gov g j
    let r := fun i => sfuValue (t0.fctx m) f (A.lane i)
    .ok (t.putLanes j d.val en (fun i => BitVec.ofNat 32 (r i).1) .f32,
      flagsOf ((enabled en).map fun i => (i, (r i).2)))) t
  .ok (t.parkSfu t1)

/-! ### Gangs (R243, R244) -/

/-- How many members a size names. -/
def gangCount : GangSize → Nat
  | .two => 2
  | .four => 4
  | .eight => 8

/-- GANG (R243): the leader waits until its slots are reserved; the gang then forms (04 R75). -/
def gangT (n : GangSize) (t : Task) : Except Stop Task :=
  if t.fol.isEmpty then .error (.wait (.gang (gangCount n))) else .error (.trap illOp t.pc 0)

/-- DISBAND (R244). -/
def disbandT (t : Task) : Except Stop Task := .ok { t with fol := [] }

end Sys2Proof.Machine
end

