-- ==== Sys2Proof/Machine/MatrixOps.lean ====
section
/-! DEFINITION. The matrix unit's operations (13, 11 R202 to R205): residues, tile products, bounds, conversions, the
checks of an enqueue, the queues, the arbiter and schedules. -/

namespace Sys2Proof.Machine

/-! ### Residues (11 R202, R205) -/

/-- The moduli. -/
def mod1 : Nat := 65535
def mod2 : Nat := 65536
def mod3 : Nat := 65537

/-- M. -/
def modM : Nat := mod1 * mod2 * mod3

/-- An integer added to an element. -/
def Res.add (r : Res) (v : Int) : Res :=
  ⟨((r.r1 + v) % (mod1 : Int)).toNat, ((r.r2 + v) % (mod2 : Int)).toNat, ((r.r3 + v) % (mod3 : Int)).toNat⟩

/-- The integer of [0, M) with an element's residues: Chinese remaindering. -/
def Res.lift (r : Res) : Nat :=
  (r.r1 * (mod2 * mod3) * 32768 + r.r2 * (mod1 * mod3) * 65535 + r.r3 * (mod1 * mod2) * 32769) % modM

/-- The integer of (−M/2, M/2] an element stands for. -/
def Res.toInt (r : Res) : Int := if modM / 2 < r.lift then (r.lift : Int) - modM else r.lift

/-! ### Products and bounds (R203, R204, 13 R256) -/

/-- A product p under scale s as it enters a tile of segment exponent e0, and whether it was shifted inexactly (R203). -/
def enterProduct (e0 p s : Int) : Int × Bool :=
  if e0 ≤ s then (p * (2 : Int) ^ (s - e0).toNat, false)
  else
    let (q, nx) := roundTo .rne false p.natAbs 0 false (e0 - s)
    (if p < 0 then -(q : Int) else q, nx)

/-- R204's term of a block pair of which c products are formed. DEDUCED, log entry 36. -/
def boundTerm (e0 : Int) (c : Nat) (ha hb : Hdr) : Nat :=
  if blkZero ha.1 || blkZero hb.1 then 0
  else
    let mag := fun (h : Byte) => if blkSigned h then 2 ^ (blkBits (blkWidth h) - 1) else 2 ^ blkBits (blkWidth h)
    let p := mag ha.1 * mag hb.1
    let s := blkScale ha.2 + blkScale hb.2
    if e0 ≤ s then c * p * 2 ^ (s - e0).toNat
    else
      let k := 2 ^ (e0 - s).toNat
      c * ((p + k - 1) / k)

/-- The bound grown by a term, rounded up to a multiple of 2^16 (R204). DEDUCED, log entry 36. -/
def growBound (b t : Nat) : Nat := (b + t + 65535) / 65536 * 65536

/-- The greatest of a list. -/
def maxOf (l : List Nat) : Nat := l.foldl Nat.max 0

/-- The payload of a 64-byte block (R198). -/
def payloadOf (bs : List Byte) : Nat := leNat ((bs.drop 2).take 62)

/-- The elements of a row of A as an operation multiplies them: value and scale. A sparse row takes those at the
selected positions of its two blocks (R256). -/
def rowElems (w : Blk) (sparse : Bool) (sel : List Nat) (hs : List Hdr) (ps : List Nat) (i : Nat) : List (Int × Int) :=
  let n := blkCount w
  let at_ := fun (blk s : Nat) =>
    let h : Hdr := hs.getD blk (0, 0)
    (blkElem h.1 (ps.getD blk 0) s, blkScale h.2)
  if sparse then sel.map fun p => at_ (2 * i + p / n) (p % n) else (List.range n).map (at_ i)

/-- The sum of the products of a row and a column, and whether any was shifted inexactly (R203). -/
def dotTile (e0 : Int) (row : List (Int × Int)) (col : List Int) (eb : Int) : Int × Bool :=
  (row.zip col).foldl (fun acc p =>
    let r := enterProduct e0 (p.1.1 * p.2) (p.1.2 + eb)
    (acc.1 + r.1, acc.2 || r.2)) (0, false)

/-- The positions set in metadata entries, in order (R256). -/
def metaSet (es : List Nat) : List Nat :=
  (List.range es.length).flatMap fun m => ((List.range 124).filter fun i => (es.getD m 0).testBit i).map (124 * m + ·)

/-- The positions a sparse operation selects from its metadata entries (R256); none where an entry is malformed. -/
def selected (es : List Nat) : Option (List Nat) :=
  let ok := es.all fun e => decide (e / 2 ^ 124 = 0) && decide (((List.range 124).filter fun i => e.testBit i).length = 62)
  if ok then some (metaSet es) else none

/-- Metadata entries a MOPS of a width needs (R256). -/
def metaNeed : Blk → Nat
  | .s16 => 1
  | .s8 => 1
  | .s4 => 2
  | .s2 => 4

/-- The bound term of a MOP (R204, 13 R253): the largest over its block pairs. -/
def tileTerm (e0 : Int) (w : Blk) (ha hb : List Hdr) : Nat :=
  maxOf (ha.flatMap fun a => hb.map (boundTerm e0 (blkCount w) a))

/-- The bound term of a MOPS (R204, R256): the largest over its block pairs, each with the positions that its metadata select in
its A block. -/
def sparseTerm (e0 : Int) (w : Blk) (metas : List Nat) (ha hb : List Hdr) : Nat :=
  let n := blkCount w
  let low := ((metaSet metas).filter (decide <| · < n)).length
  let high := ((metaSet metas).filter (decide <| n ≤ ·)).length
  maxOf (ha.zipIdx.flatMap fun (a, i) => hb.map (boundTerm e0 (if i % 2 = 0 then low else high) a))

/-- A tile whose bound grows by a term (R204). -/
def MTile.grown (t : MTile) (term : Nat) : MTile :=
  let b := growBound t.bound term
  let big := decide (2 ^ 47 ≤ b)
  { t with bound := b, boundHit := t.boundHit || big, of := t.of || big }

/-- The tile after an operation is final (13 R262): bdata is the slot's payloads, one a column. -/
def MTile.addOp (t : MTile) (w : Blk) (sparse : Bool) (metas : List Nat) (ha hb : List Hdr) (adata bdata : List Nat) : MTile :=
  match (if sparse then selected metas else some []) with
  | none => { t with metaBad := true, ops := (t.ops + 1) % 65536 }
  | some sel =>
    let n := blkCount w
    let cols := (List.range 128).map fun c =>
      let h : Hdr := hb.getD c (0, 0)
      ((List.range n).map (blkElem h.1 (bdata.getD c 0)), blkScale h.2)
    let sums := (List.range 32).flatMap fun i =>
      let row := rowElems w sparse sel ha adata i
      cols.map fun c => dotTile t.e0 row c.1 c.2
    let els := sums.zipIdx.filterMap fun (d, k) =>
      let r := (Tab.look {} t.els k).add d.1
      if r = {} then none else some (k, r)
    let nx := sums.any Prod.snd
    { t with els := els, ops := (t.ops + 1) % 65536, shift := t.shift || nx, nx := t.nx || nx }

/-! ### Conversion (R205, 13 R263) -/

/-- One element converted: its bits and the flags. -/
def convElem (f : Fmt) (c : FCtx) (e0 : Int) (ac : Bool) (r : Res) (old : Nat) : Nat × FSet :=
  let x := r.toInt
  if !ac then f.roundInt c x e0 false
  else match f.operand c old with
    | .nan s k _ => (f.nanBits s k, {})
    | .inf s => (f.infBits s, {})
    | v => f.sum c [.fin (decide (x < 0)) x.natAbs e0, v]

/-- The format of an MCONV and its bytes an element. -/
def mcFmt : McFmt → Fmt × Nat
  | .f32 => (fp32, 4)
  | .bf16 => (bf16, 2)

/-- Column n converted: its bytes from the old ones, and the flags of its elements. -/
def convColumn (f : McFmt) (c : FCtx) (t : MTile) (ac : Bool) (n : Nat) (old : List Byte) : List Byte × FSet :=
  let (fm, k) := mcFmt f
  let rs := (List.range 32).map fun i =>
    convElem fm c t.e0 ac (Tab.look {} t.els (128 * i + n)) (leNat ((old.drop (k * i)).take k))
  (rs.flatMap fun r => leBytes r.1 k, rs.foldl (fun a r => a.or r.2) {})

/-- The status after a conversion's flags (13 R263). -/
def MTile.flagged (t : MTile) (s : FSet) : MTile :=
  { t with cvt := t.cvt || s.nx, nx := t.nx || s.nx, of := t.of || s.of, uf := t.uf || s.uf }

/-! ### Units, tiles, queues (R245 to R250) -/

/-- The matrix unit of a cluster. -/
def Mach.mtx (m : Mach) (cl : Nat) : Matrix := Tab.look {} m.matrix cl

/-- A matrix unit changed. -/
def Mach.setMtx (m : Mach) (cl : Nat) (f : Matrix → Matrix) : Mach := { m with matrix := Tab.upd {} m.matrix cl f }

/-- The number of a core in its cluster. -/
def coreIdx (core : Nat) : Nat := core % 8

/-- The key of tile q of a core. -/
def tileKey (core q : Nat) : Nat := 2 * coreIdx core + q

/-- Tile q of a core. -/
def Mach.tile (m : Mach) (core q : Nat) : MTile := Tab.look {} (m.mtx (clusterOf core)).tiles (tileKey core q)

/-- A tile changed. -/
def Mach.setTile (m : Mach) (core q : Nat) (f : MTile → MTile) : Mach :=
  m.setMtx (clusterOf core) fun x => { x with tiles := Tab.upd {} x.tiles (tileKey core q) f }

/-- A core's queue. -/
def Mach.mqueue (m : Mach) (core : Nat) : List QEnt := Tab.look [] (m.mtx (clusterOf core)).queues (coreIdx core)

/-- A core's queue changed. -/
def Mach.setQueue (m : Mach) (core : Nat) (f : List QEnt → List QEnt) : Mach :=
  m.setMtx (clusterOf core) fun x => { x with queues := Tab.upd [] x.queues (coreIdx core) f }

/-- A command takes a queue entry (R250). -/
def QEnt.counts (e : QEnt) : Bool := match e.cmd with
  | .mzero _ _ => false
  | _ => true

/-- A queue holds 16 commands (R250). -/
def queueFull (l : List QEnt) : Bool := decide (16 ≤ (l.filter QEnt.counts).length)

/-- The tile a command acts on. -/
def MCmd.tile : MCmd → Option Nat
  | .mop _ q _ _ _ _ _ => some q
  | .mconv q _ _ _ _ _ => some q
  | .mzero q _ => some q
  | .msched _ => none

/-- A command of the list stands before an MZERO on tile q in queue order (R250); a schedule's entries may. -/
def QEnt.before (q : Nat) (e : QEnt) : Bool := match e.cmd with
  | .msched _ => true
  | c => c.tile == some q

/-- MZERO's effect at its place in queue order (R261). -/
def MTile.zeroed (t : MTile) (e : Int) : MTile :=
  { t with els := [], e0 := e, bound := 0, metaBad := false, cvt := false, boundHit := false, shift := false, uf := false,
           of := false, nx := false, ops := 0 }

/-- The MZEROs of a queue that have no command before them, and the rest; `seen` is what stands before the list. -/
def dueZeros : List QEnt → List QEnt → List (Nat × Int) × List QEnt
  | _, [] => ([], [])
  | seen, e :: r => match e.cmd with
    | .mzero q x =>
      if seen.any (QEnt.before q) then
        let (d, k) := dueZeros (seen ++ [e]) r
        (d, e :: k)
      else
        let (d, k) := dueZeros seen r
        ((q, x) :: d, k)
    | _ =>
      let (d, k) := dueZeros (seen ++ [e]) r
      (d, e :: k)

/-- The bound terms of the MOPs on tile q that stand in a queue before the next MZERO on it (R204). -/
def queuedTerms (q : Nat) (e0 : Int) (l : List QEnt) : List Nat :=
  (l.takeWhile fun e => match e.cmd with
    | .mzero k _ => k != q
    | _ => true).filterMap fun e => match e.cmd with
    | .mop false k _ _ w ha hb => if k = q then some (tileTerm e0 w ha hb) else none
    | _ => none

/-- The MZEROs whose place in a core's queue has come take effect (R250, R261); the bound begins again with the terms of the MOPs
enqueued behind them (R204). -/
def Mach.applyZeros (m : Mach) (core : Nat) : Mach :=
  let (due, rest) := dueZeros [] (m.mqueue core)
  let m1 := due.foldl (fun a z => a.setTile core z.1 (·.zeroed z.2)) (m.setQueue core fun _ => rest)
  ((due.map Prod.fst).eraseDups).foldl (fun a q => a.setTile core q fun t =>
    (queuedTerms q t.e0 rest).foldl MTile.grown t) m1

/-- A MOP's bound term added where it is enqueued (R204, R253); behind an MZERO on its tile it counts once that takes effect. -/
def Mach.growAt (m : Mach) (core : Nat) (e : QEnt) : Mach := match e.cmd with
  | .mop false q _ _ w ha hb =>
    if ((m.mqueue core).takeWhile (· != e)).any fun x => x.cmd matches .mzero _ _ && x.cmd.tile == some q then m
    else m.setTile core q fun t => t.grown (tileTerm t.e0 w ha hb)
  | _ => m

/-- A command of a core's queue leaves it (R250); the tiles of a task that has ended are released after its last (R258). -/
def Mach.leaveQueue (m : Mach) (core : Nat) (e : QEnt) : Mach :=
  let m1 := (m.setQueue core fun l => l.erase e).applyZeros core
  if (m1.find e.gid).isSome then m1 else m1.freeTiles e.gid

/-- A command put into a core's queue: at its tail, or before the running schedule that issued it (R250, R268). -/
def Mach.enqueueCmd (m : Mach) (core : Nat) (g : Gid) (r : Option Nat) (op : Nat) (bySched : Bool) (c : MCmd) : Mach :=
  let m0 := m.tick
  let e : QEnt := { gid := g, rec_ := r, op := op, reach := m0.order, bySched := bySched, cmd := c }
  let put := fun (l : List QEnt) =>
    if bySched then
      l.takeWhile (fun x => x.cmd.tile.isSome) ++ e :: l.dropWhile (fun x => x.cmd.tile.isSome)
    else l ++ [e]
  let m1 := (m0.setQueue core put).growAt core e
  let m2 := match c.tile with
    | some q => m1.setTile core q fun t => { t with lastQ := m0.order }
    | none => m1
  m2.applyZeros core

/-- TRAP_ADDR of a trap on a tile (R246). -/
def tileAddr (q : Nat) : Word := BitVec.ofNat 64 (0x8000000000000000 + q)

/-- PROT of a tile that is not live for the task (R246). -/
def tileProt (q : Nat) : Stop := .xfault 1 0 (tileAddr q) 0

/-- Check 3 of R260. -/
def Mach.ownsTile (m : Mach) (g : Gid) (core q : Nat) : Except Stop Unit :=
  if (m.tile core q).holder = some g then .ok () else .error (tileProt q)

/-- Check 4 of R260: an offset aligned to 64 bytes of which n bytes lie below a limit. -/
def offsetOk (a : Word) (n lim : Nat) : Except Stop Unit :=
  if a.toNat % 64 ≠ 0 then .error (.trap alignTrap a 0)
  else if lim < a.toNat + n then .error (.xfault 1 0 a 0)
  else .ok ()

/-- The header of a block at a key. -/
def Mach.hdrAt (m : Mach) (k : Nat) : Hdr := (m.byte k, m.byte (k + 1))

/-- The first index from i whose header satisfies p. -/
def firstHdr (p : Hdr → Bool) : List Hdr → Nat → Option Nat
  | [], _ => none
  | h :: r, i => if p h then some i else firstHdr p r (i + 1)

/-- FMT_MISMATCH at an address. -/
def mismatchAt (a : Nat) : Stop := .trap fmtMismatch (BitVec.ofNat 64 a) 0

/-- A Kaolin slot that an operation of a context reads as READY (R247). -/
def Mach.slotReady (m : Mach) (cl c slot : Nat) : Bool :=
  let k := Tab.look {} (m.mtx cl).slots slot
  k.state == .ready && k.owner == c

/-- Checks 2 to 6 of R260 for MOP and MOPS by a task on a core: the command, its headers latched (R253).
DEDUCED, log entry 36. -/
def Mach.checkMop (m : Mach) (g : Gid) (core q : Nat) (sparse : Bool) (ta tb : Blk) (a b : Word) (pc : Word) :
    Except Stop MCmd :=
  if ta ≠ tb ∨ (sparse ∧ ta = .s16) then .error (.trap mxCombo pc 0)
  else do
    m.ownsTile g core q
    offsetOk a (if sparse then 4096 else 2048) 65536
    if 64 ≤ b.toNat then .error (.xfault 1 0 b 0)
    else
      let cl := clusterOf core
      let ha := (List.range (if sparse then 64 else 32)).map fun i => m.hdrAt (actKey core (a.toNat + 64 * i))
      let hb := (List.range 128).map fun n => m.hdrAt (kaolinKey cl (8192 * b.toNat + 64 * n))
      match firstHdr (fun h => !blkMark h.1 || blkWidth h.1 != ta) ha 0 with
      | some i => .error (mismatchAt (a.toNat + 64 * i))
      | none =>
        let at_ := 0x8000000000000000 + 8192 * b.toNat
        if !m.slotReady cl (ctxOf g) b.toNat then .error (mismatchAt at_)
        else match firstHdr (fun h => blkWidth h.1 != tb) hb 0 with
          | some n => .error (mismatchAt (at_ + 64 * n))
          | none => .ok (.mop sparse q a.toNat b.toNat ta ha hb)

/-- Checks 3 and 4 of R260 for MCONV. -/
def Mach.checkMconv (m : Mach) (g : Gid) (core q : Nat) (f : McFmt) (ac : Bool) (a : Word) (c : FCtx) : Except Stop MCmd := do
  m.ownsTile g core q
  offsetOk a (if f = .f32 then 16384 else 8192) 32768
  .ok (.mconv q a.toNat f ac c.rnd c.flush)

/-! ### The instructions (R259 to R267) -/

/-- The task in focus parks while its core's queue is full (R250). -/
def Mach.queueRoom (m : Mach) : Except Stop Unit :=
  if queueFull (m.mqueue m.t.core) then .error (.retry .matrix) else .ok ()

/-- A checked command enqueued by the task in focus: the enqueue is a cluster-scope release (R253). -/
def Mach.issueCmd (m : Mach) (sc : Scope) (c : MCmd) : Except Stop Mach := do
  let m1 ← m.releaseAt (some sc)
  .ok (m1.enqueueCmd m1.t.core m1.t.gid m1.t.rec_ m1.t.pc.toNat false c)

/-- MOP and MOPS (R262). -/
def mopM (sparse : Bool) (mod : Option XMod) (ta tb : Blk) (q : Fin 2) (a b : Opnd) (m : Mach) : Except Stop Mach := do
  m.t.bounds [a, b]
  let x ← m.t.raw mod a
  let y ← m.t.raw mod b
  m.queueRoom
  let c ← m.checkMop m.t.gid m.t.core q.val sparse ta tb x y m.t.pc
  m.issueCmd .cl c

/-- MCONV (R263): the rounding mode is XMOD's, or FP_MODE's at enqueue. DEDUCED, log entry 29. -/
def mconvM (mod : Option XMod) (f : McFmt) (ac : Bool) (q : Fin 2) (a : Opnd) (m : Mach) : Except Stop Mach := do
  m.t.bounds [a]
  let x ← m.t.raw none a
  m.queueRoom
  let c ← m.checkMconv m.t.gid m.t.core q.val f ac x (m.t.fctx mod)
  m.issueCmd .cl c

/-- A tile made live for a task (R246). -/
def MTile.live (t : MTile) (g : Gid) : MTile :=
  if t.holder = some g then t else { t with holder := some g, lastCtx := some (ctxOf g) }

/-- MZERO by a task on a core (R261). -/
def Mach.zeroTile (m : Mach) (g : Gid) (r : Option Nat) (core q op : Nat) (e : Int) (bySched : Bool) : Except Stop Mach :=
  match (m.tile core q).holder with
  | some h =>
    if h = g then .ok (m.enqueueCmd core g r op bySched (.mzero q e)) else .error (tileProt q)
  | none => .ok ((m.setTile core q (·.live g)).enqueueCmd core g r op bySched (.mzero q e))

/-- MZERO (R261). -/
def mzeroM (q : Fin 2) (e : Int) (m : Mach) : Except Stop Mach :=
  m.zeroTile m.t.gid m.t.rec_ m.t.core q.val m.t.pc.toNat e false

/-- MQW (R264). -/
def mqwM (k : Nat) (m : Mach) : Except Stop Mach :=
  .ok (m.setMtx (clusterOf m.t.core) fun x => { x with weights := Tab.put 1 x.weights (256 * coreIdx m.t.core + m.cur) k })

/-- A command on tile q that reached a core's queue before a place in the order is not finished (R265).
DEDUCED, log entry 35. -/
def Mach.openOn (m : Mach) (core q upTo : Nat) : Bool :=
  (m.mqueue core).any fun e => e.cmd.tile == some q && decide (e.reach ≤ upTo)

/-- MWAIT once its commands have finished (R254, R246): its acquire, and the tile's release where no command was queued on
it since the previous MWAIT. DEDUCED, log entry 35. -/
def Mach.waited (m : Mach) (q upTo : Nat) : Mach :=
  let m1 := { m with t := m.t.acquire .cl m.order }
  m1.setTile m.t.core q fun t =>
    { t with holder := if t.lastQ ≤ t.waited then none else t.holder, waited := upTo }

/-- MWAIT (R265). DEDUCED, log entry 35. -/
def mwaitM (q : Fin 2) (m : Mach) : Except Stop Mach :=
  match (m.tile m.t.core q.val).holder with
  | none => .ok m
  | some h =>
    if h ≠ m.t.gid then .error (tileProt q.val)
    else if m.openOn m.t.core q.val m.order then
      .ok { m with t := { m.t with phase := .parked (.mwait q.val m.order) } }
    else .ok (m.waited q.val m.order)

/-- The status word of a tile for a task (R266). -/
def Mach.tileStatus (m : Mach) (core q : Nat) (g : Gid) : Nat :=
  let t := m.tile core q
  let bit := fun (b : Bool) (k : Nat) => if b then 2 ^ k else 0
  let queued := ((m.mqueue core).filter fun e => e.counts && e.cmd.tile == some q).length
  if t.lastCtx ≠ some (ctxOf g) then 0
  else
    t.ops % 65536 * 2 ^ 32 + bit t.holder.isSome 31 + bit (decide (t.holder = some g)) 30 + queued % 32 * 2 ^ 25 +
      (t.e0 % 512).toNat * 2 ^ 16 + bit t.metaBad 7 + bit t.cvt 6 + bit t.boundHit 5 + bit t.shift 4 + bit t.uf 2 +
      bit t.of 1 + bit t.nx 0

/-- MSTAT (R266). -/
def mstatT (m : Mach) (d : Opnd) (q : Fin 2) (t : Task) : Except Stop Task := do
  t.bounds [d]
  .ok (t.wr d (BitVec.ofNat 64 (m.tileStatus t.core q.val t.gid)) .raw)

/-- MSCHED (R267): a device-scope release; check 4 of R260 covers its operands. -/
def mschedM (mod : Option XMod) (a b : Opnd) (m : Mach) : Except Stop Mach := do
  m.t.bounds [a, b]
  let x ← m.t.raw mod a
  let y ← m.t.raw mod b
  m.queueRoom
  if x.toNat % 64 ≠ 0 then .error (.trap alignTrap x 0)
  else if y.toNat % 16 ≠ 0 then .error (.trap alignTrap y 0)
  else if 65536 < y.toNat + 16 then .error (.xfault 1 0 y 0)
  else
    let c := m.t.fctx none
    m.issueCmd .dv (.msched { table := x.toNat, bar := y.toNat, rnd := c.rnd, flush := c.flush })

/-! ### The arbiter and the arrays (R251, R252, R256, R257) -/

/-- A context's commands may start at a unit: it is not stopped, nor is a halt on its way (R171, R258). -/
def Mach.mtxRuns (m : Mach) (cl c : Nat) : Bool :=
  !(m.mtx cl).stopped.contains c && !(m.ctx c).halt.line && !(m.ctx c).killed

/-- The weight of a core for a context (R251). -/
def Matrix.weight (x : Matrix) (i c : Nat) : Nat := Tab.look 1 x.weights (256 * i + c)

/-- The blocks of an operation's A tile. -/
def mopBlocks (sparse : Bool) : Nat := if sparse then 64 else 32

/-- The blocks of an operation that a row buffer holds. -/
def blocksHeld (r : Option RowBuf) (e : QEnt) : Tab (List Byte) := match r with
  | some r => if r.ent = e then r.blocks else []
  | none => []

/-- The operation that a core's row buffer is fed for, with its A offset and the blocks still to read (R252): the head of its
queue, unless it is on the arrays already. -/
def Mach.feeding (m : Mach) (cl i : Nat) : Option (QEnt × Nat × List Nat) :=
  let x := m.mtx cl
  match Tab.look [] x.queues i with
  | [] => none
  | e :: _ => match e.cmd with
    | .mop sparse _ a _ _ _ _ =>
      let held := blocksHeld (Tab.look none x.rows i) e
      if !m.mtxRuns cl (ctxOf e.gid) || x.run.any (·.ent == e) then none
      else some (e, a, (List.range (mopBlocks sparse)).filter fun k => (Tab.look [] held k).isEmpty)
    | _ => none

/-- A block of an A tile read into a core's row buffer (R253). -/
def Mach.feedBlock (m : Mach) (cl i : Nat) (e : QEnt) (a k : Nat) : Mach :=
  let core := 8 * cl + i
  let bs := m.peek (actKey core (a + 64 * k)) 64
  let put := fun (r : Option RowBuf) => some (⟨e, Tab.put [] (blocksHeld r e) k bs⟩ : RowBuf)
  let m1 := (m.noteAct core (a + 64 * k) 64).setMtx cl fun x => { x with rows := Tab.upd none x.rows i put }
  { m1 with free := m.free + 1 }

/-- The feed of the first core that has a block to read: one block, at one instant, in no fixed order (R253).
DEDUCED, log entry 36. -/
def Mach.feedNext (m : Mach) (cl : Nat) : Option Mach :=
  (List.range 8).findSome? fun i => match m.feeding cl i with
    | some (e, a, k :: ks) => some (m.feedBlock cl i e a ((k :: ks).getD (Config.feedNext m.free % (ks.length + 1)) k))
    | _ => none

/-- What the arbiter finds at the head of a core's queue: nothing to start, an operation, or one that waits for metadata. -/
inductive Head where
  | none
  | start (e : QEnt)
  | stall (e : QEnt)
  deriving DecidableEq, Repr

/-- The head of core i's queue (R251, R257); `used` operations of it have started at this visit. -/
def Mach.headOf (m : Mach) (cl i used : Nat) : Head :=
  let x := m.mtx cl
  match Tab.look [] x.queues i with
  | [] => .none
  | e :: _ => match e.cmd with
    | .mop sparse _ _ _ w _ _ =>
      if !m.mtxRuns cl (ctxOf e.gid) || decide (x.weight i (ctxOf e.gid) ≤ used) then .none
      else if sparse && decide ((Tab.look [] x.metaq i).length < metaNeed w) then .stall e
      else .start e
    | _ => .none

/-- The arbiter's walk from core i, of whose queue `used` operations have started at this visit: the core it stands at,
that visit's count, and the head it found; n bounds the cores it passes. -/
def Mach.walkHeads (m : Mach) (cl : Nat) : Nat → Nat → Nat → Nat × Nat × Head
  | i, used, 0 => (i, used, .none)
  | i, used, n + 1 => match m.headOf cl i used with
    | .none => m.walkHeads cl ((i + 1) % 8) 0 n
    | h => (i, used, h)

/-- The bytes of a row buffer. -/
def RowBuf.bytes (r : RowBuf) : List Byte := r.blocks.flatMap Prod.snd

/-- An operation started on the arrays (R252, R256): its row buffer broadcasts, its metadata entries are popped, and a MOPS's bound
term, which they decide, is added (R204). DEDUCED, log entry 36. -/
def Mach.startOp (m : Mach) (cl i : Nat) (e : QEnt) : Mach :=
  match e.cmd with
  | .mop sparse q _ _ w ha hb =>
    let x := m.mtx cl
    let metas := if sparse then (Tab.look [] x.metaq i).take (metaNeed w) else []
    let data := match Tab.look none x.rows i with
      | some r => r.bytes
      | none => []
    let m1 := m.setMtx cl fun x =>
      { x with
        metaq := Tab.upd [] x.metaq i (·.drop metas.length)
        rows := Tab.put none x.rows i none
        run := some ⟨8 * cl + i, e, data, metas⟩ }
    if sparse then m1.setTile (8 * cl + i) q fun t => t.grown (sparseTerm t.e0 w metas ha hb) else m1
  | _ => m

/-- TILE_OP_START (R251, R252): a feed goes on; with every head fed, the arbiter starts an operation, or stalls on metadata
(R257). DEDUCED, log entry 36. -/
def Mach.tileOpStart (m : Mach) (cl : Nat) : Mach :=
  match m.feedNext cl with
  | some m1 => m1
  | none =>
    let x := m.mtx cl
    if x.run.isSome then m
    else
      let (i, used, h) := m.walkHeads cl x.visit x.used 9
      match h with
      | .none => m.setMtx cl fun y => { y with stalledAt := none }
      | .start e => (m.setMtx cl fun y => { y with visit := i, used := used + 1, stalledAt := none }).startOp cl i e
      | .stall _ => m.setMtx cl fun y => { y with visit := i, used := used, stalledAt := some (y.stalledAt.getD m.cycle) }

/-- The sequencer of a cluster stalls (R257): it neither starts nor converts nor runs a schedule. -/
def Mach.stalled (m : Mach) (cl : Nat) : Bool :=
  let x := m.mtx cl
  x.stalledAt.isSome && (match (m.walkHeads cl x.visit x.used 9).2.2 with
    | .stall _ => true
    | _ => false)

/-- The 64-byte blocks of a list of bytes. -/
def blocksOf (bs : List Byte) : Nat → List (List Byte)
  | 0 => []
  | n + 1 => bs.take 64 :: blocksOf (bs.drop 64) n

/-- TILE_OP_FINAL (R252, R262). -/
def Mach.tileOpFinal (m : Mach) (cl : Nat) : Mach :=
  match (m.mtx cl).run with
  | none => m
  | some r => match r.ent.cmd with
    | .mop sparse q _ slot w ha hb =>
      let ad := (blocksOf r.adata (mopBlocks sparse)).map payloadOf
      let bd := (blocksOf (m.peek (kaolinKey cl (8192 * slot)) 8192) 128).map payloadOf
      let c := ctxOf r.ent.gid
      let m1 := m.setMtx cl fun x => { x with run := none, finished := Tab.upd 0 x.finished c (· + 1) }
      (m1.setTile r.core q (·.addOp w sparse r.metas ha hb ad bd)).leaveQueue r.core r.ent
    | _ => m

/-- The unit code of a matrix unit. -/
def mtxParty (cl : Nat) : Nat := unitCode (.matrix cl)

/-- The conversion at the head of a core's queue, where it may run. -/
def Mach.headConv (m : Mach) (core : Nat) : Option (QEnt × Nat × Nat × McFmt × Bool × FCtx) :=
  match m.mqueue core with
  | e :: _ => match e.cmd with
    | .mconv q a f ac rnd fl =>
      if m.mtxRuns (clusterOf core) (ctxOf e.gid) && !m.stalled (clusterOf core) then
        some (e, q, a, f, ac, { rnd := rnd, flush := fl })
      else none
    | _ => none
  | [] => none

/-- Bytes written to the accumulator buffer by a conversion, in pieces of 64 (R249). -/
def Mach.writeAcc (m : Mach) (g : Gid) (core : Nat) : Nat → List (List Byte) → Mach
  | _, [] => m
  | a, b :: r =>
    let l : Loc := ⟨accKey core a, BitVec.ofNat 64 (core * 2 ^ 20 + a), .cluster (clusterOf core), 4, false, false, none⟩
    (m.write g (mtxParty (clusterOf core)) l b).writeAcc g core (a + 64) r

/-- A queued command changed where it stands. -/
def Mach.setEnt (m : Mach) (core : Nat) (e e1 : QEnt) : Mach := m.setQueue core fun l => l.map fun x => if x = e then e1 else x

/-- MCONV_COMPLETE (R263, R258): the conversion at the head of a core's queue writes its next column, and after its last it leaves
the queue; it holds while the log has no room (23 R401). DEDUCED, log entry 36. -/
def Mach.mconvComplete (m : Mach) (core : Nat) : Mach :=
  match m.headConv core with
  | none => m
  | some (e, q, a, f, ac, c) =>
    let n := 32 * (mcFmt f).2
    let at_ := a + n * e.cols
    let (bs, fl) := convColumn f c (m.tile core q) ac e.cols (m.peek (accKey core at_) n)
    let m1 := (m.writeAcc e.gid core at_ (blocksOf bs (n / 64))).setTile core q (·.flagged fl)
    m.orHold (ctxOf e.gid) (if e.cols < 127 then m1.setEnt core e { e with cols := e.cols + 1 } else m1.leaveQueue core e)

/-- METADATA_STALL_TIMEOUT (R257). -/
def Mach.metaTimeout (m : Mach) (cl : Nat) : Mach :=
  let x := m.mtx cl
  match x.stalledAt with
  | none => m
  | some at_ =>
    if m.cycle < at_ + 1048576 then m
    else match (m.walkHeads cl x.visit x.used 9).2.2 with
      | .stall e =>
        let i := (m.walkHeads cl x.visit x.used 9).1
        let r : ErrRec := { code := 0x6005, severity := 2, action := 3, unit := 0, valid := 3, task := e.gid, detail := i }
        (m.setMtx cl fun y => { y with stalledAt := none }).unitFault (ctxOf e.gid) (.matrix cl) e.op 0 r
      | _ => m.setMtx cl fun y => { y with stalledAt := none }

/-! ### Schedules (R267, R268) -/

/-- The schedule at the head of what a core's queue still holds, behind the commands it issued, where it may run. -/
def Mach.headSched (m : Mach) (core : Nat) : Option (QEnt × Sched) :=
  match (m.mqueue core).dropWhile fun e => e.bySched && e.cmd.tile.isSome with
  | e :: _ => match e.cmd with
    | .msched s => if m.mtxRuns (clusterOf core) (ctxOf e.gid) then some (e, s) else none
    | _ => none
  | [] => none

/-- A schedule in a core's queue changed. -/
def Mach.setSched (m : Mach) (core : Nat) (e : QEnt) (s : Sched) : Mach :=
  m.setQueue core fun l => l.map fun x => if x = e then { x with cmd := .msched s } else x

/-- A failed check, or a malformed entry or header: the schedule stops there (R268). -/
def Mach.schedFault (m : Mach) (core : Nat) (e : QEnt) (at_ : Nat) : Mach :=
  let r : ErrRec := { code := 0x6006, severity := 2, action := 3, unit := 0, valid := 3, task := e.gid, detail := at_ }
  m.unitFault (ctxOf e.gid) (.matrix (clusterOf core)) at_ 0 r

/-- The sequencer of a cluster. -/
def seqOf (core : Nat) : EngRef := ⟨.sequencer, clusterOf core⟩

/-- The copy engine of a cluster. -/
def copyOf (core : Nat) : EngRef := ⟨.copy, clusterOf core⟩

/-- The sequencer waits for the resolution of a page fault (15 R288). -/
def Mach.seqWaits (m : Mach) (core c : Nat) : Bool :=
  m.faults.any fun (_, f) => match f with
    | some x => x.ctx == c && x.engs.contains (seqOf core)
    | none => false

/-- A read of the table by the sequencer: its bytes, or a page fault entered in the buffer, or the rights failure that
faults the unit. -/
def Mach.seqRead (m : Mach) (core : Nat) (e : QEnt) (at_ n : Nat) : Except Mach (List Byte × Mach) :=
  let va := BitVec.ofNat 64 at_
  match m.reach (ctxOf e.gid) (clusterOf core) va n accRead with
  | .ok (l, m1) => .ok (m1.read l n)
  | .error k =>
    if k = 1 then
      let r : ErrRec := { code := 0x6009, severity := 2, action := 3, unit := 0, valid := 7, task := e.gid, addr := at_ }
      .error (m.unitFault (ctxOf e.gid) (.matrix (clusterOf core)) at_ 0 r)
    else .error (m.enterFault (ctxOf e.gid) va k (accRead + accEngine) none (some (seqOf core))).2

/-- A schedule's header read (R267). DEDUCED, log entry 38. -/
def Mach.schedHeader (m : Mach) (core : Nat) (e : QEnt) (s : Sched) : Mach :=
  match m.seqRead core e s.table 64 with
  | .error m1 => m1
  | .ok (bs, m1) =>
    let count := leNat ((bs.drop 4).take 4)
    if leNat (bs.take 4) ≠ 0x4D530001 ∨ count = 0 ∨ 65536 < count then m1.schedFault core e s.table
    else m1.setSched core e { s with started := true, count := count, credit := leNat ((bs.drop 8).take 8) }

/-- The block tag of a type field (R255). -/
def tagBlk : Nat → Option Blk
  | 10 => some .s16
  | 11 => some .s8
  | 12 => some .s4
  | 13 => some .s2
  | _ => none

/-- What a schedule's entry says (R267). -/
inductive SEntry where
  | mzero (q : Nat) (e : Int)
  | mop (sparse : Bool) (q : Nat) (ta tb : Blk) (a slot : Nat)
  | mconv (q : Nat) (f : McFmt) (ac : Bool) (a : Nat)
  | loadb (slot addr : Nat)
  deriving DecidableEq, Repr

/-- An entry read; none where it is malformed: a reserved bit set, or a field that is to be 0. DEDUCED, log entry 38. -/
def schedEntry (bs : List Byte) : Option SEntry :=
  let f := fun (i n : Nat) => leNat ((bs.drop i).take n)
  let q := f 1 1
  let v := f 2 1
  if f 3 1 ≠ 0 ∨ 2 ≤ q then none
  else match f 0 1 with
    | 1 => if v = 0 ∧ f 6 2 = 0 ∧ f 8 8 = 0 then
        let e := signedOf 16 (f 4 2)
        if -256 ≤ e ∧ e ≤ 255 then some (.mzero q e) else none
      else none
    | 4 => if f 6 2 = 0 ∧ f 8 8 = 0 then
        match v with
        | 2 => some (.mconv q .f32 false (f 4 2))
        | 3 => some (.mconv q .bf16 false (f 4 2))
        | 18 => some (.mconv q .f32 true (f 4 2))
        | 19 => some (.mconv q .bf16 true (f 4 2))
        | _ => none
      else none
    | 5 => if v = 0 ∧ q = 0 ∧ f 4 2 = 0 ∧ f 6 2 < 64 ∧ f 8 8 % 64 = 0 then some (.loadb (f 6 2) (f 8 8)) else none
    | k => if (k = 2 ∨ k = 3) ∧ f 8 8 = 0 then
        match tagBlk (v % 16), tagBlk (v / 16) with
        | some ta, some tb => some (.mop (k == 3) q ta tb (f 4 2) (f 6 2))
        | _, _ => none
      else none

/-- A load that a schedule of a core handed over for a slot is not finished (R268). DEDUCED, log entry 37. -/
def Mach.loadOpen (m : Mach) (core slot : Nat) : Bool :=
  let e := m.eng (copyOf core)
  let mine := fun (c : ECmd) => c.bySched && c.core == core && c.dst.toNat == slot
  (match e.active with | some o => mine o.cmd | none => false) ||
    (match e.shadow with | some c => mine c | none => false) || e.pend.any mine

/-- The command a LOADB entry hands to the copy engine (R247, 18 R335): an MLOADB without a barrier.
DEDUCED, log entry 37. -/
def loadbCmd (core : Nat) (e : QEnt) (at_ slot addr : Nat) : ECmd :=
  { hdr := BitVec.ofNat 64 (6 + 4096), dst := BitVec.ofNat 64 slot, src := BitVec.ofNat 64 addr, len := 8192,
    ctx := ctxOf e.gid, core := core, gid := e.gid, rec_ := e.rec_, op := at_, bySched := true }

/-- A schedule has 16 commands of its own queued; the core's later commands wait behind it and hold it up in nothing (R268).
DEDUCED, log entry 37. -/
def Mach.schedFull (m : Mach) (core : Nat) : Bool :=
  queueFull ((m.mqueue core).takeWhile fun e => e.bySched && e.cmd.tile.isSome)

/-- An entry acts as the instruction it names (R268): none while it waits for room or for a load. DEDUCED, log entry 37. -/
def Mach.runEntry (m : Mach) (core : Nat) (e : QEnt) (s : Sched) (at_ : Nat) : SEntry → Option (Except Stop Mach)
  | .mzero q x => some (m.zeroTile e.gid e.rec_ core q at_ x true)
  | .mop sparse q ta tb a slot =>
    if m.schedFull core || m.loadOpen core slot then none
    else some (match m.checkMop e.gid core q sparse ta tb (BitVec.ofNat 64 a) (BitVec.ofNat 64 slot) 0 with
      | .ok c => .ok (m.enqueueCmd core e.gid e.rec_ at_ true c)
      | .error x => .error x)
  | .mconv q f ac a =>
    if m.schedFull core then none
    else some (match m.checkMconv e.gid core q f ac (BitVec.ofNat 64 a) { rnd := s.rnd, flush := s.flush } with
      | .ok c => .ok (m.enqueueCmd core e.gid e.rec_ at_ true c)
      | .error x => .error x)
  | .loadb slot addr =>
    if m.loadOpen core slot || (m.eng (copyOf core)).full then none
    else some (.ok (m.setEng (copyOf core) fun x => x.accept (loadbCmd core e at_ slot addr)))

/-- SCHEDULE_ENTRY (R268): the header, or the next entry, of the schedule at a core's head. -/
def Mach.scheduleEntry (m : Mach) (core : Nat) : Mach :=
  match m.headSched core with
  | none => m
  | some (e, s) =>
    if m.seqWaits core (ctxOf e.gid) || m.stalled (clusterOf core) then m
    else if !s.started then m.schedHeader core e s
    else if s.count ≤ s.next then m
    else
      let at_ := s.table + 64 + 16 * s.next
      match m.seqRead core e at_ 16 with
      | .error m1 => m1
      | .ok (bs, m1) => match schedEntry bs with
        | none => m1.schedFault core e at_
        | some x => match m1.runEntry core e s at_ x with
          | none => m
          | some (.error _) => m1.schedFault core e at_
          | some (.ok m2) => m2.setSched core e { s with next := s.next + 1 }

/-- A schedule has nothing left to issue, and the commands it issued have finished. DEDUCED, log entry 37. -/
def Mach.schedDone (m : Mach) (core : Nat) : Option (QEnt × Sched) :=
  match m.headSched core, m.mqueue core with
  | some (e, s), h :: _ => if h = e ∧ s.started ∧ s.count ≤ s.next then some (e, s) else none
  | _, _ => none

/-- SCHEDULE_END (R268): CREDIT bytes credited to the barrier. DEDUCED, log entry 37. -/
def Mach.scheduleEnd (m : Mach) (core : Nat) : Mach :=
  match m.schedDone core with
  | none => m
  | some (e, s) =>
    if m.stalled (clusterOf core) then m
    else if s.credit = 0 then m.leaveQueue core e
    else m.orHold (ctxOf e.gid) ((m.credit e.gid (mtxParty (clusterOf core)) core s.bar s.credit 0).leaveQueue core e)

end Sys2Proof.Machine
end

