-- ==== Sys2Proof/Machine/ScalarOps.lean ====
section
/-! DEFINITION. The effects of page 0 on one task: integer arithmetic, addresses, comparisons, transfers (05), the
window forms (08 R162, R163) and the tag instructions (08 R164). -/

namespace Sys2Proof.Machine

/-! ### Values (05's helpers, R87) -/

/-- An exact integer modulo 2^64. -/
def low64 (v : Int) : Word := BitVec.ofInt 64 v

/-- An exact integer clamped to the signed range of 64 bits. -/
def sat64 (v : Int) : Word :=
  if v < -(2 ^ 63 : Int) then BitVec.ofInt 64 (-(2 ^ 63)) else if (2 ^ 63 : Int) ≤ v then BitVec.ofInt 64 (2 ^ 63 - 1)
  else BitVec.ofInt 64 v

/-- SAT of XMOD. -/
def satOf : Option XMod → Bool
  | some x => x.sat
  | none => false

/-- An exact signed result, saturated under SAT (R87). -/
def clampIf (s : Bool) (v : Int) : Word := if s then sat64 v else low64 v

/-- A shift count: the low six bits of b (R89). -/
def shiftCount (b : Word) : Nat := b.toNat % 64

/-- Signed division, truncated toward zero, −2^63 / −1 giving −2^63 (R90). -/
def sdivW (a b : Word) : Word := low64 (Int.tdiv a.toInt b.toInt)

/-- Signed remainder, with the sign of the dividend (R90). -/
def sremW (a b : Word) : Word := low64 (Int.tmod a.toInt b.toInt)

/-- LEA's shift (R91). -/
def scaleShift : Scale → Nat
  | .x1 => 0
  | .x2 => 1
  | .x4 => 2
  | .x8 => 3
  | .x64 => 6

/-- The position of a bit field (R92). -/
def bfPos (b : Word) : Nat := b.toNat % 64

/-- The width of a bit field: 0 means 64 (R92). -/
def bfWid (b : Word) : Nat := if b.toNat / 256 % 64 = 0 then 64 else b.toNat / 256 % 64

/-- Ones in bits pos to min(pos + wid, 64) − 1 (R92). -/
def bfMask (b : Word) : Word := BitVec.ofNat 64 ((2 ^ bfWid b - 1) * 2 ^ bfPos b)

/-- BFX (R92). -/
def bfxW (a b : Word) : Word := (a &&& bfMask b) >>> bfPos b

/-- BFI (R92). -/
def bfiW (a b c : Word) : Word := (c &&& ~~~bfMask b) ||| ((a <<< bfPos b) &&& bfMask b)

/-- The number of leading zeros of n seen as a number of k bits. -/
def clzNat (n : Nat) : Nat → Nat
  | 0 => 0
  | k + 1 => if n.testBit k then 0 else 1 + clzNat n k

/-- Leading zeros (R96). -/
def clzW (a : Word) : Nat := clzNat a.toNat 64

/-- Trailing zeros, counted through at most `fuel` bits from bit i. -/
def ctzFrom (a : Word) (i : Nat) : Nat → Nat
  | 0 => 0
  | k + 1 => if a.getLsbD i then 0 else 1 + ctzFrom a (i + 1) k

/-- Trailing zeros (R96). -/
def ctzW (a : Word) : Nat := ctzFrom a 0 64

/-- The number of ones below bit k. -/
def popBelow (a : Word) : Nat → Nat
  | 0 => 0
  | k + 1 => (if a.getLsbD k then 1 else 0) + popBelow a k

/-- Population count (R96). -/
def popcW (a : Word) : Nat := popBelow a 64

/-- The value of a's low k bits reversed. -/
def revBelow (a : Word) : Nat → Nat
  | 0 => 0
  | k + 1 => (if a.getLsbD k then 2 ^ (63 - k) else 0) + revBelow a k

/-- Bit reversal (R96). -/
def brevW (a : Word) : Word := BitVec.ofNat 64 (revBelow a 64)

/-- The low n bits, sign-extended. -/
def sextBits (n : Nat) (a : Word) : Word := (a.setWidth n).signExtend 64

/-- The low n bits, zero-extended. -/
def zextBits (n : Nat) (a : Word) : Word := (a.setWidth n).setWidth 64

/-- The relations of CMP and CMPI (R99). -/
def condHolds : Cond → Word → Word → Bool
  | .eq, x, y => x == y
  | .ne, x, y => x != y
  | .lt, x, y => decide (x.toInt < y.toInt)
  | .le, x, y => decide (x.toInt ≤ y.toInt)
  | .ltn, x, y => decide (x.toNat < y.toNat)
  | .len, x, y => decide (x.toNat ≤ y.toNat)
  | .gt, x, y => decide (y.toInt < x.toInt)
  | .ge, x, y => decide (y.toInt ≤ x.toInt)

/-! ### Result tags (R86) -/

/-- ADD, SUB and ADDI: an address when exactly one source is one. -/
def sumTag (a b : Tag) : Tag := if (a == .addr) != (b == .addr) then .addr else .raw

/-- MOV and SEL: the source's tag; unwritten gives raw. -/
def movTag (a : Tag) : Tag := if a = .unwritten then .raw else a

/-! ### Effects -/

/-- A value of two operands, and a result tag: the three-operand integer instructions (R85, R86, R89). -/
def binT (m : Option XMod) (d a b : Opnd) (f : Word → Word → Word) (g : Tag) (t : Task) : Except Stop Task := do
  t.bounds [d, a, b]
  let x ← t.raw m a
  let y ← t.raw m b
  .ok (t.wr d (f x y) g)

/-- The marks of a sum (R370): none where every marked source is concretized. -/
def addMark : Option Mark → Option Mark → Option (Option Mark)
  | none, k => some k
  | some k, none => some (some k)
  | some k, some l => if k.slot = l.slot ∧ k.neg ≠ l.neg then some none else none

/-- The marks of a difference (R370). -/
def subMark : Option Mark → Option Mark → Option (Option Mark)
  | none, none => some none
  | some k, none => some (some k)
  | none, some l => some (some { l with neg := !l.neg })
  | some k, some l => if k = l then some none else none

/-- A sum or a difference with the mark the region's rules give (R370); `none` concretizes the marked sources. -/
def sumT (m : Option XMod) (d a b : Opnd) (f : Word → Word → Word)
    (mk : Option Mark → Option Mark → Option (Option Mark)) (t : Task) : Except Stop Task := do
  t.bounds [d, a, b]
  let x ← t.raw m a
  let y ← t.raw m b
  let g := sumTag (t.tag a) (t.tag b)
  match mk (t.markOf a.key) (t.markOf b.key) with
  | some k => .ok (t.wrMark d (f x y) g k)
  | none => .ok ((t.conc [a.key, b.key]).wr d (f x y) g)

/-- ADD (R89, R370). -/
def addT (m : Option XMod) (d a b : Opnd) : Task → Except Stop Task :=
  sumT m d a b (fun x y => clampIf (satOf m) (x.toInt + y.toInt)) addMark

/-- SUB (R89, R370). -/
def subT (m : Option XMod) (d a b : Opnd) : Task → Except Stop Task :=
  sumT m d a b (fun x y => clampIf (satOf m) (x.toInt - y.toInt)) subMark

/-- The region's rule for ADD, SUB and ADDI: under SAT the marked sources are concretized (R370). -/
def sumRule (m : Option XMod) (os : List Opnd) : RRule := if satOf m then .conc (keysOf os) else .own

/-- A division: DIV_ZERO on a zero divisor (R90). -/
def divT (m : Option XMod) (d a b : Opnd) (f : Word → Word → Word) (t : Task) : Except Stop Task := do
  t.bounds [d, a, b]
  let x ← t.raw m a
  let y ← t.raw m b
  if y = 0 then .error (.trap divZero t.pc 0) else .ok (t.wr d (f x y) .raw)

/-- BFI (R92): field c is the value inserted into. -/
def bfiT (m : Option XMod) (d a b c : Opnd) (t : Task) : Except Stop Task := do
  t.bounds [d, a, b, c]
  let x ← t.raw m a
  let y ← t.raw m b
  let z ← t.raw m c
  .ok (t.wr d (bfiW x y z) .raw)

/-- SEL (R93): only c is tag-checked. -/
def selT (m : Option XMod) (d a b c : Opnd) (t : Task) : Except Stop Task := do
  t.bounds [d, a, b, c]
  let z ← t.raw m c
  let o := if z = 0 then b else a
  .ok (t.wr d (t.val o) (movTag (t.tag o)))

/-- ADDI (R94, R370). -/
def addiT (m : Option XMod) (d a : Opnd) (imm : Int) (t : Task) : Except Stop Task := do
  t.bounds [d, a]
  let x ← t.raw m a
  .ok (t.wrMark d (clampIf (satOf m) (x.toInt + imm)) (sumTag (t.tag a) .raw) (t.markOf a.key))

/-- A write of a value that no register gives: MOVI, WID, TINFO (R95, R98). -/
def putT (d : Opnd) (v : Word) (g : Tag) (t : Task) : Except Stop Task := do
  t.bounds [d]
  .ok (t.wr d v g)

/-- MOV: no tag check; the mark moves with the value (R96, R370). -/
def movT (d a : Opnd) (t : Task) : Except Stop Task := do
  t.bounds [d, a]
  .ok (t.wrMark d (t.val a) (movTag (t.tag a)) (t.markOf a.key))

/-- The one-operand forms of major 0x6 (R96, R97). -/
def unT (m : Option XMod) (d a : Opnd) (f : Word → Word) (t : Task) : Except Stop Task := do
  t.bounds [d, a]
  let x ← t.raw m a
  .ok (t.wr d (f x) .raw)

/-- NEG (R96). -/
def negW (s : Bool) (a : Word) : Word := clampIf s (-a.toInt)

/-- ABS (R96). -/
def absW (s : Bool) (a : Word) : Word := clampIf s (if a.toInt < 0 then -a.toInt else a.toInt)

/-- Width of field n of WID_SHAPE (R73). -/
def widWidth (shape : BitVec 36) (n : Nat) : Nat := shape.toNat / 2 ^ (6 * n) % 64

/-- The first bit of field n (R73). -/
def widBase (shape : BitVec 36) : Nat → Nat
  | 0 => 0
  | n + 1 => widBase shape n + widWidth shape n

/-- Field n of the work identifier (R74). -/
def widField (shape : BitVec 36) (w : Word) (n : Nat) : Word :=
  BitVec.ofNat 64 (w.toNat / 2 ^ widBase shape n % 2 ^ widWidth shape n)

/-- A comparison's predicate and, in a region, its constraint (R99, R364, R370). A register operand b gives its key. -/
def cmpT (m : Option XMod) (c : Cond) (p : Fin 8) (a : Opnd) (b : Opnd ⊕ Int) (t : Task) : Except Stop Task := do
  t.bounds (match b with | .inl o => [a, o] | .inr _ => [a])
  let x ← t.raw m a
  let y ← match b with | .inl o => t.raw m o | .inr i => .ok (BitVec.ofInt 64 i)
  let kb := match b with | .inl o => t.markOf o.key | .inr _ => none
  let r := condHolds c x y
  let t1 := t.setPredAll p r
  match t.markOf a.key, kb with
  | none, none => .ok t1
  | some k, none => .ok { t1 with region := t1.region.map fun g => { g with cons := g.cons ++ [⟨k, false, c, x, y, r⟩] } }
  | none, some k => .ok { t1 with region := t1.region.map fun g => { g with cons := g.cons ++ [⟨k, true, c, x, y, r⟩] } }
  | some k, some l => .ok { t1 with region := t1.region.map fun g => (g.pin k.slot).pin l.slot }

/-- The target of a relative transfer: the instruction's address plus twice the offset (R36). -/
def Task.target (t : Task) (off : Int) : Word := t.pc + BitVec.ofInt 64 (2 * off)

/-- A transfer: the next instruction issued stands at the target. -/
def Task.jump (t : Task) (a : Word) : Task := { t with npc := a }

/-- BC and BC.n: lane 0 of member 0 against the sense (R100). -/
def bcT (p : Fin 8) (sense : Bool) (off : Int) (t : Task) : Except Stop Task :=
  .ok (if t.lane0 p = sense then t.jump (t.target off) else t)

/-- The link of a call, in w0 and lt (R101). -/
def Task.link (t : Task) : Task := t.wr (.slot 0) t.npc .addr

/-- CALL (R101). -/
def callT (off : Int) (t : Task) : Except Stop Task := do
  t.bounds [.slot 0]
  .ok (t.link.jump (t.target off))

/-- ALIGN on an odd target (R59). -/
def evenTarget (a : Word) : Except Stop Unit := if a.getLsbD 0 then .error (.trap alignTrap a 0) else .ok ()

/-- BRI (R102). -/
def briT (a : Opnd) (t : Task) : Except Stop Task := do
  t.bounds [a]
  evenTarget (t.val a)
  .ok (t.jump (t.val a))

/-- CALLI: the target is read before the link is written (R102). -/
def calliT (a : Opnd) (t : Task) : Except Stop Task := do
  t.bounds [a, .slot 0]
  evenTarget (t.val a)
  .ok (t.link.jump (t.val a))

/-- RET (R102). -/
def retT (t : Task) : Except Stop Task := do
  evenTarget (t.val (.slot 0))
  .ok (t.jump (t.val (.slot 0)))

/-- LOOP (R104). -/
def loopT (m : Option XMod) (a : Opnd) (off : Int) (t : Task) : Except Stop Task := do
  t.bounds [a]
  let x ← t.raw m a
  let t1 := t.wr a (x - 1) .raw
  .ok (if x - 1 = 0 then t1 else t1.jump (t.target off))

/-! ### The window (08 R162, R163) -/

/-- An index register. -/
def Task.xr (t : Task) (x : Fin 4) : BitVec 16 := Tab.look 0 t.x x.val

/-- An index register written. -/
def Task.setX (t : Task) (x : Fin 4) (v : BitVec 16) : Task := { t with x := Tab.put 0 t.x x.val v }

/-- The slot LDX and STX name: (x + k) mod 2^16 (R162). -/
def Task.window (t : Task) (x : Fin 4) (k : Nat) : Nat := ((t.xr x).toNat + k) % 65536

/-- The bounds of LDX and STX: the window's slot and an XREG d (R145, R469). -/
def Task.windowBounds (t : Task) (d : Opnd) (j : Nat) : Except Stop Unit :=
  boundsOf ((if t.alloc ≤ j then [j] else []) ++ t.badScalars [d])

/-- LDX: bits, tag and mark copied to d and lt (R145, R162). -/
def ldxT (d : Opnd) (x : Fin 4) (k : Nat) (t : Task) : Except Stop Task := do
  let j := t.window x k
  t.windowBounds d j
  let c := t.cell (slotKey j)
  .ok (t.wrMark d c.val c.tag (t.markOf (slotKey j)))

/-- STX: bits, tag and mark of d copied to the slot; lt keeps its value (R145, R162). -/
def stxT (d : Opnd) (x : Fin 4) (k : Nat) (t : Task) : Except Stop Task := do
  let j := t.window x k
  t.windowBounds d j
  let c := t.cell d.key
  .ok (t.putCell (slotKey j) ⟨c.val, c.tag, t.markOf d.key⟩)

/-- XSET (R144). -/
def xsetT (x : Fin 4) (k : Nat) (t : Task) : Except Stop Task := .ok (t.setX x (BitVec.ofNat 16 k))

/-- XADD (R144). -/
def xaddT (x : Fin 4) (k : Int) (t : Task) : Except Stop Task := .ok (t.setX x (t.xr x + BitVec.ofInt 16 k))

/-! ### Tags (08 R164) -/

/-- TAGSET, when lane 0 of its predicate is 1: a's bits under the new tag (R164). -/
def tagsetT (g : Fin 8) (f : Tag) (d a : Opnd) (t : Task) : Except Stop Task :=
  if t.lane0 g then do
    t.bounds [d, a]
    .ok (t.wr d (t.val a) f)
  else .ok t

/-- The number of a tag (R159). -/
def tagNum (g : Tag) : Word := BitVec.ofNat 64 g.toNat

/-- TAGGET (R164). -/
def taggetT (g : Fin 8) (d a : Opnd) (t : Task) : Except Stop Task :=
  if t.lane0 g then do
    t.bounds [d, a]
    .ok (t.wr d (tagNum (t.tag a)) .raw)
  else .ok t

end Sys2Proof.Machine
end

