-- ==== Sys2Proof/Machine/MemAccess.lean ====
section
/-! DEFINITION. The effects of the memory instructions (16): loads, stores, vector accesses, full/empty operations,
exchange stores, atomics, fences and barriers, and loads and stores inside an open region (20 R364, 21 R369 to R373). -/

namespace Sys2Proof.Machine

/-! ### Modifiers -/

/-- The scope of an acquire an instruction carries (R303). -/
def acqOf : Option XMod → Option Scope
  | some x => if x.ord = .acq ∨ x.ord = .acqrel then some x.scope else none
  | none => none

/-- The scope of a release an instruction carries (R303). -/
def relOf : Option XMod → Option Scope
  | some x => if x.ord = .rel ∨ x.ord = .acqrel then some x.scope else none
  | none => none

/-- WEAK of XMOD. -/
def weakOf : Option XMod → Bool
  | some x => x.weak
  | none => false

/-- An access stands outside the order of strong accesses (R302): WEAK, and neither an own-core buffer nor device space. -/
def isWeak (m : Option XMod) (l : Loc) : Bool :=
  weakOf m && !l.eng && l.home != .dev && (l.space == 0 || l.remote.isSome)

/-- Bytes of an access. -/
def sizeBytes : Size → Nat
  | .b => 1
  | .h => 2
  | .w => 4
  | .d => 8

/-- Bytes of a zero-extending load. -/
def nsizeBytes : NSize → Nat
  | .b => 1
  | .h => 2
  | .w => 4

/-- The value of n bytes, extended (R304). -/
def extend (zext : Bool) (n : Nat) (bs : List Byte) : Word :=
  if zext then zextBits (8 * n) (BitVec.ofNat 64 (leNat bs)) else sextBits (8 * n) (BitVec.ofNat 64 (leNat bs))

/-! ### Checks (R296 to R298) -/

/-- ALIGN of a misaligned effective address (R297). -/
def aligned (a : Word) (n : Nat) : Except Stop Unit :=
  if a.toNat % n = 0 then .ok () else .error (.trap alignTrap a 0)

/-- Checks 2 and 3 of R298: the effective address. DEDUCED, log entry 9. -/
def Task.effective (t : Task) (m : Option XMod) (a : Opnd) (n : Nat) : Except Stop Word := do
  let v ← t.raw m a
  aligned v n
  .ok v

/-- An instruction that has been performed and waits for its answer (R63, R64). DESIGN CHOICE, log entry 3. -/
def Mach.parkMem (m : Mach) (l : Loc) : Mach :=
  if parks l then { m with t := { m.t with phase := .parked .mem } } else m

/-! ### Loads and stores outside a region (R304) -/

/-- The bytes of a load at its place (R320, R334); the streams of the ring see a read of an activation buffer (15 R293). -/
def Mach.fetchBytes (m : Mach) (mod : Option XMod) (l : Loc) (n : Nat) : Except Stop (List Byte × Mach) := do
  let m1 ← m.outside l false
  if l.home = .dev then do
    let bs ← m1.devRead l n
    .ok (bs, m1)
  else
    let m2 := if l.space = 3 then m1.noteAct ((l.key - spaceBase 2) / 65536) (l.key % 65536) n else m1
    let m3 := m2.drainOwn m1.t.gid l.key n
    .ok (if isWeak mod l then m3.readWeak l n else (m3.touchLine m1.t.gid l.key n).read l n)

/-- A store of some bytes of an access of n bytes (R304, R305): weak, or performed at once. -/
def Mach.storeCells (m : Mach) (mod : Option XMod) (l : Loc) (n : Nat) (cells : List (Nat × Byte)) :
    Except Stop Mach := do
  let m0 ← m.outside l true
  let m1 ← m0.releaseAt (relOf mod)
  if l.home = .dev then m1.devWrite l cells
  else
    let m2 := m1.touchLine m1.t.gid l.key n
    if isWeak mod l then .ok (m2.issueWeak ⟨m.t.gid, m.t.core, m.t.rec_, l, n, cells⟩)
    else .ok ((m2.drainOwn m.t.gid l.key n).writeCells m.t.gid (threadParty m.t.core) l n cells)

/-- A store that parks its thread until its home acknowledges (R307): one that is not weak. -/
def Mach.parkStore (m : Mach) (mod : Option XMod) (l : Loc) : Mach := if isWeak mod l then m else m.parkMem l

/-- LD outside a region (R304). -/
def Mach.loadOut (m : Mach) (mod : Option XMod) (sp : Space) (n : Nat) (zext : Bool) (g : Tag) (d : Opnd) (a : Word) :
    Except Stop Mach := do
  let (l, m1) ← m.resolve m.cur m.t.core sp a n false
  m1.t.watchCheck l n (span n) false
  m1.needEntries [l]
  let (bs, m2) ← m1.fetchBytes mod l n
  let m3 := { m2 with t := (m2.t.wr d (extend zext n bs) g).acquireAt (acqOf mod) m2.order }
  .ok (m3.parkMem l)

/-- ST outside a region (R147, R304). -/
def Mach.storeOut (m : Mach) (mod : Option XMod) (sp : Space) (n : Nat) (v : Word) (a : Word) : Except Stop Mach := do
  let (l, m1) ← m.resolve m.cur m.t.core sp a n true
  m1.t.watchCheck l n (span n) true
  m1.needEntries [l]
  let m2 ← m1.storeCells mod l n (cellsFrom l.key (leBytes v.toNat n))
  .ok (m2.parkStore mod l)

/-! ### Loads and stores inside a region -/

/-- Bytes [k, k + n) meet those of a key (R372). -/
def RKey.meets (q : RKey) (k n : Nat) : Bool := decide (k < q.key + q.size) && decide (q.key < k + n)

/-- The record of a region's stores with a key. -/
def Region.record (r : Region) (q : RKey) : Option RStore := r.stores.find? (·.at_ == q)

/-- The slot of a key and extension (R369). -/
def Region.slotOf (r : Region) (q : RKey) (zext : Bool) : Option Nat :=
  r.slots.findIdx? fun s => s.at_ == q && s.zext == zext

/-- A region's slot by number is unpinned. -/
def Region.counts (r : Region) (mk : Mark) : Bool :=
  match r.slots[mk.slot]? with
  | some s => !s.pinned
  | none => false

/-- A place that no region may reach aborts it with IRREV (R370). DEDUCED, log entry 23. -/
def noIrrev (l : Loc) : Except Stop Unit := if l.irrev then .error (.abort abIrrev) else .ok ()

/-- A load inside a region strikes its task's watchpoint (22 R470). -/
def Mach.regionWatch (m : Mach) (l : Loc) (n : Nat) : Mach :=
  match m.t.watches l (span n) false with
  | none => m
  | some _ =>
    let m1 := m.strike m.t (threadParty m.t.core) m.t.gid l.va n (BitVec.ofNat 64 (m.word l.key)) 0
    { m1 with t := { m1.t with struck := true } }

/-- An access's place inside a region: checks 1 to 5 of R298. The owner's windows are checked where the access is performed
(R364, R369). -/
def Mach.resolveOpen (m : Mach) (sp : Space) (a : Word) (n : Nat) (write : Bool) : Except Stop (Loc × Mach) :=
  match sp with
  | .s =>
    match scratchOf m.t.core a with
    | none => .error (.xfault 1 (if write then accWrite else accRead) a 0)
    | some (owner, off) =>
      .ok (⟨m.frontKey owner off, remoteForm owner off, .cluster (clusterOf owner), 1, false, false,
        if owner = m.t.core then none else some owner⟩, m)
  | _ => m.resolve m.cur m.t.core sp a n write

/-- The owner's windows admit a load that a region performs at another core's scratchpad (15 R277, R278). -/
def Mach.windowRead (m : Mach) (l : Loc) (n : Nat) (a : Word) : Except Stop Unit :=
  match l.remote with
  | none => .ok ()
  | some owner =>
    if m.ownsCore m.cur owner && m.windowsGrant m.cur owner (l.va.toNat % 2 ^ 20) n needR then .ok ()
    else .error (.trap nackWindow a 0)

/-- LD inside a region (R364, R369): one that a store record or a slot answers performs no access. -/
def Mach.loadIn (m : Mach) (r : Region) (sp : Space) (n : Nat) (zext : Bool) (g : Tag) (d : Opnd) (a : Word) :
    Except Stop Mach := do
  let (l, m1) ← m.resolveOpen sp a n false
  noIrrev l
  let q : RKey := ⟨l.key, n⟩
  match r.record q with
  | some w =>
    let v := extend zext n (leBytes w.val.toNat n)
    match w.mark.filter r.counts with
    | none => .ok { m1 with t := m1.t.wr d v g }
    | some k =>
      if n = 8 then .ok { m1 with t := m1.t.wrMark d v g (some k) }
      else .ok { m1 with t := { m1.t with region := some (r.pin k.slot) }.wr d v g }
  | none =>
    if r.stores.any fun w => w.at_.meets l.key n then .error (.abort abOverlap)
    else match r.slotOf q zext with
      | some i =>
        match r.slots[i]? with
        | some s => .ok { m1 with t := m1.t.wrMark d s.observed g (if s.pinned then none else some ⟨i, false⟩) }
        | none => .ok m1
      | none =>
        if r.slots.any fun s => s.at_.meets l.key n then .error (.abort abOverlap)
        else if 8 ≤ r.slots.length then .error (.abort abSlots)
        else do
          m1.windowRead l n a
          m1.needEntries [l]
          let (bs, m2) ← m1.fetchBytes none l n
          let v := extend zext n bs
          let r1 := { r with slots := r.slots ++ [⟨q, zext, v, false⟩] }
          let m3 := { m2 with t := { m2.t with region := some r1 }.wrMark d v g (some ⟨r.slots.length, false⟩) }
          .ok ((m3.regionWatch l n).parkMem l)

/-- ST inside a region (R364, R372). -/
def Mach.storeIn (m : Mach) (r : Region) (sp : Space) (n : Nat) (d : Opnd) (a : Word) : Except Stop Mach := do
  let (l, m1) ← m.resolveOpen sp a n true
  noIrrev l
  let q : RKey := ⟨l.key, n⟩
  let w : RStore := ⟨q, a, m.t.val d, m.t.markOf d.key, l.remote⟩
  if r.slots.any fun s => s.at_ != q && s.at_.meets l.key n then .error (.abort abOverlap)
  else if (r.record q).isSome then
    .ok { m1 with t := { m1.t with region := some { r with stores := r.stores.map fun x => if x.at_ = q then w else x } } }
  else if r.stores.any fun x => x.at_.meets l.key n then .error (.abort abOverlap)
  else .ok { m1 with t := { m1.t with region := some { r with stores := r.stores ++ [w] } } }

/-- The region's rule of LD and ST: strong accesses to .g and .s without XMOD act in it, the others abort it (R301). -/
def regionMem (mod : Option XMod) (sp : Space) : RRule :=
  if mod = none ∧ (sp = .g ∨ sp = .s) then .own else .abort abForbidden

/-- The rule of every other access to global memory: a page with IRREV gives the cause IRREV (R370).
DEDUCED, log entry 23. -/
def Mach.forbidG (m : Mach) (a : Opnd) : RRule :=
  match m.reach m.cur (clusterOf m.t.core) (m.t.val a) 1 0 with
  | .ok (l, _) => if l.irrev then .abort abIrrev else .abort abForbidden
  | .error _ => .abort abForbidden

/-- The rule of LDV and STV. -/
def Mach.forbidV (m : Mach) (sp : Space) (a : Opnd) : RRule := if sp = .g then m.forbidG a else .abort abForbidden

/-- The rule of LD and ST that carry XMOD, or reach another space. DEDUCED, log entry 23. -/
def Mach.ruleMem (m : Mach) (mod : Option XMod) (sp : Space) (a : Opnd) : RRule :=
  if mod ≠ none ∧ sp = .g then m.forbidG a else regionMem mod sp

/-- LD and LD.n (R304). -/
def ldM (mod : Option XMod) (sp : Space) (n : Nat) (zext : Bool) (g : Tag) (d a : Opnd) (m : Mach) : Except Stop Mach := do
  m.t.bounds [d, a]
  let v ← m.t.effective mod a n
  let m1 := { m with t := m.t.conc [a.key] }
  match m1.t.region with
  | none => m1.loadOut mod sp n zext g d v
  | some r => m1.loadIn r sp n zext g d v

/-- ST (R304). -/
def stM (mod : Option XMod) (sp : Space) (n : Nat) (d a : Opnd) (m : Mach) : Except Stop Mach := do
  m.t.bounds [d, a]
  let v ← m.t.effective mod a n
  let m1 := { m with t := m.t.conc [a.key] }
  match m1.t.region with
  | none => m1.storeOut mod sp n (m.t.val d) v
  | some r => m1.storeIn r sp n d v

/-! ### LDV and STV (R305, R308) -/

/-- A stop raised on behalf of member j (R77). -/
def Stop.ofMember (e : Stop) (j : Nat) : Stop :=
  match e with
  | .trap c a _ => .trap c a j
  | .xfault c x a _ => .xfault c x a j
  | e => e

/-- A stop of an access made for member j (R77). -/
def forMember {α : Type} (j : Nat) (r : Except Stop α) : Except Stop α :=
  match r with
  | .ok x => .ok x
  | .error e => .error (e.ofMember j)

/-- The address member j of a gang accesses (R308). -/
def memberAddr (core : Nat) (sp : Space) (a : Word) (j : Nat) : Word :=
  match sp with
  | .g => a + BitVec.ofNat 64 (64 * j)
  | .s =>
    match scratchOf core a with
    | some (owner, off) => if owner = core then BitVec.ofNat 64 off else a + BitVec.ofNat 64 (64 * j)
    | none => a + BitVec.ofNat 64 (64 * j)
  | _ => a

/-- Member j's place. -/
def Mach.memberLoc (m : Mach) (sp : Space) (a : Word) (write : Bool) (j : Nat) : Except Stop (Loc × Mach) :=
  let addr := if j = 0 then a else memberAddr m.t.core sp a j
  forMember j (m.resolve m.cur (m.t.core + j) sp addr 64 write)

/-- The places of members j to j + n − 1, each checked against the watchpoint. -/
def Mach.memberLocs (m : Mach) (sp : Space) (a : Word) (write : Bool) (offs : Nat → List Nat) (j : Nat) :
    Nat → Except Stop (List Loc × Mach)
  | 0 => .ok ([], m)
  | n + 1 => do
    let (l, m1) ← m.memberLoc sp a write j
    m1.t.watchCheck l 64 (offs j) write
    let (ls, m2) ← m1.memberLocs sp a write offs (j + 1) n
    .ok (l :: ls, m2)

/-- The accesses of a gang's members that park, until the last of them is answered (R63, R307). DESIGN CHOICE, log entry 3. -/
def Mach.parkAny (m : Mach) (ls : List Loc) : Mach :=
  match (ls.filter parks).length with
  | 0 => m
  | 1 => { m with t := { m.t with phase := .parked .mem } }
  | k => { m with t := { m.t with phase := .parked (.members k) } }

/-- The loads of the members from number j on, in order. -/
def Mach.loadMembers (m : Mach) (mod : Option XMod) (g : Fin 8) (tag : Tag) (s j : Nat) : List Loc → Except Stop Mach
  | [] => .ok m
  | l :: r => do
    let (bs, m1) ← forMember j (m.fetchBytes mod l 64)
    let f := fun i => BitVec.ofNat 32 (leNat ((bs.drop (4 * i)).take 4))
    let m2 := { m1 with t := m1.t.putLanes j s ((m1.t.member j).pred g) f tag }
    m2.loadMembers mod g tag s (j + 1) r

/-- LDV (R305): the read happens whatever the predicate. -/
def ldvM (mod : Option XMod) (sp : Space) (g : Fin 8) (tag : Tag) (d : Fin 256) (a : Opnd) (m : Mach) :
    Except Stop Mach := do
  m.t.vbounds [d] [a]
  let v ← m.t.effective mod a 64
  let (ls, m1) ← m.memberLocs sp v false (fun _ => span 64) 0 m.t.gangSize
  m1.needEntries ls
  let m2 ← m1.loadMembers mod g tag d.val 0 ls
  let m3 := { m2 with t := m2.t.acquireAt (acqOf mod) m2.order }
  .ok (m3.parkAny ls)

/-- The bytes STV writes for member j at a place: those of its enabled lanes. DEDUCED, log entry 25. -/
def stvCells (g : Image) (p : Mask) (s k : Nat) : List (Nat × Byte) :=
  (List.range 16).flatMap fun i => if p.getLsbD i then cellsFrom (k + 4 * i) (leBytes (g.lane s i).toNat 4) else []

/-- The stores of the members from number j on, in order. DEDUCED, log entry 25. -/
def Mach.storeMembers (m : Mach) (mod : Option XMod) (g : Fin 8) (s j : Nat) : List Loc → Except Stop Mach
  | [] => .ok m
  | l :: r => do
    let im := m.t.member j
    let cells := stvCells im (im.pred g) s l.key
    let m1 ← if cells.isEmpty then .ok m else forMember j (m.storeCells mod l 64 cells)
    m1.storeMembers mod g s (j + 1) r

/-- STV (R305): the checks happen whatever the predicate. -/
def stvM (mod : Option XMod) (sp : Space) (g : Fin 8) (d : Fin 256) (a : Opnd) (m : Mach) : Except Stop Mach := do
  m.t.vbounds [d] [a]
  let v ← m.t.effective mod a 64
  let offs := fun j => (stvCells (m.t.member j) ((m.t.member j).pred g) d.val 0).map Prod.fst
  let (ls, m1) ← m.memberLocs sp v true offs 0 m.t.gangSize
  m1.needEntries ls
  let m2 ← m1.releaseAt (relOf mod)
  let m3 ← m2.storeMembers mod g d.val 0 ls
  let stored := (ls.zip (List.range ls.length)).filter fun q => !(offs q.2).isEmpty && !isWeak mod q.1
  .ok (m3.parkAny (stored.map Prod.fst))

/-! ### Scratchpad operations (R309 to R311) -/

/-- The core and offset a scratchpad address names for the task in focus. -/
def Mach.named (m : Mach) (a : Word) : Nat × Nat := (scratchOf m.t.core a).getD (m.t.core, 0)

/-- The place of a strong operation on a scratchpad word and its checks (R298). -/
def Mach.feLoc (m : Mach) (mod : Option XMod) (a : Opnd) (n need : Nat) (write : Bool) : Except Stop (Word × Loc) := do
  let v ← m.t.effective mod a n
  let l ← m.reachS m.cur m.t.core v n need false
  m.t.watchCheck l n (span n) write
  m.needEntries [l]
  .ok (v, l)

/-- LDFE (0), LDFF (1), STFE (2) (R309, R310): performed where the condition holds, held at the owner otherwise. -/
def feM (op : Nat) (mod : Option XMod) (d a : Opnd) (m : Mach) : Except Stop Mach := do
  m.t.bounds [d, a]
  let (ad, l) ← m.feLoc mod a 8 needRW (op != 1)
  let m1 ← m.releaseAt (relOf mod)
  let (core, off) := m.named ad
  let m2 := ((m1.tick).drainOwn m.t.gid l.key 8).touchLine m.t.gid l.key 8
  if m2.full l.key = (op != 2) then
    let (m3, old) := m2.performFe m.t.gid (threadParty m.t.core) op core off (m.t.val d)
    let t := if op = 2 then m3.t else m3.t.wr d old .raw
    let m4 := { m3 with t := (t.acquireAt (acqOf mod) m3.order) }
    .ok ((m4.settleAll core).parkMem l)
  else
    .ok { m2 with t := { m2.t with phase := .waiting (.word op core off d (m.t.val d) m2.order true (acqOf mod)) } }

/-- FESET and FECLR (R309). -/
def feSetM (b : Bool) (mod : Option XMod) (a : Opnd) (m : Mach) : Except Stop Mach := do
  m.t.bounds [a]
  let (ad, l) ← m.feLoc mod a 8 needRW true
  let m1 ← m.releaseAt (relOf mod)
  let (core, off) := m.named ad
  let m2 := ((m1.tick).drainOwn m.t.gid l.key 8).touchLine m.t.gid l.key 8
  let (m3, _) := m2.performFe m.t.gid (threadParty m.t.core) (if b then 4 else 3) core off 0
  .ok ((m3.settleAll core).parkMem l)

/-- XST (R311): bytes into the back bank. -/
def xstM (mod : Option XMod) (a : Opnd) (src : XstSrc) (m : Mach) : Except Stop Mach := do
  match src with
  | .d r => m.t.bounds [r, a]
  | .w r => m.t.bounds [r, a]
  | .v r => m.t.vbounds [r] [a]
  let n := match src with
    | .d _ => 8
    | .w _ => 4
    | .v _ => 64
  let bs := match src with
    | .d r => leBytes (m.t.val r).toNat 8
    | .w r => leBytes (m.t.val r).toNat 4
    | .v r => (List.range 16).flatMap fun i => leBytes (m.t.img.lane r.val i).toNat 4
  let v ← m.t.effective mod a n
  let l ← m.reachS m.cur m.t.core v n needX true
  m.t.watchCheck l n (span n) true
  m.needEntries [l]
  let m1 ← m.releaseAt (relOf mod)
  .ok (((m1.touchLine m.t.gid l.key n).write m.t.gid (threadParty m.t.core) l bs).parkMem l)

/-! ### Atomics (R313) -/

/-- Bytes and natural reading of an atomic's size. -/
def asizeOf : ASize → Nat × Bool
  | .d => (8, false)
  | .w => (4, false)

/-- Bytes and natural reading of AMIN's and AMAX's size. -/
def msizeOf : MSize → Nat × Bool
  | .d => (8, false)
  | .w => (4, false)
  | .n64 => (8, true)
  | .n32 => (4, true)

/-- The place of an atomic: root-port space and ENG pages trap PROT. -/
def Mach.atomicLoc (m : Mach) (sp : ASpace) (a : Word) (n : Nat) : Except Stop (Loc × Mach) :=
  match sp with
  | .s =>
    match m.reachS m.cur m.t.core a n needRW false with
    | .ok l => .ok (l, m)
    | .error e => .error e
  | .g =>
    match m.reach m.cur (clusterOf m.t.core) a n 3 with
    | .error k => .error (.xfault k 3 a 0)
    | .ok (l, m1) =>
      if l.eng ∨ l.home = .dev then .error (.xfault 1 3 a 0)
      else match l.home with
        | .root _ => .error (.xfault 1 3 a 0)
        | _ => .ok (l, m1)

/-- One atomic (R313): `f` gives the new value from the old one's low bits, none where nothing is written.
DEDUCED, log entry 9. -/
def atomicM (mod : Option XMod) (n : Nat) (nat : Bool) (sp : ASpace) (d a : Opnd) (srcs : List Opnd)
    (f : Task → Word → Except Stop (Option Word)) (m : Mach) : Except Stop Mach := do
  m.t.bounds ([d, a] ++ srcs)
  let v ← m.t.raw mod a
  let _ ← f m.t 0
  aligned v n
  let (l, m0) ← m.atomicLoc sp v n
  m0.t.watchCheck l n (span n) true
  m0.needEntries [l]
  let m1 ← m0.outside l true
  let m2 ← m1.releaseAt (relOf mod)
  let m3 := (m2.drainOwn m.t.gid l.key n).touchLine m.t.gid l.key n
  let (bs, m4) := m3.read l n
  let old := BitVec.ofNat 64 (leNat bs)
  let new ← f m.t old
  let m5 := match new with
    | some w => m4.write m.t.gid (threadParty m.t.core) l (leBytes w.toNat n)
    | none => m4
  let res := if n = 8 then old else if nat then zextBits 32 old else sextBits 32 old
  let m6 := { m5 with t := (m5.t.wr d res .raw).acquireAt (acqOf mod) m5.order }
  .ok (m6.parkMem l)

/-- The new value of an atomic with one operand. -/
def rmw (mod : Option XMod) (b : Opnd) (g : Word → Word → Word) (t : Task) (old : Word) : Except Stop (Option Word) := do
  let y ← t.raw mod b
  .ok (some (g old y))

/-- The new value of ACAS: c where the low bits of b are the old ones. -/
def casNew (mod : Option XMod) (n : Nat) (b c : Opnd) (t : Task) (old : Word) : Except Stop (Option Word) := do
  let y ← t.raw mod b
  let z ← t.raw mod c
  .ok (if old.toNat % 2 ^ (8 * n) = y.toNat % 2 ^ (8 * n) then some z else none)

/-- The low bits of a word read signed, or natural. -/
def lowInt (n : Nat) (nat : Bool) (w : Word) : Int :=
  if nat then (zextBits (8 * n) w).toNat else (sextBits (8 * n) w).toInt

/-- AMIN (false) and AMAX (true) on the low bits. -/
def minMax (n : Nat) (nat big : Bool) (old y : Word) : Word :=
  if (lowInt n nat old ≤ lowInt n nat y) = big then y else old

/-! ### Fences and barriers (R314 to R319) -/

/-- FENCE (R314): its release, then its acquire. -/
def fenceM (mod : Option XMod) (m : Mach) : Except Stop Mach := do
  let m1 ← m.releaseAt (relOf mod)
  .ok { m1 with t := m1.t.acquireAt (acqOf mod) m1.order }

/-- A predecessor of a record has not retired (R272): a record that lists it among its successors runs or is armed. -/
def Mach.predecessorsOpen (m : Mach) (c r : Nat) : Bool := decide (0 < (m.launch c r).pending)

/-- PVIS (R272): parks until every predecessor has retired, then acquires at device scope. -/
def pvisM (m : Mach) : Except Stop Mach :=
  match m.t.rec_ with
  | some r =>
    if m.predecessorsOpen m.cur r then .error (.retry .order)
    else .ok { m with t := m.t.acquire .dv m.order }
  | none => .ok { m with t := m.t.acquire .dv m.order }

/-- An ILL_OP raised by an operand's value. -/
def illValue (t : Task) : Stop := .trap illOp t.pc 0

/-- A credit's count: above 32 bits traps ILL_OP (R316, R317). -/
def count32 (t : Task) (v : Word) : Except Stop Nat := if 2 ^ 32 ≤ v.toNat then .error (illValue t) else .ok v.toNat

/-- BINIT (R316). DEDUCED, log entry 9. -/
def binitM (mod : Option XMod) (a b : Opnd) (m : Mach) : Except Stop Mach := do
  m.t.bounds [a, b]
  let ad ← m.t.raw mod a
  let y ← m.t.raw mod b
  let q ← count32 m.t y
  aligned ad 16
  let l ← m.reachS m.cur m.t.core ad 16 needW false
  m.t.watchCheck l 16 (span 16) true
  m.needEntries [l]
  let (core, off) := m.named ad
  let bar : Bar := ⟨q, q, 0, false, 0, 0⟩
  let m1 := (m.drainOwn m.t.gid l.key 16).touchLine m.t.gid l.key 16
  let m2 := m1.write m.t.gid (threadParty m.t.core) l (bar.bytes ++ leBytes (m1.waitersOn core off) 2 ++ [0, 0])
  .ok ((m2.setWaiters core off).parkMem l)

/-- BARR (R317): a device-scope release, then the credit. DEDUCED, log entry 9. -/
def barrM (mod : Option XMod) (a b : Opnd) (m : Mach) : Except Stop Mach := do
  m.t.bounds [a, b]
  let ad ← m.t.raw mod a
  let y ← m.t.raw mod b
  let n ← count32 m.t y
  aligned ad 16
  let l ← m.reachS m.cur m.t.core ad 16 needRW false
  m.t.watchCheck l 12 (span 12) true
  m.needEntries [l]
  let m1 ← m.releaseAt (some .dv)
  let (core, off) := m.named ad
  .ok ((((m1.drainOwn m.t.gid l.key 16).touchLine m.t.gid l.key 16).credit m.t.gid (threadParty m.t.core) core off n 0).parkMem l)

/-- BWAIT (R318). -/
def bwaitM (mod : Option XMod) (k : Fin 16) (d a : Opnd) (m : Mach) : Except Stop Mach := do
  m.t.bounds [d, a]
  let ad ← m.t.effective mod a 16
  let l ← m.reachS m.cur m.t.core ad 16 needR false
  m.t.watchCheck l 16 (span 16) false
  m.needEntries [l]
  let (core, off) := m.named ad
  let e := (k.val + 1) % 16
  let m1 := ((m.tick).drainOwn m.t.gid l.key 16).touchLine m.t.gid l.key 16
  let bar := m1.bar core off
  if bar.satisfies e then
    .ok ({ m1 with t := (m1.t.wr d bar.answer .raw).acquire .dv m1.order }.parkMem l)
  else
    let m2 := { m1 with t := { m1.t with phase := .waiting (.barrier core off e d m1.order true) } }
    .ok (m2.setWaiters core off)

/-- GBAR (R319): a device-scope release, the credit that counts this core toward the epoch, and the wait.
DEDUCED, log entry 21. -/
def gbarCredit (d : Opnd) (l : Loc) (core off : Nat) (m : Mach) : Except Stop Mach := do
  m.t.watchCheck l 12 (span 12) true
  m.needEntries [l]
  let m0 ← m.releaseAt (some .dv)
  let m1 := (m0.drainOwn m.t.gid l.key 16).touchLine m.t.gid l.key 16
  let e := ((m1.bar core off).epoch + 1) % 16
  let key := core * 65536 + off
  let m2 := m1.tick
  let m3 := { m2 with
    gbars := Tab.upd [] m2.gbars key fun l => if l.contains m.t.core then l else l ++ [m.t.core]
    t := { m2.t with phase := .waiting (.gbar core off e d m2.order true), gbarE := some (core, off, e) } }
  let m4 := (m3.setWaiters core off).credit m.t.gid (threadParty m.t.core) core off 1 0
  .ok (m4.settleAll core)

/-- GBAR (R319). One whose credit was performed before it was set aside resumes waiting for its recorded epoch (R65).
DEDUCED, log entry 21. -/
def gbarM (mod : Option XMod) (d a : Opnd) (m : Mach) : Except Stop Mach :=
  match m.t.gbarE with
  | none => do
    m.t.bounds [d, a]
    let ad ← m.t.effective mod a 16
    let l ← m.reachS m.cur m.t.core ad 16 needRW false
    gbarCredit d l (m.named ad).1 (m.named ad).2 m
  | some (core, off, e) =>
    let m1 := m.tick
    let m2 := { m1 with t := { m1.t with phase := .waiting (.gbar core off e d m1.order true) } }
    .ok ((m2.setWaiters core off).settleAll core)

end Sys2Proof.Machine
end

