-- ==== Sys2Proof/Machine/EngineOps.lean ====
section
/-! DEFINITION. The engines' operations (18, 15 R293 to R295): the checks of a command, accesses, chunks, ends and faults,
streams, and the instructions of page 5. -/

namespace Sys2Proof.Machine

/-! ### Which engine, which contexts -/

/-- A context's operations may go on at an engine: it is not stopped, nor is a halt on its way (09 R171, 18 R340). -/
def Mach.engRuns (m : Mach) (e : EngRef) (c : Nat) : Bool :=
  !(m.eng e).stopped.contains c && !(m.ctx c).halt.line && !(m.ctx c).killed

/-- The cluster whose TLB serves an engine's translations for a command. -/
def engCluster (e : EngRef) (c : ECmd) : Nat := match e.kind with
  | .copy => e.unit
  | .sequencer => e.unit
  | _ => clusterOf c.core

/-- The tickets that name a command (R336, R338). -/
def cmdTickets (k : EngKind) (c : ECmd) : List Nat :=
  if c.bySched then [] else ticketOf k c.core c.serial :: c.merged.map fun q => ticketOf k q.core q.serial

/-! ### Commands (R335, R339, R341) -/

/-- SIZE and N of a gather's or a scatter's shape (R341). -/
def ECmd.size (c : ECmd) : Nat := c.len.toNat % 2 ^ 16
def ECmd.number (c : ECmd) : Nat := c.len.toNat / 2 ^ 32 % 2 ^ 16

/-- A shape in its limits (R341). -/
def shapeFits (v : Nat) : Bool :=
  decide (8 ≤ v % 65536) && decide (v % 65536 ≤ 4096) && decide (v % 8 = 0) && decide (1 ≤ v / 2 ^ 32) &&
  decide (v / 2 ^ 48 = 0) && decide (v / 65536 % 65536 = 0)

/-- A copy's length in its limits (R341). -/
def lenFits (v : Nat) : Bool := decide (8 ≤ v) && decide (v ≤ 2 ^ 32 - 8) && decide (v % 8 = 0)

/-- ⌈a / b⌉. -/
def ceilDiv (a b : Nat) : Nat := (a + b - 1) / b

/-- The bytes of a copy's chunk (R339). -/
def copyChunk (len : Nat) : Nat := 64 * ceilDiv (ceilDiv len 64) 64

/-- The chunks of a command's operation (R339); none for a kind without chunks. -/
def ECmd.chunks (c : ECmd) : Option Nat :=
  match c.opc with
  | 1 => some (ceilDiv c.len.toNat (copyChunk c.len.toNat))
  | 2 => some (ceilDiv c.number (ceilDiv c.number 64))
  | 3 => some (ceilDiv c.number (ceilDiv c.number 64))
  | 6 => some 64
  | 7 => some c.len.toNat
  | _ => none

/-- The first byte and the bytes of chunk k, in the order in which the operation moves its bytes. -/
def ECmd.chunkSpan (c : ECmd) (k : Nat) : Nat × Nat :=
  let each := match c.opc with
    | 1 => copyChunk c.len.toNat
    | 6 => 128
    | _ => ceilDiv c.number 64 * c.size
  let total := match c.opc with
    | 1 => c.len.toNat
    | 6 => 8192
    | _ => c.number * c.size
  (each * k, min each (total - each * k))

/-- What an operation credits its barrier (R335). -/
def ECmd.creditOf (c : ECmd) : Nat :=
  match c.opc with
  | 1 => c.len.toNat
  | 6 => 8192
  | 7 => 16 * c.len.toNat
  | _ => c.number * c.size

/-- The completion bitmap of an operation none of whose chunks is done: bits at and above the chunk count are 1 (R339). -/
def freshBitmap (n : Nat) : BitVec 64 := BitVec.ofNat 64 (2 ^ 64 - 2 ^ min n 64)

/-- What EBMP reads of an operation that has not begun (R343). -/
def ECmd.freshBits (c : ECmd) : BitVec 64 := match c.chunks with
  | some n => freshBitmap n
  | none => 0

/-- The engine runs an OP (R335). -/
def runsOp (k : EngKind) (op : Nat) : Bool := match k with
  | .copy => op == 1 || op == 2 || op == 3 || op == 6 || op == 7
  | .loader => op == 4
  | .storer => op == 4
  | .collective => op == 5
  | .sequencer => false

/-- Bytes [a, a + n) stand in a space: 0 global, 1 scratchpad in R186's form, 2 and 3 the activation and accumulator
buffers. -/
def rangeFits (sp : Nat) (a : Word) (n : Nat) : Bool :=
  match sp with
  | 0 => true
  | 1 => match scratchOf 0 a with
    | some (_, off) => decide (off + n ≤ 65536)
    | none => false
  | 2 => decide (a.toNat + n ≤ 65536)
  | _ => decide (a.toNat + n ≤ 32768)

/-- Where a range starts in its space, for a party on a core: the owner and the address. -/
def rangeAt (sp core : Nat) (a : Word) : Nat × Nat :=
  match sp with
  | 1 => (scratchOf core a).getD (core, 0)
  | 0 => (0, a.toNat)
  | _ => (core, a.toNat)

/-- Ranges of n bytes at a and of k bytes at b overlap in one space (R340). -/
def rangesMeet (sp core : Nat) (a b : Word) (n k : Nat) : Bool :=
  let x := rangeAt sp core a
  let y := rangeAt sp core b
  x.1 == y.1 && decide (x.2 < y.2 + k) && decide (y.2 < x.2 + n)

/-- The destination space of a command's variant, and its source space (R341): 3 the accumulator buffer. -/
def ECmd.dstSpace (c : ECmd) : Nat := if c.opc = 3 then 0 else c.var % 4
def ECmd.srcSpace (c : ECmd) : Nat := if c.opc = 1 then c.var / 4 else if c.opc = 3 then c.var else 0

/-- The variant is one of R341's. -/
def ECmd.varOk (c : ECmd) : Bool :=
  let src := fun (v : Nat) => v == 0 || v == 1 || v == 3
  match c.opc with
  | 1 => decide (c.var % 4 < 3) && src (c.var / 4)
  | 2 => decide (c.var < 3)
  | 3 => src c.var
  | _ => c.var == 0

/-- The fields of a command within their limits (R335, R341). DEDUCED, log entry 42. -/
def ECmd.fieldsOk (e : EngRef) (c : ECmd) : Bool :=
  let d := c.dst.toNat
  let s := c.src.toNat
  let l := c.len.toNat
  match c.opc with
  | 1 => lenFits l && decide (d % 8 = 0) && decide (s % 8 = 0) && rangeFits c.dstSpace c.dst l && rangeFits c.srcSpace c.src l
  | 2 => shapeFits l && decide (d % 8 = 0) && decide (s % 8 = 0) && rangeFits c.dstSpace c.dst (c.number * c.size)
  | 3 => shapeFits l && decide (d % 8 = 0) && decide (s % 8 = 0) && rangeFits c.srcSpace c.src (c.number * c.size)
  | 4 => c.nb && d == e.unit && decide (s % 64 = 0) && l == 0
  | 5 => d == 0 && decide (s % 64 = 0) && l == 0
  | 6 => decide (d < 64) && decide (s % 64 = 0) && l == 8192
  | _ => d == 0 && decide (s % 16 = 0) && decide (1 ≤ l) && decide (l ≤ 64)

/-- A command is well formed for an engine (R335): its reserved bits are zero, the engine runs it, its fields fit.
DEDUCED, log entry 42. -/
def ECmd.wellFormed (e : EngRef) (c : ECmd) : Bool :=
  decide (c.hdr.toNat / 2 ^ 32 = 0) && decide (c.hdr.toNat / 2 ^ 14 % 4 = 0) && decide (c.bar % 16 = 0) &&
  (!c.nb || c.bar == 0) && runsOp e.kind c.opc && c.varOk && c.fieldsOk e

/-- Source and destination overlap (R340). -/
def ECmd.overlaps (c : ECmd) : Bool :=
  match c.opc with
  | 1 => c.dstSpace == c.srcSpace && rangesMeet c.dstSpace c.core c.dst c.src c.len.toNat c.len.toNat
  | 2 => c.dstSpace == 0 && rangesMeet 0 c.core c.dst c.src (c.number * c.size) (8 * c.number)
  | 3 => c.srcSpace == 0 && rangesMeet 0 c.core c.dst c.src (8 * c.number) (c.number * c.size)
  | _ => false

/-- Why a command faults before its operation makes any access (R335, R340). DEDUCED, log entry 39. -/
def ECmd.fault (e : EngRef) (c : ECmd) : Option EFail :=
  if !c.wellFormed e then some ⟨0x6001, none, c.hdr.toNat⟩
  else if c.overlaps then some ⟨0x6003, none, c.hdr.toNat⟩
  else none

/-! ### Accesses of an engine (R340) -/

/-- Why an engine's access does not happen now: a page fault with its address, cause and access; a wait for a port; a fault of
the operation. -/
inductive EStop where
  | page (va : Word) (cause acc : Nat)
  | hold
  | fail (f : EFail)
  deriving DecidableEq, Repr

/-- A failure of a command's operation, its DETAIL the command's HDR. -/
def ECmd.failed (c : ECmd) (code : Nat) (addr : Option Nat) : EStop := .fail ⟨code, addr, c.hdr.toNat⟩

/-- A global access of an engine (R340): the place. DEDUCED, log entry 40. -/
def Mach.engReach (m : Mach) (e : EngRef) (c : ECmd) (va : Word) (n acc : Nat) : Except EStop (Loc × Mach) :=
  match m.reach c.ctx (engCluster e c) va n acc with
  | .error k => if k = 1 then .error (c.failed 0x6009 (some va.toNat)) else .error (.page va k (acc + accEngine))
  | .ok (l, m1) =>
    match l.home with
    | .dev => .error (c.failed 0x6001 none)
    | .peer p =>
      if !m.portsUp.contains p then .error .hold
      else if Config.peerRefuses m1.free then .error (.fail ⟨0x4003, none, p⟩)
      else .ok (l, { m1 with free := m1.free + 1 })
    | .root p => if m.rootsUp.contains p then .ok (l, m1) else .error .hold
    | _ => .ok (l, m1)

/-- A place of n bytes in a space, for a command's requester on a core. -/
def Mach.engLoc (m : Mach) (e : EngRef) (c : ECmd) (sp core : Nat) (a : Word) (n : Nat) (write : Bool) :
    Except EStop (Loc × Mach) :=
  match sp with
  | 0 => m.engReach e c a n (if write then accWrite else accRead)
  | 1 => match m.reachS c.ctx core a n (if write then needW else needR) false with
    | .ok l => .ok (l, m)
    | .error (.trap _ _ _) => .error (c.failed 0x6002 none)
    | .error _ => .error (c.failed 0x6001 none)
  | 2 => match reachAC core 3 a n accWrite with
    | .ok l => .ok (l, m)
    | .error _ => .error (c.failed 0x6001 none)
  | _ => match reachAC core 4 a n accRead with
    | .ok l => .ok (l, m)
    | .error _ => .error (c.failed 0x6001 none)

/-- The places an operation writes n bytes to: one for each requester's own core (R338). -/
def Mach.engDests (m : Mach) (e : EngRef) (c : ECmd) (sp : Nat) (a : Word) (n : Nat) : List Nat → Except EStop (List Loc × Mach)
  | [] => .ok ([], m)
  | core :: r => do
    let (l, m1) ← m.engLoc e c sp core a n true
    let (ls, m2) ← m1.engDests e c sp a n r
    .ok (if ls.contains l then ls else l :: ls, m2)

/-- A write of an engine (R339): its marker request, where it is external, waits for the end of the operation (23 R402). -/
def Mach.engWrite (m : Mach) (e : EngRef) (c : ECmd) (l : Loc) (bs : List Byte) : Mach × Bool :=
  let was := (m.ctx c.ctx).silt.requests
  let m1 := m.write c.gid (engParty e) l bs
  let ext := l.irrev || (match l.home with
    | .peer _ => true
    | .root _ => true
    | _ => false)
  (m1.setCtx c.ctx fun x => { x with silt := { x.silt with requests := was } }, ext)

/-- Writes to several places. -/
def Mach.engWrites (m : Mach) (e : EngRef) (c : ECmd) (bs : List Byte) : List Loc → Mach × Bool
  | [] => (m, false)
  | l :: r =>
    let (m1, x) := m.engWrite e c l bs
    let (m2, y) := m1.engWrites e c bs r
    (m2, x || y)

/-- The marker that an operation's external writes request, once it has ended (23 R402). -/
def Mach.extRequest (m : Mach) (c : Nat) (g : Gid) (ext : Bool) : Mach :=
  if ext ∧ (m.ctx c).silt.xw then
    m.setCtx c fun x => { x with silt := { x.silt with requests := x.silt.requests ++ [(6, g)] } }
  else m

/-! ### Words and chunks (R339) -/

/-- The element address of a gather or a scatter, from its list (R341). -/
def Mach.listed (m : Mach) (e : EngRef) (c : ECmd) (list : Word) (i : Nat) : Except EStop (Word × Mach) := do
  let (l, m1) ← m.engReach e c (list + BitVec.ofNat 64 (8 * i)) 8 accRead
  let (bs, m2) := m1.read l 8
  let v := leNat bs
  let far := BitVec.ofNat 64 v
  if v % 8 ≠ 0 then .error (c.failed 0x6001 none)
  else
    let (sp, a) := if c.opc = 2 then (c.dstSpace, c.dst) else (c.srcSpace, c.src)
    if sp == 0 && rangesMeet 0 c.core far a c.size (c.number * c.size) then .error (c.failed 0x6003 none)
    else .ok (far, m2)

/-- Where the word at byte o of an operation is read and written (R339, R341). -/
def Mach.wordEnds (m : Mach) (e : EngRef) (c : ECmd) (o : Nat) : Except EStop (Word × Word × Mach) :=
  let at_ := BitVec.ofNat 64 o
  match c.opc with
  | 2 => do
    let (x, m1) ← m.listed e c c.src (o / c.size)
    .ok (x + BitVec.ofNat 64 (o % c.size), c.dst + at_, m1)
  | 3 => do
    let (x, m1) ← m.listed e c c.dst (o / c.size)
    .ok (c.src + at_, x + BitVec.ofNat 64 (o % c.size), m1)
  | _ => .ok (c.src + at_, c.dst + at_, m)

/-- One word of a copy, a gather or a scatter read (R339). -/
def Mach.readWord (m : Mach) (e : EngRef) (c : ECmd) (o : Nat) : Except EStop (EWord × Mach) := do
  let (s, d, m1) ← m.wordEnds e c o
  let (l, m2) ← m1.engLoc e c c.srcSpace c.core s 8 false
  let (bs, m3) := m2.read l 8
  .ok (⟨o, d, bs⟩, m3)

/-- One word of a Kaolin load read (13 R247): its source in a described page, and the MARK of a block right. -/
def Mach.readKaolin (m : Mach) (e : EngRef) (c : ECmd) (o : Nat) : Except EStop (EWord × Mach) := do
  let (l, m1) ← m.engReach e c (c.src + BitVec.ofNat 64 o) 8 accRead
  let attr := match m1.translate c.ctx (engCluster e c) (c.src.toNat + o) with
    | .ok (t, _) => t.attr
    | .error _ => 0
  if !attrBit attr 5 then .error (c.failed 0x6008 (some c.src.toNat))
  else
    let (bs, m2) := m1.read l 8
    if decide (o % 64 = 0) && !blkMark (bs.getD 0 0) then .error (.fail ⟨0x6004, none, c.dst.toNat % 64⟩)
    else .ok (⟨o, BitVec.ofNat 64 o, bs⟩, m2)

/-- The place of a byte of a Kaolin slot. -/
def kaolinLoc (cl slot o : Nat) : Loc :=
  let at_ := 8192 * slot + o
  ⟨kaolinKey cl at_, BitVec.ofNat 64 (cl * 2 ^ 20 + at_), .cluster cl, 5, false, false, none⟩

/-- One read access of an operation, of the word at byte o. DEDUCED, log entry 40. -/
def Mach.engFetch (m : Mach) (e : EngRef) (c : ECmd) (o : Nat) : Except EStop (EWord × Mach) :=
  if c.opc = 6 then m.readKaolin e c o else m.readWord e c o

/-- One write access of an operation, of a word it holds. DEDUCED, log entry 40. -/
def Mach.engStore (m : Mach) (e : EngRef) (c : ECmd) (w : EWord) : Except EStop (Mach × Bool) :=
  if c.opc = 6 then .ok (m.engWrite e c (kaolinLoc e.unit (c.dst.toNat % 64) w.off) w.bytes)
  else do
    let (ds, m1) ← m.engDests e c c.dstSpace w.dst 8 c.cores
    .ok (m1.engWrites e c w.bytes ds)

/-- The held word that is written next: any of them, but of those to one address the oldest (17 R321).
DEDUCED, log entry 41. -/
def nextHeld (f : Nat) : List EWord → Option EWord
  | [] => none
  | [w] => some w
  | l => match l[f % l.length]? with
    | none => none
    | some w => l.find? (·.dst == w.dst)

/-- What an engine does next with the words of a chunk or a tile, of which more may stand to be read: it writes one it holds, or
it reads one (R339). DEDUCED, log entry 41. -/
def Mach.engTurn (m : Mach) (held : List EWord) (more : Bool) : Option EWord :=
  if more && (held.isEmpty || Config.readsAhead m.free) then none else nextHeld (Config.heldNext m.free) held

/-- The active operation of an engine changed. -/
def Mach.setOp (m : Mach) (e : EngRef) (f : EOp → EOp) : Mach :=
  m.setEng e fun x => { x with active := x.active.map f }

/-- An operation stopped by an access: it waits for the page, holds, or fails. -/
def Mach.stopOp (m : Mach) (e : EngRef) (c : ECmd) (s : EStop) : Mach :=
  match s with
  | .hold => m
  | .fail f => m.setOp e fun o => { o with failed := some f }
  | .page va k acc =>
    let (i, m1) := m.enterFault c.ctx va k acc none (some e)
    if i = 4096 then m1 else m1.setOp e fun o => { o with waiting := some (va.toNat / 65536 * 65536, k) }

/-- An operation may make accesses now. -/
def Mach.opGoes (m : Mach) (e : EngRef) (o : EOp) : Bool :=
  m.engRuns e o.cmd.ctx && o.waiting.isNone && o.failed.isNone

/-- Operations that reached the matrix unit before a load and name its slot have finished reading it (13 R248). -/
def Mach.slotFree (m : Mach) (cl slot reach : Nat) : Bool :=
  let x := m.mtx cl
  !(x.queues.any fun (_, l) => l.any fun k => match k.cmd with
    | .mop _ _ _ s _ _ _ => s == slot && decide (k.reach < reach)
    | _ => false)

/-- An operation may write its chunks: a Kaolin load has reached the unit and its slot is free to write (13 R248). -/
def Mach.chunkGoes (m : Mach) (e : EngRef) (o : EOp) : Bool :=
  m.opGoes e o &&
  (match o.cmd.opc with
    | 1 => true
    | 2 => true
    | 3 => true
    | 6 => match o.reach with
      | some r => m.slotFree e.unit (o.cmd.dst.toNat % 64) r
      | none => false
    | _ => false)

/-- An access of chunk k, which spans n bytes from lo (R339): a read of its next word or a write of one that is held; its bit is
set once its last word is written. DEDUCED, log entry 41. -/
def Mach.chunkAccess (m : Mach) (e : EngRef) (o : EOp) (k lo n : Nat) : Mach :=
  let pos := match o.part with
    | some (_, x) => x
    | none => lo
  let more := decide (pos < lo + n)
  let m0 := { m with free := m.free + 1 }
  match m.engTurn o.held more with
  | some w => match m0.engStore e o.cmd w with
    | .error s => m0.stopOp e o.cmd s
    | .ok (m1, x) =>
      let rest := o.held.erase w
      m1.setOp e fun p =>
        if rest.isEmpty && !more then
          { p with ext := p.ext || x, held := [], part := none, bitmap := p.bitmap ||| BitVec.ofNat 64 (2 ^ k) }
        else { p with ext := p.ext || x, held := rest }
  | none => match m0.engFetch e o.cmd pos with
    | .error s => m0.stopOp e o.cmd s
    | .ok (w, m1) => m1.setOp e fun p => { p with held := p.held ++ [w], part := some (k, pos + 8) }

/-- CHUNK_COMPLETE (R339): the next access of chunk k, whose bit the last one sets. An operation that has begun another chunk
finishes that first. DEDUCED, log entry 41. -/
def Mach.chunkComplete (m : Mach) (e : EngRef) (k : Nat) : Mach :=
  match (m.eng e).active with
  | none => m
  | some o =>
    let other := match o.part with
      | some (j, _) => decide (j ≠ k)
      | none => false
    if !m.chunkGoes e o || o.bitmap.getLsbD k || decide (64 ≤ k) || other then m
    else
      let (lo, n) := o.cmd.chunkSpan k
      m.orHold o.cmd.ctx (m.chunkAccess e o k lo n)

/-! ### Kaolin loads and metadata (13 R247, R256; R335) -/

/-- A Kaolin slot changed. -/
def Mach.setSlot (m : Mach) (cl slot : Nat) (f : KSlot → KSlot) : Mach :=
  m.setMtx cl fun x => { x with slots := Tab.upd {} x.slots slot f }

/-- The copy engine of a cluster number. -/
def copyEng (cl : Nat) : EngRef := ⟨.copy, cl⟩

/-- KAOLIN_LOAD (13 R247): the active load reaches the matrix unit, and its slot becomes LOADING. -/
def Mach.kaolinLoad (m : Mach) (cl : Nat) : Mach :=
  match (m.eng (copyEng cl)).active with
  | none => m
  | some o =>
    if o.cmd.opc ≠ 6 ∨ o.reach.isSome ∨ ¬ m.opGoes (copyEng cl) o then m
    else
      let m1 := m.tick
      (m1.setSlot cl (o.cmd.dst.toNat % 64) fun _ => ⟨.loading, o.cmd.ctx⟩).setOp (copyEng cl) fun p => { p with reach := some m1.order }

/-- The cores whose barriers a command credits (R338). -/
def ECmd.credited (c : ECmd) : List Nat := if c.nb then [] else c.cores

/-- Credits to the barriers of cores, in order, and how many are made: none after one that strikes a watchpoint (22 R390). -/
def Mach.creditSome (m : Mach) (e : EngRef) (c : ECmd) (n err : Nat) : List Nat → Mach × Nat
  | [] => (m, 0)
  | core :: r =>
    let m1 := m.credit c.gid (engParty e) core c.bar n err
    if m1.hasStruck c.ctx (engParty e) c.gid then (m1, 1)
    else
      let (m2, k) := m1.creditSome e c n err r
      (m2, k + 1)

/-- The credits that an operation still owes its requesters, as far as a strike lets it make them (R338, R339, 22 R390). -/
def Mach.creditOwed (m : Mach) (e : EngRef) (o : EOp) (n err : Nat) : Mach :=
  let (m1, k) := m.creditSome e o.cmd n err (o.cmd.credited.drop o.credits)
  m1.setOp e fun p => { p with credits := p.credits + k }

/-- Every credit of the active operation is made, and none has struck. -/
def Mach.paidUp (m : Mach) (e : EngRef) : Bool :=
  match (m.eng e).active with
  | none => false
  | some o => decide (o.cmd.credited.length ≤ o.credits) && !m.hasStruck o.cmd.ctx (engParty e) o.cmd.gid

/-- KAOLIN_LOAD_COMPLETE (13 R247): the slot becomes READY and the load credits its barrier. DEDUCED, log entry 41. -/
def Mach.kaolinDone (m : Mach) (cl : Nat) : Mach :=
  match (m.eng (copyEng cl)).active with
  | none => m
  | some o =>
    if o.cmd.opc ≠ 6 ∨ o.isReady ∨ o.bitmap ≠ BitVec.allOnes 64 ∨ ¬ m.opGoes (copyEng cl) o then m
    else
      let m1 := (m.setSlot cl (o.cmd.dst.toNat % 64) fun _ => ⟨.ready, o.cmd.ctx⟩).setOp (copyEng cl) fun p => { p with isReady := true }
      m.orHold o.cmd.ctx (m1.creditOwed (copyEng cl) o 8192 0)

/-- The first clear bit of a bitmap. -/
def firstClear (b : BitVec 64) : Option Nat := (List.range 64).find? fun k => !b.getLsbD k

/-- METADATA_PUSH (R335): the next access of a metadata fill; each entry goes into the metadata queue of the commanding core once
both its words are read and the queue has space. DEDUCED, log entry 41. -/
def Mach.metadataPush (m : Mach) (cl : Nat) : Mach :=
  let e := copyEng cl
  match (m.eng e).active with
  | none => m
  | some o =>
    let q := Tab.look [] (m.mtx (clusterOf o.cmd.core)).metaq (coreIdx o.cmd.core)
    match firstClear o.bitmap with
    | none => m
    | some k =>
      if o.cmd.opc ≠ 7 ∨ 64 ≤ q.length ∨ ¬ m.opGoes e o then m
      else match m.engReach e o.cmd (o.cmd.src + BitVec.ofNat 64 (16 * k + 8 * o.held.length)) 8 accRead with
        | .error s => m.stopOp e o.cmd s
        | .ok (l, m1) =>
          let (bs, m2) := m1.read l 8
          match o.held with
          | [] => m2.setOp e fun p => { p with held := [⟨16 * k, 0, bs⟩] }
          | w :: _ =>
            (m2.setMtx (clusterOf o.cmd.core) fun x =>
              { x with metaq := Tab.upd [] x.metaq (coreIdx o.cmd.core) (· ++ [leNat (w.bytes ++ bs)]) }).setOp e
                fun p => { p with held := [], bitmap := p.bitmap ||| BitVec.ofNat 64 (2 ^ k) }

/-! ### Ends and faults (R339, R340) -/

/-- The physical address of an engine's MAILBOX for a context (R334). -/
def mailAt (e : EngRef) (c : Nat) : Nat :=
  3 * 2 ^ 48 + kindCode e.kind * 2 ^ 44 + e.unit % 4096 * 2 ^ 32 + c % 256 * 2 ^ 16 + 0x30

/-- A mailbox store (R334, R338), with its mark of module class (23 R402): TICKET is that of the last operation completed, and a
faulted one leaves it. -/
def Mach.mailStore (m : Mach) (e : EngRef) (c : ECmd) (status : Nat) : Mach :=
  let m1 := m.setCtx c.ctx fun x => { x with silt := x.silt.mark .module (mailAt e c.ctx) (engParty e) c.gid }
  m1.setEng e fun x => { x with mail := Tab.upd {} x.mail c.ctx fun b =>
    ⟨(b.count + 1) % 65536, status, if status = 0 then ticketOf e.kind c.core c.serial % 2 ^ 36 else b.ticket⟩ }

/-- The record of an operation that has ended (R343). -/
def Engine.noteEnd (e : Engine) (k : EngKind) (c : ECmd) (b : BitVec 64) : Engine :=
  { e with finished := Tab.upd [] e.finished c.ctx fun l => ((cmdTickets k c, b) :: l).take 64 }

/-- An operation ended with a status: its mailbox store, its record, the marker its external writes request. A schedule's
LOADB has neither mailbox store nor record. -/
def Mach.endOp (m : Mach) (e : EngRef) (c : ECmd) (status : Nat) (b : BitVec 64) (ext : Bool) : Mach :=
  if c.bySched then m
  else ((m.mailStore e c status).setEng e fun x => x.noteEnd e.kind c b).extRequest c.ctx c.gid ext

/-- ENGINE_OPERATION_END (R339): a fence, the credit, the mailbox store; none of them after a strike (22 R390). -/
def Mach.engineEnd (m : Mach) (e : EngRef) : Mach :=
  match (m.eng e).active with
  | none => m
  | some o =>
    if o.bitmap ≠ BitVec.allOnes 64 ∨ o.cmd.chunks.isNone ∨ ¬ m.opGoes e o ∨ (o.cmd.opc = 6 ∧ o.isReady = false) then m
    else
      let m1 := m.creditOwed e o o.cmd.creditOf 0
      m.orHold o.cmd.ctx
        (if m1.paidUp e then (m1.setEng e fun x => { x with active := none }).endOp e o.cmd 0 o.bitmap o.ext else m1)

/-- The fault of a unit's operation (R340, 26 R449). -/
def Mach.engUnitFault (m : Mach) (e : EngRef) (c : ECmd) (f : EFail) (progress : Nat) : Mach :=
  m.unitFault c.ctx (.eng e) (if c.opc = 4 ∨ c.opc = 5 then c.src.toNat else c.op) 0
    { code := f.code, severity := 2, action := 3, unit := 0, valid := if f.addr.isSome then 7 else 3, task := c.gid,
      addr := f.addr.getD 0, detail := f.detail } progress

/-- The active operation faults (R340): the err credit, STATUS 2, the halt line; after a strike of its engine it waits for the
resume (22 R390). A Kaolin slot it was loading is left EMPTY (13 R247). DEDUCED, log entry 41. -/
def Mach.opFault (m : Mach) (e : EngRef) (o : EOp) (f : EFail) : Mach :=
  let m1 := if o.cmd.opc = 6 ∧ o.reach.isSome then m.setSlot e.unit (o.cmd.dst.toNat % 64) fun _ => {} else m
  let m2 := m1.creditOwed e o 0 2
  if m2.paidUp e then
    ((m2.setEng e fun x => { x with active := none }).endOp e o.cmd 2 o.bitmap o.ext).engUnitFault e o.cmd f o.bitmap.toNat
  else m2

/-! ### Streams (15 R293 to R295) -/

/-- A descriptor's fields, where they keep R293's limits and its KIND is the controller's. -/
def readStream (k : EngKind) (c : ECmd) (bs : List Byte) : Option Stream :=
  let f := fun (i n : Nat) => leNat ((bs.drop i).take n)
  let st := decide (k = .storer)
  let lim := if st then 32768 else 65536
  let s : Stream :=
    { cmd := c, store := st, addr := f 0 8, stride := signedOf 64 (f 8 8), count := f 0x10 4, tile := f 0x14 4,
      ringBase := f 0x18 4, ringSize := f 0x1C 4, barrier := f 0x20 4, done := f 0x24 4, check := decide (f 0x28 2 / 2 % 2 = 1) }
  if s.addr % 64 = 0 ∧ f 8 8 % 64 = 0 ∧ 1 ≤ s.count ∧ 64 ≤ s.tile ∧ s.tile ≤ 16384 ∧ s.tile % 64 = 0 ∧ s.ringBase % 64 = 0 ∧
      0 < s.ringSize ∧ s.ringSize % s.tile = 0 ∧ s.ringBase + s.ringSize ≤ lim ∧ s.barrier % 16 = 0 ∧ s.barrier ≤ 0xFFF0 ∧
      s.done % 8 = 0 ∧ s.done ≤ 0xFFF8 ∧ f 0x28 2 / 4 = 0 ∧ (f 0x28 2 % 2 = 1 ↔ st = true) ∧ f 0x2A 6 = 0 then some s else none

/-- Stream n of an engine changed. -/
def Mach.setStream (m : Mach) (e : EngRef) (n : Nat) (f : Stream → Stream) : Mach :=
  m.setEng e fun x => { x with streams := x.streams.zipIdx.map fun (s, i) => if i = n then f s else s }

/-- A stream stopped by an access. -/
def Mach.stopStream (m : Mach) (e : EngRef) (n : Nat) (s : Stream) (x : EStop) : Mach :=
  match x with
  | .hold => m
  | .fail f => m.setStream e n fun t => { t with failed := some f }
  | .page va k acc =>
    let (i, m1) := m.enterFault s.cmd.ctx va k acc none (some e)
    if i = 4096 then m1 else m1.setStream e n fun t => { t with waiting := some (va.toNat / 65536 * 65536, k) }

/-- A stream may make accesses now. -/
def Mach.streamGoes (m : Mach) (e : EngRef) (s : Stream) : Bool :=
  m.engRuns e s.cmd.ctx && s.waiting.isNone && s.failed.isNone

/-- DONE as the unit reads it now. -/
def Mach.doneOf (m : Mach) (s : Stream) : Nat := max s.seen (m.word (m.frontKey s.cmd.core s.done))

/-- Block j of the stream's next tile: its global address and its place in the ring. -/
def Stream.blockAt (s : Stream) (j : Nat) : Word × Nat :=
  (BitVec.ofInt 64 ((s.addr : Int) + s.k * s.stride + 64 * j), s.ringBase + s.k % s.slots * s.tile + 64 * j)

/-- The place of a byte of a load stream's ring. -/
def ringLoc (core off : Nat) : Loc :=
  ⟨actKey core off, BitVec.ofNat 64 (core * 2 ^ 20 + off), .cluster (clusterOf core), 3, false, false, none⟩

/-- The word at byte o of the stream's next tile read, from global memory or from the ring, and the MARK of its block checked
(R294). DEDUCED, log entry 43. -/
def Mach.streamRead (m : Mach) (e : EngRef) (s : Stream) (o : Nat) : Except EStop (EWord × Mach) :=
  let (va, ring) := s.blockAt (o / 64)
  let bad := fun (bs : List Byte) => s.check && decide (o % 64 = 0) && !blkMark (bs.getD 0 0)
  if s.store then
    let bs := m.peek (accKey s.cmd.core (ring + o % 64)) 8
    if bad bs then .error (.fail ⟨0x6004, none, s.k⟩) else .ok (⟨o, va + BitVec.ofNat 64 (o % 64), bs⟩, m)
  else do
    let (l, m1) ← m.engReach e s.cmd (va + BitVec.ofNat 64 (o % 64)) 8 accRead
    let (bs, m2) := m1.read l 8
    if bad bs then .error (.fail ⟨0x6004, none, s.k⟩) else .ok (⟨o, BitVec.ofNat 64 (ring + o % 64), bs⟩, m2)

/-- A word that the stream holds written, to global memory or to the ring (R294). -/
def Mach.streamWrite (m : Mach) (e : EngRef) (s : Stream) (w : EWord) : Except EStop (Mach × Bool) :=
  if s.store then do
    let (l, m1) ← m.engReach e s.cmd w.dst 8 accWrite
    .ok (m1.engWrite e s.cmd l w.bytes)
  else .ok (m.engWrite e s.cmd (ringLoc s.cmd.core w.dst.toNat) w.bytes)

/-- The counters of a load stream once tile k has arrived (R293). -/
def Stream.loaded (s : Stream) : Stream :=
  let slot := s.k % s.slots
  let per := s.tile / 64
  { s with
    k := s.k + 1
    pushed := (s.pushed + per) % 2 ^ 32
    readBlocks := s.readBlocks.filter fun b => b / per != slot
    dem := if s.early.contains slot then (if s.dem.contains slot then s.dem else slot :: s.dem) else s.dem.filter (· != slot)
    early := s.early.filter (· != slot) }

/-- A stream's next tile may move (R294). -/
def Mach.tileReady (m : Mach) (s : Stream) : Bool :=
  decide (s.k < s.count) && (if s.store then decide (s.k < m.doneOf s) else decide (s.k < m.doneOf s + s.slots))

/-- A stream's next tile has all been written: it is pushed or pulled, and credited. -/
def Mach.tileDone (m : Mach) (e : EngRef) (n : Nat) (s : Stream) : Mach :=
  let m1 := m.setStream e n fun t => if s.store then { t with k := t.k + 1 } else t.loaded
  m1.credit s.cmd.gid (engParty e) s.cmd.core s.barrier s.tile 0

/-- The next access of a stream's next tile (R294): a read of its next word, or a write of one that is held; the last one lets the
tile be credited, unless it strikes (22 R390). DEDUCED, log entries 41 and 43. -/
def Mach.streamAccess (m : Mach) (e : EngRef) (n : Nat) (s : Stream) : Mach :=
  let more := decide (s.moved < s.tile)
  let m0 := { m with free := m.free + 1 }
  match m.engTurn s.held more with
  | some w => match m0.streamWrite e s w with
    | .error x => m0.stopStream e n s x
    | .ok (m1, x) =>
      let rest := s.held.erase w
      let last := rest.isEmpty && !more
      let m2 := m1.setStream e n fun t => { t with ext := t.ext || x, held := rest, moved := if last then 0 else t.moved }
      if last && !m2.hasStruck s.cmd.ctx (engParty e) s.cmd.gid then m2.tileDone e n s else m2
  | none => match m0.streamRead e s s.moved with
    | .error x => m0.stopStream e n s x
    | .ok (w, m1) => m1.setStream e n fun t => { t with held := t.held ++ [w], moved := t.moved + 8 }

/-- STREAM_TILE_LOAD and STREAM_TILE_STORE (R294): the next access of stream n's next tile, and the tile's credit after the last.
DEDUCED, log entry 43. -/
def Mach.streamTile (m : Mach) (e : EngRef) (n : Nat) (store : Bool) : Mach :=
  match (m.eng e).streams[n]? with
  | none => m
  | some s =>
    if s.store ≠ store ∨ ¬ m.streamGoes e s ∨ ¬ m.tileReady s then m
    else
      let s1 := { s with seen := m.doneOf s }
      m.orHold s.cmd.ctx ((m.setStream e n fun t => { t with seen := s1.seen }).streamAccess e n s1)

/-- The four counters written back to the descriptor (R295). DEDUCED, log entry 43. -/
def Mach.writeCounters (m : Mach) (e : EngRef) (s : Stream) : Except EStop (Mach × Bool) := do
  let (l, m1) ← m.engReach e s.cmd (s.cmd.src + 0x30) 16 accWrite
  .ok (m1.engWrite e s.cmd l (leBytes s.pushed 4 ++ leBytes s.used 4 ++ leBytes s.timely 4 ++ leBytes s.demanded 4))

/-- Stream n taken off its engine. -/
def Mach.dropStream (m : Mach) (e : EngRef) (n : Nat) : Mach :=
  m.setEng e fun x => { x with streams := x.streams.eraseIdx n }

/-- STREAM_END (R295). DEDUCED, log entry 43. -/
def Mach.streamEnd (m : Mach) (e : EngRef) (n : Nat) : Mach :=
  match (m.eng e).streams[n]? with
  | none => m
  | some s =>
    if s.k < s.count ∨ ¬ m.streamGoes e s then m
    else match m.writeCounters e s with
      | .error x => m.stopStream e n s x
      | .ok (m1, x) =>
        let m2 := m1.setStream e n fun t => { t with ext := t.ext || x }
        m.orHold s.cmd.ctx
          (if m2.hasStruck s.cmd.ctx (engParty e) s.cmd.gid then m2 else (m2.dropStream e n).endOp e s.cmd 0 (BitVec.allOnes 64) (s.ext || x))

/-- A stream's counters written back before its unit stops or faults (R295), where that is still due; whether they are. Where their
descriptor's page faults, the unit waits for the kernel, and a refusal leaves them unwritten. DEDUCED, log entry 43. -/
def Mach.count (m : Mach) (e : EngRef) (n : Nat) (s : Stream) : Mach × Bool :=
  if s.counted then (m, true)
  else if s.counting && s.waiting.isSome then (m, false)
  else match m.writeCounters e s with
    | .ok (m1, x) => (m1.setStream e n fun t => { t with counted := true, ext := t.ext || x }, true)
    | .error (.fail _) => (m.setStream e n fun t => { t with counted := true }, true)
    | .error x => ((m.stopStream e n s x).setStream e n fun t => { t with counting := true }, false)

/-- A stream faults (R294): its counters are written back (R295), and its barrier is credited with err 2. After a strike of its
unit it waits for the resume (22 R390). -/
def Mach.streamFault (m : Mach) (e : EngRef) (n : Nat) (s : Stream) (f : EFail) : Mach :=
  let (m1, done) := m.count e n s
  if !done || m1.hasStruck s.cmd.ctx (engParty e) s.cmd.gid then m1
  else
    let m2 := (m1.credit s.cmd.gid (engParty e) s.cmd.core s.barrier 0 2).dropStream e n
    (m2.endOp e s.cmd 2 0 s.ext).engUnitFault e s.cmd f (s.tile * s.k)

/-- ENGINE_FAULT (R340): the active operation that has failed faults, or else the first stream that has. -/
def Mach.engineFaults (m : Mach) (e : EngRef) : Mach :=
  let x := m.eng e
  match x.active.bind (fun o => o.failed.map fun f => (o, f)) with
  | some (o, f) =>
    if m.hasStruck o.cmd.ctx (engParty e) o.cmd.gid then m else m.orHold o.cmd.ctx (m.opFault e o f)
  | none => match x.streams.zipIdx.find? fun p => p.1.failed.isSome with
    | some (s, n) => match s.failed with
      | some f => if m.hasStruck s.cmd.ctx (engParty e) s.cmd.gid then m else m.orHold s.cmd.ctx (m.streamFault e n s f)
      | none => m
    | none => m

/-! ### The command's way (R337, R338) -/

/-- A held command may be forwarded: its 64 cycles are over where it is held for merging, no older command of any of its
requesters' cores to its engine is held, and the engine's path is not full. -/
def Mach.forwards (m : Mach) (l : List HeldCmd) (n : Nat) (h : HeldCmd) : Bool :=
  (!h.cmd.merges || decide (h.since + 64 ≤ m.cycle)) && !(m.eng h.eng).full &&
  !(h.cmd.cores.any fun core => holdsOf h.eng core (l.take n))

/-- COMMAND_FORWARD (R338): the node of a cluster forwards its n-th command. -/
def Mach.forward (m : Mach) (cl n : Nat) : Mach :=
  let l := Tab.look [] m.nodes cl
  match l[n]? with
  | none => m
  | some h =>
    if m.forwards l n h then
      { m.setEng h.eng fun x => x.accept h.cmd with nodes := Tab.put [] m.nodes cl (l.eraseIdx n) }
    else m

/-- The next command of an engine that may start (R337): a saved operation of a context that runs again, else the first
of the shadow set and the path. -/
def Mach.nextOp (m : Mach) (e : EngRef) : Option (EOp × Engine) :=
  let x := m.eng e
  match x.saved.find? fun o => m.engRuns e o.cmd.ctx with
  | some o => some (o, { x with saved := x.saved.erase o, active := some o })
  | none =>
    let l := x.shadow.toList ++ x.pend
    match l.find? fun c => m.engRuns e c.ctx with
    | none => none
    | some c =>
      let o : EOp := { cmd := c, bitmap := c.freshBits, failed := c.fault e }
      let r := l.erase c
      some (o, { x with active := some o, shadow := r.head?, pend := r.tail })

/-- A stream of the active ESUB installed, once fewer than 256 are (15 R293). -/
def Mach.installStream (m : Mach) (e : EngRef) (o : EOp) : Mach :=
  if 256 ≤ (m.eng e).streams.length then m
  else match m.engReach e o.cmd o.cmd.src 64 accRead with
    | .error s => m.stopOp e o.cmd s
    | .ok (l, m1) =>
      let (bs, m2) := m1.read l 64
      match readStream e.kind o.cmd bs with
      | none => m2.setOp e fun p => { p with failed := some ⟨0x6001, none, o.cmd.hdr.toNat⟩ }
      | some s => m2.setEng e fun x => { x with active := none, streams := x.streams ++ [s] }

/-! ### The instructions (R341 to R343) -/

/-- Codes of the variants' spaces (R341). -/
def edstCode : EDst → Nat
  | .g => 0
  | .s => 1
  | .a => 2

def esrcCode : ESrc → Nat
  | .g => 0
  | .s => 1
  | .c => 3

/-- ALIGN of R342 on an operand. DEDUCED, log entry 39. -/
def opndAligned (v : Word) (n : Nat) : Except Stop Unit :=
  if v.toNat % n = 0 then .ok () else .error (.trap alignTrap v 0)

/-- PROT of R342 on an operand. DEDUCED, log entry 39. -/
def opndProt (ok : Bool) (v : Word) : Except Stop Unit := if ok then .ok () else .error (.xfault 1 0 v 0)

/-- An offset in its buffer (15 R275): space 2 the activation, 3 the accumulator buffer. -/
def bufferOk (sp : Nat) (v : Word) : Bool :=
  if sp = 2 then decide (v.toNat < 65536) else if sp = 3 then decide (v.toNat < 32768) else true

/-- The barrier operand is at most 0xFFF0 (R342). DEDUCED, log entry 42. -/
def barOk (v : Word) : Bool := decide (v.toNat ≤ 0xFFF0)

/-- The header an instruction sends (R342). -/
def headerOf (op var : Nat) (nb : Bool) (bar : Word) : Word :=
  BitVec.ofNat 64 (op + var * 2 ^ 8 + (if nb then 2 ^ 12 else 0) + bar.toNat % 65536 * 2 ^ 16)

/-- What every form does once checked (R342): a device-scope release, the command, the ticket in lt alone.
DEDUCED, log entry 39. -/
def Mach.command (m : Mach) (e : EngRef) (hdr dst src len : Word) : Except Stop Mach := do
  let m1 ← m.releaseAt (some .dv)
  let c : ECmd := { hdr := hdr, dst := dst, src := src, len := len, ctx := m.cur, core := m.t.core, gid := m.t.gid,
                    rec_ := m.t.rec_, op := m.t.pc.toNat }
  let (t, m2) ← m1.send e c
  .ok { m2 with t := m2.t.putCell 0 ⟨BitVec.ofNat 64 t, .raw, none⟩ }

/-- ECPY (R341). DEDUCED, log entry 39. -/
def ecpyM (mod : Option XMod) (ds : EDst) (ss : ESrc) (d a b c : Opnd) (m : Mach) : Except Stop Mach := do
  m.t.bounds [d, a, b, c]
  let x ← m.t.raw mod d
  let y ← m.t.raw mod a
  let z ← m.t.raw mod b
  let n ← m.t.raw mod c
  opndAligned x 8
  opndAligned y 8
  opndAligned z 16
  opndProt (bufferOk (edstCode ds) x) x
  opndProt (bufferOk (esrcCode ss) y) y
  opndProt (barOk z) z
  if !lenFits n.toNat then .error (illValue m.t)
  else m.command (copyOf m.t.core) (headerOf 1 (edstCode ds + 4 * esrcCode ss) false z) x y n

/-- EGATH (R341). -/
def egathM (mod : Option XMod) (ds : EDst) (d a b c : Opnd) (m : Mach) : Except Stop Mach := do
  m.t.bounds [d, a, b, c]
  let x ← m.t.raw mod d
  let y ← m.t.raw mod a
  let z ← m.t.raw mod b
  let n ← m.t.raw mod c
  opndAligned x 8
  opndAligned y 8
  opndAligned z 16
  opndProt (bufferOk (edstCode ds) x) x
  opndProt (barOk z) z
  if !shapeFits n.toNat then .error (illValue m.t)
  else m.command (copyOf m.t.core) (headerOf 2 (edstCode ds) false z) x y n

/-- ESCAT (R341). -/
def escatM (mod : Option XMod) (ss : ESrc) (d a b c : Opnd) (m : Mach) : Except Stop Mach := do
  m.t.bounds [d, a, b, c]
  let x ← m.t.raw mod d
  let y ← m.t.raw mod a
  let z ← m.t.raw mod b
  let n ← m.t.raw mod c
  opndAligned x 8
  opndAligned y 8
  opndAligned z 16
  opndProt (bufferOk (esrcCode ss) y) y
  opndProt (barOk z) z
  if !shapeFits n.toNat then .error (illValue m.t)
  else m.command (copyOf m.t.core) (headerOf 3 (esrcCode ss) false z) x y n

/-- The base-die unit an ESUB names (R341). -/
def streamUnit (v : Nat) : EngRef := ⟨if v % 16 < 8 then .loader else .storer, v⟩

/-- ESUB (R341). DEDUCED, log entry 39. -/
def esubM (mod : Option XMod) (a b : Opnd) (m : Mach) : Except Stop Mach := do
  m.t.bounds [a, b]
  let x ← m.t.raw mod a
  let y ← m.t.raw mod b
  opndAligned x 64
  opndProt (decide (y.toNat < 256) && (m.partOf m.cur).hbmStacks.contains (y.toNat / 16)) y
  m.command (streamUnit y.toNat) (headerOf 4 0 true 0) y x 0

/-- ECOLL (R341, 25 R436). -/
def ecollM (mod : Option XMod) (a b : Opnd) (m : Mach) : Except Stop Mach := do
  m.t.bounds [a, b]
  let x ← m.t.raw mod a
  let y ← m.t.raw mod b
  opndAligned x 64
  opndAligned y 16
  opndProt (barOk y) y
  m.command ⟨.collective, dieOf m.t.core⟩ (headerOf 5 0 false y) 0 x 0

/-- MLOADB (R341). -/
def mloadbM (mod : Option XMod) (d a b : Opnd) (m : Mach) : Except Stop Mach := do
  m.t.bounds [d, a, b]
  let x ← m.t.raw mod d
  let y ← m.t.raw mod a
  let z ← m.t.raw mod b
  opndAligned y 64
  opndAligned z 16
  opndProt (barOk z) z
  opndProt (decide (x.toNat < 64)) x
  m.command (copyOf m.t.core) (headerOf 6 0 false z) x y 8192

/-- The engine at whose page's offset 0 an address stands (R341). DEDUCED, log entry 55. -/
def Mach.pageEngine (m : Mach) (a : Word) : Except Stop (EngRef × Mach) :=
  match m.reach m.cur (clusterOf m.t.core) a 8 accWrite with
  | .error k => .error (.xfault k accWrite a 0)
  | .ok (l, m1) => match l.home, devPage l.key with
    | .dev, some (e, _, 0) => if l.eng then .ok (e, m1) else .error (.xfault 1 accWrite a 0)
    | _, _ => .error (.xfault 1 accWrite a 0)

/-- ECMD (R341): a1 to a4 as they stand. -/
def ecmdM (mod : Option XMod) (a : Opnd) (m : Mach) : Except Stop Mach := do
  m.t.bounds [a]
  let x ← m.t.raw mod a
  let (e, m1) ← m.pageEngine x
  let w := fun (i : Fin 8) => m1.t.val (.code i)
  m1.command e (w 1) (w 2) (w 3) (w 4)

/-- The bitmap of a ticket's operation among an engine's (R343): queued, active or ended. -/
def Engine.bitsOf (x : Engine) (k : EngKind) (c t : Nat) : Option (BitVec 64) :=
  let here := fun (q : ECmd) => q.ctx == c && (cmdTickets k q).contains t
  match (x.active.toList ++ x.saved).find? fun o => here o.cmd with
  | some o => some o.bitmap
  | none => match (x.shadow.toList ++ x.pend ++ x.streams.map (·.cmd)).find? here with
    | some q => some q.freshBits
    | none => ((Tab.look [] x.finished c).find? fun p => p.1.contains t).map Prod.snd

/-- The bitmap of a ticket's operation (R343). DEDUCED, log entry 41. -/
def Mach.bitsOf (m : Mach) (c t : Nat) : Option (BitVec 64) :=
  match kindOf (t / 2 ^ 36) with
  | none => none
  | some k =>
    let held := (m.nodes.flatMap Prod.snd).find? fun h => h.eng.kind == k && h.cmd.ctx == c && (cmdTickets k h.cmd).contains t
    let colls := (m.colls.flatMap Prod.snd).find? fun h => k == .collective && h.cmd.ctx == c && (cmdTickets k h.cmd).contains t
    match held, colls with
    | some h, _ => some h.cmd.freshBits
    | none, some _ => some 0
    | none, none => m.engines.findSome? fun (j, x) => if j / 4096 = kindCode k then x.bitsOf k c t else none

/-- EBMP (R343). -/
def ebmpM (mod : Option XMod) (d a : Opnd) (m : Mach) : Except Stop Mach := do
  m.t.bounds [d, a]
  let v ← m.t.raw mod a
  let t := v.toNat
  match (if t / 2 ^ 16 % 2 ^ 8 = 0 then m.bitsOf m.cur t else none) with
  | none => .error (.trap staleHandle v 0)
  | some b => .ok { m with t := { m.t.wr d b .raw with phase := .parked .mem } }

end Sys2Proof.Machine
end

