-- ==== Sys2Proof/Machine/Collect.lean ====
section
/-! DEFINITION. The collective engine's operations (25 R435 to R439): descriptors, the order of TAGs, the elements of a
collective, its end, holds and aborts; and how an engine starts a command (18 R337). -/

namespace Sys2Proof.Machine

/-- The collective engine of a die. -/
def collEng (die : Nat) : EngRef := ⟨.collective, die⟩

/-- The collectives in progress at a die's engine. -/
def Mach.collsAt (m : Mach) (die : Nat) : List Coll := Tab.look [] m.colls die

/-- The n-th collective of a die changed. -/
def Mach.setColl (m : Mach) (die n : Nat) (f : Coll → Coll) : Mach :=
  { m with colls := Tab.upd [] m.colls die fun l => l.zipIdx.map fun (c, i) => if i = n then f c else c }

/-- Bytes of an element of a TYPE (R436). -/
def collSize (type : Nat) : Nat := if type = 3 then 2 else 4

/-- The members of a context's group entry (R435). -/
def Mach.groupOf (m : Mach) (c g : Nat) : List Member := Tab.look [] (m.ctx c).groups g

/-- This context's rank among the members: the module itself is the empty route (R435). -/
def rankIn (ms : List Member) (c : Nat) : Option Nat := ms.findIdx? fun x => x.route.isEmpty && x.ctx == c

/-- A descriptor's fields within R436's limits, for a group entry that is neither empty nor foreign. -/
def Mach.readColl (m : Mach) (c : ECmd) (bs : List Byte) : Option Coll :=
  let f := fun (i n : Nat) => leNat ((bs.drop i).take n)
  let ms := m.groupOf c.ctx (f 4 4)
  match rankIn ms c.ctx with
  | none => none
  | some r =>
    let k : Coll :=
      { op := f 0 1, type := f 1 1, red := f 2 1, root := f 3 1, group := f 4 4, src := f 8 8, dst := f 0x10 8,
        count := f 0x18 8, tag := f 0x20 8, rank := r, n := ms.length, cmd := c }
    let reduces := decide (k.op = 1) || decide (k.op = 2)
    if 1 ≤ k.op ∧ k.op ≤ 4 ∧ 1 ≤ k.type ∧ k.type ≤ 3 ∧ (if reduces then k.red < 3 else k.red = 0) ∧
        (if k.op = 4 then k.root < k.n else k.root = 0) ∧ k.group < 64 ∧ k.src % collSize k.type = 0 ∧
        k.dst % collSize k.type = 0 ∧ 1 ≤ k.count ∧ k.count ≤ 2 ^ 32 ∧ (k.op = 2 → k.count % k.n = 0) ∧ f 0x2C 20 = 0 then
      some k
    else none

/-- The active ECOLL's descriptor read, and the collective in progress (R437): it holds the active set until it ends (18 R337). -/
def Mach.installColl (m : Mach) (e : EngRef) (o : EOp) : Mach :=
  if (m.collsAt e.unit).any (·.cmd == o.cmd) then m
  else match m.engReach e o.cmd o.cmd.src 64 accRead with
  | .error s => m.stopOp e o.cmd s
  | .ok (l, m1) =>
    let (bs, m2) := m1.read l 64
    match m2.readColl o.cmd bs with
    | none => m2.setOp e fun p => { p with failed := some ⟨0x6001, none, o.cmd.hdr.toNat⟩ }
    | some k => { m2 with colls := Tab.upd [] m2.colls e.unit (· ++ [k]) }

/-- An operation of a kind without chunks taken in: its stream or its collective. -/
def Mach.install (m : Mach) (e : EngRef) (o : EOp) : Mach :=
  if !m.opGoes e o then m
  else if o.cmd.opc = 4 then m.installStream e o
  else if o.cmd.opc = 5 then m.installColl e o
  else m

/-- ENGINE_OPERATION_START (18 R337): the engine takes a command into its active set, and installs the stream or the
collective it names. -/
def Mach.engineStart (m : Mach) (e : EngRef) : Mach :=
  match (m.eng e).active with
  | some o => m.install e o
  | none => match m.nextOp e with
    | none => m
    | some (o, x) => (m.setEng e fun _ => x).install e o

/-! ### Elements (R436, R437) -/

/-- The elements a collective performs. -/
def Coll.steps (k : Coll) : Nat := if k.op = 2 then k.count / k.n else k.count

/-- The element of SRC that this member contributes to step i. -/
def Coll.srcIndex (k : Coll) (i : Nat) : Nat := if k.op = 2 then k.rank * (k.count / k.n) + i else i

/-- The bytes written at DST (R436). -/
def Coll.bytes (k : Coll) : Nat := (if k.op = 3 then k.n * k.count else k.steps) * collSize k.type

/-- FP32's, or BF16's, reduction (R437): the exact sum rounded once under RNE, or the fold of VMAX or VMIN. -/
def redFloat (f : Fmt) (red : Nat) (xs : List Nat) : Nat × FSet :=
  match red with
  | 0 =>
    let vs := xs.map f.decode
    match f.nanOf vs with
    | some r => r
    | none => f.sum {} vs
  | k => match xs with
    | [] => (0, {})
    | x :: r => r.foldl (fun a y =>
      let z := f.minmax {} (k == 1) a.1 y
      (z.1, a.2.or z.2)) (x, {})

/-- A reduced element (R437). -/
def redElem (type red : Nat) (xs : List Nat) : Nat × FSet :=
  match type with
  | 1 =>
    let vs := xs.map (signedOf 32)
    let v := match red with
      | 0 => vs.sum
      | 1 => vs.foldl max (vs.headD 0)
      | _ => vs.foldl min (vs.headD 0)
    ((v % 2 ^ 32).toNat, {})
  | 2 => redFloat fp32 red xs
  | _ => redFloat bf16 red xs

/-- The peers' bytes, those that the event does not carry being free (log entry 7). DEDUCED, log entry 44. -/
def peerBytes (free n : Nat) (bs : List Byte) : List Byte :=
  (List.range n).map fun i => if i < bs.length then bs.getD i 0 else Config.collByte (free + i)

/-- The contributions to a step in rank order: this member's, and its peers'. -/
def Coll.contributions (k : Coll) (own : Nat) (peers : List Byte) : List Nat :=
  (List.range k.n).map fun r =>
    if r = k.rank then own
    else
      let j := if r < k.rank then r else r - 1
      leNat ((peers.drop (j * collSize k.type)).take (collSize k.type))

/-- What step i writes: addresses and elements, and the flags it raises. -/
def Coll.results (k : Coll) (i : Nat) (xs : List Nat) : List (Nat × Nat) × FSet :=
  let z := collSize k.type
  match k.op with
  | 3 => ((List.range k.n).map fun r => (k.dst + z * (r * k.count + i), xs.getD r 0), {})
  | 4 => ([(k.dst + z * i, xs.getD k.root 0)], {})
  | _ =>
    let (v, f) := redElem k.type k.red xs
    ([(k.dst + z * i, v)], f)

/-- The FLAGS of a set (R436). -/
def flagWord (f : FSet) : Nat :=
  (if f.iv then 1 else 0) + (if f.dz then 2 else 0) + (if f.of then 4 else 0) + (if f.uf then 8 else 0) + (if f.nx then 16 else 0)

/-- The operation of a collective, whether its engine has it active or has saved it (18 R337). -/
def Mach.collOp (m : Mach) (die : Nat) (k : Coll) : Option EOp :=
  let x := m.eng (collEng die)
  (x.active.toList ++ x.saved).find? (·.cmd == k.cmd)

/-- A collective's operation changed. -/
def Mach.setCollOp (m : Mach) (die : Nat) (k : Coll) (f : EOp → EOp) : Mach :=
  let g := fun (o : EOp) => if o.cmd = k.cmd then f o else o
  m.setEng (collEng die) fun x => { x with active := x.active.map g, saved := x.saved.map g }

/-- The n-th collective of a die leaves its engine, and its TAG has ended (R437). -/
def Mach.dropColl (m : Mach) (die n : Nat) (k : Coll) : Mach :=
  let m1 := m.setEng (collEng die) fun x =>
    { x with active := x.active.filter (·.cmd != k.cmd), saved := x.saved.filter (·.cmd != k.cmd) }
  { m1 with colls := Tab.upd [] m1.colls die (·.eraseIdx n) }.setCtx k.cmd.ctx fun x =>
    { x with tags := Tab.put 0 x.tags k.group (k.tag + 1) }

/-- The credits that a collective still owes its requesters, as far as a strike lets it make them, and whether all are made
(22 R390). -/
def Mach.payColl (m : Mach) (die : Nat) (k : Coll) (n err : Nat) : Mach × Bool :=
  let e := collEng die
  let paid := ((m.collOp die k).map (·.credits)).getD 0
  let owed := k.cmd.credited.drop paid
  let (m1, j) := m.creditSome e k.cmd n err owed
  (m1.setCollOp die k fun o => { o with credits := o.credits + j }, decide (owed.length ≤ j) && !m1.hasStruck k.cmd.ctx (engParty e) k.cmd.gid)

/-- A collective may take a step: its engine runs its context and has it active, no HOLD stands, and its TAG's turn has come
(18 R337, 25 R437, R438). DEDUCED, log entry 44. -/
def Mach.collGoes (m : Mach) (die : Nat) (k : Coll) : Bool :=
  (m.eng (collEng die)).active.any (·.cmd == k.cmd) && m.engRuns (collEng die) k.cmd.ctx && !k.held && k.waiting.isNone && k.failed.isNone && !k.aborted &&
  Tab.look 0 (m.ctx k.cmd.ctx).tags k.group == k.tag

/-- A collective stopped by an access. -/
def Mach.stopColl (m : Mach) (die n : Nat) (k : Coll) (x : EStop) : Mach :=
  match x with
  | .hold => m
  | .fail f => m.setColl die n fun t => { t with failed := some f }
  | .page va c acc =>
    let (i, m1) := m.enterFault k.cmd.ctx va c acc none (some (collEng die))
    if i = 4096 then m1 else m1.setColl die n fun t => { t with waiting := some (va.toNat / 65536 * 65536, c) }

/-- Elements written at their addresses, each logged as an engine's write (R437). -/
def Mach.writeElems (m : Mach) (e : EngRef) (c : ECmd) (z : Nat) : List (Nat × Nat) → Except EStop Mach
  | [] => .ok m
  | (a, v) :: r => do
    let (l, m1) ← m.engReach e c (BitVec.ofNat 64 a) z accWrite
    (m1.engWrite e c l (leBytes v z)).1.writeElems e c z r

/-- The start of a collective leaves an EXTERNAL mark (R437); the marker it requests waits for its end (23 R402). -/
def Mach.startColl (m : Mach) (die n : Nat) (k : Coll) : Mach :=
  let m1 := m.setCtx k.cmd.ctx fun x =>
    let s := x.silt.mark .external k.cmd.src.toNat (engParty (collEng die)) k.cmd.gid
    { x with silt := { s with requests := x.silt.requests } }
  m1.setColl die n fun t => { t with started := true }

/-- One step of a collective: the accesses of the next element. -/
def Mach.collElem (m : Mach) (die : Nat) (k : Coll) (bs : List Byte) : Except EStop (Mach × FSet) := do
  let e := collEng die
  let z := collSize k.type
  let (l, m1) ← m.engReach e k.cmd (BitVec.ofNat 64 (k.src + z * k.srcIndex k.step)) z accRead
  let (own, m2) := m1.read l z
  let need := (k.n - 1) * z
  let xs := k.contributions (leNat own) (peerBytes m2.free need bs)
  let (ws, f) := k.results k.step xs
  let m3 ← { m2 with free := m2.free + need }.writeElems e k.cmd z ws
  .ok (m3, f)

/-- A collective aborted (R439): its barrier is credited with err 1, with the error record 0x4004. DEDUCED, log entry 44. -/
def Mach.abortColl (m : Mach) (die n : Nat) (k : Coll) : Mach :=
  let r : ErrRec := { code := 0x4004, severity := 1, action := 1, unit := engParty (collEng die), valid := 3, task := k.cmd.gid,
                      detail := k.group % 256 + k.tag % 2 ^ 32 * 2 ^ 32 }
  let (m1, _) := (m.note k.cmd.ctx r).payColl die k 0 1
  (m1.dropColl die n k).endOp (collEng die) k.cmd 0 0 k.started

/-- A collective whose elements are all performed ends: FLAGS, the credit as a release at sy, the mailbox store.
DEDUCED, log entry 44. -/
def Mach.endColl (m : Mach) (die n : Nat) (k : Coll) : Mach :=
  let e := collEng die
  match m.writeElems e k.cmd 4 [(k.cmd.src.toNat + 0x28, k.flags)] with
  | .error x => m.stopColl die n k x
  | .ok m1 =>
    let (m2, done) := if m1.hasStruck k.cmd.ctx (engParty e) k.cmd.gid then (m1, false) else m1.payColl die k k.bytes 0
    m.orHold k.cmd.ctx (if done then (m2.dropColl die n k).endOp e k.cmd 0 (BitVec.allOnes 64) true else m2)

/-- COLLECTIVE_STEP (R437): the n-th collective of a die starts, or performs its next element. A collective of a group whose
members have been aborted aborts at its start (R439). DEDUCED, log entry 44. -/
def Mach.collStep (m : Mach) (die n : Nat) (bs : List Byte) : Mach :=
  match (m.collsAt die)[n]? with
  | none => m
  | some k =>
    if !m.collGoes die k then m
    else if (m.ctx k.cmd.ctx).deadGroups.contains k.group then m.orHold k.cmd.ctx (m.abortColl die n k)
    else if !k.started then m.orHold k.cmd.ctx (m.startColl die n k)
    else if k.steps ≤ k.step then m
    else match m.collElem die k bs with
      | .error x => m.stopColl die n k x
      | .ok (m1, f) => m.orHold k.cmd.ctx (m1.setColl die n fun t => { t with step := t.step + 1, flags := t.flags ||| flagWord f })

/-- ENGINE_OPERATION_END of a collective: the first of a die's that has performed every element. -/
def Mach.collEnd (m : Mach) (die : Nat) : Mach :=
  match (m.collsAt die).zipIdx.find? fun p => m.collGoes die p.1 && p.1.started && decide (p.1.steps ≤ p.1.step) with
  | some (k, n) => m.endColl die n k
  | none => m

/-- ENGINE_FAULT of a collective: the first of a die's that has failed (18 R340). -/
def Mach.collFaults (m : Mach) (die : Nat) : Mach :=
  match (m.collsAt die).zipIdx.find? fun p => p.1.failed.isSome with
  | some (k, n) => match k.failed with
    | some f =>
      let e := collEng die
      if m.hasStruck k.cmd.ctx (engParty e) k.cmd.gid then m
      else
        let (m1, done) := m.payColl die k 0 2
        m.orHold k.cmd.ctx
          (if done then
            ((m1.dropColl die n k).endOp e k.cmd 2 0 k.started).engUnitFault e k.cmd f (k.step + k.tag % 2 ^ 32 * 2 ^ 32)
          else m1)
    | none => m
  | none => m

/-- COLLECTIVE_HOLD and COLLECTIVE_RESUME (R438): HOLD flits stand for a context's collectives at a die while its halt
does. -/
def Mach.collHold (m : Mach) (die c : Nat) (on : Bool) : Mach :=
  if (m.ctx c).halt.line ≠ on then m
  else { m with colls := Tab.upd [] m.colls die fun l => l.map fun k => if k.cmd.ctx = c then { k with held := on } else k }

/-- A member of a group has died, or a port on its routes is down (R439): the group's collectives of the context abort, each
started one at a die, and later ones abort at their start. -/
def Mach.memberAbort (m : Mach) (die c g : Nat) : Mach :=
  let m1 := m.setCtx c fun x => { x with deadGroups := if x.deadGroups.contains g then x.deadGroups else x.deadGroups ++ [g] }
  match (m1.collsAt die).zipIdx.find? fun p => p.1.cmd.ctx == c && p.1.group == g && p.1.started with
  | some (k, n) => m1.orHold c (m1.abortColl die n k)
  | none => m1

end Sys2Proof.Machine
end

