-- ==== Sys2Proof/Machine/Scalar.lean ====
section
/-! DEFINITION. The meanings of page 0's integer, address and control instructions (05), of the window forms and of the
tag instructions (08): each one effect of ScalarOps under its rule inside a region (R370). -/

namespace Sys2Proof.Machine

/-- ADD (R89), with the mark of a region (R370). -/
def execAdd (m : Option XMod) (d a b : Opnd) (s : State) : Step State :=
  issueT (sumRule m [a, b]) (addT m d a b) s

/-- SUB (R89), with the mark of a region (R370). -/
def execSub (m : Option XMod) (d a b : Opnd) (s : State) : Step State :=
  issueT (sumRule m [a, b]) (subT m d a b) s

/-- AND (R89). -/
def execAnd (m : Option XMod) (d a b : Opnd) (s : State) : Step State :=
  issueT (.conc (keysOf [a, b])) (binT m d a b (fun x y => x &&& y) .raw) s

/-- OR (R89). -/
def execOr (m : Option XMod) (d a b : Opnd) (s : State) : Step State :=
  issueT (.conc (keysOf [a, b])) (binT m d a b (fun x y => x ||| y) .raw) s

/-- XOR (R89). -/
def execXor (m : Option XMod) (d a b : Opnd) (s : State) : Step State :=
  issueT (.conc (keysOf [a, b])) (binT m d a b (fun x y => x ^^^ y) .raw) s

/-- SHL (R89). -/
def execShl (m : Option XMod) (d a b : Opnd) (s : State) : Step State :=
  issueT (.conc (keysOf [a, b])) (binT m d a b (fun x y => x <<< shiftCount y) .raw) s

/-- SHR (R89). -/
def execShr (m : Option XMod) (d a b : Opnd) (s : State) : Step State :=
  issueT (.conc (keysOf [a, b])) (binT m d a b (fun x y => x >>> shiftCount y) .raw) s

/-- SAR (R89). -/
def execSar (m : Option XMod) (d a b : Opnd) (s : State) : Step State :=
  issueT (.conc (keysOf [a, b])) (binT m d a b (fun x y => x.sshiftRight (shiftCount y)) .raw) s

/-- MUL (R89). -/
def execMul (m : Option XMod) (d a b : Opnd) (s : State) : Step State :=
  issueT (.conc (keysOf [a, b])) (binT m d a b (fun x y => clampIf (satOf m) (x.toInt * y.toInt)) .raw) s

/-- MULH (R89). -/
def execMulh (m : Option XMod) (d a b : Opnd) (s : State) : Step State :=
  issueT (.conc (keysOf [a, b])) (binT m d a b (fun x y => low64 (x.toInt * y.toInt / 2 ^ 64)) .raw) s

/-- MULHN (R89). -/
def execMulhn (m : Option XMod) (d a b : Opnd) (s : State) : Step State :=
  issueT (.conc (keysOf [a, b])) (binT m d a b (fun x y => BitVec.ofNat 64 (x.toNat * y.toNat / 2 ^ 64)) .raw) s

/-- MIN (R89). -/
def execMin (m : Option XMod) (d a b : Opnd) (s : State) : Step State :=
  issueT (.conc (keysOf [a, b])) (binT m d a b (fun x y => if x.toInt ≤ y.toInt then x else y) .raw) s

/-- MAX (R89). -/
def execMax (m : Option XMod) (d a b : Opnd) (s : State) : Step State :=
  issueT (.conc (keysOf [a, b])) (binT m d a b (fun x y => if x.toInt ≤ y.toInt then y else x) .raw) s

/-- MINN (R89). -/
def execMinn (m : Option XMod) (d a b : Opnd) (s : State) : Step State :=
  issueT (.conc (keysOf [a, b])) (binT m d a b (fun x y => if x.toNat ≤ y.toNat then x else y) .raw) s

/-- MAXN (R89). -/
def execMaxn (m : Option XMod) (d a b : Opnd) (s : State) : Step State :=
  issueT (.conc (keysOf [a, b])) (binT m d a b (fun x y => if x.toNat ≤ y.toNat then y else x) .raw) s

/-- ANDN (R89). -/
def execAndn (m : Option XMod) (d a b : Opnd) (s : State) : Step State :=
  issueT (.conc (keysOf [a, b])) (binT m d a b (fun x y => x &&& ~~~y) .raw) s

/-- DIV (R90). -/
def execDiv (m : Option XMod) (d a b : Opnd) (s : State) : Step State :=
  issueT (.conc (keysOf [a, b])) (divT m d a b (sdivW)) s

/-- DIVN (R90). -/
def execDivn (m : Option XMod) (d a b : Opnd) (s : State) : Step State :=
  issueT (.conc (keysOf [a, b])) (divT m d a b (fun x y => BitVec.ofNat 64 (x.toNat / y.toNat))) s

/-- REM (R90). -/
def execRem (m : Option XMod) (d a b : Opnd) (s : State) : Step State :=
  issueT (.conc (keysOf [a, b])) (divT m d a b (sremW)) s

/-- REMN (R90). -/
def execRemn (m : Option XMod) (d a b : Opnd) (s : State) : Step State :=
  issueT (.conc (keysOf [a, b])) (divT m d a b (fun x y => BitVec.ofNat 64 (x.toNat % y.toNat))) s

/-- LEA (R91). -/
def execLea (m : Option XMod) (sc : Scale) (d a b : Opnd) (s : State) : Step State :=
  issueT (.conc (keysOf [a, b])) (binT m d a b (fun x y => x + y <<< scaleShift sc) .addr) s

/-- BFX (R92). -/
def execBfx (m : Option XMod) (d a b : Opnd) (s : State) : Step State :=
  issueT (.conc (keysOf [a, b])) (binT m d a b bfxW .raw) s

/-- BFI (R92). -/
def execBfi (m : Option XMod) (d a b c : Opnd) (s : State) : Step State :=
  issueT (.conc (keysOf [a, b, c])) (bfiT m d a b c) s

/-- SEL (R93). -/
def execSel (m : Option XMod) (d a b c : Opnd) (s : State) : Step State :=
  issueT (.conc (keysOf [a, b, c])) (selT m d a b c) s

/-- ADDI (R94). -/
def execAddi (m : Option XMod) (d a : Opnd) (imm : Int) (s : State) : Step State :=
  issueT (sumRule m [a]) (addiT m d a imm) s

/-- MOVI (R95). -/
def execMovi (d : Opnd) (imm : Int) (s : State) : Step State :=
  issueT .own (putT d (BitVec.ofInt 64 imm) .raw) s

/-- MOV (R96). -/
def execMov (_m : Option XMod) (d a : Opnd) (s : State) : Step State :=
  issueT .own (movT d a) s

/-- NOT (R96). -/
def execNot (m : Option XMod) (d a : Opnd) (s : State) : Step State :=
  issueT (.conc (keysOf [a])) (unT m d a (fun x => ~~~x)) s

/-- NEG (R96). -/
def execNeg (m : Option XMod) (d a : Opnd) (s : State) : Step State :=
  issueT (.conc (keysOf [a])) (unT m d a (negW (satOf m))) s

/-- ABS (R96). -/
def execAbs (m : Option XMod) (d a : Opnd) (s : State) : Step State :=
  issueT (.conc (keysOf [a])) (unT m d a (absW (satOf m))) s

/-- CLZ (R96). -/
def execClz (m : Option XMod) (d a : Opnd) (s : State) : Step State :=
  issueT (.conc (keysOf [a])) (unT m d a (fun x => BitVec.ofNat 64 (clzW x))) s

/-- CTZ (R96). -/
def execCtz (m : Option XMod) (d a : Opnd) (s : State) : Step State :=
  issueT (.conc (keysOf [a])) (unT m d a (fun x => BitVec.ofNat 64 (ctzW x))) s

/-- POPC (R96). -/
def execPopc (m : Option XMod) (d a : Opnd) (s : State) : Step State :=
  issueT (.conc (keysOf [a])) (unT m d a (fun x => BitVec.ofNat 64 (popcW x))) s

/-- BREV (R96). -/
def execBrev (m : Option XMod) (d a : Opnd) (s : State) : Step State :=
  issueT (.conc (keysOf [a])) (unT m d a (brevW)) s

/-- SEXTB (R96). -/
def execSextB (m : Option XMod) (d a : Opnd) (s : State) : Step State :=
  issueT (.conc (keysOf [a])) (unT m d a (sextBits 8)) s

/-- SEXTH (R96). -/
def execSextH (m : Option XMod) (d a : Opnd) (s : State) : Step State :=
  issueT (.conc (keysOf [a])) (unT m d a (sextBits 16)) s

/-- SEXTW (R96). -/
def execSextW (m : Option XMod) (d a : Opnd) (s : State) : Step State :=
  issueT (.conc (keysOf [a])) (unT m d a (sextBits 32)) s

/-- ZEXTB (R96). -/
def execZextB (m : Option XMod) (d a : Opnd) (s : State) : Step State :=
  issueT (.conc (keysOf [a])) (unT m d a (zextBits 8)) s

/-- ZEXTH (R96). -/
def execZextH (m : Option XMod) (d a : Opnd) (s : State) : Step State :=
  issueT (.conc (keysOf [a])) (unT m d a (zextBits 16)) s

/-- ZEXTW (R96). -/
def execZextW (m : Option XMod) (d a : Opnd) (s : State) : Step State :=
  issueT (.conc (keysOf [a])) (unT m d a (zextBits 32)) s

/-- WID (R74, R98). -/
def execWid (d : Opnd) (n : Fin 6) (s : State) : Step State :=
  issueT .own (fun t => putT d (widField t.ctl.widShape t.workId n.val) .raw t) s

/-- SHLI (R97). -/
def execShli (m : Option XMod) (d a : Opnd) (k : Nat) (s : State) : Step State :=
  issueT (.conc (keysOf [a])) (unT m d a (fun x => x <<< k)) s

/-- SHRI (R97). -/
def execShri (m : Option XMod) (d a : Opnd) (k : Nat) (s : State) : Step State :=
  issueT (.conc (keysOf [a])) (unT m d a (fun x => x >>> k)) s

/-- SARI (R97). -/
def execSari (m : Option XMod) (d a : Opnd) (k : Nat) (s : State) : Step State :=
  issueT (.conc (keysOf [a])) (unT m d a (fun x => x.sshiftRight k)) s

/-- ANDI (R97). -/
def execAndi (m : Option XMod) (d a : Opnd) (imm : Int) (s : State) : Step State :=
  issueT (.conc (keysOf [a])) (unT m d a (fun x => x &&& BitVec.ofInt 64 imm)) s

/-- CMP (R99). -/
def execCmp (m : Option XMod) (c : Cond) (p : Fin 8) (a b : Opnd) (s : State) : Step State :=
  issueT .own (cmpT m c p a (.inl b)) s

/-- CMPI (R99). -/
def execCmpi (m : Option XMod) (c : Cond) (p : Fin 8) (a : Opnd) (imm : Int) (s : State) : Step State :=
  issueT .own (cmpT m c p a (.inr imm)) s

/-- BC (R100). -/
def execBc (p : Fin 8) (off : Int) (s : State) : Step State :=
  issueT .own (bcT p true off) s

/-- BC.n (R100). -/
def execBcN (p : Fin 8) (off : Int) (s : State) : Step State :=
  issueT .own (bcT p false off) s

/-- BR (R101). -/
def execBr (off : Int) (s : State) : Step State :=
  issueT .own (fun t => .ok (t.jump (t.target off))) s

/-- CALL (R101). -/
def execCall (off : Int) (s : State) : Step State :=
  issueT .own (callT off) s

/-- NOP (R105). -/
def execNop  (s : State) : Step State :=
  issueT .own (fun t => .ok t) s

/-- BRI (R102). -/
def execBri (a : Opnd) (s : State) : Step State :=
  issueT (.conc (keysOf [a])) (briT a) s

/-- CALLI (R102). -/
def execCalli (a : Opnd) (s : State) : Step State :=
  issueT (.conc (keysOf [a])) (calliT a) s

/-- RET (R102). -/
def execRet  (s : State) : Step State :=
  issueT (.conc [slotKey 0]) retT s

/-- LOOP (R104). -/
def execLoop (m : Option XMod) (a : Opnd) (off : Int) (s : State) : Step State :=
  issueT (.conc (keysOf [a])) (loopT m a off) s

/-- LDX (R145, R162). -/
def execLdx (_m : Option XMod) (d : Opnd) (x : Fin 4) (k : Nat) (s : State) : Step State :=
  issueT .own (ldxT d x k) s

/-- STX (R145, R162). -/
def execStx (_m : Option XMod) (d : Opnd) (x : Fin 4) (k : Nat) (s : State) : Step State :=
  issueT .own (stxT d x k) s

/-- XSET (R144). -/
def execXset (x : Fin 4) (k : Nat) (s : State) : Step State :=
  issueT .own (xsetT x k) s

/-- XADD (R144). -/
def execXadd (x : Fin 4) (k : Int) (s : State) : Step State :=
  issueT .own (xaddT x k) s

/-- TAGSET (R164): a marked source is concretized, where it executes. -/
def execTagset (_m : Option XMod) (g : Fin 8) (t : Tag) (d a : Opnd) (s : State) : Step State :=
  issueT (.conc (if s.m.t.lane0 g then keysOf [a] else [])) (tagsetT g t d a) s

/-- TAGGET (R164). -/
def execTagget (_m : Option XMod) (g : Fin 8) (d a : Opnd) (s : State) : Step State :=
  issueT .own (taggetT g d a) s

end Sys2Proof.Machine
end

