-- ==== Sys2Proof/Machine/Sched.lean ====
section
/-! DEFINITION. The task unit (04 R65, R75 to R81, 19 R356 to R361): which slots are taken, which tasks may be seated on a
core, seating, unseating, stealing, and the slots of a gang. -/

namespace Sys2Proof.Machine

/-! ### Slots -/

/-- The members a task's gang has, or must have before its next instruction (04 R75, R78); 1 outside a gang. -/
def Task.gangNeed (t : Task) : Nat :=
  if t.regang ≠ 0 then t.regang
  else match t.phase with
    | .waiting (.gang n) => n
    | _ => t.gangSize

/-- The first member's core of a gang of n whose leader sits on a core (R75). -/
def gangBase (core n : Nat) : Nat := core / n * n

/-- The cores on which a task holds or reserves its slot (R75). -/
def Task.slotCores (t : Task) : List Nat := match t.seat with
  | none => []
  | some (c, _) => if t.gangNeed ≤ 1 then [c] else (List.range t.gangNeed).map (gangBase c t.gangNeed + ·)

/-- A slot holds a task, or is a gang's or reserved for one (R75). -/
def Mach.taken (m : Mach) (core slot : Nat) : Bool :=
  m.tasks.any fun t => t.seatedOn && t.slot == slot && t.slotCores.contains core

/-- The task seated on a slot. -/
def Mach.occupant (m : Mach) (core slot : Nat) : Option Task :=
  m.tasks.find? fun t => t.phase != .ended && t.seat == some (core, slot)

/-- The lowest empty slot of a core. -/
def Mach.emptySlot (m : Mach) (core : Nat) : Option Nat := (List.range 16).find? fun s => !m.taken core s

/-- A task is in an unbounded wait (R64); one seated without the gang it must have again waits for it as GANG does (R75, R78). -/
def Task.inWait (t : Task) : Bool := match t.phase with
  | .waiting _ => true
  | .ready => decide (t.regang ≠ 0) && t.seat.isSome
  | _ => false

/-- The lowest slot of a core whose thread is in an unbounded wait (19 R361). -/
def Mach.waiterSlot (m : Mach) (core : Nat) : Option Nat :=
  (List.range 16).find? fun s => match m.occupant core s with
    | some t => t.inWait
    | none => false

/-! ### Eligibility (19 R361) -/

/-- A context's tasks may be seated: it lives, is not being switched out, and its halt line is down. -/
def Mach.seats (m : Mach) (c : Nat) : Bool :=
  let x := m.ctx c
  x.valid && !x.out && !x.killed && !x.halt.line

/-- A task is queued at a core's task unit and could be seated on the core, its gates apart. -/
def Mach.queuedFor (m : Mach) (core : Nat) (t : Task) : Bool :=
  t.phase == .ready && t.seat.isNone && t.cluster == clusterOf core && m.ownsCore (ctxOf t.gid) core &&
  m.seats (ctxOf t.gid) &&
  (match m.boundTo t with
    | some c => c == core
    | none => match t.lines with
      | some c => c == core || t.migrates
      | none => true)

/-- A ready task eligible for a core (R361). DEDUCED, log entry 34. -/
def Mach.eligible (m : Mach) (core : Nat) (t : Task) : Bool := m.queuedFor core t && m.gatesHold t core

/-- The task queued first at the highest priority, of a list (R80). DESIGN CHOICE, log entry 78. -/
def bestOf (ts : List Task) : Option Task :=
  ts.foldl (fun a t => match a with
    | none => some t
    | some b => if b.prio < t.prio ∨ (b.prio = t.prio ∧ t.queueNo < b.queueNo) then some t else some b) none

/-- The task a core's task unit would seat (R361). -/
def Mach.best (m : Mach) (core : Nat) : Option Task := bestOf (m.tasks.filter (m.eligible core))

/-- A task other than g is eligible for a core. -/
def Mach.contested (m : Mach) (core : Nat) (g : Gid) : Bool := m.tasks.any fun t => t.gid != g && m.eligible core t

/-! ### Seating and unseating (R65, R78, R361) -/

/-- A wait as it stands once its task is off its slot (R65): held at an owner, it is a wake note; a GANG's is withdrawn.
DEDUCED, log entry 32. -/
def Phase.setAside (p : Phase) : Phase := match p with
  | .waiting (.word op c o d v s _ q) => .waiting (.word op c o d v s false q)
  | .waiting (.barrier c o k d s _) => .waiting (.barrier c o k d s false)
  | .waiting (.gbar c o k d s _) => .waiting (.gbar c o k d s false)
  | .waiting (.gang _) => .ready
  | p => p

/-- A task off its slot, a continuation; a gang is saved with it (R78). -/
def Task.setAside (t : Task) (now no : Nat) : Task :=
  { t with
    seat := none
    phase := t.phase.setAside
    regang := if t.fol.isEmpty then 0 else t.gangSize
    queuedAt := now, queueNo := no, contAt := now, migrates := false }

/-- A waiting task unseated (R65). -/
def Mach.unseat (m : Mach) (g : Gid) : Mach :=
  match m.find g with
  | none => m
  | some t =>
    let m1 := (m.tick).mapTask g (·.setAside m.cycle m.order)
    match t.phase with
    | .waiting (.barrier c o _ _ _ _) => m1.setWaiters c o
    | .waiting (.gbar c o _ _ _ _) => m1.setWaiters c o
    | _ => m1

/-- A task's priority when it takes a slot (R80, R132): its base priority, or what its open group gives it. -/
def Mach.settlePrio (m : Mach) (g : Gid) : Mach :=
  match m.find g with
  | none => m
  | some t =>
    let m1 := m.mapTask g fun x => { x with prio := x.basePrio }
    match m1.produced t with
    | none => m1
    | some e =>
      let c := ctxOf g
      if (m1.entry c e).state = .eval then m1.inheritPrio c (m1.entry c e).leader else m1

/-- A task seated (R356, R361): seating acts as the BWAIT on each declared object, its acquire among it. -/
def Mach.seatTask (m : Mach) (g : Gid) (core slot : Nat) : Mach :=
  let gated := match m.find g with
    | some t => !(m.declsOf t).isEmpty
    | none => false
  (m.mapTask g fun t =>
    let t1 := { t with seat := some (core, slot), lines := some core, migrates := false, cluster := clusterOf core }
    if gated then t1.acquire .dv m.order else t1).settlePrio g

/-- A gated task whose declared object on a core shows ERR (R356), with its record. -/
def Mach.gateErr (m : Mach) (core : Nat) : Option (Task × Nat) :=
  m.tasks.findSome? fun t =>
    if m.queuedFor core t && (m.declsOf t).any fun (off, _) => (m.bar core off).err then t.rec_.map fun r => (t, r) else none

/-- A declared object of a record shows ERR on a core: the task unit raises the halt line (R356). -/
def Mach.gateFault (m : Mach) (c r core : Nat) : Mach :=
  let at_ := (m.ctx c).poolAt + 256 * r
  m.unitFault c (.taskUnit (clusterOf core)) at_ 0 { code := 0x6007, severity := 2, action := 3, unit := 0, valid := 1, detail := at_ }

/-- One decision of a core's task unit (R361): the best eligible task takes the lowest empty slot, or the slot of the
lowest waiter, which is unseated; a gate that shows ERR raises the halt line instead (R356). -/
def Mach.taskSeat (m : Mach) (core : Nat) : Mach :=
  match m.gateErr core with
  | some (t, r) => m.gateFault (ctxOf t.gid) r core
  | none =>
    match m.best core with
    | none => m
    | some t =>
      match m.emptySlot core with
      | some s => m.seatTask t.gid core s
      | none =>
        match m.waiterSlot core with
        | none => m
        | some s => match m.occupant core s with
          | none => m
          | some w => (m.unseat w.gid).seatTask t.gid core s

/-- A ready task that has waited more than 40,000 cycles rises a level (R80). -/
def Mach.age (m : Mach) (g : Gid) : Mach :=
  match m.find g with
  | none => m
  | some t =>
    if t.phase = .ready ∧ t.seat.isNone ∧ ¬ m.isGated t ∧ m.seats (ctxOf g) ∧ t.prio < 3 ∧ t.queuedAt + 40000 < m.cycle then
      (m.tick).mapTask g fun x => { x with prio := x.prio + 1, queuedAt := m.cycle, queueNo := m.order }
    else m

/-- A continuation queued for 1,024 cycles becomes eligible elsewhere in its cluster (R361). -/
def Mach.migrate (m : Mach) (g : Gid) : Mach :=
  m.mapTask g fun t =>
    if t.phase = .ready ∧ t.seat.isNone ∧ m.boundTo t = none ∧ t.contAt + 1024 ≤ m.cycle then { t with migrates := true } else t

/-! ### Gangs (R75, R78) -/

/-- The cores of a gang of n about a leader's core, the leader's own apart. -/
def gangOthers (core n : Nat) : List Nat := ((List.range n).map (gangBase core n + ·)).filter (· != core)

/-- The slot of a core can be reserved for a gang of a task, with members on some cores (R75): its occupant is in an unbounded
wait, and no other gang has it or waits for it, but one whose leader waits on a member's core and is unseated with it.
DEDUCED, log entry 85. -/
def Mach.reservable (m : Mach) (g : Gid) (members : List Nat) (core slot : Nat) : Bool :=
  m.tasks.all fun t =>
    t.gid == g || !t.seatedOn || t.slot != slot || !t.slotCores.contains core || (t.inWait && members.contains t.core)

/-- A gang of n formed about its leader (R75, R76): occupants unseated, the leader moved to the base core, its follower
images fresh, or those saved. A leader that holds a live tile off the base core moves as any other (R75, against R176).
DEDUCED, log entry 85. -/
def Mach.formGang (m : Mach) (t : Task) (core slot n : Nat) : Mach :=
  let others := gangOthers core n
  if !(others.all fun k => m.reservable t.gid (core :: others) k slot) then m
  else
    let m1 := others.foldl (fun a k => match a.occupant k slot with
      | some w => a.unseat w.gid
      | none => a) m
    m1.mapTask t.gid fun x =>
      let y := { x with seat := some (gangBase core n, slot), lines := some (gangBase core n) }
      if x.regang ≠ 0 then { y with regang := 0 }
      else { y with fol := List.replicate (n - 1) {} }.resume

/-- GANG_FORM (R75, R78): the gang the task waits for, or must have again, is formed if every member's slot can be. -/
def Mach.gangForm (m : Mach) (g : Gid) : Mach :=
  match m.find g with
  | none => m
  | some t => match t.seat with
    | none => m
    | some (core, slot) =>
      if t.gangNeed ≤ 1 ∨ ¬ t.inWait then m else m.formGang t core slot t.gangNeed

/-! ### Steals (R70, R357, R358) -/

/-- A row of a steal table: MODE.CORE, MODE.CLUSTER, and the victim clusters in order (R357). -/
structure StealRow where
  core : Bool := false
  cluster : Bool := false
  victims : List Nat := []
  deriving DecidableEq, Repr

/-- The default row of a cluster: every cluster of the partition, nearest first by die and then by number.
DEDUCED, log entry 34. -/
def defaultRow (cls : List Nat) (cl : Nat) : StealRow :=
  let far := fun (k : Nat) => if k / 128 < cl / 128 then cl / 128 - k / 128 else k / 128 - cl / 128
  { victims := (List.range 4).flatMap fun d => (List.range 512).filter fun k => cls.contains k && far k == d }

/-- Entries of a row's list before 0xFFFF. -/
def rowList (bs : List Byte) : Nat → List Nat
  | 0 => []
  | n + 1 =>
    let v := leNat (bs.take 2)
    if v = 0xFFFF then [] else v :: rowList (bs.drop 2) n

/-- The index of a number in a list. -/
def indexIn (x : Nat) : List Nat → Nat
  | [] => 0
  | k :: r => if k = x then 0 else 1 + indexIn x r

/-- The row of a cluster for a record (R357); a table that cannot be read gives the default row. DEDUCED, log entry 34. -/
def Mach.stealRow (m : Mach) (c : Nat) (r : LaunchRec) (cl : Nat) : StealRow :=
  let cls := (m.partOf c).clusters
  if r.steal = 0 then defaultRow cls cl
  else match m.reach c cl (BitVec.ofNat 64 (r.steal + 32 * indexIn cl cls)) 32 accRead with
    | .error _ => defaultRow cls cl
    | .ok (l, _) =>
      let bs := m.peek l.key 32
      let mode := leNat (bs.take 2)
      ⟨decide (mode % 2 = 1), decide (mode / 2 % 2 = 1), rowList (bs.drop 2) 15⟩

/-- A task is a range task whose interval a steal could split (R70, R271). -/
def Task.splits (t : Task) : Bool :=
  t.phase != .ended && (t.kind == .graph || t.kind == .range) && !t.isSealed && decide (2 ≤ t.hi - t.lo)

/-- The core a task sits on or is bound to. -/
def Task.onCore (t : Task) : Option Nat := match t.seat with
  | some (c, _) => some c
  | none => t.bound

/-- The task with the largest interval, the lowest serial winning a tie (R358). -/
def widest (ts : List Task) : Option Task :=
  ts.foldl (fun a t => match a with
    | none => some t
    | some b =>
      if b.hi - b.lo < t.hi - t.lo ∨ (b.hi - b.lo = t.hi - t.lo ∧ serialOf t.gid < serialOf b.gid) then some t else some b) none

/-- The first of several lists that holds a task, its widest. -/
def firstWidest : List (List Task) → Option Task
  | [] => none
  | l :: r => match widest l with
    | some t => some t
    | none => firstWidest r

/-- The victim of one record for a core (R358). -/
def Mach.victimOf (m : Mach) (c core : Nat) (row : StealRow) (r : Nat) : Option Task :=
  let cl := clusterOf core
  let ts := m.tasks.filter fun t => ctxOf t.gid == c && t.rec_ == some r && t.splits
  let here := m.tasks.any fun t => ctxOf t.gid == c && t.rec_ == some r && t.phase != .ended && t.cluster == cl
  let own := ts.filter fun t => t.onCore == some core
  let near := ts.filter fun t => t.cluster == cl && t.onCore != some core
  let away := row.victims.map fun k => ts.filter fun t => t.cluster == k && k != cl
  if row.cluster && here then none
  else if row.core then widest own
  else firstWidest (own :: near :: away)

/-- An element put before the first that it does not come after. -/
def insertBy {α : Type} (le : α → α → Bool) (x : α) : List α → List α
  | [] => [x]
  | y :: r => if le x y then x :: y :: r else y :: insertBy le x r

/-- The running records of a context, by priority and then by start (R358). DEDUCED, log entry 30. -/
def Mach.runningRecs (m : Mach) (c : Nat) : List Nat :=
  let rs := (m.ctx c).pool.filter fun (_, p) => p.state == .running
  let le := fun (a b : Nat × PoolRec) => decide (b.2.prio < a.2.prio) || (a.2.prio == b.2.prio && decide (a.2.startNo ≤ b.2.startNo))
  (rs.foldr (insertBy le) []).map Prod.fst

/-- The contexts whose partition holds a core and whose tasks may be seated. -/
def Mach.ctxsOn (m : Mach) (core : Nat) : List Nat := (Tab.keys m.ctxs).filter fun c => m.ownsCore c core && m.seats c

/-- The victim an idle slot of a core finds: context, record, row, task. -/
def Mach.victim (m : Mach) (core : Nat) : Option (Nat × Nat × StealRow × Task) :=
  (m.ctxsOn core).findSome? fun c => (m.runningRecs c).findSome? fun r =>
    let row := m.stealRow c (m.launch c r).r (clusterOf core)
    match m.victimOf c core row r with
    | some t => if m.gatesHold t core then some (c, r, row, t) else none
    | none => none

/-- The point at which a steal splits [i, hi) (R70): i + ⌈n / 2⌉. -/
def splitAt (i hi : Nat) : Nat := i + (hi - i + 1) / 2

/-- STEAL (R358): an idle slot takes the upper half of a victim's interval; a declared object that shows ERR
there raises the halt line (R356). DEDUCED, log entry 34. -/
def Mach.steal (m : Mach) (core slot : Nat) : Mach :=
  if m.taken core slot ∨ (m.best core).isSome then m
  else match m.victim core with
    | none => m
    | some (c, r, row, v) =>
      if (tileDecls (m.launch c r).r).any fun d => (m.bar core d.1).err then m.gateFault c r core
      else
        let k := splitAt v.lo v.hi
        let (t, m1) := (m.mapTask v.gid fun x => { x with hi := k }).newRange c r .range k v.hi false (clusterOf core)
        (m1.addTask { t with bound := if row.core then some core else none }).seatTask t.gid core slot

end Sys2Proof.Machine
end

