-- ==== Sys2Proof/Machine/Table.lean ====
section
/-! DEFINITION. Tabled calls (06): keys and their hash, lookup and eviction, producers, and the meanings of TCALL, TANS,
TRET, TDONE, TFAIL, TREL and TINFO. Inside an open region each aborts it (R134). -/

namespace Sys2Proof.Machine

/-! ### Handles (R118) -/

/-- a7. -/
def a7 : Opnd := .code 7

/-- A handle of a cursor. -/
def handleOf (gen cur : Nat) : Word := BitVec.ofNat 64 (gen % 2 ^ 24 * 256 + cur % 32)

/-- The cursor a handle names, where it is valid: its reserved bits are zero, and the cursor is live and of its
generation; a cursor whose entry an error made FREE (R134) is not live. -/
def Mach.cursorOf (m : Mach) (t : Task) (h : Word) : Option (Nat × Cursor) :=
  let v := h.toNat
  let n := v % 32
  if v / 2 ^ 32 ≠ 0 ∨ v / 32 % 8 ≠ 0 then none
  else match t.cursor n with
    | none => none
    | some k =>
      let e := m.entry (ctxOf t.gid) k.entry
      if k.gen = v / 256 % 2 ^ 24 ∧ e.creation = k.creation ∧ e.state ≠ .free then some (n, k) else none

/-- The cursor a7 names, or STALE_HANDLE. DEDUCED, log entry 28. -/
def Mach.handle (m : Mach) : Except Stop (Nat × Cursor) :=
  match m.cursorOf m.t (m.t.val a7) with
  | some k => .ok k
  | none => .error (.trap staleHandle (m.t.val a7) 0)

/-- The values of the seven slots of a block from slot w on (R135). DEDUCED, log entry 32. -/
def Task.blockAt (t : Task) (w : Nat) : List Word := (List.range 7).map fun i => (t.cell (slotKey (w + i))).read

/-- The failing slot of a block of seven that reaches ALLOC. -/
def Task.badRun (t : Task) (w : Nat) : Except Stop Unit :=
  if w + 6 < t.alloc then .ok () else .error (.trap regBound (BitVec.ofNat 64 (Nat.max w t.alloc)) 0)

/-- The slot of an operand that must name one. -/
def slotNo : Opnd → Nat
  | .slot j => j.val
  | .code n => n.val

/-! ### Keys (R111, R112, R136) -/

/-- One word taken into the hash (R112). -/
def hashStep (h k : Word) : Word :=
  let x := (h ^^^ k) * 0xFF51_AFD7_ED55_8CCD#64
  x ^^^ (x >>> 33)

/-- The hash of a key (R112): form 0 to 4, callee, and the key words, a .k key's length first among them. -/
def hashKey (form : Nat) (callee : Word) (key : List Word) : Word :=
  (callee :: key).foldl hashStep (0x9E37_79B9_7F4A_7C15#64 ^^^ (BitVec.ofNat 64 form <<< 56))

/-- A form's code and how many argument registers it copies to its producer. -/
def formCode : TForm → Nat
  | .n1 => 0
  | .n2 => 1
  | .n3 => 2
  | .n4 => 3
  | .k => 4

def formArgs : TForm → Nat
  | .n1 => 1
  | .n2 => 2
  | .n3 => 3
  | .n4 => 4
  | .k => 2

/-- n words of a key block from an address on, each a strong load (R136). -/
def Mach.keyWords (m : Mach) (a : Word) : Nat → Except Stop (List Word × Mach)
  | 0 => .ok ([], m)
  | n + 1 => do
    let (l, m1) ← m.resolve m.cur m.t.core .g a 8 false
    m1.t.watchCheck l 8 (span 8) false
    m1.needEntries [l]
    let (bs, m2) ← m1.fetchBytes none l 8
    let (ws, m3) ← m2.keyWords (a + 8) n
    .ok (BitVec.ofNat 64 (leNat bs) :: ws, m3)

/-- The key of a call (R111, R136). -/
def Mach.keyOf (m : Mach) (f : TForm) : Except Stop (List Word × Mach) :=
  match f with
  | .k =>
    let a := m.t.val (ar 1)
    let n := (m.t.val (ar 2)).toNat
    if a.toNat % 8 ≠ 0 then .error (.trap alignTrap a 0)
    else if n < 8 ∨ 256 < n ∨ n % 8 ≠ 0 then .error (.trap illOp m.t.pc 0)
    else do
      let (ws, m1) ← m.keyWords a (n / 8)
      .ok (m.t.val (ar 2) :: ws, m1)
  | f => .ok ((List.range (formArgs f)).map fun i => m.t.val (.code (Fin.ofNat 8 (i + 1))), m)

/-- The cells a key takes of the key pool (R115): 56 bytes each. -/
def keyCells (form : Nat) (key : List Word) : Nat := if form = 4 then ((key.length - 1) * 8 + 55) / 56 else 0

/-! ### Lookup and eviction (R112, R129, R130) -/

/-- The sixteen ways of the set that begins at an index. -/
def waysOf (first : Nat) : List Nat := (List.range 16).map (first + ·)

/-- The first index of a hash's set in the array that a rehash is emptying (R131). DEDUCED, log entry 53. -/
def Loam.oldSet (l : Loam) (h : Word) : Nat := 16 * l.nsets + 16 * (h.toNat % (l.nsets / 2))

/-- The first index of the set that a hash names, where its entries stand and new ones go: in the array, or in the one that a
rehash is emptying, until that set has moved (R112, R131). DEDUCED, log entry 53. -/
def Loam.setOf (l : Loam) (h : Word) : Nat :=
  match l.moving with
  | some v => if v.set ≤ h.toNat % (l.nsets / 2) then l.oldSet h else 16 * (h.toNat % l.nsets)
  | none => 16 * (h.toNat % l.nsets)

/-- The ways in which a key is looked up: in both arrays until a rehash is over (R131). -/
def Loam.lookIn (l : Loam) (h : Word) : List Nat :=
  waysOf (16 * (h.toNat % l.nsets)) ++ (match l.moving with
    | some _ => waysOf (l.oldSet h)
    | none => [])

/-- An entry holds a key. -/
def Entry.holds (e : Entry) (form : Nat) (callee : Word) (key : List Word) : Bool :=
  e.state != .free && e.form == form && e.callee == callee && e.key == key

/-- The COMPLETE unpinned entry of a list with the oldest LRU stamp (R129). -/
def Mach.oldest (m : Mach) (c : Nat) (is : List Nat) : Option Nat :=
  (is.filter fun i => (m.entry c i).state == .complete && (m.entry c i).pins == 0).foldl (fun a i => match a with
    | none => some i
    | some j => if (m.entry c i).lru < (m.entry c j).lru then some i else some j) none

/-- The way of a set that a new entry takes (R129). -/
def Mach.wayFor (m : Mach) (c first : Nat) : Option Nat :=
  match (waysOf first).find? fun i => (m.entry c i).state == .free with
  | some i => some i
  | none => m.oldest c (waysOf first)

/-- The entry that holds a key (R112). -/
def Mach.lookup (m : Mach) (c : Nat) (h : Word) (form : Nat) (callee : Word) (key : List Word) : Option Nat :=
  ((m.ctx c).loam.lookIn h).find? fun i => (m.entry c i).holds form callee key

/-- The LRU stamp renewed (R129). -/
def Mach.renew (m : Mach) (c i : Nat) : Mach :=
  let m1 := m.setCtx c fun x => { x with loam := { x.loam with clock := x.loam.clock + 1 } }
  m1.updEntry c i fun e => { e with lru := (m1.ctx c).loam.clock }

/-- The cells of the answer pool and of the key pool in use. -/
def Loam.usedAns (l : Loam) : List Nat := l.entries.flatMap fun p => p.2.ansCells
def Loam.usedKey (l : Loam) : List Nat := l.entries.flatMap fun p => p.2.keyCells

/-- The n lowest cells that a list does not hold. DESIGN CHOICE, log entry 83. -/
def takeCells (used : List Nat) : Nat → List Nat
  | 0 => []
  | n + 1 => let k := leastFree used; k :: takeCells (k :: used) n

/-- An entry made EVAL in a way, with any eviction (R24, R116, R129), under its table mark. -/
def Mach.createEntry (m : Mach) (c i form : Nat) (h callee : Word) (key : List Word) (g producer : Gid) : Mach :=
  let v := m.entry c i
  let n := (m.ctx c).loam.creations + 1
  let used := (m.ctx c).loam.usedKey.filter fun k => !v.keyCells.contains k
  let e : Entry := { state := .eval, form := form, hash := h, callee := callee, key := key, creation := n, leader := i,
                     producer := producer, keyCells := takeCells used (keyCells form key) }
  (m.markEntries c g [i] fun _ => e).setCtx c fun x => { x with loam := { x.loam with
    creations := n
    ansFree := x.loam.ansFree + v.answers.length
    keyFree := x.loam.keyFree + keyCells v.form v.key - keyCells form key } }

/-- The virtual address of way 0 of the set that begins at an index (R130). -/
def Mach.setAddr (m : Mach) (c first : Nat) : Word :=
  let l := (m.ctx c).loam
  BitVec.ofNat 64 (match l.moving with
    | some v => if 16 * l.nsets ≤ first then v.va + 128 * (first - 16 * l.nsets) else l.va + 128 * first
    | none => l.va + 128 * first)

/-- A cursor created in the task in focus on an entry: the lowest free number from 1 to 31 (R117, R118). -/
def Mach.newCursor (m : Mach) (c i n : Nat) : Mach :=
  let t := m.t
  let k : Cursor := ⟨i, 0, t.curGen, (m.entry c i).creation⟩
  let h := handleOf t.curGen n
  let t1 := { t with curs := Tab.put none t.curs n (some k), curGen := (t.curGen + 1) % 2 ^ 24 }
  ({ m with t := t1.wr a7 h .raw }.updEntry c i fun e => { e with pins := e.pins + 1 }).renew c i

/-- The lowest cursor number from 1 to 31 that is free. DEDUCED, log entry 27. -/
def Task.freeCursor (t : Task) : Option Nat := ((List.range 31).map (· + 1)).find? fun n => (t.cursor n).isNone

/-! ### Producers (R24, R68, R133) -/

/-- A copied argument register: value and tag, without its mark. -/
def RCell.plain (c : RCell) : RCell := { c with mark := none }

/-- The producer of an entry: the caller's allocation, views, modes and handler, a fresh space with a1 to an and the
self handle in a7, and the self cursor; its start acquires what its caller's did (17 R323). -/
def producerOf (t : Task) (g : Gid) (callee : Word) (n i creation : Nat) (now no : Nat) : Task :=
  let args := (List.range n).foldl (fun r k => Tab.put RCell.fresh r (k + 1) (t.cell (k + 1)).plain) ([] : Tab RCell)
  let c := t.ctl
  { gid := g, kind := .producer, rec_ := t.rec_
    img := { regs := Tab.put RCell.fresh args 7 ⟨handleOf 0 0, .raw, none⟩ }
    ctl := { widShape := c.widShape, alloc := c.alloc, viewV := c.viewV, viewT := c.viewT, viewC := c.viewC,
             fmtMode := c.fmtMode, fpMode := c.fpMode, flgEn := c.flgEn, fpSup := c.fpSup, trapVec := c.trapVec }
    pc := callee, npc := callee
    curs := Tab.put none [] 0 (some ⟨i, 0, 0, creation⟩)
    produces := some i, prodNo := creation, caller := some t.gid
    seat := t.seat, lines := t.seat.map Prod.fst, cluster := t.cluster
    prio := t.basePrio, basePrio := t.basePrio, queuedAt := now, queueNo := no
    acqCl := no, acqDv := no }

/-- The caller suspended and the producer started on its slot (R24, R133). DEDUCED, log entry 27. -/
def Mach.startProducer (m : Mach) (p : Task) : Mach :=
  let t := m.t.retire
  let caller := { t with
    seat := none, phase := .waiting (.suspend p.gid), regang := if t.fol.isEmpty then 0 else t.gangSize
    contAt := m.cycle, migrates := false }
  let m1 := { m with t := p, others := m.others ++ [caller] }
  let m2 := m1.updEntry (ctxOf p.gid) (p.produces.getD 0) fun e => { e with pins := e.pins + 1 }
  match p.rec_ with
  | some r => m2.updRec (ctxOf p.gid) r fun q => { q with live := q.live + 1, created := q.created + 1 }
  | none => m2

/-- TCALL after its key is read (R137). The key cells of the entry it evicts count among the free ones, since the eviction frees
them (R129). DEDUCED, log entry 27. -/
def Mach.tcallKey (m : Mach) (f : TForm) (callee : Word) (key : List Word) (n : Nat) : Except Stop Mach :=
  let c := m.cur
  let h := hashKey (formCode f) callee key
  let first := (m.ctx c).loam.setOf h
  match m.lookup c h (formCode f) callee key with
  | some i => .ok (let m1 := m.newCursor c i n; { m1 with t := { m1.t with phase := .parked .mem } })
  | none =>
    match m.wayFor c first with
    | none => .error (.trap tblExhaust (m.setAddr c first) 0)
    | some i =>
      let v := m.entry c i
      if (m.ctx c).loam.keyFree + keyCells v.form v.key < keyCells (formCode f) key then .error (.trap tblExhaust 2 0)
      else
        let (s, m1) := m.takeSerial c m.t.cluster
        let m2 := (m1.createEntry c i (formCode f) h callee key m.t.gid (gidOf c s)).newCursor c i n
        let p := producerOf m2.t (gidOf c s) callee (formArgs f) i (m2.entry c i).creation m2.cycle m2.order
        .ok ((m2.tick).startProducer { p with frame := m2.freeFrame c })

/-- TCALL (R137). DEDUCED, log entry 27. -/
def tcallM (f : TForm) (off : Int) (m : Mach) : Except Stop Mach :=
  match m.t.freeCursor with
  | none => .error (.trap tblExhaust 0 0)
  | some n => do
    let (key, m1) ← m.keyOf f
    m1.tcallKey f (m.t.target off) key n

/-! ### Reading answers (R138) -/

/-- lt as a status (R12's exception R22). -/
def Task.status (t : Task) (v : Nat) : Task := t.putCell 0 ⟨BitVec.ofNat 64 v, .raw, none⟩

/-- Words written to slots from w on, tag 0. -/
def Task.putRun (t : Task) (w : Nat) (vs : List Word) : Task :=
  (vs.zipIdx).foldl (fun a p => a.putCell (slotKey (w + p.2)) ⟨p.1, .raw, none⟩) t

/-- What TANS reports without parking: the failure code, the next answer, or done. -/
def Mach.tansNow (m : Mach) (w n : Nat) (k : Cursor) : Option Mach :=
  let c := m.cur
  let e := m.entry c k.entry
  let got := fun (t : Task) => t.acquire .dv m.order
  if e.state = .failed then
    some { m with t := got ((m.t.putRun w [BitVec.ofNat 64 e.code]).status 2) }
  else match e.answers[k.pos]? with
    | some v =>
      let t := (m.t.putRun w v).status 0
      some ({ m with t := got { t with curs := Tab.put none t.curs n (some { k with pos := k.pos + 1 }) } }.renew c k.entry)
    | none => if e.state = .complete then some { m with t := got (m.t.status 1) } else none

/-- The merge a producer's park brings (R26, R126). -/
def Mach.parkMerge (m : Mach) (e : Nat) : Mach :=
  let c := m.cur
  match m.produced m.t with
  | none => m
  | some p =>
    let mine := m.entry c p
    let other := m.entry c e
    if mine.state = .eval ∧ mine.leader ≠ other.leader ∧ other.creation < mine.creation then m.mergeGroups c m.t.gid p e
    else m

/-- A consumer parked on an entry (R24, R26, R126, R132): its caller resumes, its group is evaluated. -/
def Mach.tansPark (m : Mach) (e : Nat) : Mach :=
  let c := m.cur
  let m1 := m.parkMerge e
  let m2 := { m1 with t := { m1.t with phase := .waiting (.answer e) } }
  let m3 := (m2.resumeCaller m.t.gid).inheritPrio c (m2.entry c e).leader
  match m.produced m.t with
  | some p => if (m3.entry c p).state = .eval then m3.evalGroup c (m3.entry c p).leader m.t.gid else m3
  | none => m3

/-- TANS (R138). A park that completes the group reports done at once; one that R125 ends has reported lt = 3. A
producer's park is a release, which the TANS that reports done acquires (R120). DEDUCED, log entry 32. -/
def tansM (d : Opnd) (m : Mach) : Except Stop Mach := do
  let (n, k) ← m.handle
  let w := slotNo d
  m.t.badRun w
  match m.tansNow w n k with
  | some m1 => .ok m1
  | none => do
    let m0 ← m.releaseAt (if (m.produced m.t).isSome then some .dv else none)
    let m1 := m0.tansPark k.entry
    if m1.t.inWait then .ok m1
    else .ok ((m1.tansNow w n k).getD m1)

/-! ### Publishing and ending (R139 to R141) -/

/-- ILL_OP in a task that produces no entry (R135). -/
def Mach.mustProduce (m : Mach) : Except Stop Unit := if m.t.produces.isSome then .ok () else .error (.trap illOp m.t.pc 0)

/-- An answer appended under its table mark, and the tasks parked on the entry woken (R25, R139). -/
def Mach.append (m : Mach) (c e : Nat) (v : List Word) : Mach :=
  let k := leastFree (m.ctx c).loam.usedAns
  let m1 := (m.markEntries c m.t.gid [e] fun x => { x with answers := x.answers ++ [v], ansCells := x.ansCells ++ [k] }).wakeParked c [e]
  m1.setCtx c fun x => { x with loam := { x.loam with ansFree := x.loam.ansFree - 1 } }

/-- The entry of the task in focus takes an answer: it is EVAL, and holds no equal one (R139). -/
def Mach.takesAnswer (m : Mach) (v : List Word) : Option Nat :=
  (m.produced m.t).filter fun e => (m.entry m.cur e).state == .eval && !(m.entry m.cur e).answers.contains v

/-- TRET (R139). A task that produces no entry traps before its block is checked: the spec orders the two no way.
DEDUCED, log entry 32. -/
def tretM (a : Opnd) (m : Mach) : Except Stop Mach := do
  m.mustProduce
  let w := slotNo a
  m.t.badRun w
  let v := m.t.blockAt w
  match m.takesAnswer v with
  | none => m.releaseAt (some .dv)
  | some e =>
    if (m.ctx m.cur).loam.ansFree = 0 then .error (.trap tblExhaust 1 0)
    else do
      let m1 ← m.releaseAt (some .dv)
      .ok (m1.append m.cur e v)

/-- TDONE (R140). -/
def tdoneM (m : Mach) : Except Stop Mach := do
  m.mustProduce
  let m1 ← m.releaseAt (some .dv)
  .ok (m1.endProducer m.t.gid none)

/-- TFAIL (R141). -/
def tfailM (a : Opnd) (m : Mach) : Except Stop Mach := do
  m.mustProduce
  m.t.bounds [a]
  let m1 ← m.releaseAt (some .dv)
  .ok (m1.endProducer m.t.gid (some ((m.t.val a).toNat % 65536)))

/-- TREL (R143). -/
def trelM (m : Mach) : Except Stop Mach := do
  let (n, _) ← m.handle
  .ok (m.dropCursor m.t.gid n)

/-- TINFO's value (R142). -/
def Mach.tinfo (m : Mach) (k : Cursor) (sel : Nat) : Nat :=
  let e := m.entry m.cur k.entry
  match sel with
  | 0 => match e.state with
    | .free => 0
    | .eval => 1
    | .complete => 2
    | .failed => 3
  | 1 => e.answers.length
  | 2 => k.pos
  | 3 => if e.state = .failed then e.code else 0
  | 4 => k.entry
  | 5 => if e.state = .eval then e.leader else k.entry
  | 6 => e.creation
  | _ => e.pins

/-- TINFO (R142). -/
def tinfoM (d : Opnd) (sel : Nat) (m : Mach) : Except Stop Mach := do
  m.t.bounds [d]
  let (_, k) ← m.handle
  .ok { m with t := m.t.wr d (BitVec.ofNat 64 (m.tinfo k sel)) .raw }

/-! ### Meanings -/

/-- TCALL (R137). -/
def execTcall (_m : Option XMod) (f : TForm) (off : Int) (s : State) : Step State :=
  issue (.abort abTable) (tcallM f off) s

/-- TANS (R138). -/
def execTans (_m : Option XMod) (d : Opnd) (s : State) : Step State := issue (.abort abTable) (tansM d) s

/-- TRET (R139). -/
def execTret (_m : Option XMod) (a : Opnd) (s : State) : Step State := issue (.abort abTable) (tretM a) s

/-- TDONE (R140). -/
def execTdone (s : State) : Step State := issue (.abort abTable) tdoneM s

/-- TFAIL (R141). -/
def execTfail (_m : Option XMod) (a : Opnd) (s : State) : Step State := issue (.abort abTable) (tfailM a) s

/-- TREL (R143). -/
def execTrel (_m : Option XMod) (s : State) : Step State := issue (.abort abTable) trelM s

/-- TINFO (R142). -/
def execTinfo (_m : Option XMod) (d : Opnd) (k : Nat) (s : State) : Step State := issue (.abort abTable) (tinfoM d k) s

end Sys2Proof.Machine
end

