-- ==== Sys2Proof/Machine/Launch.lean ====
section
/-! DEFINITION. Launch records and tasks as instructions act on them (19): LARM, LEARLY, RNEXT, MSEND, TBLK, TUNBLK, SPAWN,
LPATCH, and the transfers that end or give up a slot (05 R106, R107). -/

namespace Sys2Proof.Machine

/-! ### Range tasks (R70, R271) -/

/-- A task is a range task (R67). -/
def Task.ranges (t : Task) : Bool := t.kind == .graph || t.kind == .range

/-- RNEXT (R15, R70): the next index, or all ones. -/
def rnextT (d : Opnd) (t : Task) : Except Stop Task := do
  t.bounds [d]
  if t.ranges && decide (t.lo < t.hi) then
    let v := BitVec.ofNat 64 t.lo
    .ok ({ t with lo := t.lo + 1, workId := v }.wr d v .raw)
  else .ok (t.wr d (BitVec.allOnes 64) .raw)

/-- LEARLY (R271). -/
def learlyT (t : Task) : Except Stop Task := .ok (if t.ranges then { t with isSealed := true } else t)

/-- The cluster a task's new sibling is queued at (R359). -/
def Mach.spawnCluster (m : Mach) (b : Word) : Nat :=
  if (m.partOf m.cur).clusters.contains b.toNat then b.toNat else m.t.cluster

/-- The upper part [k, hi) of the task's interval given to a new range task of its record (R359). -/
def Mach.giveAway (m : Mach) (r k cl : Nat) : Mach :=
  let hi := m.t.hi
  let (t, m1) := { m with t := { m.t with hi := k } }.newRange m.cur r .range k hi false cl
  m1.addTask t

/-- SPAWN (R359). -/
def spawnM (mod : Option XMod) (d a b : Opnd) (m : Mach) : Except Stop Mach := do
  m.t.bounds [d, a, b]
  let k ← m.t.raw mod a
  let cl ← m.t.raw mod b
  match m.t.rec_ with
  | none => .ok { m with t := m.t.wr d 0 .raw }
  | some r =>
    if !m.t.ranges || decide (k.toNat ≤ m.t.lo) || decide (m.t.hi ≤ k.toNat) then .ok { m with t := m.t.wr d 0 .raw }
    else do
      let m1 ← m.releaseAt (some .dv)
      let n := m1.t.hi - k.toNat
      let m2 := m1.giveAway r k.toNat (m1.spawnCluster cl)
      .ok { m2 with t := m2.t.wr d (BitVec.ofNat 64 n) .raw }

/-! ### Arming (R349) -/

/-- A field of n bits of a number from bit k. -/
def fieldOf (v k n : Nat) : Nat := v / 2 ^ k % 2 ^ n

/-- A shape's widths are at most 32 and sum to at most 64, and its reserved bits are zero (R73). -/
def shapeOk (v : Nat) : Bool :=
  let ws := (List.range 6).map fun i => fieldOf v (6 * i) 6
  decide (v / 2 ^ 36 = 0) && ws.all (decide <| · ≤ 32) && decide (ws.sum ≤ 64)

/-- A view's fields (08 R156): reserved bits zero, BASE a multiple of 8, COUNT within its limit, and its end within ALLOC. -/
def viewOk (v bits size most alloc : Nat) : Bool :=
  decide (v < 2 ^ bits) && decide (v % 256 % 8 = 0) && decide (v / 256 ≤ most) &&
  decide (v % 256 + v / 256 * size ≤ alloc)

/-- A window preset (10 R185): reserved bits zero; where valid, its offsets are multiples of 8 in order. -/
def presetOk (w : Nat) : Bool :=
  let lo := fieldOf w 17 16
  let hi := fieldOf w 0 17
  decide (w / 2 ^ 39 = 0) &&
  (decide (fieldOf w 38 1 = 0) || (decide (lo % 8 = 0) && decide (hi % 8 = 0) && decide (lo < hi) && decide (hi ≤ 65536)))

/-- A successor list: numbers below 4,096 up to the first 0xFFFF. -/
def succList (l : List Nat) : List Nat := l.takeWhile (· ≠ 0xFFFF)

/-- The offset of the first field of a record that arming refuses (R349). -/
def recordFault (r : LaunchRec) : Option Nat :=
  let checks : List (Nat × Bool) :=
    [(0x00, decide (r.entry % 2 = 0)), (0x08, decide (r.lo ≤ r.hi)), (0x18, shapeOk r.shape),
     (0x20, decide (8 ≤ r.alloc) && decide (r.alloc ≤ 256) && decide (r.alloc % 8 = 0)),
     (0x22, viewOk r.viewV 14 8 32 r.alloc), (0x24, viewOk r.viewT 11 64 4 r.alloc), (0x26, viewOk r.viewC 11 32 4 r.alloc),
     (0x38, decide (r.flags / 2 ^ 9 = 0)), (0x3E, decide (r.rsv3e = 0)), (0x70, presetOk r.wpreset),
     (0x78, decide (r.rsv78 = 0))] ++
    (r.tiles.zipIdx.map fun (d, i) => (0x80 + 8 * i, decide (d / 2 ^ 21 = 0))) ++
    [(0xC0, (succList r.succ).all (decide <| · < 4096)), (0xF8, decide (r.rsvf8 = 0))]
  (checks.find? fun p => !p.2).map Prod.fst

/-- The address of a record (R345). -/
def Mach.recAddr (m : Mach) (c r : Nat) : Nat := (m.ctx c).poolAt + 256 * r

/-- Record number a and its place, or PROT: the number is above 4,095, or the record is ARMED or RUNNING (R349, R362). -/
def Mach.openRec (m : Mach) (v : Word) : Except Stop Nat :=
  if 4095 < v.toNat then .error (.xfault 1 accWrite v 0)
  else
    let p := m.launch m.cur v.toNat
    if p.state = .armed ∨ p.state = .running then
      .error (.xfault 1 accWrite (BitVec.ofNat 64 (m.recAddr m.cur v.toNat)) 0)
    else .ok v.toNat

/-- What arming makes of a record at a cycle and a place in the order of requests (R349). -/
def PoolRec.armed (p : PoolRec) (cycle no : Nat) (g : Gid) : PoolRec :=
  { p with energy := 0, sharedUj := 0, pending := p.r.npred, live := 0, earlyOn := false, state := .armed, armedAt := cycle,
           armer := g, created := 0, reached := [], armedNo := no }

/-- A record armed by a change of records, and started where nothing is pending (R349, R351). What is stored from then on differs
from the code that its launch sees (03 R60). -/
def Mach.arm (m : Mach) (c r : Nat) (g : Gid) (change : (PoolRec → PoolRec) → Mach) : Mach :=
  let m1 := ((change fun p => p.armed m.cycle (m.order + 1) g).tick).setCtx c fun x =>
    { x with firstArm := some (x.firstArm.getD m.order) }
  if (m1.launch c r).pending = 0 then m1.startRec c r false else m1

/-- LARM (R349). -/
def larmM (mod : Option XMod) (a : Opnd) (m : Mach) : Except Stop Mach := do
  m.t.bounds [a]
  let v ← m.t.raw mod a
  let r ← m.openRec v
  match recordFault (m.launch m.cur r).r with
  | some off => .error (.trap illOp (BitVec.ofNat 64 (m.recAddr m.cur r + off)) 0)
  | none => do
    let m1 ← m.releaseAt (some .dv)
    .ok (m1.arm m.cur r m.t.gid (m1.markRec m.cur r m.t.gid))

/-- An element of a list replaced, the list padded to it. -/
def setPad {α : Type} (d : α) (l : List α) (i : Nat) (v : α) : List α :=
  (l ++ List.replicate (i + 1 - l.length) d).set i v

/-- The field k of a record replaced (R347). -/
def patchRec (r : LaunchRec) (k : Nat) (v : Word) : LaunchRec :=
  if k < 6 then { r with args := setPad 0 r.args k v }
  else if k = 6 then { r with lo := v.toNat }
  else if k = 7 then { r with hi := v.toNat }
  else { r with tiles := setPad 0 r.tiles (k - 8) v.toNat }

/-- LPATCH (R347, R362). DEDUCED, log entry 29. -/
def lpatchM (mod : Option XMod) (d a : Opnd) (k : Nat) (m : Mach) : Except Stop Mach := do
  m.t.bounds [d, a]
  let v ← m.t.raw mod a
  let x ← m.t.raw mod d
  let r ← m.openRec v
  let m1 ← m.releaseAt (some .dv)
  .ok (m1.markRec m.cur r m.t.gid fun p => { p with r := patchRec p.r k x })

/-! ### Messages (R360) -/

/-- The fields of a message handle: GEN, CHAN, CORE. -/
def msgGen (h : Word) : Nat := fieldOf h.toNat 18 24
def msgChan (h : Word) : Nat := fieldOf h.toNat 12 6
def msgCore (h : Word) : Nat := fieldOf h.toNat 0 12

/-- The sender's checks of a handle, in their order. -/
def Mach.checkHandle (m : Mach) (h : Word) : Except Stop Unit :=
  if h.toNat / 2 ^ 42 ≠ 0 then .error (.trap illOp m.t.pc 0)
  else if !m.ownsCore m.cur (msgCore h) then .error (.xfault 1 0 h 0)
  else if msgChan h = 63 then .error (.trap staleHandle h 0)
  else .ok ()

/-- MSEND, TBLK and TUNBLK: the handle checked and sent; the thread parks until the owner answers. DEDUCED, log entry 29. -/
def sendM (op : Nat) (mod : Option XMod) (a : Opnd) (m : Mach) : Except Stop Mach := do
  m.t.bounds [a]
  let h ← m.t.raw mod a
  m.checkHandle h
  let m1 ← m.releaseAt (if op = sendMsg then some .dv else none)
  let ws := if op = sendMsg then (List.range 4).map fun i => m.t.val (.code (Fin.ofNat 8 (i + 1))) else []
  .ok { m1 with t := { m1.t with phase := .sending { op := op, handle := h, words := ws } } }

/-! ### Giving up a slot (05 R106, R107) -/

/-- YIELD (R106): the task keeps its slot where no other task could take it. -/
def yieldM (m : Mach) : Except Stop Mach :=
  if m.contested m.t.core m.t.gid then
    .ok { m.tick with t := m.t.setAside m.cycle m.order }
  else .ok m

/-- EXIT of a task that is no producer (R107): what is left of its interval goes to a new task, with its seal. -/
def Mach.exitPlain (m : Mach) : Mach :=
  match m.t.rec_ with
  | some r =>
    if m.t.ranges && decide (m.t.lo < m.t.hi) then
      let (t, m1) := m.newRange m.cur r .range m.t.lo m.t.hi m.t.isSealed m.t.cluster
      (m1.addTask t).endTask m.t.gid
    else m.endTask m.t.gid
  | none => m.endTask m.t.gid

/-- EXIT (R107): in a producer, TDONE. -/
def exitM (m : Mach) : Except Stop Mach :=
  if m.t.produces.isSome then tdoneM m else .ok m.exitPlain

/-! ### Meanings -/

/-- RNEXT (R70). -/
def execRnext (d : Opnd) (s : State) : Step State := issueT (.abort abForbidden) (rnextT d) s

/-- LEARLY (R271). -/
def execLearly (s : State) : Step State := issueT (.abort abForbidden) learlyT s

/-- SPAWN (R359). -/
def execSpawn (m : Option XMod) (d a b : Opnd) (s : State) : Step State := issue (.abort abForbidden) (spawnM m d a b) s

/-- LARM (R349). -/
def execLarm (m : Option XMod) (a : Opnd) (s : State) : Step State := issue (.abort abForbidden) (larmM m a) s

/-- LPATCH (R362). -/
def execLpatch (m : Option XMod) (d a : Opnd) (k : Nat) (s : State) : Step State :=
  issue (.abort abForbidden) (lpatchM m d a k) s

/-- MSEND (R360). -/
def execMsend (m : Option XMod) (a : Opnd) (s : State) : Step State := issue (.abort abForbidden) (sendM sendMsg m a) s

/-- TBLK (R360). -/
def execTblk (m : Option XMod) (a : Opnd) (s : State) : Step State := issue (.abort abForbidden) (sendM sendBlk m a) s

/-- TUNBLK (R360). -/
def execTunblk (m : Option XMod) (a : Opnd) (s : State) : Step State := issue (.abort abForbidden) (sendM sendUnblk m a) s

/-- YIELD (R106). -/
def execYield (s : State) : Step State := issue (.abort abPreempt) yieldM s

/-- EXIT (R107). -/
def execExit (s : State) : Step State := issue (.abort abForbidden) exitM s

end Sys2Proof.Machine
end

