-- ==== Sys2Proof/Machine/Region.lean ====
section
/-! DEFINITION. Reconciling regions (20, 21): ABEGIN, AABORT, ASTAT, ACOMMIT, and the decision of a commit (R373, R374). -/

namespace Sys2Proof.Machine

/-! ### Opening, aborting, status -/

/-- ABEGIN (R363, R382). -/
def abeginT (off : Int) (t : Task) : Except Stop Task :=
  .ok { t with
    region := some { fail := t.target off, saved := ⟨t.img, t.x, t.fol, t.ctl⟩ }
    rstat := { t.rstat with insns := 0, cons := 0, stores := 0, slots := 0 } }

/-- AABORT (R384). -/
def aabortT (k : Nat) (t : Task) : Except Stop Task :=
  if t.region.isSome then .error (.abort (abExplicit k)) else .error (.trap illOp t.pc 0)

/-- The region status (R385). -/
def Task.astat (t : Task) : Nat :=
  let s := t.rstat
  let (c, st, sl) := match t.region with
    | some r => (r.cons.length + r.pins, r.stores.length, r.slots.length)
    | none => (s.cons, s.stores, s.slots)
  s.insns % 256 * 2 ^ 40 + c % 32 * 2 ^ 35 + st % 16 * 2 ^ 31 + sl % 16 * 2 ^ 27 + s.cause % 256 * 2 ^ 16 +
    (if t.region.isSome then 128 else 0) + (if s.adj then 64 else 0) + (if s.ok then 32 else 0)

/-- ASTAT (R385). -/
def astatT (d : Opnd) (t : Task) : Except Stop Task := do
  t.bounds [d]
  .ok (t.wr d (BitVec.ofNat 64 t.astat) .raw)

/-! ### The commit (R365, R373, R374) -/

/-- The fresh value at a slot's key, extended as its load extends. -/
def Mach.freshOf (m : Mach) (s : SymSlot) : Word := extend s.zext s.at_.size (m.peek s.at_.key s.at_.size)

/-- δ of each slot. -/
def Mach.deltas (m : Mach) (r : Region) : List Word := r.slots.map fun s => m.freshOf s - s.observed

/-- adj of a mark. -/
def adjOf (ds : List Word) (k : Mark) : Word := if k.neg then -(ds.getD k.slot 0) else ds.getD k.slot 0

/-- adj of a mark that counts. -/
def Region.adj (r : Region) (ds : List Word) (k : Option Mark) : Word := match k with
  | some x => if r.counts x then adjOf ds x else 0
  | none => 0

/-- A constraint keeps its outcome (R374). -/
def Constraint.kept (c : Constraint) (ds : List Word) : Bool :=
  let a := adjOf ds c.mark
  (if c.swapped then condHolds c.cond c.x (c.y + a) else condHolds c.cond (c.x + a) c.y) == c.outcome

/-- Every pinned slot is unchanged and every constraint keeps its outcome. -/
def Region.agrees (r : Region) (ds : List Word) : Bool :=
  ((r.slots.zip ds).all fun (s, d) => !s.pinned || d == 0) && r.cons.all (·.kept ds)

/-- The place of a store record. -/
def RStore.loc (w : RStore) : Loc :=
  if w.at_.key < 2 ^ 52 then ⟨w.at_.key, w.va, .hbm, 0, false, false, none⟩
  else
    let o := w.at_.key % 2 ^ 52 % 2 ^ 28
    ⟨w.at_.key, remoteForm (o / 65536) (o % 65536), .cluster (clusterOf (o / 65536)), 1, false, false, w.remote⟩

/-- A place in the order of locks of scratchpad lines (R373): global core number, then offset. -/
def RStore.lockNo (w : RStore) : Nat := w.at_.key % 2 ^ 28

/-- The refused store records of a region (R373), the first in the order of locks. -/
def Mach.refused (m : Mach) (c : Nat) (r : Region) : Option RStore :=
  let bad := r.stores.filter fun w => match w.remote with
    | some core => !(m.ownsCore c core && m.windowsGrant c core (w.at_.key % 65536) w.at_.size needW)
    | none => false
  bad.foldl (fun a w => match a with
    | none => some w
    | some v => if w.lockNo < v.lockNo then some w else some v) none

/-- The members of a commit's group record: the old bytes of every store record, one line record a line (R379, R397). -/
def Mach.commitRecs (m : Mach) (s : Silt) (g : Gid) (party : Nat) (ws : List RStore) : List SRec :=
  ws.foldl (fun l w =>
    let rs := m.siltRec s w.loc.space w.at_.key w.at_.size party g
    l ++ rs.filter fun r => s.full || !(l.any fun q => q.key == r.key)) []

/-- The stores of a commit performed. -/
def Mach.commitStores (m : Mach) (r : Region) (ds : List Word) : Mach :=
  r.stores.foldl (fun a w =>
    let v := w.val + r.adj ds w.mark
    let bs := leBytes v.toNat w.at_.size
    let b := a.noteCode (ctxOf m.t.gid) w.loc (cellsFrom w.at_.key bs)
    { b with mem := pokeMem b.mem w.at_.key bs }) m

/-- A store of the commit of task g covers a watched byte of a task (22 R388, R470): of its own by the address the store was made
at, of another as any write. -/
def RStore.hits (x : RStore) (w : Task) (g : Gid) : Bool :=
  if w.gid = g then w.phase != .ended && (w.watches x.loc (span x.at_.size) true).isSome
  else w.struckBy x.loc (span x.at_.size) g false

/-- The strikes of a commit (22 R470): one for each watcher, at the first of its store records that covers a watched byte.
DEDUCED, log entry 24. -/
def Mach.commitStrikes (m : Mach) (before : Mach) (r : Region) (g : Gid) (party seq : Nat) : Mach :=
  let found := m.tasks.filterMap fun w =>
    if ctxOf w.gid == ctxOf g then (r.stores.find? (·.hits w g)).map fun x => (w, x) else none
  let m1 := found.foldl (fun a (w, x) =>
    a.strike w party g x.loc.va x.at_.size (BitVec.ofNat 64 (before.word x.at_.key)) seq) m
  if found.isEmpty then m1 else m1.mapTask g fun t => { t with struck := true }

/-- A register adjusted and unmarked. -/
def RCell.adjusted (c : RCell) (r : Region) (ds : List Word) : RCell := { c with val := c.val + r.adj ds c.mark, mark := none }

/-- The registers of an image adjusted. -/
def Image.adjusted (i : Image) (r : Region) (ds : List Word) : Image :=
  { i with regs := i.regs.map fun p => (p.1, p.2.adjusted r ds) }

/-- The task after its commit: adjusted, its region closed. -/
def Task.committed (t : Task) (r : Region) (ds : List Word) : Task :=
  { t with
    img := t.img.adjusted r ds
    region := none
    rstat := { insns := t.rstat.insns, cons := r.cons.length + r.pins, stores := r.stores.length, slots := r.slots.length,
               cause := 0, adj := ds.any (· != 0), ok := true } }.resume

/-- A commit that writes: its group record, its stores, its strikes, its registers, and the requests it lets through. -/
def Mach.commitWrite (m : Mach) (r : Region) (ds : List Word) : Mach :=
  let g := m.t.gid
  let c := m.cur
  let party := threadParty m.t.core
  let s := (m.ctx c).silt
  let recs := m.commitRecs s g party r.stores
  let head : SRec := { seq := 0, kind := .group, key := recs.length, party := party, gid := g }
  let m1 := if r.stores.isEmpty then m else m.setCtx c fun x => { x with silt := x.silt.append (head :: recs) }
  let m2 := (m1.commitStores r ds).commitStrikes m r g party s.nextSeq
  let m3 := { m2 with t := m2.t.committed r ds }
  (r.stores.filterMap fun w => w.loc.frontOwner).foldl Mach.settleAll (m3.dropNotes m)

/-- The task's weak stores to the bytes of a commit are performed, and its later weak loads of them reuse no request made before
it (17 R321). -/
def Mach.commitOrder (m : Mach) (r : Region) : Mach :=
  (r.slots.map (·.at_) ++ r.stores.map (·.at_)).foldl
    (fun a k => (a.drainOwn m.t.gid k.key k.size).touchLine m.t.gid k.key k.size) m.tick

/-- The decision of the commit of the task in focus, which is parked in ACOMMIT (R373): the windows, the comparison, the
stores or the abort. Only one whose record finds no room in the log waits (23 R401). -/
def Mach.commit (m : Mach) : Mach :=
  match m.t.region with
  | none => m
  | some r =>
    let m0 := m.commitOrder r
    m.orHold m.cur (match m0.refused m.cur r with
      | some w => { m0 with t := { m0.t with phase := .ready } }.raise nackWindow w.va 0 0 0
      | none =>
        let ds := m0.deltas r
        if r.agrees ds then m0.commitWrite r ds
        else { m0 with t := { m0.t with phase := .ready }.aborted abConflict })

/-- ACOMMIT (R383): with nothing to lock the region closes at once; otherwise the thread parks until the commit is decided. -/
def acommitT (t : Task) : Except Stop Task :=
  match t.region with
  | none => .error (.trap illOp t.pc 0)
  | some r => if r.slots.isEmpty && r.stores.isEmpty then .ok (t.committed r []) else .error (.retry .commit)

/-! ### Meanings -/

/-- ABEGIN (R382). -/
def execAbegin (off : Int) (s : State) : Step State := issueT (.abort abForbidden) (abeginT off) s

/-- ACOMMIT (R383). -/
def execAcommit (s : State) : Step State := issueT .own acommitT s

/-- AABORT (R384). -/
def execAabort (k : Nat) (s : State) : Step State := issueT .own (aabortT k) s

/-- ASTAT (R385). -/
def execAstat (d : Opnd) (s : State) : Step State := issueT .own (astatT d) s

/-- COMMIT_AT_HOME (R373): the commit of a task parked in ACOMMIT is decided. -/
def execCommitAtHome (g : Gid) (s : State) : Step State :=
  eventM (fun m =>
    let m1 := m.focus g
    if m1.t.gid = g ∧ m1.t.phase = .parked .commit then m1.commit else m) s

end Sys2Proof.Machine
end

