-- ==== Sys2Proof/Machine/SiltOps.lean ====
section
/-! DEFINITION. The Silt log beyond its appends (23, 22 R392): window markers and their snapshots (R398 to R400, R402),
running out of room (R401), reverse and forward steps (R403), rewinds (R404). -/

namespace Sys2Proof.Machine

/-- A context's log changed. -/
def Mach.setSilt (m : Mach) (c : Nat) (f : Silt → Silt) : Mach := m.setCtx c fun x => { x with silt := f x.silt }

/-! ### What a stop finds in a thread (16 R300, 21 R378) -/

/-- A parked or waiting instruction settled (R300, 04 R84): one that has taken no effect, a held wait and a marker's park
are reissued; a thread stays registered with its answer table entry, its producer and the fault buffer. -/
def Phase.settled (p : Phase) : Phase := match p with
  | .parked _ => .ready
  | .sending s => if s.op = sendEvent then p else .ready
  | .waiting (.word _ _ _ _ _ _ _ _) => .ready
  | .waiting (.barrier _ _ _ _ _ _) => .ready
  | .waiting (.gbar _ _ _ _ _ _) => .ready
  | .waiting .silt => .ready
  | .waiting (.gang _) => .ready
  | p => p

/-- The task is aborted in its open region with a cause (20 R366, 21 R375). -/
def Task.leaveRegion (t : Task) (cause : Nat) : Task := if t.region.isSome then t.aborted cause else t

/-- A thread whose access outside the module is on its way, or answered and not yet completed (R300, 09 R171, R175). -/
def Task.inFlight (t : Task) : Bool := t.answered || (match t.phase with
  | .parked (.root _ _) => true
  | .parked (.held _) => true
  | _ => false)

/-- A task of a context that lives. -/
def Task.lives (t : Task) (c : Nat) : Bool := ctxOf t.gid == c && t.phase != .ended

/-- A commit that has left the core is decided first (21 R378). DEDUCED, log entry 48. -/
def Mach.decideCommit (m : Mach) (g : Gid) : Mach :=
  match m.find g with
  | none => m
  | some t => if t.phase = .parked .commit then
      let m1 := (m.focus g).commit
      m1.focus m.t.gid
    else m

/-- A commit of the task has left its core and cannot be decided yet: it must complete before the thread is stopped or pre-empted,
and before a marker is taken (21 R378, 21 R374). DEDUCED, log entry 48. -/
def Mach.undecided (m : Mach) (g : Gid) : Bool :=
  ((m.decideCommit g).find g).any fun t => t.phase == .parked .commit

/-- A thread's instruction settled: its commit decided, its weak stores performed, its held wait withdrawn, its region
left with a cause. -/
def Mach.settleTask (m : Mach) (g : Gid) (cause : Nat) : Mach :=
  let m1 := (m.decideCommit g).releaseAll g
  match m1.find g with
  | none => m1
  | some t =>
    let m2 := (m1.mapTask g fun x => { x with phase := x.phase.settled, owed := none }.leaveRegion cause).setSilt (ctxOf g) fun s =>
      { s with requests := if t.phase matches .parked (.marker _) then s.requests.filter (· != (1, g)) else s.requests }
    let m3 := { m2 with reqs := m2.reqs.filter (·.gid != g) }
    match t.phase with
    | .waiting (.barrier c o _ _ _ _) => m3.setWaiters c o
    | .waiting (.gbar c o _ _ _ _) => m3.setWaiters c o
    | _ => m3

/-! ### Snapshots (R400) -/

/-- A task as a snapshot holds it: an instruction that has not completed is reissued, and so is one that waits for the
kernel; an open region is taken as aborted with PREEMPT (21 R378). DEDUCED, log entry 48. -/
def Task.snapped (t : Task) : Task :=
  let p := match t.phase with
    | .waiting (.fault _ _ _ _) => .ready
    | .waiting (.sysc _) => .ready
    | .waiting (.tbl _) => .ready
    | p => p.settled
  { t with phase := p, owed := none, halted := false, skid := 0, struck := false, answered := false, stop := none }.leaveRegion abPreempt

/-- The state of a context that a marker sets aside, under a window and the SEQ of its marker. DEDUCED, log entry 48. -/
def Mach.snapOf (m : Mach) (c window seq : Nat) (f : Task → Task) : Snap :=
  { window := window, seq := seq
    tasks := (m.tasks.filter (·.lives c)).map f
    pool := (m.ctx c).pool, loam := (m.ctx c).loam
    chans := m.chans.filter fun p => p.2.e.ctx == c
    matrix := m.matrix, engines := m.engines, nodes := m.nodes, colls := m.colls }

/-- The entries of two tables that belong to the context, from the first, and the others, from the second.
DEDUCED, log entry 49. -/
def mergeTab {α : Type} [DecidableEq α] (d : α) (mine : Nat → α → Bool) (snap cur : Tab α) : Tab α :=
  (snap.filter fun p => mine p.1 p.2).foldl (fun t p => Tab.put d t p.1 p.2) (cur.filter fun p => !mine p.1 p.2)

/-- A tile belongs to a context. -/
def MTile.inCtx (t : MTile) (c : Nat) : Bool := (match t.holder with
  | some g => ctxOf g == c
  | none => false) || t.lastCtx == some c

/-- A matrix unit with a context's queues, tiles, slots and weights as a snapshot has them. DEDUCED, log entry 51. -/
def Matrix.restored (s x : Matrix) (c : Nat) : Matrix :=
  let ofCtx := fun (e : QEnt) => ctxOf e.gid == c
  { x with
    queues := (List.range 8).foldl (fun t i => Tab.put [] t i
      ((Tab.look [] x.queues i).filter (!ofCtx ·) ++ (Tab.look [] s.queues i).filter ofCtx)) []
    tiles := mergeTab {} (fun _ t => t.inCtx c) s.tiles x.tiles
    slots := mergeTab {} (fun _ k => k.state != .empty && k.owner == c) s.slots x.slots
    metaq := s.metaq
    weights := mergeTab 0 (fun k _ => k % 256 == c) s.weights x.weights
    rows := x.rows.filter fun p => !(p.2.any fun b => ofCtx b.ent)
    run := if (match x.run with | some r => ofCtx r.ent | none => false) then none else x.run
    stalledAt := none }

/-- An operation that begins its missing chunks anew, once its engine goes on (18 R340). -/
def EOp.anew (o : EOp) : EOp := { o with part := none, held := [], waiting := none }

/-- A stream that begins its next tile anew (15 R294), its counters due to be written back at its next stop. -/
def Stream.anew (s : Stream) : Stream := { s with moved := 0, held := [], waiting := none, counted := false, counting := false }

/-- An engine with a context's operations, commands, registers, mailbox and streams as a snapshot has them (R400). -/
def Engine.restored (s x : Engine) (c : Nat) : Engine :=
  let cmds := fun (e : Engine) => e.shadow.toList ++ e.pend
  let l := (cmds x).filter (·.ctx != c) ++ (cmds s).filter (·.ctx == c)
  let live := x.active.filter (·.cmd.ctx != c)
  let ops := ((s.active.toList ++ s.saved).filter (·.cmd.ctx == c)).map EOp.anew
  let old := (s.streams.filter (·.cmd.ctx == c)).map Stream.anew
  { x with
    active := live
    saved := x.saved.filter (·.cmd.ctx != c) ++ ops
    shadow := l.head?, pend := l.tail
    regs := mergeTab 0 (fun k _ => k / 4 == c) s.regs x.regs
    mail := mergeTab {} (fun k _ => k == c) s.mail x.mail
    finished := mergeTab [] (fun k _ => k == c) s.finished x.finished
    streams := x.streams.filter (·.cmd.ctx != c) ++ old }

/-- Tables of the part whose keys either lists, restored entry by entry. -/
def mergeBy {α : Type} [DecidableEq α] (d : α) (f : α → α → α) (snap cur : Tab α) : Tab α :=
  ((Tab.keys snap ++ Tab.keys cur).eraseDups).foldl (fun t k => Tab.put d t k (f (Tab.look d snap k) (Tab.look d cur k))) cur

/-- A restored task takes its slot again where no other context's task has it, and keeps the counters of R418.
DEDUCED, log entry 49. -/
def Mach.reseated (m : Mach) (c : Nat) (t : Task) : Task :=
  let t1 := match m.tasks.find? fun x => x.gid == t.gid with
    | some x => { t with issued := x.issued, parkedCycles := x.parkedCycles, seated := x.seated }
    | none => t
  let clash := t.slotCores.any fun k => m.tasks.any fun x =>
    ctxOf x.gid != c && x.seatedOn && x.slot == t.slot && x.slotCores.contains k
  if clash then t1.setAside m.cycle m.order else t1

/-- The blank task in focus once a context's tasks are gone. DEDUCED, log entry 49. -/
def blankTask : Task := { phase := .ended }

/-- A table as a snapshot has it, where the undone marks have put back its entries (06 R134): the pins and the LRU stamps of each
are those it had. A rehash since then is not undone. DEDUCED, log entry 49. -/
def Loam.restored (s l : Loam) : Loam :=
  { l with
    boundary := s.boundary
    entries := l.entries.map fun (i, e) => match s.entries.find? fun p => p.2.creation == e.creation with
      | some (_, o) => (i, { e with pins := o.pins, lru := o.lru })
      | none => (i, { e with pins := 0 }) }

/-- A snapshot's state restored (R400, R404): the context's tasks, queues, engines and units stand as it holds them. Marked
`halted`, the tasks of a halted context wait for its resume. DEDUCED, log entry 49. -/
def Mach.restore (m : Mach) (c : Nat) (s : Snap) (halted : Bool) : Mach :=
  let ts := s.tasks.map fun t => { m.reseated c t with halted := halted }
  let mine := fun (t : Task) => ctxOf t.gid == c
  let chans' := s.chans.foldl (fun a p => Tab.put {} a p.1 p.2) (m.chans.filter fun p => p.2.e.ctx != c)
  let m1 : Mach :=
    { m with
      t := if mine m.t then blankTask else m.t
      others := m.others.filter (!mine ·) ++ ts
      weak := m.weak.filter fun w => ctxOf w.gid != c
      reqs := m.reqs.filter fun r => ctxOf r.gid != c
      chans := chans'
      matrix := mergeBy {} (fun a b => a.restored b c) s.matrix m.matrix
      engines := mergeBy {} (fun a b => a.restored b c) s.engines m.engines
      nodes := mergeBy [] (fun a b => b.filter (·.cmd.ctx != c) ++ a.filter (·.cmd.ctx == c)) s.nodes m.nodes
      colls := mergeBy [] (fun a b => b.filter (·.cmd.ctx != c) ++ a.filter (·.cmd.ctx == c)) s.colls m.colls }
  m1.setCtx c fun x => { x with pool := s.pool, loam := s.loam.restored x.loam }

/-! ### Markers (R398, R399, R402, R409) -/

/-- An engine operation, a stream or a collective of the context has written outside and has not ended (R402). -/
def Mach.extOpen (m : Mach) (c : Nat) : Bool :=
  m.engines.any (fun (_, e) =>
    (e.active.toList ++ e.saved).any (fun o => o.cmd.ctx == c && o.ext) || e.streams.any fun s => s.cmd.ctx == c && s.ext) ||
  m.colls.any fun (_, l) => l.any fun k => k.cmd.ctx == c && k.started

/-- An engine is writing a chunk of the context, which it finishes before a marker (R399), unless the chunk waits for the kernel or
for room in the log. -/
def Mach.chunkOpen (m : Mach) (c : Nat) : Bool :=
  !(m.ctx c).silt.starved && !(m.ctx c).halt.line &&
  m.engines.any fun (_, e) => match e.active with
    | some o => o.cmd.ctx == c && o.part.isSome && o.waiting.isNone && o.failed.isNone && !e.stopped.contains c
    | none => false

/-- Every commit of a context that is parked decided (21 R378). DEDUCED, log entry 48. -/
def Mach.decideCommits (m : Mach) (c : Nat) : Mach :=
  (m.tasks.filter fun t => t.lives c && t.phase == .parked .commit).foldl (fun a t => a.decideCommit t.gid) m

/-- A commit of a context has left its core and cannot be decided yet; one that waits for room in the log is decided after the
marker. -/
def Mach.commitOpen (m : Mach) (c : Nat) : Bool :=
  !(m.ctx c).silt.starved && (m.decideCommits c).tasks.any fun t => t.lives c && t.phase == .parked .commit

/-- The quiesce of a marker cannot end yet (R399): an access outside the module is unanswered, an engine's chunk or an external
operation of an engine is in progress, or a commit has left its core. -/
def Mach.markerWaits (m : Mach) (c : Nat) : Bool :=
  m.extOpen c || m.chunkOpen c || m.commitOpen c || m.tasks.any fun t => t.lives c && t.inFlight

/-- The tile operations of a context on the arrays finish (R399). -/
def Mach.finishTiles (m : Mach) (c : Nat) : Mach :=
  (Tab.keys m.matrix).foldl (fun a cl => match (a.mtx cl).run with
    | some r => if ctxOf r.ent.gid = c then a.tileOpFinal cl else a
    | none => a) m

/-- The accesses of a context that have left their cores performed (R399). -/
def Mach.drainCtx (m : Mach) (c : Nat) : Mach := m.drain fun w => ctxOf w.gid == c

/-- WMARKs served by a marker (R409): each completes with the new window's number. -/
def Mach.serveMarks (m : Mach) (c w : Nat) : Mach :=
  m.mapTasks fun t => if ctxOf t.gid = c then
    match t.phase with
    | .parked (.marker d) => (t.wr d (BitVec.ofNat 64 w) .raw).resume
    | _ => t
  else t

/-- A marker taken at its instant M (R399, R400): the accesses under way are performed, the MARKER record opens the next
window with the cause of the earliest request it serves (R398), the WMARKs it serves complete, and the snapshot is set aside. It
holds a checkpoint's window (R406). DESIGN CHOICE, log entry 82. -/
def Mach.takeMarker (m : Mach) (c cause : Nat) (g : Gid) : Mach :=
  let m1 := ((m.finishTiles c).decideCommits c).drainCtx c
  let s := (m1.ctx c).silt
  let w := s.current + 1
  let copies := cause = 4 ∨ s.requests.any fun p => p.1 == 4
  let (k, h) := s.requests.headD (cause, g)
  let m2 := m1.setSilt c fun x =>
    let y := { x with current := w }.append [{ seq := 0, kind := .marker, key := Config.snapAt c w, party := k, gid := h }]
    { y with since := 0, requests := [], edited := false, held := if copies then some w else y.held, pin := y.pin || copies }
  let m3 := m2.serveMarks c w
  let m4 := m3.setSilt c fun x => { x with snaps := x.snaps ++ [m3.snapOf c w s.nextSeq Task.snapped] }
  { m4.setCtx c fun x => { x with uncorr := false } with irqs := m4.irqs ++ [(6, c)] }

/-- WINDOW_MARKER (R398, R399): the requests pending are served by one marker, with the cause of the earliest; the resident
kernel asks for one with cause 5 by the event itself. A context with writes undone takes none. -/
def Mach.windowMarker (m : Mach) (c cause : Nat) : Mach :=
  let s := (m.ctx c).silt
  if m.markerWaits c || !s.undone.isEmpty || s.rewound.isSome || !(m.ctx c).valid then m
  else if s.requests.isEmpty ∧ cause ≠ 5 then m
  else m.orHold c (m.takeMarker c 5 0)

/-- SILT_THRESHOLD (R398): 2^THRESH records since the last marker request one with cause 3. -/
def Mach.siltThreshold (m : Mach) (c : Nat) : Mach :=
  let s := (m.ctx c).silt
  if s.thresh = 0 ∨ s.since < 2 ^ s.thresh ∨ s.requests.any fun p => p.1 == 3 then m
  else m.setSilt c fun x => { x with requests := x.requests ++ [(3, 0)] }

/-! ### Room (R401) -/

/-- The parties of a context that wait for room go on: its threads issue their instructions again. -/
def Mach.wakeSilt (m : Mach) (c : Nat) : Mach :=
  (m.tasks.filter fun t => t.lives c && t.phase == .waiting .silt).foldl (fun a t => a.wakeTask t.gid)
    (m.setSilt c fun s => { s with starved := false })

/-- The oldest window's records dropped: TAIL moves to the next MARKER (R401). -/
def Silt.dropOldest (s : Silt) : Silt :=
  let w := s.horizon
  let gone := s.recs.filter fun r => decide (r.window ≤ w)
  { s with
    recs := s.recs.filter fun r => decide (w < r.window)
    tail := (s.tail + (gone.map SRec.bytes).sum) % s.size
    snaps := s.snaps.filter fun p => decide (w < p.window)
    horizon := w + 1
    horizonSeq := ((s.recs.find? fun r => r.kind == .marker && r.window == w + 1).map (·.seq)).getD 0 }

/-- The oldest window may be dropped: no checkpoint in progress holds it. -/
def Silt.drops (s : Silt) : Bool := s.held != some s.horizon

/-- Some party of the context waits for room: a thread, an engine or another unit. -/
def Mach.siltWaits (m : Mach) (c : Nat) : Bool :=
  (m.ctx c).silt.starved || m.tasks.any fun t => t.lives c && t.phase == .waiting .silt

/-- A window dropped under SHED. -/
def Silt.shedOne (s : Silt) : Silt := { s.dropOldest with shed := s.shed + 1, horiz := true }

/-- SILT_SHED (R401): the oldest window is dropped; where only the open window is left, a marker with cause 7 closes it
first. -/
def Mach.siltShed (m : Mach) (c : Nat) : Mach :=
  let s := (m.ctx c).silt
  if !s.shedPolicy || !m.siltWaits c || !s.drops || !(m.ctx c).valid then m
  else if s.horizon < s.current then (m.setSilt c Silt.shedOne).wakeSilt c
  else if m.markerWaits c then m
  else ((m.takeMarker c 7 0).setSilt c Silt.shedOne).wakeSilt c

/-- SILT_STALL (R401): writers wait for room under STALL, or under SHED while a checkpoint holds the oldest window; the
kernel is interrupted with an error record. -/
def Mach.siltStall (m : Mach) (c : Nat) : Mach :=
  let s := (m.ctx c).silt
  if !m.siltWaits c || (s.shedPolicy && s.drops) || !(m.ctx c).valid then m
  else
    let r : ErrRec := { code := 0x2005, severity := 1, action := 1, unit := 0xB000, valid := 1, detail := s.size }
    { m.note c r with irqs := m.irqs ++ [(4, c)] }

/-- SILT_REGION_ENLARGE (R401): the kernel enlarges the region, or drops the oldest window itself; the writers resume. -/
def Mach.siltEnlarge (m : Mach) (c bytes : Nat) (drop : Bool) : Mach :=
  let m0 := { m with irqs := m.irqs.filter (· != (4, c)) }
  let m1 := m0.setSilt c fun s =>
    let s1 := { s with size := s.size + bytes }
    if drop ∧ s.horizon < s.current ∧ s.drops then s1.dropOldest else s1
  m1.wakeSilt c

/-- CHECKPOINT (R406): the kernel requests a marker with cause 4. -/
def Mach.checkpoint (m : Mach) (c : Nat) : Mach :=
  if !(m.ctx c).valid || (m.ctx c).silt.held.isSome then m
  else m.setSilt c fun s => { s with requests := s.requests ++ [(4, 0)] }

/-- The copy-out of a checkpoint has ended (R406): its window is held no longer. -/
def Mach.copyEnd (m : Mach) (c : Nat) : Mach := m.setSilt c fun s => { s with held := none, pin := false }

/-! ### Undoing and redoing records (R403, R404, 22 R392) -/

/-- The barrier objects whose WAITERS lie among n bytes from a key show the waits their owners hold (15 R282). -/
def Mach.keepWaiters (m : Mach) (k n : Nat) : Mach :=
  m.objects.foldl (fun a o =>
    let w := a.frontKey (o / 65536) (o % 65536) + 12
    if k < w + 2 ∧ w < k + n then a.setWaiters (o / 65536) (o % 65536) else a) m

/-- The bytes and full/empty bits at a key replaced, but for the counts that owners keep (15 R282). -/
def Mach.putBytes (m : Mach) (k : Nat) (bs : List Byte) (fe : List Bool) : Mach :=
  let m1 := { m with mem := pokeMem m.mem k bs }
  ((fe.zipIdx).foldl (fun a (b, i) => a.setFull (k + 8 * i) b) m1).keepWaiters k bs.length

/-- The entry that stands in one of the places where a rehash may have put it, with its place; a free one where none does
(06 R131). DEDUCED, log entry 53. -/
def Mach.standing (m : Mach) (c : Nat) (places : List Nat) : Nat × Entry :=
  match places.find? fun i => (m.entry c i).state != .free with
  | some i => (i, m.entry c i)
  | none => (places.headD 0, {})

/-- The place, among those where a rehash may have put an entry, that its hash names now. -/
def Mach.placeOf (m : Mach) (c : Nat) (places : List Nat) (e : Entry) : Nat :=
  (places.find? fun i => i / 16 * 16 == (m.ctx c).loam.setOf e.hash).getD (places.headD 0)

/-- An entry of the answer table put in place of the one that stands in its way, wherever a rehash has put that; cursors and pins
stay with the entry they name. -/
def Mach.swapEntry (m : Mach) (c : Nat) (places : List Nat) (e : Entry) : Mach :=
  let (_, v) := m.standing c places
  let e1 := if e.creation = v.creation then { e with pins := v.pins, lru := v.lru } else e
  let cells := fun (x : Entry) => keyCells x.form x.key
  let m1 := places.foldl (fun a i => a.updEntry c i fun _ => {}) m
  (m1.updEntry c (m.placeOf c places e1) fun _ => e1).setCtx c fun x => { x with loam := { x.loam with
    ansFree := x.loam.ansFree + v.answers.length - e1.answers.length
    keyFree := x.loam.keyFree + cells v - cells e1 } }

/-- What stands where a record keeps what stood there. -/
def Mach.current (m : Mach) (c key : Nat) : SOld → SOld
  | .bytes l fe => .bytes (m.peek key l.length) ((List.range fe.length).map fun i => m.full (key + 8 * i))
  | .entry i _ also => .entry i (m.standing c (i :: also)).2 also
  | .launch r _ => .launch r (m.launch c r).r
  | o => o

/-- What a record keeps put in its place. -/
def Mach.putOld (m : Mach) (c key : Nat) : SOld → Mach
  | .bytes l fe => m.putBytes key l fe
  | .entry i e also => m.swapEntry c (i :: also) e
  | .launch r p => m.updRec c r fun q => { q with r := p }
  | .swap core => m.swapFront core
  | .none => m

/-- The newest record undone, and kept with what it replaced. -/
def Mach.undoLast (m : Mach) (c : Nat) : Mach :=
  match (m.ctx c).silt.recs.getLast? with
  | none => m
  | some r =>
    let was := m.current c r.key r.old
    (m.putOld c r.key r.old).setSilt c fun s => { s with recs := s.recs.dropLast, undone := ⟨r, was⟩ :: s.undone }

/-- The record most recently undone re-applied. -/
def Mach.redoLast (m : Mach) (c : Nat) : Mach :=
  match (m.ctx c).silt.undone with
  | [] => m
  | u :: rest => (m.putOld c u.r.key u.was).setSilt c fun s => { s with recs := s.recs ++ [u.r], undone := rest }

/-- n records undone, the newest first. -/
def Mach.undoMany (m : Mach) (c : Nat) : Nat → Mach
  | 0 => m
  | n + 1 => (m.undoLast c).undoMany c n

/-- n records re-applied. -/
def Mach.redoMany (m : Mach) (c : Nat) : Nat → Mach
  | 0 => m
  | n + 1 => (m.redoLast c).redoMany c n

/-- The records at the end of a log that share the last one's SEQ: one write, or one group. -/
def lastStep (l : List SRec) : Nat := match l.getLast? with
  | none => 0
  | some r => (l.reverse.takeWhile fun q => q.seq == r.seq).length

/-- The records at the head of the undone list that share one SEQ. -/
def headStep (l : List Undone) : Nat := match l with
  | [] => 0
  | u :: _ => (l.takeWhile fun q => q.r.seq == u.r.seq).length

/-- A halted context that is not sealed, on which kamdb may step and rewind. -/
def Mach.stepsOk (m : Mach) (c : Nat) : Bool := (m.ctx c).halt.complete && !(m.ctx c).isSealed && (m.ctx c).valid

/-- The last n writes undone (R403): markers are passed; the steps stop before an irreversible mark and before
HORIZON_SEQ. `fuel` bounds the records passed. -/
def Mach.rsteps (m : Mach) (c : Nat) : Nat → Nat → Mach
  | _, 0 => m
  | 0, _ => m
  | n + 1, fuel + 1 =>
    match (m.ctx c).silt.recs.getLast? with
    | none => m
    | some r =>
      if r.kind = .module ∨ r.kind = .external then m
      else if r.kind = .marker then
        if r.seq = (m.ctx c).silt.horizonSeq then m else (m.undoLast c).rsteps c (n + 1) fuel
      else (m.undoMany c (lastStep (m.ctx c).silt.recs)).rsteps c n fuel

/-- RSTEP (R403): only at FULL. -/
def Mach.rstep (m : Mach) (c n : Nat) : Mach :=
  let s := (m.ctx c).silt
  if !m.stepsOk c || !s.full then m else m.rsteps c n (s.recs.length + 1)

/-- The n writes most recently undone re-applied (22 R392). -/
def Mach.rfwds (m : Mach) (c : Nat) : Nat → Nat → Mach
  | _, 0 => m
  | 0, _ => m
  | n + 1, fuel + 1 =>
    match (m.ctx c).silt.undone with
    | [] => m
    | u :: _ =>
      if u.r.kind = .marker then (m.redoLast c).rfwds c (n + 1) fuel
      else (m.redoMany c (headStep (m.ctx c).silt.undone)).rfwds c n fuel

/-- Records undone or re-applied until n stand undone. -/
def Mach.undoneTo (m : Mach) (c n : Nat) : Mach :=
  let k := (m.ctx c).silt.undone.length
  if k ≤ n then m.undoMany c (n - k) else m.redoMany c (k - n)

/-- RFWD (R404, 22 R392): after a rewind, everything since then at once, with the state that was kept; else n writes. -/
def Mach.rfwd (m : Mach) (c n : Nat) : Mach :=
  let s := (m.ctx c).silt
  if !m.stepsOk c then m
  else match s.rewound with
    | some w => ((m.undoneTo c w.undone).restore c w.left true).setSilt c fun x =>
        { x with rewound := none, current := w.left.window, since := w.since, requests := w.requests }
    | none => m.rfwds c n (s.undone.length + 1)

/-- The snapshot of a window. -/
def Silt.snap (s : Silt) (n : Nat) : Option Snap := s.snaps.find? fun p => p.window == n

/-- The log stands at a snapshot's marker: every record above it is undone, and those that steps had undone below it, and its own,
are re-applied; the snapshot is restored. SEQ goes on (R404). -/
def Mach.rewindTo (m : Mach) (c : Nat) (p : Snap) (halted : Bool) : Mach :=
  let s := (m.ctx c).silt
  let above := (s.recs.filter fun r => decide (p.seq < r.seq)).length + (s.undone.filter fun u => decide (p.seq < u.r.seq)).length
  ((m.undoneTo c above).restore c p halted).setSilt c fun s => { s with current := p.window, since := 0, requests := [] }

/-- RWIN (R404): refused where an external mark stands above the window's marker. A rewind settles steps that stood undone. -/
def Mach.rwin (m : Mach) (c n : Nat) : Mach :=
  let s := (m.ctx c).silt
  if !m.stepsOk c || decide (n < s.horizon) || decide (s.current < n) then m
  else match s.snap n with
    | none => m
    | some p =>
      if s.recs.any fun r => r.kind == .external && decide (p.seq < r.seq) then m
      else
        let m1 := m.rewindTo c p true
        let place := (m1.ctx c).silt.undone.length
        let w : Rewound := match s.rewound with
          | some o => { o with place := place }
          | none => ⟨m.snapOf c s.current s.nextSeq id, s.undone.length, place, s.since, s.requests⟩
        m1.setSilt c fun x => { x with rewound := some w }

/-- A context whose rewind the resume makes final (R404): the undone records are discarded. -/
def Silt.settleRewind (s : Silt) : Silt :=
  if s.rewound.isSome then
    { s with rewound := none, undone := [], snaps := s.snaps.filter fun p => decide (p.window ≤ s.current) }
  else s

/-- Writes stand undone by steps, since the last rewind if there was one: the context does not resume (22 R392). -/
def Silt.stepsOpen (s : Silt) : Bool := match s.rewound with
  | some w => s.undone.length != w.place
  | none => !s.undone.isEmpty

/-! ### The copy of a checkpoint (R406) -/

/-- The physical ranges that a table of the remaining levels maps (15 R283, R284). -/
def pagesFrom (m : Mach) : List Level → Nat → List (Nat × Nat)
  | [], _ => []
  | l :: rest, table => (List.range (2 ^ l.width)).flatMap fun i =>
      let e := m.word (table + 8 * i)
      if !attrBit e 0 then []
      else if attrBit e 1 then [(e % 2 ^ 52 / 256 * 256, 2 ^ l.shift)]
      else pagesFrom m rest (e % 2 ^ 52 / 256 * 256)

/-- A byte of the module's memory that a context's tables map. -/
def Mach.maps (m : Mach) (c k : Nat) : Bool :=
  decide (homeOf k = .hbm) && (pagesFrom m levels (m.ctx c).root).any fun p => decide (p.1 ≤ k) && decide (k < p.1 + p.2)

/-- The old byte that a record of global memory holds at an address. -/
def SRec.oldAt (r : SRec) (k : Nat) : Option Byte := match r.kind, r.space, r.old with
  | .write, 0, .bytes l _ => if r.key ≤ k then l[k - r.key]? else none
  | _, _, _ => none

/-- A byte of global memory as it stood at a marker: that of the lowest record above it that covers the byte, else as it stands. -/
def Mach.byteAt (m : Mach) (c seq k : Nat) : Byte :=
  (((m.ctx c).silt.recs.filter fun r => decide (seq < r.seq)).findSome? (·.oldAt k)).getD (m.byte k)

/-- The addresses that memory lists, or that records of global memory above a marker cover. -/
def Mach.copied (m : Mach) (c seq : Nat) : List Nat :=
  (m.mem.map Prod.fst ++ ((m.ctx c).silt.recs.filter fun r => decide (seq < r.seq)).flatMap fun r =>
    match r.old with
    | .bytes l _ => (List.range l.length).map (r.key + ·)
    | _ => []).filter (m.maps c)

/-- The bytes of a context's memory as they stood at a marker (R406). -/
def Mach.imageOf (m : Mach) (c seq : Nat) : List Host.Cell :=
  (m.copied c seq).foldl (fun t k => Tab.put emptyByte t k (m.byteAt c seq k)) []

end Sys2Proof.Machine
end

