-- ==== Sys2Proof/Machine/System.lean ====
section
/-! DEFINITION. Page 11: traps, system calls, control registers, translations, halts (09), markers and hints (23), and the
breakpoint instruction (24). -/

namespace Sys2Proof.Machine

/-! ### Control registers (R180, R183) -/

/-- A view register's word (08 R156). -/
def View.word (v : View) : Nat := v.count.toNat * 256 + v.base.toNat

/-- TRAP_CODE's word (R168). -/
def TrapCode.word (c : TrapCode) : Nat := (if c.inH then 65536 else 0) + c.member.toNat * 256 + c.code.toNat

/-- SILT_CTL's word (23 R407). -/
def Silt.ctlWord (s : Silt) : Nat :=
  s.thresh % 256 * 65536 + (if s.isSealed then 32 else 0) + (if s.xw then 16 else 0) + (if s.pin then 8 else 0) +
    (if s.horiz then 4 else 0) + (if s.shedPolicy then 2 else 0) + (if s.full then 1 else 0)

/-- SILT_WIN's word (23 R408). -/
def Silt.winWord (s : Silt) : Nat := s.horizon % 2 ^ 32 * 2 ^ 32 + s.current % 2 ^ 32

/-- A window register's word (15): BASE and LIM hold offsets in bits 16 to 3. -/
def Window.word (w : Window) (f : Nat) : Nat :=
  match f with
  | 0 => w.base.toNat * 8
  | 1 => w.lim.toNat * 8
  | _ => w.rights.toNat

/-- The value of control register k of the task in focus; none where the map has no such number. -/
def Mach.crRead (m : Mach) (k : Nat) : Option Nat :=
  let t := m.t
  let c := t.ctl
  let s := (m.ctx m.cur).silt
  match k with
  | 0 => some m.cur
  | 1 => some t.gid
  | 2 => some (t.core % 4096 * 16 + t.slot % 16)
  | 3 => some t.workId.toNat
  | 4 => some c.widShape.toNat
  | 5 => some c.alloc.toNat
  | 6 => some c.viewV.word
  | 7 => some c.viewT.word
  | 8 => some c.viewC.word
  | 9 => some c.fmtMode.toNat
  | 10 => some c.fpMode.toNat
  | 11 => some c.flgEn.toNat
  | 12 => some c.fpSup.toNat
  | 13 => some m.cycle
  | 14 => some (match t.rec_ with
      | some r => (m.launch m.cur r).energy
      | none => 0)
  | 16 => some c.trapPc.toNat
  | 17 => some c.trapCode.word
  | 18 => some c.trapAddr.toNat
  | 19 => some c.trapVec.toNat
  | 20 => some s.ctlWord
  | 21 => some s.winWord
  | 24 => some c.wpAddr.toNat
  | 25 => some c.wpMask.toNat
  | 26 => some c.wpCtl.toNat
  | 27 => some c.stepCtl.toNat
  | k => if 32 ≤ k ∧ k < 44 then some ((m.window m.cur t.core (k % 4)).word ((k - 32) / 4)) else none

/-- CRR (R180): a number that the map does not have traps ILL_OP where the instruction executes, with its address: R180 does not say
whether the decoder raises it. DESIGN CHOICE, log entry 10. The tag is 14 for TRAP_PC and TRAP_VEC, 0 for every other register. -/
def crrM (d : Opnd) (k : Nat) (m : Mach) : Except Stop Mach :=
  match m.crRead k with
  | none => .error (.trap illOp m.t.pc 0)
  | some v => do
    m.t.bounds [d]
    .ok { m with t := m.t.wr d (BitVec.ofNat 64 v) (if k = 16 ∨ k = 19 then .addr else .raw) }

/-- A window register written (15 R278): reserved bits are set to zero. -/
def Window.put (w : Window) (f : Nat) (v : Word) : Window :=
  match f with
  | 0 => { w with base := BitVec.ofNat 14 (v.toNat / 8) }
  | 1 => { w with lim := BitVec.ofNat 14 (v.toNat / 8) }
  | _ => { w with rights := BitVec.ofNat 3 v.toNat }

/-- A window of the context on the issuing core changed. -/
def Mach.putWindow (m : Mach) (n f : Nat) (v : Word) : Mach :=
  { m with windows := Tab.upd {} m.windows ((m.t.core * 256 + m.cur) * 4 + n) fun w => w.put f v }

/-- Control register k of the task in focus written; none where the map has no such number or the register is RO. -/
def Mach.crWrite (m : Mach) (k : Nat) (v : Word) : Option Mach :=
  let set := fun (f : Ctl → Ctl) => some { m with t := { m.t with ctl := f m.t.ctl } }
  match k with
  | 9 => set fun c => { c with fmtMode := BitVec.ofNat 1 v.toNat }
  | 10 => set fun c => { c with fpMode := BitVec.ofNat 3 v.toNat }
  | 11 => set fun c => { c with flgEn := BitVec.ofNat 9 (v.toNat % 32 + v.toNat / 256 % 2 * 256) }
  | 12 => set fun c => { c with fpSup := BitVec.ofNat 12 v.toNat }
  | 16 => set fun c => { c with trapPc := BitVec.ofNat 52 v.toNat }
  | 19 => set fun c => { c with trapVec := BitVec.ofNat 52 v.toNat }
  | k => if 32 ≤ k ∧ k < 44 then some (m.putWindow (k % 4) ((k - 32) / 4) v) else none

/-- CRW (R180): lt is unchanged; a number that no task may write traps as CRR's. DESIGN CHOICE, log entry 10. -/
def crwM (mod : Option XMod) (a : Opnd) (k : Nat) (m : Mach) : Except Stop Mach :=
  if (m.crWrite k 0).isNone then .error (.trap illOp m.t.pc 0)
  else do
    m.t.bounds [a]
    let v ← m.t.raw mod a
    .ok ((m.crWrite k v).getD m)

/-! ### Translations (R182, 23 R410) -/

/-- A TLB without a context's translations that hold an address, or without any of the context's. -/
def tlbDrop (l : List TlbEnt) (c : Nat) (a : Option Nat) : List TlbEnt :=
  l.filter fun e => e.ctx != c || (match a with
    | some x => !(decide (e.va ≤ x) && decide (x < e.va + e.size))
    | none => false)

/-- Translations dropped from every cluster and die TLB of a context's partition. DESIGN CHOICE, log entry 14. -/
def Mach.dropTlb (m : Mach) (c : Nat) (a : Option Nat) : Mach :=
  let cls := (m.partOf c).clusters
  { m with
    tlb := cls.foldl (fun t k => Tab.upd [] t k fun l => tlbDrop l c a) m.tlb
    dtlb := (cls.map (· / 128)).foldl (fun t k => Tab.upd [] t k fun l => tlbDrop l c a) m.dtlb }

/-- TLBINV (R182): the thread parks until every TLB has acknowledged. -/
def tlbinvM (mod : Option XMod) (a : Option Opnd) (m : Mach) : Except Stop Mach := do
  let parked := fun (x : Mach) => { x with t := { x.t with phase := .parked .tlb } }
  match a with
  | none => .ok (parked (m.dropTlb m.cur none))
  | some o =>
    m.t.bounds [o]
    let v ← m.t.raw mod o
    .ok (parked (m.dropTlb m.cur (some v.toNat)))

/-- PREF (23 R410): a hint. A page's translation is fetched; a line's warmth shows nowhere. -/
def prefM (mod : Option XMod) (k : PrefKind) (a : Opnd) (m : Mach) : Except Stop Mach := do
  m.t.bounds [a]
  let v ← m.t.raw mod a
  match k with
  | .line => .ok m
  | .page => match m.reach m.cur (clusterOf m.t.core) v 1 accRead with
    | .ok (_, m1) => .ok m1
    | .error _ => .ok m

/-! ### Halts and markers (R181, 23 R409) -/

/-- HALT (R181): the line is raised, and the task issues nothing more before it stops. -/
def haltM (m : Mach) : Except Stop Mach :=
  let m1 := m.raiseLine m.cur false (some m.t.gid)
  .ok { m1 with t := { m1.t with struck := true } }

/-- WMARK (23 R409): a marker is requested with cause 1; the thread parks until it is taken. -/
def wmarkM (d : Opnd) (m : Mach) : Except Stop Mach := do
  m.t.bounds [d]
  let m1 := m.setCtx m.cur fun x => { x with silt := { x.silt with requests := x.silt.requests ++ [(1, m.t.gid)] } }
  .ok { m1 with t := { m1.t with phase := .parked (.marker d) } }

/-- BRK (24 R416): in a sealed context, NOP. -/
def brkM (k : Nat) (m : Mach) : Except Stop Mach :=
  if (m.ctx m.cur).isSealed then .ok m else .error (.trap brkTrap (BitVec.ofNat 64 k) 0)

/-! ### Meanings -/

/-- RFE (R179). -/
def execRfe (s : State) : Step State := issueT (.abort abForbidden) rfeT s

/-- TRAP (R178). In an open region it aborts as every other instruction does (21 R370) and raises no trap.
DEDUCED, log entry 13. -/
def execTrap (k : Nat) (s : State) : Step State :=
  issueT (.abort abForbidden) (fun _ => .error (.trap trapTrap (BitVec.ofNat 64 k) 0)) s

/-- SYSC (R178). -/
def execSysc (k : Nat) (s : State) : Step State :=
  issueT (.abort abForbidden) (fun _ => .error (.trap syscTrap (BitVec.ofNat 64 k) 0)) s

/-- CRR (R180). -/
def execCrr (d : Opnd) (k : Nat) (s : State) : Step State := issue .own (crrM d k) s

/-- CRW (R180). -/
def execCrw (m : Option XMod) (a : Opnd) (k : Nat) (s : State) : Step State := issue (.abort abForbidden) (crwM m a k) s

/-- TLBINV (R182). -/
def execTlbinv (m : Option XMod) (a : Option Opnd) (s : State) : Step State :=
  issue (.abort abForbidden) (tlbinvM m a) s

/-- HALT (R181). -/
def execHalt (s : State) : Step State := issue (.abort abForbidden) haltM s

/-- WMARK (23 R409). -/
def execWmark (d : Opnd) (s : State) : Step State := issue (.abort abForbidden) (wmarkM d) s

/-- PREF (23 R410). -/
def execPref (m : Option XMod) (k : PrefKind) (a : Opnd) (s : State) : Step State :=
  issue (.abort abForbidden) (prefM m k a) s

/-- BRK (24 R416). DEDUCED, log entry 24. -/
def execBrk (k : Nat) (s : State) : Step State :=
  issue (if (s.m.ctx s.m.cur).isSealed then .own else .abort abForbidden) (brkM k) s

end Sys2Proof.Machine
end

