-- ==== Sys2Proof/Machine/HaltOps.lean ====
section
/-! DEFINITION. Halts as units and the kernel act on them (09 R170 to R176): stopping, stop records (07 R148, 09 R172), the
completion of a halt, what the kernel writes, the resume, pre-emption and context switches; breakpoints and steps (24). -/

namespace Sys2Proof.Machine

/-! ### What the kernel writes (23 R393, 25 R440) -/

/-- A channel's task-table entry written (19 R360): a new generation has no messages. -/
def Chan.put (k : Chan) (e : ChanEntry) : Chan := ⟨e, if k.e.gen = e.gen ∧ k.e.valid then k.queue else []⟩

/-- A launch boundary of a context (06 R128): the FAILED entries that it finds without pins are to be cleared, unless the context
keeps them. -/
def Loam.bounded (l : Loam) : Loam :=
  if l.keepFailed then l
  else
    let found := l.entries.filterMap fun (_, e) => if e.state = .failed ∧ e.pins = 0 then some e.creation else none
    { l with boundary := some (l.boundary.getD [] ++ found) }

/-- TABLE_CLEAR_FAILED (06 R128): the kernel handles a launch boundary: it frees the entries that were FAILED without pins then and
are so now. -/
def Mach.clearFailed (m : Mach) (c : Nat) : Mach :=
  let l := (m.ctx c).loam
  match l.boundary with
  | none => m
  | some found =>
    let is := l.entries.filterMap fun (i, e) =>
      if e.state = .failed ∧ e.pins = 0 ∧ found.contains e.creation then some i else none
    let freed := is.map (m.entry c)
    let m1 := if is.isEmpty then m else m.markEntriesBy 0xE000 c 0 is fun _ => {}
    m.orHold c (m1.setCtx c fun x => { x with loam := { x.loam with
      boundary := none
      ansFree := x.loam.ansFree + (freed.map fun e => e.answers.length).sum
      keyFree := x.loam.keyFree + (freed.map fun e => keyCells e.form e.key).sum } })

/-- A record armed by the kernel through the system port (25 R440), with the effect of LARM and TASK 0, once it has handled a launch
boundary of the context (06 R128). DEDUCED, log entry 51. -/
def Mach.kernelArm (m0 : Mach) (c r : Nat) : Mach :=
  let m := m0.clearFailed c
  let p := m.launch c r
  if (m.ctx c).loam.boundary.isSome ∨ 4095 < r ∨ p.state = .armed ∨ p.state = .running ∨ (recordFault p.r).isSome then m
  else m.arm c r 0 (m.updRec c r)

/-- The work has no write in it. -/
def isIdle (w : KWork) : Bool :=
  w.mem.isEmpty && w.recs.isEmpty && w.chans.isEmpty && w.groups.isEmpty && w.scratch.isEmpty && w.guards.isEmpty && w.arms.isEmpty &&
  w.regs.isEmpty && w.pcs.isEmpty

/-- The resident kernel's and the loader's writes for a context (R393): none is logged, a changed mapping is walked anew (15 R287),
and a scratchpad word that the loader fills is empty (10 R185). DESIGN CHOICE, log entries 14 and 72. DEDUCED, log entry 51. -/
def Mach.work (m : Mach) (c : Nat) (w : KWork) : Mach :=
  let scratch : List (Nat × Byte) := w.scratch.map fun (core, off, b) => (m.frontKey core off, b)
  let m1 := { m with mem := pokeCells (pokeCells m.mem w.mem) scratch
                     fe := scratch.foldl (fun (t : Tab Bool) (p : Nat × Byte) => Tab.put false t (p.1 / 8) false) m.fe
                     chans := w.chans.foldl (fun t (core, n, e) => Tab.upd {} t (64 * core + n % 64) (·.put e)) m.chans
                     imports := w.imports.foldl (fun t (k, e) => Tab.put {} t k e) m.imports }
  let m2 := if w.mem.isEmpty then m1 else m1.dropTlb c none
  let m3 := m2.setCtx c fun x =>
    { x with
      pool := w.recs.foldl (fun t (r, v) => Tab.upd {} t r fun p => { p with r := v }) x.pool
      groups := w.groups.foldl (fun t (g, l) => Tab.put [] t g l) x.groups
      tags := w.groups.foldl (fun t p => Tab.put 0 t p.1 0) x.tags
      deadGroups := x.deadGroups.filter fun g => !(w.groups.any fun p => p.1 == g)
      guards := x.guards ++ w.guards }
  w.arms.foldl (fun a r => a.kernelArm c r) m3

/-! ### Stopping (R171, R172, R148) -/

/-- CAUSE of a record that the line alone stopped. -/
def Halt.cause (h : Halt) : Nat := if h.dbg then 2 else 1

/-- STATE of a core's record (R148), of the thread as the stop found it. DESIGN CHOICE, log entry 46. -/
def Task.stopState (t : Task) : Nat :=
  (if t.region.isSome then 1 else 0) + (if t.produces.isSome then 2 else 0) +
  (match t.gangSize with
    | 2 => 4
    | 4 => 8
    | 8 => 12
    | _ => 0) +
  (if t.phase = .ready then 0 else 16)

/-- A core's stop record for a thread t, which stands as u once settled (R148). DESIGN CHOICE, log entry 46. -/
def Mach.coreRec (m : Mach) (c : Nat) (t u : Task) : StopRec :=
  let s := u.stop.getD ⟨(m.ctx c).halt.cause, 0, 0, u.pc⟩
  .core s.cause s.code t.core t.slot c t.gid s.pc s.addr m.cycle t.workId (m.windowNo c) t.ctl.alloc.toNat t.stopState
    (m.imageAt c t.frame 0)

/-- A thread stopped for its context's halt (R171, 21 R378), with its record. -/
def Mach.stopThread (m : Mach) (c : Nat) (g : Gid) : Mach :=
  match m.find g with
  | none => m
  | some t =>
    let m1 := m.settleTask g abHalt
    match m1.find g with
    | none => m1
    | some u => (m1.addStop c (m1.coreRec c t u)).mapTask g fun x =>
      { x with halted := true, stop := none, stepDue := false, leave := false }

/-- The threads of a context seated on a core that have not stopped, slot by slot. -/
def Mach.threadsOn (m : Mach) (c core : Nat) : List Task :=
  (List.range 16).filterMap fun s => match m.occupant core s with
    | some t => if t.lives c && !t.halted then some t else none
    | none => none

/-- Threads stopped one after another; none where a commit that has left its core has first to complete (21 R378). -/
def Mach.stopThreads (m : Mach) (c : Nat) : List Task → Option Mach
  | [] => some m
  | t :: r => if m.undecided t.gid then none else (m.stopThread c t.gid).stopThreads c r

/-- A core stops (R171), once no thread of it waits for an answer from outside the module, or for a commit. -/
def Mach.stopCore (m : Mach) (c core : Nat) : Option Mach :=
  let ts := m.threadsOn c core
  if ts.any Task.inFlight then none else m.stopThreads c ts

/-- A unit's record (R172). DESIGN CHOICE, log entries 46 and 82. -/
def Mach.unitRec (m : Mach) (c : Nat) (u : UnitRef) (g : Gid) (op addr progress pending state : Nat) : StopRec :=
  .unit (unitCode u / 4096) (m.ctx c).halt.cause 0 (unitCode u) c g op addr m.cycle progress (m.windowNo c) pending state
    (Config.saveAt (unitCode u) c)

/-- The records of a unit's own faults (R166, R172). -/
def Mach.faultRecs (m : Mach) (c : Nat) (u : UnitRef) : List StopRec :=
  ((m.ctx c).halt.faults.filter (·.unit = u)).map fun f =>
    .unit (unitCode u / 4096) 0 engineFault (unitCode u) c f.task f.op f.addr m.cycle f.progress (m.windowNo c) 0 0
      (Config.saveAt (unitCode u) c)

/-- Records appended. -/
def Mach.addStops (m : Mach) (c : Nat) (l : List StopRec) : Mach := l.foldl (fun a r => a.addStop c r) m

/-- The operation faulted, and has its record. -/
def Mach.faulted (m : Mach) (c : Nat) (u : UnitRef) (g : Gid) (op : Nat) : Bool :=
  (m.ctx c).halt.faults.any fun f => f.unit == u && f.task == g && f.op == op

/-- OP of a queued command of a matrix unit (R172). -/
def QEnt.opAt (e : QEnt) : Nat := match e.cmd with
  | .msched s => s.table
  | _ => e.op

/-- The next address a queued command would write (R172). -/
def QEnt.addrAt (e : QEnt) : Nat := match e.cmd with
  | .mconv _ a _ _ _ _ => a
  | _ => 0

/-- The command is in progress when the unit stops: a schedule that has read its header, a conversion that has written some of its
columns. -/
def QEnt.running (e : QEnt) : Bool := match e.cmd with
  | .msched s => s.started
  | _ => decide (0 < e.cols)

/-- PROGRESS of a matrix unit's record: the columns a conversion has written in bits 63 to 56, and tile operations finished
(13 R258). -/
def QEnt.progress (e : QEnt) (finished : Nat) : Nat := e.cols % 256 * 2 ^ 56 + finished % 2 ^ 56

/-- A matrix unit's records for a context (R172, 13 R258): one for each command queued. DESIGN CHOICE, log entry 46. -/
def Mach.matrixRecs (m : Mach) (c cl : Nat) : List StopRec :=
  let x := m.mtx cl
  (List.range 8).flatMap fun i =>
    let l := Tab.look [] x.queues i
    (l.zipIdx).filterMap fun (e, k) =>
      if ctxOf e.gid = c ∧ e.counts ∧ ¬ m.faulted c (.matrix cl) e.gid e.op then
        some (m.unitRec c (.matrix cl) e.gid e.opAt e.addrAt (e.progress (Tab.look 0 x.finished c)) (l.length - 1 - k) (if e.running then 1 else 0))
      else none

/-- A matrix unit stops after the tile operation on its arrays (R171, 13 R258); its sequencer's stall ends with it.
DEDUCED, log entry 36. -/
def Mach.stopMatrix (m : Mach) (c cl : Nat) : Option Mach :=
  if (m.mtx cl).run.any fun r => ctxOf r.ent.gid == c then none
  else some ((m.addStops c (m.faultRecs c (.matrix cl) ++ m.matrixRecs c cl)).setMtx cl fun x =>
    { x with stopped := x.stopped ++ [c], stalledAt := none })

/-- OP of an engine's command (R172). -/
def ECmd.opAt (c : ECmd) : Nat := if c.opc = 4 ∨ c.opc = 5 then c.src.toNat else c.op

/-- The next address an operation would write (R172): that of its first missing chunk. -/
def EOp.addrAt (o : EOp) : Nat := match firstClear o.bitmap with
  | some k => if o.cmd.opc = 1 ∨ o.cmd.opc = 2 then o.cmd.dst.toNat + (o.cmd.chunkSpan k).1 else o.cmd.dst.toNat
  | none => 0

/-- PROGRESS of a collective (25 R438). -/
def Coll.progress (k : Coll) : Nat := k.step % 2 ^ 32 + k.tag % 2 ^ 32 * 2 ^ 32

/-- The next address a stream would write: in the ring, or in global memory (R172). -/
def Stream.addrAt (s : Stream) : Nat := if s.store then (s.blockAt 0).1.toNat else (s.blockAt 0).2

/-- An engine's records for a context (R172): one for each operation in progress or queued. DESIGN CHOICE, log entry 46. -/
def Mach.engineRecs (m : Mach) (c : Nat) (e : EngRef) : List StopRec :=
  let x := m.eng e
  let q := x.shadow.toList ++ x.pend
  let sh := if x.shadow.isSome then 2 else 0
  let runs := if e.kind = .collective then m.collsAt e.unit else []
  let ops := ((x.active.toList ++ x.saved).filter fun o => o.cmd.ctx == c && !runs.any (·.cmd == o.cmd)).map fun o =>
    m.unitRec c (.eng e) o.cmd.gid o.cmd.opAt o.addrAt o.bitmap.toNat q.length (1 + sh)
  let cmds := q.zipIdx.filterMap fun (k, i) =>
    if k.ctx = c then some (m.unitRec c (.eng e) k.gid k.opAt k.dst.toNat k.freshBits.toNat (q.length - 1 - i) sh) else none
  let streams := (x.streams.filter (·.cmd.ctx == c)).map fun s =>
    m.unitRec c (.eng e) s.cmd.gid s.cmd.src.toNat s.addrAt (s.tile * s.k) 0 1
  let colls := (runs.filter (·.cmd.ctx == c)).map fun k => m.unitRec c (.eng e) k.cmd.gid k.cmd.src.toNat k.dst k.progress q.length (1 + sh)
  ops ++ cmds ++ streams ++ colls

/-- The streams of a context write their counters back before their records (15 R295), one after another; whether all have. -/
def Mach.countAll (m : Mach) (c : Nat) (e : EngRef) : Mach × Bool :=
  ((m.eng e).streams.zipIdx.filter fun p => p.1.cmd.ctx == c).foldl (fun a p =>
    let (b, k) := a.1.count e p.2 p.1
    (b, a.2 && k)) (m, true)

/-- An engine as it stands stopped for a context (R171, 18 R340): its operation is saved and will run its missing chunks alone, and
its streams resume at the tile they have reached (15 R294). -/
def Engine.stoppedFor (x : Engine) (c : Nat) : Engine :=
  let y := { x with
    stopped := x.stopped ++ [c]
    streams := x.streams.map fun s =>
      if s.cmd.ctx = c then { s with moved := 0, held := [], counted := false, counting := false } else s }
  match x.active with
  | some o => if o.cmd.ctx = c then { y with active := none, saved := x.saved ++ [{ o with part := none, held := [] }] } else y
  | none => y

/-- An engine stops (R171, 18 R340) once the counters of its streams are written back (15 R295); whether it has. -/
def Mach.stopEngine (m : Mach) (c : Nat) (e : EngRef) : Mach × Bool :=
  let (m1, done) := m.countAll c e
  if !done then (m1, false)
  else ((m1.addStops c (m1.faultRecs c (.eng e) ++ m1.engineRecs c e)).setEng e (·.stoppedFor c), true)

/-- The tasks of a context that a task unit holds off a slot (R172). DEDUCED, log entry 47. -/
def Mach.offSlot (m : Mach) (c cl : Nat) : Nat := (m.tasks.filter fun t => t.lives c && t.seat.isNone && t.cluster == cl).length

/-- The core's records of tasks that wait off their slots and whose own trap has halted the context (R178, 15 R288).
DEDUCED, log entry 47. -/
def Mach.strayRecs (m : Mach) (c cl : Nat) : List StopRec :=
  (m.tasks.filter fun t => t.lives c && t.seat.isNone && t.cluster == cl && t.stop.isSome).map fun t => m.coreRec c t t

/-- A task unit stops (R171, R172). DEDUCED, log entry 47. -/
def Mach.stopTaskUnit (m : Mach) (c cl : Nat) : Mach :=
  let n := m.offSlot c cl
  let own := m.faultRecs c (.taskUnit cl)
  m.addStops c (m.strayRecs c cl ++
    (if own.isEmpty then (if n = 0 then [] else [m.unitRec c (.taskUnit cl) 0 0 0 n 0 0]) else own))

/-- UNIT_STOP (R171): a unit stops within its skid and writes its records. -/
def Mach.unitStop (m : Mach) (c : Nat) (u : UnitRef) : Mach :=
  let h := (m.ctx c).halt
  if !h.line || h.complete || h.stopped.contains u then m
  else
    let (m1, done) := match u with
      | .core n => ((m.stopCore c n).getD m, (m.stopCore c n).isSome)
      | .matrix cl => ((m.stopMatrix c cl).getD m, (m.stopMatrix c cl).isSome)
      | .eng e => m.stopEngine c e
      | .taskUnit cl => (m.stopTaskUnit c cl, true)
    m.orHold c (if done then m1.setCtx c fun x => { x with halt := { x.halt with stopped := x.halt.stopped ++ [u] } } else m1)

/-- An engine holds work of a context. -/
def Mach.engHolds (m : Mach) (c : Nat) (e : EngRef) : Bool :=
  (m.eng e).cmds.any (·.ctx == c) || (e.kind == .collective && (m.collsAt e.unit).any (·.cmd.ctx == c))

/-- The engines the part lists. -/
def Mach.engineRefs (m : Mach) : List EngRef :=
  (Tab.keys m.engines).filterMap (fun k => (kindOf (k / 4096)).map fun q => ⟨q, k % 4096⟩) ++
  ((Tab.keys m.colls).filter fun d => !(Tab.keys m.engines).contains (engKey (collEng d))).map collEng

/-- The units that have still to stop for a context's halt (R171). -/
def Mach.unstopped (m : Mach) (c : Nat) : List UnitRef :=
  let done := (m.ctx c).halt.stopped
  let cores := (m.tasks.filter fun t => t.lives c && t.seat.isSome && !t.halted).map fun t => UnitRef.core t.core
  let mats := (Tab.keys m.matrix).filter fun cl => (m.mtx cl).queues.any (fun (_, l) => l.any fun e => ctxOf e.gid == c) ||
    (match (m.mtx cl).run with | some r => ctxOf r.ent.gid == c | none => false)
  let engs := m.engineRefs.filter fun e => m.engHolds c e
  let units := (m.tasks.filter fun t => t.lives c && t.seat.isNone).map fun t => UnitRef.taskUnit t.cluster
  cores ++ ((mats.map UnitRef.matrix ++ engs.map UnitRef.eng ++ units ++ (m.ctx c).halt.faults.map (·.unit)).filter
    fun u => !done.contains u)

/-- HALT_COMPLETE (R171, 26 R447): every unit has stopped; the error records of the halt follow its stop records, and the
kernel is interrupted. -/
def Mach.haltComplete (m : Mach) (c : Nat) : Mach :=
  let h := (m.ctx c).halt
  if !h.line || h.complete || !(m.unstopped c).isEmpty then m
  else
    let m1 := m.drainCtx c
    m.orHold c
      { m1.setCtx c fun x => { x with halt := { x.halt with complete := true, errors := [] } } with
        errs := m1.errs ++ (m1.ctx c).halt.errors, irqs := m1.irqs ++ [(2, c)] }

/-! ### The resume (R174) -/

/-- The groups whose events waited for the resume evaluated, in home order (06 R126). -/
def Mach.reevalGroups (m : Mach) (c : Nat) : Mach :=
  ((m.ctx c).loam.entries.filter fun (i, e) => e.state == .eval && e.leader == i).foldl
    (fun a p => a.evalGroup c p.1 p.2.producer) m

/-- The line lowered: every unit goes on from where it stopped (R171, R174), and no register cache holds a line of the context's
tasks (08 R154). -/
def Mach.lowerLine (m : Mach) (c : Nat) : Mach :=
  let m0 := { m with rcache := m.rcache.map fun (p : Nat × List RLine) => (p.1, p.2.filter fun r => ctxOf r.gid != c) }
  let m1 := m0.mapTasks fun t => if ctxOf t.gid = c then { t with halted := false, skid := 0, struck := false, stop := none } else t
  let es := m1.engines.map fun (k, e) => (k, { e with stopped := e.stopped.filter (· != c) })
  let xs := m1.matrix.map fun (k, x) => (k, { x with stopped := x.stopped.filter (· != c) })
  ({ m1 with engines := es, matrix := xs }.setCtx c fun x => { x with halt := {} }).reevalGroups c

/-- The window's start as the kernel's writes leave it, where the window holds no record yet (23 R393).
DEDUCED, log entry 50. -/
def Mach.resnap (m : Mach) (c : Nat) : Mach :=
  let s := (m.ctx c).silt
  let q := (s.snap s.current).map (·.seq)
  m.setSilt c fun x =>
    { x with edited := false
             snaps := (x.snaps.filter fun p => p.window != x.current) ++ [m.snapOf c x.current (q.getD 0) Task.snapped] }

/-- The kernel's writes to a halted context close its window, unless the window holds no record (23 R393). -/
def Mach.closeWindow (m : Mach) (c : Nat) : Mach :=
  let s := (m.ctx c).silt
  if s.recs.any fun r => r.window == s.current && r.kind != .marker then m.takeMarker c 5 0 else m.resnap c

/-- A part of an image changed. -/
def Image.edit (g : Image) : ImgPart → Image
  | .reg j v k => { g with regs := Tab.put RCell.fresh g.regs j ⟨v, k, none⟩ }
  | .pred n v => { g with p := Tab.put 0 g.p n v }
  | .flags iv dz of uf nx => { g with fl := ⟨iv, dz, of, uf, nx⟩ }
  | .index _ _ => g

/-- A part of a task's image, or of the image of a member of its gang, changed by the kernel or by kamdb (08 R154): member 0 is the
task. -/
def Task.edit (t : Task) (member : Nat) (p : ImgPart) : Task :=
  match member, p with
  | 0, .index n v => { t with x := Tab.put 0 t.x (n % 4) v }
  | 0, q => { t with img := t.img.edit q }
  | k + 1, q => { t with fol := t.fol.zipIdx.map fun (g, i) => if i = k then g.edit q else g }

/-- The register images of a halted context's tasks as the kernel has changed them (08 R154). DESIGN CHOICE, log entry 72. -/
def Mach.imageWork (m : Mach) (c : Nat) (w : KWork) : Mach :=
  m.mapTasks fun t =>
    if ctxOf t.gid ≠ c then t
    else
      let t1 := (w.regs.filter (·.1 == t.gid)).foldl (fun a (_, k, p) => a.edit k p) t
      match w.pcs.find? (·.1 == t.gid) with
      | some (_, a) => { t1 with pc := a, npc := a }
      | none => t1

/-- SILT_CTL's LEVEL, POLICY, XW and THRESH as the kernel sets them (23 R407). -/
def Silt.control (s : Silt) (v : Nat) : Silt :=
  { s with full := decide (v % 2 = 1), shedPolicy := decide (v / 2 % 2 = 1), xw := decide (v / 16 % 2 = 1), thresh := v / 2 ^ 16 % 256 }

/-- SILT_CTL written where the kernel's work writes it. -/
def Mach.ctlWork (m : Mach) (c : Nat) (w : KWork) : Mach := match w.siltCtl with
  | none => m
  | some v => m.setSilt c (·.control v)

/-- CONTEXT_RESUME (R174): the kernel's writes, the marker that closes the window after them, the line down. A context does not
resume while a write stands undone (22 R392); a rewind becomes final (23 R404). -/
def Mach.resume (m : Mach) (c : Nat) (w : KWork) : Mach :=
  let x := m.ctx c
  if !x.valid || x.killed || !x.halt.complete || x.silt.stepsOpen then m
  else
    let m1 := (((m.setSilt c Silt.settleRewind).work c w).imageWork c w).ctlWork c w
    let m2 := if isIdle w && !x.silt.edited then m1 else m1.closeWindow c
    m.orHold c (m2.lowerLine c)

/-! ### Pre-emption (R175) -/

/-- A task off its slot goes to the cluster that the kernel has named for it, once nothing binds it (R176, 19 R361).
DEDUCED, log entry 47. -/
def Mach.sendOff (m : Mach) (g : Gid) : Mach :=
  match m.find g with
  | none => m
  | some t => match t.sendTo with
    | none => m
    | some cl =>
      if t.seat.isSome || (m.boundTo t).isSome then m
      else m.mapTask g fun x => { x with cluster := cl, lines := none, migrates := false, sendTo := none }

/-- A task pre-empted at its next instruction boundary: a ready continuation, its region aborted, no record. One whose access
outside the module is on its way, or whose commit has left the core, lets it complete first, and then leaves; one whose context
is halting stops as halted (R173). -/
def Mach.preemptTask (m : Mach) (g : Gid) : Mach :=
  match m.find g with
  | none => m
  | some t =>
    if t.seat.isNone ∨ (m.ctx (ctxOf g)).halt.line then m
    else if t.inFlight ∨ m.undecided g then m.mapTask g fun x => { x with leave := true }
    else
      let m1 := (m.settleTask g abPreempt).tick
      m.orHold (ctxOf g) (m1.mapTask g fun x => { x.setAside m1.cycle m1.order with leave := false })

/-- A task that the kernel requeues at a cluster of its partition (04 R66). -/
def Mach.sendTask (m : Mach) (cl : Option Nat) (g : Gid) : Mach := match cl with
  | none => m
  | some k =>
    if (m.partOf (ctxOf g)).clusters.contains k then (m.mapTask g fun t => { t with sendTo := some k }).sendOff g else m

/-- PREEMPT (R175): the tasks leave their slots, for another cluster where the kernel names one (04 R66, 09 R176). -/
def Mach.preempt (m : Mach) (gs : List Gid) (cl : Option Nat) : Mach :=
  gs.foldl (fun a g => (a.preemptTask g).sendTask cl g) m

/-- A current command of a context is in progress: an engine's operation, a stream or a collective, a tile operation, a conversion
or a schedule (R175). DEDUCED, log entry 47. -/
def Mach.busyUnits (m : Mach) (c : Nat) : Bool :=
  m.engines.any (fun (_, e) => e.active.any (·.cmd.ctx == c) || e.streams.any (·.cmd.ctx == c)) ||
  m.colls.any (fun (_, l) => l.any (·.cmd.ctx == c)) ||
  m.matrix.any fun (_, x) => x.run.any (fun r => ctxOf r.ent.gid == c) || x.queues.any fun (_, l) => l.any fun e =>
    ctxOf e.gid == c && (match e.cmd with
      | .mconv _ _ _ _ _ _ => true
      | .msched _ => true
      | _ => false)

/-- CONTEXT_SWITCH (R175): every task of the context leaves its slot; once its units have finished their current commands, the
other context is seated. -/
def Mach.contextSwitch (m : Mach) (c nxt : Nat) : Mach :=
  let m1 := m.setCtx c fun x => { x with out := true }
  let m2 := m1.preempt ((m1.tasks.filter fun t => t.lives c && t.seat.isSome).map (·.gid)) none
  if m2.busyUnits c || m2.tasks.any fun t => t.lives c && t.seat.isSome then m2
  else m2.setCtx nxt fun x => { x with out := false }

/-! ### Breakpoints, steps and watches (24 R411 to R415, 22 R390) -/

/-- The line raised by a debug stop of a task, with what its record will say. -/
def Mach.debugStop (m : Mach) (g : Gid) (code : Nat) : Mach :=
  (m.mapTask g fun t => { t with stop := some ⟨2, code, 0, t.pc⟩, passBreak := code == brkTrap, stepDue := false }).raiseLine
    (ctxOf g) false (some g)

/-- An instruction address matches a breakpoint of the task (R413). -/
def Mach.breaksAt (m : Mach) (t : Task) : Bool :=
  let c := ctxOf t.gid
  let a := t.pc.toNat % 2 ^ 52 / 2
  !(m.ctx c).isSealed && t.region.isNone && !t.passBreak &&
  ((t.ctl.stepCtl.getLsbD 62 && t.ctl.stepCtl.toNat % 2 ^ 52 / 2 == a) ||
   ((List.range 16).any fun i =>
     let b := Tab.look {} (m.ctx c).breaks i
     b.en && b.addr % 2 ^ 52 / 2 == a && (b.task == 0 || b.task == t.gid)))

/-- STEP (R414): a stepped instruction has completed. DEDUCED, log entry 56. -/
def Mach.stepped (m : Mach) (g : Gid) : Mach :=
  match m.find g with
  | none => m
  | some t => if t.stepDue && !(m.ctx (ctxOf g)).isSealed then m.debugStop g 0 else m

/-- WATCH_STRIKE (22 R390): a write by another party has hit a byte that a live, armed task watches.
DEDUCED, log entry 56. -/
def Mach.watchStrike (m : Mach) (w : Gid) (striker : Nat) (who : Gid) (addr : Word) (n : Nat) (old : Word) (seq : Nat) : Mach :=
  match m.find w with
  | none => m
  | some t =>
    if !t.watchEn then m
    else
      let m1 := m.strike t striker who addr n old seq
      if striker / 4096 = 1 then m1.mapTask who fun x => { x with struck := true } else m1

end Sys2Proof.Machine
end

