-- ==== Sys2Proof/Machine/FetchOps.lean ====
section
/-! DEFINITION. Issue (04 R61 to R63): which thread is next, what an issue notes of it, the fetch and decoding of its
instruction (03 R31, R56, R60, R464), and the lines it must find in the core's caches (03 R58, 08 R151 to R153). -/

namespace Sys2Proof.Machine

/-! ### Which threads issue (04 R61) -/

/-- A context whose halt line is up lets each thread issue its skid of two instructions (09 R171), but no striker (22 R390).
DEDUCED, log entry 56. -/
def Mach.inSkid (m : Mach) (t : Task) : Bool :=
  let h := (m.ctx (ctxOf t.gid)).halt
  !h.line || (!h.complete && (t.answered || (decide (t.skid < 2) && !t.struck)))

/-- A step's halt is due: it issues nothing before it (24 R414). -/
def Mach.stepHolds (m : Mach) (t : Task) : Bool := t.stepDue && !(m.ctx (ctxOf t.gid)).isSealed

/-- A thread may issue: it is ready on a slot, with its gang, and nothing has stopped it. -/
def Mach.issues (m : Mach) (t : Task) : Bool :=
  t.phase == .ready && t.seat.isSome && t.regang == 0 && t.stop.isNone && !t.halted && !m.stepHolds t && m.inSkid t

/-- How many cycles until a thread's turn (R61): the first cycle of its slot in which it may issue. -/
def Mach.wait (m : Mach) (t : Task) : Nat :=
  let from_ := Nat.max m.cycle t.readyFrom
  from_ - m.cycle + (t.slot + 16 - from_ % 16) % 16

/-- The thread whose turn comes first: the fewest cycles away, then the lowest core. DESIGN CHOICE, log entry 74. -/
def Mach.nextThread (m : Mach) : Option Task :=
  (m.tasks.filter m.issues).foldl (fun a t => match a with
    | none => some t
    | some b => if m.wait t < m.wait b ∨ (m.wait t = m.wait b ∧ t.core < b.core) then some t else some b) none

/-- d cycles pass; the counters of R418 run. -/
def Task.pass (t : Task) (d : Nat) : Task :=
  if t.seatedOn then
    { t with seated := t.seated + d, parkedCycles := if t.phase = .ready then t.parkedCycles else t.parkedCycles + d }
  else t

/-- d cycles pass for the chip. DESIGN CHOICE, log entries 31 and 74. -/
def Mach.pass (m : Mach) (d : Nat) : Mach :=
  if d = 0 then m else { m.mapTasks (·.pass d) with cycle := m.cycle + d }

/-- The next thread brought into focus at its turn; none where no thread can issue.
DESIGN CHOICE, log entries 2 and 74. DEDUCED, log entry 73. -/
def Mach.turn (m : Mach) : Option Mach :=
  match m.nextThread with
  | none => none
  | some t => some ((m.pass (m.wait t)).focus t.gid)

/-- The threads that may issue. -/
def Mach.runnable (m : Mach) : List Gid := (m.tasks.filter m.issues).map (·.gid)

/-- A thread that has just become able to issue, or that has issued, has its turn in a later cycle (R61, R63).
DESIGN CHOICE, log entry 74. -/
def Mach.rested (m : Mach) (was : List Gid) : Mach :=
  m.mapTasks fun t => if m.issues t && !was.contains t.gid then { t with readyFrom := m.cycle + 1 } else t

/-! ### Fetch (R56, R60) -/

/-- The place in the order of requests at which the launch that a task runs in was armed. DEDUCED, log entry 30. -/
def Mach.launchSince (m : Mach) (t : Task) : Nat :=
  let c := ctxOf t.gid
  match t.rec_ with
  | some r => (m.launch c r).armedNo
  | none => ((m.ctx c).pool.filterMap fun (_, p) => if p.state = .running then some p.armedNo else none).foldl min m.order

/-- A byte of code as the launch's arming saw it, where a store has replaced it since (R60). DESIGN CHOICE, log entry 7. -/
def Mach.oldByte (m : Mach) (t : Task) (k : Nat) : Option Byte :=
  let since := m.launchSince t
  (m.codeOld.find? fun r => r.ctx == ctxOf t.gid && r.key == k && decide (since ≤ r.seq)).map (·.old)

/-- A halfword at a key: as it stands, or, where a store has replaced it within the launch, the old one by a free choice. -/
def Mach.codeHw (m : Mach) (t : Task) (l : Loc) : HW × Mach :=
  let (bs, m1) := m.read l 2
  match m.oldByte t l.key, m.oldByte t (l.key + 1) with
  | none, none => (BitVec.ofNat 16 (leNat bs), m1)
  | x, y =>
    let old := [x.getD (bs.getD 0 0), y.getD (bs.getD 1 0)]
    (BitVec.ofNat 16 (leNat (if Config.oldCode m1.free then old else bs)), { m1 with free := m1.free + 1 })

/-- A halfword that makes no instruction by itself (R37). -/
def isPrefix (h : HW) : Bool := h.toNat / 4096 == 0

/-- What the fetch of an instruction's halfwords from an address on gives: them, or the fault of one; a halfword after a prefix
without the right to execute is that prefix's misuse (R38). `i` counts the halfwords read. DEDUCED, log entry 12. -/
def Mach.fetchFrom (m : Mach) (t : Task) (a : Word) (i : Nat) : Nat → Except Stop (List HW × Mach)
  | 0 => .ok ([], m)
  | n + 1 =>
    let at_ := a + BitVec.ofNat 64 (2 * i)
    match m.reach (ctxOf t.gid) (clusterOf t.core) at_ 2 accFetch with
    | .error k =>
      if k = 1 ∧ i ≠ 0 then .error (.trap illPfx (at_ - 2) 0) else .error (.xfault k accFetch at_ 0)
    | .ok (l, m1) =>
      let (h, m2) := m1.codeHw t l
      if isPrefix h then
        match m2.fetchFrom t a (i + 1) n with
        | .ok (hs, m3) => .ok (h :: hs, m3)
        | .error e => .error e
      else .ok ([h], m2)

/-- The fetch and decoding of the instruction of the task in focus (R56, R464): the instruction, with the address after it
latched, or what stops it. Four prefixes and a word are five halfwords. DEDUCED, log entry 12. -/
def Mach.fetch (m : Mach) : Except Stop (Instr × Mach) :=
  match m.fetchFrom m.t m.t.pc 0 5 with
  | .error e => .error e
  | .ok (hs, m1) =>
    match decode hs with
    | .error e => .error (.trap (if e.pfx then illPfx else illOp) (m.t.pc + BitVec.ofNat 64 (2 * e.idx)) 0)
    | .ok (i, n) => .ok (i, { m1 with t := { m1.t with npc := m.t.pc + BitVec.ofNat 64 (2 * n) } })

/-! ### What an issue notes -/

/-- A task whose record's steal row has MODE.CORE is bound to the core of its first instruction (19 R361). -/
def Mach.bindsHere (m : Mach) (t : Task) : Bool :=
  t.bound.isNone && (match t.rec_ with
    | some r => (m.stealRow (ctxOf t.gid) (m.launch (ctxOf t.gid) r).r (clusterOf t.core)).core
    | none => false)

/-- An instruction of the task in focus issues: it is counted (24 R418, 21 R385, 09 R171), and the task may be bound.
DESIGN CHOICE, log entry 31. DEDUCED, log entry 56. -/
def Mach.note1 (m : Mach) : Mach :=
  let t := m.t
  let up := (m.ctx (ctxOf t.gid)).halt.line
  let b := m.bindsHere t
  { m with t := { t with
      issued := t.issued + 1
      skid := if up then t.skid + 1 else t.skid
      bound := if b then some t.core else t.bound
      rstat := if t.region.isSome then { t.rstat with insns := t.rstat.insns + 1 } else t.rstat } }

/-- A weak store that the owner's window refused traps before the task's next instruction (15 R278).
DESIGN CHOICE, log entry 76. -/
def Mach.nackTrap (m : Mach) (a : Word) : Mach :=
  ({ m with t := { m.t with nack := none } } : Mach).conclude (.error (.trap nackWindow a 0))

/-! ### Lines of code (03 R58) -/

/-- Lines used, the last used first, in a cache of n. -/
def lruUse {α : Type} [BEq α] (n : Nat) (l used : List α) : List α := (used ++ l.filter fun x => !used.contains x).take n

/-- The lines that hold the instruction in focus, from its pc to the address after it. -/
def Mach.codeLines (m : Mach) : List Nat :=
  let n := (m.t.npc.toNat - m.t.pc.toNat) / 2
  ((List.range n).filterMap fun i =>
    match m.reach (ctxOf m.t.gid) (clusterOf m.t.core) (m.t.pc + BitVec.ofNat 64 (2 * i)) 2 accFetch with
    | .ok (l, _) => some (l.key / 64)
    | .error _ => none).eraseDups

/-- A core's instruction cache with lines used: 256 lines. -/
def Mach.useCode (m : Mach) (core : Nat) (ls : List Nat) : Mach :=
  { m with icache := Tab.put [] m.icache core (lruUse 256 (Tab.look [] m.icache core) ls) }

/-! ### Lines of registers (08 R150 to R153) -/

/-- The lines of an image that hold a register and its tag; a slot holds the head line itself (R152). -/
def keyLines (k : Nat) : List Nat := if k < 8 then [] else [2 + (k - 8) / 128, 4 + (k - 8) / 8]

/-- The lines of a vector register, or of a block of n slots. -/
def blockLines (n : Nat) : Opnd → List Nat
  | .slot j => ((List.range n).flatMap fun i => keyLines (slotKey (j.val + i))).eraseDups
  | .code _ => []

/-- The fields of an instruction with their roles: an operand b that XREG replaces beside two vectors is a vector (12 R212). -/
def operandRoles (s : Spec) (f : Fields) : List (Role × Opnd) :=
  let b : Role := if s.d = .vec ∧ s.a = .vec ∧ s.b = .reg then .vec else s.b
  [(s.d, f.d), (s.a, f.a), (b, f.b), (s.c, f.c)]

/-- An instruction uses predicates, flags or index registers, which the control line holds (R150). DEDUCED, log entry 86. -/
def usesControl (s : Spec) (f : Fields) : Bool :=
  f.g != 0 || (match s.xc with
    | .rnd => true
    | .cvt => true
    | .sfn _ => true
    | _ => false) ||
  (s.page == 0 && s.base / 4096 == 14) || (s.page == 3 && s.base == w3 0xD 1) ||
  [(s.d, f.d), (s.a, f.a), (s.b, f.b)].any fun (r, o) => r == .num && o.fieldNat != 0

/-- Lines of the leader's image, and lines of every member's. -/
def memberLines (t : Task) (lead all : List Nat) : List (Nat × Nat) :=
  (lead.map fun n => (0, n)) ++ (List.range t.gangSize).flatMap fun j => all.map fun n => (j, n)

/-- The lines that an instruction reads or writes, each by its member. DEDUCED, log entry 86. -/
def linesUsed (t : Task) (i : Instr) : List (Nat × Nat) := match i.enc with
  | none => []
  | some (s, f) =>
    let rs := operandRoles s f
    let n := if s.page = 9 then 7 else 8
    let lead := rs.flatMap fun (r, o) => if r = .reg then keyLines o.key else []
    let all := (rs.flatMap fun (r, o) => if r = .vec then blockLines n o else []) ++ (if usesControl s f then [1] else [])
    (memberLines t lead all).eraseDups

/-- Instructions whose operand d is a source. -/
def readsD : Instr → Bool
  | .st _ _ _ _ _ => true
  | .stv _ _ _ _ _ => true
  | .stx _ _ _ _ => true
  | .xst _ _ _ => true
  | .stfe _ _ _ => true
  | .lpatch _ _ _ _ => true
  | _ => false

/-- The lines that an instruction writes. DEDUCED, log entry 86. -/
def linesWritten (t : Task) (i : Instr) : List (Nat × Nat) := match i.enc with
  | none => []
  | some (s, f) =>
    let n := if s.page = 9 then 7 else 8
    let lead := if s.d = .reg ∧ ¬ readsD i then keyLines f.d.key else []
    let all := (if s.d = .vec ∧ ¬ readsD i then blockLines n f.d else []) ++ (if usesControl s f then [1] else [])
    (memberLines t lead all).eraseDups

/-- A line stands in the register cache of a member's core. -/
def Mach.holdsLine (m : Mach) (q : Nat × Nat) : Bool :=
  (Tab.look [] m.rcache (m.t.core + q.1)).any fun r => r.gid == m.t.gid && r.member == q.1 && r.line == q.2

/-- The lines that an instruction of the task in focus needs and its cores must fetch: those not held, but for fresh ones (R152). -/
def Mach.missing (m : Mach) (i : Instr) : List (Nat × Nat) :=
  (linesUsed m.t i).filter fun q => !m.t.lineFresh q.1 q.2 && !m.holdsLine q

/-- The line that leaves a full register cache: the least recently used of those of tasks off their slots, else of all (R153).
DEDUCED, log entry 86. -/
def evictLine (off : RLine → Bool) (l : List RLine) : List RLine := match l.reverse.find? off with
  | some r => l.erase r
  | none => l.dropLast

/-- A cache's lines, some having left it. -/
def evictLines (off : RLine → Bool) : Nat → List RLine → List RLine
  | 0, l => l
  | n + 1, l => evictLines off n (evictLine off l)

/-- A line used by the task in focus in a member's core, written or not: fetched, or allocated as zeros, where it was not held. -/
def Mach.useLine (m : Mach) (wr : List (Nat × Nat)) (q : Nat × Nat) : Mach :=
  let core := m.t.core + q.1
  let l := Tab.look [] m.rcache core
  let mine := fun (r : RLine) => r.gid == m.t.gid && r.member == q.1 && r.line == q.2
  let was := ((l.find? mine).map (·.dirty)).getD false
  let l1 : List RLine := ⟨m.t.gid, q.1, q.2, was || wr.contains q⟩ :: l.filter (!mine ·)
  let off := fun (r : RLine) => !(m.find r.gid).any fun t => t.seat.isSome
  { m with rcache := Tab.put [] m.rcache core (evictLines off (l1.length - 512) l1) }

/-- The lines of an instruction used, those it writes being fresh no longer (R151). -/
def Mach.useLines (m : Mach) (i : Instr) : Mach :=
  let wr := linesWritten m.t i
  let m1 := (linesUsed m.t i).foldl (fun a q => a.useLine wr q) m
  { m1 with t := { m1.t with written := (m1.t.written ++ wr.map fun (q : Nat × Nat) => 64 * q.1 + q.2).eraseDups } }

/-- A line of a register cache stays: its task lives, and is off its slot or on this core (R153). -/
def Mach.lineStays (m : Mach) (core : Nat) (r : RLine) : Bool := match m.find r.gid with
  | none => false
  | some t => t.seat.isNone || core == t.core + r.member

/-- Register caches without the lines of tasks that have ended or are seated on another core. -/
def Mach.tidyCaches (m : Mach) : Mach :=
  { m with rcache := m.rcache.map fun (p : Nat × List RLine) => (p.1, p.2.filter (m.lineStays p.1)) }

/-! ### Misses (R64) -/

/-- The TLBs of one state in another, whose thread in focus parks: its instruction is issued again whole (R33, 15 R287). -/
def Mach.missed (m m1 : Mach) : Mach := { m with tlb := m1.tlb, dtlb := m1.dtlb, t := { m.t with phase := .parked .tlb } }

/-- The TLB of the cluster of the task in focus has gained a translation. -/
def Mach.gained (m m1 : Mach) : Bool :=
  let cl := clusterOf m.t.core
  (Tab.look [] m1.tlb cl).any fun e => !(Tab.look [] m.tlb cl).contains e

/-- An instruction that never parks for a translation: a hint (23 R410). -/
def neverParks : Instr → Bool
  | .pref _ _ _ => true
  | _ => false

/-- What the task in focus must wait for before an instruction fetched in `m1` can issue: a translation of its code, its lines of
code, its lines of registers. -/
def Mach.miss (m m1 : Mach) (i : Instr) : Option Mach :=
  let ls := m1.codeLines
  if m.gained m1 then some (m.missed m1)
  else if !(ls.all (Tab.look [] m.icache m.t.core).contains) then
    some ({ m with t := { m.t with phase := .parked .code } }.useCode m.t.core ls)
  else match m.missing i with
    | [] => none
    | q :: qs => some ((q :: qs).foldl (fun a p => a.useLine [] p) { m with t := { m.t with phase := .parked .line } })

/-! ### What follows every step -/

/-- A task whose gates have opened is queued from then on (19 R356, 04 R80). -/
def Mach.regate (m : Mach) : Mach :=
  let waits := fun (t : Task) => t.phase == .ready && t.seat.isNone && !(m.declsOf t).isEmpty
  let m1 := if m.tasks.any fun t => waits t && t.gated && !m.isGated t then m.tick else m
  m1.mapTasks fun t =>
    if !waits t then t
    else if m.isGated t then { t with gated := true }
    else if t.gated then { t with gated := false, queuedAt := m.cycle, queueNo := m.order }
    else t

/-- The tasks that the kernel has called off their slots leave them once nothing of theirs is in flight (09 R175), and go where it
sends them (R176). -/
def Mach.leavers (m : Mach) : Mach :=
  m.tasks.foldl (fun a t =>
    if t.leave && !t.inFlight && !a.undecided t.gid then (a.preemptTask t.gid).sendOff t.gid
    else if t.sendTo.isSome then a.sendOff t.gid else a) m

/-- What the task units and the register caches do after every step, where the threads of a list could issue before it. -/
def Mach.upkeep (m : Mach) (was : List Gid) : Mach := (m.regate.leavers.tidyCaches).rested was

end Sys2Proof.Machine
end

