-- ==== Sys2Proof/Machine/KernelOps.lean ====
section
/-! DEFINITION. What the resident kernel and the task units do beside a running program: traps resolved and refused (15 R288,
09 R166 to R169, R178), parks that end (04 R63), early starts and retirements (19 R352 to R354, 14 R270, R271), the answer
table's upkeep (06 R128, R131), and messages at their owners (19 R360, 11 R210). -/

namespace Sys2Proof.Machine

/-! ### Traps resolved (R169, R288) -/

/-- The tasks that wait on an entry of a partition's fault buffer; index 4096 while it is full. -/
def Mach.faultWaiters (m : Mach) (part idx : Nat) : List Task :=
  m.tasks.filter fun t => match t.phase with
    | .waiting (.fault p i _ _) => p == part && i == idx
    | _ => false

/-- Tasks woken: each replays its instruction (R169). -/
def Mach.wakeAll (m : Mach) (ts : List Task) : Mach := ts.foldl (fun a t => a.wakeTask t.gid) m

/-- What an engine holds of a context that waits for an entry of its page and cause is changed (R288). A stream that waits to write
its counters back is not failed by it (R295). DEDUCED, log entry 55. -/
def Mach.pageEngines (m : Mach) (f : FaultEnt) (op : EOp → EOp) (st : Stream → Stream) (co : Coll → Coll) : Mach :=
  let on := fun (c : ECmd) (w : Option (Nat × Nat)) => c.ctx == f.ctx && w == some (f.va, f.cause)
  let es := m.engines.map fun (k, e) => (k, { e with
    active := e.active.map fun o => if on o.cmd o.waiting then { op o with waiting := none } else o
    saved := e.saved.map fun o => if on o.cmd o.waiting then { op o with waiting := none } else o
    streams := e.streams.map fun s => if on s.cmd s.waiting then { st s with waiting := none } else s })
  let cs := m.colls.map fun (k, l) => (k, l.map fun x => if on x.cmd x.waiting then { co x with waiting := none } else x)
  { m with engines := es, colls := cs }

/-- A stream's failure where the kernel refuses the page it waits for (18 R340): one that waits to write its counters back leaves
them unwritten instead (R295). DEDUCED, log entry 43. -/
def Stream.refused (s : Stream) (r : EFail) : Stream := if s.counting then { s with counted := true } else { s with failed := some r }

/-- An entry of a fault buffer freed: faults that waited for room enter it as their instructions are issued again. -/
def Mach.freeFault (m : Mach) (part idx : Nat) : Mach :=
  let m1 := { m with faults := Tab.put none m.faults (4096 * part + idx) none }
  m1.wakeAll (m1.faultWaiters part 4096)

/-- The entry that a SYSC or a TBL_EXHAUST of a task holds freed, once the kernel has dealt with the trap (R166).
DESIGN CHOICE, log entry 84. -/
def Mach.dropTrap (m : Mach) (g : Gid) : Mach :=
  match m.faults.find? fun (_, e) => e.any fun f => decide (3 ≤ f.cause) && f.tasks.contains g with
  | some (k, _) => m.freeFault (k / 4096) (k % 4096)
  | none => m

/-- A trap of a task resolved on the kernel route: a grown table (06 R130); a TBL_EXHAUST with TRAP_ADDR 0 is never resolved, and a
SYSC is served. -/
def Mach.resolveTask (m : Mach) (g : Gid) (w : KWork) : Mach :=
  match m.find g with
  | none => m
  | some t => match t.phase with
    | .waiting (.tbl a) => if a = 0 then m else ((m.work (ctxOf g) w).dropTrap g).wakeTask g
    | _ => m

/-- FAULT_RESOLVED (R169): every waiter replays, engines included; an entry of one task's trap is that task's.
DESIGN CHOICE, log entries 72 and 84. -/
def Mach.faultResolved (m : Mach) (r : FaultRef) (w : KWork) : Mach :=
  match r with
  | .entry p i =>
    match m.faultAt p i with
    | none => m
    | some f =>
      if 3 ≤ f.cause then m.resolveTask f.task w
      else
        let m1 := (m.work f.ctx w).wakeAll (m.faultWaiters p i)
        (m1.pageEngines f id id id).freeFault p i
  | .task g => m.resolveTask g w

/-! ### Traps refused (R166, R288, 06 R127, R130) -/

/-- A refused trap of a task: a producer ends as though by TFAIL with the code (02 R29, 06 R127), its release among it (06 R141); any
other task takes the halt route. A producer's refused PAGE_FAULT writes no error record: R449's 0x1006 kills its context, which R29
says it does not. DEDUCED, log entry 47. -/
def Mach.refuse (m : Mach) (g : Gid) (code : Nat) (addr : Word) : Mach :=
  match m.find g with
  | none => m
  | some t =>
    if t.kind = .producer then
      let m1 := if code = tblExhaust then
          m.note (ctxOf g) { code := 0x5001, severity := 1, action := 1, unit := m.partyOf g, valid := 3, task := g,
                             syndrome := addr.toNat }
        else m
      (m1.release g t.core .dv).endProducer g (some code)
    else m.haltRoute g code addr 0 code

/-- A schedule whose next read waits for a refused page faults (13 R268, 26 R449). DEDUCED, log entry 55. -/
def Mach.refuseSched (m : Mach) (c va : Nat) (cl : Nat) : Mach :=
  (List.range 8).foldl (fun a i =>
    let core := 8 * cl + i
    match a.headSched core with
    | none => a
    | some (e, s) =>
      let at_ := if s.started then s.table + 64 + 16 * s.next else s.table
      if ctxOf e.gid = c ∧ at_ / 65536 * 65536 = va then
        let r : ErrRec := { code := 0x6009, severity := 2, action := 3, unit := 0, valid := 7, task := e.gid, addr := at_ }
        a.unitFault c (.matrix cl) at_ 0 r
      else a) m

/-- The failure of an operation whose page the kernel refuses (18 R340). DEDUCED, log entry 55. -/
def ECmd.refused (c : ECmd) (va : Nat) : EFail := ⟨0x6009, some va, c.hdr.toNat⟩

/-- Some of the tasks is a producer of a halted context, in which no failure takes effect until it resumes (06 R126). -/
def Mach.failHolds (m : Mach) (ts : List Task) : Bool :=
  ts.any fun t => t.kind == .producer && (m.ctx (ctxOf t.gid)).halt.complete

/-- A trap of a task refused on the kernel route, with the entry it holds. -/
def Mach.refuseTask (m : Mach) (g : Gid) : Mach :=
  match m.find g with
  | none => m
  | some t => if m.failHolds [t] then m else match t.phase with
    | .waiting (.tbl a) => (m.dropTrap g).refuse g tblExhaust a
    | .waiting (.sysc k) => (m.dropTrap g).refuse g syscTrap (BitVec.ofNat 64 k)
    | _ => m

/-- FAULT_REFUSED (R288): every waiting task takes the halt route, a producer ends, every waiting engine faults; an entry of one
task's trap is that task's. A refusal that ends a producer waits for the context's resume, and for room in its log.
DEDUCED, log entry 55. -/
def Mach.faultRefused (m : Mach) (r : FaultRef) : Mach :=
  match r with
  | .entry p i =>
    match m.faultAt p i with
    | none => m
    | some f =>
      if 3 ≤ f.cause then m.orHold f.ctx (m.refuseTask f.task)
      else if m.failHolds (m.faultWaiters p i) then m
      else
        let m1 := (m.faultWaiters p i).foldl (fun a t => match t.phase with
          | .waiting (.fault _ _ code addr) => a.refuse t.gid code addr
          | _ => a) m
        let seqs := f.engs.filter fun e => e.kind == .sequencer
        let m2 := { m1 with faults := Tab.put none m1.faults (4096 * p + i) none }
        let m3 := seqs.foldl (fun a e => a.refuseSched f.ctx f.va e.unit) m2
        m.orHold f.ctx ((m3.pageEngines f (fun o => { o with failed := some (o.cmd.refused f.va) })
          (fun s => s.refused (s.cmd.refused f.va)) (fun k => { k with failed := some (k.cmd.refused f.va) })).freeFault p i)
  | .task g => m.orHold (ctxOf g) (m.refuseTask g)

/-- SYSC_SERVE (R178): the results go to a1, a2 and lt of the image while the task is off its slot, with tag 0, which the spec leaves
open, and the task is requeued at the instruction after SYSC. DESIGN CHOICE, log entry 72. -/
def Mach.syscServe (m : Mach) (g : Gid) (r1 r2 rl : Word) : Mach :=
  match m.find g with
  | none => m
  | some t => match t.phase with
    | .waiting (.sysc _) =>
      let m1 := (m.dropTrap g).tick
      m1.mapTask g fun x =>
        let y := ((x.putCell 1 ⟨r1, .raw, none⟩).putCell 2 ⟨r2, .raw, none⟩).putCell 0 ⟨rl, .raw, none⟩
        y.resume.setAside m1.cycle m1.order
    | _ => m

/-! ### Parks (04 R63, R64) -/

/-- The cause of a bounded park is resolved. DESIGN CHOICE, log entry 3. -/
def Mach.parkOver (m : Mach) (t : Task) (p : Park) : Bool :=
  match p with
  | .mem => true
  | .sfu => true
  | .tlb => true
  | .members _ => true
  | .transfer => decide (m.tracked (clusterOf t.core) < 750)
  | .line => true
  | .code => true
  | .matrix => !queueFull (m.mqueue t.core)
  | .command => decide (m.heldOf t.core < 16)
  | .order => match t.rec_ with
    | some r => !m.predecessorsOpen (ctxOf t.gid) r
    | none => true
  | .root q _ => m.rootsUp.contains q
  | .held q => !m.portsTrain.contains q
  | .mwait q n => !m.openOn t.core q n
  | .commit => false
  | .marker _ => false

/-- The SFU's results have returned (12 R240): the instruction completes, and an event message follows it.
DEDUCED, log entry 19. -/
def Task.sfuDone (t : Task) : Task := match t.owed with
  | none => { t with phase := .ready }
  | some o =>
    { ({ t with img := o.img, fol := o.fol, owed := none } : Task).retire with
      phase := match o.msg with
        | some k => .sending k
        | none => .ready }

/-- PARK_RESOLVED (R63): the parked instruction completes, or, where it has had no effect, is issued again. A read outside the
module has its answer. A commit is decided by COMMIT_AT_HOME and a WMARK by its marker. DESIGN CHOICE, log entry 3. -/
def Mach.parkResolved (m : Mach) (g : Gid) : Mach :=
  match m.find g with
  | none => m
  | some t => match t.phase with
    | .parked p =>
      if !m.parkOver t p then m
      else match p with
        | .mwait q n =>
          let m1 := (m.focus g).waited q n
          ({ m1 with t := m1.t.resume }).focus m.t.gid
        | .sfu => m.mapTask g Task.sfuDone
        | .root _ _ => m.mapTask g fun x => { x with phase := .ready, answered := true }
        | .held _ => m.mapTask g fun x => { x with phase := .ready, answered := true }
        | _ => m.mapTask g fun x => { x with phase := .ready }
    | _ => m

/-- ACCESS_PERFORMED (17 R320): the n-th waiting weak store is performed at its home, once the log has room and its port is up. -/
def Mach.accessPerformed (m : Mach) (n : Nat) : Mach :=
  match m.weak[n]? with
  | none => m
  | some w =>
    let up := match w.loc.home with
      | .peer p => m.portsUp.contains p
      | .root p => m.rootsUp.contains p
      | _ => true
    if up && m.foremost n then m.orHold (ctxOf w.gid) (m.performNth n) else m

/-! ### Early starts and retirements (19 R352 to R354, 14 R270, R271) -/

/-- A record that runs is settled (R271): each live task is seated, parked or gated, and no interval could be split. -/
def Mach.isSettled (m : Mach) (c r : Nat) : Bool :=
  (m.tasks.filter fun t => t.lives c && t.rec_ == some r).all fun t =>
    (t.seat.isSome || t.phase != .ready || m.isGated t) && !t.splits

/-- The running records that name a record as successor. DEDUCED, log entry 52. -/
def Mach.runningBefore (m : Mach) (c r : Nat) : List Nat :=
  (m.ctx c).pool.filterMap fun (k, p) => if p.state = .running ∧ (succList p.r.succ).contains r then some k else none

/-- A record may start early (R353): it is armed and permits it, and every predecessor that has not retired runs and is
settled. DEDUCED, log entry 52. -/
def Mach.startsEarly (m : Mach) (c r : Nat) : Bool :=
  let p := m.launch c r
  let before := m.runningBefore c r
  p.state == .armed && recEarly p.r && decide (0 < p.pending) && before.length == p.pending && before.all (m.isSettled c) &&
  !(m.ctx c).halt.complete

/-- EARLY_START (R353). -/
def Mach.earlyStart (m : Mach) (c r : Nat) : Mach := if m.startsEarly c r then (m.tick).startRec c r true else m

/-- The records counted in a sink's completion record (R354): those that reached it, and itself. -/
def PoolRec.counted (p : PoolRec) (r : Nat) : List Nat := if p.reached.contains r then p.reached else r :: p.reached

/-- The completion record of a sink (R354). -/
def Mach.doneRec (m : Mach) (c r status : Nat) : DoneRec :=
  let p := m.launch c r
  let rs := (p.counted r).map (m.launch c)
  { status := status, ctx := c, sink := r, armedAt := p.armedAt, retiredAt := m.cycle
    tasks := (rs.map (·.created)).sum
    activeUj := (rs.map fun q => q.energy - q.sharedUj).sum
    sharedUj := (rs.map (·.sharedUj)).sum
    armer := p.armer, addr := p.r.completion }

/-- The 64 bytes of a completion record (R354). DEDUCED, log entry 57. -/
def DoneRec.bytes (d : DoneRec) : List Byte :=
  leBytes 0x10 2 ++ leBytes d.status 1 ++ leBytes d.ctx 1 ++ leBytes d.sink 2 ++ leBytes 0 2 ++ leBytes d.armedAt 8 ++
  leBytes d.retiredAt 8 ++ leBytes d.tasks 8 ++ leBytes d.activeUj 8 ++ leBytes d.sharedUj 8 ++ leBytes d.armer 8 ++ leBytes 0 8

/-- A completion record written at its kernel address, and the interrupt (R354). DEDUCED, log entry 57. -/
def Mach.writeDone (m : Mach) (d : DoneRec) : Mach :=
  { m with done := m.done ++ [d], mem := pokeMem m.mem (d.addr % 2 ^ 52) d.bytes, irqs := m.irqs ++ [(3, d.ctx)] }

/-- The sink's retirement (R354, 23 R398, R402, 06 R128): a marker is requested, the completion record leaves its external mark,
and a launch boundary of the context is reached. DEDUCED, log entry 57. -/
def Mach.sinkDone (m : Mach) (c r : Nat) : Mach :=
  let m1 := m.setSilt c fun s => { s with requests := s.requests ++ [(2, 0)] }
  let unit := unitCode (.taskUnit ((m.partOf c).clusters.headD 0))
  let m2 := m1.setSilt c fun s => s.mark .external (m.launch c r).r.completion unit 0
  (m2.writeDone (m.doneRec c r 0)).setCtx c fun x => { x with loam := x.loam.bounded }

/-- RECORD_RETIRE (R270, R352): the record is RETIRED, its successors' PENDING falls, and a sink reports. -/
def Mach.recordRetire (m : Mach) (c r : Nat) : Mach :=
  if !m.recordDone c r || (m.ctx c).halt.complete then m
  else
    let p := m.launch c r
    let reached := p.counted r
    let m1 := (m.tick).updRec c r fun q => { q with state := .retired }
    let m2 := (succList p.r.succ).foldl (fun a s => (a.tick).predecessorDone c r reached s) m1
    if recSink p.r then m.orHold c (m2.sinkDone c r) else m2

/-! ### The growth of the answer table (06 R130, R131) -/

/-- A wait moved to an entry's new index. DEDUCED, log entry 53. -/
def Phase.regrown (p : Phase) (f : Nat → Nat) : Phase := match p with
  | .waiting (.answer e) => .waiting (.answer (f e))
  | p => p

/-- A task's cursors, entry and wait under the new indices. DEDUCED, log entry 53. -/
def Task.regrown (t : Task) (f : Nat → Nat) : Task :=
  { t with
    curs := t.curs.map fun (n, k) => (n, k.map fun q => { q with entry := f q.entry })
    produces := t.produces.map f
    phase := t.phase.regrown f }

/-- What a record keeps, its places and its leader under new indices. DEDUCED, log entry 53. -/
def SOld.regrown (places : List Nat → List Nat) (f : Nat → Nat) : SOld → SOld
  | .entry i e also => match places (i :: also) with
    | j :: rest => .entry j { e with leader := f e.leader } rest
    | [] => .entry i e also
  | o => o

/-- A log's records, the undone ones among them, and the tasks of its snapshots under new indices. DEDUCED, log entry 53. -/
def Silt.regrown (s : Silt) (places : List Nat → List Nat) (f : Nat → Nat) : Silt :=
  let rec1 := fun (r : SRec) => { r with old := r.old.regrown places f }
  let snap := fun (p : Snap) => { p with tasks := p.tasks.map (·.regrown f) }
  { s with
    recs := s.recs.map rec1
    undone := s.undone.map fun u => ⟨rec1 u.r, u.was.regrown places f⟩
    snaps := s.snaps.map snap
    rewound := s.rewound.map fun w => { w with left := snap w.left } }

/-- The entries of a context at new indices, with everything that names them. DEDUCED, log entry 53. -/
def Mach.reindexed (m : Mach) (c : Nat) (places : List Nat → List Nat) (f : Nat → Nat) (g : Loam → Loam) : Mach :=
  let m1 := m.mapTasks fun t => if ctxOf t.gid = c then t.regrown f else t
  m1.setCtx c fun x =>
    let es := x.loam.entries.foldl (fun t (i, e) => Tab.put {} t (f i) { e with leader := f e.leader }) []
    { x with loam := g { x.loam with entries := es }, silt := x.silt.regrown places f }

/-- The places to which a rehash may bring what stands at a place of an array of n sets: in the old array, which it empties, and in
the two sets of the new one. -/
def grownPlaces (n : Nat) (ps : List Nat) : List Nat :=
  (ps.filter (· < 16 * n)).flatMap fun p => [p + 32 * n, p, p + 16 * n]

/-- A rehash begins (R131): the new array of twice the sets is empty, and every entry stands in the old one.
DEDUCED, log entry 53. -/
def Mach.growBegin (m : Mach) (c pa va : Nat) : Mach :=
  let n := (m.ctx c).loam.nsets
  let m1 := m.reindexed c (grownPlaces n) (· + 32 * n) fun l =>
    { l with nsets := 2 * n, base := pa, va := va, moving := some ⟨0, l.base, l.va⟩ }
  m1.setCtx c fun x => { x with guards := x.guards ++ [(pa, pa + 4096 * n)] }

/-- One set of the old array moved (R131): each entry goes to the way of its own number in the new set that its hash names, as one
event. The rehash is over with the last set. DEDUCED, log entry 53. -/
def Mach.growSet (m : Mach) (c : Nat) (v : Moving) : Mach :=
  let l := (m.ctx c).loam
  let lo := 16 * l.nsets + 16 * v.set
  let f := fun i => if lo ≤ i ∧ i < lo + 16 then 16 * ((m.entry c i).hash.toNat % l.nsets) + (i - lo) else i
  m.reindexed c id f fun k =>
    { k with moving := if l.nsets / 2 ≤ v.set + 1 then none else some { v with set := v.set + 1 } }

/-- Cells given to the pools (R130), and the ranges they lie in made private (R114). -/
def Mach.growPools (m : Mach) (c : Nat) (g : Growth) : Mach :=
  let ext := fun (at_ n : Nat) => if n = 0 then [] else [(at_, n)]
  let range := fun (at_ n : Nat) => if n = 0 then [] else [(at_, at_ + 64 * n)]
  m.setCtx c fun x => { x with
    guards := x.guards ++ range g.ansAt g.ans ++ range g.keysAt g.keys
    loam := { x.loam with
      ansFree := x.loam.ansFree + g.ans, ansExt := x.loam.ansExt ++ ext g.ansAt g.ans
      keyFree := x.loam.keyFree + g.keys, keyExt := x.loam.keyExt ++ ext g.keysAt g.keys } }

/-- TABLE_GROW (R130, R131): the kernel grows the pools; it begins a rehash, or moves the next set of the one in progress.
DEDUCED, log entry 53. -/
def Mach.tableGrow (m : Mach) (c : Nat) (g : Growth) : Mach :=
  let m1 := m.growPools c g
  match (m.ctx c).loam.moving, g.array with
  | some v, _ => m1.growSet c v
  | none, some (pa, va) => m1.growBegin c pa va
  | none, none => m1

/-! ### Messages at their owner (19 R360, 11 R210) -/

/-- The channel a message goes to: core and number. -/
def Sending.place (s : Sending) : Nat × Nat :=
  if s.op = sendEvent then (s.handle.toNat % 4096, 63) else (msgCore s.handle, msgChan s.handle)

/-- A channel. -/
def Mach.chan (m : Mach) (core n : Nat) : Chan := Tab.look {} m.chans (64 * core + n)

/-- A channel changed. DEDUCED, log entry 52. -/
def Mach.setChan (m : Mach) (core n : Nat) (f : Chan → Chan) : Mach := { m with chans := Tab.upd {} m.chans (64 * core + n) f }

/-- The owner's answers. -/
inductive Answer where
  | nack | retry | accept
  deriving DecidableEq, Repr

/-- What the owner answers (R360, R210). DEDUCED, log entry 52. -/
def Chan.answer (k : Chan) (s : Sending) : Answer :=
  let named := s.op = sendEvent ∨ k.e.gen % 2 ^ 24 = msgGen s.handle
  if !k.e.valid || !named then .nack
  else if k.e.paged then .retry
  else if (s.op = sendMsg ∨ s.op = sendEvent) ∧ k.e.blocked ∧ 256 ≤ k.queue.length then .retry
  else .accept

/-- A message task (R67, R68, R360): the entry's setup, the COUNT of its views as wide as R156 has it, the message in a1 to a4, the
sender in a5; it is bound to its core and its first instruction acquires the message. -/
def Mach.newMessage (m : Mach) (core : Nat) (e : ChanEntry) (words : List Word) (from_ : Word) : Mach :=
  let (n, m1) := m.takeSerial e.ctx (clusterOf core)
  let view := fun (v k : Nat) => (⟨BitVec.ofNat 6 (v / 256 % k), BitVec.ofNat 8 v⟩ : View)
  let t : Task :=
    { gid := gidOf e.ctx n, kind := .message, frame := m1.freeFrame e.ctx
      img := { regs := setArgs (setArgs [] 1 words) 5 [from_] }
      ctl := { alloc := BitVec.ofNat 9 e.alloc, viewV := view e.viewV 64, viewT := view e.viewT 8, viewC := view e.viewC 8,
               fpMode := BitVec.ofNat 3 e.modes, fmtMode := BitVec.ofNat 1 (e.modes / 8), trapVec := BitVec.ofNat 52 e.trapVec }
      pc := BitVec.ofNat 64 e.entry, npc := BitVec.ofNat 64 e.entry
      cluster := clusterOf core, bound := some core
      prio := e.prio % 4, basePrio := e.prio % 4, queuedAt := m1.cycle, queueNo := m1.order }
  (m1.tick).addTask (t.acquire .dv m1.order)

/-- A channel's queued messages turned into tasks in arrival order (R360). -/
def Mach.unblock (m : Mach) (core n : Nat) : Mach :=
  let k := m.chan core n
  k.queue.foldl (fun a q => a.newMessage core k.e q.1 q.2) (m.setChan core n fun x => { e := { x.e with blocked := false }, queue := [] })

/-- What an accepted message does at its owner. -/
def Mach.accepted (m : Mach) (g : Gid) (s : Sending) : Mach :=
  let (core, n) := s.place
  let k := m.chan core n
  let from_ := BitVec.ofNat 64 g
  if s.op = sendBlk then m.setChan core n fun x => { x with e := { x.e with blocked := true } }
  else if s.op = sendUnblk then m.unblock core n
  else
    let m1 := if k.e.ctx = ctxOf g then m else m.setSilt (ctxOf g) fun x => x.mark .external s.handle.toNat (m.partyOf g) g
    if k.e.blocked then m1.setChan core n fun x => { x with queue := x.queue ++ [(s.words, from_)] }
    else m1.newMessage core k.e s.words from_

/-- A message refused for good: the sender traps STALE_HANDLE; a refused event message takes the halt route (R210).
DEDUCED, log entry 26. -/
def Mach.sendFails (m : Mach) (g : Gid) (s : Sending) (addr : Word) : Mach :=
  if s.op = sendEvent then
    let w := (s.words.getD 2 0).toNat
    m.haltRoute g fpEvent (BitVec.ofNat 64 (w % 2 ^ 32)) (w / 2 ^ 32) fpEvent
  else
    let m1 := m.focus g
    (({ m1 with t := { m1.t with phase := .ready } } : Mach).raise staleHandle addr 0 0 0).focus m.t.gid

/-- MESSAGE_ARRIVAL (R360, R210): the owner answers the message of a parked sender. -/
def Mach.messageArrival (m : Mach) (g : Gid) : Mach :=
  match m.find g with
  | none => m
  | some t => match t.phase with
    | .sending s =>
      let (core, n) := s.place
      if s.backoff then m
      else if s.op = sendEvent ∧ ¬ m.ownsCore (ctxOf g) core then m.sendFails g s s.handle
      else match (m.chan core n).answer s with
        | .nack => m.sendFails g s s.handle
        | .retry =>
          if 16 ≤ s.retries then m.sendFails g s (s.handle ||| BitVec.ofNat 64 (2 ^ 63))
          else m.mapTask g fun x => { x with phase := .sending { s with retries := s.retries + 1, backoff := true } }
        | .accept =>
          m.orHold (ctxOf g) ((m.accepted g s).mapTask g fun x => if s.op = sendEvent then { x with phase := .ready } else x.resume)
    | _ => m

/-- MSEND_RETRY_TIMER (R360): a sender's backoff is over, and its message goes again. DESIGN CHOICE, log entry 54. -/
def Mach.retryTimer (m : Mach) (g : Gid) : Mach :=
  m.mapTask g fun t => match t.phase with
    | .sending s => { t with phase := .sending { s with backoff := false } }
    | _ => t

end Sys2Proof.Machine
end

