-- ==== Sys2Proof/Machine/RecoverOps.lean ====
section
/-! DEFINITION. Soft errors in a context's data and their replay (23 R405, 26 R468), corrected errors (26 R449), and the end of a
context by the kernel (26 R448, R451, 25 R439). -/

namespace Sys2Proof.Machine

/-! ### Errors of no context (26 R446) -/

/-- An error record that names no context. -/
def Mach.noteUnit (m : Mach) (r : ErrRec) : Mach :=
  { m with errs := m.errs ++ [{ r with ctx := 0, time := m.cycle, window := 0 }] }

/-- Unit codes of R446 that no task or engine has. -/
def sliceUnit (n : Nat) : Nat := 0xB000 + n
def sfuUnit (cl : Nat) : Nat := 0x8000 + cl
def endpointUnit (ep : Nat) : Nat := 0x9000 + ep
def portUnit (p : Nat) : Nat := 0xA000 + p
def rootUnit (p : Nat) : Nat := 0xD000 + p
def kernelUnit : Nat := 0xE000
def securityUnit : Nat := 0xE001
def dumpUnit : Nat := 0xE003

/-- The unit code of a block. -/
def blockUnit : Block → Nat
  | .core n => unitCode (.core n)
  | .matrix cl => unitCode (.matrix cl)
  | .sfu cl => sfuUnit cl
  | .eng e => engKey e
  | .slice n => sliceUnit n
  | .endpoint n => endpointUnit n
  | .port p => portUnit p

/-- The home slice of a physical address (15 R285). -/
def homeSlice (pa : Nat) : Nat := 16 * (pa / 2 ^ 36 % 16) + pa / 256 % 16

/-! ### Where an error stands (26 R468) -/

/-- What an error record says of the storage: UNIT, ADDR, whether it is physical, TASK. -/
structure Place where
  unit : Nat
  addr : Nat
  phys : Bool
  task : Gid := 0
  deriving DecidableEq, Repr

/-- R468's table. -/
def Mach.errPlace (m : Mach) (c : Nat) : Storage → Place
  | .hbm pa => ⟨sliceUnit (homeSlice pa), pa, true, 0⟩
  | .scratch core off => ⟨threadParty core, (remoteForm core off).toNat, false, 0⟩
  | .shadow core off => ⟨threadParty core, (remoteForm core off).toNat, false, 0⟩
  | .act core off => ⟨threadParty core, core * 2 ^ 20 + off, false, 0⟩
  | .acc core off => ⟨threadParty core, core * 2 ^ 20 + off, false, 0⟩
  | .kaolin cl a => ⟨unitCode (.matrix cl), cl * 2 ^ 20 + a, false, 0⟩
  | .image g pa cached => ⟨if cached then m.partyOf g else sliceUnit (homeSlice pa), pa, true, g⟩
  | .entry i =>
    let pa := (m.ctx c).loam.entryPa i
    ⟨sliceUnit (homeSlice pa), pa, true, 0⟩
  | .log pa => ⟨sliceUnit (homeSlice pa), pa, true, 0⟩

/-- The error record of an error in a context's storage, VALID as R468 has it. -/
def Place.record (p : Place) (code severity action detail : Nat) (syn : Word) : ErrRec :=
  { code := code, severity := severity, action := action, unit := p.unit
    valid := 5 + (if p.task = 0 then 0 else 2) + (if p.phys then 8 else 0)
    task := p.task, addr := p.addr, syndrome := syn.toNat % 2 ^ 24, detail := detail }

/-! ### Replay (23 R405) -/

/-- The key of the first byte of the line an error strikes; none for register images, and for the log, which nothing logs. -/
def Mach.errLine (m : Mach) (c : Nat) : Storage → Option Nat
  | .hbm pa => some (pa / 64 * 64)
  | .scratch core off => some (m.frontKey core off / 64 * 64)
  | .shadow core off => some (m.backKey core off / 64 * 64)
  | .act core off => some (actKey core off / 64 * 64)
  | .acc core off => some (accKey core off / 64 * 64)
  | .kaolin cl a => some (kaolinKey cl a / 64 * 64)
  | .image _ _ _ => none
  | .entry i => some ((m.ctx c).loam.entryPa i / 64 * 64)
  | .log _ => none

/-- The entry of the answer table whose own lines, answers or key the line at a physical address is part of. -/
def Loam.ownerOf (l : Loam) (pa : Nat) : Option Nat :=
  (l.entries.find? fun (i, e) => e.state != .free && (l.entryLines i e).any (·.1 == pa / 64 * 64)).map Prod.fst

/-- A record keeps the old value of a byte. -/
def SRec.keeps (r : SRec) (k : Nat) : Bool := decide (r.key ≤ k) && decide (k < r.key + r.oldBytes.length)

/-- A line of 64 bytes is covered by the records above a marker. -/
def Silt.coversLine (s : Silt) (seq line : Nat) : Bool :=
  (List.range 64).all fun i => s.recs.any fun r => decide (seq < r.seq) && r.keeps (line + i)

/-- The snapshot or the log supplies what the error damaged. -/
def Mach.restorable (m : Mach) (c seq : Nat) (st : Storage) : Bool :=
  match st with
  | .image _ _ _ => true
  | st => match m.errLine c st with
    | some k => (m.ctx c).silt.coversLine seq k
    | none => false

/-- A byte of the log's region belongs to a record above a marker: the records stand end to end from TAIL on (23 R394). -/
def Silt.recordAt (s : Silt) (seq o : Nat) : Bool :=
  let below := ((s.recs.filter fun r => decide (r.seq ≤ seq)).map SRec.bytes).sum
  let p := (o + s.size - s.tail) % s.size
  decide (below ≤ p) && decide (p < s.used)

/-- The line at an address of the log's region holds part of a record above a marker. -/
def Ctx.logAbove (x : Ctx) (seq pa : Nat) : Bool :=
  (List.range 64).any fun i =>
    let a := pa / 64 * 64 + i
    decide (x.siltAt + 64 ≤ a) && decide (a < x.siltAt + 64 + x.silt.size) && x.silt.recordAt seq (a - x.siltAt - 64)

/-- Why an error in a context's data kills it (26 R449): 4 the log's records above the marker, 3 second error, 1 external mark,
2 not covered, the log's other lines among them; none where it is replayed. DEDUCED, log entry 60. -/
def Mach.killReason (m : Mach) (c : Nat) (st : Storage) : Option Nat :=
  let x := m.ctx c
  match x.silt.snap x.silt.current with
  | none => some 2
  | some p =>
    let above := match st with
      | .log pa => x.logAbove p.seq pa
      | _ => false
    if above then some 4
    else if x.uncorr then some 3
    else if p.seq < x.silt.lastExt then some 1
    else if m.restorable c p.seq st then none
    else some 2

/-- The kill of R405: a halt like any, with the error record once it is complete. DEDUCED, log entry 60. -/
def Mach.uncorrKill (m : Mach) (c : Nat) (r : ErrRec) : Mach :=
  let m1 := if (m.ctx c).halt.complete then m.note c r else (m.raiseLine c false none).haltError c r
  m1.setCtx c fun x => { x with killed := true }

/-- The replay of R405: every record above the marker undone, the snapshot restored, and the context resumed, one that a halt had
stopped among them: the error records that halt still held stand. DEDUCED, log entry 60. -/
def Mach.uncorrReplay (m : Mach) (c : Nat) (p : Snap) (r : ErrRec) : Mach :=
  let m0 : Mach := { m with errs := m.errs ++ (m.ctx c).halt.errors }
  let m1 := (m0.setCtx c fun x => { x with halt := {}, silt := x.silt.settleRewind }).rewindTo c p false
  let m2 := m1.setCtx c fun x => { x with uncorr := true, silt := { x.silt with undone := [] } }
  m2.lowerLine c |>.note c r

/-- A COMPLETE entry made FREE by an error (06 R134); nothing is logged. DEDUCED, log entry 28. -/
def Mach.dropEntry (m : Mach) (c i : Nat) : Mach :=
  let e := m.entry c i
  (m.updEntry c i fun _ => {}).setCtx c fun x => { x with loam := { x.loam with
    ansFree := x.loam.ansFree + e.answers.length, keyFree := x.loam.keyFree + keyCells e.form e.key } }

/-- An error in data that a replay or a kill must settle. DEDUCED, log entry 60. -/
def Mach.uncorrSettle (m : Mach) (c : Nat) (st : Storage) (syn : Word) : Mach :=
  let at_ := m.errPlace c st
  let m1 := (m.decideCommits c).drainCtx c
  match m1.killReason c st with
  | some k => m1.uncorrKill c (at_.record 0x2003 2 0x83 k syn)
  | none => match (m1.ctx c).silt.snap (m1.ctx c).silt.current with
    | some p => m1.uncorrReplay c p (at_.record 0x2002 1 0x82 p.seq syn)
    | none => m1

/-- The entry whose storage an error strikes. -/
def Mach.struckEntry (m : Mach) (c : Nat) : Storage → Option Nat
  | .entry i => some i
  | .hbm pa => (m.ctx c).loam.ownerOf pa
  | _ => none

/-- UNCORR_DATA (R405): an uncorrectable soft error in data of a context; one in a COMPLETE entry or in its cells frees the entry
(06 R134). DEDUCED, log entries 28 and 60. -/
def Mach.uncorrData (m : Mach) (c : Nat) (st : Storage) (syn : Word) : Mach :=
  if !(m.ctx c).valid || (m.ctx c).killed then m
  else
    let hit := (m.struckEntry c st).filter fun i => (m.entry c i).state == .complete
    match hit with
    | some i => (m.dropEntry c i).note c ((m.errPlace c st).record 0x5002 0 0x81 i syn)
    | none => m.uncorrSettle c st syn

/-! ### Corrected errors (26 R449) -/

/-- The cycles of one second. DEDUCED, log entry 61. -/
def secCycles : Nat := 2400000000

/-- ADDR of a unit's error is physical: it is a slice or a stack. DEDUCED, log entry 61. -/
def physUnit (unit : Nat) : Bool := decide (unit / 4096 = 0xB) || decide (unit / 4096 = 0xC)

/-- CORRECTED_MEMORY_ERROR: a record, and another where more than 16 have struck one 64 KiB region within a second.
DEDUCED, log entry 61. -/
def State.correctedError (s : State) (unit addr : Nat) (syn : Word) : State :=
  let now := s.m.cycle
  let page := addr / 65536 * 65536
  let valid := if physUnit unit then 12 else 4
  let m1 := s.m.noteUnit { code := 0x2001, severity := 0, action := 0x81, unit := unit, valid := valid, addr := addr,
                           syndrome := syn.toNat % 2 ^ 24 }
  if !physUnit unit then { s with m := m1 }
  else
    let seen := (s.sys.corrected.filter fun p => decide (now < p.2 + secCycles)) ++ [(page, now)]
    if (seen.filter fun p => p.1 == page).length ≤ 16 then { s with m := m1, sys := { s.sys with corrected := seen } }
    else
      { s with
        m := m1.noteUnit { code := 0x2004, severity := 0, action := 4, unit := unit, valid := valid, addr := addr, detail := page }
        sys := { s.sys with corrected := seen.filter fun p => p.1 != page } }

/-! ### The end of a context (26 R448, R451, 25 R439) -/

/-- A unit without a context's work. -/
def Engine.without (x : Engine) (c : Nat) : Engine := Engine.restored {} x c

/-- A matrix unit without a context's work. -/
def Matrix.without (x : Matrix) (c : Nat) : Matrix := Matrix.restored { metaq := x.metaq } x c

/-- Graphs of a context are running. DEDUCED, log entry 62. -/
def Mach.graphRuns (m : Mach) (c : Nat) : Bool := (m.ctx c).pool.any fun (_, p) => p.state == .running

/-- The kernel's completion records of a killed context (19 R354): one for each sink that will not retire.
DEDUCED, log entry 62. -/
def Mach.killDone (m : Mach) (c : Nat) : Mach :=
  if !m.graphRuns c then m
  else
    let sinks := (m.ctx c).pool.filter fun (_, p) => recSink p.r && (p.state == .armed || p.state == .running)
    sinks.foldl (fun a p => a.writeDone (a.doneRec c p.1 1)) m

/-- The groups of the module's other contexts that have a context among their members (25 R435). -/
def Mach.groupsWith (m : Mach) (p : Member → Bool) (but : Nat) : List (Nat × Nat) :=
  m.ctxs.flatMap fun (c, x) => if c = but ∨ !x.valid then [] else
    x.groups.filterMap fun (g, l) => if l.any p then some (c, g) else none

/-- The collectives of groups abort at every die (25 R439). -/
def Mach.abortGroups (m : Mach) (gs : List (Nat × Nat)) : Mach :=
  gs.foldl (fun a q => (List.range 4).foldl (fun b die => b.memberAbort die q.1 q.2) a) m

/-- What waits on a fault buffer for a context leaves it. -/
def Mach.dropFaults (m : Mach) (c : Nat) : Mach :=
  let keys := m.faults.filterMap fun (k, e) => match e with
    | some f => if f.ctx = c then some k else none
    | none => none
  keys.foldl (fun a k => a.freeFault (k / 4096) (k % 4096)) m

/-- A context ended with everything it holds: its accesses under way are performed, its tasks, commands, tiles, channels and
translations go, the halt's error records are written (a sealed context's in their hidden form), sinks report, and its collectives abort.
DEDUCED, log entry 62. -/
def Mach.endCtx (m : Mach) (c : Nat) : Mach :=
  let m0 := (m.drainCtx c).killDone c
  let sealed := (m0.ctx c).isSealed
  let errs' := (m0.errs ++ (m0.ctx c).halt.errors).map fun r =>
    if sealed && r.ctx == c && r.valid % 2 == 1 then r.hide else r
  let mine := fun (t : Task) => ctxOf t.gid == c
  let chans' := m0.chans.filter fun p => p.2.e.ctx != c
  let m1 : Mach :=
    { (m0.dropTlb c none) with
      errs := errs'
      t := if mine m0.t then blankTask else m0.t
      others := m0.others.filter (!mine ·)
      weak := m0.weak.filter fun w => ctxOf w.gid != c
      reqs := m0.reqs.filter fun r => ctxOf r.gid != c
      codeOld := m0.codeOld.filter fun r => r.ctx != c
      chans := chans'
      matrix := mergeBy {} (fun _ b => b.without c) m0.matrix m0.matrix
      engines := mergeBy {} (fun _ b => b.without c) m0.engines m0.engines
      nodes := mergeBy [] (fun _ b => b.filter (·.cmd.ctx != c)) m0.nodes m0.nodes
      colls := mergeBy [] (fun _ b => b.filter (·.cmd.ctx != c)) m0.colls m0.colls }
  let m2 := (m1.dropFaults c).setCtx c fun _ => {}
  m2.abortGroups (m2.groupsWith (fun q => q.route.isEmpty && q.ctx == c) c)

/-- KILL_CONTEXT (R448): the context ends, its dump is queued (R451), and its grants end with it (24 R428).
DEDUCED, log entry 62. -/
def State.kill (s : State) (c : Nat) : State :=
  let x := s.m.ctx c
  if !x.valid then s
  else
    let d : Dump := { ctx := c, images := s.m.tasks.filter (·.lives c), silt := x.silt, stops := x.stops }
    let y := s.sys
    { s with
      m := s.m.endCtx c
      sys := { y with
               dumpQueue := y.dumpQueue ++ [d]
               grants := y.grants.filter fun g => !(g.ctx == c && g.lv == .d1)
               readopt := y.readopt.filter (· != c) } }

/-- DUMP (R451): the dump hart makes the oldest queued dump, or ends it early where it meets an error, whose own record is
written. DEDUCED, log entry 62. -/
def State.dump (s : State) (c : Nat) (bad : Option (Nat × Nat)) : State :=
  match s.sys.dumpQueue with
  | [] => s
  | d :: rest =>
    if d.ctx ≠ c then s
    else
      let es := s.sys.ringHeld.filter fun r => r.ctx == c && r.valid % 2 == 1
      let m1 := match bad with
        | some (_, code) => s.m.noteUnit { code := code, severity := 2, action := 3, unit := dumpUnit, detail := 2 }
        | none => s.m
      { s with m := m1, sys := { s.sys with
          dumpQueue := rest, dumps := s.sys.dumps ++ [{ d with errors := es, ended := bad }] } }

end Sys2Proof.Machine
end

