-- ==== Sys2Proof/Machine/PowerOps.lean ====
section
/-! DEFINITION. Blocks: who holds them, their power states (24 R421 to R424), clock stretching, fencing (26 R448); the link grid
and energy (24 R419, R420, 19 R355). -/

namespace Sys2Proof.Machine

/-! ### What a block holds -/

/-- A live task holds a core: it sits on it, is bound to it, or its register lines are there. -/
def Task.holdsCore (t : Task) (n : Nat) : Bool :=
  t.phase != .ended && (t.slotCores.contains n || t.bound == some n || t.lines == some n)

/-- The contexts with a task that holds a core. -/
def Mach.coreCtxs (m : Mach) (n : Nat) : List Nat := (m.tasks.filter fun t => t.holdsCore n).map fun t => ctxOf t.gid

/-- The contexts that hold live state in a core's matrix unit: queued commands, live tiles, owned slots, weights. -/
def Matrix.ctxs (x : Matrix) : List Nat :=
  let qs := x.queues.flatMap fun (_, l) => l.map fun e => ctxOf e.gid
  let ts := x.tiles.filterMap fun (_, t) => t.holder.map ctxOf
  let ks := x.slots.filterMap fun (_, k) => if k.state = .empty then none else some k.owner
  let ws := x.weights.map fun (k, _) => k % 256
  let rs := match x.run with
    | some r => [ctxOf r.ent.gid]
    | none => []
  let bs := x.rows.filterMap fun p => p.2.map fun r => ctxOf r.ent.gid
  qs ++ ts ++ ks ++ ws ++ rs ++ bs

/-- The contexts with a task at a cluster's task unit or on its cores. -/
def Mach.clusterCtxs (m : Mach) (cl : Nat) : List Nat :=
  (m.tasks.filter fun t => t.phase != .ended && t.cluster == cl).map fun t => ctxOf t.gid

/-- The contexts with commands at an engine. -/
def Mach.engineCtxs (m : Mach) (e : EngRef) : List Nat :=
  (m.eng e).cmds.map (·.ctx) ++ (if e.kind = .collective then (m.collsAt e.unit).map (·.cmd.ctx) else [])

/-- The contexts whose partition holds a stack. -/
def Mach.stackCtxs (m : Mach) (stack : Nat) : List Nat :=
  m.ctxs.filterMap fun (c, x) => if x.valid ∧ (m.part x.part).hbmStacks.contains stack then some c else none

/-- The stack of a loader or a storer. -/
def unitStack (e : EngRef) : Nat := e.unit / 16

/-- The contexts that hold live state in a block. -/
def Mach.blockCtxs (m : Mach) (b : Block) : List Nat :=
  (match b with
    | .core n => m.coreCtxs n
    | .matrix cl => (m.mtx cl).ctxs
    | .sfu cl => m.clusterCtxs cl
    | .eng e => m.engineCtxs e
    | .slice n => m.stackCtxs (n / 16)
    | .endpoint n => if n < 512 then m.clusterCtxs n else m.stackCtxs ((n - 512) / 16)
    | .port _ => []).eraseDups

/-! ### Power states (R421, R422) -/

/-- A block's power state; every block is in RETAIN after the boot (25 R442). -/
def Sys.pstate (y : Sys) (b : Block) : PState4 := Tab.look .retain y.power (blockUnit b)

/-- A block's power state changed. -/
def Sys.setPower (y : Sys) (b : Block) (p : PState4) : Sys := { y with power := Tab.put .retain y.power (blockUnit b) p }

/-- A weak store on its way to a home. -/
def Mach.bound (m : Mach) (p : Home → Bool) : Bool := m.weak.any fun w => p w.loc.home

/-- A block is idle (R421): it has no ready thread, no queued command and no access pending. -/
def Mach.blockIdle (m : Mach) (b : Block) : Bool :=
  match b with
  | .core n => !(m.tasks.any fun t => t.phase != .ended && t.slotCores.contains n && !t.inWait) && !(m.weak.any (·.core == n))
  | .matrix cl => !((m.mtx cl).queues.any fun (_, l) => !l.isEmpty) && (m.mtx cl).run.isNone
  | .sfu cl => !(m.tasks.any fun t => t.phase == .parked .sfu && t.cluster == cl)
  | .eng e => (m.engineCtxs e).isEmpty
  | .slice _ => !m.bound (· == .hbm)
  | .endpoint _ => m.weak.isEmpty
  | .port p => !m.bound (· == .peer p) && !(m.tasks.any fun t => t.phase == .parked (.held p))

/-- The keys of a core's scratchpad banks and buffers, as ranges. -/
def coreRanges (n : Nat) : List (Nat × Nat) :=
  [(scratchKey false n 0, 65536), (scratchKey true n 0, 65536), (actKey n 0, 65536), (accKey n 0, 65536)]

/-- A key lies in one of a list of ranges. -/
def inRanges (l : List (Nat × Nat)) (k : Nat) : Bool := l.any fun (a, n) => decide (a ≤ k) && decide (k < a + n)

/-- A full/empty bit's word lies in one of a list of ranges. -/
def feIn (l : List (Nat × Nat)) (k : Nat) : Bool := inRanges l (8 * k)

/-- A core's SRAM holds something other than its reset values. DEDUCED, log entry 59. -/
def Mach.coreUsed (m : Mach) (n : Nat) : Bool :=
  let rs := coreRanges n
  m.mem.any (fun p => inRanges rs p.1) || m.fe.any (fun p => feIn rs p.1) ||
  m.windows.any (fun p => p.1 / 1024 == n) || m.frontOf n

/-- A valid context's partition holds a core. -/
def Mach.owned (m : Mach) (n : Nat) : Bool := m.ctxs.any fun (c, x) => x.valid && m.ownsCore c n

/-- The bytes of a cluster's Kaolin. -/
def kaolinRange (cl : Nat) : List (Nat × Nat) := [(kaolinKey cl 0, 2 ^ 19)]

/-- A block holds live state of a context (R422), what its context could still read of it among it. DEDUCED, log entry 59. -/
def Mach.blockLive (m : Mach) (b : Block) : Bool :=
  match b with
  | .core n => !(m.blockCtxs b).isEmpty || (m.owned n && m.coreUsed n)
  | .matrix cl =>
    let x := m.mtx cl
    !x.ctxs.isEmpty || !x.metaq.isEmpty || !x.finished.isEmpty ||
      (m.owned (8 * cl) && m.mem.any fun p => inRanges (kaolinRange cl) p.1)
  | .sfu cl => !m.blockIdle (.sfu cl)
  | .eng e => !(m.engineCtxs e).isEmpty || decide ({ m.eng e with stopped := [] } ≠ ({} : Engine))
  | .slice n => !(m.stackCtxs (n / 16)).isEmpty
  | .endpoint n => if n < 512 then m.owned (8 * n) else !(m.stackCtxs ((n - 512) / 16)).isEmpty
  | .port p => m.portsUp.contains p || m.portsTrain.contains p

/-- What a block holds is lost (R421): OFF keeps nothing. -/
def Mach.blockWiped (m : Mach) (b : Block) : Mach :=
  match b with
  | .core n =>
    let rs := coreRanges n
    { m with mem := m.mem.filter fun p => !inRanges rs p.1
             fe := m.fe.filter fun p => !feIn rs p.1
             windows := m.windows.filter fun p => p.1 / 1024 != n
             front := Tab.put false m.front n false
             rcache := Tab.put [] m.rcache n []
             icache := Tab.put [] m.icache n [] }
  | .matrix cl =>
    { m with mem := m.mem.filter fun p => !inRanges (kaolinRange cl) p.1, matrix := Tab.put {} m.matrix cl {} }
  | .eng e => m.setEng e fun _ => {}
  | _ => m

/-- POWER_DOZE (R421): an idle block gates its clock; a Rinair port never does. DEDUCED, log entry 59. -/
def State.doze (s : State) (b : Block) : State :=
  if b matches .port _ then s
  else if s.sys.pstate b = .run ∧ s.m.blockIdle b then { s with sys := s.sys.setPower b .doze } else s

/-- POWER_RETAIN (R421): from DOZE, a Rinair port from ON. DEDUCED, log entry 59. -/
def State.retain (s : State) (b : Block) : State :=
  let before : PState4 := if b matches .port _ then .run else .doze
  if s.sys.pstate b = before ∧ s.m.blockIdle b then { s with sys := s.sys.setPower b .retain } else s

/-- POWER_OFF (R422): from RETAIN, where the block holds no live state. DEDUCED, log entry 59. -/
def State.off (s : State) (b : Block) : State :=
  if s.sys.pstate b = .retain ∧ s.m.blockIdle b ∧ ¬ s.m.blockLive b then
    { s with m := s.m.blockWiped b, sys := s.sys.setPower b .off }
  else s

/-- POWER_WAKE (R421, R422): the block runs, with what it held, or, from OFF, at its reset values. DEDUCED, log entry 59. -/
def State.wake (s : State) (b : Block) : State := { s with sys := s.sys.setPower b .run }

/-- DETAIL of 0x7004: the power state left. DEDUCED, log entry 59. -/
def pstateCode : PState4 → Nat
  | .run => 0
  | .doze => 1
  | .retain => 2
  | .off => 3

/-- WAKE_TIMEOUT (26 R449): a block has not woken within three times its wake time. DEDUCED, log entry 59. -/
def State.wakeTimeout (s : State) (b : Block) : State :=
  if s.sys.pstate b = .run then s
  else { s with m := s.m.noteUnit { code := 0x7004, severity := 1, action := 4, unit := blockUnit b, valid := 0,
                                    detail := pstateCode (s.sys.pstate b) } }

/-! ### Clock stretching (R424) -/

/-- A block that may stretch its clock. -/
def stretches : Block → Bool
  | .slice _ => false
  | .endpoint _ => false
  | .port _ => false
  | _ => true

/-- A halt of a context that a block serves is in progress. -/
def Mach.haltsAt (m : Mach) (b : Block) : Bool :=
  (m.blockCtxs b).any fun c => (m.ctx c).halt.line && !(m.ctx c).halt.complete

/-- CLOCK_STRETCH (R424): a block begins or ends stretching; none begins while a halt it serves is in progress. -/
def State.stretch (s : State) (b : Block) (on : Bool) (temp : Nat) : State :=
  let u := blockUnit b
  let is := s.sys.stretched.contains u
  if !stretches b || is == on || (on && s.m.haltsAt b) then s
  else
    let r : ErrRec := { code := 0x7001, severity := 0, action := 0x81, unit := u, valid := 0, syndrome := temp,
                        detail := if on then 1 else 0 }
    let l := if on then s.sys.stretched ++ [u] else s.sys.stretched.filter (· != u)
    { s with m := s.m.noteUnit r, sys := { s.sys with stretched := l } }

/-! ### Fencing (26 R448) -/

/-- A partition without a block. DEDUCED, log entry 63. -/
def Part.without (p : Part) (b : Block) : Part :=
  let noCluster := fun (cl : Nat) => { p with clusters := p.clusters.filter (· != cl) }
  let noStack := fun (k : Nat) => { p with hbmStacks := p.hbmStacks.filter (· != k) }
  match b with
  | .core n => { p with fenced := if p.clusters.contains (clusterOf n) then p.fenced ++ [n] else p.fenced }
  | .matrix cl => noCluster cl
  | .sfu cl => noCluster cl
  | .eng e => match e.kind with
    | .sequencer => noCluster e.unit
    | .copy => noCluster e.unit
    | .collective => p
    | _ => noStack (unitStack e)
  | .slice n => noStack (n / 16)
  | .endpoint n => if n < 512 then noCluster n else noStack ((n - 512) / 16)
  | .port _ => p

/-- OFFLINE_BLOCK (R448): contexts with live state in the block are killed, and it is fenced out of every partition; a Rinair
port is used no more. DEDUCED, log entry 63. -/
def State.offlineBlock (s : State) (b : Block) : State :=
  if s.sys.offline.contains b then s
  else
    let s1 := (s.m.blockCtxs b).foldl State.kill s
    let m1 := match b with
      | .port p => { s1.m with portsUp := s1.m.portsUp.filter (· != p), portsTrain := s1.m.portsTrain.filter (· != p) }
      | _ => s1.m
    { s1 with
      m := { m1 with parts := m1.parts.foldl (fun t p => Tab.put {} t p.1 (p.2.without b)) m1.parts }
      sys := { s1.sys with offline := s1.sys.offline ++ [b] } }

/-! ### The link grid and energy (R419, R420, 19 R355) -/

/-- A count saturated in 32 bits. -/
def sat32 (n : Nat) : Nat := min n (2 ^ 32 - 1)

/-- LINK_GRID_DUMP (R419, R420): a dump of the interval, or one more lost where the ring has no room.
DEDUCED, log entry 64. -/
def State.linkGrid (s : State) (rows : List LinkCount) (uj : Nat) (room : Bool) : State :=
  let y := s.sys
  let now := s.m.cycle
  if !room then { s with sys := { y with gridAt := now, dumpLost := y.dumpLost + 1, unheldUj := 0 } }
  else
    let d : GridDump :=
      { seq := y.dumpNo + 1, time := now, interval := now - y.gridAt, moduleUj := uj, unheldUj := y.unheldUj
        lost := y.dumpLost, rows := (rows.take 2816).map fun r => (sat32 r.1, sat32 r.2) }
    { s with sys := { y with dumpNo := y.dumpNo + 1, dumpLost := 0, gridAt := now, unheldUj := 0, grid := y.grid ++ [d] } }

/-- The cycles in which a context held a block. -/
def cyclesOf (b : BlockEnergy) (c : Nat) : Nat := ((b.cycles.filter (·.1 == c)).map Prod.snd).sum

/-- The slot-cycles that the tasks of a context's records occupied. -/
def slotsOf (b : BlockEnergy) (c : Nat) : Nat := ((b.slots.filter (·.1 == c)).map fun q => q.2.2).sum

/-- A record's share of a block's idle and leakage energy: that of its context by occupied cycles, and within it by slot-cycles, in
whole microjoules. DEDUCED, log entry 57. -/
def idleShare (b : BlockEnergy) (c slots : Nat) : Nat :=
  b.uj * cyclesOf b c * slots / ((b.cycles.map Prod.snd).sum * slotsOf b c)

/-- No context held the block. -/
def noHolder (b : BlockEnergy) : Bool := (b.cycles.map Prod.snd).sum == 0

/-- Active energy added to its record. -/
def Mach.charge (m : Mach) (q : Charge) : Mach := m.updRec q.ctx q.rec_ fun p => { p with energy := p.energy + q.active }

/-- A block's idle and leakage energy divided among the records of the contexts that held it. DEDUCED, log entry 57. -/
def Mach.divide (m : Mach) (b : BlockEnergy) : Mach :=
  b.slots.foldl (fun a (c, r, n) => a.updRec c r fun p =>
    { p with energy := p.energy + idleShare b c n, sharedUj := p.sharedUj + idleShare b c n }) m

/-- ENERGY_INTERVAL (19 R355): an interval's active energy charged to the records, the idle and leakage energy of each block
divided, and that of blocks no context held set aside. DEDUCED, log entry 57. -/
def State.energyInterval (s : State) (active : List Charge) (blocks : List BlockEnergy) : State :=
  { s with
    m := blocks.foldl Mach.divide (active.foldl Mach.charge s.m)
    sys := { s.sys with unheldUj := s.sys.unheldUj + ((blocks.filter noHolder).map (·.uj)).sum } }

end Sys2Proof.Machine
end

