-- ==== Sys2Proof/Machine/BootOps.lean ====
section
/-! DEFINITION. Resets and what survives them (26 R450), the boot (25 R442), warm reboots and re-adoption (25 R443, R445),
the creation of contexts (25 R444) and their restore from a checkpoint (24 R427). -/

namespace Sys2Proof.Machine

/-! ### Resets (26 R450) -/

/-- A record appended to the reset ring of 64. -/
def Sys.noteReset (y : Sys) (cause time : Nat) : Sys :=
  let r : ResetRec := { boot := y.boots, cause := cause, time := time, lastSeq := y.lastErr.1, lastCode := y.lastErr.2 }
  { y with resets := (y.resets ++ [r]).drop (y.resets.length - 63) }

/-- A context's memory as an earlier boot left it: its stop area, log and registry entry can be read, and nothing runs.
DEDUCED, log entry 65. -/
def Ctx.relic (x : Ctx) : Ctx := { x with valid := false, killed := true, halt := {}, pool := [], loam := {} }

/-- The chip after a reset that is not a warm reboot: HBM's bytes survive where HBM does.
DESIGN CHOICE, log entry 1. DEDUCED, log entry 65. -/
def Mach.wiped (m : Mach) (hbm : Bool) : Mach :=
  { t := blankTask
    cycle := m.cycle
    mem := if hbm then m.mem.filter fun p => decide (p.1 < 2 ^ 52) else []
    ctxs := if hbm then m.ctxs.map fun (c, x) => (c, x.relic) else []
    done := m.done, ext := m.ext, order := m.order, free := m.free }

/-- The module around the chip after such a reset: fuses, keys and boot flash survive, and with HBM the error ring.
DEDUCED, log entry 65. -/
def Sys.wiped (y : Sys) (hbm : Bool) : Sys :=
  { restarting := true, boots := y.boots, failures := y.failures, lifecycle := y.lifecycle
    ring := if hbm then y.ring else [], ringLost := if hbm then y.ringLost else 0
    ringPast := if hbm then y.ringPast else [], ringTail := if hbm then y.ringTail else 0
    resets := y.resets, inService := y.inService, checkpoints := y.checkpoints
    dumps := if hbm then y.dumps else [] }

/-- Causes whose reset keeps HBM's contents (26 R450). DEDUCED, log entry 65. -/
def keepsHbm (cause : Nat) : Bool := cause == 3 || cause == 6 || cause == 7

/-- A reset (26 R450): the errors detected stand in the ring, the reset record is appended, and the machine waits for its boot.
DEDUCED, log entry 65. -/
def State.resetWith (s : State) (cause : Nat) : State :=
  let s1 := s.flushErrs
  let y := (s1.sys.noteReset cause s1.m.cycle).wiped (keepsHbm cause)
  { m := s1.m.wiped (keepsHbm cause), sys := { y with boots := y.boots + 1 }, agenda := s1.agenda }

/-- A device-fatal error and its reset. -/
def State.fatal (s : State) (r : ErrRec) (cause : Nat) : State := ({ s with m := s.m.noteUnit r } : State).resetWith cause

/-- THERMAL_TRIP (24 R424). -/
def State.thermalTrip (s : State) (unit temp : Nat) : State :=
  s.fatal { code := 0x7002, severity := 3, action := 0x85, unit := unit, valid := 0, syndrome := temp, detail := 1 } 2

/-- SUPPLY_FAULT (26 R449). -/
def State.supplyFault (s : State) (rail : Nat) : State :=
  s.fatal { code := 0x7003, severity := 3, action := 0x85, unit := kernelUnit, valid := 0, detail := rail } 7

/-- KERNEL_MEMORY_ERROR (26 R449). -/
def State.kernelMemoryError (s : State) (pa : Nat) (syn : Word) : State :=
  s.fatal { code := 0x2006, severity := 3, action := 0x85, unit := sliceUnit (homeSlice pa), valid := 12, addr := pa,
            syndrome := syn.toNat % 2 ^ 24 } 7

/-! ### The boot (25 R442) -/

/-- The whole module as one partition (log entry 20). -/
def wholePart : Part := { clusters := List.range 512, hbmStacks := List.range 12 }

/-- A state of the lifecycle in which the resident kernel runs (24 R425). DEDUCED, log entry 67. -/
def runsKernel : Lifecycle → Bool
  | .provisioned => true
  | .locked => true
  | _ => false

/-- Power comes on: everything but fuses, keys and boot flash is lost (26 R450), and CYCLE starts (09 R183).
PRESUMED, log entry 20. DEDUCED, log entry 66. -/
def State.powerCycle (s : State) : State :=
  { m := { (s.m.wiped false) with cycle := 0, done := [], ext := [] }, sys := { (s.sys.wiped false) with restarting := false },
    agenda := s.agenda }

/-- A verification of the boot fails (24 R425, 26 R449): a reset, with SERVICE from the second consecutive failure on.
DEDUCED, log entry 66. -/
def State.bootFails (s : State) (step : Nat) : State :=
  let again := decide (1 ≤ s.sys.failures)
  let s1 := s.fatal { code := 0x8005, severity := 3, action := if again then 0x86 else 0x85, unit := securityUnit, valid := 0,
                      detail := step } 5
  { s1 with sys := { s1.sys with failures := s1.sys.failures + 1, inService := s1.sys.inService && !again } }

/-- The boot's end: the kernel stands where the lifecycle has one, every block in RETAIN, Kaolin empty, one partition.
PRESUMED, log entry 20. -/
def State.booted (s : State) : State :=
  { s with
    m := { s.m with parts := [(0, wholePart)] }
    sys := { s.sys with booted := true, restarting := false, step := 6, kernel := runsKernel s.sys.lifecycle, failures := 0 } }

/-- POWER_ON_RESET (R442): power comes on, or the boot after another reset; the record of CAUSE 1 stands once step 1 has
passed. After three failures the module waits in the ROM. DEDUCED, log entry 66. -/
def State.boot (s : State) (fail : Nat) : State :=
  if 3 ≤ s.sys.failures then s
  else
    let on := s.sys.booted || !s.sys.restarting
    let s1 := if on then s.powerCycle else s
    let s2 := if on then { s1 with sys := { s1.sys with boots := s1.sys.boots + 1 } } else s1
    if fail = 1 then s2.bootFails 1
    else
      let s3 := if on then { s2 with sys := s2.sys.noteReset 1 s2.m.cycle } else s2
      if fail ≠ 0 then s3.bootFails fail else s3.booted

/-! ### Warm reboots (25 R443, R445) -/

/-- Every context's halt line raised, and every collective held (25 R438, R443). -/
def Mach.haltAll (m : Mach) (cs : List Nat) : Mach :=
  let m1 := cs.foldl (fun a c => a.raiseLine c false none) m
  { m1 with colls := m1.colls.map fun (d, l) => (d, l.map fun k => { k with held := true }) }

/-- The module's contexts. -/
def Mach.validCtxs (m : Mach) : List Nat := m.ctxs.filterMap fun (c, x) => if x.valid then some c else none

/-- The warm reset of the system die: everything but the application cores survives. DEDUCED, log entry 66. -/
def State.warmReboot (s : State) : State :=
  let s1 := s.flushErrs
  let cs := s1.m.validCtxs
  let y := s1.sys.noteReset 4 s1.m.cycle
  { s1 with
    m := s1.m.haltAll cs
    sys := { y with boots := y.boots + 1, ringSeq := 1, readopt := cs, grants := y.grants.filter fun g => g.lv != .d2 } }

/-- WATCHDOG_EXPIRY (R443, R445): a warm reboot; a second expiry before re-adoption has ended resets the module.
DEDUCED, log entry 66. -/
def State.watchdogExpiry (s : State) (panic : Bool) : State :=
  if !s.sys.kernel then s
  else
    let r : ErrRec := { code := 0x9001, severity := 1, action := 0x81, unit := kernelUnit, valid := 0,
                        detail := if panic then 1 else 0 }
    let s1 : State := { s with m := s.m.noteUnit r }
    if !panic && !s.sys.readopt.isEmpty then s1.resetWith 3 else s1.warmReboot

/-- A context resumed with its peers told (25 R438). DEDUCED, log entry 66. -/
def Mach.readopt (m : Mach) (c : Nat) : Mach :=
  let m1 := m.resume c {}
  { m1 with colls := m1.colls.map fun (d, l) => (d, l.map fun k => if k.cmd.ctx = c then { k with held := false } else k) }

/-- REGISTRY_READOPT (R445): an entry whose digest matches is re-adopted once its halt is complete; one whose digest does not
kills its context. -/
def State.registryReadopt (s : State) (c found : Nat) : State :=
  if !s.sys.readopt.contains c || !(s.m.ctx c).valid then s
  else if found ≠ (s.m.ctx c).digest then
    let r : ErrRec := { code := 0x8003, severity := 2, action := 0x83, unit := kernelUnit, valid := 1, detail := c }
    ({ s with m := s.m.note c r } : State).kill c
  else if !(s.m.ctx c).halt.complete then s
  else { s with m := s.m.readopt c, sys := { s.sys with readopt := s.sys.readopt.filter (· != c) } }

/-! ### Contexts (25 R444) -/

/-- Bytes 0x00 to 0xDF of a registry entry, as words. -/
def ctxWords (ci : CtxInit) : List Nat :=
  [1 + (if ci.isSealed then 2 else 0) + 4 * ci.part, ci.root, ci.silt, ci.loam, ci.pool, ci.stop, ci.dbgArea, ci.ownerHash]

/-- The ranges of a context's memory that its tasks cannot reach (06 R114, 08 R155, 17 R328, 19 R345). -/
def ctxGuards (ci : CtxInit) : List (Nat × Nat) :=
  [(ci.silt, ci.silt + 64 + ci.siltSize),
   (ci.loam, ci.loam + 2048 * ci.nsets + 64 * ci.ansCells + 64 * ci.keyCells),
   (ci.pool, ci.pool + 2 ^ 20), (ci.stop, ci.stop + 64 * ci.stopCap), (ci.dbgArea, ci.dbgArea + 256),
   (ci.images, ci.images + 8 * imageSize * ci.frames)]

/-- The log of a new context (23 R394, R407). -/
def ctxLog (ci : CtxInit) : Silt :=
  Silt.control { isSealed := ci.isSealed, size := ci.siltSize } ci.siltCtl

/-- The answer table of a new context (06 R113): every entry FREE, both pools empty, the array at the region's start and the pools
after it. -/
def ctxTable (ci : CtxInit) : Loam :=
  let ans := ci.loam + 2048 * ci.nsets
  { nsets := ci.nsets, ansFree := ci.ansCells, keyFree := ci.keyCells, keepFailed := ci.keepFailed, base := ci.loam, va := ci.loamVa
    ansExt := [(ans, ci.ansCells)], keyExt := [(ans + 64 * ci.ansCells, ci.keyCells)] }

/-- The layout rules that the kernel's choices keep: a power of two of sets (06 R113), images on lines (08 R150). -/
def soundInit (ci : CtxInit) : Bool := ci.nsets == 2 ^ ci.nsets.log2 && ci.images % 64 == 0

/-- A new context: halted until its first resume (23 R393). DEDUCED, log entry 50. -/
def freshCtx (ci : CtxInit) : Ctx :=
  { valid := true, isSealed := ci.isSealed, part := ci.part, root := ci.root, stop := ci.stop, stopCap := ci.stopCap
    siltAt := ci.silt, poolAt := ci.pool, imagesAt := ci.images, dbgArea := ci.dbgArea, ownerHash := ci.ownerHash
    digest := Config.sm3 (ctxWords ci)
    halt := { line := true, complete := true }
    loam := ctxTable ci, silt := ctxLog ci, guards := ctxGuards ci }

/-- The fence of a partition laid anew (04 R79): a cluster or a stack belongs to one partition, and none in use is moved.
PRESUMED, log entry 20. DEDUCED, log entry 67. -/
def Mach.refence (m : Mach) (p : Nat) : Option (List Nat × List Nat) → Option Mach
  | none => some m
  | some (cls, sts) =>
    let used := m.ctxs.any fun (_, x) => x.valid && (x.part == p ||
      (m.part x.part).clusters.any (cls.contains ·) || (m.part x.part).hbmStacks.any (sts.contains ·))
    if used then none
    else
      let rest := m.parts.foldl (fun t (k, q) => Tab.put {} t k
        { q with clusters := q.clusters.filter (!cls.contains ·), hbmStacks := q.hbmStacks.filter (!sts.contains ·) }) m.parts
      some { m with parts := Tab.upd {} rest p fun q =>
        { q with clusters := cls.filter (decide <| · < 512), hbmStacks := sts.filter (decide <| · < 12) } }

/-- CONTEXT_CREATE (R444, 23 R393): the kernel writes the registry entry, the context stands halted, and the loader's writes
precede its first resume. DEDUCED, log entry 67. -/
def State.createCtx (s : State) (ci : CtxInit) : State :=
  if !s.sys.kernel || !soundInit ci || decide (255 < ci.ctx) || decide (7 < ci.part) || (s.m.ctx ci.ctx).valid then s
  else match s.m.refence ci.part ci.fence with
    | none => s
    | some m0 =>
      let windows' := m0.windows.filter fun p => p.1 / 4 % 256 != ci.ctx
      let m1 := ({ m0 with windows := windows' } : Mach).setCtx ci.ctx fun _ => freshCtx ci
      { s with m := (m1.work ci.ctx ci.work).resnap ci.ctx }

/-- The last checkpoint copied out of a context. DESIGN CHOICE, log entry 68. -/
def Sys.lastCheckpoint (y : Sys) (c : Nat) : Option Checkpoint := (y.checkpoints.filter fun k => k.ctx == c).getLast?

/-- Addresses and bytes as numbers. -/
def cellWords (l : List Host.Cell) : List Nat := l.flatMap fun (k, b) => [k, b.toNat]

/-- What the HMAC over a checkpoint image covers (24 R427). DESIGN CHOICE, log entry 68. -/
def ctxImage (ci : CtxInit) (k : Option Checkpoint) : List Nat :=
  ctxWords ci ++ [ci.siltSize, ci.siltCtl, ci.nsets, ci.ansCells, ci.keyCells] ++ cellWords ci.work.mem ++
  (match k with
    | some k => k.window :: cellWords k.bytes
    | none => [])

/-- A checkpoint's bytes stand in the pages of a context. DESIGN CHOICE, log entry 68. -/
def Mach.withBytes (m : Mach) (c : Nat) (l : List Host.Cell) : Mach :=
  { m with mem := pokeCells (m.mem.filter fun p => !m.maps c p.1) l }

/-- A checkpoint's answer table, in the region where the kernel places it. DESIGN CHOICE, log entry 68. -/
def Loam.placed (s l : Loam) : Loam := { s with base := l.base, va := l.va, ansExt := l.ansExt, keyExt := l.keyExt }

/-- The bytes and the snapshot that a checkpoint carries (23 R406) stand in the restored context, its answer table among them, halted
until its kernel resumes it. DESIGN CHOICE, log entry 68. -/
def State.withSnapshot (s : State) (c : Nat) : State :=
  match s.sys.lastCheckpoint c with
  | none => s
  | some k =>
    let m1 := ((s.m.withBytes c k.bytes).restore c k.snap true).setCtx c fun x => { x with loam := k.snap.loam.placed x.loam }
    { s with m := m1.resnap c }

/-- CHECKPOINT_RESTORE (R427): a context restored from its image, whose HMAC is checked first: its regions as the kernel places
them, and the bytes and the snapshot the image carries. DESIGN CHOICE, log entry 68. -/
def State.restoreCtx (s : State) (ci : CtxInit) (mac : Nat) : State :=
  if (s.m.ctx ci.ctx).valid then s
  else if mac = Config.hmac ci.ctx (ctxImage ci (s.sys.lastCheckpoint ci.ctx)) then
    let s1 := s.createCtx ci
    if (s1.m.ctx ci.ctx).valid then s1.withSnapshot ci.ctx else s1
  else
    let r : ErrRec := { code := 0x8004, severity := 2, action := 3, unit := securityUnit, valid := 1 }
    { s with m := s.m.note ci.ctx r }

end Sys2Proof.Machine
end

