-- ==== Sys2Proof/Machine/SecurityOps.lean ====
section
/-! DEFINITION. The security block (24): attestation (R426), the lifecycle (R425), debug levels and grants (R428), and what a debug
request does (R429, R430, 22 R387, 24 R411, R412). -/

namespace Sys2Proof.Machine

/-! ### The lifecycle and attestation (R425, R426) -/

/-- The number of a lifecycle state, in R425's order. -/
def lifecycleCode : Lifecycle → Nat
  | .blank => 0
  | .provisioned => 1
  | .locked => 2
  | .rma => 3

/-- The number of a debug level. -/
def levelCode : DbgLevel → Nat
  | .d0 => 0
  | .d1 => 1
  | .d2 => 2

/-- ATTESTATION (R426): the digest the security block signs, over the nonce, the lifecycle, the grants and the measurements. -/
def State.attest (s : State) (c nonce : Nat) : State :=
  if !s.sys.kernel then s
  else
    let gs := s.sys.grants.flatMap fun g => [g.ses, levelCode g.lv, g.ctx]
    let code := Config.measure (2 + c) ((s.m.ctx c).firstArm.getD 0)
    let d := Config.sm3 ([nonce, lifecycleCode s.sys.lifecycle] ++ gs ++ [Config.measure 0 0, Config.measure 1 0, code])
    { s with sys := { s.sys with reports := s.sys.reports ++ [(nonce, d)] } }

/-- A vendor token: a signature over the device's identity, the lifecycle state and the boot count (R428). -/
def State.vendorToken (s : State) (token : Nat) : Bool :=
  Config.sm2 Config.vendorKey (Config.sm3 [Config.device, lifecycleCode s.sys.lifecycle, s.sys.boots]) token

/-- The owner's release of a LOCKED module (R425). -/
def State.ownerRelease (s : State) (release : Nat) : Bool :=
  Config.sm2 Config.ownerRoot (Config.sm3 [Config.device, lifecycleCode s.sys.lifecycle, s.sys.boots]) release

/-- RMA is entered (R425): owner keys, registry, HBM and logs are erased, and no kernel runs. DEDUCED, log entry 69. -/
def State.enterRma (s : State) : State :=
  { m := s.m.wiped false
    sys := { (s.sys.wiped false) with restarting := s.sys.restarting, booted := s.sys.booted, step := s.sys.step
                                      lifecycle := .rma, checkpoints := [] }
    agenda := s.agenda }

/-- LIFECYCLE_TRANSITION (R425): forward only. DEDUCED, log entry 69. -/
def State.lifecycle (s : State) (dst : Lifecycle) (token release : Nat) : State :=
  match s.sys.lifecycle, dst with
  | .blank, .provisioned => { s with sys := { s.sys with lifecycle := .provisioned } }
  | .provisioned, .locked => { s with sys := { s.sys with lifecycle := .locked } }
  | .provisioned, .rma => if s.vendorToken token then s.enterRma else s
  | .locked, .rma => if s.vendorToken token && s.ownerRelease release then s.enterRma else s
  | _, _ => s

/-! ### Debug levels (R428) -/

/-- The lifecycle state has contexts and owners. -/
def ownedState : Lifecycle → Bool
  | .provisioned => true
  | .locked => true
  | _ => false

/-- A refusal (R428): a record of the security class. DEDUCED, log entry 69. -/
def State.refuseDebug (s : State) (lv : DbgLevel) (c : Nat) : State :=
  let r : ErrRec := { code := 0x8001, severity := 1, action := 1, unit := securityUnit, detail := levelCode lv }
  { s with m := if (s.m.ctx c).valid then s.m.note c { r with valid := 1 } else s.m.noteUnit r }

/-- A grant recorded. -/
def State.grant (s : State) (ses : Nat) (lv : DbgLevel) (c : Nat) : State :=
  { s with sys := { s.sys with grants := s.sys.grants ++ [⟨ses, lv, c⟩] } }

/-- DEBUG_GRANT (R428, R430): D0 needs none; D1 the owner's signature over the security block's nonce; D2 a vendor token, or in
BLANK and RMA none. DESIGN CHOICE, log entry 7. DEDUCED, log entry 69. -/
def State.debugGrant (s : State) (ses : Nat) (lv : DbgLevel) (c token : Nat) : State :=
  let own := ownedState s.sys.lifecycle
  match lv with
  | .d0 => s
  | .d1 =>
    let x := s.m.ctx c
    let s1 : State := { s with m := { s.m with free := s.m.free + 1 } }
    if own && x.valid && Config.sm2 x.ownerHash (Config.sm3 [Config.nonce s.m.free, Config.device, c, 1]) token then
      s1.grant ses .d1 c
    else s1.refuseDebug .d1 c
  | .d2 => if !own || s.vendorToken token then s.grant ses .d2 0 else s.refuseDebug .d2 c

/-! ### What kamdb does to a halted context -/

/-- A breakpoint set (R412). -/
def Mach.setBreak (m : Mach) (c i addr task : Nat) (en : Bool) : Mach :=
  m.setCtx c fun x => { x with breaks := Tab.put {} x.breaks (i % 16) ⟨addr % 2 ^ 52 / 2 * 2, task % 2 ^ 48, en⟩ }

/-- STEP_CTL written (R411): its reserved bits read 0. -/
def Mach.setStep (m : Mach) (g : Gid) (v : Nat) : Mach :=
  m.mapTask g fun t => { t with ctl := { t.ctl with stepCtl := BitVec.ofNat 64 (v / 2 ^ 62 % 4 * 2 ^ 62 + v % 2 ^ 52 / 2 * 2) } }

/-- The physical block that a global watch's BASE translates to when it is armed (22 R388). -/
def Mach.watchBlock (m : Mach) (c cl base ctl : Nat) : Option Nat :=
  if ctl % 2 = 1 ∧ ctl / 8 % 2 = 0 then
    match m.translate c cl base with
    | .ok (e, _) => some (e.pa + (base - e.va))
    | .error _ => none
  else none

/-- WP_ADDR, WP_MASK and WP_CTL written (22 R387). -/
def Mach.setWatch (m : Mach) (g : Gid) (addr mask v : Nat) : Mach :=
  let base := addr % 2 ^ 52 / 64 * 64
  let ctl := v % 64 / 4 * 4 + v % 2
  match m.find g with
  | none => m
  | some t =>
    let phys := m.watchBlock (ctxOf g) t.cluster base ctl
    m.mapTask g fun t => { t with
      ctl := { t.ctl with wpAddr := BitVec.ofNat 52 base, wpMask := BitVec.ofNat 64 mask, wpCtl := BitVec.ofNat 6 ctl }
      wpPhys := phys }

/-- kamdb has edited a context: the window closes before the resume (23 R393). -/
def Mach.editedCtx (m : Mach) (c : Nat) : Mach := m.setSilt c fun s => { s with edited := true }

/-- A part of a halted task's image, or of a member's of its gang, edited (08 R154). -/
def Mach.editReg (m : Mach) (g : Gid) (member : Nat) (p : ImgPart) : Mach := (m.mapTask g (·.edit member p)).editedCtx (ctxOf g)

/-- A byte of a halted context's memory edited (23 R393). -/
def Mach.editByte (m : Mach) (c pa : Nat) (b : Byte) : Mach :=
  (({ m with mem := pokeMem m.mem pa [b] } : Mach).dropTlb c none).editedCtx c

/-- An operation on a context by kamdb; everything but halting waits for the halt to be complete, and edits for every step to
be taken back (23 R393). DEDUCED, log entry 69. -/
def Mach.debugOp (m : Mach) (c : Nat) (op : DbgOp) : Mach :=
  let x := m.ctx c
  let open_ := x.silt.stepsOpen
  if !x.valid then m
  else match op with
    | .halt => m.raiseLine c true none
    | op =>
      if !x.halt.complete then m
      else match op with
        | .resume => m.resume c {}
        | .setBreak i a t en => m.setBreak c i a t en
        | .setStep g v => if ctxOf g = c then m.setStep g v else m
        | .setWatch g a k v => if ctxOf g = c then m.setWatch g a k v else m
        | .editReg g k p => if ctxOf g = c ∧ ¬ open_ then m.editReg g k p else m
        | .editMem pa b => if open_ then m else m.editByte c pa b
        | .siltLevel full => m.setSilt c fun s => { s with full := full }
        | _ => m

/-! ### Debug requests (R430) -/

/-- The level a session holds for a context. -/
def Sys.levelOf (y : Sys) (ses c : Nat) : DbgLevel :=
  if y.grants.any fun g => g.ses == ses && g.lv == .d2 then .d2
  else if y.grants.any fun g => g.ses == ses && g.lv == .d1 && g.ctx == c then .d1
  else .d0

/-- The session holds a grant for some other context. -/
def Sys.holdsOther (y : Sys) (ses : Nat) : Bool := y.grants.any fun g => g.ses == ses

/-- A request that acts: a block in DOZE or RETAIN wakes first; one that is OFF holds nothing of the context. -/
def State.debugActs (s : State) (c : Nat) (op : DbgOp) (b : Block) : State :=
  match s.sys.pstate b with
  | .off => s
  | _ =>
    let s1 := s.wake b
    { s1 with m := s1.m.debugOp c op }

/-- DEBUG_REQUEST (R430): the first row that matches. A reset at D2 acts outside every context (26 R450).
DEDUCED, log entry 69. -/
def State.debugRequest (s : State) (ses c : Nat) (op : DbgOp) (b : Block) : State :=
  let lv := s.sys.levelOf ses c
  let reset := op matches .reset
  match lv with
  | .d0 => if s.sys.holdsOther ses then s.refuseDebug .d1 c else s
  | .d1 =>
    if reset then s.refuseDebug .d2 c
    else if (s.m.ctx c).isSealed then s.refuseDebug .d1 c
    else s.debugActs c op b
  | .d2 =>
    if reset then s.resetWith 6
    else if (s.m.ctx c).isSealed then s.refuseDebug .d2 c
    else s.debugActs c op b

end Sys2Proof.Machine
end

