-- ==== Sys2Proof/Machine/PortOps.lean ====
section
/-! DEFINITION. Rinair's ports and peers (25 R431 to R434), the root ports and their devices (25 R441), and Shale's errors
(26 R449). -/

namespace Sys2Proof.Machine

/-! ### Rinair (25 R431 to R434) -/

/-- RINAIR_FLIT_ERROR (R431): a flit is discarded and resent. -/
def Mach.flitError (m : Mach) (p : Nat) : Mach :=
  m.noteUnit { code := 0x4001, severity := 0, action := 0x81, unit := portUnit p, valid := 0, detail := p }

/-- PORT_RETRAIN (R431). DEDUCED, log entry 58. -/
def Mach.portRetrain (m : Mach) (p : Nat) : Mach :=
  if m.portsUp.contains p then { m with portsUp := m.portsUp.filter (· != p), portsTrain := m.portsTrain ++ [p] } else m

/-- A port on the first leg of a member's route. DEDUCED, log entry 71. -/
def routedVia (q : Member) (p : Nat) : Bool := q.route.head? == some p

/-- PORT_DOWN (R431, R434, R439): the collectives over the port abort; accesses that wait for it trap as they go again.
DEDUCED, log entries 58 and 71. -/
def State.portDown (s : State) (p : Nat) : State :=
  let up := s.m.portsUp.contains p || s.m.portsTrain.contains p
  if !up then s
  else
    let r : ErrRec := { code := 0x4002, severity := 1, action := 4, unit := portUnit p, valid := 0, detail := p }
    let m1 : Mach := { (s.m.noteUnit r) with
      portsUp := s.m.portsUp.filter (· != p), portsTrain := s.m.portsTrain.filter (· != p) }
    { s with
      m := m1.abortGroups (m1.groupsWith (fun q => routedVia q p) 256)
      sys := { s.sys with portKeys := s.sys.portKeys.filter (· != p) } }

/-- PORT_UP (R431, R442, 24 R427): the port's keys agreed, or 0x8002. A fenced port stays down. DEDUCED, log entry 58. -/
def State.portUp (s : State) (p : Nat) (keyOk : Bool) : State :=
  if !s.sys.booted || decide (15 < p) || s.m.portsUp.contains p || s.sys.offline.contains (.port p) then s
  else if keyOk then
    { s with
      m := { s.m with portsUp := s.m.portsUp ++ [p], portsTrain := s.m.portsTrain.filter (· != p) }
      sys := { s.sys with portKeys := s.sys.portKeys.filter (· != p) ++ [p] } }
  else
    { s with m := s.m.noteUnit { code := 0x8002, severity := 1, action := 4, unit := portUnit p, valid := 0, detail := p } }

/-- A write by a party outside the module into a context's memory (R433, R441): an EXTERNAL mark, and the bytes.
DEDUCED, log entry 70. -/
def Mach.foreignWrite (m : Mach) (c party pa : Nat) (bs : List Byte) : Mach :=
  let l : Loc := { key := pa, va := BitVec.ofNat 64 pa, home := .hbm, space := 0 }
  let m1 := m.tick.setSilt c fun s => s.mark .external pa party 0
  let m2 := m1.noteCode c l (cellsFrom pa bs)
  { m2 with mem := pokeMem m2.mem pa bs }

/-- A peer's write, performed for a context (R433): it strikes the watches open to every write (22 R388).
DEDUCED, log entry 70. -/
def Mach.peerWrite (m : Mach) (c p pa : Nat) (bs : List Byte) : Mach :=
  let l : Loc := { key := pa, va := BitVec.ofNat 64 pa, home := .hbm, space := 0 }
  let old := BitVec.ofNat 64 (m.word pa)
  (m.foreignWrite c (portUnit p) pa bs).strikes c l bs.length (span bs.length) 0 (portUnit p) old (m.ctx c).silt.nextSeq

/-- The bytes a peer's access touches. -/
def accSize : PeerAcc → Nat
  | .load n => n
  | .store bs => bs.length
  | .atomic _ n _ => n

/-- An import entry covers bytes [pa, pa + n) and grants an access. -/
def importGrants (i : Import) (pa : Nat) (acc : PeerAcc) : Bool :=
  decide (i.base ≤ pa) && decide (pa + accSize acc ≤ i.limit) &&
  (match acc with
    | .load _ => i.r
    | .store _ => i.w
    | .atomic _ _ _ => i.a)

/-- The entry of a port's import table that admits an access. DEDUCED, log entry 70. -/
def Mach.importFor (m : Mach) (p pa : Nat) (acc : PeerAcc) : Option Import :=
  (List.range 64).findSome? fun i =>
    let e := Tab.look {} m.imports (64 * p + i)
    if importGrants e pa acc then some e else none

/-- What an atomic of n bytes leaves at its home (16 R313): nothing written where a comparison fails. -/
def peerNew (n : Nat) (old v : Word) : PeerOp → Option Word
  | .add => some (old + v)
  | .and => some (old &&& v)
  | .or => some (old ||| v)
  | .xor => some (old ^^^ v)
  | .xchg => some v
  | .min nat => some (minMax n nat false old v)
  | .max nat => some (minMax n nat true old v)
  | .cas was => if old.toNat % 2 ^ (8 * n) = was.toNat % 2 ^ (8 * n) then some v else none

/-- REMOTE_ACCESS_ARRIVAL (R433): performed for the context whose entry admits it; any other is answered with a negative
acknowledgement, and leaves nothing here. DEDUCED, log entry 70. -/
def Mach.remoteAccess (m : Mach) (p pa : Nat) (acc : PeerAcc) : Mach :=
  if !m.portsUp.contains p || decide (2 ^ 48 ≤ pa) then m
  else match m.importFor p pa acc with
    | none => m
    | some e =>
      if !(m.ctx e.ctx).valid then m
      else match acc with
        | .load _ => m
        | .store bs => m.orHold e.ctx (m.peerWrite e.ctx p pa bs)
        | .atomic op n v => match peerNew n (BitVec.ofNat 64 (m.word pa)) v op with
        | none => m
        | some w => m.orHold e.ctx (m.peerWrite e.ctx p pa (leBytes w.toNat n))

/-! ### Root ports (25 R441) -/

/-- AER_ERROR (R441). -/
def Mach.aer (m : Mach) (port : Nat) (uncorr : Bool) (status : Word) : Mach :=
  m.noteUnit { code := if uncorr then 0x9003 else 0x9002, severity := if uncorr then 1 else 0,
               action := if uncorr then 4 else 0x81, unit := rootUnit port, valid := 0, syndrome := status.toNat, detail := port }

/-- HOT_PLUG (R441). DEDUCED, log entry 71. -/
def State.hotPlug (s : State) (port : Nat) : State :=
  if !s.sys.booted || decide (7 < port) || s.m.rootsUp.contains port then s
  else { s with m := { s.m with rootsUp := s.m.rootsUp ++ [port] } }

/-- A read of root-port space that gets no answer traps PROT on the kernel route (R441). DEDUCED, log entry 71. -/
def Mach.rootFails (m : Mach) (g : Gid) (va : Word) : Mach :=
  let m1 := m.focus g
  (({ m1 with t := { m1.t with phase := .ready } } : Mach).raise prot va 0 1 accRead).focus m.t.gid

/-- COMPLETION_TIMEOUT (R441): a non-posted read has no completion within 50 ms. -/
def Mach.completionTimeout (m : Mach) (g : Gid) : Mach :=
  match m.find g with
  | none => m
  | some t => match t.phase with
    | .parked (.root p va) => (m.aer p true 0).rootFails g va
    | _ => m

/-- SURPRISE_REMOVAL (R441): outstanding requests complete with error. DEDUCED, log entry 71. -/
def Mach.surpriseRemoval (m : Mach) (port : Nat) : Mach :=
  if !m.rootsUp.contains port then m
  else
    let m1 : Mach := { (m.aer port true 0) with rootsUp := m.rootsUp.filter (· != port) }
    m1.tasks.foldl (fun a t => match t.phase with
      | .parked (.root p va) => if p = port then a.rootFails t.gid va else a
      | _ => a) m1

/-- MSI_X_INTERRUPT (R441): into the buffer of 4,096, or the lost flag. DEDUCED, log entry 71. -/
def State.msiX (s : State) (vec : Nat) : State :=
  if s.sys.msix.length < 4096 then { s with sys := { s.sys with msix := s.sys.msix ++ [vec] } }
  else
    { s with
      m := s.m.noteUnit { code := 0x9004, severity := 1, action := 1, unit := kernelUnit, valid := 0, detail := 1 }
      sys := { s.sys with msixLost := true } }

/-- DMA_WRITE (R441): a device's transaction, already translated, into HBM; in a context's page it leaves its EXTERNAL mark.
DEDUCED, log entry 70. -/
def Mach.dmaWrite (m : Mach) (port pa : Nat) (bs : List Byte) (c : Option Nat) : Mach :=
  if !m.rootsUp.contains port || decide (2 ^ 48 ≤ pa) then m
  else match c with
    | none => { m.tick with mem := pokeMem m.mem pa bs }
    | some c =>
      if !(m.ctx c).valid then { m.tick with mem := pokeMem m.mem pa bs }
      else m.orHold c (m.foreignWrite c (rootUnit port) pa bs)

/-! ### Shale (26 R449) -/

/-- SHALE_FLIT_ERROR. -/
def Mach.shaleFlit (m : Mach) (ep vc : Nat) : Mach :=
  m.noteUnit { code := 0x3001, severity := 0, action := 0x81, unit := endpointUnit ep, valid := 0, detail := vc }

/-- SHALE_ENDPOINT_FAILURE. DEDUCED, log entry 63. -/
def Mach.shaleFails (m : Mach) (ep : Nat) : Mach :=
  m.noteUnit { code := 0x3002, severity := 3, action := 4, unit := endpointUnit ep, valid := 0, detail := ep }

/-! ### Checkpoints (23 R406) -/

/-- CHECKPOINT_COPY_END (R406): the image has left with its snapshot, and its window is held no longer. -/
def State.copyEnd (s : State) (c : Nat) : State :=
  match (s.m.ctx c).silt.held with
  | none => s
  | some w =>
    let l := match (s.m.ctx c).silt.snap w with
      | some p => [({ ctx := c, window := w, bytes := s.m.imageOf c p.seq, snap := p } : Checkpoint)]
      | none => []
    { s with m := s.m.copyEnd c, sys := { s.sys with checkpoints := s.sys.checkpoints ++ l } }

end Sys2Proof.Machine
end

