-- ==== Sys2Proof/Machine/AutoOps.lean ====
section
/-! DEFINITION. The events that the part itself brings about, as candidates in a state: each is due when its meaning would change
the state (log entry 2). -/

namespace Sys2Proof.Machine

/-- What a live task may be due. -/
def Mach.taskEvents (m : Mach) (t : Task) : List Instr :=
  let g := t.gid
  let own : List Instr := match t.phase with
    | .ended => []
    | .parked .commit => [.commitAtHome g]
    | .parked (.marker _) => []
    | .parked _ => [.parkResolved g]
    | .sending s => if s.backoff then [.msendRetryTimer g] else [.messageArrival g]
    | .waiting (.gang _) => [.gangForm g]
    | .ready =>
      if t.seat.isSome then
        (if t.stepDue then [.step g] else []) ++ (if t.regang ≠ 0 then [.gangForm g] else [])
      else
        let cores := match m.boundTo t with
          | some c => [c]
          | none => (List.range 8).map (8 * t.cluster + ·)
        cores.map (Instr.taskSeat ·) ++ [.taskAging g, .continuationMigrate g]
    | _ => []
  if t.phase = .ended then [] else own

/-- Idle slots that may steal: one empty slot of each core of a partition with an interval to split. -/
def Mach.stealEvents (m : Mach) : List Instr :=
  let cs := ((m.tasks.filter fun t => t.splits).map fun t => ctxOf t.gid).eraseDups
  let cls := (cs.flatMap fun c => (m.partOf c).clusters).eraseDups
  cls.flatMap fun cl => (List.range 8).filterMap fun i =>
    (m.emptySlot (8 * cl + i)).map fun s => Instr.steal (8 * cl + i) s

/-- The weak stores that may be performed, the first of each thread. -/
def Mach.weakEvents (m : Mach) : List Instr := (List.range m.weak.length).map (Instr.accessPerformed ·)

/-- What a context's records, table and log may be due. -/
def Mach.ctxEvents (m : Mach) (c : Nat) : List Instr :=
  let x := m.ctx c
  let recs : List Instr := x.pool.flatMap fun (r, p) => match p.state with
    | .running => [.recordRetire c r]
    | .armed => if recEarly p.r then [.earlyStart c r] else []
    | _ => []
  let halts : List Instr :=
    if x.halt.line && !x.halt.complete then (m.unstopped c).map (fun u => Instr.unitStop u c) ++ [.haltComplete c] else []
  let silt : List Instr :=
    (if x.silt.requests.isEmpty then [] else [.windowMarker c 0]) ++ [.siltThreshold c] ++
    (if x.silt.shedPolicy then [.siltShed c] else []) ++
    (if m.irqs.contains (4, c) then [] else [.siltStall c])
  if x.valid then recs ++ (if x.loam.boundary.isSome then [.tableClearFailed c] else []) ++
    (if x.loam.moving.isSome then [.tableGrow c none (0, 0) (0, 0)] else []) ++ halts ++ silt else []

/-- What a cluster's matrix unit may be due. -/
def matrixEvents (cl : Nat) : List Instr :=
  [.tileOpStart cl, .tileOpFinal cl, .metadataStallTimeout cl] ++
  (List.range 8).flatMap fun i => [.mconvComplete cl i, .scheduleEntry cl i, .scheduleEnd cl i]

/-- What an engine may be due. -/
def Mach.engineEvents (m : Mach) (e : EngRef) : List Instr :=
  let x := m.eng e
  let chunk : List Instr := match x.active with
    | some o => match firstClear o.bitmap with
      | some k => [.chunkComplete e k]
      | none => []
    | none => []
  let kaolin : List Instr := if e.kind = .copy then [.kaolinLoad e.unit, .kaolinLoadComplete e.unit, .metadataPush e.unit] else []
  let streams : List Instr := (List.range x.streams.length).flatMap fun n =>
    [.streamTileLoad e n, .streamTileStore e n, .streamEnd e n]
  let colls : List Instr := if e.kind = .collective then
      (m.collsAt e.unit).zipIdx.flatMap fun (k, n) =>
        let c := k.cmd.ctx
        [.collectiveStep e.unit n [], .collectiveHold e.unit c, .collectiveResume e.unit c] ++
        (if (m.ctx c).deadGroups.contains k.group then [.memberAbort e.unit c k.group] else [])
    else []
  kaolin ++ chunk ++ [.engineOperationStart e, .engineOperationEnd e, .engineFault e] ++ streams ++ colls

/-- The commands at the combining nodes. -/
def Mach.nodeEvents (m : Mach) : List Instr :=
  m.nodes.flatMap fun (cl, l) => (List.range l.length).map fun n => Instr.commandForward cl n

/-- The block of a unit; the task unit stays on (24 R421). -/
def UnitRef.block : UnitRef → Option Block
  | .core n => some (.core n)
  | .matrix cl => some (.matrix cl)
  | .eng e => some (.eng e)
  | .taskUnit _ => none

/-- The blocks that have work (24 R422). -/
def Mach.working (m : Mach) : List Block :=
  (m.tasks.filter fun t => t.seatedOn && !t.inWait).flatMap (fun t => t.slotCores.map Block.core) ++
  ((Tab.keys m.matrix).filter fun cl => !m.blockIdle (.matrix cl)).map Block.matrix ++
  (m.engineRefs.filter fun e => !m.blockIdle (.eng e)).map Block.eng

/-- The blocks that a halt line has reached (24 R423). -/
def Mach.halting (m : Mach) : List Block :=
  ((Tab.keys m.ctxs).filter fun c => (m.ctx c).halt.line && !(m.ctx c).halt.complete).flatMap fun c =>
    (m.unstopped c).filterMap UnitRef.block

/-- The wakes that are due: work reaches a block that does not run, or a halt line one in DOZE or RETAIN (24 R421 to R423).
DEDUCED, log entry 59. -/
def State.wakeEvents (s : State) : List Instr :=
  ((s.m.working.filter fun b => s.sys.pstate b != .run) ++
   (s.m.halting.filter fun b => s.sys.pstate b == .doze || s.sys.pstate b == .retain)).eraseDups.map Instr.powerWake

/-- Everything the part may be due. DESIGN CHOICE, log entry 2. -/
def State.candidates (s : State) : List Instr :=
  let m := s.m
  let dumps : List Instr := match s.sys.dumpQueue with
    | d :: _ => [.dump d.ctx none]
    | [] => []
  m.tasks.flatMap m.taskEvents ++ m.weakEvents ++ m.nodeEvents ++ m.engineRefs.flatMap m.engineEvents ++
  (Tab.keys m.matrix).flatMap matrixEvents ++ (Tab.keys m.ctxs).flatMap m.ctxEvents ++ m.stealEvents ++ dumps ++ s.wakeEvents

/-- A list begun at a place and taken round. DESIGN CHOICE, log entry 2. -/
def rotated {α : Type} (l : List α) (k : Nat) : List α := l.drop (k % l.length) ++ l.take (k % l.length)

end Sys2Proof.Machine
end

