-- ==== Sys2Proof/Machine/Engines.lean ====
section
/-! DEFINITION. The meanings of the engines' instructions and events (18, 15 R293 to R295, 13 R247, 25 R437 to R439): each
one operation of EngineOps or Collect. -/

namespace Sys2Proof.Machine

/-- ECMD (R341). -/
def execEcmd (m : Option XMod) (a : Opnd) (s : State) : Step State := issue (.abort abEngine) (ecmdM m a) s

/-- ECPY (R341). -/
def execEcpy (m : Option XMod) (ds : EDst) (ss : ESrc) (d a b c : Opnd) (s : State) : Step State :=
  issue (.abort abEngine) (ecpyM m ds ss d a b c) s

/-- EGATH (R341). -/
def execEgath (m : Option XMod) (ds : EDst) (d a b c : Opnd) (s : State) : Step State :=
  issue (.abort abEngine) (egathM m ds d a b c) s

/-- ESCAT (R341). -/
def execEscat (m : Option XMod) (ss : ESrc) (d a b c : Opnd) (s : State) : Step State :=
  issue (.abort abEngine) (escatM m ss d a b c) s

/-- ESUB (R341). -/
def execEsub (m : Option XMod) (a b : Opnd) (s : State) : Step State := issue (.abort abEngine) (esubM m a b) s

/-- ECOLL (R341). -/
def execEcoll (m : Option XMod) (a b : Opnd) (s : State) : Step State := issue (.abort abEngine) (ecollM m a b) s

/-- EBMP (R343). -/
def execEbmp (m : Option XMod) (d a : Opnd) (s : State) : Step State := issue (.abort abEngine) (ebmpM m d a) s

/-- MLOADB (R341). -/
def execMloadb (m : Option XMod) (d a b : Opnd) (s : State) : Step State := issue (.abort abEngine) (mloadbM m d a b) s

/-- KAOLIN_LOAD (13 R247). -/
def execKaolinLoad (cl : Nat) (s : State) : Step State := eventM (·.kaolinLoad cl) s

/-- KAOLIN_LOAD_COMPLETE (13 R247). -/
def execKaolinLoadComplete (cl : Nat) (s : State) : Step State := eventM (·.kaolinDone cl) s

/-- KICK (R337): SHADOW of a context's page submitted for a task on a core. -/
def execKick (e : EngRef) (ctx core : Nat) (g : Gid) (s : State) : Step State :=
  eventM (fun m =>
    let r := (m.find g).bind (·.rec_)
    let pc := ((m.find g).map fun t => t.pc.toNat).getD 0
    match m.kickOp e ctx core g r pc with
    | .ok m1 => m1
    | .error _ => m) s

/-- REGISTER_WRITE (R334): bytes written to SHADOW. -/
def execRegisterWrite (e : EngRef) (ctx off : Nat) (bs : List Byte) (s : State) : Step State :=
  eventM (fun m =>
    let at_ := mailAt e ctx - 0x30 + off
    if off + bs.length ≤ 0x20 then
      m.regWrite e ctx (cellsFrom off bs) (gidOf ctx 0) ⟨at_, BitVec.ofNat 64 at_, .dev, 0, false, true, none⟩ 0 bs.length
    else m) s

/-- COMMAND_FORWARD (R338). -/
def execCommandForward (cl n : Nat) (s : State) : Step State := eventM (·.forward cl n) s

/-- ENGINE_OPERATION_START (R337). -/
def execEngineOperationStart (e : EngRef) (s : State) : Step State := eventM (·.engineStart e) s

/-- CHUNK_COMPLETE (R339). -/
def execChunkComplete (e : EngRef) (k : Nat) (s : State) : Step State := eventM (·.chunkComplete e k) s

/-- ENGINE_OPERATION_END (R339). -/
def execEngineOperationEnd (e : EngRef) (s : State) : Step State :=
  eventM (fun m => if e.kind = .collective then m.collEnd e.unit else m.engineEnd e) s

/-- ENGINE_FAULT (R340). -/
def execEngineFault (e : EngRef) (s : State) : Step State :=
  eventM (fun m =>
    if e.kind = .collective ∧ ((m.eng e).active.bind (·.failed)).isNone then m.collFaults e.unit else m.engineFaults e) s

/-- METADATA_PUSH (R335). -/
def execMetadataPush (cl : Nat) (s : State) : Step State := eventM (·.metadataPush cl) s

/-- STREAM_TILE_LOAD (R294). -/
def execStreamTileLoad (e : EngRef) (n : Nat) (s : State) : Step State := eventM (·.streamTile e n false) s

/-- STREAM_TILE_STORE (R294). -/
def execStreamTileStore (e : EngRef) (n : Nat) (s : State) : Step State := eventM (·.streamTile e n true) s

/-- STREAM_END (R295). -/
def execStreamEnd (e : EngRef) (n : Nat) (s : State) : Step State := eventM (·.streamEnd e n) s

/-- COLLECTIVE_STEP (25 R437). -/
def execCollectiveStep (die n : Nat) (bs : List Byte) (s : State) : Step State := eventM (·.collStep die n bs) s

/-- COLLECTIVE_HOLD (25 R438). -/
def execCollectiveHold (die ctx : Nat) (s : State) : Step State := eventM (·.collHold die ctx true) s

/-- COLLECTIVE_RESUME (25 R438). -/
def execCollectiveResume (die ctx : Nat) (s : State) : Step State := eventM (·.collHold die ctx false) s

end Sys2Proof.Machine
end

