-- ==== Sys2Proof/Machine/Kernel.lean ====
section
/-! DEFINITION. The meanings of the kernel's and the task units' events (04, 06, 09, 14, 15, 16, 17, 19): each one operation
of KernelOps or Sched. -/

namespace Sys2Proof.Machine

/-- The kernel has read error records and MSI-X entries (26 R447, 25 R441). DEDUCED, log entry 71. -/
def State.kernelReads (s : State) (w : KWork) : State :=
  let y := s.sys.readErrors w.errRead
  { s with sys := { y with msix := y.msix.drop w.msiRead, msixLost := y.msixLost && w.msiRead == 0 } }

/-- FAULT_RESOLVED (09 R169, 15 R288). -/
def execFaultResolved (r : FaultRef) (w : KWork) (s : State) : Step State :=
  eventS (fun s => ({ s with m := s.m.faultResolved r w } : State).kernelReads w) s

/-- FAULT_REFUSED (15 R288, 02 R29). -/
def execFaultRefused (r : FaultRef) (s : State) : Step State := eventM (·.faultRefused r) s

/-- SYSC_SERVE (09 R178). -/
def execSyscServe (g : Gid) (r1 r2 rl : Word) (s : State) : Step State := eventM (·.syscServe g r1 r2 rl) s

/-- PARK_RESOLVED (04 R63). -/
def execParkResolved (g : Gid) (s : State) : Step State := eventM (·.parkResolved g) s

/-- ACCESS_PERFORMED (17 R320). -/
def execAccessPerformed (n : Nat) (s : State) : Step State := eventM (·.accessPerformed n) s

/-- TASK_SEAT (19 R361). -/
def execTaskSeat (core : Nat) (s : State) : Step State := eventM (·.taskSeat core) s

/-- TASK_AGING (04 R80). -/
def execTaskAging (g : Gid) (s : State) : Step State := eventM (·.age g) s

/-- CONTINUATION_MIGRATE (19 R361). -/
def execContinuationMigrate (g : Gid) (s : State) : Step State := eventM (·.migrate g) s

/-- STEAL (19 R358). -/
def execSteal (core slot : Nat) (s : State) : Step State := eventM (·.steal core slot) s

/-- GANG_FORM (04 R75, R78). -/
def execGangForm (g : Gid) (s : State) : Step State := eventM (·.gangForm g) s

/-- EARLY_START (19 R353). -/
def execEarlyStart (ctx r : Nat) (s : State) : Step State := eventM (·.earlyStart ctx r) s

/-- RECORD_RETIRE (14 R270, 19 R352). -/
def execRecordRetire (ctx r : Nat) (s : State) : Step State := eventM (·.recordRetire ctx r) s

/-- TABLE_CLEAR_FAILED (06 R128). -/
def execTableClearFailed (ctx : Nat) (s : State) : Step State := eventM (·.clearFailed ctx) s

/-- TABLE_GROW (06 R130, R131). -/
def execTableGrow (ctx : Nat) (dbl : Option (Nat × Nat)) (ans keys : Nat × Nat) (s : State) : Step State :=
  eventM (·.tableGrow ctx { array := dbl, ans := ans.1, ansAt := ans.2, keys := keys.1, keysAt := keys.2 }) s

/-- MESSAGE_ARRIVAL (19 R360, 11 R210). -/
def execMessageArrival (g : Gid) (s : State) : Step State := eventM (·.messageArrival g) s

/-- MSEND_RETRY_TIMER (19 R360). -/
def execMsendRetryTimer (g : Gid) (s : State) : Step State := eventM (·.retryTimer g) s

end Sys2Proof.Machine
end

