-- ==== Sys2Proof/Machine/Halts.lean ====
section
/-! DEFINITION. The meanings of the events of halts, pre-emption and debug stops (09, 22, 24): each one operation of HaltOps. -/

namespace Sys2Proof.Machine

/-- HALT_LINE (09 R170): the kernel's intervention, or a debugger's stop, raises a context's halt line; a debugger's is refused on
a sealed context (24 R429). -/
def execHaltLine (ctx : Nat) (dbg : Bool) (s : State) : Step State :=
  eventM (fun m => if !(m.ctx ctx).valid || (dbg && (m.ctx ctx).isSealed) then m else m.raiseLine ctx dbg none) s

/-- UNIT_STOP (09 R171, R172). -/
def execUnitStop (u : UnitRef) (ctx : Nat) (s : State) : Step State := eventM (·.unitStop ctx u) s

/-- HALT_COMPLETE (09 R171). -/
def execHaltComplete (ctx : Nat) (s : State) : Step State := eventM (·.haltComplete ctx) s

/-- CONTEXT_RESUME (09 R174). -/
def execContextResume (ctx : Nat) (w : KWork) (s : State) : Step State :=
  eventS (fun s => ({ s with m := s.m.resume ctx w } : State).kernelReads w) s

/-- PREEMPT (09 R175). -/
def execPreempt (gs : Preemption) (s : State) : Step State := eventM (·.preempt gs.tasks gs.cluster) s

/-- CONTEXT_SWITCH (09 R175). -/
def execContextSwitch (ctx nxt : Nat) (s : State) : Step State := eventM (·.contextSwitch ctx nxt) s

/-- WATCH_STRIKE (22 R390). -/
def execWatchStrike (w : Gid) (striker : Nat) (who : Gid) (addr n : Nat) (old : Word) (seq : Nat) (s : State) : Step State :=
  eventM (·.watchStrike w striker who (BitVec.ofNat 64 addr) n old seq) s

/-- STEP (24 R414). -/
def execStep (g : Gid) (s : State) : Step State := eventM (·.stepped g) s

end Sys2Proof.Machine
end

