-- ==== Sys2Proof/Machine/Matrix.lean ====
section
/-! DEFINITION. The meanings of the matrix unit's instructions and events (13): each one operation of MatrixOps. -/

namespace Sys2Proof.Machine

/-- MOP (R262). -/
def execMop (m : Option XMod) (ta tb : Blk) (q : Fin 2) (a b : Opnd) (s : State) : Step State :=
  issue (.abort abForbidden) (mopM false m ta tb q a b) s

/-- MOPS (R262). -/
def execMops (m : Option XMod) (ta tb : Blk) (q : Fin 2) (a b : Opnd) (s : State) : Step State :=
  issue (.abort abForbidden) (mopM true m ta tb q a b) s

/-- MCONV (R263). -/
def execMconv (m : Option XMod) (f : McFmt) (ac : Bool) (q : Fin 2) (a : Opnd) (s : State) : Step State :=
  issue (.abort abForbidden) (mconvM m f ac q a) s

/-- MWAIT (R265). -/
def execMwait (q : Fin 2) (s : State) : Step State := issue (.abort abForbidden) (mwaitM q) s

/-- MSTAT (R266). -/
def execMstat (d : Opnd) (q : Fin 2) (s : State) : Step State := issueT .own (mstatT s.m d q) s

/-- MSCHED (R267). -/
def execMsched (m : Option XMod) (a b : Opnd) (s : State) : Step State := issue (.abort abEngine) (mschedM m a b) s

/-- MZERO (R261). -/
def execMzero (q : Fin 2) (e : Int) (s : State) : Step State := issue (.abort abForbidden) (mzeroM q e) s

/-- MQW (R264). -/
def execMqw (k : Nat) (s : State) : Step State := issue (.abort abForbidden) (mqwM k) s

/-- TILE_OP_START (R251). -/
def execTileOpStart (cl : Nat) (s : State) : Step State := eventM (·.tileOpStart cl) s

/-- TILE_OP_FINAL (R252). -/
def execTileOpFinal (cl : Nat) (s : State) : Step State := eventM (·.tileOpFinal cl) s

/-- MCONV_COMPLETE (R263): the conversion of a core of a cluster. -/
def execMconvComplete (cl core : Nat) (s : State) : Step State := eventM (·.mconvComplete (8 * cl + core % 8)) s

/-- METADATA_STALL_TIMEOUT (R257). -/
def execMetadataStallTimeout (cl : Nat) (s : State) : Step State := eventM (·.metaTimeout cl) s

/-- SCHEDULE_ENTRY (R268). -/
def execScheduleEntry (cl core : Nat) (s : State) : Step State := eventM (·.scheduleEntry (8 * cl + core % 8)) s

/-- SCHEDULE_END (R268). -/
def execScheduleEnd (cl core : Nat) (s : State) : Step State := eventM (·.scheduleEnd (8 * cl + core % 8)) s

end Sys2Proof.Machine
end

