-- ==== Sys2Proof/Machine/MemInsn.lean ====
section
/-! DEFINITION. The meanings of the memory instructions (16): each one effect of MemAccess under its rule inside a region
(R301, R370). -/

namespace Sys2Proof.Machine

/-- LD (R304). -/
def execLd (m : Option XMod) (t : Tag) (z : Size) (sp : Space) (d a : Opnd) (s : State) : Step State :=
  issue (s.m.ruleMem m sp a) (ldM m sp (sizeBytes z) false t d a) s

/-- LD.n (R304). -/
def execLdN (m : Option XMod) (t : Tag) (z : NSize) (sp : Space) (d a : Opnd) (s : State) : Step State :=
  issue (s.m.ruleMem m sp a) (ldM m sp (nsizeBytes z) true t d a) s

/-- ST (R147, R304). -/
def execSt (m : Option XMod) (z : Size) (sp : Space) (d a : Opnd) (s : State) : Step State :=
  issue (s.m.ruleMem m sp a) (stM m sp (sizeBytes z) d a) s

/-- LDV (R305, R308). -/
def execLdv (m : Option XMod) (g : Fin 8) (t : Tag) (sp : Space) (d : Fin 256) (a : Opnd) (s : State) : Step State :=
  issue (s.m.forbidV sp a) (ldvM m sp g t d a) s

/-- STV (R305, R308). -/
def execStv (m : Option XMod) (g : Fin 8) (sp : Space) (d : Fin 256) (a : Opnd) (s : State) : Step State :=
  issue (s.m.forbidV sp a) (stvM m sp g d a) s

/-- LDFE (R309). -/
def execLdfe (m : Option XMod) (d a : Opnd) (s : State) : Step State :=
  issue (.abort abForbidden) (feM 0 m d a) s

/-- LDFF (R309). -/
def execLdff (m : Option XMod) (d a : Opnd) (s : State) : Step State :=
  issue (.abort abForbidden) (feM 1 m d a) s

/-- STFE (R309). -/
def execStfe (m : Option XMod) (d a : Opnd) (s : State) : Step State :=
  issue (.abort abForbidden) (feM 2 m d a) s

/-- FESET (R309). -/
def execFeset (m : Option XMod) (a : Opnd) (s : State) : Step State :=
  issue (.abort abForbidden) (feSetM true m a) s

/-- FECLR (R309). -/
def execFeclr (m : Option XMod) (a : Opnd) (s : State) : Step State :=
  issue (.abort abForbidden) (feSetM false m a) s

/-- XST (R311). -/
def execXst (m : Option XMod) (a : Opnd) (src : XstSrc) (s : State) : Step State :=
  issue (.abort abForbidden) (xstM m a src) s

/-- AXCHG (R313). -/
def execAxchg (m : Option XMod) (z : ASize) (sp : ASpace) (d a b : Opnd) (s : State) : Step State :=
  issue (if sp = .g then s.m.forbidG a else .abort abForbidden)
    (atomicM m (asizeOf z).1 false sp d a [b] (rmw m b (fun _ y => y))) s

/-- ACAS (R313). -/
def execAcas (m : Option XMod) (z : ASize) (sp : ASpace) (d a b c : Opnd) (s : State) : Step State :=
  issue (if sp = .g then s.m.forbidG a else .abort abForbidden)
    (atomicM m (asizeOf z).1 false sp d a [b, c] (casNew m (asizeOf z).1 b c)) s

/-- AADD (R313). -/
def execAadd (m : Option XMod) (z : ASize) (sp : ASpace) (d a b : Opnd) (s : State) : Step State :=
  issue (if sp = .g then s.m.forbidG a else .abort abForbidden)
    (atomicM m (asizeOf z).1 false sp d a [b] (rmw m b (fun x y => x + y))) s

/-- AAND (R313). -/
def execAand (m : Option XMod) (z : ASize) (sp : ASpace) (d a b : Opnd) (s : State) : Step State :=
  issue (if sp = .g then s.m.forbidG a else .abort abForbidden)
    (atomicM m (asizeOf z).1 false sp d a [b] (rmw m b (fun x y => x &&& y))) s

/-- AOR (R313). -/
def execAor (m : Option XMod) (z : ASize) (sp : ASpace) (d a b : Opnd) (s : State) : Step State :=
  issue (if sp = .g then s.m.forbidG a else .abort abForbidden)
    (atomicM m (asizeOf z).1 false sp d a [b] (rmw m b (fun x y => x ||| y))) s

/-- AXOR (R313). -/
def execAxor (m : Option XMod) (z : ASize) (sp : ASpace) (d a b : Opnd) (s : State) : Step State :=
  issue (if sp = .g then s.m.forbidG a else .abort abForbidden)
    (atomicM m (asizeOf z).1 false sp d a [b] (rmw m b (fun x y => x ^^^ y))) s

/-- AMIN (R313). -/
def execAmin (m : Option XMod) (z : MSize) (sp : ASpace) (d a b : Opnd) (s : State) : Step State :=
  issue (if sp = .g then s.m.forbidG a else .abort abForbidden)
    (atomicM m (msizeOf z).1 (msizeOf z).2 sp d a [b]
      (rmw m b (minMax (msizeOf z).1 (msizeOf z).2 false))) s

/-- AMAX (R313). -/
def execAmax (m : Option XMod) (z : MSize) (sp : ASpace) (d a b : Opnd) (s : State) : Step State :=
  issue (if sp = .g then s.m.forbidG a else .abort abForbidden)
    (atomicM m (msizeOf z).1 (msizeOf z).2 sp d a [b]
      (rmw m b (minMax (msizeOf z).1 (msizeOf z).2 true))) s

/-- FENCE (R314). -/
def execFence (m : Option XMod) (s : State) : Step State :=
  issue (.abort abForbidden) (fenceM m) s

/-- PVIS (R272, R315). -/
def execPvis  (s : State) : Step State :=
  issue (.abort abForbidden) pvisM s

/-- BINIT (R316). -/
def execBinit (m : Option XMod) (a b : Opnd) (s : State) : Step State :=
  issue (.abort abForbidden) (binitM m a b) s

/-- BARR (R317). -/
def execBarr (m : Option XMod) (a b : Opnd) (s : State) : Step State :=
  issue (.abort abForbidden) (barrM m a b) s

/-- BWAIT (R318). -/
def execBwait (m : Option XMod) (k : Fin 16) (d a : Opnd) (s : State) : Step State :=
  issue (.abort abForbidden) (bwaitM m k d a) s

/-- GBAR (R319). -/
def execGbar (m : Option XMod) (d a : Opnd) (s : State) : Step State :=
  issue (.abort abForbidden) (gbarM m d a) s

end Sys2Proof.Machine
end

