-- ==== Sys2Proof/Machine/Module.lean ====
section
/-! DEFINITION. The meanings of the module's events (24, 25, 26): each one operation of RecoverOps, PowerOps, BootOps, SecurityOps or PortOps. -/

namespace Sys2Proof.Machine

/-- LINK_GRID_DUMP (24 R419, R420). -/
def execLinkGridDump (rows : List LinkCount) (uj : Nat) (room : Bool) (s : State) : Step State := eventS (·.linkGrid rows uj room) s

/-- ENERGY_INTERVAL (19 R355). -/
def execEnergyInterval (active : List Charge) (blocks : List BlockEnergy) (s : State) : Step State :=
  eventS (·.energyInterval active blocks) s

/-- POWER_DOZE (24 R421). -/
def execPowerDoze (b : Block) (s : State) : Step State := eventS (·.doze b) s

/-- POWER_RETAIN (24 R421). -/
def execPowerRetain (b : Block) (s : State) : Step State := eventS (·.retain b) s

/-- POWER_OFF (24 R421, R422). -/
def execPowerOff (b : Block) (s : State) : Step State := eventS (·.off b) s

/-- POWER_WAKE (24 R421 to R423). -/
def execPowerWake (b : Block) (s : State) : Step State := eventS (·.wake b) s

/-- WAKE_TIMEOUT (26 R449). -/
def execWakeTimeout (b : Block) (s : State) : Step State := eventS (·.wakeTimeout b) s

/-- CLOCK_STRETCH (24 R424). -/
def execClockStretch (b : Block) (on : Bool) (temp : Nat) (s : State) : Step State := eventS (·.stretch b on temp) s

/-- THERMAL_TRIP (24 R424, 26 R450). -/
def execThermalTrip (unit temp : Nat) (s : State) : Step State := eventS (·.thermalTrip unit temp) s

/-- SUPPLY_FAULT (26 R449, R450). -/
def execSupplyFault (rail : Nat) (s : State) : Step State := eventS (·.supplyFault rail) s

/-- ATTESTATION (24 R426). -/
def execAttestation (ctx nonce : Nat) (s : State) : Step State := eventS (·.attest ctx nonce) s

/-- DEBUG_GRANT (24 R428). -/
def execDebugGrant (ses : Nat) (lv : DbgLevel) (ctx token : Nat) (s : State) : Step State := eventS (·.debugGrant ses lv ctx token) s

/-- DEBUG_REQUEST (24 R430). -/
def execDebugRequest (ses ctx : Nat) (op : DbgOp) (blk : Block) (s : State) : Step State := eventS (·.debugRequest ses ctx op blk) s

/-- LIFECYCLE_TRANSITION (24 R425). -/
def execLifecycleTransition (dst : Lifecycle) (token release : Nat) (s : State) : Step State := eventS (·.lifecycle dst token release) s

/-- RINAIR_FLIT_ERROR (25 R431). -/
def execRinairFlitError (p : Nat) (s : State) : Step State := eventM (·.flitError p) s

/-- PORT_DOWN (25 R431, R434, R439). -/
def execPortDown (p : Nat) (s : State) : Step State := eventS (·.portDown p) s

/-- PORT_RETRAIN (25 R431). -/
def execPortRetrain (p : Nat) (s : State) : Step State := eventM (·.portRetrain p) s

/-- PORT_UP (25 R431, R442). -/
def execPortUp (p : Nat) (keyOk : Bool) (s : State) : Step State := eventS (·.portUp p keyOk) s

/-- REMOTE_ACCESS_ARRIVAL (25 R433). -/
def execRemoteAccessArrival (p pa : Nat) (acc : PeerAcc) (s : State) : Step State := eventM (·.remoteAccess p pa acc) s

/-- MSI_X_INTERRUPT (25 R441). -/
def execMsiXInterrupt (vec : Nat) (s : State) : Step State := eventS (·.msiX vec) s

/-- DMA_WRITE (25 R441). -/
def execDmaWrite (port pa : Nat) (bs : List Byte) (ctx : Option Nat) (s : State) : Step State := eventM (·.dmaWrite port pa bs ctx) s

/-- COMPLETION_TIMEOUT (25 R441). -/
def execCompletionTimeout (g : Gid) (s : State) : Step State := eventM (·.completionTimeout g) s

/-- SURPRISE_REMOVAL (25 R441). -/
def execSurpriseRemoval (port : Nat) (s : State) : Step State := eventM (·.surpriseRemoval port) s

/-- HOT_PLUG (25 R441). -/
def execHotPlug (port : Nat) (s : State) : Step State := eventS (·.hotPlug port) s

/-- AER_ERROR (25 R441). -/
def execAerError (port : Nat) (uncorr : Bool) (status : Word) (s : State) : Step State := eventM (·.aer port uncorr status) s

/-- POWER_ON_RESET (25 R442, 26 R450). -/
def execPowerOnReset (fail : Nat) (s : State) : Step State := eventS (·.boot fail) s

/-- WATCHDOG_EXPIRY (25 R443, R445). -/
def execWatchdogExpiry (panic : Bool) (s : State) : Step State := eventS (·.watchdogExpiry panic) s

/-- REGISTRY_READOPT (25 R445). -/
def execRegistryReadopt (ctx found : Nat) (s : State) : Step State := eventS (·.registryReadopt ctx found) s

/-- KILL_CONTEXT (26 R448). -/
def execKillContext (ctx : Nat) (s : State) : Step State := eventS (·.kill ctx) s

/-- DUMP (26 R451). -/
def execDump (ctx : Nat) (bad : Option (Nat × Nat)) (s : State) : Step State := eventS (·.dump ctx bad) s

/-- CONTEXT_CREATE (25 R444). -/
def execContextCreate (ci : CtxInit) (s : State) : Step State := eventS (·.createCtx ci) s

/-- CHECKPOINT_RESTORE (24 R427). -/
def execCheckpointRestore (ci : CtxInit) (mac : Nat) (s : State) : Step State := eventS (·.restoreCtx ci mac) s

/-- SHALE_FLIT_ERROR (26 R449). -/
def execShaleFlitError (ep vc : Nat) (s : State) : Step State := eventM (·.shaleFlit ep vc) s

/-- SHALE_ENDPOINT_FAILURE (26 R449). -/
def execShaleEndpointFailure (ep : Nat) (s : State) : Step State := eventM (·.shaleFails ep) s

/-- KERNEL_MEMORY_ERROR (26 R449, R450). -/
def execKernelMemoryError (pa : Nat) (syn : Word) (s : State) : Step State := eventS (·.kernelMemoryError pa syn) s

/-- OFFLINE_BLOCK (26 R448). -/
def execOfflineBlock (b : Block) (s : State) : Step State := eventS (·.offlineBlock b) s

/-- MEMBER_ABORT (25 R439). -/
def execMemberAbort (die ctx g : Nat) (s : State) : Step State := eventM (·.memberAbort die ctx g) s

end Sys2Proof.Machine
end

