-- ==== Sys2Proof/Machine/Silts.lean ====
section
/-! DEFINITION. The meanings of the Silt log's events (23): each one operation of SiltOps, RecoverOps or PortOps. -/

namespace Sys2Proof.Machine

/-- WINDOW_MARKER (R398, R399). -/
def execWindowMarker (ctx cause : Nat) (s : State) : Step State := eventM (·.windowMarker ctx cause) s

/-- SILT_THRESHOLD (R398). -/
def execSiltThreshold (ctx : Nat) (s : State) : Step State := eventM (·.siltThreshold ctx) s

/-- SILT_SHED (R401). -/
def execSiltShed (ctx : Nat) (s : State) : Step State := eventM (·.siltShed ctx) s

/-- SILT_STALL (R401). -/
def execSiltStall (ctx : Nat) (s : State) : Step State := eventM (·.siltStall ctx) s

/-- SILT_REGION_ENLARGE (R401). -/
def execSiltRegionEnlarge (ctx bytes : Nat) (drop : Bool) (s : State) : Step State := eventM (·.siltEnlarge ctx bytes drop) s

/-- RSTEP (R403). -/
def execRstep (ctx n : Nat) (s : State) : Step State := eventM (·.rstep ctx n) s

/-- RFWD (22 R392, 23 R404). -/
def execRfwd (ctx n : Nat) (s : State) : Step State := eventM (·.rfwd ctx n) s

/-- RWIN (R404). -/
def execRwin (ctx n : Nat) (s : State) : Step State := eventM (·.rwin ctx n) s

/-- UNCORR_DATA (R405). -/
def execUncorrData (ctx : Nat) (st : Storage) (syn : Word) (s : State) : Step State := eventM (·.uncorrData ctx st syn) s

/-- CORRECTED_MEMORY_ERROR (26 R449). -/
def execCorrectedMemoryError (unit addr : Nat) (syn : Word) (s : State) : Step State := eventS (·.correctedError unit addr syn) s

/-- CHECKPOINT (R406). -/
def execCheckpoint (ctx : Nat) (s : State) : Step State := eventM (·.checkpoint ctx) s

/-- CHECKPOINT_COPY_END (R406). -/
def execCheckpointCopyEnd (ctx : Nat) (s : State) : Step State := eventS (·.copyEnd ctx) s

end Sys2Proof.Machine
end

