-- ==== Sys2Proof/Machine/Vector.lean ====
section
/-! DEFINITION. The meanings of the vector, conversion, flag, special-function and gang instructions (12): each one effect
of VecOps under its rule inside a region (R218, R370). -/

namespace Sys2Proof.Machine

/-- VADD (R219). -/
def execVadd (m : Option XMod) (g : Fin 8) (d a : Fin 256) (b : Opnd) (s : State) : Step State :=
  issueT (.vec (s.m.t.fpKeys a [b] []))
    (fpT m g d a b false (fun f c x y _ => f.add c false x y) s.m.cycle) s

/-- VSUB (R219). -/
def execVsub (m : Option XMod) (g : Fin 8) (d a : Fin 256) (b : Opnd) (s : State) : Step State :=
  issueT (.vec (s.m.t.fpKeys a [b] []))
    (fpT m g d a b false (fun f c x y _ => f.add c true x y) s.m.cycle) s

/-- VMUL (R219). -/
def execVmul (m : Option XMod) (g : Fin 8) (d a : Fin 256) (b : Opnd) (s : State) : Step State :=
  issueT (.vec (s.m.t.fpKeys a [b] []))
    (fpT m g d a b false (fun f c x y _ => f.mul c x y) s.m.cycle) s

/-- VFMA (R219). -/
def execVfma (m : Option XMod) (g : Fin 8) (d a : Fin 256) (b : Opnd) (s : State) : Step State :=
  issueT (.vec (s.m.t.fpKeys a [b] [d]))
    (fpT m g d a b true (fun f c x y z => f.fma c false false x y z) s.m.cycle) s

/-- VFMS (R219). -/
def execVfms (m : Option XMod) (g : Fin 8) (d a : Fin 256) (b : Opnd) (s : State) : Step State :=
  issueT (.vec (s.m.t.fpKeys a [b] [d]))
    (fpT m g d a b true (fun f c x y z => f.fma c false true x y z) s.m.cycle) s

/-- VFNMA (R219). -/
def execVfnma (m : Option XMod) (g : Fin 8) (d a : Fin 256) (b : Opnd) (s : State) : Step State :=
  issueT (.vec (s.m.t.fpKeys a [b] [d]))
    (fpT m g d a b true (fun f c x y z => f.fma c true false x y z) s.m.cycle) s

/-- VMIN (R219). -/
def execVmin (m : Option XMod) (g : Fin 8) (d a : Fin 256) (b : Opnd) (s : State) : Step State :=
  issueT (.vec (s.m.t.fpKeys a [b] []))
    (fpT m g d a b false (fun f c x y _ => f.minmax c false x y) s.m.cycle) s

/-- VMAX (R219). -/
def execVmax (m : Option XMod) (g : Fin 8) (d a : Fin 256) (b : Opnd) (s : State) : Step State :=
  issueT (.vec (s.m.t.fpKeys a [b] []))
    (fpT m g d a b false (fun f c x y _ => f.minmax c true x y) s.m.cycle) s

/-- VABS (R220). -/
def execVabs (m : Option XMod) (g : Fin 8) (d a : Fin 256) (s : State) : Step State :=
  issueT (.vec (s.m.t.fpKeys a [] [])) (signT m g d a fun v k => v &&& ~~~k) s

/-- VNEG (R220). -/
def execVneg (m : Option XMod) (g : Fin 8) (d a : Fin 256) (s : State) : Step State :=
  issueT (.vec (s.m.t.fpKeys a [] [])) (signT m g d a fun v k => v ^^^ k) s

/-- VDOT2 (R207, R221). -/
def execVdot2 (m : Option XMod) (g : Fin 8) (d a : Fin 256) (b : Opnd) (s : State) : Step State :=
  issueT (.vec (vecKeys a ++ keysB b ++ vecKeys d)) (dot2T m g d a b s.m.cycle) s

/-- VDOT4 (R207, R221). -/
def execVdot4 (m : Option XMod) (g : Fin 8) (d a : Fin 256) (b : Opnd) (s : State) : Step State :=
  issueT (.vec (vecKeys a ++ keysB b ++ vecKeys d)) (dot4T m g d a b s.m.cycle) s

/-- VCMP (R222). -/
def execVcmp (m : Option XMod) (g : Fin 8) (c : VCond) (p : Fin 8) (a b : Fin 256) (s : State) : Step State :=
  issueT (.vec (s.m.t.fpKeys a [.slot b] [])) (vcmpT m g c p a b s.m.cycle) s

/-- VSEL (R223). -/
def execVsel (_m : Option XMod) (g : Fin 8) (d a : Fin 256) (q : Fin 8) (s : State) : Step State :=
  issueT (.vec (vecKeys a)) (vmovT g d a (some q)) s

/-- VCLASS (R224). -/
def execVclass (m : Option XMod) (g : Fin 8) (d a : Fin 256) (s : State) : Step State :=
  issueT (.vec (s.m.t.fpKeys a [] [])) (vclassT m g d a) s

/-- VMOV (R223). -/
def execVmov (_m : Option XMod) (g : Fin 8) (d a : Fin 256) (s : State) : Step State :=
  issueT (.vec (vecKeys a)) (vmovT g d a none) s

/-- VIADD (R225). -/
def execViadd (m : Option XMod) (g : Fin 8) (d a : Fin 256) (b : Opnd) (s : State) : Step State :=
  issueT (.vec (vecKeys a ++ keysB b)) (intT m g d a b (satOp (satOf m) fun x y => x + y)) s

/-- VISUB (R225). -/
def execVisub (m : Option XMod) (g : Fin 8) (d a : Fin 256) (b : Opnd) (s : State) : Step State :=
  issueT (.vec (vecKeys a ++ keysB b)) (intT m g d a b (satOp (satOf m) fun x y => x - y)) s

/-- VIMUL (R225). -/
def execVimul (m : Option XMod) (g : Fin 8) (d a : Fin 256) (b : Opnd) (s : State) : Step State :=
  issueT (.vec (vecKeys a ++ keysB b)) (intT m g d a b (satOp (satOf m) fun x y => x * y)) s

/-- VAND (R225). -/
def execVand (m : Option XMod) (g : Fin 8) (d a : Fin 256) (b : Opnd) (s : State) : Step State :=
  issueT (.vec (vecKeys a ++ keysB b)) (intT m g d a b (fun _ x y => x &&& y)) s

/-- VOR (R225). -/
def execVor (m : Option XMod) (g : Fin 8) (d a : Fin 256) (b : Opnd) (s : State) : Step State :=
  issueT (.vec (vecKeys a ++ keysB b)) (intT m g d a b (fun _ x y => x ||| y)) s

/-- VXOR (R225). -/
def execVxor (m : Option XMod) (g : Fin 8) (d a : Fin 256) (b : Opnd) (s : State) : Step State :=
  issueT (.vec (vecKeys a ++ keysB b)) (intT m g d a b (fun _ x y => x ^^^ y)) s

/-- VSHL (R225). -/
def execVshl (m : Option XMod) (g : Fin 8) (d a : Fin 256) (b : Opnd) (s : State) : Step State :=
  issueT (.vec (vecKeys a ++ keysB b)) (intT m g d a b (fun w x y => x * 2 ^ (y % w))) s

/-- VSHR (R225): arithmetic under variant 1. -/
def execVshr (m : Option XMod) (g : Fin 8) (ar : Bool) (d a : Fin 256) (b : Opnd) (s : State) : Step State :=
  issueT (.vec (vecKeys a ++ keysB b))
    (intT m g d a b (if ar then sarOp else fun w x y => x / 2 ^ (y % w))) s

/-- VBCAST (R226). -/
def execVbcast (_m : Option XMod) (g : Fin 8) (z : BcSize) (d : Fin 256) (a : Opnd) (s : State) : Step State :=
  issueT (.vec (keysOf [a])) (vbcastT g z d a) s

/-- VSHUF (R227). -/
def execVshuf (m : Option XMod) (d a b : Fin 256) (s : State) : Step State :=
  issueT (.vec (vecKeys a ++ vecKeys b)) (vshufT m d a b) s

/-- VPERM (R227). -/
def execVperm (m : Option XMod) (d a b : Fin 256) (s : State) : Step State :=
  issueT (.vec (vecKeys a ++ vecKeys b)) (vpermT m d a b) s

/-- VRED (R228). -/
def execVred (m : Option XMod) (g : Fin 8) (d : Opnd) (src : RedSrc) (s : State) : Step State :=
  issueT (.vec (match src with | .lanes _ a => vecKeys a | .flag _ => [])) (vredT m g d src s.m.cycle) s

/-- VSCAN (R229). -/
def execVscan (m : Option XMod) (g : Fin 8) (o : ScanOp) (d a : Fin 256) (s : State) : Step State :=
  issueT (.vec (vecKeys a)) (vscanT m g o d a s.m.cycle) s

/-- VINS (R230). -/
def execVins (m : Option XMod) (g : Fin 8) (d : Fin 256) (a b : Opnd) (s : State) : Step State :=
  issueT (.vec (keysOf [a, b])) (vinsT m g d a b) s

/-- VEXT (R230). -/
def execVext (m : Option XMod) (d : Opnd) (a : Fin 256) (b : Opnd) (s : State) : Step State :=
  issueT (.vec (s.m.t.extKeys a b)) (vextT m d a b) s

/-- VLANEI (R230). -/
def execVlanei (g : Fin 8) (d : Fin 256) (s : State) : Step State :=
  issueT (.vec []) (vlaneiT g d) s

/-- CVT (R231). -/
def execCvt (m : Option XMod) (t : CvtTo) (d a : Opnd) (s : State) : Step State :=
  issueT (.vec (keysOf [a])) (cvtT m t d a s.m.cycle) s

/-- VCVT (R232). -/
def execVcvt (m : Option XMod) (g : Fin 8) (o : VcvtOp) (d a : Fin 256) (s : State) : Step State :=
  issueT (.vec (cvtKeys o a)) (vcvtT m g o d a s.m.cycle) s

/-- BLKPK (R200, R233). -/
def execBlkpk (m : Option XMod) (w : Blk) (nat : Bool) (d a : Fin 256) (s : State) : Step State :=
  issueT (.vec ((List.range (blkSlots w)).map fun i => slotKey (a.val + i))) (blkpkT m w nat d a s.m.cycle) s

/-- BLKUP (R201, R234). -/
def execBlkup (m : Option XMod) (bf : Bool) (d a : Fin 256) (s : State) : Step State :=
  issueT (.vec (vecKeys a)) (blkupT m bf d a s.m.cycle) s

/-- VPACK (R235). -/
def execVpack (m : Option XMod) (g : Fin 8) (t : PackFmt) (d a : Fin 256) (s : State) : Step State :=
  issueT (.vec (vecKeys a)) (vpackT m g t d a s.m.cycle) s

/-- VUNPK (R235). -/
def execVunpk (m : Option XMod) (g : Fin 8) (t : PackFmt) (d a : Fin 256) (s : State) : Step State :=
  issueT (.vec (unpkKeys t a)) (vunpkT m g t d a s.m.cycle) s

/-- FLRD (R236). -/
def execFlrd (g : Fin 8) (f : FlSel) (p : Fin 8) (s : State) : Step State :=
  issueT (.vec []) (flrdT g f p) s

/-- FLCLR (R237). -/
def execFlclr (g : Fin 8) (f : Option Flag) (s : State) : Step State :=
  issueT (.vec []) (flclrT g f) s

/-- VOTE (R238). -/
def execVote (g : Fin 8) (o : VoteOp) (d : Opnd) (src : VoteSrc) (s : State) : Step State :=
  issueT (.vec []) (voteT g o d src) s

/-- FLEN (R239). -/
def execFlen (m : Option XMod) (d a : Opnd) (s : State) : Step State :=
  issueT (.vec (keysOf [a])) (flenT m d a) s

/-- SFN (R240). -/
def execSfn (m : Option XMod) (f : Sfu) (d a : Opnd) (s : State) : Step State :=
  issueT (.vec (keysOf [a])) (sfnT m f d a s.m.cycle) s

/-- SFNV (R240). -/
def execSfnv (m : Option XMod) (g : Fin 8) (f : Sfu) (d a : Fin 256) (s : State) : Step State :=
  issueT (.vec (vecKeys a)) (sfnvT m g f d a s.m.cycle) s

/-- GANG (R243). -/
def execGang (n : GangSize) (s : State) : Step State :=
  issueT (.abort abForbidden) (gangT n) s

/-- DISBAND (R244). -/
def execDisband  (s : State) : Step State :=
  issueT (.abort abForbidden) disbandT s

end Sys2Proof.Machine
end

