-- ==== Sys2Proof/Machine/Dispatch.lean ====
section
/-! DEFINITION. One arm for each constructor of Instr: the meaning it has. -/

namespace Sys2Proof.Machine

def exec (i : Instr) (s : State) : Host.Outcome State Fault Refusal :=
  match i with
  | .add m d a b => Sys2Proof.Machine.execAdd m d a b s
  | .sub m d a b => Sys2Proof.Machine.execSub m d a b s
  | .and m d a b => Sys2Proof.Machine.execAnd m d a b s
  | .or m d a b => Sys2Proof.Machine.execOr m d a b s
  | .xor m d a b => Sys2Proof.Machine.execXor m d a b s
  | .shl m d a b => Sys2Proof.Machine.execShl m d a b s
  | .shr m d a b => Sys2Proof.Machine.execShr m d a b s
  | .sar m d a b => Sys2Proof.Machine.execSar m d a b s
  | .mul m d a b => Sys2Proof.Machine.execMul m d a b s
  | .mulh m d a b => Sys2Proof.Machine.execMulh m d a b s
  | .mulhn m d a b => Sys2Proof.Machine.execMulhn m d a b s
  | .min m d a b => Sys2Proof.Machine.execMin m d a b s
  | .max m d a b => Sys2Proof.Machine.execMax m d a b s
  | .minn m d a b => Sys2Proof.Machine.execMinn m d a b s
  | .maxn m d a b => Sys2Proof.Machine.execMaxn m d a b s
  | .andn m d a b => Sys2Proof.Machine.execAndn m d a b s
  | .div m d a b => Sys2Proof.Machine.execDiv m d a b s
  | .divn m d a b => Sys2Proof.Machine.execDivn m d a b s
  | .rem m d a b => Sys2Proof.Machine.execRem m d a b s
  | .remn m d a b => Sys2Proof.Machine.execRemn m d a b s
  | .lea m sc d a b => Sys2Proof.Machine.execLea m sc d a b s
  | .bfx m d a b => Sys2Proof.Machine.execBfx m d a b s
  | .bfi m d a b c => Sys2Proof.Machine.execBfi m d a b c s
  | .sel m d a b c => Sys2Proof.Machine.execSel m d a b c s
  | .addi m d a imm => Sys2Proof.Machine.execAddi m d a imm s
  | .movi d imm => Sys2Proof.Machine.execMovi d imm s
  | .mov m d a => Sys2Proof.Machine.execMov m d a s
  | .not m d a => Sys2Proof.Machine.execNot m d a s
  | .neg m d a => Sys2Proof.Machine.execNeg m d a s
  | .abs m d a => Sys2Proof.Machine.execAbs m d a s
  | .clz m d a => Sys2Proof.Machine.execClz m d a s
  | .ctz m d a => Sys2Proof.Machine.execCtz m d a s
  | .popc m d a => Sys2Proof.Machine.execPopc m d a s
  | .brev m d a => Sys2Proof.Machine.execBrev m d a s
  | .sextB m d a => Sys2Proof.Machine.execSextB m d a s
  | .sextH m d a => Sys2Proof.Machine.execSextH m d a s
  | .sextW m d a => Sys2Proof.Machine.execSextW m d a s
  | .zextB m d a => Sys2Proof.Machine.execZextB m d a s
  | .zextH m d a => Sys2Proof.Machine.execZextH m d a s
  | .zextW m d a => Sys2Proof.Machine.execZextW m d a s
  | .wid d n => Sys2Proof.Machine.execWid d n s
  | .shli m d a k => Sys2Proof.Machine.execShli m d a k s
  | .shri m d a k => Sys2Proof.Machine.execShri m d a k s
  | .sari m d a k => Sys2Proof.Machine.execSari m d a k s
  | .andi m d a imm => Sys2Proof.Machine.execAndi m d a imm s
  | .cmp m c p a b => Sys2Proof.Machine.execCmp m c p a b s
  | .cmpi m c p a imm => Sys2Proof.Machine.execCmpi m c p a imm s
  | .bc p off => Sys2Proof.Machine.execBc p off s
  | .bcN p off => Sys2Proof.Machine.execBcN p off s
  | .br off => Sys2Proof.Machine.execBr off s
  | .call off => Sys2Proof.Machine.execCall off s
  | .nop => Sys2Proof.Machine.execNop s
  | .bri a => Sys2Proof.Machine.execBri a s
  | .calli a => Sys2Proof.Machine.execCalli a s
  | .ret => Sys2Proof.Machine.execRet s
  | .loop m a off => Sys2Proof.Machine.execLoop m a off s
  | .yield => Sys2Proof.Machine.execYield s
  | .exit => Sys2Proof.Machine.execExit s
  | .ld m t z sp d a => Sys2Proof.Machine.execLd m t z sp d a s
  | .ldN m t z sp d a => Sys2Proof.Machine.execLdN m t z sp d a s
  | .st m z sp d a => Sys2Proof.Machine.execSt m z sp d a s
  | .ldv m g t sp d a => Sys2Proof.Machine.execLdv m g t sp d a s
  | .stv m g sp d a => Sys2Proof.Machine.execStv m g sp d a s
  | .ldx m d x k => Sys2Proof.Machine.execLdx m d x k s
  | .stx m d x k => Sys2Proof.Machine.execStx m d x k s
  | .xset x k => Sys2Proof.Machine.execXset x k s
  | .xadd x k => Sys2Proof.Machine.execXadd x k s
  | .vadd m g d a b => Sys2Proof.Machine.execVadd m g d a b s
  | .vsub m g d a b => Sys2Proof.Machine.execVsub m g d a b s
  | .vmul m g d a b => Sys2Proof.Machine.execVmul m g d a b s
  | .vfma m g d a b => Sys2Proof.Machine.execVfma m g d a b s
  | .vfms m g d a b => Sys2Proof.Machine.execVfms m g d a b s
  | .vfnma m g d a b => Sys2Proof.Machine.execVfnma m g d a b s
  | .vmin m g d a b => Sys2Proof.Machine.execVmin m g d a b s
  | .vmax m g d a b => Sys2Proof.Machine.execVmax m g d a b s
  | .vabs m g d a => Sys2Proof.Machine.execVabs m g d a s
  | .vneg m g d a => Sys2Proof.Machine.execVneg m g d a s
  | .vdot2 m g d a b => Sys2Proof.Machine.execVdot2 m g d a b s
  | .vdot4 m g d a b => Sys2Proof.Machine.execVdot4 m g d a b s
  | .vcmp m g c p a b => Sys2Proof.Machine.execVcmp m g c p a b s
  | .vsel m g d a q => Sys2Proof.Machine.execVsel m g d a q s
  | .vclass m g d a => Sys2Proof.Machine.execVclass m g d a s
  | .vmov m g d a => Sys2Proof.Machine.execVmov m g d a s
  | .viadd m g d a b => Sys2Proof.Machine.execViadd m g d a b s
  | .visub m g d a b => Sys2Proof.Machine.execVisub m g d a b s
  | .vimul m g d a b => Sys2Proof.Machine.execVimul m g d a b s
  | .vand m g d a b => Sys2Proof.Machine.execVand m g d a b s
  | .vor m g d a b => Sys2Proof.Machine.execVor m g d a b s
  | .vxor m g d a b => Sys2Proof.Machine.execVxor m g d a b s
  | .vshl m g d a b => Sys2Proof.Machine.execVshl m g d a b s
  | .vshr m g ar d a b => Sys2Proof.Machine.execVshr m g ar d a b s
  | .vbcast m g z d a => Sys2Proof.Machine.execVbcast m g z d a s
  | .vshuf m d a b => Sys2Proof.Machine.execVshuf m d a b s
  | .vperm m d a b => Sys2Proof.Machine.execVperm m d a b s
  | .vred m g d src => Sys2Proof.Machine.execVred m g d src s
  | .vscan m g o d a => Sys2Proof.Machine.execVscan m g o d a s
  | .vins m g d a b => Sys2Proof.Machine.execVins m g d a b s
  | .vext m d a b => Sys2Proof.Machine.execVext m d a b s
  | .vlanei g d => Sys2Proof.Machine.execVlanei g d s
  | .cvt m t d a => Sys2Proof.Machine.execCvt m t d a s
  | .vcvt m g o d a => Sys2Proof.Machine.execVcvt m g o d a s
  | .blkpk m w nat d a => Sys2Proof.Machine.execBlkpk m w nat d a s
  | .blkup m bf d a => Sys2Proof.Machine.execBlkup m bf d a s
  | .vpack m g t d a => Sys2Proof.Machine.execVpack m g t d a s
  | .vunpk m g t d a => Sys2Proof.Machine.execVunpk m g t d a s
  | .tagset m g t d a => Sys2Proof.Machine.execTagset m g t d a s
  | .tagget m g d a => Sys2Proof.Machine.execTagget m g d a s
  | .flrd g f p => Sys2Proof.Machine.execFlrd g f p s
  | .flclr g f => Sys2Proof.Machine.execFlclr g f s
  | .vote g o d src => Sys2Proof.Machine.execVote g o d src s
  | .flen m d a => Sys2Proof.Machine.execFlen m d a s
  | .sfn m f d a => Sys2Proof.Machine.execSfn m f d a s
  | .sfnv m g f d a => Sys2Proof.Machine.execSfnv m g f d a s
  | .gang n => Sys2Proof.Machine.execGang n s
  | .disband => Sys2Proof.Machine.execDisband s
  | .mop m ta tb q a b => Sys2Proof.Machine.execMop m ta tb q a b s
  | .mops m ta tb q a b => Sys2Proof.Machine.execMops m ta tb q a b s
  | .mconv m f ac q a => Sys2Proof.Machine.execMconv m f ac q a s
  | .mwait q => Sys2Proof.Machine.execMwait q s
  | .mstat d q => Sys2Proof.Machine.execMstat d q s
  | .msched m a b => Sys2Proof.Machine.execMsched m a b s
  | .mzero q e => Sys2Proof.Machine.execMzero q e s
  | .mqw k => Sys2Proof.Machine.execMqw k s
  | .ecmd m a => Sys2Proof.Machine.execEcmd m a s
  | .ecpy m ds ss d a b c => Sys2Proof.Machine.execEcpy m ds ss d a b c s
  | .egath m ds d a b c => Sys2Proof.Machine.execEgath m ds d a b c s
  | .escat m ss d a b c => Sys2Proof.Machine.execEscat m ss d a b c s
  | .esub m a b => Sys2Proof.Machine.execEsub m a b s
  | .ecoll m a b => Sys2Proof.Machine.execEcoll m a b s
  | .ebmp m d a => Sys2Proof.Machine.execEbmp m d a s
  | .mloadb m d a b => Sys2Proof.Machine.execMloadb m d a b s
  | .ldfe m d a => Sys2Proof.Machine.execLdfe m d a s
  | .ldff m d a => Sys2Proof.Machine.execLdff m d a s
  | .stfe m d a => Sys2Proof.Machine.execStfe m d a s
  | .feset m a => Sys2Proof.Machine.execFeset m a s
  | .feclr m a => Sys2Proof.Machine.execFeclr m a s
  | .xst m a src => Sys2Proof.Machine.execXst m a src s
  | .axchg m z sp d a b => Sys2Proof.Machine.execAxchg m z sp d a b s
  | .acas m z sp d a b c => Sys2Proof.Machine.execAcas m z sp d a b c s
  | .aadd m z sp d a b => Sys2Proof.Machine.execAadd m z sp d a b s
  | .aand m z sp d a b => Sys2Proof.Machine.execAand m z sp d a b s
  | .aor m z sp d a b => Sys2Proof.Machine.execAor m z sp d a b s
  | .axor m z sp d a b => Sys2Proof.Machine.execAxor m z sp d a b s
  | .amin m z sp d a b => Sys2Proof.Machine.execAmin m z sp d a b s
  | .amax m z sp d a b => Sys2Proof.Machine.execAmax m z sp d a b s
  | .fence m => Sys2Proof.Machine.execFence m s
  | .pvis => Sys2Proof.Machine.execPvis s
  | .binit m a b => Sys2Proof.Machine.execBinit m a b s
  | .barr m a b => Sys2Proof.Machine.execBarr m a b s
  | .bwait m k d a => Sys2Proof.Machine.execBwait m k d a s
  | .gbar m d a => Sys2Proof.Machine.execGbar m d a s
  | .larm m a => Sys2Proof.Machine.execLarm m a s
  | .learly => Sys2Proof.Machine.execLearly s
  | .rnext d => Sys2Proof.Machine.execRnext d s
  | .msend m a => Sys2Proof.Machine.execMsend m a s
  | .tblk m a => Sys2Proof.Machine.execTblk m a s
  | .tunblk m a => Sys2Proof.Machine.execTunblk m a s
  | .spawn m d a b => Sys2Proof.Machine.execSpawn m d a b s
  | .lpatch m d a k => Sys2Proof.Machine.execLpatch m d a k s
  | .tans m d => Sys2Proof.Machine.execTans m d s
  | .tret m a => Sys2Proof.Machine.execTret m a s
  | .tdone => Sys2Proof.Machine.execTdone s
  | .tfail m a => Sys2Proof.Machine.execTfail m a s
  | .trel m => Sys2Proof.Machine.execTrel m s
  | .tcall m f off => Sys2Proof.Machine.execTcall m f off s
  | .tinfo m d k => Sys2Proof.Machine.execTinfo m d k s
  | .acommit => Sys2Proof.Machine.execAcommit s
  | .astat d => Sys2Proof.Machine.execAstat d s
  | .abegin off => Sys2Proof.Machine.execAbegin off s
  | .aabort k => Sys2Proof.Machine.execAabort k s
  | .rfe => Sys2Proof.Machine.execRfe s
  | .wmark d => Sys2Proof.Machine.execWmark d s
  | .pref m k a => Sys2Proof.Machine.execPref m k a s
  | .tlbinv m a => Sys2Proof.Machine.execTlbinv m a s
  | .halt => Sys2Proof.Machine.execHalt s
  | .trap k => Sys2Proof.Machine.execTrap k s
  | .sysc k => Sys2Proof.Machine.execSysc k s
  | .crr d k => Sys2Proof.Machine.execCrr d k s
  | .crw m a k => Sys2Proof.Machine.execCrw m a k s
  | .brk k => Sys2Proof.Machine.execBrk k s
  | .faultResolved r w => Sys2Proof.Machine.execFaultResolved r w s
  | .faultRefused r => Sys2Proof.Machine.execFaultRefused r s
  | .syscServe g r1 r2 rl => Sys2Proof.Machine.execSyscServe g r1 r2 rl s
  | .parkResolved g => Sys2Proof.Machine.execParkResolved g s
  | .accessPerformed n => Sys2Proof.Machine.execAccessPerformed n s
  | .taskSeat core => Sys2Proof.Machine.execTaskSeat core s
  | .taskAging g => Sys2Proof.Machine.execTaskAging g s
  | .continuationMigrate g => Sys2Proof.Machine.execContinuationMigrate g s
  | .steal core slot => Sys2Proof.Machine.execSteal core slot s
  | .gangForm g => Sys2Proof.Machine.execGangForm g s
  | .earlyStart ctx r => Sys2Proof.Machine.execEarlyStart ctx r s
  | .recordRetire ctx r => Sys2Proof.Machine.execRecordRetire ctx r s
  | .tableClearFailed ctx => Sys2Proof.Machine.execTableClearFailed ctx s
  | .tableGrow ctx dbl ans keys => Sys2Proof.Machine.execTableGrow ctx dbl ans keys s
  | .messageArrival g => Sys2Proof.Machine.execMessageArrival g s
  | .msendRetryTimer g => Sys2Proof.Machine.execMsendRetryTimer g s
  | .tileOpStart cl => Sys2Proof.Machine.execTileOpStart cl s
  | .tileOpFinal cl => Sys2Proof.Machine.execTileOpFinal cl s
  | .mconvComplete cl core => Sys2Proof.Machine.execMconvComplete cl core s
  | .metadataStallTimeout cl => Sys2Proof.Machine.execMetadataStallTimeout cl s
  | .scheduleEntry cl core => Sys2Proof.Machine.execScheduleEntry cl core s
  | .scheduleEnd cl core => Sys2Proof.Machine.execScheduleEnd cl core s
  | .kaolinLoad cl => Sys2Proof.Machine.execKaolinLoad cl s
  | .kaolinLoadComplete cl => Sys2Proof.Machine.execKaolinLoadComplete cl s
  | .kick e ctx core g => Sys2Proof.Machine.execKick e ctx core g s
  | .registerWrite e ctx off bs => Sys2Proof.Machine.execRegisterWrite e ctx off bs s
  | .commandForward cl n => Sys2Proof.Machine.execCommandForward cl n s
  | .engineOperationStart e => Sys2Proof.Machine.execEngineOperationStart e s
  | .chunkComplete e k => Sys2Proof.Machine.execChunkComplete e k s
  | .engineOperationEnd e => Sys2Proof.Machine.execEngineOperationEnd e s
  | .engineFault e => Sys2Proof.Machine.execEngineFault e s
  | .metadataPush cl => Sys2Proof.Machine.execMetadataPush cl s
  | .streamTileLoad e n => Sys2Proof.Machine.execStreamTileLoad e n s
  | .streamTileStore e n => Sys2Proof.Machine.execStreamTileStore e n s
  | .streamEnd e n => Sys2Proof.Machine.execStreamEnd e n s
  | .commitAtHome g => Sys2Proof.Machine.execCommitAtHome g s
  | .collectiveStep die n bs => Sys2Proof.Machine.execCollectiveStep die n bs s
  | .collectiveHold die ctx => Sys2Proof.Machine.execCollectiveHold die ctx s
  | .collectiveResume die ctx => Sys2Proof.Machine.execCollectiveResume die ctx s
  | .memberAbort die ctx g => Sys2Proof.Machine.execMemberAbort die ctx g s
  | .dump ctx bad => Sys2Proof.Machine.execDump ctx bad s
  | .haltLine ctx dbg => Sys2Proof.Machine.execHaltLine ctx dbg s
  | .unitStop u ctx => Sys2Proof.Machine.execUnitStop u ctx s
  | .haltComplete ctx => Sys2Proof.Machine.execHaltComplete ctx s
  | .contextResume ctx w => Sys2Proof.Machine.execContextResume ctx w s
  | .preempt gs => Sys2Proof.Machine.execPreempt gs s
  | .contextSwitch ctx nxt => Sys2Proof.Machine.execContextSwitch ctx nxt s
  | .watchStrike w striker who addr n old seq => Sys2Proof.Machine.execWatchStrike w striker who addr n old seq s
  | .step g => Sys2Proof.Machine.execStep g s
  | .windowMarker ctx cause => Sys2Proof.Machine.execWindowMarker ctx cause s
  | .siltThreshold ctx => Sys2Proof.Machine.execSiltThreshold ctx s
  | .siltShed ctx => Sys2Proof.Machine.execSiltShed ctx s
  | .siltStall ctx => Sys2Proof.Machine.execSiltStall ctx s
  | .rstep ctx n => Sys2Proof.Machine.execRstep ctx n s
  | .rfwd ctx n => Sys2Proof.Machine.execRfwd ctx n s
  | .rwin ctx n => Sys2Proof.Machine.execRwin ctx n s
  | .uncorrData ctx st syn => Sys2Proof.Machine.execUncorrData ctx st syn s
  | .correctedMemoryError unit addr syn => Sys2Proof.Machine.execCorrectedMemoryError unit addr syn s
  | .checkpoint ctx => Sys2Proof.Machine.execCheckpoint ctx s
  | .checkpointCopyEnd ctx => Sys2Proof.Machine.execCheckpointCopyEnd ctx s
  | .linkGridDump rows uj room => Sys2Proof.Machine.execLinkGridDump rows uj room s
  | .energyInterval active blocks => Sys2Proof.Machine.execEnergyInterval active blocks s
  | .powerDoze b => Sys2Proof.Machine.execPowerDoze b s
  | .powerRetain b => Sys2Proof.Machine.execPowerRetain b s
  | .powerOff b => Sys2Proof.Machine.execPowerOff b s
  | .powerWake b => Sys2Proof.Machine.execPowerWake b s
  | .wakeTimeout b => Sys2Proof.Machine.execWakeTimeout b s
  | .clockStretch b on temp => Sys2Proof.Machine.execClockStretch b on temp s
  | .thermalTrip unit temp => Sys2Proof.Machine.execThermalTrip unit temp s
  | .supplyFault rail => Sys2Proof.Machine.execSupplyFault rail s
  | .attestation ctx nonce => Sys2Proof.Machine.execAttestation ctx nonce s
  | .debugGrant ses lv ctx token => Sys2Proof.Machine.execDebugGrant ses lv ctx token s
  | .debugRequest ses ctx op blk => Sys2Proof.Machine.execDebugRequest ses ctx op blk s
  | .lifecycleTransition dst token release => Sys2Proof.Machine.execLifecycleTransition dst token release s
  | .rinairFlitError p => Sys2Proof.Machine.execRinairFlitError p s
  | .portDown p => Sys2Proof.Machine.execPortDown p s
  | .remoteAccessArrival p pa acc => Sys2Proof.Machine.execRemoteAccessArrival p pa acc s
  | .msiXInterrupt vec => Sys2Proof.Machine.execMsiXInterrupt vec s
  | .dmaWrite port pa bs ctx => Sys2Proof.Machine.execDmaWrite port pa bs ctx s
  | .completionTimeout g => Sys2Proof.Machine.execCompletionTimeout g s
  | .surpriseRemoval port => Sys2Proof.Machine.execSurpriseRemoval port s
  | .powerOnReset fail => Sys2Proof.Machine.execPowerOnReset fail s
  | .watchdogExpiry panic => Sys2Proof.Machine.execWatchdogExpiry panic s
  | .registryReadopt ctx found => Sys2Proof.Machine.execRegistryReadopt ctx found s
  | .killContext ctx => Sys2Proof.Machine.execKillContext ctx s
  | .contextCreate ci => Sys2Proof.Machine.execContextCreate ci s
  | .shaleFlitError ep vc => Sys2Proof.Machine.execShaleFlitError ep vc s
  | .shaleEndpointFailure ep => Sys2Proof.Machine.execShaleEndpointFailure ep s
  | .kernelMemoryError pa syn => Sys2Proof.Machine.execKernelMemoryError pa syn s
  | .offlineBlock b => Sys2Proof.Machine.execOfflineBlock b s
  | .portRetrain p => Sys2Proof.Machine.execPortRetrain p s
  | .portUp p keyOk => Sys2Proof.Machine.execPortUp p keyOk s
  | .hotPlug port => Sys2Proof.Machine.execHotPlug port s
  | .aerError port uncorr status => Sys2Proof.Machine.execAerError port uncorr status s
  | .checkpointRestore ci mac => Sys2Proof.Machine.execCheckpointRestore ci mac s
  | .siltRegionEnlarge ctx bytes drop => Sys2Proof.Machine.execSiltRegionEnlarge ctx bytes drop s

end Sys2Proof.Machine
end

