-- ==== Sys2Proof/Machine/Step.lean ====
section
/-! DEFINITION. One step (04 R61, log entry 2): the next event of the agenda, else the next thread's instruction, after which one
event that is due joins the agenda. -/

namespace Sys2Proof.Machine

/-- An event is due: its meaning changes the state. -/
def State.isDue (s : State) (i : Instr) : Bool := match exec i s with
  | .next s1 => decide (s1 ≠ s)
  | _ => false

/-- The event that is due, in the order that the cycle gives. DESIGN CHOICE, log entry 2. -/
def State.dueEvent (s : State) : Option Instr := (rotated s.candidates s.m.cycle).find? s.isDue

/-- A due event joins the agenda. DESIGN CHOICE, log entry 2. -/
def State.withDue (s : State) : State := match s.dueEvent with
  | some i => { s with agenda := s.agenda ++ [i] }
  | none => s

/-- What follows an instruction: the errors it detected enter the ring, a due event joins the agenda, the next thread has its
turn. DESIGN CHOICE, log entry 2. DEDUCED, log entry 73. -/
def State.after (s : State) : State :=
  let s1 := s.flushErrs.withDue
  { s1 with m := s1.m.turn.getD s1.m }

/-- An outcome carried on. -/
def onNext {φ ρ : Type} (f : State → State) : Host.Outcome State φ ρ → Host.Outcome State φ ρ
  | .next s => .next (f s)
  | .fault r => .fault r
  | .refused r => .refused r

/-- An instruction that has met a translation its cluster's TLB did not hold parks with nothing of it done (04 R64, 15 R287). -/
def State.orMiss (s : State) (i : Instr) (s1 : State) : State :=
  if !neverParks i && s.m.gained s1.m then { s with m := s.m.missed s1.m } else s1

/-- The instruction of the thread in focus (03 R56, 04 R63, 24 R413). -/
def stepThread (s : State) : Step State :=
  match s.m.t.nack with
  | some a => .next { s with m := s.m.nackTrap a }
  | none =>
    if s.m.breaksAt s.m.t then .next { s with m := s.m.debugStop s.m.t.gid brkTrap }
    else
      match s.m.fetch with
      | .error e => .next { s with m := s.m.note1.conclude (.error e) }
      | .ok (i, m1) =>
        match s.m.miss m1 i with
        | some m2 => .next { s with m := m2 }
        | none => onNext (s.orMiss i) (exec i { s with m := ((m1.useCode m1.t.core m1.codeLines).useLines i).note1 })

/-- What follows every step on the chip. -/
def State.settle (s : State) (was : List Gid) : State := { s with m := s.m.upkeep was }

/-- One step. DESIGN CHOICE, log entry 2. -/
def step (s : State) : Host.Outcome State Fault Refusal :=
  match s.agenda with
  | i :: rest =>
    if i.enc.isSome then .fault .notAnEvent else onNext (·.settle s.m.runnable) (exec i { s with agenda := rest })
  | [] =>
    if s.m.issues s.m.t && s.m.wait s.m.t == 0 then
      onNext (fun s1 => (s1.settle (s.m.runnable.erase s.m.t.gid)).after) (stepThread s)
    else match s.m.turn with
      | some m1 => .next { s with m := m1 }
      | none => match s.dueEvent with
        | some i => .next { s with agenda := [i] }
        | none => .next { s with m := s.m.pass 1 }

/-! ### A program placed (log entry 5) -/

/-- The halfwords of a word of nbits, as the table numbers them, and three that are zero.
DESIGN CHOICE, log entry 5. DEDUCED, log entry 6. -/
def wordBytes (nbits w : Nat) : List Byte := (tableHalfwords nbits w).flatMap (fun h => leBytes h.toNat 2) ++ leBytes 0 6

/-- The table entries that map 512 MiB from virtual address 2^29 on to physical address 2^30, readable, writable and executable:
a root table at physical 2^20 and a second table at 2^21. DESIGN CHOICE, log entry 5. -/
def placedTables : List (Nat × Byte) :=
  cellsFrom (2 ^ 20) (leBytes (2 ^ 21 + 1) 8) ++ cellsFrom (2 ^ 21 + 8) (leBytes (2 ^ 30 + 0x1F) 8)

/-- The context that runs the placed program. DESIGN CHOICE, log entry 5. -/
def placedCtx : Ctx :=
  { valid := true, root := 2 ^ 20, silt := { size := 2 ^ 30 }
    loam := { nsets := 16, ansFree := 64, keyFree := 64, base := 2 ^ 26, va := 2 ^ 26
              ansExt := [(2 ^ 26 + 2 ^ 15, 64)], keyExt := [(2 ^ 26 + 2 ^ 15 + 2 ^ 12, 64)] }
    poolAt := 2 ^ 27, imagesAt := 2 ^ 28, nextSerial := 1002, blocks := [(0, (2, 1000))] }

/-- The task that runs it: seated on core 0, on the slot whose turn it is. DESIGN CHOICE, log entry 5. -/
def placedTask (cycle : Nat) : Task :=
  { gid := 1, pc := BitVec.ofNat 64 (2 ^ 29), npc := BitVec.ofNat 64 (2 ^ 29), seat := some (0, cycle % 16), lines := some 0,
    ctl := { alloc := 256, viewV := ⟨32, 0⟩, viewT := ⟨4, 0⟩, viewC := ⟨4, 0⟩ } }

/-- The translation of the placed program's page. DESIGN CHOICE, log entry 5. -/
def placedTlb : TlbEnt := { ctx := 0, va := 2 ^ 29, pa := 2 ^ 30, size := 2 ^ 29, attr := 0x1F }

/-- The state with an instruction of the opcode table placed where the next fetch reads it: the module booted, a partition of
cluster 0 and stack 0, a context and its task, the page tables and the code. DESIGN CHOICE, log entry 5. -/
def State.withFetchWord (s : State) (nbits w : Nat) : State :=
  let code := wordBytes nbits w
  { s with
    agenda := []
    m := { s.m with
           t := placedTask s.m.cycle, others := []
           ctxs := Tab.put {} s.m.ctxs 0 placedCtx
           tlb := Tab.put [] s.m.tlb 0 [placedTlb]
           icache := Tab.put [] s.m.icache 0 [2 ^ 24]
           parts := Tab.put {} s.m.parts 0 { clusters := [0], hbmStacks := [0] }
           mem := pokeMem (pokeCells s.m.mem placedTables) (2 ^ 30) code }
    sys := { s.sys with booted := true, kernel := true, step := 6, lifecycle := .provisioned } }

end Sys2Proof.Machine
end

