-- ==== Sys2Proof/WellFormed.lean ====
section
/-! DEFINITION. The well-formed instructions: those the encoding can say, field by field (03 R34 to R56). -/

namespace Sys2Proof

/-- An instruction's fields stand in the ranges and roles of its row; an event is well-formed as it is. -/
def Instr.wf (i : Instr) : Bool := match i.enc with
  | some (s, f) => f.ok s
  | none => true

end Sys2Proof
end

