-- ==== Sys2Proof/Safety.lean ====
section
/-! DEFINITION. The terms in which the statements speak: when an instruction is free to complete, what a completed
instruction may have changed, and the order of the security lifecycle. -/

namespace Sys2Proof.Machine

/-! ### When the instruction of the task in focus completes -/

/-- The task in focus issues outside a reconciling region (20 R363) and waits for nothing (04 R63, R64). -/
def State.plain (s : State) : Prop := s.m.t.region = none ∧ s.m.t.phase = .ready

/-- Every scalar operand lies below ALLOC (08 R149, R469). -/
def State.fit (s : State) (os : List Opnd) : Prop := ∀ j, Opnd.slot j ∈ os → j.val < s.m.t.ctl.alloc.toNat

/-- Every operand's tag is one a raw integer operand accepts (05 R85), or is converted (08 R160). -/
def State.rawOk (s : State) (m : Option XMod) (os : List Opnd) : Prop :=
  ∀ o ∈ os, s.m.t.conv m = true ∨ s.m.t.tag o = .raw ∨ s.m.t.tag o = .addr ∨ s.m.t.tag o = .unwritten

/-- What an integer instruction needs: it issues, its operands lie below ALLOC, and those it reads are raw. -/
def State.ready (s : State) (m : Option XMod) (os srcs : List Opnd) : Prop := s.plain ∧ s.fit os ∧ s.rawOk m srcs

/-! ### What a completed instruction has changed -/

/-- s with another task in focus, whose instruction has completed: its pc stands at the next instruction. -/
def State.done (s : State) (t : Task) : State := { s with m := { s.m with t := t.retire } }

/-- s with its thread parked on the SFU, which owes it an image and its followers' (12 R240). -/
def State.owes (s : State) (img : Image) (fol : List Image) : State :=
  { s with m := { s.m with t := { s.m.t with phase := .parked .sfu, owed := some ⟨img, fol, none⟩ } } }

/-- s1 is s after an instruction that wrote the registers of ks at most, and nothing else but the pc and the passes of
R389, R413 and R414 that a completed instruction uses up. -/
def State.wroteOnly (s s1 : State) (ks : List Nat) : Prop :=
  ∃ regs, s1 = s.done { s.m.t with img := { s.m.t.img with regs := regs } } ∧
    ∀ k, k ∉ ks → Tab.look RCell.fresh regs k = s.m.t.cell k

/-- The instruction completes with the value v, tagged g and unmarked, in d and in lt (01 R12, R13), every other register
and the rest of the state as they were. -/
def Gives (i : Instr) (s : State) (d : Opnd) (v : Word) (g : Tag) : Prop :=
  ∃ s1, exec i s = .next s1 ∧ s1.m.t.cell d.key = ⟨v, g, none⟩ ∧ s1.m.t.cell 0 = ⟨v, g, none⟩ ∧ s.wroteOnly s1 [d.key, 0]

/-- The instruction raises a trap of the task itself, outside a gang's followers: the next state is the one that taking
the exception gives (09 R165 to R167), and the instruction has no other effect. -/
def Traps (i : Instr) (s : State) (code : Nat) (addr : Word) : Prop := exec i s = .next { s with m := s.m.raise code addr 0 0 0 }

/-- The access of an instruction is refused at its address (15 R285, 16 R298): the trap of the cause, raised with the access and
the address, and no other effect. -/
def Faults (i : Instr) (s : State) (cause acc : Nat) (va : Word) : Prop :=
  exec i s = .next { s with m := { s.m.raise (faultCode cause) va 0 cause acc with free := s.m.free + 1 } }

/-! ### Vector results (12 R212 to R217) -/

/-- Every vector operand is a register of the vector view (08 R157), and every scalar one lies below ALLOC. -/
def State.vfit (s : State) (vs : List (Fin 256)) (os : List Opnd) : Prop :=
  (∀ v ∈ vs, s.m.t.ctl.viewV.bad 8 1 v.val = none) ∧ s.fit os

/-- No FP event is enabled (11 R208). -/
def State.quietFp (s : State) : Prop := s.m.t.ctl.flgEn.toNat % 32 = 0

/-- In every member of the gang every tag of a list passes as one of those wanted (08 R160). -/
def State.vtags (s : State) (m : Option XMod) (want : List Tag) (l : Nat → List Tag) : Prop :=
  ∀ j, j < s.m.t.gangSize → s.m.t.conv m = true ∨ ∀ g ∈ l j, g = .unwritten ∨ g ∈ want

/-- Slot k of the vector register at slot d has an enabled lane. -/
def slotOn (en : Mask) (k : Nat) : Bool := en.getLsbD (2 * k) || en.getLsbD (2 * k + 1)

/-- An image with the enabled lanes of the vector register at slot d written: their values, the tag of the slots that hold
one, everything else but the flags as it was (R214). -/
def Image.lanesWritten (g g1 : Image) (d : Nat) (en : Mask) (v : Nat → BitVec 32) (tag : Tag) : Prop :=
  g1.p = g.p ∧
  (∀ i, i < 16 → en.getLsbD i = true → g1.lane d i = v i) ∧
  (∀ i, i < 16 → en.getLsbD i = false → g1.lane d i = g.lane d i) ∧
  (∀ k, k < 8 → slotOn en k = true → (g1.cell (slotKey (d + k))).tag = tag) ∧
  (∀ k, k < 8 → slotOn en k = false → g1.cell (slotKey (d + k)) = g.cell (slotKey (d + k))) ∧
  (∀ n, (∀ k, k < 8 → n ≠ slotKey (d + k)) → g1.cell n = g.cell n)

/-- The instruction completes; in every member j of the gang the lanes of en j take the values v j in the vector register at
slot d, tagged tag j, and fl gains the flags fl j; nothing else changes but the pc. -/
def VecGives (i : Instr) (s : State) (d : Nat) (en : Nat → Mask) (v : Nat → Nat → BitVec 32) (tag : Nat → Tag)
    (fl : Nat → Flags) : Prop :=
  ∃ t1, exec i s = .next (s.done t1) ∧ t1.fol.length = s.m.t.fol.length ∧
    t1 = { s.m.t with img := t1.img, fol := t1.fol } ∧
    ∀ j, j < s.m.t.gangSize →
      (s.m.t.member j).lanesWritten (t1.member j) d (en j) (v j) (tag j) ∧ (t1.member j).fl = (s.m.t.member j).fl.or (fl j)

/-! ### Cursors (06 R117, R118) -/

/-- a7 holds a valid handle of cursor n of the task in focus, which stands at k. -/
def State.handle (s : State) (n : Nat) (k : Cursor) : Prop :=
  let h := (s.m.t.val a7).toNat
  h < 2 ^ 32 ∧ h / 32 % 8 = 0 ∧ h % 32 = n ∧ s.m.t.cursor n = some k ∧ k.gen = h / 256 % 2 ^ 24 ∧
  (s.m.entry s.m.cur k.entry).creation = k.creation ∧ (s.m.entry s.m.cur k.entry).state ≠ .free

/-! ### Memory at rest -/

/-- Nothing else reacts to the accesses of the task in focus: no weak store waits (16 R302), its cluster's tracker has entries left
for a gang's accesses (15 R292), the log has room for a record (23 R401), no watchpoint is armed (22 R387), no other task waits at a
scratchpad (16 R310), and the task has struck nothing (22 R390). -/
structure State.atRest (s : State) : Prop where
  weak : s.m.weak = []
  entries : s.m.tracked (clusterOf s.m.t.core) + 8 ≤ 750
  room : (s.m.ctx s.m.cur).silt.room 96 = true
  watch : s.m.t.watchEn = false
  others : ∀ t ∈ s.m.others, t.watchEn = false ∧ t.inWait = false
  struck : s.m.hasStruck s.m.cur (threadParty s.m.t.core) s.m.t.gid = false

/-- The log has room for a mark of n lines: its group's header, and a record of at most a line for each (23 R395, R397, R401). -/
def State.roomy (s : State) (n : Nat) : Prop := (s.m.ctx s.m.cur).silt.room (32 + 96 * n) = true

/-- A bound on the lines of the table region that a change of entries of a list writes: those of each entry, of its answers and of
its key, before and after (06 R115, 23 R397). -/
def Mach.lineBound (m : Mach) (c : Nat) (is : List Nat) : Nat :=
  (is.map fun i => 5 + 2 * ((m.entry c i).ansCells.length + (m.entry c i).keyCells.length)).sum

/-- A place in the memory of the module or in a core's buffers (17 R320). -/
def Loc.inside (l : Loc) : Prop := l.home = .hbm ∨ ∃ c, l.home = .cluster c

/-- Byte i of a word, the lowest first (00 R10). -/
def byteOf (v : Word) (i : Nat) : Byte := BitVec.ofNat 8 (v.toNat / 256 ^ i)

/-- n bytes of memory from a key as a number, the lowest first (00 R10). -/
def Mach.number (m : Mach) (k n : Nat) : Nat := ((List.range n).map fun i => (m.byte (k + i)).toNat * 256 ^ i).sum

/-- What a load delivers: n bytes zero-extended, or sign-extended (16 R304). -/
def Mach.loaded (m : Mach) (k n : Nat) (zext : Bool) : Word :=
  if zext then BitVec.ofNat 64 (m.number k n) else (BitVec.ofNat (8 * n) (m.number k n)).signExtend 64

/-- n bytes from a key on hold f, and every other byte of memory is as it was. -/
def Mach.storedAt (m m1 : Mach) (k n : Nat) (f : Nat → Byte) : Prop :=
  (∀ i, i < n → m1.byte (k + i) = f i) ∧ ∀ j, (j < k ∨ k + n ≤ j) → m1.byte j = m.byte j

/-- Outside the task in focus, the translations held and the places in the order of requests, a load changes nothing. -/
def State.onlyRead (s s1 : State) : Prop :=
  s1.sys = s.sys ∧ s1.agenda = s.agenda ∧ s1.m.mem = s.m.mem ∧ s1.m.fe = s.m.fe ∧ s1.m.front = s.m.front ∧
  s1.m.ctxs = s.m.ctxs ∧ s1.m.others = s.m.others ∧ s1.m.windows = s.m.windows ∧ s1.m.weak = s.m.weak ∧ s1.m.chans = s.m.chans ∧
  s1.m.ext = s.m.ext ∧ s1.m.errs = s.m.errs ∧ s1.m.irqs = s.m.irqs ∧ s1.m.cycle = s.m.cycle

/-- Outside memory, the log, the translations held and the places in the order of requests, a store changes nothing; the
task in focus only advances, or parks until its home has answered (16 R307). -/
def State.onlyWrote (s s1 : State) (l : Loc) : Prop :=
  s1.sys = s.sys ∧ s1.agenda = s.agenda ∧ s1.m.front = s.m.front ∧ s1.m.others = s.m.others ∧ s1.m.windows = s.m.windows ∧
  s1.m.weak = s.m.weak ∧ s1.m.chans = s.m.chans ∧ s1.m.ext = s.m.ext ∧ s1.m.errs = s.m.errs ∧ s1.m.irqs = s.m.irqs ∧
  s1.m.cycle = s.m.cycle ∧
  s1.m.t = (if parks l then { s.m.t with phase := .parked .mem } else s.m.t).retire

/-- The append a write makes in the log of its context: the mark of an irreversible page (23 R402), or the record of what it
replaces (23 R393, R397). -/
def State.logged (s s1 : State) (l : Loc) (n : Nat) : Prop :=
  let party := threadParty s.m.t.core
  s1.m.ctxs = if l.irrev then Tab.upd {} s.m.ctxs s.m.cur fun x => { x with silt := x.silt.mark .external l.key party s.m.t.gid }
    else (s.m.siltWrite s.m.cur l.space l.key n party s.m.t.gid).ctxs

/-! ### The security lifecycle (24 R425) -/

/-- The place of a lifecycle state in the order in which it moves. -/
def lifeRank : Lifecycle → Nat
  | .blank => 0
  | .provisioned => 1
  | .locked => 2
  | .rma => 3

/-- The lifecycle has reached a state, or passed it. -/
def State.reached (l : Lifecycle) (s : State) : Prop := lifeRank l ≤ lifeRank s.sys.lifecycle

end Sys2Proof.Machine
end

