-- ==== Sys2Proof/Certificates/Slice0/Obligations.lean ====
section
/-! DEFINITION. The statements about the model, for the provers. -/

open Sys2Proof Sys2Proof.Machine

/-! ### Page 0: integers, addresses, comparisons and transfers (05) -/

/-- 05 R89: the three-operand logic, shift, product and extreme instructions write their value, tagged raw, to d and to lt. -/
def Obligations.IntegerOps : Prop :=
  ∀ (s : State) (m : Option XMod) (d a b : Opnd), s.ready m [d, a, b] [a, b] →
    let x := s.m.t.val a
    let y := s.m.t.val b
    Gives (.and m d a b) s d (x &&& y) .raw ∧
    Gives (.or m d a b) s d (x ||| y) .raw ∧
    Gives (.xor m d a b) s d (x ^^^ y) .raw ∧
    Gives (.andn m d a b) s d (x &&& ~~~y) .raw ∧
    Gives (.shl m d a b) s d (x <<< (y.toNat % 64)) .raw ∧
    Gives (.shr m d a b) s d (x >>> (y.toNat % 64)) .raw ∧
    Gives (.sar m d a b) s d (x.sshiftRight (y.toNat % 64)) .raw ∧
    (satOf m = false → Gives (.mul m d a b) s d (x * y) .raw) ∧
    (satOf m = true → Gives (.mul m d a b) s d (sat64 (x.toInt * y.toInt)) .raw) ∧
    Gives (.mulh m d a b) s d (BitVec.ofInt 64 (x.toInt * y.toInt / 2 ^ 64)) .raw ∧
    Gives (.mulhn m d a b) s d (BitVec.ofNat 64 (x.toNat * y.toNat / 2 ^ 64)) .raw ∧
    Gives (.min m d a b) s d (if y.toInt < x.toInt then y else x) .raw ∧
    Gives (.max m d a b) s d (if x.toInt < y.toInt then y else x) .raw ∧
    Gives (.minn m d a b) s d (if y.toNat < x.toNat then y else x) .raw ∧
    Gives (.maxn m d a b) s d (if x.toNat < y.toNat then y else x) .raw

/-- 05 R86, R89, R94: ADD, SUB and ADDI, wrapped or saturated; the result is an address when exactly one source is one. -/
def Obligations.Sums : Prop :=
  ∀ (s : State) (m : Option XMod) (d a b : Opnd) (k : Int),
    let x := s.m.t.val a
    let y := s.m.t.val b
    let one := if (s.m.t.tag a = .addr ∧ s.m.t.tag b ≠ .addr) ∨ (s.m.t.tag a ≠ .addr ∧ s.m.t.tag b = .addr) then Tag.addr else .raw
    let keep := if s.m.t.tag a = .addr then Tag.addr else .raw
    (s.ready m [d, a, b] [a, b] →
      (satOf m = false → Gives (.add m d a b) s d (x + y) one ∧ Gives (.sub m d a b) s d (x - y) one) ∧
      (satOf m = true → Gives (.add m d a b) s d (sat64 (x.toInt + y.toInt)) one ∧
        Gives (.sub m d a b) s d (sat64 (x.toInt - y.toInt)) one)) ∧
    (s.ready m [d, a] [a] →
      (satOf m = false → Gives (.addi m d a k) s d (x + BitVec.ofInt 64 k) keep) ∧
      (satOf m = true → Gives (.addi m d a k) s d (sat64 (x.toInt + k)) keep))

/-- 05 R90: division truncates toward zero and the remainder takes the dividend's sign; a divisor of zero traps DIV_ZERO with
the instruction's address. -/
def Obligations.Divisions : Prop :=
  ∀ (s : State) (m : Option XMod) (d a b : Opnd), s.ready m [d, a, b] [a, b] →
    let x := s.m.t.val a
    let y := s.m.t.val b
    (y = 0 → Traps (.div m d a b) s 0x0A s.m.t.pc ∧ Traps (.divn m d a b) s 0x0A s.m.t.pc ∧
      Traps (.rem m d a b) s 0x0A s.m.t.pc ∧ Traps (.remn m d a b) s 0x0A s.m.t.pc) ∧
    (y ≠ 0 →
      (x.toInt = -2 ^ 63 → y.toInt = -1 → Gives (.div m d a b) s d x .raw ∧ Gives (.rem m d a b) s d 0 .raw) ∧
      Gives (.div m d a b) s d (BitVec.ofInt 64 (x.toInt.tdiv y.toInt)) .raw ∧
      Gives (.rem m d a b) s d (BitVec.ofInt 64 (x.toInt - y.toInt * x.toInt.tdiv y.toInt)) .raw ∧
      Gives (.divn m d a b) s d (BitVec.ofNat 64 (x.toNat / y.toNat)) .raw ∧
      Gives (.remn m d a b) s d (BitVec.ofNat 64 (x.toNat - y.toNat * (x.toNat / y.toNat))) .raw)

/-- 05 R91 to R93: LEA shifts b by its scale and gives an address; BFX and BFI read position and width from b, each bit of the
result said by itself; SEL takes a where c is not zero, with the tag of what it takes, and checks the tag of c alone. -/
def Obligations.FieldsAndSelection : Prop :=
  ∀ (s : State) (m : Option XMod) (d a b c : Opnd),
    let x := s.m.t.val a
    let y := s.m.t.val b
    let z := s.m.t.val c
    let pos := y.toNat % 64
    let wid := if y.toNat / 256 % 64 = 0 then 64 else y.toNat / 256 % 64
    let pick := if z ≠ 0 then a else b
    (s.ready m [d, a, b] [a, b] →
      Gives (.lea m .x1 d a b) s d (x + y) .addr ∧ Gives (.lea m .x2 d a b) s d (x + y * 2) .addr ∧
      Gives (.lea m .x4 d a b) s d (x + y * 4) .addr ∧ Gives (.lea m .x8 d a b) s d (x + y * 8) .addr ∧
      Gives (.lea m .x64 d a b) s d (x + y * 64) .addr ∧
      ∃ v : Word, Gives (.bfx m d a b) s d v .raw ∧
        ∀ i, i < 64 → v.getLsbD i = (decide (i < wid) && x.getLsbD (pos + i))) ∧
    (s.ready m [d, a, b, c] [a, b, c] →
      ∃ v : Word, Gives (.bfi m d a b c) s d v .raw ∧
        ∀ i, i < 64 → v.getLsbD i = if pos ≤ i ∧ i < pos + wid then x.getLsbD (i - pos) else z.getLsbD i) ∧
    (s.ready m [d, a, b, c] [c] →
      Gives (.sel m d a b c) s d (s.m.t.val pick) (if s.m.t.tag pick = .unwritten then .raw else s.m.t.tag pick))

/-- 05 R95 to R98: MOVI, MOV, NOT, NEG, ABS, the extensions, the shifts by a constant, ANDI and WID; CLZ, CTZ, POPC and BREV, each
said by the bits of its source. -/
def Obligations.OneOperandOps : Prop :=
  ∀ (s : State) (m : Option XMod) (d a : Opnd) (k : Nat) (i : Int) (n : Fin 6),
    let x := s.m.t.val a
    (s.plain → s.fit [d] → Gives (.movi d i) s d (BitVec.ofInt 64 i) .raw ∧
      Gives (.wid d n) s d (BitVec.ofNat 64 (s.m.t.workId.toNat / 2 ^ widBase s.m.t.ctl.widShape n.val %
        2 ^ (s.m.t.ctl.widShape.toNat / 2 ^ (6 * n.val) % 64))) .raw) ∧
    (s.plain → s.fit [d, a] →
      Gives (.mov m d a) s d x (if s.m.t.tag a = .unwritten then .raw else s.m.t.tag a)) ∧
    (s.ready m [d, a] [a] →
      Gives (.not m d a) s d (~~~x) .raw ∧
      (satOf m = false → Gives (.neg m d a) s d (-x) .raw ∧ Gives (.abs m d a) s d (if 0 ≤ x.toInt then x else -x) .raw) ∧
      (satOf m = true → Gives (.neg m d a) s d (sat64 (-x.toInt)) .raw ∧
        Gives (.abs m d a) s d (sat64 |x.toInt|) .raw) ∧
      Gives (.sextB m d a) s d ((x.setWidth 8).signExtend 64) .raw ∧
      Gives (.sextH m d a) s d ((x.setWidth 16).signExtend 64) .raw ∧
      Gives (.sextW m d a) s d ((x.setWidth 32).signExtend 64) .raw ∧
      Gives (.zextB m d a) s d (x &&& 0xFF) .raw ∧
      Gives (.zextH m d a) s d (x &&& 0xFFFF) .raw ∧
      Gives (.zextW m d a) s d (x &&& 0xFFFFFFFF) .raw ∧
      Gives (.shli m d a k) s d (x <<< k) .raw ∧
      Gives (.shri m d a k) s d (x >>> k) .raw ∧
      Gives (.sari m d a k) s d (x.sshiftRight k) .raw ∧
      Gives (.andi m d a i) s d (x &&& BitVec.ofInt 64 i) .raw ∧
      (∃ n : Nat, n ≤ 64 ∧ Gives (.clz m d a) s d (BitVec.ofNat 64 n) .raw ∧
        (∀ i, 64 - n ≤ i → i < 64 → x.getLsbD i = false) ∧ (n < 64 → x.getLsbD (63 - n) = true)) ∧
      (∃ n : Nat, n ≤ 64 ∧ Gives (.ctz m d a) s d (BitVec.ofNat 64 n) .raw ∧
        (∀ i, i < n → x.getLsbD i = false) ∧ (n < 64 → x.getLsbD n = true)) ∧
      Gives (.popc m d a) s d (BitVec.ofNat 64 ((List.range 64).filter fun i => x.getLsbD i).length) .raw ∧
      ∃ v : Word, Gives (.brev m d a) s d v .raw ∧ ∀ i, i < 64 → v.getLsbD i = x.getLsbD (63 - i))

/-- 05 R99: CMP and CMPI write their relation to all 16 lanes of p in every member of the gang, discard it for p0, and change
nothing else but the pc. -/
def Obligations.Comparisons : Prop :=
  ∀ (s : State) (m : Option XMod) (c : Cond) (p : Fin 8) (a b : Opnd) (k : Int),
    let holds : Word → Word → Bool := fun x y => match c with
      | .eq => decide (x = y)
      | .ne => decide (x ≠ y)
      | .lt => decide (x.toInt < y.toInt)
      | .le => decide (x.toInt ≤ y.toInt)
      | .gt => decide (y.toInt < x.toInt)
      | .ge => decide (y.toInt ≤ x.toInt)
      | .ltn => decide (x.toNat < y.toNat)
      | .len => decide (x.toNat ≤ y.toNat)
    let after : Bool → Task := fun r =>
      let lanes : Mask := if r then 0xFFFF else 0
      let f : Image → Image := fun g => if p = 0 then g else { g with p := Tab.put 0 g.p p.val lanes }
      { s.m.t with img := f s.m.t.img, fol := s.m.t.fol.map f }
    (s.ready m [a, b] [a, b] → exec (.cmp m c p a b) s = .next (s.done (after (holds (s.m.t.val a) (s.m.t.val b))))) ∧
    (s.ready m [a] [a] → exec (.cmpi m c p a k) s = .next (s.done (after (holds (s.m.t.val a) (BitVec.ofInt 64 k)))))

/-- 05 R100 to R105: where control goes after the transfers, what CALL and CALLI link, what LOOP counts, and that nothing else
changes. -/
def Obligations.Transfers : Prop :=
  ∀ (s : State) (m : Option XMod) (p : Fin 8) (a : Opnd) (off : Int), s.plain →
    let goes : Task → Word → State := fun t w => s.done { t with npc := w }
    let there := s.m.t.pc + BitVec.ofInt 64 (2 * off)
    let next := s.m.t.npc
    let linked := s.m.t.wr (.slot 0) next .addr
    let n := s.m.t.val a - 1
    exec .nop s = .next (s.done s.m.t) ∧
    exec (.br off) s = .next (goes s.m.t there) ∧
    exec (.bc p off) s = .next (goes s.m.t (if (s.m.t.img.pred p).getLsbD 0 then there else next)) ∧
    exec (.bcN p off) s = .next (goes s.m.t (if (s.m.t.img.pred p).getLsbD 0 then next else there)) ∧
    (s.fit [.slot 0] → exec (.call off) s = .next (goes linked there)) ∧
    (s.fit [a] → (s.m.t.val a).getLsbD 0 = false → exec (.bri a) s = .next (goes s.m.t (s.m.t.val a))) ∧
    (s.fit [a, .slot 0] → (s.m.t.val a).getLsbD 0 = false → exec (.calli a) s = .next (goes linked (s.m.t.val a))) ∧
    ((s.m.t.val (.slot 0)).getLsbD 0 = false → exec .ret s = .next (goes s.m.t (s.m.t.val (.slot 0)))) ∧
    (s.fit [a] → (s.m.t.val a).getLsbD 0 = true → Traps (.bri a) s 0x05 (s.m.t.val a)) ∧
    ((s.m.t.val (.slot 0)).getLsbD 0 = true → Traps .ret s 0x05 (s.m.t.val (.slot 0))) ∧
    (s.ready m [a] [a] →
      exec (.loop m a off) s = .next (goes (s.m.t.wr a n .raw) (if n = 0 then next else there)))

/-- 07 R144, R145, 08 R162: XSET and XADD write an index register; LDX and STX copy the bits and the tag of slot (x + k) mod 2^16,
which must lie below ALLOC, whatever the tag, and STX leaves lt alone unless the slot it writes is lt's own source. -/
def Obligations.WindowOps : Prop :=
  ∀ (s : State) (m : Option XMod) (x y : Fin 4) (d : Opnd) (k : Nat) (i : Int), s.plain →
    let j := ((Tab.look 0 s.m.t.x x.val).toNat + k) % 65536
    let at_ := 8 + j
    let put := fun (v : BitVec 16) => s.done { s.m.t with x := Tab.put 0 s.m.t.x x.val v }
    exec (.xset x k) s = .next (put (BitVec.ofNat 16 k)) ∧
    exec (.xadd x i) s = .next (put (Tab.look 0 s.m.t.x x.val + BitVec.ofInt 16 i)) ∧
    (y ≠ x → Tab.look 0 (put (BitVec.ofNat 16 k)).m.t.x y.val = Tab.look 0 s.m.t.x y.val) ∧
    (j < s.m.t.ctl.alloc.toNat → s.fit [d] →
      (∃ s1, exec (.ldx m d x k) s = .next s1 ∧ s.wroteOnly s1 [d.key, 0] ∧
        s1.m.t.cell d.key = ⟨(s.m.t.cell at_).val, (s.m.t.cell at_).tag, none⟩ ∧
        s1.m.t.cell 0 = ⟨(s.m.t.cell at_).val, (s.m.t.cell at_).tag, none⟩ ∧
        ((s.m.t.cell at_).tag = .unwritten → s1.m.t.val d = 0)) ∧
      ∃ s1, exec (.stx m d x k) s = .next s1 ∧ s.wroteOnly s1 [at_] ∧
        s1.m.t.cell at_ = ⟨(s.m.t.cell d.key).val, (s.m.t.cell d.key).tag, none⟩ ∧
        (s.m.t.tag d = .unwritten → (s1.m.t.cell at_).read = 0)) ∧
    (s.m.t.ctl.alloc.toNat ≤ j → s.fit [d] →
      Traps (.ldx m d x k) s 0x03 (BitVec.ofNat 64 j) ∧ Traps (.stx m d x k) s 0x03 (BitVec.ofNat 64 j))

/-- 08 R164: TAGSET and TAGGET act when lane 0 of their predicate is 1, and change nothing but the pc when it is 0. -/
def Obligations.TagOps : Prop :=
  ∀ (s : State) (m : Option XMod) (g : Fin 8) (f : Tag) (d a : Opnd), s.plain →
    ((s.m.t.img.pred g).getLsbD 0 = true → s.fit [d, a] →
      Gives (.tagset m g f d a) s d (s.m.t.val a) f ∧
      Gives (.tagget m g d a) s d (BitVec.ofNat 64 (s.m.t.tag a).toNat) .raw) ∧
    ((s.m.t.img.pred g).getLsbD 0 = false →
      exec (.tagset m g f d a) s = .next (s.done s.m.t) ∧ exec (.tagget m g d a) s = .next (s.done s.m.t))

/-! ### Pages 1 to 3: vectors, numbers and flags (12) -/

/-- 12 R215, R219: the floating forms in every member of the gang, in the format the tags choose, their flags in fl. -/
def Obligations.VectorFloat : Prop :=
  ∀ (s : State) (m : Option XMod) (g : Fin 8) (d a : Fin 256) (b : Opnd), s.plain → s.quietFp →
    s.vfit ([d, a] ++ vecOf b) (scalarOf b) →
    let A := fun (j : Nat) => (s.m.t.member j).vec a.val
    let B := fun (j : Nat) => s.m.t.srcB j b
    let D := fun (j : Nat) => (s.m.t.member j).vec d.val
    let en := s.m.t.gov g
    let runs := fun (i : Instr) (useD : Bool) (op : Fmt → Nat → Nat → Nat → Nat × FSet) =>
      let tags := fun j => (A j).tags ++ (B j).tags ++ (if useD then (D j).tags else [])
      let low := fun j => (A j).tags.take 4 ++ (B j).tags.take 4 ++ (if useD then (D j).tags.take 4 else [])
      let wide := fun j => decide (firstTag (tags j) = .f64)
      let f32 := fun j i => op fp32 ((A j).lane i).toNat ((B j).lane i).toNat ((D j).lane i).toNat
      let f64 := fun j e => op fp64 ((A j).el64 e).toNat ((B j).el64 e).toNat ((D j).el64 e).toNat
      (∀ j, j < s.m.t.gangSize → s.m.t.conv m = true ∨
        ∀ q ∈ (if wide j then low j else tags j), q = .unwritten ∨ q = (if wide j then .f64 else .f32)) →
      VecGives i s d.val (fun j => if wide j then mask64 (en j) else en j)
        (fun j i => if wide j then lanesOf64 (fun e => BitVec.ofNat 64 (f64 j e).1) i else BitVec.ofNat 32 (f32 j i).1)
        (fun j => if wide j then .f64 else .f32)
        (fun j => if wide j then flagsOf (((List.range 4).filter fun e => (en j).getLsbD (2 * e)).map fun e => (2 * e, (f64 j e).2))
          else flagsOf (((List.range 16).filter fun i => (en j).getLsbD i).map fun i => (i, (f32 j i).2)))
    let c := s.m.t.fctx m
    runs (.vadd m g d a b) false (fun f x y _ => f.add c false x y) ∧
    runs (.vsub m g d a b) false (fun f x y _ => f.add c true x y) ∧
    runs (.vmul m g d a b) false (fun f x y _ => f.mul c x y) ∧
    runs (.vfma m g d a b) true (fun f x y z => f.fma c false false x y z) ∧
    runs (.vfms m g d a b) true (fun f x y z => f.fma c false true x y z) ∧
    runs (.vfnma m g d a b) true (fun f x y z => f.fma c true false x y z) ∧
    runs (.vmin m g d a b) false (fun f x y _ => f.minmax c false x y) ∧
    runs (.vmax m g d a b) false (fun f x y _ => f.minmax c true x y)

/-- 12 R215, R225: the integer forms on elements of 8, 16 or 32 bits, wrapped or saturated. -/
def Obligations.VectorIntegers : Prop :=
  ∀ (s : State) (m : Option XMod) (g : Fin 8) (d a : Fin 256) (b : Opnd) (ar : Bool), s.plain →
    s.vfit ([d, a] ++ vecOf b) (scalarOf b) →
    let A := fun (j : Nat) => (s.m.t.member j).vec a.val
    let B := fun (j : Nat) => s.m.t.srcB j b
    let first := fun j => firstTag ((A j).tags ++ (B j).tags)
    let tag := fun j => if first j = .i8 then Tag.i8 else if first j = .i16 then .i16 else .i32
    let w := fun j => if first j = .i8 then 8 else if first j = .i16 then 16 else 32
    (∀ j, j < s.m.t.gangSize → s.m.t.conv m = true ∨
      ∀ q ∈ (A j).tags ++ (B j).tags, q = .unwritten ∨ q = tag j ∨ q = .raw ∨ q = .addr) →
    let runs := fun (i : Instr) (op : Nat → Nat → Nat → Nat) =>
      VecGives i s d.val (s.m.t.gov g) (fun j i => laneOp (w j) op ((A j).lane i) ((B j).lane i)) tag fun _ => {}
    let clamp := fun (w : Nat) (v : Int) => if satOf m then max (-(2 ^ (w - 1))) (min (2 ^ (w - 1) - 1) v) else v
    let signed := fun (f : Int → Int → Int) (w x y : Nat) => (clamp w (f (signedOf w x) (signedOf w y)) % 2 ^ w).toNat
    runs (.viadd m g d a b) (signed fun x y => x + y) ∧
    runs (.visub m g d a b) (signed fun x y => x - y) ∧
    runs (.vimul m g d a b) (signed fun x y => x * y) ∧
    runs (.vand m g d a b) (fun _ x y => x &&& y) ∧
    runs (.vor m g d a b) (fun _ x y => x ||| y) ∧
    runs (.vxor m g d a b) (fun _ x y => x ^^^ y) ∧
    runs (.vshl m g d a b) (fun w x y => x * 2 ^ (y % w)) ∧
    runs (.vshr m g ar d a b) (fun w x y => if ar then (signedOf w x / 2 ^ (y % w) % 2 ^ w).toNat else x / 2 ^ (y % w))

/-- 12 R220, R221, R224: VABS and VNEG clear or invert the sign bit of each element; VDOT2 and VDOT4 add the products of their
narrow elements to d; VCLASS gives one bit of ten. -/
def Obligations.VectorSignsDots : Prop :=
  ∀ (s : State) (m : Option XMod) (g : Fin 8) (d a : Fin 256) (b : Opnd), s.plain →
    let A := fun (j : Nat) => (s.m.t.member j).vec a.val
    let B := fun (j : Nat) => s.m.t.srcB j b
    let D := fun (j : Nat) => (s.m.t.member j).vec d.val
    let en := s.m.t.gov g
    let c := s.m.t.fctx m
    let lanes := fun j => (List.range 16).filter fun i => (en j).getLsbD i
    let k := fun j => firstTag (A j).tags
    (s.vfit [d, a] [] → s.vtags m [.f32, .bf16, .f16, .e4m3, .e5m2, .f64]
        (fun j => if k j = .f64 then (A j).tags.take 4 else (A j).tags) →
      let tag := fun j => if k j = .f64 ∨ k j = .bf16 ∨ k j = .f16 ∨ k j = .e4m3 ∨ k j = .e5m2 then k j else .f32
      let sign := fun j (i : Nat) => if k j = .f64 then (if i % 2 = 1 then 0x80000000 else 0)
        else if k j = .bf16 ∨ k j = .f16 then 0x80008000
        else if k j = .e4m3 ∨ k j = .e5m2 then 0x80808080 else (0x80000000 : BitVec 32)
      VecGives (.vabs m g d a) s d.val (fun j => if k j = .f64 then mask64 (en j) else en j)
        (fun j i => (A j).lane i &&& ~~~sign j i) tag (fun _ => {}) ∧
      VecGives (.vneg m g d a) s d.val (fun j => if k j = .f64 then mask64 (en j) else en j)
        (fun j i => (A j).lane i ^^^ sign j i) tag (fun _ => {})) ∧
    (s.vfit ([d, a] ++ vecOf b) (scalarOf b) → s.quietFp → s.vtags m [.f32] (fun j => (D j).tags) →
      s.vtags m [.bf16] (fun j => (A j).tags ++ (B j).tags) →
      let r := fun j i => dot c bf16 bf16 (splitLane 16 ((A j).lane i)) (splitLane 16 ((B j).lane i)) ((D j).lane i).toNat
      VecGives (.vdot2 m g d a b) s d.val en (fun j i => BitVec.ofNat 32 (r j i).1) (fun _ => .f32)
        (fun j => flagsOf ((lanes j).map fun i => (i, (r j i).2)))) ∧
    (s.vfit ([d, a] ++ vecOf b) (scalarOf b) → s.quietFp → s.vtags m [.f32] (fun j => (D j).tags) →
      (∀ j, j < s.m.t.gangSize → s.m.t.conv m = true ∨
        (∀ q ∈ (A j).tags, q = .unwritten ∨ (q = k j ∧ (q = .e4m3 ∨ q = .e5m2))) ∧
        ∀ q ∈ (B j).tags, q = .unwritten ∨ (q = firstTag (B j).tags ∧ (q = .e4m3 ∨ q = .e5m2))) →
      let r := fun j i => dot c (if k j = .e5m2 then e5m2 else e4m3) (if firstTag (B j).tags = .e5m2 then e5m2 else e4m3)
        (splitLane 8 ((A j).lane i)) (splitLane 8 ((B j).lane i)) ((D j).lane i).toNat
      VecGives (.vdot4 m g d a b) s d.val en (fun j i => BitVec.ofNat 32 (r j i).1) (fun _ => .f32)
        (fun j => flagsOf ((lanes j).map fun i => (i, (r j i).2)))) ∧
    (s.vfit [d, a] [] → (∀ j, j < s.m.t.gangSize → s.m.t.conv m = true ∨
        ∀ q ∈ (if k j = .f64 then (A j).tags.take 4 else (A j).tags), q = .unwritten ∨ q = (if k j = .f64 then .f64 else .f32)) →
      VecGives (.vclass m g d a) s d.val (fun j => if k j = .f64 then mask64 (en j) else en j)
        (fun j i => if k j = .f64 then (if i % 2 = 0 then BitVec.ofNat 32 (2 ^ fp64.classBit ((A j).el64 (i / 2)).toNat) else 0)
          else BitVec.ofNat 32 (2 ^ fp32.classBit ((A j).lane i).toNat)) (fun _ => .i32) (fun _ => {}))

/-- 12 R222, R223: VCMP writes its outcome to the predicate, 0 in the lanes that are disabled; VSEL and VMOV write lanes without
a tag check, each slot under the tag of the matching slot of a. -/
def Obligations.VectorComparesMoves : Prop :=
  ∀ (s : State) (m : Option XMod) (g : Fin 8) (c : VCond) (p q : Fin 8) (d a b : Fin 256), s.plain →
    let A := fun (j : Nat) => (s.m.t.member j).vec a.val
    let B := fun (j : Nat) => (s.m.t.member j).vec b.val
    let en := s.m.t.gov g
    let wide := fun j => decide (firstTag ((A j).tags ++ (B j).tags) = .f64)
    let f32 := fun j i => fp32.compare (s.m.t.fctx m) c ((A j).lane i).toNat ((B j).lane i).toNat
    let f64 := fun j e => fp64.compare (s.m.t.fctx m) c ((A j).el64 e).toNat ((B j).el64 e).toNat
    (s.vfit [a, b] [] → s.quietFp → (∀ j, j < s.m.t.gangSize → s.m.t.conv m = true ∨
        ∀ t ∈ (if wide j then (A j).tags.take 4 ++ (B j).tags.take 4 else (A j).tags ++ (B j).tags),
          t = .unwritten ∨ t = (if wide j then .f64 else .f32)) →
      ∃ t1, exec (.vcmp m g c p a b) s = .next (s.done t1) ∧ t1.fol.length = s.m.t.fol.length ∧
        t1 = { s.m.t with img := t1.img, fol := t1.fol } ∧ ∀ j, j < s.m.t.gangSize →
          t1.member j = { (s.m.t.member j).setPred p
              (maskOf fun i => if wide j then decide (i < 8) && (en j).getLsbD (2 * (i / 2)) && (f64 j (i / 2)).1
                else (en j).getLsbD i && (f32 j i).1) with
            fl := (s.m.t.member j).fl.or (if wide j then
                flagsOf (((List.range 4).filter fun e => (en j).getLsbD (2 * e)).map fun e => (2 * e, (f64 j e).2))
              else flagsOf (((List.range 16).filter fun i => (en j).getLsbD i).map fun i => (i, (f32 j i).2))) }) ∧
    (s.vfit [d, a] [] →
      let moves := fun (i : Instr) (sel : Nat → Mask) => ∃ t1, exec i s = .next (s.done t1) ∧
        t1.fol.length = s.m.t.fol.length ∧ t1 = { s.m.t with img := t1.img, fol := t1.fol } ∧ ∀ j, j < s.m.t.gangSize →
          let lane := fun n => if (en j).getLsbD n then (if (sel j).getLsbD n then (A j).lane n else 0)
            else (s.m.t.member j).lane d.val n
          (t1.member j).p = (s.m.t.member j).p ∧ (t1.member j).fl = (s.m.t.member j).fl ∧
          (∀ k, k < 8 → (t1.member j).cell (slotKey (d.val + k)) = if slotOn (en j) k then
            ⟨lanePair (lane (2 * k)) (lane (2 * k + 1)), (A j).tags.getD k .unwritten, none⟩
            else (s.m.t.member j).cell (slotKey (d.val + k))) ∧
          ∀ n, (∀ k, k < 8 → n ≠ slotKey (d.val + k)) → (t1.member j).cell n = (s.m.t.member j).cell n
      moves (.vmov m g d a) (fun _ => 0xFFFF) ∧ moves (.vsel m g d a q) (fun j => (s.m.t.member j).pred q))

/-- 12 R226, R227, R230: VBCAST, VSHUF, VPERM, VINS, VEXT and VLANEI move lanes within the gang. -/
def Obligations.VectorLanes : Prop :=
  ∀ (s : State) (m : Option XMod) (g : Fin 8) (z : BcSize) (d a b : Fin 256) (dd aa bb : Opnd), s.plain →
    let n := s.m.t.gangSize
    let A := fun (j : Nat) => (s.m.t.member j).vec a.val
    let B := fun (j : Nat) => (s.m.t.member j).vec b.val
    let en := s.m.t.gov g
    let lane := fun l => (s.m.t.member (l / 16)).lane a.val (l % 16)
    let x := s.m.t.val aa
    let k := s.m.t.tag aa
    let L := (s.m.t.val bb).toNat % (16 * n)
    let idx : List Tag := [.i32, .raw, .i8, .i16, .addr]
    let out := fun (l : List Tag) => if firstTag l = .unwritten then Tag.raw else firstTag l
    let all := (List.range n).flatMap fun j => (s.m.t.member j).vecTags a.val
    (s.vfit [d] [aa] → VecGives (.vbcast m g z d aa) s d.val (fun j => if z = .d then maskSlots (en j) else en j)
      (fun _ i => match z with
        | .w => x.setWidth 32
        | .d => if i % 2 = 0 then x.setWidth 32 else (x >>> 32).setWidth 32
        | .h => x.setWidth 16 ++ x.setWidth 16
        | .b => x.setWidth 8 ++ x.setWidth 8 ++ (x.setWidth 8 ++ x.setWidth 8))
      (fun _ => match z with
        | .w => if k = .i32 ∨ k = .f32 then k else .i32
        | .d => if k = .unwritten then .raw else k
        | .h => if k = .bf16 ∨ k = .f16 ∨ k = .i16 then k else .i16
        | .b => if k = .e4m3 ∨ k = .e5m2 ∨ k = .i8 then k else .i8) (fun _ => {})) ∧
    (s.vfit [d, a, b] [] → s.vtags m idx (fun j => (B j).tags) →
      VecGives (.vshuf m d a b) s d.val (fun _ => 0xFFFF) (fun j i => lane (((B j).lane i).toNat % (16 * n)))
        (fun _ => out all) (fun _ => {}) ∧
      VecGives (.vperm m d a b) s d.val (fun _ => 0xFFFF)
        (fun j i => BitVec.ofNat 32 ((List.range 4).map fun q =>
          (if 128 ≤ (B j).byte (4 * i + q) then 0 else (A j).byte ((B j).byte (4 * i + q) % 64)) * 2 ^ (8 * q)).sum)
        (fun j => out (A j).tags) (fun _ => {})) ∧
    (s.vfit [d] [aa, bb] → s.rawOk m [bb] →
      VecGives (.vins m g d aa bb) s d.val
        (fun j => if j = L / 16 then en j &&& BitVec.ofNat 16 (2 ^ (L % 16)) else 0) (fun _ _ => x.setWidth 32)
        (fun _ => if k = .f32 then .f32 else .i32) (fun _ => {})) ∧
    (s.vfit [a] [dd, bb] → s.rawOk m [bb] →
      let t := ((s.m.t.member (L / 16)).cell (slotKey (a.val + L % 16 / 2))).tag
      (t = .f32 → Gives (.vext m dd a bb) s dd ((lane L).setWidth 64) .f32) ∧
      (t ≠ .f32 → Gives (.vext m dd a bb) s dd ((lane L).signExtend 64) .raw)) ∧
    (s.vfit [d] [] → VecGives (.vlanei g d) s d.val en (fun j i => BitVec.ofNat 32 (16 * j + i)) (fun _ => .i32) (fun _ => {}))

/-- 12 R228, R229, R238: VRED and VOTE over the enabled lanes of the whole gang, in gang order, and VSCAN's prefixes of them.
What the spec leaves open here is the model's choice (log entries 15 and 18). -/
def Obligations.VectorReductions : Prop :=
  ∀ (s : State) (m : Option XMod) (g q : Fin 8) (o : ScanOp) (f : Flag) (dd : Opnd) (d a : Fin 256), s.plain →
    let lanes := (List.range s.m.t.gangSize).flatMap fun j =>
      ((List.range 16).filter fun i => (s.m.t.gov g j).getLsbD i).map fun i => (j, i)
    let x := fun (p : Nat × Nat) => ((s.m.t.member p.1).lane a.val p.2).toNat
    let float := decide (o = .fadd ∨ o = .fmax ∨ o = .fmin)
    let r := scanValue (s.m.t.fctx m) o (lanes.map x)
    let withFl := fun (t : Task) (l : FSet) => { t with img := { t.img with fl := t.img.fl.or (l.inLane 0) } }
    let bits : List Tag := [.i32, .raw, .addr]
    let votes := fun (src : VoteSrc) (bit : Nat × Nat → Bool) =>
      Gives (.vote g .any dd src) s dd (if lanes.any bit then 1 else 0) .raw ∧
      Gives (.vote g .all dd src) s dd (if lanes.all bit then 1 else 0) .raw ∧
      Gives (.vote g .cnt dd src) s dd (BitVec.ofNat 64 (lanes.filter bit).length) .raw ∧
      Gives (.vote g .mask dd src) s dd (BitVec.ofNat 64 ((lanes.filter bit).map fun p => 2 ^ (16 * p.1 + p.2)).sum) .raw
    (s.vfit [a] [dd] → s.quietFp →
      s.vtags m (if float then [.f32] else bits) (fun j => ((s.m.t.member j).vec a.val).tags) →
      exec (.vred m g dd (.lanes (.scan o) a)) s =
        .next (s.done (withFl (s.m.t.wr dd r.1 (if float then .f32 else .raw)) r.2))) ∧
    (s.vfit [a] [dd] → s.vtags m bits (fun j => ((s.m.t.member j).vec a.val).tags) →
      Gives (.vred m g dd (.lanes .and a)) s dd (BitVec.ofNat 64 ((lanes.map x).foldl (· &&& ·) 0xFFFFFFFF)) .raw ∧
      Gives (.vred m g dd (.lanes .or a)) s dd (BitVec.ofNat 64 ((lanes.map x).foldl (· ||| ·) 0)) .raw ∧
      Gives (.vred m g dd (.lanes .xor a)) s dd (BitVec.ofNat 64 ((lanes.map x).foldl (· ^^^ ·) 0)) .raw) ∧
    (s.fit [dd] → Gives (.vred m g dd (.flag f)) s dd
      (if lanes.any fun p => ((s.m.t.member p.1).fl.get f).getLsbD p.2 then 1 else 0) .raw) ∧
    (s.fit [dd] → votes (.pred q) (fun p => ((s.m.t.member p.1).pred q).getLsbD p.2) ∧
      votes (.flag f) (fun p => ((s.m.t.member p.1).fl.get f).getLsbD p.2)) ∧
    (s.vfit [d, a] [] → s.quietFp →
      s.vtags m (if float then [.f32] else bits) (fun j => ((s.m.t.member j).vec a.val).tags) →
      let upto := fun j i => scanValue (s.m.t.fctx m) o
        ((lanes.filter fun p => decide (16 * p.1 + p.2 ≤ 16 * j + i)).map x)
      VecGives (.vscan m g o d a) s d.val (s.m.t.gov g) (fun j i => (upto j i).1.setWidth 32)
        (fun _ => if float then .f32 else .i32)
        (fun j => flagsOf (((List.range 16).filter fun i => (s.m.t.gov g j).getLsbD i).map fun i => (i, (upto j i).2))))

/-- 12 R231, R232, R235: CVT converts the scalar its tag names; VCVT, VPACK and VUNPK convert lanes, each with its flags.
What the spec leaves open here is the model's choice (log entry 16). -/
def Obligations.Conversions : Prop :=
  ∀ (s : State) (m : Option XMod) (g : Fin 8) (k : CvtTo) (f : PackFmt) (dd aa : Opnd) (d a : Fin 256), s.plain → s.quietFp →
    let c := s.m.t.fctx m
    let A := fun (j : Nat) => (s.m.t.member j).vec a.val
    let en := s.m.t.gov g
    let on := fun j => (List.range 16).filter fun i => (en j).getLsbD i
    let r := convertTo c (cvtSource (s.m.t.tag aa) (s.m.t.val aa)) (cvtTarget k).1
    let withFl := fun (t : Task) (l : FSet) => { t with img := { t.img with fl := t.img.fl.or (l.inLane 0) } }
    let lanes := fun (i : Instr) (want : List Tag) (tag : Tag) (h : Nat → Nat × FSet) =>
      s.vtags m want (fun j => (A j).tags) →
      VecGives i s d.val en (fun j n => BitVec.ofNat 32 (h ((A j).lane n).toNat).1) (fun _ => tag)
        (fun j => flagsOf ((on j).map fun n => (n, (h ((A j).lane n).toNat).2)))
    let nat : List Tag := [.i32, .raw, .addr]
    (s.fit [dd, aa] → (s.m.t.conv m = true ∨ s.m.t.tag aa ∉ [Tag.s16, .s8, .s4, .s2]) →
      exec (.cvt m k dd aa) s = .next (s.done (withFl (s.m.t.wr dd (BitVec.ofNat 64 r.1) (cvtTarget k).2) r.2))) ∧
    (s.vfit [d, a] [] →
      lanes (.vcvt m g .i32 d a) [.f32] .i32 (fun x => convertTo c (.inl (fp32, x)) (.inr 32)) ∧
      lanes (.vcvt m g .f32 d a) nat .f32 (fun x => fp32.ofInt c (signedOf 32 x)) ∧
      lanes (.vcvt m g .n32 d a) [.f32] .i32 (fun x => ((fp32.toInt c 0 (2 ^ 32 - 1) x).1.toNat, (fp32.toInt c 0 (2 ^ 32 - 1) x).2)) ∧
      lanes (.vcvt m g .f32n d a) nat .f32 (fun x => fp32.ofInt c x) ∧
      lanes (.vcvt m g .rint d a) [.f32] .f32 (fun x => fp32.rint c x) ∧
      (s.vtags m [.f32] (fun j => (A j).tags.take 2) →
        let w := fun j e => fp32.convert fp64 c ((A j).lane e).toNat
        VecGives (.vcvt m g .f64 d a) s d.val (fun j => mask64 (en j)) (fun j => lanesOf64 fun e => BitVec.ofNat 64 (w j e).1)
          (fun _ => .f64) (fun j => flagsOf (((List.range 4).filter fun e => (en j).getLsbD (2 * e)).map fun e => (2 * e, (w j e).2)))) ∧
      (s.vtags m [.f64] (fun j => (A j).tags.take 4) →
        let w := fun j e => fp64.convert fp32 c ((A j).el64 e).toNat
        VecGives (.vcvt m g .f32d d a) s d.val (fun j => en j &&& 15) (fun j e => BitVec.ofNat 32 (w j e).1) (fun _ => .f32)
          (fun j => flagsOf (((List.range 16).filter fun e => (en j &&& 15).getLsbD e).map fun e => (e, (w j e).2))))) ∧
    (s.vfit [d, a] [] →
      let fmt := (packFmt f).1
      let h := (packFmt f).2.1
      let tag := (packFmt f).2.2
      let w := fmt.width
      let per := 32 / w
      (s.vtags m [.f32] (fun j => (A j).tags) →
        let p := fun j i => fp32.convert fmt c ((A j).lane i).toNat
        let mine := fun j n q => decide (16 * h ≤ n * per + q) && decide (n * per + q < 16 * h + 16) &&
          (en j).getLsbD (n * per + q - 16 * h)
        VecGives (.vpack m g f d a) s d.val (fun j => maskOf fun n => (List.range per).any fun q => mine j n q)
          (fun j n => BitVec.ofNat 32 ((List.range per).map fun q =>
            (if mine j n q then (p j (n * per + q - 16 * h)).1
              else ((s.m.t.member j).lane d.val n).toNat / 2 ^ (w * q) % 2 ^ w) * 2 ^ (w * q)).sum)
          (fun _ => tag) (fun j => flagsOf ((on j).map fun i => (i, (p j i).2)))) ∧
      (s.vtags m [tag] (fun j => (packSlots w h).map fun i => (A j).tags.getD i .unwritten) →
        let u := fun j i => fmt.convert fp32 c (((A j).lane ((16 * h + i) / per)).toNat / 2 ^ (w * ((16 * h + i) % per)) % 2 ^ w)
        VecGives (.vunpk m g f d a) s d.val en (fun j i => BitVec.ofNat 32 (u j i).1) (fun _ => .f32)
          (fun j => flagsOf ((on j).map fun i => (i, (u j i).2)))))

/-- 11 R198 to R201, 12 R233, R234: BLKPK writes one described block and its flags; BLKUP writes the block's elements, each
rounded once, to as many registers as its width needs, and traps FMT_MISMATCH where MARK is wrong.
What the spec leaves open here is the model's choice (log entry 17). -/
def Obligations.Blocks : Prop :=
  ∀ (s : State) (m : Option XMod) (w : Blk) (nat bf : Bool) (d a : Fin 256), s.plain → s.quietFp →
    let c := s.m.t.fctx m
    let lane := fun (j s0 l : Nat) => (s.m.t.member j).lane (s0 + 8 * (l / 16)) (l % 16)
    (s.m.t.ctl.viewV.bad 8 1 d.val = none → s.m.t.ctl.viewV.bad 8 (blkRegs w) a.val = none →
      s.vtags m [.f32] (fun j => (List.range (blkSlots w)).map fun i => ((s.m.t.member j).cell (slotKey (a.val + i))).tag) →
      let p := fun j => packBlock c.rnd w (!nat) ((List.range (blkCount w)).map fun i => fp32.operand c (lane j a.val i).toNat)
      let word := fun j => (p j).1 + 256 * (p j).2.1 + 65536 * (p j).2.2.1
      VecGives (.blkpk m w nat d a) s d.val (fun _ => 0xFFFF) (fun j i => BitVec.ofNat 32 (word j / 2 ^ (32 * i)))
        (fun _ => match w with
          | .s16 => .s16
          | .s8 => .s8
          | .s4 => .s4
          | .s2 => .s2) (fun j => flagsOf ((p j).2.2.2.zipIdx.map fun q => (q.2 % 16, q.1)))) ∧
    (s.vfit [d, a] [] → s.vtags m [.raw, .s16, .s8, .s4, .s2] (fun j => (s.m.t.member j).vecTags a.val) →
      let v := fun j => (s.m.t.member j).vecNat a.val
      let h : Nat → Byte := fun j => BitVec.ofNat 8 (v j)
      let n := fun j => blkCount (blkWidth (h j))
      let e := fun j => if blkZero (h j) then 0 else (BitVec.ofNat 8 (v j / 256)).toInt
      let el := fun j i => if i < n j then (if bf then bf16 else fp32).roundInt c (blkElem (h j) (v j / 65536) i) (e j) false else (0, {})
      let regs := fun j => if bf then (n j + 31) / 32 else (n j + 15) / 16
      ((h 0).toNat % 16 ≠ 10 → Traps (.blkup m bf d a) s 0x04 s.m.t.pc) ∧
      ((∀ j, j < s.m.t.gangSize → (h j).toNat % 16 = 10 ∧ s.m.t.ctl.viewV.bad 8 (regs j) d.val = none) →
        ∃ t1, exec (.blkup m bf d a) s = .next (s.done t1) ∧ t1.fol.length = s.m.t.fol.length ∧
          t1 = { s.m.t with img := t1.img, fol := t1.fol } ∧ ∀ j, j < s.m.t.gangSize →
            (t1.member j).p = (s.m.t.member j).p ∧
            (t1.member j).fl = (s.m.t.member j).fl.or (flagsOf ((List.range (n j)).map fun i =>
              (if bf then i % 32 / 2 else i % 16, (el j i).2))) ∧
            (∀ k i, k < regs j → i < 16 → (t1.member j).lane (d.val + 8 * k) i =
              if bf then BitVec.ofNat 32 ((el j (32 * k + 2 * i)).1 + 65536 * (el j (32 * k + 2 * i + 1)).1)
              else BitVec.ofNat 32 (el j (16 * k + i)).1) ∧
            (∀ k, k < 8 * regs j → ((t1.member j).cell (slotKey (d.val + k))).tag = if bf then .bf16 else .f32) ∧
            ∀ x, (∀ k, k < 8 * regs j → x ≠ slotKey (d.val + k)) → (t1.member j).cell x = (s.m.t.member j).cell x))

/-- 12 R236, R237, R239, R244: FLRD copies a flag, or all five, to a predicate, FLCLR clears the enabled lanes of one or of all,
in every member; FLEN exchanges FLG_EN; DISBAND leaves the gang. -/
def Obligations.FlagOps : Prop :=
  ∀ (s : State) (m : Option XMod) (g p : Fin 8) (f : Flag) (d a : Opnd), s.plain →
    let en := s.m.t.gov g
    let each := fun (i : Instr) (G : Nat → Image → Image) => ∃ t1, exec i s = .next (s.done t1) ∧
      t1.fol.length = s.m.t.fol.length ∧ t1 = { s.m.t with img := t1.img, fol := t1.fol } ∧
      ∀ j, j < s.m.t.gangSize → t1.member j = G j (s.m.t.member j)
    let any := fun (l : Flags) => l.iv ||| l.dz ||| l.of ||| l.uf ||| l.nx
    let cut := fun j (l : Flags) => match f with
      | .iv => { l with iv := l.iv &&& ~~~en j }
      | .dz => { l with dz := l.dz &&& ~~~en j }
      | .of => { l with of := l.of &&& ~~~en j }
      | .uf => { l with uf := l.uf &&& ~~~en j }
      | .nx => { l with nx := l.nx &&& ~~~en j }
    each (.flrd g (.one f) p) (fun j im => im.setPred p (im.fl.get f &&& en j)) ∧
    each (.flrd g .any p) (fun j im => im.setPred p (any im.fl &&& en j)) ∧
    each (.flclr g (some f)) (fun j im => { im with fl := cut j im.fl }) ∧
    each (.flclr g none) (fun j im => { im with fl := ⟨im.fl.iv &&& ~~~en j, im.fl.dz &&& ~~~en j, im.fl.of &&& ~~~en j,
      im.fl.uf &&& ~~~en j, im.fl.nx &&& ~~~en j⟩ }) ∧
    exec .disband s = .next (s.done { s.m.t with fol := [] }) ∧
    (s.ready m [d, a] [a] →
      let y := s.m.t.val a
      exec (.flen m d a) s = .next (s.done
        { s.m.t.wr d (BitVec.ofNat 64 s.m.t.ctl.flgEn.toNat) .raw with
          ctl := { s.m.t.ctl with flgEn := BitVec.ofNat 9 (y.toNat % 32 + if y.getLsbD 8 then 256 else 0) } }))

/-- 12 R240: SFN and SFNV ask the SFU for the special function of each element, and the thread parks, its registers as they stood,
until the results have returned with their flags (04 R63), when it completes.
What the spec leaves open here is the model's choice (log entries 3, 19 and 33). -/
def Obligations.SpecialFunctions : Prop :=
  ∀ (s : State) (m : Option XMod) (g : Fin 8) (f : Sfu) (dd aa : Opnd) (d a : Fin 256), s.plain → s.quietFp →
    let r := sfuValue (s.m.t.fctx m) f ((s.m.t.val aa).setWidth 32)
    let A := fun (j : Nat) => (s.m.t.member j).vec a.val
    let en := s.m.t.gov g
    let v := fun j i => sfuValue (s.m.t.fctx m) f ((A j).lane i)
    (s.fit [dd, aa] → (s.m.t.conv m = true ∨ s.m.t.tag aa = .f32 ∨ s.m.t.tag aa = .unwritten) →
      let t := s.m.t.wr dd (BitVec.ofNat 64 r.1) .f32
      exec (.sfn m f dd aa) s = .next (s.owes { t.img with fl := t.img.fl.or (r.2.inLane 0) } s.m.t.fol)) ∧
    (s.vfit [d, a] [] → s.vtags m [.f32] (fun j => (A j).tags) →
      ∃ t1 : Task, exec (.sfnv m g f d a) s = .next (s.owes t1.img t1.fol) ∧ t1.fol.length = s.m.t.fol.length ∧
        ∀ j, j < s.m.t.gangSize →
          (s.m.t.member j).lanesWritten (t1.member j) d.val (en j) (fun i => BitVec.ofNat 32 (v j i).1) .f32 ∧
          (t1.member j).fl = (s.m.t.member j).fl.or
            (flagsOf (((List.range 16).filter fun i => (en j).getLsbD i).map fun i => (i, (v j i).2)))) ∧
    (∀ img fol, ∃ s1, exec (.parkResolved s.m.t.gid) (s.owes img fol) = .next s1 ∧
      s1.m.t = { s.m.t with img := img, fol := fol, owed := none }.resume ∧ s1.m.mem = s.m.mem ∧ s1.m.ctxs = s.m.ctxs)

/-! ### Memory (15, 16) -/

/-- 16 R304, R305, R307: LD, its zero-extending forms and LDV deliver the bytes at their place, change no memory and no log,
and park until a home outside the core has answered; outside the module the bytes are free.
What the spec leaves open here is the model's choice (log entries 3, 4, 7 and 9). -/
def Obligations.Loads : Prop :=
  ∀ (s : State) (m : Option XMod) (g : Fin 8) (tag : Tag) (z : Size) (y : NSize) (sp : Space) (d a : Opnd) (v : Fin 256),
    s.atRest → tag ≠ .unwritten →
    let ad := s.m.t.val a
    let loads := fun (i : Instr) (n : Nat) (zext : Bool) => s.ready m [d, a] [a] → ad.toNat % n = 0 →
      ∀ l m1, s.m.resolve s.m.cur s.m.t.core sp ad n false = .ok (l, m1) → l.inside →
        (isWeak m l = false ∨ s.m.mergeable s.m.t l n = none) →
        ∃ s1, exec i s = .next s1 ∧ s.onlyRead s1 ∧ s1.m.t.pc = s.m.t.npc ∧
          s1.m.t.phase = (if parks l then .parked .mem else .ready) ∧
          ∀ k, s1.m.t.cell k = if k = 0 ∨ k = d.key then ⟨s.m.loaded l.key n zext, tag, none⟩ else s.m.t.cell k
    loads (.ld m tag z sp d a) (match z with | .b => 1 | .h => 2 | .w => 4 | .d => 8) false ∧
    loads (.ldN m tag y sp d a) (match y with | .b => 1 | .h => 2 | .w => 4) true ∧
    (s.plain → s.vfit [v] [a] → s.rawOk m [a] → s.m.t.fol.length ≤ 7 → ad.toNat % 64 = 0 →
      ∀ ls m1, s.m.memberLocs sp ad false (fun _ => List.range 64) 0 s.m.t.gangSize = .ok (ls, m1) →
        (∀ l ∈ ls, l.inside ∧ isWeak m l = false) →
        ∃ s1, exec (.ldv m g tag sp v a) s = .next s1 ∧ s.onlyRead s1 ∧ s1.m.t.pc = s.m.t.npc ∧
          s1.m.t.phase = (match (ls.filter parks).length with
            | 0 => .ready
            | 1 => .parked .mem
            | k => .parked (.members k)) ∧
          ∀ j l, ls[j]? = some l → (s.m.t.member j).lanesWritten (s1.m.t.member j) v.val (s.m.t.gov g j)
            (fun i => BitVec.ofNat 32 (s.m.number (l.key + 4 * i) 4)) tag) ∧
    (s.ready m [d, a] [a] → ad.toNat % 8 = 0 → ∀ l m1 p, s.m.resolve s.m.cur s.m.t.core .g ad 8 false = .ok (l, m1) →
      ((l.home = .peer p ∧ p ∈ s.m.portsUp ∧ p ∉ s.m.portsTrain ∧ Config.peerRefuses s.m.free = false) ∨
        (l.home = .root p ∧ s.m.t.answered = true)) →
      ∃ s1 w, exec (.ld m tag .d .g d a) s = .next s1 ∧ s.onlyRead s1 ∧ s1.m.t.pc = s.m.t.npc ∧
        s1.m.t.cell d.key = ⟨w, tag, none⟩ ∧ s1.m.t.cell 0 = ⟨w, tag, none⟩)

/-- 16 R304, R305, R311: ST, XST and STV store the low bytes of their source at their place and nowhere else, with the record
of what they replace in the log; a weak store waits, and memory is as it was.
What the spec leaves open here is the model's choice (log entries 3, 4 and 9). -/
def Obligations.Stores : Prop :=
  ∀ (s : State) (m : Option XMod) (g : Fin 8) (z : Size) (sp : Space) (d a : Opnd) (v : Fin 256), s.atRest →
    let ad := s.m.t.val a
    let n := match z with | .b => 1 | .h => 2 | .w => 4 | .d => 8
    let stores := fun (i : Instr) (l : Loc) (n : Nat) (f : Nat → Byte) => ∃ s1, exec i s = .next s1 ∧ s.onlyWrote s1 l ∧
      s1.m.fe = s.m.fe ∧ s.logged s1 l n ∧ s.m.storedAt s1.m l.key n f
    (s.ready m [d, a] [a] → ad.toNat % n = 0 → ∀ l m1, s.m.resolve s.m.cur s.m.t.core sp ad n true = .ok (l, m1) → l.inside →
      (isWeak m l = false → stores (.st m z sp d a) l n (byteOf (s.m.t.val d))) ∧
      (isWeak m l = true → ∃ s1, exec (.st m z sp d a) s = .next s1 ∧ s1.m.mem = s.m.mem ∧ s1.m.ctxs = s.m.ctxs ∧
        s1.m.t = s.m.t.retire ∧ s1.m.weak =
          [⟨s.m.t.gid, s.m.t.core, s.m.t.rec_, l, n, cellsFrom l.key (leBytes (s.m.t.val d).toNat n)⟩])) ∧
    (s.plain → s.rawOk m [a] → s.m.t.fol = [] →
      (∀ l, s.fit [d, a] → ad.toNat % 8 = 0 → s.m.reachS s.m.cur s.m.t.core ad 8 4 true = .ok l →
        stores (.xst m a (.d d)) l 8 (byteOf (s.m.t.val d))) ∧
      (∀ l, s.fit [d, a] → ad.toNat % 4 = 0 → s.m.reachS s.m.cur s.m.t.core ad 4 4 true = .ok l →
        stores (.xst m a (.w d)) l 4 (byteOf (s.m.t.val d))) ∧
      (∀ l, s.vfit [v] [a] → ad.toNat % 64 = 0 → s.m.reachS s.m.cur s.m.t.core ad 64 4 true = .ok l →
        stores (.xst m a (.v v)) l 64 (fun i => BitVec.ofNat 8 ((s.m.t.img.lane v.val (i / 4)).toNat / 256 ^ (i % 4)))) ∧
      (∀ l m1, s.vfit [v] [a] → ad.toNat % 64 = 0 → s.m.resolve s.m.cur s.m.t.core sp ad 64 true = .ok (l, m1) → l.inside →
        isWeak m l = false → s.m.t.gov g 0 ≠ 0 →
        stores (.stv m g sp v a) l 64 (fun i => if (s.m.t.gov g 0).getLsbD (i / 4)
          then BitVec.ofNat 8 ((s.m.t.img.lane v.val (i / 4)).toNat / 256 ^ (i % 4)) else s.m.byte (l.key + i))))

/-- 16 R309, R310: the full/empty operations on a scratchpad word. LDFE and LDFF read a full word, LDFE empties it, STFE fills an
empty one; where the condition does not hold the task waits, its instruction not completed. FESET and FECLR write the bit.
What the spec leaves open here is the model's choice (log entry 3). -/
def Obligations.FullEmpty : Prop :=
  ∀ (s : State) (m : Option XMod) (d a : Opnd), s.atRest → s.ready m [d, a] [a] → (s.m.t.val a).toNat % 8 = 0 →
    ∀ core off, scratchOf s.m.t.core (s.m.t.val a) = some (core, off) →
      (∀ need, need ≤ 3 → ∃ l, s.m.reachS s.m.cur s.m.t.core (s.m.t.val a) 8 need false = .ok l ∧ l.key = s.m.frontKey core off) →
    let k := s.m.frontKey core off
    let full := Tab.look false s.m.fe (k / 8)
    let bit := fun (s1 : State) (b : Bool) => ∀ j, Tab.look false s1.m.fe j = if j = k / 8 then b else Tab.look false s.m.fe j
    let regs := fun (s1 : State) => ∀ j, s1.m.t.cell j =
      if j = 0 ∨ j = d.key then ⟨BitVec.ofNat 64 (s.m.number k 8), .raw, none⟩ else s.m.t.cell j
    let rec_ := (s.m.siltWrite s.m.cur 1 k 8 (threadParty s.m.t.core) s.m.t.gid).ctxs
    let waits := fun (i : Instr) (op : Nat) => ∃ s1 o, exec i s = .next s1 ∧ s1.m.mem = s.m.mem ∧ s1.m.fe = s.m.fe ∧
      s1.m.ctxs = s.m.ctxs ∧ s1.m.t = { s.m.t with phase := .waiting (.word op core off d (s.m.t.val d) o true (acqOf m)) }
    (full = true →
      (∃ s1, exec (.ldfe m d a) s = .next s1 ∧ s1.m.t.pc = s.m.t.npc ∧ regs s1 ∧ bit s1 false ∧ s1.m.mem = s.m.mem ∧
        s1.m.ctxs = rec_) ∧
      (∃ s1, exec (.ldff m d a) s = .next s1 ∧ s1.m.t.pc = s.m.t.npc ∧ regs s1 ∧ s1.m.fe = s.m.fe ∧ s1.m.mem = s.m.mem ∧
        s1.m.ctxs = s.m.ctxs) ∧ waits (.stfe m d a) 2) ∧
    (full = false → waits (.ldfe m d a) 0 ∧ waits (.ldff m d a) 1 ∧
      ∃ s1, exec (.stfe m d a) s = .next s1 ∧ s1.m.t.pc = s.m.t.npc ∧ (∀ j, s1.m.t.cell j = s.m.t.cell j) ∧ bit s1 true ∧
        s.m.storedAt s1.m k 8 (byteOf (s.m.t.val d)) ∧ s1.m.ctxs = rec_) ∧
    (∃ s1, exec (.feset m a) s = .next s1 ∧ s1.m.t.pc = s.m.t.npc ∧ (∀ j, s1.m.t.cell j = s.m.t.cell j) ∧ bit s1 true ∧
      s1.m.mem = s.m.mem ∧ s1.m.ctxs = rec_) ∧
    (∃ s1, exec (.feclr m a) s = .next s1 ∧ s1.m.t.pc = s.m.t.npc ∧ (∀ j, s1.m.t.cell j = s.m.t.cell j) ∧ bit s1 false ∧
      s1.m.mem = s.m.mem ∧ s1.m.ctxs = rec_)

/-- 16 R313: an atomic delivers what stood at its place and stores the new value of as many bytes there, with its record; ACAS
stores nothing where the comparison fails.
What the spec leaves open here is the model's choice (log entry 9). -/
def Obligations.Atomics : Prop :=
  ∀ (s : State) (m : Option XMod) (w : Bool) (sp : ASpace) (d a b c : Opnd), s.atRest →
    let n := if w then 4 else 8
    let z : ASize := if w then .w else .d
    let ad := s.m.t.val a
    s.fit [d, a, b, c] → s.plain → s.rawOk m [a, b, c] → ad.toNat % n = 0 →
    ∀ l m1, s.m.atomicLoc sp ad n = .ok (l, m1) → l.inside →
      let old := BitVec.ofNat 64 (s.m.number l.key n)
      let y := s.m.t.val b
      let gives := fun (i : Instr) (nat : Bool) (new : Word) => ∃ s1, exec i s = .next s1 ∧ s1.m.t.pc = s.m.t.npc ∧
        (∀ k, s1.m.t.cell k = if k = 0 ∨ k = d.key then ⟨if nat then old else s.m.loaded l.key n false, .raw, none⟩ else s.m.t.cell k) ∧
        s.m.storedAt s1.m l.key n (byteOf new) ∧ s.logged s1 l n ∧ s1.m.fe = s.m.fe
      let lo : Word → Int := fun x => if w then (x.setWidth 32).toInt else x.toInt
      let un : Word → Nat := fun x => if w then (x.setWidth 32).toNat else x.toNat
      let zs : MSize := if w then .w else .d
      let zn : MSize := if w then .n32 else .n64
      gives (.axchg m z sp d a b) false y ∧
      gives (.aadd m z sp d a b) false (old + y) ∧
      gives (.aand m z sp d a b) false (old &&& y) ∧
      gives (.aor m z sp d a b) false (old ||| y) ∧
      gives (.axor m z sp d a b) false (old ^^^ y) ∧
      gives (.amin m zs sp d a b) false (if lo y < lo old then y else old) ∧
      gives (.amax m zs sp d a b) false (if lo old < lo y then y else old) ∧
      gives (.amin m zn sp d a b) true (if un y < un old then y else old) ∧
      gives (.amax m zn sp d a b) true (if un old < un y then y else old) ∧
      (un old = un y → gives (.acas m z sp d a b c) false (s.m.t.val c)) ∧
      (un old ≠ un y → ∃ s1, exec (.acas m z sp d a b c) s = .next s1 ∧ s.onlyRead s1 ∧ s1.m.t.pc = s.m.t.npc ∧
        s1.m.t.cell d.key = ⟨s.m.loaded l.key n false, .raw, none⟩)

/-- 16 R303, R314, 14 R272: FENCE performs its thread's waiting stores within its release's scope before it completes, and bars its
later weak loads from what was requested before its acquire; PVIS waits for the predecessors of its launch.
What the spec leaves open here is the model's choice (log entry 4). -/
def Obligations.Fences : Prop :=
  ∀ (s : State) (x : XMod), s.plain →
    let sees := fun (t : Task) (n : Nat) => if x.ord = .acq ∨ x.ord = .acqrel then (match x.scope with
      | .cl => { t with acqCl := n }
      | .dv => { t with acqCl := n, acqDv := n }
      | .sy => { t with acqCl := n, acqDv := n, acqSy := n }) else t
    let dv := s.done { s.m.t with acqCl := s.m.order, acqDv := s.m.order }
    (s.m.weak = [] → exec (.fence (some x)) s = .next (s.done (sees s.m.t s.m.order))) ∧
    ((x.ord = .rel ∨ x.ord = .acqrel) → ∀ s1, exec (.fence (some x)) s = .next s1 → s1.m.t.pc = s.m.t.npc → s.m.t.npc ≠ s.m.t.pc →
      s1.m.t.gid = s.m.t.gid → ∀ w ∈ s1.m.weak, w.gid = s.m.t.gid → w.loc.home.within (clusterOf s.m.t.core) x.scope = false) ∧
    (s.m.t.rec_ = none → exec .pvis s = .next dv) ∧
    (∀ r, s.m.t.rec_ = some r → (s.m.launch s.m.cur r).pending = 0 → exec .pvis s = .next dv) ∧
    (∀ r, s.m.t.rec_ = some r → 0 < (s.m.launch s.m.cur r).pending →
      exec .pvis s = .next { s with m := { s.m with t := { s.m.t with phase := .parked .order } } })

/-- 15 R281, R282, 16 R316 to R319: BINIT writes a barrier object, BARR credits it, BWAIT and GBAR wait for its epoch; every other
byte of memory is as it was.
What the spec leaves open here is the model's choice (log entry 21). -/
def Obligations.Barriers : Prop :=
  ∀ (s : State) (m : Option XMod) (k : Fin 16) (d a b : Opnd), s.atRest → s.fit [d, a, b] → s.plain → s.rawOk m [a, b] →
    (s.m.t.val a).toNat % 16 = 0 → ∀ core off, scratchOf s.m.t.core (s.m.t.val a) = some (core, off) →
    (∀ need, need ≤ 3 → ∃ l, s.m.reachS s.m.cur s.m.t.core (s.m.t.val a) 16 need false = .ok l ∧ l.key = s.m.frontKey core off) →
    let at_ := s.m.frontKey core off
    let o := s.m.bar core off
    let q := (s.m.t.val b).toNat
    let still := fun (s1 : State) => ∀ j, (j < at_ ∨ at_ + 16 ≤ j) → s1.m.byte j = s.m.byte j
    let bytes := fun (s1 : State) (l : List Byte) => ∀ i, i < l.length → s1.m.byte (at_ + i) = l.getD i 0
    let obj := fun (quota owed epoch : Nat) => leBytes quota 4 ++ leBytes owed 4 ++ leBytes epoch 2 ++
      [if o.err then 1 else 0, BitVec.ofNat 8 o.status]
    let e := (k.val + 1) % 16
    let e1 := (o.epoch + 1) % 16
    (q < 2 ^ 32 → ∃ s1, exec (.binit m a b) s = .next s1 ∧ s1.m.t.pc = s.m.t.npc ∧ (∀ j, s1.m.t.cell j = s.m.t.cell j) ∧
      still s1 ∧ bytes s1 (leBytes q 4 ++ leBytes q 4 ++ [0, 0, 0, 0, 0, 0, 0, 0])) ∧
    (2 ^ 32 ≤ q → Traps (.binit m a b) s 0x01 s.m.t.pc ∧ Traps (.barr m a b) s 0x01 s.m.t.pc) ∧
    (q < 2 ^ 32 → Tab.look [] s.m.gbars (core * 65536 + off) = [] → ∃ s1, exec (.barr m a b) s = .next s1 ∧
      s1.m.t.pc = s.m.t.npc ∧ (∀ j, s1.m.t.cell j = s.m.t.cell j) ∧ still s1 ∧
      (o.quota ≠ 0 → q < o.owed → bytes s1 (obj o.quota (o.owed - q) o.epoch)) ∧
      (o.quota ≠ 0 → o.owed ≤ q → bytes s1 (obj o.quota (o.quota - (q - o.owed) % o.quota)
        ((o.epoch + 1 + (q - o.owed) / o.quota) % 65536)))) ∧
    ((o.err = true ∨ (o.epoch + 65536 - e) % 16 < 8) → ∃ s1, exec (.bwait m k d a) s = .next s1 ∧ s1.m.mem = s.m.mem ∧
      s1.m.t.pc = s.m.t.npc ∧ ∀ j, s1.m.t.cell j = if j = 0 ∨ j = d.key
        then ⟨BitVec.ofNat 64 ((if o.err then 256 else 0) + o.status), .raw, none⟩ else s.m.t.cell j) ∧
    (o.err = false → 8 ≤ (o.epoch + 65536 - e) % 16 → ∃ s1 n, exec (.bwait m k d a) s = .next s1 ∧
      s1.m.t = { s.m.t with phase := .waiting (.barrier core off e d n true) } ∧ ∀ j, (j < at_ + 12 ∨ at_ + 14 ≤ j) →
        s1.m.byte j = s.m.byte j) ∧
    (s.m.t.gbarE = none → o.err = false → o.quota ≠ 0 → 1 < o.owed → ∃ s1 n, exec (.gbar m d a) s = .next s1 ∧ still s1 ∧
      s1.m.t = { s.m.t with phase := .waiting (.gbar core off e1 d n true), gbarE := some (core, off, e1) } ∧ bytes s1 (obj o.quota (o.owed - 1) o.epoch) ∧
      s.m.t.core ∈ Tab.look [] s1.m.gbars (core * 65536 + off))

/-! ### Traps, control registers and hints (09, 23, 24) -/

/-- 09 R180, R183: CRR gives every control register of the map, the tag 14 for TRAP_PC and TRAP_VEC and 0 for the others; any other
number traps ILL_OP. -/
def Obligations.ControlReads : Prop :=
  ∀ (s : State) (d : Opnd) (k v : Nat), s.plain → s.fit [d] →
    let t := s.m.t
    let c := t.ctl
    let y := (s.m.ctx s.m.cur).silt
    let bit := fun (b : Bool) (n : Nat) => if b then 2 ^ n else 0
    let view := fun (w : View) => w.count.toNat * 256 + w.base.toNat
    let win := fun (n : Nat) => s.m.window s.m.cur t.core n
    let map : List (Nat × Nat) :=
      [(0, s.m.cur), (1, t.gid), (2, t.core % 4096 * 16 + t.slot % 16), (3, t.workId.toNat), (4, c.widShape.toNat),
       (5, c.alloc.toNat), (6, view c.viewV), (7, view c.viewT), (8, view c.viewC), (9, c.fmtMode.toNat), (10, c.fpMode.toNat),
       (11, c.flgEn.toNat), (12, c.fpSup.toNat), (13, s.m.cycle),
       (14, match t.rec_ with | some r => (s.m.launch s.m.cur r).energy | none => 0), (16, c.trapPc.toNat),
       (17, bit c.trapCode.inH 16 + c.trapCode.member.toNat * 256 + c.trapCode.code.toNat), (18, c.trapAddr.toNat),
       (19, c.trapVec.toNat),
       (20, y.thresh % 256 * 65536 + bit y.isSealed 5 + bit y.xw 4 + bit y.pin 3 + bit y.horiz 2 + bit y.shedPolicy 1 + bit y.full 0),
       (21, y.horizon % 2 ^ 32 * 2 ^ 32 + y.current % 2 ^ 32), (24, c.wpAddr.toNat), (25, c.wpMask.toNat), (26, c.wpCtl.toNat),
       (27, c.stepCtl.toNat)] ++
      (List.range 4).map (fun n => (32 + n, (win n).base.toNat * 8)) ++ (List.range 4).map (fun n => (36 + n, (win n).lim.toNat * 8)) ++
      (List.range 4).map (fun n => (40 + n, (win n).rights.toNat))
    ((k, v) ∈ map → Gives (.crr d k) s d (BitVec.ofNat 64 v) (if k = 16 ∨ k = 19 then .addr else .raw)) ∧
    ((∀ p ∈ map, p.1 ≠ k) → Traps (.crr d k) s 0x01 s.m.t.pc)

/-- 09 R180, R183: CRW writes the RW registers of the map, reserved bits cleared, and leaves lt and everything else but the pc;
any other number traps ILL_OP. -/
def Obligations.ControlWrites : Prop :=
  ∀ (s : State) (m : Option XMod) (a : Opnd) (k : Nat), s.plain → s.fit [a] → s.rawOk m [a] →
    let v := s.m.t.val a
    let c := s.m.t.ctl
    let sets := fun (n : Nat) (c1 : Ctl) => exec (.crw m a n) s = .next (s.done { s.m.t with ctl := c1 })
    sets 9 { c with fmtMode := v.setWidth 1 } ∧
    sets 10 { c with fpMode := v.setWidth 3 } ∧
    sets 11 { c with flgEn := v.setWidth 9 &&& 0x11F } ∧
    sets 12 { c with fpSup := v.setWidth 12 } ∧
    sets 16 { c with trapPc := v.setWidth 52 } ∧
    sets 19 { c with trapVec := v.setWidth 52 } ∧
    (∀ n f, n < 4 → f < 3 → ∃ s1, exec (.crw m a (32 + 4 * f + n)) s = .next s1 ∧
      s1 = { s.done s.m.t with m := { (s.done s.m.t).m with windows := s1.m.windows } } ∧
      let w := s.m.window s.m.cur s.m.t.core n
      s1.m.window s.m.cur s.m.t.core n = (match f with
        | 0 => { w with base := (v >>> 3).setWidth 14 }
        | 1 => { w with lim := (v >>> 3).setWidth 14 }
        | _ => { w with rights := v.setWidth 3 }) ∧
      ∀ c0 co n0, n0 < 4 → c0 < 256 → (c0, co, n0) ≠ (s.m.cur, s.m.t.core, n) → s1.m.window c0 co n0 = s.m.window c0 co n0) ∧
    (k ∉ [9, 10, 11, 12, 16, 19] ++ (List.range 12).map (32 + ·) → Traps (.crw m a k) s 0x01 s.m.t.pc)

/-- 09 R165 to R168, R173, R466: taking an exception of a task in no gang and no region. On the handler route with a handler
enabled, and outside one, the trap registers are written and control goes to TRAP_VEC.ADDR, with no other register changed;
inside a handler, on the halt route, or with no handler enabled in a task that is no producer, the halt line is raised and the
trap registers are written but for IN; on the kernel's route the task waits and the trap enters the fault buffer. Where the line
is up already, the stop record will say the trap. What the spec leaves open here is the model's choice (log entry 84). -/
def Obligations.TrapEntry : Prop :=
  ∀ (m : Mach) (code : Nat) (addr : Word) (cause acc : Nat), m.t.region = none → m.t.fol = [] →
    m.t.phase = .ready → code < 256 → code ≠ 0x11 →
    let c := m.t.ctl
    let pc52 := m.t.pc.setWidth 52
    let m1 := m.raise code addr 0 cause acc
    let up := (m.ctx m.cur).halt.line && !(m.ctx m.cur).halt.complete
    let noted := if up then some (m.t.stop.getD ⟨0, code, addr, m.t.pc⟩) else m.t.stop
    let toHandler := code ∈ [1, 2, 3, 4, 5, 8, 9, 0xA, 0xB, 0xD, 0x10, 0x13]
    let halts := m1.t.ctl = { c with trapPc := pc52, trapAddr := addr, trapCode := ⟨c.trapCode.inH, 0, BitVec.ofNat 8 code⟩ } ∧
      (m1.ctx m.cur).halt.line = true ∧ m1.t.img = m.t.img ∧ m1.mem = m.mem ∧
      ∀ t ∈ m.others, t.gid ≠ m.t.gid → t ∈ m1.others
    let part := (m.ctx m.cur).part
    let free := fun i => i < 4096 ∧ m.faultAt part i = none ∧ ∀ j, j < i → m.faultAt part j ≠ none
    let full := ∀ i, i < 4096 → m.faultAt part i ≠ none
    let waits := fun (w : Wait) => m1.t = { m.t with phase := .waiting w, regang := 0, answered := false, stop := noted } ∧ m1.mem = m.mem
    (toHandler → c.trapVec.getLsbD 0 = true → c.trapCode.inH = false →
      let h := c.trapVec.setWidth 64 &&& ~~~1
      let t1 := { m.t with
        pc := h, npc := h, regang := 0, answered := false, passWatch := false, passBreak := false, stop := noted
        ctl := { c with trapPc := pc52, trapAddr := addr, trapCode := ⟨true, 0, BitVec.ofNat 8 code⟩ } }
      m1.t = t1 ∧ (up = false → m1 = { m with t := t1 })) ∧
    (c.trapCode.inH = true → halts) ∧
    (code = 0x0E ∨ code = 0x0F ∨ code = 0x12 → halts) ∧
    (toHandler → c.trapVec.getLsbD 0 = false → c.trapCode.inH = false → m.t.kind ≠ .producer → halts) ∧
    ((code = 0x0C ∨ code = 0x14) → c.trapCode.inH = false →
      (∀ i, free i → waits (if code = 0x0C then .tbl addr else .sysc addr.toNat) ∧ (5, m.cur) ∈ m1.irqs ∧
        ∃ f, m1.faultAt part i = some f ∧ f.ctx = m.cur ∧ f.cause = code ∧ f.waiters = 1 ∧ f.task = m.t.gid ∧ f.time = m.cycle) ∧
      (full → waits (.fault part 4096 code addr) ∧ m1.faults = m.faults)) ∧
    ((code = 6 ∨ code = 7) → c.trapCode.inH = false →
      m.pendingFault part m.cur (addr.toNat / 65536 * 65536) cause = none →
        (∀ i, free i → waits (.fault part i code addr) ∧
          ∃ f, m1.faultAt part i = some f ∧ f.va = addr.toNat / 65536 * 65536 ∧ f.ctx = m.cur ∧
            f.access = acc ∧ f.cause = cause ∧ f.waiters = 1 ∧ f.task = m.t.gid ∧ f.time = m.cycle) ∧
        (full → waits (.fault part 4096 code addr) ∧ m1.faults = m.faults))

/-- 09 R178, R179, 24 R416: in a task of no gang TRAP k enters the handler with TRAP_ADDR k, SYSC k waits for the kernel with its
number in the fault buffer, and BRK k halts, and the task resumes after it, or does nothing in a sealed context; RFE, in any task, returns to
TRAP_PC and leaves the handler, and traps outside one or on an odd TRAP_PC. -/
def Obligations.TrapInstructions : Prop :=
  ∀ (s : State) (k : Nat), s.plain →
    let t := s.m.t
    let c := t.ctl
    let idle := { t with regang := 0, answered := false }
    let down := (s.m.ctx s.m.cur).halt.line = false
    let part := (s.m.ctx s.m.cur).part
    (s.m.t.fol = [] → k < 2 ^ 64 → down → c.trapVec.getLsbD 0 = true → c.trapCode.inH = false →
      let h := c.trapVec.setWidth 64 &&& ~~~1
      let c1 := { c with trapPc := t.pc.setWidth 52, trapAddr := BitVec.ofNat 64 k, trapCode := ⟨true, 0, 0x13⟩ }
      exec (.trap k) s = .next { s with m := { s.m with
        t := { idle with pc := h, npc := h, passWatch := false, passBreak := false, ctl := c1 } } }) ∧
    (s.m.t.fol = [] → k < 2 ^ 64 → down → c.trapCode.inH = false →
      (∀ i, i < 4096 → s.m.faultAt part i = none → (∀ j, j < i → s.m.faultAt part j ≠ none) → ∃ s1, exec (.sysc k) s = .next s1 ∧
        s1 = { s with m := { s.m with t := { idle with phase := .waiting (.sysc k) }, irqs := s.m.irqs ++ [(5, s.m.cur)]
                                      faults := s1.m.faults } } ∧
        ∃ f, s1.m.faultAt part i = some f ∧ f.ctx = s.m.cur ∧ f.cause = 0x14 ∧ f.task = t.gid ∧ f.waiters = 1) ∧
      ((∀ i, i < 4096 → s.m.faultAt part i ≠ none) → exec (.sysc k) s = .next { s with m := { s.m with
        t := { idle with phase := .waiting (.fault part 4096 0x14 (BitVec.ofNat 64 k)) } } })) ∧
    ((s.m.ctx s.m.cur).isSealed = true → exec (.brk k) s = .next (s.done t)) ∧
    (s.m.t.fol = [] → k < 2 ^ 64 → (s.m.ctx s.m.cur).isSealed = false → down → ∃ s1, exec (.brk k) s = .next s1 ∧
      (s1.m.ctx s.m.cur).halt.line = true ∧ s1.m.t.pc = t.npc ∧ s1.m.t.stop = some ⟨0, 0x0F, BitVec.ofNat 64 k, t.pc⟩ ∧
      s1.m.t.img = t.img ∧ s1.m.mem = s.m.mem ∧ s1.m.t.ctl =
        { c with trapPc := t.pc.setWidth 52, trapAddr := BitVec.ofNat 64 k, trapCode := ⟨c.trapCode.inH, 0, 0x0F⟩ }) ∧
    (c.trapCode.inH = true → c.trapPc.getLsbD 0 = false →
      let c1 := { c with trapCode := { c.trapCode with inH := false } }
      exec .rfe s = .next (s.done { t with ctl := c1, npc := c.trapPc.setWidth 64 })) ∧
    (c.trapCode.inH = true → c.trapPc.getLsbD 0 = true → Traps .rfe s 0x05 (c.trapPc.setWidth 64)) ∧
    (c.trapCode.inH = false → Traps .rfe s 0x01 t.pc)

/-- 09 R181, R182, 23 R409, R410: HALT raises the context's halt line and completes; TLBINV drops the context's translations of an
address, or all of them, and parks until it is acknowledged; WMARK requests a marker and parks; PREF changes no register
and no memory. -/
def Obligations.SystemHints : Prop :=
  ∀ (s : State) (m : Option XMod) (d a : Opnd), s.plain →
    let c := s.m.cur
    let drops := fun (i : Instr) (gone : TlbEnt → Bool) => ∃ s1, exec i s = .next s1 ∧
      s1 = { s with m := { s.m with t := { s.m.t.retire with phase := .parked .tlb }, tlb := s1.m.tlb, dtlb := s1.m.dtlb } } ∧
      ∀ cl ∈ (s.m.partOf c).clusters,
        Tab.look [] s1.m.tlb cl = (Tab.look [] s.m.tlb cl).filter (fun e => !(e.ctx == c && gone e)) ∧
        Tab.look [] s1.m.dtlb (cl / 128) = (Tab.look [] s.m.dtlb (cl / 128)).filter (fun e => !(e.ctx == c && gone e))
    ((s.m.ctx c).halt.line = false → ∃ s1, exec .halt s = .next s1 ∧ (s1.m.ctx c).halt.line = true ∧
      (s1.m.ctx c).halt.origin = some s.m.t.gid ∧ s1.m.t = { s.m.t.retire with struck := true } ∧ s1.m.mem = s.m.mem ∧
      s1.m.others = s.m.others ∧ ∀ c0, c0 ≠ c → s1.m.ctx c0 = s.m.ctx c0) ∧
    drops (.tlbinv m none) (fun _ => true) ∧
    (s.fit [a] → s.rawOk m [a] → drops (.tlbinv m (some a))
      (fun e => decide (e.va ≤ (s.m.t.val a).toNat) && decide ((s.m.t.val a).toNat < e.va + e.size))) ∧
    (s.fit [d] → ∃ s1, exec (.wmark d) s = .next s1 ∧ s1.m.t = { s.m.t with phase := .parked (.marker d) } ∧ s1.m.mem = s.m.mem ∧
      (s1.m.ctx c).silt = { (s.m.ctx c).silt with requests := (s.m.ctx c).silt.requests ++ [(1, s.m.t.gid)] }) ∧
    (s.fit [a] → s.rawOk m [a] → exec (.pref m .line a) s = .next (s.done s.m.t) ∧
      ∃ s1, exec (.pref m .page a) s = .next s1 ∧ s1.m.t = s.m.t.retire ∧ s.onlyRead s1)

/-! ### Tabled calls (06) -/

/-- 02 R24, 06 R112, R117, R118, R129, R130, R137: TCALL of one to four arguments. A key that is held gives a cursor on its entry; one
that is not makes the first FREE way EVAL and starts its producer on the caller's slot, the caller suspended; with no
cursor free it traps TBL_EXHAUST.
What the spec leaves open here is the model's choice (log entry 27). -/
def Obligations.TabledCalls : Prop :=
  ∀ (s : State) (m : Option XMod) (f : TForm) (n w : Nat) (off : Int), s.atRest → s.plain →
    (f, n) ∈ [(TForm.n1, 1), (.n2, 2), (.n3, 3), (.n4, 4)] → 1 ≤ w → w < 32 → s.m.t.cursor w = none →
    (∀ j, 1 ≤ j → j < w → s.m.t.cursor j ≠ none) → (s.m.ctx s.m.cur).loam.moving = none →
    let t := s.m.t
    let c := s.m.cur
    let callee := t.pc + BitVec.ofInt 64 (2 * off)
    let key := [t.val (.code 1), t.val (.code 2), t.val (.code 3), t.val (.code 4)].take n
    let h := (callee :: key).foldl (fun h k => let x := (h ^^^ k) * 0xFF51AFD7ED558CCD#64; x ^^^ (x >>> 33))
      (0x9E3779B97F4A7C15#64 ^^^ (BitVec.ofNat 64 (n - 1) <<< 56))
    let set := h.toNat % (s.m.ctx c).loam.nsets
    let held := fun i => (s.m.entry c i).state ≠ .free ∧ (s.m.entry c i).form = n - 1 ∧ (s.m.entry c i).callee = callee ∧
      (s.m.entry c i).key = key
    let hd : RCell := ⟨BitVec.ofNat 64 (t.curGen % 2 ^ 24 * 256 + w), .raw, none⟩
    let called := fun (q : Task) i creation => (∀ k, q.cell k = if k = 0 ∨ k = 7 then hd else t.cell k) ∧
      q.cursor w = some ⟨i, 0, t.curGen, creation⟩ ∧ q.curGen = (t.curGen + 1) % 2 ^ 24
    (∀ i, i / 16 = set → held i → (∀ j, j / 16 = set → j < i → ¬ held j) → ∃ s1, exec (.tcall m f off) s = .next s1 ∧
      called s1.m.t i (s.m.entry c i).creation ∧ s1.m.t.pc = t.npc ∧ s1.m.t.phase = .parked .mem ∧ s1.m.mem = s.m.mem ∧
      (s1.m.entry c i).pins = (s.m.entry c i).pins + 1 ∧ (s1.m.entry c i).state = (s.m.entry c i).state ∧
      (s1.m.entry c i).answers = (s.m.entry c i).answers) ∧
    (∀ i, i / 16 = set → (∀ j, j / 16 = set → ¬ held j) → (s.m.entry c i).state = .free → s.roomy (s.m.lineBound c [i]) →
      (∀ j, j / 16 = set → j < i → (s.m.entry c j).state ≠ .free) → ∃ s1 q, exec (.tcall m f off) s = .next s1 ∧
      s1.m.mem = s.m.mem ∧ s1.m.others = s.m.others ++ [q] ∧ called q i ((s.m.ctx c).loam.creations + 1) ∧
      q.phase = .waiting (.suspend s1.m.t.gid) ∧ q.pc = t.npc ∧ q.gid = t.gid ∧ q.seat = none ∧
      s1.m.t.kind = .producer ∧ s1.m.t.pc = callee ∧ s1.m.t.seat = t.seat ∧ s1.m.t.produces = some i ∧
      s1.m.t.prodNo = (s.m.ctx c).loam.creations + 1 ∧ s1.m.t.caller = some t.gid ∧ s1.m.t.rec_ = t.rec_ ∧ s1.m.t.ctl.alloc = t.ctl.alloc ∧
      (∀ k, s1.m.t.cell k = if 1 ≤ k ∧ k ≤ n then { t.cell k with mark := none } else if k = 7 then ⟨0, .raw, none⟩ else .fresh) ∧
      let e := s1.m.entry c i
      e.state = .eval ∧ e.form = n - 1 ∧ e.callee = callee ∧ e.key = key ∧ e.answers = [] ∧ e.pins = 2 ∧ e.leader = i ∧
      e.creation = (s.m.ctx c).loam.creations + 1 ∧ e.producer = s1.m.t.gid) ∧
    (∀ s0 : State, (∀ j, 1 ≤ j → j < 32 → s0.m.t.cursor j ≠ none) → s0.plain → Traps (.tcall m f off) s0 0x0C 0) ∧
    ((∀ j, j / 16 = set → ¬ held j ∧ (s.m.entry c j).state ≠ .free ∧
        ((s.m.entry c j).state = .complete → (s.m.entry c j).pins ≠ 0)) →
      Traps (.tcall m f off) s 0x0C (BitVec.ofNat 64 ((s.m.ctx c).loam.va + 2048 * set)))

/-- 06 R118, R127, R138, R142, R143: TANS delivers the next answer, or says that there is no more or that the entry has failed, or
parks; TINFO tells of the cursor, and TREL releases it; a stale handle traps STALE_HANDLE. -/
def Obligations.Cursors : Prop :=
  ∀ (s : State) (m : Option XMod) (d : Opnd) (w : Fin 256) (n : Nat) (k : Cursor), s.plain → s.atRest →
    let t := s.m.t
    let c := s.m.cur
    let e := s.m.entry c k.entry
    let acq := fun (q : Task) => { q with acqCl := s.m.order, acqDv := s.m.order }
    let status := fun (v : Nat) (s1 : State) => s1.m.t.cell 0 = ⟨BitVec.ofNat 64 v, .raw, none⟩ ∧ s1.m.t.pc = t.npc ∧
      s1.m.t.phase = .ready ∧ s1.m.mem = s.m.mem
    let rest := fun (s1 : State) (p : Nat → Prop) => ∀ j, j ≠ 0 → ¬ p j → s1.m.t.cell j = t.cell j
    (s.handle n k →
      (w.val + 6 < t.ctl.alloc.toNat →
        (e.state = .failed → ∃ s1, exec (.tans m (.slot w)) s = .next s1 ∧ status 2 s1 ∧ rest s1 (· = 8 + w.val) ∧
          s1.m.t.cell (8 + w.val) = ⟨BitVec.ofNat 64 e.code, .raw, none⟩) ∧
        (∀ v, e.state ≠ .failed → e.answers[k.pos]? = some v → v.length = 7 → ∃ s1, exec (.tans m (.slot w)) s = .next s1 ∧
          status 0 s1 ∧ rest s1 (fun j => 8 + w.val ≤ j ∧ j < 15 + w.val) ∧
          (∀ i, i < 7 → s1.m.t.cell (8 + w.val + i) = ⟨v.getD i 0, .raw, none⟩) ∧
          s1.m.t.cursor n = some { k with pos := k.pos + 1 }) ∧
        (e.state = .complete → e.answers[k.pos]? = none →
          exec (.tans m (.slot w)) s = .next (s.done (acq (t.putCell 0 ⟨1, .raw, none⟩)))) ∧
        (e.state = .eval → e.answers[k.pos]? = none → t.produces = none → t.caller = none → ∃ s1, exec (.tans m (.slot w)) s =
          .next s1 ∧ s1.m.t.phase = .waiting (.answer k.entry) ∧ s1.m.t.pc = t.pc ∧ s1.m.t.img = t.img ∧ s1.m.mem = s.m.mem)) ∧
      (t.ctl.alloc.toNat ≤ w.val + 6 →
        Traps (.tans m (.slot w)) s 0x03 (BitVec.ofNat 64 (Nat.max w.val t.ctl.alloc.toNat))) ∧
      (∀ q v, (q, v) ∈ [(0, match e.state with | .free => 0 | .eval => 1 | .complete => 2 | .failed => 3), (1, e.answers.length),
          (2, k.pos), (3, if e.state = .failed then e.code else 0), (4, k.entry),
          (5, if e.state = .eval then e.leader else k.entry), (6, e.creation), (7, e.pins)] → s.fit [d] →
        Gives (.tinfo m d q) s d (BitVec.ofNat 64 v) .raw) ∧
      (∃ s1, exec (.trel m) s = .next s1 ∧ s1.m.t.cursor n = none ∧ (s1.m.entry c k.entry).pins = e.pins - 1 ∧
        s1.m.t.img = t.img ∧ s1.m.t.pc = t.npc ∧ s1.m.mem = s.m.mem ∧ ∀ j, j ≠ n → s1.m.t.cursor j = t.cursor j)) ∧
    ((∀ n k, ¬ s.handle n k) → s.fit [d] → let h := t.val a7
      Traps (.tans m (.slot w)) s 0x09 h ∧ (∀ q, Traps (.tinfo m d q) s 0x09 h) ∧ Traps (.trel m) s 0x09 h)

/-- 02 R25, R28, 06 R126, R129, R139 to R141, 05 R107: in a producer TRET appends a new answer to its entry and discards one that is
held; TDONE and EXIT end it as DONE; TFAIL ends it with every member of its group FAILED; one whose entry has gone discards its
answers and only ends. Outside a producer they trap ILL_OP, and EXIT ends the task, what is left of its interval going to a
new task of its record. What the spec leaves open here is the model's choice (log entries 32, 75 and 83). -/
def Obligations.Producers : Prop :=
  ∀ (s : State) (m : Option XMod) (w : Fin 256) (a : Opnd) (e : Nat), s.atRest → s.plain →
    let t := s.m.t
    let c := s.m.cur
    let x := s.m.entry c e
    let v := (List.range 7).map fun i => (t.cell (8 + w.val + i)).read
    let fits := w.val + 6 < t.ctl.alloc.toNat
    let ended := fun (s1 : State) => s1.m.t.phase = .ended ∧ s1.m.t.seat = none ∧ s1.m.t.gid = t.gid ∧ s1.m.mem = s.m.mem
    (s.m.produced t = some e → fits →
      (x.state = .eval → v ∉ x.answers → 0 < (s.m.ctx c).loam.ansFree → s.roomy (s.m.lineBound c [e]) →
        ∃ s1, exec (.tret m (.slot w)) s = .next s1 ∧
        (s1.m.entry c e).answers = x.answers ++ [v] ∧ (s1.m.ctx c).loam.ansFree = (s.m.ctx c).loam.ansFree - 1 ∧
        s1.m.t.img = t.img ∧ s1.m.t.pc = t.npc ∧ s1.m.mem = s.m.mem) ∧
      (x.state = .eval → v ∉ x.answers → (s.m.ctx c).loam.ansFree = 0 → Traps (.tret m (.slot w)) s 0x0C 1) ∧
      ((x.state ≠ .eval ∨ v ∈ x.answers) → exec (.tret m (.slot w)) s = .next (s.done t))) ∧
    (s.m.produced t = some e → x.state = .eval → s.roomy (s.m.lineBound c (s.m.members c x.leader)) →
      (∀ i, i = Instr.tdone ∨ i = .exit → ∃ s1, exec i s = .next s1 ∧ ended s1 ∧ (s1.m.entry c e).pdone = true ∧
        (s1.m.entry c e).answers = x.answers) ∧
      (s.fit [a] → ∃ s1, exec (.tfail m a) s = .next s1 ∧ ended s1 ∧ ∀ i ∈ s.m.members c x.leader,
        (s1.m.entry c i).state = .failed ∧ (s1.m.entry c i).code = (t.val a).toNat % 65536)) ∧
    (t.produces.isSome → s.m.produced t = none → s.fit [a] →
      (fits → exec (.tret m (.slot w)) s = .next (s.done t)) ∧
      ∀ i, i = Instr.tdone ∨ i = .exit ∨ i = .tfail m a → ∃ s1, exec i s = .next s1 ∧ ended s1 ∧ ∀ j,
        (s1.m.entry c j).state = (s.m.entry c j).state ∧ (s1.m.entry c j).answers = (s.m.entry c j).answers) ∧
    (t.produces = none → Traps .tdone s 0x01 t.pc ∧ Traps (.tret m (.slot w)) s 0x01 t.pc ∧ Traps (.tfail m a) s 0x01 t.pc ∧
      (∀ r, t.rec_ = some r → t.lo < t.hi → (t.kind = .graph ∨ t.kind = .range) →
        s.m.find (gidOf c (s.m.takeSerial c t.cluster).1) = none → ∃ s1, exec .exit s = .next s1 ∧ ended s1 ∧
        ∃ q ∈ s1.m.others, q.kind = .range ∧ q.rec_ = some r ∧ q.lo = t.lo ∧ q.hi = t.hi ∧ q.isSealed = t.isSealed ∧
          q.cluster = t.cluster ∧ q.phase = .ready ∧ q.workId = BitVec.ofNat 64 t.lo) ∧
      ((t.hi ≤ t.lo ∨ t.kind = .message) → ∃ s1, exec .exit s = .next s1 ∧ ended s1))

/-! ### Launches and tasks (04, 14, 19) -/

/-- 04 R70, 14 R271, 05 R106, 19 R359: RNEXT delivers the next index of a range task; LEARLY seals its interval; YIELD gives up the
slot where another task could take it, and otherwise keeps it; SPAWN gives the upper part of the interval to a new task. -/
def Obligations.RangeTasks : Prop :=
  ∀ (s : State) (m : Option XMod) (d a b : Opnd), s.plain → s.atRest →
    let t := s.m.t
    let ranges := t.kind = .graph ∨ t.kind = .range
    let i := BitVec.ofNat 64 t.lo
    (s.fit [d] → ranges → t.lo < t.hi →
      exec (.rnext d) s = .next (s.done ({ t with lo := t.lo + 1, workId := i }.wr d i .raw))) ∧
    (s.fit [d] → (¬ ranges ∨ t.hi ≤ t.lo) → exec (.rnext d) s = .next (s.done (t.wr d (BitVec.allOnes 64) .raw))) ∧
    (ranges → exec .learly s = .next (s.done { t with isSealed := true })) ∧
    (¬ ranges → exec .learly s = .next (s.done t)) ∧
    (s.m.contested t.core t.gid = false → exec .yield s = .next (s.done t)) ∧
    (s.m.contested t.core t.gid = true → ∃ s1, exec .yield s = .next s1 ∧ s1.m.t.seat = none ∧ s1.m.t.pc = t.npc ∧
      s1.m.t.phase = .ready ∧ s1.m.t.img = t.img ∧ s1.m.t.gid = t.gid ∧ s1.m.mem = s.m.mem ∧ s1.m.others = s.m.others) ∧
    (s.ready m [d, a, b] [a, b] →
      let k := (t.val a).toNat
      ((t.rec_ = none ∨ ¬ ranges ∨ k ≤ t.lo ∨ t.hi ≤ k) → Gives (.spawn m d a b) s d 0 .raw) ∧
      (∀ r, t.rec_ = some r → ranges → t.lo < k → k < t.hi → ∃ s1 q, exec (.spawn m d a b) s = .next s1 ∧
        s1.m.others = s.m.others ++ [q] ∧ q.kind = .range ∧ q.rec_ = some r ∧ q.lo = k ∧ q.hi = t.hi ∧ q.phase = .ready ∧
        q.isSealed = false ∧ q.workId = BitVec.ofNat 64 k ∧ q.cluster = (if (t.val b).toNat ∈ (s.m.partOf s.m.cur).clusters
          then (t.val b).toNat else t.cluster) ∧ s1.m.t.lo = t.lo ∧ s1.m.t.hi = k ∧ s1.m.t.pc = t.npc ∧ s1.m.mem = s.m.mem ∧
        (s1.m.launch s.m.cur r).live = (s.m.launch s.m.cur r).live + 1 ∧
        ∀ j, s1.m.t.cell j = if j = 0 ∨ j = d.key then ⟨BitVec.ofNat 64 (t.hi - k), .raw, none⟩ else t.cell j))

/-- 19 R347, R349, R351, R362: LPATCH replaces one field of a record; LARM arms a record whose fields stand, and starts it where
nothing is pending; neither acts on a record above 4,095, or on one ARMED or RUNNING; LPATCH checks d's tag first.
What the spec leaves open here is the model's choice (log entry 29). -/
def Obligations.Records : Prop :=
  ∀ (s : State) (m : Option XMod) (d a : Opnd) (k : Nat), s.atRest → s.ready m [d, a] [a] → s.roomy 8 →
    let t := s.m.t
    let c := s.m.cur
    let r := (t.val a).toNat
    let p := s.m.launch c r
    let idle := p.state = .idle ∨ p.state = .retired
    let still := fun (s1 : State) => s1.m.t = t.retire ∧ s1.m.mem = s.m.mem
    (r ≤ 4095 → idle →
      (s.rawOk m [d] → ∃ s1, exec (.lpatch m d a k) s = .next s1 ∧ still s1 ∧ s1.m.others = s.m.others ∧
        (s1.m.launch c r) = { p with r := (s1.m.launch c r).r } ∧
        (∀ q, q ≠ r → s1.m.launch c q = s.m.launch c q) ∧
        let r1 := (s1.m.launch c r).r
        (k < 6 → (∀ j, r1.args.getD j 0 = if j = k then t.val d else p.r.args.getD j 0) ∧ r1 = { p.r with args := r1.args }) ∧
        (k = 6 → r1 = { p.r with lo := (t.val d).toNat }) ∧ (k = 7 → r1 = { p.r with hi := (t.val d).toNat }) ∧
        (8 ≤ k → (∀ j, r1.tiles.getD j 0 = if j = k - 8 then (t.val d).toNat else p.r.tiles.getD j 0) ∧
          r1 = { p.r with tiles := r1.tiles })) ∧
      (recordFault p.r = none → 0 < p.r.npred → ∃ s1, exec (.larm m a) s = .next s1 ∧ still s1 ∧ s1.m.others = s.m.others ∧
        let p1 := s1.m.launch c r
        p1.state = .armed ∧ p1.pending = p.r.npred ∧ p1.energy = 0 ∧ p1.live = 0 ∧ p1.earlyOn = false ∧ p1.r = p.r) ∧
      (recordFault p.r = none → p.r.npred = 0 → ∃ s1 q, exec (.larm m a) s = .next s1 ∧ s1.m.mem = s.m.mem ∧
        s1.m.t.pc = t.npc ∧ s1.m.t.img = t.img ∧ s1.m.others = s.m.others ++ [q] ∧ q.kind = .graph ∧ q.rec_ = some r ∧
        q.lo = p.r.lo ∧ q.hi = p.r.hi ∧ q.workId = BitVec.ofNat 64 p.r.lo ∧ q.pc = BitVec.ofNat 64 p.r.entry ∧ q.phase = .ready ∧
        let p1 := s1.m.launch c r
        p1.state = .running ∧ p1.pending = 0 ∧ p1.live = 1 ∧ p1.earlyOn = false ∧ p1.r = p.r) ∧
      (p.r.entry % 2 = 1 → Traps (.larm m a) s 0x01 (BitVec.ofNat 64 (s.m.recAddr c r))) ∧
      (p.r.entry % 2 = 0 → p.r.hi < p.r.lo → Traps (.larm m a) s 0x01 (BitVec.ofNat 64 (s.m.recAddr c r + 8)))) ∧
    (¬ s.rawOk m [d] → Traps (.lpatch m d a k) s 0x04 t.pc) ∧
    (4095 < r → Faults (.larm m a) s 1 2 (t.val a) ∧ (s.rawOk m [d] → Faults (.lpatch m d a k) s 1 2 (t.val a))) ∧
    (r ≤ 4095 → ¬ idle → let at_ := BitVec.ofNat 64 (s.m.recAddr c r)
      Faults (.larm m a) s 1 2 at_ ∧ (s.rawOk m [d] → Faults (.lpatch m d a k) s 1 2 at_))

/-- 19 R360: MSEND, TBLK and TUNBLK send to a handle that stands, and the thread parks until the owner answers; a reserved bit
traps ILL_OP, a core outside the partition PROT, channel 63 STALE_HANDLE, in this order.
What the spec leaves open here is the model's choice (log entry 29). -/
def Obligations.Messages : Prop :=
  ∀ (s : State) (m : Option XMod) (a : Opnd), s.ready m [a] [a] → s.atRest →
    let h := s.m.t.val a
    let core := h.toNat % 4096
    let chan := h.toNat / 4096 % 64
    let sends := fun (i : Instr) (op : Nat) (ws : List Word) =>
      exec i s = .next { s with m := { s.m with t := { s.m.t with phase := .sending { op := op, handle := h, words := ws } } } }
    let all := [Instr.msend m a, .tblk m a, .tunblk m a]
    (h.toNat < 2 ^ 42 → s.m.ownsCore s.m.cur core = true → chan ≠ 63 →
      sends (.msend m a) 0 [s.m.t.val (.code 1), s.m.t.val (.code 2), s.m.t.val (.code 3), s.m.t.val (.code 4)] ∧
      sends (.tblk m a) 1 [] ∧ sends (.tunblk m a) 2 []) ∧
    (2 ^ 42 ≤ h.toNat → ∀ i ∈ all, Traps i s 0x01 s.m.t.pc) ∧
    (h.toNat < 2 ^ 42 → s.m.ownsCore s.m.cur core = false → ∀ i ∈ all, Faults i s 1 0 h) ∧
    (h.toNat < 2 ^ 42 → s.m.ownsCore s.m.cur core = true → chan = 63 → ∀ i ∈ all, Traps i s 0x09 h)

/-! ### Reconciling regions (20, 21) -/

/-- 20 R363 to R366, 21 R373 to R375, R382 to R385: ABEGIN opens a region with what an abort restores; ACOMMIT of an empty one
closes it, and parks where there is something to lock; AABORT restores and gives its cause in lt; ASTAT reads the status.
A commit at its home either makes every store and adjusts every register, or writes nothing and aborts with CONFLICT.
What the spec leaves open here is the model's choice (log entries 3 and 24). -/
def Obligations.Regions : Prop :=
  ∀ (s : State) (d : Opnd) (off : Int) (k : Nat),
    let t := s.m.t
    let saved : Saved := ⟨t.img, t.x, t.fol, t.ctl⟩
    let restored := fun (t1 : Task) (r : Region) (cause : Nat) => t1.region = none ∧ t1.pc = r.fail ∧ t1.ctl = r.saved.ctl ∧
      t1.x = r.saved.x ∧ t1.fol = r.saved.fol ∧ t1.img.p = r.saved.img.p ∧ t1.img.fl = r.saved.img.fl ∧ t1.rstat.ok = false ∧
      t1.rstat.cause = cause % 256 ∧
      ∀ j, t1.cell j = if j = 0 then ⟨BitVec.ofNat 64 cause, .raw, none⟩ else Tab.look .fresh r.saved.img.regs j
    (s.plain → exec (.abegin off) s = .next (s.done { t with
        region := some { fail := t.pc + BitVec.ofInt 64 (2 * off), saved := saved },
        rstat := { t.rstat with insns := 0, cons := 0, stores := 0, slots := 0 } }) ∧
      Traps .acommit s 0x01 t.pc ∧ Traps (.aabort k) s 0x01 t.pc ∧
      (s.fit [d] → let y := t.rstat
        Gives (.astat d) s d (BitVec.ofNat 64 (y.insns % 256 * 2 ^ 40 + y.cons % 32 * 2 ^ 35 + y.stores % 16 * 2 ^ 31 +
          y.slots % 16 * 2 ^ 27 + y.cause % 256 * 2 ^ 16 + (if y.adj then 64 else 0) + (if y.ok then 32 else 0))) .raw)) ∧
    (∀ r, t.region = some r → t.phase = .ready → t.rstat.insns ≤ 128 →
      (r.slots = [] → r.stores = [] → ∃ s1, exec .acommit s = .next s1 ∧ s1.m.t.region = none ∧ s1.m.t.pc = t.npc ∧
        s1.m.t.rstat.ok = true ∧ s1.m.mem = s.m.mem ∧ ∀ j, s1.m.t.cell j = { t.cell j with mark := none }) ∧
      ((r.slots ≠ [] ∨ r.stores ≠ []) → exec .acommit s = .next { s with m := { s.m with t := { t with phase := .parked .commit } } }) ∧
      (∃ s1, exec (.aabort k) s = .next s1 ∧ restored s1.m.t r (abExplicit k) ∧ s1 = { s with m := { s.m with t := s1.m.t } }) ∧
      (((r.shadowed d.key).shadowed 0).over = none → s.fit [d] → ∃ s1, exec (.astat d) s = .next s1 ∧ s1.m.t.pc = t.npc ∧ s1.m.mem = s.m.mem ∧
        ∀ j, (s1.m.t.cell j).val = if j = 0 ∨ j = d.key then
          BitVec.ofNat 64 (t.rstat.insns % 256 * 2 ^ 40 + (r.cons.length + r.pins) % 32 * 2 ^ 35 + r.stores.length % 16 * 2 ^ 31 +
            r.slots.length % 16 * 2 ^ 27 + t.rstat.cause % 256 * 2 ^ 16 + 128 + (if t.rstat.adj then 64 else 0) +
            (if t.rstat.ok then 32 else 0)) else (t.cell j).val)) ∧
    (∀ r, t.region = some r → t.phase = .parked .commit → s.atRest → (∀ w ∈ r.stores, w.remote = none ∧ w.at_.key < 2 ^ 52) →
      (s.m.ctx s.m.cur).silt.room (96 * (r.stores.length + 1)) = true →
      let δ := fun i => match r.slots[i]? with
        | some q => s.m.loaded q.at_.key q.at_.size q.zext - q.observed
        | none => 0
      let adj := fun (x : Mark) => if x.neg then -δ x.slot else δ x.slot
      let mark := fun (x : Option Mark) => match x with
        | none => 0
        | some x => match r.slots[x.slot]? with
          | some q => if q.pinned then 0 else adj x
          | none => 0
      let agree := (∀ (i : Nat) (q : SymSlot), r.slots[i]? = some q → q.pinned = true → δ i = 0) ∧
        ∀ c ∈ r.cons, condHolds c.cond (if c.swapped then c.x else c.x + adj c.mark) (if c.swapped then c.y + adj c.mark else c.y) =
          c.outcome
      (∀ q ∈ r.slots, q.at_.size = 1 ∨ q.at_.size = 2 ∨ q.at_.size = 4 ∨ q.at_.size = 8) →
      (agree → ∃ s1, exec (.commitAtHome t.gid) s = .next s1 ∧ s1.m.t.region = none ∧ s1.m.t.phase = .ready ∧
        s1.m.t.pc = t.npc ∧ s1.m.t.rstat.ok = true ∧
        (∀ j, s1.m.t.cell j = ⟨(t.cell j).val + mark (t.cell j).mark, (t.cell j).tag, none⟩) ∧
        (∀ j, (∀ w ∈ r.stores, j < w.at_.key ∨ w.at_.key + w.at_.size ≤ j) → s1.m.byte j = s.m.byte j) ∧
        ∀ w, r.stores = [w] → ∀ i, i < w.at_.size → s1.m.byte (w.at_.key + i) = byteOf (w.val + mark w.mark) i) ∧
      (¬ agree → ∃ s1, exec (.commitAtHome t.gid) s = .next s1 ∧ restored s1.m.t r 1 ∧ s1.m.mem = s.m.mem ∧ s1.m.ctxs = s.m.ctxs))

/-! ### The matrix unit (13, 11) -/

/-- 13 R246, R250, R253, R259 to R267, 11 R204: MOP, MOPS, MCONV and MSCHED join their core's queue once their checks hold, a MOP
adding its bound term; MZERO makes its tile
live and zero; MWAIT waits for a tile's commands; MSTAT reads its status and MQW a weight.
What the spec leaves open here is the model's choice (log entries 29, 35 and 36). -/
def Obligations.MatrixCommands : Prop :=
  ∀ (s : State) (m : Option XMod) (q : Fin 2) (a b d : Opnd) (w : Blk) (f : McFmt) (ac : Bool) (e : Int) (k : Nat),
    s.plain → s.atRest →
    let t := s.m.t
    let core := t.core
    let tile := s.m.tile core q.val
    let queue := s.m.mqueue core
    let mine := tile.holder = some t.gid
    let x := (t.val a).toNat
    let y := (t.val b).toNat
    let at_ := BitVec.ofNat 64 (0x8000000000000000 + q.val)
    let joins := fun (i : Instr) (c : MCmd) (bound : Nat) => ∃ s1, exec i s = .next s1 ∧ s1.m.t = t.retire ∧ s1.m.mem = s.m.mem ∧
      s1.m.mqueue core = queue ++ [⟨t.gid, t.rec_, t.pc.toNat, s.m.order + 1, false, c, 0⟩] ∧ (s1.m.tile core q.val).bound = bound ∧
      (∀ j, j < 2 → j ≠ q.val → s1.m.tile core j = s.m.tile core j)
    let open_ := (∀ c ∈ queue, c.counts = true) ∧ queue.length < 16
    let need := fun (sparse : Bool) => if sparse then 64 else 32
    let ha := fun sparse => (List.range (need sparse)).map fun i => s.m.hdrAt (actKey core (x + 64 * i))
    let hb := (List.range 128).map fun n => s.m.hdrAt (kaolinKey (clusterOf core) (8192 * y + 64 * n))
    let slot := Tab.look {} (s.m.mtx (clusterOf core)).slots y
    (open_ → mine → s.fit [a, b] → s.rawOk m [a, b] →
      (∀ (sparse : Bool) (i : Instr), (i = if sparse then Instr.mops m w w q a b else .mop m w w q a b) → ¬ (sparse ∧ w = .s16) →
        x % 64 = 0 → x + 64 * need sparse ≤ 65536 → y < 64 → slot.state = .ready → slot.owner = s.m.cur →
        (∀ h ∈ ha sparse, blkMark h.1 = true ∧ blkWidth h.1 = w) → (∀ h ∈ hb, blkWidth h.1 = w) →
        joins i (.mop sparse q.val x y w (ha sparse) hb)
          (if sparse then tile.bound else growBound tile.bound (tileTerm tile.e0 w (ha sparse) hb))) ∧
      (x % 64 ≠ 0 → Traps (.mop m w w q a b) s 0x05 (t.val a))) ∧
    (open_ → ¬ mine → s.fit [a, b] → s.rawOk m [a, b] → Faults (.mop m w w q a b) s 1 0 at_) ∧
    (open_ → s.fit [a, b] → s.rawOk m [a, b] → Traps (.mops m .s16 .s16 q a b) s 0x0B t.pc ∧
      Traps (.mop m .s8 .s4 q a b) s 0x0B t.pc) ∧
    (open_ → mine → s.fit [a] → (t.tag a = .raw ∨ t.tag a = .addr ∨ t.tag a = .unwritten) → x % 64 = 0 →
      x + (if f = .f32 then 16384 else 8192) ≤ 32768 →
      joins (.mconv m f ac q a) (.mconv q.val x f ac (t.fctx m).rnd (t.fctx m).flush) tile.bound) ∧
    (open_ → s.fit [a, b] → s.rawOk m [a, b] → x % 64 = 0 → y % 16 = 0 → y + 16 ≤ 65536 →
      joins (.msched m a b) (.msched { table := x, bar := y, rnd := (t.fctx none).rnd, flush := (t.fctx none).flush }) tile.bound) ∧
    (queue = [] → (tile.holder = none ∨ mine) → ∃ s1, exec (.mzero q e) s = .next s1 ∧ s1.m.t = t.retire ∧
      s1.m.mem = s.m.mem ∧ s1.m.mqueue core = [] ∧ let u := s1.m.tile core q.val
      u.holder = some t.gid ∧ u.els = [] ∧ u.e0 = e ∧ u.bound = 0 ∧ u.ops = 0 ∧ u.metaBad = false ∧ u.cvt = false ∧
      u.boundHit = false ∧ u.shift = false ∧ u.uf = false ∧ u.of = false ∧ u.nx = false) ∧
    (∀ g, tile.holder = some g → g ≠ t.gid → Faults (.mzero q e) s 1 0 at_ ∧ Faults (.mwait q) s 1 0 at_) ∧
    (tile.holder = none → exec (.mwait q) s = .next (s.done t)) ∧
    (mine → (∀ c ∈ queue, c.cmd.tile ≠ some q.val) → ∃ s1, exec (.mwait q) s = .next s1 ∧ s1.m.mem = s.m.mem ∧
      s1.m.t = { t.retire with acqCl := s.m.order } ∧
      (s1.m.tile core q.val).holder = if tile.lastQ ≤ tile.waited then none else tile.holder) ∧
    (mine → (∃ c ∈ queue, c.cmd.tile = some q.val ∧ c.reach ≤ s.m.order) →
      exec (.mwait q) s = .next { s with m := { s.m with t := { t with phase := .parked (.mwait q.val s.m.order) } } }) ∧
    (s.fit [d] → let bit := fun (b : Bool) (n : Nat) => if b then 2 ^ n else 0
      (tile.lastCtx ≠ some s.m.cur → Gives (.mstat d q) s d 0 .raw) ∧
      (tile.lastCtx = some s.m.cur → Gives (.mstat d q) s d (BitVec.ofNat 64 (tile.ops % 65536 * 2 ^ 32 +
        bit tile.holder.isSome 31 + bit (decide mine) 30 +
        (queue.filter fun c => c.counts && c.cmd.tile == some q.val).length % 32 * 2 ^ 25 + (tile.e0 % 512).toNat * 2 ^ 16 +
        bit tile.metaBad 7 + bit tile.cvt 6 + bit tile.boundHit 5 + bit tile.shift 4 + bit tile.uf 2 + bit tile.of 1 +
        bit tile.nx 0)) .raw)) ∧
    (∃ s1, exec (.mqw k) s = .next s1 ∧ s1.m.t = t.retire ∧ s1.m.mem = s.m.mem ∧
      (s1.m.mtx (clusterOf core)).weight (core % 8) s.m.cur = k ∧ s1.m.mqueue core = queue)

/-- 11 R202: the residues of a tile element hold an integer of (−M/2, M/2] exactly, and adding keeps them exact. -/
def Obligations.ResidueTiles : Prop :=
  ∀ (x v : Int),
    let h : Int := 65535 * 32768 * 65537;
    (-h < x) → x ≤ h → (-h < x + v) → x + v ≤ h →
      (({} : Res).add x).toInt = x ∧ ((({} : Res).add x).add v).toInt = x + v

/-- 13 R251 to R253, R257, R258, R262, R263, R267, R268: the blocks of the operation at a queue's head are fed into its core's row
buffer; the arbiter starts the operation at the head of the core it stands at, or notes that it waits for metadata, which
times out into a fault; an operation that is final enters its tile and leaves its queue; a conversion writes a column of
the accumulator buffer at a time; a schedule issues its entries and ends.
What the spec leaves open here is the model's choice (log entries 36, 37 and 38). -/
def Obligations.MatrixEvents : Prop :=
  ∀ (s : State) (cl i : Nat) (e : QEnt), s.m.errs = [] → i < 8 →
    let core := 8 * cl + i
    let x := s.m.mtx cl
    let c := ctxOf e.gid
    let runs := c ∉ x.stopped ∧ (s.m.ctx c).halt.line = false ∧ (s.m.ctx c).killed = false
    let others := fun (s1 : State) => s1.m.t = s.m.t ∧ s1.sys = s.sys ∧ ∀ j, j ≠ cl → s1.m.mtx j = s.m.mtx j
    (∀ (sparse : Bool) q a slot w ha hb rest, x.run = none → runs → s.m.mqueue core = e :: rest →
      e.cmd = .mop sparse q a slot w ha hb →
      let n := if sparse then metaNeed w else 0
      let entries := Tab.look [] x.metaq i
      let held := blocksHeld (Tab.look none x.rows i) e
      let lacks := fun (k : Nat) => k < (if sparse then 64 else 32) ∧ Tab.look [] held k = []
      let bound := (s.m.tile core q).bound
      ((∀ j, j < i → s.m.feeding cl j = none) → (∃ k, lacks k) → ∃ s1 k r, lacks k ∧ exec (.tileOpStart cl) s = .next s1 ∧
        others s1 ∧ s1.m.mem = s.m.mem ∧ (s1.m.mtx cl).run = none ∧ s1.m.mqueue core = e :: rest ∧
        Tab.look none (s1.m.mtx cl).rows i = some r ∧ r.ent = e ∧
        ∀ j, Tab.look [] r.blocks j = if j = k then s.m.peek (actKey core (a + 64 * k)) 64 else Tab.look [] held j) ∧
      (s.m.feedNext cl = none → x.visit = i → x.used < x.weight i c →
        (n ≤ entries.length → ∃ s1, exec (.tileOpStart cl) s = .next s1 ∧ others s1 ∧ s1.m.mem = s.m.mem ∧
          (s1.m.mtx cl).run = some ⟨core, e, (match Tab.look none x.rows i with
            | some r => r.bytes
            | none => []), entries.take n⟩ ∧
          Tab.look none (s1.m.mtx cl).rows i = none ∧ Tab.look [] (s1.m.mtx cl).metaq i = entries.drop n ∧
          (s1.m.mtx cl).used = x.used + 1 ∧ s1.m.mqueue core = e :: rest ∧ (s1.m.tile core q).bound =
            if sparse then growBound bound (sparseTerm (s.m.tile core q).e0 w (entries.take n) ha hb) else bound) ∧
        (entries.length < n → x.stalledAt = none → ∃ s1, exec (.tileOpStart cl) s = .next s1 ∧ others s1 ∧ s1.m.mem = s.m.mem ∧
          (s1.m.mtx cl).run = none ∧ (s1.m.mtx cl).stalledAt = some s.m.cycle ∧ s1.m.mqueue core = e :: rest) ∧
        (entries.length < n → ∀ at_, x.stalledAt = some at_ → at_ + 2 ^ 20 ≤ s.m.cycle → ∃ s1,
          exec (.metadataStallTimeout cl) s = .next s1 ∧ (s1.m.ctx c).halt.line = true ∧ (s1.m.mtx cl).stalledAt = none ∧
          s1.m.mem = s.m.mem))) ∧
    (∀ r sparse q a slot w ha hb, x.run = some r → r.core = core → r.ent = e → e.cmd = .mop sparse q a slot w ha hb → q < 2 →
      (s.m.find e.gid).isSome → s.m.mqueue core = [e] → ∃ s1, exec (.tileOpFinal cl) s = .next s1 ∧ others s1 ∧
      s1.m.mem = s.m.mem ∧ (s1.m.mtx cl).run = none ∧ s1.m.mqueue core = [] ∧
      let t := s.m.tile core q
      let u := s1.m.tile core q
      u.holder = t.holder ∧ u.e0 = t.e0 ∧ u.bound = t.bound ∧ u.ops = (t.ops + 1) % 65536 ∧
      u = t.addOp w sparse r.metas ha hb ((blocksOf r.adata (if sparse then 64 else 32)).map payloadOf)
        ((blocksOf (s.m.peek (kaolinKey cl (8192 * slot)) 8192) 128).map payloadOf)) ∧
    (∀ q a f ac rnd fl, s.m.mqueue core = [e] → e.cmd = .mconv q a f ac rnd fl → q < 2 → runs → s.m.stalled cl = false →
      (s.m.find e.gid).isSome → (s.m.ctx c).silt.room 192 = true → (∀ t ∈ s.m.tasks, t.watchEn = false) →
      let n := if f = .f32 then 128 else 64
      let at_ := a + n * e.cols
      ∃ s1, exec (.mconvComplete cl i) s = .next s1 ∧ s1.sys = s.sys ∧
        s1.m.mqueue core = (if e.cols < 127 then [{ e with cols := e.cols + 1 }] else []) ∧
        s.m.storedAt s1.m (accKey core at_) n (fun b =>
          ((convColumn f { rnd := rnd, flush := fl } (s.m.tile core q) ac e.cols (s.m.peek (accKey core at_) n)).1).getD b 0)) ∧
    (∀ y, s.m.mqueue core = [e] → e.cmd = .msched y → runs → y.started = true → s.m.seqWaits core c = false → s.m.stalled cl = false →
      (y.next < y.count → ∀ l m1 q z, s.m.reach c (clusterOf core) (BitVec.ofNat 64 (y.table + 64 + 16 * y.next)) 16 1 = .ok (l, m1) →
        l.inside → schedEntry (s.m.peek l.key 16) = some (.mzero q z) →
        ((s.m.tile core q).holder = none ∨ (s.m.tile core q).holder = some e.gid) →
        ∃ s1 e1, exec (.scheduleEntry cl i) s = .next s1 ∧ s1.m.mem = s.m.mem ∧ s1.m.mqueue core = [e1] ∧
          e1 = { e with cmd := .msched { y with next := y.next + 1 } } ∧ (s1.m.tile core q).holder = some e.gid ∧
          (s1.m.tile core q).els = [] ∧ (s1.m.tile core q).e0 = z) ∧
      (y.count ≤ y.next → y.credit = 0 → (s.m.find e.gid).isSome → ∃ s1, exec (.scheduleEnd cl i) s = .next s1 ∧
        s1.m.mqueue core = [] ∧ s1.m.mem = s.m.mem ∧ others s1))

/-! ### Engines (18, 13, 15, 25) -/

/-- 18 R336, R341 to R343: a page 5 instruction whose checks hold sends its command to the combining node of its cluster and puts the
ticket in lt alone; EBMP reads the bitmap of a ticket; a misaligned operand, a barrier beyond 0xFFF0 and a length out of
range trap.
What the spec leaves open here is the model's choice (log entry 39). -/
def Obligations.EngineCommands : Prop :=
  ∀ (s : State) (m : Option XMod) (ds : EDst) (ss : ESrc) (d a b c : Opnd), s.plain → s.atRest → s.m.heldOf s.m.t.core < 16 →
    let t := s.m.t
    let x := t.val d
    let y := t.val a
    let z := t.val b
    let n := t.val c
    let home := clusterOf t.core
    let copy : EngRef := ⟨.copy, home⟩
    let sends := fun (i : Instr) (e : EngRef) (hdr dst src len : Word) =>
      let no := Tab.look 0 (s.m.ctx s.m.cur).serials t.core
      let cmd : ECmd := { hdr := hdr, dst := dst, src := src, len := len, ctx := s.m.cur, core := t.core, serial := no,
                          gid := t.gid, rec_ := t.rec_, op := t.pc.toNat }
      ∃ s1, exec i s = .next s1 ∧ s1.m.mem = s.m.mem ∧
        s1.m.t = (t.putCell 0 ⟨BitVec.ofNat 64 (kindCode e.kind * 2 ^ 36 + t.core % 4096 * 2 ^ 24 + no % 65536), .raw, none⟩).retire ∧
        Tab.look [] s1.m.nodes home = joinNode s.m.cycle e cmd (Tab.look [] s.m.nodes home) ∧
        Tab.look 0 (s1.m.ctx s.m.cur).serials t.core = (no + 1) % 65536
    let hdr := fun (op var : Nat) (nb : Bool) (bar : Nat) => BitVec.ofNat 64 (op + var * 2 ^ 8 + (if nb then 2 ^ 12 else 0) + bar * 2 ^ 16)
    let dc := match ds with | .g => 0 | .s => 1 | .a => 2
    let sc := match ss with | .g => 0 | .s => 1 | .c => 3
    let dOk := ds = .a → x.toNat < 65536
    let sOk := ss = .c → y.toNat < 32768
    let bOk := z.toNat % 16 = 0 ∧ z.toNat ≤ 0xFFF0
    let shape := 8 ≤ n.toNat % 65536 ∧ n.toNat % 65536 ≤ 4096 ∧ n.toNat % 8 = 0 ∧ 1 ≤ n.toNat / 2 ^ 32 ∧ n.toNat / 2 ^ 48 = 0 ∧
      n.toNat / 65536 % 65536 = 0
    let length := 8 ≤ n.toNat ∧ n.toNat ≤ 2 ^ 32 - 8 ∧ n.toNat % 8 = 0
    (s.fit [d, a, b, c] → s.rawOk m [d, a, b, c] → x.toNat % 8 = 0 → y.toNat % 8 = 0 →
      (bOk → dOk → sOk → length → sends (.ecpy m ds ss d a b c) copy (hdr 1 (dc + 4 * sc) false z.toNat) x y n) ∧
      (bOk → dOk → shape → sends (.egath m ds d a b c) copy (hdr 2 dc false z.toNat) x y n) ∧
      (bOk → sOk → shape → sends (.escat m ss d a b c) copy (hdr 3 sc false z.toNat) x y n) ∧
      (bOk → dOk → sOk → ¬ length → Traps (.ecpy m ds ss d a b c) s 0x01 t.pc) ∧
      (z.toNat % 16 ≠ 0 → Traps (.ecpy m ds ss d a b c) s 0x05 z) ∧
      (z.toNat % 16 = 0 → 0xFFF0 < z.toNat → dOk → sOk → Faults (.ecpy m ds ss d a b c) s 1 0 z)) ∧
    (s.fit [a, b] → s.rawOk m [a, b] → y.toNat % 64 = 0 →
      (z.toNat < 256 → z.toNat / 16 ∈ (s.m.partOf s.m.cur).hbmStacks →
        sends (.esub m a b) ⟨if z.toNat % 16 < 8 then .loader else .storer, z.toNat⟩ (hdr 4 0 true 0) z y 0) ∧
      (256 ≤ z.toNat → Faults (.esub m a b) s 1 0 z) ∧
      (bOk → sends (.ecoll m a b) ⟨.collective, dieOf t.core⟩ (hdr 5 0 false z.toNat) 0 y 0)) ∧
    (s.fit [d, a, b] → s.rawOk m [d, a, b] → y.toNat % 64 = 0 → bOk →
      (x.toNat < 64 → sends (.mloadb m d a b) copy (hdr 6 0 false z.toNat) x y 8192) ∧
      (64 ≤ x.toNat → Faults (.mloadb m d a b) s 1 0 x)) ∧
    (s.fit [a] → s.rawOk m [a] → ∀ l m1 e k, s.m.reach s.m.cur home y 8 2 = .ok (l, m1) → l.home = .dev → l.eng = true →
      devPage l.key = some (e, k, 0) →
      sends (.ecmd m a) e (t.val (.code 1)) (t.val (.code 2)) (t.val (.code 3)) (t.val (.code 4))) ∧
    (s.fit [d, a] → s.rawOk m [a] →
      (∀ v, y.toNat / 2 ^ 16 % 2 ^ 8 = 0 → s.m.bitsOf s.m.cur y.toNat = some v →
        exec (.ebmp m d a) s = .next (s.done { t.wr d v .raw with phase := .parked .mem })) ∧
      ((y.toNat / 2 ^ 16 % 2 ^ 8 ≠ 0 ∨ s.m.bitsOf s.m.cur y.toNat = none) → Traps (.ebmp m d a) s 0x09 y))

/-- 18 R334, R335, R337 to R340: SHADOW is written and submitted; a node merges a command or holds it, and forwards it after the
older ones of its cores; an engine starts the next one; a chunk moves its bytes a word at a time, here of a copy of one word
in memory; an operation ends with its mailbox and ticket, or faults, its ticket unchanged, and halts its context.
What the spec leaves open here is the model's choice (log entries 41 and 45). -/
def Obligations.EngineOperations : Prop :=
  ∀ (s : State) (e : EngRef), s.m.errs = [] → s.atRest →
    let x := s.m.eng e
    let still := fun (s1 : State) => s1.m.t = s.m.t ∧ s1.sys = s.sys ∧ s1.m.others = s.m.others
    let runs := fun c => c ∉ x.stopped ∧ (s.m.ctx c).halt.line = false ∧ (s.m.ctx c).killed = false
    let goes := fun (o : EOp) => x.active = some o ∧ runs o.cmd.ctx ∧ o.waiting = none ∧ o.failed = none
    let word := fun (o : EOp) => o.cmd.opc = 1 ∧ o.cmd.var = 0 ∧ o.cmd.len = 8 ∧ o.cmd.merged = [] ∧ o.bitmap.getLsbD 0 = false
    let quiet := fun (o : EOp) => o.cmd.nb = true ∧ o.cmd.bySched = false ∧ s.m.hasStruck o.cmd.ctx (engParty e) o.cmd.gid = false ∧
      (s.m.ctx o.cmd.ctx).silt.room (96 * (o.cmd.merged.length + 2)) = true
    (∀ now cmd l, (∀ h ∈ l, ¬ (ECmd.merges cmd = true ∧ h.eng = e ∧ h.cmd.same cmd = true ∧ now < h.since + 64)) →
      joinNode now e cmd l = l ++ [⟨e, cmd, now⟩]) ∧
    (∀ now cmd h l, ECmd.merges cmd = true → h.eng = e → h.cmd.same cmd = true → now < h.since + 64 →
      (∀ k ∈ l, k.eng = e → cmd.core ∉ k.cmd.cores) → joinNode now e cmd (h :: l) =
        { h with cmd := { h.cmd with merged := h.cmd.merged ++ [⟨cmd.core, cmd.serial, cmd.gid, cmd.rec_⟩] } } :: l) ∧
    (∀ c i bs, i < 4 → bs.length = 8 → ∃ s1, exec (.registerWrite e c (8 * i) bs) s = .next s1 ∧ s1.m.mem = s.m.mem ∧ still s1 ∧
      ∀ j, Tab.look 0 (s1.m.eng e).regs j = if j = 4 * c + i then BitVec.ofNat 64 (leNat bs) else Tab.look 0 x.regs j) ∧
    (∀ c core g, s.m.heldOf core < 16 → ∃ s1, exec (.kick e c core g) s = .next s1 ∧ s1.m.mem = s.m.mem ∧ still s1 ∧
      let no := Tab.look 0 (s.m.ctx c).serials core
      let r := (s.m.find g).bind (·.rec_)
      let pc := ((s.m.find g).map fun t => t.pc.toNat).getD 0
      Tab.look [] s1.m.nodes (clusterOf core) = joinNode s.m.cycle e
        { hdr := Tab.look 0 x.regs (4 * c), dst := Tab.look 0 x.regs (4 * c + 1), src := Tab.look 0 x.regs (4 * c + 2),
          len := Tab.look 0 x.regs (4 * c + 3), ctx := c, core := core, serial := no, gid := g, rec_ := r, op := pc }
        (Tab.look [] s.m.nodes (clusterOf core))) ∧
    (∀ cl n h, (Tab.look [] s.m.nodes cl)[n]? = some h → h.eng = e → (h.cmd.merges = false ∨ h.since + 64 ≤ s.m.cycle) →
      x.pend.length < 128 →
      let older := (Tab.look [] s.m.nodes cl).take n
      let waits := ∃ k ∈ older, k.eng = e ∧ ∃ core ∈ h.cmd.cores, core ∈ k.cmd.cores
      (¬ waits → ∃ s1, exec (.commandForward cl n) s = .next s1 ∧ s1.m.mem = s.m.mem ∧ still s1 ∧
        Tab.look [] s1.m.nodes cl = (Tab.look [] s.m.nodes cl).eraseIdx n ∧
        s1.m.eng e = if x.shadow = none ∧ x.pend = [] then { x with shadow := some h.cmd } else { x with pend := x.pend ++ [h.cmd] }) ∧
      (waits → exec (.commandForward cl n) s = .next s)) ∧
    (∀ c, x.active = none → x.saved = [] → x.shadow = some c → runs c.ctx → c.opc ≠ 4 → c.opc ≠ 5 →
      ∃ s1, exec (.engineOperationStart e) s = .next s1 ∧ s1.m.mem = s.m.mem ∧ still s1 ∧ s1.m.eng e =
        { x with active := some { cmd := c, bitmap := c.freshBits, failed := c.fault e }, shadow := x.pend.head?, pend := x.pend.tail }) ∧
    (∀ o l m1, goes o → word o → o.part = none → o.held = [] → s.m.engReach e o.cmd o.cmd.src 8 1 = .ok (l, m1) → l.home = .hbm →
      ∃ s1, exec (.chunkComplete e 0) s = .next s1 ∧ still s1 ∧ s1.m.mem = s.m.mem ∧
        (s1.m.eng e).active = some { o with held := [⟨0, o.cmd.dst, s.m.peek l.key 8⟩], part := some (0, 8) }) ∧
    (∀ o bs l m1, goes o → word o → o.part = some (0, 8) → o.held = [⟨0, o.cmd.dst, bs⟩] → bs.length = 8 →
      (s.m.ctx o.cmd.ctx).silt.room 96 = true → s.m.engReach e o.cmd o.cmd.dst 8 2 = .ok (l, m1) → l.home = .hbm → l.space = 0 →
      ∃ s1, exec (.chunkComplete e 0) s = .next s1 ∧ s1.sys = s.sys ∧ s.m.storedAt s1.m l.key 8 (fun i => bs.getD i 0) ∧
        (s1.m.eng e).active.map (·.bitmap) = some (o.bitmap ||| 1)) ∧
    (∀ o, goes o → o.bitmap = BitVec.allOnes 64 → o.cmd.opc = 1 → quiet o → e.kind = .copy →
      ∃ s1, exec (.engineOperationEnd e) s = .next s1 ∧ s1.m.mem = s.m.mem ∧ still s1 ∧ (s1.m.eng e).active = none ∧
        Tab.look {} (s1.m.eng e).mail o.cmd.ctx = ⟨((Tab.look {} x.mail o.cmd.ctx).count + 1) % 65536, 0,
          (3 * 2 ^ 36 + o.cmd.core % 4096 * 2 ^ 24 + o.cmd.serial % 65536) % 2 ^ 36⟩) ∧
    (∀ o f, x.active = some o → o.failed = some f → o.cmd.opc = 1 → quiet o → e.kind = .copy →
      ∃ s1, exec (.engineFault e) s = .next s1 ∧ s1.m.mem = s.m.mem ∧ s1.m.t = s.m.t ∧ (s1.m.eng e).active = none ∧
        (Tab.look {} (s1.m.eng e).mail o.cmd.ctx).status = 2 ∧
        (Tab.look {} (s1.m.eng e).mail o.cmd.ctx).ticket = (Tab.look {} x.mail o.cmd.ctx).ticket ∧
        (s1.m.ctx o.cmd.ctx).halt.line = true)

/-- 13 R247, 18 R335, 15 R293 to R295: a Kaolin load makes its slot LOADING and then READY; metadata enters the commanding core's
queue once both its words are read; a stream moves a tile, here of one block, a word at a time, credits its barrier and ends.
What the spec leaves open here is the model's choice (log entries 41 and 43). -/
def Obligations.LoadsAndStreams : Prop :=
  ∀ (s : State) (cl : Nat) (e : EngRef), s.m.errs = [] → s.atRest →
    let copy : EngRef := ⟨.copy, cl⟩
    let still := fun (s1 : State) => s1.m.t = s.m.t ∧ s1.sys = s.sys ∧ s1.m.mem = s.m.mem
    let runs := fun (e : EngRef) c => c ∉ (s.m.eng e).stopped ∧ (s.m.ctx c).halt.line = false ∧ (s.m.ctx c).killed = false
    let slot := fun (m1 : Mach) (k : Nat) => Tab.look {} (m1.mtx cl).slots k
    (∀ o, (s.m.eng copy).active = some o → runs copy o.cmd.ctx → o.waiting = none → o.failed = none →
      (o.cmd.opc = 6 → o.reach = none → ∃ s1, exec (.kaolinLoad cl) s = .next s1 ∧ still s1 ∧
        ∀ k, slot s1.m k = if k = o.cmd.dst.toNat % 64 then ⟨.loading, o.cmd.ctx⟩ else slot s.m k) ∧
      (o.cmd.opc = 6 → o.isReady = false → o.bitmap = BitVec.allOnes 64 → o.cmd.nb = true →
        ∃ s1, exec (.kaolinLoadComplete cl) s = .next s1 ∧ still s1 ∧
          ∀ k, slot s1.m k = if k = o.cmd.dst.toNat % 64 then ⟨.ready, o.cmd.ctx⟩ else slot s.m k) ∧
      (∀ k, o.cmd.opc = 7 → k < 64 → o.bitmap.getLsbD k = false → (∀ j, j < k → o.bitmap.getLsbD j = true) →
        let q := fun (m1 : Mach) => Tab.look [] (m1.mtx (clusterOf o.cmd.core)).metaq (o.cmd.core % 8)
        let reads := fun (n : Nat) (l : Loc) => l.home = .hbm ∧
          ∃ m1, s.m.engReach copy o.cmd (o.cmd.src + BitVec.ofNat 64 (16 * k + n)) 8 1 = .ok (l, m1)
        (q s.m).length < 64 →
        (∀ l, o.held = [] → reads 0 l → ∃ s1, exec (.metadataPush cl) s = .next s1 ∧ still s1 ∧ q s1.m = q s.m ∧
          (s1.m.eng copy).active = some { o with held := [⟨16 * k, 0, s.m.peek l.key 8⟩] }) ∧
        (∀ l w, o.held = [w] → w.bytes.length = 8 → reads 8 l → ∃ s1, exec (.metadataPush cl) s = .next s1 ∧ still s1 ∧
          q s1.m = q s.m ++ [leNat w.bytes + 2 ^ 64 * s.m.number l.key 8] ∧
          (s1.m.eng copy).active = some { o with held := [], bitmap := o.bitmap ||| BitVec.ofNat 64 (2 ^ k) }))) ∧
    (∀ y, (s.m.eng e).streams = [y] → runs e y.cmd.ctx → y.waiting = none → y.failed = none → y.check = false → y.tile = 64 →
      y.k < y.count → (s.m.ctx y.cmd.ctx).silt.room 192 = true → y.cmd.core = 0 →
      s.m.t.phase = .ready → (∀ k, Tab.look [] s.m.gbars k = []) → y.barrier % 16 = 0 → y.barrier ≤ 0xFFF0 →
      s.m.hasStruck y.cmd.ctx (engParty e) y.cmd.gid = false →
      let done := max y.seen (s.m.word (s.m.frontKey 0 y.done))
      let ring := y.ringBase + y.k % (y.ringSize / 64) * 64
      let va := BitVec.ofInt 64 ((y.addr : Int) + y.k * y.stride)
      let bar := s.m.frontKey 0 y.barrier
      let moves := if y.store then exec (.streamTileStore e 0) s else exec (.streamTileLoad e 0) s
      (if y.store then y.k < done else y.k < done + y.ringSize / 64) →
      (∀ l m1, y.held = [] → y.moved < 64 → (y.store = false →
          s.m.engReach e y.cmd (va + BitVec.ofNat 64 y.moved) 8 1 = .ok (l, m1) ∧ l.home = .hbm) →
        ∃ s1, moves = .next s1 ∧ still s1 ∧ (s1.m.eng e).streams = [{ y with seen := done, moved := y.moved + 8, held :=
          [if y.store then ⟨y.moved, va + BitVec.ofNat 64 y.moved, s.m.peek (accKey 0 (ring + y.moved)) 8⟩
            else ⟨y.moved, BitVec.ofNat 64 (ring + y.moved), s.m.peek l.key 8⟩] }]) ∧
      (∀ l m1 w, y.held = [w] → w.bytes.length = 8 → 64 ≤ y.moved → (y.store = true →
          s.m.engReach e y.cmd w.dst 8 2 = .ok (l, m1) ∧ l.home = .hbm ∧ l.space = 0 ∧ l.key < 2 ^ 52 - 64) →
        let to_ := if y.store then l.key else actKey 0 w.dst.toNat
        ∃ s1, moves = .next s1 ∧ s1.m.t = s.m.t ∧ (s1.m.eng e).streams.map (·.k) = [y.k + 1] ∧
          (∀ i, i < 8 → s1.m.byte (to_ + i) = w.bytes.getD i 0) ∧
          ∀ j, (j < to_ ∨ to_ + 8 ≤ j) → (j < bar ∨ bar + 16 ≤ j) → s1.m.byte j = s.m.byte j)) ∧
    (∀ y l m1, (s.m.eng e).streams = [y] → runs e y.cmd.ctx → y.waiting = none → y.failed = none → y.count ≤ y.k →
      (s.m.ctx y.cmd.ctx).silt.room 192 = true → y.cmd.bySched = false → s.m.hasStruck y.cmd.ctx (engParty e) y.cmd.gid = false →
      s.m.engReach e y.cmd (y.cmd.src + 0x30) 16 2 = .ok (l, m1) → l.home = .hbm → l.space = 0 →
      ∃ s1, exec (.streamEnd e 0) s = .next s1 ∧ s1.m.t = s.m.t ∧ (s1.m.eng e).streams = [] ∧
        (Tab.look {} (s1.m.eng e).mail y.cmd.ctx).status = 0 ∧ s.m.storedAt s1.m l.key 16 (fun i =>
          (leBytes y.pushed 4 ++ leBytes y.used 4 ++ leBytes y.timely 4 ++ leBytes y.demanded 4).getD i 0))

/-- 25 R436 to R439: a collective starts; a step of an integer sum writes the sum of the members' elements, taken in rank order; HOLD
and RESUME follow the halt line; the group's collectives abort once a member has gone.
What the spec leaves open here is the model's choice (log entries 7 and 44). -/
def Obligations.Collectives : Prop :=
  ∀ (s : State) (die : Nat) (k : Coll) (bs : List Byte), s.m.errs = [] → s.atRest → Tab.look [] s.m.colls die = [k] →
    let c := k.cmd.ctx
    let e : EngRef := ⟨.collective, die⟩
    let here := fun (m1 : Mach) => Tab.look [] m1.colls die
    let goes := (∃ o, (s.m.eng e).active = some o ∧ o.cmd = k.cmd) ∧ c ∉ (s.m.eng e).stopped ∧ (s.m.ctx c).halt.line = false ∧ (s.m.ctx c).killed = false ∧ k.held = false ∧
      k.waiting = none ∧ k.failed = none ∧ k.aborted = false ∧ Tab.look 0 (s.m.ctx c).tags k.group = k.tag
    let step := Instr.collectiveStep die 0 bs
    (goes → k.group ∉ (s.m.ctx c).deadGroups → (s.m.ctx c).silt.room (96 * (k.n + 2)) = true →
      (k.started = false → ∃ s1, exec step s = .next s1 ∧ here s1.m = [{ k with started := true }] ∧ s1.m.mem = s.m.mem ∧
        s1.m.t = s.m.t ∧ s1.sys = s.sys) ∧
      (∀ l m1 l2 m2, k.started = true → k.op = 1 → k.type = 1 → k.red = 0 → k.rank < k.n → k.step < k.count →
        bs.length = 4 * (k.n - 1) →
        s.m.engReach e k.cmd (BitVec.ofNat 64 (k.src + 4 * k.step)) 4 1 = .ok (l, m1) → l.home = .hbm →
        { m1 with free := m1.free + 4 * (k.n - 1) }.engReach e k.cmd (BitVec.ofNat 64 (k.dst + 4 * k.step)) 4 2 = .ok (l2, m2) →
        l2.home = .hbm → l2.space = 0 →
        let own := s.m.number l.key 4
        let parts := (List.range k.n).map fun r => if r = k.rank then own
          else leNat ((bs.drop (4 * (if r < k.rank then r else r - 1))).take 4)
        ∃ s1, exec step s = .next s1 ∧ s.m.storedAt s1.m l2.key 4 (fun i => BitVec.ofNat 8 (parts.sum % 2 ^ 32 / 256 ^ i)) ∧
          here s1.m = [{ k with step := k.step + 1 }] ∧ s1.m.t = s.m.t)) ∧
    ((s.m.ctx c).halt.line = true → exec (.collectiveHold die c) s = .next { s with m := { s.m with
      colls := Tab.put [] s.m.colls die [{ k with held := true }] } }) ∧
    ((s.m.ctx c).halt.line = false → exec (.collectiveResume die c) s = .next { s with m := { s.m with
      colls := Tab.put [] s.m.colls die [{ k with held := false }] } }) ∧
    (k.started = true → k.cmd.nb = true → k.cmd.bySched = false → (s.m.ctx c).silt.room 96 = true → s.sys.ring.length < 4096 →
      ∃ s1, exec (.memberAbort die c k.group) s = .next s1 ∧
      here s1.m = [] ∧ k.group ∈ (s1.m.ctx c).deadGroups ∧ s1.m.mem = s.m.mem ∧ s1.m.t = s.m.t ∧
      (Tab.look {} (s1.m.eng e).mail c).status = 0 ∧ ∃ r ∈ s1.sys.ring, r.code = 0x4004)

/-! ### Gangs and the task unit (04, 12, 14, 19) -/

/-- 12 R243, 04 R65, R70, R75, R76, R78, R80, 14 R271, 19 R351 to R354, R356, R358, R361: GANG waits for its members' slots, and the gang
forms about the leader, with fresh images or with those saved; the task unit seats the best eligible task, on an empty slot
or on a waiter's; queued tasks age and migrate; an idle slot steals the upper half of an interval; records start early
and retire.
What the spec leaves open here is the model's choice (log entries 2 and 34). -/
def Obligations.TaskUnit : Prop :=
  ∀ (s : State) (n : GangSize) (core slot : Nat) (t : Task), s.m.errs = [] → s.m.find t.gid = some t →
    let k := match n with | .two => 2 | .four => 4 | .eight => 8
    let f := s.m.t
    let c := ctxOf t.gid
    let now := s.m.cycle
    let same := fun (u : Task) => u.gid = t.gid ∧ u.pc = t.pc ∧ u.img = t.img ∧ u.fol = t.fol ∧ u.ctl = t.ctl ∧ u.phase = t.phase
    let queued := t.phase = .ready ∧ t.seat = none
    (s.plain → f.fol = [] → exec (.gang n) s = .next { s with m := { s.m with t := { f with phase := .waiting (.gang k) } } }) ∧
    (s.plain → f.fol ≠ [] → Traps (.gang n) s 0x01 f.pc) ∧
    (f.seat = some (core, slot) → (∀ x ∈ s.m.others, x.gid ≠ f.gid ∧ (x.seatedOn = true → x.slot ≠ slot)) →
      let base := core / k * k
      (f.phase = .waiting (.gang k) → f.regang = 0 → exec (.gangForm f.gid) s = .next { s with m := { s.m with
        t := { f.resume with seat := some (base, slot), lines := some base, fol := List.replicate (k - 1) {} } } }) ∧
      (f.phase = .ready → f.regang = k → exec (.gangForm f.gid) s = .next { s with m := { s.m with
        t := { f with seat := some (base, slot), lines := some base, regang := 0 } } })) ∧
    (s.m.eligible core t = true → t.produces = none → (∀ x ∈ s.m.tasks, ∀ p ∈ s.m.declsOf x, (s.m.bar core p.1).err = false) →
      (∀ x ∈ s.m.tasks, s.m.eligible core x = true → x ≠ t → x.prio < t.prio ∨ (x.prio = t.prio ∧ t.queueNo < x.queueNo)) →
      let seats := fun (s1 : State) => ∃ u, s1.m.find t.gid = some u ∧ same u ∧ u.seat = some (core, slot) ∧ u.prio = t.basePrio
      slot < 16 → (∀ j, j < slot → s.m.taken core j = true) →
      (s.m.taken core slot = false → ∃ s1, exec (.taskSeat core) s = .next s1 ∧ seats s1 ∧ s1.m.mem = s.m.mem ∧ s1.sys = s.sys ∧
        ∀ g, g ≠ t.gid → s1.m.find g = s.m.find g) ∧
      (∀ w, (∀ j, j < 16 → s.m.taken core j = true) → s.m.occupant core slot = some w → w.inWait = true → s.m.find w.gid = some w →
        w.gid ≠ t.gid → (∀ j, j < slot → ∃ x, s.m.occupant core j = some x ∧ x.inWait = false) →
        ∃ s1 v, exec (.taskSeat core) s = .next s1 ∧ seats s1 ∧ s1.sys = s.sys ∧ s1.m.find w.gid = some v ∧ v.seat = none ∧
          v.img = w.img ∧ v.pc = w.pc)) ∧
    (s.m.queuedFor core t = true → (∃ p ∈ s.m.declsOf t, (s.m.bar core p.1).err = true) →
      (∀ x ∈ s.m.tasks, s.m.queuedFor core x = true → ctxOf x.gid = c) →
      ∃ s1, exec (.taskSeat core) s = .next s1 ∧ (s1.m.ctx c).halt.line = true ∧ s1.m.t = s.m.t ∧ s1.m.others = s.m.others) ∧
    (queued → s.m.declsOf t = [] → s.m.seats c = true → t.prio < 3 →
      (t.queuedAt + 40000 < now → ∃ s1, exec (.taskAging t.gid) s = .next s1 ∧ s1.m.mem = s.m.mem ∧ s1.sys = s.sys ∧
        s1.m.find t.gid = some { t with prio := t.prio + 1, queuedAt := now, queueNo := s.m.order }) ∧
      (now ≤ t.queuedAt + 40000 → exec (.taskAging t.gid) s = .next s)) ∧
    (queued → s.m.boundTo t = none → t.contAt + 1024 ≤ now → ∃ s1, exec (.continuationMigrate t.gid) s = .next s1 ∧
      s1.m.mem = s.m.mem ∧ s1.sys = s.sys ∧ s1.m.find t.gid = some { t with migrates := true }) ∧
    (∀ r p, s.m.taken core slot = false → core < 4096 → (∀ x ∈ s.m.tasks, s.m.eligible core x = false) →
      Tab.keys s.m.ctxs = [c] → s.m.ownsCore c core = true → s.m.seats c = true → (s.m.ctx c).pool = [(r, p)] → p.state = .running →
      p.r.steal = 0 → p.r.tiles = [] → t.rec_ = some r → t.splits = true → t.cluster < 512 →
      t.cluster ∈ (s.m.partOf c).clusters → (∀ x ∈ s.m.tasks, ctxOf x.gid = c → x.rec_ = some r → x.splits = true → x = t) →
      let g := gidOf c (s.m.takeSerial c (clusterOf core)).1
      let h := t.lo + (t.hi - t.lo + 1) / 2
      s.m.find g = none → ∃ s1 q, exec (.steal core slot) s = .next s1 ∧ s1.m.mem = s.m.mem ∧
        s1.m.find t.gid = some { t with hi := h } ∧ s1.m.find g = some q ∧ q.kind = .range ∧ q.rec_ = some r ∧ q.lo = h ∧
        q.hi = t.hi ∧ q.seat = some (core, slot) ∧ q.workId = BitVec.ofNat 64 h ∧ q.phase = .ready) ∧
    (∀ r p a q, (s.m.ctx c).pool = [(a, q), (r, p)] → a ≠ r → q.state = .running → r ∈ succList q.r.succ → p.state = .armed →
      recEarly p.r = true → p.pending = 1 → (s.m.ctx c).halt.complete = false →
      (∀ x ∈ s.m.tasks, x.lives c = true → x.rec_ = some a → x.seat.isSome ∧ x.splits = false) →
      ∃ s1 y, exec (.earlyStart c r) s = .next s1 ∧ s1.m.mem = s.m.mem ∧ s1.m.others = s.m.others ++ [y] ∧ y.kind = .graph ∧
        y.rec_ = some r ∧ y.lo = p.r.lo ∧ y.hi = p.r.hi ∧ y.prio = 0 ∧ y.phase = .ready ∧
        (s1.m.launch c r).state = .running ∧ (s1.m.launch c r).earlyOn = true ∧ (s1.m.launch c r).pending = 1) ∧
    (∀ r, let p := s.m.launch c r
      ((p.state ≠ .running ∨ p.live ≠ 0 ∨ p.pending ≠ 0) → exec (.recordRetire c r) s = .next s) ∧
      (∀ b, s.m.recordDone c r = true → (s.m.ctx c).halt.complete = false → b ≠ r → succList p.r.succ = [b] → recSink p.r = false →
        let q := s.m.launch c b
        q.state = .armed →
        (1 < q.pending → ∃ s1, exec (.recordRetire c r) s = .next s1 ∧ s1.m.mem = s.m.mem ∧ s1.m.others = s.m.others ∧
          (s1.m.launch c r).state = .retired ∧ (s1.m.launch c b).state = .armed ∧ (s1.m.launch c b).pending = q.pending - 1) ∧
        (q.pending = 1 → ∃ s1 y, exec (.recordRetire c r) s = .next s1 ∧ s1.m.mem = s.m.mem ∧ s1.m.others = s.m.others ++ [y] ∧
          (s1.m.launch c r).state = .retired ∧ (s1.m.launch c b).state = .running ∧ (s1.m.launch c b).pending = 0 ∧
          y.kind = .graph ∧ y.rec_ = some b ∧ y.lo = q.r.lo ∧ y.hi = q.r.hi ∧ y.phase = .ready)) ∧
      (s.m.recordDone c r = true → (s.m.ctx c).halt.complete = false → succList p.r.succ = [] → recSink p.r = true → p.reached = [] →
        (s.m.ctx c).silt.room 32 = true →
        let d : DoneRec := { status := 0, ctx := c, sink := r, armedAt := p.armedAt, retiredAt := now, tasks := p.created,
                             activeUj := p.energy - p.sharedUj, sharedUj := p.sharedUj, armer := p.armer, addr := p.r.completion }
        ∃ s1, exec (.recordRetire c r) s = .next s1 ∧ (s1.m.launch c r).state = .retired ∧ s1.m.done = s.m.done ++ [d] ∧
          s.m.storedAt s1.m (p.r.completion % 2 ^ 52) 64 (fun i => d.bytes.getD i 0) ∧ (s1.m.ctx c).loam = (s.m.ctx c).loam.bounded ∧
          (∃ y ∈ (s1.m.ctx c).silt.recs, y.kind = .external) ∧
          (3, c) ∈ s1.m.irqs ∧ (2, 0) ∈ (s1.m.ctx c).silt.requests ∧ s1.m.t = s.m.t ∧ s1.m.others = s.m.others))

/-! ### The resident kernel and the owners (04, 06, 09, 15 to 19) -/

/-- 04 R63, R64, 06 R127, R128, R130, R131, 09 R166, R169, R178, 15 R278, R288, R292, 17 R320, R321, 18 R340: the kernel resolves a
fault, and every waiter replays its instruction; it refuses one, and the task halts, the producer fails, the engine's
operation faults; it serves a system call; parks end; a waiting store is performed in its thread's order, or refused by the
owner's windows; entries FAILED at a boundary are freed; the pools grow, and the table a set at a time.
What the spec leaves open here is the model's choice (log entries 2, 4, 47, 53, 55, 72, 76 and 84). -/
def Obligations.KernelEvents : Prop :=
  ∀ (s : State) (t : Task), s.m.errs = [] → s.m.find t.gid = some t →
    let c := ctxOf t.gid
    let now := fun (s1 : State) (u : Task) => s1.m.find t.gid = some u ∧ s1.m.mem = s.m.mem ∧ s1.sys = s.sys
    let replays := fun (u : Task) => u.gid = t.gid ∧ u.phase = .ready ∧ u.pc = t.pc ∧ u.img = t.img ∧ u.ctl = t.ctl
    let halted := fun (s1 : State) (code : Nat) (addr : Word) => ∃ u, s1.m.find t.gid = some u ∧ (s1.m.ctx c).halt.line = true ∧
      u.phase = .ready ∧ u.img = t.img ∧ u.stop = some ⟨0, code, addr, t.pc⟩ ∧ u.ctl.trapAddr = addr ∧
      u.ctl.trapCode.code = BitVec.ofNat 8 code ∧ u.ctl.trapPc = t.pc.setWidth 52
    (∀ p i f w e o, i < 4096 → s.m.faultAt p i = some f → f.cause < 3 →
      let ref := FaultRef.entry p i
      let waits := (s.m.eng e).active = some o ∧ o.cmd.ctx = f.ctx ∧ o.waiting = some (f.va, f.cause)
      let here := fun (x : Task) => ∃ code a, x.phase = .waiting (.fault p i code a)
      (w.arms = [] → ∃ s1, exec (.faultResolved ref w) s = .next s1 ∧ s1.m.faultAt p i = none ∧
        (here t → ∃ u, s1.m.find t.gid = some u ∧ replays u) ∧
        (waits → (s1.m.eng e).active = some { o with waiting := none }) ∧
        (∀ k b, w.mem = [(k, b)] → w.scratch = [] → ∀ j, s1.m.byte j = if j = k then b else s.m.byte j)) ∧
      (f.engs = [] → (∀ x ∈ s.m.tasks, here x → x = t ∧ t.kind ≠ .producer) → ∃ s1,
        exec (.faultRefused ref) s = .next s1 ∧ s1.m.faultAt p i = none ∧ s1.m.mem = s.m.mem ∧
        (∀ code a, t.phase = .waiting (.fault p i code a) → (code = 6 ∨ code = 7) → halted s1 code a) ∧
        (waits → (s1.m.eng e).active = some { o with waiting := none, failed := some ⟨0x6009, some f.va, o.cmd.hdr.toNat⟩ }))) ∧
    (∀ a, t.phase = .waiting (.tbl a) →
      (a ≠ 0 → ∃ s1 u, exec (.faultResolved (.task t.gid) {}) s = .next s1 ∧ now s1 u ∧ replays u) ∧
      (a = 0 → exec (.faultResolved (.task t.gid) {}) s = .next s) ∧
      (t.kind ≠ .producer → ∃ s1, exec (.faultRefused (.task t.gid)) s = .next s1 ∧ halted s1 0x0C a ∧ s1.m.mem = s.m.mem) ∧
      (∀ e, t.kind = .producer → s.m.produced t = some e → (s.m.entry c e).state = .eval → (s.m.ctx c).halt.complete = false →
        s.m.weak = [] → (s.m.ctx c).silt.room (32 + 96 * s.m.lineBound c (s.m.members c (s.m.entry c e).leader)) = true →
        ∃ s1, exec (.faultRefused (.task t.gid)) s = .next s1 ∧ s1.m.find t.gid = none ∧
          ∀ i ∈ s.m.members c (s.m.entry c e).leader, (s1.m.entry c i).state = .failed ∧ (s1.m.entry c i).code = 0x0C)) ∧
    (∀ k x y z, t.phase = .waiting (.sysc k) →
      (∃ s1 u, exec (.syscServe t.gid x y z) s = .next s1 ∧ now s1 u ∧ u.seat = none ∧ u.phase = .ready ∧ u.pc = t.npc ∧
        ∀ j, u.cell j = if j = 0 then ⟨z, .raw, none⟩ else if j = 1 then ⟨x, .raw, none⟩ else if j = 2 then ⟨y, .raw, none⟩ else t.cell j) ∧
      (t.kind ≠ .producer → ∃ s1, exec (.faultRefused (.task t.gid)) s = .next s1 ∧ halted s1 0x14 (BitVec.ofNat 64 k) ∧
        s1.m.mem = s.m.mem)) ∧
    (∀ p, t.phase = .parked p →
      let ends := ∃ s1, exec (.parkResolved t.gid) s = .next s1 ∧ now s1 { t with phase := .ready }
      let answered := ∃ s1, exec (.parkResolved t.gid) s = .next s1 ∧ now s1 { t with phase := .ready, answered := true }
      let stays := exec (.parkResolved t.gid) s = .next s
      let until_ := fun (b : Prop) => (b → ends) ∧ (¬ b → stays)
      ((p = .mem ∨ p = .tlb ∨ p = .line ∨ p = .code ∨ ∃ n, p = .members n) → ends) ∧
      (∀ o, p = .sfu → t.owed = some o → o.msg = none → ∃ s1, exec (.parkResolved t.gid) s = .next s1 ∧
        now s1 { t with img := o.img, fol := o.fol, owed := none }.resume) ∧
      (p = .command → until_ (s.m.heldOf t.core < 16)) ∧
      (p = .matrix → until_ (queueFull (s.m.mqueue t.core) = false)) ∧
      (p = .transfer → until_ (s.m.tracked (clusterOf t.core) < 750)) ∧
      (∀ r, p = .order → t.rec_ = some r → until_ (s.m.predecessorsOpen c r = false)) ∧
      (∀ q n, p = .mwait q n → s.m.t = t → s.m.openOn t.core q n = false → ∃ s1, exec (.parkResolved t.gid) s = .next s1 ∧
        s1.m.t = { t with acqCl := s.m.order }.resume ∧ s1.m.mem = s.m.mem ∧ s1.sys = s.sys) ∧
      (∀ q, p = .held q → (q ∉ s.m.portsTrain → answered) ∧ (q ∈ s.m.portsTrain → stays)) ∧
      (∀ q a, p = .root q a → (q ∈ s.m.rootsUp → answered) ∧ (q ∉ s.m.rootsUp → stays))) ∧
    (∀ n w, s.m.weak[n]? = some w →
      let x := s.m.ctx (ctxOf w.gid)
      let goes := exec (.accessPerformed n) s
      let left := fun (s1 : State) => s1.m.weak = s.m.weak.take n ++ (w.choose s.m.free).2 ++ s.m.weak.drop (n + 1)
      (s.m.foremost n = false → goes = .next s) ∧
      (∀ v bs, s.m.foremost n = true → (w.choose s.m.free).1 = [v] → w.loc.home = .hbm → w.loc.space = 0 → w.loc.remote = none →
        w.n ≤ 64 → w.bytes = cellsFrom w.loc.key bs → bs.length ≤ w.n →
        (x.silt.room 96 = true → ∃ s1, goes = .next s1 ∧ left s1 ∧ s1.sys = s.sys ∧ (∀ p ∈ v.bytes, s1.m.byte p.1 = p.2) ∧
          ∀ j, (∀ p ∈ v.bytes, p.1 ≠ j) → s1.m.byte j = s.m.byte j) ∧
        (x.silt.full = true → w.loc.irrev = false → x.silt.room (32 + (v.n + 7) / 8 * 8) = false → ∃ s1, goes = .next s1 ∧
          s1 = { s with m := { s.m with ctxs := s1.m.ctxs } } ∧
          s1.m.ctx (ctxOf w.gid) = { x with silt := { x.silt with starved := true } })) ∧
      (∀ v k, s.m.foremost n = true → (w.choose s.m.free).1 = [v] → w.loc.home = .cluster k → s.m.windowsAdmit v = false →
        ∃ s1, goes = .next s1 ∧ left s1 ∧ s1.m.mem = s.m.mem ∧ s1.m.ctxs = s.m.ctxs ∧
        ∀ u, s.m.find w.gid = some u → s1.m.find w.gid = some { u with nack := some v.loc.va })) ∧
    (let l := (s.m.ctx c).loam
     (l.boundary = none → exec (.tableClearFailed c) s = .next s) ∧
      (∀ found, Tab.wf {} l.entries = true → l.boundary = some found →
        (s.m.ctx c).silt.room (32 + 96 * s.m.lineBound c (Tab.keys l.entries)) = true →
        ∃ s1, exec (.tableClearFailed c) s = .next s1 ∧ (s1.m.ctx c).loam.boundary = none ∧ s1.m.mem = s.m.mem ∧ s1.m.t = s.m.t ∧
          ∀ i, let e := s.m.entry c i
            s1.m.entry c i = if e.state = .failed ∧ e.pins = 0 ∧ e.creation ∈ found then {} else e)) ∧
    (∀ g : Growth, let l := (s.m.ctx c).loam
      let grows := exec (.tableGrow c g.array (g.ans, g.ansAt) (g.keys, g.keysAt)) s
      (l.moving = none → g.array = none → ∃ s1, grows = .next s1 ∧ s1.m.mem = s.m.mem ∧ s1.m.t = s.m.t ∧
        (s1.m.ctx c).loam.ansFree = l.ansFree + g.ans ∧ (s1.m.ctx c).loam.keyFree = l.keyFree + g.keys ∧
        (s1.m.ctx c).loam.nsets = l.nsets ∧ (s1.m.ctx c).loam.entries = l.entries) ∧
      (∀ pa va, Tab.wf {} l.entries = true → l.moving = none → g.array = some (pa, va) → ∃ s1, grows = .next s1 ∧
        s1.m.mem = s.m.mem ∧ (s1.m.ctx c).loam.nsets = 2 * l.nsets ∧ (s1.m.ctx c).loam.base = pa ∧ (s1.m.ctx c).loam.va = va ∧
        (s1.m.ctx c).loam.moving = some ⟨0, l.base, l.va⟩ ∧
        ∀ q ∈ l.entries, s1.m.entry c (q.1 + 32 * l.nsets) = { q.2 with leader := q.2.leader + 32 * l.nsets }) ∧
      (∀ v, Tab.wf {} l.entries = true → l.moving = some v →
        let lo := 16 * l.nsets + 16 * v.set
        let f := fun (i : Nat) => if lo ≤ i ∧ i < lo + 16 then 16 * ((s.m.entry c i).hash.toNat % l.nsets) + (i - lo) else i
        (∀ q ∈ l.entries, ∀ r ∈ l.entries, f q.1 = f r.1 → q = r) → ∃ s1, grows = .next s1 ∧ s1.m.mem = s.m.mem ∧
          (s1.m.ctx c).loam.moving = (if l.nsets / 2 ≤ v.set + 1 then none else some { v with set := v.set + 1 }) ∧
          ∀ q ∈ l.entries, s1.m.entry c (f q.1) = { q.2 with leader := f q.2.leader }))

/-- 19 R360, 11 R210: the owner of a channel answers a parked sender. An accepted message becomes a task of the channel, or joins the
queue of a blocked channel; TBLK and TUNBLK act; a paged channel answers RETRY, seventeen times in all before the sender
traps; a handle that names no valid generation traps STALE_HANDLE.
What the spec leaves open here is the model's choice (log entries 2, 52, 54 and 72). -/
def Obligations.MessageEvents : Prop :=
  ∀ (s : State) (x : Sending), s.m.errs = [] → s.m.t.phase = .sending x → x.backoff = false → x.op < 3 →
    (∀ y ∈ s.m.others, y.gid ≠ s.m.t.gid) →
    let t := s.m.t
    let arrives := exec (.messageArrival t.gid) s
    let core := x.handle.toNat % 4096
    let chan := x.handle.toNat / 4096 % 64
    let q := Tab.look {} s.m.chans (64 * core + chan)
    let from_ := BitVec.ofNat 64 t.gid
    let named := q.e.valid = true ∧ q.e.gen % 2 ^ 24 = x.handle.toNat / 2 ^ 18 % 2 ^ 24
    let at_ := fun (s1 : State) (v : Chan) => ∀ k, Tab.look {} s1.m.chans k = if k = 64 * core + chan then v else Tab.look {} s.m.chans k
    let isTask := fun (y : Task) (ws : List Word) (from_ : Word) => y.kind = .message ∧ ctxOf y.gid = q.e.ctx ∧
      y.pc = BitVec.ofNat 64 q.e.entry ∧ y.bound = some core ∧ y.phase = .ready ∧ y.prio = q.e.prio % 4 ∧
      ∀ j, y.cell j = if 1 ≤ j ∧ j ≤ 4 then ⟨ws.getD (j - 1) 0, .raw, none⟩ else if j = 5 then ⟨from_, .raw, none⟩ else .fresh
    let traps := fun (a : Word) => arrives = .next { s with m := ({ s.m with t := { t with phase := .ready } } : Mach).raise 0x09 a 0 0 0 }
    let free := (s.m.takeSerial q.e.ctx (clusterOf core)).1 < 2 ^ 40
    let room := (s.m.ctx (ctxOf t.gid)).silt.room 32 = true
    let handler := t.ctl.trapVec.getLsbD 0 = true ∧ t.ctl.trapCode.inH = false ∧ t.region = none
    let full := x.op = 0 ∧ q.e.blocked = true ∧ 256 ≤ q.queue.length
    (¬ named → handler → traps x.handle) ∧
    (named → (q.e.paged = true ∨ full) →
      (x.retries < 16 → let later := Phase.sending { x with retries := x.retries + 1, backoff := true }
        arrives = .next { s with m := { s.m with t := { t with phase := later } } }) ∧
      (16 ≤ x.retries → handler → traps (x.handle ||| BitVec.ofNat 64 (2 ^ 63)))) ∧
    (named → q.e.paged = false → ¬ full →
      (x.op = 0 → q.e.blocked = false → x.words.length = 4 → free → room → ∃ s1 y, arrives = .next s1 ∧ s1.m.t = t.resume ∧
        s1.m.others = s.m.others ++ [y] ∧ isTask y x.words from_ ∧ s1.m.mem = s.m.mem ∧ s1.m.chans = s.m.chans) ∧
      (x.op = 0 → q.e.blocked = true → room → ∃ s1, arrives = .next s1 ∧ s1.m.t = t.resume ∧ s1.m.others = s.m.others ∧
        s1.m.mem = s.m.mem ∧ at_ s1 { q with queue := q.queue ++ [(x.words, from_)] }) ∧
      (x.op = 1 → ∃ s1, arrives = .next s1 ∧ s1.m.t = t.resume ∧ s1.m.others = s.m.others ∧ s1.m.mem = s.m.mem ∧
        at_ s1 { q with e := { q.e with blocked := true } }) ∧
      (x.op = 2 → ∀ ws w, q.queue = [(ws, w)] → ws.length = 4 → free → ∃ s1 y, arrives = .next s1 ∧ s1.m.t = t.resume ∧
        s1.m.others = s.m.others ++ [y] ∧ isTask y ws w ∧ s1.m.mem = s.m.mem ∧
        at_ s1 { e := { q.e with blocked := false }, queue := [] })) ∧
    exec (.msendRetryTimer t.gid) s = .next s ∧
    exec (.msendRetryTimer t.gid) { s with m := { s.m with t := { t with phase := .sending { x with backoff := true } } } } = .next s

/-! ### The Silt log (23, 22) -/

/-- 23 R398 to R406, 22 R392: a marker opens the next window and serves the requests; a full log sheds its oldest window, or stalls
with an interrupt; the last write is undone and re-applied, and a window rewound; errors in data are corrected, replayed,
or kill their context; a checkpoint is requested and leaves the module.
What the spec leaves open here is the model's choice (log entries 2, 48, 49, 50, 51 and 60). -/
def Obligations.SiltEvents : Prop :=
  ∀ (s : State) (c : Nat), s.m.errs = [] → s.m.weak = [] → (∀ cl, (s.m.mtx cl).run = none) →
    (∀ t ∈ s.m.tasks, t.phase ≠ .parked .commit) → s.m.markerWaits c = false →
    let x := s.m.ctx c
    let l := x.silt
    let apart := fun (k n : Nat) => ∀ o ∈ s.m.objects, let w := s.m.frontKey (o / 65536) (o % 65536) + 12
      w + 2 ≤ k ∨ k + n ≤ w
    let log := fun (s1 : State) => (s1.m.ctx c).silt
    let still := fun (s1 : State) => s1.m.mem = s.m.mem ∧ s1.sys = s.sys
    let waiter := fun (t : Task) => t ∈ s.m.tasks ∧ ctxOf t.gid = c ∧ t.phase = .waiting .silt ∧ s.m.find t.gid = some t
    let wakes := fun (s1 : State) => ∀ t, waiter t → ∃ u, s1.m.find t.gid = some u ∧ u.phase = .ready ∧ u.pc = t.pc ∧ u.img = t.img
    let reports := fun (s1 : State) (code : Nat) => ∃ r ∈ s1.sys.ring, r.code = code
    let steps := x.halt.complete = true ∧ x.isSealed = false ∧ x.valid = true
    (∀ k g rest cause, x.valid = true → l.room 32 = true → l.undone = [] → l.rewound = none →
      (l.requests = (k, g) :: rest ∨ (l.requests = [] ∧ cause = 5 ∧ k = 5 ∧ g = 0)) →
      ∃ s1, exec (.windowMarker c cause) s = .next s1 ∧ still s1 ∧ (log s1).current = l.current + 1 ∧ (log s1).requests = [] ∧
        (log s1).since = 0 ∧ (log s1).nextSeq = l.nextSeq + 1 ∧ (6, c) ∈ s1.m.irqs ∧ (log s1).recs = l.recs ++
          [{ seq := l.nextSeq, kind := .marker, key := Config.snapAt c (l.current + 1), window := l.current + 1, party := k, gid := g }] ∧
        (∃ p, (log s1).snaps = l.snaps ++ [p] ∧ p.window = l.current + 1 ∧ p.seq = l.nextSeq ∧ p.pool = x.pool ∧ p.loam = x.loam) ∧
        (∀ d, ctxOf s.m.t.gid = c → s.m.t.phase = .parked (.marker d) →
          s1.m.t = (s.m.t.wr d (BitVec.ofNat 64 (l.current + 1)) .raw).resume)) ∧
    ((l.thresh ≠ 0 → 2 ^ l.thresh ≤ l.since → (∀ p ∈ l.requests, p.1 ≠ 3) → ∃ s1, exec (.siltThreshold c) s = .next s1 ∧ still s1 ∧
        log s1 = { l with requests := l.requests ++ [(3, 0)] }) ∧
      ((l.thresh = 0 ∨ l.since < 2 ^ l.thresh) → exec (.siltThreshold c) s = .next s)) ∧
    (∀ cause, l.requests = [] → cause ≠ 5 → exec (.windowMarker c cause) s = .next s) ∧
    (x.valid = true → s.m.siltWaits c = true →
      (l.shedPolicy = true → l.held ≠ some l.horizon → l.horizon < l.current → ∃ s1, exec (.siltShed c) s = .next s1 ∧ still s1 ∧
        wakes s1 ∧ (log s1).horizon = l.horizon + 1 ∧ (log s1).shed = l.shed + 1 ∧ (log s1).horiz = true ∧
        (log s1).recs = l.recs.filter (fun r => decide (l.horizon < r.window)) ∧ (log s1).current = l.current) ∧
      (l.shedPolicy = false → s.sys.ring.length < 4096 → ∃ s1, exec (.siltStall c) s = .next s1 ∧ s1.m.mem = s.m.mem ∧
        s1.m.ctxs = s.m.ctxs ∧ (4, c) ∈ s1.m.irqs ∧ reports s1 0x2005)) ∧
    (s.m.siltWaits c = false → exec (.siltShed c) s = .next s ∧ exec (.siltStall c) s = .next s) ∧
    (∀ n, ∃ s1, exec (.siltRegionEnlarge c n false) s = .next s1 ∧ still s1 ∧ wakes s1 ∧
      log s1 = { l with size := l.size + n, starved := false }) ∧
    (∀ pre r bs, steps → l.full = true → l.recs = pre ++ [r] → (∀ q ∈ pre, q.seq < r.seq) → r.kind = .write →
      r.old = .bytes bs [] → apart r.key bs.length → ∃ s1, exec (.rstep c 1) s = .next s1 ∧ s.m.storedAt s1.m r.key bs.length (fun i => bs.getD i 0) ∧
        (log s1).recs = pre ∧ (log s1).undone = ⟨r, .bytes (s.m.peek r.key bs.length) []⟩ :: l.undone ∧ s1.m.t = s.m.t) ∧
    (∀ pre r, l.recs = pre ++ [r] → (r.kind = .external ∨ r.kind = .module ∨ l.full = false) → exec (.rstep c 1) s = .next s) ∧
    (∀ u rest bs, steps → l.rewound = none → l.undone = u :: rest → (∀ q ∈ rest, q.r.seq ≠ u.r.seq) → u.r.kind = .write →
      u.was = .bytes bs [] → apart u.r.key bs.length → ∃ s1, exec (.rfwd c 1) s = .next s1 ∧ s.m.storedAt s1.m u.r.key bs.length (fun i => bs.getD i 0) ∧
        (log s1).recs = l.recs ++ [u.r] ∧ (log s1).undone = rest ∧ s1.m.t = s.m.t) ∧
    (∀ n p pre r bs, steps → l.undone = [] → l.horizon ≤ n → n ≤ l.current → l.snap n = some p → l.recs = pre ++ [r] →
      (∀ q ∈ pre, q.seq ≤ p.seq) → p.seq < r.seq → r.old = .bytes bs [] →
      (r.kind = .write → apart r.key bs.length → ∃ s1, exec (.rwin c n) s = .next s1 ∧ s.m.storedAt s1.m r.key bs.length (fun i => bs.getD i 0) ∧
        (log s1).current = p.window ∧ (log s1).recs = pre ∧ (log s1).rewound.isSome ∧ (s1.m.ctx c).pool = p.pool ∧
        (s1.m.ctx c).loam = p.loam.restored x.loam ∧ ∀ t ∈ s1.m.tasks, ctxOf t.gid = c → t.phase ≠ .ended →
          ∃ t0 ∈ p.tasks, t.gid = t0.gid ∧ t.img = t0.img ∧ t.pc = t0.pc ∧ t.halted = true) ∧
      (r.kind = .external → exec (.rwin c n) s = .next s)) ∧
    (∀ st w, x.valid = true → x.killed = false → s.sys.ring.length < 4096 →
      (∀ i, let e := s.m.entry c i
        e.state = .complete → ∃ s1, exec (.uncorrData c (.entry i) w) s = .next s1 ∧ s1.m.mem = s.m.mem ∧
          (∀ j, s1.m.entry c j = if j = i then {} else s.m.entry c j) ∧ reports s1 0x5002 ∧ s1.m.t = s.m.t) ∧
      ((∃ pa, st = Storage.log pa) → x.halt.complete = false → ∃ s1, exec (.uncorrData c st w) s = .next s1 ∧
        (s1.m.ctx c).killed = true ∧ (s1.m.ctx c).halt.line = true ∧ s1.m.mem = s.m.mem) ∧
      (∀ g pa b p, l.snap l.current = some p → l.rewound = none → l.undone = [] → x.loam.entries = [] → x.halt.errors = [] →
        x.uncorr = false → l.lastExt ≤ p.seq → (∀ q ∈ l.recs, q.seq ≤ p.seq) →
        ∃ s1, exec (.uncorrData c (.image g pa b) w) s = .next s1 ∧ s1.m.mem = s.m.mem ∧ (s1.m.ctx c).uncorr = true ∧
          (s1.m.ctx c).pool = p.pool ∧ (s1.m.ctx c).loam = p.loam.restored x.loam ∧ (s1.m.ctx c).halt = {} ∧
          (log s1).current = p.window ∧ reports s1 0x2002)) ∧
    (∀ unit a w, s.sys.ring.length < 4095 → ∃ s1, exec (.correctedMemoryError unit a w) s = .next s1 ∧ s1.m.mem = s.m.mem ∧
      s1.m.ctxs = s.m.ctxs ∧ s1.m.t = s.m.t ∧ reports s1 0x2001 ∧ ((unit / 4096 = 0xB ∨ unit / 4096 = 0xC) →
        16 ≤ (s.sys.corrected.filter fun p => decide (s.m.cycle < p.2 + 2400000000) && p.1 == a / 65536 * 65536).length → reports s1 0x2004)) ∧
    (x.valid = true → l.held = none → ∃ s1, exec (.checkpoint c) s = .next s1 ∧ still s1 ∧
      log s1 = { l with requests := l.requests ++ [(4, 0)] }) ∧
    (∀ q k, (∀ r ∈ l.recs, r.seq ≤ q) → s.m.byteAt c q k = s.m.byte k) ∧
    (∀ q k pre r b bs, l.recs = pre ++ [r] → (∀ r ∈ pre, r.seq ≤ q) → q < r.seq → r.kind = .write → r.space = 0 → r.key = k →
      r.old = .bytes (b :: bs) [] → s.m.byteAt c q k = b) ∧
    (∀ n p, l.held = some n → l.snap n = some p → ∃ s1, exec (.checkpointCopyEnd c) s = .next s1 ∧ s1.m.mem = s.m.mem ∧
      s1.sys = { s.sys with checkpoints := s.sys.checkpoints ++ [⟨c, n, s.m.imageOf c p.seq, p⟩] } ∧ log s1 = { l with held := none, pin := false })

/-! ### Halts and debug stops (09, 22, 24) -/

/-- 09 R170 to R175, 22 R390, R391, 24 R414: the line is raised by the kernel or a debugger; a core stops with its record, an engine
saves its operation; the halt completes, and the context resumes; a task is pre-empted, a context switched out; a strike
and a step raise the line.
What the spec leaves open here is the model's choice (log entries 2, 46 and 56). -/
def Obligations.HaltEvents : Prop :=
  ∀ (s : State) (c : Nat), s.m.errs = [] → s.m.weak = [] → (∀ cl, (s.m.mtx cl).run = none) →
    (∀ t ∈ s.m.tasks, t.phase ≠ .parked .commit) →
    let x := s.m.ctx c
    let h := x.halt
    let t := s.m.t
    let still := fun (s1 : State) => s1.m.mem = s.m.mem ∧ s1.sys = s.sys
    let raised := fun (s1 : State) (dbg : Bool) (g : Option Gid) (by_ : List (Nat × Gid)) => (s1.m.ctx c).halt =
      { line := true, dbg := dbg, origin := g, raisedAt := s.m.cycle, strikers := by_ }
    let mine := ctxOf t.gid = c ∧ t.phase = .ready ∧ t.region = none ∧ ∀ y ∈ s.m.others, y.gid ≠ t.gid
    (∀ dbg : Bool, (x.valid = true → (dbg = true → x.isSealed = false) → h.line = false → ∃ s1, exec (.haltLine c dbg) s = .next s1 ∧
        still s1 ∧ raised s1 dbg none [] ∧ s1.m.t = t ∧ s1.m.others = s.m.others) ∧
      ((x.valid = false ∨ (dbg = true ∧ x.isSealed = true)) → exec (.haltLine c dbg) s = .next s)) ∧
    (h.line = true → h.complete = false →
      (∀ n k, mine → t.seat = some (n, k) → k < 16 → t.halted = false → t.answered = false → (∀ y ∈ s.m.others, y.seat = none ∨ y.core ≠ n) →
        .core n ∉ h.stopped → x.isSealed = false → x.stopCount + 1 < x.stopCap →
        let q := t.stop.getD ⟨if h.dbg then 2 else 1, 0, 0, t.pc⟩
        ∃ s1, exec (.unitStop (.core n) c) s = .next s1 ∧ still s1 ∧ s1.m.t = { t with halted := true, stop := none, stepDue := false, owed := none, leave := false } ∧
          (s1.m.ctx c).halt = { h with stopped := h.stopped ++ [.core n] } ∧
          (s1.m.ctx c).stops = x.stops ++ [.core q.cause q.code n k c t.gid q.pc q.addr s.m.cycle t.workId x.silt.current
            t.ctl.alloc.toNat ((if t.produces.isSome then 2 else 0) +
              if t.fol.length = 1 then 4 else if t.fol.length = 3 then 8 else if t.fol.length = 7 then 12 else 0)
            (s.m.imageAt c t.frame 0)]) ∧
      (∀ e o, (s.m.eng e).active = some o → o.cmd.ctx = c → (s.m.eng e).streams = [] → .eng e ∉ h.stopped →
        ∃ s1, exec (.unitStop (.eng e) c) s = .next s1 ∧ still s1 ∧ s1.m.t = t ∧ (s1.m.eng e).active = none ∧
          (s1.m.eng e).saved = (s.m.eng e).saved ++ [{ o with part := none, held := [] }] ∧ c ∈ (s1.m.eng e).stopped ∧
          .eng e ∈ (s1.m.ctx c).halt.stopped) ∧
      (s.m.unstopped c = [] → h.errors = [] → ∃ s1, exec (.haltComplete c) s = .next s1 ∧ still s1 ∧ s1.m.t = t ∧
        (s1.m.ctx c).halt = { h with complete := true } ∧ (2, c) ∈ s1.m.irqs) ∧
      ((∃ y ∈ s.m.tasks, y.lives c = true ∧ y.seat.isSome ∧ y.halted = false) → exec (.haltComplete c) s = .next s)) ∧
    (x.valid = true → x.killed = false → h.complete = true → x.silt.undone = [] → x.silt.rewound = none → x.silt.edited = false → x.loam.entries = [] →
      (∃ s1, exec (.contextResume c {}) s = .next s1 ∧ still s1 ∧ (s1.m.ctx c).halt = {} ∧
        (ctxOf t.gid = c → s1.m.t = { t with halted := false, skid := 0, struck := false, stop := none })) ∧
      ∀ k b, x.silt.room 32 = true → ∃ s1, exec (.contextResume c { mem := [(k, b)] }) s = .next s1 ∧ s1.sys = s.sys ∧ (s1.m.ctx c).halt = {} ∧
        ∀ j, s1.m.byte j = if j = k then b else s.m.byte j) ∧
    ((x.valid = false ∨ x.killed = true ∨ h.complete = false) → exec (.contextResume c {}) s = .next s) ∧
    (mine → t.seat.isSome → t.answered = false →
      (h.line = false → ∃ s1, exec (.preempt ⟨[t.gid], none⟩) s = .next s1 ∧ still s1 ∧ s1.m.t.seat = none ∧ s1.m.t.phase = .ready ∧
        s1.m.t.pc = t.pc ∧ s1.m.t.img = t.img ∧ s1.m.t.fol = t.fol ∧ s1.m.t.regang = (if t.fol = [] then 0 else t.gangSize)) ∧
      (h.line = true → exec (.preempt ⟨[t.gid], none⟩) s = .next s)) ∧
    (∀ k, t.phase ≠ .ended → t.seat = none → (s.m.boundTo t).isNone → (∀ y ∈ s.m.others, y.gid ≠ t.gid) → ctxOf t.gid = c →
      (k ∈ (s.m.partOf c).clusters → ∃ s1, exec (.preempt ⟨[t.gid], some k⟩) s = .next s1 ∧ still s1 ∧ s1.m.t.cluster = k ∧
        s1.m.t = { t with cluster := k, lines := none, migrates := false, sendTo := none }) ∧
      (k ∉ (s.m.partOf c).clusters → exec (.preempt ⟨[t.gid], some k⟩) s = .next s)) ∧
    (∀ n, n ≠ c → s.m.busyUnits c = false → (∀ y ∈ s.m.tasks, y.lives c = true → y.seat = none) →
      ∃ s1, exec (.contextSwitch c n) s = .next s1 ∧ still s1 ∧ s1.m.t = t ∧ s1.m.others = s.m.others ∧
        s1.m.ctx c = { x with out := true } ∧ s1.m.ctx n = { s.m.ctx n with out := false }) ∧
    (∀ striker who a n old q, mine →
      (t.watchEn = true → h.line = false → x.isSealed = false → 1 < x.stopCap → striker / 4096 ≠ 1 →
        ∃ s1, exec (.watchStrike t.gid striker who a n old q) s = .next s1 ∧ still s1 ∧ s1.m.t = t ∧ raised s1 false (some t.gid) [(striker, 0)] ∧
          (s1.m.ctx c).stops = [.watch true striker n c t.gid who (BitVec.ofNat 64 a) s.m.cycle old x.silt.current 0 q]) ∧
      (t.watchEn = false → exec (.watchStrike t.gid striker who a n old q) s = .next s)) ∧
    (mine → (t.stepDue = true → x.isSealed = false → h.line = false → ∃ s1, exec (.step t.gid) s = .next s1 ∧ still s1 ∧
        raised s1 false (some t.gid) [] ∧ s1.m.t = { t with stop := some ⟨2, 0, 0, t.pc⟩, passBreak := false, stepDue := false }) ∧
      ((t.stepDue = false ∨ x.isSealed = true) → exec (.step t.gid) s = .next s))

/-! ### Power, energy and resets (19, 24, 25, 26) -/

/-- 19 R355, 24 R419 to R424, 26 R449: an interval's charges and dump; a block's states from ON by DOZE and RETAIN to OFF and back, a
block OFF keeping nothing; a late wake; clock stretching, which does not begin while a halt is in progress.
What the spec leaves open here is the model's choice (log entries 57, 59, 64 and 72). -/
def Obligations.PowerEvents : Prop :=
  ∀ (s : State) (b : Block), s.m.errs = [] → s.sys.ring.length < 4096 →
    let y := s.sys
    let puts := fun (i : Instr) (p : PState4) => ∃ s1, exec i s = .next s1 ∧ s1.m = s.m ∧ s1.agenda = s.agenda ∧
      s1.sys = { y with power := s1.sys.power } ∧
      ∀ k, Tab.look .retain s1.sys.power k = if k = blockUnit b then p else Tab.look .retain y.power k
    let stays := fun (i : Instr) => exec i s = .next s
    let is := y.pstate b
    let port := ∃ p, b = .port p
    let idle := s.m.blockIdle b = true
    let reports := fun (i : Instr) (code : Nat) => ∃ s1, exec i s = .next s1 ∧ s1.m.t = s.m.t ∧ s1.m.mem = s.m.mem ∧
      s1.m.ctxs = s.m.ctxs ∧ s1.sys.power = y.power ∧ ∃ r ∈ s1.sys.ring, r.code = code ∧ r.unit = blockUnit b
    (∀ rows uj, rows.length ≤ 2816 → (∀ r ∈ rows, r.1 < 2 ^ 32 ∧ r.2 < 2 ^ 32) →
      let d : GridDump := { seq := y.dumpNo + 1, time := s.m.cycle, interval := s.m.cycle - y.gridAt, moduleUj := uj,
                            unheldUj := y.unheldUj, lost := y.dumpLost, rows := rows }
      exec (.linkGridDump rows uj true) s = .next { s with sys := { y with
        dumpNo := y.dumpNo + 1, dumpLost := 0, gridAt := s.m.cycle, unheldUj := 0, grid := y.grid ++ [d] } } ∧
      ∃ s1, exec (.linkGridDump rows uj false) s = .next s1 ∧ s1.m = s.m ∧ s1.sys.grid = y.grid ∧ s1.sys.dumpLost = y.dumpLost + 1 ∧
        s1.sys.dumpNo = y.dumpNo) ∧
    (∀ (q : Charge) (uj k j o n l : Nat), o ≠ q.ctx →
      let divided : BlockEnergy := { uj := uj, cycles := [(q.ctx, k), (o, j)], slots := [(q.ctx, q.rec_, n), (q.ctx, q.rec_ + 1, l)] }
      let share := fun (slots : Nat) => uj * k * slots / ((k + j) * (n + l))
      let p := s.m.launch q.ctx
      ∃ s1, exec (.energyInterval [q] [divided]) s = .next s1 ∧ s1.m.mem = s.m.mem ∧ s1.m.t = s.m.t ∧
        s1.sys = { y with unheldUj := y.unheldUj + if k + j = 0 then uj else 0 } ∧ ∀ r, s1.m.launch q.ctx r =
          if r = q.rec_ then { p r with energy := (p r).energy + q.active + share n, sharedUj := (p r).sharedUj + share n }
          else if r = q.rec_ + 1 then { p r with energy := (p r).energy + share l, sharedUj := (p r).sharedUj + share l }
          else p r) ∧
    (¬ port → is = .run → idle → puts (.powerDoze b) .doze) ∧
    ((port ∨ is ≠ .run ∨ ¬ idle) → stays (.powerDoze b)) ∧
    (idle → (¬ port ∧ is = .doze ∨ port ∧ is = .run) → puts (.powerRetain b) .retain) ∧
    ((¬ idle ∨ is = .retain ∨ is = .off) → stays (.powerRetain b)) ∧
    ((is ≠ .retain ∨ ¬ idle ∨ s.m.blockLive b = true) → stays (.powerOff b)) ∧
    (is = .retain → idle → s.m.blockLive b = false → ∃ s1, exec (.powerOff b) s = .next s1 ∧ s1.sys.pstate b = .off ∧
      s1.m.t = s.m.t ∧ s1.m.others = s.m.others ∧ s1.m.ctxs = s.m.ctxs ∧
      (∀ n, b = .core n → ∀ off, off < 65536 → s1.m.byte (scratchKey false n off) = 0 ∧ s1.m.byte (scratchKey true n off) = 0 ∧
        s1.m.byte (actKey n off) = 0 ∧ s1.m.byte (accKey n off) = 0) ∧ ∀ k, k < 2 ^ 52 → s1.m.byte k = s.m.byte k) ∧
    puts (.powerWake b) .run ∧
    (is = .run → stays (.wakeTimeout b)) ∧
    (is ≠ .run → reports (.wakeTimeout b) 0x7004) ∧
    (∀ temp, (∃ n, b = .core n ∨ b = .matrix n ∨ b = .sfu n) → blockUnit b ∉ y.stretched →
      (s.m.haltsAt b = false → reports (.clockStretch b true temp) 0x7001) ∧
      (s.m.haltsAt b = true → stays (.clockStretch b true temp)) ∧ stays (.clockStretch b false temp))

/-- 24 R424, 25 R442, R443, R445, 26 R449, R450: a thermal trip, a supply fault and an error in the kernel's memory reset the module,
each with its record and its cause, HBM surviving the latter two; power-on boots it, with the kernel only where the
lifecycle has one; the watchdog halts every context, and the registry re-adopts the contexts whose digests match.
What the spec leaves open here is the model's choice (log entries 2, 20, 65 and 66). -/
def Obligations.ResetEvents : Prop :=
  ∀ (s : State), s.m.errs = [] → s.sys.ring.length < 4096 →
    let y := s.sys
    let resets := fun (i : Instr) (cause code : Nat) (hbm : Bool) => ∃ s1, exec i s = .next s1 ∧ s1.sys.booted = false ∧
      s1.sys.kernel = false ∧ s1.sys.boots = y.boots + 1 ∧ s1.sys.lifecycle = y.lifecycle ∧ s1.m.t.phase = .ended ∧
      s1.m.others = [] ∧ (∃ r, s1.sys.resets.getLast? = some r ∧ r.cause = cause ∧ r.boot = y.boots ∧ r.time = s.m.cycle) ∧
      (∀ k, s1.m.byte k = if hbm ∧ k < 2 ^ 52 then s.m.byte k else 0) ∧ (∀ c, (s1.m.ctx c).valid = false) ∧
      ((∃ r ∈ s1.sys.ring, r.code = code) ↔ hbm)
    (∀ unit temp, resets (.thermalTrip unit temp) 2 0x7002 false) ∧
    (∀ rail, resets (.supplyFault rail) 7 0x7003 true) ∧
    (∀ pa w, resets (.kernelMemoryError pa w) 7 0x2006 true) ∧
    (y.failures < 3 →
      (∃ s1, exec (.powerOnReset 0) s = .next s1 ∧ s1.sys.booted = true ∧ s1.sys.lifecycle = y.lifecycle ∧ s1.sys.failures = 0 ∧
        (s1.sys.kernel = true ↔ (y.lifecycle = .provisioned ∨ y.lifecycle = .locked)) ∧
        (y.booted = false → y.restarting = true → s1.m.mem = s.m.mem ∧ s1.sys.boots = y.boots) ∧
        ((y.booted = true ∨ y.restarting = false) → s1.m.mem = [] ∧ s1.m.ctxs = [] ∧ s1.m.cycle = 0 ∧ s1.sys.ring = [] ∧
          s1.sys.boots = y.boots + 1 ∧ ∃ r, s1.sys.resets.getLast? = some r ∧ r.cause = 1)) ∧
      ∀ n, 0 < n → ∃ s1, exec (.powerOnReset n) s = .next s1 ∧ s1.sys.booted = false ∧ s1.sys.kernel = false ∧
        s1.sys.failures = y.failures + 1) ∧
    (3 ≤ y.failures → exec (.powerOnReset 0) s = .next s) ∧
    (∀ panic, (y.kernel = false → exec (.watchdogExpiry panic) s = .next s) ∧
      (y.kernel = true → y.readopt = [] → ∃ s1, exec (.watchdogExpiry panic) s = .next s1 ∧ s1.m.mem = s.m.mem ∧ s1.m.t = s.m.t ∧
        s1.m.others = s.m.others ∧ s1.sys.boots = y.boots + 1 ∧ (∃ r ∈ s1.sys.ring, r.code = 0x9001) ∧
        (∀ c, c ∈ s1.sys.readopt ↔ ∃ q ∈ s.m.ctxs, q.1 = c ∧ q.2.valid = true) ∧ ∀ c ∈ s1.sys.readopt, (s1.m.ctx c).halt.line = true)) ∧
    (y.kernel = true → y.readopt ≠ [] → resets (.watchdogExpiry false) 3 0x9001 true) ∧
    (∀ c d, let x := s.m.ctx c
      (c ∉ y.readopt → exec (.registryReadopt c d) s = .next s) ∧
      (c ∈ y.readopt → x.valid = true → (d ≠ x.digest → ∃ s1, exec (.registryReadopt c d) s = .next s1 ∧
          (s1.m.ctx c).valid = false ∧ c ∉ s1.sys.readopt ∧ ∃ r ∈ s1.sys.ring, r.code = 0x8003) ∧
        (d = x.digest → x.halt.complete = false → exec (.registryReadopt c d) s = .next s) ∧
        (d = x.digest → x.halt.complete = true → x.killed = false → x.silt.undone = [] → x.silt.edited = false →
          x.loam.entries = [] → ∃ s1, exec (.registryReadopt c d) s = .next s1 ∧ (s1.m.ctx c).halt = {} ∧ c ∉ s1.sys.readopt ∧
            s1.m.mem = s.m.mem)))

/-- 23 R393, R406, 24 R427, 25 R435, R439, R444, 26 R448, R451: a context is created halted, with an empty table and log, and others
unchanged; a checkpoint is restored where its HMAC matches; a killed context leaves no task, and its dump is made in turn; a
block that goes offline takes its contexts with it, and no partition holds it any more.
What the spec leaves open here is the model's choice (log entries 62, 63, 67, 68 and 72). -/
def Obligations.ContextEvents : Prop :=
  ∀ (s : State) (ci : CtxInit) (mac c : Nat), s.m.errs = [] → s.sys.ring.length < 4096 →
    let y := s.sys
    let z := ci.ctx
    let open_ := y.kernel = true ∧ z ≤ 255 ∧ ci.part ≤ 7 ∧ (s.m.ctx z).valid = false ∧ ci.work.arms = [] ∧ soundInit ci = true
    let other := fun (s1 : State) => s1.m.t = s.m.t ∧ s1.m.others = s.m.others ∧ s1.sys = y ∧ ∀ k, k ≠ z → s1.m.ctx k = s.m.ctx k
    let fresh := fun (s1 : State) => let x := s1.m.ctx z
      x.valid = true ∧ x.halt = { line := true, complete := true } ∧ x.isSealed = ci.isSealed ∧ x.part = ci.part ∧ x.root = ci.root ∧
      x.silt.recs = [] ∧ x.silt.size = ci.siltSize ∧ x.silt.full = decide (ci.siltCtl % 2 = 1) ∧ x.silt.current = 1 ∧
      x.ownerHash = ci.ownerHash ∧ x.loam.nsets = ci.nsets ∧ x.loam.entries = [] ∧ x.loam.ansFree = ci.ansCells ∧
      x.loam.keyFree = ci.keyCells ∧ x.loam.base = ci.loam ∧ x.loam.va = ci.loamVa ∧ (ci.loam, ci.loam + 2048 * ci.nsets +
        64 * ci.ansCells + 64 * ci.keyCells) ∈ x.guards ∧ (ci.images, ci.images + 8 * 0x900 * ci.frames) ∈ x.guards
    (open_ → ci.fence = none → ∃ s1, exec (.contextCreate ci) s = .next s1 ∧ other s1 ∧ fresh s1 ∧ s1.m.parts = s.m.parts ∧
      (∀ core n, n < 4 → s1.m.window z core n = {}) ∧
      (∀ k b, ci.work.mem = [(k, b)] → ci.work.scratch = [] → ∀ j, s1.m.byte j = if j = k then b else s.m.byte j)) ∧
    (∀ cls sts, open_ → ci.fence = some (cls, sts) → (∀ q ∈ s.m.ctxs, q.2.valid = false) →
      ∃ s1, exec (.contextCreate ci) s = .next s1 ∧ other s1 ∧ fresh s1 ∧
        (∀ n, n ∈ (s1.m.part ci.part).clusters ↔ n ∈ cls ∧ n < 512) ∧ (∀ n, n ∈ (s1.m.part ci.part).hbmStacks ↔ n ∈ sts ∧ n < 12) ∧
        ∀ p, p ≠ ci.part → ∀ n ∈ cls, n ∉ (s1.m.part p).clusters) ∧
    ((y.kernel = false ∨ 255 < z ∨ soundInit ci = false ∨ (s.m.ctx z).valid = true) → exec (.contextCreate ci) s = .next s) ∧
    ((s.m.ctx z).valid = true → exec (.checkpointRestore ci mac) s = .next s) ∧
    ((s.m.ctx z).valid = false → mac ≠ Config.hmac z (ctxImage ci (y.lastCheckpoint z)) → ∃ s1, exec (.checkpointRestore ci mac) s = .next s1 ∧
      s1.m.mem = s.m.mem ∧ s1.m.ctxs = s.m.ctxs ∧ ∃ r ∈ s1.sys.ring, r.code = 0x8004) ∧
    (open_ → ci.fence = none → mac = Config.hmac z (ctxImage ci (y.lastCheckpoint z)) →
      ((∀ k ∈ y.checkpoints, k.ctx ≠ z) → ∃ s1, exec (.checkpointRestore ci mac) s = .next s1 ∧ other s1 ∧ fresh s1) ∧
      (∀ l k, y.checkpoints = l ++ [k] → k.ctx = z → ∃ s1, exec (.checkpointRestore ci mac) s = .next s1 ∧ s1.sys = y ∧
        (s1.m.ctx z).valid = true ∧ (s1.m.ctx z).halt = { line := true, complete := true } ∧ (s1.m.ctx z).pool = k.snap.pool ∧
        (s1.m.ctx z).loam = k.snap.loam.placed (ctxTable ci) ∧ (∀ j b, k.bytes = [(j, b)] → s1.m.byte j = b) ∧ ∀ t ∈ s1.m.tasks, ctxOf t.gid = z → t.phase ≠ .ended → t.halted = true)) ∧
    ((s.m.ctx c).valid = false → exec (.killContext c) s = .next s) ∧
    ((s.m.ctx c).valid = true → ∃ s1 d, exec (.killContext c) s = .next s1 ∧ (s1.m.ctx c).valid = false ∧
      (∀ t ∈ s1.m.tasks, ctxOf t.gid = c → t.phase = .ended) ∧ s1.sys.dumpQueue = y.dumpQueue ++ [d] ∧ d.ctx = c ∧
      d.silt = (s.m.ctx c).silt ∧ d.stops = (s.m.ctx c).stops ∧ d.images = s.m.tasks.filter (fun t => t.lives c) ∧
      (∀ g ∈ s1.sys.grants, g.lv = .d1 → g.ctx ≠ c) ∧ c ∉ s1.sys.readopt) ∧
    (∀ d rest, y.dumpQueue = d :: rest →
      let es := y.ringHeld.filter fun r => r.ctx == d.ctx && r.valid % 2 == 1
      exec (.dump d.ctx none) s = .next { s with sys := { y with
        dumpQueue := rest, dumps := y.dumps ++ [{ d with errors := es, ended := none }] } } ∧
      (c ≠ d.ctx → exec (.dump c none) s = .next s) ∧
      ∀ off code, ∃ s1, exec (.dump d.ctx (some (off, code))) s = .next s1 ∧ s1.sys.dumpQueue = rest ∧
        s1.sys.dumps = y.dumps ++ [{ d with errors := es, ended := some (off, code) }] ∧ ∃ r ∈ s1.sys.ring, r.code = code) ∧
    (∀ b, (b ∈ y.offline → exec (.offlineBlock b) s = .next s) ∧
      (b ∉ y.offline → ∃ s1, exec (.offlineBlock b) s = .next s1 ∧ s1.sys.offline = y.offline ++ [b] ∧
        (∀ k ∈ s.m.blockCtxs b, (s1.m.ctx k).valid = false) ∧ (∀ n, b = .core n → ∀ k, s1.m.ownsCore k n = false) ∧
        (∀ n, b = .matrix n → ∀ k, n ∉ (s1.m.part k).clusters) ∧ (∀ n, b = .slice n → ∀ k, n / 16 ∉ (s1.m.part k).hbmStacks) ∧
        ∀ p, b = .port p → p ∉ s1.m.portsUp))

/-! ### Security and debugging (22, 24) -/

/-- 24 R425, R426, R428 to R430, 22 R387, 24 R411, R412: the lifecycle moves forward alone, and RMA erases; attestation signs; grants
by the owner's or the vendor's signature; a request acts at its level on a halted context that is not sealed, and is
refused with a record otherwise.
What the spec leaves open here is the model's choice (log entries 2, 69 and 72). -/
def Obligations.SecurityEvents : Prop :=
  ∀ (s : State) (ses c token release nonce : Nat) (b : Block), s.m.errs = [] → s.sys.ring.length < 4096 →
    let y := s.sys
    let x := s.m.ctx c
    let owned := y.lifecycle = .provisioned ∨ y.lifecycle = .locked
    let vendor := Config.sm2 Config.vendorKey (Config.sm3 [Config.device, lifecycleCode y.lifecycle, y.boots]) token = true
    let owner := Config.sm2 Config.ownerRoot (Config.sm3 [Config.device, lifecycleCode y.lifecycle, y.boots]) release = true
    let stays := fun (i : Instr) => exec i s = .next s
    let becomes := fun (dst : Lifecycle) => exec (.lifecycleTransition dst token release) s = .next { s with sys := { y with lifecycle := dst } }
    let erased := ∃ s1, exec (.lifecycleTransition .rma token release) s = .next s1 ∧ s1.sys.lifecycle = .rma ∧ s1.m.mem = [] ∧
      s1.m.ctxs = [] ∧ s1.m.others = [] ∧ s1.sys.kernel = false ∧ s1.sys.ring = [] ∧ s1.sys.grants = []
    let refused := fun (i : Instr) => ∃ s1, exec i s = .next s1 ∧ s1.m.mem = s.m.mem ∧ s1.m.ctxs = s.m.ctxs ∧ s1.m.t = s.m.t ∧
      s1.sys.grants = y.grants ∧ s1.sys.power = y.power ∧ ∃ r ∈ s1.sys.ring, r.code = 0x8001
    let granted := fun (i : Instr) (lv : DbgLevel) (ctx : Nat) => ∃ s1, exec i s = .next s1 ∧
      s1.sys = { y with grants := y.grants ++ [⟨ses, lv, ctx⟩] } ∧ s1.m = { s.m with free := s1.m.free }
    let req := fun (op : DbgOp) => Instr.debugRequest ses c op b
    let acts := fun (op : DbgOp) (f : State → Prop) => ∃ s1, exec (req op) s = .next s1 ∧ s1.sys.pstate b = .run ∧
      s1.sys.ring = y.ring ∧ f s1
    let d1 := (∃ g ∈ y.grants, g.ses = ses ∧ g.lv = .d1 ∧ g.ctx = c) ∧ ∀ g ∈ y.grants, g.ses = ses → g.lv ≠ .d2
    let d2 := ∃ g ∈ y.grants, g.ses = ses ∧ g.lv = .d2
    let still := fun (s1 : State) => s1.m.mem = s.m.mem ∧ ∀ k, k ≠ c → s1.m.ctx k = s.m.ctx k
    (y.lifecycle = .blank → becomes .provisioned ∧ ∀ d, d ≠ Lifecycle.provisioned → stays (.lifecycleTransition d token release)) ∧
    (y.lifecycle = .provisioned → becomes .locked ∧ (vendor → erased) ∧ (¬ vendor → stays (.lifecycleTransition .rma token release)) ∧
      stays (.lifecycleTransition .blank token release)) ∧
    (y.lifecycle = .locked → (vendor → owner → erased) ∧ (¬ (vendor ∧ owner) → stays (.lifecycleTransition .rma token release)) ∧
      ∀ d, d ≠ Lifecycle.rma → stays (.lifecycleTransition d token release)) ∧
    (y.lifecycle = .rma → ∀ d, stays (.lifecycleTransition d token release)) ∧
    (y.kernel = true → ∃ d, exec (.attestation c nonce) s = .next { s with sys := { y with reports := y.reports ++ [(nonce, d)] } }) ∧
    (y.kernel = false → stays (.attestation c nonce)) ∧
    stays (.debugGrant ses .d0 c token) ∧
    (let ok := Config.sm2 x.ownerHash (Config.sm3 [Config.nonce s.m.free, Config.device, c, 1]) token = true
     (owned → x.valid = true → ok → granted (.debugGrant ses .d1 c token) .d1 c) ∧
     ((¬ owned ∨ x.valid = false ∨ ¬ ok) → refused (.debugGrant ses .d1 c token))) ∧
    ((¬ owned ∨ vendor) → granted (.debugGrant ses .d2 c token) .d2 0) ∧
    (owned → ¬ vendor → refused (.debugGrant ses .d2 c token)) ∧
    ((∀ g ∈ y.grants, g.ses ≠ ses) → ∀ op, stays (req op)) ∧
    ((∀ g ∈ y.grants, g.ses = ses → g.lv = .d1 ∧ g.ctx ≠ c) → (∃ g ∈ y.grants, g.ses = ses) → ∀ op, refused (req op)) ∧
    (d1 → refused (req .reset) ∧ (x.isSealed = true → ∀ op, refused (req op))) ∧
    (d2 → x.isSealed = true → ∀ op, op ≠ DbgOp.reset → refused (req op)) ∧
    (d2 → ∃ s1, exec (req .reset) s = .next s1 ∧ s1.sys.booted = false ∧ s1.sys.boots = y.boots + 1 ∧ s1.m.others = []) ∧
    ((d1 ∨ d2) → x.isSealed = false → y.pstate b = .off → ∀ op, op ≠ DbgOp.reset → stays (req op)) ∧
    ((d1 ∨ d2) → x.isSealed = false → y.pstate b ≠ .off → x.valid = true →
      (x.halt.line = false → acts .halt fun s1 => still s1 ∧ (s1.m.ctx c).halt.line = true ∧ (s1.m.ctx c).halt.dbg = true) ∧
      (x.halt.complete = true →
        (∀ i a k en, i < 16 → acts (.setBreak i a k en) fun s1 => still s1 ∧ Tab.look {} (s1.m.ctx c).breaks i =
          ⟨a % 2 ^ 52 / 2 * 2, k % 2 ^ 48, en⟩ ∧ ∀ j, j ≠ i → Tab.look {} (s1.m.ctx c).breaks j = Tab.look {} x.breaks j) ∧
        (ctxOf s.m.t.gid = c → s.m.t.phase ≠ .ended →
          (∀ v, acts (.setStep s.m.t.gid v) fun s1 => still s1 ∧ s1.m.t = { s.m.t with ctl := { s.m.t.ctl with
            stepCtl := BitVec.ofNat 64 (v / 2 ^ 62 % 4 * 2 ^ 62 + v % 2 ^ 52 / 2 * 2) } }) ∧
          (∀ a k v, acts (.setWatch s.m.t.gid a k v) fun s1 => still s1 ∧ s1.m.t.ctl = { s.m.t.ctl with
            wpAddr := BitVec.ofNat 52 (a % 2 ^ 52 / 64 * 64), wpMask := BitVec.ofNat 64 k,
            wpCtl := BitVec.ofNat 6 (v % 64 / 4 * 4 + v % 2) }) ∧
          acts (.readTask s.m.t.gid) (fun s1 => s1.m = s.m) ∧ acts (.counters s.m.t.gid) (fun s1 => s1.m = s.m) ∧
          (∀ j v k, x.silt.stepsOpen = false → acts (.editReg s.m.t.gid 0 (.reg j v k)) fun s1 => still s1 ∧ ∀ i, s1.m.t.cell i =
            if i = j then ⟨v, k, none⟩ else s.m.t.cell i)) ∧
        (∀ pa v, x.silt.stepsOpen = false → acts (.editMem pa v) fun s1 =>
          ∀ j, s1.m.byte j = if j = pa then v else s.m.byte j) ∧
        (∀ full, acts (.siltLevel full) fun s1 => still s1 ∧ (s1.m.ctx c).silt = { x.silt with full := full }) ∧
        (x.killed = false → x.silt.undone = [] → x.silt.rewound = none → x.silt.edited = false → x.loam.entries = [] →
          acts .resume fun s1 => s1.m.mem = s.m.mem ∧ (s1.m.ctx c).halt = {})) ∧
      (x.halt.complete = false → ∀ op, op ≠ DbgOp.reset → op ≠ DbgOp.halt → acts op fun s1 => s1.m = s.m))

/-! ### Links, root ports and their parties (25, 26) -/

/-- 25 R431 to R434, R439, R441, 24 R427, 26 R449: ports retrain, go down and come up; a peer's access is performed for the context
its import entry names, or leaves nothing; devices interrupt and write; reads without an answer trap PROT; every error
leaves its record.
What the spec leaves open here is the model's choice (log entries 7, 58, 70, 71 and 72). -/
def Obligations.PortEvents : Prop :=
  ∀ (s : State) (p : Nat), s.m.errs = [] → s.sys.ring.length < 4096 →
    let y := s.sys
    let stays := fun (i : Instr) => exec i s = .next s
    let noted := fun (i : Instr) (code unit : Nat) => ∃ s1, exec i s = .next s1 ∧ s1.m.mem = s.m.mem ∧ s1.m.t = s.m.t ∧
      s1.m.ctxs = s.m.ctxs ∧ ∃ r ∈ s1.sys.ring, r.code = code ∧ r.unit = unit
    let up := p ∈ s.m.portsUp
    let cleared := fun (m : Mach) => { m with portsUp := s.m.portsUp, portsTrain := s.m.portsTrain, rootsUp := s.m.rootsUp }
    noted (.rinairFlitError p) 0x4001 (0xA000 + p) ∧
    (up → ∃ s1, exec (.portRetrain p) s = .next s1 ∧ s1.sys = y ∧ cleared s1.m = s.m ∧ p ∉ s1.m.portsUp ∧
      s1.m.portsTrain = s.m.portsTrain ++ [p]) ∧
    (¬ up → stays (.portRetrain p)) ∧
    (¬ up → p ∉ s.m.portsTrain → stays (.portDown p)) ∧
    ((up ∨ p ∈ s.m.portsTrain) → ∃ s1, exec (.portDown p) s = .next s1 ∧ p ∉ s1.m.portsUp ∧ p ∉ s1.m.portsTrain ∧
      p ∉ s1.sys.portKeys ∧ (∃ r ∈ s1.sys.ring, r.code = 0x4002) ∧
      ∀ c x g l, s.m.ctxs = [(c, x)] → x.valid = true → c ≠ 256 → (g, l) ∈ x.groups → (∃ q ∈ l, q.route.head? = some p) →
        g ∈ (s1.m.ctx c).deadGroups) ∧
    (∀ ok : Bool, y.booted = true → p ≤ 15 → ¬ up → .port p ∉ y.offline →
      (ok = true → ∃ s1, exec (.portUp p ok) s = .next s1 ∧ s1.m.portsUp = s.m.portsUp ++ [p] ∧ p ∉ s1.m.portsTrain ∧
        cleared s1.m = s.m ∧ p ∈ s1.sys.portKeys) ∧
      (ok = false → noted (.portUp p ok) 0x8002 (0xA000 + p))) ∧
    (∀ ok, (y.booted = false ∨ 15 < p ∨ up ∨ .port p ∈ y.offline) → stays (.portUp p ok)) ∧
    (∀ pa acc, (¬ up ∨ 2 ^ 48 ≤ pa ∨ s.m.importFor p pa acc = none) → stays (.remoteAccessArrival p pa acc)) ∧
    (∀ i e pa bs v, up → i < 64 → Tab.look {} s.m.imports (64 * p + i) = e → (∀ j, j < i → Tab.look {} s.m.imports (64 * p + j) = {}) →
      0 < e.limit → pa + 8 ≤ 2 ^ 48 → e.base ≤ pa → pa + 8 ≤ e.limit → bs.length = 8 →
      (s.m.ctx e.ctx).valid = true → (s.m.ctx e.ctx).silt.room 96 = true →
      let marked := fun (s1 : State) => s1.sys = y ∧ (s1.m.ctx e.ctx).silt.lastExt = (s.m.ctx e.ctx).silt.nextSeq ∧
        ∃ r, (s1.m.ctx e.ctx).silt.recs = (s.m.ctx e.ctx).silt.recs ++ [r] ∧ r.kind = .external ∧ r.key = pa
      (e.w = true → ∃ s1, exec (.remoteAccessArrival p pa (.store bs)) s = .next s1 ∧
        s.m.storedAt s1.m pa 8 (fun i => bs.getD i 0) ∧ marked s1) ∧
      (e.w = false → s.m.importFor p pa (.store bs) = none → stays (.remoteAccessArrival p pa (.store bs))) ∧
      (e.a = true → ∀ op n, n = 4 ∨ n = 8 →
        let x := s.m.number pa n
        let z := v.toNat % 2 ^ (8 * n)
        let sg := fun (nat : Bool) (q : Nat) => if nat = true ∨ q < 2 ^ (8 * n - 1) then (q : Int) else q - 2 ^ (8 * n)
        let left : Option Nat := match op with
          | .add => some ((x + z) % 2 ^ (8 * n))
          | .and => some (x &&& z)
          | .or => some (x ||| z)
          | .xor => some (x ^^^ z)
          | .xchg => some z
          | .min nat => some (if sg nat z < sg nat x then z else x)
          | .max nat => some (if sg nat x < sg nat z then z else x)
          | .cas was => if x = was.toNat % 2 ^ (8 * n) then some z else none
        (∀ r, left = some r → ∃ s1, exec (.remoteAccessArrival p pa (.atomic op n v)) s = .next s1 ∧
          s.m.storedAt s1.m pa n (byteOf (BitVec.ofNat 64 r)) ∧ marked s1) ∧
        (left = none → stays (.remoteAccessArrival p pa (.atomic op n v)))) ∧
      stays (.remoteAccessArrival p pa (.load 8))) ∧
    (∀ v, (y.msix.length < 4096 → exec (.msiXInterrupt v) s = .next { s with sys := { y with msix := y.msix ++ [v] } }) ∧
      (4096 ≤ y.msix.length → ∃ s1, exec (.msiXInterrupt v) s = .next s1 ∧ s1.sys.msix = y.msix ∧ s1.sys.msixLost = true ∧
        ∃ r ∈ s1.sys.ring, r.code = 0x9004)) ∧
    (∀ pa bs c, p ∈ s.m.rootsUp → pa < 2 ^ 48 →
      (∃ s1, exec (.dmaWrite p pa bs none) s = .next s1 ∧ s.m.storedAt s1.m pa bs.length (fun i => bs.getD i 0) ∧ s1.m.ctxs = s.m.ctxs ∧
        s1.m.t = s.m.t ∧ s1.sys = y) ∧
      ((s.m.ctx c).valid = true → (s.m.ctx c).silt.room 96 = true → ∃ s1, exec (.dmaWrite p pa bs (some c)) s = .next s1 ∧
        s.m.storedAt s1.m pa bs.length (fun i => bs.getD i 0) ∧ (s1.m.ctx c).silt.lastExt = (s.m.ctx c).silt.nextSeq ∧ s1.m.t = s.m.t ∧
        s1.sys = y) ∧
      ((s.m.ctx c).valid = true → (s.m.ctx c).silt.room 32 = false → exec (.dmaWrite p pa bs (some c)) s =
        .next { s with m := s.m.setCtx c fun x => { x with silt := { x.silt with starved := true } } })) ∧
    (∀ va, s.m.t.phase = .parked (.root p va) → s.m.t.region = none → s.m.t.ctl.trapCode.inH = false →
      (∀ t ∈ s.m.others, t.gid ≠ s.m.t.gid ∧ ∀ w, t.phase ≠ .parked (.root p w)) →
      let waits := fun (s1 : State) => (∃ part i, s1.m.t.phase = .waiting (.fault part i 7 va)) ∧ s1.m.t.pc = s.m.t.pc ∧
        s1.m.t.img = s.m.t.img ∧ s1.m.mem = s.m.mem ∧ ∃ r ∈ s1.sys.ring, r.code = 0x9003 ∧ r.unit = 0xD000 + p
      (∃ s1, exec (.completionTimeout s.m.t.gid) s = .next s1 ∧ waits s1 ∧ s1.m.rootsUp = s.m.rootsUp) ∧
      (p ∈ s.m.rootsUp → ∃ s1, exec (.surpriseRemoval p) s = .next s1 ∧ waits s1 ∧ p ∉ s1.m.rootsUp)) ∧
    (p ∉ s.m.rootsUp → stays (.surpriseRemoval p)) ∧
    (y.booted = true → p ≤ 7 → p ∉ s.m.rootsUp → ∃ s1, exec (.hotPlug p) s = .next s1 ∧ s1.sys = y ∧ cleared s1.m = s.m ∧
      s1.m.rootsUp = s.m.rootsUp ++ [p]) ∧
    (∀ w, noted (.aerError p true w) 0x9003 (0xD000 + p) ∧ noted (.aerError p false w) 0x9002 (0xD000 + p)) ∧
    (∀ vc, noted (.shaleFlitError p vc) 0x3001 (0x9000 + p)) ∧
    noted (.shaleEndpointFailure p) 0x3002 (0x9000 + p)

/-! ### Where accesses stop (10, 15, 16, 22) -/

/-- 10 R186, 15 R275, R277, R278, R283 to R288, 16 R297, R298, 22 R389: a misaligned address traps ALIGN; a global address that does not translate, or
whose page grants no such access, a place past a buffer's end and a malformed scratchpad address fault; another core's
scratchpad that no window opens traps NACK_WINDOW; a watched access traps WATCH. Nothing else happens.
What the spec leaves open here is the model's choice (log entry 9). -/
def Obligations.AccessFaults : Prop :=
  ∀ (s : State) (m : Option XMod) (z : Size) (sp : Space) (tag : Tag) (d a : Opnd), s.ready m [d, a] [a] →
    let t := s.m.t
    let c := s.m.cur
    let ad := t.val a
    let n := match z with | .b => 1 | .h => 2 | .w => 4 | .d => 8
    let ld := Instr.ld m tag z sp d a
    let st := Instr.st m z sp d a
    let goes := fun (acc : Nat) => s.m.reach c (clusterOf t.core) ad n acc
    (ad.toNat % n ≠ 0 → Traps ld s 0x05 ad ∧ Traps st s 0x05 ad) ∧
    (ad.toNat % n = 0 →
      (sp = .g → ∀ k, (goes 1 = .error k → Faults ld s k 1 ad) ∧ (goes 2 = .error k → Faults st s k 2 ad)) ∧
      ((sp = .a ∧ 65536 < ad.toNat + n ∨ sp = .c ∧ 32768 < ad.toNat + n ∨ sp = .s ∧ scratchOf t.core ad = none) →
        Faults ld s 1 1 ad ∧ Faults st s 1 2 ad) ∧
      (∀ core off, sp = .s → scratchOf t.core ad = some (core, off) → core ≠ t.core →
        ((s.m.ownsCore c core = false ∨ ∀ i, i < 4 → (s.m.window c core i).grants off n 1 = false) → Traps ld s 0x08 ad) ∧
        ((s.m.ownsCore c core = false ∨ ∀ i, i < 4 → (s.m.window c core i).grants off n 2 = false) → Traps st s 0x08 ad)) ∧
      (∀ l m1 x, sp = .g → t.watchEn = true → t.passWatch = false → t.watches l (List.range n) true = some x →
        goes 2 = .ok (l, m1) → exec st s = .next { s with m := s.m.raiseWatch (BitVec.ofNat 64 x) l.key l.va n })) ∧
    (∀ acc, 2 ^ 52 ≤ ad.toNat → goes acc = .error 0) ∧
    (∀ e m1, ad.toNat < 2 ^ 52 → s.m.translate c (clusterOf t.core) ad.toNat = .ok (e, m1) →
      (e.attr / 4 % 2 = 0 → goes 1 = .error 1) ∧ (e.attr / 8 % 2 = 0 → goes 2 = .error 1) ∧ (e.attr / 16 % 2 = 0 → goes 4 = .error 1))

/-! ### Decoding, the step and the whole machine (03, 04, 24, 25) -/

/-- 03 R31, R32, R34, R36, R37, R39, R56: an encoded instruction decodes to itself, whatever follows it. -/
def Obligations.EncodeDecode : Prop :=
  ∀ (i : Instr) (rest : List HW), i.enc.isSome → i.wf = true → decode (encode i ++ rest) = .ok (i, (encode i).length)

/-- 03 R34 to R46 and the encodings of 05, 09, 12, 13, 16: words written out from the spec's tables decode to what they stand for. -/
def Obligations.Words : Prop :=
  let xmod : XMod := { weak := false, ord := .none, scope := .cl, sat := false, rnd := .rne, fovr := false }
  ∀ p ∈ ([([0x1298], .add none (.code 1) (.code 2) (.code 3)),
    ([0x0508, 0x0C02, 0x1A08], .add (some { xmod with fovr := true }) (.code 5) (.slot 8) (.code 1)),
    ([0x0003, 0x329C], .lea none .x8 (.code 1) (.code 2) (.code 3)),
    ([0x0008, 0, 0, 0x5A40], .movi (.code 5) 0x100000040),
    ([0x03FF, 0x7238], .cmpi none .eq 1 (.code 0) (-1)),
    ([0x8303], .bc 1 3),
    ([0x0801, 0x0450, 0x0540, 0x0648, 0xC003], .vfma none 0 80 64 (.slot 72)),
    ([0x0440, 0x0002, 0xA043], .ldv none 0 .f32 .g 64 (.code 1)),
    ([0x0F20, 0xA98E], .st (some { xmod with weak := true, ord := .rel, scope := .dv }) .d .g (.code 4) (.code 6)),
    ([0x0428, 0xE020], .stx none (.slot 40) 0 0),
    ([0x0803, 0x0408, 0x0002, 0xC046], .tagset none 0 .f32 (.slot 8) (.code 1)),
    ([0x0808, 0xC202], .rnext (.code 1)),
    ([0x0809, 0x0408, 0xC000], .tans none (.slot 8)),
    ([0x080B, 0x0002, 0xD40A], .crr (.code 2) 17)] : List (List HW × Instr)), decode p.1 = .ok (p.2, p.1.length)

/-- 03 R33, R56, R58, 04 R61 to R64, 15 R278, 24 R413: a step of a thread whose turn it is runs the instruction that stands at its pc,
or raises what stops its fetch, or parks it until a line or a translation is there; a breakpoint halts before it, a weak store that
was refused traps before it; what the agenda holds happens first.
What the spec leaves open here is the model's choice (log entries 2, 74 and 76). -/
def Obligations.StepRuns : Prop :=
  ∀ (s : State),
    let t := s.m.t
    let goes := onNext fun (s1 : State) => (s1.settle (s.m.runnable.erase t.gid)).after
    let turn := s.agenda = [] ∧ s.m.issues t = true ∧ s.m.wait t = 0
    let noted := s.m.note1
    let used := fun (m : Mach) (i : Instr) => ((m.useCode m.t.core m.codeLines).useLines i).note1
    let at_ := fun (m : Mach) (a : Word) => m.reach (ctxOf t.gid) (clusterOf t.core) a 2 4
    (∀ i rest, s.agenda = i :: rest → i.enc = none →
      step s = onNext (·.settle s.m.runnable) (exec i { s with agenda := rest })) ∧
    (∀ a, turn → t.nack = some a → step s = goes (.next { s with m := s.m.nackTrap a })) ∧
    (turn → t.nack = none → s.m.breaksAt t = true → step s = goes (.next { s with m := s.m.debugStop t.gid 0x0F })) ∧
    (turn → t.nack = none → s.m.breaksAt t = false →
      (∀ e, s.m.fetch = .error e → step s = goes (.next { s with m := noted.conclude (.error e) })) ∧
      (∀ i m1, s.m.fetch = .ok (i, m1) →
        (s.m.miss m1 i = none → step s = goes (onNext (s.orMiss i) (exec i { s with m := used m1 i }))) ∧
        (∀ m2, s.m.miss m1 i = some m2 → step s = goes (.next { s with m := m2 }) ∧ m2.mem = s.m.mem ∧ m2.ctxs = s.m.ctxs ∧
          m2.others = s.m.others ∧ ∃ k : Park, m2.t = { t with phase := .parked k } ∧ k ∈ [Park.tlb, Park.code, Park.line]))) ∧
    (∀ i (s1 : State), s.orMiss i s1 = s1 ∨
      (s.orMiss i s1).m.t = { t with phase := .parked .tlb } ∧ (s.orMiss i s1).m.mem = s.m.mem) ∧
    (∀ m k a (s1 : State), s.orMiss (.pref m k a) s1 = s1) ∧
    (∀ m i, let m1 := used m i
      m1 = { m with t := m1.t, icache := m1.icache, rcache := m1.rcache } ∧ m1.t = { m.t with
        issued := m.t.issued + 1, written := m1.t.written, skid := m1.t.skid, bound := m1.t.bound, rstat := m1.t.rstat }) ∧
    (s.m.codeOld = [] → ∀ l m1, at_ s.m t.pc = .ok (l, m1) → l.home = .hbm →
      let h : HW := BitVec.ofNat 16 (s.m.number l.key 2)
      (∀ i, 4096 ≤ h.toNat → decode [h] = .ok (i, 1) → s.m.fetch = .ok (i, { m1 with t := { t with npc := t.pc + 2 } })) ∧
      (∀ l2 m2, h.toNat < 4096 → at_ m1 (t.pc + 2) = .ok (l2, m2) → l2.home = .hbm →
        let h2 : HW := BitVec.ofNat 16 (s.m.number l2.key 2)
        ∀ i, 4096 ≤ h2.toNat → decode [h, h2] = .ok (i, 2) → s.m.fetch = .ok (i, { m2 with t := { t with npc := t.pc + 4 } })) ∧
      (∀ e, 4096 ≤ h.toNat → decode [h] = .error e → e.pfx = false → e.idx = 0 → s.m.fetch = .error (.trap 0x01 t.pc 0)))

/-- 24 R425, 26 R450: no encoded instruction reaches the system die, its lifecycle among it, and no step takes the lifecycle back. -/
def Obligations.LifecycleInvariant : Prop :=
  (∀ (i : Instr) (s s1 : State), i.enc.isSome → exec i s = .next s1 → s1.sys = s.sys ∧ s1.agenda = s.agenda) ∧
  ∀ (l : Lifecycle) (s s1 : State), s.reached l → step s = .next s1 → s1.reached l

/-- 04 R79, 09 R183, 13 R247, 24 R421, 25 R442: what stands after power-on and after the first boot from it. That memory reads as zeros is
the model's own choice (log entry 1), and so is the partition of the whole module (log entry 20). -/
def Obligations.ResetFacts : Prop :=
  let s := State.reset
  s.reached .blank ∧ s.sys.kernel = false ∧ s.m.cycle = 0 ∧ s.m.t.phase = .ended ∧ s.m.others = [] ∧ memWf s.m.mem ∧
  (∀ k, s.m.byte k = 0) ∧ (∀ c, s.m.ctx c = {}) ∧
  ∃ s1, exec (.powerOnReset 0) s = .next s1 ∧ s1.sys.booted = true ∧ s1.sys.kernel = false ∧ s1.m.cycle = 0 ∧
    (∀ b, s1.sys.pstate b = .retain) ∧ (∀ cl k, Tab.look {} (s1.m.mtx cl).slots k = ⟨.empty, 0⟩) ∧ (∀ c, (s1.m.ctx c).valid = false) ∧
    ∀ n, n < 512 → n ∈ (s1.m.part 0).clusters
end

