-- ==== Sys2Proof/Laws/Bits.lean ====
section
/-! SUPPORT. What the bit-field, counting and reversing functions of page 0 give, bit by bit (05 R92, R96). -/

namespace Sys2Proof.Machine

theorem testBit_ones_shift (w p i : Nat) : ((2 ^ w - 1) * 2 ^ p).testBit i = (decide (p ≤ i) && decide (i < p + w)) := by
  rw [Nat.testBit_mul_two_pow, Nat.testBit_two_pow_sub_one]
  by_cases h : p ≤ i
  · simp [h]; omega
  · simp [h]

theorem getLsbD_bfMask (b : Word) (i : Nat) :
    (bfMask b).getLsbD i = (decide (i < 64) && (decide (bfPos b ≤ i) && decide (i < bfPos b + bfWid b))) := by
  unfold bfMask
  rw [BitVec.getLsbD_ofNat, testBit_ones_shift]

/-- BFX, bit by bit (R92). -/
theorem getLsbD_bfxW (a b : Word) (i : Nat) (_hi : i < 64) :
    (bfxW a b).getLsbD i = (decide (i < bfWid b) && a.getLsbD (bfPos b + i)) := by
  unfold bfxW
  rw [BitVec.getLsbD_ushiftRight, BitVec.getLsbD_and, getLsbD_bfMask]
  by_cases h : bfPos b + i < 64
  · by_cases h2 : i < bfWid b
    · simp [h, h2]
    · simp [h, h2]
  · have : a.getLsbD (bfPos b + i) = false := BitVec.getLsbD_of_ge _ _ (by omega)
    simp [this]

/-- BFI, bit by bit (R92). -/
theorem getLsbD_bfiW (a b c : Word) (i : Nat) (hi : i < 64) :
    (bfiW a b c).getLsbD i =
      if bfPos b ≤ i ∧ i < bfPos b + bfWid b then a.getLsbD (i - bfPos b) else c.getLsbD i := by
  unfold bfiW
  rw [BitVec.getLsbD_or, BitVec.getLsbD_and, BitVec.getLsbD_and, BitVec.getLsbD_not, getLsbD_bfMask,
    BitVec.getLsbD_shiftLeft]
  by_cases h1 : bfPos b ≤ i <;> by_cases h2 : i < bfPos b + bfWid b <;> simp [h1, h2, hi]

/-- Leading zeros of a number of k bits (R96). -/
theorem clzNat_spec (n : Nat) : ∀ k, clzNat n k ≤ k ∧ (∀ i, k - clzNat n k ≤ i → i < k → n.testBit i = false) ∧
    (clzNat n k < k → n.testBit (k - 1 - clzNat n k) = true)
  | 0 => ⟨by simp [clzNat], fun i _ h => by omega, fun h => by simp at h⟩
  | k + 1 => by
    have ih := clzNat_spec n k
    unfold clzNat
    split
    · next h => exact ⟨by omega, fun i h1 h2 => by omega, fun _ => by simpa using h⟩
    · next h =>
      refine ⟨by omega, fun i h1 h2 => ?_, fun h3 => ?_⟩
      · by_cases hk : i = k
        · subst hk; simpa using h
        · exact ih.2.1 i (by omega) (by omega)
      · have := ih.2.2 (by omega)
        rwa [show k + 1 - 1 - (1 + clzNat n k) = k - 1 - clzNat n k by omega]

/-- Trailing zeros from bit i on (R96). -/
theorem ctzFrom_spec (a : Word) : ∀ k i, ctzFrom a i k ≤ k ∧ (∀ j, i ≤ j → j < i + ctzFrom a i k → a.getLsbD j = false) ∧
    (ctzFrom a i k < k → a.getLsbD (i + ctzFrom a i k) = true)
  | 0, i => ⟨by simp [ctzFrom], fun j h1 h2 => by simp [ctzFrom] at h2; omega, fun h => by simp at h⟩
  | k + 1, i => by
    have ih := ctzFrom_spec a k (i + 1)
    unfold ctzFrom
    split
    · next h => exact ⟨by omega, fun j h1 h2 => by omega, fun _ => by simpa using h⟩
    · next h =>
      refine ⟨by omega, fun j h1 h2 => ?_, fun h3 => ?_⟩
      · by_cases hj : j = i
        · subst hj; simpa using h
        · exact ih.2.1 j (by omega) (by omega)
      · have := ih.2.2 (by omega)
        rwa [show i + (1 + ctzFrom a (i + 1) k) = i + 1 + ctzFrom a (i + 1) k by omega]

/-- The ones below bit k (R96). -/
theorem popBelow_eq (a : Word) : ∀ k, popBelow a k = ((List.range k).filter fun i => a.getLsbD i).length
  | 0 => rfl
  | k + 1 => by
    unfold popBelow
    rw [List.range_succ, List.filter_append, List.length_append, popBelow_eq a k, Nat.add_comm]
    congr 1
    by_cases h : a.getLsbD k = true <;> simp [h]

theorem revBelow_lt (a : Word) : ∀ k, k ≤ 64 → revBelow a k < 2 ^ 64 ∧ revBelow a k % 2 ^ (64 - k) = 0
  | 0, _ => by simp [revBelow]
  | k + 1, h => by
    have ih := revBelow_lt a k (by omega)
    unfold revBelow
    have e : (2 : Nat) ^ (64 - k) = 2 * 2 ^ (63 - k) := by
      rw [show 64 - k = (63 - k) + 1 by omega, Nat.pow_succ, Nat.mul_comm]
    have e2 : 64 - (k + 1) = 63 - k := by omega
    rw [e2]
    obtain ⟨q, hq⟩ := Nat.dvd_of_mod_eq_zero ih.2
    have hp : 0 < 2 ^ (63 - k) := Nat.two_pow_pos _
    have e64 : (2 : Nat) ^ 64 = 2 ^ (64 - k) * 2 ^ k := by rw [← Nat.pow_add]; congr 1; omega
    constructor
    · split
      · have h1 := ih.1
        rw [hq, e64] at h1
        have : q + 1 ≤ 2 ^ k := Nat.lt_of_mul_lt_mul_left h1
        have h3 : 2 ^ (64 - k) * (q + 1) ≤ 2 ^ (64 - k) * 2 ^ k := Nat.mul_le_mul_left _ this
        rw [hq, e64]
        rw [Nat.mul_add, Nat.mul_one] at h3
        omega
      · simpa using ih.1
    · rw [hq, e]
      split
      · rw [show 2 ^ (63 - k) + 2 * 2 ^ (63 - k) * q = 2 ^ (63 - k) * (1 + 2 * q) by ring]
        exact Nat.mul_mod_right _ _
      · rw [show 0 + 2 * 2 ^ (63 - k) * q = 2 ^ (63 - k) * (2 * q) by ring]
        exact Nat.mul_mod_right _ _

theorem revBelow_testBit (a : Word) : ∀ k, k ≤ 64 → ∀ i, 64 - k ≤ i → i < 64 → (revBelow a k).testBit i = a.getLsbD (63 - i)
  | 0, _, i, h1, h2 => by omega
  | k + 1, h, i, h1, h2 => by
    have ih := revBelow_testBit a k (by omega)
    have hz := (revBelow_lt a k (by omega)).2
    obtain ⟨q, hq⟩ := Nat.dvd_of_mod_eq_zero hz
    have low : ∀ j, j < 64 - k → (revBelow a k).testBit j = false := by
      intro j hj
      rw [hq, Nat.testBit_two_pow_mul]
      simp; omega
    have hd : (2 ^ (63 - k) &&& revBelow a k) = 0 := by
      apply Nat.eq_of_testBit_eq
      intro j
      rw [Nat.testBit_and, Nat.testBit_two_pow, Nat.zero_testBit]
      by_cases hj : 63 - k = j
      · rw [low j (by omega)]; simp
      · simp [hj]
    unfold revBelow
    split
    · next hb =>
      have hor : 2 ^ (63 - k) + revBelow a k = 2 ^ (63 - k) ||| revBelow a k := by
        rw [hq]
        rw [show 64 - k = (63 - k) + 1 by omega] at *
        rw [show 2 ^ (63 - k) + 2 ^ (63 - k + 1) * q = 2 ^ (63 - k + 1) * q + 2 ^ (63 - k) by omega]
        rw [Nat.two_pow_add_eq_or_of_lt (Nat.pow_lt_pow_right (by omega) (by omega)), Nat.or_comm]
      rw [hor, Nat.testBit_or, Nat.testBit_two_pow]
      by_cases hj : 63 - k = i
      · subst hj
        rw [show 63 - (63 - k) = k by omega]; simp [hb]
      · simp only [hj, decide_false, Bool.false_or]
        exact ih i (by omega) h2
    · next hb =>
      rw [Nat.zero_add]
      by_cases hj : 63 - k = i
      · subst hj
        rw [low _ (by omega), show 63 - (63 - k) = k by omega]
        simpa using hb
      · exact ih i (by omega) h2

/-- BREV, bit by bit (R96). -/
theorem getLsbD_brevW (a : Word) (i : Nat) (hi : i < 64) : (brevW a).getLsbD i = a.getLsbD (63 - i) := by
  unfold brevW
  rw [BitVec.getLsbD_ofNat, revBelow_testBit a 64 (le_refl _) i (by omega) hi]
  simp [hi]

end Sys2Proof.Machine
end

