-- ==== Sys2Proof/Laws/Scalar.lean ====
section
/-! SUPPORT. The shared operations of an instruction's issue and of the scalar effects: what each answers, said once. -/

namespace Sys2Proof.Machine

/-! ### Operands -/

theorem boundsOf_nil : boundsOf [] = .ok () := rfl

/-- Operands below ALLOC pass (R149). -/
theorem bounds_ok {t : Task} {os : List Opnd} (h : ∀ j, Opnd.slot j ∈ os → j.val < t.ctl.alloc.toNat) : t.bounds os = .ok () := by
  have : t.badScalars os = [] := by
    unfold Task.badScalars
    rw [List.filterMap_eq_nil_iff]
    intro o ho
    cases o with
    | code n => rfl
    | slot j =>
      have hj : ¬ t.alloc ≤ j.val := Nat.not_le.mpr (h j ho)
      simp [hj]
  unfold Task.bounds
  rw [this]; rfl

/-- An operand whose tag is accepted gives its value (R85, R160). -/
theorem raw_ok {t : Task} {m : Option XMod} {o : Opnd}
    (h : t.conv m = true ∨ t.tag o = .raw ∨ t.tag o = .addr ∨ t.tag o = .unwritten) : t.raw m o = .ok (t.val o) := by
  unfold Task.raw Task.tagOk
  rw [if_pos]
  simp only [Task.tag] at h
  rcases h with h | h | h | h <;> simp [h, rawTags]

/-- A register written reads back; every other register is as it was. -/
@[simp] theorem cell_putCell (t : Task) (k j : Nat) (c : RCell) : (t.putCell k c).cell j = if j = k then c else t.cell j := by
  simp [Task.putCell, Task.cell, Image.cell]

/-- A scalar result stands in d and in lt (R12). -/
@[simp] theorem cell_wrMark (t : Task) (d : Opnd) (v : Word) (g : Tag) (mk : Option Mark) (j : Nat) :
    (t.wrMark d v g mk).cell j = if j = 0 ∨ j = d.key then ⟨v, g, mk⟩ else t.cell j := by
  simp only [Task.wrMark, cell_putCell]
  split_ifs <;> simp_all

/-- Outside a region a result changes nothing but registers. -/
theorem wrMark_plain {t : Task} (h : t.region = none) (d : Opnd) (v : Word) (g : Tag) (mk : Option Mark) :
    t.wrMark d v g mk = { t with img := { t.img with
      regs := Tab.put RCell.fresh (Tab.put RCell.fresh t.img.regs d.key ⟨v, g, mk⟩) 0 ⟨v, g, mk⟩ } } := by
  simp [Task.wrMark, Task.putCell, h]

@[simp] theorem cell_retire (t : Task) (j : Nat) : t.retire.cell j = t.cell j := rfl

/-- Outside a region no register counts as marked. -/
theorem markOf_plain {t : Task} (h : t.region = none) (k : Nat) : t.markOf k = none := by simp [Task.markOf, h]

/-! ### Issue -/

/-- An effect that appends nothing to a log fits into it. -/
theorem fits_of_ctxs {m m1 : Mach} (h : m1.ctxs = m.ctxs) (c : Nat) : m.fits m1 c = true := by simp [Mach.fits, Mach.ctx, h]

/-- An effect outside a region is attempted as it is, where its appends fit into the log. -/
theorem attempt_plain {m m1 : Mach} {rule : RRule} {f : Mach → Except Stop Mach} (h : m.t.region = none) (hf : f m = .ok m1)
    (h1 : m1.t.region = none) (hs : m.fits m1 m.cur = true) : m.attempt rule f = .ok m1 := by
  simp [Mach.attempt, Task.allow, h, hf, Task.within, h1, hs, bind, Except.bind]

/-- An effect outside a region whose appends find no room waits with nothing of it done (23 R401). -/
theorem attempt_full {m m1 : Mach} {rule : RRule} {f : Mach → Except Stop Mach} (h : m.t.region = none) (hf : f m = .ok m1)
    (h1 : m1.t.region = none) (hs : m.fits m1 m.cur = false) : m.attempt rule f = .error (.wait .silt) := by
  simp [Mach.attempt, Task.allow, h, hf, Task.within, h1, hs, bind, Except.bind]

theorem attempt_error {m : Mach} {rule : RRule} {f : Mach → Except Stop Mach} {e : Stop} (h : m.t.region = none)
    (hf : f m = .error e) : m.attempt rule f = .error e := by
  simp [Mach.attempt, Task.allow, h, hf, bind, Except.bind]

/-- An effect that goes through completes its instruction. -/
theorem issue_ok {s : State} {m1 : Mach} {rule : RRule} {f : Mach → Except Stop Mach} (h : s.m.t.region = none)
    (hf : f s.m = .ok m1) (h1 : m1.t.region = none) (h2 : m1.t.isHeld = false) (hs : s.m.fits m1 s.m.cur = true) :
    issue rule f s = .next { s with m := { m1 with t := m1.t.retire } } := by
  simp [issue, attempt_plain h hf h1 hs, Mach.conclude, h2]

/-- An effect that goes through and leaves the instruction waiting. -/
theorem issue_held {s : State} {m1 : Mach} {rule : RRule} {f : Mach → Except Stop Mach} (h : s.m.t.region = none)
    (hf : f s.m = .ok m1) (h1 : m1.t.region = none) (h2 : m1.t.isHeld = true) (hs : s.m.fits m1 s.m.cur = true) :
    issue rule f s = .next { s with m := m1 } := by
  simp [issue, attempt_plain h hf h1 hs, Mach.conclude, h2]

/-- An instruction that stops has none of its effect. -/
theorem issue_error {s : State} {rule : RRule} {f : Mach → Except Stop Mach} {e : Stop} (h : s.m.t.region = none)
    (hf : f s.m = .error e) : issue rule f s = .next { s with m := s.m.conclude (.error e) } := by
  simp [issue, attempt_error h hf]

theorem ready_not_held {t : Task} (h : t.phase = .ready) : t.isHeld = false := by simp [Task.isHeld, h]

/-- A task effect that goes through. -/
theorem issueT_ok {s : State} {t1 : Task} {rule : RRule} {f : Task → Except Stop Task} (h : s.plain) (hf : f s.m.t = .ok t1)
    (h1 : t1.region = none) (h2 : t1.phase = .ready) : issueT rule f s = .next (s.done t1) := by
  have : onTask f s.m = .ok { s.m with t := t1 } := by simp [onTask, hf]
  exact issue_ok h.1 this h1 (ready_not_held h2) (fits_of_ctxs rfl _)

/-- A task effect that stops. -/
theorem issueT_error {s : State} {rule : RRule} {f : Task → Except Stop Task} {e : Stop} (h : s.plain)
    (hf : f s.m.t = .error e) : issueT rule f s = .next { s with m := s.m.conclude (.error e) } := by
  have : onTask f s.m = .error e := by simp [onTask, hf]
  exact issue_error h.1 this

/-- A scalar result: d and lt written, and nothing else. -/
theorem gives_of {i : Instr} {s : State} {rule : RRule} {f : Task → Except Stop Task} {d : Opnd} {v : Word} {g : Tag}
    (he : exec i s = issueT rule f s) (h : s.plain) (hf : f s.m.t = .ok (s.m.t.wr d v g)) : Gives i s d v g := by
  have hr : (s.m.t.wr d v g).region = none := by rw [Task.wr, wrMark_plain h.1]; exact h.1
  have hp : (s.m.t.wr d v g).phase = .ready := h.2
  refine ⟨_, he.trans (issueT_ok h hf hr hp), ?_, ?_, ?_⟩
  · simp [State.done, Task.wr]
  · simp [State.done, Task.wr]
  · refine ⟨_, by rw [Task.wr, wrMark_plain h.1], ?_⟩
    intro k hk
    simp only [List.mem_cons, List.not_mem_nil, or_false, not_or] at hk
    simp [hk.1, hk.2, Task.cell, Image.cell]

/-! ### Scalar effects -/

theorem binT_ok {t : Task} {m : Option XMod} {d a b : Opnd} {f : Word → Word → Word} {g : Tag}
    (hb : t.bounds [d, a, b] = .ok ()) (ha : t.raw m a = .ok (t.val a)) (hc : t.raw m b = .ok (t.val b)) :
    binT m d a b f g t = .ok (t.wr d (f (t.val a) (t.val b)) g) := by
  simp [binT, hb, ha, hc, bind, Except.bind]

theorem divT_ok {t : Task} {m : Option XMod} {d a b : Opnd} {f : Word → Word → Word}
    (hb : t.bounds [d, a, b] = .ok ()) (ha : t.raw m a = .ok (t.val a)) (hc : t.raw m b = .ok (t.val b)) :
    divT m d a b f t = if t.val b = 0 then .error (.trap divZero t.pc 0) else .ok (t.wr d (f (t.val a) (t.val b)) .raw) := by
  simp [divT, hb, ha, hc, bind, Except.bind]

theorem unT_ok {t : Task} {m : Option XMod} {d a : Opnd} {f : Word → Word}
    (hb : t.bounds [d, a] = .ok ()) (ha : t.raw m a = .ok (t.val a)) :
    unT m d a f t = .ok (t.wr d (f (t.val a)) .raw) := by
  simp [unT, hb, ha, bind, Except.bind]

theorem putT_ok {t : Task} {d : Opnd} {v : Word} {g : Tag} (hb : t.bounds [d] = .ok ()) : putT d v g t = .ok (t.wr d v g) := by
  simp [putT, hb, bind, Except.bind]

/-- A sum or a difference outside a region (R86, R89). -/
theorem sumT_ok {t : Task} {m : Option XMod} {d a b : Opnd} {f : Word → Word → Word}
    {mk : Option Mark → Option Mark → Option (Option Mark)} (hr : t.region = none) (hk : mk none none = some none)
    (hb : t.bounds [d, a, b] = .ok ()) (ha : t.raw m a = .ok (t.val a)) (hc : t.raw m b = .ok (t.val b)) :
    sumT m d a b f mk t = .ok (t.wr d (f (t.val a) (t.val b)) (sumTag (t.tag a) (t.tag b))) := by
  simp [sumT, hb, ha, hc, markOf_plain hr, hk, Task.wr, bind, Except.bind]

end Sys2Proof.Machine
end

