-- ==== Sys2Proof/Laws/Memory.lean ====
section
/-! SUPPORT. The byte store: what a write leaves under every key, the canonical form that every memory operation keeps, and
a write where nothing reacts to it (15 R274, 16 R299). -/

namespace Sys2Proof.Machine

/-! ### Bytes -/

/-- A byte after consecutive bytes are written. -/
theorem look_pokeMem : ∀ (bs : List Byte) (mem : List Host.Cell) (k j : Nat),
    Tab.look emptyByte (pokeMem mem k bs) j = if k ≤ j ∧ j < k + bs.length then bs.getD (j - k) 0 else Tab.look emptyByte mem j
  | [], mem, k, j => by simp [pokeMem]
  | b :: r, mem, k, j => by
    simp only [pokeMem, List.length_cons]
    rw [look_pokeMem r, Tab.look_put]
    by_cases h1 : j = k
    · subst h1
      rw [if_neg (by omega), if_pos rfl, if_pos (by omega), Nat.sub_self]; rfl
    · by_cases h2 : k + 1 ≤ j ∧ j < k + 1 + r.length
      · rw [if_pos h2, if_pos (by omega), show j - k = (j - (k + 1)) + 1 by omega]; rfl
      · rw [if_neg h2, if_neg h1, if_neg (by omega)]

theorem pokeCells_cellsFrom : ∀ (bs : List Byte) (mem : List Host.Cell) (k : Nat), pokeCells mem (cellsFrom k bs) = pokeMem mem k bs
  | [], _, _ => rfl
  | _ :: r, _, k => pokeCells_cellsFrom r _ (k + 1)

/-- A key that no cell names reads as before. -/
theorem look_pokeCells_ne : ∀ (cs : List (Nat × Byte)) (mem : List Host.Cell) (j : Nat), (∀ p ∈ cs, p.1 ≠ j) →
    Tab.look emptyByte (pokeCells mem cs) j = Tab.look emptyByte mem j
  | [], _, _, _ => rfl
  | (k, b) :: r, mem, j, h => by
    simp only [pokeCells]
    rw [look_pokeCells_ne r _ j (fun p hp => h p (List.mem_cons_of_mem _ hp)), Tab.look_put,
      if_neg (fun e => h (k, b) (List.mem_cons_self ..) e.symm)]

@[simp] theorem leBytes_length : ∀ (n v : Nat), (leBytes v n).length = n
  | 0, _ => rfl
  | n + 1, v => by simp [leBytes, leBytes_length n]

theorem leBytes_getD : ∀ (n v i : Nat), i < n → (leBytes v n).getD i 0 = BitVec.ofNat 8 (v / 256 ^ i)
  | 0, _, _, h => by omega
  | n + 1, v, 0, _ => by simp [leBytes]
  | n + 1, v, i + 1, h => by
    simp only [leBytes, List.getD_cons_succ]
    rw [leBytes_getD n _ i (by omega), Nat.div_div_eq_div_mul, Nat.pow_succ, Nat.mul_comm 256]

theorem leNat_map (f : Nat → Byte) : ∀ n, leNat ((List.range n).map f) = ((List.range n).map fun i => (f i).toNat * 256 ^ i).sum := by
  have gen : ∀ (n a : Nat), 256 ^ a * leNat ((List.range' a n).map f) = ((List.range' a n).map fun i => (f i).toNat * 256 ^ i).sum := by
    intro n
    induction n with
    | zero => intro a; simp [leNat]
    | succ n ih =>
      intro a
      simp only [List.range'_succ, List.map_cons, leNat, List.sum_cons]
      rw [← ih (a + 1), Nat.pow_succ]
      ring
  intro n
  have := gen n 0
  simpa [List.range_eq_range'] using this

/-- The bytes at a key as a number. -/
theorem leNat_peek (m : Mach) (k n : Nat) : leNat (m.peek k n) = m.number k n := leNat_map _ n

/-- A store of a word's low n bytes. -/
theorem storedAt_pokeMem (m m1 : Mach) (k n : Nat) (v : Word) (h : m1.mem = pokeMem m.mem k (leBytes v.toNat n)) :
    m.storedAt m1 k n (byteOf v) := by
  refine ⟨fun i hi => ?_, fun j hj => ?_⟩
  · simp only [Mach.byte, h]
    rw [look_pokeMem, if_pos (by simp; omega), show k + i - k = i by omega, leBytes_getD _ _ _ hi]
    rfl
  · simp only [Mach.byte, h]
    rw [look_pokeMem, if_neg (by simp; omega)]

/-! ### The canonical form -/

/-- Consecutive bytes written keep the canonical form. -/
theorem memWf_pokeMem : ∀ (bs : List Byte) (mem : List Host.Cell) (k : Nat), memWf mem → memWf (pokeMem mem k bs)
  | [], _, _, h => h
  | _ :: r, mem, k, h => memWf_pokeMem r _ (k + 1) (Tab.wf_put _ mem k _ h)

/-- Single bytes written keep the canonical form. -/
theorem memWf_pokeCells : ∀ (cs : List (Nat × Byte)) (mem : List Host.Cell), memWf mem → memWf (pokeCells mem cs)
  | [], _, h => h
  | (k, _) :: r, mem, h => memWf_pokeCells r _ (Tab.wf_put _ mem k _ h)

/-- Bytes erased keep the canonical form. -/
theorem memWf_filter (p : Nat × Byte → Bool) (mem : List Host.Cell) (h : memWf mem) : memWf (mem.filter p) :=
  Tab.wfFrom_filter _ p mem 0 h

/-- Memory at power-on has it. -/
theorem memWf_reset : memWf State.reset.m.mem := rfl

/-! ### A write where nothing reacts -/

/-- Nothing waits to be performed. -/
theorem drain_none {m : Mach} (h : m.weak = []) (p : WStore → Bool) : m.drain p = m := by
  unfold Mach.drain
  rw [h]
  show ({ m with weak := [] } : Mach) = m
  rw [← h]

theorem releaseAt_none {m : Mach} (h : m.weak = []) (sc : Option Scope) : m.releaseAt sc = .ok m := by
  cases sc with
  | none => rfl
  | some s => simp [Mach.releaseAt, h]

/-- Accesses find entries in the trackers where their cluster's has room and nothing is on its way to a stack (15 R292, 00 R7). -/
theorem needEntries_ok {m : Mach} (h : m.weak = []) (ls : List Loc) (hl : ls.length ≤ 8)
    (ht : m.tracked (clusterOf m.t.core) + 8 ≤ 750) : m.needEntries ls = .ok () := by
  have hf : (ls.filter parks).length ≤ 8 := Nat.le_trans (List.length_filter_le _ _) hl
  unfold Mach.needEntries
  rw [if_pos]
  rw [Bool.or_eq_true]
  right
  simp only [Mach.entriesFree, Mach.bursts, h, List.filter_nil, List.length_nil, Nat.zero_add, Bool.and_eq_true,
    List.all_eq_true, Bool.or_eq_true, decide_eq_true_eq]
  exact ⟨by omega, fun _ _ => .inr (by omega)⟩

/-- An append of records that the log has room for fits into it (23 R401). -/
theorem fits_append {m m1 : Mach} {c : Nat} {rs : List SRec} (hc : (m1.ctx c).silt = (m.ctx c).silt.append rs)
    (h : (m.ctx c).silt.room ((rs.map SRec.bytes).sum) = true) : m.fits m1 c = true := by
  have hb : ∀ (r : SRec) (q w : Nat), SRec.bytes { r with seq := q, window := w } = r.bytes := fun _ _ _ => rfl
  have hu : ((m.ctx c).silt.append rs).used = (m.ctx c).silt.used + (rs.map SRec.bytes).sum := by
    simp only [Silt.append, Silt.used, List.map_append, List.sum_append, List.map_map]
    congr 2
  unfold Mach.fits
  rw [hc, Bool.or_eq_true]
  right
  simp only [Silt.room, decide_eq_true_eq] at h ⊢
  rw [hu]
  exact h

/-- A task without a watchpoint, or the writer's own outside a region, is not struck. -/
theorem struckBy_off {w : Task} (h : w.watchEn = false) (l : Loc) (offs : List Nat) (g : Gid) (e : Bool) :
    w.struckBy l offs g e = false := by simp [Task.struckBy, h]

theorem strikes_none {m : Mach} (h : ∀ t ∈ m.tasks, t.watchEn = false) (c : Nat) (l : Loc) (n : Nat) (offs : List Nat) (g : Gid)
    (party : Nat) (old : Word) (seq : Nat) (hs : m.hasStruck c party g = false) : m.strikes c l n offs g party old seq = m := by
  have : (m.tasks.filter fun w => ctxOf w.gid == c && w.struckBy l offs g (decide (party / 4096 ≠ 1))) = [] := by
    rw [List.filter_eq_nil_iff]
    intro t ht
    simp [struckBy_off (h t ht)]
  unfold Mach.strikes
  simp only [hs, this, List.foldl_nil, List.isEmpty_nil, Bool.true_or, if_true, Bool.false_eq_true, if_false]

/-- With no waiting task no wake note is dropped. -/
theorem dropNotes_none {m1 m : Mach} (h : ∀ t ∈ m1.tasks, t.inWait = false) : m1.dropNotes m = m1 := by
  have hm : ∀ t : Task, t.inWait = false → m.noteMoved m1 t = false := by
    intro t ht
    unfold Task.inWait at ht
    unfold Mach.noteMoved
    split <;> simp_all
  have hid : ∀ l : List Task, (∀ t ∈ l, t.inWait = false) →
      l.map (fun t => if m.noteMoved m1 t then t.noteDropped m1.cycle m1.order else t) = l := by
    intro l hl
    conv_rhs => rw [← List.map_id l]
    exact List.map_congr_left fun t ht => by simp [hm t (hl t ht)]
  unfold Mach.dropNotes Mach.mapTasks
  simp only [hid m1.others (fun t ht => h t (List.mem_cons_of_mem _ ht)), hm m1.t (h m1.t (List.mem_cons_self ..)),
    Bool.false_eq_true, if_false]

/-- A record or a mark leaves the strikers of a halt as they are. -/
theorem hasStruck_setSilt (m : Mach) (c d : Nat) (f : Silt → Silt) (p : Nat) (g : Gid) :
    (m.setCtx d fun x => { x with silt := f x.silt }).hasStruck c p g = m.hasStruck c p g := by
  unfold Mach.hasStruck Mach.ctx Mach.setCtx Tab.upd
  simp only [Tab.look_put]
  split
  · next h => subst h; rfl
  · rfl

/-- The record a write makes leaves the strikers of a halt as they are. -/
theorem hasStruck_siltWrite (m : Mach) (d space k n party : Nat) (g0 : Gid) (c p : Nat) (g : Gid) :
    (m.siltWrite d space k n party g0).hasStruck c p g = m.hasStruck c p g := by
  unfold Mach.siltWrite
  simp only
  split
  · rfl
  · exact hasStruck_setSilt m c d (·.append (m.siltRec (m.ctx d).silt space k n party g0)) p g

theorem waitSeq_none {t : Task} (h : t.inWait = false) (core : Nat) : t.waitSeq core = none := by
  unfold Task.waitSeq
  unfold Task.inWait at h
  cases hp : t.phase <;> rw [hp] at h <;> simp_all

/-- With no waiting task nothing is served. -/
theorem settleAll_none {m : Mach} (h : ∀ t ∈ m.tasks, t.inWait = false) (core : Nat) : m.settleAll core = m := by
  have nil : ∀ f : Task → Option (Nat × Task), (∀ t ∈ m.tasks, f t = none) → m.tasks.filterMap f = [] :=
    fun f hf => List.filterMap_eq_nil_iff.mpr hf
  have hn : m.nextServed core = none := by
    unfold Mach.nextServed
    rw [nil _ (fun t ht => by simp only [waitSeq_none (h t ht)])]
    rfl
  simp [Mach.settleAll, Mach.settle, hn]

theorem settleAll_list_none {m : Mach} (h : ∀ t ∈ m.tasks, t.inWait = false) : ∀ l : List Nat, l.foldl Mach.settleAll m = m
  | [] => rfl
  | c :: r => by simp only [List.foldl_cons, settleAll_none h]; exact settleAll_list_none h r

/-- The record a write makes touches the contexts alone. -/
theorem siltWrite_shape (m : Mach) (c space k n party : Nat) (g : Gid) :
    m.siltWrite c space k n party g = { m with ctxs := (m.siltWrite c space k n party g).ctxs } := by
  cases h : m.siltRec (m.ctx c).silt space k n party g <;> simp only [Mach.siltWrite, h]
  rfl

theorem noteCode_shape (m : Mach) (c : Nat) (l : Loc) (cells : List (Nat × Byte)) :
    m.noteCode c l cells = { m with codeOld := (m.noteCode c l cells).codeOld } := by
  unfold Mach.noteCode
  split <;> rfl

/-- A write at rest (16 R299, 17 R320): its record or its mark, and its bytes. -/
theorem writeCells_rest {m : Mach} {l : Loc} (g : Gid) (party n : Nat) (cells : List (Nat × Byte)) (hl : l.inside)
    (hw : ∀ t ∈ m.tasks, t.watchEn = false ∧ t.inWait = false) (hs : m.hasStruck (ctxOf g) party g = false) :
    ∃ code, m.writeCells g party l n cells = { m with
      order := m.order + 1
      ctxs := if l.irrev then (m.setCtx (ctxOf g) fun x => { x with silt := x.silt.mark .external l.key party g }).ctxs
        else (m.siltWrite (ctxOf g) l.space l.key n party g).ctxs
      codeOld := code
      mem := pokeCells m.mem cells } := by
  have sil : ∀ c space k n party g, (m.tick.siltWrite c space k n party g) =
      { m.tick with ctxs := (m.siltWrite c space k n party g).ctxs } := by
    intro c space k n party g
    have e : m.tick.siltRec (m.tick.ctx c).silt space k n party g = m.siltRec (m.ctx c).silt space k n party g := rfl
    cases h : m.siltRec (m.ctx c).silt space k n party g <;> simp only [Mach.siltWrite, e, h] <;> rfl
  have body : ∀ (m1 : Mach), m1.t = m.t → m1.others = m.others → m1.mem = m.mem →
      m1.hasStruck (ctxOf g) party g = false → ∃ code,
      (let old := BitVec.ofNat 64 (m.tick.word l.key)
       let seq := (m.tick.ctx (ctxOf g)).silt.nextSeq
       let m2 := m1.noteCode (ctxOf g) l cells
       let m3 := { m2 with mem := pokeCells m2.mem cells }
       let m4 := m3.strikes (ctxOf g) l n (cells.map fun p => p.1 - l.key) g party old seq
       match l.frontOwner with
        | some core => (m4.dropNotes m).settleAll core
        | none => m4) = { m1 with codeOld := code, mem := pokeCells m.mem cells } := by
    intro m1 h1 h2 h3 h4
    refine ⟨(m1.noteCode (ctxOf g) l cells).codeOld, ?_⟩
    have e : ∀ m3 : Mach, m3.t = m.t → m3.others = m.others → (∀ t ∈ m3.tasks, t.watchEn = false ∧ t.inWait = false) := by
      intro m3 ha hb t ht
      apply hw
      simpa [Mach.tasks, ha, hb] using ht
    have key : ∀ m3 : Mach, m3.t = m.t → m3.others = m.others → m3.hasStruck (ctxOf g) party g = false → ∀ old seq,
        (match l.frontOwner with
          | some core => ((m3.strikes (ctxOf g) l n (cells.map fun p => p.1 - l.key) g party old seq).dropNotes m).settleAll core
          | none => m3.strikes (ctxOf g) l n (cells.map fun p => p.1 - l.key) g party old seq) = m3 := by
      intro m3 ha hb hc old seq
      rw [strikes_none (fun t ht => (e m3 ha hb t ht).1) (hs := hc)]
      cases l.frontOwner with
      | none => rfl
      | some core =>
        simp only
        rw [dropNotes_none (fun t ht => (e m3 ha hb t ht).2)]
        exact settleAll_none (fun t ht => (e m3 ha hb t ht).2) core
    rw [noteCode_shape m1]
    simp only
    rw [h3]
    exact key { m1 with codeOld := (m1.noteCode (ctxOf g) l cells).codeOld, mem := pokeCells m.mem cells } h1 h2
      (by unfold Mach.hasStruck at h4 ⊢; exact h4) (BitVec.ofNat 64 (m.tick.word l.key)) (m.tick.ctx (ctxOf g)).silt.nextSeq
  have hbody : ∃ code, m.writeCells g party l n cells = { (if l.irrev then m.tick.setCtx (ctxOf g) fun x =>
      { x with silt := x.silt.mark .external l.key party g } else m.tick.siltWrite (ctxOf g) l.space l.key n party g) with
      codeOld := code, mem := pokeCells m.mem cells } := by
    obtain ⟨code, hc⟩ := body (if l.irrev then m.tick.setCtx (ctxOf g) fun x => { x with silt := x.silt.mark .external l.key party g }
      else m.tick.siltWrite (ctxOf g) l.space l.key n party g)
      (by split
          · rfl
          · rw [sil]; rfl)
      (by split
          · rfl
          · rw [sil]; rfl)
      (by split
          · rfl
          · rw [sil]; rfl)
      (by split
          · rw [hasStruck_setSilt m.tick (ctxOf g) (ctxOf g) (·.mark .external l.key party g)]; exact hs
          · rw [hasStruck_siltWrite]; exact hs)
    refine ⟨code, ?_⟩
    rw [← hc]
    unfold Mach.writeCells
    rcases hl with hl | ⟨c, hl⟩ <;> simp only [hl] <;> cases l.frontOwner <;> rfl
  obtain ⟨code, hc⟩ := hbody
  refine ⟨code, ?_⟩
  rw [hc]
  by_cases hi : l.irrev = true
  · simp only [if_pos hi]; rfl
  · simp only [if_neg hi, sil]; rfl

/-! ### What of a weak store is performed -/

/-- A store of the same thread to the same home as another. -/
def WStore.partOf (v w : WStore) : Prop :=
  ∃ k va n bs, v = { w with loc := { w.loc with key := k, va := va }, n := n, bytes := bs }

theorem WStore.partOf_refl (w : WStore) : w.partOf w := ⟨w.loc.key, w.loc.va, w.n, w.bytes, rfl⟩

theorem WStore.cut_or (w : WStore) (lo hi : Nat) : w.cut lo hi = [] ∨ ∃ v, w.cut lo hi = [v] ∧ v.partOf w := by
  unfold WStore.cut
  dsimp only
  split
  · exact .inl rfl
  · exact .inr ⟨_, rfl, _, _, _, _, rfl⟩

theorem WStore.split_one (w : WStore) (lg i : Nat) : ∃ v, (w.split lg i).1 = [v] ∧ v.partOf w := by
  unfold WStore.split
  dsimp only
  split
  · exact ⟨w, rfl, w.partOf_refl⟩
  · next p h =>
    rcases w.cut_or ((w.loc.key / 2 ^ lg + i % ((w.loc.key + w.n - 1) / 2 ^ lg - w.loc.key / 2 ^ lg + 1)) * 2 ^ lg)
      ((w.loc.key / 2 ^ lg + i % ((w.loc.key + w.n - 1) / 2 ^ lg - w.loc.key / 2 ^ lg + 1) + 1) * 2 ^ lg) with h1 | h1
    · exact absurd h1 h
    · exact h1

/-- Whatever the free choices, one store is performed: the waiting one or a part of it. -/
theorem WStore.choose_one (w : WStore) (f : Nat) : ∃ v, (w.choose f).1 = [v] ∧ v.partOf w := by
  unfold WStore.choose
  split
  · exact ⟨w, rfl, w.partOf_refl⟩
  · exact ⟨w, rfl, w.partOf_refl⟩
  · cases Config.splitStore f with
    | none => exact ⟨w, rfl, w.partOf_refl⟩
    | some p => exact w.split_one p.1 p.2

end Sys2Proof.Machine
end

