-- ==== Sys2Proof/Laws/PerInstr.lean ====
section
/-! SUPPORT. Said of every instruction: the fixed bits of its encoding find its own row of the tables, and that row makes the
instruction back from the fields it was encoded with. So no two rows share their fixed bits, and no row loses an operand. -/

/-- The fixed bits of a row: those of its word, and VOTE's source, on which its other field depends. -/
def Sys2Proof.Laws.FindsRow.fixed (s : Sys2Proof.Spec) (f : Sys2Proof.Fields) : Nat :=
  if s.page = 3 ∧ s.base = 0xD002 then s.base + 64 * f.a.fieldNat else s.base

/-- The fixed bits find the row, and the row's fields make the instruction (03 R43, R46, R53). -/
def Sys2Proof.Laws.FindsRow.Statement (i : Sys2Proof.Instr) : Prop :=
  match i.enc with
  | none => True
  | some (s, f) => (Sys2Proof.lookup s.page (fixed s f) s.imm.isSome (f.v % 16)).map (fun r => (r.spec, r.make f)) = some (s, i)

namespace Sys2Proof

set_option Elab.async false

/-- From an instruction's encoding and the row its fixed bits find. -/
theorem Laws.FindsRow.of {i : Instr} {s : Spec} {f : Fields} {r : Row} (he : i.enc = some (s, f))
    (hl : lookup s.page (fixed s f) s.imm.isSome (f.v % 16) = some r) (hs : r.spec = s) (hm : r.make f = i) : Statement i := by
  unfold Statement
  rw [he]
  simp [hl, hs, hm]

/-- The same of pages 1 to 11, but for VOTE: major 0xC or 0xD, minor k, and the bits b of TCALL's form. -/
theorem Laws.FindsRow.ofPage {i : Instr} {s : Spec} {f : Fields} {r : Row} (M k b : Nat) (he : i.enc = some (s, f))
    (hb : (decide (s.base = 4096 * M + 8 * b + k) && decide (M = 12 ∨ M = 13) && decide (k < 8) && decide (b < 8) &&
      !(decide (s.page = 3) && decide (M = 13) && decide (k = 2))) = true)
    (hl : lookupPage s.page M k (f.v % 16) 0 b = some r) (hs : r.spec = s) (hm : r.make f = i) : Statement i := by
  simp only [Bool.and_eq_true, decide_eq_true_eq, Bool.not_eq_true', Bool.and_eq_false_iff, decide_eq_false_iff_not] at hb
  obtain ⟨⟨⟨⟨h0, h1⟩, h2⟩, h3⟩, h4⟩ := hb
  refine of he ?_ hs hm
  have h5 : fixed s f = 4096 * M + 8 * b + k := by
    unfold fixed
    rw [if_neg (by omega)]
    exact h0
  have h6 : (4096 * M + 8 * b + k) / 4096 = M := by omega
  have h7 : (4096 * M + 8 * b + k) % 8 = k := by omega
  have h8 : (4096 * M + 8 * b + k) / 64 % 8 = 0 := by omega
  have h9 : (4096 * M + 8 * b + k) / 8 % 8 = b := by omega
  have h10 : 12 ≤ M ∧ M ≤ 13 := by omega
  simp only [h5, lookup, h6, h7, h8, h9]
  rw [if_pos h10]
  exact hl

theorem Laws.FindsRow.add (m : Option XMod) (d : Opnd) (a : Opnd) (b : Opnd) : Statement (.add m d a b) := of rfl (by simp [fixed, sR3, lookup, w3, rows1]; rfl) rfl rfl
theorem Laws.FindsRow.sub (m : Option XMod) (d : Opnd) (a : Opnd) (b : Opnd) : Statement (.sub m d a b) := of rfl (by simp [fixed, sR3, lookup, w3, rows1]; rfl) rfl rfl
theorem Laws.FindsRow.and (m : Option XMod) (d : Opnd) (a : Opnd) (b : Opnd) : Statement (.and m d a b) := of rfl (by simp [fixed, sR3, lookup, w3, rows1]; rfl) rfl rfl
theorem Laws.FindsRow.or (m : Option XMod) (d : Opnd) (a : Opnd) (b : Opnd) : Statement (.or m d a b) := of rfl (by simp [fixed, sR3, lookup, w3, rows1]; rfl) rfl rfl
theorem Laws.FindsRow.xor (m : Option XMod) (d : Opnd) (a : Opnd) (b : Opnd) : Statement (.xor m d a b) := of rfl (by simp [fixed, sR3, lookup, w3, rows1]; rfl) rfl rfl
theorem Laws.FindsRow.shl (m : Option XMod) (d : Opnd) (a : Opnd) (b : Opnd) : Statement (.shl m d a b) := of rfl (by simp [fixed, sR3, lookup, w3, rows1]; rfl) rfl rfl
theorem Laws.FindsRow.shr (m : Option XMod) (d : Opnd) (a : Opnd) (b : Opnd) : Statement (.shr m d a b) := of rfl (by simp [fixed, sR3, lookup, w3, rows1]; rfl) rfl rfl
theorem Laws.FindsRow.sar (m : Option XMod) (d : Opnd) (a : Opnd) (b : Opnd) : Statement (.sar m d a b) := of rfl (by simp [fixed, sR3, lookup, w3, rows1]; rfl) rfl rfl
theorem Laws.FindsRow.mul (m : Option XMod) (d : Opnd) (a : Opnd) (b : Opnd) : Statement (.mul m d a b) := of rfl (by simp [fixed, sR3, lookup, w3, rows2]; rfl) rfl rfl
theorem Laws.FindsRow.mulh (m : Option XMod) (d : Opnd) (a : Opnd) (b : Opnd) : Statement (.mulh m d a b) := of rfl (by simp [fixed, sR3, lookup, w3, rows2]; rfl) rfl rfl
theorem Laws.FindsRow.mulhn (m : Option XMod) (d : Opnd) (a : Opnd) (b : Opnd) : Statement (.mulhn m d a b) := of rfl (by simp [fixed, sR3, lookup, w3, rows2]; rfl) rfl rfl
theorem Laws.FindsRow.min (m : Option XMod) (d : Opnd) (a : Opnd) (b : Opnd) : Statement (.min m d a b) := of rfl (by simp [fixed, sR3, lookup, w3, rows2]; rfl) rfl rfl
theorem Laws.FindsRow.max (m : Option XMod) (d : Opnd) (a : Opnd) (b : Opnd) : Statement (.max m d a b) := of rfl (by simp [fixed, sR3, lookup, w3, rows2]; rfl) rfl rfl
theorem Laws.FindsRow.minn (m : Option XMod) (d : Opnd) (a : Opnd) (b : Opnd) : Statement (.minn m d a b) := of rfl (by simp [fixed, sR3, lookup, w3, rows2]; rfl) rfl rfl
theorem Laws.FindsRow.maxn (m : Option XMod) (d : Opnd) (a : Opnd) (b : Opnd) : Statement (.maxn m d a b) := of rfl (by simp [fixed, sR3, lookup, w3, rows2]; rfl) rfl rfl
theorem Laws.FindsRow.andn (m : Option XMod) (d : Opnd) (a : Opnd) (b : Opnd) : Statement (.andn m d a b) := of rfl (by simp [fixed, sR3, lookup, w3, rows2]; rfl) rfl rfl
theorem Laws.FindsRow.div (m : Option XMod) (d : Opnd) (a : Opnd) (b : Opnd) : Statement (.div m d a b) := of rfl (by simp [fixed, sR3, lookup, w3, rows3]; rfl) rfl rfl
theorem Laws.FindsRow.divn (m : Option XMod) (d : Opnd) (a : Opnd) (b : Opnd) : Statement (.divn m d a b) := of rfl (by simp [fixed, sR3, lookup, w3, rows3]; rfl) rfl rfl
theorem Laws.FindsRow.rem (m : Option XMod) (d : Opnd) (a : Opnd) (b : Opnd) : Statement (.rem m d a b) := of rfl (by simp [fixed, sR3, lookup, w3, rows3]; rfl) rfl rfl
theorem Laws.FindsRow.remn (m : Option XMod) (d : Opnd) (a : Opnd) (b : Opnd) : Statement (.remn m d a b) := of rfl (by simp [fixed, sR3, lookup, w3, rows3]; rfl) rfl rfl
theorem Laws.FindsRow.lea (m : Option XMod) (sc : Scale) (d : Opnd) (a : Opnd) (b : Opnd) : Statement (.lea m sc d a b) := by
  cases sc <;> exact of rfl (by simp [fixed, sR3, lookup, w3, rows3]; rfl) rfl rfl
theorem Laws.FindsRow.bfx (m : Option XMod) (d : Opnd) (a : Opnd) (b : Opnd) : Statement (.bfx m d a b) := of rfl (by simp [fixed, sR3, lookup, w3, rows3]; rfl) rfl rfl
theorem Laws.FindsRow.bfi (m : Option XMod) (d : Opnd) (a : Opnd) (b : Opnd) (c : Opnd) : Statement (.bfi m d a b c) := of rfl (by simp [fixed, sR3, lookup, w3, rows3]; rfl) rfl rfl
theorem Laws.FindsRow.sel (m : Option XMod) (d : Opnd) (a : Opnd) (b : Opnd) (c : Opnd) : Statement (.sel m d a b c) := of rfl (by simp [fixed, sR3, lookup, w3, rows3]; rfl) rfl rfl
theorem Laws.FindsRow.addi (m : Option XMod) (d : Opnd) (a : Opnd) (imm : Int) : Statement (.addi m d a imm) := of rfl (by simp [fixed, sAddi, lookup]; rfl) rfl rfl
theorem Laws.FindsRow.movi (d : Opnd) (imm : Int) : Statement (.movi d imm) := of rfl (by simp [fixed, sMovi, lookup]; rfl) rfl rfl
theorem Laws.FindsRow.mov (m : Option XMod) (d : Opnd) (a : Opnd) : Statement (.mov m d a) := of rfl (by simp [fixed, sTwo, lookup, lookup6, rows6a]; rfl) rfl rfl
theorem Laws.FindsRow.not (m : Option XMod) (d : Opnd) (a : Opnd) : Statement (.not m d a) := of rfl (by simp [fixed, sTwo, lookup, lookup6, rows6a]; rfl) rfl rfl
theorem Laws.FindsRow.neg (m : Option XMod) (d : Opnd) (a : Opnd) : Statement (.neg m d a) := of rfl (by simp [fixed, sTwo, lookup, lookup6, rows6a]; rfl) rfl rfl
theorem Laws.FindsRow.abs (m : Option XMod) (d : Opnd) (a : Opnd) : Statement (.abs m d a) := of rfl (by simp [fixed, sTwo, lookup, lookup6, rows6a]; rfl) rfl rfl
theorem Laws.FindsRow.clz (m : Option XMod) (d : Opnd) (a : Opnd) : Statement (.clz m d a) := of rfl (by simp [fixed, sTwo, lookup, lookup6, rows6a]; rfl) rfl rfl
theorem Laws.FindsRow.ctz (m : Option XMod) (d : Opnd) (a : Opnd) : Statement (.ctz m d a) := of rfl (by simp [fixed, sTwo, lookup, lookup6, rows6a]; rfl) rfl rfl
theorem Laws.FindsRow.popc (m : Option XMod) (d : Opnd) (a : Opnd) : Statement (.popc m d a) := of rfl (by simp [fixed, sTwo, lookup, lookup6, rows6a]; rfl) rfl rfl
theorem Laws.FindsRow.brev (m : Option XMod) (d : Opnd) (a : Opnd) : Statement (.brev m d a) := of rfl (by simp [fixed, sTwo, lookup, lookup6, rows6a]; rfl) rfl rfl
theorem Laws.FindsRow.sextB (m : Option XMod) (d : Opnd) (a : Opnd) : Statement (.sextB m d a) := of rfl (by simp [fixed, sTwo, lookup, lookup6]; rfl) rfl rfl
theorem Laws.FindsRow.sextH (m : Option XMod) (d : Opnd) (a : Opnd) : Statement (.sextH m d a) := of rfl (by simp [fixed, sTwo, lookup, lookup6]; rfl) rfl rfl
theorem Laws.FindsRow.sextW (m : Option XMod) (d : Opnd) (a : Opnd) : Statement (.sextW m d a) := of rfl (by simp [fixed, sTwo, lookup, lookup6]; rfl) rfl rfl
theorem Laws.FindsRow.zextB (m : Option XMod) (d : Opnd) (a : Opnd) : Statement (.zextB m d a) := of rfl (by simp [fixed, sTwo, lookup, lookup6]; rfl) rfl rfl
theorem Laws.FindsRow.zextH (m : Option XMod) (d : Opnd) (a : Opnd) : Statement (.zextH m d a) := of rfl (by simp [fixed, sTwo, lookup, lookup6]; rfl) rfl rfl
theorem Laws.FindsRow.zextW (m : Option XMod) (d : Opnd) (a : Opnd) : Statement (.zextW m d a) := of rfl (by simp [fixed, sTwo, lookup, lookup6]; rfl) rfl rfl
theorem Laws.FindsRow.wid (d : Opnd) (n : Fin 6) : Statement (.wid d n) := by
  fin_cases n <;> exact of rfl (by simp [fixed, sWid, lookup, lookup6]; rfl) rfl rfl
theorem Laws.FindsRow.shli (m : Option XMod) (d : Opnd) (a : Opnd) (k : Nat) : Statement (.shli m d a k) := of rfl (by simp [fixed, sTwo, lookup, lookup6]; rfl) rfl rfl
theorem Laws.FindsRow.shri (m : Option XMod) (d : Opnd) (a : Opnd) (k : Nat) : Statement (.shri m d a k) := of rfl (by simp [fixed, sTwo, lookup, lookup6]; rfl) rfl rfl
theorem Laws.FindsRow.sari (m : Option XMod) (d : Opnd) (a : Opnd) (k : Nat) : Statement (.sari m d a k) := of rfl (by simp [fixed, sTwo, lookup, lookup6]; rfl) rfl rfl
theorem Laws.FindsRow.andi (m : Option XMod) (d : Opnd) (a : Opnd) (imm : Int) : Statement (.andi m d a imm) := of rfl (by simp [fixed, sTwo, lookup, lookup6]; rfl) rfl rfl
theorem Laws.FindsRow.cmp (m : Option XMod) (c : Cond) (p : Fin 8) (a : Opnd) (b : Opnd) : Statement (.cmp m c p a b) := by
  cases c <;> exact of rfl (by simp [fixed, sCmp, lookup]; rfl) rfl rfl
theorem Laws.FindsRow.cmpi (m : Option XMod) (c : Cond) (p : Fin 8) (a : Opnd) (imm : Int) : Statement (.cmpi m c p a imm) := by
  cases c <;> exact of rfl (by simp [fixed, sCmpi, lookup]; rfl) rfl rfl
theorem Laws.FindsRow.bc (p : Fin 8) (off : Int) : Statement (.bc p off) := of rfl (by simp [fixed, sBc, lookup]; rfl) rfl rfl
theorem Laws.FindsRow.bcN (p : Fin 8) (off : Int) : Statement (.bcN p off) := of rfl (by simp [fixed, sBc, lookup]; rfl) rfl rfl
theorem Laws.FindsRow.br (off : Int) : Statement (.br off) := of rfl (by simp [fixed, sBr, lookup]; rfl) rfl rfl
theorem Laws.FindsRow.call (off : Int) : Statement (.call off) := of rfl (by simp [fixed, sBr, lookup]; rfl) rfl rfl
theorem Laws.FindsRow.nop : Statement (.nop) := of rfl (by simp [fixed, sCtl, lookup, lookupB]; rfl) rfl rfl
theorem Laws.FindsRow.bri (a : Opnd) : Statement (.bri a) := of rfl (by simp [fixed, sCtl, lookup, lookupB]; rfl) rfl rfl
theorem Laws.FindsRow.calli (a : Opnd) : Statement (.calli a) := of rfl (by simp [fixed, sCtl, lookup, lookupB]; rfl) rfl rfl
theorem Laws.FindsRow.ret : Statement (.ret) := of rfl (by simp [fixed, sCtl, lookup, lookupB]; rfl) rfl rfl
theorem Laws.FindsRow.loop (m : Option XMod) (a : Opnd) (off : Int) : Statement (.loop m a off) := of rfl (by simp [fixed, sLoop, lookup, lookupB]; rfl) rfl rfl
theorem Laws.FindsRow.yield : Statement (.yield) := of rfl (by simp [fixed, sCtl, lookup, lookupB]; rfl) rfl rfl
theorem Laws.FindsRow.exit : Statement (.exit) := of rfl (by simp [fixed, sCtl, lookup, lookupB]; rfl) rfl rfl
theorem Laws.FindsRow.ld (m : Option XMod) (t : Tag) (z : Size) (sp : Space) (d : Opnd) (a : Opnd) : Statement (.ld m t z sp d a) := by
  cases z <;> cases sp <;> exact of rfl (by simp [fixed, sMem, lookup, lookupA]; rfl) rfl (by cases t <;> rfl)
theorem Laws.FindsRow.ldN (m : Option XMod) (t : Tag) (z : NSize) (sp : Space) (d : Opnd) (a : Opnd) : Statement (.ldN m t z sp d a) := by
  cases z <;> cases sp <;> exact of rfl (by simp [fixed, sMem, lookup, lookupA]; rfl) rfl (by cases t <;> rfl)
theorem Laws.FindsRow.st (m : Option XMod) (z : Size) (sp : Space) (d : Opnd) (a : Opnd) : Statement (.st m z sp d a) := by
  cases z <;> cases sp <;> exact of rfl (by simp [fixed, sMem, lookup, lookupA]; rfl) rfl rfl
theorem Laws.FindsRow.ldv (m : Option XMod) (g : Fin 8) (t : Tag) (sp : Space) (d : Fin 256) (a : Opnd) : Statement (.ldv m g t sp d a) := by
  cases sp <;> exact of rfl (by simp [fixed, sMem, lookup, lookupA]; rfl) rfl (by cases t <;> rfl)
theorem Laws.FindsRow.stv (m : Option XMod) (g : Fin 8) (sp : Space) (d : Fin 256) (a : Opnd) : Statement (.stv m g sp d a) := by
  cases sp <;> exact of rfl (by simp [fixed, sMem, lookup, lookupA]; rfl) rfl rfl
theorem Laws.FindsRow.ldx (m : Option XMod) (d : Opnd) (x : Fin 4) (k : Nat) : Statement (.ldx m d x k) := by
  fin_cases x <;> exact of rfl (by simp [fixed, sWin, lookup, lookupE]; rfl) rfl rfl
theorem Laws.FindsRow.stx (m : Option XMod) (d : Opnd) (x : Fin 4) (k : Nat) : Statement (.stx m d x k) := by
  fin_cases x <;> exact of rfl (by simp [fixed, sWin, lookup, lookupE]; rfl) rfl rfl
theorem Laws.FindsRow.xset (x : Fin 4) (k : Nat) : Statement (.xset x k) := by
  fin_cases x <;> exact of rfl (by simp [fixed, sWin, lookup, lookupE]; rfl) rfl rfl
theorem Laws.FindsRow.xadd (x : Fin 4) (k : Int) : Statement (.xadd x k) := by
  fin_cases x <;> exact of rfl (by simp [fixed, sWin, lookup, lookupE]; rfl) rfl rfl
theorem Laws.FindsRow.vadd (m : Option XMod) (g : Fin 8) (d : Fin 256) (a : Fin 256) (b : Opnd) : Statement (.vadd m g d a b) := ofPage 12 0 0 rfl rfl rfl rfl rfl
theorem Laws.FindsRow.vsub (m : Option XMod) (g : Fin 8) (d : Fin 256) (a : Fin 256) (b : Opnd) : Statement (.vsub m g d a b) := ofPage 12 1 0 rfl rfl rfl rfl rfl
theorem Laws.FindsRow.vmul (m : Option XMod) (g : Fin 8) (d : Fin 256) (a : Fin 256) (b : Opnd) : Statement (.vmul m g d a b) := ofPage 12 2 0 rfl rfl rfl rfl rfl
theorem Laws.FindsRow.vfma (m : Option XMod) (g : Fin 8) (d : Fin 256) (a : Fin 256) (b : Opnd) : Statement (.vfma m g d a b) := ofPage 12 3 0 rfl rfl rfl rfl rfl
theorem Laws.FindsRow.vfms (m : Option XMod) (g : Fin 8) (d : Fin 256) (a : Fin 256) (b : Opnd) : Statement (.vfms m g d a b) := ofPage 12 4 0 rfl rfl rfl rfl rfl
theorem Laws.FindsRow.vfnma (m : Option XMod) (g : Fin 8) (d : Fin 256) (a : Fin 256) (b : Opnd) : Statement (.vfnma m g d a b) := ofPage 12 5 0 rfl rfl rfl rfl rfl
theorem Laws.FindsRow.vmin (m : Option XMod) (g : Fin 8) (d : Fin 256) (a : Fin 256) (b : Opnd) : Statement (.vmin m g d a b) := ofPage 12 6 0 rfl rfl rfl rfl rfl
theorem Laws.FindsRow.vmax (m : Option XMod) (g : Fin 8) (d : Fin 256) (a : Fin 256) (b : Opnd) : Statement (.vmax m g d a b) := ofPage 12 7 0 rfl rfl rfl rfl rfl
theorem Laws.FindsRow.vabs (m : Option XMod) (g : Fin 8) (d : Fin 256) (a : Fin 256) : Statement (.vabs m g d a) := ofPage 13 0 0 rfl rfl rfl rfl rfl
theorem Laws.FindsRow.vneg (m : Option XMod) (g : Fin 8) (d : Fin 256) (a : Fin 256) : Statement (.vneg m g d a) := ofPage 13 1 0 rfl rfl rfl rfl rfl
theorem Laws.FindsRow.vdot2 (m : Option XMod) (g : Fin 8) (d : Fin 256) (a : Fin 256) (b : Opnd) : Statement (.vdot2 m g d a b) := ofPage 13 2 0 rfl rfl rfl rfl rfl
theorem Laws.FindsRow.vdot4 (m : Option XMod) (g : Fin 8) (d : Fin 256) (a : Fin 256) (b : Opnd) : Statement (.vdot4 m g d a b) := ofPage 13 3 0 rfl rfl rfl rfl rfl
theorem Laws.FindsRow.vcmp (m : Option XMod) (g : Fin 8) (c : VCond) (p : Fin 8) (a : Fin 256) (b : Fin 256) : Statement (.vcmp m g c p a b) := by
  cases c <;> exact ofPage 13 4 0 rfl rfl rfl rfl rfl
theorem Laws.FindsRow.vsel (m : Option XMod) (g : Fin 8) (d : Fin 256) (a : Fin 256) (q : Fin 8) : Statement (.vsel m g d a q) := ofPage 13 5 0 rfl rfl rfl rfl rfl
theorem Laws.FindsRow.vclass (m : Option XMod) (g : Fin 8) (d : Fin 256) (a : Fin 256) : Statement (.vclass m g d a) := ofPage 13 6 0 rfl rfl rfl rfl rfl
theorem Laws.FindsRow.vmov (m : Option XMod) (g : Fin 8) (d : Fin 256) (a : Fin 256) : Statement (.vmov m g d a) := ofPage 13 7 0 rfl rfl rfl rfl rfl
theorem Laws.FindsRow.viadd (m : Option XMod) (g : Fin 8) (d : Fin 256) (a : Fin 256) (b : Opnd) : Statement (.viadd m g d a b) := ofPage 12 0 0 rfl rfl rfl rfl rfl
theorem Laws.FindsRow.visub (m : Option XMod) (g : Fin 8) (d : Fin 256) (a : Fin 256) (b : Opnd) : Statement (.visub m g d a b) := ofPage 12 1 0 rfl rfl rfl rfl rfl
theorem Laws.FindsRow.vimul (m : Option XMod) (g : Fin 8) (d : Fin 256) (a : Fin 256) (b : Opnd) : Statement (.vimul m g d a b) := ofPage 12 2 0 rfl rfl rfl rfl rfl
theorem Laws.FindsRow.vand (m : Option XMod) (g : Fin 8) (d : Fin 256) (a : Fin 256) (b : Opnd) : Statement (.vand m g d a b) := ofPage 12 3 0 rfl rfl rfl rfl rfl
theorem Laws.FindsRow.vor (m : Option XMod) (g : Fin 8) (d : Fin 256) (a : Fin 256) (b : Opnd) : Statement (.vor m g d a b) := ofPage 12 4 0 rfl rfl rfl rfl rfl
theorem Laws.FindsRow.vxor (m : Option XMod) (g : Fin 8) (d : Fin 256) (a : Fin 256) (b : Opnd) : Statement (.vxor m g d a b) := ofPage 12 5 0 rfl rfl rfl rfl rfl
theorem Laws.FindsRow.vshl (m : Option XMod) (g : Fin 8) (d : Fin 256) (a : Fin 256) (b : Opnd) : Statement (.vshl m g d a b) := ofPage 12 6 0 rfl rfl rfl rfl rfl
theorem Laws.FindsRow.vshr (m : Option XMod) (g : Fin 8) (ar : Bool) (d : Fin 256) (a : Fin 256) (b : Opnd) : Statement (.vshr m g ar d a b) := by
  cases ar <;> exact ofPage 12 7 0 rfl rfl rfl rfl rfl
theorem Laws.FindsRow.vbcast (m : Option XMod) (g : Fin 8) (z : BcSize) (d : Fin 256) (a : Opnd) : Statement (.vbcast m g z d a) := by
  cases z <;> exact ofPage 13 0 0 rfl rfl rfl rfl rfl
theorem Laws.FindsRow.vshuf (m : Option XMod) (d : Fin 256) (a : Fin 256) (b : Fin 256) : Statement (.vshuf m d a b) := ofPage 13 1 0 rfl rfl rfl rfl rfl
theorem Laws.FindsRow.vperm (m : Option XMod) (d : Fin 256) (a : Fin 256) (b : Fin 256) : Statement (.vperm m d a b) := ofPage 13 2 0 rfl rfl rfl rfl rfl
theorem Laws.FindsRow.vred (m : Option XMod) (g : Fin 8) (d : Opnd) (src : RedSrc) : Statement (.vred m g d src) := by
  rcases src with ⟨o | _ | _ | _, a⟩ | f <;> (try first | cases o | cases f) <;> exact ofPage 13 3 0 rfl rfl rfl rfl rfl
theorem Laws.FindsRow.vscan (m : Option XMod) (g : Fin 8) (o : ScanOp) (d : Fin 256) (a : Fin 256) : Statement (.vscan m g o d a) := by
  cases o <;> exact ofPage 13 4 0 rfl rfl rfl rfl rfl
theorem Laws.FindsRow.vins (m : Option XMod) (g : Fin 8) (d : Fin 256) (a : Opnd) (b : Opnd) : Statement (.vins m g d a b) := ofPage 13 5 0 rfl rfl rfl rfl rfl
theorem Laws.FindsRow.vext (m : Option XMod) (d : Opnd) (a : Fin 256) (b : Opnd) : Statement (.vext m d a b) := ofPage 13 6 0 rfl rfl rfl rfl rfl
theorem Laws.FindsRow.vlanei (g : Fin 8) (d : Fin 256) : Statement (.vlanei g d) := ofPage 13 7 0 rfl rfl rfl rfl rfl
theorem Laws.FindsRow.cvt (m : Option XMod) (t : CvtTo) (d : Opnd) (a : Opnd) : Statement (.cvt m t d a) := by
  cases t <;> exact ofPage 12 0 0 rfl rfl rfl rfl rfl
theorem Laws.FindsRow.vcvt (m : Option XMod) (g : Fin 8) (o : VcvtOp) (d : Fin 256) (a : Fin 256) : Statement (.vcvt m g o d a) := by
  cases o <;> exact ofPage 12 1 0 rfl rfl rfl rfl rfl
theorem Laws.FindsRow.blkpk (m : Option XMod) (w : Blk) (nat : Bool) (d : Fin 256) (a : Fin 256) : Statement (.blkpk m w nat d a) := by
  cases w <;> cases nat <;> exact ofPage 12 2 0 rfl rfl rfl rfl (by simp [Blk.toNat, Blk.ofCode, Opnd.slotD])
theorem Laws.FindsRow.blkup (m : Option XMod) (bf : Bool) (d : Fin 256) (a : Fin 256) : Statement (.blkup m bf d a) := by
  cases bf <;> exact ofPage 12 3 0 rfl rfl rfl rfl rfl
theorem Laws.FindsRow.vpack (m : Option XMod) (g : Fin 8) (t : PackFmt) (d : Fin 256) (a : Fin 256) : Statement (.vpack m g t d a) := by
  rcases t with h | h | h | h <;> fin_cases h <;> exact ofPage 12 4 0 rfl rfl rfl rfl rfl
theorem Laws.FindsRow.vunpk (m : Option XMod) (g : Fin 8) (t : PackFmt) (d : Fin 256) (a : Fin 256) : Statement (.vunpk m g t d a) := by
  rcases t with h | h | h | h <;> fin_cases h <;> exact ofPage 12 5 0 rfl rfl rfl rfl rfl
theorem Laws.FindsRow.tagset (m : Option XMod) (g : Fin 8) (t : Tag) (d : Opnd) (a : Opnd) : Statement (.tagset m g t d a) := by
  cases t <;> exact ofPage 12 6 0 rfl rfl rfl rfl rfl
theorem Laws.FindsRow.tagget (m : Option XMod) (g : Fin 8) (d : Opnd) (a : Opnd) : Statement (.tagget m g d a) := ofPage 12 7 0 rfl rfl rfl rfl rfl
theorem Laws.FindsRow.flrd (g : Fin 8) (f : FlSel) (p : Fin 8) : Statement (.flrd g f p) := by
  rcases f with f | _ <;> (try cases f) <;> exact ofPage 13 0 0 rfl rfl rfl rfl rfl
theorem Laws.FindsRow.flclr (g : Fin 8) (f : Option Flag) : Statement (.flclr g f) := by
  rcases f with _ | f <;> (try cases f) <;> exact ofPage 13 1 0 rfl rfl rfl rfl rfl
theorem Laws.FindsRow.vote (g : Fin 8) (o : VoteOp) (d : Opnd) (src : VoteSrc) : Statement (.vote g o d src) := by
  cases o <;> rcases src with q | f <;> (try cases f) <;> exact of rfl (by simp [fixed, sVote, sP, w3, lookup, lookupPage, rowsP3D, VoteSrc.fields, VoteSrc.field, Opnd.fieldNat, Flag.toNat]; rfl) rfl rfl
theorem Laws.FindsRow.flen (m : Option XMod) (d : Opnd) (a : Opnd) : Statement (.flen m d a) := ofPage 13 3 0 rfl rfl rfl rfl rfl
theorem Laws.FindsRow.sfn (m : Option XMod) (f : Sfu) (d : Opnd) (a : Opnd) : Statement (.sfn m f d a) := by
  cases f <;> exact ofPage 13 4 0 rfl rfl rfl rfl rfl
theorem Laws.FindsRow.sfnv (m : Option XMod) (g : Fin 8) (f : Sfu) (d : Fin 256) (a : Fin 256) : Statement (.sfnv m g f d a) := by
  cases f <;> exact ofPage 13 5 0 rfl rfl rfl rfl rfl
theorem Laws.FindsRow.gang (n : GangSize) : Statement (.gang n) := by
  cases n <;> exact ofPage 13 6 0 rfl rfl rfl rfl rfl
theorem Laws.FindsRow.disband : Statement (.disband) := ofPage 13 7 0 rfl rfl rfl rfl rfl
theorem Laws.FindsRow.mop (m : Option XMod) (ta : Blk) (tb : Blk) (q : Fin 2) (a : Opnd) (b : Opnd) : Statement (.mop m ta tb q a b) := by
  cases ta <;> cases tb <;> exact ofPage 12 0 0 rfl rfl rfl rfl (by simp only [Blk.tagNat, Blk.toNat, Nat.reduceAdd, Nat.reduceMul, Nat.reduceMod, Nat.reduceDiv, Nat.reduceSub, Blk.ofCode]; fin_cases q <;> rfl)
theorem Laws.FindsRow.mops (m : Option XMod) (ta : Blk) (tb : Blk) (q : Fin 2) (a : Opnd) (b : Opnd) : Statement (.mops m ta tb q a b) := by
  cases ta <;> cases tb <;> exact ofPage 12 1 0 rfl rfl rfl rfl (by simp only [Blk.tagNat, Blk.toNat, Nat.reduceAdd, Nat.reduceMul, Nat.reduceMod, Nat.reduceDiv, Nat.reduceSub, Blk.ofCode]; fin_cases q <;> rfl)
theorem Laws.FindsRow.mconv (m : Option XMod) (f : McFmt) (ac : Bool) (q : Fin 2) (a : Opnd) : Statement (.mconv m f ac q a) := by
  cases f <;> cases ac <;> exact ofPage 12 2 0 rfl rfl rfl rfl (by fin_cases q <;> simp [McFmt.toNat, McFmt.ofCode, tileOpnd, Opnd.tileD])
theorem Laws.FindsRow.mwait (q : Fin 2) : Statement (.mwait q) := ofPage 12 3 0 rfl rfl rfl rfl (by fin_cases q <;> rfl)
theorem Laws.FindsRow.mstat (d : Opnd) (q : Fin 2) : Statement (.mstat d q) := ofPage 12 4 0 rfl rfl rfl rfl (by fin_cases q <;> rfl)
theorem Laws.FindsRow.msched (m : Option XMod) (a : Opnd) (b : Opnd) : Statement (.msched m a b) := ofPage 12 5 0 rfl rfl rfl rfl rfl
theorem Laws.FindsRow.mzero (q : Fin 2) (e : Int) : Statement (.mzero q e) := ofPage 13 0 0 rfl rfl rfl rfl (by fin_cases q <;> rfl)
theorem Laws.FindsRow.mqw (k : Nat) : Statement (.mqw k) := ofPage 13 1 0 rfl rfl rfl rfl rfl
theorem Laws.FindsRow.ecmd (m : Option XMod) (a : Opnd) : Statement (.ecmd m a) := ofPage 12 0 0 rfl rfl rfl rfl rfl
theorem Laws.FindsRow.ecpy (m : Option XMod) (ds : EDst) (ss : ESrc) (d : Opnd) (a : Opnd) (b : Opnd) (c : Opnd) : Statement (.ecpy m ds ss d a b c) := by
  cases ds <;> cases ss <;> exact ofPage 12 1 0 rfl rfl rfl rfl (by simp [EDst.toNat, EDst.ofCode, ESrc.toNat, ESrc.ofCode])
theorem Laws.FindsRow.egath (m : Option XMod) (ds : EDst) (d : Opnd) (a : Opnd) (b : Opnd) (c : Opnd) : Statement (.egath m ds d a b c) := by
  cases ds <;> exact ofPage 12 2 0 rfl rfl rfl rfl rfl
theorem Laws.FindsRow.escat (m : Option XMod) (ss : ESrc) (d : Opnd) (a : Opnd) (b : Opnd) (c : Opnd) : Statement (.escat m ss d a b c) := by
  cases ss <;> exact ofPage 12 3 0 rfl rfl rfl rfl rfl
theorem Laws.FindsRow.esub (m : Option XMod) (a : Opnd) (b : Opnd) : Statement (.esub m a b) := ofPage 12 4 0 rfl rfl rfl rfl rfl
theorem Laws.FindsRow.ecoll (m : Option XMod) (a : Opnd) (b : Opnd) : Statement (.ecoll m a b) := ofPage 12 5 0 rfl rfl rfl rfl rfl
theorem Laws.FindsRow.ebmp (m : Option XMod) (d : Opnd) (a : Opnd) : Statement (.ebmp m d a) := ofPage 12 6 0 rfl rfl rfl rfl rfl
theorem Laws.FindsRow.mloadb (m : Option XMod) (d : Opnd) (a : Opnd) (b : Opnd) : Statement (.mloadb m d a b) := ofPage 12 7 0 rfl rfl rfl rfl rfl
theorem Laws.FindsRow.ldfe (m : Option XMod) (d : Opnd) (a : Opnd) : Statement (.ldfe m d a) := ofPage 12 0 0 rfl rfl rfl rfl rfl
theorem Laws.FindsRow.ldff (m : Option XMod) (d : Opnd) (a : Opnd) : Statement (.ldff m d a) := ofPage 12 1 0 rfl rfl rfl rfl rfl
theorem Laws.FindsRow.stfe (m : Option XMod) (d : Opnd) (a : Opnd) : Statement (.stfe m d a) := ofPage 12 2 0 rfl rfl rfl rfl rfl
theorem Laws.FindsRow.feset (m : Option XMod) (a : Opnd) : Statement (.feset m a) := ofPage 12 3 0 rfl rfl rfl rfl rfl
theorem Laws.FindsRow.feclr (m : Option XMod) (a : Opnd) : Statement (.feclr m a) := ofPage 12 4 0 rfl rfl rfl rfl rfl
theorem Laws.FindsRow.xst (m : Option XMod) (a : Opnd) (src : XstSrc) : Statement (.xst m a src) := by
  cases src <;> exact ofPage 12 5 0 rfl rfl rfl rfl rfl
theorem Laws.FindsRow.axchg (m : Option XMod) (z : ASize) (sp : ASpace) (d : Opnd) (a : Opnd) (b : Opnd) : Statement (.axchg m z sp d a b) := by
  cases z <;> cases sp <;> exact ofPage 12 6 0 rfl rfl rfl rfl (by simp [atVar, ASize.toNat, ASize.ofCode, ASpace.toNat, ASpace.ofCode])
theorem Laws.FindsRow.acas (m : Option XMod) (z : ASize) (sp : ASpace) (d : Opnd) (a : Opnd) (b : Opnd) (c : Opnd) : Statement (.acas m z sp d a b c) := by
  cases z <;> cases sp <;> exact ofPage 12 7 0 rfl rfl rfl rfl (by simp [atVar, ASize.toNat, ASize.ofCode, ASpace.toNat, ASpace.ofCode])
theorem Laws.FindsRow.aadd (m : Option XMod) (z : ASize) (sp : ASpace) (d : Opnd) (a : Opnd) (b : Opnd) : Statement (.aadd m z sp d a b) := by
  cases z <;> cases sp <;> exact ofPage 13 0 0 rfl rfl rfl rfl (by simp [atVar, ASize.toNat, ASize.ofCode, ASpace.toNat, ASpace.ofCode])
theorem Laws.FindsRow.aand (m : Option XMod) (z : ASize) (sp : ASpace) (d : Opnd) (a : Opnd) (b : Opnd) : Statement (.aand m z sp d a b) := by
  cases z <;> cases sp <;> exact ofPage 13 1 0 rfl rfl rfl rfl (by simp [atVar, ASize.toNat, ASize.ofCode, ASpace.toNat, ASpace.ofCode])
theorem Laws.FindsRow.aor (m : Option XMod) (z : ASize) (sp : ASpace) (d : Opnd) (a : Opnd) (b : Opnd) : Statement (.aor m z sp d a b) := by
  cases z <;> cases sp <;> exact ofPage 13 2 0 rfl rfl rfl rfl (by simp [atVar, ASize.toNat, ASize.ofCode, ASpace.toNat, ASpace.ofCode])
theorem Laws.FindsRow.axor (m : Option XMod) (z : ASize) (sp : ASpace) (d : Opnd) (a : Opnd) (b : Opnd) : Statement (.axor m z sp d a b) := by
  cases z <;> cases sp <;> exact ofPage 13 3 0 rfl rfl rfl rfl (by simp [atVar, ASize.toNat, ASize.ofCode, ASpace.toNat, ASpace.ofCode])
theorem Laws.FindsRow.amin (m : Option XMod) (z : MSize) (sp : ASpace) (d : Opnd) (a : Opnd) (b : Opnd) : Statement (.amin m z sp d a b) := by
  cases z <;> cases sp <;> exact ofPage 13 4 0 rfl rfl rfl rfl (by simp [atVarN, MSize.toNat, MSize.ofCode, ASpace.toNat, ASpace.ofCode])
theorem Laws.FindsRow.amax (m : Option XMod) (z : MSize) (sp : ASpace) (d : Opnd) (a : Opnd) (b : Opnd) : Statement (.amax m z sp d a b) := by
  cases z <;> cases sp <;> exact ofPage 13 5 0 rfl rfl rfl rfl (by simp [atVarN, MSize.toNat, MSize.ofCode, ASpace.toNat, ASpace.ofCode])
theorem Laws.FindsRow.fence (m : Option XMod) : Statement (.fence m) := ofPage 13 6 0 rfl rfl rfl rfl rfl
theorem Laws.FindsRow.pvis : Statement (.pvis) := ofPage 13 7 0 rfl rfl rfl rfl rfl
theorem Laws.FindsRow.binit (m : Option XMod) (a : Opnd) (b : Opnd) : Statement (.binit m a b) := ofPage 12 0 0 rfl rfl rfl rfl rfl
theorem Laws.FindsRow.barr (m : Option XMod) (a : Opnd) (b : Opnd) : Statement (.barr m a b) := ofPage 12 1 0 rfl rfl rfl rfl rfl
theorem Laws.FindsRow.bwait (m : Option XMod) (k : Fin 16) (d : Opnd) (a : Opnd) : Statement (.bwait m k d a) := by
  fin_cases k <;> exact ofPage 12 2 0 rfl rfl rfl rfl rfl
theorem Laws.FindsRow.gbar (m : Option XMod) (d : Opnd) (a : Opnd) : Statement (.gbar m d a) := ofPage 12 3 0 rfl rfl rfl rfl rfl
theorem Laws.FindsRow.larm (m : Option XMod) (a : Opnd) : Statement (.larm m a) := ofPage 12 0 0 rfl rfl rfl rfl rfl
theorem Laws.FindsRow.learly : Statement (.learly) := ofPage 12 1 0 rfl rfl rfl rfl rfl
theorem Laws.FindsRow.rnext (d : Opnd) : Statement (.rnext d) := ofPage 12 2 0 rfl rfl rfl rfl rfl
theorem Laws.FindsRow.msend (m : Option XMod) (a : Opnd) : Statement (.msend m a) := ofPage 12 3 0 rfl rfl rfl rfl rfl
theorem Laws.FindsRow.tblk (m : Option XMod) (a : Opnd) : Statement (.tblk m a) := ofPage 12 4 0 rfl rfl rfl rfl rfl
theorem Laws.FindsRow.tunblk (m : Option XMod) (a : Opnd) : Statement (.tunblk m a) := ofPage 12 5 0 rfl rfl rfl rfl rfl
theorem Laws.FindsRow.spawn (m : Option XMod) (d : Opnd) (a : Opnd) (b : Opnd) : Statement (.spawn m d a b) := ofPage 12 6 0 rfl rfl rfl rfl rfl
theorem Laws.FindsRow.lpatch (m : Option XMod) (d : Opnd) (a : Opnd) (k : Nat) : Statement (.lpatch m d a k) := ofPage 13 0 0 rfl rfl rfl rfl rfl
theorem Laws.FindsRow.tans (m : Option XMod) (d : Opnd) : Statement (.tans m d) := ofPage 12 0 0 rfl rfl rfl rfl rfl
theorem Laws.FindsRow.tret (m : Option XMod) (a : Opnd) : Statement (.tret m a) := ofPage 12 1 0 rfl rfl rfl rfl rfl
theorem Laws.FindsRow.tdone : Statement (.tdone) := ofPage 12 2 0 rfl rfl rfl rfl rfl
theorem Laws.FindsRow.tfail (m : Option XMod) (a : Opnd) : Statement (.tfail m a) := ofPage 12 3 0 rfl rfl rfl rfl rfl
theorem Laws.FindsRow.trel (m : Option XMod) : Statement (.trel m) := ofPage 12 4 0 rfl rfl rfl rfl rfl
theorem Laws.FindsRow.tcall (m : Option XMod) (f : TForm) (off : Int) : Statement (.tcall m f off) := by
  cases f
  · exact ofPage 13 0 0 rfl rfl rfl rfl rfl
  · exact ofPage 13 0 1 rfl rfl rfl rfl rfl
  · exact ofPage 13 0 2 rfl rfl rfl rfl rfl
  · exact ofPage 13 0 3 rfl rfl rfl rfl rfl
  · exact ofPage 13 0 4 rfl rfl rfl rfl rfl
theorem Laws.FindsRow.tinfo (m : Option XMod) (d : Opnd) (k : Nat) : Statement (.tinfo m d k) := ofPage 13 1 0 rfl rfl rfl rfl rfl
theorem Laws.FindsRow.acommit : Statement (.acommit) := ofPage 12 0 0 rfl rfl rfl rfl rfl
theorem Laws.FindsRow.astat (d : Opnd) : Statement (.astat d) := ofPage 12 1 0 rfl rfl rfl rfl rfl
theorem Laws.FindsRow.abegin (off : Int) : Statement (.abegin off) := ofPage 13 0 0 rfl rfl rfl rfl rfl
theorem Laws.FindsRow.aabort (k : Nat) : Statement (.aabort k) := ofPage 13 1 0 rfl rfl rfl rfl rfl
theorem Laws.FindsRow.rfe : Statement (.rfe) := ofPage 12 0 0 rfl rfl rfl rfl rfl
theorem Laws.FindsRow.wmark (d : Opnd) : Statement (.wmark d) := ofPage 12 1 0 rfl rfl rfl rfl rfl
theorem Laws.FindsRow.pref (m : Option XMod) (k : PrefKind) (a : Opnd) : Statement (.pref m k a) := by
  cases k <;> exact ofPage 12 2 0 rfl rfl rfl rfl rfl
theorem Laws.FindsRow.tlbinv (m : Option XMod) (a : Option Opnd) : Statement (.tlbinv m a) := by
  cases a <;> exact ofPage 12 3 0 rfl rfl rfl rfl rfl
theorem Laws.FindsRow.halt : Statement (.halt) := ofPage 12 4 0 rfl rfl rfl rfl rfl
theorem Laws.FindsRow.trap (k : Nat) : Statement (.trap k) := ofPage 13 0 0 rfl rfl rfl rfl rfl
theorem Laws.FindsRow.sysc (k : Nat) : Statement (.sysc k) := ofPage 13 1 0 rfl rfl rfl rfl rfl
theorem Laws.FindsRow.crr (d : Opnd) (k : Nat) : Statement (.crr d k) := ofPage 13 2 0 rfl rfl rfl rfl rfl
theorem Laws.FindsRow.crw (m : Option XMod) (a : Opnd) (k : Nat) : Statement (.crw m a k) := ofPage 13 3 0 rfl rfl rfl rfl rfl
theorem Laws.FindsRow.brk (k : Nat) : Statement (.brk k) := ofPage 13 4 0 rfl rfl rfl rfl rfl
theorem Laws.FindsRow.faultResolved (r : FaultRef) (w : KWork) : Statement (.faultResolved r w) := trivial
theorem Laws.FindsRow.faultRefused (r : FaultRef) : Statement (.faultRefused r) := trivial
theorem Laws.FindsRow.syscServe (g : Gid) (r1 : Word) (r2 : Word) (rl : Word) : Statement (.syscServe g r1 r2 rl) := trivial
theorem Laws.FindsRow.parkResolved (g : Gid) : Statement (.parkResolved g) := trivial
theorem Laws.FindsRow.accessPerformed (n : Nat) : Statement (.accessPerformed n) := trivial
theorem Laws.FindsRow.taskSeat (core : Nat) : Statement (.taskSeat core) := trivial
theorem Laws.FindsRow.taskAging (g : Gid) : Statement (.taskAging g) := trivial
theorem Laws.FindsRow.continuationMigrate (g : Gid) : Statement (.continuationMigrate g) := trivial
theorem Laws.FindsRow.steal (core : Nat) (slot : Nat) : Statement (.steal core slot) := trivial
theorem Laws.FindsRow.gangForm (g : Gid) : Statement (.gangForm g) := trivial
theorem Laws.FindsRow.earlyStart (ctx : Nat) (r : Nat) : Statement (.earlyStart ctx r) := trivial
theorem Laws.FindsRow.recordRetire (ctx : Nat) (r : Nat) : Statement (.recordRetire ctx r) := trivial
theorem Laws.FindsRow.tableClearFailed (ctx : Nat) : Statement (.tableClearFailed ctx) := trivial
theorem Laws.FindsRow.tableGrow (ctx : Nat) (dbl : Option (Nat × Nat)) (ans keys : Nat × Nat) :
    Statement (.tableGrow ctx dbl ans keys) := trivial
theorem Laws.FindsRow.messageArrival (g : Gid) : Statement (.messageArrival g) := trivial
theorem Laws.FindsRow.msendRetryTimer (g : Gid) : Statement (.msendRetryTimer g) := trivial
theorem Laws.FindsRow.tileOpStart (cl : Nat) : Statement (.tileOpStart cl) := trivial
theorem Laws.FindsRow.tileOpFinal (cl : Nat) : Statement (.tileOpFinal cl) := trivial
theorem Laws.FindsRow.mconvComplete (cl : Nat) (core : Nat) : Statement (.mconvComplete cl core) := trivial
theorem Laws.FindsRow.metadataStallTimeout (cl : Nat) : Statement (.metadataStallTimeout cl) := trivial
theorem Laws.FindsRow.scheduleEntry (cl : Nat) (core : Nat) : Statement (.scheduleEntry cl core) := trivial
theorem Laws.FindsRow.scheduleEnd (cl : Nat) (core : Nat) : Statement (.scheduleEnd cl core) := trivial
theorem Laws.FindsRow.kaolinLoad (cl : Nat) : Statement (.kaolinLoad cl) := trivial
theorem Laws.FindsRow.kaolinLoadComplete (cl : Nat) : Statement (.kaolinLoadComplete cl) := trivial
theorem Laws.FindsRow.kick (e : EngRef) (ctx : Nat) (core : Nat) (g : Gid) : Statement (.kick e ctx core g) := trivial
theorem Laws.FindsRow.registerWrite (e : EngRef) (ctx : Nat) (off : Nat) (bs : List Byte) : Statement (.registerWrite e ctx off bs) := trivial
theorem Laws.FindsRow.commandForward (cl : Nat) (n : Nat) : Statement (.commandForward cl n) := trivial
theorem Laws.FindsRow.engineOperationStart (e : EngRef) : Statement (.engineOperationStart e) := trivial
theorem Laws.FindsRow.chunkComplete (e : EngRef) (k : Nat) : Statement (.chunkComplete e k) := trivial
theorem Laws.FindsRow.engineOperationEnd (e : EngRef) : Statement (.engineOperationEnd e) := trivial
theorem Laws.FindsRow.engineFault (e : EngRef) : Statement (.engineFault e) := trivial
theorem Laws.FindsRow.metadataPush (cl : Nat) : Statement (.metadataPush cl) := trivial
theorem Laws.FindsRow.streamTileLoad (e : EngRef) (n : Nat) : Statement (.streamTileLoad e n) := trivial
theorem Laws.FindsRow.streamTileStore (e : EngRef) (n : Nat) : Statement (.streamTileStore e n) := trivial
theorem Laws.FindsRow.streamEnd (e : EngRef) (n : Nat) : Statement (.streamEnd e n) := trivial
theorem Laws.FindsRow.commitAtHome (g : Gid) : Statement (.commitAtHome g) := trivial
theorem Laws.FindsRow.collectiveStep (die : Nat) (n : Nat) (bs : List Byte) : Statement (.collectiveStep die n bs) := trivial
theorem Laws.FindsRow.collectiveHold (die : Nat) (ctx : Nat) : Statement (.collectiveHold die ctx) := trivial
theorem Laws.FindsRow.collectiveResume (die : Nat) (ctx : Nat) : Statement (.collectiveResume die ctx) := trivial
theorem Laws.FindsRow.memberAbort (die : Nat) (ctx : Nat) (g : Nat) : Statement (.memberAbort die ctx g) := trivial
theorem Laws.FindsRow.dump (ctx : Nat) (bad : Option (Nat × Nat)) : Statement (.dump ctx bad) := trivial
theorem Laws.FindsRow.haltLine (ctx : Nat) (dbg : Bool) : Statement (.haltLine ctx dbg) := trivial
theorem Laws.FindsRow.unitStop (u : UnitRef) (ctx : Nat) : Statement (.unitStop u ctx) := trivial
theorem Laws.FindsRow.haltComplete (ctx : Nat) : Statement (.haltComplete ctx) := trivial
theorem Laws.FindsRow.contextResume (ctx : Nat) (w : KWork) : Statement (.contextResume ctx w) := trivial
theorem Laws.FindsRow.preempt (gs : Preemption) : Statement (.preempt gs) := trivial
theorem Laws.FindsRow.contextSwitch (ctx : Nat) (nxt : Nat) : Statement (.contextSwitch ctx nxt) := trivial
theorem Laws.FindsRow.watchStrike (w : Gid) (striker : Nat) (who : Gid) (addr : Nat) (n : Nat) (old : Word) (seq : Nat) : Statement (.watchStrike w striker who addr n old seq) := trivial
theorem Laws.FindsRow.step (g : Gid) : Statement (.step g) := trivial
theorem Laws.FindsRow.windowMarker (ctx : Nat) (cause : Nat) : Statement (.windowMarker ctx cause) := trivial
theorem Laws.FindsRow.siltThreshold (ctx : Nat) : Statement (.siltThreshold ctx) := trivial
theorem Laws.FindsRow.siltShed (ctx : Nat) : Statement (.siltShed ctx) := trivial
theorem Laws.FindsRow.siltStall (ctx : Nat) : Statement (.siltStall ctx) := trivial
theorem Laws.FindsRow.rstep (ctx : Nat) (n : Nat) : Statement (.rstep ctx n) := trivial
theorem Laws.FindsRow.rfwd (ctx : Nat) (n : Nat) : Statement (.rfwd ctx n) := trivial
theorem Laws.FindsRow.rwin (ctx : Nat) (n : Nat) : Statement (.rwin ctx n) := trivial
theorem Laws.FindsRow.uncorrData (ctx : Nat) (st : Storage) (syn : Word) : Statement (.uncorrData ctx st syn) := trivial
theorem Laws.FindsRow.correctedMemoryError (unit : Nat) (addr : Nat) (syn : Word) : Statement (.correctedMemoryError unit addr syn) := trivial
theorem Laws.FindsRow.checkpoint (ctx : Nat) : Statement (.checkpoint ctx) := trivial
theorem Laws.FindsRow.checkpointCopyEnd (ctx : Nat) : Statement (.checkpointCopyEnd ctx) := trivial
theorem Laws.FindsRow.linkGridDump (rows : List LinkCount) (uj : Nat) (room : Bool) : Statement (.linkGridDump rows uj room) := trivial
theorem Laws.FindsRow.energyInterval (active : List Charge) (blocks : List BlockEnergy) : Statement (.energyInterval active blocks) := trivial
theorem Laws.FindsRow.powerDoze (b : Block) : Statement (.powerDoze b) := trivial
theorem Laws.FindsRow.powerRetain (b : Block) : Statement (.powerRetain b) := trivial
theorem Laws.FindsRow.powerOff (b : Block) : Statement (.powerOff b) := trivial
theorem Laws.FindsRow.powerWake (b : Block) : Statement (.powerWake b) := trivial
theorem Laws.FindsRow.wakeTimeout (b : Block) : Statement (.wakeTimeout b) := trivial
theorem Laws.FindsRow.clockStretch (b : Block) (on : Bool) (temp : Nat) : Statement (.clockStretch b on temp) := trivial
theorem Laws.FindsRow.thermalTrip (unit : Nat) (temp : Nat) : Statement (.thermalTrip unit temp) := trivial
theorem Laws.FindsRow.supplyFault (rail : Nat) : Statement (.supplyFault rail) := trivial
theorem Laws.FindsRow.attestation (ctx : Nat) (nonce : Nat) : Statement (.attestation ctx nonce) := trivial
theorem Laws.FindsRow.debugGrant (ses : Nat) (lv : DbgLevel) (ctx : Nat) (token : Nat) : Statement (.debugGrant ses lv ctx token) := trivial
theorem Laws.FindsRow.debugRequest (ses : Nat) (ctx : Nat) (op : DbgOp) (blk : Block) : Statement (.debugRequest ses ctx op blk) := trivial
theorem Laws.FindsRow.lifecycleTransition (dst : Lifecycle) (token : Nat) (release : Nat) : Statement (.lifecycleTransition dst token release) := trivial
theorem Laws.FindsRow.rinairFlitError (p : Nat) : Statement (.rinairFlitError p) := trivial
theorem Laws.FindsRow.portDown (p : Nat) : Statement (.portDown p) := trivial
theorem Laws.FindsRow.remoteAccessArrival (p : Nat) (pa : Nat) (acc : PeerAcc) : Statement (.remoteAccessArrival p pa acc) := trivial
theorem Laws.FindsRow.msiXInterrupt (vec : Nat) : Statement (.msiXInterrupt vec) := trivial
theorem Laws.FindsRow.dmaWrite (port : Nat) (pa : Nat) (bs : List Byte) (ctx : Option Nat) : Statement (.dmaWrite port pa bs ctx) := trivial
theorem Laws.FindsRow.completionTimeout (g : Gid) : Statement (.completionTimeout g) := trivial
theorem Laws.FindsRow.surpriseRemoval (port : Nat) : Statement (.surpriseRemoval port) := trivial
theorem Laws.FindsRow.powerOnReset (fail : Nat) : Statement (.powerOnReset fail) := trivial
theorem Laws.FindsRow.watchdogExpiry (panic : Bool) : Statement (.watchdogExpiry panic) := trivial
theorem Laws.FindsRow.registryReadopt (ctx : Nat) (found : Nat) : Statement (.registryReadopt ctx found) := trivial
theorem Laws.FindsRow.killContext (ctx : Nat) : Statement (.killContext ctx) := trivial
theorem Laws.FindsRow.contextCreate (ci : CtxInit) : Statement (.contextCreate ci) := trivial
theorem Laws.FindsRow.shaleFlitError (ep : Nat) (vc : Nat) : Statement (.shaleFlitError ep vc) := trivial
theorem Laws.FindsRow.shaleEndpointFailure (ep : Nat) : Statement (.shaleEndpointFailure ep) := trivial
theorem Laws.FindsRow.kernelMemoryError (pa : Nat) (syn : Word) : Statement (.kernelMemoryError pa syn) := trivial
theorem Laws.FindsRow.offlineBlock (b : Block) : Statement (.offlineBlock b) := trivial
theorem Laws.FindsRow.portRetrain (p : Nat) : Statement (.portRetrain p) := trivial
theorem Laws.FindsRow.portUp (p : Nat) (keyOk : Bool) : Statement (.portUp p keyOk) := trivial
theorem Laws.FindsRow.hotPlug (port : Nat) : Statement (.hotPlug port) := trivial
theorem Laws.FindsRow.aerError (port : Nat) (uncorr : Bool) (status : Word) : Statement (.aerError port uncorr status) := trivial
theorem Laws.FindsRow.checkpointRestore (ci : CtxInit) (mac : Nat) : Statement (.checkpointRestore ci mac) := trivial
theorem Laws.FindsRow.siltRegionEnlarge (ctx : Nat) (bytes : Nat) (drop : Bool) : Statement (.siltRegionEnlarge ctx bytes drop) := trivial

end Sys2Proof
end

