-- ==== Sys2Proof/Laws/State.lean ====
section
/-! SUPPORT. What the named updates of the state leave in every field of it: one lemma for each, so that no proof unfolds a
record update. -/

namespace Sys2Proof.Machine

/-! ### Mach.setCtx -/

@[simp] theorem Mach.setCtx_t (m : Mach) (c : Nat) (f : Ctx → Ctx) : (m.setCtx c f).t = m.t := rfl
@[simp] theorem Mach.setCtx_others (m : Mach) (c : Nat) (f : Ctx → Ctx) : (m.setCtx c f).others = m.others := rfl
@[simp] theorem Mach.setCtx_cycle (m : Mach) (c : Nat) (f : Ctx → Ctx) : (m.setCtx c f).cycle = m.cycle := rfl
@[simp] theorem Mach.setCtx_mem (m : Mach) (c : Nat) (f : Ctx → Ctx) : (m.setCtx c f).mem = m.mem := rfl
@[simp] theorem Mach.setCtx_front (m : Mach) (c : Nat) (f : Ctx → Ctx) : (m.setCtx c f).front = m.front := rfl
@[simp] theorem Mach.setCtx_fe (m : Mach) (c : Nat) (f : Ctx → Ctx) : (m.setCtx c f).fe = m.fe := rfl
@[simp] theorem Mach.setCtx_windows (m : Mach) (c : Nat) (f : Ctx → Ctx) : (m.setCtx c f).windows = m.windows := rfl
@[simp] theorem Mach.setCtx_tlb (m : Mach) (c : Nat) (f : Ctx → Ctx) : (m.setCtx c f).tlb = m.tlb := rfl
@[simp] theorem Mach.setCtx_dtlb (m : Mach) (c : Nat) (f : Ctx → Ctx) : (m.setCtx c f).dtlb = m.dtlb := rfl
@[simp] theorem Mach.setCtx_weak (m : Mach) (c : Nat) (f : Ctx → Ctx) : (m.setCtx c f).weak = m.weak := rfl
@[simp] theorem Mach.setCtx_reqs (m : Mach) (c : Nat) (f : Ctx → Ctx) : (m.setCtx c f).reqs = m.reqs := rfl
@[simp] theorem Mach.setCtx_codeOld (m : Mach) (c : Nat) (f : Ctx → Ctx) : (m.setCtx c f).codeOld = m.codeOld := rfl
@[simp] theorem Mach.setCtx_faults (m : Mach) (c : Nat) (f : Ctx → Ctx) : (m.setCtx c f).faults = m.faults := rfl
@[simp] theorem Mach.setCtx_gbars (m : Mach) (c : Nat) (f : Ctx → Ctx) : (m.setCtx c f).gbars = m.gbars := rfl
@[simp] theorem Mach.setCtx_rcache (m : Mach) (c : Nat) (f : Ctx → Ctx) : (m.setCtx c f).rcache = m.rcache := rfl
@[simp] theorem Mach.setCtx_icache (m : Mach) (c : Nat) (f : Ctx → Ctx) : (m.setCtx c f).icache = m.icache := rfl
@[simp] theorem Mach.setCtx_objects (m : Mach) (c : Nat) (f : Ctx → Ctx) : (m.setCtx c f).objects = m.objects := rfl
@[simp] theorem Mach.setCtx_ctxs (m : Mach) (c : Nat) (f : Ctx → Ctx) : (m.setCtx c f).ctxs = Tab.upd {} m.ctxs c f := rfl
@[simp] theorem Mach.setCtx_parts (m : Mach) (c : Nat) (f : Ctx → Ctx) : (m.setCtx c f).parts = m.parts := rfl
@[simp] theorem Mach.setCtx_chans (m : Mach) (c : Nat) (f : Ctx → Ctx) : (m.setCtx c f).chans = m.chans := rfl
@[simp] theorem Mach.setCtx_matrix (m : Mach) (c : Nat) (f : Ctx → Ctx) : (m.setCtx c f).matrix = m.matrix := rfl
@[simp] theorem Mach.setCtx_engines (m : Mach) (c : Nat) (f : Ctx → Ctx) : (m.setCtx c f).engines = m.engines := rfl
@[simp] theorem Mach.setCtx_nodes (m : Mach) (c : Nat) (f : Ctx → Ctx) : (m.setCtx c f).nodes = m.nodes := rfl
@[simp] theorem Mach.setCtx_colls (m : Mach) (c : Nat) (f : Ctx → Ctx) : (m.setCtx c f).colls = m.colls := rfl
@[simp] theorem Mach.setCtx_done (m : Mach) (c : Nat) (f : Ctx → Ctx) : (m.setCtx c f).done = m.done := rfl
@[simp] theorem Mach.setCtx_ext (m : Mach) (c : Nat) (f : Ctx → Ctx) : (m.setCtx c f).ext = m.ext := rfl
@[simp] theorem Mach.setCtx_portsUp (m : Mach) (c : Nat) (f : Ctx → Ctx) : (m.setCtx c f).portsUp = m.portsUp := rfl
@[simp] theorem Mach.setCtx_portsTrain (m : Mach) (c : Nat) (f : Ctx → Ctx) : (m.setCtx c f).portsTrain = m.portsTrain := rfl
@[simp] theorem Mach.setCtx_imports (m : Mach) (c : Nat) (f : Ctx → Ctx) : (m.setCtx c f).imports = m.imports := rfl
@[simp] theorem Mach.setCtx_rootsUp (m : Mach) (c : Nat) (f : Ctx → Ctx) : (m.setCtx c f).rootsUp = m.rootsUp := rfl
@[simp] theorem Mach.setCtx_errs (m : Mach) (c : Nat) (f : Ctx → Ctx) : (m.setCtx c f).errs = m.errs := rfl
@[simp] theorem Mach.setCtx_irqs (m : Mach) (c : Nat) (f : Ctx → Ctx) : (m.setCtx c f).irqs = m.irqs := rfl
@[simp] theorem Mach.setCtx_order (m : Mach) (c : Nat) (f : Ctx → Ctx) : (m.setCtx c f).order = m.order := rfl
@[simp] theorem Mach.setCtx_free (m : Mach) (c : Nat) (f : Ctx → Ctx) : (m.setCtx c f).free = m.free := rfl

/-! ### Mach.setSilt -/

@[simp] theorem Mach.setSilt_t (m : Mach) (c : Nat) (f : Silt → Silt) : (m.setSilt c f).t = m.t := rfl
@[simp] theorem Mach.setSilt_others (m : Mach) (c : Nat) (f : Silt → Silt) : (m.setSilt c f).others = m.others := rfl
@[simp] theorem Mach.setSilt_cycle (m : Mach) (c : Nat) (f : Silt → Silt) : (m.setSilt c f).cycle = m.cycle := rfl
@[simp] theorem Mach.setSilt_mem (m : Mach) (c : Nat) (f : Silt → Silt) : (m.setSilt c f).mem = m.mem := rfl
@[simp] theorem Mach.setSilt_front (m : Mach) (c : Nat) (f : Silt → Silt) : (m.setSilt c f).front = m.front := rfl
@[simp] theorem Mach.setSilt_fe (m : Mach) (c : Nat) (f : Silt → Silt) : (m.setSilt c f).fe = m.fe := rfl
@[simp] theorem Mach.setSilt_windows (m : Mach) (c : Nat) (f : Silt → Silt) : (m.setSilt c f).windows = m.windows := rfl
@[simp] theorem Mach.setSilt_tlb (m : Mach) (c : Nat) (f : Silt → Silt) : (m.setSilt c f).tlb = m.tlb := rfl
@[simp] theorem Mach.setSilt_dtlb (m : Mach) (c : Nat) (f : Silt → Silt) : (m.setSilt c f).dtlb = m.dtlb := rfl
@[simp] theorem Mach.setSilt_weak (m : Mach) (c : Nat) (f : Silt → Silt) : (m.setSilt c f).weak = m.weak := rfl
@[simp] theorem Mach.setSilt_reqs (m : Mach) (c : Nat) (f : Silt → Silt) : (m.setSilt c f).reqs = m.reqs := rfl
@[simp] theorem Mach.setSilt_codeOld (m : Mach) (c : Nat) (f : Silt → Silt) : (m.setSilt c f).codeOld = m.codeOld := rfl
@[simp] theorem Mach.setSilt_faults (m : Mach) (c : Nat) (f : Silt → Silt) : (m.setSilt c f).faults = m.faults := rfl
@[simp] theorem Mach.setSilt_gbars (m : Mach) (c : Nat) (f : Silt → Silt) : (m.setSilt c f).gbars = m.gbars := rfl
@[simp] theorem Mach.setSilt_rcache (m : Mach) (c : Nat) (f : Silt → Silt) : (m.setSilt c f).rcache = m.rcache := rfl
@[simp] theorem Mach.setSilt_icache (m : Mach) (c : Nat) (f : Silt → Silt) : (m.setSilt c f).icache = m.icache := rfl
@[simp] theorem Mach.setSilt_objects (m : Mach) (c : Nat) (f : Silt → Silt) : (m.setSilt c f).objects = m.objects := rfl
@[simp] theorem Mach.setSilt_ctxs (m : Mach) (c : Nat) (f : Silt → Silt) : (m.setSilt c f).ctxs = Tab.upd {} m.ctxs c fun x => { x with silt := f x.silt } := rfl
@[simp] theorem Mach.setSilt_parts (m : Mach) (c : Nat) (f : Silt → Silt) : (m.setSilt c f).parts = m.parts := rfl
@[simp] theorem Mach.setSilt_chans (m : Mach) (c : Nat) (f : Silt → Silt) : (m.setSilt c f).chans = m.chans := rfl
@[simp] theorem Mach.setSilt_matrix (m : Mach) (c : Nat) (f : Silt → Silt) : (m.setSilt c f).matrix = m.matrix := rfl
@[simp] theorem Mach.setSilt_engines (m : Mach) (c : Nat) (f : Silt → Silt) : (m.setSilt c f).engines = m.engines := rfl
@[simp] theorem Mach.setSilt_nodes (m : Mach) (c : Nat) (f : Silt → Silt) : (m.setSilt c f).nodes = m.nodes := rfl
@[simp] theorem Mach.setSilt_colls (m : Mach) (c : Nat) (f : Silt → Silt) : (m.setSilt c f).colls = m.colls := rfl
@[simp] theorem Mach.setSilt_done (m : Mach) (c : Nat) (f : Silt → Silt) : (m.setSilt c f).done = m.done := rfl
@[simp] theorem Mach.setSilt_ext (m : Mach) (c : Nat) (f : Silt → Silt) : (m.setSilt c f).ext = m.ext := rfl
@[simp] theorem Mach.setSilt_portsUp (m : Mach) (c : Nat) (f : Silt → Silt) : (m.setSilt c f).portsUp = m.portsUp := rfl
@[simp] theorem Mach.setSilt_portsTrain (m : Mach) (c : Nat) (f : Silt → Silt) : (m.setSilt c f).portsTrain = m.portsTrain := rfl
@[simp] theorem Mach.setSilt_imports (m : Mach) (c : Nat) (f : Silt → Silt) : (m.setSilt c f).imports = m.imports := rfl
@[simp] theorem Mach.setSilt_rootsUp (m : Mach) (c : Nat) (f : Silt → Silt) : (m.setSilt c f).rootsUp = m.rootsUp := rfl
@[simp] theorem Mach.setSilt_errs (m : Mach) (c : Nat) (f : Silt → Silt) : (m.setSilt c f).errs = m.errs := rfl
@[simp] theorem Mach.setSilt_irqs (m : Mach) (c : Nat) (f : Silt → Silt) : (m.setSilt c f).irqs = m.irqs := rfl
@[simp] theorem Mach.setSilt_order (m : Mach) (c : Nat) (f : Silt → Silt) : (m.setSilt c f).order = m.order := rfl
@[simp] theorem Mach.setSilt_free (m : Mach) (c : Nat) (f : Silt → Silt) : (m.setSilt c f).free = m.free := rfl

/-! ### Mach.raiseLine -/

@[simp] theorem Mach.raiseLine_t (m : Mach) (c : Nat) (dbg : Bool) (o : Option Gid) : (m.raiseLine c dbg o).t = m.t := rfl
@[simp] theorem Mach.raiseLine_others (m : Mach) (c : Nat) (dbg : Bool) (o : Option Gid) : (m.raiseLine c dbg o).others = m.others := rfl
@[simp] theorem Mach.raiseLine_cycle (m : Mach) (c : Nat) (dbg : Bool) (o : Option Gid) : (m.raiseLine c dbg o).cycle = m.cycle := rfl
@[simp] theorem Mach.raiseLine_mem (m : Mach) (c : Nat) (dbg : Bool) (o : Option Gid) : (m.raiseLine c dbg o).mem = m.mem := rfl
@[simp] theorem Mach.raiseLine_front (m : Mach) (c : Nat) (dbg : Bool) (o : Option Gid) : (m.raiseLine c dbg o).front = m.front := rfl
@[simp] theorem Mach.raiseLine_fe (m : Mach) (c : Nat) (dbg : Bool) (o : Option Gid) : (m.raiseLine c dbg o).fe = m.fe := rfl
@[simp] theorem Mach.raiseLine_windows (m : Mach) (c : Nat) (dbg : Bool) (o : Option Gid) : (m.raiseLine c dbg o).windows = m.windows := rfl
@[simp] theorem Mach.raiseLine_tlb (m : Mach) (c : Nat) (dbg : Bool) (o : Option Gid) : (m.raiseLine c dbg o).tlb = m.tlb := rfl
@[simp] theorem Mach.raiseLine_dtlb (m : Mach) (c : Nat) (dbg : Bool) (o : Option Gid) : (m.raiseLine c dbg o).dtlb = m.dtlb := rfl
@[simp] theorem Mach.raiseLine_weak (m : Mach) (c : Nat) (dbg : Bool) (o : Option Gid) : (m.raiseLine c dbg o).weak = m.weak := rfl
@[simp] theorem Mach.raiseLine_reqs (m : Mach) (c : Nat) (dbg : Bool) (o : Option Gid) : (m.raiseLine c dbg o).reqs = m.reqs := rfl
@[simp] theorem Mach.raiseLine_codeOld (m : Mach) (c : Nat) (dbg : Bool) (o : Option Gid) : (m.raiseLine c dbg o).codeOld = m.codeOld := rfl
@[simp] theorem Mach.raiseLine_faults (m : Mach) (c : Nat) (dbg : Bool) (o : Option Gid) : (m.raiseLine c dbg o).faults = m.faults := rfl
@[simp] theorem Mach.raiseLine_gbars (m : Mach) (c : Nat) (dbg : Bool) (o : Option Gid) : (m.raiseLine c dbg o).gbars = m.gbars := rfl
@[simp] theorem Mach.raiseLine_rcache (m : Mach) (c : Nat) (dbg : Bool) (o : Option Gid) : (m.raiseLine c dbg o).rcache = m.rcache := rfl
@[simp] theorem Mach.raiseLine_icache (m : Mach) (c : Nat) (dbg : Bool) (o : Option Gid) : (m.raiseLine c dbg o).icache = m.icache := rfl
@[simp] theorem Mach.raiseLine_objects (m : Mach) (c : Nat) (dbg : Bool) (o : Option Gid) : (m.raiseLine c dbg o).objects = m.objects := rfl
@[simp] theorem Mach.raiseLine_parts (m : Mach) (c : Nat) (dbg : Bool) (o : Option Gid) : (m.raiseLine c dbg o).parts = m.parts := rfl
@[simp] theorem Mach.raiseLine_chans (m : Mach) (c : Nat) (dbg : Bool) (o : Option Gid) : (m.raiseLine c dbg o).chans = m.chans := rfl
@[simp] theorem Mach.raiseLine_matrix (m : Mach) (c : Nat) (dbg : Bool) (o : Option Gid) : (m.raiseLine c dbg o).matrix = m.matrix := rfl
@[simp] theorem Mach.raiseLine_engines (m : Mach) (c : Nat) (dbg : Bool) (o : Option Gid) : (m.raiseLine c dbg o).engines = m.engines := rfl
@[simp] theorem Mach.raiseLine_nodes (m : Mach) (c : Nat) (dbg : Bool) (o : Option Gid) : (m.raiseLine c dbg o).nodes = m.nodes := rfl
@[simp] theorem Mach.raiseLine_colls (m : Mach) (c : Nat) (dbg : Bool) (o : Option Gid) : (m.raiseLine c dbg o).colls = m.colls := rfl
@[simp] theorem Mach.raiseLine_done (m : Mach) (c : Nat) (dbg : Bool) (o : Option Gid) : (m.raiseLine c dbg o).done = m.done := rfl
@[simp] theorem Mach.raiseLine_ext (m : Mach) (c : Nat) (dbg : Bool) (o : Option Gid) : (m.raiseLine c dbg o).ext = m.ext := rfl
@[simp] theorem Mach.raiseLine_portsUp (m : Mach) (c : Nat) (dbg : Bool) (o : Option Gid) : (m.raiseLine c dbg o).portsUp = m.portsUp := rfl
@[simp] theorem Mach.raiseLine_portsTrain (m : Mach) (c : Nat) (dbg : Bool) (o : Option Gid) : (m.raiseLine c dbg o).portsTrain = m.portsTrain := rfl
@[simp] theorem Mach.raiseLine_imports (m : Mach) (c : Nat) (dbg : Bool) (o : Option Gid) : (m.raiseLine c dbg o).imports = m.imports := rfl
@[simp] theorem Mach.raiseLine_rootsUp (m : Mach) (c : Nat) (dbg : Bool) (o : Option Gid) : (m.raiseLine c dbg o).rootsUp = m.rootsUp := rfl
@[simp] theorem Mach.raiseLine_errs (m : Mach) (c : Nat) (dbg : Bool) (o : Option Gid) : (m.raiseLine c dbg o).errs = m.errs := rfl
@[simp] theorem Mach.raiseLine_irqs (m : Mach) (c : Nat) (dbg : Bool) (o : Option Gid) : (m.raiseLine c dbg o).irqs = m.irqs := rfl
@[simp] theorem Mach.raiseLine_order (m : Mach) (c : Nat) (dbg : Bool) (o : Option Gid) : (m.raiseLine c dbg o).order = m.order := rfl
@[simp] theorem Mach.raiseLine_free (m : Mach) (c : Nat) (dbg : Bool) (o : Option Gid) : (m.raiseLine c dbg o).free = m.free := rfl

/-! ### Mach.haltError -/

@[simp] theorem Mach.haltError_t (m : Mach) (c : Nat) (r : ErrRec) : (m.haltError c r).t = m.t := rfl
@[simp] theorem Mach.haltError_others (m : Mach) (c : Nat) (r : ErrRec) : (m.haltError c r).others = m.others := rfl
@[simp] theorem Mach.haltError_cycle (m : Mach) (c : Nat) (r : ErrRec) : (m.haltError c r).cycle = m.cycle := rfl
@[simp] theorem Mach.haltError_mem (m : Mach) (c : Nat) (r : ErrRec) : (m.haltError c r).mem = m.mem := rfl
@[simp] theorem Mach.haltError_front (m : Mach) (c : Nat) (r : ErrRec) : (m.haltError c r).front = m.front := rfl
@[simp] theorem Mach.haltError_fe (m : Mach) (c : Nat) (r : ErrRec) : (m.haltError c r).fe = m.fe := rfl
@[simp] theorem Mach.haltError_windows (m : Mach) (c : Nat) (r : ErrRec) : (m.haltError c r).windows = m.windows := rfl
@[simp] theorem Mach.haltError_tlb (m : Mach) (c : Nat) (r : ErrRec) : (m.haltError c r).tlb = m.tlb := rfl
@[simp] theorem Mach.haltError_dtlb (m : Mach) (c : Nat) (r : ErrRec) : (m.haltError c r).dtlb = m.dtlb := rfl
@[simp] theorem Mach.haltError_weak (m : Mach) (c : Nat) (r : ErrRec) : (m.haltError c r).weak = m.weak := rfl
@[simp] theorem Mach.haltError_reqs (m : Mach) (c : Nat) (r : ErrRec) : (m.haltError c r).reqs = m.reqs := rfl
@[simp] theorem Mach.haltError_codeOld (m : Mach) (c : Nat) (r : ErrRec) : (m.haltError c r).codeOld = m.codeOld := rfl
@[simp] theorem Mach.haltError_faults (m : Mach) (c : Nat) (r : ErrRec) : (m.haltError c r).faults = m.faults := rfl
@[simp] theorem Mach.haltError_gbars (m : Mach) (c : Nat) (r : ErrRec) : (m.haltError c r).gbars = m.gbars := rfl
@[simp] theorem Mach.haltError_rcache (m : Mach) (c : Nat) (r : ErrRec) : (m.haltError c r).rcache = m.rcache := rfl
@[simp] theorem Mach.haltError_icache (m : Mach) (c : Nat) (r : ErrRec) : (m.haltError c r).icache = m.icache := rfl
@[simp] theorem Mach.haltError_objects (m : Mach) (c : Nat) (r : ErrRec) : (m.haltError c r).objects = m.objects := rfl
@[simp] theorem Mach.haltError_parts (m : Mach) (c : Nat) (r : ErrRec) : (m.haltError c r).parts = m.parts := rfl
@[simp] theorem Mach.haltError_chans (m : Mach) (c : Nat) (r : ErrRec) : (m.haltError c r).chans = m.chans := rfl
@[simp] theorem Mach.haltError_matrix (m : Mach) (c : Nat) (r : ErrRec) : (m.haltError c r).matrix = m.matrix := rfl
@[simp] theorem Mach.haltError_engines (m : Mach) (c : Nat) (r : ErrRec) : (m.haltError c r).engines = m.engines := rfl
@[simp] theorem Mach.haltError_nodes (m : Mach) (c : Nat) (r : ErrRec) : (m.haltError c r).nodes = m.nodes := rfl
@[simp] theorem Mach.haltError_colls (m : Mach) (c : Nat) (r : ErrRec) : (m.haltError c r).colls = m.colls := rfl
@[simp] theorem Mach.haltError_done (m : Mach) (c : Nat) (r : ErrRec) : (m.haltError c r).done = m.done := rfl
@[simp] theorem Mach.haltError_ext (m : Mach) (c : Nat) (r : ErrRec) : (m.haltError c r).ext = m.ext := rfl
@[simp] theorem Mach.haltError_portsUp (m : Mach) (c : Nat) (r : ErrRec) : (m.haltError c r).portsUp = m.portsUp := rfl
@[simp] theorem Mach.haltError_portsTrain (m : Mach) (c : Nat) (r : ErrRec) : (m.haltError c r).portsTrain = m.portsTrain := rfl
@[simp] theorem Mach.haltError_imports (m : Mach) (c : Nat) (r : ErrRec) : (m.haltError c r).imports = m.imports := rfl
@[simp] theorem Mach.haltError_rootsUp (m : Mach) (c : Nat) (r : ErrRec) : (m.haltError c r).rootsUp = m.rootsUp := rfl
@[simp] theorem Mach.haltError_errs (m : Mach) (c : Nat) (r : ErrRec) : (m.haltError c r).errs = m.errs := rfl
@[simp] theorem Mach.haltError_irqs (m : Mach) (c : Nat) (r : ErrRec) : (m.haltError c r).irqs = m.irqs := rfl
@[simp] theorem Mach.haltError_order (m : Mach) (c : Nat) (r : ErrRec) : (m.haltError c r).order = m.order := rfl
@[simp] theorem Mach.haltError_free (m : Mach) (c : Nat) (r : ErrRec) : (m.haltError c r).free = m.free := rfl

/-! ### Mach.addStop -/

@[simp] theorem Mach.addStop_t (m : Mach) (c : Nat) (q : StopRec) : (m.addStop c q).t = m.t := rfl
@[simp] theorem Mach.addStop_others (m : Mach) (c : Nat) (q : StopRec) : (m.addStop c q).others = m.others := rfl
@[simp] theorem Mach.addStop_cycle (m : Mach) (c : Nat) (q : StopRec) : (m.addStop c q).cycle = m.cycle := rfl
@[simp] theorem Mach.addStop_mem (m : Mach) (c : Nat) (q : StopRec) : (m.addStop c q).mem = m.mem := rfl
@[simp] theorem Mach.addStop_front (m : Mach) (c : Nat) (q : StopRec) : (m.addStop c q).front = m.front := rfl
@[simp] theorem Mach.addStop_fe (m : Mach) (c : Nat) (q : StopRec) : (m.addStop c q).fe = m.fe := rfl
@[simp] theorem Mach.addStop_windows (m : Mach) (c : Nat) (q : StopRec) : (m.addStop c q).windows = m.windows := rfl
@[simp] theorem Mach.addStop_tlb (m : Mach) (c : Nat) (q : StopRec) : (m.addStop c q).tlb = m.tlb := rfl
@[simp] theorem Mach.addStop_dtlb (m : Mach) (c : Nat) (q : StopRec) : (m.addStop c q).dtlb = m.dtlb := rfl
@[simp] theorem Mach.addStop_weak (m : Mach) (c : Nat) (q : StopRec) : (m.addStop c q).weak = m.weak := rfl
@[simp] theorem Mach.addStop_reqs (m : Mach) (c : Nat) (q : StopRec) : (m.addStop c q).reqs = m.reqs := rfl
@[simp] theorem Mach.addStop_codeOld (m : Mach) (c : Nat) (q : StopRec) : (m.addStop c q).codeOld = m.codeOld := rfl
@[simp] theorem Mach.addStop_faults (m : Mach) (c : Nat) (q : StopRec) : (m.addStop c q).faults = m.faults := rfl
@[simp] theorem Mach.addStop_gbars (m : Mach) (c : Nat) (q : StopRec) : (m.addStop c q).gbars = m.gbars := rfl
@[simp] theorem Mach.addStop_rcache (m : Mach) (c : Nat) (q : StopRec) : (m.addStop c q).rcache = m.rcache := rfl
@[simp] theorem Mach.addStop_icache (m : Mach) (c : Nat) (q : StopRec) : (m.addStop c q).icache = m.icache := rfl
@[simp] theorem Mach.addStop_objects (m : Mach) (c : Nat) (q : StopRec) : (m.addStop c q).objects = m.objects := rfl
@[simp] theorem Mach.addStop_parts (m : Mach) (c : Nat) (q : StopRec) : (m.addStop c q).parts = m.parts := rfl
@[simp] theorem Mach.addStop_chans (m : Mach) (c : Nat) (q : StopRec) : (m.addStop c q).chans = m.chans := rfl
@[simp] theorem Mach.addStop_matrix (m : Mach) (c : Nat) (q : StopRec) : (m.addStop c q).matrix = m.matrix := rfl
@[simp] theorem Mach.addStop_engines (m : Mach) (c : Nat) (q : StopRec) : (m.addStop c q).engines = m.engines := rfl
@[simp] theorem Mach.addStop_nodes (m : Mach) (c : Nat) (q : StopRec) : (m.addStop c q).nodes = m.nodes := rfl
@[simp] theorem Mach.addStop_colls (m : Mach) (c : Nat) (q : StopRec) : (m.addStop c q).colls = m.colls := rfl
@[simp] theorem Mach.addStop_done (m : Mach) (c : Nat) (q : StopRec) : (m.addStop c q).done = m.done := rfl
@[simp] theorem Mach.addStop_ext (m : Mach) (c : Nat) (q : StopRec) : (m.addStop c q).ext = m.ext := rfl
@[simp] theorem Mach.addStop_portsUp (m : Mach) (c : Nat) (q : StopRec) : (m.addStop c q).portsUp = m.portsUp := rfl
@[simp] theorem Mach.addStop_portsTrain (m : Mach) (c : Nat) (q : StopRec) : (m.addStop c q).portsTrain = m.portsTrain := rfl
@[simp] theorem Mach.addStop_imports (m : Mach) (c : Nat) (q : StopRec) : (m.addStop c q).imports = m.imports := rfl
@[simp] theorem Mach.addStop_rootsUp (m : Mach) (c : Nat) (q : StopRec) : (m.addStop c q).rootsUp = m.rootsUp := rfl
@[simp] theorem Mach.addStop_errs (m : Mach) (c : Nat) (q : StopRec) : (m.addStop c q).errs = m.errs := rfl
@[simp] theorem Mach.addStop_irqs (m : Mach) (c : Nat) (q : StopRec) : (m.addStop c q).irqs = m.irqs := rfl
@[simp] theorem Mach.addStop_order (m : Mach) (c : Nat) (q : StopRec) : (m.addStop c q).order = m.order := rfl
@[simp] theorem Mach.addStop_free (m : Mach) (c : Nat) (q : StopRec) : (m.addStop c q).free = m.free := rfl

/-! ### Mach.updRec -/

@[simp] theorem Mach.updRec_t (m : Mach) (c r : Nat) (f : PoolRec → PoolRec) : (m.updRec c r f).t = m.t := rfl
@[simp] theorem Mach.updRec_others (m : Mach) (c r : Nat) (f : PoolRec → PoolRec) : (m.updRec c r f).others = m.others := rfl
@[simp] theorem Mach.updRec_cycle (m : Mach) (c r : Nat) (f : PoolRec → PoolRec) : (m.updRec c r f).cycle = m.cycle := rfl
@[simp] theorem Mach.updRec_mem (m : Mach) (c r : Nat) (f : PoolRec → PoolRec) : (m.updRec c r f).mem = m.mem := rfl
@[simp] theorem Mach.updRec_front (m : Mach) (c r : Nat) (f : PoolRec → PoolRec) : (m.updRec c r f).front = m.front := rfl
@[simp] theorem Mach.updRec_fe (m : Mach) (c r : Nat) (f : PoolRec → PoolRec) : (m.updRec c r f).fe = m.fe := rfl
@[simp] theorem Mach.updRec_windows (m : Mach) (c r : Nat) (f : PoolRec → PoolRec) : (m.updRec c r f).windows = m.windows := rfl
@[simp] theorem Mach.updRec_tlb (m : Mach) (c r : Nat) (f : PoolRec → PoolRec) : (m.updRec c r f).tlb = m.tlb := rfl
@[simp] theorem Mach.updRec_dtlb (m : Mach) (c r : Nat) (f : PoolRec → PoolRec) : (m.updRec c r f).dtlb = m.dtlb := rfl
@[simp] theorem Mach.updRec_weak (m : Mach) (c r : Nat) (f : PoolRec → PoolRec) : (m.updRec c r f).weak = m.weak := rfl
@[simp] theorem Mach.updRec_reqs (m : Mach) (c r : Nat) (f : PoolRec → PoolRec) : (m.updRec c r f).reqs = m.reqs := rfl
@[simp] theorem Mach.updRec_codeOld (m : Mach) (c r : Nat) (f : PoolRec → PoolRec) : (m.updRec c r f).codeOld = m.codeOld := rfl
@[simp] theorem Mach.updRec_faults (m : Mach) (c r : Nat) (f : PoolRec → PoolRec) : (m.updRec c r f).faults = m.faults := rfl
@[simp] theorem Mach.updRec_gbars (m : Mach) (c r : Nat) (f : PoolRec → PoolRec) : (m.updRec c r f).gbars = m.gbars := rfl
@[simp] theorem Mach.updRec_rcache (m : Mach) (c r : Nat) (f : PoolRec → PoolRec) : (m.updRec c r f).rcache = m.rcache := rfl
@[simp] theorem Mach.updRec_icache (m : Mach) (c r : Nat) (f : PoolRec → PoolRec) : (m.updRec c r f).icache = m.icache := rfl
@[simp] theorem Mach.updRec_objects (m : Mach) (c r : Nat) (f : PoolRec → PoolRec) : (m.updRec c r f).objects = m.objects := rfl
@[simp] theorem Mach.updRec_ctxs (m : Mach) (c r : Nat) (f : PoolRec → PoolRec) : (m.updRec c r f).ctxs = Tab.upd {} m.ctxs c fun x => { x with pool := Tab.upd {} x.pool r f } := rfl
@[simp] theorem Mach.updRec_parts (m : Mach) (c r : Nat) (f : PoolRec → PoolRec) : (m.updRec c r f).parts = m.parts := rfl
@[simp] theorem Mach.updRec_chans (m : Mach) (c r : Nat) (f : PoolRec → PoolRec) : (m.updRec c r f).chans = m.chans := rfl
@[simp] theorem Mach.updRec_matrix (m : Mach) (c r : Nat) (f : PoolRec → PoolRec) : (m.updRec c r f).matrix = m.matrix := rfl
@[simp] theorem Mach.updRec_engines (m : Mach) (c r : Nat) (f : PoolRec → PoolRec) : (m.updRec c r f).engines = m.engines := rfl
@[simp] theorem Mach.updRec_nodes (m : Mach) (c r : Nat) (f : PoolRec → PoolRec) : (m.updRec c r f).nodes = m.nodes := rfl
@[simp] theorem Mach.updRec_colls (m : Mach) (c r : Nat) (f : PoolRec → PoolRec) : (m.updRec c r f).colls = m.colls := rfl
@[simp] theorem Mach.updRec_done (m : Mach) (c r : Nat) (f : PoolRec → PoolRec) : (m.updRec c r f).done = m.done := rfl
@[simp] theorem Mach.updRec_ext (m : Mach) (c r : Nat) (f : PoolRec → PoolRec) : (m.updRec c r f).ext = m.ext := rfl
@[simp] theorem Mach.updRec_portsUp (m : Mach) (c r : Nat) (f : PoolRec → PoolRec) : (m.updRec c r f).portsUp = m.portsUp := rfl
@[simp] theorem Mach.updRec_portsTrain (m : Mach) (c r : Nat) (f : PoolRec → PoolRec) : (m.updRec c r f).portsTrain = m.portsTrain := rfl
@[simp] theorem Mach.updRec_imports (m : Mach) (c r : Nat) (f : PoolRec → PoolRec) : (m.updRec c r f).imports = m.imports := rfl
@[simp] theorem Mach.updRec_rootsUp (m : Mach) (c r : Nat) (f : PoolRec → PoolRec) : (m.updRec c r f).rootsUp = m.rootsUp := rfl
@[simp] theorem Mach.updRec_errs (m : Mach) (c r : Nat) (f : PoolRec → PoolRec) : (m.updRec c r f).errs = m.errs := rfl
@[simp] theorem Mach.updRec_irqs (m : Mach) (c r : Nat) (f : PoolRec → PoolRec) : (m.updRec c r f).irqs = m.irqs := rfl
@[simp] theorem Mach.updRec_order (m : Mach) (c r : Nat) (f : PoolRec → PoolRec) : (m.updRec c r f).order = m.order := rfl
@[simp] theorem Mach.updRec_free (m : Mach) (c r : Nat) (f : PoolRec → PoolRec) : (m.updRec c r f).free = m.free := rfl

/-! ### Mach.updEntry -/

@[simp] theorem Mach.updEntry_t (m : Mach) (c i : Nat) (f : Entry → Entry) : (m.updEntry c i f).t = m.t := rfl
@[simp] theorem Mach.updEntry_others (m : Mach) (c i : Nat) (f : Entry → Entry) : (m.updEntry c i f).others = m.others := rfl
@[simp] theorem Mach.updEntry_cycle (m : Mach) (c i : Nat) (f : Entry → Entry) : (m.updEntry c i f).cycle = m.cycle := rfl
@[simp] theorem Mach.updEntry_mem (m : Mach) (c i : Nat) (f : Entry → Entry) : (m.updEntry c i f).mem = m.mem := rfl
@[simp] theorem Mach.updEntry_front (m : Mach) (c i : Nat) (f : Entry → Entry) : (m.updEntry c i f).front = m.front := rfl
@[simp] theorem Mach.updEntry_fe (m : Mach) (c i : Nat) (f : Entry → Entry) : (m.updEntry c i f).fe = m.fe := rfl
@[simp] theorem Mach.updEntry_windows (m : Mach) (c i : Nat) (f : Entry → Entry) : (m.updEntry c i f).windows = m.windows := rfl
@[simp] theorem Mach.updEntry_tlb (m : Mach) (c i : Nat) (f : Entry → Entry) : (m.updEntry c i f).tlb = m.tlb := rfl
@[simp] theorem Mach.updEntry_dtlb (m : Mach) (c i : Nat) (f : Entry → Entry) : (m.updEntry c i f).dtlb = m.dtlb := rfl
@[simp] theorem Mach.updEntry_weak (m : Mach) (c i : Nat) (f : Entry → Entry) : (m.updEntry c i f).weak = m.weak := rfl
@[simp] theorem Mach.updEntry_reqs (m : Mach) (c i : Nat) (f : Entry → Entry) : (m.updEntry c i f).reqs = m.reqs := rfl
@[simp] theorem Mach.updEntry_codeOld (m : Mach) (c i : Nat) (f : Entry → Entry) : (m.updEntry c i f).codeOld = m.codeOld := rfl
@[simp] theorem Mach.updEntry_faults (m : Mach) (c i : Nat) (f : Entry → Entry) : (m.updEntry c i f).faults = m.faults := rfl
@[simp] theorem Mach.updEntry_gbars (m : Mach) (c i : Nat) (f : Entry → Entry) : (m.updEntry c i f).gbars = m.gbars := rfl
@[simp] theorem Mach.updEntry_rcache (m : Mach) (c i : Nat) (f : Entry → Entry) : (m.updEntry c i f).rcache = m.rcache := rfl
@[simp] theorem Mach.updEntry_icache (m : Mach) (c i : Nat) (f : Entry → Entry) : (m.updEntry c i f).icache = m.icache := rfl
@[simp] theorem Mach.updEntry_objects (m : Mach) (c i : Nat) (f : Entry → Entry) : (m.updEntry c i f).objects = m.objects := rfl
@[simp] theorem Mach.updEntry_parts (m : Mach) (c i : Nat) (f : Entry → Entry) : (m.updEntry c i f).parts = m.parts := rfl
@[simp] theorem Mach.updEntry_chans (m : Mach) (c i : Nat) (f : Entry → Entry) : (m.updEntry c i f).chans = m.chans := rfl
@[simp] theorem Mach.updEntry_matrix (m : Mach) (c i : Nat) (f : Entry → Entry) : (m.updEntry c i f).matrix = m.matrix := rfl
@[simp] theorem Mach.updEntry_engines (m : Mach) (c i : Nat) (f : Entry → Entry) : (m.updEntry c i f).engines = m.engines := rfl
@[simp] theorem Mach.updEntry_nodes (m : Mach) (c i : Nat) (f : Entry → Entry) : (m.updEntry c i f).nodes = m.nodes := rfl
@[simp] theorem Mach.updEntry_colls (m : Mach) (c i : Nat) (f : Entry → Entry) : (m.updEntry c i f).colls = m.colls := rfl
@[simp] theorem Mach.updEntry_done (m : Mach) (c i : Nat) (f : Entry → Entry) : (m.updEntry c i f).done = m.done := rfl
@[simp] theorem Mach.updEntry_ext (m : Mach) (c i : Nat) (f : Entry → Entry) : (m.updEntry c i f).ext = m.ext := rfl
@[simp] theorem Mach.updEntry_portsUp (m : Mach) (c i : Nat) (f : Entry → Entry) : (m.updEntry c i f).portsUp = m.portsUp := rfl
@[simp] theorem Mach.updEntry_portsTrain (m : Mach) (c i : Nat) (f : Entry → Entry) : (m.updEntry c i f).portsTrain = m.portsTrain := rfl
@[simp] theorem Mach.updEntry_imports (m : Mach) (c i : Nat) (f : Entry → Entry) : (m.updEntry c i f).imports = m.imports := rfl
@[simp] theorem Mach.updEntry_rootsUp (m : Mach) (c i : Nat) (f : Entry → Entry) : (m.updEntry c i f).rootsUp = m.rootsUp := rfl
@[simp] theorem Mach.updEntry_errs (m : Mach) (c i : Nat) (f : Entry → Entry) : (m.updEntry c i f).errs = m.errs := rfl
@[simp] theorem Mach.updEntry_irqs (m : Mach) (c i : Nat) (f : Entry → Entry) : (m.updEntry c i f).irqs = m.irqs := rfl
@[simp] theorem Mach.updEntry_order (m : Mach) (c i : Nat) (f : Entry → Entry) : (m.updEntry c i f).order = m.order := rfl
@[simp] theorem Mach.updEntry_free (m : Mach) (c i : Nat) (f : Entry → Entry) : (m.updEntry c i f).free = m.free := rfl

/-! ### Mach.siltWrite -/

@[simp] theorem Mach.siltWrite_t (m : Mach) (c sp k n p : Nat) (g : Gid) : (m.siltWrite c sp k n p g).t = m.t := by
  unfold Mach.siltWrite; dsimp only; split <;> rfl
@[simp] theorem Mach.siltWrite_others (m : Mach) (c sp k n p : Nat) (g : Gid) : (m.siltWrite c sp k n p g).others = m.others := by
  unfold Mach.siltWrite; dsimp only; split <;> rfl
@[simp] theorem Mach.siltWrite_cycle (m : Mach) (c sp k n p : Nat) (g : Gid) : (m.siltWrite c sp k n p g).cycle = m.cycle := by
  unfold Mach.siltWrite; dsimp only; split <;> rfl
@[simp] theorem Mach.siltWrite_mem (m : Mach) (c sp k n p : Nat) (g : Gid) : (m.siltWrite c sp k n p g).mem = m.mem := by
  unfold Mach.siltWrite; dsimp only; split <;> rfl
@[simp] theorem Mach.siltWrite_front (m : Mach) (c sp k n p : Nat) (g : Gid) : (m.siltWrite c sp k n p g).front = m.front := by
  unfold Mach.siltWrite; dsimp only; split <;> rfl
@[simp] theorem Mach.siltWrite_fe (m : Mach) (c sp k n p : Nat) (g : Gid) : (m.siltWrite c sp k n p g).fe = m.fe := by
  unfold Mach.siltWrite; dsimp only; split <;> rfl
@[simp] theorem Mach.siltWrite_windows (m : Mach) (c sp k n p : Nat) (g : Gid) : (m.siltWrite c sp k n p g).windows = m.windows := by
  unfold Mach.siltWrite; dsimp only; split <;> rfl
@[simp] theorem Mach.siltWrite_tlb (m : Mach) (c sp k n p : Nat) (g : Gid) : (m.siltWrite c sp k n p g).tlb = m.tlb := by
  unfold Mach.siltWrite; dsimp only; split <;> rfl
@[simp] theorem Mach.siltWrite_dtlb (m : Mach) (c sp k n p : Nat) (g : Gid) : (m.siltWrite c sp k n p g).dtlb = m.dtlb := by
  unfold Mach.siltWrite; dsimp only; split <;> rfl
@[simp] theorem Mach.siltWrite_weak (m : Mach) (c sp k n p : Nat) (g : Gid) : (m.siltWrite c sp k n p g).weak = m.weak := by
  unfold Mach.siltWrite; dsimp only; split <;> rfl
@[simp] theorem Mach.siltWrite_reqs (m : Mach) (c sp k n p : Nat) (g : Gid) : (m.siltWrite c sp k n p g).reqs = m.reqs := by
  unfold Mach.siltWrite; dsimp only; split <;> rfl
@[simp] theorem Mach.siltWrite_codeOld (m : Mach) (c sp k n p : Nat) (g : Gid) : (m.siltWrite c sp k n p g).codeOld = m.codeOld := by
  unfold Mach.siltWrite; dsimp only; split <;> rfl
@[simp] theorem Mach.siltWrite_faults (m : Mach) (c sp k n p : Nat) (g : Gid) : (m.siltWrite c sp k n p g).faults = m.faults := by
  unfold Mach.siltWrite; dsimp only; split <;> rfl
@[simp] theorem Mach.siltWrite_gbars (m : Mach) (c sp k n p : Nat) (g : Gid) : (m.siltWrite c sp k n p g).gbars = m.gbars := by
  unfold Mach.siltWrite; dsimp only; split <;> rfl
@[simp] theorem Mach.siltWrite_rcache (m : Mach) (c sp k n p : Nat) (g : Gid) : (m.siltWrite c sp k n p g).rcache = m.rcache := by
  unfold Mach.siltWrite; dsimp only; split <;> rfl
@[simp] theorem Mach.siltWrite_icache (m : Mach) (c sp k n p : Nat) (g : Gid) : (m.siltWrite c sp k n p g).icache = m.icache := by
  unfold Mach.siltWrite; dsimp only; split <;> rfl
@[simp] theorem Mach.siltWrite_objects (m : Mach) (c sp k n p : Nat) (g : Gid) : (m.siltWrite c sp k n p g).objects = m.objects := by
  unfold Mach.siltWrite; dsimp only; split <;> rfl
@[simp] theorem Mach.siltWrite_parts (m : Mach) (c sp k n p : Nat) (g : Gid) : (m.siltWrite c sp k n p g).parts = m.parts := by
  unfold Mach.siltWrite; dsimp only; split <;> rfl
@[simp] theorem Mach.siltWrite_chans (m : Mach) (c sp k n p : Nat) (g : Gid) : (m.siltWrite c sp k n p g).chans = m.chans := by
  unfold Mach.siltWrite; dsimp only; split <;> rfl
@[simp] theorem Mach.siltWrite_matrix (m : Mach) (c sp k n p : Nat) (g : Gid) : (m.siltWrite c sp k n p g).matrix = m.matrix := by
  unfold Mach.siltWrite; dsimp only; split <;> rfl
@[simp] theorem Mach.siltWrite_engines (m : Mach) (c sp k n p : Nat) (g : Gid) : (m.siltWrite c sp k n p g).engines = m.engines := by
  unfold Mach.siltWrite; dsimp only; split <;> rfl
@[simp] theorem Mach.siltWrite_nodes (m : Mach) (c sp k n p : Nat) (g : Gid) : (m.siltWrite c sp k n p g).nodes = m.nodes := by
  unfold Mach.siltWrite; dsimp only; split <;> rfl
@[simp] theorem Mach.siltWrite_colls (m : Mach) (c sp k n p : Nat) (g : Gid) : (m.siltWrite c sp k n p g).colls = m.colls := by
  unfold Mach.siltWrite; dsimp only; split <;> rfl
@[simp] theorem Mach.siltWrite_done (m : Mach) (c sp k n p : Nat) (g : Gid) : (m.siltWrite c sp k n p g).done = m.done := by
  unfold Mach.siltWrite; dsimp only; split <;> rfl
@[simp] theorem Mach.siltWrite_ext (m : Mach) (c sp k n p : Nat) (g : Gid) : (m.siltWrite c sp k n p g).ext = m.ext := by
  unfold Mach.siltWrite; dsimp only; split <;> rfl
@[simp] theorem Mach.siltWrite_portsUp (m : Mach) (c sp k n p : Nat) (g : Gid) : (m.siltWrite c sp k n p g).portsUp = m.portsUp := by
  unfold Mach.siltWrite; dsimp only; split <;> rfl
@[simp] theorem Mach.siltWrite_portsTrain (m : Mach) (c sp k n p : Nat) (g : Gid) : (m.siltWrite c sp k n p g).portsTrain = m.portsTrain := by
  unfold Mach.siltWrite; dsimp only; split <;> rfl
@[simp] theorem Mach.siltWrite_imports (m : Mach) (c sp k n p : Nat) (g : Gid) : (m.siltWrite c sp k n p g).imports = m.imports := by
  unfold Mach.siltWrite; dsimp only; split <;> rfl
@[simp] theorem Mach.siltWrite_rootsUp (m : Mach) (c sp k n p : Nat) (g : Gid) : (m.siltWrite c sp k n p g).rootsUp = m.rootsUp := by
  unfold Mach.siltWrite; dsimp only; split <;> rfl
@[simp] theorem Mach.siltWrite_errs (m : Mach) (c sp k n p : Nat) (g : Gid) : (m.siltWrite c sp k n p g).errs = m.errs := by
  unfold Mach.siltWrite; dsimp only; split <;> rfl
@[simp] theorem Mach.siltWrite_irqs (m : Mach) (c sp k n p : Nat) (g : Gid) : (m.siltWrite c sp k n p g).irqs = m.irqs := by
  unfold Mach.siltWrite; dsimp only; split <;> rfl
@[simp] theorem Mach.siltWrite_order (m : Mach) (c sp k n p : Nat) (g : Gid) : (m.siltWrite c sp k n p g).order = m.order := by
  unfold Mach.siltWrite; dsimp only; split <;> rfl
@[simp] theorem Mach.siltWrite_free (m : Mach) (c sp k n p : Nat) (g : Gid) : (m.siltWrite c sp k n p g).free = m.free := by
  unfold Mach.siltWrite; dsimp only; split <;> rfl

/-! ### Mach.setFull -/

@[simp] theorem Mach.setFull_t (m : Mach) (k : Nat) (b : Bool) : (m.setFull k b).t = m.t := rfl
@[simp] theorem Mach.setFull_others (m : Mach) (k : Nat) (b : Bool) : (m.setFull k b).others = m.others := rfl
@[simp] theorem Mach.setFull_cycle (m : Mach) (k : Nat) (b : Bool) : (m.setFull k b).cycle = m.cycle := rfl
@[simp] theorem Mach.setFull_mem (m : Mach) (k : Nat) (b : Bool) : (m.setFull k b).mem = m.mem := rfl
@[simp] theorem Mach.setFull_front (m : Mach) (k : Nat) (b : Bool) : (m.setFull k b).front = m.front := rfl
@[simp] theorem Mach.setFull_fe (m : Mach) (k : Nat) (b : Bool) : (m.setFull k b).fe = Tab.put false m.fe (k / 8) b := rfl
@[simp] theorem Mach.setFull_windows (m : Mach) (k : Nat) (b : Bool) : (m.setFull k b).windows = m.windows := rfl
@[simp] theorem Mach.setFull_tlb (m : Mach) (k : Nat) (b : Bool) : (m.setFull k b).tlb = m.tlb := rfl
@[simp] theorem Mach.setFull_dtlb (m : Mach) (k : Nat) (b : Bool) : (m.setFull k b).dtlb = m.dtlb := rfl
@[simp] theorem Mach.setFull_weak (m : Mach) (k : Nat) (b : Bool) : (m.setFull k b).weak = m.weak := rfl
@[simp] theorem Mach.setFull_reqs (m : Mach) (k : Nat) (b : Bool) : (m.setFull k b).reqs = m.reqs := rfl
@[simp] theorem Mach.setFull_codeOld (m : Mach) (k : Nat) (b : Bool) : (m.setFull k b).codeOld = m.codeOld := rfl
@[simp] theorem Mach.setFull_faults (m : Mach) (k : Nat) (b : Bool) : (m.setFull k b).faults = m.faults := rfl
@[simp] theorem Mach.setFull_gbars (m : Mach) (k : Nat) (b : Bool) : (m.setFull k b).gbars = m.gbars := rfl
@[simp] theorem Mach.setFull_rcache (m : Mach) (k : Nat) (b : Bool) : (m.setFull k b).rcache = m.rcache := rfl
@[simp] theorem Mach.setFull_icache (m : Mach) (k : Nat) (b : Bool) : (m.setFull k b).icache = m.icache := rfl
@[simp] theorem Mach.setFull_objects (m : Mach) (k : Nat) (b : Bool) : (m.setFull k b).objects = m.objects := rfl
@[simp] theorem Mach.setFull_ctxs (m : Mach) (k : Nat) (b : Bool) : (m.setFull k b).ctxs = m.ctxs := rfl
@[simp] theorem Mach.setFull_parts (m : Mach) (k : Nat) (b : Bool) : (m.setFull k b).parts = m.parts := rfl
@[simp] theorem Mach.setFull_chans (m : Mach) (k : Nat) (b : Bool) : (m.setFull k b).chans = m.chans := rfl
@[simp] theorem Mach.setFull_matrix (m : Mach) (k : Nat) (b : Bool) : (m.setFull k b).matrix = m.matrix := rfl
@[simp] theorem Mach.setFull_engines (m : Mach) (k : Nat) (b : Bool) : (m.setFull k b).engines = m.engines := rfl
@[simp] theorem Mach.setFull_nodes (m : Mach) (k : Nat) (b : Bool) : (m.setFull k b).nodes = m.nodes := rfl
@[simp] theorem Mach.setFull_colls (m : Mach) (k : Nat) (b : Bool) : (m.setFull k b).colls = m.colls := rfl
@[simp] theorem Mach.setFull_done (m : Mach) (k : Nat) (b : Bool) : (m.setFull k b).done = m.done := rfl
@[simp] theorem Mach.setFull_ext (m : Mach) (k : Nat) (b : Bool) : (m.setFull k b).ext = m.ext := rfl
@[simp] theorem Mach.setFull_portsUp (m : Mach) (k : Nat) (b : Bool) : (m.setFull k b).portsUp = m.portsUp := rfl
@[simp] theorem Mach.setFull_portsTrain (m : Mach) (k : Nat) (b : Bool) : (m.setFull k b).portsTrain = m.portsTrain := rfl
@[simp] theorem Mach.setFull_imports (m : Mach) (k : Nat) (b : Bool) : (m.setFull k b).imports = m.imports := rfl
@[simp] theorem Mach.setFull_rootsUp (m : Mach) (k : Nat) (b : Bool) : (m.setFull k b).rootsUp = m.rootsUp := rfl
@[simp] theorem Mach.setFull_errs (m : Mach) (k : Nat) (b : Bool) : (m.setFull k b).errs = m.errs := rfl
@[simp] theorem Mach.setFull_irqs (m : Mach) (k : Nat) (b : Bool) : (m.setFull k b).irqs = m.irqs := rfl
@[simp] theorem Mach.setFull_order (m : Mach) (k : Nat) (b : Bool) : (m.setFull k b).order = m.order := rfl
@[simp] theorem Mach.setFull_free (m : Mach) (k : Nat) (b : Bool) : (m.setFull k b).free = m.free := rfl

/-! ### Mach.mapTask -/

@[simp] theorem Mach.mapTask_t (m : Mach) (g : Gid) (f : Task → Task) : (m.mapTask g f).t = if m.t.gid = g ∧ m.t.phase ≠ .ended then f m.t else m.t := rfl
@[simp] theorem Mach.mapTask_others (m : Mach) (g : Gid) (f : Task → Task) : (m.mapTask g f).others = m.others.map fun t => if t.gid = g ∧ t.phase ≠ .ended then f t else t := rfl
@[simp] theorem Mach.mapTask_cycle (m : Mach) (g : Gid) (f : Task → Task) : (m.mapTask g f).cycle = m.cycle := rfl
@[simp] theorem Mach.mapTask_mem (m : Mach) (g : Gid) (f : Task → Task) : (m.mapTask g f).mem = m.mem := rfl
@[simp] theorem Mach.mapTask_front (m : Mach) (g : Gid) (f : Task → Task) : (m.mapTask g f).front = m.front := rfl
@[simp] theorem Mach.mapTask_fe (m : Mach) (g : Gid) (f : Task → Task) : (m.mapTask g f).fe = m.fe := rfl
@[simp] theorem Mach.mapTask_windows (m : Mach) (g : Gid) (f : Task → Task) : (m.mapTask g f).windows = m.windows := rfl
@[simp] theorem Mach.mapTask_tlb (m : Mach) (g : Gid) (f : Task → Task) : (m.mapTask g f).tlb = m.tlb := rfl
@[simp] theorem Mach.mapTask_dtlb (m : Mach) (g : Gid) (f : Task → Task) : (m.mapTask g f).dtlb = m.dtlb := rfl
@[simp] theorem Mach.mapTask_weak (m : Mach) (g : Gid) (f : Task → Task) : (m.mapTask g f).weak = m.weak := rfl
@[simp] theorem Mach.mapTask_reqs (m : Mach) (g : Gid) (f : Task → Task) : (m.mapTask g f).reqs = m.reqs := rfl
@[simp] theorem Mach.mapTask_codeOld (m : Mach) (g : Gid) (f : Task → Task) : (m.mapTask g f).codeOld = m.codeOld := rfl
@[simp] theorem Mach.mapTask_faults (m : Mach) (g : Gid) (f : Task → Task) : (m.mapTask g f).faults = m.faults := rfl
@[simp] theorem Mach.mapTask_gbars (m : Mach) (g : Gid) (f : Task → Task) : (m.mapTask g f).gbars = m.gbars := rfl
@[simp] theorem Mach.mapTask_rcache (m : Mach) (g : Gid) (f : Task → Task) : (m.mapTask g f).rcache = m.rcache := rfl
@[simp] theorem Mach.mapTask_icache (m : Mach) (g : Gid) (f : Task → Task) : (m.mapTask g f).icache = m.icache := rfl
@[simp] theorem Mach.mapTask_objects (m : Mach) (g : Gid) (f : Task → Task) : (m.mapTask g f).objects = m.objects := rfl
@[simp] theorem Mach.mapTask_ctxs (m : Mach) (g : Gid) (f : Task → Task) : (m.mapTask g f).ctxs = m.ctxs := rfl
@[simp] theorem Mach.mapTask_parts (m : Mach) (g : Gid) (f : Task → Task) : (m.mapTask g f).parts = m.parts := rfl
@[simp] theorem Mach.mapTask_chans (m : Mach) (g : Gid) (f : Task → Task) : (m.mapTask g f).chans = m.chans := rfl
@[simp] theorem Mach.mapTask_matrix (m : Mach) (g : Gid) (f : Task → Task) : (m.mapTask g f).matrix = m.matrix := rfl
@[simp] theorem Mach.mapTask_engines (m : Mach) (g : Gid) (f : Task → Task) : (m.mapTask g f).engines = m.engines := rfl
@[simp] theorem Mach.mapTask_nodes (m : Mach) (g : Gid) (f : Task → Task) : (m.mapTask g f).nodes = m.nodes := rfl
@[simp] theorem Mach.mapTask_colls (m : Mach) (g : Gid) (f : Task → Task) : (m.mapTask g f).colls = m.colls := rfl
@[simp] theorem Mach.mapTask_done (m : Mach) (g : Gid) (f : Task → Task) : (m.mapTask g f).done = m.done := rfl
@[simp] theorem Mach.mapTask_ext (m : Mach) (g : Gid) (f : Task → Task) : (m.mapTask g f).ext = m.ext := rfl
@[simp] theorem Mach.mapTask_portsUp (m : Mach) (g : Gid) (f : Task → Task) : (m.mapTask g f).portsUp = m.portsUp := rfl
@[simp] theorem Mach.mapTask_portsTrain (m : Mach) (g : Gid) (f : Task → Task) : (m.mapTask g f).portsTrain = m.portsTrain := rfl
@[simp] theorem Mach.mapTask_imports (m : Mach) (g : Gid) (f : Task → Task) : (m.mapTask g f).imports = m.imports := rfl
@[simp] theorem Mach.mapTask_rootsUp (m : Mach) (g : Gid) (f : Task → Task) : (m.mapTask g f).rootsUp = m.rootsUp := rfl
@[simp] theorem Mach.mapTask_errs (m : Mach) (g : Gid) (f : Task → Task) : (m.mapTask g f).errs = m.errs := rfl
@[simp] theorem Mach.mapTask_irqs (m : Mach) (g : Gid) (f : Task → Task) : (m.mapTask g f).irqs = m.irqs := rfl
@[simp] theorem Mach.mapTask_order (m : Mach) (g : Gid) (f : Task → Task) : (m.mapTask g f).order = m.order := rfl
@[simp] theorem Mach.mapTask_free (m : Mach) (g : Gid) (f : Task → Task) : (m.mapTask g f).free = m.free := rfl

/-! ### Mach.mapTasks -/

@[simp] theorem Mach.mapTasks_t (m : Mach) (f : Task → Task) : (m.mapTasks f).t = f m.t := rfl
@[simp] theorem Mach.mapTasks_others (m : Mach) (f : Task → Task) : (m.mapTasks f).others = m.others.map f := rfl
@[simp] theorem Mach.mapTasks_cycle (m : Mach) (f : Task → Task) : (m.mapTasks f).cycle = m.cycle := rfl
@[simp] theorem Mach.mapTasks_mem (m : Mach) (f : Task → Task) : (m.mapTasks f).mem = m.mem := rfl
@[simp] theorem Mach.mapTasks_front (m : Mach) (f : Task → Task) : (m.mapTasks f).front = m.front := rfl
@[simp] theorem Mach.mapTasks_fe (m : Mach) (f : Task → Task) : (m.mapTasks f).fe = m.fe := rfl
@[simp] theorem Mach.mapTasks_windows (m : Mach) (f : Task → Task) : (m.mapTasks f).windows = m.windows := rfl
@[simp] theorem Mach.mapTasks_tlb (m : Mach) (f : Task → Task) : (m.mapTasks f).tlb = m.tlb := rfl
@[simp] theorem Mach.mapTasks_dtlb (m : Mach) (f : Task → Task) : (m.mapTasks f).dtlb = m.dtlb := rfl
@[simp] theorem Mach.mapTasks_weak (m : Mach) (f : Task → Task) : (m.mapTasks f).weak = m.weak := rfl
@[simp] theorem Mach.mapTasks_reqs (m : Mach) (f : Task → Task) : (m.mapTasks f).reqs = m.reqs := rfl
@[simp] theorem Mach.mapTasks_codeOld (m : Mach) (f : Task → Task) : (m.mapTasks f).codeOld = m.codeOld := rfl
@[simp] theorem Mach.mapTasks_faults (m : Mach) (f : Task → Task) : (m.mapTasks f).faults = m.faults := rfl
@[simp] theorem Mach.mapTasks_gbars (m : Mach) (f : Task → Task) : (m.mapTasks f).gbars = m.gbars := rfl
@[simp] theorem Mach.mapTasks_rcache (m : Mach) (f : Task → Task) : (m.mapTasks f).rcache = m.rcache := rfl
@[simp] theorem Mach.mapTasks_icache (m : Mach) (f : Task → Task) : (m.mapTasks f).icache = m.icache := rfl
@[simp] theorem Mach.mapTasks_objects (m : Mach) (f : Task → Task) : (m.mapTasks f).objects = m.objects := rfl
@[simp] theorem Mach.mapTasks_ctxs (m : Mach) (f : Task → Task) : (m.mapTasks f).ctxs = m.ctxs := rfl
@[simp] theorem Mach.mapTasks_parts (m : Mach) (f : Task → Task) : (m.mapTasks f).parts = m.parts := rfl
@[simp] theorem Mach.mapTasks_chans (m : Mach) (f : Task → Task) : (m.mapTasks f).chans = m.chans := rfl
@[simp] theorem Mach.mapTasks_matrix (m : Mach) (f : Task → Task) : (m.mapTasks f).matrix = m.matrix := rfl
@[simp] theorem Mach.mapTasks_engines (m : Mach) (f : Task → Task) : (m.mapTasks f).engines = m.engines := rfl
@[simp] theorem Mach.mapTasks_nodes (m : Mach) (f : Task → Task) : (m.mapTasks f).nodes = m.nodes := rfl
@[simp] theorem Mach.mapTasks_colls (m : Mach) (f : Task → Task) : (m.mapTasks f).colls = m.colls := rfl
@[simp] theorem Mach.mapTasks_done (m : Mach) (f : Task → Task) : (m.mapTasks f).done = m.done := rfl
@[simp] theorem Mach.mapTasks_ext (m : Mach) (f : Task → Task) : (m.mapTasks f).ext = m.ext := rfl
@[simp] theorem Mach.mapTasks_portsUp (m : Mach) (f : Task → Task) : (m.mapTasks f).portsUp = m.portsUp := rfl
@[simp] theorem Mach.mapTasks_portsTrain (m : Mach) (f : Task → Task) : (m.mapTasks f).portsTrain = m.portsTrain := rfl
@[simp] theorem Mach.mapTasks_imports (m : Mach) (f : Task → Task) : (m.mapTasks f).imports = m.imports := rfl
@[simp] theorem Mach.mapTasks_rootsUp (m : Mach) (f : Task → Task) : (m.mapTasks f).rootsUp = m.rootsUp := rfl
@[simp] theorem Mach.mapTasks_errs (m : Mach) (f : Task → Task) : (m.mapTasks f).errs = m.errs := rfl
@[simp] theorem Mach.mapTasks_irqs (m : Mach) (f : Task → Task) : (m.mapTasks f).irqs = m.irqs := rfl
@[simp] theorem Mach.mapTasks_order (m : Mach) (f : Task → Task) : (m.mapTasks f).order = m.order := rfl
@[simp] theorem Mach.mapTasks_free (m : Mach) (f : Task → Task) : (m.mapTasks f).free = m.free := rfl

/-! ### Mach.addTask -/

@[simp] theorem Mach.addTask_t (m : Mach) (t : Task) : (m.addTask t).t = m.t := rfl
@[simp] theorem Mach.addTask_others (m : Mach) (t : Task) : (m.addTask t).others = m.others ++ [t] := rfl
@[simp] theorem Mach.addTask_cycle (m : Mach) (t : Task) : (m.addTask t).cycle = m.cycle := rfl
@[simp] theorem Mach.addTask_mem (m : Mach) (t : Task) : (m.addTask t).mem = m.mem := rfl
@[simp] theorem Mach.addTask_front (m : Mach) (t : Task) : (m.addTask t).front = m.front := rfl
@[simp] theorem Mach.addTask_fe (m : Mach) (t : Task) : (m.addTask t).fe = m.fe := rfl
@[simp] theorem Mach.addTask_windows (m : Mach) (t : Task) : (m.addTask t).windows = m.windows := rfl
@[simp] theorem Mach.addTask_tlb (m : Mach) (t : Task) : (m.addTask t).tlb = m.tlb := rfl
@[simp] theorem Mach.addTask_dtlb (m : Mach) (t : Task) : (m.addTask t).dtlb = m.dtlb := rfl
@[simp] theorem Mach.addTask_weak (m : Mach) (t : Task) : (m.addTask t).weak = m.weak := rfl
@[simp] theorem Mach.addTask_reqs (m : Mach) (t : Task) : (m.addTask t).reqs = m.reqs := rfl
@[simp] theorem Mach.addTask_codeOld (m : Mach) (t : Task) : (m.addTask t).codeOld = m.codeOld := rfl
@[simp] theorem Mach.addTask_faults (m : Mach) (t : Task) : (m.addTask t).faults = m.faults := rfl
@[simp] theorem Mach.addTask_gbars (m : Mach) (t : Task) : (m.addTask t).gbars = m.gbars := rfl
@[simp] theorem Mach.addTask_rcache (m : Mach) (t : Task) : (m.addTask t).rcache = m.rcache := rfl
@[simp] theorem Mach.addTask_icache (m : Mach) (t : Task) : (m.addTask t).icache = m.icache := rfl
@[simp] theorem Mach.addTask_objects (m : Mach) (t : Task) : (m.addTask t).objects = m.objects := rfl
@[simp] theorem Mach.addTask_ctxs (m : Mach) (t : Task) : (m.addTask t).ctxs = m.ctxs := rfl
@[simp] theorem Mach.addTask_parts (m : Mach) (t : Task) : (m.addTask t).parts = m.parts := rfl
@[simp] theorem Mach.addTask_chans (m : Mach) (t : Task) : (m.addTask t).chans = m.chans := rfl
@[simp] theorem Mach.addTask_matrix (m : Mach) (t : Task) : (m.addTask t).matrix = m.matrix := rfl
@[simp] theorem Mach.addTask_engines (m : Mach) (t : Task) : (m.addTask t).engines = m.engines := rfl
@[simp] theorem Mach.addTask_nodes (m : Mach) (t : Task) : (m.addTask t).nodes = m.nodes := rfl
@[simp] theorem Mach.addTask_colls (m : Mach) (t : Task) : (m.addTask t).colls = m.colls := rfl
@[simp] theorem Mach.addTask_done (m : Mach) (t : Task) : (m.addTask t).done = m.done := rfl
@[simp] theorem Mach.addTask_ext (m : Mach) (t : Task) : (m.addTask t).ext = m.ext := rfl
@[simp] theorem Mach.addTask_portsUp (m : Mach) (t : Task) : (m.addTask t).portsUp = m.portsUp := rfl
@[simp] theorem Mach.addTask_portsTrain (m : Mach) (t : Task) : (m.addTask t).portsTrain = m.portsTrain := rfl
@[simp] theorem Mach.addTask_imports (m : Mach) (t : Task) : (m.addTask t).imports = m.imports := rfl
@[simp] theorem Mach.addTask_rootsUp (m : Mach) (t : Task) : (m.addTask t).rootsUp = m.rootsUp := rfl
@[simp] theorem Mach.addTask_errs (m : Mach) (t : Task) : (m.addTask t).errs = m.errs := rfl
@[simp] theorem Mach.addTask_irqs (m : Mach) (t : Task) : (m.addTask t).irqs = m.irqs := rfl
@[simp] theorem Mach.addTask_order (m : Mach) (t : Task) : (m.addTask t).order = m.order := rfl
@[simp] theorem Mach.addTask_free (m : Mach) (t : Task) : (m.addTask t).free = m.free := rfl

/-! ### Mach.tick -/

@[simp] theorem Mach.tick_t (m : Mach) : (m.tick).t = m.t := rfl
@[simp] theorem Mach.tick_others (m : Mach) : (m.tick).others = m.others := rfl
@[simp] theorem Mach.tick_cycle (m : Mach) : (m.tick).cycle = m.cycle := rfl
@[simp] theorem Mach.tick_mem (m : Mach) : (m.tick).mem = m.mem := rfl
@[simp] theorem Mach.tick_front (m : Mach) : (m.tick).front = m.front := rfl
@[simp] theorem Mach.tick_fe (m : Mach) : (m.tick).fe = m.fe := rfl
@[simp] theorem Mach.tick_windows (m : Mach) : (m.tick).windows = m.windows := rfl
@[simp] theorem Mach.tick_tlb (m : Mach) : (m.tick).tlb = m.tlb := rfl
@[simp] theorem Mach.tick_dtlb (m : Mach) : (m.tick).dtlb = m.dtlb := rfl
@[simp] theorem Mach.tick_weak (m : Mach) : (m.tick).weak = m.weak := rfl
@[simp] theorem Mach.tick_reqs (m : Mach) : (m.tick).reqs = m.reqs := rfl
@[simp] theorem Mach.tick_codeOld (m : Mach) : (m.tick).codeOld = m.codeOld := rfl
@[simp] theorem Mach.tick_faults (m : Mach) : (m.tick).faults = m.faults := rfl
@[simp] theorem Mach.tick_gbars (m : Mach) : (m.tick).gbars = m.gbars := rfl
@[simp] theorem Mach.tick_rcache (m : Mach) : (m.tick).rcache = m.rcache := rfl
@[simp] theorem Mach.tick_icache (m : Mach) : (m.tick).icache = m.icache := rfl
@[simp] theorem Mach.tick_objects (m : Mach) : (m.tick).objects = m.objects := rfl
@[simp] theorem Mach.tick_ctxs (m : Mach) : (m.tick).ctxs = m.ctxs := rfl
@[simp] theorem Mach.tick_parts (m : Mach) : (m.tick).parts = m.parts := rfl
@[simp] theorem Mach.tick_chans (m : Mach) : (m.tick).chans = m.chans := rfl
@[simp] theorem Mach.tick_matrix (m : Mach) : (m.tick).matrix = m.matrix := rfl
@[simp] theorem Mach.tick_engines (m : Mach) : (m.tick).engines = m.engines := rfl
@[simp] theorem Mach.tick_nodes (m : Mach) : (m.tick).nodes = m.nodes := rfl
@[simp] theorem Mach.tick_colls (m : Mach) : (m.tick).colls = m.colls := rfl
@[simp] theorem Mach.tick_done (m : Mach) : (m.tick).done = m.done := rfl
@[simp] theorem Mach.tick_ext (m : Mach) : (m.tick).ext = m.ext := rfl
@[simp] theorem Mach.tick_portsUp (m : Mach) : (m.tick).portsUp = m.portsUp := rfl
@[simp] theorem Mach.tick_portsTrain (m : Mach) : (m.tick).portsTrain = m.portsTrain := rfl
@[simp] theorem Mach.tick_imports (m : Mach) : (m.tick).imports = m.imports := rfl
@[simp] theorem Mach.tick_rootsUp (m : Mach) : (m.tick).rootsUp = m.rootsUp := rfl
@[simp] theorem Mach.tick_errs (m : Mach) : (m.tick).errs = m.errs := rfl
@[simp] theorem Mach.tick_irqs (m : Mach) : (m.tick).irqs = m.irqs := rfl
@[simp] theorem Mach.tick_order (m : Mach) : (m.tick).order = m.order + 1 := rfl
@[simp] theorem Mach.tick_free (m : Mach) : (m.tick).free = m.free := rfl

/-! ### Mach.setEng -/

@[simp] theorem Mach.setEng_t (m : Mach) (e : EngRef) (f : Engine → Engine) : (m.setEng e f).t = m.t := rfl
@[simp] theorem Mach.setEng_others (m : Mach) (e : EngRef) (f : Engine → Engine) : (m.setEng e f).others = m.others := rfl
@[simp] theorem Mach.setEng_cycle (m : Mach) (e : EngRef) (f : Engine → Engine) : (m.setEng e f).cycle = m.cycle := rfl
@[simp] theorem Mach.setEng_mem (m : Mach) (e : EngRef) (f : Engine → Engine) : (m.setEng e f).mem = m.mem := rfl
@[simp] theorem Mach.setEng_front (m : Mach) (e : EngRef) (f : Engine → Engine) : (m.setEng e f).front = m.front := rfl
@[simp] theorem Mach.setEng_fe (m : Mach) (e : EngRef) (f : Engine → Engine) : (m.setEng e f).fe = m.fe := rfl
@[simp] theorem Mach.setEng_windows (m : Mach) (e : EngRef) (f : Engine → Engine) : (m.setEng e f).windows = m.windows := rfl
@[simp] theorem Mach.setEng_tlb (m : Mach) (e : EngRef) (f : Engine → Engine) : (m.setEng e f).tlb = m.tlb := rfl
@[simp] theorem Mach.setEng_dtlb (m : Mach) (e : EngRef) (f : Engine → Engine) : (m.setEng e f).dtlb = m.dtlb := rfl
@[simp] theorem Mach.setEng_weak (m : Mach) (e : EngRef) (f : Engine → Engine) : (m.setEng e f).weak = m.weak := rfl
@[simp] theorem Mach.setEng_reqs (m : Mach) (e : EngRef) (f : Engine → Engine) : (m.setEng e f).reqs = m.reqs := rfl
@[simp] theorem Mach.setEng_codeOld (m : Mach) (e : EngRef) (f : Engine → Engine) : (m.setEng e f).codeOld = m.codeOld := rfl
@[simp] theorem Mach.setEng_faults (m : Mach) (e : EngRef) (f : Engine → Engine) : (m.setEng e f).faults = m.faults := rfl
@[simp] theorem Mach.setEng_gbars (m : Mach) (e : EngRef) (f : Engine → Engine) : (m.setEng e f).gbars = m.gbars := rfl
@[simp] theorem Mach.setEng_rcache (m : Mach) (e : EngRef) (f : Engine → Engine) : (m.setEng e f).rcache = m.rcache := rfl
@[simp] theorem Mach.setEng_icache (m : Mach) (e : EngRef) (f : Engine → Engine) : (m.setEng e f).icache = m.icache := rfl
@[simp] theorem Mach.setEng_objects (m : Mach) (e : EngRef) (f : Engine → Engine) : (m.setEng e f).objects = m.objects := rfl
@[simp] theorem Mach.setEng_ctxs (m : Mach) (e : EngRef) (f : Engine → Engine) : (m.setEng e f).ctxs = m.ctxs := rfl
@[simp] theorem Mach.setEng_parts (m : Mach) (e : EngRef) (f : Engine → Engine) : (m.setEng e f).parts = m.parts := rfl
@[simp] theorem Mach.setEng_chans (m : Mach) (e : EngRef) (f : Engine → Engine) : (m.setEng e f).chans = m.chans := rfl
@[simp] theorem Mach.setEng_matrix (m : Mach) (e : EngRef) (f : Engine → Engine) : (m.setEng e f).matrix = m.matrix := rfl
@[simp] theorem Mach.setEng_engines (m : Mach) (e : EngRef) (f : Engine → Engine) : (m.setEng e f).engines = Tab.upd {} m.engines (engKey e) f := rfl
@[simp] theorem Mach.setEng_nodes (m : Mach) (e : EngRef) (f : Engine → Engine) : (m.setEng e f).nodes = m.nodes := rfl
@[simp] theorem Mach.setEng_colls (m : Mach) (e : EngRef) (f : Engine → Engine) : (m.setEng e f).colls = m.colls := rfl
@[simp] theorem Mach.setEng_done (m : Mach) (e : EngRef) (f : Engine → Engine) : (m.setEng e f).done = m.done := rfl
@[simp] theorem Mach.setEng_ext (m : Mach) (e : EngRef) (f : Engine → Engine) : (m.setEng e f).ext = m.ext := rfl
@[simp] theorem Mach.setEng_portsUp (m : Mach) (e : EngRef) (f : Engine → Engine) : (m.setEng e f).portsUp = m.portsUp := rfl
@[simp] theorem Mach.setEng_portsTrain (m : Mach) (e : EngRef) (f : Engine → Engine) : (m.setEng e f).portsTrain = m.portsTrain := rfl
@[simp] theorem Mach.setEng_imports (m : Mach) (e : EngRef) (f : Engine → Engine) : (m.setEng e f).imports = m.imports := rfl
@[simp] theorem Mach.setEng_rootsUp (m : Mach) (e : EngRef) (f : Engine → Engine) : (m.setEng e f).rootsUp = m.rootsUp := rfl
@[simp] theorem Mach.setEng_errs (m : Mach) (e : EngRef) (f : Engine → Engine) : (m.setEng e f).errs = m.errs := rfl
@[simp] theorem Mach.setEng_irqs (m : Mach) (e : EngRef) (f : Engine → Engine) : (m.setEng e f).irqs = m.irqs := rfl
@[simp] theorem Mach.setEng_order (m : Mach) (e : EngRef) (f : Engine → Engine) : (m.setEng e f).order = m.order := rfl
@[simp] theorem Mach.setEng_free (m : Mach) (e : EngRef) (f : Engine → Engine) : (m.setEng e f).free = m.free := rfl

/-! ### Mach.setMtx -/

@[simp] theorem Mach.setMtx_t (m : Mach) (cl : Nat) (f : Matrix → Matrix) : (m.setMtx cl f).t = m.t := rfl
@[simp] theorem Mach.setMtx_others (m : Mach) (cl : Nat) (f : Matrix → Matrix) : (m.setMtx cl f).others = m.others := rfl
@[simp] theorem Mach.setMtx_cycle (m : Mach) (cl : Nat) (f : Matrix → Matrix) : (m.setMtx cl f).cycle = m.cycle := rfl
@[simp] theorem Mach.setMtx_mem (m : Mach) (cl : Nat) (f : Matrix → Matrix) : (m.setMtx cl f).mem = m.mem := rfl
@[simp] theorem Mach.setMtx_front (m : Mach) (cl : Nat) (f : Matrix → Matrix) : (m.setMtx cl f).front = m.front := rfl
@[simp] theorem Mach.setMtx_fe (m : Mach) (cl : Nat) (f : Matrix → Matrix) : (m.setMtx cl f).fe = m.fe := rfl
@[simp] theorem Mach.setMtx_windows (m : Mach) (cl : Nat) (f : Matrix → Matrix) : (m.setMtx cl f).windows = m.windows := rfl
@[simp] theorem Mach.setMtx_tlb (m : Mach) (cl : Nat) (f : Matrix → Matrix) : (m.setMtx cl f).tlb = m.tlb := rfl
@[simp] theorem Mach.setMtx_dtlb (m : Mach) (cl : Nat) (f : Matrix → Matrix) : (m.setMtx cl f).dtlb = m.dtlb := rfl
@[simp] theorem Mach.setMtx_weak (m : Mach) (cl : Nat) (f : Matrix → Matrix) : (m.setMtx cl f).weak = m.weak := rfl
@[simp] theorem Mach.setMtx_reqs (m : Mach) (cl : Nat) (f : Matrix → Matrix) : (m.setMtx cl f).reqs = m.reqs := rfl
@[simp] theorem Mach.setMtx_codeOld (m : Mach) (cl : Nat) (f : Matrix → Matrix) : (m.setMtx cl f).codeOld = m.codeOld := rfl
@[simp] theorem Mach.setMtx_faults (m : Mach) (cl : Nat) (f : Matrix → Matrix) : (m.setMtx cl f).faults = m.faults := rfl
@[simp] theorem Mach.setMtx_gbars (m : Mach) (cl : Nat) (f : Matrix → Matrix) : (m.setMtx cl f).gbars = m.gbars := rfl
@[simp] theorem Mach.setMtx_rcache (m : Mach) (cl : Nat) (f : Matrix → Matrix) : (m.setMtx cl f).rcache = m.rcache := rfl
@[simp] theorem Mach.setMtx_icache (m : Mach) (cl : Nat) (f : Matrix → Matrix) : (m.setMtx cl f).icache = m.icache := rfl
@[simp] theorem Mach.setMtx_objects (m : Mach) (cl : Nat) (f : Matrix → Matrix) : (m.setMtx cl f).objects = m.objects := rfl
@[simp] theorem Mach.setMtx_ctxs (m : Mach) (cl : Nat) (f : Matrix → Matrix) : (m.setMtx cl f).ctxs = m.ctxs := rfl
@[simp] theorem Mach.setMtx_parts (m : Mach) (cl : Nat) (f : Matrix → Matrix) : (m.setMtx cl f).parts = m.parts := rfl
@[simp] theorem Mach.setMtx_chans (m : Mach) (cl : Nat) (f : Matrix → Matrix) : (m.setMtx cl f).chans = m.chans := rfl
@[simp] theorem Mach.setMtx_matrix (m : Mach) (cl : Nat) (f : Matrix → Matrix) : (m.setMtx cl f).matrix = Tab.upd {} m.matrix cl f := rfl
@[simp] theorem Mach.setMtx_engines (m : Mach) (cl : Nat) (f : Matrix → Matrix) : (m.setMtx cl f).engines = m.engines := rfl
@[simp] theorem Mach.setMtx_nodes (m : Mach) (cl : Nat) (f : Matrix → Matrix) : (m.setMtx cl f).nodes = m.nodes := rfl
@[simp] theorem Mach.setMtx_colls (m : Mach) (cl : Nat) (f : Matrix → Matrix) : (m.setMtx cl f).colls = m.colls := rfl
@[simp] theorem Mach.setMtx_done (m : Mach) (cl : Nat) (f : Matrix → Matrix) : (m.setMtx cl f).done = m.done := rfl
@[simp] theorem Mach.setMtx_ext (m : Mach) (cl : Nat) (f : Matrix → Matrix) : (m.setMtx cl f).ext = m.ext := rfl
@[simp] theorem Mach.setMtx_portsUp (m : Mach) (cl : Nat) (f : Matrix → Matrix) : (m.setMtx cl f).portsUp = m.portsUp := rfl
@[simp] theorem Mach.setMtx_portsTrain (m : Mach) (cl : Nat) (f : Matrix → Matrix) : (m.setMtx cl f).portsTrain = m.portsTrain := rfl
@[simp] theorem Mach.setMtx_imports (m : Mach) (cl : Nat) (f : Matrix → Matrix) : (m.setMtx cl f).imports = m.imports := rfl
@[simp] theorem Mach.setMtx_rootsUp (m : Mach) (cl : Nat) (f : Matrix → Matrix) : (m.setMtx cl f).rootsUp = m.rootsUp := rfl
@[simp] theorem Mach.setMtx_errs (m : Mach) (cl : Nat) (f : Matrix → Matrix) : (m.setMtx cl f).errs = m.errs := rfl
@[simp] theorem Mach.setMtx_irqs (m : Mach) (cl : Nat) (f : Matrix → Matrix) : (m.setMtx cl f).irqs = m.irqs := rfl
@[simp] theorem Mach.setMtx_order (m : Mach) (cl : Nat) (f : Matrix → Matrix) : (m.setMtx cl f).order = m.order := rfl
@[simp] theorem Mach.setMtx_free (m : Mach) (cl : Nat) (f : Matrix → Matrix) : (m.setMtx cl f).free = m.free := rfl

/-! ### Mach.setChan -/

@[simp] theorem Mach.setChan_t (m : Mach) (core n : Nat) (f : Chan → Chan) : (m.setChan core n f).t = m.t := rfl
@[simp] theorem Mach.setChan_others (m : Mach) (core n : Nat) (f : Chan → Chan) : (m.setChan core n f).others = m.others := rfl
@[simp] theorem Mach.setChan_cycle (m : Mach) (core n : Nat) (f : Chan → Chan) : (m.setChan core n f).cycle = m.cycle := rfl
@[simp] theorem Mach.setChan_mem (m : Mach) (core n : Nat) (f : Chan → Chan) : (m.setChan core n f).mem = m.mem := rfl
@[simp] theorem Mach.setChan_front (m : Mach) (core n : Nat) (f : Chan → Chan) : (m.setChan core n f).front = m.front := rfl
@[simp] theorem Mach.setChan_fe (m : Mach) (core n : Nat) (f : Chan → Chan) : (m.setChan core n f).fe = m.fe := rfl
@[simp] theorem Mach.setChan_windows (m : Mach) (core n : Nat) (f : Chan → Chan) : (m.setChan core n f).windows = m.windows := rfl
@[simp] theorem Mach.setChan_tlb (m : Mach) (core n : Nat) (f : Chan → Chan) : (m.setChan core n f).tlb = m.tlb := rfl
@[simp] theorem Mach.setChan_dtlb (m : Mach) (core n : Nat) (f : Chan → Chan) : (m.setChan core n f).dtlb = m.dtlb := rfl
@[simp] theorem Mach.setChan_weak (m : Mach) (core n : Nat) (f : Chan → Chan) : (m.setChan core n f).weak = m.weak := rfl
@[simp] theorem Mach.setChan_reqs (m : Mach) (core n : Nat) (f : Chan → Chan) : (m.setChan core n f).reqs = m.reqs := rfl
@[simp] theorem Mach.setChan_codeOld (m : Mach) (core n : Nat) (f : Chan → Chan) : (m.setChan core n f).codeOld = m.codeOld := rfl
@[simp] theorem Mach.setChan_faults (m : Mach) (core n : Nat) (f : Chan → Chan) : (m.setChan core n f).faults = m.faults := rfl
@[simp] theorem Mach.setChan_gbars (m : Mach) (core n : Nat) (f : Chan → Chan) : (m.setChan core n f).gbars = m.gbars := rfl
@[simp] theorem Mach.setChan_rcache (m : Mach) (core n : Nat) (f : Chan → Chan) : (m.setChan core n f).rcache = m.rcache := rfl
@[simp] theorem Mach.setChan_icache (m : Mach) (core n : Nat) (f : Chan → Chan) : (m.setChan core n f).icache = m.icache := rfl
@[simp] theorem Mach.setChan_objects (m : Mach) (core n : Nat) (f : Chan → Chan) : (m.setChan core n f).objects = m.objects := rfl
@[simp] theorem Mach.setChan_ctxs (m : Mach) (core n : Nat) (f : Chan → Chan) : (m.setChan core n f).ctxs = m.ctxs := rfl
@[simp] theorem Mach.setChan_parts (m : Mach) (core n : Nat) (f : Chan → Chan) : (m.setChan core n f).parts = m.parts := rfl
@[simp] theorem Mach.setChan_chans (m : Mach) (core n : Nat) (f : Chan → Chan) : (m.setChan core n f).chans = Tab.upd {} m.chans (64 * core + n) f := rfl
@[simp] theorem Mach.setChan_matrix (m : Mach) (core n : Nat) (f : Chan → Chan) : (m.setChan core n f).matrix = m.matrix := rfl
@[simp] theorem Mach.setChan_engines (m : Mach) (core n : Nat) (f : Chan → Chan) : (m.setChan core n f).engines = m.engines := rfl
@[simp] theorem Mach.setChan_nodes (m : Mach) (core n : Nat) (f : Chan → Chan) : (m.setChan core n f).nodes = m.nodes := rfl
@[simp] theorem Mach.setChan_colls (m : Mach) (core n : Nat) (f : Chan → Chan) : (m.setChan core n f).colls = m.colls := rfl
@[simp] theorem Mach.setChan_done (m : Mach) (core n : Nat) (f : Chan → Chan) : (m.setChan core n f).done = m.done := rfl
@[simp] theorem Mach.setChan_ext (m : Mach) (core n : Nat) (f : Chan → Chan) : (m.setChan core n f).ext = m.ext := rfl
@[simp] theorem Mach.setChan_portsUp (m : Mach) (core n : Nat) (f : Chan → Chan) : (m.setChan core n f).portsUp = m.portsUp := rfl
@[simp] theorem Mach.setChan_portsTrain (m : Mach) (core n : Nat) (f : Chan → Chan) : (m.setChan core n f).portsTrain = m.portsTrain := rfl
@[simp] theorem Mach.setChan_imports (m : Mach) (core n : Nat) (f : Chan → Chan) : (m.setChan core n f).imports = m.imports := rfl
@[simp] theorem Mach.setChan_rootsUp (m : Mach) (core n : Nat) (f : Chan → Chan) : (m.setChan core n f).rootsUp = m.rootsUp := rfl
@[simp] theorem Mach.setChan_errs (m : Mach) (core n : Nat) (f : Chan → Chan) : (m.setChan core n f).errs = m.errs := rfl
@[simp] theorem Mach.setChan_irqs (m : Mach) (core n : Nat) (f : Chan → Chan) : (m.setChan core n f).irqs = m.irqs := rfl
@[simp] theorem Mach.setChan_order (m : Mach) (core n : Nat) (f : Chan → Chan) : (m.setChan core n f).order = m.order := rfl
@[simp] theorem Mach.setChan_free (m : Mach) (core n : Nat) (f : Chan → Chan) : (m.setChan core n f).free = m.free := rfl

/-! ### Mach.setColl -/

@[simp] theorem Mach.setColl_t (m : Mach) (die n : Nat) (f : Coll → Coll) : (m.setColl die n f).t = m.t := rfl
@[simp] theorem Mach.setColl_others (m : Mach) (die n : Nat) (f : Coll → Coll) : (m.setColl die n f).others = m.others := rfl
@[simp] theorem Mach.setColl_cycle (m : Mach) (die n : Nat) (f : Coll → Coll) : (m.setColl die n f).cycle = m.cycle := rfl
@[simp] theorem Mach.setColl_mem (m : Mach) (die n : Nat) (f : Coll → Coll) : (m.setColl die n f).mem = m.mem := rfl
@[simp] theorem Mach.setColl_front (m : Mach) (die n : Nat) (f : Coll → Coll) : (m.setColl die n f).front = m.front := rfl
@[simp] theorem Mach.setColl_fe (m : Mach) (die n : Nat) (f : Coll → Coll) : (m.setColl die n f).fe = m.fe := rfl
@[simp] theorem Mach.setColl_windows (m : Mach) (die n : Nat) (f : Coll → Coll) : (m.setColl die n f).windows = m.windows := rfl
@[simp] theorem Mach.setColl_tlb (m : Mach) (die n : Nat) (f : Coll → Coll) : (m.setColl die n f).tlb = m.tlb := rfl
@[simp] theorem Mach.setColl_dtlb (m : Mach) (die n : Nat) (f : Coll → Coll) : (m.setColl die n f).dtlb = m.dtlb := rfl
@[simp] theorem Mach.setColl_weak (m : Mach) (die n : Nat) (f : Coll → Coll) : (m.setColl die n f).weak = m.weak := rfl
@[simp] theorem Mach.setColl_reqs (m : Mach) (die n : Nat) (f : Coll → Coll) : (m.setColl die n f).reqs = m.reqs := rfl
@[simp] theorem Mach.setColl_codeOld (m : Mach) (die n : Nat) (f : Coll → Coll) : (m.setColl die n f).codeOld = m.codeOld := rfl
@[simp] theorem Mach.setColl_faults (m : Mach) (die n : Nat) (f : Coll → Coll) : (m.setColl die n f).faults = m.faults := rfl
@[simp] theorem Mach.setColl_gbars (m : Mach) (die n : Nat) (f : Coll → Coll) : (m.setColl die n f).gbars = m.gbars := rfl
@[simp] theorem Mach.setColl_rcache (m : Mach) (die n : Nat) (f : Coll → Coll) : (m.setColl die n f).rcache = m.rcache := rfl
@[simp] theorem Mach.setColl_icache (m : Mach) (die n : Nat) (f : Coll → Coll) : (m.setColl die n f).icache = m.icache := rfl
@[simp] theorem Mach.setColl_objects (m : Mach) (die n : Nat) (f : Coll → Coll) : (m.setColl die n f).objects = m.objects := rfl
@[simp] theorem Mach.setColl_ctxs (m : Mach) (die n : Nat) (f : Coll → Coll) : (m.setColl die n f).ctxs = m.ctxs := rfl
@[simp] theorem Mach.setColl_parts (m : Mach) (die n : Nat) (f : Coll → Coll) : (m.setColl die n f).parts = m.parts := rfl
@[simp] theorem Mach.setColl_chans (m : Mach) (die n : Nat) (f : Coll → Coll) : (m.setColl die n f).chans = m.chans := rfl
@[simp] theorem Mach.setColl_matrix (m : Mach) (die n : Nat) (f : Coll → Coll) : (m.setColl die n f).matrix = m.matrix := rfl
@[simp] theorem Mach.setColl_engines (m : Mach) (die n : Nat) (f : Coll → Coll) : (m.setColl die n f).engines = m.engines := rfl
@[simp] theorem Mach.setColl_nodes (m : Mach) (die n : Nat) (f : Coll → Coll) : (m.setColl die n f).nodes = m.nodes := rfl
@[simp] theorem Mach.setColl_done (m : Mach) (die n : Nat) (f : Coll → Coll) : (m.setColl die n f).done = m.done := rfl
@[simp] theorem Mach.setColl_ext (m : Mach) (die n : Nat) (f : Coll → Coll) : (m.setColl die n f).ext = m.ext := rfl
@[simp] theorem Mach.setColl_portsUp (m : Mach) (die n : Nat) (f : Coll → Coll) : (m.setColl die n f).portsUp = m.portsUp := rfl
@[simp] theorem Mach.setColl_portsTrain (m : Mach) (die n : Nat) (f : Coll → Coll) : (m.setColl die n f).portsTrain = m.portsTrain := rfl
@[simp] theorem Mach.setColl_imports (m : Mach) (die n : Nat) (f : Coll → Coll) : (m.setColl die n f).imports = m.imports := rfl
@[simp] theorem Mach.setColl_rootsUp (m : Mach) (die n : Nat) (f : Coll → Coll) : (m.setColl die n f).rootsUp = m.rootsUp := rfl
@[simp] theorem Mach.setColl_errs (m : Mach) (die n : Nat) (f : Coll → Coll) : (m.setColl die n f).errs = m.errs := rfl
@[simp] theorem Mach.setColl_irqs (m : Mach) (die n : Nat) (f : Coll → Coll) : (m.setColl die n f).irqs = m.irqs := rfl
@[simp] theorem Mach.setColl_order (m : Mach) (die n : Nat) (f : Coll → Coll) : (m.setColl die n f).order = m.order := rfl
@[simp] theorem Mach.setColl_free (m : Mach) (die n : Nat) (f : Coll → Coll) : (m.setColl die n f).free = m.free := rfl

/-! ### Mach.note -/

@[simp] theorem Mach.note_t (m : Mach) (c : Nat) (r : ErrRec) : (m.note c r).t = m.t := rfl
@[simp] theorem Mach.note_others (m : Mach) (c : Nat) (r : ErrRec) : (m.note c r).others = m.others := rfl
@[simp] theorem Mach.note_cycle (m : Mach) (c : Nat) (r : ErrRec) : (m.note c r).cycle = m.cycle := rfl
@[simp] theorem Mach.note_mem (m : Mach) (c : Nat) (r : ErrRec) : (m.note c r).mem = m.mem := rfl
@[simp] theorem Mach.note_front (m : Mach) (c : Nat) (r : ErrRec) : (m.note c r).front = m.front := rfl
@[simp] theorem Mach.note_fe (m : Mach) (c : Nat) (r : ErrRec) : (m.note c r).fe = m.fe := rfl
@[simp] theorem Mach.note_windows (m : Mach) (c : Nat) (r : ErrRec) : (m.note c r).windows = m.windows := rfl
@[simp] theorem Mach.note_tlb (m : Mach) (c : Nat) (r : ErrRec) : (m.note c r).tlb = m.tlb := rfl
@[simp] theorem Mach.note_dtlb (m : Mach) (c : Nat) (r : ErrRec) : (m.note c r).dtlb = m.dtlb := rfl
@[simp] theorem Mach.note_weak (m : Mach) (c : Nat) (r : ErrRec) : (m.note c r).weak = m.weak := rfl
@[simp] theorem Mach.note_reqs (m : Mach) (c : Nat) (r : ErrRec) : (m.note c r).reqs = m.reqs := rfl
@[simp] theorem Mach.note_codeOld (m : Mach) (c : Nat) (r : ErrRec) : (m.note c r).codeOld = m.codeOld := rfl
@[simp] theorem Mach.note_faults (m : Mach) (c : Nat) (r : ErrRec) : (m.note c r).faults = m.faults := rfl
@[simp] theorem Mach.note_gbars (m : Mach) (c : Nat) (r : ErrRec) : (m.note c r).gbars = m.gbars := rfl
@[simp] theorem Mach.note_rcache (m : Mach) (c : Nat) (r : ErrRec) : (m.note c r).rcache = m.rcache := rfl
@[simp] theorem Mach.note_icache (m : Mach) (c : Nat) (r : ErrRec) : (m.note c r).icache = m.icache := rfl
@[simp] theorem Mach.note_objects (m : Mach) (c : Nat) (r : ErrRec) : (m.note c r).objects = m.objects := rfl
@[simp] theorem Mach.note_ctxs (m : Mach) (c : Nat) (r : ErrRec) : (m.note c r).ctxs = m.ctxs := rfl
@[simp] theorem Mach.note_parts (m : Mach) (c : Nat) (r : ErrRec) : (m.note c r).parts = m.parts := rfl
@[simp] theorem Mach.note_chans (m : Mach) (c : Nat) (r : ErrRec) : (m.note c r).chans = m.chans := rfl
@[simp] theorem Mach.note_matrix (m : Mach) (c : Nat) (r : ErrRec) : (m.note c r).matrix = m.matrix := rfl
@[simp] theorem Mach.note_engines (m : Mach) (c : Nat) (r : ErrRec) : (m.note c r).engines = m.engines := rfl
@[simp] theorem Mach.note_nodes (m : Mach) (c : Nat) (r : ErrRec) : (m.note c r).nodes = m.nodes := rfl
@[simp] theorem Mach.note_colls (m : Mach) (c : Nat) (r : ErrRec) : (m.note c r).colls = m.colls := rfl
@[simp] theorem Mach.note_done (m : Mach) (c : Nat) (r : ErrRec) : (m.note c r).done = m.done := rfl
@[simp] theorem Mach.note_ext (m : Mach) (c : Nat) (r : ErrRec) : (m.note c r).ext = m.ext := rfl
@[simp] theorem Mach.note_portsUp (m : Mach) (c : Nat) (r : ErrRec) : (m.note c r).portsUp = m.portsUp := rfl
@[simp] theorem Mach.note_portsTrain (m : Mach) (c : Nat) (r : ErrRec) : (m.note c r).portsTrain = m.portsTrain := rfl
@[simp] theorem Mach.note_imports (m : Mach) (c : Nat) (r : ErrRec) : (m.note c r).imports = m.imports := rfl
@[simp] theorem Mach.note_rootsUp (m : Mach) (c : Nat) (r : ErrRec) : (m.note c r).rootsUp = m.rootsUp := rfl
@[simp] theorem Mach.note_irqs (m : Mach) (c : Nat) (r : ErrRec) : (m.note c r).irqs = m.irqs := rfl
@[simp] theorem Mach.note_order (m : Mach) (c : Nat) (r : ErrRec) : (m.note c r).order = m.order := rfl
@[simp] theorem Mach.note_free (m : Mach) (c : Nat) (r : ErrRec) : (m.note c r).free = m.free := rfl

/-! ### Mach.noteUnit -/

@[simp] theorem Mach.noteUnit_t (m : Mach) (r : ErrRec) : (m.noteUnit r).t = m.t := rfl
@[simp] theorem Mach.noteUnit_others (m : Mach) (r : ErrRec) : (m.noteUnit r).others = m.others := rfl
@[simp] theorem Mach.noteUnit_cycle (m : Mach) (r : ErrRec) : (m.noteUnit r).cycle = m.cycle := rfl
@[simp] theorem Mach.noteUnit_mem (m : Mach) (r : ErrRec) : (m.noteUnit r).mem = m.mem := rfl
@[simp] theorem Mach.noteUnit_front (m : Mach) (r : ErrRec) : (m.noteUnit r).front = m.front := rfl
@[simp] theorem Mach.noteUnit_fe (m : Mach) (r : ErrRec) : (m.noteUnit r).fe = m.fe := rfl
@[simp] theorem Mach.noteUnit_windows (m : Mach) (r : ErrRec) : (m.noteUnit r).windows = m.windows := rfl
@[simp] theorem Mach.noteUnit_tlb (m : Mach) (r : ErrRec) : (m.noteUnit r).tlb = m.tlb := rfl
@[simp] theorem Mach.noteUnit_dtlb (m : Mach) (r : ErrRec) : (m.noteUnit r).dtlb = m.dtlb := rfl
@[simp] theorem Mach.noteUnit_weak (m : Mach) (r : ErrRec) : (m.noteUnit r).weak = m.weak := rfl
@[simp] theorem Mach.noteUnit_reqs (m : Mach) (r : ErrRec) : (m.noteUnit r).reqs = m.reqs := rfl
@[simp] theorem Mach.noteUnit_codeOld (m : Mach) (r : ErrRec) : (m.noteUnit r).codeOld = m.codeOld := rfl
@[simp] theorem Mach.noteUnit_faults (m : Mach) (r : ErrRec) : (m.noteUnit r).faults = m.faults := rfl
@[simp] theorem Mach.noteUnit_gbars (m : Mach) (r : ErrRec) : (m.noteUnit r).gbars = m.gbars := rfl
@[simp] theorem Mach.noteUnit_rcache (m : Mach) (r : ErrRec) : (m.noteUnit r).rcache = m.rcache := rfl
@[simp] theorem Mach.noteUnit_icache (m : Mach) (r : ErrRec) : (m.noteUnit r).icache = m.icache := rfl
@[simp] theorem Mach.noteUnit_objects (m : Mach) (r : ErrRec) : (m.noteUnit r).objects = m.objects := rfl
@[simp] theorem Mach.noteUnit_ctxs (m : Mach) (r : ErrRec) : (m.noteUnit r).ctxs = m.ctxs := rfl
@[simp] theorem Mach.noteUnit_parts (m : Mach) (r : ErrRec) : (m.noteUnit r).parts = m.parts := rfl
@[simp] theorem Mach.noteUnit_chans (m : Mach) (r : ErrRec) : (m.noteUnit r).chans = m.chans := rfl
@[simp] theorem Mach.noteUnit_matrix (m : Mach) (r : ErrRec) : (m.noteUnit r).matrix = m.matrix := rfl
@[simp] theorem Mach.noteUnit_engines (m : Mach) (r : ErrRec) : (m.noteUnit r).engines = m.engines := rfl
@[simp] theorem Mach.noteUnit_nodes (m : Mach) (r : ErrRec) : (m.noteUnit r).nodes = m.nodes := rfl
@[simp] theorem Mach.noteUnit_colls (m : Mach) (r : ErrRec) : (m.noteUnit r).colls = m.colls := rfl
@[simp] theorem Mach.noteUnit_done (m : Mach) (r : ErrRec) : (m.noteUnit r).done = m.done := rfl
@[simp] theorem Mach.noteUnit_ext (m : Mach) (r : ErrRec) : (m.noteUnit r).ext = m.ext := rfl
@[simp] theorem Mach.noteUnit_portsUp (m : Mach) (r : ErrRec) : (m.noteUnit r).portsUp = m.portsUp := rfl
@[simp] theorem Mach.noteUnit_portsTrain (m : Mach) (r : ErrRec) : (m.noteUnit r).portsTrain = m.portsTrain := rfl
@[simp] theorem Mach.noteUnit_imports (m : Mach) (r : ErrRec) : (m.noteUnit r).imports = m.imports := rfl
@[simp] theorem Mach.noteUnit_rootsUp (m : Mach) (r : ErrRec) : (m.noteUnit r).rootsUp = m.rootsUp := rfl
@[simp] theorem Mach.noteUnit_irqs (m : Mach) (r : ErrRec) : (m.noteUnit r).irqs = m.irqs := rfl
@[simp] theorem Mach.noteUnit_order (m : Mach) (r : ErrRec) : (m.noteUnit r).order = m.order := rfl
@[simp] theorem Mach.noteUnit_free (m : Mach) (r : ErrRec) : (m.noteUnit r).free = m.free := rfl

/-! ### Task.putCell -/

@[simp] theorem Task.putCell_seat (t : Task) (k : Nat) (c : RCell) : (t.putCell k c).seat = t.seat := rfl
@[simp] theorem Task.putCell_cluster (t : Task) (k : Nat) (c : RCell) : (t.putCell k c).cluster = t.cluster := rfl
@[simp] theorem Task.putCell_bound (t : Task) (k : Nat) (c : RCell) : (t.putCell k c).bound = t.bound := rfl
@[simp] theorem Task.putCell_lines (t : Task) (k : Nat) (c : RCell) : (t.putCell k c).lines = t.lines := rfl
@[simp] theorem Task.putCell_contAt (t : Task) (k : Nat) (c : RCell) : (t.putCell k c).contAt = t.contAt := rfl
@[simp] theorem Task.putCell_prio (t : Task) (k : Nat) (c : RCell) : (t.putCell k c).prio = t.prio := rfl
@[simp] theorem Task.putCell_basePrio (t : Task) (k : Nat) (c : RCell) : (t.putCell k c).basePrio = t.basePrio := rfl
@[simp] theorem Task.putCell_queuedAt (t : Task) (k : Nat) (c : RCell) : (t.putCell k c).queuedAt = t.queuedAt := rfl
@[simp] theorem Task.putCell_queueNo (t : Task) (k : Nat) (c : RCell) : (t.putCell k c).queueNo = t.queueNo := rfl
@[simp] theorem Task.putCell_migrates (t : Task) (k : Nat) (c : RCell) : (t.putCell k c).migrates = t.migrates := rfl
@[simp] theorem Task.putCell_regang (t : Task) (k : Nat) (c : RCell) : (t.putCell k c).regang = t.regang := rfl
@[simp] theorem Task.putCell_issued (t : Task) (k : Nat) (c : RCell) : (t.putCell k c).issued = t.issued := rfl
@[simp] theorem Task.putCell_parkedCycles (t : Task) (k : Nat) (c : RCell) : (t.putCell k c).parkedCycles = t.parkedCycles := rfl
@[simp] theorem Task.putCell_seated (t : Task) (k : Nat) (c : RCell) : (t.putCell k c).seated = t.seated := rfl
@[simp] theorem Task.putCell_stop (t : Task) (k : Nat) (c : RCell) : (t.putCell k c).stop = t.stop := rfl
@[simp] theorem Task.putCell_halted (t : Task) (k : Nat) (c : RCell) : (t.putCell k c).halted = t.halted := rfl
@[simp] theorem Task.putCell_skid (t : Task) (k : Nat) (c : RCell) : (t.putCell k c).skid = t.skid := rfl
@[simp] theorem Task.putCell_struck (t : Task) (k : Nat) (c : RCell) : (t.putCell k c).struck = t.struck := rfl
@[simp] theorem Task.putCell_passBreak (t : Task) (k : Nat) (c : RCell) : (t.putCell k c).passBreak = t.passBreak := rfl
@[simp] theorem Task.putCell_stepDue (t : Task) (k : Nat) (c : RCell) : (t.putCell k c).stepDue = t.stepDue := rfl
@[simp] theorem Task.putCell_passWatch (t : Task) (k : Nat) (c : RCell) : (t.putCell k c).passWatch = t.passWatch := rfl
@[simp] theorem Task.putCell_wpPhys (t : Task) (k : Nat) (c : RCell) : (t.putCell k c).wpPhys = t.wpPhys := rfl
@[simp] theorem Task.putCell_gid (t : Task) (k : Nat) (c : RCell) : (t.putCell k c).gid = t.gid := rfl
@[simp] theorem Task.putCell_kind (t : Task) (k : Nat) (c : RCell) : (t.putCell k c).kind = t.kind := rfl
@[simp] theorem Task.putCell_rec_ (t : Task) (k : Nat) (c : RCell) : (t.putCell k c).rec_ = t.rec_ := rfl
@[simp] theorem Task.putCell_img (t : Task) (k : Nat) (c : RCell) : (t.putCell k c).img = { t.img with regs := Tab.put RCell.fresh t.img.regs k c } := rfl
@[simp] theorem Task.putCell_x (t : Task) (k : Nat) (c : RCell) : (t.putCell k c).x = t.x := rfl
@[simp] theorem Task.putCell_fol (t : Task) (k : Nat) (c : RCell) : (t.putCell k c).fol = t.fol := rfl
@[simp] theorem Task.putCell_ctl (t : Task) (k : Nat) (c : RCell) : (t.putCell k c).ctl = t.ctl := rfl
@[simp] theorem Task.putCell_pc (t : Task) (k : Nat) (c : RCell) : (t.putCell k c).pc = t.pc := rfl
@[simp] theorem Task.putCell_npc (t : Task) (k : Nat) (c : RCell) : (t.putCell k c).npc = t.npc := rfl
@[simp] theorem Task.putCell_workId (t : Task) (k : Nat) (c : RCell) : (t.putCell k c).workId = t.workId := rfl
@[simp] theorem Task.putCell_lo (t : Task) (k : Nat) (c : RCell) : (t.putCell k c).lo = t.lo := rfl
@[simp] theorem Task.putCell_hi (t : Task) (k : Nat) (c : RCell) : (t.putCell k c).hi = t.hi := rfl
@[simp] theorem Task.putCell_isSealed (t : Task) (k : Nat) (c : RCell) : (t.putCell k c).isSealed = t.isSealed := rfl
@[simp] theorem Task.putCell_curs (t : Task) (k : Nat) (c : RCell) : (t.putCell k c).curs = t.curs := rfl
@[simp] theorem Task.putCell_curGen (t : Task) (k : Nat) (c : RCell) : (t.putCell k c).curGen = t.curGen := rfl
@[simp] theorem Task.putCell_produces (t : Task) (k : Nat) (c : RCell) : (t.putCell k c).produces = t.produces := rfl
@[simp] theorem Task.putCell_caller (t : Task) (k : Nat) (c : RCell) : (t.putCell k c).caller = t.caller := rfl
@[simp] theorem Task.putCell_rstat (t : Task) (k : Nat) (c : RCell) : (t.putCell k c).rstat = t.rstat := rfl
@[simp] theorem Task.putCell_phase (t : Task) (k : Nat) (c : RCell) : (t.putCell k c).phase = t.phase := rfl
@[simp] theorem Task.putCell_owed (t : Task) (k : Nat) (c : RCell) : (t.putCell k c).owed = t.owed := rfl
@[simp] theorem Task.putCell_gbarE (t : Task) (k : Nat) (c : RCell) : (t.putCell k c).gbarE = t.gbarE := rfl
@[simp] theorem Task.putCell_answered (t : Task) (k : Nat) (c : RCell) : (t.putCell k c).answered = t.answered := rfl
@[simp] theorem Task.putCell_prodNo (t : Task) (k : Nat) (c : RCell) : (t.putCell k c).prodNo = t.prodNo := rfl
@[simp] theorem Task.putCell_nack (t : Task) (k : Nat) (c : RCell) : (t.putCell k c).nack = t.nack := rfl
@[simp] theorem Task.putCell_frame (t : Task) (k : Nat) (c : RCell) : (t.putCell k c).frame = t.frame := rfl
@[simp] theorem Task.putCell_written (t : Task) (k : Nat) (c : RCell) : (t.putCell k c).written = t.written := rfl
@[simp] theorem Task.putCell_gated (t : Task) (k : Nat) (c : RCell) : (t.putCell k c).gated = t.gated := rfl
@[simp] theorem Task.putCell_readyFrom (t : Task) (k : Nat) (c : RCell) : (t.putCell k c).readyFrom = t.readyFrom := rfl
@[simp] theorem Task.putCell_leave (t : Task) (k : Nat) (c : RCell) : (t.putCell k c).leave = t.leave := rfl
@[simp] theorem Task.putCell_sendTo (t : Task) (k : Nat) (c : RCell) : (t.putCell k c).sendTo = t.sendTo := rfl
@[simp] theorem Task.putCell_acqCl (t : Task) (k : Nat) (c : RCell) : (t.putCell k c).acqCl = t.acqCl := rfl
@[simp] theorem Task.putCell_acqDv (t : Task) (k : Nat) (c : RCell) : (t.putCell k c).acqDv = t.acqDv := rfl
@[simp] theorem Task.putCell_acqSy (t : Task) (k : Nat) (c : RCell) : (t.putCell k c).acqSy = t.acqSy := rfl

/-! ### Task.retire -/

@[simp] theorem Task.retire_seat (t : Task) : (t.retire).seat = t.seat := rfl
@[simp] theorem Task.retire_cluster (t : Task) : (t.retire).cluster = t.cluster := rfl
@[simp] theorem Task.retire_bound (t : Task) : (t.retire).bound = t.bound := rfl
@[simp] theorem Task.retire_lines (t : Task) : (t.retire).lines = t.lines := rfl
@[simp] theorem Task.retire_contAt (t : Task) : (t.retire).contAt = t.contAt := rfl
@[simp] theorem Task.retire_prio (t : Task) : (t.retire).prio = t.prio := rfl
@[simp] theorem Task.retire_basePrio (t : Task) : (t.retire).basePrio = t.basePrio := rfl
@[simp] theorem Task.retire_queuedAt (t : Task) : (t.retire).queuedAt = t.queuedAt := rfl
@[simp] theorem Task.retire_queueNo (t : Task) : (t.retire).queueNo = t.queueNo := rfl
@[simp] theorem Task.retire_migrates (t : Task) : (t.retire).migrates = t.migrates := rfl
@[simp] theorem Task.retire_regang (t : Task) : (t.retire).regang = t.regang := rfl
@[simp] theorem Task.retire_issued (t : Task) : (t.retire).issued = t.issued := rfl
@[simp] theorem Task.retire_parkedCycles (t : Task) : (t.retire).parkedCycles = t.parkedCycles := rfl
@[simp] theorem Task.retire_seated (t : Task) : (t.retire).seated = t.seated := rfl
@[simp] theorem Task.retire_stop (t : Task) : (t.retire).stop = t.stop := rfl
@[simp] theorem Task.retire_halted (t : Task) : (t.retire).halted = t.halted := rfl
@[simp] theorem Task.retire_skid (t : Task) : (t.retire).skid = t.skid := rfl
@[simp] theorem Task.retire_struck (t : Task) : (t.retire).struck = t.struck := rfl
@[simp] theorem Task.retire_wpPhys (t : Task) : (t.retire).wpPhys = t.wpPhys := rfl
@[simp] theorem Task.retire_gid (t : Task) : (t.retire).gid = t.gid := rfl
@[simp] theorem Task.retire_kind (t : Task) : (t.retire).kind = t.kind := rfl
@[simp] theorem Task.retire_rec_ (t : Task) : (t.retire).rec_ = t.rec_ := rfl
@[simp] theorem Task.retire_img (t : Task) : (t.retire).img = t.img := rfl
@[simp] theorem Task.retire_x (t : Task) : (t.retire).x = t.x := rfl
@[simp] theorem Task.retire_fol (t : Task) : (t.retire).fol = t.fol := rfl
@[simp] theorem Task.retire_ctl (t : Task) : (t.retire).ctl = t.ctl := rfl
@[simp] theorem Task.retire_pc (t : Task) : (t.retire).pc = t.npc := rfl
@[simp] theorem Task.retire_npc (t : Task) : (t.retire).npc = t.npc := rfl
@[simp] theorem Task.retire_workId (t : Task) : (t.retire).workId = t.workId := rfl
@[simp] theorem Task.retire_lo (t : Task) : (t.retire).lo = t.lo := rfl
@[simp] theorem Task.retire_hi (t : Task) : (t.retire).hi = t.hi := rfl
@[simp] theorem Task.retire_isSealed (t : Task) : (t.retire).isSealed = t.isSealed := rfl
@[simp] theorem Task.retire_curs (t : Task) : (t.retire).curs = t.curs := rfl
@[simp] theorem Task.retire_curGen (t : Task) : (t.retire).curGen = t.curGen := rfl
@[simp] theorem Task.retire_produces (t : Task) : (t.retire).produces = t.produces := rfl
@[simp] theorem Task.retire_caller (t : Task) : (t.retire).caller = t.caller := rfl
@[simp] theorem Task.retire_region (t : Task) : (t.retire).region = t.region := rfl
@[simp] theorem Task.retire_rstat (t : Task) : (t.retire).rstat = t.rstat := rfl
@[simp] theorem Task.retire_phase (t : Task) : (t.retire).phase = t.phase := rfl
@[simp] theorem Task.retire_owed (t : Task) : (t.retire).owed = t.owed := rfl
@[simp] theorem Task.retire_gbarE (t : Task) : (t.retire).gbarE = t.gbarE := rfl
@[simp] theorem Task.retire_acqCl (t : Task) : (t.retire).acqCl = t.acqCl := rfl
@[simp] theorem Task.retire_acqDv (t : Task) : (t.retire).acqDv = t.acqDv := rfl
@[simp] theorem Task.retire_acqSy (t : Task) : (t.retire).acqSy = t.acqSy := rfl

/-! ### Task.resume -/

@[simp] theorem Task.resume_seat (t : Task) : (t.resume).seat = t.seat := rfl
@[simp] theorem Task.resume_cluster (t : Task) : (t.resume).cluster = t.cluster := rfl
@[simp] theorem Task.resume_bound (t : Task) : (t.resume).bound = t.bound := rfl
@[simp] theorem Task.resume_lines (t : Task) : (t.resume).lines = t.lines := rfl
@[simp] theorem Task.resume_contAt (t : Task) : (t.resume).contAt = t.contAt := rfl
@[simp] theorem Task.resume_prio (t : Task) : (t.resume).prio = t.prio := rfl
@[simp] theorem Task.resume_basePrio (t : Task) : (t.resume).basePrio = t.basePrio := rfl
@[simp] theorem Task.resume_queuedAt (t : Task) : (t.resume).queuedAt = t.queuedAt := rfl
@[simp] theorem Task.resume_queueNo (t : Task) : (t.resume).queueNo = t.queueNo := rfl
@[simp] theorem Task.resume_migrates (t : Task) : (t.resume).migrates = t.migrates := rfl
@[simp] theorem Task.resume_regang (t : Task) : (t.resume).regang = t.regang := rfl
@[simp] theorem Task.resume_issued (t : Task) : (t.resume).issued = t.issued := rfl
@[simp] theorem Task.resume_parkedCycles (t : Task) : (t.resume).parkedCycles = t.parkedCycles := rfl
@[simp] theorem Task.resume_seated (t : Task) : (t.resume).seated = t.seated := rfl
@[simp] theorem Task.resume_stop (t : Task) : (t.resume).stop = t.stop := rfl
@[simp] theorem Task.resume_halted (t : Task) : (t.resume).halted = t.halted := rfl
@[simp] theorem Task.resume_skid (t : Task) : (t.resume).skid = t.skid := rfl
@[simp] theorem Task.resume_struck (t : Task) : (t.resume).struck = t.struck := rfl
@[simp] theorem Task.resume_wpPhys (t : Task) : (t.resume).wpPhys = t.wpPhys := rfl
@[simp] theorem Task.resume_gid (t : Task) : (t.resume).gid = t.gid := rfl
@[simp] theorem Task.resume_kind (t : Task) : (t.resume).kind = t.kind := rfl
@[simp] theorem Task.resume_rec_ (t : Task) : (t.resume).rec_ = t.rec_ := rfl
@[simp] theorem Task.resume_img (t : Task) : (t.resume).img = t.img := rfl
@[simp] theorem Task.resume_x (t : Task) : (t.resume).x = t.x := rfl
@[simp] theorem Task.resume_fol (t : Task) : (t.resume).fol = t.fol := rfl
@[simp] theorem Task.resume_ctl (t : Task) : (t.resume).ctl = t.ctl := rfl
@[simp] theorem Task.resume_pc (t : Task) : (t.resume).pc = t.npc := rfl
@[simp] theorem Task.resume_npc (t : Task) : (t.resume).npc = t.npc := rfl
@[simp] theorem Task.resume_workId (t : Task) : (t.resume).workId = t.workId := rfl
@[simp] theorem Task.resume_lo (t : Task) : (t.resume).lo = t.lo := rfl
@[simp] theorem Task.resume_hi (t : Task) : (t.resume).hi = t.hi := rfl
@[simp] theorem Task.resume_isSealed (t : Task) : (t.resume).isSealed = t.isSealed := rfl
@[simp] theorem Task.resume_curs (t : Task) : (t.resume).curs = t.curs := rfl
@[simp] theorem Task.resume_curGen (t : Task) : (t.resume).curGen = t.curGen := rfl
@[simp] theorem Task.resume_produces (t : Task) : (t.resume).produces = t.produces := rfl
@[simp] theorem Task.resume_caller (t : Task) : (t.resume).caller = t.caller := rfl
@[simp] theorem Task.resume_region (t : Task) : (t.resume).region = t.region := rfl
@[simp] theorem Task.resume_rstat (t : Task) : (t.resume).rstat = t.rstat := rfl
@[simp] theorem Task.resume_phase (t : Task) : (t.resume).phase = .ready := rfl
@[simp] theorem Task.resume_owed (t : Task) : (t.resume).owed = t.owed := rfl
@[simp] theorem Task.resume_gbarE (t : Task) : (t.resume).gbarE = t.gbarE := rfl
@[simp] theorem Task.resume_acqCl (t : Task) : (t.resume).acqCl = t.acqCl := rfl
@[simp] theorem Task.resume_acqDv (t : Task) : (t.resume).acqDv = t.acqDv := rfl
@[simp] theorem Task.resume_acqSy (t : Task) : (t.resume).acqSy = t.acqSy := rfl

/-! ### Task.deliver -/

@[simp] theorem Task.deliver_seat (t : Task) (code : Nat) (a : Word) (k : Nat) : (t.deliver code a k).seat = t.seat := rfl
@[simp] theorem Task.deliver_cluster (t : Task) (code : Nat) (a : Word) (k : Nat) : (t.deliver code a k).cluster = t.cluster := rfl
@[simp] theorem Task.deliver_bound (t : Task) (code : Nat) (a : Word) (k : Nat) : (t.deliver code a k).bound = t.bound := rfl
@[simp] theorem Task.deliver_lines (t : Task) (code : Nat) (a : Word) (k : Nat) : (t.deliver code a k).lines = t.lines := rfl
@[simp] theorem Task.deliver_contAt (t : Task) (code : Nat) (a : Word) (k : Nat) : (t.deliver code a k).contAt = t.contAt := rfl
@[simp] theorem Task.deliver_prio (t : Task) (code : Nat) (a : Word) (k : Nat) : (t.deliver code a k).prio = t.prio := rfl
@[simp] theorem Task.deliver_basePrio (t : Task) (code : Nat) (a : Word) (k : Nat) : (t.deliver code a k).basePrio = t.basePrio := rfl
@[simp] theorem Task.deliver_queuedAt (t : Task) (code : Nat) (a : Word) (k : Nat) : (t.deliver code a k).queuedAt = t.queuedAt := rfl
@[simp] theorem Task.deliver_queueNo (t : Task) (code : Nat) (a : Word) (k : Nat) : (t.deliver code a k).queueNo = t.queueNo := rfl
@[simp] theorem Task.deliver_migrates (t : Task) (code : Nat) (a : Word) (k : Nat) : (t.deliver code a k).migrates = t.migrates := rfl
@[simp] theorem Task.deliver_regang (t : Task) (code : Nat) (a : Word) (k : Nat) : (t.deliver code a k).regang = t.regang := rfl
@[simp] theorem Task.deliver_issued (t : Task) (code : Nat) (a : Word) (k : Nat) : (t.deliver code a k).issued = t.issued := rfl
@[simp] theorem Task.deliver_parkedCycles (t : Task) (code : Nat) (a : Word) (k : Nat) : (t.deliver code a k).parkedCycles = t.parkedCycles := rfl
@[simp] theorem Task.deliver_seated (t : Task) (code : Nat) (a : Word) (k : Nat) : (t.deliver code a k).seated = t.seated := rfl
@[simp] theorem Task.deliver_stop (t : Task) (code : Nat) (a : Word) (k : Nat) : (t.deliver code a k).stop = t.stop := rfl
@[simp] theorem Task.deliver_halted (t : Task) (code : Nat) (a : Word) (k : Nat) : (t.deliver code a k).halted = t.halted := rfl
@[simp] theorem Task.deliver_skid (t : Task) (code : Nat) (a : Word) (k : Nat) : (t.deliver code a k).skid = t.skid := rfl
@[simp] theorem Task.deliver_struck (t : Task) (code : Nat) (a : Word) (k : Nat) : (t.deliver code a k).struck = t.struck := rfl
@[simp] theorem Task.deliver_passBreak (t : Task) (code : Nat) (a : Word) (k : Nat) : (t.deliver code a k).passBreak = false := rfl
@[simp] theorem Task.deliver_stepDue (t : Task) (code : Nat) (a : Word) (k : Nat) : (t.deliver code a k).stepDue = t.stepDue := rfl
@[simp] theorem Task.deliver_passWatch (t : Task) (code : Nat) (a : Word) (k : Nat) : (t.deliver code a k).passWatch = false := rfl
@[simp] theorem Task.deliver_wpPhys (t : Task) (code : Nat) (a : Word) (k : Nat) : (t.deliver code a k).wpPhys = t.wpPhys := rfl
@[simp] theorem Task.deliver_gid (t : Task) (code : Nat) (a : Word) (k : Nat) : (t.deliver code a k).gid = t.gid := rfl
@[simp] theorem Task.deliver_kind (t : Task) (code : Nat) (a : Word) (k : Nat) : (t.deliver code a k).kind = t.kind := rfl
@[simp] theorem Task.deliver_rec_ (t : Task) (code : Nat) (a : Word) (k : Nat) : (t.deliver code a k).rec_ = t.rec_ := rfl
@[simp] theorem Task.deliver_img (t : Task) (code : Nat) (a : Word) (k : Nat) : (t.deliver code a k).img = t.img := rfl
@[simp] theorem Task.deliver_x (t : Task) (code : Nat) (a : Word) (k : Nat) : (t.deliver code a k).x = t.x := rfl
@[simp] theorem Task.deliver_fol (t : Task) (code : Nat) (a : Word) (k : Nat) : (t.deliver code a k).fol = t.fol := rfl
@[simp] theorem Task.deliver_workId (t : Task) (code : Nat) (a : Word) (k : Nat) : (t.deliver code a k).workId = t.workId := rfl
@[simp] theorem Task.deliver_lo (t : Task) (code : Nat) (a : Word) (k : Nat) : (t.deliver code a k).lo = t.lo := rfl
@[simp] theorem Task.deliver_hi (t : Task) (code : Nat) (a : Word) (k : Nat) : (t.deliver code a k).hi = t.hi := rfl
@[simp] theorem Task.deliver_isSealed (t : Task) (code : Nat) (a : Word) (k : Nat) : (t.deliver code a k).isSealed = t.isSealed := rfl
@[simp] theorem Task.deliver_curs (t : Task) (code : Nat) (a : Word) (k : Nat) : (t.deliver code a k).curs = t.curs := rfl
@[simp] theorem Task.deliver_curGen (t : Task) (code : Nat) (a : Word) (k : Nat) : (t.deliver code a k).curGen = t.curGen := rfl
@[simp] theorem Task.deliver_produces (t : Task) (code : Nat) (a : Word) (k : Nat) : (t.deliver code a k).produces = t.produces := rfl
@[simp] theorem Task.deliver_caller (t : Task) (code : Nat) (a : Word) (k : Nat) : (t.deliver code a k).caller = t.caller := rfl
@[simp] theorem Task.deliver_region (t : Task) (code : Nat) (a : Word) (k : Nat) : (t.deliver code a k).region = t.region := rfl
@[simp] theorem Task.deliver_rstat (t : Task) (code : Nat) (a : Word) (k : Nat) : (t.deliver code a k).rstat = t.rstat := rfl
@[simp] theorem Task.deliver_phase (t : Task) (code : Nat) (a : Word) (k : Nat) : (t.deliver code a k).phase = t.phase := rfl
@[simp] theorem Task.deliver_owed (t : Task) (code : Nat) (a : Word) (k : Nat) : (t.deliver code a k).owed = t.owed := rfl
@[simp] theorem Task.deliver_gbarE (t : Task) (code : Nat) (a : Word) (k : Nat) : (t.deliver code a k).gbarE = t.gbarE := rfl
@[simp] theorem Task.deliver_answered (t : Task) (code : Nat) (a : Word) (k : Nat) : (t.deliver code a k).answered = t.answered := rfl
@[simp] theorem Task.deliver_prodNo (t : Task) (code : Nat) (a : Word) (k : Nat) : (t.deliver code a k).prodNo = t.prodNo := rfl
@[simp] theorem Task.deliver_nack (t : Task) (code : Nat) (a : Word) (k : Nat) : (t.deliver code a k).nack = t.nack := rfl
@[simp] theorem Task.deliver_frame (t : Task) (code : Nat) (a : Word) (k : Nat) : (t.deliver code a k).frame = t.frame := rfl
@[simp] theorem Task.deliver_written (t : Task) (code : Nat) (a : Word) (k : Nat) : (t.deliver code a k).written = t.written := rfl
@[simp] theorem Task.deliver_gated (t : Task) (code : Nat) (a : Word) (k : Nat) : (t.deliver code a k).gated = t.gated := rfl
@[simp] theorem Task.deliver_readyFrom (t : Task) (code : Nat) (a : Word) (k : Nat) : (t.deliver code a k).readyFrom = t.readyFrom := rfl
@[simp] theorem Task.deliver_leave (t : Task) (code : Nat) (a : Word) (k : Nat) : (t.deliver code a k).leave = t.leave := rfl
@[simp] theorem Task.deliver_sendTo (t : Task) (code : Nat) (a : Word) (k : Nat) : (t.deliver code a k).sendTo = t.sendTo := rfl
@[simp] theorem Task.deliver_acqCl (t : Task) (code : Nat) (a : Word) (k : Nat) : (t.deliver code a k).acqCl = t.acqCl := rfl
@[simp] theorem Task.deliver_acqDv (t : Task) (code : Nat) (a : Word) (k : Nat) : (t.deliver code a k).acqDv = t.acqDv := rfl
@[simp] theorem Task.deliver_acqSy (t : Task) (code : Nat) (a : Word) (k : Nat) : (t.deliver code a k).acqSy = t.acqSy := rfl

/-! ### Task.record -/

@[simp] theorem Task.record_seat (t : Task) (code : Nat) (a : Word) (k : Nat) : (t.record code a k).seat = t.seat := rfl
@[simp] theorem Task.record_cluster (t : Task) (code : Nat) (a : Word) (k : Nat) : (t.record code a k).cluster = t.cluster := rfl
@[simp] theorem Task.record_bound (t : Task) (code : Nat) (a : Word) (k : Nat) : (t.record code a k).bound = t.bound := rfl
@[simp] theorem Task.record_lines (t : Task) (code : Nat) (a : Word) (k : Nat) : (t.record code a k).lines = t.lines := rfl
@[simp] theorem Task.record_contAt (t : Task) (code : Nat) (a : Word) (k : Nat) : (t.record code a k).contAt = t.contAt := rfl
@[simp] theorem Task.record_prio (t : Task) (code : Nat) (a : Word) (k : Nat) : (t.record code a k).prio = t.prio := rfl
@[simp] theorem Task.record_basePrio (t : Task) (code : Nat) (a : Word) (k : Nat) : (t.record code a k).basePrio = t.basePrio := rfl
@[simp] theorem Task.record_queuedAt (t : Task) (code : Nat) (a : Word) (k : Nat) : (t.record code a k).queuedAt = t.queuedAt := rfl
@[simp] theorem Task.record_queueNo (t : Task) (code : Nat) (a : Word) (k : Nat) : (t.record code a k).queueNo = t.queueNo := rfl
@[simp] theorem Task.record_migrates (t : Task) (code : Nat) (a : Word) (k : Nat) : (t.record code a k).migrates = t.migrates := rfl
@[simp] theorem Task.record_regang (t : Task) (code : Nat) (a : Word) (k : Nat) : (t.record code a k).regang = t.regang := rfl
@[simp] theorem Task.record_issued (t : Task) (code : Nat) (a : Word) (k : Nat) : (t.record code a k).issued = t.issued := rfl
@[simp] theorem Task.record_parkedCycles (t : Task) (code : Nat) (a : Word) (k : Nat) : (t.record code a k).parkedCycles = t.parkedCycles := rfl
@[simp] theorem Task.record_seated (t : Task) (code : Nat) (a : Word) (k : Nat) : (t.record code a k).seated = t.seated := rfl
@[simp] theorem Task.record_stop (t : Task) (code : Nat) (a : Word) (k : Nat) : (t.record code a k).stop = t.stop := rfl
@[simp] theorem Task.record_halted (t : Task) (code : Nat) (a : Word) (k : Nat) : (t.record code a k).halted = t.halted := rfl
@[simp] theorem Task.record_skid (t : Task) (code : Nat) (a : Word) (k : Nat) : (t.record code a k).skid = t.skid := rfl
@[simp] theorem Task.record_struck (t : Task) (code : Nat) (a : Word) (k : Nat) : (t.record code a k).struck = t.struck := rfl
@[simp] theorem Task.record_passBreak (t : Task) (code : Nat) (a : Word) (k : Nat) : (t.record code a k).passBreak = t.passBreak := rfl
@[simp] theorem Task.record_stepDue (t : Task) (code : Nat) (a : Word) (k : Nat) : (t.record code a k).stepDue = t.stepDue := rfl
@[simp] theorem Task.record_passWatch (t : Task) (code : Nat) (a : Word) (k : Nat) : (t.record code a k).passWatch = t.passWatch := rfl
@[simp] theorem Task.record_wpPhys (t : Task) (code : Nat) (a : Word) (k : Nat) : (t.record code a k).wpPhys = t.wpPhys := rfl
@[simp] theorem Task.record_gid (t : Task) (code : Nat) (a : Word) (k : Nat) : (t.record code a k).gid = t.gid := rfl
@[simp] theorem Task.record_kind (t : Task) (code : Nat) (a : Word) (k : Nat) : (t.record code a k).kind = t.kind := rfl
@[simp] theorem Task.record_rec_ (t : Task) (code : Nat) (a : Word) (k : Nat) : (t.record code a k).rec_ = t.rec_ := rfl
@[simp] theorem Task.record_img (t : Task) (code : Nat) (a : Word) (k : Nat) : (t.record code a k).img = t.img := rfl
@[simp] theorem Task.record_x (t : Task) (code : Nat) (a : Word) (k : Nat) : (t.record code a k).x = t.x := rfl
@[simp] theorem Task.record_fol (t : Task) (code : Nat) (a : Word) (k : Nat) : (t.record code a k).fol = t.fol := rfl
@[simp] theorem Task.record_pc (t : Task) (code : Nat) (a : Word) (k : Nat) : (t.record code a k).pc = t.pc := rfl
@[simp] theorem Task.record_npc (t : Task) (code : Nat) (a : Word) (k : Nat) : (t.record code a k).npc = t.npc := rfl
@[simp] theorem Task.record_workId (t : Task) (code : Nat) (a : Word) (k : Nat) : (t.record code a k).workId = t.workId := rfl
@[simp] theorem Task.record_lo (t : Task) (code : Nat) (a : Word) (k : Nat) : (t.record code a k).lo = t.lo := rfl
@[simp] theorem Task.record_hi (t : Task) (code : Nat) (a : Word) (k : Nat) : (t.record code a k).hi = t.hi := rfl
@[simp] theorem Task.record_isSealed (t : Task) (code : Nat) (a : Word) (k : Nat) : (t.record code a k).isSealed = t.isSealed := rfl
@[simp] theorem Task.record_curs (t : Task) (code : Nat) (a : Word) (k : Nat) : (t.record code a k).curs = t.curs := rfl
@[simp] theorem Task.record_curGen (t : Task) (code : Nat) (a : Word) (k : Nat) : (t.record code a k).curGen = t.curGen := rfl
@[simp] theorem Task.record_produces (t : Task) (code : Nat) (a : Word) (k : Nat) : (t.record code a k).produces = t.produces := rfl
@[simp] theorem Task.record_caller (t : Task) (code : Nat) (a : Word) (k : Nat) : (t.record code a k).caller = t.caller := rfl
@[simp] theorem Task.record_region (t : Task) (code : Nat) (a : Word) (k : Nat) : (t.record code a k).region = t.region := rfl
@[simp] theorem Task.record_rstat (t : Task) (code : Nat) (a : Word) (k : Nat) : (t.record code a k).rstat = t.rstat := rfl
@[simp] theorem Task.record_phase (t : Task) (code : Nat) (a : Word) (k : Nat) : (t.record code a k).phase = t.phase := rfl
@[simp] theorem Task.record_owed (t : Task) (code : Nat) (a : Word) (k : Nat) : (t.record code a k).owed = t.owed := rfl
@[simp] theorem Task.record_gbarE (t : Task) (code : Nat) (a : Word) (k : Nat) : (t.record code a k).gbarE = t.gbarE := rfl
@[simp] theorem Task.record_answered (t : Task) (code : Nat) (a : Word) (k : Nat) : (t.record code a k).answered = t.answered := rfl
@[simp] theorem Task.record_prodNo (t : Task) (code : Nat) (a : Word) (k : Nat) : (t.record code a k).prodNo = t.prodNo := rfl
@[simp] theorem Task.record_nack (t : Task) (code : Nat) (a : Word) (k : Nat) : (t.record code a k).nack = t.nack := rfl
@[simp] theorem Task.record_frame (t : Task) (code : Nat) (a : Word) (k : Nat) : (t.record code a k).frame = t.frame := rfl
@[simp] theorem Task.record_written (t : Task) (code : Nat) (a : Word) (k : Nat) : (t.record code a k).written = t.written := rfl
@[simp] theorem Task.record_gated (t : Task) (code : Nat) (a : Word) (k : Nat) : (t.record code a k).gated = t.gated := rfl
@[simp] theorem Task.record_readyFrom (t : Task) (code : Nat) (a : Word) (k : Nat) : (t.record code a k).readyFrom = t.readyFrom := rfl
@[simp] theorem Task.record_leave (t : Task) (code : Nat) (a : Word) (k : Nat) : (t.record code a k).leave = t.leave := rfl
@[simp] theorem Task.record_sendTo (t : Task) (code : Nat) (a : Word) (k : Nat) : (t.record code a k).sendTo = t.sendTo := rfl
@[simp] theorem Task.record_acqCl (t : Task) (code : Nat) (a : Word) (k : Nat) : (t.record code a k).acqCl = t.acqCl := rfl
@[simp] theorem Task.record_acqDv (t : Task) (code : Nat) (a : Word) (k : Nat) : (t.record code a k).acqDv = t.acqDv := rfl
@[simp] theorem Task.record_acqSy (t : Task) (code : Nat) (a : Word) (k : Nat) : (t.record code a k).acqSy = t.acqSy := rfl

/-! ### Task.jump -/

@[simp] theorem Task.jump_seat (t : Task) (a : Word) : (t.jump a).seat = t.seat := rfl
@[simp] theorem Task.jump_cluster (t : Task) (a : Word) : (t.jump a).cluster = t.cluster := rfl
@[simp] theorem Task.jump_bound (t : Task) (a : Word) : (t.jump a).bound = t.bound := rfl
@[simp] theorem Task.jump_lines (t : Task) (a : Word) : (t.jump a).lines = t.lines := rfl
@[simp] theorem Task.jump_contAt (t : Task) (a : Word) : (t.jump a).contAt = t.contAt := rfl
@[simp] theorem Task.jump_prio (t : Task) (a : Word) : (t.jump a).prio = t.prio := rfl
@[simp] theorem Task.jump_basePrio (t : Task) (a : Word) : (t.jump a).basePrio = t.basePrio := rfl
@[simp] theorem Task.jump_queuedAt (t : Task) (a : Word) : (t.jump a).queuedAt = t.queuedAt := rfl
@[simp] theorem Task.jump_queueNo (t : Task) (a : Word) : (t.jump a).queueNo = t.queueNo := rfl
@[simp] theorem Task.jump_migrates (t : Task) (a : Word) : (t.jump a).migrates = t.migrates := rfl
@[simp] theorem Task.jump_regang (t : Task) (a : Word) : (t.jump a).regang = t.regang := rfl
@[simp] theorem Task.jump_issued (t : Task) (a : Word) : (t.jump a).issued = t.issued := rfl
@[simp] theorem Task.jump_parkedCycles (t : Task) (a : Word) : (t.jump a).parkedCycles = t.parkedCycles := rfl
@[simp] theorem Task.jump_seated (t : Task) (a : Word) : (t.jump a).seated = t.seated := rfl
@[simp] theorem Task.jump_stop (t : Task) (a : Word) : (t.jump a).stop = t.stop := rfl
@[simp] theorem Task.jump_halted (t : Task) (a : Word) : (t.jump a).halted = t.halted := rfl
@[simp] theorem Task.jump_skid (t : Task) (a : Word) : (t.jump a).skid = t.skid := rfl
@[simp] theorem Task.jump_struck (t : Task) (a : Word) : (t.jump a).struck = t.struck := rfl
@[simp] theorem Task.jump_passBreak (t : Task) (a : Word) : (t.jump a).passBreak = t.passBreak := rfl
@[simp] theorem Task.jump_stepDue (t : Task) (a : Word) : (t.jump a).stepDue = t.stepDue := rfl
@[simp] theorem Task.jump_passWatch (t : Task) (a : Word) : (t.jump a).passWatch = t.passWatch := rfl
@[simp] theorem Task.jump_wpPhys (t : Task) (a : Word) : (t.jump a).wpPhys = t.wpPhys := rfl
@[simp] theorem Task.jump_gid (t : Task) (a : Word) : (t.jump a).gid = t.gid := rfl
@[simp] theorem Task.jump_kind (t : Task) (a : Word) : (t.jump a).kind = t.kind := rfl
@[simp] theorem Task.jump_rec_ (t : Task) (a : Word) : (t.jump a).rec_ = t.rec_ := rfl
@[simp] theorem Task.jump_img (t : Task) (a : Word) : (t.jump a).img = t.img := rfl
@[simp] theorem Task.jump_x (t : Task) (a : Word) : (t.jump a).x = t.x := rfl
@[simp] theorem Task.jump_fol (t : Task) (a : Word) : (t.jump a).fol = t.fol := rfl
@[simp] theorem Task.jump_ctl (t : Task) (a : Word) : (t.jump a).ctl = t.ctl := rfl
@[simp] theorem Task.jump_pc (t : Task) (a : Word) : (t.jump a).pc = t.pc := rfl
@[simp] theorem Task.jump_npc (t : Task) (a : Word) : (t.jump a).npc = a := rfl
@[simp] theorem Task.jump_workId (t : Task) (a : Word) : (t.jump a).workId = t.workId := rfl
@[simp] theorem Task.jump_lo (t : Task) (a : Word) : (t.jump a).lo = t.lo := rfl
@[simp] theorem Task.jump_hi (t : Task) (a : Word) : (t.jump a).hi = t.hi := rfl
@[simp] theorem Task.jump_isSealed (t : Task) (a : Word) : (t.jump a).isSealed = t.isSealed := rfl
@[simp] theorem Task.jump_curs (t : Task) (a : Word) : (t.jump a).curs = t.curs := rfl
@[simp] theorem Task.jump_curGen (t : Task) (a : Word) : (t.jump a).curGen = t.curGen := rfl
@[simp] theorem Task.jump_produces (t : Task) (a : Word) : (t.jump a).produces = t.produces := rfl
@[simp] theorem Task.jump_caller (t : Task) (a : Word) : (t.jump a).caller = t.caller := rfl
@[simp] theorem Task.jump_region (t : Task) (a : Word) : (t.jump a).region = t.region := rfl
@[simp] theorem Task.jump_rstat (t : Task) (a : Word) : (t.jump a).rstat = t.rstat := rfl
@[simp] theorem Task.jump_phase (t : Task) (a : Word) : (t.jump a).phase = t.phase := rfl
@[simp] theorem Task.jump_owed (t : Task) (a : Word) : (t.jump a).owed = t.owed := rfl
@[simp] theorem Task.jump_gbarE (t : Task) (a : Word) : (t.jump a).gbarE = t.gbarE := rfl
@[simp] theorem Task.jump_answered (t : Task) (a : Word) : (t.jump a).answered = t.answered := rfl
@[simp] theorem Task.jump_prodNo (t : Task) (a : Word) : (t.jump a).prodNo = t.prodNo := rfl
@[simp] theorem Task.jump_nack (t : Task) (a : Word) : (t.jump a).nack = t.nack := rfl
@[simp] theorem Task.jump_frame (t : Task) (a : Word) : (t.jump a).frame = t.frame := rfl
@[simp] theorem Task.jump_written (t : Task) (a : Word) : (t.jump a).written = t.written := rfl
@[simp] theorem Task.jump_gated (t : Task) (a : Word) : (t.jump a).gated = t.gated := rfl
@[simp] theorem Task.jump_readyFrom (t : Task) (a : Word) : (t.jump a).readyFrom = t.readyFrom := rfl
@[simp] theorem Task.jump_leave (t : Task) (a : Word) : (t.jump a).leave = t.leave := rfl
@[simp] theorem Task.jump_sendTo (t : Task) (a : Word) : (t.jump a).sendTo = t.sendTo := rfl
@[simp] theorem Task.jump_acqCl (t : Task) (a : Word) : (t.jump a).acqCl = t.acqCl := rfl
@[simp] theorem Task.jump_acqDv (t : Task) (a : Word) : (t.jump a).acqDv = t.acqDv := rfl
@[simp] theorem Task.jump_acqSy (t : Task) (a : Word) : (t.jump a).acqSy = t.acqSy := rfl

/-! ### Task.setX -/

@[simp] theorem Task.setX_seat (t : Task) (x : Fin 4) (v : BitVec 16) : (t.setX x v).seat = t.seat := rfl
@[simp] theorem Task.setX_cluster (t : Task) (x : Fin 4) (v : BitVec 16) : (t.setX x v).cluster = t.cluster := rfl
@[simp] theorem Task.setX_bound (t : Task) (x : Fin 4) (v : BitVec 16) : (t.setX x v).bound = t.bound := rfl
@[simp] theorem Task.setX_lines (t : Task) (x : Fin 4) (v : BitVec 16) : (t.setX x v).lines = t.lines := rfl
@[simp] theorem Task.setX_contAt (t : Task) (x : Fin 4) (v : BitVec 16) : (t.setX x v).contAt = t.contAt := rfl
@[simp] theorem Task.setX_prio (t : Task) (x : Fin 4) (v : BitVec 16) : (t.setX x v).prio = t.prio := rfl
@[simp] theorem Task.setX_basePrio (t : Task) (x : Fin 4) (v : BitVec 16) : (t.setX x v).basePrio = t.basePrio := rfl
@[simp] theorem Task.setX_queuedAt (t : Task) (x : Fin 4) (v : BitVec 16) : (t.setX x v).queuedAt = t.queuedAt := rfl
@[simp] theorem Task.setX_queueNo (t : Task) (x : Fin 4) (v : BitVec 16) : (t.setX x v).queueNo = t.queueNo := rfl
@[simp] theorem Task.setX_migrates (t : Task) (x : Fin 4) (v : BitVec 16) : (t.setX x v).migrates = t.migrates := rfl
@[simp] theorem Task.setX_regang (t : Task) (x : Fin 4) (v : BitVec 16) : (t.setX x v).regang = t.regang := rfl
@[simp] theorem Task.setX_issued (t : Task) (x : Fin 4) (v : BitVec 16) : (t.setX x v).issued = t.issued := rfl
@[simp] theorem Task.setX_parkedCycles (t : Task) (x : Fin 4) (v : BitVec 16) : (t.setX x v).parkedCycles = t.parkedCycles := rfl
@[simp] theorem Task.setX_seated (t : Task) (x : Fin 4) (v : BitVec 16) : (t.setX x v).seated = t.seated := rfl
@[simp] theorem Task.setX_stop (t : Task) (x : Fin 4) (v : BitVec 16) : (t.setX x v).stop = t.stop := rfl
@[simp] theorem Task.setX_halted (t : Task) (x : Fin 4) (v : BitVec 16) : (t.setX x v).halted = t.halted := rfl
@[simp] theorem Task.setX_skid (t : Task) (x : Fin 4) (v : BitVec 16) : (t.setX x v).skid = t.skid := rfl
@[simp] theorem Task.setX_struck (t : Task) (x : Fin 4) (v : BitVec 16) : (t.setX x v).struck = t.struck := rfl
@[simp] theorem Task.setX_passBreak (t : Task) (x : Fin 4) (v : BitVec 16) : (t.setX x v).passBreak = t.passBreak := rfl
@[simp] theorem Task.setX_stepDue (t : Task) (x : Fin 4) (v : BitVec 16) : (t.setX x v).stepDue = t.stepDue := rfl
@[simp] theorem Task.setX_passWatch (t : Task) (x : Fin 4) (v : BitVec 16) : (t.setX x v).passWatch = t.passWatch := rfl
@[simp] theorem Task.setX_wpPhys (t : Task) (x : Fin 4) (v : BitVec 16) : (t.setX x v).wpPhys = t.wpPhys := rfl
@[simp] theorem Task.setX_gid (t : Task) (x : Fin 4) (v : BitVec 16) : (t.setX x v).gid = t.gid := rfl
@[simp] theorem Task.setX_kind (t : Task) (x : Fin 4) (v : BitVec 16) : (t.setX x v).kind = t.kind := rfl
@[simp] theorem Task.setX_rec_ (t : Task) (x : Fin 4) (v : BitVec 16) : (t.setX x v).rec_ = t.rec_ := rfl
@[simp] theorem Task.setX_img (t : Task) (x : Fin 4) (v : BitVec 16) : (t.setX x v).img = t.img := rfl
@[simp] theorem Task.setX_x (t : Task) (x : Fin 4) (v : BitVec 16) : (t.setX x v).x = Tab.put 0 t.x x.val v := rfl
@[simp] theorem Task.setX_fol (t : Task) (x : Fin 4) (v : BitVec 16) : (t.setX x v).fol = t.fol := rfl
@[simp] theorem Task.setX_ctl (t : Task) (x : Fin 4) (v : BitVec 16) : (t.setX x v).ctl = t.ctl := rfl
@[simp] theorem Task.setX_pc (t : Task) (x : Fin 4) (v : BitVec 16) : (t.setX x v).pc = t.pc := rfl
@[simp] theorem Task.setX_npc (t : Task) (x : Fin 4) (v : BitVec 16) : (t.setX x v).npc = t.npc := rfl
@[simp] theorem Task.setX_workId (t : Task) (x : Fin 4) (v : BitVec 16) : (t.setX x v).workId = t.workId := rfl
@[simp] theorem Task.setX_lo (t : Task) (x : Fin 4) (v : BitVec 16) : (t.setX x v).lo = t.lo := rfl
@[simp] theorem Task.setX_hi (t : Task) (x : Fin 4) (v : BitVec 16) : (t.setX x v).hi = t.hi := rfl
@[simp] theorem Task.setX_isSealed (t : Task) (x : Fin 4) (v : BitVec 16) : (t.setX x v).isSealed = t.isSealed := rfl
@[simp] theorem Task.setX_curs (t : Task) (x : Fin 4) (v : BitVec 16) : (t.setX x v).curs = t.curs := rfl
@[simp] theorem Task.setX_curGen (t : Task) (x : Fin 4) (v : BitVec 16) : (t.setX x v).curGen = t.curGen := rfl
@[simp] theorem Task.setX_produces (t : Task) (x : Fin 4) (v : BitVec 16) : (t.setX x v).produces = t.produces := rfl
@[simp] theorem Task.setX_caller (t : Task) (x : Fin 4) (v : BitVec 16) : (t.setX x v).caller = t.caller := rfl
@[simp] theorem Task.setX_region (t : Task) (x : Fin 4) (v : BitVec 16) : (t.setX x v).region = t.region := rfl
@[simp] theorem Task.setX_rstat (t : Task) (x : Fin 4) (v : BitVec 16) : (t.setX x v).rstat = t.rstat := rfl
@[simp] theorem Task.setX_phase (t : Task) (x : Fin 4) (v : BitVec 16) : (t.setX x v).phase = t.phase := rfl
@[simp] theorem Task.setX_owed (t : Task) (x : Fin 4) (v : BitVec 16) : (t.setX x v).owed = t.owed := rfl
@[simp] theorem Task.setX_gbarE (t : Task) (x : Fin 4) (v : BitVec 16) : (t.setX x v).gbarE = t.gbarE := rfl
@[simp] theorem Task.setX_answered (t : Task) (x : Fin 4) (v : BitVec 16) : (t.setX x v).answered = t.answered := rfl
@[simp] theorem Task.setX_prodNo (t : Task) (x : Fin 4) (v : BitVec 16) : (t.setX x v).prodNo = t.prodNo := rfl
@[simp] theorem Task.setX_nack (t : Task) (x : Fin 4) (v : BitVec 16) : (t.setX x v).nack = t.nack := rfl
@[simp] theorem Task.setX_frame (t : Task) (x : Fin 4) (v : BitVec 16) : (t.setX x v).frame = t.frame := rfl
@[simp] theorem Task.setX_written (t : Task) (x : Fin 4) (v : BitVec 16) : (t.setX x v).written = t.written := rfl
@[simp] theorem Task.setX_gated (t : Task) (x : Fin 4) (v : BitVec 16) : (t.setX x v).gated = t.gated := rfl
@[simp] theorem Task.setX_readyFrom (t : Task) (x : Fin 4) (v : BitVec 16) : (t.setX x v).readyFrom = t.readyFrom := rfl
@[simp] theorem Task.setX_leave (t : Task) (x : Fin 4) (v : BitVec 16) : (t.setX x v).leave = t.leave := rfl
@[simp] theorem Task.setX_sendTo (t : Task) (x : Fin 4) (v : BitVec 16) : (t.setX x v).sendTo = t.sendTo := rfl
@[simp] theorem Task.setX_acqCl (t : Task) (x : Fin 4) (v : BitVec 16) : (t.setX x v).acqCl = t.acqCl := rfl
@[simp] theorem Task.setX_acqDv (t : Task) (x : Fin 4) (v : BitVec 16) : (t.setX x v).acqDv = t.acqDv := rfl
@[simp] theorem Task.setX_acqSy (t : Task) (x : Fin 4) (v : BitVec 16) : (t.setX x v).acqSy = t.acqSy := rfl

/-! ### Task.setAside -/

@[simp] theorem Task.setAside_seat (t : Task) (now no : Nat) : (t.setAside now no).seat = none := rfl
@[simp] theorem Task.setAside_cluster (t : Task) (now no : Nat) : (t.setAside now no).cluster = t.cluster := rfl
@[simp] theorem Task.setAside_bound (t : Task) (now no : Nat) : (t.setAside now no).bound = t.bound := rfl
@[simp] theorem Task.setAside_lines (t : Task) (now no : Nat) : (t.setAside now no).lines = t.lines := rfl
@[simp] theorem Task.setAside_contAt (t : Task) (now no : Nat) : (t.setAside now no).contAt = now := rfl
@[simp] theorem Task.setAside_prio (t : Task) (now no : Nat) : (t.setAside now no).prio = t.prio := rfl
@[simp] theorem Task.setAside_basePrio (t : Task) (now no : Nat) : (t.setAside now no).basePrio = t.basePrio := rfl
@[simp] theorem Task.setAside_queuedAt (t : Task) (now no : Nat) : (t.setAside now no).queuedAt = now := rfl
@[simp] theorem Task.setAside_queueNo (t : Task) (now no : Nat) : (t.setAside now no).queueNo = no := rfl
@[simp] theorem Task.setAside_migrates (t : Task) (now no : Nat) : (t.setAside now no).migrates = false := rfl
@[simp] theorem Task.setAside_issued (t : Task) (now no : Nat) : (t.setAside now no).issued = t.issued := rfl
@[simp] theorem Task.setAside_parkedCycles (t : Task) (now no : Nat) : (t.setAside now no).parkedCycles = t.parkedCycles := rfl
@[simp] theorem Task.setAside_seated (t : Task) (now no : Nat) : (t.setAside now no).seated = t.seated := rfl
@[simp] theorem Task.setAside_stop (t : Task) (now no : Nat) : (t.setAside now no).stop = t.stop := rfl
@[simp] theorem Task.setAside_halted (t : Task) (now no : Nat) : (t.setAside now no).halted = t.halted := rfl
@[simp] theorem Task.setAside_skid (t : Task) (now no : Nat) : (t.setAside now no).skid = t.skid := rfl
@[simp] theorem Task.setAside_struck (t : Task) (now no : Nat) : (t.setAside now no).struck = t.struck := rfl
@[simp] theorem Task.setAside_passBreak (t : Task) (now no : Nat) : (t.setAside now no).passBreak = t.passBreak := rfl
@[simp] theorem Task.setAside_stepDue (t : Task) (now no : Nat) : (t.setAside now no).stepDue = t.stepDue := rfl
@[simp] theorem Task.setAside_passWatch (t : Task) (now no : Nat) : (t.setAside now no).passWatch = t.passWatch := rfl
@[simp] theorem Task.setAside_wpPhys (t : Task) (now no : Nat) : (t.setAside now no).wpPhys = t.wpPhys := rfl
@[simp] theorem Task.setAside_gid (t : Task) (now no : Nat) : (t.setAside now no).gid = t.gid := rfl
@[simp] theorem Task.setAside_kind (t : Task) (now no : Nat) : (t.setAside now no).kind = t.kind := rfl
@[simp] theorem Task.setAside_rec_ (t : Task) (now no : Nat) : (t.setAside now no).rec_ = t.rec_ := rfl
@[simp] theorem Task.setAside_img (t : Task) (now no : Nat) : (t.setAside now no).img = t.img := rfl
@[simp] theorem Task.setAside_x (t : Task) (now no : Nat) : (t.setAside now no).x = t.x := rfl
@[simp] theorem Task.setAside_fol (t : Task) (now no : Nat) : (t.setAside now no).fol = t.fol := rfl
@[simp] theorem Task.setAside_ctl (t : Task) (now no : Nat) : (t.setAside now no).ctl = t.ctl := rfl
@[simp] theorem Task.setAside_pc (t : Task) (now no : Nat) : (t.setAside now no).pc = t.pc := rfl
@[simp] theorem Task.setAside_npc (t : Task) (now no : Nat) : (t.setAside now no).npc = t.npc := rfl
@[simp] theorem Task.setAside_workId (t : Task) (now no : Nat) : (t.setAside now no).workId = t.workId := rfl
@[simp] theorem Task.setAside_lo (t : Task) (now no : Nat) : (t.setAside now no).lo = t.lo := rfl
@[simp] theorem Task.setAside_hi (t : Task) (now no : Nat) : (t.setAside now no).hi = t.hi := rfl
@[simp] theorem Task.setAside_isSealed (t : Task) (now no : Nat) : (t.setAside now no).isSealed = t.isSealed := rfl
@[simp] theorem Task.setAside_curs (t : Task) (now no : Nat) : (t.setAside now no).curs = t.curs := rfl
@[simp] theorem Task.setAside_curGen (t : Task) (now no : Nat) : (t.setAside now no).curGen = t.curGen := rfl
@[simp] theorem Task.setAside_produces (t : Task) (now no : Nat) : (t.setAside now no).produces = t.produces := rfl
@[simp] theorem Task.setAside_caller (t : Task) (now no : Nat) : (t.setAside now no).caller = t.caller := rfl
@[simp] theorem Task.setAside_region (t : Task) (now no : Nat) : (t.setAside now no).region = t.region := rfl
@[simp] theorem Task.setAside_rstat (t : Task) (now no : Nat) : (t.setAside now no).rstat = t.rstat := rfl
@[simp] theorem Task.setAside_phase (t : Task) (now no : Nat) : (t.setAside now no).phase = t.phase.setAside := rfl
@[simp] theorem Task.setAside_owed (t : Task) (now no : Nat) : (t.setAside now no).owed = t.owed := rfl
@[simp] theorem Task.setAside_gbarE (t : Task) (now no : Nat) : (t.setAside now no).gbarE = t.gbarE := rfl
@[simp] theorem Task.setAside_answered (t : Task) (now no : Nat) : (t.setAside now no).answered = t.answered := rfl
@[simp] theorem Task.setAside_prodNo (t : Task) (now no : Nat) : (t.setAside now no).prodNo = t.prodNo := rfl
@[simp] theorem Task.setAside_nack (t : Task) (now no : Nat) : (t.setAside now no).nack = t.nack := rfl
@[simp] theorem Task.setAside_frame (t : Task) (now no : Nat) : (t.setAside now no).frame = t.frame := rfl
@[simp] theorem Task.setAside_written (t : Task) (now no : Nat) : (t.setAside now no).written = t.written := rfl
@[simp] theorem Task.setAside_gated (t : Task) (now no : Nat) : (t.setAside now no).gated = t.gated := rfl
@[simp] theorem Task.setAside_readyFrom (t : Task) (now no : Nat) : (t.setAside now no).readyFrom = t.readyFrom := rfl
@[simp] theorem Task.setAside_leave (t : Task) (now no : Nat) : (t.setAside now no).leave = t.leave := rfl
@[simp] theorem Task.setAside_sendTo (t : Task) (now no : Nat) : (t.setAside now no).sendTo = t.sendTo := rfl
@[simp] theorem Task.setAside_acqCl (t : Task) (now no : Nat) : (t.setAside now no).acqCl = t.acqCl := rfl
@[simp] theorem Task.setAside_acqDv (t : Task) (now no : Nat) : (t.setAside now no).acqDv = t.acqDv := rfl
@[simp] theorem Task.setAside_acqSy (t : Task) (now no : Nat) : (t.setAside now no).acqSy = t.acqSy := rfl

/-! ### State -/

@[simp] theorem State.done_m (s : State) (t : Task) : (s.done t).m = { s.m with t := t.retire } := rfl
@[simp] theorem State.done_sys (s : State) (t : Task) : (s.done t).sys = s.sys := rfl
@[simp] theorem State.done_agenda (s : State) (t : Task) : (s.done t).agenda = s.agenda := rfl
@[simp] theorem State.wake_m (s : State) (b : Block) : (s.wake b).m = s.m := rfl
@[simp] theorem State.wake_agenda (s : State) (b : Block) : (s.wake b).agenda = s.agenda := rfl
@[simp] theorem State.grant_m (s : State) (n : Nat) (l : DbgLevel) (c : Nat) : (s.grant n l c).m = s.m := rfl

end Sys2Proof.Machine
end

