-- ==== Sys2Proof/Laws/Vector.lean ====
section
/-! SUPPORT. Lanes written and read back, and an instruction run in every member of a gang (12 R214, R217). -/

namespace Sys2Proof.Machine

/-! ### One image -/

theorem lanePair_lo (a b : BitVec 32) : (lanePair a b).setWidth 32 = a := by
  apply BitVec.eq_of_getLsbD_eq
  intro i hi
  rw [BitVec.getLsbD_setWidth, lanePair, BitVec.getLsbD_append]
  simp [hi]

theorem lanePair_hi (a b : BitVec 32) : (lanePair a b >>> 32).setWidth 32 = b := by
  apply BitVec.eq_of_getLsbD_eq
  intro i hi
  rw [BitVec.getLsbD_setWidth, BitVec.getLsbD_ushiftRight, lanePair, BitVec.getLsbD_append]
  simp [hi]

/-- The cell a slot takes under a lane write. -/
def slotCell (g : Image) (s : Nat) (en : Mask) (f : Nat → BitVec 32) (tag : Tag) (i : Nat) : RCell :=
  ⟨lanePair (if en.getLsbD (2 * i) then f (2 * i) else g.lane s (2 * i))
    (if en.getLsbD (2 * i + 1) then f (2 * i + 1) else g.lane s (2 * i + 1)), tag, none⟩

/-- One slot of a lane write. -/
theorem cell_setSlot (g : Image) (s : Nat) (en : Mask) (f : Nat → BitVec 32) (tag : Tag) (i n : Nat) :
    (g.setSlot s en f tag i).cell n =
      if slotOn en i = true ∧ n = slotKey (s + i) then slotCell g s en f tag i else g.cell n := by
  unfold Image.setSlot slotOn
  split
  · next h => simp only [Image.cell, Tab.look_put, h, true_and]; rfl
  · next h => simp [h]

theorem slotKey_ne {s i j : Nat} (h : i ≠ j) : slotKey (s + i) ≠ slotKey (s + j) := by unfold slotKey; omega

theorem lane_congr {g g1 : Image} {s i : Nat} (h : g1.cell (slotKey (s + i / 2)) = g.cell (slotKey (s + i / 2))) :
    g1.lane s i = g.lane s i := by simp only [Image.lane, h]

/-- The slots below n of a lane write. -/
def setBelow (g : Image) (s : Nat) (en : Mask) (f : Nat → BitVec 32) (tag : Tag) (n : Nat) : Image :=
  (List.range n).foldl (fun a i => a.setSlot s en f tag i) g

theorem setBelow_succ (g : Image) (s : Nat) (en : Mask) (f : Nat → BitVec 32) (tag : Tag) (n : Nat) :
    setBelow g s en f tag (n + 1) = (setBelow g s en f tag n).setSlot s en f tag n := by
  simp [setBelow, List.range_succ]

/-- What a lane write below slot n leaves in each register. -/
theorem cell_setBelow (g : Image) (s : Nat) (en : Mask) (f : Nat → BitVec 32) (tag : Tag) (n : Nat) :
    (∀ i, i < n → slotOn en i = true → (setBelow g s en f tag n).cell (slotKey (s + i)) = slotCell g s en f tag i) ∧
    (∀ i, i < n → slotOn en i = false → (setBelow g s en f tag n).cell (slotKey (s + i)) = g.cell (slotKey (s + i))) ∧
    (∀ k, (∀ i, i < n → k ≠ slotKey (s + i)) → (setBelow g s en f tag n).cell k = g.cell k) := by
  induction n with
  | zero => exact ⟨fun _ h => by omega, fun _ h => by omega, fun _ _ => rfl⟩
  | succ n ih =>
    have new : slotCell (setBelow g s en f tag n) s en f tag n = slotCell g s en f tag n := by
      have hc : (setBelow g s en f tag n).cell (slotKey (s + n)) = g.cell (slotKey (s + n)) :=
        ih.2.2 _ fun i hi => slotKey_ne (by omega)
      have e0 : (setBelow g s en f tag n).lane s (2 * n) = g.lane s (2 * n) :=
        lane_congr (by rw [show 2 * n / 2 = n by omega]; exact hc)
      have e1 : (setBelow g s en f tag n).lane s (2 * n + 1) = g.lane s (2 * n + 1) :=
        lane_congr (by rw [show (2 * n + 1) / 2 = n by omega]; exact hc)
      simp only [slotCell, e0, e1]
    rw [setBelow_succ]
    refine ⟨fun i hi ho => ?_, fun i hi ho => ?_, fun k hk => ?_⟩
    · rw [cell_setSlot]
      by_cases h : i = n
      · subst h; rw [if_pos ⟨ho, rfl⟩, new]
      · rw [if_neg (fun h2 => slotKey_ne h h2.2)]; exact ih.1 i (by omega) ho
    · rw [cell_setSlot]
      by_cases h : i = n
      · subst h
        rw [if_neg (by simp [ho])]
        exact ih.2.2 _ fun j hj => slotKey_ne (by omega)
      · rw [if_neg (fun h2 => slotKey_ne h h2.2)]; exact ih.2.1 i (by omega) ho
    · rw [cell_setSlot, if_neg (fun h2 => hk n (by omega) h2.2)]
      exact ih.2.2 k fun i hi => hk i (by omega)

theorem p_setBelow (g : Image) (s : Nat) (en : Mask) (f : Nat → BitVec 32) (tag : Tag) (n : Nat) :
    (setBelow g s en f tag n).p = g.p ∧ (setBelow g s en f tag n).fl = g.fl := by
  induction n with
  | zero => exact ⟨rfl, rfl⟩
  | succ n ih => rw [setBelow_succ]; unfold Image.setSlot; split <;> exact ih

theorem lane_slotCell (g g1 : Image) (s : Nat) (en : Mask) (f : Nat → BitVec 32) (tag : Tag) (i : Nat) (ht : tag ≠ .unwritten)
    (h : g1.cell (slotKey (s + i / 2)) = slotCell g s en f tag (i / 2)) :
    g1.lane s i = if en.getLsbD i then f i else g.lane s i := by
  have hr : (slotCell g s en f tag (i / 2)).read =
      lanePair (if en.getLsbD (2 * (i / 2)) then f (2 * (i / 2)) else g.lane s (2 * (i / 2)))
        (if en.getLsbD (2 * (i / 2) + 1) then f (2 * (i / 2) + 1) else g.lane s (2 * (i / 2) + 1)) := by
    simp [slotCell, RCell.read, ht]
  have hl : g1.lane s i = if i % 2 = 0 then (g1.cell (slotKey (s + i / 2))).read.setWidth 32
      else ((g1.cell (slotKey (s + i / 2))).read >>> 32).setWidth 32 := rfl
  rw [hl, h, hr]
  by_cases e : i % 2 = 0
  · rw [if_pos e, lanePair_lo, show 2 * (i / 2) = i by omega]
  · rw [if_neg e, lanePair_hi, show 2 * (i / 2) + 1 = i by omega]

theorem slotOn_of_lane {en : Mask} {i : Nat} (h : en.getLsbD i = true) : slotOn en (i / 2) = true := by
  unfold slotOn
  rcases Nat.mod_two_eq_zero_or_one i with e | e
  · rw [show 2 * (i / 2) = i by omega, h]; rfl
  · rw [show 2 * (i / 2) + 1 = i by omega, h]; simp

/-- A lane write writes the enabled lanes and nothing else. -/
theorem lanesWritten_setLanes (g : Image) (s : Nat) (en : Mask) (f : Nat → BitVec 32) (tag : Tag) (ht : tag ≠ .unwritten) :
    g.lanesWritten (g.setLanes s en f tag) s en f tag := by
  have hc := cell_setBelow g s en f tag 8
  have hp := p_setBelow g s en f tag 8
  refine ⟨hp.1, fun i hi ho => ?_, fun i hi ho => ?_, fun k hk ho => ?_, hc.2.1, hc.2.2⟩
  · have := lane_slotCell g (setBelow g s en f tag 8) s en f tag i ht (hc.1 _ (by omega) (slotOn_of_lane ho))
    rw [ho] at this; exact this
  · by_cases hs : slotOn en (i / 2) = true
    · have := lane_slotCell g (setBelow g s en f tag 8) s en f tag i ht (hc.1 _ (by omega) hs)
      rw [ho] at this; exact this
    · exact lane_congr (hc.2.1 _ (by omega) (by simpa using hs))
  · have := hc.1 k hk ho
    show ((setBelow g s en f tag 8).cell _).tag = tag
    rw [this]; rfl

theorem fl_setLanes (g : Image) (s : Nat) (en : Mask) (f : Nat → BitVec 32) (tag : Tag) : (g.setLanes s en f tag).fl = g.fl :=
  (p_setBelow g s en f tag 8).2

theorem Flags.or_none (l : Flags) : l.or {} = l := by simp [Flags.or]

/-! ### Members of a gang -/

theorem member_setMember {t : Task} {j k : Nat} (g : Image) (hj : j < t.gangSize) :
    (t.setMember j g).member k = if k = j then g else t.member k := by
  unfold Task.gangSize at hj
  unfold Task.setMember Task.member
  by_cases h0 : j = 0
  · subst h0; by_cases hk : k = 0 <;> simp [hk]
  · by_cases hk : k = 0
    · subst hk; simp [h0]; intro h; omega
    · by_cases hkj : k = j
      · subst hkj
        simp only [h0, if_false]
        simp only [if_true]
        rw [List.getD_eq_getElem?_getD, List.getElem?_set]
        have : k - 1 < t.fol.length := by omega
        simp [this]
      · simp only [h0, hk, hkj, if_false]
        rw [List.getD_eq_getElem?_getD, List.getD_eq_getElem?_getD, List.getElem?_set]
        have : ¬ j - 1 = k - 1 := by omega
        simp [this]

theorem setMember_shape (t : Task) (j : Nat) (g : Image) : (t.setMember j g).fol.length = t.fol.length ∧
    (t.setMember j g) = { t with img := (t.setMember j g).img, fol := (t.setMember j g).fol } := by
  unfold Task.setMember
  split <;> simp

/-- Outside a region nothing is concretized. -/
theorem conc_plain {t : Task} (h : t.region = none) (ks : List Nat) : t.conc ks = t := by
  unfold Task.conc
  induction ks with
  | nil => rfl
  | cons k r ih =>
    have : t.concKey k = t := by simp [Task.concKey, markOf_plain h]
    simp only [List.foldl_cons, this]; exact ih

/-- Outside a region a lane write is one member's. -/
theorem putLanes_plain {t : Task} (h : t.region = none) (j s : Nat) (en : Mask) (f : Nat → BitVec 32) (tag : Tag) :
    t.putLanes j s en f tag = t.setMember j ((t.member j).setLanes s en f tag) := by
  unfold Task.putLanes
  simp only [conc_plain h, ite_self]
  unfold Task.setMember
  split <;> simp [h]

/-- What a task keeps while only its members' images change. -/
def sameBut (t t1 : Task) : Prop := t1.fol.length = t.fol.length ∧ t1 = { t with img := t1.img, fol := t1.fol }

theorem sameBut.region {t t1 : Task} (h : sameBut t t1) : t1.region = t.region := by rw [h.2]

theorem sameBut.size {t t1 : Task} (h : sameBut t t1) : t1.gangSize = t.gangSize := by unfold Task.gangSize; rw [h.1]

theorem sameBut.trans {t t1 t2 : Task} (h : sameBut t t1) (h2 : sameBut t1 t2) : sameBut t t2 := by
  refine ⟨h2.1.trans h.1, ?_⟩
  have a := h2.2
  rw [h.2] at a
  exact a

/-- Members j to j + n − 1 each change their image by G; the others stay as they are. -/
theorem runMembers_images {f : Task → MemberFn} {t0 : Task} {G : Nat → Image → Image} {fl : Nat → Flags}
    (hf : ∀ t j, j < t0.gangSize → sameBut t0 t → f t0 t j = .ok (t.setMember j (G j (t.member j)), fl j)) :
    ∀ n t j, j + n ≤ t0.gangSize → sameBut t0 t →
      ∃ t1, runMembers f t0 t j n = .ok (t1, (List.range n).map fun i => fl (j + i)) ∧ sameBut t0 t1 ∧
        ∀ k, t1.member k = if j ≤ k ∧ k < j + n then G k (t.member k) else t.member k := by
  intro n
  induction n with
  | zero =>
    intro t j _ hs
    refine ⟨t, rfl, hs, fun k => ?_⟩
    rw [if_neg (by omega)]
  | succ n ih =>
    intro t j hj hs
    have e1 := hf t j (by omega) hs
    have hs1 := setMember_shape t j (G j (t.member j))
    obtain ⟨t1, h1, h2, h3⟩ := ih (t.setMember j (G j (t.member j))) (j + 1) (by omega) (hs.trans hs1)
    refine ⟨t1, ?_, h2, fun k => ?_⟩
    · simp only [runMembers, e1, h1, bind, Except.bind]
      congr 2
      rw [List.range_succ_eq_map]
      simp only [List.map_cons, Nat.add_zero, List.map_map, Function.comp_def]
      congr 1
      apply List.map_congr_left
      intro i _
      congr 1; omega
    · rw [h3 k, member_setMember _ (by rw [hs.size]; omega)]
      by_cases hk : k = j
      · subst hk; rw [if_neg (by omega), if_pos rfl, if_pos (by omega)]
      · by_cases hk2 : j + 1 ≤ k ∧ k < j + 1 + n
        · rw [if_pos hk2, if_neg hk, if_pos (by omega)]
        · rw [if_neg hk2, if_neg hk, if_neg (by omega)]

/-! ### Flags -/

theorem enabledFlags_quiet {en : BitVec 9} (h : en.toNat % 32 = 0) (l : Flags) : enabledFlags en l = 0 := by
  have hb : ∀ n, n < 5 → en.getLsbD n = false := by
    intro n hn
    have : en.toNat.testBit n = (en.toNat % 2 ^ 5).testBit n := by rw [Nat.testBit_mod_two_pow]; simp [hn]
    rw [BitVec.getLsbD, this, show (2 : Nat) ^ 5 = 32 by rfl, h, Nat.zero_testBit]
  simp only [enabledFlags, hb 0 (by omega), hb 1 (by omega), hb 2 (by omega), hb 3 (by omega), hb 4 (by omega)]
  simp

theorem addFlags_shape (t : Task) (j : Nat) (l : Flags) : sameBut t (t.addFlags j l) := setMember_shape _ _ _

/-- Flags of members j, j + 1, … added. -/
theorem addAll_member : ∀ (ls : List Flags) (t : Task) (j : Nat), j + ls.length ≤ t.gangSize →
    let t1 := (ls.zipIdx j).foldl (fun a p => a.addFlags p.2 p.1) t
    sameBut t t1 ∧ ∀ k, t1.member k = if j ≤ k ∧ k < j + ls.length then
      { t.member k with fl := (t.member k).fl.or (ls.getD (k - j) {}) } else t.member k
  | [], t, j, _ => by
    refine ⟨⟨rfl, rfl⟩, fun k => ?_⟩
    rw [if_neg (by simp)]; rfl
  | l :: r, t, j, h => by
    simp only [List.length_cons] at h
    have hs := addFlags_shape t j l
    have ih := addAll_member r (t.addFlags j l) (j + 1) (by rw [hs.size]; omega)
    simp only [List.zipIdx_cons, List.foldl_cons]
    refine ⟨hs.trans ih.1, fun k => ?_⟩
    rw [ih.2 k]
    have hm : ∀ n, (t.addFlags j l).member n = if n = j then { t.member j with fl := (t.member j).fl.or l } else t.member n :=
      fun n => member_setMember _ (by omega)
    by_cases hk : k = j
    · subst hk
      rw [if_neg (by omega), if_pos (by simp), hm, if_pos rfl]
      simp
    · by_cases h2 : j + 1 ≤ k ∧ k < j + 1 + r.length
      · rw [if_pos h2, if_pos (by simp only [List.length_cons]; omega), hm, if_neg hk]
        rw [show k - j = (k - (j + 1)) + 1 by omega]
        simp
      · rw [if_neg h2, if_neg (by simp only [List.length_cons]; omega), hm, if_neg hk]

/-- Where no FP event is enabled, the flags are added and the instruction goes on (R208). -/
theorem settleFlags_quiet {t : Task} (hq : t.ctl.flgEn.toNat % 32 = 0) (ls : List Flags) (now : Nat) :
    t.settleFlags ls now = .ok ((ls.zipIdx).foldl (fun a p => a.addFlags p.2 p.1) t) := by
  have hf : (ls.zipIdx).find? (fun p => enabledFlags t.ctl.flgEn p.1 != 0) = none := by
    rw [List.find?_eq_none]
    intro p _
    simp [enabledFlags_quiet hq]
  unfold Task.settleFlags
  simp only [hf]

/-! ### An instruction in every member -/

/-- An instruction that changes each member's image by G and raises flags there. -/
theorem vecRun_images {t : Task} {f : Task → MemberFn} {G : Nat → Image → Image} {fl : Nat → Flags} {now : Nat}
    (hq : t.ctl.flgEn.toNat % 32 = 0)
    (hf : ∀ a j, j < t.gangSize → sameBut t a → f t a j = .ok (a.setMember j (G j (a.member j)), fl j)) :
    ∃ t1, vecRun now f t = .ok t1 ∧ sameBut t t1 ∧ ∀ j, j < t.gangSize →
      t1.member j = { G j (t.member j) with fl := (G j (t.member j)).fl.or (fl j) } := by
  obtain ⟨t1, h1, h2, h3⟩ := runMembers_images hf t.gangSize t 0 (by omega) ⟨rfl, rfl⟩
  have hq1 : t1.ctl.flgEn.toNat % 32 = 0 := by rw [h2.2]; exact hq
  have h4 := addAll_member ((List.range t.gangSize).map fun i => fl (0 + i)) t1 0 (by simp [h2.size])
  refine ⟨_, by simp only [vecRun, h1, bind, Except.bind, settleFlags_quiet hq1], h2.trans h4.1, fun j hj => ?_⟩
  have hm := h4.2 j
  simp only [List.length_map, List.length_range, Nat.zero_le, true_and, Nat.zero_add, Nat.sub_zero] at hm
  rw [if_pos hj, h3 j, if_pos (by omega)] at hm
  simp only [Nat.zero_add]
  rw [hm]
  congr 2
  simp [List.getD_eq_getElem?_getD, hj]

/-- The same without flags. -/
theorem vecMove_images {t : Task} {f : Task → Task → Nat → Except Stop Task} {G : Nat → Image → Image}
    (hf : ∀ a j, j < t.gangSize → sameBut t a → f t a j = .ok (a.setMember j (G j (a.member j)))) :
    ∃ t1, vecMove f t = .ok t1 ∧ sameBut t t1 ∧ ∀ j, j < t.gangSize → t1.member j = G j (t.member j) := by
  have hf2 : ∀ a j, j < t.gangSize → sameBut t a →
      (fun (t0 a : Task) (j : Nat) => do
        let b ← f t0 a j
        Except.ok (b, ({} : Flags))) t a j = .ok (a.setMember j (G j (a.member j)), {}) := by
    intro a j hj hs; simp [hf a j hj hs, bind, Except.bind]
  obtain ⟨t1, h1, h2, h3⟩ := runMembers_images (f := fun (t0 a : Task) (j : Nat) => do
        let b ← f t0 a j
        Except.ok (b, ({} : Flags))) (fl := fun _ => {}) hf2 t.gangSize t 0 (by omega) ⟨rfl, rfl⟩
  refine ⟨t1, by unfold vecMove; rw [h1]; rfl, h2, fun j hj => ?_⟩
  rw [h3 j, if_pos (by omega)]

/-- A vector instruction completes. -/
theorem issueT_same {s : State} {t1 : Task} {rule : RRule} {f : Task → Except Stop Task} (h : s.plain) (hf : f s.m.t = .ok t1)
    (h1 : sameBut s.m.t t1) : issueT rule f s = .next (s.done t1) :=
  issueT_ok h hf (by rw [h1.region]; exact h.1) (by rw [h1.2]; exact h.2)

/-- A lane write in every member, with its flags, is VecGives. -/
theorem vecGives_of {i : Instr} {s : State} {rule : RRule} {F : Task → Except Stop Task} {f : Task → MemberFn} {now d : Nat}
    {en : Nat → Mask} {v : Nat → Nat → BitVec 32} {tag : Nat → Tag} {fl : Nat → Flags} (he : exec i s = issueT rule F s)
    (h : s.plain) (hq : s.quietFp) (ht : ∀ j, tag j ≠ .unwritten) (hF : F s.m.t = vecRun now f s.m.t)
    (hf : ∀ t j, j < s.m.t.gangSize → sameBut s.m.t t →
      f s.m.t t j = .ok (t.putLanes j d (en j) (v j) (tag j), fl j)) : VecGives i s d en v tag fl := by
  obtain ⟨t1, h1, h2, h3⟩ := vecRun_images (now := now) (f := f) (G := fun j g => g.setLanes d (en j) (v j) (tag j)) (fl := fl) hq
    (fun a j hj hs => by rw [hf a j hj hs, putLanes_plain (by rw [hs.region]; exact h.1)])
  refine ⟨t1, he.trans (issueT_same h (by rw [hF]; exact h1) h2), h2.1, h2.2, fun j hj => ?_⟩
  rw [h3 j hj]
  exact ⟨lanesWritten_setLanes (s.m.t.member j) d (en j) (v j) (tag j) (ht j), by simp only [fl_setLanes]⟩

/-- The same without flags. -/
theorem vecGives_move {i : Instr} {s : State} {rule : RRule} {F : Task → Except Stop Task}
    {f : Task → Task → Nat → Except Stop Task} {d : Nat}
    {en : Nat → Mask} {v : Nat → Nat → BitVec 32} {tag : Nat → Tag} (he : exec i s = issueT rule F s)
    (h : s.plain) (ht : ∀ j, tag j ≠ .unwritten) (hF : F s.m.t = vecMove f s.m.t)
    (hf : ∀ t j, j < s.m.t.gangSize → sameBut s.m.t t →
      f s.m.t t j = .ok (t.putLanes j d (en j) (v j) (tag j))) : VecGives i s d en v tag fun _ => {} := by
  obtain ⟨t1, h1, h2, h3⟩ := vecMove_images (f := f) (G := fun j g => g.setLanes d (en j) (v j) (tag j))
    (fun a j hj hs => by rw [hf a j hj hs, putLanes_plain (by rw [hs.region]; exact h.1)])
  refine ⟨t1, he.trans (issueT_same h (by rw [hF]; exact h1) h2), h2.1, h2.2, fun j hj => ?_⟩
  rw [h3 j hj]
  exact ⟨lanesWritten_setLanes _ _ _ _ _ (ht j), by rw [fl_setLanes, Flags.or_none]⟩

/-! ### Checks -/

theorem vbounds_ok {s : State} {vs : List (Fin 256)} {os : List Opnd} (h : s.vfit vs os) : s.m.t.vbounds vs os = .ok () := by
  have hv : s.m.t.badVecs vs = [] := by
    unfold Task.badVecs
    rw [List.filterMap_eq_nil_iff]
    exact h.1
  have hb := bounds_ok h.2
  unfold Task.bounds at hb
  unfold Task.vbounds
  rw [hv]; exact hb

theorem passTags_ok {s : State} {m : Option XMod} {want : List Tag} {l : Nat → List Tag} {j : Nat} (h : s.vtags m want l)
    (hj : j < s.m.t.gangSize) : s.m.t.passTags m want j (l j) = .ok () := by
  unfold Task.passTags
  rw [if_pos]
  rcases h j hj with h | h
  · simp [h]
  · rw [Bool.or_eq_true, List.all_eq_true]
    right
    intro g hg
    rcases h g hg with h | h <;> simp [h]

end Sys2Proof.Machine
end

