-- ==== Sys2Proof/Tests/Slice0.lean ====
section
/-! SUPPORT. The model's own tests: ill-formed terms refused, words of the spec decoded, single steps on small states, and for every
statement of Obligations a state and operands that meet what it asks, with what it then says. -/

namespace Sys2Proof.Tests

open Sys2Proof Sys2Proof.Machine

set_option Elab.async false

/-! ### Small states -/

/-- A module that runs, with one task seated on slot 0 of core 0 (log entry 5). -/
def base : State := State.reset.withFetchWord 16 0x1298

/-- The task in focus changed. -/
def onT (s : State) (f : Task → Task) : State := { s with m := { s.m with t := f s.m.t } }

/-- Registers of the task in focus set: key, value, tag. -/
def withRegs (s : State) (l : List (Nat × Word × Tag)) : State :=
  onT s fun t => l.foldl (fun t p => t.putCell p.1 ⟨p.2.1, p.2.2, none⟩) t

/-- The next state of an instruction, where p holds of it. -/
def after (i : Instr) (s : State) (p : State → Bool) : Bool := match exec i s with
  | .next s1 => p s1
  | _ => false

/-- Nothing but the registers of ks has changed, and the pc. -/
def onlyRegs (s s1 : State) (ks : List Nat) : Bool :=
  decide (s1 = s.done { s.m.t with img := { s.m.t.img with regs := s1.m.t.img.regs } }) &&
    (List.range 264).all fun k => ks.contains k || decide (s1.m.t.cell k = s.m.t.cell k)

/-- The conclusion of Gives, on one state. -/
def gives (i : Instr) (s : State) (d : Opnd) (v : Word) (g : Tag) : Bool :=
  after i s fun s1 => decide (s1.m.t.cell d.key = ⟨v, g, none⟩) && decide (s1.m.t.cell 0 = ⟨v, g, none⟩) &&
    onlyRegs s s1 [d.key, 0]

def a1 : Opnd := .code 1
def a2 : Opnd := .code 2
def a3 : Opnd := .code 3
def a4 : Opnd := .code 4
def a5 : Opnd := .code 5
def a6 : Opnd := .code 6
def w0 : Opnd := .slot 0
def w1 : Opnd := .slot 1
def sat : Option XMod := some { sat := true }


/-! ### What the statements ask, on small states -/

/-- State.plain, decided. -/
def plainB (s : State) : Bool := decide (s.m.t.region = none) && decide (s.m.t.phase = .ready)

/-- State.fit, decided. -/
def fitB (s : State) (os : List Opnd) : Bool := os.all fun o => match o with
  | .code _ => true
  | .slot j => decide (j.val < s.m.t.ctl.alloc.toNat)

/-- State.rawOk, decided. -/
def rawB (s : State) (m : Option XMod) (os : List Opnd) : Bool := os.all fun o =>
  s.m.t.conv m || decide (s.m.t.tag o = .raw) || decide (s.m.t.tag o = .addr) || decide (s.m.t.tag o = .unwritten)

theorem plain_of {s : State} (h : plainB s = true) : s.plain := by simpa [plainB, State.plain] using h

theorem fit_of {s : State} {os : List Opnd} (h : fitB s os = true) : s.fit os := by
  intro j hj
  simpa using List.all_eq_true.mp h _ hj

theorem raw_of {s : State} {m : Option XMod} {os : List Opnd} (h : rawB s m os = true) : s.rawOk m os := by
  intro o ho
  have := List.all_eq_true.mp h o ho
  simpa [or_assoc] using this

theorem ready_of {s : State} {m : Option XMod} {os srcs : List Opnd} (h : (plainB s && fitB s os && rawB s m srcs) = true) :
    s.ready m os srcs := by
  simp only [Bool.and_eq_true] at h
  exact ⟨plain_of h.1.1, fit_of h.1.2, raw_of h.2⟩

/-- State.vfit, decided. -/
def vfitB (s : State) (vs : List (Fin 256)) (os : List Opnd) : Bool :=
  (vs.all fun v => decide (s.m.t.ctl.viewV.bad 8 1 v.val = none)) && fitB s os

theorem vfit_of {s : State} {vs : List (Fin 256)} {os : List Opnd} (h : vfitB s vs os = true) : s.vfit vs os := by
  simp only [vfitB, Bool.and_eq_true] at h
  exact ⟨fun v hv => by simpa using List.all_eq_true.mp h.1 v hv, fit_of h.2⟩

/-- Every pair of a list is an instruction that gives a value to d. -/
def allGive (s : State) (d : Opnd) (g : Tag) (l : List (Instr × Word)) : Bool := l.all fun p => gives p.1 s d p.2 g

/-- The conclusion of Traps, on one state. -/
def traps (i : Instr) (s : State) (code : Nat) (addr : Word) : Bool :=
  after i s fun s1 => decide (s1 = { s with m := s.m.raise code addr 0 0 0 })

/-- The conclusion of Faults, on one state. -/
def faults (i : Instr) (s : State) (cause acc : Nat) (va : Word) : Bool :=
  after i s fun s1 => decide (s1 = { s with m := { s.m.raise (faultCode cause) va 0 cause acc with free := s.m.free + 1 } })

/-- The instruction ends in one given state. -/
def ends (i : Instr) (s s1 : State) : Bool := after i s fun s2 => decide (s2 = s1)

/-- The instruction completes with a given task in focus, and changes nothing else. -/
def leaves (i : Instr) (s : State) (t : Task) : Bool := ends i s (s.done t)

/-- A vector register at slot d: its lanes and the tag of its slots. -/
def withVec (s : State) (d : Nat) (tag : Tag) (v : List (BitVec 32)) : State :=
  withRegs s ((List.range 8).map fun k => (8 + d + k, lanePair (v.getD (2 * k) 0) (v.getD (2 * k + 1) 0), tag))

/-- Predicates of the task in focus. -/
def withPreds (s : State) (l : List (Nat × Mask)) : State := onT s fun t => { t with img := { t.img with p := l } }

/-- The conclusion of VecGives on one state, outside a gang: the lanes listed take their values, every other lane keeps its own. -/
def vecGives (i : Instr) (s : State) (d : Nat) (v : List (Nat × BitVec 32)) (tag : Tag) (fl : Flags) : Bool :=
  after i s fun s1 =>
    let on := fun n => (v.lookup n).isSome
    decide (s1 = s.done { s.m.t with img := s1.m.t.img, fol := s1.m.t.fol }) && decide (s1.m.t.img.p = s.m.t.img.p) &&
    decide (s1.m.t.img.fl = s.m.t.img.fl.or fl) && decide (s1.m.t.fol.length = s.m.t.fol.length) &&
    ((List.range 16).all fun n => decide (s1.m.t.img.lane d n = (v.lookup n).getD (s.m.t.img.lane d n))) &&
    ((List.range 8).all fun k => if on (2 * k) || on (2 * k + 1) then decide ((s1.m.t.cell (8 + d + k)).tag = tag)
      else decide (s1.m.t.cell (8 + d + k) = s.m.t.cell (8 + d + k))) &&
    (List.range 264).all fun n => (decide (8 + d ≤ n) && decide (n < 16 + d)) || decide (s1.m.t.cell n = s.m.t.cell n)

/-- The same value in every lane. -/
def every (v : BitVec 32) : List (Nat × BitVec 32) := (List.range 16).map fun n => (n, v)

/-- State.atRest, decided. -/
def restB (s : State) : Bool :=
  (decide (s.m.weak = []) && decide (s.m.tracked (clusterOf s.m.t.core) + 8 ≤ 750)) &&
  ((s.m.ctx s.m.cur).silt.room 96 && !s.m.t.watchEn) &&
  ((s.m.others.all fun t => !t.watchEn && !t.inWait) && !s.m.hasStruck s.m.cur (threadParty s.m.t.core) s.m.t.gid)

theorem rest_of {s : State} (h : restB s = true) : s.atRest := by
  simp only [restB, Bool.and_eq_true, decide_eq_true_eq, Bool.not_eq_true'] at h
  exact ⟨h.1.1.1, h.1.1.2, h.1.2.1, h.1.2.2, fun t ht => by simpa using List.all_eq_true.mp h.2.1 t ht, h.2.2⟩

/-- A result of which p holds. -/
def okB {ε α : Type} (e : Except ε α) (p : α → Bool) : Bool := match e with
  | .ok x => p x
  | .error _ => false

theorem ok_of {ε α : Type} {e : Except ε α} {p : α → Bool} (h : okB e p = true) : ∃ x, e = .ok x ∧ p x = true := by
  cases e with
  | error _ => simp [okB] at h
  | ok x => exact ⟨x, rfl, h⟩

/-- Bytes of memory set. -/
def withMem (s : State) (k : Nat) (bs : List Byte) : State := { s with m := { s.m with mem := pokeMem s.m.mem k bs } }

/-- The key of the global byte at virtual address 0x20010000 + n, in the test's pages. -/
def gkey (n : Nat) : Nat := 2 ^ 30 + 0x10000 + n

/-- The key of byte n of core 0's front bank. -/
def skey (n : Nat) : Nat := 2 ^ 52 + n

/-- A load's conclusions: the register, the pc, the phase, and no change outside the task, the translations and the order. -/
def loads (i : Instr) (s : State) (d : Opnd) (v : Word) (g : Tag) (p : Phase) : Bool := after i s fun s1 =>
  decide (s1.m.t.cell d.key = ⟨v, g, none⟩) && decide (s1.m.t.cell 0 = ⟨v, g, none⟩) && decide (s1.m.t.phase = p) && decide (s1.m.t.pc = s.m.t.npc) &&
  decide (s1 = { s with m := { s.m with t := s1.m.t, tlb := s1.m.tlb, dtlb := s1.m.dtlb, order := s1.m.order, reqs := s1.m.reqs, free := s1.m.free } }) &&
  (List.range 264).all fun k => k == 0 || k == d.key || decide (s1.m.t.cell k = s.m.t.cell k)

/-- A store's conclusions: the bytes from a key on, the log's record of what they replace, and nothing else. -/
def stores (i : Instr) (s : State) (space k : Nat) (bs : List Byte) (p : Phase) : Bool := after i s fun s1 =>
  decide (s1.m.mem = pokeMem s.m.mem k bs) && decide (s1.m.ctxs = (s.m.siltWrite s.m.cur space k bs.length 0x1000 s.m.t.gid).ctxs) &&
  decide (s1.m.t = { s.m.t with phase := p }.retire) &&
  decide (s1 = { s with m := { s.m with t := s1.m.t, mem := s1.m.mem, ctxs := s1.m.ctxs, tlb := s1.m.tlb, dtlb := s1.m.dtlb, order := s1.m.order,
                                        codeOld := s1.m.codeOld } })

/-! ### Page 0 -/

def s1 : State := withRegs base [(2, 0x8000000000000000, .raw), (3, 0xFFFFFFFFFFFFFFFF, .raw), (8, 0x10000000C8, .addr), (9, 3, .raw)]




theorem meets_IntegerOps : s1.ready none [a1, a2, a3] [a2, a3] := ready_of (by decide +kernel)

theorem test_integer_ops : allGive s1 a1 .raw [
    (.and none a1 a2 a3, 0x8000000000000000), (.or none a1 a2 a3, 0xFFFFFFFFFFFFFFFF), (.xor none a1 a2 a3, 0x7FFFFFFFFFFFFFFF),
    (.andn none a1 a2 a3, 0), (.shl none a1 a3 w1, 0xFFFFFFFFFFFFFFF8), (.shr none a1 a2 a3, 1), (.sar none a1 a2 a3, 0xFFFFFFFFFFFFFFFF),
    (.mul none a1 a2 a3, 0x8000000000000000), (.mul sat a1 a2 a3, 0x7FFFFFFFFFFFFFFF), (.mulh none a1 a2 a3, 0),
    (.mulhn none a1 a2 a3, 0x7FFFFFFFFFFFFFFF), (.min none a1 a2 a3, 0x8000000000000000), (.max none a1 a2 a3, 0xFFFFFFFFFFFFFFFF),
    (.minn none a1 a2 a3, 0x8000000000000000), (.maxn none a1 a2 w1, 0x8000000000000000)] = true := by decide +kernel

theorem meets_Sums : s1.ready none [a1, a2, w0] [a2, w0] ∧ s1.ready none [a1, w0] [w0] := ⟨ready_of (by decide +kernel), ready_of (by decide +kernel)⟩

theorem test_sums : allGive s1 a1 .raw [(.add none a1 a2 a3, 0x7FFFFFFFFFFFFFFF), (.add sat a1 a2 a3, 0x8000000000000000),
    (.sub none a1 w1 a2, 0x8000000000000003), (.sub sat a1 w1 a2, 0x7FFFFFFFFFFFFFFF), (.addi sat a1 a2 (-1), 0x8000000000000000),
    (.addi none a1 w1 (-4), 0xFFFFFFFFFFFFFFFF)] = true ∧
    allGive s1 a1 .addr [(.add none a1 w0 w1, 0x10000000CB), (.sub none a1 w0 a3, 0x10000000C9), (.addi none a1 w0 8, 0x10000000D0)] = true ∧
    gives (.sub none a1 w0 w0) s1 a1 0 .raw = true := by decide +kernel

theorem meets_Divisions : s1.ready none [a1, a2, a3] [a2, a3] ∧ s1.m.t.val a3 ≠ 0 ∧ s1.m.t.val (.code 4) = 0 ∧
    (s1.m.t.val a2).toInt = -2 ^ 63 ∧ (s1.m.t.val a3).toInt = -1 := ⟨ready_of (by decide +kernel), by decide +kernel⟩

def s2 : State := withRegs base [(2, 0xFFFFFFFFFFFFFFF9, .raw), (3, 2, .raw)]

theorem test_divisions : allGive s1 a1 .raw [(.div none a1 a2 a3, 0x8000000000000000), (.rem none a1 a2 a3, 0), (.divn none a1 a3 w1, 0x5555555555555555)] = true ∧
    allGive s2 a1 .raw [(.div none a1 a2 a3, 0xFFFFFFFFFFFFFFFD), (.rem none a1 a2 a3, 0xFFFFFFFFFFFFFFFF), (.remn none a1 a2 a3, 1),
      (.divn none a1 a2 a3, 0x7FFFFFFFFFFFFFFC)] = true ∧
    traps (.div none a1 a2 a4) s1 0x0A 0x20000000 = true ∧ traps (.remn none a1 a2 a4) s1 0x0A 0x20000000 = true ∧
    traps (.rem none a1 a2 a4) s1 0x0A 0x20000000 = true ∧ traps (.divn none a1 a2 a4) s1 0x0A 0x20000000 = true := by decide +kernel

theorem meets_FieldsAndSelection : s1.ready none [a1, a2, a3, a4] [a2, a3, a4] ∧ s1.ready none [a1, a2, a3, a4] [a4] ∧
    s1.ready none [a1, a2, a3] [a2, a3] := ⟨ready_of (by decide +kernel), ready_of (by decide +kernel), ready_of (by decide +kernel)⟩

def s3 : State := withRegs base [(2, 0x123456789ABCDEF0, .raw), (3, 0x0820, .raw), (4, 0x3F, .raw), (5, 0xFFFFFFFFFFFFFFFF, .raw), (6, 0, .f32)]

theorem test_fields_and_selection : allGive s3 a1 .raw [(.bfx none a1 a2 a3, 0x78), (.bfx none a1 a2 a4, 0), (.bfi none a1 a2 a3 a5, 0xFFFFFFF0FFFFFFFF),
      (.bfi none a1 a2 a4 a5, 0x7FFFFFFFFFFFFFFF), (.sel none a1 a2 a3 a5, 0x123456789ABCDEF0)] = true ∧
    allGive s3 a1 .addr [(.lea none .x1 a1 a2 a4, 0x123456789ABCDF2F), (.lea none .x64 a1 a2 a4, 0x123456789ABCEEB0)] = true ∧
    gives (.sel none a1 a2 a6 (.code 7)) s3 a1 0 .f32 = true := by decide +kernel

theorem meets_OneOperandOps : s1.plain ∧ s1.fit [a1, .slot 255] ∧ s1.ready none [a1, .slot 255] [.slot 255] :=
  ⟨plain_of (by decide +kernel), fit_of (by decide +kernel), ready_of (by decide +kernel)⟩

def s4 : State := onT (withRegs base [(2, 0x80, .raw), (3, 0x8000000000000000, .raw)]) fun t =>
  { t with workId := 0x5A7, ctl := { t.ctl with widShape := 0x0000000104 } }

theorem test_one_operand_ops : allGive s4 a1 .raw [(.movi a1 (-1), 0xFFFFFFFFFFFFFFFF), (.wid a1 0, 7), (.wid a1 1, 0xA), (.wid a1 2, 0), (.mov none a1 (.slot 255), 0),
      (.not none a1 a2, 0xFFFFFFFFFFFFFF7F), (.neg none a1 a3, 0x8000000000000000), (.neg sat a1 a3, 0x7FFFFFFFFFFFFFFF),
      (.abs none a1 a3, 0x8000000000000000), (.abs sat a1 a3, 0x7FFFFFFFFFFFFFFF), (.sextB none a1 a2, 0xFFFFFFFFFFFFFF80),
      (.sextH none a1 a2, 0x80), (.zextB none a1 a2, 0x80), (.zextW none a1 a3, 0), (.shli none a1 a2 57, 0), (.sari none a1 a3 63, 0xFFFFFFFFFFFFFFFF),
      (.shri none a1 a3 63, 1), (.andi none a1 a3 (-1), 0x8000000000000000), (.clz none a1 a2, 56), (.clz none a1 a4, 64), (.ctz none a1 a2, 7),
      (.ctz none a1 a4, 64), (.popc none a1 a2, 1), (.brev none a1 a2, 0x0100000000000000), (.sextW none a1 a2, 0x80), (.zextH none a1 a2, 0x80)] = true := by decide +kernel

theorem meets_Comparisons : s1.ready none [a2, a3] [a2, a3] ∧ s1.ready none [a2] [a2] := ⟨ready_of (by decide +kernel), ready_of (by decide +kernel)⟩

/-- CMP or CMPI writes a mask to predicate p. -/
def compares (i : Instr) (s : State) (p : Nat) (v : Mask) : Bool :=
  leaves i s { s.m.t with img := { s.m.t.img with p := Tab.put 0 s.m.t.img.p p v }, fol := s.m.t.fol.map fun g => { g with p := Tab.put 0 g.p p v } }

/-- A gang of two. -/
def gang2 (s : State) : State := onT s fun t => { t with fol := [{ p := [(1, 0x00FF)] }] }

theorem test_comparisons : compares (.cmp none .lt 1 a2 a3) (gang2 s1) 1 0xFFFF = true ∧ compares (.cmp none .ltn 7 a3 a2) s1 7 0 = true ∧
    compares (.cmpi none .len 1 a2 (-1)) s1 1 0xFFFF = true ∧ compares (.cmpi none .gt 2 a3 0) s1 2 0 = true ∧
    leaves (.cmp none .eq 0 a2 a2) s1 s1.m.t = true := by decide +kernel

def s5 : State := onT (withRegs base [(2, 0x20001000, .raw), (3, 1, .raw), (8, 0x20000100, .addr)]) fun t =>
  { t with npc := 0x20000002, img := { t.img with p := [(1, 1), (2, 0xFFFE)] } }

theorem meets_Transfers : s5.plain ∧ s5.fit [.slot 0] ∧ s5.fit [a2, .slot 0] ∧ (s5.m.t.val a2).getLsbD 0 = false ∧ (s5.m.t.val a3).getLsbD 0 = true ∧
    (s5.m.t.val (.slot 0)).getLsbD 0 = false ∧ ((withRegs s5 [(8, 1, .addr)]).m.t.val (.slot 0)).getLsbD 0 = true ∧ s5.ready none [a3] [a3] :=
  ⟨plain_of (by decide +kernel), fit_of (by decide +kernel), fit_of (by decide +kernel), by decide +kernel, by decide +kernel,
    by decide +kernel, by decide +kernel, ready_of (by decide +kernel)⟩

/-- Control goes to an address, and nothing else happens. -/
def goes (i : Instr) (s : State) (w : Word) : Bool := leaves i s { s.m.t with npc := w }

theorem test_transfers : goes .nop s5 0x20000002 = true ∧ goes (.br (-6)) s5 0x1FFFFFF4 = true ∧ goes (.bc 1 3) s5 0x20000006 = true ∧ goes (.bc 2 3) s5 0x20000002 = true ∧
    goes (.bcN 2 3) s5 0x20000006 = true ∧ goes (.bc 0 3) s5 0x20000006 = true ∧ goes (.bri a2) s5 0x20001000 = true ∧ goes .ret s5 0x20000100 = true ∧
    leaves (.call 16) s5 { s5.m.t.wr (.slot 0) 0x20000002 .addr with npc := 0x20000020 } = true ∧
    leaves (.calli a2) s5 { s5.m.t.wr (.slot 0) 0x20000002 .addr with npc := 0x20001000 } = true ∧
    traps (.bri a3) s5 0x05 1 = true ∧ traps .ret (withRegs s5 [(8, 1, .addr)]) 0x05 1 = true ∧
    leaves (.loop none a3 (-4)) s5 (s5.m.t.wr a3 0 .raw) = true ∧
    leaves (.loop none a2 (-4)) s5 { s5.m.t.wr a2 0x20000FFF .raw with npc := 0x1FFFFFF8 } = true := by decide +kernel

def s6 : State := onT (withRegs base [(2, 7, .i16), (263, 9, .f64)]) fun t => { t with x := [(0, 5), (3, 0xFFFF)] }

theorem meets_WindowOps : s6.plain ∧ s6.fit [a2] ∧ ((Tab.look 0 s6.m.t.x 0).toNat + 250) % 65536 < s6.m.t.ctl.alloc.toNat ∧
    s6.m.t.ctl.alloc.toNat ≤ ((Tab.look 0 s6.m.t.x 0).toNat + 251) % 65536 ∧ ((Tab.look 0 s6.m.t.x 3).toNat + 1) % 65536 < s6.m.t.ctl.alloc.toNat ∧
    (s6.m.t.cell (8 + ((Tab.look 0 s6.m.t.x 0).toNat + 1) % 65536)).tag = .unwritten ∧ s6.m.t.tag a1 = .unwritten :=
  ⟨plain_of (by decide +kernel), fit_of (by decide +kernel), by decide +kernel⟩

theorem test_window_ops : leaves (.xset 2 1023) s6 { s6.m.t with x := [(0, 5), (2, 1023), (3, 0xFFFF)] } = true ∧
    leaves (.xadd 0 (-5)) s6 { s6.m.t with x := [(3, 0xFFFF)] } = true ∧ gives (.ldx none a1 0 250) s6 a1 9 .f64 = true ∧
    traps (.ldx none a1 0 251) s6 0x03 256 = true ∧ traps (.stx none a1 0 251) s6 0x03 256 = true ∧
    after (.ldx none a2 0 1) s6 (fun s => decide (s.m.t.val a2 = 0) && decide (s.m.t.tag a2 = .unwritten)) = true ∧
    after (.stx none a2 3 1) s6 (fun s => decide (s.m.t.cell 8 = ⟨7, .i16, none⟩) && onlyRegs s6 s [8]) = true := by decide +kernel

def s7 : State := onT (withRegs base [(2, 7, .i16)]) fun t => { t with img := { t.img with p := [(1, 0x00F1), (2, 0xFFF0)] } }

theorem meets_TagOps : s7.plain ∧ (s7.m.t.img.pred 1).getLsbD 0 = true ∧ s7.fit [a1, a2] ∧ (s7.m.t.img.pred 2).getLsbD 0 = false :=
  ⟨plain_of (by decide +kernel), by decide +kernel, fit_of (by decide +kernel), by decide +kernel⟩

theorem test_tag_ops : gives (.tagset none 1 .f32 a1 a2) s7 a1 7 .f32 = true ∧ gives (.tagget none 0 a1 a2) s7 a1 8 .raw = true ∧
    leaves (.tagset none 2 .f32 a1 a2) s7 s7.m.t = true ∧ leaves (.tagget none 2 a1 a2) s7 s7.m.t = true := by decide +kernel

/-! ### Vectors -/

/-- a at slot 8: 1, 2, a signalling NaN, infinity, 2^-149, -0, then 3s; b at slot 16: twos; d at slot 24: ones. -/
def v1 : State :=
  withPreds (withVec (withVec (withVec base 8 .f32 ([0x3F800000, 0x40000000, 0x7F800001, 0x7F800000, 1, 0x80000000] ++ List.replicate 10 0x40400000))
    16 .f32 (List.replicate 16 0x40000000)) 24 .f32 (List.replicate 16 0x3F800000)) [(1, 0x003F), (2, 0x0003)]

/-- FP64 elements: 1.5 and 2^-1074 at slot 8, twos at slot 16. -/
def v2 : State := withPreds (withVec (withVec base 8 .f64 [0, 0x3FF80000, 1, 0]) 16 .f64 [0, 0x40000000, 0, 0x40000000, 0, 0x40000000, 0, 0x40000000]) [(1, 0x0005)]

theorem meets_VectorFloat : (v1.plain ∧ v1.quietFp ∧ v1.vfit [24, 8, 16] []) ∧ v2.plain ∧ v2.quietFp ∧ v2.vfit [248, 8, 16] [] ∧
    (∀ q ∈ (v1.m.t.img.vec 8).tags ++ (v1.m.t.srcB 0 (.slot 16)).tags, q = .unwritten ∨ q = .f32) ∧
    ∀ q ∈ (v2.m.t.img.vec 8).tags.take 4 ++ (v2.m.t.srcB 0 (.slot 16)).tags.take 4, q = .unwritten ∨ q = .f64 :=
  ⟨⟨plain_of (by decide +kernel), by unfold State.quietFp; decide +kernel, vfit_of (by decide +kernel)⟩, plain_of (by decide +kernel),
    by unfold State.quietFp; decide +kernel, vfit_of (by decide +kernel), by decide +kernel, by decide +kernel⟩

theorem test_vector_float : vecGives (.vadd none 1 24 8 (.slot 16)) v1 24
      [(0, 0x40400000), (1, 0x40800000), (2, 0x7FC00001), (3, 0x7F800000), (4, 0x40000000), (5, 0x40000000)] .f32 { iv := 4, nx := 16 } = true ∧
    vecGives (.vfma none 1 24 8 (.slot 16)) v1 24
      [(0, 0x40400000), (1, 0x40A00000), (2, 0x7FC00001), (3, 0x7F800000), (4, 0x3F800000), (5, 0x3F800000)] .f32 { iv := 4, nx := 16 } = true ∧
    vecGives (.vfnma none 2 24 8 (.slot 16)) v1 24 [(0, 0xBF800000), (1, 0xC0400000)] .f32 {} = true ∧
    vecGives (.vfms none 2 24 8 (.slot 16)) v1 24 [(0, 0x3F800000), (1, 0x40400000)] .f32 {} = true ∧
    vecGives (.vsub none 2 24 8 (.slot 16)) v1 24 [(0, 0xBF800000), (1, 0)] .f32 {} = true ∧
    vecGives (.vmin none 1 24 8 (.slot 16)) v1 24
      [(0, 0x3F800000), (1, 0x40000000), (2, 0x7FC00001), (3, 0x40000000), (4, 1), (5, 0x80000000)] .f32 { iv := 4 } = true ∧
    vecGives (.vmax none 1 24 8 (.slot 16)) v1 24
      [(0, 0x40000000), (1, 0x40000000), (2, 0x7FC00001), (3, 0x7F800000), (4, 0x40000000), (5, 0x40000000)] .f32 { iv := 4 } = true ∧
    vecGives (.vmul none 1 248 8 (.slot 16)) v2 248 [(0, 0), (1, 0x40080000), (2, 2), (3, 0)] .f64 {} = true := by decide +kernel

def i1 : State := withPreds (withVec (withVec base 8 .i8 (List.replicate 16 0x7F80FF01)) 16 .i8 (List.replicate 16 0x01FF0902)) [(1, 1)]
def i2 : State := withPreds (withRegs (withVec base 8 .i32 (List.replicate 16 0x80000000)) [(2, 0xFFFFFFFFFFFFFFFF, .raw)]) [(1, 0x8000)]

theorem meets_VectorIntegers : (i1.plain ∧ i1.vfit [24, 8, 16] []) ∧ i2.plain ∧ i2.vfit [24, 8] [a2] ∧
    (∀ q ∈ (i1.m.t.img.vec 8).tags ++ (i1.m.t.srcB 0 (.slot 16)).tags, q = .unwritten ∨ q = .i8 ∨ q = .raw ∨ q = .addr) ∧
    ∀ q ∈ (i2.m.t.img.vec 8).tags ++ (i2.m.t.srcB 0 a2).tags, q = .unwritten ∨ q = .i32 ∨ q = .raw ∨ q = .addr :=
  ⟨⟨plain_of (by decide +kernel), vfit_of (by decide +kernel)⟩, plain_of (by decide +kernel), vfit_of (by decide +kernel),
    by decide +kernel, by decide +kernel⟩

theorem test_vector_integers : vecGives (.viadd none 1 24 8 (.slot 16)) i1 24 [(0, 0x807F0803)] .i8 {} = true ∧
    vecGives (.viadd sat 1 24 8 (.slot 16)) i1 24 [(0, 0x7F800803)] .i8 {} = true ∧
    vecGives (.visub sat 1 24 8 (.slot 16)) i1 24 [(0, 0x7E81F6FF)] .i8 {} = true ∧
    vecGives (.vimul none 1 24 8 (.slot 16)) i1 24 [(0, 0x7F80F702)] .i8 {} = true ∧
    vecGives (.vand none 1 24 8 (.slot 16)) i1 24 [(0, 0x01800900)] .i8 {} = true ∧
    vecGives (.vor none 1 24 8 (.slot 16)) i1 24 [(0, 0x7FFFFF03)] .i8 {} = true ∧
    vecGives (.vxor none 1 24 8 (.slot 16)) i1 24 [(0, 0x7E7FF603)] .i8 {} = true ∧
    vecGives (.vshl none 1 24 8 (.slot 16)) i1 24 [(0, 0xFE00FE04)] .i8 {} = true ∧
    vecGives (.vshr none 1 true 24 8 (.slot 16)) i1 24 [(0, 0x3FFFFF00)] .i8 {} = true ∧
    vecGives (.visub none 1 24 8 a2) i2 24 [(15, 0x80000001)] .i32 {} = true ∧
    vecGives (.vshr none 1 false 24 8 a2) i2 24 [(15, 1)] .i32 {} = true := by decide +kernel

/-- BF16 pairs at slot 8 (1, 2) and 16 (3, 4), and FP8 quads at slots 40 (E4M3: 1, 1, 1, 1) and 48 (E5M2: 2, 2, 2, 2); d at 24 holds FP32 ones. -/
def v3 : State := withPreds (withVec (withVec (withVec (withVec (withVec base 8 .bf16 (List.replicate 16 0x40003F80)) 16 .bf16 (List.replicate 16 0x40804040))
    24 .f32 (List.replicate 16 0x3F800000)) 40 .e4m3 (List.replicate 16 0x38383838)) 48 .e5m2 (List.replicate 16 0x40404040)) [(1, 0x0101)]

theorem meets_VectorSignsDots : v3.plain ∧ v3.quietFp ∧ v3.vfit [24, 8] [] ∧ v3.vfit [24, 8, 16] [] ∧ v3.vfit [24, 40, 48] [] ∧
    v3.vtags none [.f32, .bf16, .f16, .e4m3, .e5m2, .f64] (fun j => ((v3.m.t.member j).vec 8).tags) ∧
    v3.vtags none [.f32] (fun j => ((v3.m.t.member j).vec 24).tags) ∧
    v3.vtags none [.bf16] (fun j => ((v3.m.t.member j).vec 8).tags ++ (v3.m.t.srcB j (.slot 16)).tags) ∧
    (∀ q ∈ ((v3.m.t.member 0).vec 40).tags, q = .e4m3) ∧ (∀ q ∈ (v3.m.t.srcB 0 (.slot 48)).tags, q = .e5m2) ∧
    ∀ q ∈ ((v1.m.t.member 0).vec 8).tags, q = .unwritten ∨ q = .f32 := by
  refine ⟨plain_of (by decide +kernel), by unfold State.quietFp; decide +kernel, vfit_of (by decide +kernel), vfit_of (by decide +kernel),
    vfit_of (by decide +kernel), ?_, ?_, ?_, by decide +kernel, by decide +kernel, by decide +kernel⟩ <;>
  · intro j hj
    obtain rfl : j = 0 := by
      have : v3.m.t.gangSize = 1 := by decide +kernel
      omega
    decide +kernel

theorem test_vector_signs_dots : vecGives (.vabs none 1 24 8) v1 24
      [(0, 0x3F800000), (1, 0x40000000), (2, 0x7F800001), (3, 0x7F800000), (4, 1), (5, 0)] .f32 {} = true ∧
    vecGives (.vneg none 1 24 8) v3 24 [(0, 0xC000BF80), (8, 0xC000BF80)] .bf16 {} = true ∧
    vecGives (.vneg none 1 24 8) v2 24 [(0, 0), (1, 0xBFF80000), (2, 1), (3, 0x80000000)] .f64 {} = true ∧
    vecGives (.vdot2 none 1 24 8 (.slot 16)) v3 24 [(0, 0x41400000), (8, 0x41400000)] .f32 {} = true ∧
    vecGives (.vdot4 none 1 24 40 (.slot 48)) v3 24 [(0, 0x41100000), (8, 0x41100000)] .f32 {} = true ∧
    vecGives (.vclass none 1 24 8) v1 24 [(0, 64), (1, 64), (2, 256), (3, 128), (4, 32), (5, 8)] .i32 {} = true := by decide +kernel

theorem meets_VectorComparesMoves : v1.plain ∧ v1.vfit [8, 16] [] ∧ v1.quietFp ∧ v1.vfit [24, 8] [] ∧
    (∀ q ∈ ((v1.m.t.member 0).vec 8).tags ++ ((v1.m.t.member 0).vec 16).tags, q = .unwritten ∨ q = .f32) ∧
    ∀ q ∈ ((v2.m.t.member 0).vec 8).tags.take 4 ++ ((v2.m.t.member 0).vec 16).tags.take 4, q = .unwritten ∨ q = .f64 :=
  ⟨plain_of (by decide +kernel), vfit_of (by decide +kernel), by unfold State.quietFp; decide +kernel, vfit_of (by decide +kernel),
    by decide +kernel, by decide +kernel⟩

/-- VCMP writes a predicate and flags, and nothing else. -/
def vcompares (i : Instr) (s : State) (p : Fin 8) (v : Mask) (fl : Flags) : Bool :=
  leaves i s { s.m.t with img := { (s.m.t.img.setPred p v) with fl := s.m.t.img.fl.or fl } }

theorem test_vector_compares_moves : vcompares (.vcmp none 1 .lt 3 8 16) v1 3 0x0031 { iv := 4 } = true ∧
    vcompares (.vcmp none 1 .un 3 8 16) v1 3 0x0004 { iv := 4 } = true ∧
    vcompares (.vcmp none 1 .ne 3 8 16) v1 3 0x003D { iv := 4 } = true ∧
    vcompares (.vcmp none 1 .lt 3 8 16) v2 3 0x000F {} = true ∧
    vecGives (.vmov none 2 24 8) v1 24 [(0, 0x3F800000), (1, 0x40000000)] .f32 {} = true ∧
    vecGives (.vsel none 1 24 8 2) v1 24 [(0, 0x3F800000), (1, 0x40000000), (2, 0), (3, 0), (4, 0), (5, 0)] .f32 {} = true := by decide +kernel

/-- Indices at slot 32, lanes 0 to 15 reversed. -/
def v4 : State := withRegs (withVec v1 32 .i32 ((List.range 16).map fun n => BitVec.ofNat 32 (15 - n))) [(2, 0xFFFFFFFF3F800001, .f32), (3, 17, .raw), (4, 2, .raw)]

theorem meets_VectorLanes : v4.plain ∧ v4.vfit [24] [a2] ∧ v4.vfit [24, 8, 32] [] ∧ v4.vfit [24] [a2, a3] ∧ v4.rawOk none [a3] ∧ v4.vfit [8] [a1, a3] ∧
    v4.vtags none [.i32, .raw, .i8, .i16, .addr] (fun j => ((v4.m.t.member j).vec 32).tags) := by
  refine ⟨plain_of (by decide +kernel), vfit_of (by decide +kernel), vfit_of (by decide +kernel), vfit_of (by decide +kernel),
    raw_of (by decide +kernel), vfit_of (by decide +kernel), ?_⟩
  intro j hj
  obtain rfl : j = 0 := by
    have : v4.m.t.gangSize = 1 := by decide +kernel
    omega
  decide +kernel

theorem test_vector_lanes : vecGives (.vbcast none 2 .w 24 a2) v4 24 [(0, 0x3F800001), (1, 0x3F800001)] .f32 {} = true ∧
    vecGives (.vbcast none 2 .d 24 a2) v4 24 [(0, 0x3F800001), (1, 0xFFFFFFFF)] .f32 {} = true ∧
    vecGives (.vbcast none 2 .h 24 a2) v4 24 [(0, 0x00010001), (1, 0x00010001)] .i16 {} = true ∧
    vecGives (.vbcast none 2 .b 24 a2) v4 24 [(0, 0x01010101), (1, 0x01010101)] .i8 {} = true ∧
    vecGives (.vshuf none 24 8 32) v4 24 ((List.range 10).map (fun n => (n, 0x40400000)) ++
      [(10, 0x80000000), (11, 1), (12, 0x7F800000), (13, 0x7F800001), (14, 0x40000000), (15, 0x3F800000)]) .f32 {} = true ∧
    vecGives (.vins none 0 24 a2 a3) v4 24 [(1, 0x3F800001)] .f32 {} = true ∧
    vecGives (.vins none 2 24 a2 a4) v4 24 [] .f32 {} = true ∧
    gives (.vext none a1 8 a4) v4 a1 0x7F800001 .f32 = true ∧ gives (.vext none a1 32 a3) v4 a1 14 .raw = true ∧
    vecGives (.vlanei 2 24) v4 24 [(0, 0), (1, 1)] .i32 {} = true := by decide +kernel

/-- Integers at slot 32: 5, -3, 7 in the lanes p1 enables. -/
def v5 : State := withPreds (withVec (withVec base 32 .i32 [5, 0xFFFFFFFD, 7, 9]) 8 .f32 [0x3F800000, 0x40000000, 0xBF800000]) [(1, 7), (2, 5)]

theorem meets_VectorReductions : v5.plain ∧ v5.quietFp ∧ v5.vfit [32] [a1] ∧ v5.vfit [24, 32] [] ∧ v5.fit [a1] ∧
    v5.vtags none [.i32, .raw, .addr] (fun j => ((v5.m.t.member j).vec 32).tags) ∧ v5.vtags none [.f32] (fun j => ((v5.m.t.member j).vec 8).tags) := by
  refine ⟨plain_of (by decide +kernel), by unfold State.quietFp; decide +kernel, vfit_of (by decide +kernel), vfit_of (by decide +kernel),
    fit_of (by decide +kernel), ?_, ?_⟩ <;>
  · intro j hj
    obtain rfl : j = 0 := by
      have : v5.m.t.gangSize = 1 := by decide +kernel
      omega
    decide +kernel

theorem test_vector_reductions : allGive v5 a1 .raw [(.vred none 1 a1 (.lanes (.scan .iadd) 32), 9), (.vred none 1 a1 (.lanes (.scan .imin) 32), 0xFFFFFFFFFFFFFFFD),
      (.vred none 1 a1 (.lanes .and 32), 5), (.vred none 1 a1 (.lanes .or 32), 0xFFFFFFFF), (.vred none 1 a1 (.lanes .xor 32), 0xFFFFFFFF),
      (.vred none 1 a1 (.flag .iv), 0), (.vote 1 .any a1 (.pred 2), 1), (.vote 1 .all a1 (.pred 2), 0), (.vote 1 .cnt a1 (.pred 2), 2), (.vote 1 .mask a1 (.pred 2), 5)] = true ∧
    gives (.vred none 1 a1 (.lanes (.scan .fadd) 8)) v5 a1 0x40000000 .f32 = true ∧
    vecGives (.vscan none 1 .imax 24 32) v5 24 [(0, 5), (1, 5), (2, 7)] .i32 {} = true := by decide +kernel

/-- Scalars: FP32 2.5 in a2, 300 in a3; lanes of FP32 at slot 8, of integers at 32, of BF16 at 40, FP64 1.5 at 48. -/
def v6 : State := withPreds (withVec (withVec (withVec (withVec (withRegs base [(2, 0x40200000, .f32), (3, 300, .raw), (4, 0, .s8)]) 8 .f32
    ([0x40200000, 0xC0200000, 0x4F800000, 0x3F800001] ++ List.replicate 12 0x3F800000)) 32 .i32 [5, 0xFFFFFFFD, 0x01000001]) 40 .bf16 (List.replicate 16 0x40003F80))
    48 .f64 [0, 0x3FF80000, 0, 0x3FF80000, 0, 0x3FF80000, 0, 0x3FF80000]) [(1, 0x000F), (2, 0x0003)]

theorem meets_Conversions : v6.plain ∧ v6.quietFp ∧ v6.fit [a1, a2] ∧ v6.m.t.tag a2 ∉ [Tag.s16, .s8, .s4, .s2] ∧ v6.vfit [24, 8] [] ∧
    v6.vtags none [.f32] (fun j => ((v6.m.t.member j).vec 8).tags) ∧ v6.vtags none [.i32, .raw, .addr] (fun j => ((v6.m.t.member j).vec 32).tags) ∧
    v6.vtags none [.f32] (fun j => ((v6.m.t.member j).vec 8).tags.take 2) ∧ v6.vtags none [.f64] (fun j => ((v6.m.t.member j).vec 48).tags.take 4) ∧
    v6.vtags none [(packFmt (.bf16 1)).2.2] (fun j => (packSlots 16 1).map fun i => ((v6.m.t.member j).vec 40).tags.getD i .unwritten) := by
  refine ⟨plain_of (by decide +kernel), by unfold State.quietFp; decide +kernel, fit_of (by decide +kernel), by decide +kernel,
    vfit_of (by decide +kernel), ?_, ?_, ?_, ?_, ?_⟩ <;>
  · intro j hj
    obtain rfl : j = 0 := by
      have : v6.m.t.gangSize = 1 := by decide +kernel
      omega
    decide +kernel

/-- CVT gives a value and flags of lane 0. -/
def converts (i : Instr) (s : State) (v : Word) (tag : Tag) (fl : FSet) : Bool :=
  let t := s.m.t.wr a1 v tag
  leaves i s { t with img := { t.img with fl := t.img.fl.or (fl.inLane 0) } }

theorem test_conversions : converts (.cvt none .i32 a1 a2) v6 2 .i32 { nx := true } = true ∧ converts (.cvt none .f32 a1 a3) v6 0x43960000 .f32 {} = true ∧
    converts (.cvt none .bf16 a1 a2) v6 0x4020 .bf16 {} = true ∧ converts (.cvt sat .i8 a1 a3) v6 127 .i8 {} = true ∧
    traps (.cvt none .f32 a1 a4) v6 0x04 0x20000000 = true ∧
    vecGives (.vcvt none 1 .i32 24 8) v6 24 [(0, 2), (1, 0xFFFFFFFE), (2, 0x7FFFFFFF), (3, 1)] .i32 { iv := 4, nx := 11 } = true ∧
    vecGives (.vcvt none 1 .n32 24 8) v6 24 [(0, 2), (1, 0), (2, 0xFFFFFFFF), (3, 1)] .i32 { iv := 6, nx := 9 } = true ∧
    vecGives (.vcvt none 1 .f32 24 32) v6 24 [(0, 0x40A00000), (1, 0xC0400000), (2, 0x4B800000), (3, 0)] .f32 { nx := 4 } = true ∧
    vecGives (.vcvt none 2 .f32n 24 32) v6 24 [(0, 0x40A00000), (1, 0x4F800000)] .f32 { nx := 2 } = true ∧
    vecGives (.vcvt none 1 .rint 24 8) v6 24 [(0, 0x40000000), (1, 0xC0000000), (2, 0x4F800000), (3, 0x3F800000)] .f32 { nx := 11 } = true ∧
    vecGives (.vcvt none 2 .f64 24 8) v6 24 [(0, 0), (1, 0x40040000)] .f64 {} = true ∧
    vecGives (.vcvt none 1 .f32d 24 48) v6 24 [(0, 0x3FC00000), (1, 0x3FC00000), (2, 0x3FC00000), (3, 0x3FC00000)] .f32 {} = true ∧
    vecGives (.vpack none 1 (.bf16 1) 24 8) v6 24 [(8, 0xC0204020), (9, 0x3F804F80)] .bf16 { nx := 8 } = true ∧
    vecGives (.vunpk none 1 (.bf16 1) 24 40) v6 24 [(0, 0x3F800000), (1, 0x40000000), (2, 0x3F800000), (3, 0x40000000)] .f32 {} = true := by decide +kernel

/-- Two registers of FP32 at slots 8 and 16 for an S16 block: 1, -2, then zeros. -/
def v7 : State := withVec (withVec base 8 .f32 [0x3F800000, 0xC0000000]) 16 .f32 []
/-- The block it packs to, at slot 24: S16, signed, scale -13, elements 0x2000 and -0x4000; and one of MARK 0 at slot 32. -/
def v8 : State := withVec (withVec base 24 .s16 [0x2000F3EA, 0xC000]) 32 .s16 [0x2000F3E0]

theorem meets_Blocks : v7.plain ∧ v7.quietFp ∧ v7.m.t.ctl.viewV.bad 8 1 24 = none ∧ v7.m.t.ctl.viewV.bad 8 (blkRegs .s16) 8 = none ∧
    v7.vtags none [.f32] (fun j => (List.range (blkSlots .s16)).map fun i => ((v7.m.t.member j).cell (slotKey (8 + i))).tag) ∧
    v8.plain ∧ v8.quietFp ∧ v8.vfit [40, 24] [] ∧ v8.vtags none [.raw, .s16, .s8, .s4, .s2] (fun j => (v8.m.t.member j).vecTags 24) ∧
    v8.vtags none [.raw, .s16, .s8, .s4, .s2] (fun j => (v8.m.t.member j).vecTags 32) ∧
    (BitVec.ofNat 8 ((v8.m.t.member 0).vecNat 32)).toNat % 16 ≠ 10 ∧ (BitVec.ofNat 8 ((v8.m.t.member 0).vecNat 24)).toNat % 16 = 10 ∧
    v8.m.t.ctl.viewV.bad 8 ((blkCount (blkWidth (BitVec.ofNat 8 ((v8.m.t.member 0).vecNat 24))) + 15) / 16) 40 = none := by
  refine ⟨plain_of (by decide +kernel), by unfold State.quietFp; decide +kernel, by decide +kernel, by decide +kernel, ?_,
    plain_of (by decide +kernel), by unfold State.quietFp; decide +kernel, vfit_of (by decide +kernel), ?_, ?_, by decide +kernel,
    by decide +kernel, by decide +kernel⟩
  · intro j hj
    obtain rfl : j = 0 := by
      have : v7.m.t.gangSize = 1 := by decide +kernel
      omega
    decide +kernel
  all_goals
    intro j hj
    obtain rfl : j = 0 := by
      have : v8.m.t.gangSize = 1 := by decide +kernel
      omega
    decide +kernel

theorem test_blocks : vecGives (.blkpk none .s16 false 24 8) v7 24 ([(0, 0x2000F3EA), (1, 0xC000)] ++ (List.range 14).map fun n => (n + 2, 0)) .s16 {} = true ∧
    traps (.blkup none false 40 32) v8 0x04 0x20000000 = true ∧
    after (.blkup none false 40 24) v8 (fun s => decide (s.m.t.img.lane 40 0 = 0x3F800000) && decide (s.m.t.img.lane 40 1 = 0xC0000000) &&
      decide (s.m.t.img.lane 48 14 = 0) && decide ((s.m.t.cell 63).tag = .f32) && decide ((s.m.t.cell 64).tag = .unwritten)) = true := by decide +kernel

def v9 : State := onT (withPreds (withRegs base [(2, 0x125, .raw)]) [(1, 0x00FF)]) fun t =>
  { t with img := { t.img with fl := { iv := 0x0101, nx := 0x8002 } }, ctl := { t.ctl with flgEn := 3 } }

theorem meets_FlagOps : v9.plain ∧ v9.ready none [a1, a2] [a2] := ⟨plain_of (by decide +kernel), ready_of (by decide +kernel)⟩

theorem test_flag_ops : leaves (.flrd 1 (.one .iv) 4) v9 { v9.m.t with img := v9.m.t.img.setPred 4 0x0001 } = true ∧
    leaves (.flrd 0 .any 4) v9 { v9.m.t with img := v9.m.t.img.setPred 4 0x8103 } = true ∧
    leaves (.flclr 1 (some .iv)) v9 { v9.m.t with img := { v9.m.t.img with fl := { iv := 0x0100, nx := 0x8002 } } } = true ∧
    leaves (.flclr 1 none) v9 { v9.m.t with img := { v9.m.t.img with fl := { iv := 0x0100, nx := 0x8000 } } } = true ∧
    leaves .disband (gang2 v9) { (gang2 v9).m.t with fol := [] } = true ∧
    leaves (.flen none a1 a2) v9 { v9.m.t.wr a1 3 .raw with ctl := { v9.m.t.ctl with flgEn := 0x105 } } = true := by decide +kernel

def v10 : State := withPreds (withVec (withRegs base [(2, 0x40000000, .f32)]) 8 .f32 [0x40800000, 0xBF800000, 0]) [(1, 7)]

theorem meets_SpecialFunctions : v10.plain ∧ v10.quietFp ∧ v10.fit [a1, a2] ∧ v10.m.t.tag a2 = .f32 ∧ v10.vfit [24, 8] [] ∧
    v10.vtags none [.f32] (fun j => ((v10.m.t.member j).vec 8).tags) := by
  refine ⟨plain_of (by decide +kernel), by unfold State.quietFp; decide +kernel, fit_of (by decide +kernel), by decide +kernel,
    vfit_of (by decide +kernel), ?_⟩
  intro j hj
  obtain rfl : j = 0 := by
    have : v10.m.t.gangSize = 1 := by decide +kernel
    omega
  decide +kernel

/-- SFN parks its thread, and gives a value and flags once the SFU has answered. -/
def sfu (i : Instr) (s : State) (v : Word) (fl : FSet) : Bool :=
  let t := s.m.t.wr a1 v .f32
  after i s fun s1 => decide (s1 = s.owes { t.img with fl := t.img.fl.or (fl.inLane 0) } []) &&
    after (.parkResolved 1) s1 fun s2 => decide (s2.m.t.img = { t.img with fl := t.img.fl.or (fl.inLane 0) }) &&
      decide (s2.m.t.pc = s.m.t.npc) && decide (s2.m.t.phase = .ready) && decide (s2.m.t.owed = none)

theorem test_special_functions : sfu (.sfn none .sqrt a1 a2) v10 0x3FB504F3 { nx := true } = true ∧ sfu (.sfn none .rcp a1 a2) v10 0x3F000000 {} = true ∧
    sfu (.sfn none .log2 a1 a2) v10 0x3F800000 {} = true ∧
    after (.sfnv none 1 .rsqrt 24 8) v10 (fun s => decide (s.m.t.img = v10.m.t.img) && after (.parkResolved 1) s fun s => decide (s.m.t.img.lane 24 0 = 0x3F000000) && decide (s.m.t.img.lane 24 1 = 0x7FC00000) &&
      decide (s.m.t.img.lane 24 2 = 0x7F800000) && decide (s.m.t.img.fl = { iv := 2, dz := 4 }) && decide (s.m.t.phase = .ready)) = true := by decide +kernel

/-! ### Memory -/

/-- A global address in a2 with 0x8877665544332281 behind it, a scratchpad address in a3, a value in a1. -/
def m1 : State := withMem (withMem (withRegs base [(1, 0x1122334455667788, .raw), (2, 0x20010040, .raw), (3, 0x40, .raw), (4, 0x20010041, .raw)])
  (gkey 0x40) [0x81, 0x22, 0x33, 0x44, 0x55, 0x66, 0x77, 0x88]) (skey 0x40) [0xF0, 0xFF]

/-- A weak access. -/
def weak : Option XMod := some { weak := true }

theorem meets_Loads : m1.atRest ∧ m1.ready none [a1, a2] [a2] ∧ (m1.m.t.val a2).toNat % 64 = 0 ∧
    (∃ x, m1.m.resolve m1.m.cur m1.m.t.core .g (m1.m.t.val a2) 8 false = .ok x ∧ (decide (x.1.home = .hbm) && !isWeak none x.1) = true) ∧
    (∃ x, m1.m.resolve m1.m.cur m1.m.t.core .s (m1.m.t.val a3) 8 false = .ok x ∧ (decide (x.1.home = .cluster 0) && !isWeak none x.1) = true) ∧
    (∃ x, m1.m.resolve m1.m.cur m1.m.t.core .g (m1.m.t.val a2) 8 false = .ok x ∧ (isWeak weak x.1 && (m1.m.mergeable m1.m.t x.1 8).isNone) = true) ∧ m1.m.t.fol.length ≤ 7 ∧
    m1.plain ∧ m1.vfit [8] [a2] ∧ m1.rawOk none [a2] ∧
    ∃ x, m1.m.memberLocs .g (m1.m.t.val a2) false (fun _ => List.range 64) 0 m1.m.t.gangSize = .ok x ∧
      (x.1.all fun l => decide (l.home = .hbm) && !isWeak none l) = true :=
  ⟨rest_of (by decide +kernel), ready_of (by decide +kernel), by decide +kernel, ok_of (by decide +kernel), ok_of (by decide +kernel),
    ok_of (by decide +kernel), by decide +kernel, plain_of (by decide +kernel), vfit_of (by decide +kernel), raw_of (by decide +kernel),
    ok_of (by decide +kernel)⟩

/-- A page of the test's context that lies behind Rinair port 3 (at 0x40000000), or root port 2 (at 0x60000000). -/
def mOut : State := withMem (withMem { m1 with m := { m1.m with portsUp := [3], rootsUp := [2] } } (2 ^ 21 + 16) (leBytes (2 ^ 48 + 3 * 2 ^ 44 + 0x5F) 8))
  (2 ^ 21 + 24) (leBytes (2 ^ 49 + 2 * 2 ^ 44 + 0x5F) 8)

theorem meets_Loads_outside : (∃ x, mOut.m.resolve 0 0 .g 0x40000000 8 false = .ok x ∧ decide (x.1.home = .peer 3) = true) ∧
    (∃ x, mOut.m.resolve 0 0 .g 0x60000000 8 false = .ok x ∧ decide (x.1.home = .root 2) = true) ∧ 3 ∈ mOut.m.portsUp ∧ 3 ∉ mOut.m.portsTrain ∧
    (onT mOut fun t => { t with answered := true }).m.t.answered = true :=
  ⟨ok_of (by decide +kernel), ok_of (by decide +kernel), by decide +kernel⟩

theorem test_loads : loads (.ld none .raw .d .g a1 a2) m1 a1 0x8877665544332281 .raw (.parked .mem) = true ∧
    loads (.ld none .i8 .b .g a1 a2) m1 a1 0xFFFFFFFFFFFFFF81 .i8 (.parked .mem) = true ∧
    loads (.ldN none .raw .b .g a1 a2) m1 a1 0x81 .raw (.parked .mem) = true ∧ loads (.ldN none .f32 .w .g a1 a2) m1 a1 0x44332281 .f32 (.parked .mem) = true ∧
    loads (.ld none .raw .h .s a1 a3) m1 a1 0xFFFFFFFFFFFFFFF0 .raw .ready = true ∧ loads (.ld none .raw .d .a a1 a3) m1 a1 0 .raw .ready = true ∧
    loads (.ld weak .raw .d .g a1 a2) m1 a1 0x8877665544332281 .raw (.parked .mem) = true ∧
    after (.ldv none 1 .f32 .g 8 a2) (withPreds m1 [(1, 2)]) (fun s => decide (s.m.t.img.lane 8 1 = 0x88776655) && decide (s.m.t.img.lane 8 0 = 0) &&
      decide ((s.m.t.cell 16).tag = .f32) && decide ((s.m.t.cell 17).tag = .unwritten) && decide (s.m.t.phase = .parked .mem)) = true := by decide +kernel

theorem meets_Stores : m1.atRest ∧ m1.ready none [a1, a2] [a2] ∧ (m1.m.t.val a2).toNat % 64 = 0 ∧
    (∃ x, m1.m.resolve m1.m.cur m1.m.t.core .g (m1.m.t.val a2) 8 true = .ok x ∧ (decide (x.1.home = .hbm) && !isWeak none x.1 && isWeak weak x.1) = true) ∧
    (∃ x, m1.m.reachS m1.m.cur m1.m.t.core (m1.m.t.val a3) 64 4 true = .ok x ∧ decide (x.space = 2) = true) ∧
    m1.m.t.fol = [] ∧ m1.vfit [8] [a2] ∧ m1.m.t.gov 0 0 ≠ 0 ∧
    ∃ x, m1.m.resolve m1.m.cur m1.m.t.core .g (m1.m.t.val a2) 64 true = .ok x ∧ (decide (x.1.home = .hbm) && !isWeak none x.1) = true :=
  ⟨rest_of (by decide +kernel), ready_of (by decide +kernel), by decide +kernel, ok_of (by decide +kernel), ok_of (by decide +kernel), by decide +kernel,
    vfit_of (by decide +kernel), by decide +kernel, ok_of (by decide +kernel)⟩

theorem test_stores : stores (.st none .d .g a1 a2) m1 0 (gkey 0x40) [0x88, 0x77, 0x66, 0x55, 0x44, 0x33, 0x22, 0x11] (.parked .mem) = true ∧
    stores (.st none .h .s a1 a3) m1 1 (skey 0x40) [0x88, 0x77] .ready = true ∧
    stores (.xst none a3 (.w a1)) m1 2 (skey 0x10000040) [0x88, 0x77, 0x66, 0x55] .ready = true ∧
    stores (.xst none a3 (.v 8)) (withVec m1 8 .f32 [1, 2]) 2 (skey 0x10000040) ([1, 0, 0, 0, 2] ++ List.replicate 59 0) .ready = true ∧
    after (.st weak .d .g a1 a2) m1 (fun s => decide (s.m.mem = m1.m.mem) && decide (s.m.ctxs = m1.m.ctxs) && decide (s.m.t = m1.m.t.retire) &&
      decide (s.m.weak.map (fun w => (w.loc.key, w.bytes.head?)) = [(gkey 0x40, some (gkey 0x40, 0x88))])) = true ∧
    after (.stv none 1 .g 8 a2) (withPreds (withVec m1 8 .f32 [1, 2]) [(1, 2)]) (fun s => decide (s.m.mem = pokeMem m1.m.mem (gkey 0x44) [2, 0, 0, 0])) = true := by decide +kernel

/-- Word 0x40 of core 0's scratchpad full. -/
def mFull : State := { m1 with m := { m1.m with fe := [((2 ^ 52 + 0x40) / 8, true)] } }

theorem meets_FullEmpty : m1.atRest ∧ mFull.atRest ∧ m1.ready none [a1, a3] [a3] ∧ mFull.ready none [a1, a3] [a3] ∧ (m1.m.t.val a3).toNat % 8 = 0 ∧
    scratchOf m1.m.t.core (m1.m.t.val a3) = some (0, 0x40) ∧
    (∀ need, need ≤ 3 → ∃ x, m1.m.reachS m1.m.cur m1.m.t.core (m1.m.t.val a3) 8 need false = .ok x ∧ decide (x.key = m1.m.frontKey 0 0x40) = true) ∧
    Tab.look false mFull.m.fe (mFull.m.frontKey 0 0x40 / 8) = true ∧ Tab.look false m1.m.fe (m1.m.frontKey 0 0x40 / 8) = false := by
  refine ⟨rest_of (by decide +kernel), rest_of (by decide +kernel), ready_of (by decide +kernel), ready_of (by decide +kernel), by decide +kernel,
    by decide +kernel, ?_, by decide +kernel, by decide +kernel⟩
  intro need hn
  interval_cases need <;> exact ok_of (by decide +kernel)

/-- The record a full/empty bit's change makes in the log. -/
def feRec (s : State) : Tab Ctx := (s.m.siltWrite 0 1 (skey 0x40) 8 0x1000 1).ctxs

/-- A task that waits for a word. -/
def waitsWord (i : Instr) (s : State) (op : Nat) (d : Opnd) : Bool := after i s fun s1 => match s1.m.t.phase with
  | .waiting (.word o 0 0x40 e v _ true none) => o == op && decide (e = d) && decide (v = s.m.t.val d) &&
    decide (s1.m.t = { s.m.t with phase := s1.m.t.phase }) && decide (s1.m.mem = s.m.mem) && decide (s1.m.fe = s.m.fe) && decide (s1.m.ctxs = s.m.ctxs)
  | _ => false

theorem test_full_empty : waitsWord (.ldfe none a1 a3) m1 0 a1 = true ∧ waitsWord (.ldff none a1 a3) m1 1 a1 = true ∧ waitsWord (.stfe none a1 a3) mFull 2 a1 = true ∧
    after (.ldfe none a1 a3) mFull (fun s => decide (s.m.t.cell 1 = ⟨0xFFF0, .raw, none⟩) && decide (s.m.t.cell 0 = ⟨0xFFF0, .raw, none⟩) && decide (s.m.fe = []) &&
      decide (s.m.mem = m1.m.mem) && decide (s.m.ctxs = feRec mFull)) = true ∧
    after (.ldff none a1 a3) mFull (fun s => decide (s.m.t.cell 1 = ⟨0xFFF0, .raw, none⟩) && decide (s.m.fe = mFull.m.fe) && decide (s.m.ctxs = mFull.m.ctxs)) = true ∧
    after (.stfe none a1 a3) m1 (fun s => decide (s.m.fe = mFull.m.fe) && decide (s.m.mem = pokeMem m1.m.mem (skey 0x40) [0x88, 0x77, 0x66, 0x55, 0x44, 0x33, 0x22, 0x11]) &&
      decide (s.m.ctxs = feRec m1) && decide (s.m.t.img = m1.m.t.img)) = true ∧
    after (.feset none a3) m1 (fun s => decide (s.m.fe = mFull.m.fe) && decide (s.m.mem = m1.m.mem) && decide (s.m.ctxs = feRec m1)) = true ∧
    after (.feclr none a3) mFull (fun s => decide (s.m.fe = []) && decide (s.m.mem = m1.m.mem) && decide (s.m.ctxs = feRec mFull)) = true := by decide +kernel

def m2 : State := withRegs m1 [(5, 0x8877665544332281, .raw), (6, 0xFFFFFFFF44332280, .raw)]

theorem meets_Atomics : m2.atRest ∧ m2.fit [a1, a2, a5, a6] ∧ m2.plain ∧ m2.rawOk none [a2, a5, a6] ∧ (m2.m.t.val a2).toNat % 8 = 0 ∧
    (∃ x, m2.m.atomicLoc .g (m2.m.t.val a2) 8 = .ok x ∧ decide (x.1.home = .hbm) = true) ∧
    (∃ x, m2.m.atomicLoc .s (m2.m.t.val a3) 4 = .ok x ∧ decide (x.1.home = .cluster 0) = true) ∧
    (m2.m.t.val a5).toNat = m2.m.number (gkey 0x40) 8 ∧ (m2.m.t.val a6).toNat ≠ m2.m.number (gkey 0x40) 8 :=
  ⟨rest_of (by decide +kernel), fit_of (by decide +kernel), plain_of (by decide +kernel), raw_of (by decide +kernel), by decide +kernel,
    ok_of (by decide +kernel), ok_of (by decide +kernel), by decide +kernel, by decide +kernel⟩

/-- An atomic's conclusions on eight bytes. -/
def atomic (i : Instr) (s : State) (old : Word) (k : Nat) (bs : List Byte) : Bool := after i s fun s1 =>
  decide (s1.m.t.cell 1 = ⟨old, .raw, none⟩) && decide (s1.m.t.cell 0 = ⟨old, .raw, none⟩) && decide (s1.m.mem = pokeMem s.m.mem k bs) &&
  decide (s1.m.t.pc = s.m.t.npc) && decide (s1.m.ctxs = (s.m.siltWrite 0 (if k < 2 ^ 52 then 0 else 1) k bs.length 0x1000 1).ctxs) && decide (s1.m.fe = s.m.fe)

theorem test_atomics : atomic (.aadd none .d .g a1 a2 a5) m2 0x8877665544332281 (gkey 0x40) [2, 0x45, 0x66, 0x88, 0xAA, 0xCC, 0xEE, 0x10] = true ∧
    atomic (.axchg none .w .g a1 a2 a6) m2 0x44332281 (gkey 0x40) [0x80, 0x22, 0x33, 0x44] = true ∧
    atomic (.aadd none .w .s a1 a3 a6) m2 0xFFF0 (skey 0x40) [0x70, 0x22, 0x34, 0x44] = true ∧
    atomic (.aand none .d .g a1 a2 a6) m2 0x8877665544332281 (gkey 0x40) [0x80, 0x22, 0x33, 0x44, 0x55, 0x66, 0x77, 0x88] = true ∧
    atomic (.aor none .d .g a1 a2 a6) m2 0x8877665544332281 (gkey 0x40) [0x81, 0x22, 0x33, 0x44, 0xFF, 0xFF, 0xFF, 0xFF] = true ∧
    atomic (.axor none .d .g a1 a2 a5) m2 0x8877665544332281 (gkey 0x40) [0, 0, 0, 0, 0, 0, 0, 0] = true ∧
    atomic (.amin none .d .g a1 a2 a3) m2 0x8877665544332281 (gkey 0x40) [0x81, 0x22, 0x33, 0x44, 0x55, 0x66, 0x77, 0x88] = true ∧
    atomic (.amin none .n64 .g a1 a2 a3) m2 0x8877665544332281 (gkey 0x40) [0x40, 0, 0, 0, 0, 0, 0, 0] = true ∧
    atomic (.amax none .w .g a1 a2 a6) m2 0x44332281 (gkey 0x40) [0x81, 0x22, 0x33, 0x44] = true ∧
    atomic (.amax none .n32 .s a1 a3 a6) m2 0xFFF0 (skey 0x40) [0x80, 0x22, 0x33, 0x44] = true ∧
    atomic (.acas none .d .g a1 a2 a5 a3) m2 0x8877665544332281 (gkey 0x40) [0x40, 0, 0, 0, 0, 0, 0, 0] = true ∧
    loads (.acas none .d .g a1 a2 a6 a3) m2 a1 0x8877665544332281 .raw (.parked .mem) = true := by decide +kernel

/-- A weak store of the task in focus waits. -/
def mWeak : State := match exec (.st weak .d .g a1 a2) m1 with
  | .next s => onT s fun t => { t with pc := 0x20000000, npc := 0x20000002 }
  | _ => m1

def fence (o : Ord) (sc : Scope) : Option XMod := some { ord := o, scope := sc }

theorem meets_Fences : m1.plain ∧ m1.m.weak = [] ∧ mWeak.plain ∧ mWeak.m.weak ≠ [] ∧ (∃ r, (onT m1 fun t => { t with rec_ := some 5 }).m.t.rec_ = some r) ∧
    m1.m.t.rec_ = none :=
  ⟨plain_of (by decide +kernel), by decide +kernel, plain_of (by decide +kernel), by decide +kernel, ⟨5, rfl⟩, by decide +kernel⟩

/-- Record 5 with a predecessor open, or with none. -/
def mRec (n : Nat) : State := { onT m1 (fun t => { t with rec_ := some 5 }) with m := (onT m1 (fun t => { t with rec_ := some 5 })).m.updRec 0 5 fun p =>
  { p with state := .running, live := 1, pending := n } }

theorem test_fences : leaves (.fence (fence .acq .dv)) m1 { m1.m.t with acqCl := m1.m.order, acqDv := m1.m.order } = true ∧
    leaves (.fence (fence .rel .cl)) m1 m1.m.t = true ∧ leaves .pvis m1 { m1.m.t with acqCl := m1.m.order, acqDv := m1.m.order } = true ∧
    after (.fence (fence .rel .dv)) mWeak (fun s => decide (s.m.weak = []) && decide (s.m.byte (gkey 0x40) = 0x88)) = true ∧
    leaves .pvis (mRec 0) { (mRec 0).m.t with acqCl := m1.m.order, acqDv := m1.m.order } = true ∧
    ends .pvis (mRec 1) (onT (mRec 1) fun t => { t with phase := .parked .order }) = true := by decide +kernel

/-- A barrier object at 0x40 of core 0: quota 10, owed 4, epoch 7, as given; and a quota or a credit in a2. -/
def mBar (epoch err : Nat) (q : Word) : State := withRegs (withMem m1 (skey 0x40) (leBytes 10 4 ++ leBytes 4 4 ++ leBytes epoch 2 ++ leBytes err 2)) [(2, q, .raw)]

theorem meets_Barriers : (mBar 7 0 25).atRest ∧ (mBar 7 0 25).fit [a1, a3, a2] ∧ (mBar 7 0 25).plain ∧ (mBar 7 0 25).rawOk none [a3, a2] ∧
    ((mBar 7 0 25).m.t.val a3).toNat % 16 = 0 ∧ scratchOf (mBar 7 0 25).m.t.core ((mBar 7 0 25).m.t.val a3) = some (0, 0x40) ∧
    (∀ need, need ≤ 3 → ∃ x, (mBar 7 0 25).m.reachS 0 0 0x40 16 need false = .ok x ∧ decide (x.key = (mBar 7 0 25).m.frontKey 0 0x40) = true) ∧
    Tab.look [] (mBar 7 0 25).m.gbars 0x40 = [] ∧ ((mBar 7 0 25).m.bar 0 0x40).quota ≠ 0 ∧ ((mBar 7 0 25).m.bar 0 0x40).owed ≤ 25 ∧
    3 < ((mBar 7 0 3).m.bar 0 0x40).owed ∧ 2 ^ 32 ≤ ((mBar 7 0 0x100000000).m.t.val a2).toNat ∧
    (((mBar 7 0 3).m.bar 0 0x40).epoch + 65536 - 7) % 16 < 8 ∧ 8 ≤ (((mBar 7 0 3).m.bar 0 0x40).epoch + 65536 - 8) % 16 ∧
    ((mBar 7 1 3).m.bar 0 0x40).err = true ∧ (mBar 7 0 3).m.t.gbarE = none ∧ 1 < ((mBar 7 0 3).m.bar 0 0x40).owed := by
  refine ⟨rest_of (by decide +kernel), fit_of (by decide +kernel), plain_of (by decide +kernel), raw_of (by decide +kernel), by decide +kernel,
    by decide +kernel, ?_, by decide +kernel⟩
  intro need hn
  interval_cases need <;> exact ok_of (by decide +kernel)

/-- The object's bytes after, with the rest of memory as it was. -/
def barAfter (i : Instr) (s : State) (bs : List Byte) : Bool := after i s fun s1 => decide (s1.m.mem = pokeMem s.m.mem (skey 0x40) bs) &&
  decide (s1.m.t.pc = s.m.t.npc) && decide (s1.m.t.img = s.m.t.img)

theorem test_barriers : barAfter (.binit none a3 a2) (mBar 7 0 25) (leBytes 25 4 ++ leBytes 25 4 ++ [0, 0, 0, 0, 0, 0, 0, 0]) = true ∧
    barAfter (.barr none a3 a2) (mBar 7 0 3) (leBytes 10 4 ++ leBytes 1 4 ++ [7, 0, 0, 0]) = true ∧
    barAfter (.barr none a3 a2) (mBar 7 0 4) (leBytes 10 4 ++ leBytes 10 4 ++ [8, 0, 0, 0]) = true ∧
    barAfter (.barr none a3 a2) (mBar 0xFFFF 0 25) (leBytes 10 4 ++ leBytes 9 4 ++ [2, 0, 0, 0]) = true ∧
    traps (.binit none a3 a2) (mBar 7 0 0x100000000) 0x01 0x20000000 = true ∧ traps (.barr none a3 a2) (mBar 7 0 0x100000000) 0x01 0x20000000 = true ∧
    after (.bwait none 6 a1 a3) (mBar 7 0 3) (fun s => decide (s.m.t.cell 1 = ⟨0, .raw, none⟩) && decide (s.m.t.phase = .ready) && decide (s.m.mem = (mBar 7 0 3).m.mem)) = true ∧
    after (.bwait none 9 a1 a3) (mBar 7 0x4301 3) (fun s => decide (s.m.t.cell 0 = ⟨0x143, .raw, none⟩)) = true ∧
    after (.bwait none 7 a1 a3) (mBar 7 0 3) (fun s => match s.m.t.phase with
      | .waiting (.barrier 0 0x40 8 e _ true) => decide (e = a1) && decide (s.m.byte (skey 0x4C) = 1)
      | _ => false) = true ∧
    after (.gbar none a1 a3) (mBar 7 0 3) (fun s => match s.m.t.phase with
      | .waiting (.gbar 0 0x40 8 e _ true) => decide (e = a1) && decide (s.m.byte (skey 0x44) = 3) && decide (s.m.t.gbarE = some (0, 0x40, 8)) &&
        decide (Tab.look [] s.m.gbars 0x40 = [0])
      | _ => false) = true := by decide +kernel

/-! ### Traps, control registers and hints -/

/-- A task with control registers set, a window, a launch record with energy, and a cycle count. -/
def c1 : State :=
  let s := onT (withRegs base [(2, 0xFFFFFFFFFFFFFFFF, .raw)]) fun t => { t with
    seat := some (5, 3), workId := 42, rec_ := some 2
    ctl := { t.ctl with widShape := 0x104, fmtMode := 1, fpMode := 5, flgEn := 0x103, fpSup := 0xABC, trapPc := 0x20000010, trapCode := ⟨true, 2, 0x0A⟩,
                        trapAddr := 77, trapVec := 0x20001001, stepCtl := 9, wpAddr := 0x40, wpMask := 3, wpCtl := 5 } }
  { s with m := { (s.m.updRec 0 2 fun p => { p with energy := 123 }) with cycle := 999, windows := [((5 * 256 + 0) * 4 + 1, ⟨2, 4, 3⟩)] } }

theorem meets_ControlReads : c1.plain ∧ c1.fit [a1] := ⟨plain_of (by decide +kernel), fit_of (by decide +kernel)⟩

theorem test_control_reads : (List.all [(0, 0), (1, 1), (2, 0x53), (3, 42), (4, 0x104), (5, 256), (6, 0x2000), (7, 0x400), (8, 0x400), (9, 1), (10, 5), (11, 0x103),
      (12, 0xABC), (13, 999), (14, 123), (17, 0x1020A), (18, 77), (20, 0x180010), (21, 0x100000001), (24, 0x40), (25, 3), (26, 5), (27, 9),
      (32, 0), (33, 16), (37, 32), (41, 3), (43, 0)] fun p : Nat × Word => gives (.crr a1 p.1) c1 a1 p.2 .raw) = true ∧
    gives (.crr a1 16) c1 a1 0x20000010 .addr = true ∧ gives (.crr a1 19) c1 a1 0x20001001 .addr = true ∧
    traps (.crr a1 15) c1 0x01 0x20000000 = true ∧ traps (.crr a1 44) c1 0x01 0x20000000 = true ∧ traps (.crr a1 22) c1 0x01 0x20000000 = true := by decide +kernel

theorem meets_ControlWrites : c1.plain ∧ c1.fit [a2] ∧ c1.rawOk none [a2] ∧ 13 ∉ [9, 10, 11, 12, 16, 19] ++ (List.range 12).map (32 + ·) :=
  ⟨plain_of (by decide +kernel), fit_of (by decide +kernel), raw_of (by decide +kernel), by decide +kernel⟩

/-- A control register's write. -/
def writes (k : Nat) (f : Ctl → Ctl) : Bool := leaves (.crw none a2 k) c1 { c1.m.t with ctl := f c1.m.t.ctl }

theorem test_control_writes : writes 9 (fun c => { c with fmtMode := 1 }) = true ∧ writes 10 (fun c => { c with fpMode := 7 }) = true ∧
    writes 11 (fun c => { c with flgEn := 0x11F }) = true ∧ writes 12 (fun c => { c with fpSup := 0xFFF }) = true ∧
    writes 16 (fun c => { c with trapPc := 0xFFFFFFFFFFFFF }) = true ∧ writes 19 (fun c => { c with trapVec := 0xFFFFFFFFFFFFF }) = true ∧
    after (.crw none a2 39) c1 (fun s => decide (s.m.windows = [((5 * 256 + 0) * 4 + 1, ⟨2, 4, 3⟩), ((5 * 256 + 0) * 4 + 3, ⟨0, 0x3FFF, 0⟩)])) = true ∧
    traps (.crw none a2 13) c1 0x01 0x20000000 = true ∧ traps (.crw none a2 44) c1 0x01 0x20000000 = true ∧ traps (.crw none a2 17) c1 0x01 0x20000000 = true := by decide +kernel

/-- Handler enabled or not, in it or not. -/
def trapTask (en inH : Bool) : State := onT base fun t => { t with ctl := { t.ctl with trapVec := if en then 0x20001001 else 0, trapCode := ⟨inH, 0, 0⟩, trapPc := 0x20000123 } }

def fullEnt : FaultEnt := { va := 0, ctx := 9, access := 1, cause := 0, waiters := 1, task := 0, time := 0 }

/-- A fault buffer with every entry taken. -/
def fullFaults : Tab (Option FaultEnt) := (List.range 4096).map fun i => (i, some fullEnt)

def withFaults (s : State) (l : Tab (Option FaultEnt)) : State := { s with m := { s.m with faults := l } }

theorem faultAt_withFaults (s : State) (l : Tab (Option FaultEnt)) (p i : Nat) : (withFaults s l).m.faultAt p i = Tab.look none l (4096 * p + i) := rfl

theorem faults_withFaults (s : State) (l : Tab (Option FaultEnt)) : (withFaults s l).m.faults = l := rfl

def fullBuffer : State := withFaults (trapTask true false) fullFaults

theorem look_row (l : List Nat) (i : Nat) (h : i ∈ l) : Tab.look none (l.map fun j => (j, some fullEnt)) i = some fullEnt := by
  induction l with
  | nil => simp at h
  | cons a r ih =>
    by_cases e : i = a
    · simp [Tab.look, e]
    · have hr : i ∈ r := by simpa [e] using h
      simp [Tab.look, e, ih hr]

theorem fullBuffer_full (i : Nat) (hi : i < 4096) : fullBuffer.m.faultAt 0 i = some fullEnt := by
  rw [fullBuffer, faultAt_withFaults, Nat.mul_zero, Nat.zero_add, fullFaults]
  exact look_row _ i (List.mem_range.mpr hi)

theorem fullBuffer_pending : fullBuffer.m.pendingFault 0 0 0 1 = none := by
  simp only [Mach.pendingFault, Option.map_eq_none_iff, List.find?_eq_none]
  intro x hx
  rw [fullBuffer, faults_withFaults, fullFaults, List.mem_map] at hx
  obtain ⟨_, _, rfl⟩ := hx
  simp [fullEnt]

/-- The halt line of the task's context raised. -/
def lineUp (s : State) : State := { s with m := s.m.setCtx 0 fun x => { x with halt := { x.halt with line := true } } }

theorem meets_TrapEntry : ((trapTask true false).m.t.region = none ∧ (trapTask true false).m.t.fol = [] ∧ (trapTask true false).m.t.phase = .ready ∧
    (trapTask true false).m.t.ctl.trapVec.getLsbD 0 = true ∧ (trapTask true false).m.t.ctl.trapCode.inH = false ∧ ((trapTask true false).m.ctx 0).halt.line = false ∧
    (trapTask true true).m.t.ctl.trapCode.inH = true ∧ (trapTask false false).m.t.ctl.trapVec.getLsbD 0 = false ∧ (trapTask false false).m.t.kind ≠ .producer ∧
    base.m.pendingFault 0 0 0x20010000 0 = none ∧ base.m.faultAt 0 0 = none) ∧ ((lineUp base).m.ctx 0).halt.line = true ∧
    ((lineUp base).m.ctx 0).halt.complete = false ∧ (∀ i, i < 4096 → fullBuffer.m.faultAt 0 i ≠ none) ∧ fullBuffer.m.pendingFault 0 0 0 1 = none :=
  ⟨by decide +kernel, by decide +kernel, by decide +kernel, fun i hi => by simp [fullBuffer_full i hi], fullBuffer_pending⟩

/-- A trap in a task whose handler is enabled. -/
def delivers (code : Nat) (addr : Word) : Bool :=
  let s := trapTask true false
  let c := { s.m.t.ctl with trapPc := 0x20000000, trapAddr := addr, trapCode := ⟨true, 0, BitVec.ofNat 8 code⟩ }
  decide (s.m.raise code addr 0 0 0 = { s.m with t := { s.m.t with pc := 0x20001000, npc := 0x20001000, ctl := c } })

/-- A trap that raises the halt line. -/
def haltsAt (s : State) (code : Nat) (addr : Word) : Bool :=
  let m := s.m.raise code addr 0 0 0
  (m.ctx 0).halt.line && decide (m.t.img = s.m.t.img) && decide (m.mem = s.m.mem) && decide (m.t.ctl.trapPc = 0x20000000) &&
  decide (m.t.ctl.trapAddr = addr) && decide (m.t.ctl.trapCode = ⟨s.m.t.ctl.trapCode.inH, 0, BitVec.ofNat 8 code⟩) && decide (m.t.stop.map (·.code) = some code)

theorem test_trap_entry : ([1, 2, 3, 4, 5, 8, 9, 0xA, 0xB, 0xD, 0x10, 0x13].all fun k => delivers k 0x123) = true ∧
    ([1, 5, 6, 0xC, 0xE, 0x14].all fun k => haltsAt (trapTask true true) k 5) = true ∧ ([0xE, 0xF, 0x12].all fun k => haltsAt (trapTask true false) k 5) = true ∧
    ([1, 0x13].all fun k => haltsAt (trapTask false false) k 5) = true ∧
    (let m := base.m.raise 0x0C 7 0 0 0;
      decide (m.t.phase = .waiting (.tbl 7)) && decide (m.irqs = [(5, 0)]) && decide ((m.faultAt 0 0).map (fun f => (f.cause, f.waiters, f.task)) = some (0x0C, 1, 1))) = true ∧
    (let m := (lineUp (trapTask true false)).m.raise 1 5 0 0 0;
      decide (m.t.stop = some ⟨0, 1, 5, 0x20000000⟩) && decide (m.t.pc = 0x20001000) && decide (m.t.ctl.trapCode.inH = true)) = true ∧
    decide ((base.m.raise 0x06 0x20010042 0 0 1).t.phase = .waiting (.fault 0 0 6 0x20010042)) = true ∧
    decide (((base.m.raise 0x06 0x20010042 0 0 1).faultAt 0 0).map (fun f => (f.va, f.access, f.waiters)) = some (0x20010000, 1, 1)) = true := by decide +kernel

/-- A sealed context. -/
def sealed_ (s : State) : State := { s with m := s.m.setCtx 0 fun x => { x with isSealed := true } }

theorem meets_TrapInstructions : base.plain ∧ (trapTask true false).plain ∧ c1.plain ∧ (base.m.t.fol = [] ∧ (trapTask true false).m.t.fol = [] ∧
    (trapTask true false).m.t.ctl.trapVec.getLsbD 0 = true ∧ (trapTask true false).m.t.ctl.trapCode.inH = false ∧ ((trapTask true false).m.ctx 0).halt.line = false ∧
    (trapTask true false).m.faultAt 0 0 = none ∧ ((sealed_ base).m.ctx (sealed_ base).m.cur).isSealed = true ∧ (base.m.ctx base.m.cur).isSealed = false ∧
    (base.m.ctx base.m.cur).halt.line = false ∧ (trapTask true true).m.t.ctl.trapCode.inH = true ∧ (trapTask true true).m.t.ctl.trapPc.getLsbD 0 = true ∧
    c1.m.t.ctl.trapCode.inH = true ∧ c1.m.t.ctl.trapPc.getLsbD 0 = false) ∧ ∀ i, i < 4096 → fullBuffer.m.faultAt 0 i ≠ none :=
  ⟨plain_of (by decide +kernel), plain_of (by decide +kernel), plain_of (by decide +kernel), by decide +kernel, fun i hi => by simp [fullBuffer_full i hi]⟩

theorem test_trap_instructions : after (.trap 5) (trapTask true false) (fun s => decide (s.m.t.pc = 0x20001000) && decide (s.m.t.ctl.trapAddr = 5) &&
      decide (s.m.t.ctl.trapPc = 0x20000000) && decide (s.m.t.ctl.trapCode = ⟨true, 0, 0x13⟩)) = true ∧
    after (.sysc 3) (trapTask true false) (fun s => decide (s.m.t = { (trapTask true false).m.t with phase := .waiting (.sysc 3) }) && decide (s.m.irqs = [(5, 0)]) &&
      decide ((s.m.faultAt 0 0).map (fun f => (f.cause, f.waiters, f.task)) = some (0x14, 1, 1))) = true ∧
    leaves (.brk 1) (sealed_ base) (sealed_ base).m.t = true ∧
    after (.brk 1) (onT base fun t => { t with npc := 0x20000004 }) (fun s => (s.m.ctx 0).halt.line && decide (s.m.t.pc = 0x20000004) &&
      decide (s.m.t.stop = some ⟨0, 0x0F, 1, 0x20000000⟩)) = true ∧
    leaves .rfe c1 { c1.m.t with npc := 0x20000010, ctl := { c1.m.t.ctl with trapCode := ⟨false, 2, 0x0A⟩ } } = true ∧
    traps .rfe (trapTask true true) 0x05 0x20000123 = true ∧ traps .rfe base 0x01 0x20000000 = true := by decide +kernel

/-- Translations held by cluster 0 and by its die: of contexts 0 and 1. -/
def tlb1 : State := { withRegs base [(2, 0x20010000, .raw)] with m := { (withRegs base [(2, 0x20010000, .raw)]).m with
  tlb := [(0, [⟨0, 0x20000000, 0x40000000, 0x20000000, 0x1F⟩, ⟨1, 0x20000000, 0, 0x20000000, 0x1F⟩, ⟨0, 0, 0, 65536, 0x1F⟩])] } }

theorem meets_SystemHints : tlb1.plain ∧ (tlb1.m.ctx tlb1.m.cur).halt.line = false ∧ tlb1.fit [a2] ∧ tlb1.rawOk none [a2] :=
  ⟨plain_of (by decide +kernel), by decide +kernel, fit_of (by decide +kernel), raw_of (by decide +kernel)⟩

theorem test_system_hints : after .halt tlb1 (fun s => (s.m.ctx 0).halt.line && decide ((s.m.ctx 0).halt.origin = some 1) && decide (s.m.t = { tlb1.m.t.retire with struck := true })) = true ∧
    after (.tlbinv none none) tlb1 (fun s => decide (s.m.tlb = [(0, [⟨1, 0x20000000, 0, 0x20000000, 0x1F⟩])]) && decide (s.m.t.phase = .parked .tlb)) = true ∧
    after (.tlbinv none (some a2)) tlb1 (fun s => decide (s.m.tlb = [(0, [⟨1, 0x20000000, 0, 0x20000000, 0x1F⟩, ⟨0, 0, 0, 65536, 0x1F⟩])])) = true ∧
    after (.wmark a1) tlb1 (fun s => decide (s.m.t = { tlb1.m.t with phase := .parked (.marker a1) }) && decide ((s.m.ctx 0).silt.requests = [(1, 1)])) = true ∧
    leaves (.pref none .line a2) tlb1 tlb1.m.t = true ∧
    after (.pref none .page a2) base (fun s => decide (s.m.t = base.m.t.retire) && decide (s.m.mem = base.m.mem)) = true := by decide +kernel

/-! ### Tabled calls -/

/-- The hash of TCALL.1 to 0x20000020 with the key 5, worked out by hand from R112: 0x639A04D07CFD4D38, so set 8 of 16. -/
def tc0 : State := onT (withRegs base [(1, 5, .raw)]) fun t => { t with npc := 0x20000002 }

/-- Context 0's table changed. -/
def withTable (s : State) (f : Loam → Loam) : State := { s with m := s.m.setCtx 0 fun x => { x with loam := f x.loam } }

/-- The entry that holds the call, as way 2 of its set. -/
def tcEntry (st : EState) (ans : List (List Word)) : Entry :=
  { state := st, form := 0, callee := 0x20000020, key := [5], creation := 3, leader := 130, pins := 1, answers := ans, hash := 0x639A04D07CFD4D38, code := 0x77, producer := 9 }

def tc1 (st : EState) (ans : List (List Word)) : State := withTable tc0 fun l => { l with entries := [(130, tcEntry st ans)], creations := 3 }

/-- A set with no way to take. -/
def tc2 : State := withTable tc0 fun l => { l with entries := (List.range 16).map fun i => (128 + i, { tcEntry .complete [] with key := [6] }) }

/-- Every cursor taken. -/
def tc3 : State := onT tc0 fun t => { t with curs := (List.range 31).map fun n => (n + 1, some ⟨0, 0, 0, 0⟩) }

/-- The ways of set 8. -/
theorem set8 {p : Nat → Bool} {j : Nat} (h : j / 16 = 8) (h1 : (List.range 16).all (fun w => p (128 + w)) = true) : p j = true := by
  have : 128 ≤ j ∧ j < 144 := by omega
  have := List.all_eq_true.mp h1 (j - 128) (List.mem_range.mpr (by omega))
  rwa [show 128 + (j - 128) = j by omega] at this

theorem meets_TabledCalls : (tc0.atRest ∧ tc0.plain ∧ (tc1 .eval []).atRest ∧ (tc1 .eval []).plain ∧ tc2.atRest ∧ tc2.plain ∧ tc3.plain) ∧
    ((TForm.n1, 1) ∈ [(TForm.n1, 1), (.n2, 2), (.n3, 3), (.n4, 4)] ∧ tc0.m.t.cursor 1 = none ∧ (tc0.m.ctx 0).loam.moving = none ∧
      hashKey 0 0x20000020 [5] = 0x639A04D07CFD4D38 ∧ (hashKey 0 0x20000020 [5]).toNat % (tc0.m.ctx 0).loam.nsets = 130 / 16 ∧
      ((tc1 .eval []).m.entry 0 130).state ≠ .free ∧ ((tc1 .eval []).m.entry 0 130).key = [5] ∧ ((tc1 .eval []).m.entry 0 130).callee = 0x20000020 ∧
      (∀ j, 1 ≤ j → j < 32 → tc3.m.t.cursor j ≠ none)) ∧ tc0.roomy (tc0.m.lineBound 0 [128]) ∧ (∀ j, 1 ≤ j → j < 1 → tc0.m.t.cursor j ≠ none) ∧
    (∀ j, j / 16 = 8 → j < 130 → ((tc1 .eval []).m.entry 0 j).state = .free) ∧ (∀ j, j / 16 = 8 → (tc0.m.entry 0 j).state = .free) ∧
    ∀ j, j / 16 = 8 → (tc2.m.entry 0 j).key = [6] ∧ (tc2.m.entry 0 j).state ≠ .free ∧ (tc2.m.entry 0 j).pins ≠ 0 := by
  refine ⟨⟨rest_of (by decide +kernel), plain_of (by decide +kernel), rest_of (by decide +kernel), plain_of (by decide +kernel),
      rest_of (by decide +kernel), plain_of (by decide +kernel), plain_of (by decide +kernel)⟩, by decide +kernel, by unfold State.roomy; decide +kernel,
    by omega, fun j h h1 => ?_, fun j h => ?_, fun j h => ?_⟩
  · simpa [h1] using set8 (p := fun j => !decide (j < 130) || decide (((tc1 .eval []).m.entry 0 j).state = .free)) h (by decide +kernel)
  · simpa using set8 (p := fun j => decide ((tc0.m.entry 0 j).state = .free)) h (by decide +kernel)
  · simpa using set8 (p := fun j => decide ((tc2.m.entry 0 j).key = [6] ∧ (tc2.m.entry 0 j).state ≠ .free ∧ (tc2.m.entry 0 j).pins ≠ 0)) h (by decide +kernel)

/-- The handle of cursor 1 at generation 1, in a7 and lt. -/
def called (t : Task) (i creation : Nat) : Bool := decide (t.cell 7 = ⟨0x101, .raw, none⟩) && decide (t.cell 0 = ⟨0x101, .raw, none⟩) &&
  decide (t.cell 1 = ⟨5, .raw, none⟩) && decide (t.cursor 1 = some ⟨i, 0, 1, creation⟩) && decide (t.curGen = 2)

theorem test_tabled_calls : after (.tcall none .n1 16) (tc1 .complete []) (fun s => called s.m.t 130 3 && decide (s.m.t.pc = 0x20000002) && decide (s.m.t.phase = .parked .mem) &&
      decide ((s.m.entry 0 130).pins = 2)) = true ∧
    after (.tcall none .n1 16) tc0 (fun s => match s.m.others with
      | [q] => called q 128 1 && decide (q.phase = .waiting (.suspend s.m.t.gid)) && decide (q.pc = 0x20000002) && decide (q.seat = none) &&
        decide (s.m.t.kind = .producer) && decide (s.m.t.pc = 0x20000020) && decide (s.m.t.seat = some (0, 0)) && decide (s.m.t.produces = some 128) &&
        decide (s.m.t.caller = some 1) && decide (s.m.t.img.regs = [(1, ⟨5, .raw, none⟩), (7, ⟨0, .raw, none⟩)]) &&
        decide (let e := s.m.entry 0 128; (e.state, e.key, e.pins, e.leader, e.creation, e.producer) = (.eval, [5], 2, 128, 1, s.m.t.gid)) && decide (s.m.mem = tc0.m.mem)
      | _ => false) = true ∧
    traps (.tcall none .n1 16) tc2 0x0C (BitVec.ofNat 64 (2 ^ 26 + 2048 * 8)) = true ∧ traps (.tcall none .n1 16) tc3 0x0C 0 = true := by decide +kernel

/-- Cursor 1 on entry 130 with a handle in a7. -/
def tk (st : EState) (ans : List (List Word)) (pos : Nat) : State :=
  onT (withRegs (tc1 st ans) [(7, 0x501, .raw)]) fun t => { t with curs := [(1, some ⟨130, pos, 5, 3⟩)] }

/-- An answer. -/
def ans1 : List Word := [10, 11, 12, 13, 14, 15, 16]

theorem meets_Cursors : (tk .failed [] 0).plain ∧ (tk .failed [] 0).atRest ∧ (tk .failed [] 0).handle 1 ⟨130, 0, 5, 3⟩ ∧ (tk .eval [ans1] 0).handle 1 ⟨130, 0, 5, 3⟩ ∧
    (tk .complete [ans1] 1).handle 1 ⟨130, 1, 5, 3⟩ ∧ (tk .eval [ans1] 1).handle 1 ⟨130, 1, 5, 3⟩ ∧ (tk .eval [ans1] 1).fit [a1] ∧ tc0.fit [a1] ∧
    (249 + 6 < (tk .failed [] 0).m.t.ctl.alloc.toNat ∧ ((tk .failed [] 0).m.entry 0 130).state = .failed ∧
      ((tk .eval [ans1] 0).m.entry 0 130).answers[0]? = some ans1 ∧ ((tk .complete [ans1] 1).m.entry 0 130).answers[1]? = none ∧
      (tk .eval [ans1] 1).m.t.produces = none ∧ (tk .eval [ans1] 1).m.t.caller = none ∧ (tk .eval [ans1] 1).m.t.ctl.alloc.toNat ≤ 250 + 6) ∧
    ∀ n k, ¬ tc0.handle n k := by
  refine ⟨plain_of (by decide +kernel), rest_of (by decide +kernel), by unfold State.handle; decide +kernel, by unfold State.handle; decide +kernel,
    by unfold State.handle; decide +kernel, by unfold State.handle; decide +kernel, fit_of (by decide +kernel), fit_of (by decide +kernel),
    by decide +kernel, ?_⟩
  rintro n k ⟨_, _, h3, h4, _⟩
  have e : tc0.m.t.val a7 = 0 := by decide +kernel
  rw [e] at h3
  subst h3
  have : tc0.m.t.cursor 0 = none := by decide +kernel
  rw [show ((0 : Word).toNat % 32) = 0 from rfl, this] at h4
  simp at h4

theorem test_cursors : after (.tans none (.slot 249)) (tk .failed [] 0) (fun s => decide (s.m.t.cell 0 = ⟨2, .raw, none⟩) && decide (s.m.t.cell 257 = ⟨0x77, .raw, none⟩) &&
      decide (s.m.t.cell 258 = .fresh)) = true ∧
    after (.tans none (.slot 249)) (tk .eval [ans1] 0) (fun s => decide (s.m.t.cell 0 = ⟨0, .raw, none⟩) && decide (s.m.t.cell 257 = ⟨10, .raw, none⟩) &&
      decide (s.m.t.cell 263 = ⟨16, .raw, none⟩) && decide (s.m.t.cursor 1 = some ⟨130, 1, 5, 3⟩)) = true ∧
    after (.tans none (.slot 8)) (tk .complete [ans1] 1) (fun s => decide (s.m.t.cell 0 = ⟨1, .raw, none⟩) && decide (s.m.t.cell 16 = .fresh)) = true ∧
    after (.tans none (.slot 8)) (tk .eval [ans1] 1) (fun s => decide (s.m.t.phase = .waiting (.answer 130)) && decide (s.m.t.pc = 0x20000000)) = true ∧
    traps (.tans none (.slot 250)) (tk .eval [ans1] 1) 0x03 256 = true ∧ traps (.tans none (.slot 8)) tc0 0x09 0 = true ∧
    (List.all [(0, 3), (1, 1), (2, 1), (3, 0x77), (4, 130), (5, 130), (6, 3), (7, 1)] fun p : Nat × Word => gives (.tinfo none a1 p.1) (tk .failed [ans1] 1) a1 p.2 .raw) = true ∧
    after (.trel none) (tk .eval [ans1] 1) (fun s => decide (s.m.t.cursor 1 = none) && decide ((s.m.entry 0 130).pins = 0) && decide (s.m.t.img = (tk .eval [ans1] 1).m.t.img)) = true := by decide +kernel

/-- A producer of entry 130, whose block at slot 8 is an answer, with a code in a2. -/
def pr (st : EState) (ans : List (List Word)) (free : Nat) : State :=
  withTable (onT (withRegs (tc1 st ans) ((2, 0x12345, .raw) :: (List.range 7).map fun i => (16 + i, BitVec.ofNat 64 (10 + i), .raw))) fun t =>
    { t with kind := .producer, produces := some 130, prodNo := 3, gid := 9, curs := [(0, some ⟨130, 0, 0, 3⟩)] }) fun l => { l with ansFree := free }

/-- A task of a record with two indices left. -/
def ex1 : State := { onT (mRec 0) (fun t => { t with lo := 4, hi := 6, workId := 3 }) with m := ((onT (mRec 0) (fun t => { t with lo := 4, hi := 6, workId := 3 })).m) }

/-- A producer whose entry has been freed, and its way taken again. -/
def prGone : State := withTable (pr .eval [] 1) fun l => { l with entries := [(130, { tcEntry .eval [] with creation := 4 })], creations := 4 }

theorem meets_Producers : ((pr .eval [] 1).atRest ∧ (pr .eval [] 1).plain ∧ (pr .eval [] 1).fit [a2] ∧ prGone.atRest ∧ prGone.plain ∧ ex1.atRest ∧ ex1.plain) ∧
    (pr .eval [] 1).roomy ((pr .eval [] 1).m.lineBound 0 ((pr .eval [] 1).m.members 0 130)) ∧ (pr .eval [] 1).roomy ((pr .eval [] 1).m.lineBound 0 [130]) ∧
    ((pr .eval [] 1).m.produced (pr .eval [] 1).m.t = some 130 ∧ 8 + 6 < (pr .eval [] 1).m.t.ctl.alloc.toNat ∧
      ((pr .eval [] 1).m.entry 0 130).state = .eval ∧ 0 < ((pr .eval [] 1).m.ctx 0).loam.ansFree ∧ ((pr .eval [] 0).m.ctx 0).loam.ansFree = 0 ∧
      ans1 ∉ ((pr .eval [] 1).m.entry 0 130).answers ∧ ans1 ∈ ((pr .eval [ans1] 1).m.entry 0 130).answers ∧
      (pr .failed [] 1).m.produced (pr .failed [] 1).m.t = some 130 ∧ prGone.m.t.produces.isSome ∧ prGone.m.produced prGone.m.t = none ∧
      ex1.m.t.produces = none ∧ ex1.m.t.rec_ = some 5 ∧ ex1.m.t.lo < ex1.m.t.hi ∧ ex1.m.t.kind = .graph ∧
      ex1.m.find (gidOf 0 (ex1.m.takeSerial 0 ex1.m.t.cluster).1) = none ∧ base.m.t.hi ≤ base.m.t.lo) :=
  ⟨⟨rest_of (by decide +kernel), plain_of (by decide +kernel), fit_of (by decide +kernel), rest_of (by decide +kernel), plain_of (by decide +kernel),
      rest_of (by decide +kernel), plain_of (by decide +kernel)⟩, by unfold State.roomy; decide +kernel, by unfold State.roomy; decide +kernel, by decide +kernel⟩

/-- The task in focus has ended, and the entry is as p says. -/
def endsWith (i : Instr) (s : State) (p : Entry → Bool) : Bool := after i s fun s1 =>
  decide (s1.m.t.phase = .ended) && decide (s1.m.t.seat = none) && decide (s1.m.t.gid = s.m.t.gid) && decide (s1.m.mem = s.m.mem) && p (s1.m.entry 0 130)

theorem test_producers : after (.tret none (.slot 8)) (pr .eval [] 1) (fun s => decide ((s.m.entry 0 130).answers = [ans1]) && decide ((s.m.ctx 0).loam.ansFree = 0)) = true ∧
    traps (.tret none (.slot 8)) (pr .eval [] 0) 0x0C 1 = true ∧ leaves (.tret none (.slot 8)) (pr .eval [ans1] 0) (pr .eval [ans1] 0).m.t = true ∧
    leaves (.tret none (.slot 8)) (pr .failed [] 0) (pr .failed [] 0).m.t = true ∧ leaves (.tret none (.slot 8)) prGone prGone.m.t = true ∧
    endsWith (.tfail none a2) prGone (fun e => decide (e.state = .eval) && decide (e.creation = 4)) = true ∧
    endsWith .tdone prGone (fun e => !e.pdone) = true ∧
    endsWith .tdone (pr .eval [ans1] 1) (fun e => e.pdone && decide (e.answers = [ans1])) = true ∧ endsWith .exit (pr .eval [ans1] 1) (fun e => e.pdone) = true ∧
    endsWith (.tfail none a2) (pr .eval [ans1] 1) (fun e => decide (e.state = .failed) && decide (e.code = 0x2345)) = true ∧
    traps .tdone tc0 0x01 0x20000000 = true ∧ traps (.tret none (.slot 8)) tc0 0x01 0x20000000 = true ∧ traps (.tfail none a2) tc0 0x01 0x20000000 = true ∧
    endsWith .exit base (fun _ => true) = true ∧
    after .exit ex1 (fun s => decide (s.m.t.phase = .ended) && (s.m.others.any fun q => decide ((q.kind, q.rec_, q.lo, q.hi, q.cluster) = (.range, some 5, 4, 6, 0)) &&
      decide (q.phase = .ready) && decide (q.workId = 4))) = true := by decide +kernel

/-! ### Launches and tasks -/

/-- A range task with indices 4 and 5 left, an index in a2, a cluster in a3. -/
def rt : State := withRegs ex1 [(2, 5, .raw), (3, 0, .raw), (4, 6, .raw)]

/-- A task queued for core 0. -/
def contested : State := { rt with m := { rt.m with others := [{ gid := 7, prio := 1, rec_ := some 5 }] } }

theorem meets_RangeTasks : rt.plain ∧ rt.atRest ∧ rt.fit [a1] ∧ contested.atRest ∧ rt.ready none [a1, a2, a3] [a2, a3] ∧
    ((rt.m.t.kind = .graph ∧ rt.m.t.lo < rt.m.t.hi) ∧ base.m.t.hi ≤ base.m.t.lo ∧ (onT rt fun t => { t with kind := .message }).m.t.kind ≠ .graph ∧
      rt.m.contested rt.m.t.core rt.m.t.gid = false ∧ contested.m.contested contested.m.t.core contested.m.t.gid = true ∧
      rt.m.t.rec_ = some 5 ∧ rt.m.t.lo < (rt.m.t.val a2).toNat ∧ (rt.m.t.val a2).toNat < rt.m.t.hi ∧ rt.m.t.hi ≤ (rt.m.t.val a4).toNat) :=
  ⟨plain_of (by decide +kernel), rest_of (by decide +kernel), fit_of (by decide +kernel), rest_of (by decide +kernel), ready_of (by decide +kernel),
    by decide +kernel⟩

theorem test_range_tasks : leaves (.rnext a1) rt ({ rt.m.t with lo := 5, workId := 4 }.wr a1 4 .raw) = true ∧
    leaves (.rnext a1) base (base.m.t.wr a1 0xFFFFFFFFFFFFFFFF .raw) = true ∧ leaves .learly rt { rt.m.t with isSealed := true } = true ∧
    leaves .learly (onT rt fun t => { t with kind := .message }) (onT rt fun t => { t with kind := .message }).m.t = true ∧ leaves .yield rt rt.m.t = true ∧
    after .yield contested (fun s => decide (s.m.t.seat = none) && decide (s.m.t.phase = .ready) && decide (s.m.t.pc = s.m.t.npc) && decide (s.m.others = contested.m.others)) = true ∧
    gives (.spawn none a1 a4 a3) rt a1 0 .raw = true ∧
    after (.spawn none a1 a2 a3) rt (fun s => decide (s.m.t.hi = 5) && decide (s.m.t.cell 1 = ⟨1, .raw, none⟩) && decide ((s.m.launch 0 5).live = 2) &&
      (match s.m.others with
      | [q] => decide ((q.kind, q.rec_, q.lo, q.hi, q.workId, q.cluster) = (.range, some 5, 5, 6, 5, 0)) && decide (q.phase = .ready)
      | _ => false)) = true := by decide +kernel

/-- Record 5 as given; its number in a2, a value in a1, a number out of range in a3, a value of another format in a4. -/
def lr (st : RState) (f : LaunchRec → LaunchRec) : State :=
  let s := withRegs base [(1, 0x1FF, .raw), (2, 5, .raw), (3, 4096, .raw), (4, 5, .f32)]
  { s with m := s.m.updRec 0 5 fun p => { p with state := st, r := f { entry := 0x20001000, lo := 3, hi := 9, alloc := 64, succ := [0xFFFF] } } }

theorem meets_Records : (lr .idle id).atRest ∧ (lr .idle id).ready none [a1, a2] [a2] ∧ (lr .idle id).roomy 8 ∧ (lr .idle id).rawOk none [a1] ∧
    (((lr .idle id).m.t.val a2).toNat ≤ 4095 ∧ ((lr .idle id).m.launch 0 5).state = .idle ∧ recordFault ((lr .idle id).m.launch 0 5).r = none ∧
      ((lr .idle id).m.launch 0 5).r.npred = 0 ∧ recordFault ((lr .retired fun r => { r with npred := 2 }).m.launch 0 5).r = none ∧
      0 < ((lr .retired fun r => { r with npred := 2 }).m.launch 0 5).r.npred ∧ ((lr .idle fun r => { r with entry := 1 }).m.launch 0 5).r.entry % 2 = 1 ∧
      ((lr .idle fun r => { r with hi := 2 }).m.launch 0 5).r.hi < 3 ∧ 4095 < ((lr .idle id).m.t.val a3).toNat ∧ ((lr .running id).m.launch 0 5).state = .running) ∧
    ¬ (lr .idle id).rawOk none [a4] :=
  ⟨rest_of (by decide +kernel), ready_of (by decide +kernel), by unfold State.roomy; decide +kernel, raw_of (by decide +kernel), by decide +kernel,
    fun h => absurd (h a4 (List.mem_singleton.mpr rfl)) (by decide +kernel)⟩

/-- LPATCH leaves the record's fields as f says. -/
def patches (k : Nat) (f : LaunchRec → LaunchRec) : Bool := after (.lpatch none a1 a2 k) (lr .idle id) fun s =>
  decide ((s.m.launch 0 5).r = f ((lr .idle id).m.launch 0 5).r) && decide (s.m.t = (lr .idle id).m.t.retire) && decide (s.m.mem = (lr .idle id).m.mem)

theorem test_records : patches 0 (fun r => { r with args := [0x1FF] }) = true ∧ patches 5 (fun r => { r with args := [0, 0, 0, 0, 0, 0x1FF] }) = true ∧
    patches 6 (fun r => { r with lo := 0x1FF }) = true ∧ patches 7 (fun r => { r with hi := 0x1FF }) = true ∧ patches 8 (fun r => { r with tiles := [0x1FF] }) = true ∧
    after (.larm none a2) (lr .retired fun r => { r with npred := 2 }) (fun s => decide (((s.m.launch 0 5).state, (s.m.launch 0 5).pending) = (.armed, 2)) && decide (s.m.others = [])) = true ∧
    after (.larm none a2) (lr .idle id) (fun s => decide (((s.m.launch 0 5).state, (s.m.launch 0 5).live) = (.running, 1)) && (match s.m.others with
      | [q] => decide ((q.kind, q.rec_, q.lo, q.hi, q.pc) = (.graph, some 5, 3, 9, 0x20001000)) && decide (q.workId = 3) && decide (q.ctl.alloc = 64)
      | _ => false)) = true ∧
    traps (.larm none a2) (lr .idle fun r => { r with entry := 1 }) 0x01 (BitVec.ofNat 64 (2 ^ 27 + 0x500)) = true ∧
    traps (.larm none a2) (lr .idle fun r => { r with hi := 2 }) 0x01 (BitVec.ofNat 64 (2 ^ 27 + 0x508)) = true ∧
    faults (.larm none a3) (lr .idle id) 1 2 4096 = true ∧ faults (.lpatch none a1 a3 0) (lr .idle id) 1 2 4096 = true ∧
    traps (.lpatch none a4 a3 0) (lr .idle id) 0x04 (lr .idle id).m.t.pc = true ∧
    faults (.larm none a2) (lr .running id) 1 2 (BitVec.ofNat 64 (2 ^ 27 + 0x500)) = true ∧
    faults (.lpatch none a1 a2 0) (lr .armed id) 1 2 (BitVec.ofNat 64 (2 ^ 27 + 0x500)) = true := by decide +kernel

/-- Handles of channel 3 on core 7, of channel 63, of core 8 (not of the partition), and one with a reserved bit. -/
def ms (h : Word) : State := withRegs base [(1, 11, .raw), (2, 22, .unwritten), (4, 44, .f32), (5, h, .raw)]

theorem meets_Messages : (ms 0x143007).ready none [a5] [a5] ∧ (ms 0x143007).atRest ∧ (((ms 0x143007).m.t.val a5).toNat < 2 ^ 42 ∧
    (ms 0x143007).m.ownsCore 0 7 = true ∧ ((ms 0x143007).m.t.val a5).toNat / 4096 % 64 ≠ 63 ∧ 2 ^ 42 ≤ ((ms 0x40000143007).m.t.val a5).toNat ∧
    (ms 0x143008).m.ownsCore 0 8 = false ∧ ((ms 0x3F007).m.t.val a5).toNat / 4096 % 64 = 63) :=
  ⟨ready_of (by decide +kernel), rest_of (by decide +kernel), by decide +kernel⟩

theorem test_messages : ends (.msend none a5) (ms 0x143007) (onT (ms 0x143007) fun t => { t with phase := .sending { op := 0, handle := 0x143007, words := [11, 0, 0, 44] } }) = true ∧
    ends (.tblk none a5) (ms 0x143007) (onT (ms 0x143007) fun t => { t with phase := .sending { op := 1, handle := 0x143007, words := [] } }) = true ∧
    ends (.tunblk none a5) (ms 0x143007) (onT (ms 0x143007) fun t => { t with phase := .sending { op := 2, handle := 0x143007, words := [] } }) = true ∧
    traps (.msend none a5) (ms 0x40000143007) 0x01 0x20000000 = true ∧ faults (.tblk none a5) (ms 0x143008) 1 0 0x143008 = true ∧
    traps (.tunblk none a5) (ms 0x3F007) 0x09 0x3F007 = true := by decide +kernel

/-! ### Regions -/

/-- A region open since a failure label, with a load of 8 bytes that delivered 3 and stands in a1, marked. -/
def rgn (stores : List RStore) (cons : List Constraint) : Region :=
  { fail := 0x20000100, saved := ⟨{ regs := [(2, ⟨9, .raw, none⟩)] }, [], [], { alloc := 256 }⟩, slots := [{ at_ := ⟨gkey 0x40, 8⟩, zext := false, observed := 3 }]
    stores := stores, cons := cons }

/-- The task in that region; the word now holds 5. -/
def rg (r : Region) (p : Phase) : State := withMem (onT (withRegs base [(1, 4, .raw)]) fun t =>
  { t with region := some r, phase := p, img := { t.img with regs := [(1, ⟨4, .raw, some ⟨0, false⟩⟩)] } }) (gkey 0x40) [5]

/-- A store of the marked sum, and a constraint that holds for both values, or for one. -/
def rgStore : RStore := ⟨⟨gkey 0x80, 8⟩, 0x20010080, 103, some ⟨0, false⟩, none⟩
def rgCons (y : Word) : Constraint := ⟨⟨0, false⟩, false, .lt, 3, y, true⟩

theorem meets_Regions : base.plain ∧ base.fit [a1] ∧ (rg (rgn [rgStore] [rgCons 6]) (.parked .commit)).atRest ∧ { rgn [] [] with slots := [] }.slots = [] ∧
    ((rg (rgn [] []) .ready).m.t.region = some (rgn [] []) ∧ (rg (rgn [] []) .ready).m.t.phase = .ready ∧ (rg (rgn [] []) .ready).m.t.rstat.insns ≤ 128 ∧
      (rgn [] []).slots ≠ [] ∧ (((rgn [] []).shadowed 1).shadowed 0).over = none ∧
      (∀ w ∈ (rgn [rgStore] [rgCons 6]).stores, w.remote = none ∧ w.at_.key < 2 ^ 52) ∧
      ((rg (rgn [rgStore] [rgCons 6]) (.parked .commit)).m.ctx 0).silt.room (96 * 2) = true ∧ (∀ q ∈ (rgn [rgStore] [rgCons 6]).slots, q.at_.size = 8) ∧
      (rg (rgn [rgStore] [rgCons 6]) (.parked .commit)).m.loaded (gkey 0x40) 8 false - 3 = 2 ∧ condHolds .lt (3 + 2) 6 = true ∧ condHolds .lt (3 + 2) 4 ≠ true) :=
  ⟨plain_of (by decide +kernel), fit_of (by decide +kernel), rest_of (by decide +kernel), rfl, by decide +kernel⟩

theorem test_regions : leaves (.abegin 8) base { base.m.t with region := some { fail := 0x20000010, saved := ⟨base.m.t.img, [], [], base.m.t.ctl⟩ } } = true ∧
    traps .acommit base 0x01 0x20000000 = true ∧ traps (.aabort 3) base 0x01 0x20000000 = true ∧ gives (.astat a1) base a1 0 .raw = true ∧
    after .acommit (rg { rgn [] [] with slots := [] } .ready) (fun s => decide (s.m.t.region = none) && s.m.t.rstat.ok && decide (s.m.t.cell 1 = ⟨4, .raw, none⟩)) = true ∧
    ends .acommit (rg (rgn [] []) .ready) (rg (rgn [] []) (.parked .commit)) = true ∧
    after (.aabort 3) (rg (rgn [] []) .ready) (fun s => decide (s.m.t.region = none) && decide (s.m.t.pc = 0x20000100) && decide (s.m.t.cell 0 = ⟨0x30F, .raw, none⟩) &&
      decide (s.m.t.cell 1 = .fresh) && decide (s.m.t.cell 2 = ⟨9, .raw, none⟩) && decide (s.m.t.rstat.cause = 0x0F)) = true ∧
    after (.astat a2) (rg (rgn [rgStore] [rgCons 6]) .ready) (fun s => decide (s.m.t.cell 2 = ⟨0x888000080, .raw, none⟩)) = true ∧
    after (.commitAtHome 1) (rg (rgn [rgStore] [rgCons 6]) (.parked .commit)) (fun s => decide (s.m.t.region = none) && decide (s.m.t.cell 1 = ⟨6, .raw, none⟩) &&
      decide (s.m.number (gkey 0x80) 8 = 105) && s.m.t.rstat.ok && s.m.t.rstat.adj && decide (s.m.t.phase = .ready)) = true ∧
    after (.commitAtHome 1) (rg (rgn [rgStore] [rgCons 4]) (.parked .commit)) (fun s => decide (s.m.t.region = none) && decide (s.m.t.pc = 0x20000100) &&
      decide (s.m.t.cell 0 = ⟨1, .raw, none⟩) && decide (s.m.mem = (rg (rgn [] []) .ready).m.mem)) = true := by decide +kernel

/-! ### The matrix unit -/

/-- Tile 1 of core 0 as given; A blocks of a format at 0, Kaolin slot 2 READY with blocks of one: headers alone. -/
def mx (h : Byte) (tile : MTile) (q : List QEnt) : State :=
  let s := withRegs base [(2, 0, .raw), (3, 2, .raw), (4, 32, .raw), (5, 64, .raw)]
  let mem := pokeCells s.m.mem ((List.range 64).map (fun i => (actKey 0 (64 * i), h)) ++ (List.range 128).map fun n => (kaolinKey 0 (16384 + 64 * n), h))
  { s with m := { s.m with mem := mem, matrix := [(0, { queues := if q = [] then [] else [(0, q)], tiles := if tile = {} then [] else [(1, tile)], slots := [(2, ⟨.ready, 0⟩)] })] } }

/-- A tile that is live for the task in focus, or for another. -/
def live1 : MTile := { holder := some 1, lastCtx := some 0, e0 := -3, ops := 2, nx := true, els := [(0, ⟨1, 1, 1⟩)] }
def other1 : MTile := { holder := some 4, lastCtx := some 0 }

/-- A conversion queued. -/
def q1 : QEnt := ⟨1, none, 0x20000000, 0, false, .mconv 1 0 .f32 false .rne false, 0⟩

theorem meets_MatrixCommands : (mx 0xEA live1 []).plain ∧ (mx 0xEA live1 []).atRest ∧ (mx 0xEA live1 []).fit [a2, a3] ∧ (mx 0xEA live1 []).rawOk none [a2, a3] ∧
    ((mx 0xEA live1 []).m.mqueue 0 = [] ∧ ((mx 0xEA live1 []).m.tile 0 1).holder = some 1 ∧ ((mx 0xEA live1 []).m.t.val a2).toNat % 64 = 0 ∧
      ((mx 0xEA live1 []).m.t.val a3).toNat < 64 ∧ (let k := Tab.look {} ((mx 0xEA live1 []).m.mtx 0).slots 2; k.state = .ready ∧ k.owner = 0) ∧
      (∀ i, i < 32 → (mx 0xEA live1 []).m.hdrAt (actKey 0 (64 * i)) = (0xEA, 0)) ∧ (∀ n, n < 128 → (mx 0xEA live1 []).m.hdrAt (kaolinKey 0 (16384 + 64 * n)) = (0xEA, 0)) ∧
      blkMark 0xEA = true ∧ blkWidth 0xEA = .s16 ∧ ((mx 0xEA live1 []).m.t.val a4).toNat % 64 ≠ 0) ∧
    (((mx 0xEA {} []).m.tile 0 1).holder = none ∧ ((mx 0xEA other1 []).m.tile 0 1).holder = some 4 ∧ (∀ c ∈ (mx 0xEA live1 [q1]).m.mqueue 0, c.counts = true) ∧
      ((mx 0xEA {} []).m.tile 0 1).lastCtx ≠ some 0) ∧
    ∃ c ∈ (mx 0xEA live1 [q1]).m.mqueue 0, c.cmd.tile = some 1 ∧ c.reach ≤ (mx 0xEA live1 [q1]).m.order :=
  ⟨plain_of (by decide +kernel), rest_of (by decide +kernel), fit_of (by decide +kernel), raw_of (by decide +kernel), by decide +kernel, by decide +kernel,
    q1, by decide +kernel⟩

/-- A command has joined the queue of core 0. -/
def joins (i : Instr) (s : State) (p : MCmd → Bool) : Bool := after i s fun s1 => match s1.m.mqueue 0 with
  | [e] => p e.cmd && decide ((e.gid, e.rec_, e.op, e.reach, e.bySched) = (1, none, 0x20000000, s.m.order + 1, false)) && decide (s1.m.t = s.m.t.retire) &&
    decide (s1.m.mem = s.m.mem)
  | _ => false

theorem test_matrix_commands : joins (.mop none .s16 .s16 1 a2 a3) (mx 0xEA live1 []) (fun c => match c with
      | .mop false 1 0 2 .s16 ha hb => decide (ha = List.replicate 32 (0xEA, 0)) && decide (hb = List.replicate 128 (0xEA, 0))
      | _ => false) = true ∧
    joins (.mops none .s8 .s8 1 a2 a3) (mx 0xAA live1 []) (fun c => match c with
      | .mop true 1 0 2 .s8 ha _ => decide (ha.length = 64)
      | _ => false) = true ∧
    joins (.mconv none .bf16 true 1 a5) (mx 0xEA live1 []) (fun c => decide (c = .mconv 1 64 .bf16 true .rne false)) = true ∧
    joins (.msched none a5 a4) (mx 0xEA live1 []) (fun c => decide (c = .msched { table := 64, bar := 32 })) = true ∧
    traps (.mop none .s16 .s16 1 a4 a3) (mx 0xEA live1 []) 0x05 32 = true ∧ faults (.mop none .s16 .s16 1 a2 a3) (mx 0xEA other1 []) 1 0 0x8000000000000001 = true ∧
    traps (.mops none .s16 .s16 1 a2 a3) (mx 0xEA live1 []) 0x0B 0x20000000 = true ∧ traps (.mop none .s8 .s4 0 a2 a3) (mx 0xEA live1 []) 0x0B 0x20000000 = true ∧
    traps (.mop none .s8 .s8 1 a2 a3) (mx 0xEA live1 []) 0x04 0 = true ∧
    after (.mzero 1 (-7)) (mx 0xEA live1 []) (fun s => decide (s.m.tile 0 1 = { holder := some 1, lastCtx := some 0, e0 := -7, lastQ := 1 }) && decide (s.m.mqueue 0 = [])) = true ∧
    after (.mzero 1 5) (mx 0xEA {} []) (fun s => decide (s.m.tile 0 1 = { holder := some 1, lastCtx := some 0, e0 := 5, lastQ := 1 })) = true ∧
    faults (.mzero 1 0) (mx 0xEA other1 []) 1 0 0x8000000000000001 = true ∧ faults (.mwait 1) (mx 0xEA other1 []) 1 0 0x8000000000000001 = true ∧
    leaves (.mwait 1) (mx 0xEA {} []) (mx 0xEA {} []).m.t = true ∧
    after (.mwait 1) (mx 0xEA live1 []) (fun s => decide ((s.m.tile 0 1).holder = none) && decide (s.m.t = (mx 0xEA live1 []).m.t.retire)) = true ∧
    after (.mwait 1) (mx 0xEA { live1 with lastQ := 3 } []) (fun s => decide ((s.m.tile 0 1).holder = some 1)) = true ∧
    after (.mwait 1) (mx 0xEA live1 [q1]) (fun s => decide (s.m.t.phase = .parked (.mwait 1 0)) && decide (s.m.t.pc = 0x20000000)) = true ∧
    gives (.mstat a1 1) (mx 0xEA live1 [q1]) a1 0x2C3FD0001 .raw = true ∧ gives (.mstat a1 0) (mx 0xEA live1 []) a1 0 .raw = true ∧
    after (.mqw 6) (mx 0xEA live1 [q1]) (fun s => decide ((s.m.mtx 0).weight 0 0 = 6) && decide (s.m.mqueue 0 = [q1])) = true := by decide +kernel

theorem meets_ResidueTiles : let h : Int := 65535 * 32768 * 65537; (-h < 5 - h) ∧ 5 - h ≤ h ∧ (-h < 5 - h + (2 * h - 5)) ∧ 5 - h + (2 * h - 5) ≤ h := by decide

theorem test_residue_tiles : (({} : Res).add (5 - 65535 * 32768 * 65537)).toInt = 5 - 65535 * 32768 * 65537 ∧
    ((({} : Res).add (5 - 65535 * 32768 * 65537)).add (2 * (65535 * 32768 * 65537) - 5)).toInt = 65535 * 32768 * 65537 := by decide +kernel

/-- A task's matrix operation at the head of core 0's queue, dense or sparse. -/
def opEnt (sparse : Bool) : QEnt := ⟨1, none, 0x20000000, 1, false, .mop sparse 1 0 2 (if sparse then .s8 else .s16) (List.replicate (if sparse then 64 else 32) (0xEA, 0)) (List.replicate 128 (0xEA, 0)), 0⟩

/-- Core 0's row buffer with the first n blocks of A read for a command. -/
def fed (e : QEnt) (n : Nat) (s : State) : State := { s with m := s.m.setMtx 0 fun x =>
  { x with rows := [(0, some ⟨e, (List.range n).map fun k => (k, 0xEA :: List.replicate 63 0)⟩)] } }

/-- The unit stalled on metadata since cycle 5. -/
def stalled : State :=
  let s := fed (opEnt true) 64 (mx 0xEA live1 [opEnt true])
  { s with m := { (s.m.setMtx 0 fun x => { x with stalledAt := some 5 }) with cycle := 5 + 2 ^ 20 } }

/-- The operation on the arrays: the rows of A hold 2 in element 0, the columns of B hold 3 in theirs. -/
def running : State :=
  let s := mx 0xEA live1 [opEnt false]
  let s1 := { s with m := { s.m with mem := pokeCells s.m.mem ((List.range 128).map fun n => (kaolinKey 0 (16384 + 64 * n + 2), 3)) } }
  { s1 with m := s1.m.setMtx 0 fun x => { x with run := some ⟨0, opEnt false, (List.replicate 32 ([0xEA, 0, 2] ++ List.replicate 61 0)).flatten, []⟩ } }

/-- A schedule as given at the head, its table at 0x20010000. -/
def sched1 (next : Nat) : QEnt := ⟨1, none, 0x20000000, 1, false, .msched { table := 0x20010000, bar := 0x40, next := next, count := 2, started := true }, 0⟩

/-- Its entry 0: an MZERO of tile 1 with exponent 4. -/
def schedState (next : Nat) : State := withMem (mx 0xEA {} [sched1 next]) (gkey 64) [1, 1, 0, 0, 4, 0, 0, 0, 0, 0, 0, 0, 0, 0, 0, 0]

theorem meets_MatrixEvents : (let s := fed (opEnt false) 32 (mx 0xEA live1 [opEnt false]); s.m.errs = [] ∧ (s.m.mtx 0).run = none ∧ (s.m.mtx 0).visit = 0 ∧
      (s.m.mtx 0).used < (s.m.mtx 0).weight 0 0 ∧ 0 ∉ (s.m.mtx 0).stopped ∧ (s.m.ctx 0).halt.line = false ∧ (s.m.ctx 0).killed = false ∧
      s.m.mqueue 0 = [opEnt false] ∧ (s.m.feedNext 0).isNone) ∧
    (Tab.look [] (blocksHeld (Tab.look none ((fed (opEnt false) 4 (mx 0xEA live1 [opEnt false])).m.mtx 0).rows 0) (opEnt false)) 4 = [] ∧
      (Tab.look [] ((mx 0xEA live1 [opEnt true]).m.mtx 0).metaq 0).length < metaNeed .s8 ∧ ((mx 0xEA live1 [opEnt true]).m.mtx 0).stalledAt = none ∧
      (stalled.m.mtx 0).stalledAt = some 5 ∧ 5 + 2 ^ 20 ≤ stalled.m.cycle ∧ (stalled.m.feedNext 0).isNone) ∧
    ((running.m.mtx 0).run.map (·.ent) = some (opEnt false) ∧ (running.m.find 1).isSome ∧ running.m.mqueue 0 = [opEnt false]) ∧
    (let s := mx 0xEA live1 [q1]; s.m.mqueue 0 = [q1] ∧ (s.m.find 1).isSome ∧ (s.m.ctx 0).silt.room 192 = true ∧ s.m.stalled 0 = false ∧
      ∀ t ∈ s.m.tasks, t.watchEn = false) ∧
    ((schedState 0).m.mqueue 0 = [sched1 0] ∧ (schedState 0).m.seqWaits 0 0 = false ∧ (schedState 0).m.stalled 0 = false ∧
      schedEntry ((schedState 0).m.peek (gkey 64) 16) = some (.mzero 1 4) ∧ ((schedState 0).m.tile 0 1).holder = none ∧ ((schedState 2).m.find 1).isSome) ∧
    ∃ x, (schedState 0).m.reach 0 0 (BitVec.ofNat 64 (0x20010000 + 64)) 16 1 = .ok x ∧ (decide (x.1.key = gkey 64) && decide (x.1.home = .hbm)) = true :=
  ⟨by decide +kernel, by decide +kernel, by decide +kernel, by decide +kernel, by decide +kernel, ok_of (by decide +kernel)⟩

theorem test_matrix_events : after (.tileOpStart 0) (fed (opEnt false) 32 (mx 0xEA live1 [opEnt false])) (fun s => match (s.m.mtx 0).run with
      | some r => decide ((r.core, r.ent, r.metas, r.adata.length) = (0, opEnt false, [], 2048)) && decide ((s.m.mtx 0).used = 1)
      | none => false) = true ∧
    after (.tileOpStart 0) (mx 0xEA live1 [opEnt false]) (fun s => decide ((s.m.mtx 0).run = none) &&
      decide ((Tab.look none (s.m.mtx 0).rows 0).map (·.ent) = some (opEnt false))) = true ∧
    after (.mconvComplete 0 0) (mx 0xEA live1 [q1]) (fun s => decide (s.m.mqueue 0 = [{ q1 with cols := 1 }])) = true ∧
    after (.tileOpStart 0) (fed (opEnt true) 64 (mx 0xEA live1 [opEnt true])) (fun s => decide ((s.m.mtx 0).run = none) && decide ((s.m.mtx 0).stalledAt = some 0)) = true ∧
    after (.metadataStallTimeout 0) stalled (fun s => (s.m.ctx 0).halt.line && decide ((s.m.mtx 0).stalledAt = none)) = true ∧
    after (.tileOpFinal 0) running (fun s => decide ((s.m.mtx 0).run = none) && decide (s.m.mqueue 0 = []) && decide ((s.m.tile 0 1).ops = 3)) = true ∧
    after (.scheduleEntry 0 0) (schedState 0) (fun s => decide (s.m.mqueue 0 = [sched1 1]) && decide ((s.m.tile 0 1).holder = some 1) && decide ((s.m.tile 0 1).e0 = 4)) = true ∧
    after (.scheduleEnd 0 0) (schedState 2) (fun s => decide (s.m.mqueue 0 = [])) = true := by decide +kernel

/-! ### Engines -/

/-- Operands of page 5 instructions: offsets, addresses, a barrier, a length, a shape, a unit; the copy engine's page of context 0
at virtual address 0x30000000. -/
def eg : State :=
  let s := withRegs base [(1, 0x100, .raw), (2, 0x20010040, .raw), (3, 0x40, .raw), (4, 0x80, .raw), (5, 0x200000010, .raw), (6, 3, .raw), (7, 0x30000000, .raw),
    (8, 13, .raw), (9, 0x1000, .raw), (10, 0x20010000, .raw), (11, 0x300000000, .raw), (12, 0x3000FFFF5, .raw)]
  { s with m := { s.m with tlb := [(0, [⟨0, 0x30000000, 3 * 2 ^ 48 + 3 * 2 ^ 44, 65536, 0xCF⟩])], cycle := 9 } }

/-- The copy engine of cluster 0 and other engines. -/
def cp : EngRef := ⟨.copy, 0⟩

/-- A command has been sent to the node of cluster 0 and its ticket put in lt. -/
def sendsB (i : Instr) (s : State) (e : EngRef) (hdr dst src len : Word) : Bool := after i s fun s1 =>
  decide (s1.m.mem = s.m.mem) && decide (s1.m.t = (s.m.t.putCell 0 ⟨BitVec.ofNat 64 (kindCode e.kind * 2 ^ 36), .raw, none⟩).retire) &&
  decide (Tab.look [] s1.m.nodes 0 = [⟨e, { hdr := hdr, dst := dst, src := src, len := len, gid := 1, op := 0x20000000 }, 9⟩]) &&
  decide (Tab.look 0 (s1.m.ctx 0).serials 0 = 1)

/-- A copy of the word at the second page to 0x80 beyond. -/
def wordCopy : ECmd := { hdr := 0x1001, dst := 0x20010080, src := 0x20010000, len := 8, gid := 1, serial := 5 }

/-- Ticket 5 of core 0 is active at the copy engine, its bitmap with 63 ones. -/
def active (o : EOp) (f : Engine → Engine := id) : State :=
  { eg with m := { (withMem eg (gkey 0) [1, 2, 3, 4, 5, 6, 7, 8]).m with engines := [(4096 * 3, f { active := some o })] } }

def op5 : EOp := { cmd := wordCopy, bitmap := 0xFFFFFFFFFFFFFFFE }

theorem meets_EngineCommands : eg.plain ∧ eg.atRest ∧ eg.fit [a1, a2, a3, a4] ∧ eg.rawOk none [a1, a2, a3, a4] ∧
    (eg.m.heldOf eg.m.t.core < 16 ∧ (eg.m.t.val a3).toNat % 16 = 0 ∧ (eg.m.t.val a3).toNat ≤ 0xFFF0 ∧ (eg.m.t.val a1).toNat < 65536 ∧ 8 ≤ (eg.m.t.val a4).toNat ∧
      (let n := eg.m.t.val a5; 8 ≤ n.toNat % 65536 ∧ n.toNat % 65536 ≤ 4096 ∧ n.toNat % 8 = 0 ∧ 1 ≤ n.toNat / 2 ^ 32 ∧ n.toNat / 2 ^ 48 = 0 ∧ n.toNat / 65536 % 65536 = 0) ∧
      (eg.m.t.val w0).toNat % 16 ≠ 0 ∧ (eg.m.t.val (.slot 2)).toNat % 64 = 0 ∧ 3 / 16 ∈ (eg.m.partOf eg.m.cur).hbmStacks ∧ (eg.m.t.val a6).toNat < 64) ∧
    (∃ x, eg.m.reach eg.m.cur (clusterOf eg.m.t.core) (eg.m.t.val a7) 8 2 = .ok x ∧
      (decide (x.1.home = .dev) && x.1.eng && decide (devPage x.1.key = some (cp, 0, 0))) = true) ∧
    (withRegs (active op5) [(1, 0x3000000005, .raw)]).m.bitsOf 0 0x3000000005 = some 0xFFFFFFFFFFFFFFFE ∧
    0x300000FFF5 / 2 ^ 16 % 2 ^ 8 = 0 ∧ (active op5).m.bitsOf 0 0x300000FFF5 = none :=
  ⟨plain_of (by decide +kernel), rest_of (by decide +kernel), fit_of (by decide +kernel), raw_of (by decide +kernel), by decide +kernel,
    ok_of (by decide +kernel), by decide +kernel⟩

theorem test_engine_commands : sendsB (.ecpy none .a .g a1 a2 a3 a4) eg cp 0x400201 0x100 0x20010040 0x80 = true ∧
    sendsB (.ecpy none .g .c a2 a1 a3 a4) eg cp 0x400C01 0x20010040 0x100 0x80 = true ∧
    sendsB (.egath none .s a1 a2 a3 a5) eg cp 0x400102 0x100 0x20010040 0x200000010 = true ∧
    sendsB (.escat none .c a2 a1 a3 a5) eg cp 0x400303 0x20010040 0x100 0x200000010 = true ∧
    traps (.ecpy none .a .g a1 a2 a3 a3) eg 0x05 0 = false ∧ traps (.ecpy none .a .g a1 a2 a3 w0) eg 0x01 0x20000000 = true ∧
    traps (.ecpy none .a .g a1 a2 w0 a4) eg 0x05 13 = true ∧ faults (.ecpy none .a .g a1 a2 a2 a4) eg 1 0 0x20010040 = true ∧
    sendsB (.esub none a2 a6) eg ⟨.loader, 3⟩ 0x1004 3 0x20010040 0 = true ∧ sendsB (.esub none a2 w0) eg ⟨.storer, 13⟩ 0x1004 13 0x20010040 0 = true ∧
    faults (.esub none a2 w1) eg 1 0 0x1000 = true ∧ sendsB (.ecoll none a2 a3) eg ⟨.collective, 0⟩ 0x400005 0 0x20010040 0 = true ∧
    sendsB (.mloadb none a6 a2 a3) eg cp 0x400006 3 0x20010040 8192 = true ∧ faults (.mloadb none a1 a2 a3) eg 1 0 0x100 = true ∧
    sendsB (.ecmd none a7) eg cp 0x100 0x20010040 0x40 0x80 = true ∧
    after (.ebmp none a2 a1) (withRegs (active op5) [(1, 0x3000000005, .raw)]) (fun s => decide (s.m.t.val a2 = 0xFFFFFFFFFFFFFFFE) && decide (s.m.t.phase = .parked .mem)) = true ∧
    traps (.ebmp none a2 w1) (active op5) 0x09 0x1000 = true ∧ traps (.ebmp none a2 a1) (withRegs (active op5) [(1, 0x3000010005, .raw)]) 0x09 0x3000010005 = true := by
  decide +kernel

/-- A command held at cluster 0's node since cycle 9. -/
def held (now : Nat) (x : Engine) : State := { eg with m := { eg.m with nodes := [(0, [⟨cp, { wordCopy with hdr := 6 }, 9⟩])], cycle := now, engines := [(4096 * 3, x)] } }

/-- The word read, and not written yet. -/
def op5b : EOp := { op5 with part := some (0, 8), held := [⟨0, 0x20010080, [1, 2, 3, 4, 5, 6, 7, 8]⟩] }

theorem meets_EngineOperations : eg.atRest ∧ (active op5).atRest ∧ (active op5b).atRest ∧
    (eg.m.errs = [] ∧ eg.m.heldOf 0 < 16 ∧ (Tab.look [] (held 73 {}).m.nodes 0)[0]? = some ⟨cp, { wordCopy with hdr := 6 }, 9⟩ ∧ 9 + 64 ≤ (held 73 {}).m.cycle ∧
      ((held 73 {}).m.eng cp).pend.length < 128 ∧ ((held 9 { shadow := some wordCopy }).m.eng cp).shadow = some wordCopy ∧ wordCopy.opc = 1) ∧
    (((active op5).m.ctx 0).silt.room (96 * (wordCopy.merged.length + 2)) = true ∧ wordCopy.var = 0 ∧ wordCopy.nb = true ∧
      (active op5).m.hasStruck 0 (engParty cp) 1 = false ∧ ((active op5).m.ctx 0).halt.line = false ∧ ((active op5).m.ctx 0).killed = false) ∧
    (∃ x, (active op5).m.engReach cp wordCopy wordCopy.src 8 1 = .ok x ∧ (decide (x.1.home = .hbm) && decide (x.1.key = gkey 0)) = true) ∧
    (∃ x, (active op5b).m.engReach cp wordCopy wordCopy.dst 8 2 = .ok x ∧ (decide (x.1.home = .hbm) && decide (x.1.space = 0)) = true) ∧
    (∃ h ∈ [(⟨cp, { wordCopy with hdr := 6 }, 9⟩ : HeldCmd)], ECmd.merges h.cmd = true ∧ h.cmd.same { wordCopy with hdr := 6, core := 1 } = true ∧ 20 < h.since + 64) :=
  ⟨rest_of (by decide +kernel), rest_of (by decide +kernel), rest_of (by decide +kernel), by decide +kernel, by decide +kernel, ok_of (by decide +kernel),
    ok_of (by decide +kernel), by decide +kernel⟩

theorem test_engine_operations : after (.registerWrite cp 0 8 (leBytes 0x1122334455667788 8)) eg (fun s => decide ((s.m.eng cp).regs = [(1, 0x1122334455667788)]) &&
      decide (s.m.mem = eg.m.mem) && decide (s.m.t = eg.m.t)) = true ∧
    after (.kick cp 0 0 1) (active op5 fun x => { x with regs := [(0, 0x1001), (1, 2), (2, 3), (3, 4)] })
      (fun s => decide (Tab.look [] s.m.nodes 0 = [⟨cp, { hdr := 0x1001, dst := 2, src := 3, len := 4, gid := 1, op := 0x20000000 }, 9⟩])) = true ∧
    after (.commandForward 0 0) (held 73 {}) (fun s => decide (Tab.look [] s.m.nodes 0 = []) && decide ((s.m.eng cp).shadow = some { wordCopy with hdr := 6 })) = true ∧
    after (.commandForward 0 0) (held 73 { shadow := some wordCopy }) (fun s => decide ((s.m.eng cp).pend = [{ wordCopy with hdr := 6 }])) = true ∧
    ends (.commandForward 0 0) (held 72 {}) (held 72 {}) = true ∧
    after (.engineOperationStart cp) (held 9 { shadow := some wordCopy, pend := [{ wordCopy with serial := 6 }, { wordCopy with serial := 7 }] }) (fun s => decide (s.m.eng cp =
      { active := some { cmd := wordCopy, bitmap := 0xFFFFFFFFFFFFFFFE }, shadow := some { wordCopy with serial := 6 }, pend := [{ wordCopy with serial := 7 }] })) = true ∧
    after (.chunkComplete cp 0) (active op5) (fun s => decide (s.m.mem = (active op5).m.mem) && decide ((s.m.eng cp).active = some op5b)) = true ∧
    after (.chunkComplete cp 0) (active op5b) (fun s => decide (s.m.mem = pokeMem (active op5).m.mem (gkey 0x80) [1, 2, 3, 4, 5, 6, 7, 8]) &&
      decide ((s.m.eng cp).active.map (·.bitmap) = some (BitVec.allOnes 64))) = true ∧
    after (.engineOperationEnd cp) (active { op5 with bitmap := BitVec.allOnes 64 }) (fun s => decide ((s.m.eng cp).active = none) &&
      decide (Tab.look {} (s.m.eng cp).mail 0 = ⟨1, 0, 5⟩)) = true ∧
    after (.engineFault cp) (active { op5 with failed := some ⟨0x6004, none, 7⟩ }) (fun s => decide ((s.m.eng cp).active = none) &&
      decide ((Tab.look {} (s.m.eng cp).mail 0).status = 2) && (s.m.ctx 0).halt.line && decide (s.m.t = eg.m.t)) = true := by decide +kernel

/-- A Kaolin load of slot 2, and a push of 3 metadata entries. -/
def load2 : ECmd := { hdr := 0x1006, dst := 2, src := 0x20010000, len := 8192, gid := 1 }
def meta3 : ECmd := { hdr := 0x1007, src := 0x20010000, len := 3, gid := 1 }

/-- A stream of tiles of one block at loader 3, some of its tile read, and a word of it not written yet. -/
def st (store : Bool) (k done : Nat) (moved : Nat := 0) (held : List EWord := []) : State :=
  let y : Stream := { store := store, addr := 0x20010000, stride := 128, count := 2, tile := 64, ringBase := 0x100, ringSize := 128, barrier := 0x40, done := 0x80, check := false, cmd := { hdr := 0x1004, dst := 3, src := 0x20020000, gid := 1 }, k := k, pushed := 7, moved := moved, held := held }
  let s := withMem (withMem (withMem (withMem base (gkey 128) [1, 2, 3]) (skey 0x80) (leBytes done 8)) (accKey 0 0x140) [9, 8, 7]) (skey 0x40) (leBytes 100 4)
  { s with m := { s.m with engines := [(4096 * 5 + 3, { streams := [y] })] } }

def ld3 : EngRef := ⟨.loader, 3⟩

/-- The last words of a tile, read and not written. -/
def lastIn : EWord := ⟨56, 0x178, [1, 2, 3, 4, 5, 6, 7, 8]⟩
def lastOut : EWord := ⟨56, 0x200100B8, [9, 8, 7, 6, 5, 4, 3, 2]⟩

/-- A metadata push with its first word read. -/
def metaHalf : EOp := { op5 with cmd := meta3, bitmap := freshBitmap 3, held := [⟨0, 0, [9, 0, 0, 0, 0, 0, 0, 0]⟩] }

theorem meets_LoadsAndStreams : (active { op5 with cmd := load2, reach := none }).atRest ∧ (st false 1 0).atRest ∧ (st false 1 0 64 [lastIn]).atRest ∧
    (load2.opc = 6 ∧ meta3.opc = 7 ∧ load2.nb = true ∧ ((active op5).m.ctx 0).silt.room 192 = true) ∧
    (∃ x, (active op5).m.engReach cp meta3 (meta3.src + BitVec.ofNat 64 (16 * 0)) 8 1 = .ok x ∧ (decide (x.1.home = .hbm) && decide (x.1.key = gkey 0)) = true) ∧
    (∃ x, (active op5).m.engReach cp meta3 (meta3.src + BitVec.ofNat 64 (16 * 0 + 8)) 8 1 = .ok x ∧ decide (x.1.home = .hbm) = true) ∧
    (((st false 1 0).m.eng ld3).streams.length = 1 ∧ ((st false 1 0).m.ctx 0).silt.room 192 = true ∧ (st false 1 0).m.t.phase = .ready ∧
      (st false 1 0).m.gbars = [] ∧ (st true 1 2).m.word ((st true 1 2).m.frontKey 0 0x80) = 2 ∧ (st false 1 0).m.hasStruck 0 (engParty ld3) 1 = false) ∧
    (∃ x, (st false 1 0).m.engReach ld3 wordCopy 0x20010080 8 1 = .ok x ∧ decide (x.1.home = .hbm) = true) ∧
    (∃ x, (st true 1 2 64 [lastOut]).m.engReach ld3 wordCopy 0x200100B8 8 2 = .ok x ∧ (decide (x.1.home = .hbm) && decide (x.1.space = 0) && decide (x.1.key = gkey 0xB8)) = true) ∧
    (∃ x, (st true 2 2).m.engReach ld3 wordCopy 0x20020030 16 2 = .ok x ∧ (decide (x.1.home = .hbm) && decide (x.1.space = 0)) = true) :=
  ⟨rest_of (by decide +kernel), rest_of (by decide +kernel), rest_of (by decide +kernel), by decide +kernel, ok_of (by decide +kernel), ok_of (by decide +kernel),
    by decide +kernel, ok_of (by decide +kernel), ok_of (by decide +kernel), ok_of (by decide +kernel)⟩

theorem test_loads_and_streams : after (.kaolinLoad 0) (active { op5 with cmd := load2 }) (fun s => decide ((s.m.mtx 0).slots = [(2, ⟨.loading, 0⟩)]) && decide (s.m.t = eg.m.t)) = true ∧
    after (.kaolinLoadComplete 0) (active { op5 with cmd := load2, bitmap := BitVec.allOnes 64, reach := some 1 }) (fun s => decide ((s.m.mtx 0).slots = [(2, ⟨.ready, 0⟩)])) = true ∧
    after (.metadataPush 0) (active { op5 with cmd := meta3, bitmap := freshBitmap 3 }) (fun s => decide (Tab.look [] (s.m.mtx 0).metaq 0 = []) &&
      decide ((s.m.eng cp).active.map (·.held) = some [⟨0, 0, [1, 2, 3, 4, 5, 6, 7, 8]⟩])) = true ∧
    after (.metadataPush 0) (active metaHalf) (fun s => decide (Tab.look [] (s.m.mtx 0).metaq 0 = [9]) && decide ((s.m.eng cp).active.map (·.bitmap) = some 0xFFFFFFFFFFFFFFF9)) = true ∧
    after (.streamTileLoad ld3 0) (st false 1 0) (fun s => decide ((s.m.eng ld3).streams.map (fun y => (y.k, y.moved, y.held)) = [(1, 8, [⟨0, 0x140, [1, 2, 3, 0, 0, 0, 0, 0]⟩])])) = true ∧
    after (.streamTileLoad ld3 0) (st false 1 0 64 [lastIn]) (fun s => decide ((s.m.eng ld3).streams.map (·.k) = [2]) && decide (s.m.peek (actKey 0 0x178) 8 = lastIn.bytes) && decide (s.m.t = base.m.t)) = true ∧
    after (.streamTileStore ld3 0) (st true 1 2) (fun s => decide ((s.m.eng ld3).streams.map (fun y => (y.k, y.moved, y.held)) = [(1, 8, [⟨0, 0x20010080, [9, 8, 7, 0, 0, 0, 0, 0]⟩])])) = true ∧
    after (.streamTileStore ld3 0) (st true 1 2 64 [lastOut]) (fun s => decide ((s.m.eng ld3).streams.map (·.k) = [2]) && decide (s.m.peek (gkey 0xB8) 8 = lastOut.bytes) && decide (s.m.t = base.m.t)) = true ∧
    ends (.streamTileStore ld3 0) (st true 1 1) (st true 1 1) = true ∧
    after (.streamEnd ld3 0) (st false 2 0) (fun s => decide ((s.m.eng ld3).streams = []) && decide (s.m.mem = pokeMem (st false 2 0).m.mem (gkey 0x10030) [7]) &&
      decide (Tab.look {} (s.m.eng ld3).mail 0 = ⟨1, 0, 0⟩)) = true := by decide +kernel

/-- A sum of one FP32, INT32 element among three members, of which this is the second. -/
def coll1 (started held : Bool) (halt : Bool) : State :=
  let k : Coll := { op := 1, type := 1, red := 0, root := 0, group := 4, src := 0x20010000, dst := 0x20010080, count := 2, tag := 0, rank := 1, n := 3, cmd := { hdr := 0x1005, src := 0x20020000, gid := 1 }, started := started, held := held }
  let s := withMem base (gkey 0) [5]
  { s with m := { (s.m.setCtx 0 fun x => { x with halt := { x.halt with line := halt } }) with colls := [(0, [k])], engines := [(4096 * 4, { active := some { cmd := k.cmd, bitmap := 0 } })] } }

theorem meets_Collectives : (coll1 true false false).atRest ∧ ((coll1 true false false).m.errs = [] ∧ (Tab.look [] (coll1 true false false).m.colls 0).length = 1 ∧
      ((coll1 true false false).m.eng (collEng 0)).active.map (·.cmd) = some { hdr := 0x1005, src := 0x20020000, gid := 1 } ∧
      ((coll1 true false false).m.ctx 0).silt.room (96 * 5) = true ∧ ((coll1 true false false).m.ctx 0).halt.line = false ∧ ((coll1 true false true).m.ctx 0).halt.line = true ∧
      (coll1 true false false).sys.ring.length < 4096) ∧
    (∃ x, (coll1 true false false).m.engReach (collEng 0) wordCopy (BitVec.ofNat 64 0x20010000) 4 1 = .ok x ∧ (decide (x.1.home = .hbm) && decide (x.1.key = gkey 0) &&
      okB ({ x.2 with free := x.2.free + 8 }.engReach (collEng 0) wordCopy (BitVec.ofNat 64 0x20010080) 4 2) fun y => decide (y.1.home = .hbm) && decide (y.1.space = 0)) = true) :=
  ⟨rest_of (by decide +kernel), by decide +kernel, ok_of (by decide +kernel)⟩

theorem test_collectives : after (.collectiveStep 0 0 []) (coll1 false false false) (fun s => decide ((s.m.collsAt 0).map (·.started) = [true]) && decide (s.m.mem = (coll1 false false false).m.mem)) = true ∧
    after (.collectiveStep 0 0 [0xFE, 0xFF, 0xFF, 0xFF, 0, 1, 0, 0]) (coll1 true false false)
      (fun s => decide (s.m.mem = pokeMem (coll1 true false false).m.mem (gkey 0x80) [3, 1, 0, 0]) && decide ((s.m.collsAt 0).map (·.step) = [1])) = true ∧
    ends (.collectiveHold 0 0) (coll1 true false true) (coll1 true true true) = true ∧ ends (.collectiveResume 0 0) (coll1 true true false) (coll1 true false false) = true ∧
    after (.memberAbort 0 0 4) (coll1 true false false) (fun s => decide (s.m.collsAt 0 = []) && decide ((s.m.ctx 0).deadGroups = [4]) && decide (s.sys.ring.map (·.code) = [0x4004]) &&
      decide (Tab.look {} (s.m.eng (collEng 0)).mail 0 = ⟨1, 0, 0⟩)) = true := by decide +kernel

/-! ### The task unit -/

/-- The task in focus off its slot and queued at cluster 0 since cycle 0, its context's serials as placed. -/
def queued1 (now : Nat) : State := { onT base (fun t => { t with seat := none, prio := 1, basePrio := 2 }) with m := { (onT base fun t => { t with seat := none, prio := 1, basePrio := 2 }).m with cycle := now, order := 4 } }

/-- Every slot of core 0 taken; the task on slot 2 waits for room in the log. -/
def crowded : State := { queued1 0 with m := { (queued1 0).m with others := (List.range 16).map fun i =>
  ({ gid := 10 + i, seat := some (0, i), lines := some 0, phase := if i = 2 then .waiting .silt else .ready } : Task) } }

/-- The task in focus waits for a gang of 2 on core 1, or must have one again. -/
def gangs (p : Phase) (re : Nat) : State := onT base fun t => { t with seat := some (1, 3), lines := some 1, phase := p, regang := re }

/-- A gate of record 5 on the barrier at 0x40 for residue 2; the barrier of core 0 as given. -/
def gated (bs : List Byte) : State :=
  let s := withMem (onT (queued1 0) fun t => { t with rec_ := some 5 }) (skey 0x40) bs
  { s with m := s.m.updRec 0 5 fun p => { p with state := .running, r := { tiles := [2 ^ 20 + 2 * 2 ^ 16 + 0x40] } } }

/-- A record running whose one task has indices 4 to 9 left. -/
def wide : State :=
  let s := onT base fun t => { t with rec_ := some 5, lo := 4, hi := 9 }
  { s with m := s.m.updRec 0 5 fun p => { p with state := .running, live := 1 } }

/-- Record 1 runs and is done but for its task, record 2 waits for n predecessors. -/
def pair1 (live n : Nat) (early : Bool) : State :=
  let s := onT base fun t => { t with rec_ := some (if live = 0 then 7 else 1) }
  let r2 : LaunchRec := { entry := 0x20001000, lo := 3, hi := 9, alloc := 64, flags := if early then 8 else 0, npred := 2 }
  { s with m := s.m.setCtx 0 fun x => { x with pool := [(1, { state := .running, live := live, r := { succ := [2, 0xFFFF] } }), (2, { state := .armed, pending := n, r := r2 })] } }

/-- A sink that is done. -/
def sink1 : State := { pair1 0 1 false with m := (pair1 0 1 false).m.setCtx 0 fun x => { x with pool := [(1, { state := .running, armedAt := 6, armer := 1, created := 3, energy := 50, sharedUj := 20, r := { flags := 4, completion := 0x50000040, succ := [0xFFFF] } })] } }

theorem meets_TaskUnit : base.plain ∧ (gang2 base).plain ∧ (base.m.errs = [] ∧ base.m.find 1 = some base.m.t ∧ base.m.t.fol = [] ∧ (gang2 base).m.t.fol ≠ [] ∧
      (gangs (.waiting (.gang 2)) 0).m.t.seat = some (1, 3) ∧ (gangs (.waiting (.gang 2)) 0).m.others = [] ∧ (gangs .ready 2).m.t.regang = 2) ∧
    ((queued1 0).m.eligible 0 (queued1 0).m.t = true ∧ (queued1 0).m.tasks = [(queued1 0).m.t] ∧ (queued1 0).m.declsOf (queued1 0).m.t = [] ∧
      (queued1 0).m.taken 0 0 = false ∧ (queued1 0).m.t.produces = none) ∧
    (crowded.m.eligible 0 crowded.m.t = true ∧ (∀ j, j < 16 → crowded.m.taken 0 j = true) ∧ ((crowded.m.occupant 0 2).map Task.inWait = some true) ∧
      (∀ x ∈ crowded.m.others, crowded.m.eligible 0 x = false) ∧ ∀ j, j < 2 → (crowded.m.occupant 0 j).map Task.inWait = some false) ∧
    ((gated [1, 0, 0, 0, 0, 0, 0, 0, 1, 0, 1, 2]).m.queuedFor 0 (gated [1, 0, 0, 0, 0, 0, 0, 0, 1, 0, 1, 2]).m.t = true ∧ ((gated [1, 0, 0, 0, 0, 0, 0, 0, 1, 0, 1, 2]).m.bar 0 0x40).err = true ∧
      (queued1 40001).m.seats 0 = true ∧ (queued1 40001).m.t.prio < 3 ∧ (queued1 40001).m.boundTo (queued1 40001).m.t = none) ∧
    (wide.m.taken 1 0 = false ∧ (∀ x ∈ wide.m.tasks, wide.m.eligible 1 x = false) ∧ Tab.keys wide.m.ctxs = [0] ∧ wide.m.ownsCore 0 1 = true ∧ wide.m.t.splits = true ∧
      wide.m.t.cluster ∈ (wide.m.partOf 0).clusters ∧ (wide.m.launch 0 5).state = .running ∧ wide.m.seats 0 = true ∧ wide.m.find (gidOf 0 (wide.m.takeSerial 0 0).1) = none) ∧
    (recEarly ((pair1 1 1 true).m.launch 0 2).r = true ∧ ((pair1 1 1 true).m.ctx 0).halt.complete = false ∧ (pair1 1 1 true).m.t.seat.isSome ∧ (pair1 1 1 true).m.t.splits = false ∧
      (pair1 0 1 false).m.recordDone 0 1 = true ∧ (pair1 0 2 false).m.recordDone 0 1 = true ∧ recSink ((pair1 0 1 false).m.launch 0 1).r = false ∧
      sink1.m.recordDone 0 1 = true ∧ recSink (sink1.m.launch 0 1).r = true ∧ (sink1.m.launch 0 1).reached = [] ∧ (sink1.m.ctx 0).silt.room 32 = true ∧
      ((pair1 1 1 true).m.launch 0 1).live ≠ 0) :=
  ⟨plain_of (by decide +kernel), plain_of (by decide +kernel), by decide +kernel, by decide +kernel, by decide +kernel, by decide +kernel, by decide +kernel,
    by decide +kernel⟩

/-- The task in focus has been seated. -/
def seated (s s1 : State) (core slot : Nat) : Bool := decide (s1.m.t = { s.m.t with seat := some (core, slot), lines := some core, prio := s.m.t.basePrio }) && decide (s1.m.mem = s.m.mem)

theorem test_task_unit : ends (.gang .four) base (onT base fun t => { t with phase := .waiting (.gang 4) }) = true ∧ traps (.gang .two) (gang2 base) 0x01 0x20000000 = true ∧
    ends (.gangForm 1) (gangs (.waiting (.gang 2)) 0) (onT base fun t => { t with seat := some (0, 3), fol := [{}] }) = true ∧
    ends (.gangForm 1) (gangs .ready 2) (onT base fun t => { t with seat := some (0, 3) }) = true ∧
    after (.taskSeat 0) (queued1 0) (fun s => seated (queued1 0) s 0 0) = true ∧
    after (.taskSeat 0) crowded (fun s => seated crowded s 0 2 && decide ((s.m.find 12).map (·.seat) = some none)) = true ∧
    after (.taskSeat 0) (gated [1, 0, 0, 0, 0, 0, 0, 0, 1, 0, 1, 2]) (fun s => (s.m.ctx 0).halt.line && decide (s.m.t = (gated [1, 0, 0, 0, 0, 0, 0, 0, 1, 0, 1, 2]).m.t)) = true ∧
    after (.taskAging 1) (queued1 40001) (fun s => decide (s.m.t = { (queued1 40001).m.t with prio := 2, queuedAt := 40001, queueNo := 4 })) = true ∧
    ends (.taskAging 1) (queued1 40000) (queued1 40000) = true ∧
    after (.continuationMigrate 1) (queued1 1024) (fun s => decide (s.m.t = { (queued1 1024).m.t with migrates := true })) = true ∧
    after (.steal 1 0) wide (fun s => decide (s.m.t = { wide.m.t with hi := 7 }) && (match s.m.others with
      | [q] => decide ((q.kind, q.rec_, q.lo, q.hi, q.seat) = (.range, some 5, 7, 9, some (1, 0))) && decide ((q.workId, q.phase) = (7, .ready)) && decide (q.gid = gidOf 0 2)
      | _ => false)) = true ∧
    after (.earlyStart 0 2) (pair1 1 1 true) (fun s => (match s.m.others with
      | [q] => decide ((q.kind, q.rec_, q.lo, q.hi, q.prio, q.phase) = (.graph, some 2, 3, 9, 0, .ready))
      | _ => false) && decide (((s.m.launch 0 2).state, (s.m.launch 0 2).pending) = (.running, 1)) && (s.m.launch 0 2).earlyOn) = true ∧
    ends (.recordRetire 0 1) (pair1 1 1 true) (pair1 1 1 true) = true ∧
    after (.recordRetire 0 1) (pair1 0 2 false) (fun s => decide ((s.m.launch 0 1).state = .retired) && decide (((s.m.launch 0 2).state, (s.m.launch 0 2).pending) = (.armed, 1)) && decide (s.m.others = [])) = true ∧
    after (.recordRetire 0 1) (pair1 0 1 false) (fun s => (match s.m.others with
      | [q] => decide ((q.kind, q.rec_, q.lo, q.hi, q.phase) = (.graph, some 2, 3, 9, .ready))
      | _ => false) && decide (((s.m.launch 0 2).state, (s.m.launch 0 2).pending) = (.running, 0))) = true ∧
    after (.recordRetire 0 1) sink1 (fun s => decide ((s.m.launch 0 1).state = .retired) && decide (s.m.done.map (·.activeUj) = [30]) &&
      decide (s.m.peek 0x50000040 16 = [0x10, 0, 0, 0, 1, 0, 0, 0, 6, 0, 0, 0, 0, 0, 0, 0]) && decide ((3, 0) ∈ s.m.irqs) && decide ((2, 0) ∈ (s.m.ctx 0).silt.requests)) = true := by
  decide +kernel

/-! ### The kernel -/

/-- An entry of partition 0's fault buffer, the task in focus and the copy engine waiting for it. -/
def paged : State :=
  let s := onT base fun t => { t with phase := .waiting (.fault 0 7 6 0x20010040) }
  let f : FaultEnt := { va := 0x20010000, ctx := 0, access := 1, cause := 0, waiters := 2, task := 1, time := 0, tasks := [1] }
  { s with m := { s.m with faults := [(7, some f)], engines := [(4096 * 3, { active := some { op5 with waiting := some (0x20010000, 0) } })] } }

/-- The task in focus waits, or is parked. -/
def inPhase (p : Phase) : State := onT base fun t => { t with phase := p, npc := 0x20000002 }

/-- The producer of entry 130 waits for room in the table. -/
def prTbl : State := onT (pr .eval [] 1) fun t => { t with phase := .waiting (.tbl 0x4000) }

/-- A remote weak store that the window of its owner no longer admits, and one whose bytes overlap an older store's. -/
def mNack : State := { m1 with m := { m1.m with weak := [⟨1, 0, none, ⟨2 ^ 52 + 65536 + 0x40, remoteForm 1 0x40, .cluster 0, 1, false, false, some 1⟩, 1, [(2 ^ 52 + 65536 + 0x40, 7)]⟩] } }
def mTwo : State := { mWeak with m := { mWeak.m with weak := mWeak.m.weak ++ mWeak.m.weak } }

/-- A FULL log with no room, and a thread whose store waits. -/
def mFullLog : State := { mWeak with m := mWeak.m.setCtx 0 fun x => { x with silt := { x.silt with full := true, size := 16 } } }

/-- A rehash at its last set: the entry stands in the old array. -/
def rehash : State := withTable (tc1 .complete []) fun l => { l with nsets := 2, base := 0x70000000, va := 0x7000, moving := some ⟨0, l.base, l.va⟩
                                                                     entries := [(34, { tcEntry .complete [] with leader := 34 })] }

/-- The table's boundary has come, and the one entry has failed without pins. -/
def cleared (found : Option (List Nat)) : State := withTable (tc1 .failed []) fun l => { l with boundary := found, entries := [(130, { tcEntry .failed [] with pins := 0 })] }

/-- No window of core 1 admits a store of context 0. -/
theorem mNack_refuses {v : WStore} (h : v.gid = 1) (h1 : v.loc.remote = some 1) : mNack.m.windowsAdmit v = false := by
  have hw : ∀ i, i < 4 → mNack.m.window (ctxOf 1) 1 i = ⟨0, 0, 0⟩ := by decide +kernel
  simp only [Mach.windowsAdmit, h1, h, Mach.windowsGrant, List.any_eq_false, List.mem_range]
  intro i hi
  simp [hw i hi, Window.grants, needW]

theorem meets_KernelEvents : (∀ w ∈ mWeak.m.weak, ∃ v, (w.choose mWeak.m.free).1 = [v]) ∧
    (∀ w ∈ mNack.m.weak, ∃ v, (w.choose mNack.m.free).1 = [v] ∧ mNack.m.windowsAdmit v = false) ∧
    (∀ w ∈ mFullLog.m.weak, ∃ v, (w.choose mFullLog.m.free).1 = [v] ∧ (mFullLog.m.ctx 0).silt.room (32 + (v.n + 7) / 8 * 8) = false) ∧
    (mWeak.m.weak.length = 1 ∧ mNack.m.weak.length = 1 ∧ mFullLog.m.weak.length = 1) ∧
    (paged.m.errs = [] ∧ paged.m.find 1 = some paged.m.t ∧ (paged.m.faultAt 0 7).isSome ∧ (paged.m.eng cp).active = some { op5 with waiting := some (0x20010000, 0) } ∧
      paged.m.t.kind ≠ .producer ∧ paged.m.tasks = [paged.m.t]) ∧
    (prTbl.m.find 9 = some prTbl.m.t ∧ prTbl.m.t.kind = .producer ∧ prTbl.m.produced prTbl.m.t = some 130 ∧ (prTbl.m.entry 0 130).state = .eval ∧ (prTbl.m.ctx 0).halt.complete = false ∧
      prTbl.m.weak = [] ∧ (prTbl.m.ctx 0).silt.room (32 + 96 * prTbl.m.lineBound 0 (prTbl.m.members 0 130)) = true) ∧
    ((inPhase (.parked .command)).m.heldOf 0 < 16 ∧ queueFull ((inPhase (.parked .matrix)).m.mqueue 0) = false ∧ (inPhase (.parked .transfer)).m.tracked 0 < 750 ∧
      (inPhase (.parked (.mwait 1 0))).m.openOn 0 1 0 = false ∧ (inPhase (.parked .order)).m.predecessorsOpen 0 5 = false) ∧
    (mWeak.m.weak.map (fun w => (decide (w.loc.home = .hbm) && decide (w.loc.space = 0) && decide (w.loc.remote = none) && decide (w.n ≤ 64) &&
      decide (w.bytes = cellsFrom w.loc.key (w.bytes.map Prod.snd)))) = [true] ∧ mWeak.m.foremost 0 = true ∧ mTwo.m.foremost 1 = false ∧ mNack.m.foremost 0 = true ∧
      (mFullLog.m.ctx 0).silt.full = true) ∧
    (((cleared (some [3])).m.ctx 0).loam.boundary = some [3] ∧ Tab.wf {} ((cleared (some [3])).m.ctx 0).loam.entries = true ∧
      ((cleared (some [3])).m.ctx 0).silt.room (32 + 96 * (cleared (some [3])).m.lineBound 0 [130]) = true ∧
      ((tc1 .complete []).m.ctx 0).loam.moving = none ∧ (rehash.m.ctx 0).loam.moving = some ⟨0, 2 ^ 26, 2 ^ 26⟩ ∧ Tab.wf {} (rehash.m.ctx 0).loam.entries = true) :=
  ⟨fun w _ => (w.choose_one _).imp fun _ h => h.1, fun w hw => by
      obtain ⟨v, h, _, _, _, _, rfl⟩ := w.choose_one mNack.m.free
      have hm : mNack.m.weak.all (fun w => decide (w.gid = 1) && decide (w.loc.remote = some 1)) = true := by decide +kernel
      have := List.all_eq_true.mp hm w hw
      simp only [Bool.and_eq_true, decide_eq_true_eq] at this
      exact ⟨_, h, mNack_refuses this.1 this.2⟩,
    fun w _ => by
      obtain ⟨v, h, _⟩ := w.choose_one mFullLog.m.free
      have hs : (mFullLog.m.ctx 0).silt.size = 16 := by decide +kernel
      exact ⟨v, h, by simp [Silt.room, hs]; omega⟩,
    by decide +kernel, by decide +kernel, by decide +kernel, by decide +kernel, by decide +kernel, by decide +kernel⟩

/-- A refused trap has halted the task in focus. -/
def haltedBy (i : Instr) (s : State) (code : Nat) (addr : Word) : Bool := after i s fun s1 => (s1.m.ctx 0).halt.line && decide (s1.m.t.phase = .ready) &&
  decide (s1.m.t.stop = some ⟨0, code, addr, s.m.t.pc⟩) && decide (s1.m.t.ctl.trapAddr = addr) && decide (s1.m.t.ctl.trapCode.code = BitVec.ofNat 8 code) &&
  decide (s1.m.t.ctl.trapPc = s.m.t.pc.setWidth 52) && decide (s1.m.t.img = s.m.t.img) && decide (s1.m.mem = s.m.mem)

theorem test_kernel_events : after (.faultResolved (.entry 0 7) { mem := [(0x50000000, 9)] }) paged (fun s => decide (s.m.faultAt 0 7 = none) && decide (s.m.t.phase = .ready) && decide (s.m.t.pc = 0x20000000) &&
      decide ((s.m.eng cp).active = some op5) && decide (s.m.mem = pokeMem paged.m.mem 0x50000000 [9])) = true ∧
    haltedBy (.faultRefused (.entry 0 7)) paged 6 0x20010040 = true ∧
    after (.faultRefused (.entry 0 7)) paged (fun s => decide ((s.m.eng cp).active.map (·.failed) = some (some ⟨0x6009, some 0x20010000, 0x1001⟩)) && decide (s.m.faultAt 0 7 = none)) = true ∧
    after (.faultResolved (.task 1) {}) (inPhase (.waiting (.tbl 0x4000))) (fun s => decide (s.m.t.phase = .ready) && decide (s.m.t.pc = 0x20000000)) = true ∧
    ends (.faultResolved (.task 1) {}) (inPhase (.waiting (.tbl 0))) (inPhase (.waiting (.tbl 0))) = true ∧
    haltedBy (.faultRefused (.task 1)) (inPhase (.waiting (.tbl 0x4000))) 0x0C 0x4000 = true ∧ haltedBy (.faultRefused (.task 1)) (inPhase (.waiting (.sysc 6))) 0x14 6 = true ∧
    after (.faultRefused (.task 9)) prTbl (fun s => decide (s.m.find 9 = none) && decide (((s.m.entry 0 130).state, (s.m.entry 0 130).code) = (.failed, 0x0C))) = true ∧
    after (.syscServe 1 11 12 13) (inPhase (.waiting (.sysc 6))) (fun s => decide (s.m.t.seat = none) && decide (s.m.t.pc = 0x20000002) && decide (s.m.t.img.regs = [(0, ⟨13, .raw, none⟩), (1, ⟨11, .raw, none⟩), (2, ⟨12, .raw, none⟩)])) = true ∧
    (List.all [.mem, .sfu, .tlb, .command, .matrix] fun p : Park => ends (.parkResolved 1) (inPhase (.parked p)) (inPhase .ready)) = true ∧
    ends (.parkResolved 1) (inPhase (.parked (.root 2 5))) (inPhase (.parked (.root 2 5))) = true ∧
    after (.parkResolved 1) (inPhase (.parked (.mwait 1 0))) (fun s => decide (s.m.t.pc = 0x20000002) && decide (s.m.t.phase = .ready)) = true ∧
    after (.fence (fence .rel .dv)) mNack (fun s => decide (s.m.weak = []) && decide (s.m.mem = mNack.m.mem) && decide (s.m.t.nack = some (remoteForm 1 0x40))) = true ∧
    ends (.accessPerformed 1) mTwo mTwo = true ∧
    ends (.tableClearFailed 0) (cleared none) (cleared none) = true ∧
    after (.tableClearFailed 0) (cleared (some [2])) (fun s => decide (s.m.entry 0 130 = { tcEntry .failed [] with pins := 0 })) = true ∧
    after (.tableClearFailed 0) (cleared (some [3])) (fun s => decide (s.m.entry 0 130 = {}) && decide ((s.m.ctx 0).loam.boundary = none) && decide (s.m.mem = base.m.mem)) = true ∧
    after (.tableGrow 0 none (5, 0) (6, 0)) (tc1 .complete []) (fun s => decide (((s.m.ctx 0).loam.ansFree, (s.m.ctx 0).loam.keyFree) = (69, 70))) = true ∧
    after (.tableGrow 0 none (0, 0) (0, 0)) rehash (fun s => decide ((s.m.ctx 0).loam.moving = none) && decide ((s.m.entry 0 2).key = [5]) && decide ((s.m.entry 0 2).leader = 2)) = true ∧
    after (.tableGrow 0 (some (0x70000000, 0x7000)) (0, 0) (0, 0)) (tc1 .complete []) (fun s => decide ((s.m.ctx 0).loam.nsets = 32) && decide ((s.m.ctx 0).loam.moving = some ⟨0, 2 ^ 26, 2 ^ 26⟩) &&
      decide ((s.m.entry 0 (130 + 512)).leader = 130 + 512)) = true := by decide +kernel

/-! ### Messages -/

/-- A message in flight to channel 3 of core 7 at generation 5, and the channel. -/
def msg (op retries : Nat) (e : ChanEntry) (n : Nat) (en : Bool := true) : State :=
  let s := onT base fun t => { t with phase := .sending { op := op, handle := 0x143007, words := [11, 22, 33, 44], retries := retries }, npc := 0x20000002, ctl := { t.ctl with trapVec := if en then 0x20001001 else 0 } }
  { s with m := { s.m with chans := [(64 * 7 + 3, { e := e, queue := List.replicate n ([1, 2, 3, 4], 77) })] } }

def ch : ChanEntry := { valid := true, gen := 5, ctx := 0, entry := 0x20003000, prio := 2, alloc := 64 }

theorem meets_MessageEvents : ((msg 0 0 ch 0).m.errs = [] ∧ (msg 0 0 ch 0).m.others = [] ∧ ((msg 0 0 ch 0).m.takeSerial 0 (clusterOf 7)).1 < 2 ^ 40 ∧
      ((0x143007 : Word).toNat % 4096, (0x143007 : Word).toNat / 4096 % 64, (0x143007 : Word).toNat / 2 ^ 18 % 2 ^ 24) = (7, 3, 5) ∧
      ((msg 0 0 ch 0).m.ctx 0).silt.room 32 = true ∧ (msg 0 16 ch 0).m.t.ctl.trapVec.getLsbD 0 = true ∧ (msg 0 16 ch 0).m.t.ctl.trapCode.inH = false ∧
      (msg 0 16 ch 0).m.t.region = none) ∧ ((msg 0 0 { ch with blocked := true } 256).m.chans.map fun p => p.2.queue.length) = [256] :=
  ⟨by decide +kernel, by decide +kernel⟩

/-- The message was taken, and the channel is as p says. -/
def taken (s : State) (p : State → Bool) : Bool := after (.messageArrival 1) s fun s1 => decide (s1.m.t = s.m.t.resume) && decide (s1.m.mem = s.m.mem) && p s1

/-- One new task of the channel, with its words and its sender. -/
def spawned (s1 : State) (ws : List Word) (from_ : Word) : Bool := match s1.m.others with
  | [y] => decide ((y.kind, y.pc, y.bound, y.prio) = (.message, 0x20003000, some 7, 2)) && decide (y.phase = .ready) &&
    decide (y.img.regs = ws.zipIdx.map (fun p => (p.2 + 1, ⟨p.1, .raw, none⟩)) ++ [(5, ⟨from_, .raw, none⟩)])
  | _ => false

/-- The message trapped. -/
def badMsg (s : State) (a : Word) : Bool := ends (.messageArrival 1) s { s with m := ({ s.m with t := { s.m.t with phase := .ready } } : Mach).raise 0x09 a 0 0 0 }

theorem test_message_events : taken (msg 0 0 ch 0) (fun s => spawned s [11, 22, 33, 44] 1) = true ∧
    taken (msg 0 0 { ch with blocked := true } 0) (fun s => decide ((Tab.look {} s.m.chans 451).queue = [([11, 22, 33, 44], 1)]) && decide (s.m.others = [])) = true ∧
    taken (msg 1 0 ch 0) (fun s => (Tab.look {} s.m.chans 451).e.blocked) = true ∧
    taken (msg 2 0 { ch with blocked := true } 1) (fun s => spawned s [1, 2, 3, 4] 77 && decide (Tab.look {} s.m.chans 451 = { e := ch, queue := [] })) = true ∧
    badMsg (msg 0 0 { ch with gen := 6 } 0) 0x143007 = true ∧ badMsg (msg 0 16 { ch with paged := true } 0) 0x8000000000143007 = true ∧
    ends (.messageArrival 1) (msg 0 15 { ch with blocked := true } 256) (onT (msg 0 0 { ch with blocked := true } 256) fun t =>
      { t with phase := .sending { op := 0, handle := 0x143007, words := [11, 22, 33, 44], retries := 16, backoff := true } }) = true ∧
    ends (.msendRetryTimer 1) (msg 0 0 ch 0) (msg 0 0 ch 0) = true ∧
    ends (.msendRetryTimer 1) (onT (msg 0 0 ch 0) fun t => { t with phase := .sending { op := 0, handle := 0x143007, words := [11, 22, 33, 44], backoff := true } }) (msg 0 0 ch 0) = true := by
  decide +kernel

/-! ### The log -/

/-- A snapshot of a window at a marker. -/
def snap1 (w seq : Nat) : Snap := ⟨w, seq, [{ base.m.t with pc := 0x20000abc }], [(9, { created := 4 })], { nsets := 16, boundary := some [4] }, [], [], [], [], []⟩

/-- Context 0's log changed; its halt complete or not. -/
def lg (f : Silt → Silt) (halted : Bool := false) (p : Phase := .ready) : State :=
  let s := onT base fun t => { t with phase := p, npc := 0x20000002 }
  { s with m := s.m.setCtx 0 fun x => { x with silt := f x.silt, halt := { x.halt with complete := halted, line := halted } } }

/-- A write's record at the second page's start. -/
def wrec (seq window : Nat) : SRec := { seq := seq, kind := .write, key := gkey 0, window := window, old := .bytes [7, 8] [] }

theorem meets_SiltEvents : (base.m.errs = [] ∧ base.m.weak = [] ∧ base.m.matrix = [] ∧ base.m.tasks = [base.m.t] ∧ base.m.t.phase ≠ .parked .commit ∧
      base.m.markerWaits 0 = false ∧ base.m.objects = [] ∧ (base.m.ctx 0).valid = true ∧ (base.m.ctx 0).killed = false ∧ (base.m.ctx 0).silt.room 32 = true ∧
      (base.m.ctx 0).silt.undone = [] ∧ (base.m.ctx 0).silt.rewound = none ∧ (base.m.ctx 0).silt.held = none ∧ (base.m.ctx 0).loam.entries = [] ∧
      (base.m.ctx 0).halt.errors = [] ∧ (base.m.ctx 0).uncorr = false ∧ base.sys.ring.length < 4095) ∧
    ((lg (fun s => { s with shedPolicy := true, current := 2 }) false (.waiting .silt)).m.siltWaits 0 = true ∧ (lg id).m.siltWaits 0 = false) ∧
    (((lg id true).m.ctx 0).halt.complete = true ∧ ((lg id true).m.ctx 0).isSealed = false ∧
      ((lg (fun s => { s with snaps := [snap1 1 0] })).m.ctx 0).silt.snap 1 = some (snap1 1 0) ∧ ((tc1 .complete []).m.entry 0 130).state = .complete) :=
  ⟨by decide +kernel, by decide +kernel, by decide +kernel⟩

/-- The context's log after an event, the memory unchanged. -/
def logs (i : Instr) (s : State) (p : State → Silt → Bool) : Bool := after i s fun s1 => decide (s1.m.mem = s.m.mem) && p s1 (s1.m.ctx 0).silt

/-- Old corrected errors in one region. -/
def worn : State := { base with sys := { base.sys with corrected := List.replicate 16 (0x40000000, 0) } }

theorem test_silt_events : logs (.windowMarker 0 5) (lg (fun s => { s with requests := [(1, 1), (3, 0)] }) false (.parked (.marker a2))) (fun s l =>
      decide ((l.current, l.requests, l.nextSeq) = (2, [], 2)) && decide (l.recs.map (fun r => (r.seq, r.kind, r.window, r.party, r.gid)) = [(1, .marker, 2, 1, 1)]) && decide (l.snaps.map (fun p => (p.window, p.seq)) = [(2, 1)]) &&
      decide (s.m.t.val a2 = 2) && decide (s.m.t.pc = 0x20000002) && decide ((6, 0) ∈ s.m.irqs)) = true ∧
    logs (.windowMarker 0 5) (lg id) (fun _ l => decide (l.recs.map (fun r => (r.party, r.gid)) = [(5, 0)])) = true ∧
    logs (.siltThreshold 0) (lg fun s => { s with thresh := 3, since := 8 }) (fun _ l => decide (l.requests = [(3, 0)])) = true ∧
    ends (.siltThreshold 0) (lg fun s => { s with thresh := 3, since := 7 }) (lg fun s => { s with thresh := 3, since := 7 }) = true ∧
    logs (.siltShed 0) (lg (fun s => { s with size := 10, shedPolicy := true, current := 2, recs := [wrec 1 1, wrec 3 2] }) false (.waiting .silt))
      (fun s l => decide ((l.horizon, l.shed, l.horiz, l.current) = (2, 1, true, 2)) && decide (l.recs = [wrec 3 2]) && decide (s.m.t.phase = .ready)) = true ∧
    after (.siltStall 0) (lg (fun s => { s with size := 10 }) false (.waiting .silt)) (fun s => decide (s.sys.ring.map (·.code) = [0x2005]) && decide ((4, 0) ∈ s.m.irqs)) = true ∧
    logs (.siltRegionEnlarge 0 200 false) (lg (fun s => { s with size := 10 }) false (.waiting .silt)) (fun s l => decide (l.size = 210) && decide (s.m.t.phase = .ready) && decide (s.m.t.pc = 0x20000000)) = true ∧
    after (.rstep 0 1) (lg (fun s => { s with full := true, recs := [wrec 1 1, wrec 2 1] }) true) (fun s => decide (s.m.mem = pokeMem base.m.mem (gkey 0) [7, 8]) &&
      decide ((s.m.ctx 0).silt.recs = [wrec 1 1]) && decide ((s.m.ctx 0).silt.undone = [⟨wrec 2 1, .bytes [0, 0] []⟩])) = true ∧
    ends (.rstep 0 1) (lg (fun s => { s with full := true, recs := [{ wrec 1 1 with kind := .external }] }) true) (lg (fun s => { s with full := true, recs := [{ wrec 1 1 with kind := .external }] }) true) = true ∧
    after (.rfwd 0 1) (lg (fun s => { s with undone := [⟨wrec 2 1, .bytes [5, 6] []⟩] }) true) (fun s => decide (s.m.mem = pokeMem base.m.mem (gkey 0) [5, 6]) && decide ((s.m.ctx 0).silt.recs = [wrec 2 1])) = true ∧
    after (.rwin 0 1) (lg (fun s => { s with current := 2, recs := [wrec 1 1, wrec 5 2], snaps := [snap1 1 3] }) true) (fun s => decide (s.m.mem = pokeMem base.m.mem (gkey 0) [7, 8]) &&
      decide (((s.m.ctx 0).silt.current, (s.m.ctx 0).silt.recs) = (1, [wrec 1 1])) && decide ((s.m.ctx 0).loam.boundary = some [4]) && decide ((s.m.find 1).map (fun t => (t.pc, t.halted)) = some (0x20000abc, true))) = true ∧
    after (.uncorrData 0 (.entry 130) 3) (tc1 .complete []) (fun s => decide (s.m.entry 0 130 = {}) && decide (s.sys.ring.map (·.code) = [0x5002])) = true ∧
    after (.uncorrData 0 (.log 0x40000000) 3) (lg id) (fun s => (s.m.ctx 0).killed && (s.m.ctx 0).halt.line) = true ∧
    after (.uncorrData 0 (.image 1 0x40000000 false) 3) (lg fun s => { s with snaps := [snap1 1 0] }) (fun s => (s.m.ctx 0).uncorr && decide (s.sys.ring.map (·.code) = [0x2002]) && decide ((s.m.find 1).map (fun t => (t.pc, t.halted)) = some (0x20000abc, false))) = true ∧
    after (.correctedMemoryError 0xB000 0x40001234 5) worn (fun s => decide (s.sys.ring.map (·.code) = [0x2001, 0x2004])) = true ∧
    logs (.checkpoint 0) (lg id) (fun _ l => decide (l.requests = [(4, 0)])) = true ∧
    after (.checkpointCopyEnd 0) (lg fun s => { s with held := some 1, pin := true, snaps := [snap1 1 0] }) (fun s => decide (s.sys.checkpoints.map (fun k => (k.ctx, k.window, k.snap)) = [(0, 1, snap1 1 0)]) && !(s.m.ctx 0).silt.pin) = true ∧
    ((lg fun s => { s with recs := [wrec 1 1, wrec 2 1] }).m.byteAt 0 1 (gkey 1), (lg fun s => { s with recs := [wrec 1 1] }).m.byteAt 0 1 (gkey 1)) = (8, base.m.byte (gkey 1)) := by
  decide +kernel

/-! ### Halts -/

/-- Context 0's halt as given, its stop area of 16 records. -/
def hl (h : Halt) (f : Task → Task := id) : State := let s := onT base f
  { s with m := { (s.m.setCtx 0 fun x => { x with halt := h, stopCap := 16 }) with cycle := 50 } }

def up : Halt := { line := true, raisedAt := 40 }

/-- The same, with an operation of the context active at the copy engine. -/
def hlEng : State := { hl up with m := { (hl up).m with engines := [(4096 * 3, { active := some { op5 with part := some (0, 8) } })] } }

/-- A task that a watchpoint watches for. -/
def watched : State := hl {} fun t => { t with ctl := { t.ctl with wpAddr := 0x20010000, wpMask := 1, wpCtl := 0x3F } }

theorem meets_HaltEvents : (base.m.errs = [] ∧ base.m.weak = [] ∧ base.m.matrix = [] ∧ base.m.tasks = [base.m.t] ∧ base.m.t.phase ≠ .parked .commit ∧ base.m.others = [] ∧
      base.m.t.seat = some (0, 0) ∧ base.m.t.phase = .ready ∧ base.m.t.region = none ∧ base.m.t.answered = false ∧ base.m.t.halted = false) ∧
    (((hl {}).m.ctx 0).valid = true ∧ ((hl {}).m.ctx 0).isSealed = false ∧ ((hl up).m.ctx 0).stopCount + 1 < ((hl up).m.ctx 0).stopCap ∧
      (hlEng.m.eng cp).active = some { op5 with part := some (0, 8) } ∧ (hlEng.m.eng cp).streams = []) ∧
    ((hl up (fun t => { t with halted := true })).m.unstopped 0 = [] ∧ up.errors = [] ∧ ((hl up).m.tasks.any fun t => t.lives 0 && t.seat.isSome && !t.halted) = true) ∧
    (((hl { up with complete := true }).m.ctx 0).loam.entries = [] ∧ ((hl { up with complete := true }).m.ctx 0).killed = false ∧
      ((hl { up with complete := true }).m.ctx 0).silt.undone = [] ∧ ((hl { up with complete := true }).m.ctx 0).silt.rewound = none ∧
      ((hl { up with complete := true }).m.ctx 0).silt.edited = false ∧ ((hl { up with complete := true }).m.ctx 0).silt.room 32 = true) ∧
    ((hl {} fun t => { t with seat := none }).m.busyUnits 0 = false ∧ ((hl {} fun t => { t with seat := none }).m.boundTo (hl {} fun t => { t with seat := none }).m.t).isNone ∧
      watched.m.t.watchEn = true ∧ 1 < (watched.m.ctx 0).stopCap ∧ 0x1000 / 4096 = 1 ∧ 0x3000 / 4096 ≠ 1) :=
  ⟨by decide +kernel, by decide +kernel, by decide +kernel, by decide +kernel, by decide +kernel⟩

theorem test_halt_events : ends (.haltLine 0 true) (hl {}) (hl { line := true, dbg := true, raisedAt := 50 }) = true ∧ ends (.haltLine 0 false) (hl {}) (hl { line := true, raisedAt := 50 }) = true ∧
    ends (.haltLine 1 false) (hl {}) (hl {}) = true ∧
    after (.unitStop (.core 0) 0) (hl up fun t => { t with workId := 9, fol := [{}] }) (fun s => decide ((s.m.ctx 0).halt = { up with stopped := [.core 0] }) && decide (s.m.t = { base.m.t with workId := 9, fol := [{}], halted := true }) &&
      decide ((s.m.ctx 0).stops = [.core 1 0 0 0 0 1 0x20000000 0 50 9 1 256 4 (base.m.imageAt 0 0 0)])) = true ∧
    after (.unitStop (.core 0) 0) (hl up fun t => { t with stop := some ⟨0, 7, 0x30, 0x20000006⟩ }) (fun s => decide ((s.m.ctx 0).stops = [.core 0 7 0 0 0 1 0x20000006 0x30 50 0 1 256 0 (base.m.imageAt 0 0 0)])) = true ∧
    after (.unitStop (.eng cp) 0) hlEng (fun s => decide ((s.m.eng cp).active = none) && decide ((s.m.eng cp).saved = [op5]) && decide ((s.m.eng cp).stopped = [0]) && decide ((s.m.ctx 0).halt.stopped = [.eng cp])) = true ∧
    after (.haltComplete 0) (hl up fun t => { t with halted := true }) (fun s => decide ((s.m.ctx 0).halt = { up with complete := true }) && decide (s.m.irqs = [(2, 0)])) = true ∧
    ends (.haltComplete 0) (hl up) (hl up) = true ∧
    after (.contextResume 0 {}) (hl { up with complete := true } fun t => { t with halted := true, skid := 3, struck := true }) (fun s => decide ((s.m.ctx 0).halt = {}) && decide (s.m.t = base.m.t) && decide (s.sys = base.sys)) = true ∧
    after (.contextResume 0 { mem := [(0x50000000, 7)] }) (hl { up with complete := true }) (fun s => decide ((s.m.ctx 0).halt = {}) && decide (s.m.mem = pokeMem base.m.mem 0x50000000 [7])) = true ∧
    ends (.contextResume 0 {}) (hl up) (hl up) = true ∧
    after (.preempt ⟨[1], none⟩) (hl {} fun t => { t with fol := [{}] }) (fun s => decide (s.m.t.seat = none) && decide (s.m.t.regang = 2) && decide (s.m.t.phase = .ready) && decide (s.m.t.pc = 0x20000000)) = true ∧
    ends (.preempt ⟨[1], none⟩) (hl up) (hl up) = true ∧ ends (.preempt ⟨[1], some 999⟩) (hl {} fun t => { t with seat := none }) (hl {} fun t => { t with seat := none }) = true ∧
    after (.contextSwitch 0 3) (hl {} fun t => { t with seat := none }) (fun s => (s.m.ctx 0).out && decide (s.m.ctx 3 = {}) && decide (s.m.t = { base.m.t with seat := none })) = true ∧
    after (.watchStrike 1 0x3000 0 0x20010000 8 0x55 6) watched (fun s => decide ((s.m.ctx 0).halt = { line := true, origin := some 1, raisedAt := 50, strikers := [(0x3000, 0)] }) &&
      decide ((s.m.ctx 0).stops = [.watch true 0x3000 8 0 1 0 0x20010000 50 0x55 1 0 6])) = true ∧
    ends (.watchStrike 1 0x3000 0 0x20010000 8 0x55 6) (hl {}) (hl {}) = true ∧
    ends (.step 1) (hl {} fun t => { t with stepDue := true }) (hl { line := true, origin := some 1, raisedAt := 50 } fun t => { t with stop := some ⟨2, 0, 0, 0x20000000⟩ }) = true ∧
    ends (.step 1) (hl {}) (hl {}) = true := by decide +kernel

/-! ### Power -/

/-- A block's power state as given; no task. -/
def pw (b : Block) (p : PState4) : State := { base with m := { base.m with t := { phase := .ended } }, sys := base.sys.setPower b p }

/-- Core 3 with a byte in each of its arrays, and a byte elsewhere. -/
def pwFull : State := withMem (withMem (withMem (pw (.core 3) .retain) (scratchKey false 3 5) [1]) (actKey 3 0) [2]) (gkey 0) [3]

/-- No context owns the core. -/
def pwFree : State := { pwFull with m := { pwFull.m with parts := [] } }

theorem meets_PowerEvents : (base.m.errs = [] ∧ base.sys.ring.length < 4096 ∧ (pw (.core 3) .run).m.blockIdle (.core 3) = true ∧ base.m.blockIdle (.core 0) = false ∧
      (pw (.port 2) .run).m.blockIdle (.port 2) = true ∧ (pw (.port 2) .run).sys.pstate (.port 2) = .run ∧ pwFree.m.blockLive (.core 3) = false ∧ pwFull.m.blockLive (.core 3) = true) ∧
    ((pw (.core 3) .doze).sys.pstate (.core 3) = .doze ∧ (hl up).m.haltsAt (.core 0) = true ∧ base.m.haltsAt (.core 0) = false ∧ blockUnit (.core 0) ∉ base.sys.stretched) :=
  ⟨by decide +kernel, by decide +kernel⟩

/-- A block's state alone has changed. -/
def powers (i : Instr) (b : Block) (p q : PState4) : Bool := ends i (pw b p) (pw b q)

theorem test_power_events : ends (.linkGridDump [(5, 6)] 77 true) (hl {}) { hl {} with sys := { base.sys with dumpNo := 1, gridAt := 50, grid := [⟨1, 50, 50, 77, 0, 0, [(5, 6)]⟩] } } = true ∧
    after (.linkGridDump [(5, 6)] 77 false) (hl {}) (fun s => decide ((s.sys.dumpLost, s.sys.dumpNo, s.sys.grid) = (1, 0, []))) = true ∧
    after (.energyInterval [⟨0, 5, 30⟩] [⟨100, [(0, 3), (7, 1)], [(0, 5, 1), (0, 6, 2)]⟩, ⟨8, [], []⟩]) (lr .running id)
      (fun s => decide (((s.m.launch 0 5).energy, (s.m.launch 0 5).sharedUj, (s.m.launch 0 6).energy, s.sys.unheldUj) = (55, 25, 50, 8))) = true ∧
    powers (.powerDoze (.core 3)) (.core 3) .run .doze = true ∧ powers (.powerDoze (.port 2)) (.port 2) .run .run = true ∧ powers (.powerRetain (.core 3)) (.core 3) .doze .retain = true ∧
    powers (.powerRetain (.core 3)) (.core 3) .run .run = true ∧ powers (.powerRetain (.port 2)) (.port 2) .run .retain = true ∧ ends (.powerDoze (.core 0)) base base = true ∧
    ends (.powerOff (.core 3)) pwFull pwFull = true ∧ after (.powerOff (.core 3)) pwFree (fun s => decide (s.sys.pstate (.core 3) = .off) && decide (s.m.mem = pokeMem base.m.mem (gkey 0) [3])) = true ∧
    powers (.powerWake (.core 3)) (.core 3) .off .run = true ∧ powers (.wakeTimeout (.core 3)) (.core 3) .run .run = true ∧
    after (.wakeTimeout (.core 3)) (pw (.core 3) .doze) (fun s => decide (s.sys.ring.map (fun r => (r.code, r.unit)) = [(0x7004, blockUnit (.core 3))])) = true ∧
    after (.clockStretch (.core 0) true 90) base (fun s => decide (s.sys.ring.map (·.code) = [0x7001]) && decide (s.m.t = base.m.t)) = true ∧
    ends (.clockStretch (.core 0) true 90) (hl up) (hl up) = true ∧ ends (.clockStretch (.core 0) false 90) base base = true := by decide +kernel

/-! ### Resets -/

/-- A running module with its kernel, two boots on; re-adoption as given. -/
def rs (f : Sys → Sys) : State := { hl {} with sys := f { base.sys with boots := 2 } }

theorem meets_ResetEvents : (base.m.errs = [] ∧ base.sys.ring.length < 4096 ∧ base.sys.failures < 3 ∧ base.sys.kernel = true ∧ base.sys.readopt = [] ∧ base.sys.booted = true ∧
      (rs fun y => { y with booted := false, restarting := true }).sys.restarting = true ∧ 3 ≤ (rs fun y => { y with failures := 3 }).sys.failures) ∧
    ((rs fun y => { y with readopt := [0] }).sys.readopt ≠ [] ∧ ((rs id).m.ctx 0).valid = true ∧ ((rs id).m.ctx 0).digest ≠ 5 ∧
      (let x := (hl { up with complete := true }).m.ctx 0; x.digest = 0 ∧ x.loam.entries = [] ∧ x.killed = false ∧ x.silt.undone = [] ∧ x.silt.edited = false)) :=
  ⟨by decide +kernel, by decide +kernel⟩

/-- The module has been reset, with its cause, and the record of the code where HBM has survived. -/
def resetB (i : Instr) (s : State) (cause code : Nat) (hbm : Bool) : Bool := after i s fun s1 => !s1.sys.booted && !s1.sys.kernel && decide (s1.sys.boots = 3) &&
  decide (s1.sys.lifecycle = .provisioned) && decide (s1.m.t.phase = .ended) && decide (s1.m.others = []) && decide (s1.sys.resets.map (fun r => (r.cause, r.boot, r.time)) = [(cause, 2, 50)]) &&
  decide (s1.m.mem = if hbm then base.m.mem else []) && !(s1.m.ctx 0).valid && decide (s1.sys.ring.map (·.code) = if hbm then [code] else [])

theorem test_reset_events : resetB (.thermalTrip 5 130) (rs id) 2 0x7002 false = true ∧ resetB (.supplyFault 3) (rs id) 7 0x7003 true = true ∧ resetB (.kernelMemoryError 0x40000000 9) (rs id) 7 0x2006 true = true ∧
    after (.powerOnReset 0) (rs id) (fun s => s.sys.booted && s.sys.kernel && decide ((s.m.mem, s.m.ctxs, s.m.cycle) = ([], [], 0)) && decide (s.sys.boots = 3) && decide (s.sys.resets.map (·.cause) = [1])) = true ∧
    after (.powerOnReset 0) (rs fun y => { y with booted := false, restarting := true, lifecycle := .rma }) (fun s => s.sys.booted && !s.sys.kernel && decide (s.m.mem = base.m.mem) && decide (s.sys.boots = 2)) = true ∧
    after (.powerOnReset 4) (rs fun y => { y with failures := 2 }) (fun s => !s.sys.booted && decide (s.sys.failures = 3)) = true ∧
    ends (.powerOnReset 0) (rs fun y => { y with failures := 3 }) (rs fun y => { y with failures := 3 }) = true ∧ ends (.watchdogExpiry true) (rs fun y => { y with kernel := false }) (rs fun y => { y with kernel := false }) = true ∧
    after (.watchdogExpiry true) (rs id) (fun s => decide (s.sys.readopt = [0]) && (s.m.ctx 0).halt.line && decide (s.m.mem = base.m.mem) && decide (s.sys.boots = 3) && decide (s.sys.ring.map (·.code) = [0x9001])) = true ∧
    resetB (.watchdogExpiry false) (rs fun y => { y with readopt := [0] }) 3 0x9001 true = true ∧
    ends (.registryReadopt 0 0) (rs id) (rs id) = true ∧ ends (.registryReadopt 0 0) (rs fun y => { y with readopt := [0] }) (rs fun y => { y with readopt := [0] }) = true ∧
    after (.registryReadopt 0 5) (rs fun y => { y with readopt := [0] }) (fun s => !(s.m.ctx 0).valid && decide (s.sys.readopt = []) && decide (0x8003 ∈ s.sys.ring.map (·.code))) = true ∧
    after (.registryReadopt 0 0) { hl { up with complete := true } with sys := { base.sys with readopt := [0] } } (fun s => decide ((s.m.ctx 0).halt = {}) && decide (s.sys.readopt = [])) = true := by decide +kernel

/-! ### Contexts -/

/-- A context to create, as 5, in partition 2, with a byte of code; a killed context waits for its dump. -/
def ci5 (fence : Option (List Nat × List Nat)) : CtxInit := { ctx := 5, part := 2, fence := fence, root := 0x100000, siltSize := 4096, siltCtl := 0x11, loam := 0x60000000, loamVa := 0x3000, nsets := 16, ansCells := 3, keyCells := 4, images := 0x68000000, frames := 8, work := { mem := [(0x50000000, 7)] } }

/-- No context is valid. -/
def noCtx : State := { base with m := { base.m with ctxs := [] } }

def dump1 : Dump := { ctx := 3, images := [], silt := {} }
def dumps1 : State := { base with sys := { base.sys with dumpQueue := [dump1] } }

theorem meets_ContextEvents : (base.m.errs = [] ∧ base.sys.ring.length < 4096 ∧ base.sys.kernel = true ∧ (ci5 none).ctx ≤ 255 ∧ (ci5 none).part ≤ 7 ∧ (base.m.ctx 5).valid = false ∧
      (ci5 none).work.arms = [] ∧ soundInit (ci5 none) = true ∧ soundInit { ci5 none with nsets := 17 } = false ∧ (∀ q ∈ noCtx.m.ctxs, q.2.valid = false) ∧ (base.m.ctx 0).valid = true) ∧
    Config.hmac 5 (ctxImage (ci5 none) none) + 1 ≠ Config.hmac 5 (ctxImage (ci5 none) none) ∧ base.sys.lastCheckpoint 5 = none ∧
    ((∀ k ∈ base.sys.checkpoints, k.ctx ≠ 5) ∧ dumps1.sys.dumpQueue = [dump1] ∧ Block.core 0 ∉ base.sys.offline ∧ base.m.blockCtxs (.core 0) = [0]) :=
  ⟨by decide +kernel, by omega, by decide +kernel, by decide +kernel⟩

/-- Context 5 stands created. -/
def createdB (s1 : State) : Bool := let x := s1.m.ctx 5
  x.valid && decide (x.halt = { line := true, complete := true }) && decide ((x.part, x.root) = (2, 0x100000)) && decide (x.silt.recs = []) && decide ((x.silt.size, x.silt.full, x.silt.current) = (4096, true, 1)) &&
  decide ((x.loam.nsets, x.loam.ansFree, x.loam.keyFree, x.loam.va) = (16, 3, 4, 0x3000)) && decide ((0x68000000, 0x68000000 + 8 * 0x900 * 8) ∈ x.guards) && decide (s1.m.mem = pokeMem base.m.mem 0x50000000 [7])

theorem test_context_events : after (.contextCreate (ci5 none)) base (fun s => createdB s && decide (s.m.t = base.m.t) && decide (s.m.ctx 0 = base.m.ctx 0)) = true ∧
    after (.contextCreate (ci5 (some ([4, 600], [3])))) noCtx (fun s => createdB s && decide ((s.m.part 2).clusters = [4]) && decide ((s.m.part 2).hbmStacks = [3])) = true ∧
    ends (.contextCreate { ci5 none with ctx := 0 }) base base = true ∧ ends (.contextCreate { ci5 none with ctx := 256 }) base base = true ∧ ends (.contextCreate { ci5 none with nsets := 17 }) base base = true ∧ ends (.checkpointRestore { ci5 none with ctx := 0 } 0) base base = true ∧
    ends (.killContext 5) base base = true ∧
    after (.killContext 0) base (fun s => !(s.m.ctx 0).valid && decide (s.m.tasks.all fun t => t.phase = .ended) && decide (s.sys.dumpQueue.map (fun d => (d.ctx, d.images)) = [(0, [base.m.t])])) = true ∧
    ends (.dump 3 none) dumps1 { base with sys := { base.sys with dumps := [dump1] } } = true ∧ ends (.dump 4 none) dumps1 dumps1 = true ∧
    after (.dump 3 (some (64, 0x2002))) dumps1 (fun s => decide (s.sys.dumps.map (·.ended) = [some (64, 0x2002)]) && decide (s.sys.ring.map (·.code) = [0x2002])) = true ∧
    after (.offlineBlock (.core 0)) base (fun s => !(s.m.ctx 0).valid && decide ((s.m.part 0).fenced = [0]) && decide (s.sys.offline = [.core 0])) = true ∧
    after (.offlineBlock (.slice 3)) base (fun s => decide ((s.m.part 0).hbmStacks = [])) = true ∧
    after (.offlineBlock (.port 3)) { base with m := { base.m with portsUp := [2, 3] } } (fun s => decide (s.m.portsUp = [2])) = true := by decide +kernel

/-- What restores a context once its HMAC matches. -/
theorem restoreCtx_matching {s : State} {ci : CtxInit} (h : (s.m.ctx ci.ctx).valid = false) (p : State → Bool)
    (hp : p (let s1 := s.createCtx ci; if (s1.m.ctx ci.ctx).valid then s1.withSnapshot ci.ctx else s1).flushErrs = true) :
    after (.checkpointRestore ci (Config.hmac ci.ctx (ctxImage ci (s.sys.lastCheckpoint ci.ctx)))) s p = true := by
  simpa [after, exec, execCheckpointRestore, eventS, State.restoreCtx, h] using hp

theorem test_restore : after (.checkpointRestore (ci5 none) (Config.hmac (ci5 none).ctx (ctxImage (ci5 none) (base.sys.lastCheckpoint (ci5 none).ctx)))) base createdB = true :=
  restoreCtx_matching (by decide +kernel) _ (by decide +kernel)

/-- A checkpoint of context 5 that has left the module. -/
def kept : State := { base with m := { base.m with mem := [] }, sys := { base.sys with checkpoints := [⟨5, 3, [(0x50000008, 9)], { snap1 3 0 with pool := [(2, {})] }⟩] } }

theorem test_restore_kept : after (.checkpointRestore (ci5 none) (Config.hmac (ci5 none).ctx (ctxImage (ci5 none) (kept.sys.lastCheckpoint (ci5 none).ctx)))) kept (fun s =>
    (s.m.ctx 5).valid && decide ((s.m.ctx 5).halt = { line := true, complete := true }) && decide ((s.m.ctx 5).pool = [(2, {})]) && decide (s.m.byte 0x50000008 = 9)) = true :=
  restoreCtx_matching (by decide +kernel) _ (by decide +kernel)

/-! ### Security -/

/-- A session's grants, context 0's halt complete or not. -/
def dbg (gs : List Grant) (h : Halt := { up with complete := true }) : State := { hl h with sys := { base.sys with grants := gs } }

def gD1 : Grant := ⟨4, .d1, 0⟩
def gD2 : Grant := ⟨4, .d2, 0⟩

/-- The module in a state of its lifecycle. -/
def life (l : Lifecycle) : State := { base with sys := { base.sys with lifecycle := l } }

/-- Context 0 sealed. -/
def sealedDbg (gs : List Grant) : State := { dbg gs with m := (dbg gs).m.setCtx 0 fun x => { x with isSealed := true } }

theorem meets_SecurityEvents : ((dbg []).m.errs = [] ∧ (dbg []).sys.ring.length < 4096 ∧ State.reset.sys.lifecycle = .blank ∧ base.sys.lifecycle = .provisioned ∧
      (life .locked).sys.lifecycle = .locked ∧ (life .rma).sys.lifecycle = .rma ∧ base.sys.kernel = true ∧ State.reset.sys.kernel = false) ∧
    ((∃ g ∈ (dbg [gD1]).sys.grants, g.ses = 4 ∧ g.lv = .d1 ∧ g.ctx = 0) ∧ (∀ g ∈ (dbg [gD1]).sys.grants, g.ses = 4 → g.lv ≠ .d2) ∧ (∃ g ∈ (dbg [gD2]).sys.grants, g.ses = 4 ∧ g.lv = .d2) ∧
      ((sealedDbg [gD2]).m.ctx 0).isSealed = true ∧ ((dbg [gD1]).m.ctx 0).isSealed = false ∧ (dbg [gD1]).sys.pstate (.core 0) = .retain ∧
      ({ dbg [gD1] with sys := (dbg [gD1]).sys.setPower (.core 0) .off } : State).sys.pstate (.core 0) = .off) ∧
    (((dbg [gD1]).m.ctx 0).valid = true ∧ ((dbg [gD1]).m.ctx 0).halt.complete = true ∧ ((dbg [gD1] {}).m.ctx 0).halt.line = false ∧ ctxOf base.m.t.gid = 0 ∧ base.m.t.phase ≠ .ended ∧
      ((dbg [gD1]).m.ctx 0).silt.stepsOpen = false ∧ ((dbg [gD1]).m.ctx 0).silt.undone = [] ∧ ((dbg [gD1]).m.ctx 0).silt.rewound = none ∧ ((dbg [gD1]).m.ctx 0).silt.edited = false ∧
      ((dbg [gD1]).m.ctx 0).killed = false ∧ ((dbg [gD1]).m.ctx 0).loam.entries = []) :=
  ⟨by decide +kernel, by decide +kernel, by decide +kernel⟩

/-- A request is refused with a record; a request acts, core 0 awake. -/
def refusedB (i : Instr) (s : State) : Bool := after i s fun s1 => decide (s1.sys.ring.map (·.code) = [0x8001]) && decide (s1.m.ctxs = s.m.ctxs) && decide (s1.m.t = s.m.t) && decide (s1.sys.grants = s.sys.grants)
def actsB (i : Instr) (s : State) (p : State → Bool) : Bool := after i s fun s1 => decide (s1.sys.pstate (.core 0) = .run) && decide (s1.sys.ring = s.sys.ring) && p s1

theorem test_security_events : ends (.lifecycleTransition .provisioned 0 0) (life .blank) base = true ∧ ends (.lifecycleTransition .locked 0 0) (life .blank) (life .blank) = true ∧
    ends (.lifecycleTransition .locked 0 0) base (life .locked) = true ∧ ends (.lifecycleTransition .blank 0 0) base base = true ∧ ends (.lifecycleTransition .provisioned 0 0) (life .locked) (life .locked) = true ∧
    ends (.lifecycleTransition .rma 0 0) (life .rma) (life .rma) = true ∧ after (.attestation 0 99) base (fun s => decide (s.sys.reports.map (·.1) = [99]) && decide (s.m = base.m)) = true ∧
    ends (.attestation 0 99) State.reset State.reset = true ∧ ends (.debugGrant 4 .d0 0 0) base base = true ∧ refusedB (.debugGrant 4 .d1 0 0) (life .blank) = true ∧ refusedB (.debugGrant 4 .d1 9 0) base = true ∧
    ends (.debugGrant 4 .d2 7 0) (life .rma) { life .rma with sys := { (life .rma).sys with grants := [gD2] } } = true ∧
    ends (.debugRequest 4 0 .halt (.core 0)) (dbg []) (dbg []) = true ∧ refusedB (.debugRequest 4 1 .resume (.core 0)) (dbg [gD1]) = true ∧ refusedB (.debugRequest 4 0 .reset (.core 0)) (dbg [gD1]) = true ∧
    refusedB (.debugRequest 4 0 .halt (.core 0)) (sealedDbg [gD1]) = true ∧ refusedB (.debugRequest 4 0 .halt (.core 0)) (sealedDbg [gD2]) = true ∧
    after (.debugRequest 4 0 .reset (.core 0)) (sealedDbg [gD2]) (fun s => !s.sys.booted && decide (s.m.others = [])) = true ∧
    ends (.debugRequest 4 0 .resume (.core 0)) { dbg [gD1] with sys := (dbg [gD1]).sys.setPower (.core 0) .off } { dbg [gD1] with sys := (dbg [gD1]).sys.setPower (.core 0) .off } = true ∧
    actsB (.debugRequest 4 0 .halt (.core 0)) (dbg [gD1] {}) (fun s => decide ((s.m.ctx 0).halt = { line := true, dbg := true, raisedAt := 50 })) = true ∧
    actsB (.debugRequest 4 0 (.setBreak 3 0x20000007 9 true) (.core 0)) (dbg [gD2]) (fun s => decide ((s.m.ctx 0).breaks = [(3, ⟨0x20000006, 9, true⟩)])) = true ∧
    actsB (.debugRequest 4 0 (.setStep 1 0xC000000020000007) (.core 0)) (dbg [gD1]) (fun s => decide (s.m.t = { base.m.t with ctl := { base.m.t.ctl with stepCtl := 0xC000000020000006 } })) = true ∧
    actsB (.debugRequest 4 0 (.setWatch 1 0x2001007F 5 0x3F) (.core 0)) (dbg [gD1]) (fun s => decide (s.m.t.ctl = { base.m.t.ctl with wpAddr := 0x20010040, wpMask := 5, wpCtl := 0x3D })) = true ∧
    actsB (.debugRequest 4 0 (.editReg 1 0 (.reg 4 77 .i32)) (.core 0)) (dbg [gD1]) (fun s => decide (s.m.t.img.regs = [(4, ⟨77, .i32, none⟩)])) = true ∧ actsB (.debugRequest 4 0 (.editMem (gkey 0) 5) (.core 0)) (dbg [gD1]) (fun s => decide (s.m.mem = pokeMem base.m.mem (gkey 0) [5])) = true ∧
    actsB (.debugRequest 4 0 (.siltLevel true) (.core 0)) (dbg [gD1]) (fun s => (s.m.ctx 0).silt.full) = true ∧ actsB (.debugRequest 4 0 .resume (.core 0)) (dbg [gD1]) (fun s => decide ((s.m.ctx 0).halt = {})) = true ∧
    actsB (.debugRequest 4 0 (.readTask 1) (.core 0)) (dbg [gD1]) (fun s => decide (s.m = (dbg [gD1]).m)) = true ∧ actsB (.debugRequest 4 0 .resume (.core 0)) (dbg [gD1] up) (fun s => decide (s.m = (dbg [gD1] up).m)) = true := by decide +kernel

/-! ### Ports -/

/-- Port 3 up, port 4 training; context 0 reached through port 3's first import entry; a group with a member over port 3. -/
def pt (e : Import) : State := { base with m := { (base.m.setCtx 0 fun x => { x with groups := [(6, [⟨[3], 1⟩])] }) with portsUp := [3], portsTrain := [4], rootsUp := [2], imports := [(192, e)], cycle := 50 } }

def im (w a : Bool) : Import := { base := 0x40010000, limit := 0x40010100, r := true, w := w, a := a, ctx := 0 }

/-- A read of root-port space waits. -/
def rootWait : State := onT (pt {}) fun t => { t with phase := .parked (.root 2 0x30000000) }

/-- The log of context 0 is full. -/
def ptFull : State := { pt {} with m := (pt {}).m.setCtx 0 fun x => { x with silt := { x.silt with size := 16 } } }

theorem meets_PortEvents : ((pt {}).m.errs = [] ∧ (pt {}).sys.ring.length < 4096 ∧ 3 ∈ (pt {}).m.portsUp ∧ 5 ∉ (pt {}).m.portsUp ∧ 5 ∉ (pt {}).m.portsTrain ∧ (pt {}).m.ctxs.map (·.1) = [0] ∧
      ((pt {}).m.ctx 0).valid = true ∧ (pt {}).sys.booted = true ∧ Block.port 4 ∉ (pt {}).sys.offline) ∧
    ((pt {}).m.importFor 3 0x40010000 (.load 8) = none ∧ Tab.look {} (pt (im true true)).m.imports (64 * 3 + 0) = im true true ∧
      (pt (im false true)).m.importFor 3 0x40010008 (.store [1, 2, 3, 4, 5, 6, 7, 8]) = none ∧ ((pt {}).m.ctx 0).silt.room 96 = true ∧ (ptFull.m.ctx 0).silt.room 32 = false ∧
      2 ∈ (pt {}).m.rootsUp ∧ 1 ∉ (pt {}).m.rootsUp ∧ rootWait.m.t.region = none ∧ rootWait.m.t.ctl.trapCode.inH = false ∧ rootWait.m.others = []) ∧
    ({ base with sys := { base.sys with msix := List.replicate 4096 0 } } : State).sys.msix.length = 4096 :=
  ⟨by decide +kernel, by decide +kernel, List.length_replicate⟩

/-- An event leaves one error record, of a code and a unit, and nothing else. -/
def notes (i : Instr) (s : State) (code unit : Nat) : Bool := after i s fun s1 => decide (s1.sys.ring.map (fun r => (r.code, r.unit)) = [(code, unit)]) && decide (s1.m.mem = s.m.mem) && decide (s1.m.t = s.m.t) && decide (s1.m.ctxs = s.m.ctxs)

/-- A foreign write has been made, with its mark. -/
def marks (i : Instr) (s : State) (bs : List Byte) : Bool := after i s fun s1 => decide (s1.m.mem = pokeMem s.m.mem (gkey 8) bs) && decide ((s1.m.ctx 0).silt.lastExt = 1) &&
  decide ((s1.m.ctx 0).silt.recs.map (fun r => (r.kind, r.key)) = [(.external, gkey 8)]) && decide (s1.sys = s.sys)

/-- A read outside the module has failed. -/
def failsRoot (i : Instr) (roots : List Nat) : Bool := after i rootWait fun s => decide (s.m.t.phase = .waiting (.fault 0 0 7 0x30000000)) && decide (s.m.t.pc = rootWait.m.t.pc) && decide (s.m.mem = rootWait.m.mem) &&
  decide (s.sys.ring.map (fun r => (r.code, r.unit)) = [(0x9003, 0xD002)]) && decide (s.m.rootsUp = roots)

theorem test_port_events : notes (.rinairFlitError 3) (pt {}) 0x4001 0xA003 = true ∧ ends (.portRetrain 3) (pt {}) { pt {} with m := { (pt {}).m with portsUp := [], portsTrain := [4, 3] } } = true ∧
    ends (.portRetrain 5) (pt {}) (pt {}) = true ∧ ends (.portDown 5) (pt {}) (pt {}) = true ∧
    after (.portDown 3) (pt {}) (fun s => decide ((s.m.portsUp, s.m.portsTrain) = ([], [4])) && decide ((s.m.ctx 0).deadGroups = [6]) && decide (s.sys.ring.map (·.code) = [0x4002])) = true ∧
    after (.portUp 4 true) (pt {}) (fun s => decide ((s.m.portsUp, s.m.portsTrain, s.sys.portKeys) = ([3, 4], [], [4]))) = true ∧ notes (.portUp 4 false) (pt {}) 0x8002 0xA004 = true ∧
    ends (.portUp 3 true) (pt {}) (pt {}) = true ∧ ends (.portUp 16 true) (pt {}) (pt {}) = true ∧ ends (.remoteAccessArrival 3 0x40010000 (.load 8)) (pt {}) (pt {}) = true ∧
    marks (.remoteAccessArrival 3 (gkey 8) (.store [1, 2, 3, 4, 5, 6, 7, 8])) (pt (im true false)) [1, 2, 3, 4, 5, 6, 7, 8] = true ∧
    ends (.remoteAccessArrival 3 (gkey 8) (.store [1, 2, 3, 4, 5, 6, 7, 8])) (pt (im false true)) (pt (im false true)) = true ∧
    marks (.remoteAccessArrival 3 (gkey 8) (.atomic .add 8 0xFF)) (withMem (pt (im false true)) (gkey 8) [2]) [1, 1] = true ∧ marks (.remoteAccessArrival 3 (gkey 8) (.atomic (.max false) 4 5)) (withMem (pt (im false true)) (gkey 8) [2, 0, 0, 0x80]) [5, 0, 0, 0] = true ∧
    ends (.remoteAccessArrival 3 (gkey 8) (.atomic (.cas 3) 4 5)) (withMem (pt (im false true)) (gkey 8) [2]) (withMem (pt (im false true)) (gkey 8) [2]) = true ∧ ends (.remoteAccessArrival 3 (gkey 8) (.load 8)) (pt (im true true)) (pt (im true true)) = true ∧
    ends (.msiXInterrupt 5) base { base with sys := { base.sys with msix := [5] } } = true ∧
    after (.dmaWrite 2 (gkey 8) [1, 2] none) (pt {}) (fun s => decide (s.m.mem = pokeMem base.m.mem (gkey 8) [1, 2]) && decide (s.m.ctxs = (pt {}).m.ctxs) && decide (s.sys = base.sys)) = true ∧
    marks (.dmaWrite 2 (gkey 8) [1, 2] (some 0)) (pt {}) [1, 2] = true ∧
    after (.dmaWrite 2 (gkey 8) [1, 2] (some 0)) ptFull (fun s => decide (s.m.mem = ptFull.m.mem) && (s.m.ctx 0).silt.starved) = true ∧ failsRoot (.completionTimeout 1) [2] = true ∧ failsRoot (.surpriseRemoval 2) [] = true ∧ ends (.surpriseRemoval 1) (pt {}) (pt {}) = true ∧
    ends (.hotPlug 1) (pt {}) { pt {} with m := { (pt {}).m with rootsUp := [2, 1] } } = true ∧ notes (.aerError 1 true 5) (pt {}) 0x9003 0xD001 = true ∧ notes (.aerError 1 false 5) (pt {}) 0x9002 0xD001 = true ∧
    notes (.shaleFlitError 9 2) (pt {}) 0x3001 0x9009 = true ∧ notes (.shaleEndpointFailure 9) (pt {}) 0x3002 0x9009 = true := by decide +kernel

/-! ### Access faults -/

/-- The page at 0x20000000 with its attributes as given; core 9 belongs to no partition. -/
def af (attr : Nat) (a : Word) : State := { withRegs base [(1, 5, .raw), (2, a, .raw)] with m := { (withRegs base [(1, 5, .raw), (2, a, .raw)]).m with tlb := [(0, [⟨0, 0x20000000, 0x40000000, 65536, attr⟩])] } }

/-- The same with a watch on its first byte. -/
def afw (a : Word) : State := onT (af 0x1F a) fun t => { t with ctl := { t.ctl with wpAddr := 0x20000000, wpMask := 0xFF, wpCtl := 0x37 }, wpPhys := some 0x40000000 }

theorem meets_AccessFaults : (af 0x1F 0x20000001).ready none [a1, a2] [a2] ∧
    (((af 0x1F 0x20000001).m.t.val a2).toNat % 8 ≠ 0 ∧ ((af 3 0x20000008).m.t.val a2).toNat % 8 = 0 ∧ okB ((af 3 0x20000008).m.reach 0 0 0x20000008 8 1) (fun _ => true) = false ∧
      okB ((af 7 0x20000008).m.reach 0 0 0x20000008 8 1) (fun _ => true) = true ∧ okB ((af 7 0x20000008).m.reach 0 0 0x20000008 8 2) (fun _ => true) = false) ∧
    (∃ x, (af 3 0x20000008).m.translate 0 0 0x20000008 = .ok x ∧ (decide (x.1.attr / 4 % 2 = 0) && decide (x.1.attr / 8 % 2 = 0) && decide (x.1.attr / 16 % 2 = 0)) = true) ∧
    (scratchOf 0 0x100000000100000 = none ∧ scratchOf 0 0x100100040 = some (1, 0x40) ∧ base.m.ownsCore 0 9 = false ∧ (∀ i, i < 4 → (base.m.window 0 1 i).grants 0x40 8 1 = false) ∧
      (afw 0x20000000).m.t.watchEn = true ∧ (afw 0x20000000).m.t.passWatch = false) ∧
    (∃ x, (afw 0x20000000).m.reach 0 0 0x20000000 8 2 = .ok x ∧ decide ((afw 0x20000000).m.t.watches x.1 (List.range 8) true = some 0x20000000) = true) :=
  ⟨ready_of (by decide +kernel), by decide +kernel, ok_of (by decide +kernel), by decide +kernel, ok_of (by decide +kernel)⟩

theorem test_access_faults : traps (.ld none .raw .d .s a1 a2) (af 7 0x100100040) 0x08 0x100100040 = true ∧ traps (.st none .d .s a1 a2) (af 7 0x100900040) 0x08 0x100900040 = true ∧
    traps (.ld none .raw .d .g a1 a2) (af 0x1F 0x20000001) 0x05 0x20000001 = true ∧ traps (.st none .h .a a1 a2) (af 0x1F 0x20000001) 0x05 0x20000001 = true ∧
    faults (.ld none .raw .d .g a1 a2) (af 3 0x20000008) 1 1 0x20000008 = true ∧ faults (.st none .d .g a1 a2) (af 7 0x20000008) 1 2 0x20000008 = true ∧
    faults (.ld none .raw .d .g a1 a2) (af 7 0x50000000) 0 1 0x50000000 = true ∧ faults (.st none .d .a a1 a2) (af 7 65536) 1 2 65536 = true ∧ faults (.ld none .raw .w .c a1 a2) (af 7 32768) 1 1 32768 = true ∧
    after (.ld none .raw .w .c a1 a2) (af 7 32764) (fun s => decide (s.m.t.val a1 = 0)) = true ∧
    faults (.ld none .raw .d .s a1 a2) (af 7 0x100000000100000) 1 1 0x100000000100000 = true ∧ ends (.st none .d .g a1 a2) (afw 0x20000000) { afw 0x20000000 with m := (afw 0x20000000).m.raiseWatch 0x20000000 0x40000000 0x20000000 8 } = true := by decide +kernel

/-! ### Ill-formed instructions, one for each check -/

/-- An instruction is ill-formed. -/
def bad (i : Instr) : Bool := !i.wf

theorem test_wf_kinds : bad (.bfi none a1 a2 a3 a4) = true ∧ bad (.movi a1 (2 ^ 48)) = true ∧ bad (.movi a1 (-(2 ^ 48) - 1)) = true ∧ bad (.shli none a1 a2 64) = true ∧ bad (.br (2 ^ 50)) = true ∧
    bad (.sel (some {}) w0 w1 w0 w1) = true ∧ bad (.ldN none .unwritten .w .g a1 a2) = true ∧ bad (.tagset none 0 .unwritten a1 a2) = true ∧ bad (.tinfo none a1 8) = true := by decide +kernel

theorem test_wf_modifiers : (List.all [.add (some { weak := true }) a1 a2 a3, .and sat a1 a2 a3, .add (some { rnd := .rtz }) a1 a2 a3, .vadd sat 0 0 8 a1, .ld (some { ord := .rel }) .raw .d .g a1 a2,
      .ld (some { scope := .dv }) .raw .d .g a1 a2, .st (some { ord := .acq }) .d .g a1 a2, .ldfe weak a1 a2, .stfe (some { ord := .acq }) a1 a2, .xst weak a1 (.d a2), .fence none, .fence (some {}),
      .fence (some { ord := .acq, weak := true }), .mconv (some { fovr := true }) .f32 false 0 a1, .mconv sat .f32 false 0 a1, .sfn (some { rnd := .rtz }) .rcp a1 a2, .cvt weak .f32 a1 a2] bad) = true := by decide +kernel

theorem test_wf_good : (List.all [.bfi none a1 a2 a3 w0, .bfi none a1 a2 a3 (.code 0), .movi a1 (2 ^ 47), .shli none a1 a2 63, .sel none w0 w1 w0 w1, .add sat a1 a2 a3, .ld (some { ord := .acq, scope := .sy }) .raw .d .g a1 a2,
      .fence (some { ord := .acqrel }), .sfn (some { rnd := .rtz }) .sqrt a1 a2, .cvt (some { rnd := .rup, sat := true }) .f32 a1 a2] Instr.wf) = true := by decide +kernel

/-! ### Words -/

/-- The words decode to the instruction and no further. -/
def reads (hs : List HW) (i : Instr) : Bool := decide (decode hs = .ok (i, hs.length)) && decide (encode i = hs)

/-- The words are refused at a halfword, by a prefix or by the word (03 R38, R43 to R47). -/
def rejects (hs : List HW) (pfx : Bool) (idx : Nat) : Bool := decide (decode hs = .error ⟨pfx, idx⟩)

theorem meets_EncodeDecode : (Instr.add sat a1 w0 a3).enc.isSome ∧ (Instr.add sat a1 w0 a3).wf = true := by decide +kernel

theorem test_decode_scalar : reads [0x1298] (.add none a1 a2 a3) = true ∧ reads [0x6462] (.shli none a2 a1 2) = true ∧ reads [0x97FA] (.br (-6)) = true ∧ reads [0x0508, 0x0004, 0x4800] (.addi none a4 (.slot 8) 256) = true ∧
    reads [0x0428, 0x0002, 0xA159] (.ldN none .f32 .w .s (.slot 40) a5) = true ∧ reads [0x0430, 0xE007] (.ldx none (.slot 48) 0 7) = true := by decide +kernel

theorem test_decode_pages : reads [0x0801, 0x0418, 0x0508, 0x0C04, 0xC008] (.vadd (some { rnd := .rtz }) 0 24 8 a1) = true ∧ reads [0x0803, 0x0508, 0xC407] (.tagget none 0 a2 (.slot 8)) = true ∧
    reads [0x0803, 0x0002, 0xC440] (.cvt none .f32 a2 a1) = true ∧ reads [0x0803, 0xD016] (.gang .four) = true ∧ reads [0x0804, 0xD210] (.mzero 1 2) = true ∧ reads [0x0805, 0xC080] (.ecmd none a2) = true ∧
    reads [0x0805, 0xC09C] (.esub none a2 a3) = true ∧ reads [0x0805, 0xC286] (.ebmp none a1 a2) = true ∧ reads [0x0806, 0xC680] (.ldfe none a3 a2) = true ∧ reads [0x0806, 0xC682] (.stfe none a3 a2) = true ∧
    reads [0x0806, 0xD007] .pvis = true ∧ reads [0x0807, 0xC099] (.barr none a2 a3) = true ∧ reads [0x0808, 0xC080] (.larm none a2) = true ∧ reads [0x0808, 0xC084] (.tblk none a2) = true ∧
    reads [0x0808, 0xC29E] (.spawn none a1 a2 a3) = true ∧ reads [0x0809, 0xD4C0] (.tcall none .n1 19) = true ∧ reads [0x0809, 0x0510, 0xC001] (.tret none (.slot 16)) = true ∧ reads [0x0809, 0xC0C3] (.tfail none a3) = true ∧
    reads [0x0809, 0xD201] (.tinfo none a1 0) = true ∧ reads [0x080A, 0xC000] .acommit = true ∧ reads [0x080B, 0xD028] (.trap 5) = true ∧ reads [0x080B, 0xC000] .rfe = true ∧ reads [0x080B, 0x0002, 0xD043] (.crw none a1 16) = true ∧
    reads [0x080B, 0xC043] (.tlbinv none (some a1)) = true := by decide +kernel

theorem test_decode_rejects : rejects [0, 0, 0, 0, 0] true 4 = true ∧ rejects [0x0801, 0x0802, 0xC000] true 1 = true ∧ rejects [0x0410, 0x0420, 0x1000] true 1 = true ∧ rejects [0x080C, 0xC000] false 0 = true ∧
    rejects [0xC003] false 0 = true ∧ rejects [0x0410, 0x1650] false 1 = true ∧ rejects [0x0D00, 0xA040] false 0 = true ∧ rejects [0x0C60, 0x1650] false 0 = true ∧ rejects [0x0C01, 0x1650] false 0 = true ∧
    rejects [0x0001, 0x1650] false 0 = true ∧ rejects [0x6018] false 0 = true ∧ rejects [0xF123] false 0 = true := by decide +kernel

/-- Bit 0 of the table's numbering is that of the word (log entry 6). -/
theorem test_table_words : decodeTableWord 16 0x1298 = some (.add none a1 a2 a3) ∧ decodeTableWord 32 0x0803C007 = some (.tagget none 0 (.code 0) (.code 0)) ∧ decodeTableWord 16 0xF123 = none := by decide +kernel

/-! ### The step -/

/-- A word of two halfwords is placed. -/
def placed2 : State := State.reset.withFetchWord 32 0x080BD028

/-- A breakpoint of its own on the task's instruction; a refused weak store; a pc that nothing maps; a line of code that the core does not hold. -/
def atBreak : State := onT base fun t => { t with ctl := { t.ctl with stepCtl := 2 ^ 62 + 0x20000000 } }
def nacked : State := onT base fun t => { t with nack := some 0x100100040 }
def lostPc : State := onT base fun t => { t with pc := 0x50000000 }
def coldCode : State := { base with m := { base.m with icache := [] } }

/-- What an instruction about to issue misses, if anything. -/
def missB (s : State) : Bool := okB s.m.fetch fun x => (s.m.miss x.2 x.1).isSome

theorem meets_StepRuns : (base.agenda = [] ∧ base.m.issues base.m.t = true ∧ base.m.wait base.m.t = 0 ∧ base.m.t.nack = none ∧ base.m.breaksAt base.m.t = false ∧
      okB base.m.fetch (fun _ => true) = true ∧ missB base = false ∧ (Instr.watchdogExpiry true).enc = none ∧ base.m.codeOld = []) ∧
    (atBreak.m.breaksAt atBreak.m.t = true ∧ atBreak.m.wait atBreak.m.t = 0 ∧ nacked.m.wait nacked.m.t = 0 ∧ nacked.m.t.nack = some 0x100100040 ∧ lostPc.m.breaksAt lostPc.m.t = false ∧
      okB lostPc.m.fetch (fun _ => true) = false ∧ coldCode.m.breaksAt coldCode.m.t = false ∧ missB coldCode = true) ∧
    (∃ x, base.m.reach 0 0 0x20000000 2 4 = .ok x ∧ (decide (x.1.home = .hbm) && decide (x.1.key = 2 ^ 30)) = true) ∧
    (BitVec.ofNat 16 (base.m.number (2 ^ 30) 2) = (0x1298 : HW) ∧ 4096 ≤ (0x1298 : HW).toNat ∧ BitVec.ofNat 16 (placed2.m.number (2 ^ 30) 2) = (0x080B : HW) ∧
      BitVec.ofNat 16 (placed2.m.number (2 ^ 30 + 2) 2) = (0xD028 : HW)) ∧
    (∃ x, placed2.m.reach 0 0 0x20000002 2 4 = .ok x ∧ (decide (x.1.home = .hbm) && decide (x.1.key = 2 ^ 30 + 2)) = true) ∧ rejects [0xF123] false 0 = true :=
  ⟨by decide +kernel, by decide +kernel, ok_of (by decide +kernel), by decide +kernel, ok_of (by decide +kernel), by decide +kernel⟩

/-- One step answers a next state of which p holds. -/
def steps (s : State) (p : State → Bool) : Bool := match step s with
  | .next s1 => p s1
  | _ => false

theorem test_step : steps (withRegs base [(2, 5, .raw), (3, 7, .raw)]) (fun s => decide (s.m.t.cell 1 = ⟨12, .raw, none⟩) && decide (s.m.t.cell 0 = ⟨12, .raw, none⟩) && decide (s.m.t.pc = 0x20000002) && decide (s.m.t.issued = 1)) = true ∧
    steps { base with agenda := [.watchStrike 1 0 0 0 0 0 0] } (fun s => decide (s = base)) = true ∧ steps atBreak (fun s => (s.m.ctx 0).halt.line) = true ∧
    steps nacked (fun s => decide (s.m.t.ctl.trapAddr = 0x100100040) && (s.m.ctx 0).halt.line) = true ∧
    steps coldCode (fun s => decide (s.m.t.phase = .parked .code) && decide (s.m.t.pc = 0x20000000)) = true := by decide +kernel

/-- TRAP 5 without a handler halts its context; CODE is 0x45. -/
theorem test_step2 : steps placed2 (fun s => (s.m.ctx 0).halt.line && decide (s.m.t.pc = 0x20000000)) = true := by decide +kernel

theorem meets_LifecycleInvariant : base.reached .provisioned ∧ (∃ s1, step base = .next s1) ∧ (Instr.add none a1 a2 a3).enc.isSome ∧ ∃ s1, exec (.add none a1 a2 a3) base = .next s1 := by
  refine ⟨?_, ?_, by decide +kernel, ?_⟩
  · show lifeRank .provisioned ≤ lifeRank base.sys.lifecycle
    decide +kernel
  · have h : steps base (fun _ => true) = true := by decide +kernel
    unfold steps at h
    split at h
    · exact ⟨_, by assumption⟩
    · simp at h
  · have h : after (.add none a1 a2 a3) base (fun _ => true) = true := by decide +kernel
    unfold after at h
    split at h
    · exact ⟨_, by assumption⟩
    · simp at h

/-- A program placed by hand runs, and the first boot stands as ResetFacts says. -/
theorem test_reset : after (.powerOnReset 0) State.reset (fun s => s.sys.booted && !s.sys.kernel && decide (s.m.cycle = 0) && decide (s.sys.power = []) && decide (s.m.matrix = []) && decide (s.m.ctxs = []) &&
      decide ((s.m.part 0).clusters = List.range 512)) = true ∧ lifeRank State.reset.sys.lifecycle = 0 ∧ State.reset.m.mem = [] := by decide +kernel

end Sys2Proof.Tests
end

section
/-! SUPPORT. How much of the Silt log the mark of a change of the answer table takes (23 R395, R397): the lines that change, and
the room they need. -/

namespace Sys2Proof.Machine

/-! ### Lists without repetitions -/

theorem eraseDups_sublist (l : List Nat) : l.eraseDups.Sublist l := by
  match l with
  | [] => simp
  | a :: r =>
    rw [List.eraseDups_cons]
    exact ((eraseDups_sublist _).trans List.filter_sublist).cons_cons a
termination_by l.length
decreasing_by exact Nat.lt_succ_of_le (List.length_filter_le _ _)

theorem nodup_eraseDups (l : List Nat) : l.eraseDups.Nodup := by
  match l with
  | [] => simp
  | a :: r =>
    rw [List.eraseDups_cons, List.nodup_cons]
    exact ⟨by simp, nodup_eraseDups _⟩
termination_by l.length
decreasing_by exact Nat.lt_succ_of_le (List.length_filter_le _ _)

/-! ### Bytes of a line -/

theorem padTo_length (n : Nat) (l : List Byte) : (padTo n l).length = n := by
  simp [padTo]; omega

theorem wordsBytes_length : ∀ l : List Word, (wordsBytes l).length = 8 * l.length
  | [] => rfl
  | w :: r => by
    have := wordsBytes_length r
    simp only [wordsBytes, List.flatMap_cons, List.length_append, leBytes_length, List.length_cons] at this ⊢
    omega

theorem Entry.keyField_length (e : Entry) : e.keyField.length = 4 := by
  simp [Entry.keyField]

/-- An entry is two lines of 64 bytes (06 R115). -/
theorem Entry.bytes_length (e : Entry) (n : Nat) : (e.bytes n).length = 128 := by
  unfold Entry.bytes
  split
  · simp
  · simp [wordsBytes_length, Entry.keyField_length]

theorem chainBytes_length_le (b : Bool) : ∀ (cs : List Nat) (ds : List (List Byte)), (chainBytes b cs ds).length ≤ cs.length
  | [], _ => by simp [chainBytes]
  | _ :: _, [] => by simp [chainBytes]
  | _ :: cs, _ :: ds => by simpa [chainBytes] using chainBytes_length_le b cs ds

/-- A cell is one line. -/
theorem chainBytes_line (b : Bool) : ∀ (cs : List Nat) (ds : List (List Byte)), ∀ p ∈ chainBytes b cs ds, p.2.length = 64
  | [], _, _, h => by simp [chainBytes] at h
  | _ :: _, [], _, h => by simp [chainBytes] at h
  | _ :: cs, _ :: ds, p, h => by
    rw [chainBytes] at h
    rcases List.mem_cons.mp h with rfl | h
    · simp [cellBytes, padTo_length]
    · exact chainBytes_line b cs ds p h

/-- The lines of an entry's answers and of its key. -/
def Loam.cellLines (l : Loam) (e : Entry) : List (Nat × List Byte) :=
  (e.ansChain.map fun p => (cellAt l.ansExt p.1, p.2)) ++ (e.keyChain.map fun p => (cellAt l.keyExt p.1, p.2))

/-- An entry's own two lines come first, then those of its cells. -/
theorem Loam.entryLines_eq (l : Loam) (i : Nat) (e : Entry) : ∃ x y : List Byte, x.length = 64 ∧ y.length = 64 ∧
    l.entryLines i e = (l.entryPa i, x) :: (l.entryPa i + 64, y) :: l.cellLines e :=
  ⟨_, _, by simp [Entry.bytes_length], by simp [Entry.bytes_length], rfl⟩

theorem Loam.entryLines_line (l : Loam) (i : Nat) (e : Entry) : ∀ p ∈ l.entryLines i e, p.2.length = 64 := by
  obtain ⟨x, y, hx, hy, h⟩ := l.entryLines_eq i e
  intro p hp
  rw [h] at hp
  simp only [List.mem_cons, Loam.cellLines, List.mem_append, List.mem_map] at hp
  rcases hp with rfl | rfl | ⟨q, hq, rfl⟩ | ⟨q, hq, rfl⟩
  · exact hx
  · exact hy
  · exact chainBytes_line _ _ _ q hq
  · exact chainBytes_line _ _ _ q hq

theorem Loam.entryLines_length_le (l : Loam) (i : Nat) (e : Entry) :
    (l.entryLines i e).length ≤ 2 + e.ansCells.length + e.keyCells.length := by
  obtain ⟨x, y, -, -, h⟩ := l.entryLines_eq i e
  have h1 := chainBytes_length_le true e.ansCells (e.answers.map wordsBytes)
  have h2 := chainBytes_length_le false e.keyCells e.keyChunks
  rw [h]
  simp only [Loam.cellLines, Entry.ansChain, Entry.keyChain, List.length_cons, List.length_append, List.length_map]
  omega

/-! ### Lines that change -/

theorem lineOf_length_le {ls : List (Nat × List Byte)} (h : ∀ p ∈ ls, p.2.length = 64) (a : Nat) :
    (lineOf ls a).length ≤ 64 := by
  unfold lineOf
  cases hf : ls.find? (·.1 == a) with
  | none => simp
  | some p => simpa using (h p (List.mem_of_find?_eq_some hf)).le

/-- The old bytes of a line that changes are a line at most. -/
theorem changedLines_line {old new : List (Nat × List Byte)} (h : ∀ p ∈ old, p.2.length = 64) :
    ∀ q ∈ changedLines old new, q.2.1.length ≤ 64 := by
  intro q hq
  obtain ⟨a, -, ha⟩ := List.mem_filterMap.mp hq
  obtain ⟨s, -, rfl⟩ := Option.map_eq_some_iff.mp ha
  exact lineOf_length_le h a

theorem changedLines_length_le (old new : List (Nat × List Byte)) : (changedLines old new).length ≤ old.length + new.length := by
  refine (List.length_filterMap_le _ _).trans ((eraseDups_sublist _).length_le.trans ?_)
  simp

theorem diffSpan_self (a : List Byte) : diffSpan a a = none := by simp [diffSpan]

/-- Lines that differ at some addresses only change at these. -/
theorem changedLines_length_le_of_eq {old new : List (Nat × List Byte)} {as : List Nat}
    (h : ∀ a, a ∉ as → lineOf old a = lineOf new a) : (changedLines old new).length ≤ as.length := by
  unfold changedLines
  rw [List.length_filterMap_eq_countP, List.countP_eq_length_filter]
  refine (List.subperm_of_subset ((nodup_eraseDups _).filter _) fun a ha => ?_).length_le
  by_contra hn
  simp [h a hn, diffSpan_self] at ha

/-- An entry whose cells stay as they are changes in its own two lines. -/
theorem changedLines_header_le (l l1 : Loam) (i : Nat) (e e1 : Entry) (hp : l1.entryPa i = l.entryPa i)
    (hc : l1.cellLines e1 = l.cellLines e) : (changedLines (l.entryLines i e) (l1.entryLines i e1)).length ≤ 2 := by
  obtain ⟨x, y, -, -, h⟩ := l.entryLines_eq i e
  obtain ⟨x1, y1, -, -, h1⟩ := l1.entryLines_eq i e1
  refine changedLines_length_le_of_eq (as := [l.entryPa i, l.entryPa i + 64]) fun a ha => ?_
  simp only [List.mem_cons, List.not_mem_nil, or_false, not_or] at ha
  have n1 : (l.entryPa i == a) = false := beq_eq_false_iff_ne.mpr (Ne.symm ha.1)
  have n2 : (l.entryPa i + 64 == a) = false := beq_eq_false_iff_ne.mpr (Ne.symm ha.2)
  rw [h, h1, hp, hc]
  simp only [lineOf, List.find?_cons, n1, n2]

/-! ### Records -/

/-- A member of a table mark takes its header and a line at most (23 R395). -/
theorem lineRecs_bytes_le (s : Silt) (k : SKind) (sp party : Nat) (g : Gid) {i : Nat} {e : Entry}
    {ls : List (Nat × List Byte × Nat × Nat)} (h : ∀ q ∈ ls, q.2.1.length ≤ 64) :
    ((s.lineRecs k sp party g (.entry i e []) ls).map SRec.bytes).sum ≤ 96 * ls.length := by
  have key : ∀ rs : List SRec, rs.length ≤ ls.length → (∀ r ∈ rs, r.old = .none ∧ r.raw.length ≤ 64) →
      ((match rs with | [] => [] | r :: rest => { r with old := SOld.entry i e [] } :: rest).map SRec.bytes).sum ≤
        96 * ls.length := by
    intro rs hl hr
    have hb : ∀ b ∈ (match rs with | [] => [] | r :: rest => { r with old := SOld.entry i e [] } :: rest).map SRec.bytes,
        b ≤ 96 := by
      cases rs with
      | nil => simp
      | cons r rest =>
        simp only [List.mem_map, List.mem_cons]
        rintro b ⟨q, rfl | hq, rfl⟩
        · have := (hr r (List.mem_cons_self ..)).2
          simp only [SRec.bytes]
          omega
        · obtain ⟨ho, hw⟩ := hr q (List.mem_cons_of_mem _ hq)
          simp only [SRec.bytes, ho]
          omega
    refine (List.sum_le_card_nsmul _ 96 hb).trans ?_
    rw [smul_eq_mul, Nat.mul_comm]
    refine Nat.mul_le_mul_left 96 (le_trans ?_ hl)
    cases rs <;> simp
  refine key _ (List.length_filterMap_le _ _) fun r hr => ?_
  obtain ⟨⟨a, bs, lo, hi⟩, hq, he⟩ := List.mem_filterMap.mp hr
  have hbs : bs.length ≤ 64 := h _ hq
  dsimp only at he
  split_ifs at he
  · obtain rfl := Option.some.inj he
    exact ⟨rfl, by simp; omega⟩
  · obtain rfl := Option.some.inj he
    exact ⟨rfl, hbs⟩

/-- The members of a table mark take a line's record at most for every line that changes. -/
theorem entryRecs_bytes_le (s : Silt) (party : Nat) (g : Gid) (l l1 : Loam) (b : Nat → Nat) : ∀ (is : List Nat),
    (∀ i ∈ is, (changedLines (l.linesOf [i]) (l1.linesOf [i])).length ≤ b i) →
    ((s.entryRecs party g l l1 is).map SRec.bytes).sum ≤ 96 * (is.map b).sum
  | [], _ => by simp [Silt.entryRecs]
  | i :: is, h => by
    have ih := entryRecs_bytes_le s party g l l1 b is fun j hj => h j (List.mem_cons_of_mem _ hj)
    have hl : ∀ q ∈ changedLines (l.linesOf [i]) (l1.linesOf [i]), q.2.1.length ≤ 64 :=
      changedLines_line (by simpa [Loam.linesOf] using l.entryLines_line i _)
    have h1 := lineRecs_bytes_le s .table 6 party g (i := i) (e := Tab.look {} l.entries i) hl
    have h2 := h i (List.mem_cons_self ..)
    simp only [Silt.entryRecs, List.flatMap_cons, List.map_append, List.sum_append, List.map_cons, List.sum_cons] at ih ⊢
    omega

/-- Room is room for less. -/
theorem Silt.room_mono {s : Silt} {a b : Nat} (h : s.room b = true) (hab : a ≤ b) : s.room a = true := by
  simp only [Silt.room, decide_eq_true_eq] at h ⊢
  omega

end Sys2Proof.Machine
end

section
/-! SUPPORT. Tables whose keys need not rise. A state may hold one, and then a write may add an entry beside one that it hides; so
the entries that satisfy a test, as the members of a group do (06 R121), are counted over such tables: a write adds at most one
for each key. -/

namespace Sys2Proof.Machine

/-! ### Rising and fallen entries -/

/-- The entries of a table whose key is greater than every key before it, and at least lo. -/
def Tab.rising {α : Type} : Nat → Tab α → Tab α
  | _, [] => []
  | lo, (k, v) :: r => if lo ≤ k then (k, v) :: Tab.rising (k + 1) r else Tab.rising lo r

/-- The other entries: those that a table in canonical form does not have. -/
def Tab.fallen {α : Type} : Nat → Tab α → Tab α
  | _, [] => []
  | lo, (k, v) :: r => if lo ≤ k then Tab.fallen (k + 1) r else (k, v) :: Tab.fallen lo r

theorem Tab.rising_perm {α : Type} : ∀ (t : Tab α) (lo : Nat), (Tab.rising lo t ++ Tab.fallen lo t).Perm t
  | [], _ => by simp [Tab.rising, Tab.fallen]
  | (k, v) :: r, lo => by
    unfold Tab.rising Tab.fallen
    split_ifs
    · exact (Tab.rising_perm r (k + 1)).cons _
    · exact List.perm_middle.trans ((Tab.rising_perm r lo).cons _)

theorem Tab.fallen_sublist {α : Type} : ∀ (t : Tab α) (lo : Nat), (Tab.fallen lo t).Sublist t
  | [], _ => by simp [Tab.fallen]
  | (k, v) :: r, lo => by
    unfold Tab.fallen
    split_ifs
    · exact (Tab.fallen_sublist r (k + 1)).cons _
    · exact (Tab.fallen_sublist r lo).cons_cons _

/-- A rising entry is the one its key reads as. -/
theorem Tab.look_of_mem_rising {α : Type} (d : α) : ∀ (t : Tab α) (lo : Nat) (p : Nat × α), p ∈ Tab.rising lo t →
    lo ≤ p.1 ∧ Tab.look d t p.1 = p.2
  | [], _, _, h => by simp [Tab.rising] at h
  | (k, v) :: r, lo, p, h => by
    unfold Tab.rising at h
    unfold Tab.look
    split_ifs at h with hk
    · rcases List.mem_cons.mp h with rfl | h
      · exact ⟨hk, if_pos rfl⟩
      · obtain ⟨h1, h2⟩ := Tab.look_of_mem_rising d r _ p h
        exact ⟨by omega, by rw [if_neg (by omega), h2]⟩
    · obtain ⟨h1, h2⟩ := Tab.look_of_mem_rising d r _ p h
      exact ⟨h1, by rw [if_neg (by omega), h2]⟩

theorem Tab.nodup_rising {α : Type} : ∀ (t : Tab α) (lo : Nat), ((Tab.rising lo t).map Prod.fst).Nodup
  | [], _ => by simp [Tab.rising]
  | (k, v) :: r, lo => by
    unfold Tab.rising
    split_ifs
    · rw [List.map_cons, List.nodup_cons]
      refine ⟨fun h => ?_, Tab.nodup_rising r _⟩
      obtain ⟨p, hp, he⟩ := List.mem_map.mp h
      have := (Tab.look_of_mem_rising v r (k + 1) p hp).1
      omega
    · exact Tab.nodup_rising r lo

/-- An entry inserted rises, and leaves every other entry where it stands. -/
theorem Tab.fallen_ins {α : Type} : ∀ (t : Tab α) (lo i : Nat) (v : α), lo ≤ i →
    Tab.fallen lo (Tab.ins t i v) = Tab.fallen lo t
  | [], lo, i, v, h => by simp [Tab.ins, Tab.fallen, h]
  | (k, w) :: r, lo, i, v, h => by
    unfold Tab.ins
    split_ifs with h1 h2
    · rw [Tab.fallen, if_pos h]
      simp [Tab.fallen, show i + 1 ≤ k by omega, show lo ≤ k by omega]
    · subst h2
      simp [Tab.fallen, h]
    · unfold Tab.fallen
      split_ifs
      · exact Tab.fallen_ins r _ i v (by omega)
      · rw [Tab.fallen_ins r lo i v h]

theorem Tab.fallen_filter {α : Type} (q : Nat × α → Bool) : ∀ (t : Tab α) (lo lo' : Nat), lo' ≤ lo →
    (Tab.fallen lo' (t.filter q)).Sublist (Tab.fallen lo t)
  | [], _, _, _ => by simp [Tab.fallen]
  | (k, w) :: r, lo, lo', h => by
    rw [List.filter_cons]
    split
    · unfold Tab.fallen
      split_ifs
      · exact Tab.fallen_filter q r _ _ (by omega)
      · exact (Tab.fallen_filter q r _ _ (by omega)).cons _
      · omega
      · exact (Tab.fallen_filter q r _ _ h).cons_cons _
    · conv_rhs => unfold Tab.fallen
      split_ifs
      · exact Tab.fallen_filter q r _ _ (by omega)
      · exact (Tab.fallen_filter q r _ _ h).cons _

/-- A write adds no entry but a rising one. -/
theorem Tab.fallen_put {α : Type} [DecidableEq α] (d : α) (t : Tab α) (i : Nat) (v : α) :
    (Tab.fallen 0 (Tab.put d t i v)).Sublist (Tab.fallen 0 t) := by
  unfold Tab.put
  split
  · exact Tab.fallen_filter _ t 0 0 le_rfl
  · rw [Tab.fallen_ins t 0 i v (Nat.zero_le i)]

/-- A key that does not read as unlisted is listed with what it reads as. -/
theorem Tab.mem_of_look_ne {α : Type} (d : α) : ∀ (t : Tab α) (i : Nat), Tab.look d t i ≠ d → (i, Tab.look d t i) ∈ t
  | [], _, h => absurd rfl h
  | (k, v) :: r, i, h => by
    unfold Tab.look at h ⊢
    split_ifs at h ⊢ with hk
    · subst hk; exact List.mem_cons_self ..
    · exact List.mem_cons_of_mem _ (Tab.mem_of_look_ne d r i h)

/-- The keys of a list of entries that satisfy a test. -/
def Tab.keysWhere {α : Type} (p : α → Bool) (t : Tab α) : List Nat := (t.filter fun q => p q.2).map Prod.fst

/-- Where every key passes a test as before and no entry but rising ones is new, at most one entry for every old one is new. -/
theorem Tab.keysWhere_length_le {α : Type} {d : α} {p : α → Bool} {t t1 : Tab α} (hd : p d = false)
    (hl : ∀ i, p (Tab.look d t1 i) = p (Tab.look d t i)) (hf : (Tab.fallen 0 t1).Sublist (Tab.fallen 0 t)) :
    (Tab.keysWhere p t1).length ≤ 2 * (Tab.keysWhere p t).length := by
  have hr : (Tab.keysWhere p (Tab.rising 0 t1)).length ≤ (Tab.keysWhere p t).length := by
    refine (List.subperm_of_subset ((Tab.nodup_rising t1 0).sublist (List.filter_sublist.map _)) fun i hi => ?_).length_le
    obtain ⟨q, hq, rfl⟩ := List.mem_map.mp hi
    obtain ⟨hq, hp⟩ := List.mem_filter.mp hq
    obtain ⟨-, he⟩ := Tab.look_of_mem_rising d t1 0 q hq
    have hp : p (Tab.look d t q.1) = true := by rw [← hl, he]; exact hp
    exact List.mem_map.mpr ⟨_, List.mem_filter.mpr ⟨Tab.mem_of_look_ne d t q.1 fun h => by simp [h, hd] at hp, hp⟩, rfl⟩
  have hs : (Tab.keysWhere p (Tab.fallen 0 t1)).length ≤ (Tab.keysWhere p t).length :=
    (((hf.trans (Tab.fallen_sublist t 0)).filter _).map _).length_le
  have hp : (Tab.keysWhere p t1).length = (Tab.keysWhere p (Tab.rising 0 t1)).length + (Tab.keysWhere p (Tab.fallen 0 t1)).length := by
    rw [← List.length_append, Tab.keysWhere, Tab.keysWhere, Tab.keysWhere, ← List.map_append, ← List.filter_append]
    exact (((Tab.rising_perm t1 0).symm.filter _).map _).length_eq
  omega

end Sys2Proof.Machine
end

section
/-! SUPPORT. What the operations of the answer table's cursors and of the task unit leave of the state (06 R117 to R123, 04 R65,
19 R351): cursors released, tasks woken, the end of a task. -/

namespace Sys2Proof.Machine

/-! ### Contexts and entries -/

@[simp] theorem Mach.ctx_setCtx (m : Mach) (c d : Nat) (f : Ctx → Ctx) :
    (m.setCtx c f).ctx d = if d = c then f (m.ctx c) else m.ctx d := by
  simp [Mach.ctx, Tab.upd]

/-- An entry's change touches its context's entries alone. -/
theorem Mach.ctx_updEntry (m : Mach) (c d i : Nat) (f : Entry → Entry) : (m.updEntry c i f).ctx d =
    if d = c then { m.ctx c with loam := { (m.ctx c).loam with entries := Tab.upd {} (m.ctx c).loam.entries i f } } else m.ctx d := by
  rw [Mach.updEntry, Mach.ctx_setCtx]

@[simp] theorem Mach.silt_updEntry (m : Mach) (c d i : Nat) (f : Entry → Entry) :
    ((m.updEntry c i f).ctx d).silt = (m.ctx d).silt := by
  rw [Mach.ctx_updEntry]; split
  · next h => subst h; rfl
  · rfl

@[simp] theorem Mach.entry_updEntry (m : Mach) (c d i j : Nat) (f : Entry → Entry) :
    (m.updEntry c i f).entry d j = if d = c ∧ j = i then f (m.entry c i) else m.entry d j := by
  simp only [Mach.entry, Mach.ctx_updEntry]
  split_ifs with h1 h2 h2
  · obtain ⟨rfl, rfl⟩ := h2; simp [Tab.upd]
  · subst h1
    simp [Tab.upd, show ¬ j = i from fun h => h2 ⟨rfl, h⟩]
  · exact absurd h2.1 h1
  · rfl

/-- Contexts that stand as they were read alike. -/
theorem Mach.ctx_of_ctxs {m m1 : Mach} (h : m1.ctxs = m.ctxs) (c : Nat) : m1.ctx c = m.ctx c := by simp [Mach.ctx, h]

theorem Mach.entry_of_ctxs {m m1 : Mach} (h : m1.ctxs = m.ctxs) (c i : Nat) : m1.entry c i = m.entry c i := by
  simp [Mach.entry, Mach.ctx_of_ctxs h]

/-- An effect that leaves a context's log as it was fits into it. -/
theorem fits_of_silt {m m1 : Mach} {c : Nat} (h : (m1.ctx c).silt = (m.ctx c).silt) : m.fits m1 c = true := by
  simp [Mach.fits, h]

/-! ### Groups (R121) -/

/-- An entry belongs to the group of a leader. -/
def Entry.joins (l : Nat) (e : Entry) : Bool := decide (e.state = .eval ∧ e.leader = l)

theorem Mach.members_eq (m : Mach) (c l : Nat) : m.members c l = Tab.keysWhere (Entry.joins l) (m.ctx c).loam.entries := by
  unfold Mach.members Tab.keysWhere
  induction (m.ctx c).loam.entries with
  | nil => rfl
  | cons p r ih =>
    obtain ⟨i, e⟩ := p
    by_cases h : e.state = .eval ∧ e.leader = l <;> simp [Entry.joins, h, ih]

/-- An entry in evaluation is a member of its group. -/
theorem Mach.mem_members {m : Mach} {c i : Nat} (h : (m.entry c i).state = .eval) : i ∈ m.members c (m.entry c i).leader := by
  rw [Mach.members_eq]
  have hn : m.entry c i ≠ {} := fun hd => by rw [hd] at h; cases h
  have hm : (i, m.entry c i) ∈ (m.ctx c).loam.entries := Tab.mem_of_look_ne ({} : Entry) _ i hn
  exact List.mem_map.mpr ⟨_, List.mem_filter.mpr ⟨hm, by simp [Entry.joins, h]⟩, rfl⟩

/-! ### The task in focus through an operation of other parts -/

/-- A task that is ready and outside a region stays so. -/
structure Task.StaysReady (t t1 : Task) : Prop where
  gid : t1.gid = t.gid
  phase : t.phase = .ready → t1.phase = .ready
  region : t.region = none → t1.region = none

/-- It also keeps its image and the address of its next instruction. -/
structure Task.StaysAt (t t1 : Task) : Prop extends t.StaysReady t1 where
  img : t1.img = t.img
  npc : t1.npc = t.npc

theorem Task.StaysReady.refl (t : Task) : t.StaysReady t := ⟨rfl, id, id⟩

theorem Task.StaysReady.trans {t t1 t2 : Task} (h : t.StaysReady t1) (h1 : t1.StaysReady t2) : t.StaysReady t2 :=
  ⟨h1.gid.trans h.gid, h1.phase ∘ h.phase, h1.region ∘ h.region⟩

theorem Task.StaysAt.refl (t : Task) : t.StaysAt t := ⟨.refl t, rfl, rfl⟩

theorem Task.StaysAt.trans {t t1 t2 : Task} (h : t.StaysAt t1) (h1 : t1.StaysAt t2) : t.StaysAt t2 :=
  ⟨h.toStaysReady.trans h1.toStaysReady, h1.img.trans h.img, h1.npc.trans h.npc⟩

/-- A task woken is ready, where it stood. -/
theorem Task.staysAt_wake (t : Task) (now no : Nat) : t.StaysAt (t.wake now no) := by
  unfold Task.wake Task.enqueue
  split <;> exact ⟨⟨rfl, fun _ => rfl, id⟩, rfl, rfl⟩

/-- m1 is m after tasks were woken: memory and contexts stay. -/
structure Mach.OnlyWakes (m m1 : Mach) : Prop where
  mem : m1.mem = m.mem
  focus : m.t.StaysAt m1.t
  ctxs : m1.ctxs = m.ctxs

/-- m1 is m after cursors were released and tasks woken: its entries have lost pins at most, and memory and the logs stay. -/
structure Mach.OnlyUnpins (m m1 : Mach) : Prop where
  mem : m1.mem = m.mem
  focus : m.t.StaysReady m1.t
  silt : ∀ c, (m1.ctx c).silt = (m.ctx c).silt
  entry : ∀ c j, ∃ p, m1.entry c j = { m.entry c j with pins := p }
  fallen : ∀ c, (Tab.fallen 0 (m1.ctx c).loam.entries).Sublist (Tab.fallen 0 (m.ctx c).loam.entries)

theorem Mach.OnlyWakes.refl (m : Mach) : m.OnlyWakes m := ⟨rfl, .refl _, rfl⟩

theorem Mach.OnlyWakes.trans {m m1 m2 : Mach} (h : m.OnlyWakes m1) (h1 : m1.OnlyWakes m2) : m.OnlyWakes m2 :=
  ⟨h1.mem.trans h.mem, h.focus.trans h1.focus, h1.ctxs.trans h.ctxs⟩

/-- Contexts that stand as they were hold the same pins. -/
theorem Mach.onlyUnpins_of_ctxs {m m1 : Mach} (hm : m1.mem = m.mem) (hf : m.t.StaysReady m1.t) (hc : m1.ctxs = m.ctxs) :
    m.OnlyUnpins m1 where
  mem := hm
  focus := hf
  silt c := by rw [Mach.ctx_of_ctxs hc]
  entry c j := ⟨(m.entry c j).pins, by rw [Mach.entry_of_ctxs hc]⟩
  fallen c := by rw [Mach.ctx_of_ctxs hc]

theorem Mach.OnlyWakes.onlyUnpins {m m1 : Mach} (h : m.OnlyWakes m1) : m.OnlyUnpins m1 :=
  Mach.onlyUnpins_of_ctxs h.mem h.focus.toStaysReady h.ctxs

theorem Mach.OnlyUnpins.trans {m m1 m2 : Mach} (h : m.OnlyUnpins m1) (h1 : m1.OnlyUnpins m2) : m.OnlyUnpins m2 where
  mem := h1.mem.trans h.mem
  focus := h.focus.trans h1.focus
  silt c := (h1.silt c).trans (h.silt c)
  entry c j := by
    obtain ⟨p, hp⟩ := h.entry c j
    obtain ⟨q, hq⟩ := h1.entry c j
    exact ⟨q, by rw [hq, hp]⟩
  fallen c := (h1.fallen c).trans (h.fallen c)

/-! ### Waking (R65, R123) -/

theorem Mach.staysReady_mapTask (m : Mach) (g : Gid) {f : Task → Task} (hf : ∀ t : Task, t.StaysReady (f t)) :
    m.t.StaysReady (m.mapTask g f).t := by
  rw [Mach.mapTask_t]
  split
  · exact hf _
  · exact .refl _

theorem Mach.onlyWakes_mapTask (m : Mach) (g : Gid) {f : Task → Task} (hf : ∀ t : Task, t.StaysAt (f t)) :
    m.OnlyWakes (m.mapTask g f) := by
  refine ⟨rfl, ?_, rfl⟩
  rw [Mach.mapTask_t]
  split
  · exact hf _
  · exact .refl _

theorem Mach.onlyWakes_tick (m : Mach) : m.OnlyWakes m.tick := ⟨rfl, .refl _, rfl⟩

theorem Mach.onlyWakes_wakeTask (m : Mach) (g : Gid) : m.OnlyWakes (m.wakeTask g) :=
  m.onlyWakes_tick.trans (m.tick.onlyWakes_mapTask g fun t => t.staysAt_wake _ _)

theorem Mach.onlyWakes_wakeParked (m : Mach) (c : Nat) (es : List Nat) : m.OnlyWakes (m.wakeParked c es) := by
  unfold Mach.wakeParked
  refine List.foldlRecOn _ _ (motive := m.OnlyWakes) (.refl m) fun a ha t _ => ha.trans (a.onlyWakes_tick.trans ?_)
  refine a.tick.onlyWakes_mapTask _ fun x => ?_
  have hp : ∀ p, x.StaysAt { x with prio := p } := fun p => ⟨⟨rfl, id, id⟩, rfl, rfl⟩
  exact (hp _).trans (Task.staysAt_wake _ _ _)

theorem Mach.onlyWakes_resumeCaller (m : Mach) (g : Gid) : m.OnlyWakes (m.resumeCaller g) := by
  unfold Mach.resumeCaller
  split
  · exact .refl m
  · refine .trans (m.onlyWakes_mapTask g fun t => ?_) (Mach.onlyWakes_wakeTask _ _)
    exact ⟨⟨rfl, id, id⟩, rfl, rfl⟩

/-! ### Cursors released (R30, R117) -/

theorem Mach.fallen_updEntry (m : Mach) (c i d : Nat) (f : Entry → Entry) :
    (Tab.fallen 0 ((m.updEntry c i f).ctx d).loam.entries).Sublist (Tab.fallen 0 (m.ctx d).loam.entries) := by
  rw [Mach.ctx_updEntry]
  split
  · next h => subst h; exact Tab.fallen_put _ _ i _
  · exact List.Sublist.refl _

theorem Mach.onlyUnpins_updEntry (m : Mach) (c i : Nat) {f : Entry → Entry} (hf : ∀ e, ∃ p, f e = { e with pins := p }) :
    m.OnlyUnpins (m.updEntry c i f) := by
  refine ⟨rfl, .refl _, fun d => by simp, fun d j => ?_, fun d => m.fallen_updEntry c i d f⟩
  rw [Mach.entry_updEntry]
  split
  · next h => obtain ⟨rfl, rfl⟩ := h; exact hf _
  · exact ⟨_, rfl⟩

theorem Mach.onlyUnpins_dropCursor (m : Mach) (g : Gid) (n : Nat) : m.OnlyUnpins (m.dropCursor g n) := by
  unfold Mach.dropCursor
  split
  · exact (Mach.OnlyWakes.refl m).onlyUnpins
  · next k _ =>
    refine .trans (m.onlyUnpins_updEntry _ _ fun e => ?_) (Mach.onlyWakes_mapTask _ g fun t => ?_).onlyUnpins
    · by_cases h : e.creation = k.creation
      · exact ⟨_, if_pos h⟩
      · exact ⟨e.pins, if_neg h⟩
    · exact ⟨⟨rfl, id, id⟩, rfl, rfl⟩

theorem Mach.onlyUnpins_dropCursors (m : Mach) (g : Gid) : m.OnlyUnpins (m.dropCursors g) :=
  List.foldlRecOn _ _ (motive := m.OnlyUnpins) (Mach.OnlyWakes.refl m).onlyUnpins
    fun a ha n _ => ha.trans (a.onlyUnpins_dropCursor g n)

/-- A change of one task leaves the others where they are. -/
theorem Mach.mem_others_mapTask {m : Mach} {g : Gid} {q : Task} (f : Task → Task) (hq : q ∈ m.others) (hg : q.gid ≠ g) :
    q ∈ (m.mapTask g f).others :=
  List.mem_map.mpr ⟨q, hq, if_neg fun h => hg h.1⟩

theorem Mach.mem_others_dropCursors {m : Mach} {g : Gid} {q : Task} (hq : q ∈ m.others) (hg : q.gid ≠ g) :
    q ∈ (m.dropCursors g).others := by
  unfold Mach.dropCursors
  refine List.foldlRecOn _ _ (motive := fun a : Mach => q ∈ a.others) hq fun a ha n _ => ?_
  unfold Mach.dropCursor
  split
  · exact ha
  · exact Mach.mem_others_mapTask _ (by exact ha) hg

/-! ### The end of a task (19 R351) -/

theorem Mach.find_focus {m : Mach} (h : m.t.phase = .ready) : m.find m.t.gid = some m.t := by
  simp [Mach.find, Mach.tasks, h]

/-- The task in focus has ended: it holds no slot and stands outside a region, and memory is as it was. -/
structure Mach.FocusEnds (m m1 : Mach) : Prop where
  phase : m1.t.phase = .ended
  seat : m1.t.seat = none
  region : m1.t.region = none
  gid : m1.t.gid = m.t.gid
  mem : m1.mem = m.mem

/-- The logs are as they were too, and of entries pins alone have changed. -/
structure Mach.OnlyEnds (m m1 : Mach) : Prop extends m.FocusEnds m1 where
  silt : ∀ c, (m1.ctx c).silt = (m.ctx c).silt
  entry : ∀ c j, ∃ p, m1.entry c j = { m.entry c j with pins := p }

/-- What of a record counts its live tasks is no part of a log or of a table. -/
theorem Mach.updRec_ctx (m : Mach) (c r d : Nat) (f : PoolRec → PoolRec) :
    ((m.updRec c r f).ctx d).silt = (m.ctx d).silt ∧ ((m.updRec c r f).ctx d).loam = (m.ctx d).loam := by
  rw [Mach.updRec, Mach.ctx_setCtx]
  split
  · next he => subst he; exact ⟨rfl, rfl⟩
  · exact ⟨rfl, rfl⟩

theorem Mach.OnlyEnds.updRec {m m1 : Mach} (h : m.OnlyEnds m1) (c r : Nat) (f : PoolRec → PoolRec) :
    m.OnlyEnds (m1.updRec c r f) := by
  refine ⟨⟨h.phase, h.seat, h.region, h.gid, h.mem⟩, fun d => (m1.updRec_ctx c r d f).1.trans (h.silt d), fun d j => ?_⟩
  obtain ⟨p, hp⟩ := h.entry d j
  exact ⟨p, by rw [← hp, Mach.entry, (m1.updRec_ctx c r d f).2, Mach.entry]⟩

theorem Mach.OnlyUnpins.onlyEnds {m a m1 : Mach} (h : m.OnlyUnpins a) (h1 : a.OnlyEnds m1) : m.OnlyEnds m1 := by
  refine ⟨⟨h1.phase, h1.seat, h1.region, h1.gid.trans h.focus.gid, h1.mem.trans h.mem⟩,
    fun c => (h1.silt c).trans (h.silt c), fun c j => ?_⟩
  obtain ⟨p, hp⟩ := h.entry c j
  obtain ⟨q, hq⟩ := h1.entry c j
  exact ⟨q, by rw [hq, hp]⟩

/-- A task whose cursors are released ends. -/
theorem Mach.onlyEnds_mapTask {m : Mach} (hp : m.t.phase = .ready) {f : Task → Task}
    (hf : ∀ x, (f x).phase = .ended ∧ (f x).seat = none ∧ (f x).region = none ∧ (f x).gid = x.gid) :
    m.OnlyEnds ((m.mapTask m.t.gid f).freeTiles m.t.gid) := by
  have ht : ((m.mapTask m.t.gid f).freeTiles m.t.gid).t = f m.t := if_pos ⟨rfl, by simp [hp]⟩
  obtain ⟨h1, h2, h3, h4⟩ := hf m.t
  exact ⟨⟨by rw [ht, h1], by rw [ht, h2], by rw [ht, h3], by rw [ht, h4], rfl⟩, fun _ => rfl, fun _ _ => ⟨_, rfl⟩⟩

theorem Mach.onlyEnds_endTask {m : Mach} (h : m.t.phase = .ready) : m.OnlyEnds (m.endTask m.t.gid) := by
  have hu := m.onlyUnpins_dropCursors m.t.gid
  have he := fun f hf => hu.onlyEnds (Mach.onlyEnds_mapTask (f := f) (hu.focus.phase h) hf)
  rw [hu.focus.gid] at he
  unfold Mach.endTask
  rw [Mach.find_focus h]
  dsimp only
  split
  · refine Mach.OnlyEnds.updRec (he _ fun x => ?_) _ _ _
    exact ⟨rfl, rfl, rfl, rfl⟩
  · exact he _ fun _ => ⟨rfl, rfl, rfl, rfl⟩

/-- The end of a task leaves every other task where it is. -/
theorem Mach.mem_others_endTask {m : Mach} {g : Gid} {q : Task} (hq : q ∈ m.others) (hg : q.gid ≠ g) :
    q ∈ (m.endTask g).others := by
  have he : ∀ (a : Mach) (f : Task → Task), q ∈ a.others → q ∈ ((a.mapTask g f).freeTiles g).others :=
    fun a f ha => Mach.mem_others_mapTask f ha hg
  unfold Mach.endTask
  split
  · exact hq
  · dsimp only
    split
    · rw [Mach.updRec_others]
      exact he _ _ (Mach.mem_others_dropCursors hq hg)
    · exact he _ _ (Mach.mem_others_dropCursors hq hg)

end Sys2Proof.Machine
end

section
/-! SUPPORT. Marks of the answer table in the log (23 R395, R397), groups that end (06 R124, R127), and the end of a producer
(06 R126, R140, R141). -/

namespace Sys2Proof.Machine

/-! ### Entries changed under a mark -/

/-- m1 is m after entries of tables were changed: nothing but the entries differs. -/
structure Mach.OnlyEntries (m m1 : Mach) : Prop where
  t : m1.t = m.t
  others : m1.others = m.others
  mem : m1.mem = m.mem
  ctx : ∀ d, ∃ es, m1.ctx d = { m.ctx d with loam := { (m.ctx d).loam with entries := es } }

theorem Mach.OnlyEntries.trans {m m1 m2 : Mach} (h : m.OnlyEntries m1) (h1 : m1.OnlyEntries m2) : m.OnlyEntries m2 where
  t := h1.t.trans h.t
  others := h1.others.trans h.others
  mem := h1.mem.trans h.mem
  ctx d := by
    obtain ⟨es, he⟩ := h.ctx d
    obtain ⟨es1, he1⟩ := h1.ctx d
    exact ⟨es1, by rw [he1, he]⟩

theorem Mach.onlyEntries_updEntry (m : Mach) (c i : Nat) (f : Entry → Entry) : m.OnlyEntries (m.updEntry c i f) := by
  refine ⟨rfl, rfl, rfl, fun d => ?_⟩
  rw [Mach.ctx_updEntry]
  split
  · next h => subst h; exact ⟨_, rfl⟩
  · exact ⟨_, rfl⟩

theorem Mach.onlyEntries_foldl (m : Mach) (c : Nat) (is : List Nat) (f : Entry → Entry) :
    m.OnlyEntries (is.foldl (fun a i => a.updEntry c i f) m) :=
  List.foldlRecOn _ _ (motive := m.OnlyEntries) ⟨rfl, rfl, rfl, fun _ => ⟨_, rfl⟩⟩
    fun a ha i _ => ha.trans (a.onlyEntries_updEntry c i f)

/-- A change that is the same when made twice, made to the entries of a list. -/
theorem Mach.entry_foldl {f : Entry → Entry} (hf : ∀ e, f (f e) = f e) (c d j : Nat) : ∀ (is : List Nat) (m : Mach),
    (is.foldl (fun a i => a.updEntry c i f) m).entry d j = if d = c ∧ j ∈ is then f (m.entry c j) else m.entry d j
  | [], m => by simp
  | i :: is, m => by
    rw [List.foldl_cons, Mach.entry_foldl hf c d j is]
    simp only [Mach.entry_updEntry, List.mem_cons]
    by_cases hd : d = c <;> by_cases hi : j = i <;> by_cases hm : j ∈ is <;> simp [hd, hi, hm, hf]

theorem Mach.entry_appendGroup (m : Mach) (c party : Nat) (g : Gid) (ms : List SRec) (d j : Nat) :
    (m.appendGroup c party g ms).entry d j = m.entry d j := by
  have : ((m.appendGroup c party g ms).ctx d).loam = (m.ctx d).loam := by
    rw [Mach.appendGroup, Mach.ctx_setCtx]
    split
    · next h => subst h; rfl
    · rfl
  rw [Mach.entry, this, Mach.entry]

theorem Mach.markEntries_frame (m : Mach) (c : Nat) (g : Gid) (is : List Nat) (f : Entry → Entry) :
    (m.markEntries c g is f).t = m.t ∧ (m.markEntries c g is f).others = m.others ∧ (m.markEntries c g is f).mem = m.mem := by
  have h := m.onlyEntries_foldl c is f
  exact ⟨h.t, h.others, h.mem⟩

/-- The tables under a mark. -/
theorem Mach.entry_markEntries {f : Entry → Entry} (hf : ∀ e, f (f e) = f e) (m : Mach) (c : Nat) (g : Gid) (is : List Nat)
    (d j : Nat) : (m.markEntries c g is f).entry d j = if d = c ∧ j ∈ is then f (m.entry c j) else m.entry d j := by
  rw [Mach.markEntries, Mach.markEntriesBy, Mach.entry_appendGroup, Mach.entry_foldl hf]

theorem Mach.entry_markEntries_one (m : Mach) (c : Nat) (g : Gid) (i : Nat) (f : Entry → Entry) (d j : Nat) :
    (m.markEntries c g [i] f).entry d j = if d = c ∧ j = i then f (m.entry c i) else m.entry d j := by
  rw [Mach.markEntries, Mach.markEntriesBy, Mach.entry_appendGroup]
  exact m.entry_updEntry c d i j f

/-! ### What a mark appends -/

/-- m1 is m with records of at most n bytes appended to a context's log. -/
def Mach.Appends (m m1 : Mach) (c n : Nat) : Prop :=
  ∃ rs, (m1.ctx c).silt = (m.ctx c).silt.append rs ∧ (rs.map SRec.bytes).sum ≤ n

theorem Mach.Appends.congr {m m1 m' m1' : Mach} {c n n' : Nat} (h : m.Appends m1 c n) (h0 : (m'.ctx c).silt = (m.ctx c).silt)
    (h1 : (m1'.ctx c).silt = (m1.ctx c).silt) (hn : n ≤ n') : m'.Appends m1' c n' := by
  obtain ⟨rs, hs, hb⟩ := h
  exact ⟨rs, by rw [h1, h0, hs], hb.trans hn⟩

/-- Records that the log has room for fit into it. -/
theorem Mach.Appends.fits {m m1 : Mach} {c n : Nat} (h : m.Appends m1 c n) (hr : (m.ctx c).silt.room n = true) :
    m.fits m1 c = true := by
  obtain ⟨rs, hs, hb⟩ := h
  exact fits_append hs (Silt.room_mono hr hb)

theorem Mach.appends_appendGroup (m : Mach) (c party : Nat) (g : Gid) (ms : List SRec) :
    m.Appends (m.appendGroup c party g ms) c (32 + (ms.map SRec.bytes).sum) :=
  ⟨{ seq := 0, kind := .group, key := ms.length, party := party, gid := g } :: ms,
    by rw [Mach.appendGroup, Mach.ctx_setCtx, if_pos rfl], by simp [SRec.bytes]⟩

/-- A mark takes its group's header, and a line's record for each line that changes. -/
theorem Mach.appends_markEntries (m : Mach) (c : Nat) (g : Gid) (is : List Nat) (f : Entry → Entry) (b : Nat → Nat)
    (hb : ∀ i ∈ is, (changedLines ((m.ctx c).loam.linesOf [i])
      (((is.foldl (fun a i => a.updEntry c i f) m).ctx c).loam.linesOf [i])).length ≤ b i) :
    m.Appends (m.markEntries c g is f) c (32 + 96 * (is.map b).sum) := by
  obtain ⟨es, he⟩ := (m.onlyEntries_foldl c is f).ctx c
  refine (Mach.appends_appendGroup _ c _ g _).congr (by rw [he]) rfl (Nat.add_le_add_left ?_ 32)
  exact entryRecs_bytes_le _ _ g _ _ b is hb

theorem Loam.linesOf_one (l : Loam) (i : Nat) : l.linesOf [i] = l.entryLines i (Tab.look {} l.entries i) := by simp [Loam.linesOf]

/-- A mark of one entry changes at most the lines it had and those it has. -/
theorem Mach.appends_markEntries_one (m : Mach) (c : Nat) (g : Gid) (i : Nat) (f : Entry → Entry) {n : Nat}
    (hn : 4 + (m.entry c i).ansCells.length + (m.entry c i).keyCells.length + (f (m.entry c i)).ansCells.length +
      (f (m.entry c i)).keyCells.length ≤ n) :
    m.Appends (m.markEntries c g [i] f) c (32 + 96 * n) := by
  refine (m.appends_markEntries c g [i] f (fun _ => n) fun j hj => ?_).congr rfl rfl (by simp)
  obtain rfl := List.mem_singleton.mp hj
  have he : (m.updEntry c j f).entry c j = f (m.entry c j) := by simp
  have h0 := (m.ctx c).loam.entryLines_length_le j (m.entry c j)
  have h1 := ((m.updEntry c j f).ctx c).loam.entryLines_length_le j (f (m.entry c j))
  rw [← he] at h1 hn
  refine (changedLines_length_le _ _).trans ?_
  rw [Loam.linesOf_one, Loam.linesOf_one]
  exact (Nat.add_le_add h0 h1).trans (by omega)

/-- A change that leaves the cells of entries as they are writes two lines of each. -/
theorem Mach.appends_markEntries_header (m : Mach) (c : Nat) (g : Gid) (is : List Nat) {f : Entry → Entry}
    (hf : ∀ e, f (f e) = f e) (hc : ∀ e, (f e).ansChain = e.ansChain ∧ (f e).keyChain = e.keyChain) :
    m.Appends (m.markEntries c g is f) c (32 + 96 * (2 * is.length)) := by
  refine (m.appends_markEntries c g is f (fun _ => 2) fun j hj => ?_).congr rfl rfl (by simp [Nat.mul_comm])
  have he : (is.foldl (fun a i => a.updEntry c i f) m).entry c j = f (m.entry c j) := by
    rw [Mach.entry_foldl hf, if_pos ⟨rfl, hj⟩]
  obtain ⟨es, hes⟩ := (m.onlyEntries_foldl c is f).ctx c
  rw [Mach.entry, hes] at he
  rw [Loam.linesOf_one, Loam.linesOf_one, hes, he]
  refine changedLines_header_le _ _ _ _ _ rfl ?_
  rw [Loam.cellLines, Loam.cellLines]
  exact congrArg₂ _ (congrArg _ (hc _).1) (congrArg _ (hc _).2)

/-! ### A group's evaluation (R124, R125) -/

/-- m1 is m after a group was evaluated: its members may be COMPLETE, and tasks have been woken. -/
structure Mach.Evaluates (c l : Nat) (m m1 : Mach) : Prop where
  mem : m1.mem = m.mem
  focus : m.t.StaysReady m1.t
  silt : (m1.ctx c).silt = (m.ctx c).silt ∨ m.Appends m1 c (32 + 96 * (2 * (m.members c l).length))
  entry : ∀ j, ∃ st, m1.entry c j = { m.entry c j with state := st }

/-- Tasks alone change where a group is not complete. -/
theorem Mach.evaluates_of_ctxs {m m1 : Mach} (c l : Nat) (hm : m1.mem = m.mem) (hf : m.t.StaysReady m1.t)
    (hc : m1.ctxs = m.ctxs) : m.Evaluates c l m1 :=
  ⟨hm, hf, .inl (by rw [Mach.ctx_of_ctxs hc]), fun j => ⟨(m.entry c j).state, by rw [Mach.entry_of_ctxs hc]⟩⟩

/-- A member of a group that is complete. -/
def Entry.completed (e : Entry) : Entry := { e with state := .complete }

theorem Mach.completeGroup_eq (m : Mach) (c : Nat) (g : Gid) (es : List Nat) :
    m.completeGroup c g es = (m.wakeParked c es).markEntries c g es Entry.completed := rfl

theorem Mach.evaluates_completeGroup (m : Mach) (c l : Nat) (g : Gid) :
    m.Evaluates c l (m.completeGroup c g (m.members c l)) := by
  have hw := m.onlyWakes_wakeParked c (m.members c l)
  have hf : ∀ e : Entry, (Entry.completed (Entry.completed e)) = Entry.completed e := fun _ => rfl
  rw [Mach.completeGroup_eq]
  obtain ⟨ht, -, hm⟩ := (m.wakeParked c (m.members c l)).markEntries_frame c g (m.members c l) Entry.completed
  refine ⟨hm.trans hw.mem, by rw [ht]; exact hw.focus.toStaysReady, .inr ?_, fun j => ?_⟩
  · exact (Mach.appends_markEntries_header _ c g _ hf fun _ => ⟨rfl, rfl⟩).congr (by rw [Mach.ctx_of_ctxs hw.ctxs])
      rfl le_rfl
  · rw [Mach.entry_markEntries hf, Mach.entry_of_ctxs hw.ctxs]
    split
    · exact ⟨_, rfl⟩
    · exact ⟨_, rfl⟩

theorem Task.staysReady_resume (t : Task) (c : RCell) (now no : Nat) :
    t.StaysReady (((t.putCell 0 c).resume).enqueue now no) := by
  unfold Task.enqueue
  split <;> exact ⟨rfl, fun _ => rfl, fun h => by show t.region.map _ = none; rw [h]; rfl⟩

theorem Mach.evaluates_evalGroup (m : Mach) (c l : Nat) (g : Gid) : m.Evaluates c l (m.evalGroup c l g) := by
  unfold Mach.evalGroup
  dsimp only
  split
  · exact Mach.evaluates_of_ctxs c l rfl (.refl _) rfl
  · split
    · exact m.evaluates_completeGroup c l g
    · refine List.foldlRecOn _ _ (motive := m.Evaluates c l) (Mach.evaluates_of_ctxs c l rfl (.refl _) rfl) fun a ha t _ => ?_
      exact ⟨ha.mem, ha.focus.trans (a.tick.staysReady_mapTask _ fun x => x.staysReady_resume _ _ _), ha.silt, ha.entry⟩

/-! ### The end of a producer (R126, R140, R141) -/

/-- Where groups stand as they were, no more than one new entry for each old member is in a group. -/
theorem Mach.members_length_le {m m1 : Mach} {c : Nat} (l : Nat)
    (he : ∀ j, (m1.entry c j).state = (m.entry c j).state ∧ (m1.entry c j).leader = (m.entry c j).leader)
    (hf : (Tab.fallen 0 (m1.ctx c).loam.entries).Sublist (Tab.fallen 0 (m.ctx c).loam.entries)) :
    (m1.members c l).length ≤ 2 * (m.members c l).length := by
  rw [Mach.members_eq, Mach.members_eq]
  refine Tab.keysWhere_length_le (d := {}) (by simp [Entry.joins]) (fun i => ?_) hf
  have := he i
  simp only [Entry.joins]
  rw [show Tab.look {} (m1.ctx c).loam.entries i = m1.entry c i from rfl, this.1, this.2]
  rfl

theorem Mach.lineBound_ge (m : Mach) (c : Nat) : ∀ is : List Nat, 5 * is.length ≤ m.lineBound c is
  | [] => by simp
  | i :: is => by
    have := m.lineBound_ge c is
    simp only [Mach.lineBound, List.map_cons, List.sum_cons, List.length_cons] at this ⊢
    omega

/-- A member of a group that has failed. -/
def Entry.failedWith (code : Nat) (e : Entry) : Entry := { e with state := .failed, code := code % 65536 }

/-- A group that fails (R28, R127). -/
theorem Mach.failGroup_spec (m : Mach) (c l : Nat) (g : Gid) (code : Nat) :
    (m.failGroup c l g code).mem = m.mem ∧ m.t.StaysReady (m.failGroup c l g code).t ∧
    m.Appends (m.failGroup c l g code) c (32 + 96 * (2 * (m.members c l).length)) ∧
    ∀ i ∈ m.members c l, (m.failGroup c l g code).entry c i = (m.entry c i).failedWith code := by
  have hw := m.onlyWakes_wakeParked c (m.members c l)
  have hf : ∀ e : Entry, (e.failedWith code).failedWith code = e.failedWith code := fun _ => rfl
  have h : m.failGroup c l g code = (m.wakeParked c (m.members c l)).markEntries c g (m.members c l) (Entry.failedWith code) := rfl
  obtain ⟨ht, -, hm⟩ := (m.wakeParked c (m.members c l)).markEntries_frame c g (m.members c l) (Entry.failedWith code)
  rw [h]
  refine ⟨hm.trans hw.mem, by rw [ht]; exact hw.focus.toStaysReady, ?_, fun i hi => ?_⟩
  · exact (Mach.appends_markEntries_header _ c g _ hf fun _ => ⟨rfl, rfl⟩).congr (by rw [Mach.ctx_of_ctxs hw.ctxs])
      rfl le_rfl
  · rw [Mach.entry_markEntries hf, if_pos ⟨rfl, hi⟩, Mach.entry_of_ctxs hw.ctxs]

/-- A producer whose entry is gone only ends (R126). -/
theorem Mach.onlyEnds_endProducer {m : Mach} (h : m.t.phase = .ready) (hp : m.produced m.t = none) (fail : Option Nat) :
    m.OnlyEnds (m.endProducer m.t.gid fail) := by
  have hu := (m.onlyUnpins_dropCursors m.t.gid).trans (Mach.onlyWakes_resumeCaller _ m.t.gid).onlyUnpins
  have he := hu.onlyEnds (Mach.onlyEnds_endTask (hu.focus.phase h))
  rw [hu.focus.gid] at he
  unfold Mach.endProducer
  rw [Mach.find_focus h]
  simpa only [Option.bind_some, hp] using he

/-- An entry whose producer is done (R140). -/
def Entry.withDone (e : Entry) : Entry := { e with pdone := e.pdone || e.state == EState.eval }

/-- A producer done with its entry: its cursors are released and its caller resumes. -/
def Mach.leaveEntry (m : Mach) (c e : Nat) (g : Gid) : Mach := ((m.updEntry c e Entry.withDone).dropCursors g).resumeCaller g

/-- Its group is evaluated, and it ends. -/
def Mach.closeEntry (m : Mach) (c e : Nat) (g : Gid) : Mach :=
  (if (m.entry c e).state = .eval then m.evalGroup c (m.entry c e).leader g else m).endTask g

theorem Mach.endProducer_eq {m : Mach} (h : m.t.phase = .ready) {e : Nat} (hp : m.produced m.t = some e)
    (he : (m.entry m.cur e).state = .eval) (fail : Option Nat) : m.endProducer m.t.gid fail =
      ((match fail with
        | some code => m.failGroup m.cur (m.entry m.cur e).leader m.t.gid code
        | none => m).leaveEntry m.cur e m.t.gid).closeEntry m.cur e m.t.gid := by
  unfold Mach.endProducer
  rw [Mach.find_focus h]
  simp only [Option.bind_some, hp]
  rw [show ctxOf m.t.gid = m.cur from rfl, he]
  cases fail <;> rfl

theorem Mach.leaveEntry_spec (m : Mach) (c e : Nat) (g : Gid) : (m.updEntry c e Entry.withDone).OnlyUnpins (m.leaveEntry c e g) :=
  (Mach.onlyUnpins_dropCursors _ g).trans (Mach.onlyWakes_resumeCaller _ g).onlyUnpins

/-- A producer done with its entry keeps every entry but for pins and its own mark of being done. -/
theorem Mach.entry_leaveEntry (m : Mach) (c e : Nat) (g : Gid) (j : Nat) : ∃ p, (m.leaveEntry c e g).entry c j =
    { (if j = e then (m.entry c e).withDone else m.entry c j) with pins := p } := by
  obtain ⟨p, hp⟩ := (m.leaveEntry_spec c e g).entry c j
  exact ⟨p, by rw [hp, Mach.entry_updEntry]; simp only [true_and]⟩

/-- The end of a task after its group was evaluated. -/
theorem Mach.Evaluates.focusEnds {m a m1 : Mach} {c l : Nat} (h : m.Evaluates c l a) (h1 : a.OnlyEnds m1) : m.FocusEnds m1 :=
  ⟨h1.phase, h1.seat, h1.region, h1.gid.trans h.focus.gid, h1.mem.trans h.mem⟩

/-- A producer that has left its entry ends, with its entry's group evaluated where the entry is still in evaluation. -/
theorem Mach.closeEntry_spec {m : Mach} (h : m.t.phase = .ready) (c e : Nat) :
    ∃ a, m.Evaluates c (m.entry c e).leader a ∧ a.OnlyEnds (m.closeEntry c e m.t.gid) ∧
      ((m.entry c e).state ≠ .eval → a = m) := by
  unfold Mach.closeEntry
  split
  · next he =>
    have hv := m.evaluates_evalGroup c (m.entry c e).leader m.t.gid
    have hd := Mach.onlyEnds_endTask (hv.focus.phase h)
    rw [hv.focus.gid] at hd
    exact ⟨_, hv, hd, fun hn => absurd he hn⟩
  · exact ⟨m, Mach.evaluates_of_ctxs c _ rfl (.refl _) rfl, Mach.onlyEnds_endTask h, fun _ => rfl⟩

/-- The room for a mark of a group's entries is room for the two lines of twice as many. -/
theorem Mach.group_bytes_le (m : Mach) (c l n : Nat) (hn : n ≤ 2 * (m.members c l).length) :
    32 + 96 * (2 * n) ≤ 32 + 96 * m.lineBound c (m.members c l) := by
  have := m.lineBound_ge c (m.members c l)
  omega

/-- TDONE where the entry is in evaluation (R140): the producer is DONE and its answers stay; its group's mark fits where the log
has room for it. -/
theorem Mach.endProducer_done {m : Mach} (h : m.t.phase = .ready) {e : Nat} (hp : m.produced m.t = some e)
    (he : (m.entry m.cur e).state = .eval)
    (hr : (m.ctx m.cur).silt.room (32 + 96 * m.lineBound m.cur (m.members m.cur (m.entry m.cur e).leader)) = true) :
    m.FocusEnds (m.endProducer m.t.gid none) ∧ m.fits (m.endProducer m.t.gid none) m.cur = true ∧
    ((m.endProducer m.t.gid none).entry m.cur e).pdone = true ∧
    ((m.endProducer m.t.gid none).entry m.cur e).answers = (m.entry m.cur e).answers := by
  rw [Mach.endProducer_eq h hp he]
  dsimp only
  have hu := m.leaveEntry_spec m.cur e m.t.gid
  have hg : ∀ j, ((m.leaveEntry m.cur e m.t.gid).entry m.cur j).state = (m.entry m.cur j).state ∧
      ((m.leaveEntry m.cur e m.t.gid).entry m.cur j).leader = (m.entry m.cur j).leader := by
    intro j
    obtain ⟨p, hp⟩ := m.entry_leaveEntry m.cur e m.t.gid j
    rw [hp]
    split
    · next hj => subst hj; exact ⟨rfl, rfl⟩
    · exact ⟨rfl, rfl⟩
  have hl := Mach.members_length_le (m.entry m.cur e).leader hg ((hu.fallen m.cur).trans (m.fallen_updEntry _ _ _ _))
  have hs : ((m.leaveEntry m.cur e m.t.gid).ctx m.cur).silt = (m.ctx m.cur).silt := by rw [hu.silt, Mach.silt_updEntry]
  obtain ⟨a, hv, hd, -⟩ := Mach.closeEntry_spec (hu.focus.phase h) m.cur e
  rw [show (m.leaveEntry m.cur e m.t.gid).t.gid = m.t.gid from hu.focus.gid] at hd
  rw [(hg e).2] at hv
  have hf := hv.focusEnds hd
  refine ⟨⟨hf.phase, hf.seat, hf.region, hf.gid.trans hu.focus.gid, hf.mem.trans hu.mem⟩, ?_, ?_⟩
  · rcases hv.silt with hv | hv
    · exact fits_of_silt (by rw [hd.silt, hv, hs])
    · exact (hv.congr hs.symm (hd.silt _) (m.group_bytes_le _ _ _ hl)).fits hr
  · obtain ⟨p, hp⟩ := hd.entry m.cur e
    obtain ⟨st, hst⟩ := hv.entry e
    obtain ⟨q, hq⟩ := m.entry_leaveEntry m.cur e m.t.gid e
    rw [hp, hst, hq, if_pos rfl]
    exact ⟨by simp [Entry.withDone, he], rfl⟩

/-- TFAIL where the entry is in evaluation (R141): every member of the group has FAILED with the code. -/
theorem Mach.endProducer_fail {m : Mach} (h : m.t.phase = .ready) {e : Nat} (hp : m.produced m.t = some e)
    (he : (m.entry m.cur e).state = .eval)
    (hr : (m.ctx m.cur).silt.room (32 + 96 * m.lineBound m.cur (m.members m.cur (m.entry m.cur e).leader)) = true) (code : Nat) :
    m.FocusEnds (m.endProducer m.t.gid (some code)) ∧ m.fits (m.endProducer m.t.gid (some code)) m.cur = true ∧
    ∀ i ∈ m.members m.cur (m.entry m.cur e).leader,
      ((m.endProducer m.t.gid (some code)).entry m.cur i).state = .failed ∧
      ((m.endProducer m.t.gid (some code)).entry m.cur i).code = code % 65536 := by
  rw [Mach.endProducer_eq h hp he]
  dsimp only
  obtain ⟨hm, ht, ha, hi⟩ := m.failGroup_spec m.cur (m.entry m.cur e).leader m.t.gid code
  generalize m.failGroup m.cur (m.entry m.cur e).leader m.t.gid code = b at hm ht ha hi
  have hu := b.leaveEntry_spec m.cur e m.t.gid
  have hi1 : ∀ i ∈ m.members m.cur (m.entry m.cur e).leader, ((b.leaveEntry m.cur e m.t.gid).entry m.cur i).state = .failed ∧
      ((b.leaveEntry m.cur e m.t.gid).entry m.cur i).code = code % 65536 := by
    intro i hmem
    obtain ⟨p, hp⟩ := b.entry_leaveEntry m.cur e m.t.gid i
    rw [hp]
    split
    · next hj => subst hj; rw [hi _ hmem]; exact ⟨rfl, rfl⟩
    · rw [hi _ hmem]; exact ⟨rfl, rfl⟩
  generalize b.leaveEntry m.cur e m.t.gid = d at hu hi1
  obtain ⟨a, -, hd, hn⟩ := Mach.closeEntry_spec (hu.focus.phase (ht.phase h)) m.cur e
  obtain rfl := hn (by rw [(hi1 e (Mach.mem_members he)).1]; decide)
  have hg : a.t.gid = m.t.gid := hu.focus.gid.trans ht.gid
  rw [hg] at hd
  refine ⟨⟨hd.phase, hd.seat, hd.region, hd.gid.trans hg, hd.mem.trans (hu.mem.trans hm)⟩, ?_, fun i hmem => ?_⟩
  · refine (ha.congr rfl (by rw [hd.silt, hu.silt, Mach.silt_updEntry]) (m.group_bytes_le _ _ _ ?_)).fits hr
    omega
  · obtain ⟨p, hp⟩ := hd.entry m.cur i
    rw [hp]
    exact hi1 i hmem

end Sys2Proof.Machine
end

section
/-! SUPPORT. The effects of TRET, TDONE, TFAIL and EXIT (06 R139 to R141, 05 R107), and the serials and range tasks that a task
unit makes (04 R68, R71). -/

namespace Sys2Proof.Machine

/-! ### The instructions by their effects -/

theorem exec_tret (m : Option XMod) (a : Opnd) (s : State) : exec (.tret m a) s = issue (.abort abTable) (tretM a) s := rfl
theorem exec_tdone (s : State) : exec .tdone s = issue (.abort abTable) tdoneM s := rfl
theorem exec_tfail (m : Option XMod) (a : Opnd) (s : State) : exec (.tfail m a) s = issue (.abort abTable) (tfailM a) s := rfl
theorem exec_exit (s : State) : exec .exit s = issue (.abort abForbidden) exitM s := rfl

/-- An effect that stops with a trap of the task itself raises it and does nothing else. -/
theorem traps_of {i : Instr} {s : State} {rule : RRule} {f : Mach → Except Stop Mach} {code : Nat} {addr : Word}
    (he : exec i s = issue rule f s) (h : s.plain) (hf : f s.m = .error (.trap code addr 0)) : Traps i s code addr :=
  he.trans (issue_error h.1 hf)

/-- The state after an effect that ends the task in focus. -/
def State.retired (s : State) (m : Mach) : State := { s with m := { m with t := m.t.retire } }

theorem exec_ends {i : Instr} {s : State} {rule : RRule} {f : Mach → Except Stop Mach} {m1 : Mach}
    (he : exec i s = issue rule f s) (h : s.plain) (hf : f s.m = .ok m1) (h1 : s.m.FocusEnds m1)
    (hs : s.m.fits m1 s.m.cur = true) : exec i s = .next (s.retired m1) :=
  he.trans (issue_ok h.1 hf h1.region (by simp [Task.isHeld, h1.phase]) hs)

/-! ### TRET (R139) -/

/-- Of a table, entries alone change under a mark. -/
theorem Mach.loam_markEntries (m : Mach) (c : Nat) (g : Gid) (is : List Nat) (f : Entry → Entry) (d : Nat) :
    ∃ es, ((m.markEntries c g is f).ctx d).loam = { (m.ctx d).loam with entries := es } := by
  obtain ⟨es, he⟩ := (m.onlyEntries_foldl c is f).ctx d
  refine ⟨es, ?_⟩
  rw [Mach.markEntries, Mach.markEntriesBy, Mach.appendGroup, Mach.ctx_setCtx]
  split
  · next h => subst h; rw [he]
  · rw [he]

/-- An entry with an answer more, held in a cell. -/
def Entry.withAnswer (v : List Word) (cell : Nat) (e : Entry) : Entry :=
  { e with answers := e.answers ++ [v], ansCells := e.ansCells ++ [cell] }

theorem Mach.append_eq (m : Mach) (c e : Nat) (v : List Word) : m.append c e v =
    ((m.markEntries c m.t.gid [e] (Entry.withAnswer v (leastFree (m.ctx c).loam.usedAns))).wakeParked c [e]).setCtx c fun x =>
      { x with loam := { x.loam with ansFree := x.loam.ansFree - 1 } } := rfl

/-- An answer appended: it stands last in its entry, its cell is no longer free, and its mark fits where the log has room for it. -/
theorem Mach.append_spec (m : Mach) (c e : Nat) (v : List Word) :
    (m.append c e v).mem = m.mem ∧ m.t.StaysAt (m.append c e v).t ∧
    m.Appends (m.append c e v) c (32 + 96 * m.lineBound c [e]) ∧
    ((m.append c e v).entry c e).answers = (m.entry c e).answers ++ [v] ∧
    ((m.append c e v).ctx c).loam.ansFree = (m.ctx c).loam.ansFree - 1 := by
  rw [Mach.append_eq]
  generalize hf : Entry.withAnswer v (leastFree (m.ctx c).loam.usedAns) = f
  have hw := (m.markEntries c m.t.gid [e] f).onlyWakes_wakeParked c [e]
  obtain ⟨ht, -, hm⟩ := m.markEntries_frame c m.t.gid [e] f
  obtain ⟨es, hl⟩ := m.loam_markEntries c m.t.gid [e] f c
  have ha : m.Appends (m.markEntries c m.t.gid [e] f) c (32 + 96 * m.lineBound c [e]) := by
    refine m.appends_markEntries_one c m.t.gid e f ?_
    rw [← hf]
    simp only [Entry.withAnswer, Mach.lineBound, List.map_cons, List.map_nil, List.sum_cons, List.sum_nil, List.length_append,
      List.length_singleton]
    omega
  refine ⟨hw.mem.trans hm, ht ▸ hw.focus, ha.congr rfl ?_ le_rfl, ?_, ?_⟩
  · rw [Mach.ctx_setCtx, if_pos rfl, Mach.ctx_of_ctxs hw.ctxs]
  · have he : (m.markEntries c m.t.gid [e] f).entry c e = f (m.entry c e) := by
      rw [Mach.entry_markEntries_one, if_pos ⟨rfl, rfl⟩]
    rw [Mach.entry] at he ⊢
    rw [Mach.ctx_setCtx, if_pos rfl, Mach.ctx_of_ctxs hw.ctxs, he, ← hf]
    rfl
  · rw [Mach.ctx_setCtx, if_pos rfl, Mach.ctx_of_ctxs hw.ctxs, hl]

section
variable {m : Mach} {w : Fin 256} (hp : m.t.produces.isSome) (hb : w.val + 6 < m.t.alloc)
include hp hb

/-- TRET of an answer that no entry takes: nothing more than a release. -/
theorem tretM_discards (hw : m.weak = []) (h : m.takesAnswer (m.t.blockAt w.val) = none) : tretM (.slot w) m = .ok m := by
  simp [tretM, Mach.mustProduce, hp, slotNo, Task.badRun, hb, releaseAt_none hw, h, bind, Except.bind]

/-- TRET with no answer cell free. -/
theorem tretM_exhausted {e : Nat} (h : m.takesAnswer (m.t.blockAt w.val) = some e) (hf : (m.ctx m.cur).loam.ansFree = 0) :
    tretM (.slot w) m = .error (.trap 0x0C 1 0) := by
  simp [tretM, Mach.mustProduce, hp, slotNo, Task.badRun, hb, h, hf, tblExhaust, bind, Except.bind]

/-- TRET of an answer that an entry takes. -/
theorem tretM_appends (hw : m.weak = []) {e : Nat} (h : m.takesAnswer (m.t.blockAt w.val) = some e)
    (hf : (m.ctx m.cur).loam.ansFree ≠ 0) :
    tretM (.slot w) m = .ok (m.append m.cur e (m.t.blockAt w.val)) := by
  simp [tretM, Mach.mustProduce, hp, slotNo, Task.badRun, hb, releaseAt_none hw, h, hf, bind, Except.bind]

end

/-- The block at a slot (R135). -/
theorem Task.blockAt_eq (t : Task) (w : Nat) : t.blockAt w = (List.range 7).map fun i => (t.cell (8 + w + i)).read := by
  simp only [Task.blockAt, slotKey, Nat.add_assoc]

theorem Mach.produces_of_produced {m : Mach} {e : Nat} (h : m.produced m.t = some e) : m.t.produces.isSome := by
  obtain ⟨h, -⟩ := Option.filter_eq_some_iff.mp h
  simp [h]

/-- An entry takes an answer where it is in evaluation and holds no equal one (R139). -/
theorem Mach.takesAnswer_eq {m : Mach} {e : Nat} (h : m.produced m.t = some e) (v : List Word) :
    m.takesAnswer v = if (m.entry m.cur e).state = .eval ∧ v ∉ (m.entry m.cur e).answers then some e else none := by
  simp only [Mach.takesAnswer, h, Option.filter_some]
  simp

/-! ### TDONE, TFAIL and EXIT of a producer (R140, R141) -/

theorem tdoneM_eq {m : Mach} (hp : m.t.produces.isSome) (hw : m.weak = []) : tdoneM m = .ok (m.endProducer m.t.gid none) := by
  simp [tdoneM, Mach.mustProduce, hp, releaseAt_none hw, bind, Except.bind]

theorem tfailM_eq {m : Mach} (hp : m.t.produces.isSome) (hw : m.weak = []) {a : Opnd} (ha : m.t.bounds [a] = .ok ()) :
    tfailM a m = .ok (m.endProducer m.t.gid (some ((m.t.val a).toNat % 65536))) := by
  simp [tfailM, Mach.mustProduce, hp, ha, releaseAt_none hw, bind, Except.bind]

/-- EXIT in a producer is TDONE (05 R107). -/
theorem exitM_producer {m : Mach} (hp : m.t.produces.isSome) : exitM m = tdoneM m := if_pos hp

/-- An instruction that ends the producer as DONE. -/
theorem exec_done {i : Instr} (hi : i = .tdone ∨ i = .exit) {s : State} (h : s.plain) (hr : s.atRest) (hp : s.m.t.produces.isSome)
    (h1 : s.m.FocusEnds (s.m.endProducer s.m.t.gid none)) (hs : s.m.fits (s.m.endProducer s.m.t.gid none) s.m.cur = true) :
    exec i s = .next (s.retired (s.m.endProducer s.m.t.gid none)) := by
  rcases hi with rfl | rfl
  · exact exec_ends (exec_tdone s) h (tdoneM_eq hp hr.weak) h1 hs
  · exact exec_ends (exec_exit s) h ((exitM_producer hp).trans (tdoneM_eq hp hr.weak)) h1 hs

/-- One operand below ALLOC. -/
theorem State.fit.bounds {s : State} {os : List Opnd} (h : s.fit os) : s.m.t.bounds os = .ok () := bounds_ok h

/-! ### EXIT of a task that produces nothing (05 R107) -/

/-- m1 is m after a task unit drew serials. -/
structure Mach.OnlyDraws (m m1 : Mach) : Prop where
  t : m1.t = m.t
  others : m1.others = m.others
  mem : m1.mem = m.mem
  ctx : ∀ d, ∃ n b, m1.ctx d = { m.ctx d with nextSerial := n, blocks := b }

theorem Mach.OnlyDraws.refl (m : Mach) : m.OnlyDraws m := ⟨rfl, rfl, rfl, fun _ => ⟨_, _, rfl⟩⟩

theorem Mach.OnlyDraws.trans {m m1 m2 : Mach} (h : m.OnlyDraws m1) (h1 : m1.OnlyDraws m2) : m.OnlyDraws m2 where
  t := h1.t.trans h.t
  others := h1.others.trans h.others
  mem := h1.mem.trans h.mem
  ctx d := by
    obtain ⟨n, b, he⟩ := h.ctx d
    obtain ⟨n1, b1, he1⟩ := h1.ctx d
    exact ⟨n1, b1, by rw [he1, he]⟩

theorem Mach.onlyDraws_setCtx (m : Mach) (c : Nat) {f : Ctx → Ctx}
    (hf : ∀ x, ∃ n b, f x = { x with nextSerial := n, blocks := b }) : m.OnlyDraws (m.setCtx c f) := by
  refine ⟨rfl, rfl, rfl, fun d => ?_⟩
  rw [Mach.ctx_setCtx]
  split
  · next h => subst h; exact hf _
  · exact ⟨_, _, rfl⟩

theorem Mach.onlyDraws_nextSerialOf (m : Mach) (c cl : Nat) : m.OnlyDraws (m.nextSerialOf c cl).2 := by
  have hb : m.OnlyDraws (m.drawBlock c cl) := by
    unfold Mach.drawBlock
    split
    · dsimp only
      have h := m.onlyDraws_setCtx c (f := fun x => { x with
        nextSerial := (x.nextSerial + (Config.serialBlock m.free + 1)) % 2 ^ 40,
        blocks := Tab.put (0, 0) x.blocks cl (x.nextSerial % 2 ^ 40, Config.serialBlock m.free + 1) }) fun x => ⟨_, _, rfl⟩
      exact ⟨h.t, h.others, h.mem, h.ctx⟩
    · exact .refl m
  exact hb.trans ((m.drawBlock c cl).onlyDraws_setCtx c fun x => ⟨_, _, rfl⟩)

theorem Mach.onlyDraws_serialFrom (c cl : Nat) : ∀ (n : Nat) (m : Mach), m.OnlyDraws (m.serialFrom c cl n).2
  | 0, m => m.onlyDraws_nextSerialOf c cl
  | n + 1, m => by
    have h := m.onlyDraws_nextSerialOf c cl
    unfold Mach.serialFrom
    dsimp only
    split
    · exact h.trans (Mach.onlyDraws_serialFrom c cl n _)
    · exact h

theorem Mach.onlyDraws_takeSerial (m : Mach) (c cl : Nat) : m.OnlyDraws (m.takeSerial c cl).2 :=
  Mach.onlyDraws_serialFrom c cl _ m

/-- A serial drawn leaves logs and tables as they are. -/
theorem Mach.OnlyDraws.silt_loam {m m1 : Mach} (h : m.OnlyDraws m1) (c : Nat) :
    (m1.ctx c).silt = (m.ctx c).silt ∧ (m1.ctx c).loam = (m.ctx c).loam := by
  obtain ⟨n, b, he⟩ := h.ctx c
  rw [he]
  exact ⟨rfl, rfl⟩

/-- A new range task of a record (R67, R68). -/
theorem Mach.newRange_spec (m : Mach) (c r : Nat) (kind : Kind) (lo hi : Nat) (isSealed : Bool) (cl : Nat) :
    let q := (m.newRange c r kind lo hi isSealed cl).1
    let m1 := (m.newRange c r kind lo hi isSealed cl).2
    (q.gid = gidOf c (m.takeSerial c cl).1 ∧ q.kind = kind ∧ q.rec_ = some r ∧ q.lo = lo ∧ q.hi = hi ∧
      q.isSealed = isSealed ∧ q.cluster = cl ∧ q.phase = .ready ∧ q.workId = BitVec.ofNat 64 lo) ∧
    m1.t = m.t ∧ m1.mem = m.mem ∧ ∀ d, (m1.ctx d).silt = (m.ctx d).silt := by
  have h := m.onlyDraws_takeSerial c cl
  refine ⟨⟨rfl, rfl, rfl, rfl, rfl, rfl, rfl, rfl, rfl⟩, h.t, h.mem, fun d => ?_⟩
  exact (Mach.updRec_ctx _ c r d _).1.trans (h.silt_loam d).1

/-- EXIT with an interval left: a new task of its record takes it (R107). -/
theorem Mach.exitPlain_range {m : Mach} (h : m.t.phase = .ready) {r : Nat} (hr : m.t.rec_ = some r) (hl : m.t.lo < m.t.hi)
    (hk : m.t.kind = .graph ∨ m.t.kind = .range) (hf : m.find (gidOf m.cur (m.takeSerial m.cur m.t.cluster).1) = none) :
    m.FocusEnds m.exitPlain ∧ m.fits m.exitPlain m.cur = true ∧
    (m.newRange m.cur r .range m.t.lo m.t.hi m.t.isSealed m.t.cluster).1 ∈ m.exitPlain.others := by
  obtain ⟨⟨hg, -⟩, ht, hm, hs⟩ := m.newRange_spec m.cur r .range m.t.lo m.t.hi m.t.isSealed m.t.cluster
  have hq : (m.newRange m.cur r .range m.t.lo m.t.hi m.t.isSealed m.t.cluster).1.gid ≠ m.t.gid := by
    rw [hg]
    intro he
    rw [he, Mach.find_focus h] at hf
    exact absurd hf (by simp)
  have hx : m.exitPlain = ((m.newRange m.cur r .range m.t.lo m.t.hi m.t.isSealed m.t.cluster).2.addTask
      (m.newRange m.cur r .range m.t.lo m.t.hi m.t.isSealed m.t.cluster).1).endTask m.t.gid := by
    have : m.t.ranges = true := by rcases hk with hk | hk <;> simp [Task.ranges, hk]
    simp [Mach.exitPlain, hr, this, hl]
  rw [hx]
  generalize (m.newRange m.cur r .range m.t.lo m.t.hi m.t.isSealed m.t.cluster).1 = q at hq
  generalize (m.newRange m.cur r .range m.t.lo m.t.hi m.t.isSealed m.t.cluster).2 = m1 at ht hm hs
  have he := Mach.onlyEnds_endTask (m := m1.addTask q) (by rw [Mach.addTask_t, ht]; exact h)
  rw [Mach.addTask_t, ht] at he
  refine ⟨⟨he.phase, he.seat, he.region, he.gid.trans (by rw [Mach.addTask_t, ht]), he.mem.trans hm⟩,
    fits_of_silt ((he.silt _).trans (hs _)), Mach.mem_others_endTask (by simp) hq⟩

/-- EXIT with no interval left, or of a message task. -/
theorem Mach.exitPlain_end {m : Mach} (h : m.t.hi ≤ m.t.lo ∨ m.t.kind = .message) : m.exitPlain = m.endTask m.t.gid := by
  have : (m.t.ranges && decide (m.t.lo < m.t.hi)) = false := by
    rcases h with h | h
    · simp [h]
    · simp [Task.ranges, h]
  unfold Mach.exitPlain
  split
  · rw [this]; rfl
  · rfl

end Sys2Proof.Machine
end

section
/-! PROOFS. O33: TRET, TDONE, TFAIL and EXIT. -/

namespace Sys2Proof.Machine

/-- TRET of a new answer. -/
theorem exec_tret_new {s : State} (hr : s.atRest) (h : s.plain) (m : Option XMod) {w : Fin 256} {e : Nat}
    (hp : s.m.produced s.m.t = some e) (hb : w.val + 6 < s.m.t.alloc) (he : (s.m.entry s.m.cur e).state = .eval)
    (hv : s.m.t.blockAt w.val ∉ (s.m.entry s.m.cur e).answers) (hf : 0 < (s.m.ctx s.m.cur).loam.ansFree)
    (hl : s.roomy (s.m.lineBound s.m.cur [e])) :
    exec (.tret m (.slot w)) s = .next (s.retired (s.m.append s.m.cur e (s.m.t.blockAt w.val))) := by
  obtain ⟨-, ht, ha, -⟩ := s.m.append_spec s.m.cur e (s.m.t.blockAt w.val)
  have hx := tretM_appends (Mach.produces_of_produced hp) hb hr.weak ((Mach.takesAnswer_eq hp _).trans (if_pos ⟨he, hv⟩))
    (Nat.ne_of_gt hf)
  exact (exec_tret m _ s).trans (issue_ok h.1 hx (ht.region h.1) (ready_not_held (ht.phase h.2)) (ha.fits hl))

/-- TRET of an answer that the entry does not take. -/
theorem exec_tret_discards {s : State} (hr : s.atRest) (h : s.plain) (m : Option XMod) {w : Fin 256}
    (hp : s.m.t.produces.isSome) (hb : w.val + 6 < s.m.t.alloc) (hv : s.m.takesAnswer (s.m.t.blockAt w.val) = none) :
    exec (.tret m (.slot w)) s = .next (s.done s.m.t) := by
  exact (exec_tret m _ s).trans
    (issue_ok h.1 (tretM_discards hp hb hr.weak hv) h.1 (ready_not_held h.2) (fits_of_ctxs rfl _))

/-- A producer ended, its thread too. -/
theorem Mach.FocusEnds.retired {s : State} {m1 : Mach} (h : s.m.FocusEnds m1) :
    (s.retired m1).m.t.phase = .ended ∧ (s.retired m1).m.t.seat = none ∧ (s.retired m1).m.t.gid = s.m.t.gid ∧
    (s.retired m1).m.mem = s.m.mem := ⟨h.phase, h.seat, h.gid, h.mem⟩

/-- An instruction that ends a producer whose entry is gone only ends it (R126). -/
theorem exec_gone {s : State} (hr : s.atRest) (h : s.plain) (hp : s.m.t.produces.isSome) (hg : s.m.produced s.m.t = none)
    {m : Option XMod} {a : Opnd} (ha : s.fit [a]) {i : Instr} (hi : i = .tdone ∨ i = .exit ∨ i = .tfail m a) :
    ∃ m1, exec i s = .next (s.retired m1) ∧ s.m.OnlyEnds m1 := by
  have hx := fun fail => Mach.onlyEnds_endProducer h.2 hg fail
  have hs := fun fail => fits_of_silt ((hx fail).silt s.m.cur)
  rcases hi with rfl | rfl | rfl
  · exact ⟨_, exec_done (.inl rfl) h hr hp (hx none).toFocusEnds (hs none), hx none⟩
  · exact ⟨_, exec_done (.inr rfl) h hr hp (hx none).toFocusEnds (hs none), hx none⟩
  · exact ⟨_, exec_ends (exec_tfail m a s) h (tfailM_eq hp hr.weak ha.bounds) (hx _).toFocusEnds (hs _), hx _⟩

/-- Outside a producer the instructions that publish or end one trap (R135). -/
theorem Mach.mustProduce_error {m : Mach} (hp : m.t.produces = none) : m.mustProduce = .error (.trap 0x01 m.t.pc 0) := by
  simp [Mach.mustProduce, hp, illOp]

theorem State.entry_retired (s : State) (m1 : Mach) (c j : Nat) : (s.retired m1).m.entry c j = m1.entry c j := rfl

/-- Settles O33: each clause by the effect of its instruction (`append_spec`, `endProducer_done`, `endProducer_fail`,
`onlyEnds_endProducer`, `exitPlain_range`), whose marks fit into the log. -/
theorem producers : Obligations.Producers := by
  unfold Obligations.Producers
  intro s m w a e hr h
  dsimp only
  rw [← Task.blockAt_eq]
  refine ⟨fun hp hb => ⟨fun he hv hf hl => ?_, fun he hv hf => ?_, fun hv => ?_⟩,
    fun hp he hl => ⟨fun i hi => ?_, fun ha => ?_⟩,
    fun hp hg ha => ⟨fun hb => ?_, fun i hi => ?_⟩, fun hp => ⟨?_, ?_, ?_, fun r hrec hlt hk hfind => ?_, fun hx => ?_⟩⟩
  · obtain ⟨hm, ht, -, ha, hn⟩ := s.m.append_spec s.m.cur e (s.m.t.blockAt w.val)
    exact ⟨_, exec_tret_new hr h m hp hb he hv hf hl, ha, hn, ht.img, ht.npc, hm⟩
  · exact traps_of (exec_tret m _ s) h (tretM_exhausted (Mach.produces_of_produced hp) hb
      ((Mach.takesAnswer_eq hp _).trans (if_pos ⟨he, hv⟩)) hf)
  · refine exec_tret_discards hr h m (Mach.produces_of_produced hp) hb ?_
    rw [Mach.takesAnswer_eq hp, if_neg fun hn => hv.elim (fun hs => hs hn.1) fun hm => hn.2 hm]
  · obtain ⟨hx, hs, hd, hans⟩ := Mach.endProducer_done h.2 hp he hl
    exact ⟨_, exec_done hi h hr (Mach.produces_of_produced hp) hx hs, hx.retired, hd, hans⟩
  · obtain ⟨hx, hs, hm⟩ := Mach.endProducer_fail h.2 hp he hl ((s.m.t.val a).toNat % 65536)
    refine ⟨_, exec_ends (exec_tfail m a s) h (tfailM_eq (Mach.produces_of_produced hp) hr.weak ha.bounds) hx hs, hx.retired,
      fun i hi => ?_⟩
    obtain ⟨h1, h2⟩ := hm i hi
    exact ⟨h1, h2.trans (Nat.mod_mod _ _)⟩
  · refine exec_tret_discards hr h m hp hb ?_
    simp [Mach.takesAnswer, hg]
  · obtain ⟨m1, hx, hd⟩ := exec_gone hr h hp hg ha hi
    refine ⟨_, hx, hd.toFocusEnds.retired, fun j => ?_⟩
    obtain ⟨p, hp⟩ := hd.entry s.m.cur j
    rw [State.entry_retired, hp]
    exact ⟨rfl, rfl⟩
  · exact traps_of (exec_tdone s) h (by rw [tdoneM, Mach.mustProduce_error hp]; rfl)
  · exact traps_of (exec_tret m _ s) h (by rw [tretM, Mach.mustProduce_error hp]; rfl)
  · exact traps_of (exec_tfail m a s) h (by rw [tfailM, Mach.mustProduce_error hp]; rfl)
  · obtain ⟨hx, hs, hq⟩ := Mach.exitPlain_range h.2 hrec hlt hk hfind
    obtain ⟨⟨-, hq1⟩, -⟩ := s.m.newRange_spec s.m.cur r .range s.m.t.lo s.m.t.hi s.m.t.isSealed s.m.t.cluster
    exact ⟨_, exec_ends (exec_exit s) h (by simp [exitM, hp]) hx hs, hx.retired, _, hq, hq1⟩
  · have hd := Mach.onlyEnds_endTask h.2
    rw [← Mach.exitPlain_end hx] at hd
    exact ⟨_, exec_ends (exec_exit s) h (by simp [exitM, hp]) hd.toFocusEnds (fits_of_silt (hd.silt _)), hd.toFocusEnds.retired⟩

end Sys2Proof.Machine
end

section
/-! SUPPORT. The parts of TCALL (06 R112, R117, R118, R129, R130, 02 R24): its key, the ways of a set, a new cursor, a new entry and
its producer. -/

namespace Sys2Proof.Machine

/-! ### Keys and sets (R112, R129) -/

/-- The argument words of a call of n arguments. -/
def Task.argWords (t : Task) (n : Nat) : List Word :=
  [t.val (.code 1), t.val (.code 2), t.val (.code 3), t.val (.code 4)].take n

/-- The forms of one to four arguments: their codes, the arguments they copy, and their keys. -/
theorem argForm {f : TForm} {n : Nat} (h : (f, n) ∈ [(TForm.n1, 1), (.n2, 2), (.n3, 3), (.n4, 4)]) :
    formCode f = n - 1 ∧ formArgs f = n ∧ n ≤ 4 ∧ ∀ m : Mach, m.keyOf f = .ok (m.t.argWords n, m) := by
  simp only [List.mem_cons, Prod.mk.injEq, List.not_mem_nil, or_false] at h
  rcases h with ⟨rfl, rfl⟩ | ⟨rfl, rfl⟩ | ⟨rfl, rfl⟩ | ⟨rfl, rfl⟩ <;> exact ⟨rfl, rfl, by omega, fun _ => rfl⟩

/-- Keys of these forms take no cells. -/
theorem keyCells_args {form : Nat} (h : form ≤ 3) (key : List Word) : keyCells form key = 0 := if_neg (by omega)

theorem mem_waysOf {k i : Nat} : i ∈ waysOf (16 * k) ↔ i / 16 = k := by
  simp only [waysOf, List.mem_map, List.mem_range]
  constructor
  · rintro ⟨w, hw, rfl⟩; omega
  · exact fun h => ⟨i - 16 * k, by omega, by omega⟩

/-- The first way of a set that passes a test. -/
theorem find_waysOf {p : Nat → Bool} {k i : Nat} (hi : i / 16 = k) (hp : p i = true)
    (hj : ∀ j, j / 16 = k → j < i → p j = false) : (waysOf (16 * k)).find? p = some i := by
  rw [waysOf, ← List.range'_eq_map_range, List.find?_range'_eq_some]
  refine ⟨hp, by rw [List.mem_range'_1]; omega, fun j h1 h2 => by simp [hj j (by omega) h2]⟩

theorem find_waysOf_none {p : Nat → Bool} {k : Nat} (h : ∀ j, j / 16 = k → p j = false) : (waysOf (16 * k)).find? p = none := by
  rw [List.find?_eq_none]
  exact fun j hj => by simp [h j (mem_waysOf.mp hj)]

/-- The lowest free cursor number (R117). -/
theorem Task.freeCursor_eq {t : Task} {w : Nat} (h1 : 1 ≤ w) (h2 : w < 32) (hw : t.cursor w = none)
    (hj : ∀ j, 1 ≤ j → j < w → t.cursor j ≠ none) : t.freeCursor = some w := by
  have hr : (List.range 31).map (· + 1) = List.range' 1 31 := by simp [List.range'_eq_map_range, Nat.add_comm]
  rw [Task.freeCursor, hr, List.find?_range'_eq_some]
  exact ⟨by simp [hw], by rw [List.mem_range'_1]; omega, fun j hj1 hj2 => by simpa [Option.isSome_iff_ne_none] using hj j hj1 hj2⟩

theorem Task.freeCursor_none {t : Task} (h : ∀ j, 1 ≤ j → j < 32 → t.cursor j ≠ none) : t.freeCursor = none := by
  rw [Task.freeCursor, List.find?_eq_none]
  intro j hj
  obtain ⟨k, hk, rfl⟩ := List.mem_map.mp hj
  have := h (k + 1) (by omega) (by rw [List.mem_range] at hk; omega)
  simpa using this

theorem Entry.holds_iff (e : Entry) (form : Nat) (callee : Word) (key : List Word) :
    e.holds form callee key = true ↔ e.state ≠ .free ∧ e.form = form ∧ e.callee = callee ∧ e.key = key := by
  simp [Entry.holds, and_assoc]

/-- Where no rehash moves sets, a hash names one set (R112, R131). -/
theorem Loam.set_of_still {l : Loam} (h : l.moving = none) (x : Word) :
    l.setOf x = 16 * (x.toNat % l.nsets) ∧ l.lookIn x = waysOf (16 * (x.toNat % l.nsets)) := by
  simp [Loam.setOf, Loam.lookIn, h]

/-! ### A new cursor (R117, R118) -/

/-- t1 is t with cursor w on entry i, its handle in a7 and in lt, and the next generation. -/
structure Task.Called (t t1 : Task) (w i creation : Nat) : Prop where
  rest : t1 = { t with img := t1.img, curs := t1.curs, curGen := t1.curGen }
  cell : ∀ k, t1.cell k = if k = 0 ∨ k = 7 then ⟨BitVec.ofNat 64 (t.curGen % 2 ^ 24 * 256 + w), .raw, none⟩ else t.cell k
  cursor : t1.cursor w = some ⟨i, 0, t.curGen, creation⟩
  curGen : t1.curGen = (t.curGen + 1) % 2 ^ 24

theorem Task.Called.npc {t t1 : Task} {w i creation : Nat} (h : t.Called t1 w i creation) : t1.npc = t.npc := by rw [h.rest]

theorem Task.Called.gid {t t1 : Task} {w i creation : Nat} (h : t.Called t1 w i creation) : t1.gid = t.gid := by rw [h.rest]

theorem Task.Called.region {t t1 : Task} {w i creation : Nat} (h : t.Called t1 w i creation) : t1.region = t.region := by
  rw [h.rest]

theorem Mach.silt_renew (m : Mach) (c i d : Nat) : ((m.renew c i).ctx d).silt = (m.ctx d).silt := by
  rw [Mach.renew, Mach.silt_updEntry, Mach.ctx_setCtx]
  split
  · next h => subst h; rfl
  · rfl

theorem Mach.entry_renew (m : Mach) (c i j : Nat) : ∃ n, (m.renew c i).entry c j = { m.entry c j with lru := n } := by
  have hc : ∀ j, (m.setCtx c fun x => { x with loam := { x.loam with clock := x.loam.clock + 1 } }).entry c j = m.entry c j := by
    intro j
    rw [Mach.entry, Mach.ctx_setCtx, if_pos rfl]
    rfl
  rw [Mach.renew, Mach.entry_updEntry, hc, hc]
  split
  · next h => rw [h.2]; exact ⟨_, rfl⟩
  · exact ⟨_, rfl⟩

/-- A task with a new cursor. -/
def Task.withCursor (t : Task) (w i creation : Nat) : Task :=
  ({ t with curs := Tab.put none t.curs w (some ⟨i, 0, t.curGen, creation⟩), curGen := (t.curGen + 1) % 2 ^ 24 } : Task).wr a7
    (handleOf t.curGen w) .raw

/-- An entry with one pin more. -/
def Entry.pinned (e : Entry) : Entry := { e with pins := e.pins + 1 }

theorem Mach.newCursor_eq (m : Mach) (c i w : Nat) : m.newCursor c i w =
    (({ m with t := m.t.withCursor w i (m.entry c i).creation } : Mach).updEntry c i Entry.pinned).renew c i := rfl

theorem Task.called_withCursor {t : Task} (hr : t.region = none) {w : Nat} (hw : w < 32) (i creation : Nat) :
    t.Called (t.withCursor w i creation) w i creation := by
  have hh : handleOf t.curGen w = BitVec.ofNat 64 (t.curGen % 2 ^ 24 * 256 + w) := by rw [handleOf, Nat.mod_eq_of_lt hw]
  refine ⟨?_, fun k => ?_, ?_, rfl⟩
  · unfold Task.withCursor Task.wr
    rw [wrMark_plain (by exact hr)]
  · unfold Task.withCursor Task.wr
    rw [cell_wrMark, hh]
    rfl
  · exact (Tab.look_put none t.curs w w (some ⟨i, 0, t.curGen, creation⟩)).trans (if_pos rfl)

/-- A cursor created: its handle is delivered, and its entry has one pin more. -/
theorem Mach.newCursor_spec {m : Mach} (hr : m.t.region = none) (c i : Nat) {w : Nat} (hw : w < 32) :
    m.t.Called (m.newCursor c i w).t w i (m.entry c i).creation ∧ (m.newCursor c i w).others = m.others ∧
    (m.newCursor c i w).mem = m.mem ∧ (∀ d, ((m.newCursor c i w).ctx d).silt = (m.ctx d).silt) ∧
    ∃ n, (m.newCursor c i w).entry c i = { m.entry c i with pins := (m.entry c i).pins + 1, lru := n } := by
  refine ⟨Task.called_withCursor hr hw i _, rfl, rfl, fun d => ?_, ?_⟩
  · rw [Mach.newCursor_eq, Mach.silt_renew, Mach.silt_updEntry]; rfl
  · rw [Mach.newCursor_eq]
    obtain ⟨n, hn⟩ := Mach.entry_renew
      (({ m with t := m.t.withCursor w i (m.entry c i).creation } : Mach).updEntry c i Entry.pinned) c i i
    exact ⟨n, by rw [hn, Mach.entry_updEntry, if_pos ⟨rfl, rfl⟩]; rfl⟩

/-! ### A new entry (R24, R129) -/

/-- An entry in evaluation for a key. -/
def Entry.fresh (form : Nat) (h callee : Word) (key : List Word) (creation leader : Nat) (producer : Gid) : Entry :=
  { state := .eval, form := form, hash := h, callee := callee, key := key, creation := creation, leader := leader,
    producer := producer }

theorem Mach.createEntry_spec (m : Mach) (c i : Nat) {form : Nat} (hf : form ≤ 3) (h callee : Word) (key : List Word)
    (g producer : Gid) :
    (m.createEntry c i form h callee key g producer).t = m.t ∧
    (m.createEntry c i form h callee key g producer).others = m.others ∧
    (m.createEntry c i form h callee key g producer).mem = m.mem ∧
    (m.createEntry c i form h callee key g producer).entry c i =
      .fresh form h callee key ((m.ctx c).loam.creations + 1) i producer ∧
    m.Appends (m.createEntry c i form h callee key g producer) c (32 + 96 * m.lineBound c [i]) := by
  generalize hn : Entry.fresh form h callee key ((m.ctx c).loam.creations + 1) i producer = e
  have he : m.createEntry c i form h callee key g producer = (m.markEntries c g [i] fun _ => e).setCtx c fun x =>
      { x with loam := { x.loam with
        creations := (m.ctx c).loam.creations + 1
        ansFree := x.loam.ansFree + (m.entry c i).answers.length
        keyFree := x.loam.keyFree + keyCells (m.entry c i).form (m.entry c i).key - keyCells form key } } := by
    rw [← hn, Mach.createEntry, keyCells_args hf]
    rfl
  have ha := m.appends_markEntries_one c g i (fun _ => e) (n := m.lineBound c [i]) (by
    simp only [← hn, Entry.fresh, Mach.lineBound, List.map_cons, List.map_nil, List.sum_cons, List.sum_nil, List.length_nil]
    omega)
  obtain ⟨ht, ho, hm⟩ := m.markEntries_frame c g [i] fun _ => e
  have hi := m.entry_markEntries_one c g i (fun _ => e) c i
  rw [if_pos ⟨rfl, rfl⟩] at hi
  rw [he]
  generalize m.markEntries c g [i] (fun _ => e) = m1 at ha ht ho hm hi
  refine ⟨ht, ho, hm, ?_, ha.congr rfl (by rw [Mach.ctx_setCtx, if_pos rfl]) le_rfl⟩
  rw [← hi, Mach.entry, Mach.ctx_setCtx, if_pos rfl]
  rfl

/-! ### The start of a producer (R24, R68) -/

/-- The registers a producer starts with. -/
theorem cell_producerOf (t : Task) (g : Gid) (callee : Word) (n i creation now no : Nat) (hn : n ≤ 4) (k : Nat) :
    (producerOf t g callee n i creation now no).cell k =
      if 1 ≤ k ∧ k ≤ n then { t.cell k with mark := none } else if k = 7 then ⟨0, .raw, none⟩ else .fresh := by
  have hargs : ∀ n, Tab.look RCell.fresh ((List.range n).foldl
      (fun r k => Tab.put RCell.fresh r (k + 1) (t.cell (k + 1)).plain) ([] : Tab RCell)) k =
        if 1 ≤ k ∧ k ≤ n then (t.cell k).plain else .fresh := by
    intro n
    induction n with
    | zero => rw [if_neg (by omega)]; rfl
    | succ n ih =>
      rw [List.range_succ, List.foldl_append, List.foldl_cons, List.foldl_nil, Tab.look_put, ih]
      by_cases hk : k = n + 1
      · rw [if_pos hk, if_pos (by omega), hk]
      · rw [if_neg hk]
        exact if_congr (by omega) rfl rfl
  refine (Tab.look_put RCell.fresh _ 7 k ⟨handleOf 0 0, .raw, none⟩).trans ?_
  rw [hargs]
  by_cases hk : k = 7
  · rw [if_pos hk, if_neg (by omega), if_pos hk]; rfl
  · rw [if_neg hk, if_neg hk]; rfl

/-- A caller suspended (R24). -/
def Task.suspended (t : Task) (g : Gid) (now : Nat) : Task :=
  { t.retire with
    seat := none, phase := .waiting (.suspend g), regang := if t.fol.isEmpty then 0 else t.gangSize, contAt := now
    migrates := false }

theorem Mach.startProducer_spec (m : Mach) (p : Task) :
    (m.startProducer p).t = p ∧ (m.startProducer p).others = m.others ++ [m.t.suspended p.gid m.cycle] ∧
    (m.startProducer p).mem = m.mem ∧ (∀ d, ((m.startProducer p).ctx d).silt = (m.ctx d).silt) ∧
    (m.startProducer p).entry (ctxOf p.gid) (p.produces.getD 0) = (m.entry (ctxOf p.gid) (p.produces.getD 0)).pinned := by
  have key : ∀ m1 : Mach, m1.t = p → m1.others = m.others ++ [m.t.suspended p.gid m.cycle] → m1.mem = m.mem →
      m1.ctxs = m.ctxs →
      let m2 := match p.rec_ with
        | some r => (m1.updEntry (ctxOf p.gid) (p.produces.getD 0) Entry.pinned).updRec (ctxOf p.gid) r fun q =>
            { q with live := q.live + 1, created := q.created + 1 }
        | none => m1.updEntry (ctxOf p.gid) (p.produces.getD 0) Entry.pinned
      m2.t = p ∧ m2.others = m.others ++ [m.t.suspended p.gid m.cycle] ∧ m2.mem = m.mem ∧
      (∀ d, (m2.ctx d).silt = (m.ctx d).silt) ∧
      m2.entry (ctxOf p.gid) (p.produces.getD 0) = (m.entry (ctxOf p.gid) (p.produces.getD 0)).pinned := by
    intro m1 h1 h2 h3 h4
    have hs : ∀ d, ((m1.updEntry (ctxOf p.gid) (p.produces.getD 0) Entry.pinned).ctx d).silt = (m.ctx d).silt :=
      fun d => by rw [Mach.silt_updEntry, Mach.ctx_of_ctxs h4]
    have he : (m1.updEntry (ctxOf p.gid) (p.produces.getD 0) Entry.pinned).entry (ctxOf p.gid) (p.produces.getD 0) =
        (m.entry (ctxOf p.gid) (p.produces.getD 0)).pinned := by
      rw [Mach.entry_updEntry, if_pos ⟨rfl, rfl⟩, Mach.entry_of_ctxs h4]
    dsimp only
    cases p.rec_ with
    | none => exact ⟨h1, h2, h3, hs, he⟩
    | some r =>
      have hu := fun d f => (m1.updEntry (ctxOf p.gid) (p.produces.getD 0) Entry.pinned).updRec_ctx (ctxOf p.gid) r d f
      exact ⟨h1, h2, h3, fun d => (hu d _).1.trans (hs d), by rw [← he, Mach.entry, (hu _ _).2, Mach.entry]⟩
  exact key { m with t := p, others := m.others ++ [m.t.suspended p.gid m.cycle] } rfl rfl rfl rfl

end Sys2Proof.Machine
end

section
/-! PROOFS. O31: TCALL of one to four arguments. -/

namespace Sys2Proof.Machine

theorem exec_tcall (m : Option XMod) (f : TForm) (off : Int) (s : State) :
    exec (.tcall m f off) s = issue (.abort abTable) (tcallM f off) s := rfl

/-- TCALL with a cursor free and its key at hand. -/
theorem tcallM_eq {m : Mach} {f : TForm} {n : Nat} (hf : (f, n) ∈ [(TForm.n1, 1), (.n2, 2), (.n3, 3), (.n4, 4)]) {w : Nat}
    (hw : m.t.freeCursor = some w) (off : Int) : tcallM f off m = m.tcallKey f (m.t.target off) (m.t.argWords n) w := by
  obtain ⟨-, -, -, hk⟩ := argForm hf
  simp [tcallM, hw, hk, bind, Except.bind]

/-! ### The lookup (R112, R129) -/

/-- The set of a call in a table that no rehash moves. -/
def Loam.setNo (l : Loam) (h : Word) : Nat := h.toNat % l.nsets

theorem Mach.lookup_hit {m : Mach} {c : Nat} {h : Word} {form : Nat} {callee : Word} {key : List Word} {i : Nat}
    (hm : (m.ctx c).loam.moving = none) (hi : i / 16 = (m.ctx c).loam.setNo h) (hh : (m.entry c i).holds form callee key = true)
    (hj : ∀ j, j / 16 = (m.ctx c).loam.setNo h → j < i → ¬ (m.entry c j).holds form callee key = true) :
    m.lookup c h form callee key = some i := by
  rw [Mach.lookup, (Loam.set_of_still hm h).2]
  exact find_waysOf hi hh fun j h1 h2 => by simpa using hj j h1 h2

theorem Mach.lookup_miss {m : Mach} {c : Nat} {h : Word} {form : Nat} {callee : Word} {key : List Word}
    (hm : (m.ctx c).loam.moving = none)
    (hj : ∀ j, j / 16 = (m.ctx c).loam.setNo h → ¬ (m.entry c j).holds form callee key = true) :
    m.lookup c h form callee key = none := by
  rw [Mach.lookup, (Loam.set_of_still hm h).2]
  exact find_waysOf_none fun j h1 => by simpa using hj j h1

/-- The first FREE way is taken. -/
theorem Mach.wayFor_free {m : Mach} {c k i : Nat} (hi : i / 16 = k) (hs : (m.entry c i).state = .free)
    (hj : ∀ j, j / 16 = k → j < i → (m.entry c j).state ≠ .free) : m.wayFor c (16 * k) = some i := by
  rw [Mach.wayFor, find_waysOf hi (by simp [hs]) fun j h1 h2 => by simpa using hj j h1 h2]

/-- A set without a FREE way, and without an unpinned COMPLETE one, has no way to take. -/
theorem Mach.wayFor_none {m : Mach} {c k : Nat}
    (hj : ∀ j, j / 16 = k → (m.entry c j).state ≠ .free ∧ ((m.entry c j).state = .complete → (m.entry c j).pins ≠ 0)) :
    m.wayFor c (16 * k) = none := by
  have ho : ((waysOf (16 * k)).filter fun i => (m.entry c i).state == .complete && (m.entry c i).pins == 0) = [] := by
    rw [List.filter_eq_nil_iff]
    exact fun j h1 => by simpa using (hj j (mem_waysOf.mp h1)).2
  rw [Mach.wayFor, find_waysOf_none fun j h1 => by simpa using (hj j h1).1]
  simp [Mach.oldest, ho]

/-! ### A hit (R117, R137) -/

/-- The task in focus parked until its table has answered. -/
def Mach.parkedMem (m : Mach) : Mach := { m with t := { m.t with phase := .parked .mem } }

theorem Mach.tcallKey_hit {m : Mach} {f : TForm} {callee : Word} {key : List Word} {w i : Nat}
    (h : m.lookup m.cur (hashKey (formCode f) callee key) (formCode f) callee key = some i) :
    m.tcallKey f callee key w = .ok (m.newCursor m.cur i w).parkedMem := by
  unfold Mach.tcallKey
  dsimp only
  rw [h]
  rfl

/-! ### No way to take (R130) -/

theorem Mach.tcallKey_full {m : Mach} {f : TForm} {callee : Word} {key : List Word} {w : Nat}
    (h : m.lookup m.cur (hashKey (formCode f) callee key) (formCode f) callee key = none)
    (hw : m.wayFor m.cur ((m.ctx m.cur).loam.setOf (hashKey (formCode f) callee key)) = none) :
    m.tcallKey f callee key w = .error (.trap 0x0C
      (m.setAddr m.cur ((m.ctx m.cur).loam.setOf (hashKey (formCode f) callee key))) 0) := by
  unfold Mach.tcallKey
  dsimp only
  rw [h]
  simp only [hw]
  rfl

/-- The address of way 0 of a set that no rehash moves. -/
theorem Mach.setAddr_of_still {m : Mach} {c : Nat} (hm : (m.ctx c).loam.moving = none) (h : Word) :
    m.setAddr c ((m.ctx c).loam.setOf h) = BitVec.ofNat 64 ((m.ctx c).loam.va + 2048 * (m.ctx c).loam.setNo h) := by
  rw [(Loam.set_of_still hm h).1, Mach.setAddr]
  rw [hm]
  dsimp only
  rw [Loam.setNo, ← Nat.mul_assoc]

/-! ### A miss (R24, R137) -/


/-- The chip after a call has made way i its entry: the caller holds a cursor on it. -/
def Mach.entered (m : Mach) (f : TForm) (callee : Word) (key : List Word) (w i : Nat) : Mach :=
  ((m.takeSerial m.cur m.t.cluster).2.createEntry m.cur i (formCode f) (hashKey (formCode f) callee key) callee key m.t.gid
    (gidOf m.cur (m.takeSerial m.cur m.t.cluster).1)).newCursor m.cur i w

/-- The producer of the new entry. -/
def Mach.producerAt (m : Mach) (c : Nat) (g : Gid) (callee : Word) (n i : Nat) : Task :=
  { producerOf m.t g callee n i (m.entry c i).creation m.cycle m.order with frame := m.freeFrame c }

/-- A producer runs in the caller's place: its slot, its record, its allocation, with the caller's arguments. -/
theorem Mach.producerAt_spec {t : Task} {m : Mach} {w i creation : Nat} (h : t.Called m.t w i creation) (c : Nat) (g : Gid)
    (callee : Word) {n : Nat} (hn : n ≤ 4) :
    let p := m.producerAt c g callee n i
    p.gid = g ∧ p.kind = .producer ∧ p.npc = callee ∧ p.seat = t.seat ∧ p.produces = some i ∧
    p.prodNo = (m.entry c i).creation ∧ p.caller = some t.gid ∧ p.rec_ = t.rec_ ∧ p.ctl.alloc = t.ctl.alloc ∧
    ∀ k, p.cell k =
      if 1 ≤ k ∧ k ≤ n then { t.cell k with mark := none } else if k = 7 then ⟨0, .raw, none⟩ else .fresh := by
  have hs : m.t.seat = t.seat := by rw [h.rest]
  have hg : m.t.gid = t.gid := by rw [h.rest]
  have hr : m.t.rec_ = t.rec_ := by rw [h.rest]
  have ha : m.t.ctl.alloc = t.ctl.alloc := by rw [h.rest]
  refine ⟨rfl, rfl, rfl, hs, rfl, rfl, congrArg some hg, hr, ha, fun k => ?_⟩
  refine (cell_producerOf m.t g callee n i (m.entry c i).creation m.cycle m.order hn k).trans ?_
  by_cases hk : 1 ≤ k ∧ k ≤ n
  · rw [if_pos hk, if_pos hk, h.cell, if_neg (by omega)]
  · rw [if_neg hk, if_neg hk]

theorem Mach.producerAt_region (m : Mach) (c : Nat) (g : Gid) (callee : Word) (n i : Nat) :
    (m.producerAt c g callee n i).region = none := rfl

theorem Mach.producerAt_phase (m : Mach) (c : Nat) (g : Gid) (callee : Word) (n i : Nat) :
    (m.producerAt c g callee n i).phase = .ready := rfl

theorem Mach.tcallKey_miss {m : Mach} {f : TForm} (hf : formCode f ≤ 3) {callee : Word} {key : List Word} {w i : Nat}
    (h : m.lookup m.cur (hashKey (formCode f) callee key) (formCode f) callee key = none)
    (hw : m.wayFor m.cur ((m.ctx m.cur).loam.setOf (hashKey (formCode f) callee key)) = some i) :
    m.tcallKey f callee key w = .ok ((m.entered f callee key w i).tick.startProducer
      ((m.entered f callee key w i).producerAt m.cur (gidOf m.cur (m.takeSerial m.cur m.t.cluster).1) callee (formArgs f) i)) := by
  unfold Mach.tcallKey
  dsimp only
  rw [h]
  dsimp only
  rw [hw]
  dsimp only
  rw [keyCells_args hf, if_neg (by omega)]
  rfl

theorem ctxOf_gidOf (c n : Nat) : ctxOf (gidOf c n) = c := by
  have : n % 2 ^ 40 < 2 ^ 40 := Nat.mod_lt _ (by norm_num)
  unfold ctxOf gidOf
  omega

/-- The entry made and the cursor on it. -/
theorem Mach.entered_spec {m : Mach} (hr : m.t.region = none) {f : TForm} (hf : formCode f ≤ 3) (callee : Word) (key : List Word)
    {w : Nat} (hw : w < 32) (i : Nat) :
    m.t.Called (m.entered f callee key w i).t w i ((m.ctx m.cur).loam.creations + 1) ∧
    (m.entered f callee key w i).others = m.others ∧ (m.entered f callee key w i).mem = m.mem ∧
    m.Appends (m.entered f callee key w i) m.cur (32 + 96 * m.lineBound m.cur [i]) ∧
    ∃ n, (m.entered f callee key w i).entry m.cur i =
      { Entry.fresh (formCode f) (hashKey (formCode f) callee key) callee key ((m.ctx m.cur).loam.creations + 1) i
          (gidOf m.cur (m.takeSerial m.cur m.t.cluster).1) with pins := 1, lru := n } := by
  have hd := m.onlyDraws_takeSerial m.cur m.t.cluster
  obtain ⟨hs, hl⟩ := hd.silt_loam m.cur
  unfold Mach.entered
  generalize gidOf m.cur (m.takeSerial m.cur m.t.cluster).1 = g
  generalize (m.takeSerial m.cur m.t.cluster).2 = m1 at hd hs hl
  obtain ⟨ht, ho, hm, he, ha⟩ := m1.createEntry_spec m.cur i hf (hashKey (formCode f) callee key) callee key m.t.gid g
  have hb : m1.lineBound m.cur [i] = m.lineBound m.cur [i] := by simp only [Mach.lineBound, Mach.entry, hl]
  rw [hl] at he
  rw [hb] at ha
  generalize m1.createEntry m.cur i (formCode f) (hashKey (formCode f) callee key) callee key m.t.gid g = m2 at ht ho hm he ha
  have ht2 : m2.t = m.t := ht.trans hd.t
  obtain ⟨hc, ho2, hm2, hs2, n, he2⟩ := Mach.newCursor_spec (m := m2) (by rw [ht2]; exact hr) m.cur i hw
  rw [ht2, he] at hc
  rw [he] at he2
  exact ⟨hc, ho2.trans (ho.trans hd.others), hm2.trans (hm.trans hd.mem), ha.congr hs.symm (hs2 _) le_rfl, n, he2⟩

/-- TCALL of a key that an entry holds: a cursor on it, the thread parked until its table has answered. -/
theorem exec_tcall_hit {s : State} (h : s.plain) (m : Option XMod) {f : TForm} {n : Nat}
    (hf : (f, n) ∈ [(TForm.n1, 1), (.n2, 2), (.n3, 3), (.n4, 4)]) {w : Nat} (hw : s.m.t.freeCursor = some w) (hw2 : w < 32)
    (off : Int) {i : Nat} (hl : s.m.lookup s.m.cur (hashKey (formCode f) (s.m.t.target off) (s.m.t.argWords n)) (formCode f)
      (s.m.t.target off) (s.m.t.argWords n) = some i) :
    exec (.tcall m f off) s = .next (s.retired (s.m.newCursor s.m.cur i w).parkedMem) := by
  obtain ⟨hc, -, -, hs, -⟩ := Mach.newCursor_spec h.1 s.m.cur i hw2
  have hr : (s.m.newCursor s.m.cur i w).t.region = none := hc.region.trans h.1
  exact (exec_tcall m f off s).trans (issue_ok h.1 ((tcallM_eq hf hw off).trans (Mach.tcallKey_hit hl)) hr rfl (fits_of_silt (hs _)))

/-- TCALL of a key that no entry holds: the chip with its entry made and the caller's cursor on it, and its producer started. -/
theorem exec_tcall_miss {s : State} (h : s.plain) (m : Option XMod) {f : TForm} {n : Nat}
    (hf : (f, n) ∈ [(TForm.n1, 1), (.n2, 2), (.n3, 3), (.n4, 4)]) {w : Nat} (hw : s.m.t.freeCursor = some w) (hw2 : w < 32)
    (off : Int) {i : Nat} (hl : s.m.lookup s.m.cur (hashKey (formCode f) (s.m.t.target off) (s.m.t.argWords n)) (formCode f)
      (s.m.t.target off) (s.m.t.argWords n) = none)
    (hi : s.m.wayFor s.m.cur ((s.m.ctx s.m.cur).loam.setOf
      (hashKey (formCode f) (s.m.t.target off) (s.m.t.argWords n))) = some i)
    (hroom : s.roomy (s.m.lineBound s.m.cur [i])) :
    ∃ (m2 : Mach) (g : Gid) (k : Nat), exec (.tcall m f off) s =
        .next (s.retired (m2.tick.startProducer (m2.producerAt s.m.cur g (s.m.t.target off) n i))) ∧
      ctxOf g = s.m.cur ∧ s.m.t.Called m2.t w i ((s.m.ctx s.m.cur).loam.creations + 1) ∧ m2.others = s.m.others ∧
      m2.mem = s.m.mem ∧ m2.entry s.m.cur i = { Entry.fresh (formCode f)
        (hashKey (formCode f) (s.m.t.target off) (s.m.t.argWords n)) (s.m.t.target off) (s.m.t.argWords n)
        ((s.m.ctx s.m.cur).loam.creations + 1) i g with pins := 1, lru := k } := by
  obtain ⟨hcode, hargs, hn, -⟩ := argForm hf
  have hc3 : formCode f ≤ 3 := by omega
  obtain ⟨hc, ho, hm, ha, k, he⟩ := Mach.entered_spec h.1 hc3 (s.m.t.target off) (s.m.t.argWords n) hw2 i
  have hk := (tcallM_eq hf hw off).trans (Mach.tcallKey_miss hc3 hl hi)
  have hg := ctxOf_gidOf s.m.cur (s.m.takeSerial s.m.cur s.m.t.cluster).1
  rw [hargs] at hk
  generalize s.m.entered f (s.m.t.target off) (s.m.t.argWords n) w i = m2 at hc ho hm ha he hk
  generalize gidOf s.m.cur (s.m.takeSerial s.m.cur s.m.t.cluster).1 = g at he hk hg
  obtain ⟨ht, -, -, hs, -⟩ := m2.tick.startProducer_spec (m2.producerAt s.m.cur g (s.m.t.target off) n i)
  refine ⟨m2, g, k, (exec_tcall m f off s).trans (issue_ok h.1 hk ?_ ?_ ?_), hg, hc, ho, hm, he⟩
  · rw [ht, Mach.producerAt_region]
  · rw [ht, ready_not_held (Mach.producerAt_phase ..)]
  · exact (ha.congr rfl (hs _) le_rfl).fits hroom

/-- Settles O31: a lookup that finds the key, one that finds a FREE way, and one that finds neither (`lookup_hit`, `lookup_miss`,
`wayFor_free`, `wayFor_none`), each with what the call then leaves (`newCursor_spec`, `entered_spec`, `startProducer_spec`). -/
theorem tabledCalls : Obligations.TabledCalls := by
  unfold Obligations.TabledCalls
  intro s m f n w off hr h hf hw1 hw hcw hcj hmov t c callee key hash set held hd called
  obtain ⟨hcode, hargs, hn, -⟩ := argForm hf
  have hfree : s.m.t.freeCursor = some w := Task.freeCursor_eq hw1 hw hcw hcj
  have hset : set = (s.m.ctx s.m.cur).loam.setNo (hashKey (formCode f) callee key) := by rw [hcode]; rfl
  have hheld : ∀ i, held i ↔ (s.m.entry s.m.cur i).holds (formCode f) callee key = true := by
    intro i
    rw [Entry.holds_iff, hcode]
  refine ⟨fun i hi hh hj => ?_, fun i hi hh hs hroom hj => ?_, fun s0 hs0 h0 => ?_, fun hj => ?_⟩
  · have hl : s.m.lookup s.m.cur (hashKey (formCode f) callee key) (formCode f) callee key = some i :=
      Mach.lookup_hit hmov (hi.trans hset) ((hheld i).mp hh) fun j h1 h2 hx => hj j (h1.trans hset.symm) h2 ((hheld j).mpr hx)
    obtain ⟨hc, -, hm, -, k, he⟩ := Mach.newCursor_spec h.1 s.m.cur i hw
    have hpins : (s.m.newCursor s.m.cur i w).parkedMem.entry s.m.cur i = _ := he
    refine ⟨_, exec_tcall_hit h m hf hfree hw off hl, ⟨hc.cell, hc.cursor, hc.curGen⟩, hc.npc, rfl, hm, ?_⟩
    rw [State.entry_retired, hpins]
    exact ⟨rfl, rfl, rfl⟩
  · have hl := Mach.lookup_miss hmov fun j h1 hx => hh j (h1.trans hset.symm) ((hheld j).mpr hx)
    have hway : s.m.wayFor s.m.cur ((s.m.ctx s.m.cur).loam.setOf (hashKey (formCode f) callee key)) = some i := by
      rw [(Loam.set_of_still hmov _).1]
      exact Mach.wayFor_free (hi.trans hset) hs fun j h1 => hj j (h1.trans hset.symm)
    obtain ⟨m2, g, k, hx, hgc, hc, ho, hm, he⟩ := exec_tcall_miss h m hf hfree hw off hl hway hroom
    obtain ⟨hg, hkind, hpc, hseat, hpr, hno, hcal, hrec, hal, hcell⟩ := Mach.producerAt_spec hc s.m.cur g (s.m.t.target off) hn
    generalize m2.producerAt s.m.cur g (s.m.t.target off) n i = p at hx hg hkind hpc hseat hpr hno hcal hrec hal hcell
    obtain ⟨ht, hos, hms, -, hes⟩ := m2.tick.startProducer_spec p
    rw [hg, hgc, hpr] at hes
    rw [he] at hno
    generalize m2.tick.startProducer p = m3 at hx ht hos hms hes
    have ht : (s.retired m3).m.t = p.retire := congrArg Task.retire ht
    have hent : (s.retired m3).m.entry s.m.cur i = (m2.entry s.m.cur i).pinned := hes
    refine ⟨_, m2.t.suspended p.gid m2.cycle, hx, hms.trans hm, hos.trans (by rw [Mach.tick_others, ho]; rfl),
      ⟨hc.cell, hc.cursor, hc.curGen⟩, ?_⟩
    rw [ht, hent, he]
    exact ⟨rfl, hc.npc, hc.gid, rfl, hkind, hpc, hseat, hpr, hno, hcal, hrec, hal, hcell,
      rfl, hcode, rfl, rfl, rfl, rfl, rfl, rfl, hg.symm⟩
  · refine traps_of (exec_tcall m f off s0) h0 ?_
    rw [tcallM, Task.freeCursor_none hs0]
    rfl
  · have hl := Mach.lookup_miss hmov fun j h1 hx => (hj j (h1.trans hset.symm)).1 ((hheld j).mpr hx)
    have hway : s.m.wayFor s.m.cur ((s.m.ctx s.m.cur).loam.setOf (hashKey (formCode f) callee key)) = none := by
      rw [(Loam.set_of_still hmov _).1]
      exact Mach.wayFor_none fun j h1 => (hj j (h1.trans hset.symm)).2
    refine traps_of (exec_tcall m f off s) h ((tcallM_eq hf hfree off).trans ?_)
    rw [hset, ← Mach.setAddr_of_still hmov]
    exact Mach.tcallKey_full hl hway

end Sys2Proof.Machine
end

section
/-! SUPPORT. The codes of the enumerated fields (03 R41, R44, R50): each reads back, and fits the bits that hold it. -/

namespace Sys2Proof

/-! ### The codes of the enumerated fields read back (R41, R44, R50) -/

@[simp] theorem Tag.ofCode_toNat (t : Tag) : Tag.ofCode t.toNat = t := by cases t <;> rfl
@[simp] theorem Ord.ofCode_toNat (o : Ord) : Ord.ofCode o.toNat = o := by cases o <;> rfl
@[simp] theorem Scope.ofCode_toNat (x : Scope) : Scope.ofCode x.toNat = x := by cases x <;> rfl
@[simp] theorem Rnd.ofCode_toNat (r : Rnd) : Rnd.ofCode r.toNat = r := by cases r <;> rfl
@[simp] theorem Cond.ofCode_toNat (c : Cond) : Cond.ofCode c.toNat = c := by cases c <;> rfl
@[simp] theorem VCond.ofCode_toNat (c : VCond) : VCond.ofCode c.toNat = c := by cases c <;> rfl
@[simp] theorem Scale.ofCode_toNat (x : Scale) : Scale.ofCode x.toNat = x := by cases x <;> rfl
@[simp] theorem Space.ofCode_toNat (p : Space) : Space.ofCode p.toNat = p := by cases p <;> rfl
@[simp] theorem Size.ofCode_toNat (z : Size) : Size.ofCode z.toNat = z := by cases z <;> rfl
@[simp] theorem NSize.ofCode_toNat (z : NSize) : NSize.ofCode z.toNat = z := by cases z <;> rfl
@[simp] theorem BcSize.ofCode_toNat (z : BcSize) : BcSize.ofCode z.toNat = z := by cases z <;> rfl
@[simp] theorem ScanOp.ofCode_toNat (o : ScanOp) : ScanOp.ofCode o.toNat = o := by cases o <;> rfl
@[simp] theorem VoteOp.ofCode_toNat (o : VoteOp) : VoteOp.ofCode o.toNat = o := by cases o <;> rfl
@[simp] theorem CvtTo.ofCode_toNat (t : CvtTo) : CvtTo.ofCode t.toNat = t := by cases t <;> rfl
@[simp] theorem VcvtOp.ofCode_toNat (o : VcvtOp) : VcvtOp.ofCode o.toNat = o := by cases o <;> rfl
@[simp] theorem Sfu.ofCode_toNat (f : Sfu) : Sfu.ofCode f.toNat = f := by cases f <;> rfl
@[simp] theorem GangSize.ofCode_toNat (n : GangSize) : GangSize.ofCode n.toNat = n := by cases n <;> rfl
@[simp] theorem EDst.ofCode_toNat (d : EDst) : EDst.ofCode d.toNat = d := by cases d <;> rfl
@[simp] theorem ESrc.ofCode_toNat (x : ESrc) : ESrc.ofCode x.toNat = x := by cases x <;> rfl
@[simp] theorem TForm.ofCode_toNat (f : TForm) : TForm.ofCode f.toNat = f := by cases f <;> rfl
@[simp] theorem PrefKind.ofCode_toNat (k : PrefKind) : PrefKind.ofCode k.toNat = k := by cases k <;> rfl
@[simp] theorem PackFmt.ofCode_toNat (t : PackFmt) : PackFmt.ofCode t.toNat = t := by
  cases t with
  | bf16 h | f16 h | e4m3 h | e5m2 h => fin_cases h <;> rfl
@[simp] theorem FlSel.ofCode_toNat (f : FlSel) : FlSel.ofCode f.toNat = f := by
  cases f with
  | one f => cases f <;> rfl
  | any => rfl
@[simp] theorem flagOptOfNat_flagOptToNat (f : Option Flag) : flagOptOfNat (flagOptToNat f) = f := by
  cases f with
  | none => rfl
  | some f => cases f <;> rfl
@[simp] theorem toNat_beq_one (b : Bool) : (b.toNat == 1) = b := by cases b <;> rfl

/-! Codes that share a payload (R233, R255, R312, R341). -/

@[simp] theorem ASize.ofCode_atVar (z : ASize) (p : ASpace) : ASize.ofCode (atVar z p % 4) = z := by cases z <;> cases p <;> rfl
@[simp] theorem ASpace.ofCode_atVar (z : ASize) (p : ASpace) : ASpace.ofCode (atVar z p / 4) = p := by cases z <;> cases p <;> rfl
@[simp] theorem MSize.ofCode_atVarN (z : MSize) (p : ASpace) : MSize.ofCode (atVarN z p % 4) = z := by cases z <;> cases p <;> rfl
@[simp] theorem ASpace.ofCode_atVarN (z : MSize) (p : ASpace) : ASpace.ofCode (atVarN z p / 4) = p := by cases z <;> cases p <;> rfl
@[simp] theorem EDst.ofCode_toNat_mod (d : EDst) : EDst.ofCode (d.toNat % 4) = d := by cases d <;> rfl
@[simp] theorem ESrc.ofCode_pair (d : EDst) (x : ESrc) : ESrc.ofCode ((d.toNat + 4 * x.toNat) / 4) = x := by cases d <;> cases x <;> rfl
@[simp] theorem Blk.ofCode_toNat_mod (w : Blk) : Blk.ofCode (w.toNat % 4) = w := by cases w <;> rfl
@[simp] theorem Blk.nat_pair (w : Blk) (n : Bool) : ((w.toNat + 4 * n.toNat) / 4 == 1) = n := by cases w <;> cases n <;> rfl
@[simp] theorem Blk.ofCode_tagNat (a : Blk) : Blk.ofCode (a.tagNat % 16 - 10) = a := by cases a <;> rfl
@[simp] theorem Blk.ofCode_pair (a b : Blk) : Blk.ofCode ((16 * b.tagNat + a.tagNat) / 16 - 10) = b := by cases a <;> cases b <;> rfl
@[simp] theorem McFmt.ofCode_toNat_add (f : McFmt) : McFmt.ofCode ((2 + f.toNat) % 16 - 2) = f := by cases f <;> rfl
@[simp] theorem McFmt.acc_pair (f : McFmt) (t : Bool) : ((2 + f.toNat + 16 * t.toNat) / 16 == 1) = t := by cases f <;> cases t <;> rfl

/-! Codes fit the seven bits of a variant (R41). -/

@[simp] theorem Tag.toNat_lt (t : Tag) : t.toNat < 128 := by cases t <;> decide
@[simp] theorem VCond.toNat_lt (c : VCond) : c.toNat < 128 := by cases c <;> decide
@[simp] theorem Scale.toNat_lt (x : Scale) : x.toNat < 128 := by cases x <;> decide
@[simp] theorem BcSize.toNat_lt (z : BcSize) : z.toNat < 128 := by cases z <;> decide
@[simp] theorem ScanOp.toNat_lt (o : ScanOp) : o.toNat < 128 := by cases o <;> decide
@[simp] theorem VoteOp.toNat_lt (o : VoteOp) : o.toNat < 128 := by cases o <;> decide
@[simp] theorem CvtTo.toNat_lt (t : CvtTo) : t.toNat < 128 := by cases t <;> decide
@[simp] theorem VcvtOp.toNat_lt (o : VcvtOp) : o.toNat < 128 := by cases o <;> decide
@[simp] theorem EDst.toNat_lt (d : EDst) : d.toNat < 128 := by cases d <;> decide
@[simp] theorem ESrc.toNat_lt (x : ESrc) : x.toNat < 128 := by cases x <;> decide
@[simp] theorem PrefKind.toNat_lt (k : PrefKind) : k.toNat < 128 := by cases k <;> decide
@[simp] theorem atVar_lt (z : ASize) (p : ASpace) : atVar z p < 128 := by cases z <;> cases p <;> decide
@[simp] theorem atVarN_lt (z : MSize) (p : ASpace) : atVarN z p < 128 := by cases z <;> cases p <;> decide
@[simp] theorem EDst.pair_lt (d : EDst) (x : ESrc) : d.toNat + 4 * x.toNat < 128 := by cases d <;> cases x <;> decide
@[simp] theorem Blk.pair_lt (w : Blk) (n : Bool) : w.toNat + 4 * n.toNat < 128 := by cases w <;> cases n <;> decide
@[simp] theorem toNat_lt_128 (b : Bool) : b.toNat < 128 := by cases b <;> decide
@[simp] theorem PackFmt.toNat_lt (t : PackFmt) : t.toNat < 128 := by
  cases t with
  | bf16 h | f16 h | e4m3 h | e5m2 h => fin_cases h <;> decide
@[simp] theorem FlSel.toNat_lt (f : FlSel) : f.toNat < 128 := by
  cases f with
  | one f => cases f <;> decide
  | any => decide
@[simp] theorem flagOptToNat_lt (f : Option Flag) : flagOptToNat f < 128 := by
  cases f with
  | none => decide
  | some f => cases f <;> decide

/-! Codes on which the roles of a row's fields depend fit the four bits that the row is looked up by. -/

theorem Sfu.toNat_lt (f : Sfu) : f.toNat < 16 := by cases f <;> decide
theorem XstSrc.var_lt (x : XstSrc) : x.var < 16 := by cases x <;> simp [XstSrc.var]
theorem RedSrc.toNat_lt (x : RedSrc) : x.toNat < 16 := by
  cases x with
  | lanes o a =>
    cases o with
    | scan o => cases o <;> simp [RedSrc.toNat, ScanOp.toNat]
    | and | or | xor => simp [RedSrc.toNat]
  | flag f => cases f <;> decide

/-! Codes that stand in XMOD (R44) and in the word itself. -/

theorem Ord.toNat_lt (o : Ord) : o.toNat < 4 := by cases o <;> decide
theorem Scope.toNat_lt (x : Scope) : x.toNat < 3 := by cases x <;> decide
theorem Rnd.toNat_lt (r : Rnd) : r.toNat < 4 := by cases r <;> decide

theorem Space.toNat_lt (p : Space) : p.toNat < 4 := by cases p <;> decide
theorem NSize.toNat_lt (z : NSize) : z.toNat < 4 := by cases z <;> decide
theorem Size.toNat_lt (z : Size) : z.toNat < 4 := by cases z <;> decide

/-! Sources that a variant and a field give together (R228, R238, R311, R182). -/

theorem Fields.redSrc_eq {f : Fields} (x : RedSrc) (hv : f.v = x.toNat) (ha : f.a = x.field) : f.redSrc = x := by
  cases x with
  | lanes o a =>
    cases o with
    | scan o => cases o <;> simp [Fields.redSrc, hv, ha, RedSrc.toNat, RedSrc.field, ScanOp.toNat, Opnd.slotD, ScanOp.ofCode]
    | and | or | xor => simp [Fields.redSrc, hv, ha, RedSrc.toNat, RedSrc.field, Opnd.slotD]
  | flag f => cases f <;> simp [Fields.redSrc, hv, RedSrc.toNat, Flag.toNat, Flag.ofCode]

theorem Fields.voteSrc_eq {f : Fields} (x : VoteSrc) (ha : f.a = x.fields.1) (hb : f.b = x.fields.2) : f.voteSrc = x := by
  rw [Fields.voteSrc, ha, hb]
  cases x with
  | pred q => rfl
  | flag f => cases f <;> rfl

theorem Fields.xstSrc_eq {f : Fields} (x : XstSrc) (hv : f.v = x.var) (hd : f.d = x.field) : f.xstSrc = x := by
  rw [Fields.xstSrc, hv, hd]
  cases x <;> rfl

end Sys2Proof
end

section
/-! SUPPORT. Scanning (03 R17, R31, R37 to R39): the halfwords that the encoder writes before a word are read for what they say. -/

namespace Sys2Proof

/-! ### Reading prefixes (R17, R37, R38) -/

/-- The slot that XREG carries for an operand. -/
def Opnd.slotNo : Opnd → Option Nat
  | .slot s => some s.val
  | .code _ => none

/-- Reading halfwords takes one set of prefixes to another, whatever stands after them. -/
def Prefixes.reads (p p' : Prefixes) (hs : List HW) : Prop := ∀ rest, scan (hs ++ rest) p = scan rest p'

theorem Prefixes.reads_nil (p : Prefixes) : p.reads p [] := fun _ => rfl

theorem Prefixes.reads.append {p p1 p2 : Prefixes} {xs ys : List HW} (h : p.reads p1 xs) (h' : p1.reads p2 ys) :
    p.reads p2 (xs ++ ys) := fun rest => by rw [List.append_assoc, h, h']

theorem toNat_prefixHw {kind pay : Nat} (hk : kind < 4) (hp : pay < 1024) : (prefixHw kind pay).toNat = kind * 1024 + pay := by
  rw [prefixHw, BitVec.toNat_ofNat]
  omega

theorem Prefixes.reads_prefixHw {p p' : Prefixes} {kind pay : Nat} (hk : kind < 4) (hp : pay < 1024)
    (h : p.add (kind * 1024 + pay) = .ok p') : p.reads p' [prefixHw kind pay] := by
  intro rest
  have h0 : (prefixHw kind pay).toNat / 4096 = 0 := by
    rw [toNat_prefixHw hk hp]
    omega
  rw [List.singleton_append, scan, if_pos h0, toNat_prefixHw hk hp, h]

theorem kind_of_prefixes {kind pay : Nat} (hp : pay < 1024) : (kind * 1024 + pay) / 1024 = kind ∧ (kind * 1024 + pay) % 1024 = pay := by
  omega

section Add
variable {p : Prefixes} {pay : Nat} (hp : pay < 1024) (hn : p.n < 4)
include hp hn

theorem Prefixes.add_ximm : p.add (0 * 1024 + pay) = .ok { p with n := p.n + 1, ximm := (pay, p.n) :: p.ximm } := by
  obtain ⟨hk, hm⟩ := kind_of_prefixes (kind := 0) hp
  simp only [Prefixes.add, hk, hm, if_neg (Nat.not_le.mpr hn)]

theorem Prefixes.add_page (h : p.page = none) : p.add (2 * 1024 + pay) = .ok { p with n := p.n + 1, page := some (pay, p.n) } := by
  obtain ⟨hk, hm⟩ := kind_of_prefixes (kind := 2) hp
  simp only [Prefixes.add, hk, hm, if_neg (Nat.not_le.mpr hn), h, Option.isSome_none, Bool.false_eq_true, if_false]

theorem Prefixes.add_xmod (h : p.xmod = none) : p.add (3 * 1024 + pay) = .ok { p with n := p.n + 1, xmod := some (pay, p.n) } := by
  obtain ⟨hk, hm⟩ := kind_of_prefixes (kind := 3) hp
  simp only [Prefixes.add, hk, hm, if_neg (Nat.not_le.mpr hn), h, Option.isSome_none, Bool.false_eq_true, if_false]

end Add

/-- The slot that XREG gives, by the number of its field. -/
def Prefixes.xreg (p : Prefixes) : Fin 4 → Option (Nat × Nat)
  | 0 => p.xd
  | 1 => p.xa
  | 2 => p.xb
  | 3 => p.xc

/-- What XREG gives, or that it gives nothing, noted. -/
def Prefixes.noteReg (p : Prefixes) (n : Nat) (e : Option (Nat × Nat)) : Fin 4 → Prefixes
  | 0 => { p with n := n, xd := e }
  | 1 => { p with n := n, xa := e }
  | 2 => { p with n := n, xb := e }
  | 3 => { p with n := n, xc := e }

theorem Prefixes.noteReg_self (p : Prefixes) (k : Fin 4) : p.noteReg p.n (p.xreg k) k = p := by
  fin_cases k <;> rfl

theorem Prefixes.add_xreg {p : Prefixes} {k : Fin 4} {s : Nat} (hs : s < 256) (h : p.xreg k = none) (hn : p.n < 4) :
    p.add (1 * 1024 + (k.val * 256 + s)) = .ok (p.noteReg (p.n + 1) (some (s, p.n)) k) := by
  have hd : (k.val * 256 + s) / 256 = k.val := by omega
  have hr : (k.val * 256 + s) % 256 = s := by omega
  obtain ⟨hk, hm⟩ := kind_of_prefixes (kind := 1) (show k.val * 256 + s < 1024 by omega)
  simp only [Prefixes.add, hk, hm, hd, hr, if_neg (Nat.not_le.mpr hn)]
  fin_cases k <;> exact if_neg (by simpa [Prefixes.xreg] using h)

theorem Prefixes.reads.xreg {p0 p : Prefixes} {hs : List HW} (hr : p0.reads p hs) (k : Fin 4) (o : Opnd) (h : p.xreg k = none)
    (hn : p.n + o.xcount ≤ 4) :
    ∃ e, e.map Prod.fst = o.slotNo ∧ p0.reads (p.noteReg (p.n + o.xcount) e k) (hs ++ o.xreg k) := by
  cases o with
  | code c =>
    refine ⟨none, rfl, ?_⟩
    rw [← h, Opnd.xcount, Nat.add_zero, Prefixes.noteReg_self]
    exact hr.append p.reads_nil
  | slot s => exact ⟨some (s.val, p.n), rfl, hr.append (reads_prefixHw (by omega) (by omega) (add_xreg s.isLt h hn))⟩

theorem XMod.bits_lt (x : XMod) : x.bits < 1024 := by
  have hw := x.weak.toNat_lt
  have hs := x.sat.toNat_lt
  have hf := x.fovr.toNat_lt
  have ho := x.ord.toNat_lt
  have hc := x.scope.toNat_lt
  have hr := x.rnd.toNat_lt
  rw [XMod.bits]
  omega

theorem Prefixes.reads_page {p : Prefixes} {page : Nat} (hpage : page < 1024) (h : p.page = none)
    (hn : p.n + (if page == 0 then 0 else 1) ≤ 4) :
    ∃ e, (e.map Prod.fst).getD 0 = page ∧ p.reads { p with n := p.n + (if page == 0 then 0 else 1), page := e }
      (if page = 0 then [] else [prefixHw 2 page]) := by
  by_cases h0 : page = 0
  · subst h0
    refine ⟨none, rfl, ?_⟩
    rw [← h]
    exact p.reads_nil
  · simp only [beq_iff_eq, h0, if_false] at hn ⊢
    exact ⟨some (page, p.n), rfl, reads_prefixHw (by omega) hpage (add_page hpage hn h)⟩

theorem Prefixes.reads.xmod {p0 p : Prefixes} {hs : List HW} (hr : p0.reads p hs) (m : Option XMod) (h : p.xmod = none)
    (hn : p.n + (if m.isSome then 1 else 0) ≤ 4) :
    ∃ e, e.map Prod.fst = m.map XMod.bits ∧ p0.reads { p with n := p.n + (if m.isSome then 1 else 0), xmod := e }
      (hs ++ m.elim [] fun x => [prefixHw 3 x.bits]) := by
  cases m with
  | none =>
    refine ⟨none, rfl, ?_⟩
    rw [← h]
    exact hr.append p.reads_nil
  | some x => exact ⟨some (x.bits, p.n), rfl, hr.append (reads_prefixHw (by omega) x.bits_lt (add_xmod x.bits_lt hn h))⟩

theorem ximmVal_concat (d i : Nat) : ∀ xs : List (Nat × Nat), ximmVal (xs ++ [(d, i)]) = ximmVal xs + 1024 ^ xs.length * d
  | [] => by simp [ximmVal]
  | x :: xs => by
    simp only [List.cons_append, ximmVal, ximmVal_concat d i xs, List.length_cons, Nat.pow_succ]
    ring

/-- Payloads of n XIMM prefixes read back as the low 10n bits that they were cut from (R39). -/
theorem Prefixes.reads_ximm (u : Nat) : ∀ (n : Nat) {p : Prefixes}, p.n + n ≤ 4 →
    ∃ xs, xs.length = n ∧ ximmVal xs = u % 1024 ^ n ∧ p.reads { p with n := p.n + n, ximm := xs ++ p.ximm } (ximmHws u n)
  | 0, p, _ => ⟨[], rfl, by simp [ximmVal, Nat.mod_one], p.reads_nil⟩
  | n + 1, p, hn => by
    have hd : u / 1024 ^ n % 1024 < 1024 := Nat.mod_lt _ (by omega)
    obtain ⟨xs, hl, hv, hr⟩ := reads_ximm u n (p := { p with n := p.n + 1, ximm := (u / 1024 ^ n % 1024, p.n) :: p.ximm })
      (by show p.n + 1 + n ≤ 4; omega)
    refine ⟨xs ++ [(u / 1024 ^ n % 1024, p.n)], by simp [hl], ?_, ?_⟩
    · rw [ximmVal_concat, hl, hv, Nat.mod_pow_succ]
    · have h1 := reads_prefixHw (by omega) hd (add_ximm (p := p) hd (by omega))
      have := h1.append hr
      simpa [ximmHws, Nat.add_assoc, Nat.add_comm 1 n] using this

theorem Prefixes.reads.ximm {p0 p : Prefixes} {hs : List HW} (hr : p0.reads p hs) (u n : Nat) (h : p.ximm = []) (hn : p.n + n ≤ 4) :
    ∃ xs, xs.length = n ∧ ximmVal xs = u % 1024 ^ n ∧ p0.reads { p with n := p.n + n, ximm := xs } (hs ++ ximmHws u n) := by
  obtain ⟨xs, hl, hv, hx⟩ := reads_ximm u n hn
  rw [h, List.append_nil] at hx
  exact ⟨xs, hl, hv, hr.append hx⟩

/-! ### The prefixes of an instruction -/

/-- The payloads of an instruction's XIMM prefixes as one number: its immediate's bits above the word's field, or its variant. -/
def Fields.high (f : Fields) (s : Spec) : Nat := match s.imm with
  | some im => immBits im (f.ximms s) f.imm / 2 ^ im.w
  | none => f.payload

/-- The prefixes that an instruction carries, before its word. -/
def Fields.prefixHws (f : Fields) (s : Spec) : List HW :=
  (if s.page = 0 then [] else [prefixHw 2 s.page]) ++ f.d.xreg 0 ++ f.a.xreg 1 ++ f.b.xreg 2 ++ f.c.xreg 3 ++
    f.m.elim [] (fun x => [prefixHw 3 x.bits]) ++ ximmHws (f.high s) (f.ximms s)

theorem Fields.ximms_le_one {f : Fields} {s : Spec} (hi : s.imm = none) : f.ximms s ≤ 1 := by
  rw [Fields.ximms, hi]
  cases s.pay with
  | req ps => exact Nat.le_refl 1
  | none | opt _ _ => dsimp only; split <;> decide

theorem Fields.ximmList_eq {f : Fields} {s : Spec} (hp : f.payload < 1024) : f.ximmList s = ximmHws (f.high s) (f.ximms s) := by
  unfold Fields.ximmList Fields.high
  cases hi : s.imm with
  | some im => rfl
  | none =>
    have h1 := f.ximms_le_one hi
    by_cases h0 : f.ximms s = 0
    · simp [h0, ximmHws]
    · have h1 : f.ximms s = 1 := by omega
      simp [h1, ximmHws, Nat.mod_eq_of_lt hp]

theorem encodeFields_eq {s : Spec} {f : Fields} (hp : f.payload < 1024) :
    encodeFields s f = f.prefixHws s ++ [BitVec.ofNat 16 (f.word s)] := by
  rw [encodeFields, Fields.ximmList_eq hp, Fields.prefixHws]
  cases f.m <;> rfl

theorem Opnd.xreg_length (o : Opnd) (k : Nat) : (o.xreg k).length = o.xcount := by cases o <;> rfl

theorem ximmHws_length (u : Nat) : ∀ n, (ximmHws u n).length = n
  | 0 => rfl
  | n + 1 => congrArg (· + 1) (ximmHws_length u n)

theorem Fields.prefixHws_length (f : Fields) (s : Spec) : (f.prefixHws s).length = f.prefixes s := by
  have hm : (f.m.elim [] fun x => [prefixHw 3 x.bits]).length = if f.m.isSome then 1 else 0 := by cases f.m <;> rfl
  have hpage : (if s.page = 0 then [] else [prefixHw 2 s.page]).length = if s.page == 0 then 0 else 1 := by
    by_cases h : s.page = 0 <;> simp [h]
  simp only [Fields.prefixHws, List.length_append, hm, hpage, Opnd.xreg_length, ximmHws_length, Fields.prefixes]

/-- What the prefixes of an instruction say once they are read. -/
structure Prefixes.Say (p : Prefixes) (s : Spec) (f : Fields) : Prop where
  n : p.n = f.prefixes s
  page : (p.page.map Prod.fst).getD 0 = s.page
  xmod : p.xmod.map Prod.fst = f.m.map XMod.bits
  xd : p.xd.map Prod.fst = f.d.slotNo
  xa : p.xa.map Prod.fst = f.a.slotNo
  xb : p.xb.map Prod.fst = f.b.slotNo
  xc : p.xc.map Prod.fst = f.c.slotNo
  ximms : p.ximm.length = f.ximms s
  ximm : ximmVal p.ximm = f.high s % 1024 ^ f.ximms s

/-- The scanner reads an instruction's prefixes for what they say. -/
theorem Fields.prefixes_say {s : Spec} {f : Fields} (hn : f.prefixes s ≤ 4) (hpage : s.page < 1024) :
    ∃ p : Prefixes, p.Say s f ∧ Prefixes.reads {} p (f.prefixHws s) := by
  have hsum := hn
  unfold Fields.prefixes at hsum
  obtain ⟨page, vpage, hr⟩ := Prefixes.reads_page (p := {}) hpage rfl (by dsimp only; omega)
  obtain ⟨xd, vd, hr⟩ := hr.xreg 0 f.d rfl (by dsimp only; omega)
  obtain ⟨xa, va, hr⟩ := hr.xreg 1 f.a rfl (by dsimp only [Prefixes.noteReg]; omega)
  obtain ⟨xb, vb, hr⟩ := hr.xreg 2 f.b rfl (by dsimp only [Prefixes.noteReg]; omega)
  obtain ⟨xc, vc, hr⟩ := hr.xreg 3 f.c rfl (by dsimp only [Prefixes.noteReg]; omega)
  obtain ⟨xm, vm, hr⟩ := hr.xmod f.m rfl (by dsimp only [Prefixes.noteReg]; omega)
  obtain ⟨xs, nx, vx, hr⟩ := hr.ximm (f.high s) (f.ximms s) rfl (by dsimp only [Prefixes.noteReg]; omega)
  exact ⟨_, ⟨by simp [Prefixes.noteReg, Fields.prefixes], vpage, vm, vd, va, vb, vc, nx, vx⟩, hr⟩

theorem scan_word {w : Nat} (lo : 4096 ≤ w) (hi : w < 65536) (p : Prefixes) (rest : List HW) :
    scan (BitVec.ofNat 16 w :: rest) p = .ok (p, w) := by
  have hw : (BitVec.ofNat 16 w).toNat = w := by rw [BitVec.toNat_ofNat]; omega
  rw [scan, hw, if_neg (by omega)]

end Sys2Proof
end

section
/-! SUPPORT. The checks of R56 on an encoded word: each passes where the fields are well-formed, and the fields read back. -/

namespace Sys2Proof

/-! ### The checks of a word that an instruction's fields pass (R56) -/

theorem Opnd.fieldNat_lt (o : Opnd) : o.fieldNat < 8 := by
  cases o with
  | code n => exact n.isLt
  | slot s => exact Nat.zero_lt_succ 7

theorem Role.own_takes {o : Opnd} (h : Role.own.takes o = true) : o = .code 0 := by
  cases o with
  | code n => exact congrArg Opnd.code (Fin.ext (of_decide_eq_true h))
  | slot s => exact absurd h Bool.false_ne_true

theorem Role.bits_fieldNat {r : Role} {o : Opnd} (h : r.takes o = true) : r.bits o.fieldNat = o.fieldNat := by
  cases r with
  | reg | vec | num | tile | zero => rfl
  | own =>
    rw [Role.own_takes h]
    rfl

theorem Opnd.slotNo_code {x : Option (Nat × Nat)} {n : Fin 8} (h : x.map Prod.fst = (Opnd.code n).slotNo) : x = none :=
  Option.map_eq_none_iff.mp h

theorem Opnd.slotNo_slot {x : Option (Nat × Nat)} {s : Fin 256} (h : x.map Prod.fst = (Opnd.slot s).slotNo) :
    ∃ i, x = some (s.val, i) := by
  obtain ⟨⟨v, i⟩, hx, rfl⟩ := Option.map_eq_some_iff.mp h
  exact ⟨i, hx⟩

/-- A field reads back as the operand that stands in it, by XREG or by its code. -/
theorem fieldOf_eq {o : Opnd} {x : Option (Nat × Nat)} (hx : x.map Prod.fst = o.slotNo) : fieldOf x o.fieldNat = o := by
  cases o with
  | code n =>
    obtain rfl := Opnd.slotNo_code hx
    exact congrArg Opnd.code (Fin.ext (Nat.mod_eq_of_lt n.isLt))
  | slot s =>
    obtain ⟨i, rfl⟩ := Opnd.slotNo_slot hx
    exact congrArg Opnd.slot (Fin.ext (Nat.mod_eq_of_lt s.isLt))

/-- A field that takes its operand is no bad field. -/
theorem badField_eq_none {r : Role} {o : Opnd} {x : Option (Nat × Nat)} (h : r.takes o = true) (hx : x.map Prod.fst = o.slotNo)
    (n : Nat) : badField r x o.fieldNat n = none := by
  cases o with
  | code c =>
    obtain rfl := Opnd.slotNo_code hx
    have hc : Fin.ofNat 8 c.val = c := Fin.ext (Nat.mod_eq_of_lt c.isLt)
    rw [badField, Role.bits_fieldNat h, Opnd.fieldNat, hc, if_pos h]
  | slot s =>
    obtain ⟨i, rfl⟩ := Opnd.slotNo_slot hx
    cases r with
    | reg | vec => rfl
    | num | tile | zero | own => exact absurd h Bool.false_ne_true

theorem XMod.ofBits_bits (x : XMod) : XMod.ofBits x.bits = x := by
  have hw := x.weak.toNat_lt
  have hs := x.sat.toNat_lt
  have hf := x.fovr.toNat_lt
  have ho := x.ord.toNat_lt
  have hc := x.scope.toNat_lt
  have hr := x.rnd.toNat_lt
  have h1 : x.bits / 512 % 2 = x.weak.toNat := by rw [XMod.bits]; omega
  have h2 : x.bits / 128 % 4 = x.ord.toNat := by rw [XMod.bits]; omega
  have h3 : x.bits / 32 % 4 = x.scope.toNat := by rw [XMod.bits]; omega
  have h4 : x.bits / 16 % 2 = x.sat.toNat := by rw [XMod.bits]; omega
  have h5 : x.bits / 4 % 4 = x.rnd.toNat := by rw [XMod.bits]; omega
  have h6 : x.bits / 2 % 2 = x.fovr.toNat := by rw [XMod.bits]; omega
  rw [XMod.ofBits, h1, h2, h3, h4, h5, h6]
  simp

theorem XMod.bits_reserved (x : XMod) : x.bits % 2 ≠ 1 ∧ x.bits / 32 % 4 ≠ 3 := by
  have hs := x.sat.toNat_lt
  have hf := x.fovr.toNat_lt
  have hc := x.scope.toNat_lt
  have hr := x.rnd.toNat_lt
  rw [XMod.bits]
  omega

/-- Modifiers that the class takes are no bad XMOD. -/
theorem badXMod_eq_none {s : Spec} {p : Prefixes} {m : Option XMod} (h : s.xc.takesOpt m = true)
    (hp : p.xmod.map Prod.fst = m.map XMod.bits) : badXMod s p = none := by
  cases m with
  | none =>
    have hx : p.xmod = none := by simpa using hp
    have hc : (s.xc == .fence) = false := by simpa [XClass.takesOpt] using h
    simp [badXMod, hx, hc]
  | some x =>
    obtain ⟨⟨v, i⟩, hx, rfl⟩ := Option.map_eq_some_iff.mp hp
    have ht : s.xc.takes (XMod.ofBits x.bits) = true := by rw [XMod.ofBits_bits]; exact h
    obtain ⟨h2, h3⟩ := x.bits_reserved
    simp [badXMod, hx, h2, h3, ht]

/-- What the fields of a word say: the fields of an instruction that stand in it. -/
structure Fields.Stands (f : Fields) (s : Spec) (word : Nat) : Prop where
  lo : 4096 ≤ word
  hi : word < 65536
  d : s.d.bits (word / 512 % 8) = f.d.fieldNat
  a : s.a.bits (word / 64 % 8) = f.a.fieldNat
  b : s.b.bits (word / 8 % 8) = f.b.fieldNat
  imm : ∀ im, s.imm = some im → 0 < im.w ∧ word / 2 ^ im.pos % 2 ^ im.w = immBits im (f.ximms s) f.imm % 2 ^ im.w
  low : s.imm = none → s.b = .zero → s.base / 4096 = 11 → word % 8 = 0

/-- The checks of well-formed fields, one by one. -/
theorem Fields.ok_parts {f : Fields} {s : Spec} (h : f.ok s = true) :
    s.d.takes f.d = true ∧ s.a.takes f.a = true ∧ s.b.takes f.b = true ∧ s.c.takesC f.c = true ∧ s.xc.takesOpt f.m = true ∧
      s.pay.takes f.payload = true ∧ f.immOk s = true ∧ f.prefixes s ≤ 4 := by
  simp only [Fields.ok, Bool.and_eq_true, decide_eq_true_eq] at h
  tauto

/-- The fourth operand has XREG on a row that reads it, and on no other (R42). -/
theorem Role.takesC_slotNo {r : Role} {o : Opnd} {x : Option (Nat × Nat)} (h : r.takesC o = true) (hx : x.map Prod.fst = o.slotNo) :
    x = none ∨ r = .reg ∧ ∃ e, x = some e := by
  cases o with
  | code n => exact .inl (Opnd.slotNo_code hx)
  | slot s =>
    obtain ⟨i, rfl⟩ := Opnd.slotNo_slot hx
    cases r with
    | reg => exact .inr ⟨rfl, _, rfl⟩
    | vec | num | tile | zero | own => exact absurd h Bool.false_ne_true

theorem Role.takesC_fieldNat {r : Role} {o : Opnd} (h : r.takesC o = true) : o.fieldNat = 0 := by
  cases o with
  | slot s => rfl
  | code n => cases r <;> exact of_decide_eq_true h

theorem badFields_eq_none {s : Spec} {f : Fields} {p : Prefixes} {word : Nat} (hd : s.d.takes f.d = true) (ha : s.a.takes f.a = true)
    (hb : s.b.takes f.b = true) (hc : s.c.takesC f.c = true) (hp : p.Say s f) (hw : f.Stands s word) : badFields s p word = none := by
  have hlow : (s.imm.isNone && s.b == .zero && s.base / 4096 == 11 && word % 8 != 0) = false := by
    by_contra h
    simp only [Bool.not_eq_false, Bool.and_eq_true, Option.isNone_iff_eq_none, beq_iff_eq, bne_iff_ne] at h
    obtain ⟨⟨⟨hi, h0⟩, hbase⟩, hne⟩ := h
    exact hne (hw.low hi h0 hbase)
  rw [badFields, hw.d, hw.a, hw.b, badField_eq_none hd hp.xd, badField_eq_none ha hp.xa, badField_eq_none hb hp.xb]
  obtain hx | ⟨hr, e, hx⟩ := Role.takesC_slotNo hc hp.xc
  · simp [hx, hlow, firstOf]
  · simp [hx, hr, hlow, firstOf]

/-- The variant of a row's fields in the ten bits of one XIMM: seven bits beside a governing predicate, or a type payload
without one; no variant beside an immediate (R41). -/
def Fields.variantFits (f : Fields) (s : Spec) : Prop := match s.pay with
  | .none => True
  | .opt _ _ => s.imm = none ∧ f.v < 128
  | .req ps => s.imm = none ∧ f.g = 0 ∧ ∀ p ∈ ps, p < 1024

theorem Fields.payload_lt {f : Fields} {s : Spec} (ht : s.pay.takes f.payload = true) (hv : f.variantFits s) : f.payload < 1024 := by
  unfold Fields.variantFits at hv
  cases hp : s.pay <;> rw [hp] at ht hv
  case none =>
    have h0 : f.payload = 0 := by simpa [Pay.takes] using ht
    omega
  case opt =>
    simp only [Pay.takes, Bool.and_eq_true, decide_eq_true_eq] at ht
    exact ht.1.1
  case req ps => exact hv.2.2 _ (by simpa [Pay.takes] using ht)

/-- A row without a variant has the payload 0. -/
theorem Fields.payload_eq_zero {f : Fields} {s : Spec} (hp : s.pay = .none) (ht : s.pay.takes f.payload = true) : f.payload = 0 := by
  simpa [hp, Pay.takes] using ht

theorem Fields.imm_eq_none {f : Fields} {s : Spec} (hp : s.pay ≠ .none) (hv : f.variantFits s) : s.imm = none := by
  unfold Fields.variantFits at hv
  cases h : s.pay <;> rw [h] at hv
  case none => exact absurd h hp
  case opt => exact hv.1
  case req => exact hv.1

/-- A row without XIMM has the payload 0. -/
theorem Fields.payload_of_ximms {f : Fields} {s : Spec} (hi : s.imm = none) (h : f.ximms s = 0) : f.payload = 0 := by
  by_contra hne
  rw [Fields.ximms, hi] at h
  cases hp : s.pay <;> simp [hp, hne] at h

theorem Prefixes.Say.ximm_nil {p : Prefixes} {s : Spec} {f : Fields} (hp : p.Say s f) (h : f.ximms s = 0) : p.ximm = [] :=
  List.eq_nil_of_length_eq_zero (hp.ximms.trans h)

/-- The one XIMM of a variant carries its payload. -/
theorem Prefixes.Say.ximm_variant {p : Prefixes} {s : Spec} {f : Fields} (hp : p.Say s f) (hi : s.imm = none) (h : f.ximms s = 1)
    (hlt : f.payload < 1024) : ∃ i, p.ximm = [(f.payload, i)] := by
  obtain ⟨⟨v, i⟩, hx⟩ := List.length_eq_one_iff.mp (hp.ximms.trans h)
  have hv := hp.ximm
  rw [hx, h, Fields.high, hi] at hv
  simp only [ximmVal, Nat.pow_one, Nat.mod_eq_of_lt hlt] at hv
  exact ⟨i, by rw [hx, ← hv, Nat.mul_zero, Nat.add_zero]⟩

theorem payOf_eq {s : Spec} {f : Fields} {p : Prefixes} (ht : s.pay.takes f.payload = true) (hv : f.variantFits s)
    (hp : p.Say s f) : payOf s p = .ok f.payload := by
  have hlt := Fields.payload_lt ht hv
  by_cases hn : s.pay = .none
  · rw [Fields.payload_eq_zero hn ht]
    cases hi : s.imm with
    | some im => simp [payOf, hi]
    | none =>
      have h0 : f.ximms s = 0 := by simp [Fields.ximms, hi, hn, Fields.payload_eq_zero hn ht]
      simp [payOf, hi, hn, hp.ximm_nil h0]
  · have hi := Fields.imm_eq_none hn hv
    by_cases h0 : f.ximms s = 0
    · have hx := hp.ximm_nil h0
      have hz := Fields.payload_of_ximms hi h0
      cases h : s.pay with
      | none => exact absurd h hn
      | req ps => simp [Fields.ximms, hi, h] at h0
      | opt pred vs => simp [payOf, hi, h, hx, hz]
    · obtain ⟨i, hx⟩ := hp.ximm_variant hi (Nat.le_antisymm (f.ximms_le_one hi) (Nat.pos_of_ne_zero h0)) hlt
      cases h : s.pay with
      | none => exact absurd h hn
      | req ps | opt pred vs =>
        rw [h] at ht
        simp [payOf, hi, h, hx, ht]

/-- A two's-complement number reads back from its bits. -/
theorem emod_two_pow_signed {n : Nat} {v : Int} (hn : 0 < n) (h : immFits true n v = true) :
    (if 2 ^ (n - 1) ≤ (v % 2 ^ n).toNat then ((v % 2 ^ n).toNat : Int) - 2 ^ n else (v % 2 ^ n).toNat) = v := by
  obtain ⟨k, rfl⟩ : ∃ k, n = k + 1 := ⟨n - 1, by omega⟩
  simp only [immFits, Nat.add_sub_cancel, if_true, Bool.and_eq_true, decide_eq_true_eq] at h ⊢
  have h2 : (2 : Int) ^ (k + 1) = 2 * 2 ^ k := by rw [Int.pow_succ]; omega
  have hc : ((2 ^ k : Nat) : Int) = 2 ^ k := by simp
  rw [h2]
  generalize (2 : Int) ^ k = b at *
  generalize (2 : Nat) ^ k = a at *
  obtain ⟨lo, hi⟩ := h
  by_cases h0 : 0 ≤ v
  · rw [Int.emod_eq_of_lt h0 (by omega), if_neg (by omega)]
    omega
  · have he : v % (2 * b) = v + 2 * b := by
      rw [← Int.add_emod_right, Int.emod_eq_of_lt (by omega) (by omega)]
    rw [he, if_pos (by omega)]
    omega

/-- An immediate reads back from its word and its XIMM prefixes (R36, R39). -/
theorem immVal_eq {im : ImmSpec} {xs : List (Nat × Nat)} {word : Nat} {v : Int} (hw : 0 < im.w)
    (hfit : immFits im.signed (im.w + 10 * xs.length) v = true)
    (hword : word / 2 ^ im.pos % 2 ^ im.w = immBits im xs.length v % 2 ^ im.w)
    (hx : ximmVal xs = immBits im xs.length v / 2 ^ im.w % 1024 ^ xs.length) : immVal im xs word = v := by
  have hpow : 2 ^ im.w * 1024 ^ xs.length = 2 ^ (im.w + 10 * xs.length) := by
    rw [Nat.pow_add, Nat.pow_mul 2 10]
  have hu : word / 2 ^ im.pos % 2 ^ im.w + 2 ^ im.w * ximmVal xs = immBits im xs.length v := by
    have hlt : immBits im xs.length v < 2 ^ im.w * 1024 ^ xs.length := by
      have := Int.emod_lt_of_pos v (b := 2 ^ (im.w + 10 * xs.length)) (by positivity)
      rw [hpow, immBits, Int.toNat_lt' (by positivity)]
      exact_mod_cast this
    rw [hword, hx, Nat.mod_eq_of_lt (Nat.div_lt_of_lt_mul hlt)]
    exact Nat.mod_add_div _ _
  rw [immVal, hu]
  cases hs : im.signed with
  | true =>
    rw [hs] at hfit
    rw [Bool.true_and]
    exact (if_congr decide_eq_true_iff rfl rfl).trans (emod_two_pow_signed (by omega) hfit)
  | false =>
    rw [hs] at hfit
    simp only [immFits, Bool.and_eq_true, decide_eq_true_eq, Bool.false_eq_true, if_false] at hfit
    rw [Bool.false_and, if_neg Bool.false_ne_true, immBits, Int.emod_eq_of_lt hfit.1 hfit.2, Int.toNat_of_nonneg hfit.1]

/-- The XIMM prefixes counted for an immediate hold it. -/
theorem immCount_fits {im : ImmSpec} {v : Int} : ∀ (fuel n : Nat), immCount im v fuel n ≤ 4 →
    immFits im.signed (im.w + 10 * immCount im v fuel n) v = true
  | 0, _, h => absurd h (by simp [immCount])
  | fuel + 1, n, h => by
    unfold immCount at h ⊢
    by_cases hf : immFits im.signed (im.w + 10 * n) v = true
    · rw [if_pos hf]
      exact hf
    · rw [if_neg hf] at h ⊢
      exact immCount_fits fuel (n + 1) h

theorem immCount_ne_zero {im : ImmSpec} {v : Int} : ∀ (fuel n : Nat), immCount im v fuel (n + 1) ≠ 0
  | 0, _ => by simp [immCount]
  | fuel + 1, n => by
    unfold immCount
    split
    · exact Nat.succ_ne_zero n
    · exact immCount_ne_zero fuel (n + 1)

/-- CMPI needs XIMM (R40). -/
theorem Fields.ximms_sCmpi (f : Fields) (c : Nat) : f.ximms (sCmpi c) ≠ 0 := immCount_ne_zero 4 0

theorem immOk_ximms {s : Spec} {f : Fields} {im : ImmSpec} (hi : s.imm = some im) (hn : f.prefixes s ≤ 4) :
    immFits im.signed (im.w + 10 * f.ximms s) f.imm = true := by
  have hx : f.ximms s = immCount im f.imm (5 - im.minX) im.minX := by rw [Fields.ximms, hi]
  have h4 : f.ximms s ≤ 4 := Nat.le_trans (Nat.le_add_left ..) hn
  rw [hx] at h4 ⊢
  exact immCount_fits _ _ h4

/-- The fields that the decoder reads are the instruction's. -/
theorem fieldsOf_eq {s : Spec} {f : Fields} {p : Prefixes} {word : Nat} (hc : s.c.takesC f.c = true)
    (ht : s.pay.takes f.payload = true) (hv : f.variantFits s) (himm : f.immOk s = true) (hn : f.prefixes s ≤ 4) (hp : p.Say s f)
    (hw : f.Stands s word) : fieldsOf s p word f.payload = f := by
  have hfc : fieldOf p.xc 0 = f.c := by rw [← Role.takesC_fieldNat hc, fieldOf_eq hp.xc]
  have hm : (p.xmod.map fun x => XMod.ofBits x.1) = f.m := by
    have h : (p.xmod.map Prod.fst).map XMod.ofBits = (f.m.map XMod.bits).map XMod.ofBits := congrArg _ hp.xmod
    rw [Option.map_map, Option.map_map] at h
    exact h.trans (by cases f.m <;> simp [XMod.ofBits_bits])
  have hi : (match s.imm with
      | some im => immVal im p.ximm word
      | none => 0) = f.imm := by
    cases hi : s.imm with
    | none =>
      have h0 : f.imm = 0 := by simpa [Fields.immOk, hi] using himm
      exact h0.symm
    | some im =>
      obtain ⟨hpos, hbits⟩ := hw.imm im hi
      have hx := hp.ximm
      rw [Fields.high, hi] at hx
      have hfit := immOk_ximms hi hn
      rw [← hp.ximms] at hbits hx hfit
      exact immVal_eq hpos hfit hbits hx
  have hgv : (match s.pay with
      | .opt _ _ => Fin.ofNat 8 (f.payload / 128)
      | _ => 0) = f.g ∧ (match s.pay with
      | .opt _ _ => f.payload % 128
      | _ => f.payload) = f.v := by
    have hg := f.g.isLt
    unfold Fields.variantFits at hv
    cases h : s.pay with
    | none =>
      have h0 := Fields.payload_eq_zero h ht
      rw [Fields.payload] at h0
      exact ⟨Fin.ext (show 0 = f.g.val by omega), show f.payload = f.v by rw [Fields.payload]; omega⟩
    | opt pred vs =>
      rw [h] at hv
      obtain ⟨-, hv⟩ := hv
      simp only [Fields.payload]
      exact ⟨Fin.ext (show (128 * f.g.val + f.v) / 128 % 8 = f.g.val by omega), by omega⟩
    | req ps =>
      rw [h] at hv
      obtain ⟨-, hg0, -⟩ := hv
      have hz : f.g.val = 0 := congrArg Fin.val hg0
      exact ⟨hg0.symm, show f.payload = f.v by rw [Fields.payload]; omega⟩
  obtain ⟨hg, hv⟩ := hgv
  rw [fieldsOf, hw.d, hw.a, hw.b, fieldOf_eq hp.xd, fieldOf_eq hp.xa, fieldOf_eq hp.xb, hfc, hm]
  exact congr (congr (congrArg (fun g v i => (⟨f.d, f.a, f.b, f.c, g, v, i, f.m⟩ : Fields)) hg) hv) hi

/-- The page that a word stands on (R43). -/
def Prefixes.pageNo (p : Prefixes) : Nat := match p.page with
  | some (v, _) => v
  | none => 0

/-- The variant number by which a row is looked up. -/
def Prefixes.variantNo (p : Prefixes) : Nat := match p.ximm.reverse with
  | (v, _) :: _ => v % 16
  | [] => 0

/-- A word decodes by its row where every check of R56 passes. -/
theorem decodeWord_of_row {p : Prefixes} {word pay : Nat} {r : Row} (hpage : p.pageNo ≤ 11)
    (hrow : lookup p.pageNo word (!p.ximm.isEmpty) p.variantNo = some r) (hf : badFields r.spec p word = none)
    (hx : badXMod r.spec p = none) (hpay : payOf r.spec p = .ok pay) (hi : (fieldsOf r.spec p word pay).immOk r.spec = true) :
    decodeWord p word = .ok (r.make (fieldsOf r.spec p word pay)) := by
  change (if 11 < p.pageNo then _ else match lookup p.pageNo word (!p.ximm.isEmpty) p.variantNo with
    | none => _
    | some r => _) = _
  rw [if_neg (by omega), hrow]
  simp only [hf, hx, hpay, hi, if_true]

/-- A row's own encoding reads back: its word is found as that row, whose checked fields make the instruction. -/
structure Fields.Makes (f : Fields) (s : Spec) (i : Instr) : Prop where
  stands : f.Stands s (f.word s)
  variant : f.variantFits s
  page : s.page ≤ 11
  row : ∃ make, make f = i ∧ ∀ pv, (s.imm = none → pv = f.payload % 16) →
    lookup s.page (f.word s) (decide (f.ximms s ≠ 0)) pv = some ⟨s, make⟩

theorem Prefixes.Say.variantNo_eq {p : Prefixes} {s : Spec} {f : Fields} (hp : p.Say s f) (ht : s.pay.takes f.payload = true)
    (hv : f.variantFits s) (hi : s.imm = none) : p.variantNo = f.payload % 16 := by
  unfold Prefixes.variantNo
  by_cases h0 : f.ximms s = 0
  · rw [hp.ximm_nil h0, Fields.payload_of_ximms hi h0]
    rfl
  · obtain ⟨i, hx⟩ := hp.ximm_variant hi (Nat.le_antisymm (f.ximms_le_one hi) (Nat.pos_of_ne_zero h0)) (Fields.payload_lt ht hv)
    rw [hx]
    rfl

theorem decodeWord_eq {s : Spec} {f : Fields} {p : Prefixes} {i : Instr} (hm : f.Makes s i) (hok : f.ok s = true) (hp : p.Say s f) :
    decodeWord p (f.word s) = .ok i := by
  obtain ⟨hd, ha, hb, hc, hx, ht, himm, hn⟩ := Fields.ok_parts hok
  obtain ⟨hw, hv, hpage, make, rfl, hrow⟩ := hm
  have hpg : p.pageNo = s.page := by
    rw [← hp.page, Prefixes.pageNo]
    cases p.page <;> rfl
  have hany : (!p.ximm.isEmpty) = decide (f.ximms s ≠ 0) := by
    rw [← hp.ximms]
    cases p.ximm <;> rfl
  have hl := hrow p.variantNo (hp.variantNo_eq ht hv)
  have hf := fieldsOf_eq hc ht hv himm hn hp hw
  rw [← hpg, ← hany] at hl
  rw [decodeWord_of_row (hpg ▸ hpage) hl (badFields_eq_none hd ha hb hc hp hw) (badXMod_eq_none hx hp.xmod) (payOf_eq ht hv hp)
    (by rw [hf]; exact himm), hf]

/-- What reads back decodes, whatever follows it (R31, R32). -/
theorem decode_encodeFields {s : Spec} {f : Fields} {i : Instr} (hm : f.Makes s i) (hok : f.ok s = true) (rest : List HW) :
    decode (encodeFields s f ++ rest) = .ok (i, (encodeFields s f).length) := by
  obtain ⟨-, -, -, -, -, ht, -, hn⟩ := Fields.ok_parts hok
  obtain ⟨p, hp, hr⟩ := f.prefixes_say hn (by have := hm.page; omega)
  have he := encodeFields_eq (s := s) (Fields.payload_lt ht hm.variant)
  have hs : scan (encodeFields s f ++ rest) {} = .ok (p, f.word s) := by
    rw [he, List.append_assoc, hr, List.singleton_append, scan_word hm.stands.lo hm.stands.hi]
  have hlen : (encodeFields s f).length = p.n + 1 := by rw [he, List.length_append, f.prefixHws_length, hp.n]; rfl
  rw [decode, hs, hlen]
  simp only [decodeWord_eq hm hok hp]

end Sys2Proof
end

section
/-! SUPPORT. Every row is found by its own word (03 R43 to R54), so every encoded instruction decodes to itself. -/

namespace Sys2Proof

/-! ### Rows found by their own words (R46 to R54) -/

/-- Every encoding of the instruction reads back as the instruction. -/
def Instr.ReadsBack (i : Instr) : Prop := ∀ s f, i.enc = some (s, f) → f.ok s = true → f.Makes s i

theorem Instr.readsBack_of_enc {i : Instr} {s : Spec} {f : Fields} (he : i.enc = some (s, f)) (h : f.ok s = true → f.Makes s i) : i.ReadsBack := by
  intro s' f' he'
  obtain ⟨rfl, rfl⟩ : s = s' ∧ f = f' := by simpa using he.symm.trans he'
  exact h

theorem Instr.readsBack_of_event {i : Instr} (he : i.enc = none) : i.ReadsBack := fun _ _ he' => nomatch he.symm.trans he'

@[simp] theorem Opnd.slotD_slot (s : Fin 256) : (Opnd.slot s).slotD = s := rfl
@[simp] theorem Opnd.codeD_code (n : Fin 8) : (Opnd.code n).codeD = n := rfl
@[simp] theorem Opnd.tileD_tileOpnd (q : Fin 2) : (tileOpnd q).tileD = q := by fin_cases q <;> rfl

theorem Fields.variantFits_of_lt {f : Fields} {s : Spec} (hi : s.imm = none) (hr : ∀ ps, s.pay ≠ .req ps) (hv : f.v < 128) :
    f.variantFits s := by
  unfold Fields.variantFits
  cases h : s.pay with
  | none => trivial
  | opt pred vs => exact ⟨hi, hv⟩
  | req ps => exact absurd h (hr ps)

theorem Fields.variantFits_of_none {f : Fields} {s : Spec} (h : s.pay = .none) : f.variantFits s := by
  rw [Fields.variantFits, h]
  trivial

theorem Fields.word_of_none {f : Fields} {s : Spec} (hi : s.imm = none) :
    f.word s = s.base + 512 * f.d.fieldNat + 64 * f.a.fieldNat + 8 * f.b.fieldNat := by
  simp [Fields.word, hi]

theorem Role.own_fieldNat {r : Role} {o : Opnd} (hr : r = .own) (h : r.takes o = true) : o.fieldNat = 0 := by
  subst hr
  rw [Role.own_takes h]
  rfl

/-! ### Words of three operands -/

section Three
variable {s : Spec} {f : Fields} {major minor : Nat} (hb : s.base = w3 major minor) (hi : s.imm = none) (hmin : minor < 8)
include hb hi hmin

theorem Fields.word_three : f.word s / 4096 = major ∧ f.word s % 8 = minor ∧ f.word s / 512 % 8 = f.d.fieldNat ∧
    f.word s / 64 % 8 = f.a.fieldNat ∧ f.word s / 8 % 8 = f.b.fieldNat := by
  have h1 := f.d.fieldNat_lt
  have h2 := f.a.fieldNat_lt
  have h3 := f.b.fieldNat_lt
  rw [Fields.word_of_none hi, hb, w3]
  omega

theorem Fields.stands_three (hok : f.ok s = true) (h1 : 1 ≤ major) (h16 : major < 16) (h11 : major ≠ 11) : f.Stands s (f.word s) := by
  obtain ⟨hd, ha, hb', -⟩ := Fields.ok_parts hok
  obtain ⟨hmaj, -, h9, h6, h3⟩ := Fields.word_three (f := f) hb hi hmin
  refine ⟨by omega, by omega, ?_, ?_, ?_, fun im him => absurd (hi.symm.trans him) nofun, fun _ _ h => ?_⟩
  · rw [h9, Role.bits_fieldNat hd]
  · rw [h6, Role.bits_fieldNat ha]
  · rw [h3, Role.bits_fieldNat hb']
  · rw [hb, w3] at h
    omega

end Three

/-- A word of major 0xC or 0xD is looked up on its page (R53). -/
theorem lookup_page {page word major : Nat} (hm : word / 4096 = major) (h : 12 ≤ major ∧ major ≤ 13) (x : Bool) (pv : Nat) :
    lookup page word x pv = lookupPage page major (word % 8) pv (word / 64 % 8) (word / 8 % 8) := by
  simp only [lookup, hm, if_pos h]

theorem Fields.makes_page {s : Spec} {f : Fields} {i : Instr} {major minor : Nat} {make : Fields → Instr} (hb : s.base = w3 major minor)
    (hi : s.imm = none) (hmin : minor < 8) (hmaj : 12 ≤ major ∧ major ≤ 13) (hpage : s.page ≤ 11) (hv : f.variantFits s)
    (hrow : lookupPage s.page major minor (f.payload % 16) f.a.fieldNat f.b.fieldNat = some ⟨s, make⟩) (hmk : make f = i)
    (hok : f.ok s = true) : f.Makes s i := by
  obtain ⟨hm, hn, -, h6, h3⟩ := Fields.word_three (f := f) hb hi hmin
  refine ⟨Fields.stands_three hb hi hmin hok (by omega) (by omega) (by omega), hv, hpage, make, hmk, fun pv hpv => ?_⟩
  rw [lookup_page hm hmaj, hn, h6, h3, hpv hi, hrow]

theorem Instr.readsBack_page {i : Instr} {f : Fields} {page major minor : Nat} {d a b c : Role} {xc : XClass} {pay : Pay}
    {make : Fields → Instr} (he : i.enc = some (sP page major minor d a b xc pay c, f)) (hv : f.v < 128)
    (hrow : lookupPage page major minor (f.payload % 16) f.a.fieldNat f.b.fieldNat = some ⟨sP page major minor d a b xc pay c, make⟩)
    (hmk : make f = i) (hreq : ∀ ps, pay ≠ .req ps := by nofun) (hmin : minor < 8 := by decide)
    (hmaj : 12 ≤ major ∧ major ≤ 13 := by decide) (hpage : page ≤ 11 := by decide) : i.ReadsBack :=
  Instr.readsBack_of_enc he (Fields.makes_page rfl rfl hmin hmaj hpage (Fields.variantFits_of_lt rfl hreq hv) hrow hmk)

/-- A row of a page that depends on its variant number. -/
theorem Instr.readsBack_page_of_variant {i : Instr} {f : Fields} {page major minor : Nat} {d a b c : Role} {xc : XClass} {pay : Pay}
    {make : Fields → Instr} (he : i.enc = some (sP page major minor d a b xc pay c, f)) (hv : f.v < 16)
    (hrow : lookupPage page major minor f.v f.a.fieldNat f.b.fieldNat = some ⟨sP page major minor d a b xc pay c, make⟩)
    (hmk : make f = i) (hreq : ∀ ps, pay ≠ .req ps := by nofun) (hmin : minor < 8 := by decide)
    (hmaj : 12 ≤ major ∧ major ≤ 13 := by decide) (hpage : page ≤ 11 := by decide) : i.ReadsBack := by
  have hpv : f.payload % 16 = f.v := by rw [Fields.payload]; omega
  exact Instr.readsBack_page he (by omega) (hpv ▸ hrow) hmk hreq hmin hmaj hpage

/-- A row of a page that needs a type payload. -/
theorem Instr.readsBack_page_of_types {i : Instr} {f : Fields} {page minor : Nat} {d a b : Role} {xc : XClass} {ps : List Nat}
    {make : Fields → Instr} (he : i.enc = some (sP page 0xC minor d a b xc (.req ps), f)) (hg : f.g = 0)
    (hrow : lookupPage page 0xC minor (f.payload % 16) f.a.fieldNat f.b.fieldNat = some ⟨sP page 0xC minor d a b xc (.req ps), make⟩)
    (hmk : make f = i) (hps : ∀ p ∈ ps, p < 1024 := by decide) (hmin : minor < 8 := by decide) (hpage : page ≤ 11 := by decide) :
    i.ReadsBack :=
  Instr.readsBack_of_enc he (Fields.makes_page rfl rfl hmin (by decide) hpage ⟨rfl, hg, hps⟩ hrow hmk)

/-- Majors of page 0 whose minor alone names the row. -/
theorem Instr.readsBack_three {i : Instr} {f : Fields} {major minor : Nat} {d a b c : Role} {xc : XClass} {pay : Pay} {make : Fields → Instr}
    (he : i.enc = some (⟨0, w3 major minor, d, a, b, c, pay, xc, none⟩, f)) (hv : f.v < 128)
    (hrow : ∀ word pv, word / 4096 = major → word % 8 = minor →
      lookup 0 word (decide (f.ximms ⟨0, w3 major minor, d, a, b, c, pay, xc, none⟩ ≠ 0)) pv =
        some ⟨⟨0, w3 major minor, d, a, b, c, pay, xc, none⟩, make⟩)
    (hmk : make f = i) (hreq : ∀ ps, pay ≠ .req ps := by nofun) (hmin : minor < 8 := by decide)
    (hmaj : 1 ≤ major ∧ major < 11 := by decide) : i.ReadsBack := by
  refine Instr.readsBack_of_enc he fun hok => ?_
  obtain ⟨hm, hn, -⟩ := Fields.word_three (s := ⟨0, w3 major minor, d, a, b, c, pay, xc, none⟩) (f := f) rfl rfl hmin
  exact ⟨Fields.stands_three rfl rfl hmin hok (by omega) (by omega) (by omega), Fields.variantFits_of_lt rfl hreq hv, Nat.zero_le _,
    make, hmk, fun pv _ => hrow _ pv hm hn⟩

theorem lookup_rows1 {word minor : Nat} (hm : word / 4096 = 1) (hn : word % 8 = minor) (x : Bool) (pv : Nat) :
    lookup 0 word x pv = rows1[minor]? := by simp [lookup, hm, hn]

theorem lookup_rows2 {word minor : Nat} (hm : word / 4096 = 2) (hn : word % 8 = minor) (x : Bool) (pv : Nat) :
    lookup 0 word x pv = rows2[minor]? := by simp [lookup, hm, hn]

theorem lookup_rows3 {word minor : Nat} (hm : word / 4096 = 3) (hn : word % 8 = minor) (x : Bool) (pv : Nat) :
    lookup 0 word x pv = rows3[minor]? := by simp [lookup, hm, hn]

theorem lookup_major6 {word : Nat} (hm : word / 4096 = 6) (x : Bool) (pv : Nat) :
    lookup 0 word x pv = lookup6 (word / 8 % 8) (word % 8) := by simp [lookup, hm]

theorem lookup_major7 {word minor : Nat} (hm : word / 4096 = 7) (hn : word % 8 = minor) (x : Bool) (pv : Nat) :
    lookup 0 word x pv = if x then some ⟨sCmpi minor, fun f => .cmpi f.m (Cond.ofCode minor) f.d.codeD f.a f.imm⟩
      else some ⟨sCmp minor, fun f => .cmp f.m (Cond.ofCode minor) f.d.codeD f.a f.b⟩ := by simp [lookup, hm, hn]

theorem lookup_major8 {word : Nat} (hm : word / 4096 = 8) (x : Bool) (pv : Nat) :
    lookup 0 word x pv = if word / 256 % 2 = 1 then some ⟨sBc 1, fun f => .bc f.d.codeD f.imm⟩
      else some ⟨sBc 0, fun f => .bcN f.d.codeD f.imm⟩ := by simp [lookup, hm]

theorem lookup_major9 {word : Nat} (hm : word / 4096 = 9) (x : Bool) (pv : Nat) :
    lookup 0 word x pv = if word / 2048 % 2 = 1 then some ⟨sBr 1, fun f => .call f.imm⟩ else some ⟨sBr 0, fun f => .br f.imm⟩ := by
  simp [lookup, hm]

theorem lookup_majorA {word : Nat} (hm : word / 4096 = 10) (x : Bool) (pv : Nat) :
    lookup 0 word x pv = lookupA (word / 16 % 4) (word / 4 % 4) (word % 4) := by simp [lookup, hm]

theorem lookup_majorB {word : Nat} (hm : word / 4096 = 11) (x : Bool) (pv : Nat) :
    lookup 0 word x pv = lookupB (word / 512 % 8) := by simp [lookup, hm]

theorem lookup_majorE {word : Nat} (hm : word / 4096 = 14) (x : Bool) (pv : Nat) :
    lookup 0 word x pv = lookupE (word / 128 % 4) (word / 32 % 4) := by simp [lookup, hm]

/-! ### Words of two operands, and of major 0xB (R47, R50, R51) -/

/-- Page 0 rows whose six low bits are fixed. -/
theorem Instr.readsBack_two {i : Instr} {s : Spec} {f : Fields} {major low : Nat} {make : Fields → Instr} (he : i.enc = some (s, f))
    (hb : s.base = major * 4096 + low) (hi : s.imm = none) (hown : s.b = .own) (hpage : s.page = 0) (hlow : low < 64)
    (hmaj : 1 ≤ major ∧ major < 11) (hv : f.variantFits s)
    (hrow : ∀ word pv, word / 4096 = major → word % 64 = low → lookup 0 word (decide (f.ximms s ≠ 0)) pv = some ⟨s, make⟩)
    (hmk : make f = i) : i.ReadsBack := by
  refine Instr.readsBack_of_enc he fun hok => ?_
  obtain ⟨hd, ha, hb', -⟩ := Fields.ok_parts hok
  have h0 := Role.own_fieldNat hown hb'
  have h1 := f.d.fieldNat_lt
  have h2 := f.a.fieldNat_lt
  have hw := Fields.word_of_none (f := f) hi
  refine ⟨⟨by omega, by omega, ?_, ?_, ?_, fun im him => absurd (hi.symm.trans him) nofun, fun _ hz => ?_⟩, hv, by omega, make, hmk,
    fun pv _ => ?_⟩
  · rw [show f.word s / 512 % 8 = f.d.fieldNat by omega, Role.bits_fieldNat hd]
  · rw [show f.word s / 64 % 8 = f.a.fieldNat by omega, Role.bits_fieldNat ha]
  · rw [h0, hown]
    rfl
  · exact absurd (hown.symm.trans hz) nofun
  · rw [hpage]
    exact hrow _ pv (by omega) (by omega)

theorem Instr.readsBack_sTwo {i : Instr} {f : Fields} {low : Nat} {xc : XClass} {make : Fields → Instr} (he : i.enc = some (sTwo low xc, f))
    (hrow : lookup6 (low / 8) (low % 8) = some ⟨sTwo low xc, make⟩) (hmk : make f = i) (hlow : low < 64 := by decide) : i.ReadsBack := by
  refine Instr.readsBack_two (major := 6) he rfl rfl rfl rfl hlow (by decide) (Fields.variantFits_of_none rfl) (fun word pv hm hl => ?_) hmk
  rw [lookup_major6 hm, show word / 8 % 8 = low / 8 by omega, show word % 8 = low % 8 by omega, hrow]

theorem Instr.readsBack_wid (d : Opnd) (n : Fin 6) : (Instr.wid d n).ReadsBack := by
  refine Instr.readsBack_two (major := 6) (low := 16 + n.val) (make := fun f => .wid f.d ⟨n.val, n.isLt⟩) rfl ?_ rfl rfl rfl (by omega)
    (by decide) (Fields.variantFits_of_none rfl) (fun word pv hm hl => ?_) rfl
  · show 0x6010 + n.val = _
    omega
  · rw [lookup_major6 hm, show word / 8 % 8 = 2 by omega, show word % 8 = n.val by omega]
    exact dif_pos n.isLt

theorem Instr.readsBack_sMem {i : Instr} {f : Fields} {op sz sp : Nat} {xc : XClass} {d : Role} {pay : Pay} {make : Fields → Instr}
    (he : i.enc = some (sMem op sz sp xc d pay, f)) (hv : f.v < 128) (hrow : lookupA sp sz op = some ⟨sMem op sz sp xc d pay, make⟩)
    (hmk : make f = i) (hsz : sz < 4) (hsp : sp < 4) (hop : op < 4 := by decide) (hreq : ∀ ps, pay ≠ .req ps := by nofun) : i.ReadsBack := by
  refine Instr.readsBack_two (major := 10) (low := 16 * sp + 4 * sz + op) he ?_ rfl rfl rfl (by omega) (by decide)
    (Fields.variantFits_of_lt rfl hreq hv) (fun word pv hm hl => ?_) hmk
  · show 0xA000 + 16 * sp + 4 * sz + op = _
    omega
  · rw [lookup_majorA hm, show word / 16 % 4 = sp by omega, show word / 4 % 4 = sz by omega, show word % 4 = op by omega, hrow]

theorem Instr.readsBack_sCtl {i : Instr} {f : Fields} {sub : Nat} {a : Role} {make : Fields → Instr} (he : i.enc = some (sCtl sub a, f))
    (hrow : lookupB sub = some ⟨sCtl sub a, make⟩) (hmk : make f = i) (hsub : sub < 8 := by decide) : i.ReadsBack := by
  refine Instr.readsBack_of_enc he fun hok => ?_
  obtain ⟨hd, ha, hb, -⟩ := Fields.ok_parts hok
  have hd0 := Role.own_fieldNat rfl hd
  have hb0 : f.b.fieldNat = 0 := by
    cases h : f.b with
    | slot x => rfl
    | code n => rw [h] at hb; exact of_decide_eq_true hb
  have h1 := f.a.fieldNat_lt
  have hw := Fields.word_of_none (s := sCtl sub a) (f := f) rfl
  have hbase : (sCtl sub a).base = 0xB000 + 512 * sub := rfl
  refine ⟨⟨by omega, by omega, hd0.symm, ?_, ?_, nofun, fun _ _ _ => by omega⟩, Fields.variantFits_of_none rfl, Nat.zero_le _, make, hmk,
    fun pv _ => ?_⟩
  · rw [show f.word (sCtl sub a) / 64 % 8 = f.a.fieldNat by omega]
    exact Role.bits_fieldNat ha
  · rw [show f.word (sCtl sub a) / 8 % 8 = f.b.fieldNat by omega, hb0]
    rfl
  · refine (lookup_majorB (by omega) _ _).trans ?_
    rw [show f.word (sCtl sub a) / 512 % 8 = sub by omega, hrow]

/-! ### Words with an immediate (R36, R39) -/

/-- The numbers in the fields of a word with an immediate: D, A and B in the operand fields, none where the layout has its own use
of the bits, and x in the immediate's field. -/
structure Spec.Word (s : Spec) (im : ImmSpec) (word D A B x : Nat) : Prop where
  d : D < 8
  a : A < 8
  b : B < 8
  imm : x < 2 ^ im.w
  ownD : s.d = .own → D = 0
  ownA : s.a = .own → A = 0
  ownB : s.b = .own → B = 0
  eq : word = s.base + 512 * D + 64 * A + 8 * B + x * 2 ^ im.pos

/-- The fields of a word stand apart: each reads back, but for an operand field whose bits the layout uses in its own way. -/
structure Spec.Apart (s : Spec) (im : ImmSpec) (word D A B x : Nat) : Prop where
  lo : 4096 ≤ word
  hi : word < 65536
  d : word / 512 % 8 = D ∨ s.d = .own
  a : word / 64 % 8 = A ∨ s.a = .own
  b : word / 8 % 8 = B ∨ s.b = .own
  imm : word / 2 ^ im.pos % 2 ^ im.w = x

theorem Role.bits_of_apart {r : Role} {o : Opnd} {n : Nat} (h : r.takes o = true) (hn : n = o.fieldNat ∨ r = .own) :
    r.bits n = o.fieldNat := by
  obtain rfl | rfl := hn
  · exact Role.bits_fieldNat h
  · exact (Role.own_fieldNat rfl h).symm

theorem Fields.word_of_imm {f : Fields} {s : Spec} {im : ImmSpec} (hi : s.imm = some im) (hok : f.ok s = true) :
    s.Word im (f.word s) f.d.fieldNat f.a.fieldNat f.b.fieldNat (immBits im (f.ximms s) f.imm % 2 ^ im.w) := by
  obtain ⟨hd, ha, hb, -⟩ := Fields.ok_parts hok
  exact ⟨f.d.fieldNat_lt, f.a.fieldNat_lt, f.b.fieldNat_lt, Nat.mod_lt _ (Nat.two_pow_pos _), (Role.own_fieldNat · hd),
    (Role.own_fieldNat · ha), (Role.own_fieldNat · hb), by simp [Fields.word, hi]⟩

/-- A row with an immediate reads back where its fields stand apart and its word is found. -/
theorem Instr.readsBack_imm {i : Instr} {s : Spec} {f : Fields} {im : ImmSpec} {make : Fields → Instr} (he : i.enc = some (s, f))
    (hi : s.imm = some im) (hpay : s.pay = .none) (hpage : s.page ≤ 11) (hw : 0 < im.w) (hmk : make f = i)
    (h : ∀ {word D A B x : Nat}, s.Word im word D A B x → s.Apart im word D A B x ∧
      ∀ hasX pv, hasX = decide (f.ximms s ≠ 0) → lookup s.page word hasX pv = some ⟨s, make⟩) : i.ReadsBack := by
  refine Instr.readsBack_of_enc he fun hok => ?_
  obtain ⟨hd, ha, hb, -⟩ := Fields.ok_parts hok
  obtain ⟨⟨lo, hi', h9, h6, h3, hx⟩, hrow⟩ := h (Fields.word_of_imm hi hok)
  refine ⟨⟨lo, hi', Role.bits_of_apart hd h9, Role.bits_of_apart ha h6, Role.bits_of_apart hb h3, fun im' him => ?_,
    fun h0 => absurd (hi.symm.trans h0) nofun⟩, Fields.variantFits_of_none hpay, hpage, make, hmk, fun pv _ => hrow _ pv rfl⟩
  obtain rfl := Option.some.inj (hi.symm.trans him)
  exact ⟨hw, hx⟩

/-- Rows of 0xD with the immediate k (R53). -/
theorem Instr.readsBack_sK {i : Instr} {f : Fields} {page minor : Nat} {d a : Role} {xc : XClass} {signed : Bool} {lim : Option (Int × Int)}
    {make : Fields → Instr} (he : i.enc = some (sK page minor d a xc signed lim, f))
    (hrow : ∀ pv fa fb, lookupPage page 13 minor pv fa fb = some ⟨sK page minor d a xc signed lim, make⟩) (hmk : make f = i)
    (hmin : minor < 8 := by decide) (hpage : page ≤ 11 := by decide) : i.ReadsBack := by
  refine Instr.readsBack_imm he rfl rfl hpage (by decide : 0 < 3) hmk @fun word D A B x h => ?_
  obtain ⟨h1, h2, -, h3, -, -, h0, hw⟩ := h
  specialize h0 rfl
  simp only [sK, w3] at h3 hw
  refine ⟨⟨by omega, by omega, .inl (by omega), .inl (by omega), .inr rfl, show word / 8 % 8 = x by omega⟩, fun _ pv _ => ?_⟩
  rw [lookup_page (show word / 4096 = 13 by omega) (by decide), show word % 8 = minor by omega]
  exact hrow ..

theorem Instr.readsBack_tcall (m : Option XMod) (t : TForm) (off : Int) : (Instr.tcall m t off).ReadsBack := by
  have ht : t.toNat ≤ 4 := by cases t <;> decide
  refine Instr.readsBack_imm (make := fun f => .tcall f.m (TForm.ofCode t.toNat) f.imm) rfl rfl rfl (by decide : 9 ≤ 11)
    (by decide : 0 < 6) (by simp) @fun word D A B x h => ?_
  obtain ⟨-, -, -, h3, hd, ha, hb, hw⟩ := h
  specialize hd rfl
  specialize ha rfl
  specialize hb rfl
  simp only [sTcall] at h3 hw
  refine ⟨⟨by omega, by omega, .inr rfl, .inr rfl, .inr rfl, show word / 64 % 64 = x by omega⟩, fun _ pv _ => ?_⟩
  rw [lookup_page (show word / 4096 = 13 by omega) (by decide), show word % 8 = 0 by omega, show word / 8 % 8 = t.toNat by omega]
  exact if_neg (by omega)

theorem Instr.readsBack_abegin (off : Int) : (Instr.abegin off).ReadsBack := by
  refine Instr.readsBack_imm (make := fun f => .abegin f.imm) rfl rfl rfl (by decide : 10 ≤ 11) (by decide : 0 < 9) rfl
    @fun word D A B x h => ?_
  obtain ⟨-, -, -, h3, hd, ha, hb, hw⟩ := h
  specialize hd rfl
  specialize ha rfl
  specialize hb rfl
  simp only [sAbegin] at h3 hw
  refine ⟨⟨by omega, by omega, .inr rfl, .inr rfl, .inr rfl, show word / 8 % 512 = x by omega⟩, fun _ pv _ => ?_⟩
  rw [lookup_page (show word / 4096 = 13 by omega) (by decide), show word % 8 = 0 by omega]
  rfl

/-- Major 0x6 with an immediate in its value (R47). -/
theorem Instr.readsBack_sTwo_imm {i : Instr} {f : Fields} {kind : Nat} {xc : XClass} {signed : Bool} {lim : Option (Int × Int)}
    {make : Fields → Instr} (he : i.enc = some (sTwo (8 * kind) xc (some { w := 3, pos := 0, signed := signed, lim := lim }), f))
    (hrow : ∀ val, lookup6 kind val = some ⟨sTwo (8 * kind) xc (some { w := 3, pos := 0, signed := signed, lim := lim }), make⟩)
    (hmk : make f = i) (hkind : kind < 8 := by decide) : i.ReadsBack := by
  refine Instr.readsBack_imm he rfl rfl (Nat.zero_le _) (by decide : 0 < 3) hmk @fun word D A B x h => ?_
  obtain ⟨h1, h2, -, h3, -, -, hb, hw⟩ := h
  specialize hb rfl
  simp only [sTwo] at h3 hw
  refine ⟨⟨by omega, by omega, .inl (by omega), .inl (by omega), .inr rfl, show word / 1 % 8 = x by omega⟩, fun _ pv _ => ?_⟩
  refine (lookup_major6 (show word / 4096 = 6 by omega) _ _).trans ?_
  rw [show word / 8 % 8 = kind by omega]
  exact hrow _

theorem Instr.readsBack_addi (m : Option XMod) (d a : Opnd) (k : Int) : (Instr.addi m d a k).ReadsBack := by
  refine Instr.readsBack_imm (make := fun f => .addi f.m f.d f.a f.imm) rfl rfl rfl (Nat.zero_le _) (by decide : 0 < 6) rfl
    @fun word D A B x h => ?_
  obtain ⟨h1, h2, -, h3, -, -, hb, hw⟩ := h
  specialize hb rfl
  simp only [sAddi] at h3 hw
  refine ⟨⟨by omega, by omega, .inl (by omega), .inl (by omega), .inr rfl, show word / 1 % 64 = x by omega⟩, fun _ pv _ => ?_⟩
  simp [lookup, show word / 4096 = 4 by omega, sAddi]

theorem Instr.readsBack_movi (d : Opnd) (k : Int) : (Instr.movi d k).ReadsBack := by
  refine Instr.readsBack_imm (make := fun f => .movi f.d f.imm) rfl rfl rfl (Nat.zero_le _) (by decide : 0 < 9) rfl
    @fun word D A B x h => ?_
  obtain ⟨h1, -, -, h3, -, ha, hb, hw⟩ := h
  specialize ha rfl
  specialize hb rfl
  simp only [sMovi] at h3 hw
  refine ⟨⟨by omega, by omega, .inl (by omega), .inr rfl, .inr rfl, show word / 1 % 512 = x by omega⟩, fun _ pv _ => ?_⟩
  simp [lookup, show word / 4096 = 5 by omega, sMovi]

/-- CMP is major 0x7 without XIMM (R40). -/
theorem Instr.readsBack_cmp (m : Option XMod) (c : Cond) (p : Fin 8) (a b : Opnd) : (Instr.cmp m c p a b).ReadsBack := by
  have hc : c.toNat < 8 := by cases c <;> decide
  refine Instr.readsBack_three (major := 7) (make := fun f => .cmp f.m (Cond.ofCode c.toNat) f.d.codeD f.a f.b) rfl (by simp)
    (fun word pv hm hn => ?_) (by simp) nofun hc
  rw [lookup_major7 hm hn]
  rfl

/-- CMPI is major 0x7 with XIMM (R40). -/
theorem Instr.readsBack_cmpi (m : Option XMod) (c : Cond) (p : Fin 8) (a : Opnd) (k : Int) : (Instr.cmpi m c p a k).ReadsBack := by
  have hc : c.toNat < 8 := by cases c <;> decide
  refine Instr.readsBack_imm (make := fun f => .cmpi f.m (Cond.ofCode c.toNat) f.d.codeD f.a f.imm) rfl rfl rfl (Nat.zero_le _)
    (by decide : 0 < 3) (by simp) @fun word D A B x h => ?_
  obtain ⟨h1, h2, -, h3, -, -, hb, hw⟩ := h
  specialize hb rfl
  simp only [sCmpi] at h3 hw
  refine ⟨⟨by omega, by omega, .inl (by omega), .inl (by omega), .inr rfl, show word / 8 % 8 = x by omega⟩, fun hasX pv hx => ?_⟩
  have hn : hasX = true := hx.trans (decide_eq_true (Fields.ximms_sCmpi _ _))
  refine (lookup_major7 (show word / 4096 = 7 by omega) (show word % 8 = c.toNat by omega) _ _).trans ?_
  rw [hn]
  rfl

theorem Instr.readsBack_sBc {i : Instr} {f : Fields} {sense : Nat} {make : Fields → Instr} (he : i.enc = some (sBc sense, f))
    (hrow : ∀ word x pv, word / 4096 = 8 → word / 256 % 2 = sense → lookup 0 word x pv = some ⟨sBc sense, make⟩) (hmk : make f = i)
    (hs : sense < 2 := by decide) : i.ReadsBack := by
  refine Instr.readsBack_imm he rfl rfl (Nat.zero_le _) (by decide : 0 < 8) hmk @fun word D A B x h => ?_
  obtain ⟨h1, -, -, h3, -, ha, hb, hw⟩ := h
  specialize ha rfl
  specialize hb rfl
  simp only [sBc] at h3 hw
  exact ⟨⟨by omega, by omega, .inl (by omega), .inr rfl, .inr rfl, show word / 1 % 256 = x by omega⟩,
    fun x pv _ => hrow word x pv (by omega) (by omega)⟩

theorem Instr.readsBack_sBr {i : Instr} {f : Fields} {link : Nat} {make : Fields → Instr} (he : i.enc = some (sBr link, f))
    (hrow : ∀ word x pv, word / 4096 = 9 → word / 2048 % 2 = link → lookup 0 word x pv = some ⟨sBr link, make⟩) (hmk : make f = i)
    (hs : link < 2 := by decide) : i.ReadsBack := by
  refine Instr.readsBack_imm he rfl rfl (Nat.zero_le _) (by decide : 0 < 11) hmk @fun word D A B x h => ?_
  obtain ⟨-, -, -, h3, hd, ha, hb, hw⟩ := h
  specialize hd rfl
  specialize ha rfl
  specialize hb rfl
  simp only [sBr] at h3 hw
  exact ⟨⟨by omega, by omega, .inr rfl, .inr rfl, .inr rfl, show word / 1 % 2048 = x by omega⟩,
    fun x pv _ => hrow word x pv (by omega) (by omega)⟩

theorem Instr.readsBack_loop (m : Option XMod) (a : Opnd) (off : Int) : (Instr.loop m a off).ReadsBack := by
  refine Instr.readsBack_imm (make := fun f => .loop f.m f.a f.imm) rfl rfl rfl (Nat.zero_le _) (by decide : 0 < 6) rfl
    @fun word D A B x h => ?_
  obtain ⟨-, h2, -, h3, hd, -, hb, hw⟩ := h
  specialize hd rfl
  specialize hb rfl
  simp only [sLoop] at h3 hw
  refine ⟨⟨by omega, by omega, .inr rfl, .inl (by omega), .inr rfl, show word / 1 % 64 = x by omega⟩, fun _ pv _ => ?_⟩
  refine (lookup_majorB (show word / 4096 = 11 by omega) _ _).trans ?_
  rw [show word / 512 % 8 = 4 by omega]
  rfl

/-- Major 0xE (R52). -/
theorem Instr.readsBack_sWin {i : Instr} {f : Fields} {op x : Nat} {d : Role} {xc : XClass} {signed : Bool} {lim : Option (Int × Int)}
    {make : Fields → Instr} (he : i.enc = some (sWin op x d xc signed lim, f))
    (hrow : lookupE x op = some ⟨sWin op x d xc signed lim, make⟩) (hmk : make f = i) (hx : x < 4) (hop : op < 4 := by decide) :
    i.ReadsBack := by
  refine Instr.readsBack_imm he rfl rfl (Nat.zero_le _) (by decide : 0 < 5) hmk @fun word D A B k h => ?_
  obtain ⟨h1, -, -, h3, -, ha, hb, hw⟩ := h
  specialize ha rfl
  specialize hb rfl
  simp only [sWin] at h3 hw
  refine ⟨⟨by omega, by omega, .inl (by omega), .inr rfl, .inr rfl, show word / 1 % 32 = k by omega⟩, fun _ pv _ => ?_⟩
  refine (lookup_majorE (show word / 4096 = 14 by omega) _ _).trans ?_
  rw [show word / 128 % 4 = x by omega, show word / 32 % 4 = op by omega, hrow]

theorem lookupA_ldN (z : NSize) (sp : Nat) : lookupA sp z.toNat 1 = some ⟨sMem 1 z.toNat sp .ld .reg (.opt false tagVars),
    fun f => .ldN f.m (Tag.ofCode f.v) (NSize.ofCode z.toNat) (Space.ofCode sp) f.d f.a⟩ := by
  cases z <;> rfl

/-- Every instruction's encoding reads back: its row is the one that its own word finds. -/
theorem Instr.readsBack (i : Instr) : i.ReadsBack := by
  cases i with
  | add | sub | and | or | xor | shl | shr | sar =>
    exact Instr.readsBack_three rfl (by simp) (fun _ _ hm hn => lookup_rows1 hm hn _ _) rfl
  | mul | mulh | mulhn | min | max | minn | maxn | andn =>
    exact Instr.readsBack_three rfl (by simp) (fun _ _ hm hn => lookup_rows2 hm hn _ _) rfl
  | div | divn | rem | remn | lea | bfx | bfi | sel =>
    exact Instr.readsBack_three rfl (by simp) (fun _ _ hm hn => lookup_rows3 hm hn _ _) (by simp)
  | addi m d a k => exact Instr.readsBack_addi m d a k
  | movi d k => exact Instr.readsBack_movi d k
  | mov | not | neg | abs | clz | ctz | popc | brev | sextB | sextH | sextW | zextB | zextH | zextW => exact Instr.readsBack_sTwo rfl rfl rfl
  | wid d n => exact Instr.readsBack_wid d n
  | shli => exact Instr.readsBack_sTwo_imm (kind := 4) rfl (fun _ => rfl) rfl
  | shri => exact Instr.readsBack_sTwo_imm (kind := 5) rfl (fun _ => rfl) rfl
  | sari => exact Instr.readsBack_sTwo_imm (kind := 6) rfl (fun _ => rfl) rfl
  | andi => exact Instr.readsBack_sTwo_imm (kind := 7) rfl (fun _ => rfl) rfl
  | cmp m c p a b => exact Instr.readsBack_cmp m c p a b
  | cmpi m c p a k => exact Instr.readsBack_cmpi m c p a k
  | bc => exact Instr.readsBack_sBc rfl (fun _ _ _ hm hs => (lookup_major8 hm ..).trans (if_pos hs)) rfl
  | bcN => exact Instr.readsBack_sBc rfl (fun _ _ _ hm hs => (lookup_major8 hm ..).trans (if_neg (by omega))) rfl
  | br => exact Instr.readsBack_sBr rfl (fun _ _ _ hm hs => (lookup_major9 hm ..).trans (if_neg (by omega))) rfl
  | call => exact Instr.readsBack_sBr rfl (fun _ _ _ hm hs => (lookup_major9 hm ..).trans (if_pos hs)) rfl
  | nop | bri | calli | ret | yield | exit => exact Instr.readsBack_sCtl rfl rfl rfl
  | loop m a off => exact Instr.readsBack_loop m a off
  | ld m t z sp d a => exact Instr.readsBack_sMem rfl (by simp) rfl (by simp) z.toNat_lt sp.toNat_lt
  | ldN m t z sp d a => exact Instr.readsBack_sMem rfl (by simp) (lookupA_ldN z _) (by simp) z.toNat_lt sp.toNat_lt
  | st m z sp d a => exact Instr.readsBack_sMem rfl (by simp) rfl (by simp) z.toNat_lt sp.toNat_lt
  | ldv m g t sp d a => exact Instr.readsBack_sMem rfl (by simp) rfl (by simp) (by decide) sp.toNat_lt
  | stv m g sp d a => exact Instr.readsBack_sMem rfl (by simp) rfl (by simp) (by decide) sp.toNat_lt
  | ldx m d x k | stx m d x k => exact Instr.readsBack_sWin rfl rfl (by simp) x.isLt
  | xset x k | xadd x k => exact Instr.readsBack_sWin rfl rfl (by simp) x.isLt
  | tcall m t off => exact Instr.readsBack_tcall m t off
  | abegin off => exact Instr.readsBack_abegin off
  | gang | mzero | mqw | lpatch | tinfo | aabort | trap | sysc | crr | crw | brk =>
    exact Instr.readsBack_sK rfl (fun _ _ _ => rfl) (by simp)
  | mop | mops | mconv => exact Instr.readsBack_page_of_types rfl rfl rfl (by simp)
  | vred m g d x => exact Instr.readsBack_page_of_variant rfl x.toNat_lt rfl (by simp [Fields.redSrc_eq x])
  | vote g o d x =>
    have hmk {f : Fields} (ha : f.a = x.fields.1) (hb : f.b = x.fields.2) :
        Instr.vote g (VoteOp.ofCode o.toNat) d f.voteSrc = .vote g o d x := by rw [o.ofCode_toNat, Fields.voteSrc_eq x ha hb]
    cases x with
    | pred q => exact Instr.readsBack_page rfl (by simp) rfl (hmk rfl rfl)
    | flag f => cases f <;> exact Instr.readsBack_page rfl (by simp) rfl (hmk rfl rfl)
  | sfn m f d a => exact Instr.readsBack_page_of_variant rfl f.toNat_lt rfl (by simp)
  | sfnv m g f d a => exact Instr.readsBack_page_of_variant rfl f.toNat_lt rfl (by simp)
  | xst m a x => exact Instr.readsBack_page_of_variant rfl x.var_lt rfl (by simp [Fields.xstSrc_eq x])
  | tlbinv m a => cases a <;> exact Instr.readsBack_page_of_variant rfl (by simp) rfl rfl
  | bwait m k d a => exact Instr.readsBack_page rfl (by show k.val < 128; omega) rfl (by simp)
  | vadd | vsub | vmul | vfma | vfms | vfnma | vmin | vmax | vabs | vneg | vdot2 | vdot4 | vcmp | vsel | vclass | vmov | viadd | visub |
    vimul | vand | vor | vxor | vshl | vshr | vbcast | vshuf | vperm | vscan | vins | vext | vlanei | cvt | vcvt | blkpk | blkup |
    vpack | vunpk | tagset | tagget | flrd | flclr | flen | disband | mwait | mstat | msched | ecmd | ecpy | egath | escat | esub |
    ecoll | ebmp | mloadb | ldfe | ldff | stfe | feset | feclr | axchg | acas | aadd | aand | aor | axor | amin | amax | fence | pvis |
    binit | barr | gbar | larm | learly | rnext | msend | tblk | tunblk | spawn | tans | tret | tdone | tfail | trel | acommit | astat |
    rfe | wmark | pref | halt =>
    exact Instr.readsBack_page rfl (by simp) rfl (by simp)
  | _ => exact Instr.readsBack_of_event rfl

/-- Settles O56: every instruction's row is found by its own word (`Instr.readsBack`), and what is found so passes each check and
gives the instruction's own fields (`decode_encodeFields`). -/
theorem encodeDecode : Obligations.EncodeDecode := by
  unfold Obligations.EncodeDecode
  intro i rest hi hwf
  obtain ⟨⟨s, f⟩, he⟩ := Option.isSome_iff_exists.mp hi
  have hok : f.ok s = true := by simpa [Instr.wf, he] using hwf
  have hx : encode i = encodeFields s f := by simp [encode, he]
  rw [hx]
  exact decode_encodeFields (i.readsBack s f he hok) hok rest

/-- Settles O57: each row's words are what the encoder writes for its instruction, so that they decode to it (O56). -/
theorem words : Obligations.Words := by
  unfold Obligations.Words
  intro xmod p hp
  have h : p.2.enc.isSome = true ∧ p.2.wf = true ∧ encode p.2 = p.1 := by
    revert p
    decide +kernel
  obtain ⟨he, hwf, hw⟩ := h
  simpa [hw] using encodeDecode p.2 [] he hwf

end Sys2Proof
end

section
/-! SUPPORT. What one step does (03 R33, R58, 04 R61 to R64): the step of a thread whose turn it is, what an issue and a miss change,
and the fetch of an instruction's halfwords from the module's memory. -/

namespace Sys2Proof.Machine

/-! ### Whose step it is -/

theorem step_event {s : State} {i : Instr} {rest : List Instr} (h : s.agenda = i :: rest) (he : i.enc = none) :
    step s = onNext (·.settle s.m.runnable) (exec i { s with agenda := rest }) := by
  simp [step, h, he]

/-- A thread whose turn it is steps, and the chip goes on (04 R61). -/
theorem step_thread {s : State} (h : s.agenda = [] ∧ s.m.issues s.m.t = true ∧ s.m.wait s.m.t = 0) {o : Step State}
    (ho : stepThread s = o) : step s = onNext (fun s1 => (s1.settle (s.m.runnable.erase s.m.t.gid)).after) o := by
  obtain ⟨ha, hi, hw⟩ := h
  simp [step, ha, hi, hw, ho]

theorem stepThread_nack {s : State} {a : Word} (hn : s.m.t.nack = some a) : stepThread s = .next { s with m := s.m.nackTrap a } := by
  rw [stepThread, hn]

theorem stepThread_break {s : State} (hn : s.m.t.nack = none) (hb : s.m.breaksAt s.m.t = true) :
    stepThread s = .next { s with m := s.m.debugStop s.m.t.gid brkTrap } := by
  rw [stepThread, hn]
  exact if_pos hb

section Fetch
variable {s : State} (hn : s.m.t.nack = none) (hb : s.m.breaksAt s.m.t = false)
include hn hb

theorem stepThread_fetch_error {e : Stop} (hf : s.m.fetch = .error e) :
    stepThread s = .next { s with m := s.m.note1.conclude (.error e) } := by
  rw [stepThread, hn]
  simp [hb, hf]

theorem stepThread_miss {i : Instr} {m1 m2 : Mach} (hf : s.m.fetch = .ok (i, m1)) (hm : s.m.miss m1 i = some m2) :
    stepThread s = .next { s with m := m2 } := by
  rw [stepThread, hn]
  simp [hb, hf, hm]

theorem stepThread_issue {i : Instr} {m1 : Mach} (hf : s.m.fetch = .ok (i, m1)) (hm : s.m.miss m1 i = none) :
    stepThread s = onNext (s.orMiss i) (exec i { s with m := ((m1.useCode m1.t.core m1.codeLines).useLines i).note1 }) := by
  rw [stepThread, hn]
  simp [hb, hf, hm]

end Fetch

/-! ### What an issue and a miss change -/

theorem Mach.useLine_frame (m : Mach) (wr : List (Nat × Nat)) (q : Nat × Nat) : ∃ r, m.useLine wr q = { m with rcache := r } := ⟨_, rfl⟩

/-- Lines used change the register caches alone (08 R151). -/
theorem Mach.foldl_useLine (wr : List (Nat × Nat)) : ∀ (qs : List (Nat × Nat)) (m : Mach),
    ∃ r, qs.foldl (fun a q => a.useLine wr q) m = { m with rcache := r }
  | [], m => ⟨m.rcache, rfl⟩
  | q :: qs, m => by
    obtain ⟨r, h⟩ := m.useLine_frame wr q
    rw [List.foldl_cons, h]
    exact foldl_useLine wr qs { m with rcache := r }

theorem Mach.useLines_frame (m : Mach) (i : Instr) :
    ∃ w r, m.useLines i = { m with t := { m.t with written := w }, rcache := r } := by
  obtain ⟨r, h⟩ := Mach.foldl_useLine (linesWritten m.t i) (linesUsed m.t i) m
  rw [Mach.useLines, h]
  exact ⟨_, r, rfl⟩

theorem Mach.note1_frame (m : Mach) :
    ∃ k b q, m.note1 = { m with t := { m.t with issued := m.t.issued + 1, skid := k, bound := b, rstat := q } } := ⟨_, _, _, rfl⟩

/-- An instruction used: its lines of code and of registers, and what the task counts of it. -/
theorem Mach.used_frame (m : Mach) (i : Instr) :
    let m1 := ((m.useCode m.t.core m.codeLines).useLines i).note1
    m1 = { m with t := m1.t, icache := m1.icache, rcache := m1.rcache } ∧
      m1.t = { m.t with
        issued := m.t.issued + 1, written := m1.t.written, skid := m1.t.skid, bound := m1.t.bound, rstat := m1.t.rstat } := by
  obtain ⟨w, r, h⟩ := (m.useCode m.t.core m.codeLines).useLines_frame i
  obtain ⟨k, b, q, hn⟩ := ((m.useCode m.t.core m.codeLines).useLines i).note1_frame
  rw [hn, h]
  exact ⟨rfl, rfl⟩

/-- A miss parks the task and fills caches; nothing else of the machine changes (04 R64). -/
theorem Mach.miss_frame {m m1 m2 : Mach} {i : Instr} (h : m.miss m1 i = some m2) : ∃ k ∈ [Park.tlb, Park.code, Park.line],
    ∃ near far ic rc, m2 = { m with t := { m.t with phase := .parked k }, tlb := near, dtlb := far, icache := ic, rcache := rc } := by
  unfold Mach.miss at h
  simp only at h
  split at h
  · obtain rfl := Option.some.inj h
    exact ⟨.tlb, by simp, _, _, _, _, rfl⟩
  · split at h
    · obtain rfl := Option.some.inj h
      exact ⟨.code, by simp, _, _, _, _, rfl⟩
    · split at h
      · exact absurd h nofun
      · obtain ⟨rc, hr⟩ := Mach.foldl_useLine [] _ { m with t := { m.t with phase := .parked .line } }
        obtain rfl := Option.some.inj h
        exact ⟨.line, by simp, m.tlb, m.dtlb, m.icache, rc, hr⟩

theorem State.orMiss_cases (s : State) (i : Instr) (s1 : State) : s.orMiss i s1 = s1 ∨
    (s.orMiss i s1).m.t = { s.m.t with phase := .parked .tlb } ∧ (s.orMiss i s1).m.mem = s.m.mem := by
  unfold State.orMiss
  split
  · exact .inr ⟨rfl, rfl⟩
  · exact .inl rfl

/-! ### The fetch (03 R56, R58) -/

theorem Mach.translate_frame {m m1 : Mach} {c cl va : Nat} {e : TlbEnt} (h : m.translate c cl va = .ok (e, m1)) :
    m1 = { m with tlb := m1.tlb, dtlb := m1.dtlb } := by
  unfold Mach.translate at h
  simp only at h
  split at h
  · obtain ⟨-, rfl⟩ := Prod.mk.inj (Except.ok.inj h)
    rfl
  · split at h
    · obtain ⟨-, rfl⟩ := Prod.mk.inj (Except.ok.inj h)
      rfl
    · split at h
      · exact absurd h nofun
      · obtain ⟨-, rfl⟩ := Prod.mk.inj (Except.ok.inj h)
        rfl

/-- Reaching a place leaves all but the translations held as it was. -/
theorem Mach.reach_frame {m m1 : Mach} {c cl n acc : Nat} {va : Word} {l : Loc} (h : m.reach c cl va n acc = .ok (l, m1)) :
    m1 = { m with tlb := m1.tlb, dtlb := m1.dtlb } := by
  unfold Mach.reach at h
  split at h
  · exact absurd h nofun
  · split at h
    · exact absurd h nofun
    · next ht =>
      simp only at h
      split at h
      · exact absurd h nofun
      · split at h
        · exact absurd h nofun
        · obtain ⟨-, rfl⟩ := Prod.mk.inj (Except.ok.inj h)
          exact Mach.translate_frame ht

/-- A halfword of code in HBM that no store has replaced within the launch reads as it stands (03 R60). -/
theorem Mach.codeHw_hbm {m : Mach} {l : Loc} (t : Task) (ho : m.codeOld = []) (hl : l.home = .hbm) :
    m.codeHw t l = (BitVec.ofNat 16 (m.number l.key 2), m) := by
  have hr : m.read l 2 = (m.peek l.key 2, m) := by simp [Mach.read, hl]
  have hold (k : Nat) : m.oldByte t k = none := by simp [Mach.oldByte, ho]
  simp [Mach.codeHw, hr, hold, leNat_peek]

/-- The fetch of halfwords goes on after one that makes no instruction by itself, and ends with the word (03 R31). -/
theorem Mach.fetchFrom_hbm {m m1 : Mach} {t : Task} {a : Word} {i n : Nat} {l : Loc} (ho : m.codeOld = [])
    (hr : m.reach (ctxOf t.gid) (clusterOf t.core) (a + BitVec.ofNat 64 (2 * i)) 2 4 = .ok (l, m1)) (hl : l.home = .hbm) :
    let h : HW := BitVec.ofNat 16 (m.number l.key 2)
    (4096 ≤ h.toNat → m.fetchFrom t a i (n + 1) = .ok ([h], m1)) ∧
    ∀ hs m2, h.toNat < 4096 → m1.fetchFrom t a (i + 1) n = .ok (hs, m2) → m.fetchFrom t a i (n + 1) = .ok (h :: hs, m2) := by
  have hm := Mach.reach_frame hr
  have hc : m1.codeHw t l = (BitVec.ofNat 16 (m.number l.key 2), m1) := by
    rw [Mach.codeHw_hbm t (by rw [hm]; exact ho) hl, hm]
    rfl
  refine ⟨fun hw => ?_, fun hs m2 hp hf => ?_⟩
  · have hx : isPrefix (BitVec.ofNat 16 (m.number l.key 2)) = false := by simp only [isPrefix, beq_eq_false_iff_ne]; omega
    rw [Mach.fetchFrom, accFetch, hr]
    simp only [hc, hx, Bool.false_eq_true, if_false]
  · have hx : isPrefix (BitVec.ofNat 16 (m.number l.key 2)) = true := by simp only [isPrefix, beq_iff_eq]; omega
    rw [Mach.fetchFrom, accFetch, hr]
    simp only [hc, hx, if_true, hf]

theorem Mach.fetch_ok {m m1 : Mach} {hs : List HW} {i : Instr} {n : Nat} (hf : m.fetchFrom m.t m.t.pc 0 5 = .ok (hs, m1))
    (hd : decode hs = .ok (i, n)) (ht : m1.t = m.t) :
    m.fetch = .ok (i, { m1 with t := { m.t with npc := m.t.pc + BitVec.ofNat 64 (2 * n) } }) := by
  rw [Mach.fetch, hf]
  simp only [hd, ht]

theorem Mach.fetch_error {m m1 : Mach} {hs : List HW} {e : DecErr} (hf : m.fetchFrom m.t m.t.pc 0 5 = .ok (hs, m1))
    (hd : decode hs = .error e) :
    m.fetch = .error (.trap (if e.pfx then illPfx else illOp) (m.t.pc + BitVec.ofNat 64 (2 * e.idx)) 0) := by
  rw [Mach.fetch, hf]
  simp only [hd]

/-- Settles O58: the step of a thread by what `stepThread` meets, the frames of an issue and of a miss, and the fetch of an
instruction of one or two halfwords. -/
theorem stepRuns : Obligations.StepRuns := by
  unfold Obligations.StepRuns
  intro s t goes turn noted used at_
  refine ⟨fun i rest h he => step_event h he, fun a h hn => step_thread h (stepThread_nack hn),
    fun h hn hb => step_thread h (stepThread_break hn hb),
    fun h hn hb => ⟨fun e hf => step_thread h (stepThread_fetch_error hn hb hf),
      fun i m1 hf => ⟨fun hm => step_thread h (stepThread_issue hn hb hf hm), fun m2 hm => ?_⟩⟩,
    State.orMiss_cases s, fun _ _ _ _ => rfl, Mach.used_frame, fun ho l m1 hr hl => ?_⟩
  · obtain ⟨k, hk, near, far, ic, rc, h2⟩ := Mach.miss_frame hm
    refine ⟨step_thread h (stepThread_miss hn hb hf hm), ?_⟩
    rw [h2]
    exact ⟨rfl, rfl, rfl, k, rfl, hk⟩
  · have hm := Mach.reach_frame hr
    have ht : m1.t = s.m.t := by rw [hm]
    have ho1 : m1.codeOld = [] := by rw [hm]; exact ho
    obtain ⟨hword, hmore⟩ := Mach.fetchFrom_hbm (t := t) (a := t.pc) (i := 0) (n := 4) ho (by simpa [at_] using hr) hl
    refine ⟨fun i hw hd => Mach.fetch_ok (hword hw) hd ht, ?_, fun e hw hd hp hi => ?_⟩
    · intro l2 m2 hp hr2 hl2 h2 i hw hd
      have hm2 := Mach.reach_frame hr2
      have hn : m1.number l2.key 2 = s.m.number l2.key 2 := by rw [hm]; rfl
      have hf := (Mach.fetchFrom_hbm (t := t) (a := t.pc) (i := 1) (n := 3) ho1 hr2 hl2).1
      rw [hn] at hf
      exact Mach.fetch_ok (hmore _ _ hp (hf hw)) hd (by rw [hm2]; exact ht)
    · rw [Mach.fetch_error (hword hw) hd, hp, hi, Nat.mul_zero, BitVec.add_zero]
      rfl

end Sys2Proof.Machine
end

section
/-! SUPPORT. The effects of RNEXT, LEARLY, YIELD and SPAWN (04 R70, 14 R271, 05 R106, 19 R359). -/

namespace Sys2Proof.Machine

/-! ### The instructions by their effects -/

theorem exec_rnext (d : Opnd) (s : State) : exec (.rnext d) s = issueT (.abort abForbidden) (rnextT d) s := rfl
theorem exec_learly (s : State) : exec .learly s = issueT (.abort abForbidden) learlyT s := rfl
theorem exec_yield (s : State) : exec .yield s = issue (.abort abPreempt) yieldM s := rfl
theorem exec_spawn (m : Option XMod) (d a b : Opnd) (s : State) :
    exec (.spawn m d a b) s = issue (.abort abForbidden) (spawnM m d a b) s := rfl

/-! ### RNEXT and LEARLY (R70, R271) -/

theorem Task.ranges_iff (t : Task) : t.ranges = true ↔ t.kind = .graph ∨ t.kind = .range := by simp [Task.ranges]

/-- A task that holds no interval, or whose interval is used up, has no next index. -/
theorem Task.ranges_and_lt_false {t : Task} (h : ¬ (t.kind = .graph ∨ t.kind = .range) ∨ t.hi ≤ t.lo) :
    (t.ranges && decide (t.lo < t.hi)) = false := by
  rw [← Task.ranges_iff, ← Nat.not_lt] at h
  rw [Bool.and_eq_false_iff, decide_eq_false_iff_not, ← Bool.not_eq_true]
  exact h

/-- RNEXT where the interval has an index left. -/
theorem rnextT_next {t : Task} {d : Opnd} (hb : t.bounds [d] = .ok ()) (hk : t.kind = .graph ∨ t.kind = .range) (hl : t.lo < t.hi) :
    rnextT d t = .ok ({ t with lo := t.lo + 1, workId := BitVec.ofNat 64 t.lo }.wr d (BitVec.ofNat 64 t.lo) .raw) := by
  simp [rnextT, hb, t.ranges_iff.mpr hk, hl, bind, Except.bind]

/-- RNEXT with no index left. -/
theorem rnextT_end {t : Task} {d : Opnd} (hb : t.bounds [d] = .ok ())
    (h : ¬ (t.kind = .graph ∨ t.kind = .range) ∨ t.hi ≤ t.lo) : rnextT d t = .ok (t.wr d (BitVec.allOnes 64) .raw) := by
  simp only [rnextT, hb, Task.ranges_and_lt_false h, bind, Except.bind, Bool.false_eq_true, if_false]

/-! ### YIELD (R106) -/

/-- YIELD where no other task could take the slot. -/
theorem yieldM_keeps {m : Mach} (h : m.contested m.t.core m.t.gid = false) : yieldM m = .ok m := by simp [yieldM, h]

/-- YIELD where another task could take the slot. -/
theorem yieldM_gives {m : Mach} (h : m.contested m.t.core m.t.gid = true) :
    yieldM m = .ok { m.tick with t := m.t.setAside m.cycle m.order } := by simp [yieldM, h]

/-! ### SPAWN (R359) -/

/-- A scalar result of an effect on the chip: d and lt written, and nothing else. -/
theorem gives_of_issue {i : Instr} {s : State} {rule : RRule} {f : Mach → Except Stop Mach} {d : Opnd} {v : Word} {g : Tag}
    (he : exec i s = issue rule f s) (h : s.plain) (hf : f s.m = .ok { s.m with t := s.m.t.wr d v g }) : Gives i s d v g := by
  have hi : issueT rule (fun t => .ok (t.wr d v g)) s = issue rule f s := by
    simp [issueT, issue, Mach.attempt, Task.allow, onTask, h.1, hf, bind, Except.bind]
  exact gives_of (he.trans hi.symm) h rfl

/-- A new range task joins those that wait; its record has one live task more. -/
theorem Mach.newRange_frame (m : Mach) (c r : Nat) (kind : Kind) (lo hi : Nat) (isSealed : Bool) (cl : Nat) :
    (m.newRange c r kind lo hi isSealed cl).2.others = m.others ∧
    ((m.newRange c r kind lo hi isSealed cl).2.launch c r).live = (m.launch c r).live + 1 := by
  have h := m.onlyDraws_takeSerial c cl
  obtain ⟨n, b, hc⟩ := h.ctx c
  refine ⟨h.others, ?_⟩
  have hl : ((m.takeSerial c cl).2.tick.launch c r).live = (m.launch c r).live := by
    show (Tab.look {} ((m.takeSerial c cl).2.ctx c).pool r).live = _
    rw [hc]
    rfl
  rw [← hl]
  show (((m.takeSerial c cl).2.tick.updRec c r _).launch c r).live = _
  simp [Mach.launch, Mach.updRec, Tab.upd]

section
variable {m : Mach} {mod : Option XMod} {d a b : Opnd} (hb : m.t.bounds [d, a, b] = .ok ())
  (ha : m.t.raw mod a = .ok (m.t.val a)) (hc : m.t.raw mod b = .ok (m.t.val b))
include hb ha hc

/-- SPAWN of no part of an interval. -/
theorem spawnM_none (h : m.t.rec_ = none ∨ ¬ (m.t.kind = .graph ∨ m.t.kind = .range) ∨ (m.t.val a).toNat ≤ m.t.lo ∨
    m.t.hi ≤ (m.t.val a).toNat) : spawnM mod d a b m = .ok { m with t := m.t.wr d 0 .raw } := by
  rw [← Task.ranges_iff, Bool.not_eq_true] at h
  cases hr : m.t.rec_ with
  | none => simp [spawnM, hb, ha, hc, hr, bind, Except.bind]
  | some r =>
    have : (!m.t.ranges || decide ((m.t.val a).toNat ≤ m.t.lo) || decide (m.t.hi ≤ (m.t.val a).toNat)) = true := by
      simpa [hr, or_assoc] using h
    simp only [spawnM, hb, ha, hc, hr, this, bind, Except.bind, if_true]

/-- SPAWN of the upper part of an interval, where nothing waits to be released. -/
theorem spawnM_some (hw : m.weak = []) {r : Nat} (hr : m.t.rec_ = some r) (hk : m.t.kind = .graph ∨ m.t.kind = .range)
    (hl : m.t.lo < (m.t.val a).toNat) (hh : (m.t.val a).toNat < m.t.hi) :
    let m1 := m.giveAway r (m.t.val a).toNat (m.spawnCluster (m.t.val b))
    spawnM mod d a b m = .ok { m1 with t := m1.t.wr d (BitVec.ofNat 64 (m.t.hi - (m.t.val a).toNat)) .raw } := by
  have : (!m.t.ranges || decide ((m.t.val a).toNat ≤ m.t.lo) || decide (m.t.hi ≤ (m.t.val a).toNat)) = false := by
    simp [m.t.ranges_iff.mpr hk, hl, hh]
  simp only [spawnM, hb, ha, hc, hr, this, releaseAt_none hw, bind, Except.bind, Bool.false_eq_true, if_false]

end

/-- The upper part of the interval of the task in focus given away: a new range task of its record holds it. -/
theorem Mach.giveAway_spec (m : Mach) (r k cl : Nat) : ∃ q, (m.giveAway r k cl).others = m.others ++ [q] ∧
    (q.kind = .range ∧ q.rec_ = some r ∧ q.lo = k ∧ q.hi = m.t.hi ∧ q.isSealed = false ∧ q.cluster = cl ∧ q.phase = .ready ∧
      q.workId = BitVec.ofNat 64 k) ∧
    (m.giveAway r k cl).t = { m.t with hi := k } ∧ (m.giveAway r k cl).mem = m.mem ∧
    (∀ c, ((m.giveAway r k cl).ctx c).silt = (m.ctx c).silt) ∧
    ((m.giveAway r k cl).launch m.cur r).live = (m.launch m.cur r).live + 1 := by
  obtain ⟨⟨-, hq⟩, ht, hm, hs⟩ :=
    Mach.newRange_spec { m with t := { m.t with hi := k } } m.cur r .range k m.t.hi false cl
  obtain ⟨ho, hl⟩ := Mach.newRange_frame { m with t := { m.t with hi := k } } m.cur r .range k m.t.hi false cl
  refine ⟨_, congrArg (· ++ _) ho, ?_, ht, hm, hs, hl⟩
  obtain ⟨hkind, hrec, hlo, hhi, hsealed, hcl, hphase, hwork⟩ := hq
  exact ⟨hkind, hrec, hlo, hhi, hsealed, hcl, hphase, hwork⟩

theorem Mach.spawnCluster_eq (m : Mach) (w : Word) :
    m.spawnCluster w = if w.toNat ∈ (m.partOf m.cur).clusters then w.toNat else m.t.cluster := by
  simp [Mach.spawnCluster]

end Sys2Proof.Machine
end

section
/-! PROOFS. O34: RNEXT, LEARLY, YIELD and SPAWN. -/

namespace Sys2Proof.Machine

/-- Settles O34: each instruction by its effect, and for SPAWN by what giving away a part of an interval does (`giveAway_spec`). -/
theorem rangeTasks : Obligations.RangeTasks := by
  unfold Obligations.RangeTasks
  intro s m d a b h hr
  dsimp only
  have hwr (t : Task) (ht : t.region = none) (v : Word) : (t.wr d v .raw).region = none := by
    rw [Task.wr, wrMark_plain ht]
    exact ht
  refine ⟨fun hd hk hl => ?_, fun hd hx => ?_, fun hk => ?_, fun hk => ?_, fun hc => ?_, fun hc => ?_,
    fun ⟨_, hfit, hraw⟩ => ?_⟩
  · exact (exec_rnext d s).trans (issueT_ok h (rnextT_next hd.bounds hk hl) (hwr _ (by exact h.1) _) h.2)
  · exact (exec_rnext d s).trans (issueT_ok h (rnextT_end hd.bounds hx) (hwr _ h.1 _) h.2)
  · exact (exec_learly s).trans (issueT_ok h (by rw [learlyT, if_pos (s.m.t.ranges_iff.mpr hk)]) h.1 h.2)
  · exact (exec_learly s).trans (issueT_ok h (by rw [learlyT, if_neg (mt s.m.t.ranges_iff.mp hk)]) h.1 h.2)
  · exact (exec_yield s).trans (issue_ok h.1 (yieldM_keeps hc) h.1 (ready_not_held h.2) (fits_of_ctxs rfl _))
  · have hp : (s.m.t.setAside s.m.cycle s.m.order).phase = .ready := by simp [Task.setAside, h.2, Phase.setAside]
    exact ⟨_, (exec_yield s).trans (issue_ok h.1 (yieldM_gives hc) h.1 (ready_not_held hp) (fits_of_ctxs rfl _)), rfl, rfl, hp,
      rfl, rfl, rfl, rfl⟩
  · have ha : s.m.t.raw m a = .ok (s.m.t.val a) := raw_ok (hraw a (by simp))
    have hb : s.m.t.raw m b = .ok (s.m.t.val b) := raw_ok (hraw b (by simp))
    refine ⟨fun hx => gives_of_issue (exec_spawn m d a b s) h (spawnM_none hfit.bounds ha hb hx), fun r hrec hk hl hh => ?_⟩
    obtain ⟨q, ho, ⟨hkind, hqrec, hlo, hhi, hsealed, hcl, hphase, hwork⟩, ht, hm, hs, hlive⟩ :=
      s.m.giveAway_spec r (s.m.t.val a).toNat (s.m.spawnCluster (s.m.t.val b))
    have hx := spawnM_some hfit.bounds ha hb hr.weak hrec hk hl hh
    dsimp only at hx
    rw [ht] at hx
    refine ⟨_, q, (exec_spawn m d a b s).trans (issue_ok h.1 hx (hwr _ (by exact h.1) _) (ready_not_held (by exact h.2))
      (fits_of_silt (hs _))), ho, hkind, hqrec, hlo, hhi, hphase, hsealed, hwork, hcl.trans (s.m.spawnCluster_eq _), rfl, rfl, rfl,
      hm, hlive, fun j => ?_⟩
    exact cell_wrMark { s.m.t with hi := (s.m.t.val a).toNat } d _ _ _ j

end Sys2Proof.Machine
end

section
/-! SUPPORT. Errors written into the ring, and the power-on reset (26 R447, 25 R442). -/

namespace Sys2Proof.Machine

/-! ### The error ring (26 R447) -/

/-- With no error detected the ring stands as it was. -/
theorem State.flushErrs_none {s : State} (h : s.m.errs = []) : s.flushErrs = s := by
  obtain ⟨m, y, l⟩ := s
  cases m
  cases h
  rfl

/-- A new error takes the place of no record that has been read. -/
theorem Sys.ringPast_logError (y : Sys) (r : ErrRec) : (y.logError r).ringPast = y.ringPast := by
  unfold Sys.logError
  split
  · split
    · rfl
    · split <;> rfl
  · rfl

theorem State.ringPast_flushErrs (s : State) : s.flushErrs.sys.ringPast = s.sys.ringPast :=
  List.foldlRecOn _ _ (motive := fun a : State => a.sys.ringPast = s.sys.ringPast) rfl
    fun a ha _ _ => (a.sys.ringPast_logError _).trans ha

/-- After a read the ring keeps at most 4,096 of the records that have been read. -/
theorem Sys.ringPast_readErrors_length_le (y : Sys) (n : Nat) : (y.readErrors n).ringPast.length ≤ 4096 := by
  simp only [Sys.readErrors, List.length_drop]
  omega

/-! ### The boot (25 R442) -/

/-- The module once power has come on and step 1 of the boot has passed. -/
def State.powered (s : State) : State :=
  { s.powerCycle with sys := ({ s.powerCycle.sys with boots := s.powerCycle.sys.boots + 1 } : Sys).noteReset 1 0 }

/-- A power-on whose every verification passes boots. -/
theorem State.boot_ok {s : State} (hf : s.sys.failures < 3) (hr : s.sys.restarting = false) : s.boot 0 = s.powered.booted := by
  simp [State.boot, Nat.not_le.mpr hf, hr, State.powered, State.powerCycle]

theorem State.part_booted (s : State) : s.booted.m.part 0 = wholePart := rfl

theorem exec_powerOnReset (n : Nat) (s : State) : exec (.powerOnReset n) s = .next (s.boot n).flushErrs := rfl

theorem exec_powerOnReset_ok {s : State} (hf : s.sys.failures < 3) (hr : s.sys.restarting = false) :
    exec (.powerOnReset 0) s = .next s.powered.booted := by
  rw [exec_powerOnReset, State.boot_ok hf hr, State.flushErrs_none rfl]

end Sys2Proof.Machine
end

section
/-! PROOFS. O60: the module at power-on and after its first boot. -/

namespace Sys2Proof.Machine

/-- Settles O60: power-on leaves every table empty, and so does the boot (`exec_powerOnReset_ok`), but for its one partition. -/
theorem resetFacts : Obligations.ResetFacts := by
  unfold Obligations.ResetFacts
  exact ⟨Nat.zero_le _, rfl, rfl, rfl, rfl, memWf_reset, fun _ => rfl, fun _ => rfl, State.reset.powered.booted,
    exec_powerOnReset_ok (by decide) rfl, rfl, rfl, rfl, fun _ => rfl, fun _ _ => rfl, fun _ => rfl,
    fun n hn => by rwa [State.part_booted, wholePart, List.mem_range]⟩

end Sys2Proof.Machine
end

section
/-! PROOFS. O46: faults, system calls and the table at the resident kernel. -/

namespace Sys2Proof.Machine

theorem State.ringPast_kernelReads (s : State) (w : KWork) :
    (s.kernelReads w).sys.ringPast = (s.sys.readErrors w.errRead).ringPast := by
  rw [State.kernelReads]

/-- What FAULT_RESOLVED leaves of the records that the kernel has read: the ring's places hold no more. -/
theorem ringPast_faultResolved_length_le {r : FaultRef} {w : KWork} {s s1 : State} (h : exec (.faultResolved r w) s = .next s1) :
    s1.sys.ringPast.length ≤ 4096 := by
  obtain rfl : (({ s with m := s.m.faultResolved r w } : State).kernelReads w).flushErrs = s1 := Host.Outcome.next.inj h
  rw [State.ringPast_flushErrs, State.ringPast_kernelReads]
  exact s.sys.ringPast_readErrors_length_le w.errRead

/-- A task that waits for room in the answer table, beside an error ring that lists one read record more than its 4,096 places hold. -/
def State.overfullRing : State :=
  { m := { t := { gid := 1, phase := .waiting (.tbl 1) } }
    sys := { ringPast := List.replicate 4097 { code := 0x5001, severity := 1, action := 1, unit := 0 } } }

/-- Refutes O46: FAULT_RESOLVED is also where the kernel reads error records, and a read, even of none, drops all but the last 4,096 of
those already read. The statement takes any state and has the system die stand as it was, so it fails where 4,097 are
listed; it asks for no bound on them. -/
theorem not_kernelEvents : ¬ Obligations.KernelEvents := by
  unfold Obligations.KernelEvents
  intro h
  obtain ⟨-, htable, -⟩ := h .overfullRing State.overfullRing.m.t rfl rfl
  obtain ⟨hresolved, -⟩ := htable 1 rfl
  obtain ⟨s1, u, hx, ⟨-, -, hsys⟩, -⟩ := hresolved (by decide)
  have hlen := ringPast_faultResolved_length_le hx
  rw [hsys, State.overfullRing, List.length_replicate] at hlen
  exact absurd hlen (by decide)

end Sys2Proof.Machine
end

section
/-! SUPPORT. The scalar instructions of page 0 by the effects they share (05 R85, R86): a value of two operands, of one, or of none,
a sum, and a division. -/

namespace Sys2Proof.Machine

/-! ### What State.ready provides -/

section
variable {s : State} {m : Option XMod} {os srcs : List Opnd}

theorem State.ready.plain (h : s.ready m os srcs) : s.plain := h.1

theorem State.ready.bounds (h : s.ready m os srcs) : s.m.t.bounds os = .ok () := h.2.1.bounds

theorem State.ready.raw (h : s.ready m os srcs) {o : Opnd} (ho : o ∈ srcs) : s.m.t.raw m o = .ok (s.m.t.val o) :=
  raw_ok (h.2.2 o ho)

end

/-! ### Results and traps of an effect on the task -/

/-- A task effect that stops with a trap of the task itself raises it and does nothing else. -/
theorem traps_of_task {i : Instr} {s : State} {rule : RRule} {f : Task → Except Stop Task} {code : Nat} {addr : Word}
    (he : exec i s = issueT rule f s) (h : s.plain) (hf : f s.m.t = .error (.trap code addr 0)) : Traps i s code addr :=
  he.trans (issueT_error h hf)

section
variable {i : Instr} {s : State} {rule : RRule} {m : Option XMod} {d a b : Opnd} {v : Word}

/-- A value of two raw operands (R89). -/
theorem gives_binT {f : Word → Word → Word} {g : Tag} (he : exec i s = issueT rule (binT m d a b f g) s)
    (h : s.ready m [d, a, b] [a, b]) (hv : f (s.m.t.val a) (s.m.t.val b) = v) : Gives i s d v g :=
  hv ▸ gives_of he h.plain (binT_ok h.bounds (h.raw (by simp)) (h.raw (by simp)))

/-- A sum or a difference, which is an address where one operand is (R86). -/
theorem gives_sumT {f : Word → Word → Word} {mk : Option Mark → Option Mark → Option (Option Mark)} {g : Tag}
    (he : exec i s = issueT rule (sumT m d a b f mk) s) (hk : mk none none = some none) (h : s.ready m [d, a, b] [a, b])
    (hv : f (s.m.t.val a) (s.m.t.val b) = v) (hg : sumTag (s.m.t.tag a) (s.m.t.tag b) = g) : Gives i s d v g :=
  hv ▸ hg ▸ gives_of he h.plain (sumT_ok h.plain.1 hk h.bounds (h.raw (by simp)) (h.raw (by simp)))

/-- A value of one raw operand (R96, R97). -/
theorem gives_unT {f : Word → Word} (he : exec i s = issueT rule (unT m d a f) s) (h : s.ready m [d, a] [a])
    (hv : f (s.m.t.val a) = v) : Gives i s d v .raw :=
  hv ▸ gives_of he h.plain (unT_ok h.bounds (h.raw (by simp)))

/-- A division by anything but zero (R90). -/
theorem gives_divT {f : Word → Word → Word} (he : exec i s = issueT rule (divT m d a b f) s)
    (h : s.ready m [d, a, b] [a, b]) (hz : s.m.t.val b ≠ 0) (hv : f (s.m.t.val a) (s.m.t.val b) = v) : Gives i s d v .raw :=
  hv ▸ gives_of he h.plain ((divT_ok h.bounds (h.raw (by simp)) (h.raw (by simp))).trans (if_neg hz))

/-- A division by zero (R90). -/
theorem traps_divT {f : Word → Word → Word} (he : exec i s = issueT rule (divT m d a b f) s)
    (h : s.ready m [d, a, b] [a, b]) (hz : s.m.t.val b = 0) : Traps i s 0x0A s.m.t.pc :=
  traps_of_task he h.plain ((divT_ok h.bounds (h.raw (by simp)) (h.raw (by simp))).trans (if_pos hz))

end

/-- ADDI outside a region (R94). -/
theorem addiT_ok {t : Task} {m : Option XMod} {d a : Opnd} (hr : t.region = none) (hb : t.bounds [d, a] = .ok ())
    (ha : t.raw m a = .ok (t.val a)) (k : Int) :
    addiT m d a k t = .ok (t.wr d (clampIf (satOf m) ((t.val a).toInt + k)) (sumTag (t.tag a) .raw)) := by
  simp [addiT, hb, ha, markOf_plain hr, Task.wr, bind, Except.bind]

/-- MOV outside a region (R96). -/
theorem movT_ok {t : Task} {d a : Opnd} (hr : t.region = none) (hb : t.bounds [d, a] = .ok ()) :
    movT d a t = .ok (t.wr d (t.val a) (movTag (t.tag a))) := by
  simp [movT, hb, markOf_plain hr, Task.wr, bind, Except.bind]

/-- BFI (R92). -/
theorem bfiT_ok {t : Task} {m : Option XMod} {d a b c : Opnd} (hb : t.bounds [d, a, b, c] = .ok ())
    (ha : t.raw m a = .ok (t.val a)) (hb' : t.raw m b = .ok (t.val b)) (hc : t.raw m c = .ok (t.val c)) :
    bfiT m d a b c t = .ok (t.wr d (bfiW (t.val a) (t.val b) (t.val c)) .raw) := by
  simp [bfiT, hb, ha, hb', hc, bind, Except.bind]

/-- SEL by the operand it takes (R93). -/
theorem selT_ok {t : Task} {m : Option XMod} {d a b c : Opnd} (hb : t.bounds [d, a, b, c] = .ok ())
    (hc : t.raw m c = .ok (t.val c)) {o : Opnd} (ho : (if t.val c ≠ 0 then a else b) = o) :
    selT m d a b c t = .ok (t.wr d (t.val o) (movTag (t.tag o))) := by
  subst ho
  simp [selT, hb, hc, bind, Except.bind]

end Sys2Proof.Machine
end

section
/-! SUPPORT. The values of the integer instructions (05 R86 to R97): exact results wrapped to 64 bits or clamped, quotients, extremes,
extensions, and the tag of a sum. -/

namespace Sys2Proof.Machine

/-! ### Exact results, wrapped or clamped (R87) -/

theorem clampIf_of_wrap {s : Bool} (h : s = false) (v : Int) : clampIf s v = low64 v := by simp [clampIf, h]

theorem clampIf_of_sat {s : Bool} (h : s = true) (v : Int) : clampIf s v = sat64 v := by simp [clampIf, h]

theorem low64_toInt (x : Word) : low64 x.toInt = x := BitVec.ofInt_toInt

theorem low64_add (x y : Int) : low64 (x + y) = low64 x + low64 y := BitVec.ofInt_add x y

theorem low64_neg (x : Int) : low64 (-x) = -low64 x := BitVec.ofInt_neg

theorem low64_sub (x y : Int) : low64 (x - y) = low64 x - low64 y := by
  rw [Int.sub_eq_add_neg, low64_add, low64_neg, BitVec.sub_eq_add_neg]

theorem low64_mul (x y : Int) : low64 (x * y) = low64 x * low64 y := BitVec.ofInt_mul x y

/-! ### Quotients and remainders (R90) -/

theorem sremW_eq (x y : Word) : sremW x y = BitVec.ofInt 64 (x.toInt - y.toInt * x.toInt.tdiv y.toInt) := by
  rw [sremW, low64, Int.tmod_def]

/-- −2^63 / −1 wraps to −2^63. -/
theorem sdivW_overflow {x y : Word} (hx : x.toInt = -2 ^ 63) (hy : y.toInt = -1) : sdivW x y = x := by
  rw [sdivW, hy, ← low64_toInt x, hx]
  decide

theorem sremW_overflow {x y : Word} (hx : x.toInt = -2 ^ 63) (hy : y.toInt = -1) : sremW x y = 0 := by
  rw [sremW, hx, hy]
  decide

/-! ### Extremes (R89) -/

/-- MAX and MAXN: where both are equal in the order, they are the same word. -/
theorem ite_le_eq_ite_lt_of_injective {α : Type} [LinearOrder α] {r : Word → α} (hr : Function.Injective r) (x y : Word) :
    (if r x ≤ r y then y else x) = if r x < r y then y else x := by
  rcases lt_trichotomy (r x) (r y) with h | h | h
  · rw [if_pos h.le, if_pos h]
  · rw [hr h, if_pos le_rfl, if_neg (lt_irrefl _)]
  · rw [if_neg h.not_ge, if_neg h.not_gt]

/-! ### Absolute values and extensions (R96) -/

theorem ite_neg_eq_abs (v : Int) : (if v < 0 then -v else v) = |v| := by
  split
  · next h => exact (abs_of_neg h).symm
  · next h => exact (abs_of_nonneg (not_lt.mp h)).symm

theorem low64_abs (x : Word) : low64 |x.toInt| = if 0 ≤ x.toInt then x else -x := by
  split
  · next h => rw [abs_of_nonneg h, low64_toInt]
  · next h => rw [abs_of_neg (not_le.mp h), low64_neg, low64_toInt]

theorem absW_eq (s : Bool) (x : Word) : absW s x = clampIf s |x.toInt| := by
  rw [absW, ite_neg_eq_abs]

/-- A zero extension keeps the low bits. -/
theorem zextBits_eq_and (n : Nat) (x : Word) : zextBits n x = x &&& BitVec.ofNat 64 (2 ^ n - 1) := by
  refine BitVec.eq_of_getLsbD_eq fun i hi => ?_
  rw [zextBits, BitVec.getLsbD_setWidth, BitVec.getLsbD_setWidth, BitVec.getLsbD_and, BitVec.getLsbD_ofNat,
    Nat.testBit_two_pow_sub_one]
  simp [hi, Bool.and_comm]

/-! ### The tag of a sum (R86) -/

theorem sumTag_eq (g h : Tag) :
    sumTag g h = if (g = .addr ∧ h ≠ .addr) ∨ (g ≠ .addr ∧ h = .addr) then Tag.addr else .raw := by
  by_cases hg : g = .addr <;> by_cases hh : h = .addr <;> simp [sumTag, hg, hh]

theorem sumTag_raw (g : Tag) : sumTag g .raw = if g = .addr then Tag.addr else .raw := by
  by_cases hg : g = .addr <;> simp [sumTag, hg]

end Sys2Proof.Machine
end

section
/-! PROOFS. O1: integer logic, shifts, products and extremes. -/

namespace Sys2Proof.Machine

/-- Settles O1: every one of them is a value of two raw operands (`gives_binT`). -/
theorem integerOps : Obligations.IntegerOps := by
  unfold Obligations.IntegerOps
  intro s m d a b h
  dsimp only
  refine ⟨gives_binT rfl h rfl, gives_binT rfl h rfl, gives_binT rfl h rfl, gives_binT rfl h rfl, gives_binT rfl h rfl,
    gives_binT rfl h rfl, gives_binT rfl h rfl, fun hs => gives_binT rfl h ?_, fun hs => gives_binT rfl h ?_,
    gives_binT rfl h rfl, gives_binT rfl h rfl, gives_binT rfl h ?_, gives_binT rfl h ?_, gives_binT rfl h ?_, gives_binT rfl h ?_⟩
  · rw [clampIf_of_wrap hs, low64_mul, low64_toInt, low64_toInt]
  · exact clampIf_of_sat hs _
  · simp only [← not_lt, ite_not]
  · exact ite_le_eq_ite_lt_of_injective (fun _ _ => BitVec.eq_of_toInt_eq) _ _
  · simp only [← not_lt, ite_not]
  · exact ite_le_eq_ite_lt_of_injective (fun _ _ => BitVec.eq_of_toNat_eq) _ _

end Sys2Proof.Machine
end

section
/-! PROOFS. O2: sums. -/

namespace Sys2Proof.Machine

/-- Settles O2: a sum wraps or saturates (`clampIf_of_wrap`, `clampIf_of_sat`) and is tagged by `sumTag`. -/
theorem sums : Obligations.Sums := by
  unfold Obligations.Sums
  intro s m d a b k
  dsimp only
  refine ⟨fun h => ⟨fun hs => ⟨?_, ?_⟩, fun hs => ⟨?_, ?_⟩⟩, fun h => ?_⟩
  · exact gives_sumT rfl rfl h (by rw [clampIf_of_wrap hs, low64_add, low64_toInt, low64_toInt]) (sumTag_eq _ _)
  · exact gives_sumT rfl rfl h (by rw [clampIf_of_wrap hs, low64_sub, low64_toInt, low64_toInt]) (sumTag_eq _ _)
  · exact gives_sumT rfl rfl h (clampIf_of_sat hs _) (sumTag_eq _ _)
  · exact gives_sumT rfl rfl h (clampIf_of_sat hs _) (sumTag_eq _ _)
  · have hi : Gives (.addi m d a k) s d (clampIf (satOf m) ((s.m.t.val a).toInt + k)) (sumTag (s.m.t.tag a) .raw) :=
      gives_of rfl h.plain (addiT_ok h.plain.1 h.bounds (h.raw (by simp)) k)
    rw [sumTag_raw] at hi
    refine ⟨fun hs => ?_, fun hs => ?_⟩
    · rwa [clampIf_of_wrap hs, low64_add, low64_toInt] at hi
    · rwa [clampIf_of_sat hs] at hi

end Sys2Proof.Machine
end

section
/-! PROOFS. O3: divisions. -/

namespace Sys2Proof.Machine

/-- Settles O3: a zero divisor stops with the trap (`traps_divT`), any other gives its quotient or remainder (`gives_divT`). -/
theorem divisions : Obligations.Divisions := by
  unfold Obligations.Divisions
  intro s m d a b h
  refine ⟨fun hz => ⟨traps_divT rfl h hz, traps_divT rfl h hz, traps_divT rfl h hz, traps_divT rfl h hz⟩, fun hz =>
    ⟨fun hx hy => ⟨gives_divT rfl h hz (sdivW_overflow hx hy), gives_divT rfl h hz (sremW_overflow hx hy)⟩,
      gives_divT rfl h hz rfl, gives_divT rfl h hz (sremW_eq _ _), gives_divT rfl h hz rfl, gives_divT rfl h hz ?_⟩⟩
  rw [Nat.mod_def]

end Sys2Proof.Machine
end

section
/-! PROOFS. O4: LEA, bit fields and SEL. -/

namespace Sys2Proof.Machine

theorem shiftLeft_eq_mul_ofNat (y : Word) (n : Nat) : y <<< n = y * BitVec.ofNat 64 (2 ^ n) := by
  rw [BitVec.shiftLeft_eq_mul_twoPow]
  congr 1
  exact BitVec.eq_of_toNat_eq (by simp)

/-- LEA of each scale (R91). -/
theorem gives_lea {s : State} {m : Option XMod} {d a b : Opnd} (h : s.ready m [d, a, b] [a, b]) (sc : Scale) :
    Gives (.lea m sc d a b) s d (s.m.t.val a + s.m.t.val b * BitVec.ofNat 64 (2 ^ scaleShift sc)) .addr :=
  gives_binT rfl h (by rw [shiftLeft_eq_mul_ofNat])

/-- Settles O4: BFX and BFI bit by bit (`getLsbD_bfxW`, `getLsbD_bfiW`). -/
theorem fieldsAndSelection : Obligations.FieldsAndSelection := by
  unfold Obligations.FieldsAndSelection
  intro s m d a b c
  dsimp only
  refine ⟨fun h => ⟨?_, gives_lea h .x2, gives_lea h .x4, gives_lea h .x8, gives_lea h .x64, ?_⟩, fun h => ?_, fun h => ?_⟩
  · simpa [scaleShift] using gives_lea h .x1
  · exact ⟨_, gives_binT rfl h rfl, getLsbD_bfxW _ _⟩
  · exact ⟨_, gives_of rfl h.plain (bfiT_ok h.bounds (h.raw (by simp)) (h.raw (by simp)) (h.raw (by simp))),
      getLsbD_bfiW _ _ _⟩
  · exact gives_of rfl h.plain (selT_ok h.bounds (h.raw (by simp)) rfl)

end Sys2Proof.Machine
end

section
/-! PROOFS. O5: the one-operand and immediate instructions. -/

namespace Sys2Proof.Machine

/-- CLZ by the bits of its source (R96). -/
theorem clzW_spec (x : Word) : clzW x ≤ 64 ∧ (∀ i, 64 - clzW x ≤ i → i < 64 → x.getLsbD i = false) ∧
    (clzW x < 64 → x.getLsbD (63 - clzW x) = true) := clzNat_spec x.toNat 64

/-- CTZ by the bits of its source (R96). -/
theorem ctzW_spec (x : Word) : ctzW x ≤ 64 ∧ (∀ i, i < ctzW x → x.getLsbD i = false) ∧
    (ctzW x < 64 → x.getLsbD (ctzW x) = true) := by
  simpa [ctzW] using ctzFrom_spec x 64 0

/-- Settles O5: WID and MOVI write a value, MOV copies one, and every other is a value of one raw operand (`gives_unT`). -/
theorem oneOperandOps : Obligations.OneOperandOps := by
  unfold Obligations.OneOperandOps
  intro s m d a k i n
  dsimp only
  refine ⟨fun h hd => ⟨gives_of rfl h (putT_ok hd.bounds), gives_of rfl h (putT_ok hd.bounds)⟩,
    fun h hd => gives_of rfl h (movT_ok h.1 hd.bounds), fun h => ?_⟩
  have ⟨hclz, hclzBits⟩ := clzW_spec (s.m.t.val a)
  have ⟨hctz, hctzBits⟩ := ctzW_spec (s.m.t.val a)
  refine ⟨gives_unT rfl h rfl, fun hs => ⟨?_, ?_⟩, fun hs => ⟨?_, ?_⟩,
    gives_unT rfl h rfl, gives_unT rfl h rfl, gives_unT rfl h rfl,
    gives_unT rfl h (zextBits_eq_and 8 _), gives_unT rfl h (zextBits_eq_and 16 _), gives_unT rfl h (zextBits_eq_and 32 _),
    gives_unT rfl h rfl, gives_unT rfl h rfl, gives_unT rfl h rfl, gives_unT rfl h rfl,
    ⟨_, hclz, gives_unT rfl h rfl, hclzBits⟩, ⟨_, hctz, gives_unT rfl h rfl, hctzBits⟩,
    gives_unT rfl h ?_, _, gives_unT rfl h rfl, getLsbD_brevW _⟩
  · exact gives_unT rfl h (by rw [negW, clampIf_of_wrap hs, low64_neg, low64_toInt])
  · exact gives_unT rfl h (by rw [absW_eq, clampIf_of_wrap hs, low64_abs])
  · exact gives_unT rfl h (clampIf_of_sat hs _)
  · exact gives_unT rfl h (by rw [absW_eq, clampIf_of_sat hs])
  · rw [popcW, popBelow_eq]

end Sys2Proof.Machine
end

section
/-! SUPPORT. Comparisons and transfers outside a region (05 R99 to R105). -/

namespace Sys2Proof.Machine

/-- An instruction with an effect on its task that goes through. -/
theorem exec_of_task {i : Instr} {s : State} {t1 : Task} {rule : RRule} {f : Task → Except Stop Task}
    (he : exec i s = issueT rule f s) (h : s.plain) (hf : f s.m.t = .ok t1) (hr : t1.region = s.m.t.region)
    (hp : t1.phase = s.m.t.phase) : exec i s = .next (s.done t1) :=
  he.trans (issueT_ok h hf (hr.trans h.1) (hp.trans h.2))

theorem Task.wr_region {t : Task} (h : t.region = none) (d : Opnd) (v : Word) (g : Tag) : (t.wr d v g).region = t.region := by
  rw [Task.wr, wrMark_plain h]

/-! ### Comparisons (R99) -/

/-- A comparison of two registers. -/
theorem cmpT_reg {t : Task} {m : Option XMod} {a b : Opnd} (hr : t.region = none) (hb : t.bounds [a, b] = .ok ())
    (ha : t.raw m a = .ok (t.val a)) (hc : t.raw m b = .ok (t.val b)) (c : Cond) (p : Fin 8) :
    cmpT m c p a (.inl b) t = .ok (t.setPredAll p (condHolds c (t.val a) (t.val b))) := by
  simp [cmpT, hb, ha, hc, markOf_plain hr, bind, Except.bind]

/-- A comparison with a constant. -/
theorem cmpT_imm {t : Task} {m : Option XMod} {a : Opnd} (hr : t.region = none) (hb : t.bounds [a] = .ok ())
    (ha : t.raw m a = .ok (t.val a)) (c : Cond) (p : Fin 8) (k : Int) :
    cmpT m c p a (.inr k) t = .ok (t.setPredAll p (condHolds c (t.val a) (BitVec.ofInt 64 k))) := by
  simp [cmpT, hb, ha, markOf_plain hr, bind, Except.bind]

/-! ### Transfers (R100 to R104) -/

/-- A branch goes to its target where lane 0 of its predicate has the sense wanted, and else on (R100). -/
theorem bcT_eq (p : Fin 8) (sense : Bool) (off : Int) (t : Task) :
    bcT p sense off t = .ok (t.jump (if t.lane0 p = sense then t.target off else t.npc)) := by
  unfold bcT
  split <;> rfl

/-- BC.n goes on where the lane is set. -/
theorem bcT_false_eq (p : Fin 8) (off : Int) (t : Task) :
    bcT p false off t = .ok (t.jump (if t.lane0 p then t.npc else t.target off)) := by
  rw [bcT_eq]
  simp only [← Bool.not_eq_true, ite_not]

theorem evenTarget_even {w : Word} (h : w.getLsbD 0 = false) : evenTarget w = .ok () := if_neg (Bool.eq_false_iff.mp h)

theorem evenTarget_odd {w : Word} (h : w.getLsbD 0 = true) : evenTarget w = .error (.trap 0x05 w 0) := if_pos h

theorem callT_ok {t : Task} (hb : t.bounds [.slot 0] = .ok ()) (off : Int) : callT off t = .ok (t.link.jump (t.target off)) := by
  simp [callT, hb, bind, Except.bind]

theorem briT_eq {t : Task} {a : Opnd} (hb : t.bounds [a] = .ok ()) :
    briT a t = (evenTarget (t.val a)).map fun _ => t.jump (t.val a) := by
  simp only [briT, hb, bind, Except.bind]
  cases evenTarget (t.val a) <;> rfl

theorem calliT_ok {t : Task} {a : Opnd} (hb : t.bounds [a, .slot 0] = .ok ()) (he : (t.val a).getLsbD 0 = false) :
    calliT a t = .ok (t.link.jump (t.val a)) := by
  simp [calliT, hb, evenTarget_even he, bind, Except.bind]

theorem retT_eq (t : Task) : retT t = (evenTarget (t.val (.slot 0))).map fun _ => t.jump (t.val (.slot 0)) := by
  simp only [retT, bind, Except.bind]
  cases evenTarget (t.val (.slot 0)) <;> rfl

/-- LOOP counts down, and goes back until the count is used up (R104). -/
theorem loopT_ok {t : Task} {m : Option XMod} {a : Opnd} (hb : t.bounds [a] = .ok ()) (ha : t.raw m a = .ok (t.val a)) (off : Int) :
    loopT m a off t =
      .ok ((t.wr a (t.val a - 1) .raw).jump (if t.val a - 1 = 0 then t.npc else t.target off)) := by
  simp only [loopT, hb, ha, bind, Except.bind]
  split <;> rfl

end Sys2Proof.Machine
end

section
/-! PROOFS. O6: CMP and CMPI. -/

namespace Sys2Proof.Machine

/-- Settles O6: the relations are those of `condHolds`, and the writes those of `Task.setPredAll`. -/
theorem comparisons : Obligations.Comparisons := by
  unfold Obligations.Comparisons
  intro s m c p a b k holds after
  have hc (x y : Word) : condHolds c x y = holds x y := by
    cases c with
    | ne => exact decide_not.symm
    | _ => rfl
  have hw (r : Bool) : s.m.t.setPredAll p r = after r := by cases r <;> rfl
  refine ⟨fun h => ?_, fun h => ?_⟩
  · rw [← hw, ← hc]
    exact exec_of_task rfl h.plain (cmpT_reg h.plain.1 h.bounds (h.raw (by simp)) (h.raw (by simp)) c p) rfl rfl
  · rw [← hw, ← hc]
    exact exec_of_task rfl h.plain (cmpT_imm h.plain.1 h.bounds (h.raw (by simp)) c p k) rfl rfl

end Sys2Proof.Machine
end

section
/-! PROOFS. O7: transfers. -/

namespace Sys2Proof.Machine

/-- Settles O7: each transfer is a jump of its task (`bcT_eq`, `bcT_false_eq`, `briT_eq`, `retT_eq`, `loopT_ok`), after the link of
a call; an odd target stops BRI and RET (`evenTarget_odd`). -/
theorem transfers : Obligations.Transfers := by
  unfold Obligations.Transfers
  intro s m p a off h
  have hl : s.m.t.link.region = s.m.t.region := Task.wr_region h.1 _ _ _
  refine ⟨exec_of_task rfl h rfl rfl rfl, exec_of_task rfl h rfl rfl rfl, ?_, ?_, fun hb => ?_, fun hb he => ?_, fun hb he => ?_,
    fun he => ?_, fun hb he => ?_, fun he => ?_, fun hm => ?_⟩
  · exact exec_of_task rfl h (bcT_eq p true off _) rfl rfl
  · exact exec_of_task rfl h (bcT_false_eq p off _) rfl rfl
  · exact exec_of_task rfl h (callT_ok hb.bounds off) hl rfl
  · exact exec_of_task rfl h (by rw [briT_eq hb.bounds, evenTarget_even he]; rfl) rfl rfl
  · exact exec_of_task rfl h (calliT_ok hb.bounds he) hl rfl
  · exact exec_of_task rfl h (by rw [retT_eq, evenTarget_even he]; rfl) rfl rfl
  · exact traps_of_task rfl h (by rw [briT_eq hb.bounds, evenTarget_odd he]; rfl)
  · exact traps_of_task rfl h (by rw [retT_eq, evenTarget_odd he]; rfl)
  · exact exec_of_task rfl h (loopT_ok hm.bounds (hm.raw (by simp)) off) (Task.wr_region h.1 _ _ _) rfl

end Sys2Proof.Machine
end

section
/-! SUPPORT. Cursors and what TANS, TINFO and TREL do with them (06 R118, R138, R142, R143): the handle in a7, the words that TANS
delivers, a park on an entry, a cursor released. -/

namespace Sys2Proof.Machine

/-! ### The instructions by their effects -/

theorem exec_tans (m : Option XMod) (d : Opnd) (s : State) : exec (.tans m d) s = issue (.abort abTable) (tansM d) s := rfl
theorem exec_tinfo (m : Option XMod) (d : Opnd) (q : Nat) (s : State) :
    exec (.tinfo m d q) s = issue (.abort abTable) (tinfoM d q) s := rfl
theorem exec_trel (m : Option XMod) (s : State) : exec (.trel m) s = issue (.abort abTable) trelM s := rfl

/-! ### The handle in a7 (R118) -/

/-- The cursor that the word in a7 names is the one whose valid handle a7 holds. -/
theorem Mach.cursorOf_eq_some_iff {s : State} {n : Nat} {k : Cursor} :
    s.m.cursorOf s.m.t (s.m.t.val a7) = some (n, k) ↔ s.handle n k := by
  unfold Mach.cursorOf State.handle
  generalize (s.m.t.val a7).toNat = v
  dsimp only
  constructor
  · intro hs
    split at hs
    · cases hs
    · next hfields =>
      split at hs
      · cases hs
      · next j hcur =>
        split at hs
        · next hlive =>
          obtain ⟨rfl, rfl⟩ := Prod.mk.inj (Option.some.inj hs)
          exact ⟨by omega, by omega, rfl, hcur, hlive⟩
        · cases hs
  · rintro ⟨hlt, hres, rfl, hcur, hlive⟩
    rw [if_neg (by omega), hcur]
    exact if_pos hlive

theorem State.handle.ok {s : State} {n : Nat} {k : Cursor} (h : s.handle n k) : s.m.handle = .ok (n, k) := by
  simp [Mach.handle, Mach.cursorOf_eq_some_iff.mpr h]

/-- Where a7 holds no valid handle, an instruction that asks for one traps STALE_HANDLE. -/
theorem Mach.handle_stale {s : State} (h : ∀ n k, ¬ s.handle n k) : s.m.handle = .error (.trap 0x09 (s.m.t.val a7) 0) := by
  have hn : s.m.cursorOf s.m.t (s.m.t.val a7) = none :=
    Option.eq_none_iff_forall_ne_some.mpr fun p hp => h p.1 p.2 (Mach.cursorOf_eq_some_iff.mp hp)
  simp [Mach.handle, hn, staleHandle]

/-! ### What TANS reports (R138) -/

theorem Task.putRun_cons (t : Task) (w : Nat) (v : Word) (vs : List Word) :
    t.putRun w (v :: vs) = (t.putCell (slotKey w) ⟨v, .raw, none⟩).putRun (w + 1) vs := by
  simp only [Task.putRun, List.zipIdx_cons', List.foldl_cons, List.foldl_map, Prod.map_fst, Prod.map_snd, id_eq, Nat.add_zero,
    ← Nat.add_assoc, Nat.add_right_comm w 1]

/-- A run of words stands in its slots; every other register is as it was. -/
theorem Task.cell_putRun (vs : List Word) : ∀ (t : Task) (w j : Nat), (t.putRun w vs).cell j =
    if 8 + w ≤ j ∧ j < 8 + w + vs.length then ⟨vs.getD (j - (8 + w)) 0, .raw, none⟩ else t.cell j := by
  induction vs with
  | nil => intro t w j; rw [if_neg (by simp)]; rfl
  | cons v vs ih =>
    intro t w j
    rw [Task.putRun_cons, ih, cell_putCell, slotKey, List.length_cons]
    by_cases hj : j = 8 + w
    · subst hj
      rw [if_neg (by omega), if_pos rfl, if_pos (by omega), Nat.sub_self, List.getD_cons_zero]
    · rw [if_neg hj]
      by_cases hr : 8 + (w + 1) ≤ j ∧ j < 8 + (w + 1) + vs.length
      · rw [if_pos hr, if_pos (by omega), show j - (8 + w) = j - (8 + (w + 1)) + 1 by omega, List.getD_cons_succ]
      · rw [if_neg hr, if_neg (by omega)]

/-- Outside a region a run of words changes registers alone. -/
theorem Task.putRun_plain (vs : List Word) : ∀ {t : Task}, t.region = none → ∀ w, ∃ g, t.putRun w vs = { t with img := g } := by
  induction vs with
  | nil => intro t _ w; exact ⟨t.img, rfl⟩
  | cons v vs ih =>
    intro t h w
    have hp : t.putCell (slotKey w) ⟨v, .raw, none⟩ = { t with img := (t.putCell (slotKey w) ⟨v, .raw, none⟩).img } := by
      simp [Task.putCell, h]
    obtain ⟨g, hg⟩ := ih (t := t.putCell (slotKey w) ⟨v, .raw, none⟩) (by rw [hp]; exact h) (w + 1)
    exact ⟨g, by rw [Task.putRun_cons, hg, hp]⟩

/-- A task to which TANS reports: words from a slot on, a status in lt, and an acquire at device scope. -/
def Task.reported (t : Task) (w : Nat) (vs : List Word) (st now : Nat) : Task := ((t.putRun w vs).status st).acquire .dv now

/-- t1 is t after a report: a status in lt and words from slot w on, every other register as it was. -/
structure Task.Reports (t t1 : Task) (w : Nat) (vs : List Word) (st : Nat) : Prop where
  cell : ∀ j, t1.cell j = if j = 0 then ⟨BitVec.ofNat 64 st, .raw, none⟩
    else if 8 + w ≤ j ∧ j < 8 + w + vs.length then ⟨vs.getD (j - (8 + w)) 0, .raw, none⟩ else t.cell j
  npc : t1.npc = t.npc
  phase : t1.phase = t.phase
  region : t1.region = t.region

section
variable {t t1 : Task} {w : Nat} {vs : List Word} {st : Nat} (h : t.Reports t1 w vs st)
include h

theorem Task.Reports.status : t1.cell 0 = ⟨BitVec.ofNat 64 st, .raw, none⟩ := (h.cell 0).trans (if_pos rfl)

theorem Task.Reports.word {i : Nat} (hi : i < vs.length) : t1.cell (8 + w + i) = ⟨vs.getD i 0, .raw, none⟩ := by
  rw [h.cell, if_neg (by omega), if_pos (by omega), Nat.add_sub_cancel_left]

theorem Task.Reports.other {j : Nat} (h0 : j ≠ 0) (hj : ¬ (8 + w ≤ j ∧ j < 8 + w + vs.length)) : t1.cell j = t.cell j := by
  rw [h.cell, if_neg h0, if_neg hj]

end

theorem Task.reports_reported {t : Task} (h : t.region = none) (w : Nat) (vs : List Word) (st now : Nat) :
    t.Reports (t.reported w vs st now) w vs st := by
  obtain ⟨g, hg⟩ := Task.putRun_plain vs h w
  refine ⟨fun j => ?_, ?_, ?_, ?_⟩
  · rw [← Task.cell_putRun]
    exact cell_putCell _ _ _ _
  · show (t.putRun w vs).npc = t.npc
    rw [hg]
  · show (t.putRun w vs).phase = t.phase
    rw [hg]
  · show (t.putRun w vs).region.map _ = t.region
    rw [hg, h]; rfl

/-- A task whose cursor has moved to the next answer. -/
def Task.advanced (t : Task) (n : Nat) (k : Cursor) : Task :=
  { t with curs := Tab.put none t.curs n (some { k with pos := k.pos + 1 }) }

theorem Task.Reports.advanced {t t1 : Task} {w : Nat} {vs : List Word} {st : Nat} (h : t.Reports t1 w vs st) (n : Nat)
    (k : Cursor) : t.Reports (t1.advanced n k) w vs st := ⟨h.cell, h.npc, h.phase, h.region⟩

theorem Task.cursor_advanced (t : Task) (n : Nat) (k : Cursor) :
    (t.advanced n k).cursor n = some { k with pos := k.pos + 1 } := by
  rw [Task.cursor, Task.advanced, Tab.look_put, if_pos rfl]

section
variable {m : Mach} {w n : Nat} {k : Cursor}

/-- What TANS finds of an entry that has failed (R127). -/
theorem Mach.tansNow_failed (h : (m.entry m.cur k.entry).state = .failed) : m.tansNow w n k =
    some { m with t := m.t.reported w [BitVec.ofNat 64 (m.entry m.cur k.entry).code] 2 m.order } := if_pos h

/-- What TANS finds where the cursor has an answer to read. -/
theorem Mach.tansNow_answer (h : (m.entry m.cur k.entry).state ≠ .failed) {v : List Word}
    (hv : (m.entry m.cur k.entry).answers[k.pos]? = some v) : m.tansNow w n k =
    some (({ m with t := (m.t.reported w v 0 m.order).advanced n k } : Mach).renew m.cur k.entry) := by
  rw [Mach.tansNow, if_neg h, hv]
  rfl

/-- What TANS finds at the end of an entry that is complete. -/
theorem Mach.tansNow_complete (h : (m.entry m.cur k.entry).state = .complete)
    (hv : (m.entry m.cur k.entry).answers[k.pos]? = none) : m.tansNow w n k =
    some { m with t := m.t.reported w [] 1 m.order } := by
  rw [Mach.tansNow, if_neg (by rw [h]; decide), hv]
  exact if_pos h

/-- TANS finds nothing to report of an entry in evaluation whose answers have been read. -/
theorem Mach.tansNow_none (h : (m.entry m.cur k.entry).state = .eval)
    (hv : (m.entry m.cur k.entry).answers[k.pos]? = none) : m.tansNow w n k = none := by
  rw [Mach.tansNow, if_neg (by rw [h]; decide), hv]
  exact if_neg (by rw [h]; decide)

end

/-! ### Parking on an entry (R123) -/

theorem Mach.find_live {m : Mach} (h : m.t.phase ≠ .ended) : m.find m.t.gid = some m.t := by
  simp [Mach.find, Mach.tasks, h]

/-- m1 is m after tasks were raised to a priority: the task in focus has changed its place in a queue at most. -/
structure Mach.OnlyRaises (m m1 : Mach) : Prop where
  mem : m1.mem = m.mem
  ctxs : m1.ctxs = m.ctxs
  focus : ∃ p at_ no, m1.t = { m.t with prio := p, queuedAt := at_, queueNo := no }

theorem Mach.OnlyRaises.refl (m : Mach) : m.OnlyRaises m := ⟨rfl, rfl, _, _, _, rfl⟩

theorem Mach.OnlyRaises.trans {m m1 m2 : Mach} (h : m.OnlyRaises m1) (h1 : m1.OnlyRaises m2) : m.OnlyRaises m2 where
  mem := h1.mem.trans h.mem
  ctxs := h1.ctxs.trans h.ctxs
  focus := by
    obtain ⟨_, _, _, h⟩ := h.focus
    obtain ⟨_, _, _, h1⟩ := h1.focus
    exact ⟨_, _, _, by rw [h1, h]⟩

theorem Mach.onlyRaises_raisePrio (m : Mach) (g : Gid) (p : Nat) : m.OnlyRaises (m.raisePrio g p) := by
  unfold Mach.raisePrio
  split
  · split
    · refine ⟨rfl, rfl, ?_⟩
      rw [Mach.mapTask_t]
      split
      · unfold Task.requeue
        split
        · exact ⟨_, _, _, rfl⟩
        · exact ⟨_, _, _, rfl⟩
      · exact ⟨_, _, _, rfl⟩
    · exact .refl m
  · exact .refl m

theorem Mach.onlyRaises_inheritPrio (m : Mach) (c l : Nat) : m.OnlyRaises (m.inheritPrio c l) :=
  List.foldlRecOn _ _ (motive := m.OnlyRaises) (.refl m) fun a ha g _ => ha.trans (a.onlyRaises_raisePrio g _)

/-- A machine whose task in focus waits for an answer of an entry. -/
def Mach.awaiting (m : Mach) (e : Nat) : Mach := { m with t := { m.t with phase := .waiting (.answer e) } }

/-- A consumer that produces nothing and has no caller parks: it waits, and the producers of the group inherit its priority. -/
theorem Mach.tansPark_consumer {m : Mach} (hp : m.t.produces = none) (hc : m.t.caller = none) (e : Nat) :
    (m.awaiting e).OnlyRaises (m.tansPark e) := by
  have hn : m.produced m.t = none := by simp [Mach.produced, hp]
  have hm : m.parkMerge e = m := by simp [Mach.parkMerge, hn]
  have hr : (m.awaiting e).resumeCaller m.t.gid = m.awaiting e := by
    have hf : (m.awaiting e).find m.t.gid = some (m.awaiting e).t := Mach.find_live (m := m.awaiting e) (by simp [Mach.awaiting])
    have hcall : (m.awaiting e).t.caller = none := hc
    simp [Mach.resumeCaller, hf, hcall]
  have hx : m.tansPark e = (m.awaiting e).inheritPrio m.cur ((m.awaiting e).entry m.cur e).leader := by
    unfold Mach.tansPark
    rw [hm, hn]
    exact congrArg (fun a : Mach => a.inheritPrio m.cur ((m.awaiting e).entry m.cur e).leader) hr
  rw [hx]
  exact Mach.onlyRaises_inheritPrio _ _ _

/-! ### TANS (R138) -/

section
variable {s : State} {n : Nat} {k : Cursor} (hk : s.handle n k) {w : Fin 256}
include hk

/-- TANS that has something to report. -/
theorem tansM_now (hb : w.val + 6 < s.m.t.alloc) {m1 : Mach} (h : s.m.tansNow w.val n k = some m1) :
    tansM (.slot w) s.m = .ok m1 := by
  simp [tansM, hk.ok, slotNo, Task.badRun, hb, h, bind, Except.bind]

/-- TANS in a consumer with nothing to report. -/
theorem tansM_parks (hb : w.val + 6 < s.m.t.alloc) (h : s.m.tansNow w.val n k = none) (hp : s.m.t.produces = none)
    (hc : s.m.t.caller = none) : tansM (.slot w) s.m = .ok (s.m.tansPark k.entry) := by
  have hn : s.m.produced s.m.t = none := by simp [Mach.produced, hp]
  obtain ⟨_, _, _, ht⟩ := (Mach.tansPark_consumer hp hc k.entry).focus
  have hw : (s.m.tansPark k.entry).t.inWait = true := by rw [ht]; rfl
  simp [tansM, hk.ok, slotNo, Task.badRun, hb, h, hn, Mach.releaseAt, hw, bind, Except.bind]

/-- TANS with a block that reaches ALLOC. -/
theorem tansM_bound (hb : s.m.t.alloc ≤ w.val + 6) :
    tansM (.slot w) s.m = .error (.trap 0x03 (BitVec.ofNat 64 (Nat.max w.val s.m.t.alloc)) 0) := by
  simp [tansM, hk.ok, slotNo, Task.badRun, Nat.not_lt.mpr hb, regBound, bind, Except.bind]

/-- TINFO tells of the cursor and changes nothing else (R142). -/
theorem tinfoM_ok {d : Opnd} (hd : s.m.t.bounds [d] = .ok ()) (q : Nat) :
    tinfoM d q s.m = .ok { s.m with t := s.m.t.wr d (BitVec.ofNat 64 (s.m.tinfo k q)) .raw } := by
  simp [tinfoM, hd, hk.ok, bind, Except.bind]

/-- TREL releases the cursor (R143). -/
theorem trelM_ok : trelM s.m = .ok (s.m.dropCursor s.m.t.gid n) := by
  simp [trelM, hk.ok, bind, Except.bind]

end

/-! ### A cursor released (R30, R117) -/

/-- An entry with one pin less, where it is the one that a cursor was created on. -/
def Entry.unpinned (k : Cursor) (e : Entry) : Entry := if e.creation = k.creation then { e with pins := e.pins - 1 } else e

/-- A task without a cursor. -/
def Task.withoutCursor (t : Task) (n : Nat) : Task := { t with curs := Tab.put none t.curs n none }

theorem Mach.dropCursor_eq {m : Mach} (h : m.t.phase = .ready) {n : Nat} {k : Cursor} (hk : m.t.cursor n = some k) :
    m.dropCursor m.t.gid n = (m.updEntry m.cur k.entry (Entry.unpinned k)).mapTask m.t.gid fun t => t.withoutCursor n := by
  unfold Mach.dropCursor
  rw [Mach.find_focus h, Option.bind_some, hk]
  rfl

/-- A cursor of the task in focus released: it alone is gone, and its entry has one pin less. -/
theorem Mach.dropCursor_spec {m : Mach} (h : m.t.phase = .ready) {n : Nat} {k : Cursor} (hk : m.t.cursor n = some k)
    (hc : (m.entry m.cur k.entry).creation = k.creation) :
    (∀ j, (m.dropCursor m.t.gid n).t.cursor j = if j = n then none else m.t.cursor j) ∧
    (m.dropCursor m.t.gid n).t.img = m.t.img ∧ (m.dropCursor m.t.gid n).t.npc = m.t.npc ∧
    ((m.dropCursor m.t.gid n).entry m.cur k.entry).pins = (m.entry m.cur k.entry).pins - 1 := by
  have ht : (m.dropCursor m.t.gid n).t = m.t.withoutCursor n := by
    rw [Mach.dropCursor_eq h hk, Mach.mapTask_t]
    exact if_pos ⟨rfl, by rw [Mach.updEntry, Mach.setCtx_t, h]; decide⟩
  refine ⟨fun j => ?_, by rw [ht]; rfl, by rw [ht]; rfl, ?_⟩
  · rw [ht]
    exact Tab.look_put none m.t.curs n j none
  · rw [Mach.dropCursor_eq h hk, Mach.entry_of_ctxs (Mach.mapTask_ctxs _ _ _), Mach.entry_updEntry, if_pos ⟨rfl, rfl⟩,
      Entry.unpinned, if_pos hc]

end Sys2Proof.Machine
end

section
/-! PROOFS. O32: TANS, TINFO and TREL. -/

namespace Sys2Proof.Machine

section
variable {s : State} (h : s.plain) {n : Nat} {k : Cursor} (hk : s.handle n k) {w : Fin 256} (hb : w.val + 6 < s.m.t.alloc)
  (m : Option XMod)
include h hk hb

/-- TANS where a report is all it makes of the state. -/
theorem exec_tans_reports {vs : List Word} {st : Nat}
    (hn : s.m.tansNow w.val n k = some { s.m with t := s.m.t.reported w.val vs st s.m.order }) :
    exec (.tans m (.slot w)) s = .next (s.done (s.m.t.reported w.val vs st s.m.order)) := by
  have ht := Task.reports_reported h.1 w.val vs st s.m.order
  exact (exec_tans m _ s).trans (issue_ok h.1 (tansM_now hk hb hn) (ht.region.trans h.1) (ready_not_held (ht.phase.trans h.2))
    (fits_of_ctxs rfl _))

/-- TANS of the next answer. -/
theorem exec_tans_answer (he : (s.m.entry s.m.cur k.entry).state ≠ .failed) {v : List Word}
    (hv : (s.m.entry s.m.cur k.entry).answers[k.pos]? = some v) : exec (.tans m (.slot w)) s =
    .next (s.retired (({ s.m with t := (s.m.t.reported w.val v 0 s.m.order).advanced n k } : Mach).renew s.m.cur k.entry)) := by
  have ht := (Task.reports_reported h.1 w.val v 0 s.m.order).advanced n k
  exact (exec_tans m _ s).trans (issue_ok h.1 (tansM_now hk hb (Mach.tansNow_answer he hv)) (ht.region.trans h.1)
    (ready_not_held (ht.phase.trans h.2)) (fits_of_silt (Mach.silt_renew _ _ _ _)))

/-- TANS of a consumer with nothing to read from an entry in evaluation. -/
theorem exec_tans_parks (he : (s.m.entry s.m.cur k.entry).state = .eval)
    (hv : (s.m.entry s.m.cur k.entry).answers[k.pos]? = none) (hp : s.m.t.produces = none) (hc : s.m.t.caller = none) :
    exec (.tans m (.slot w)) s = .next { s with m := s.m.tansPark k.entry } := by
  have hr := Mach.tansPark_consumer hp hc k.entry
  obtain ⟨_, _, _, ht⟩ := hr.focus
  exact (exec_tans m _ s).trans (issue_held h.1 (tansM_parks hk hb (Mach.tansNow_none he hv) hp hc) (by rw [ht]; exact h.1)
    (by rw [ht]; rfl) (fits_of_ctxs hr.ctxs _))

end

/-- TREL of a valid handle. -/
theorem exec_trel_ok {s : State} (h : s.plain) {n : Nat} {k : Cursor} (hk : s.handle n k) (m : Option XMod) :
    exec (.trel m) s = .next (s.retired (s.m.dropCursor s.m.t.gid n)) := by
  have hu := s.m.onlyUnpins_dropCursor s.m.t.gid n
  exact (exec_trel m s).trans (issue_ok h.1 (trelM_ok hk) (hu.focus.region h.1) (ready_not_held (hu.focus.phase h.2))
    (fits_of_silt (hu.silt _)))

/-- Settles O32: TANS by what it reports (`reports_reported`) or by its park (`tansPark_consumer`), TINFO by its value, TREL by the
cursor released (`dropCursor_spec`), and each of the three by `handle_stale` where a7 holds no valid handle. -/
theorem cursors : Obligations.Cursors := by
  unfold Obligations.Cursors
  intro s m d w n k h _
  dsimp only
  refine ⟨fun hk => ⟨fun hb => ⟨fun he => ?_, fun v he hv hl => ?_, fun he hv => ?_, fun he hv hp hc => ?_⟩, fun hb => ?_,
    fun q v hq hd => ?_, ?_⟩, fun hn hd => ⟨?_, fun q => ?_, ?_⟩⟩
  · have ht := Task.reports_reported h.1 w.val [BitVec.ofNat 64 (s.m.entry s.m.cur k.entry).code] 2 s.m.order
    refine ⟨_, exec_tans_reports h hk hb m (Mach.tansNow_failed he), ⟨ht.status, ht.npc, ht.phase.trans h.2, rfl⟩,
      fun j h0 hj => ht.other h0 ?_, ht.word (i := 0) (by simp)⟩
    rw [List.length_singleton]; omega
  · have ht := (Task.reports_reported h.1 w.val v 0 s.m.order).advanced n k
    refine ⟨_, exec_tans_answer h hk hb m he hv, ⟨ht.status, ht.npc, ht.phase.trans h.2, rfl⟩, fun j h0 hj => ht.other h0 ?_,
      fun i hi => ht.word (by omega), Task.cursor_advanced _ n k⟩
    omega
  · exact exec_tans_reports h hk hb m (Mach.tansNow_complete he hv)
  · obtain ⟨hm, -, _, _, _, ht⟩ := Mach.tansPark_consumer hp hc k.entry
    exact ⟨_, exec_tans_parks h hk hb m he hv hp hc, congrArg (·.phase) ht, congrArg (·.pc) ht, congrArg (·.img) ht, hm⟩
  · exact traps_of (exec_tans m _ s) h (tansM_bound hk hb)
  · have hv : s.m.tinfo k q = v := by
      simp only [List.mem_cons, Prod.mk.injEq, List.not_mem_nil, or_false] at hq
      rcases hq with ⟨rfl, rfl⟩ | ⟨rfl, rfl⟩ | ⟨rfl, rfl⟩ | ⟨rfl, rfl⟩ | ⟨rfl, rfl⟩ | ⟨rfl, rfl⟩ | ⟨rfl, rfl⟩ | ⟨rfl, rfl⟩ <;> rfl
    exact hv ▸ gives_of_issue (exec_tinfo m d q s) h (tinfoM_ok hk hd.bounds q)
  · obtain ⟨-, -, -, hcur, -, hcreation, -⟩ := id hk
    obtain ⟨hcurs, himg, hnpc, hpins⟩ := Mach.dropCursor_spec h.2 hcur hcreation
    exact ⟨_, exec_trel_ok h hk m, (hcurs n).trans (if_pos rfl), hpins, himg, hnpc, (s.m.onlyUnpins_dropCursor _ n).mem,
      fun j hj => (hcurs j).trans (if_neg hj)⟩
  · exact traps_of (exec_tans m _ s) h (by rw [tansM, Mach.handle_stale hn]; rfl)
  · exact traps_of (exec_tinfo m d q s) h (by rw [tinfoM, hd.bounds, Mach.handle_stale hn]; rfl)
  · exact traps_of (exec_trel m s) h (by rw [trelM, Mach.handle_stale hn]; rfl)

end Sys2Proof.Machine
end

section
/-! SUPPORT. The window of registers outside a region (07 R144, R145, 08 R162): its bounds, and what LDX and STX copy. -/

namespace Sys2Proof.Machine

/-! ### Bounds (R145, R469) -/

theorem boundsOf_eq_ok_iff {l : List Nat} : boundsOf l = .ok () ↔ l = [] := by
  cases l with
  | nil => exact iff_of_true boundsOf_nil rfl
  | cons j l => simp [boundsOf, leastSlot]

theorem badScalars_eq_nil {t : Task} {os : List Opnd} (hb : t.bounds os = .ok ()) : t.badScalars os = [] :=
  boundsOf_eq_ok_iff.mp hb

section
variable {t : Task} {d : Opnd} {j : Nat} (hb : t.bounds [d] = .ok ())
include hb

theorem windowBounds_ok (hj : j < t.alloc) : t.windowBounds d j = .ok () := by
  rw [Task.windowBounds, if_neg (Nat.not_le.mpr hj), badScalars_eq_nil hb]
  rfl

/-- A window's slot at or beyond ALLOC is the one the trap names. -/
theorem windowBounds_error (hj : t.alloc ≤ j) : t.windowBounds d j = .error (.trap 0x03 (BitVec.ofNat 64 j) 0) := by
  rw [Task.windowBounds, if_pos hj, badScalars_eq_nil hb]
  rfl

end

/-! ### LDX and STX (R145, R162) -/

section
variable {t : Task} {d : Opnd} {x : Fin 4} {k : Nat} (hb : t.bounds [d] = .ok ())
include hb

/-- LDX writes d and lt as a scalar result with the bits and the tag of the window's slot. -/
theorem ldxT_ok (hr : t.region = none) (hj : t.window x k < t.alloc) : ldxT d x k t =
    .ok (t.wr d (t.cell (slotKey (t.window x k))).val (t.cell (slotKey (t.window x k))).tag) := by
  simp [ldxT, windowBounds_ok hb hj, markOf_plain hr, Task.wr, bind, Except.bind]

/-- STX writes the window's slot alone, with the bits and the tag of d. -/
theorem stxT_ok (hr : t.region = none) (hj : t.window x k < t.alloc) : stxT d x k t =
    .ok (t.putCell (slotKey (t.window x k)) ⟨(t.cell d.key).val, (t.cell d.key).tag, none⟩) := by
  simp [stxT, windowBounds_ok hb hj, markOf_plain hr, bind, Except.bind]

theorem ldxT_error (hj : t.alloc ≤ t.window x k) :
    ldxT d x k t = .error (.trap 0x03 (BitVec.ofNat 64 (t.window x k)) 0) := by
  simp [ldxT, windowBounds_error hb hj, bind, Except.bind]

theorem stxT_error (hj : t.alloc ≤ t.window x k) :
    stxT d x k t = .error (.trap 0x03 (BitVec.ofNat 64 (t.window x k)) 0) := by
  simp [stxT, windowBounds_error hb hj, bind, Except.bind]

end

/-! ### One register written -/

theorem putCell_region {t : Task} (h : t.region = none) (k : Nat) (c : RCell) : (t.putCell k c).region = t.region := by
  simp [Task.putCell, h]

/-- Outside a region an instruction that writes one register writes nothing else. -/
theorem wroteOnly_putCell {s : State} (h : s.m.t.region = none) (k : Nat) (c : RCell) :
    s.wroteOnly (s.done (s.m.t.putCell k c)) [k] := by
  refine ⟨Tab.put RCell.fresh s.m.t.img.regs k c, by simp [Task.putCell, h], fun j hj => ?_⟩
  rw [Tab.look_put, if_neg (List.ne_of_not_mem_cons hj)]
  rfl

theorem RCell.read_unwritten {c : RCell} (h : c.tag = .unwritten) : c.read = 0 := if_pos h

end Sys2Proof.Machine
end

section
/-! PROOFS. O8: the index registers and the window. -/

namespace Sys2Proof.Machine

/-- Settles O8: LDX is a scalar result (`ldxT_ok`, `gives_of`), STX writes one register (`stxT_ok`, `wroteOnly_putCell`), and a slot at
or beyond ALLOC stops both (`ldxT_error`, `stxT_error`). -/
theorem windowOps : Obligations.WindowOps := by
  unfold Obligations.WindowOps
  intro s m x y d k i h j at_ put
  refine ⟨exec_of_task rfl h rfl rfl rfl, exec_of_task rfl h rfl rfl rfl, fun hy => ?_, fun hj hd => ⟨?_, ?_⟩,
    fun hj hd => ⟨traps_of_task rfl h (ldxT_error hd.bounds hj), traps_of_task rfl h (stxT_error hd.bounds hj)⟩⟩
  · exact (Tab.look_put _ _ _ _ _).trans (if_neg (Fin.val_ne_of_ne hy))
  · obtain ⟨s1, hx, hcell, hlt, honly⟩ : Gives (.ldx m d x k) s d (s.m.t.cell at_).val (s.m.t.cell at_).tag :=
      gives_of rfl h (ldxT_ok hd.bounds h.1 hj)
    exact ⟨s1, hx, honly, hcell, hlt, fun hu => RCell.read_unwritten ((congrArg RCell.tag hcell).trans hu)⟩
  · have hcell : (s.done (s.m.t.putCell at_ ⟨(s.m.t.cell d.key).val, (s.m.t.cell d.key).tag, none⟩)).m.t.cell at_ =
        ⟨(s.m.t.cell d.key).val, (s.m.t.cell d.key).tag, none⟩ := (cell_putCell _ _ _ _).trans (if_pos rfl)
    exact ⟨_, exec_of_task rfl h (stxT_ok hd.bounds h.1 hj) (putCell_region h.1 _ _) rfl, wroteOnly_putCell h.1 at_ _, hcell,
      fun hu => RCell.read_unwritten ((congrArg RCell.tag hcell).trans hu)⟩

end Sys2Proof.Machine
end

section
/-! PROOFS. O9: TAGSET and TAGGET. -/

namespace Sys2Proof.Machine

/-! ### TAGSET and TAGGET by lane 0 of their predicate (R164) -/

section
variable {t : Task} {g : Fin 8} {d a : Opnd}

/-- TAGSET writes a's value under the new tag. -/
theorem tagsetT_enabled (hg : t.lane0 g = true) (hb : t.bounds [d, a] = .ok ()) (f : Tag) :
    tagsetT g f d a t = .ok (t.wr d (t.val a) f) := by
  rw [tagsetT, if_pos hg, hb]
  rfl

/-- TAGGET writes the number of a's tag. -/
theorem taggetT_enabled (hg : t.lane0 g = true) (hb : t.bounds [d, a] = .ok ()) :
    taggetT g d a t = .ok (t.wr d (tagNum (t.tag a)) .raw) := by
  rw [taggetT, if_pos hg, hb]
  rfl

theorem tagsetT_disabled (hg : t.lane0 g = false) (f : Tag) : tagsetT g f d a t = .ok t :=
  if_neg (Bool.eq_false_iff.mp hg)

theorem taggetT_disabled (hg : t.lane0 g = false) : taggetT g d a t = .ok t := if_neg (Bool.eq_false_iff.mp hg)

end

/-- Settles O9: with the lane set both are scalar results (`tagsetT_enabled`, `taggetT_enabled`), and with it clear both leave their
task as it is, operands beyond ALLOC included (`tagsetT_disabled`, `taggetT_disabled`). -/
theorem tagOps : Obligations.TagOps := by
  unfold Obligations.TagOps
  intro s m g f d a h
  refine ⟨fun hg hd => ⟨?_, ?_⟩, fun hg => ⟨?_, ?_⟩⟩
  · exact gives_of rfl h (tagsetT_enabled hg hd.bounds f)
  · exact gives_of rfl h (taggetT_enabled hg hd.bounds)
  · exact exec_of_task rfl h (tagsetT_disabled hg f) rfl rfl
  · exact exec_of_task rfl h (taggetT_disabled hg) rfl rfl

end Sys2Proof.Machine
end

section
/-! SUPPORT. Taking an exception of a task in no gang and no region (09 R165 to R168, R173): the lowest free entry of a fault
buffer, the route of R166, and what the stop record says where the halt line is up already. -/

namespace Sys2Proof.Machine

/-! ### The lowest free entry of a fault buffer (15 R288) -/

theorem Mach.firstFault_eq_some {m : Mach} {part k : Nat} {p : Option FaultEnt → Bool} (hk : p (m.faultAt part k) = true) :
    ∀ n i, i ≤ k → k < i + n → (∀ j, i ≤ j → j < k → p (m.faultAt part j) = false) → m.firstFault part p i n = some k
  | 0, i, h1, h2, _ => by omega
  | n + 1, i, h1, h2, h => by
    rw [Mach.firstFault]
    rcases h1.eq_or_lt with rfl | hlt
    · rw [if_pos hk]
    · rw [if_neg (by simp [h i le_rfl hlt])]
      exact Mach.firstFault_eq_some hk n (i + 1) hlt (by omega) fun j hj => h j (by omega)

theorem Mach.firstFault_eq_none {m : Mach} {part : Nat} {p : Option FaultEnt → Bool} :
    ∀ n i, (∀ j, i ≤ j → j < i + n → p (m.faultAt part j) = false) → m.firstFault part p i n = none
  | 0, _, _ => rfl
  | n + 1, i, h => by
    rw [Mach.firstFault, if_neg (by simp [h i le_rfl (by omega)])]
    exact Mach.firstFault_eq_none n (i + 1) fun j hj hj' => h j (by omega) (by omega)

/-- Entry i is the lowest free one of a partition's fault buffer. -/
def Mach.LowestFree (m : Mach) (part i : Nat) : Prop :=
  i < 4096 ∧ m.faultAt part i = none ∧ ∀ j, j < i → m.faultAt part j ≠ none

theorem Mach.LowestFree.firstFault {m : Mach} {part i : Nat} (h : m.LowestFree part i) :
    m.firstFault part Option.isNone 0 4096 = some i := by
  obtain ⟨hi, hfree, hheld⟩ := h
  refine Mach.firstFault_eq_some (by rw [hfree]; rfl) 4096 0 i.zero_le (by omega) fun j _ hj => ?_
  exact Option.isNone_eq_false_iff.mpr (Option.isSome_iff_ne_none.mpr (hheld j hj))

theorem Mach.firstFault_full {m : Mach} {part : Nat} (h : ∀ i, i < 4096 → m.faultAt part i ≠ none) :
    m.firstFault part Option.isNone 0 4096 = none :=
  Mach.firstFault_eq_none 4096 0 fun j _ hj =>
    Option.isNone_eq_false_iff.mpr (Option.isSome_iff_ne_none.mpr (h j (by omega)))

/-- An entry put into a partition's fault buffer stands there. -/
theorem Mach.faultAt_put {m m1 : Mach} {part i : Nat} {f : FaultEnt}
    (h : m1.faults = Tab.put none m.faults (4096 * part + i) (some f)) : m1.faultAt part i = some f := by
  rw [Mach.faultAt, h, Tab.look_put, if_pos rfl]

/-! ### The route (R166, R167) -/

/-- The task as its trap takes its route, outside a gang and a region. -/
def Task.trapped (t : Task) : Task := { t with regang := 0, answered := false }

/-- The chip with the task in focus so. -/
def Mach.trapped (m : Mach) : Mach := { m with t := m.t.trapped }

section
variable {m : Mach} (hr : m.t.region = none) (hf : m.t.fol = []) {code : Nat} {addr : Word} {cause acc : Nat}
include hr hf

theorem Task.trapped_eq : { m.t.aborted abFault with fol := [], regang := 0, answered := false } = m.t.trapped := by
  rw [Task.aborted, hr]
  simp only [Task.trapped, hf]

/-- The route of a trap of the task itself by the handler's state and the code. -/
theorem Mach.takeRoute_eq : m.takeRoute code addr 0 cause acc =
    if m.t.ctl.trapCode.inH then m.trapped.haltRoute m.t.gid code addr 0 code
    else match route code with
      | .handler =>
        if m.t.ctl.trapVec.getLsbD 0 then { m with t := m.t.trapped.deliver code addr 0 }
        else if m.t.kind = .producer then
          m.orWait ((m.trapped.release m.t.gid m.t.core .dv).endProducer m.t.gid (some code))
        else m.trapped.haltRoute m.t.gid code addr 0 code
      | .kernel => m.trapped.kernelRoute code addr cause acc
      | .halt => m.trapped.haltRoute m.t.gid code addr 0 code := by
  rw [Mach.takeRoute, Task.trapped_eq hr hf]
  rfl

/-- Delivery to the handler, outside a handler and with one enabled (R167). -/
theorem Mach.takeRoute_handler (hin : m.t.ctl.trapCode.inH = false) (hc : route code = .handler)
    (hv : m.t.ctl.trapVec.getLsbD 0 = true) :
    m.takeRoute code addr 0 cause acc = { m with t := m.t.trapped.deliver code addr 0 } := by
  simp [Mach.takeRoute_eq hr hf, hin, hc, hv]

/-- The kernel's route, outside a handler. -/
theorem Mach.takeRoute_kernel (hin : m.t.ctl.trapCode.inH = false) (hc : route code = .kernel) :
    m.takeRoute code addr 0 cause acc = m.trapped.kernelRoute code addr cause acc := by
  simp [Mach.takeRoute_eq hr hf, hin, hc]

/-- The halt route: of a trap inside a handler, of a code of that route, and of one for a handler that is not enabled in a task that
is no producer (R166, R167). -/
theorem Mach.takeRoute_halt (h : m.t.ctl.trapCode.inH = true ∨ route code = .halt ∨
    route code = .handler ∧ m.t.ctl.trapVec.getLsbD 0 = false ∧ m.t.kind ≠ .producer) :
    m.takeRoute code addr 0 cause acc = m.trapped.haltRoute m.t.gid code addr 0 code := by
  rw [Mach.takeRoute_eq hr hf]
  rcases h with hin | hc | ⟨hc, hv, hk⟩
  · rw [if_pos hin]
  · rw [hc]
    exact ite_self _
  · rw [hc, hv]
    simp [hk]

end

theorem route_handler {code : Nat} (h : code ∈ [1, 2, 3, 4, 5, 8, 9, 0xA, 0xB, 0xD, 0x10, 0x13]) : route code = .handler :=
  (by decide : ∀ k ∈ [1, 2, 3, 4, 5, 8, 9, 0xA, 0xB, 0xD, 0x10, 0x13], route k = .handler) code h

theorem route_halt {code : Nat} (h : code = 0x0E ∨ code = 0x0F ∨ code = 0x12) : route code = .halt := by
  rcases h with rfl | rfl | rfl <;> rfl

/-! ### Delivery to the handler (R167) -/

/-- TRAP_VEC.ADDR: the register with its lowest bit, EN, cleared. -/
theorem ofNat_even (x : BitVec 52) : BitVec.ofNat 64 (x.toNat / 2 * 2) = x.setWidth 64 &&& ~~~1 := by
  refine BitVec.eq_of_getLsbD_eq fun i hi => ?_
  have h2 : x.toNat / 2 * 2 = x.toNat / 2 ^ 1 * 2 ^ 1 := by omega
  have h1 : (1 : Word).getLsbD i = decide (i = 0) := by
    rw [show (1 : Word) = 1#64 from rfl, BitVec.getLsbD_one]
    simp
  rw [BitVec.getLsbD_ofNat, h2, Nat.testBit_mul_two_pow, Nat.testBit_div_two_pow, BitVec.getLsbD_and, BitVec.getLsbD_setWidth,
    BitVec.getLsbD_not, h1]
  cases i with
  | zero => simp
  | succ n => simp [hi, BitVec.getLsbD]

/-- A task whose trap is delivered stands at the address of TRAP_VEC, inside the handler. -/
theorem Task.deliver_eq (t : Task) (code : Nat) (addr : Word) : t.deliver code addr 0 = { t with
    pc := t.ctl.trapVec.setWidth 64 &&& ~~~1, npc := t.ctl.trapVec.setWidth 64 &&& ~~~1, passWatch := false, passBreak := false
    ctl := { t.ctl with
      trapPc := t.pc.setWidth 52, trapAddr := addr, trapCode := ⟨true, 0, BitVec.ofNat 8 code⟩ } } := by
  rw [Task.deliver, ofNat_even]
  rfl

/-! ### The halt route (R166, R168, R170) -/

/-- The line of a context is up once raised. -/
theorem Mach.line_raiseLine (m : Mach) (c : Nat) (dbg : Bool) (o : Option Gid) : ((m.raiseLine c dbg o).ctx c).halt.line = true := by
  rw [Mach.raiseLine, Mach.ctx_setCtx, if_pos rfl]
  split
  · assumption
  · rfl

theorem Mach.line_haltError (m : Mach) (c d : Nat) (r : ErrRec) : ((m.haltError c r).ctx d).halt.line = (m.ctx d).halt.line := by
  rw [Mach.haltError, Mach.ctx_setCtx]
  split
  · next h => subst h; rfl
  · rfl

/-- A task whose trap has taken the halt route: its trap registers but for IN, and what its stop record will say (R166, R168). -/
def Task.stoppedBy (t : Task) (code : Nat) (addr : Word) : Task :=
  { t.record code addr 0 with
    phase := .ready, stop := some ⟨0, code, addr, t.pc⟩, pc := if code = brkTrap then t.npc else t.pc
    passWatch := if code = watchTrap then true else t.passWatch }

/-- m1 is a chip whose task in focus has become t by a trap on the halt route. -/
structure Mach.HaltsAs (m : Mach) (t : Task) (m1 : Mach) : Prop where
  t : m1.t = t
  line : (m1.ctx m.cur).halt.line = true
  mem : m1.mem = m.mem
  others : ∀ q ∈ m.others, q.gid ≠ m.t.gid → q ∈ m1.others

/-- The halt route of the task in focus: the line is raised, and at most an error record is to be written. -/
theorem Mach.haltRoute_eq (m : Mach) (code : Nat) (addr : Word) : ∃ r, m.haltRoute m.t.gid code addr 0 code =
    if quietCode code then (m.mapTask m.t.gid (·.stoppedBy code addr)).raiseLine m.cur false (some m.t.gid)
    else ((m.mapTask m.t.gid (·.stoppedBy code addr)).raiseLine m.cur false (some m.t.gid)).haltError m.cur r := ⟨_, rfl⟩

theorem Mach.haltsAs_haltRoute {m : Mach} (hp : m.t.phase = .ready) (code : Nat) (addr : Word) :
    m.HaltsAs (m.t.stoppedBy code addr) (m.haltRoute m.t.gid code addr 0 code) := by
  obtain ⟨r, he⟩ := m.haltRoute_eq code addr
  have h : m.HaltsAs (m.t.stoppedBy code addr)
      ((m.mapTask m.t.gid (·.stoppedBy code addr)).raiseLine m.cur false (some m.t.gid)) :=
    ⟨if_pos ⟨rfl, by rw [hp]; nofun⟩, Mach.line_raiseLine _ _ _ _, rfl, fun q hq hg => Mach.mem_others_mapTask _ hq hg⟩
  rw [he]
  split
  · exact h
  · exact ⟨h.t, (Mach.line_haltError _ _ _ _).trans h.line, h.mem, h.others⟩

/-! ### The kernel's route (R166, 15 R288) -/

/-- The entry that a fault of the task in focus is in the fault buffer (15 R288). -/
def Mach.newFault (m : Mach) (va access cause : Nat) : FaultEnt :=
  { va := va, ctx := m.cur, access := access, cause := cause, waiters := 1, task := m.t.gid, time := m.cycle, tasks := [m.t.gid] }

section
variable {m : Mach} {code : Nat} {addr : Word} {cause acc : Nat}

/-- TBL_EXHAUST and SYSC take an entry of their own. -/
theorem Mach.enterTrap_free {i : Nat} (h : m.LowestFree (m.ctx m.cur).part i) (w : Wait) : m.enterTrap code addr w = { m with
    t := { m.t with phase := .waiting w }, irqs := m.irqs ++ [(5, m.cur)]
    faults := Tab.put none m.faults (4096 * (m.ctx m.cur).part + i) (some (m.newFault (addr.toNat / 65536 * 65536) 0 code)) } := by
  rw [Mach.enterTrap, ← Mach.cur, h.firstFault]
  rfl

theorem Mach.enterTrap_full (h : ∀ i, i < 4096 → m.faultAt (m.ctx m.cur).part i ≠ none) (w : Wait) : m.enterTrap code addr w =
    { m with t := { m.t with phase := .waiting (.fault (m.ctx m.cur).part 4096 code addr) } } := by
  rw [Mach.enterTrap, ← Mach.cur, Mach.firstFault_full h]

/-- What a task waits for whose TBL_EXHAUST or SYSC has its entry (R178, R466). -/
def trapWait (code : Nat) (addr : Word) : Wait := if code = 0x0C then .tbl addr else .sysc addr.toNat

theorem Mach.kernelRoute_trap (h : code = 0x0C ∨ code = 0x14) :
    m.kernelRoute code addr cause acc = m.enterTrap code addr (trapWait code addr) := by
  rcases h with rfl | rfl <;> rfl

section
variable (hc : code = 6 ∨ code = 7)
  (hn : m.pendingFault (m.ctx m.cur).part m.cur (addr.toNat / 65536 * 65536) cause = none)
include hc hn

/-- A PAGE_FAULT or a PROT that joins no pending entry takes a new one (15 R288). -/
theorem Mach.kernelRoute_fault_free {i : Nat} (h : m.LowestFree (m.ctx m.cur).part i) : m.kernelRoute code addr cause acc = { m with
    t := { m.t with phase := .waiting (.fault (m.ctx m.cur).part i code addr) }
    faults := Tab.put none m.faults (4096 * (m.ctx m.cur).part + i) (some (m.newFault (addr.toNat / 65536 * 65536) acc cause)) } := by
  have he : m.enterFault m.cur addr cause acc (some m.t.gid) none = (i, { m with
      faults := Tab.put none m.faults (4096 * (m.ctx m.cur).part + i) (some (m.newFault (addr.toNat / 65536 * 65536) acc cause)) }) := by
    simp only [Mach.enterFault, hn, h.firstFault]
    rfl
  rcases hc with rfl | rfl <;> (rw [Mach.kernelRoute, ← Mach.cur, he]; rfl)

theorem Mach.kernelRoute_fault_full (h : ∀ i, i < 4096 → m.faultAt (m.ctx m.cur).part i ≠ none) :
    m.kernelRoute code addr cause acc =
      { m with t := { m.t with phase := .waiting (.fault (m.ctx m.cur).part 4096 code addr) } } := by
  have he : m.enterFault m.cur addr cause acc (some m.t.gid) none = (4096, m) := by
    simp only [Mach.enterFault, hn, Mach.firstFault_full h]
  rcases hc with rfl | rfl <;> (rw [Mach.kernelRoute, ← Mach.cur, he]; rfl)

end

end

theorem route_kernel {code : Nat} (h : code = 0x0C ∨ code = 0x14 ∨ code = 6 ∨ code = 7) : route code = .kernel := by
  rcases h with rfl | rfl | rfl | rfl <;> rfl

section
variable {m : Mach} (hr : m.t.region = none) (hf : m.t.fol = []) (hin : m.t.ctl.trapCode.inH = false) {code : Nat} {addr : Word}
  {cause acc : Nat}
include hr hf hin

/-- The route of a TBL_EXHAUST or a SYSC outside a handler, where the buffer has a free entry and where it has none. -/
theorem Mach.takeRoute_trap_free (hc : code = 0x0C ∨ code = 0x14) {i : Nat} (h : m.LowestFree (m.ctx m.cur).part i) :
    m.takeRoute code addr 0 cause acc = { m with
      t := { m.t.trapped with phase := .waiting (trapWait code addr) }, irqs := m.irqs ++ [(5, m.cur)]
      faults := Tab.put none m.faults (4096 * (m.ctx m.cur).part + i) (some (m.newFault (addr.toNat / 65536 * 65536) 0 code)) } :=
  (Mach.takeRoute_kernel hr hf hin (route_kernel (by omega))).trans
    ((Mach.kernelRoute_trap hc).trans (Mach.enterTrap_free (m := m.trapped) h _))

theorem Mach.takeRoute_trap_full (hc : code = 0x0C ∨ code = 0x14) (h : ∀ i, i < 4096 → m.faultAt (m.ctx m.cur).part i ≠ none) :
    m.takeRoute code addr 0 cause acc =
      { m with t := { m.t.trapped with phase := .waiting (.fault (m.ctx m.cur).part 4096 code addr) } } :=
  (Mach.takeRoute_kernel hr hf hin (route_kernel (by omega))).trans
    ((Mach.kernelRoute_trap hc).trans (Mach.enterTrap_full (m := m.trapped) h _))

/-- The route of a PAGE_FAULT or a PROT outside a handler that joins no pending entry, likewise. -/
theorem Mach.takeRoute_fault_free (hc : code = 6 ∨ code = 7)
    (hn : m.pendingFault (m.ctx m.cur).part m.cur (addr.toNat / 65536 * 65536) cause = none) {i : Nat}
    (h : m.LowestFree (m.ctx m.cur).part i) : m.takeRoute code addr 0 cause acc = { m with
      t := { m.t.trapped with phase := .waiting (.fault (m.ctx m.cur).part i code addr) }
      faults := Tab.put none m.faults (4096 * (m.ctx m.cur).part + i)
        (some (m.newFault (addr.toNat / 65536 * 65536) acc cause)) } :=
  (Mach.takeRoute_kernel hr hf hin (route_kernel (by omega))).trans (Mach.kernelRoute_fault_free (m := m.trapped) hc hn h)

theorem Mach.takeRoute_fault_full (hc : code = 6 ∨ code = 7)
    (hn : m.pendingFault (m.ctx m.cur).part m.cur (addr.toNat / 65536 * 65536) cause = none)
    (h : ∀ i, i < 4096 → m.faultAt (m.ctx m.cur).part i ≠ none) : m.takeRoute code addr 0 cause acc =
      { m with t := { m.t.trapped with phase := .waiting (.fault (m.ctx m.cur).part 4096 code addr) } } :=
  (Mach.takeRoute_kernel hr hf hin (route_kernel (by omega))).trans (Mach.kernelRoute_fault_full (m := m.trapped) hc hn h)

end

/-! ### Where the line is up already (R173) -/

/-- A halt of the context of the task in focus is in progress. -/
def Mach.haltOpen (m : Mach) : Bool := (m.ctx m.cur).halt.line && !(m.ctx m.cur).halt.complete

theorem Mach.raise_eq (m : Mach) (code : Nat) (addr : Word) (member cause acc : Nat) : m.raise code addr member cause acc =
    if m.haltOpen then (m.takeRoute code addr member cause acc).mapTask m.t.gid (·.stopsWith ⟨0, code, addr, m.t.pc⟩)
    else m.takeRoute code addr member cause acc := rfl

theorem Mach.haltOpen_of_down {m : Mach} (h : (m.ctx m.cur).halt.line = false) : m.haltOpen = false := by
  rw [Mach.haltOpen, h, Bool.false_and]

/-- Outside a halt a trap takes its route and nothing else happens. -/
theorem Mach.raise_of_closed {m : Mach} (h : m.haltOpen = false) (code : Nat) (addr : Word) (member cause acc : Nat) :
    m.raise code addr member cause acc = m.takeRoute code addr member cause acc := by
  rw [Mach.raise_eq, h]
  rfl

section
variable {m m0 : Mach} {code : Nat} {addr : Word} {member cause acc : Nat} (h : m.takeRoute code addr member cause acc = m0)
include h

/-- Beyond its route a trap changes what the task's stop record will say, and nothing of the chip but tasks. -/
theorem Mach.raise_frame : ∃ l,
    m.raise code addr member cause acc = { m0 with t := (m.raise code addr member cause acc).t, others := l } ∧
    ∀ q ∈ m0.others, q.gid ≠ m.t.gid → q ∈ l := by
  rw [Mach.raise_eq, h]
  split
  · exact ⟨_, rfl, fun q hq hg => Mach.mem_others_mapTask _ hq hg⟩
  · exact ⟨_, rfl, fun q hq _ => hq⟩

theorem Mach.raise_t (hg : m0.t.gid = m.t.gid) (hp : m0.t.phase ≠ .ended) : (m.raise code addr member cause acc).t =
    { m0.t with stop := if m.haltOpen then some (m0.t.stop.getD ⟨0, code, addr, m.t.pc⟩) else m0.t.stop } := by
  rw [Mach.raise_eq, h]
  split
  · exact if_pos ⟨hg, hp⟩
  · rfl

end

section
variable {m : Mach} (hr : m.t.region = none) (hf : m.t.fol = []) (hp : m.t.phase = .ready) {code : Nat} {addr : Word} {cause acc : Nat}
include hr hf hp

/-- Taking an exception on the halt route. -/
theorem Mach.haltsAs_raise (h : m.t.ctl.trapCode.inH = true ∨ route code = .halt ∨
    route code = .handler ∧ m.t.ctl.trapVec.getLsbD 0 = false ∧ m.t.kind ≠ .producer) :
    m.HaltsAs (m.t.trapped.stoppedBy code addr) (m.raise code addr 0 cause acc) := by
  have hh : m.trapped.HaltsAs (m.t.trapped.stoppedBy code addr) (m.trapped.haltRoute m.t.gid code addr 0 code) :=
    Mach.haltsAs_haltRoute (m := m.trapped) hp code addr
  have h0 : m.takeRoute code addr 0 cause acc = _ := Mach.takeRoute_halt hr hf h
  obtain ⟨l, hl, ho⟩ := Mach.raise_frame h0
  have ht := Mach.raise_t h0 (by rw [hh.t]; rfl) (by rw [hh.t]; nofun)
  refine ⟨ht.trans ?_, ?_, ?_, fun q hq hg => ?_⟩
  · rw [hh.t]
    exact congrArg (fun x => { m.t.trapped.stoppedBy code addr with stop := x }) (ite_self _)
  · rw [hl]
    exact hh.line
  · rw [hl]
    exact hh.mem
  · rw [hl]
    exact ho q (hh.others q hq hg) hg

end

/-- Taking an exception on the kernel's route: the task waits as the route says (R166). -/
theorem Mach.raise_waits {m m0 : Mach} {code : Nat} {addr : Word} {member cause acc : Nat} {w : Wait}
    (h : m.takeRoute code addr member cause acc = m0) (ht : m0.t = { m.t.trapped with phase := .waiting w }) :
    (m.raise code addr member cause acc).t = { m.t with
      phase := .waiting w, regang := 0, answered := false
      stop := if m.haltOpen then some (m.t.stop.getD ⟨0, code, addr, m.t.pc⟩) else m.t.stop } := by
  rw [Mach.raise_t h (by rw [ht]; rfl) (by rw [ht]; nofun), ht]
  rfl

end Sys2Proof.Machine
end

section
/-! PROOFS. O28: taking an exception. -/

namespace Sys2Proof.Machine

/-- Settles O28: the route of the trap (`takeRoute_handler`, `haltsAs_raise`, `takeRoute_kernel`), and beside it what the stop record
says where the line is up already (`raise_t`, `raise_waits`). -/
theorem trapEntry : Obligations.TrapEntry := by
  unfold Obligations.TrapEntry
  intro m code addr cause acc hr hf hp _ _ c pc52 m1 up noted toHandler halts part free full waits
  have halted (h : c.trapCode.inH = true ∨ route code = .halt ∨
      route code = .handler ∧ c.trapVec.getLsbD 0 = false ∧ m.t.kind ≠ .producer) : halts := by
    have hh : m.HaltsAs (m.t.trapped.stoppedBy code addr) m1 := Mach.haltsAs_raise hr hf hp h
    exact ⟨by rw [hh.t]; rfl, hh.line, by rw [hh.t]; rfl, hh.mem, hh.others⟩
  have waited {m0 : Mach} {w : Wait} (h0 : m.takeRoute code addr 0 cause acc = m0)
      (ht : m0.t = { m.t.trapped with phase := .waiting w }) (hm : m0.mem = m.mem) :
      waits w ∧ m1.faults = m0.faults ∧ m1.irqs = m0.irqs := by
    obtain ⟨l, hl, -⟩ := Mach.raise_frame h0
    have h1 : m1 = { m0 with t := m1.t, others := l } := hl
    exact ⟨⟨Mach.raise_waits h0 ht, by rw [h1]; exact hm⟩, by rw [h1], by rw [h1]⟩
  refine ⟨fun hc hv hin => ?_, fun hin => halted (.inl hin), fun hc => halted (.inr (.inl (route_halt hc))),
    fun hc hv _ hk => halted (.inr (.inr ⟨route_handler hc, hv, hk⟩)), fun hc hin => ⟨fun i hi => ?_, fun hi => ?_⟩,
    fun hc hin hn => ⟨fun i hi => ?_, fun hi => ?_⟩⟩
  · have h0 := Mach.takeRoute_handler hr hf (addr := addr) (cause := cause) (acc := acc) hin (route_handler hc) hv
    rw [Task.deliver_eq] at h0
    have ht := Mach.raise_t h0 rfl (by exact hp ▸ nofun)
    have h1 (hup : m.haltOpen = false) : m1 = { m with t := m1.t } := by
      rw [show m1 = _ from (Mach.raise_of_closed hup code addr 0 cause acc).trans h0]
    exact ⟨ht, fun hup => (h1 hup).trans (congrArg (fun t => { m with t := t }) ht)⟩
  · obtain ⟨hw, hfa, hirq⟩ := waited (Mach.takeRoute_trap_free hr hf hin hc hi) rfl rfl
    exact ⟨hw, by rw [hirq]; exact List.mem_append_right _ (List.mem_singleton_self _), _, Mach.faultAt_put hfa,
      rfl, rfl, rfl, rfl, rfl⟩
  · obtain ⟨hw, hfa, -⟩ := waited (Mach.takeRoute_trap_full hr hf hin hc hi) rfl rfl
    exact ⟨hw, hfa⟩
  · obtain ⟨hw, hfa, -⟩ := waited (Mach.takeRoute_fault_free hr hf hin hc hn hi) rfl rfl
    exact ⟨hw, _, Mach.faultAt_put hfa, rfl, rfl, rfl, rfl, rfl, rfl, rfl⟩
  · obtain ⟨hw, hfa, -⟩ := waited (Mach.takeRoute_fault_full hr hf hin hc hn hi) rfl rfl
    exact ⟨hw, hfa⟩

end Sys2Proof.Machine
end

section
/-! PROOFS. O29: TRAP, SYSC, BRK and the return from a handler. -/

namespace Sys2Proof.Machine

theorem exec_rfe (s : State) : exec .rfe s = issueT (.abort abForbidden) rfeT s := rfl

/-- BRK in a context that is not sealed stops with its trap (24 R416). -/
theorem brkM_open {m : Mach} (h : (m.ctx m.cur).isSealed = false) (k : Nat) :
    brkM k m = .error (.trap brkTrap (BitVec.ofNat 64 k) 0) := by
  simp [brkM, h]

/-- BRK in a sealed context is NOP. -/
theorem brkM_sealed {m : Mach} (h : (m.ctx m.cur).isSealed = true) (k : Nat) : brkM k m = .ok m := if_pos h

/-- TRAP and SYSC raise their traps and do nothing else (R178). -/
theorem traps_trap {s : State} (h : s.plain) (k : Nat) : Traps (.trap k) s 0x13 (BitVec.ofNat 64 k) := traps_of_task rfl h rfl

theorem traps_sysc {s : State} (h : s.plain) (k : Nat) : Traps (.sysc k) s 0x14 (BitVec.ofNat 64 k) := traps_of_task rfl h rfl

theorem traps_brk {s : State} (h : s.plain) (hs : (s.m.ctx s.m.cur).isSealed = false) (k : Nat) :
    Traps (.brk k) s 0x0F (BitVec.ofNat 64 k) := traps_of rfl h (brkM_open hs k)

section
variable {t : Task}

/-- RFE outside a handler (R179). -/
theorem rfeT_outside (h : t.ctl.trapCode.inH = false) : rfeT t = .error (.trap 0x01 t.pc 0) := by
  rw [rfeT, h]
  rfl

/-- RFE inside a handler by the lowest bit of TRAP_PC (R179). -/
theorem rfeT_inside (h : t.ctl.trapCode.inH = true) : rfeT t =
    if t.ctl.trapPc.getLsbD 0 then .error (.trap 0x05 (t.ctl.trapPc.setWidth 64) 0)
    else .ok { t with
      ctl := { t.ctl with trapCode := { t.ctl.trapCode with inH := false } }, npc := t.ctl.trapPc.setWidth 64 } := by
  have hb : (t.ctl.trapPc.setWidth 64).getLsbD 0 = t.ctl.trapPc.getLsbD 0 := by simp
  rw [rfeT, h, BitVec.ofNat_toNat, ← hb]
  rfl

end

/-- Settles O29: TRAP, SYSC and BRK by the trap each raises (`traps_trap`, `traps_sysc`, `traps_brk`) and its route, and RFE by
the handler's state and TRAP_PC (`rfeT_inside`, `rfeT_outside`). -/
theorem trapInstructions : Obligations.TrapInstructions := by
  unfold Obligations.TrapInstructions
  intro s k h t c idle down part
  have hr := h.1
  have routed {i : Instr} {code : Nat} (hx : Traps i s code (BitVec.ofNat 64 k)) (hd : down) :
      exec i s = .next { s with m := s.m.takeRoute code (BitVec.ofNat 64 k) 0 0 0 } := by
    rw [hx, Mach.raise_of_closed (Mach.haltOpen_of_down hd)]
  refine ⟨fun hf _ hd hv hin => ?_, fun hf hk hd hin => ⟨fun i hi hfree hheld => ?_, fun hfull => ?_⟩, fun hs => ?_,
    fun hf _ hs hd => ?_, fun hin he => ?_, fun hin ho => ?_, fun hin => ?_⟩
  · rw [routed (traps_trap h k) hd, Mach.takeRoute_handler hr hf hin rfl hv, Task.deliver_eq]
    rfl
  · have hw : trapWait 0x14 (BitVec.ofNat 64 k) = .sysc k :=
      congrArg Wait.sysc ((BitVec.toNat_ofNat k 64).trans (Nat.mod_eq_of_lt hk))
    have hx := routed (traps_sysc h k) hd
    rw [Mach.takeRoute_trap_free hr hf hin (.inr rfl) ⟨hi, hfree, hheld⟩, hw] at hx
    exact ⟨_, hx, rfl, _, Mach.faultAt_put rfl, rfl, rfl, rfl, rfl⟩
  · rw [routed (traps_sysc h k) hd, Mach.takeRoute_trap_full hr hf hin (.inr rfl) hfull]
    rfl
  · exact issue_ok hr (brkM_sealed hs k) hr (ready_not_held h.2) (fits_of_ctxs rfl _)
  · have hh : s.m.HaltsAs _ _ := Mach.haltsAs_raise hr hf h.2 (addr := BitVec.ofNat 64 k) (cause := 0) (acc := 0)
      (.inr (.inl (rfl : route 0x0F = .halt)))
    exact ⟨_, traps_brk h hs k, hh.line, by rw [hh.t]; rfl, by rw [hh.t]; rfl, by rw [hh.t]; rfl, hh.mem, by rw [hh.t]; rfl⟩
  · exact (exec_rfe s).trans (issueT_ok h ((rfeT_inside hin).trans (if_neg (Bool.eq_false_iff.mp he))) hr h.2)
  · exact traps_of_task (exec_rfe s) h ((rfeT_inside hin).trans (if_pos ho))
  · exact traps_of_task (exec_rfe s) h (rfeT_outside hin)

end Sys2Proof.Machine
end

section
/-! PROOFS. O30: HALT, TLBINV, WMARK and PREF. -/

namespace Sys2Proof.Machine

/-! ### The instructions by their effects -/

theorem exec_halt (s : State) : exec .halt s = issue (.abort abForbidden) haltM s := rfl
theorem exec_wmark (d : Opnd) (s : State) : exec (.wmark d) s = issue (.abort abForbidden) (wmarkM d) s := rfl
theorem exec_tlbinv (m : Option XMod) (a : Option Opnd) (s : State) :
    exec (.tlbinv m a) s = issue (.abort abForbidden) (tlbinvM m a) s := rfl
theorem exec_pref (m : Option XMod) (k : PrefKind) (a : Opnd) (s : State) :
    exec (.pref m k a) s = issue (.abort abForbidden) (prefM m k a) s := rfl

/-- An effect that appends nothing to a context's log fits into it. -/
theorem fits_of_nextSeq {m m1 : Mach} {c : Nat} (h : (m1.ctx c).silt.nextSeq = (m.ctx c).silt.nextSeq) : m.fits m1 c = true := by
  simp [Mach.fits, h]

/-! ### Translations dropped (R182) -/

/-- An entry of a table changed under every key of a list holds the change once, whether the list repeats the key or not. -/
theorem Tab.look_foldl_upd {α : Type} [DecidableEq α] (d : α) {f : α → α} (hf : ∀ x, f (f x) = f x) (j : Nat) :
    ∀ (ks : List Nat) (t : Tab α), Tab.look d (ks.foldl (fun t k => Tab.upd d t k f) t) j =
      if j ∈ ks then f (Tab.look d t j) else Tab.look d t j
  | [], t => by simp
  | k :: ks, t => by
    rw [List.foldl_cons, Tab.look_foldl_upd d hf j ks, Tab.upd, Tab.look_put]
    by_cases hk : j = k
    · subst hk
      simp [hf]
    · simp [hk]

theorem tlbDrop_idem (l : List TlbEnt) (c : Nat) (a : Option Nat) : tlbDrop (tlbDrop l c a) c a = tlbDrop l c a := by
  simp [tlbDrop]

/-- A cluster of the context's partition has lost the translations that an invalidation drops, in its own TLB and its die's. -/
theorem Mach.dropTlb_cluster {m : Mach} {c cl : Nat} (h : cl ∈ (m.partOf c).clusters) (a : Option Nat) :
    Tab.look [] (m.dropTlb c a).tlb cl = tlbDrop (Tab.look [] m.tlb cl) c a ∧
    Tab.look [] (m.dropTlb c a).dtlb (cl / 128) = tlbDrop (Tab.look [] m.dtlb (cl / 128)) c a :=
  ⟨(Tab.look_foldl_upd [] (fun l => tlbDrop_idem l c a) cl _ _).trans (if_pos h),
    (Tab.look_foldl_upd [] (fun l => tlbDrop_idem l c a) _ _ _).trans (if_pos (List.mem_map_of_mem h))⟩

/-- Every translation of the context goes where no address is named. -/
theorem tlbDrop_none (l : List TlbEnt) (c : Nat) : tlbDrop l c none = l.filter fun e => !(e.ctx == c && true) := by
  simp [tlbDrop, bne]

/-- Those that hold the address go where one is. -/
theorem tlbDrop_some (l : List TlbEnt) (c x : Nat) :
    tlbDrop l c (some x) = l.filter fun e => !(e.ctx == c && (decide (e.va ≤ x) && decide (x < e.va + e.size))) := by
  simp [tlbDrop, bne]

/-- The task in focus parked until its invalidation is acknowledged. -/
def Mach.parkedTlb (m : Mach) : Mach := { m with t := { m.t with phase := .parked .tlb } }

section
variable {m : Mach} {mod : Option XMod} {a : Opnd}

theorem tlbinvM_all : tlbinvM mod none m = .ok (m.dropTlb m.cur none).parkedTlb := rfl

theorem tlbinvM_one (hb : m.t.bounds [a] = .ok ()) (ha : m.t.raw mod a = .ok (m.t.val a)) :
    tlbinvM mod (some a) m = .ok (m.dropTlb m.cur (some (m.t.val a).toNat)).parkedTlb := by
  simp [tlbinvM, hb, ha, bind, Except.bind, Mach.parkedTlb]

/-! ### Hints (23 R410) -/

theorem prefM_line (hb : m.t.bounds [a] = .ok ()) (ha : m.t.raw mod a = .ok (m.t.val a)) : prefM mod .line a m = .ok m := by
  simp [prefM, hb, ha, bind, Except.bind]

/-- A page prefetched fills TLBs at most. -/
theorem prefM_page (hb : m.t.bounds [a] = .ok ()) (ha : m.t.raw mod a = .ok (m.t.val a)) :
    ∃ near far, prefM mod .page a m = .ok { m with tlb := near, dtlb := far } := by
  simp only [prefM, hb, ha, bind, Except.bind]
  split
  · next hr => exact ⟨_, _, congrArg Except.ok (Mach.reach_frame hr)⟩
  · exact ⟨_, _, rfl⟩

/-! ### Halts and markers (R181, 23 R409) -/

/-- The line of a context that is down, raised (R170). -/
theorem Mach.ctx_raiseLine {m : Mach} {c : Nat} (h : (m.ctx c).halt.line = false) (dbg : Bool) (o : Option Gid) (d : Nat) :
    (m.raiseLine c dbg o).ctx d = if d = c then { m.ctx c with
      halt := { line := true, dbg := dbg, origin := o, raisedAt := m.cycle }, stops := [], stopCount := 0 } else m.ctx d := by
  rw [Mach.raiseLine, Mach.ctx_setCtx, h]
  rfl

theorem wmarkM_ok {d : Opnd} (hb : m.t.bounds [d] = .ok ()) : wmarkM d m = .ok
    { m.setCtx m.cur fun x => { x with silt := { x.silt with requests := x.silt.requests ++ [(1, m.t.gid)] } } with
      t := { m.t with phase := .parked (.marker d) } } := by
  simp [wmarkM, hb, bind, Except.bind]

end

/-- Settles O30: each instruction by its effect; TLBINV by what it drops (`dropTlb_cluster`), and a prefetch of a page by
`prefM_page`. -/
theorem systemHints : Obligations.SystemHints := by
  unfold Obligations.SystemHints
  intro s m d a h c drops
  have invalidates (o : Option Opnd) (x : Option Nat) (gone : TlbEnt → Bool) (hm : tlbinvM m o s.m = .ok (s.m.dropTlb c x).parkedTlb)
      (hg : ∀ l, tlbDrop l c x = l.filter fun e => !(e.ctx == c && gone e)) : drops (.tlbinv m o) gone := by
    refine ⟨_, (exec_tlbinv m o s).trans (issue_ok h.1 hm h.1 rfl (fits_of_ctxs rfl _)), rfl, fun cl hcl => ?_⟩
    rw [← hg, ← hg]
    exact Mach.dropTlb_cluster hcl x
  refine ⟨fun hl => ?_, invalidates _ _ _ tlbinvM_all fun l => tlbDrop_none l c, fun hf hraw => ?_, fun hf => ?_, fun hf hraw => ?_⟩
  · have hctx := Mach.ctx_raiseLine hl false (some s.m.t.gid)
    have hfits : s.m.fits (s.m.raiseLine c false (some s.m.t.gid)) c = true := fits_of_silt (by rw [hctx, if_pos rfl])
    refine ⟨_, (exec_halt s).trans (issue_ok h.1 rfl h.1 (ready_not_held h.2) hfits), ?_, ?_, rfl, rfl, rfl, fun c0 hc => ?_⟩
    · exact congrArg (·.halt.line) ((hctx c).trans (if_pos rfl))
    · exact congrArg (·.halt.origin) ((hctx c).trans (if_pos rfl))
    · exact (hctx c0).trans (if_neg hc)
  · exact invalidates _ _ _ (tlbinvM_one hf.bounds (raw_ok (hraw a (by simp)))) fun l => tlbDrop_some l c _
  · have hctx : (s.m.setCtx c fun x => { x with silt := { x.silt with requests := x.silt.requests ++ [(1, s.m.t.gid)] } }).ctx c =
        { s.m.ctx c with silt := { (s.m.ctx c).silt with requests := (s.m.ctx c).silt.requests ++ [(1, s.m.t.gid)] } } := by
      rw [Mach.ctx_setCtx, if_pos rfl]
    have hfits := fits_of_nextSeq (congrArg (·.silt.nextSeq) hctx)
    exact ⟨_, (exec_wmark d s).trans (issue_held h.1 (wmarkM_ok hf.bounds) h.1 rfl hfits), rfl, rfl, congrArg Ctx.silt hctx⟩
  · have ha : s.m.t.raw m a = .ok (s.m.t.val a) := raw_ok (hraw a (by simp))
    obtain ⟨near, far, hp⟩ := prefM_page hf.bounds ha
    exact ⟨(exec_pref m .line a s).trans (issue_ok h.1 (prefM_line hf.bounds ha) h.1 (ready_not_held h.2) (fits_of_ctxs rfl _)),
      _, (exec_pref m .page a s).trans (issue_ok h.1 hp h.1 (ready_not_held h.2) (fits_of_ctxs rfl _)), rfl,
      rfl, rfl, rfl, rfl, rfl, rfl, rfl, rfl, rfl, rfl, rfl, rfl, rfl, rfl⟩

end Sys2Proof.Machine
end

section
/-! PROOFS. O26 and O27: CRR and CRW over the register map. -/

namespace Sys2Proof.Machine

/-! ### The register map (09 R183) -/

theorem exec_crr (d : Opnd) (k : Nat) (s : State) : exec (.crr d k) s = issue .own (crrM d k) s := rfl

/-- The numbers of the control registers that stand alone. -/
def crAloneNumbers : List Nat := List.range 15 ++ [16, 17, 18, 19, 20, 21, 24, 25, 26, 27]

/-- Those, and the numbers of the windows' registers. -/
def crNumbers : List Nat := crAloneNumbers ++ (List.range 12).map (32 + ·)

/-- The control registers that stand alone, with what each reads as. -/
def Mach.crAlone (m : Mach) : List (Nat × Nat) :=
  let c := m.t.ctl
  let y := (m.ctx m.cur).silt
  [(0, m.cur), (1, m.t.gid), (2, m.t.core % 4096 * 16 + m.t.slot % 16), (3, m.t.workId.toNat), (4, c.widShape.toNat),
    (5, c.alloc.toNat), (6, c.viewV.word), (7, c.viewT.word), (8, c.viewC.word), (9, c.fmtMode.toNat), (10, c.fpMode.toNat),
    (11, c.flgEn.toNat), (12, c.fpSup.toNat), (13, m.cycle),
    (14, match m.t.rec_ with | some r => (m.launch m.cur r).energy | none => 0), (16, c.trapPc.toNat), (17, c.trapCode.word),
    (18, c.trapAddr.toNat), (19, c.trapVec.toNat), (20, y.ctlWord), (21, y.winWord), (24, c.wpAddr.toNat), (25, c.wpMask.toNat),
    (26, c.wpCtl.toNat), (27, c.stepCtl.toNat)]

/-- Field f of the four windows of the task's context on its core: BASE, LIM and RIGHTS for 0, 1 and 2. -/
def Mach.crWindows (m : Mach) (f : Nat) : List (Nat × Nat) :=
  (List.range 4).map fun n => (32 + 4 * f + n, (m.window m.cur m.t.core n).word f)

/-- The map of R183 for the task in focus: the number and the value of each control register. -/
def Mach.crMap (m : Mach) : List (Nat × Nat) := m.crAlone ++ m.crWindows 0 ++ m.crWindows 1 ++ m.crWindows 2

theorem Mach.crMap_numbers (m : Mach) : m.crMap.map Prod.fst = crNumbers := rfl

theorem Mach.crRead_alone {m : Mach} {p : Nat × Nat} (h : p ∈ m.crAlone) : m.crRead p.1 = some p.2 := by
  unfold Mach.crAlone at h
  fin_cases h <;> rfl

/-- Beyond those that stand alone there are the windows' registers (10 R185). -/
theorem Mach.crRead_other {m : Mach} {k : Nat} (h : k ∉ crAloneNumbers) : m.crRead k =
    if 32 ≤ k ∧ k < 44 then some ((m.window m.cur m.t.core (k % 4)).word ((k - 32) / 4)) else none := by
  unfold Mach.crRead
  dsimp only
  split
  case h_26 => rfl
  all_goals exact absurd (by decide) h

theorem not_mem_crAloneNumbers {k : Nat} (h : 32 ≤ k) : k ∉ crAloneNumbers := fun hk => by
  have := (by decide : ∀ j ∈ crAloneNumbers, j < 32) k hk
  omega

theorem Mach.crRead_window {m : Mach} {f : Nat} (hf : f < 3) {p : Nat × Nat} (h : p ∈ m.crWindows f) :
    m.crRead p.1 = some p.2 := by
  obtain ⟨n, hn, rfl⟩ := List.mem_map.mp h
  have hn := List.mem_range.mp hn
  have hmod : (32 + 4 * f + n) % 4 = n := by omega
  have hdiv : (32 + 4 * f + n - 32) / 4 = f := by omega
  rw [Mach.crRead_other (not_mem_crAloneNumbers (by omega)), if_pos (by omega), hmod, hdiv]

theorem Mach.crRead_of_mem {m : Mach} {k v : Nat} (h : (k, v) ∈ m.crMap) : m.crRead k = some v := by
  simp only [Mach.crMap, List.mem_append] at h
  obtain ((h | h) | h) | h := h
  · exact Mach.crRead_alone h
  · exact Mach.crRead_window (by decide) h
  · exact Mach.crRead_window (by decide) h
  · exact Mach.crRead_window (by decide) h

/-- The map has no other number. -/
theorem Mach.crRead_eq_none {m : Mach} {k : Nat} (h : k ∉ crNumbers) : m.crRead k = none := by
  rw [crNumbers, List.mem_append, not_or] at h
  obtain ⟨halone, hwin⟩ := h
  rw [Mach.crRead_other halone, if_neg]
  exact fun hk => hwin (List.mem_map.mpr ⟨k - 32, List.mem_range.mpr (by omega), by omega⟩)

/-! ### CRR (R180) -/

section
variable {m : Mach} {d : Opnd} {k : Nat}

theorem crrM_some {v : Nat} (hv : m.crRead k = some v) (hb : m.t.bounds [d] = .ok ()) : crrM d k m =
    .ok { m with t := m.t.wr d (BitVec.ofNat 64 v) (if k = 16 ∨ k = 19 then .addr else .raw) } := by
  simp [crrM, hv, hb, bind, Except.bind]

theorem crrM_none (hv : m.crRead k = none) : crrM d k m = .error (.trap 0x01 m.t.pc 0) := by
  rw [crrM, hv]
  rfl

end

/-- Settles O26: a number of the map reads as the map says (`crRead_of_mem`), and no other reads (`crRead_eq_none`). -/
theorem controlReads : Obligations.ControlReads := by
  unfold Obligations.ControlReads
  intro s d k v h hd t c y bit view win map
  have hmap : map = s.m.crMap := rfl
  rw [hmap]
  refine ⟨fun hk => gives_of_issue (exec_crr d k s) h (crrM_some (Mach.crRead_of_mem hk) hd.bounds), fun hk => ?_⟩
  have hn : k ∉ crNumbers := by
    rw [← s.m.crMap_numbers]
    intro hm
    obtain ⟨p, hp, he⟩ := List.mem_map.mp hm
    exact hk p hp he
  exact traps_of (exec_crr d k s) h (crrM_none (Mach.crRead_eq_none hn))

/-! ### CRW of a window (R180, R183) and the windows of other contexts -/

theorem exec_crw (m : Option XMod) (a : Opnd) (k : Nat) (s : State) :
    exec (.crw m a k) s = issue (.abort abForbidden) (crwM m a k) s := rfl

theorem crwM_base {m : Mach} {mod : Option XMod} {a : Opnd} (hb : m.t.bounds [a] = .ok ()) (ha : m.t.raw mod a = .ok (m.t.val a)) :
    crwM mod a 32 m = .ok (m.putWindow 0 0 (m.t.val a)) := by
  simp [crwM, Mach.crWrite, hb, ha, bind, Except.bind]

theorem Mach.window_putWindow (m : Mach) (n f : Nat) (v : Word) :
    (m.putWindow n f v).window m.cur m.t.core n = (m.window m.cur m.t.core n).put f v := by
  rw [Mach.window, Mach.putWindow, Tab.upd, Tab.look_put, if_pos rfl, Mach.window]

/-- The windows of a core stand in 256 places, one for each context, so a context from number 256 on names the places of the next
core. -/
theorem Mach.window_next_core (m : Mach) (c core n : Nat) : m.window (c + 256) core n = m.window c (core + 1) n := by
  have hk : (core * 256 + (c + 256)) * 4 + n = ((core + 1) * 256 + c) * 4 + n := by omega
  rw [Mach.window, hk, Mach.window]

/-- A task of context 256 on core 0, with 8 in a1. -/
def State.farContext : State := { m := { t := { gid := 256 * 2 ^ 40, img := { regs := [(1, ⟨8, .raw, none⟩)] } } } }

theorem State.farContext_plain : State.farContext.plain := ⟨rfl, rfl⟩

theorem State.farContext_fit : State.farContext.fit [.code 1] := fun j hj => by simp at hj

theorem State.farContext_rawOk : State.farContext.rawOk none [.code 1] := fun o ho => by
  rw [List.mem_singleton.mp ho]
  exact .inr (.inl rfl)

/-- There CRW of a1 to the BASE of window 0 moves window 0 of context 0 on core 1. -/
theorem crw_farContext : ∃ s1, exec (.crw none (.code 1) 32) .farContext = .next s1 ∧ s1.m.window 0 1 0 = { base := 1 } := by
  have hx := crwM_base State.farContext_fit.bounds (raw_ok (State.farContext_rawOk _ (List.mem_singleton_self _)))
  refine ⟨_, (exec_crw _ _ _ _).trans (issue_ok rfl hx rfl rfl (fits_of_ctxs rfl _)), ?_⟩
  rw [← Mach.window_next_core _ 0 0 0]
  exact (Mach.window_putWindow State.farContext.m 0 0 8).trans rfl

/-- Refutes O27: the statement bounds the number of the other context by 256, and not that of the task's own. In context 256 on
core 0 the entry that CRW writes is also window 0 of context 0 on core 1 (`crw_farContext`), which the statement has
stand as it was. -/
theorem not_controlWrites : ¬ Obligations.ControlWrites := by
  unfold Obligations.ControlWrites
  intro h
  obtain ⟨-, -, -, -, -, -, hwindows, -⟩ :=
    h .farContext none (.code 1) 32 State.farContext_plain State.farContext_fit State.farContext_rawOk
  obtain ⟨s1, hx, -, -, hothers⟩ := hwindows 0 0 (by decide) (by decide)
  have hkept : s1.m.window 0 1 0 = {} := hothers 0 1 0 (by decide) (by decide) (by decide)
  obtain ⟨s2, hx', hmoved⟩ := crw_farContext
  obtain rfl : s1 = s2 := Host.Outcome.next.inj (hx.symm.trans hx')
  exact absurd (hkept.symm.trans hmoved) (by decide)

end Sys2Proof.Machine
end

section
/-! PROOFS. O49: halts, stops and the resume. -/

namespace Sys2Proof.Machine

/-- What CONTEXT_RESUME leaves of the error records that the kernel has read: the ring's places hold no more (26 R447). -/
theorem ringPast_contextResume_length_le {c : Nat} {w : KWork} {s s1 : State} (h : exec (.contextResume c w) s = .next s1) :
    s1.sys.ringPast.length ≤ 4096 := by
  obtain rfl : (({ s with m := s.m.resume c w } : State).kernelReads w).flushErrs = s1 := Host.Outcome.next.inj h
  rw [State.ringPast_flushErrs, State.ringPast_kernelReads]
  exact s.sys.ringPast_readErrors_length_le w.errRead

/-- Context 0 halted with its halt complete, beside the error ring of `overfullRing`. -/
def State.haltedOverfull : State :=
  { State.overfullRing with m := { ctxs := [(0, { valid := true, halt := { line := true, complete := true } })] } }

/-- Refutes O49: CONTEXT_RESUME is also where the kernel reads error records, and a read, even of none, drops all but the last 4,096
of those already read. The statement takes any state and has the system die stand as it was, so it fails where 4,097
are listed; it asks for no bound on them. -/
theorem not_haltEvents : ¬ Obligations.HaltEvents := by
  unfold Obligations.HaltEvents
  intro h
  have hready : ∀ t ∈ State.haltedOverfull.m.tasks, t.phase ≠ .parked .commit := fun t ht => by
    rw [List.mem_singleton.mp ht]
    nofun
  obtain ⟨-, -, hresume, -⟩ := h .haltedOverfull 0 rfl rfl (fun _ => rfl) hready
  obtain ⟨⟨s1, hx, ⟨-, hsys⟩, -⟩, -⟩ := hresume rfl rfl rfl rfl rfl rfl rfl
  have hlen := ringPast_contextResume_length_le hx
  rw [hsys, State.haltedOverfull, State.overfullRing, List.length_replicate] at hlen
  exact absurd hlen (by decide)

end Sys2Proof.Machine
end

section
/-! SUPPORT. Where the place of an access is refused (10 R186, 15 R275 to R288), and where LD and ST stop before they perform it
(16 R297, R298). -/

namespace Sys2Proof.Machine

/-! ### Global addresses (15 R283 to R286) -/

section
variable {m m1 : Mach} {c cl : Nat} {va : Word} {e : TlbEnt}

/-- No address of 52 bits or more translates (R283). -/
theorem Mach.reach_beyond (h : 2 ^ 52 ≤ va.toNat) (n acc : Nat) : m.reach c cl va n acc = .error 0 := if_pos h

/-- A leaf that lacks a right of the access refuses it (R286). -/
theorem Mach.reach_denied {acc : Nat} (hva : va.toNat < 2 ^ 52) (ht : m.translate c cl va.toNat = .ok (e, m1))
    (hr : rightsOk e.attr acc = false) (n : Nat) : m.reach c cl va n acc = .error 1 := by
  rw [Mach.reach, if_neg (Nat.not_le.mpr hva), ht]
  simp [hr]

theorem rightsOk_read (attr : Nat) : rightsOk attr accRead = attrBit attr 2 := by simp [rightsOk, accRead]
theorem rightsOk_write (attr : Nat) : rightsOk attr accWrite = attrBit attr 3 := by simp [rightsOk, accWrite]
theorem rightsOk_fetch (attr : Nat) : rightsOk attr accFetch = attrBit attr 4 := by simp [rightsOk, accFetch]

theorem attrBit_eq_false {attr k : Nat} (h : attr / 2 ^ k % 2 = 0) : attrBit attr k = false := by simp [attrBit, h]

end

/-! ### The place of an access (15 R275, R277, R278, 16 R298) -/

/-- The access of a load or a store as R288 codes it. -/
def accessOf (write : Bool) : Nat := if write then accWrite else accRead

/-- The right that a load or a store needs of the owner's windows (R277). -/
def rightOf (write : Bool) : Nat := if write then needW else needR

/-- A fault at a scratchpad address names the access itself (R288). -/
theorem accOf_rightOf (write : Bool) : accOf (rightOf write) = accessOf write := by cases write <;> rfl

section
variable {m m1 : Mach} {c core n : Nat} {a : Word} {write : Bool}

theorem Mach.resolve_global_error {k : Nat} (h : m.reach c (clusterOf core) a n (accessOf write) = .error k) :
    m.resolve c core .g a n write = .error (.xfault k (accessOf write) a 0) := by
  simp only [accessOf] at h
  simp [Mach.resolve, accessOf, h]

theorem Mach.resolve_global_ok {l : Loc} (h : m.reach c (clusterOf core) a n (accessOf write) = .ok (l, m1)) :
    m.resolve c core .g a n write = .ok (l, m1) := by
  simp only [accessOf] at h
  simp [Mach.resolve, h]

/-- A place past the end of the activation or the accumulator buffer, or a malformed scratchpad address (R186, R275). -/
def beyondSpace (core : Nat) (sp : Space) (a : Word) (n : Nat) : Prop :=
  sp = .a ∧ 65536 < a.toNat + n ∨ sp = .c ∧ 32768 < a.toNat + n ∨ sp = .s ∧ scratchOf core a = none

theorem Mach.resolve_beyondSpace {sp : Space} (h : beyondSpace core sp a n) :
    m.resolve c core sp a n write = .error (.xfault 1 (accessOf write) a 0) := by
  obtain ⟨rfl, hlim⟩ | ⟨rfl, hlim⟩ | ⟨rfl, hnone⟩ := h
  · simp [Mach.resolve, reachAC, accessOf, hlim]
  · simp [Mach.resolve, reachAC, accessOf, hlim]
  · have hacc := accOf_rightOf write
    rw [rightOf] at hacc
    simp [Mach.resolve, Mach.reachS, hnone, hacc]

theorem Mach.windowsGrant_eq_false {owner off need : Nat} (h : ∀ i, i < 4 → (m.window c owner i).grants off n need = false) :
    m.windowsGrant c owner off n need = false := by
  simpa [Mach.windowsGrant] using h

/-- Another core's scratchpad outside the partition, or that no window opens (R277, R278). -/
theorem Mach.resolve_closed {owner off : Nat} (hs : scratchOf core a = some (owner, off)) (ho : owner ≠ core)
    (hw : m.ownsCore c owner = false ∨ ∀ i, i < 4 → (m.window c owner i).grants off n (rightOf write) = false) :
    m.resolve c core .s a n write = .error (.trap nackWindow a 0) := by
  have hclosed : (m.ownsCore c owner && m.windowsGrant c owner off n (rightOf write)) = false :=
    Bool.and_eq_false_iff.mpr (hw.imp_right Mach.windowsGrant_eq_false)
  rw [rightOf] at hclosed
  simp [Mach.resolve, Mach.reachS, hs, ho, hclosed]

end

/-! ### The watchpoint (22 R389) -/

/-- An access outside a region that its task's watchpoint covers stops. -/
theorem Task.watchCheck_hit {t : Task} {l : Loc} {n x : Nat} {offs : List Nat} {write : Bool} (hr : t.region = none)
    (hp : t.passWatch = false) (hx : t.watches l offs write = some x) :
    t.watchCheck l n offs write = .error (.watch (BitVec.ofNat 64 x) l.key l.va n) := by
  simp [Task.watchCheck, hr, hp, hx]

/-! ### LD and ST outside a region, up to their access (16 R297, R298) -/

theorem exec_ld (m : Option XMod) (g : Tag) (z : Size) (sp : Space) (d a : Opnd) (s : State) :
    exec (.ld m g z sp d a) s = issue (s.m.ruleMem m sp a) (ldM m sp (sizeBytes z) false g d a) s := rfl
theorem exec_st (m : Option XMod) (z : Size) (sp : Space) (d a : Opnd) (s : State) :
    exec (.st m z sp d a) s = issue (s.m.ruleMem m sp a) (stM m sp (sizeBytes z) d a) s := rfl

/-- The effective address of an operand that reads as raw (R297). -/
theorem Task.effective_eq {t : Task} {mod : Option XMod} {a : Opnd} (ha : t.raw mod a = .ok (t.val a)) (n : Nat) :
    t.effective mod a n = if (t.val a).toNat % n = 0 then .ok (t.val a) else .error (.trap alignTrap (t.val a) 0) := by
  by_cases h : (t.val a).toNat % n = 0 <;> simp [Task.effective, ha, aligned, h, bind, Except.bind]

section
variable {m : Mach} {mod : Option XMod} {sp : Space} {n : Nat} {g : Tag} {d a : Opnd} {zext : Bool} (hb : m.t.bounds [d, a] = .ok ())
  (ha : m.t.raw mod a = .ok (m.t.val a))
include hb ha

theorem ldM_misaligned (hn : (m.t.val a).toNat % n ≠ 0) : ldM mod sp n zext g d a m = .error (.trap alignTrap (m.t.val a) 0) := by
  simp [ldM, hb, Task.effective_eq ha, hn, bind, Except.bind]

theorem stM_misaligned (hn : (m.t.val a).toNat % n ≠ 0) : stM mod sp n d a m = .error (.trap alignTrap (m.t.val a) 0) := by
  simp [stM, hb, Task.effective_eq ha, hn, bind, Except.bind]

theorem ldM_aligned (hr : m.t.region = none) (hn : (m.t.val a).toNat % n = 0) :
    ldM mod sp n zext g d a m = m.loadOut mod sp n zext g d (m.t.val a) := by
  simp [ldM, hb, Task.effective_eq ha, hn, conc_plain hr, hr, bind, Except.bind]

theorem stM_aligned (hr : m.t.region = none) (hn : (m.t.val a).toNat % n = 0) :
    stM mod sp n d a m = m.storeOut mod sp n (m.t.val d) (m.t.val a) := by
  simp [stM, hb, Task.effective_eq ha, hn, conc_plain hr, hr, bind, Except.bind]

end

section
variable {m : Mach} {mod : Option XMod} {sp : Space} {n : Nat} {a : Word} {e : Stop}

theorem Mach.loadOut_unresolved (h : m.resolve m.cur m.t.core sp a n false = .error e) (zext : Bool) (g : Tag) (d : Opnd) :
    m.loadOut mod sp n zext g d a = .error e := by
  simp [Mach.loadOut, h, bind, Except.bind]

theorem Mach.storeOut_unresolved (h : m.resolve m.cur m.t.core sp a n true = .error e) (v : Word) :
    m.storeOut mod sp n v a = .error e := by
  simp [Mach.storeOut, h, bind, Except.bind]

theorem Mach.storeOut_watched {l : Loc} {m1 : Mach} (h : m.resolve m.cur m.t.core sp a n true = .ok (l, m1))
    (hw : m1.t.watchCheck l n (span n) true = .error e) (v : Word) : m.storeOut mod sp n v a = .error e := by
  simp [Mach.storeOut, h, hw, bind, Except.bind]

end

end Sys2Proof.Machine
end

section
/-! PROOFS. O55: where an access stops. -/

namespace Sys2Proof.Machine

section
variable {s : State} {m : Option XMod} {z : Size} {sp : Space} {d a : Opnd} (h : s.ready m [d, a] [a])
include h

/-- A misaligned LD or ST raises ALIGN and does nothing else (16 R297). -/
theorem traps_misaligned (hn : (s.m.t.val a).toNat % sizeBytes z ≠ 0) (g : Tag) :
    Traps (.ld m g z sp d a) s 0x05 (s.m.t.val a) ∧ Traps (.st m z sp d a) s 0x05 (s.m.t.val a) :=
  ⟨traps_of (exec_ld m g z sp d a s) h.plain (ldM_misaligned h.bounds (h.raw (by simp)) hn),
    traps_of (exec_st m z sp d a s) h.plain (stM_misaligned h.bounds (h.raw (by simp)) hn)⟩

section
variable (hn : (s.m.t.val a).toNat % sizeBytes z = 0) {e : Stop}
include hn

/-- An aligned LD whose place is refused stops so. -/
theorem exec_ld_unresolved (he : s.m.resolve s.m.cur s.m.t.core sp (s.m.t.val a) (sizeBytes z) false = .error e) (g : Tag) :
    exec (.ld m g z sp d a) s = .next { s with m := s.m.conclude (.error e) } :=
  (exec_ld m g z sp d a s).trans <| issue_error h.plain.1 <|
    (ldM_aligned h.bounds (h.raw (by simp)) h.plain.1 hn).trans (Mach.loadOut_unresolved he _ _ _)

/-- An aligned ST that stops outside a region, as its effect there does. -/
theorem exec_st_stops (he : s.m.storeOut m sp (sizeBytes z) (s.m.t.val d) (s.m.t.val a) = .error e) :
    exec (.st m z sp d a) s = .next { s with m := s.m.conclude (.error e) } :=
  (exec_st m z sp d a s).trans <| issue_error h.plain.1 <| (stM_aligned h.bounds (h.raw (by simp)) h.plain.1 hn).trans he

/-- An aligned ST whose place is refused stops so. -/
theorem exec_st_unresolved (he : s.m.resolve s.m.cur s.m.t.core sp (s.m.t.val a) (sizeBytes z) true = .error e) :
    exec (.st m z sp d a) s = .next { s with m := s.m.conclude (.error e) } :=
  exec_st_stops h hn (Mach.storeOut_unresolved he _)

end

/-- A watched global ST raises its strike and does nothing else (22 R389): reaching the place changes no task. -/
theorem exec_st_watched (hn : (s.m.t.val a).toNat % sizeBytes z = 0) (hp : s.m.t.passWatch = false) {l : Loc} {m1 : Mach} {x : Nat}
    (hl : s.m.reach s.m.cur (clusterOf s.m.t.core) (s.m.t.val a) (sizeBytes z) accWrite = .ok (l, m1))
    (hx : s.m.t.watches l (span (sizeBytes z)) true = some x) :
    exec (.st m z .g d a) s = .next { s with m := s.m.raiseWatch (BitVec.ofNat 64 x) l.key l.va (sizeBytes z) } := by
  have ht : m1.t = s.m.t := (congrArg Mach.t (Mach.reach_frame hl)).trans rfl
  have hw : m1.t.watchCheck l (sizeBytes z) (span (sizeBytes z)) true = _ := ht ▸ Task.watchCheck_hit h.plain.1 hp hx
  exact exec_st_stops h hn (Mach.storeOut_watched (Mach.resolve_global_ok (write := true) hl) hw _)

end

/-- Settles O55: LD and ST stop at a misaligned address (`traps_misaligned`), at a place that is refused (`exec_ld_unresolved`,
`exec_st_unresolved`, by what `resolve` refuses), and at a watched one (`exec_st_watched`); a global address is refused beyond 52
bits (`reach_beyond`) and by a leaf without the right (`reach_denied`). -/
theorem accessFaults : Obligations.AccessFaults := by
  unfold Obligations.AccessFaults
  intro s m z sp tag d a h t c ad n ld st goes
  have hn : n = sizeBytes z := by cases z <;> rfl
  clear_value n
  subst hn
  refine ⟨fun hmis => traps_misaligned h hmis tag, fun hal => ⟨?global, fun hout => ?outside, ?closed, ?watched⟩,
    fun acc hva => Mach.reach_beyond hva _ acc, fun e m1 hva ht => ⟨fun hb => ?_, fun hb => ?_, fun hb => ?_⟩⟩
  case global =>
    rintro rfl k
    exact ⟨fun hk => exec_ld_unresolved h hal (Mach.resolve_global_error (write := false) hk) tag,
      fun hk => exec_st_unresolved h hal (Mach.resolve_global_error (write := true) hk)⟩
  case outside =>
    exact ⟨exec_ld_unresolved h hal (Mach.resolve_beyondSpace hout) tag, exec_st_unresolved h hal (Mach.resolve_beyondSpace hout)⟩
  case closed =>
    rintro core off rfl hs hcore
    exact ⟨fun hw => exec_ld_unresolved h hal (Mach.resolve_closed hs hcore hw) tag,
      fun hw => exec_st_unresolved h hal (Mach.resolve_closed hs hcore hw)⟩
  case watched =>
    rintro l m1 x rfl - hp hx hl
    exact exec_st_watched h hal hp hl hx
  · exact Mach.reach_denied hva ht ((rightsOk_read _).trans (attrBit_eq_false hb)) _
  · exact Mach.reach_denied hva ht ((rightsOk_write _).trans (attrBit_eq_false hb)) _
  · exact Mach.reach_denied hva ht ((rightsOk_fetch _).trans (attrBit_eq_false hb)) _

end Sys2Proof.Machine
end

section
/-! PROOFS. O39: residue tiles. -/

namespace Sys2Proof.Machine

/-- The residues of an integer (11 R202). -/
def Res.ofInt (x : Int) : Res := ⟨(x % mod1).toNat, (x % mod2).toNat, (x % mod3).toNat⟩

/-- An element that MZERO leaves holds zero. -/
theorem Res.default_eq_ofInt : ({} : Res) = Res.ofInt 0 := rfl

/-- A residue is a natural number. -/
theorem Res.cast_toNat_emod (x : Int) {n : Nat} (hn : n ≠ 0) : ((x % n).toNat : Int) = x % n :=
  Int.toNat_of_nonneg (Int.emod_nonneg x (Int.natCast_ne_zero.mpr hn))

/-- The residues of a sum are those of its terms added. -/
theorem Res.ofInt_add (x v : Int) : (Res.ofInt x).add v = Res.ofInt (x + v) := by
  have hadd (n : Nat) (hn : n ≠ 0) : (((x % n).toNat : Int) + v) % n = (x + v) % n := by
    rw [Res.cast_toNat_emod x hn, Int.emod_add_emod]
  simp only [Res.add, Res.ofInt, hadd mod1 (by decide), hadd mod2 (by decide), hadd mod3 (by decide)]

/-- Chinese remaindering finds an integer from its residues, modulo M: the weights of the three residues add up to 1 + 2 M, and each
times its own modulus is a multiple of M. -/
theorem Res.lift_ofInt (x : Int) : ((Res.ofInt x).lift : Int) = x % modM := by
  have hsum : ((Res.ofInt x).r1 * (mod2 * mod3) * 32768 + (Res.ofInt x).r2 * (mod1 * mod3) * 65535 +
      (Res.ofInt x).r3 * (mod1 * mod2) * 32769 : Int) =
      x + modM * (2 * x - (x / mod1 * 32768 + x / mod2 * 65535 + x / mod3 * 32769)) := by
    simp only [Res.ofInt, Res.cast_toNat_emod x (n := mod1) (by decide), Res.cast_toNat_emod x (n := mod2) (by decide),
      Res.cast_toNat_emod x (n := mod3) (by decide)]
    simp only [modM, mod1, mod2, mod3, Int.emod_def]
    push_cast
    ring
  calc ((Res.ofInt x).lift : Int)
    _ = (x + modM * (2 * x - (x / mod1 * 32768 + x / mod2 * 65535 + x / mod3 * 32769))) % modM := by
      rw [← hsum, Res.lift]
      push_cast
      rfl
    _ = x % modM := Int.add_mul_emod_self_left _ _ _

/-- An integer of (−M/2, M/2] is the one that its residues stand for. -/
theorem Res.toInt_ofInt {x : Int} (hlo : -(modM / 2 : Nat) < x) (hhi : x ≤ (modM / 2 : Nat)) : (Res.ofInt x).toInt = x := by
  have hl := Res.lift_ofInt x
  simp only [Res.toInt, modM, mod1, mod2, mod3] at hl hlo hhi ⊢
  omega

/-- Settles O39: an element holds the residues of its integer (`Res.ofInt_add`), and those give the integer back
(`Res.toInt_ofInt`). -/
theorem residueTiles : Obligations.ResidueTiles := by
  unfold Obligations.ResidueTiles
  intro x v h hlo hhi hlo' hhi'
  have hh : h = (modM / 2 : Nat) := rfl
  rw [hh] at hlo hhi hlo' hhi'
  rw [Res.default_eq_ofInt, Res.ofInt_add, Res.ofInt_add, zero_add]
  exact ⟨Res.toInt_ofInt hlo hhi, Res.toInt_ofInt hlo' hhi'⟩

end Sys2Proof.Machine
end

section
/-! SUPPORT. BLKPK and BLKUP in one member of a gang (12 R233, R234): what each writes there, and the consecutive vector registers
that BLKUP writes. -/

namespace Sys2Proof.Machine

/-! ### A vector register written whole -/

theorem getLsbD_allOnes16 {i : Nat} (hi : i < 16) : (BitVec.allOnes 16 : Mask).getLsbD i = true := by
  rw [BitVec.getLsbD_allOnes, decide_eq_true hi]

theorem slotOn_allOnes16 {k : Nat} (hk : k < 8) : slotOn (BitVec.allOnes 16) k = true := by
  rw [slotOn, getLsbD_allOnes16 (by omega), Bool.true_or]

/-! ### Consecutive vector registers written whole (R234) -/

/-- An image with the n vector registers from slot s on written: lane i of the k-th takes f k i. -/
def Image.setVecs (g : Image) (s : Nat) (f : Nat → Nat → BitVec 32) (tag : Tag) (n : Nat) : Image :=
  (List.range n).foldl (fun b k => b.setLanes (s + 8 * k) (BitVec.allOnes 16) (f k) tag) g

section
variable (g : Image) (s : Nat) (f : Nat → Nat → BitVec 32) {tag : Tag}

theorem Image.setVecs_succ (n : Nat) : g.setVecs s f tag (n + 1) =
    (g.setVecs s f tag n).setLanes (s + 8 * n) (BitVec.allOnes 16) (f n) tag := by
  simp [Image.setVecs, List.range_succ]

variable (ht : tag ≠ .unwritten)
include ht

/-- The predicates and the flags stay, and so does every register outside those written. -/
theorem Image.setVecs_frame (n : Nat) : (g.setVecs s f tag n).p = g.p ∧ (g.setVecs s f tag n).fl = g.fl ∧
    ∀ x, (∀ k, k < 8 * n → x ≠ slotKey (s + k)) → (g.setVecs s f tag n).cell x = g.cell x := by
  induction n with
  | zero => exact ⟨rfl, rfl, fun _ _ => rfl⟩
  | succ n ih =>
    obtain ⟨hp, hfl, hcell⟩ := ih
    obtain ⟨hp', -, -, -, -, hcell'⟩ := lanesWritten_setLanes (g.setVecs s f tag n) (s + 8 * n) (BitVec.allOnes 16) (f n) tag ht
    rw [Image.setVecs_succ]
    refine ⟨hp'.trans hp, (fl_setLanes ..).trans hfl, fun x hx => ?_⟩
    rw [hcell' x fun k hk => Nat.add_assoc s .. ▸ hx (8 * n + k) (by omega), hcell x fun k hk => hx k (by omega)]

/-- A slot of the k-th register is as that register's own write left it, whatever the later ones write. -/
theorem Image.cell_setVecs_of_lt {n k j : Nat} (hk : k < n) (hj : j < 8) : (g.setVecs s f tag n).cell (slotKey (s + 8 * k + j)) =
    (g.setVecs s f tag (k + 1)).cell (slotKey (s + 8 * k + j)) := by
  induction n, hk using Nat.le_induction with
  | base => rfl
  | succ n hn ih =>
    obtain ⟨-, -, -, -, -, hcell⟩ := lanesWritten_setLanes (g.setVecs s f tag n) (s + 8 * n) (BitVec.allOnes 16) (f n) tag ht
    rw [Image.setVecs_succ, hcell _ fun i _ => by unfold slotKey; omega, ih]

/-- The lanes written read back. -/
theorem Image.lane_setVecs {n k i : Nat} (hk : k < n) (hi : i < 16) : (g.setVecs s f tag n).lane (s + 8 * k) i = f k i := by
  obtain ⟨-, hlane, -⟩ := lanesWritten_setLanes (g.setVecs s f tag k) (s + 8 * k) (BitVec.allOnes 16) (f k) tag ht
  rw [lane_congr (Image.cell_setVecs_of_lt g s f ht hk (by omega)), Image.setVecs_succ, hlane i hi (getLsbD_allOnes16 hi)]

/-- Every slot written takes the tag. -/
theorem Image.tag_setVecs {n k : Nat} (hk : k < 8 * n) : ((g.setVecs s f tag n).cell (slotKey (s + k))).tag = tag := by
  obtain ⟨-, -, -, htag, -⟩ :=
    lanesWritten_setLanes (g.setVecs s f tag (k / 8)) (s + 8 * (k / 8)) (BitVec.allOnes 16) (f (k / 8)) tag ht
  have hk8 : s + k = s + 8 * (k / 8) + k % 8 := by omega
  rw [hk8, Image.cell_setVecs_of_lt g s f ht (by omega) (by omega), Image.setVecs_succ,
    htag _ (by omega) (slotOn_allOnes16 (by omega))]

end

/-! ### A member's image replaced -/

theorem Task.setMember_member (t : Task) (j : Nat) : t.setMember j (t.member j) = t := by
  unfold Task.setMember Task.member
  split
  · rfl
  · have hset : t.fol.set (j - 1) (t.fol.getD (j - 1) {}) = t.fol := by
      by_cases hj : j - 1 < t.fol.length
      · rw [List.getD_eq_getElem _ _ hj, List.set_getElem_self]
      · exact List.set_eq_of_length_le (Nat.not_lt.mp hj)
    rw [hset]

theorem Task.setMember_setMember (t : Task) (j : Nat) (g g' : Image) : (t.setMember j g).setMember j g' = t.setMember j g' := by
  unfold Task.setMember
  split
  · rfl
  · rw [List.set_set]

/-- Outside a region, consecutive registers written in a member change its image alone. -/
theorem putLanes_foldl_plain {t : Task} (h : t.region = none) {j : Nat} (hj : j < t.gangSize) (s : Nat)
    (f : Nat → Nat → BitVec 32) (tag : Tag) (n : Nat) :
    (List.range n).foldl (fun b k => b.putLanes j (s + 8 * k) (BitVec.allOnes 16) (f k) tag) t =
      t.setMember j ((t.member j).setVecs s f tag n) := by
  induction n with
  | zero => exact (t.setMember_member j).symm
  | succ n ih =>
    have hs : sameBut t (t.setMember j ((t.member j).setVecs s f tag n)) := setMember_shape ..
    rw [List.range_succ, List.foldl_append, ih, List.foldl_cons, List.foldl_nil, putLanes_plain (hs.region.trans h),
      member_setMember _ hj, if_pos rfl, Task.setMember_setMember, Image.setVecs_succ]

/-! ### A trap of the first member -/

/-- An instruction that stops in the leader stops so. -/
theorem vecRun_error {f : Task → MemberFn} {t : Task} {e : Stop} (hf : f t t 0 = .error e) (now : Nat) :
    vecRun now f t = .error e := by
  have hrun : runMembers f t t 0 t.gangSize = .error e := by
    rw [Task.gangSize, runMembers, hf]
    rfl
  rw [vecRun, hrun]
  rfl

/-! ### Bounds of several registers (08 R157) -/

theorem Task.badBlock_eq_nil {t : Task} {v : Fin 256} {n : Nat} (h : t.ctl.viewV.bad 8 n v.val = none) : t.badBlock v n = [] := by
  rw [Task.badBlock, h]
  rfl

/-! ### BLKPK (R233) -/

theorem blkTag_ne_unwritten (w : Blk) : blkTag w ≠ .unwritten := by cases w <;> decide

/-- The block that BLKPK packs from a member's registers at a (R200): its format byte, scale byte and payload, and each input's
flags. -/
def Image.packed (g : Image) (c : FCtx) (w : Blk) (nat : Bool) (a : Fin 256) : Nat × Nat × Nat × List FSet :=
  packBlock c.rnd w (!nat) ((List.range (blkCount w)).map fun i => fp32.operand c (g.lane (nthVec a (i / 16)) (i % 16)).toNat)

section
variable {s : State} {m : Option XMod} {w : Blk} {nat : Bool} {d a : Fin 256}

theorem blkpkBounds_ok (hd : s.m.t.ctl.viewV.bad 8 1 d.val = none) (ha : s.m.t.ctl.viewV.bad 8 (blkRegs w) a.val = none) :
    boundsOf (s.m.t.badVecs [d] ++ s.m.t.badBlock a (blkRegs w)) = .ok () := by
  have hd' : s.m.t.badVecs [d] = [] := List.filterMap_cons_none (f := fun v : Fin 256 => s.m.t.ctl.viewV.bad 8 1 v.val) hd
  rw [hd', Task.badBlock_eq_nil ha]
  rfl

/-- BLKPK writes the block of each member, and raises each input's flags in the input's lane. -/
theorem vecGives_blkpk (h : s.plain) (hq : s.quietFp) (hd : s.m.t.ctl.viewV.bad 8 1 d.val = none)
    (ha : s.m.t.ctl.viewV.bad 8 (blkRegs w) a.val = none)
    (htags : s.vtags m [.f32] fun j => (List.range (blkSlots w)).map fun i => ((s.m.t.member j).cell (slotKey (a.val + i))).tag) :
    let p := fun j => (s.m.t.member j).packed (s.m.t.fctx m) w nat a
    VecGives (.blkpk m w nat d a) s d.val (fun _ => BitVec.allOnes 16)
      (fun j i => BitVec.ofNat 32 (((p j).1 + 256 * (p j).2.1 + 65536 * (p j).2.2.1) / 2 ^ (32 * i))) (fun _ => blkTag w)
      (fun j => flagsOf ((p j).2.2.2.zipIdx.map fun q => (q.2 % 16, q.1))) := by
  intro p
  refine vecGives_of (F := blkpkT m w nat d a s.m.cycle) rfl h hq (fun _ => blkTag_ne_unwritten w)
    (by rw [blkpkT, blkpkBounds_ok hd ha]; rfl) fun t j hj _ => ?_
  dsimp only
  rw [passTags_ok htags hj]
  rfl

end

/-! ### BLKUP (R234) -/

/-- The format byte of a block, taken as one number. -/
def blkHead (v : Nat) : Byte := BitVec.ofNat 8 v

/-- How many elements a block has. -/
def blkLen (v : Nat) : Nat := blkCount (blkWidth (blkHead v))

/-- The exponent of a block's scale; a ZERO block's is ignored. -/
def blkExp (v : Nat) : Int := if blkZero (blkHead v) then 0 else blkScale (BitVec.ofNat 8 (v / 256))

/-- The format of the elements that BLKUP writes. -/
def upFmt (bf : Bool) : Fmt := if bf then bf16 else fp32

/-- Element i of a block, rounded (R201); beyond the last, zero. -/
def blkRounded (c : FCtx) (bf : Bool) (v i : Nat) : Nat × FSet :=
  if i < blkLen v then upElem c (upFmt bf) (blkHead v) (blkExp v) (v / 65536) i else (0, {})

/-- Lane i of the k-th register that BLKUP writes: two BF16 elements, or one FP32 element. -/
def upLane (c : FCtx) (bf : Bool) (v k i : Nat) : BitVec 32 :=
  if bf then BitVec.ofNat 32 ((blkRounded c bf v (32 * k + 2 * i)).1 + 65536 * (blkRounded c bf v (32 * k + 2 * i + 1)).1)
  else BitVec.ofNat 32 (blkRounded c bf v (16 * k + i)).1

/-- The tag of the registers that BLKUP writes. -/
def upTag (bf : Bool) : Tag := if bf then .bf16 else .f32

theorem upTag_ne_unwritten (bf : Bool) : upTag bf ≠ .unwritten := by cases bf <;> decide

/-- The flags that BLKUP raises, each element's in its lane. -/
def upFlags (c : FCtx) (bf : Bool) (v : Nat) : Flags :=
  flagsOf ((List.range (blkLen v)).map fun i => (if bf then i % 32 / 2 else i % 16, (blkRounded c bf v i).2))

/-- An image with the block v unpacked into the registers from slot d on. -/
def Image.unpacked (g : Image) (c : FCtx) (bf : Bool) (d v : Nat) : Image :=
  g.setVecs d (upLane c bf v) (upTag bf) (upRegs bf (blkLen v))

theorem blkMark_iff (h : Byte) : blkMark h = true ↔ h.toNat % 16 = 10 := beq_iff_eq

section
variable {m : Option XMod} {bf : Bool} {d a : Fin 256} {t0 : Task} {j : Nat}

/-- A block of a wrong MARK traps in its member (R199). -/
theorem blkupMember_mismatch (htags : t0.passTags m [.raw, .s16, .s8, .s4, .s2] j ((t0.member j).vecTags a.val) = .ok ())
    {v : Nat} (hv : (t0.member j).vecNat a.val = v) (hmark : (blkHead v).toNat % 16 ≠ 10) (t : Task) :
    blkupMember m bf d a t0 t j = .error (.trap fmtMismatch t0.pc j) := by
  rw [Ne, ← blkMark_iff, blkHead] at hmark
  simp [blkupMember, htags, hv, hmark, bind, Except.bind]

/-- A block of the right MARK, whose elements fit in the vector view, is unpacked into its member. -/
theorem blkupMember_ok {v : Nat} (hv : (t0.member j).vecNat a.val = v)
    (htags : t0.passTags m [.raw, .s16, .s8, .s4, .s2] j ((t0.member j).vecTags a.val) = .ok ())
    (hmark : (blkHead v).toNat % 16 = 10) (hregs : t0.ctl.viewV.bad 8 (upRegs bf (blkLen v)) d.val = none)
    {t : Task} (ht : t.region = none) (hj : j < t.gangSize) :
    blkupMember m bf d a t0 t j =
      .ok (t.setMember j ((t.member j).unpacked (t0.fctx m) bf d.val v), upFlags (t0.fctx m) bf v) := by
  rw [← blkMark_iff, blkHead] at hmark
  have hb := Task.badBlock_eq_nil hregs
  rw [blkLen, blkHead] at hb
  rw [Image.unpacked, ← putLanes_foldl_plain ht hj]
  cases bf <;>
  · simp only [blkupMember, htags, hv, hmark, hb, bind, Except.bind, Bool.not_true, Bool.false_eq_true, if_false, if_true]
    rfl

end

theorem exec_blkup_eq_issueT (m : Option XMod) (bf : Bool) (d a : Fin 256) (s : State) :
    exec (.blkup m bf d a) s = issueT (.vec (vecKeys a)) (blkupT m bf d a s.m.cycle) s := rfl

/-- BLKUP whose operands lie in the vector view runs in every member. -/
theorem blkupT_eq_vecRun {s : State} {d a : Fin 256} (hfit : s.vfit [d, a] []) (m : Option XMod) (bf : Bool) (now : Nat) :
    blkupT m bf d a now s.m.t = vecRun now (blkupMember m bf d a) s.m.t := by
  rw [blkupT, vbounds_ok hfit]
  rfl

section
variable {s : State} {m : Option XMod} {bf : Bool} {d a : Fin 256} (h : s.plain) (hfit : s.vfit [d, a] [])
  (htags : s.vtags m [.raw, .s16, .s8, .s4, .s2] fun j => (s.m.t.member j).vecTags a.val)
include h hfit htags

/-- BLKUP traps at the leader's block of a wrong MARK. -/
theorem traps_blkup {v : Nat} (hv : (s.m.t.member 0).vecNat a.val = v) (hmark : (blkHead v).toNat % 16 ≠ 10) :
    Traps (.blkup m bf d a) s 0x04 s.m.t.pc := by
  have hleader : blkupMember m bf d a s.m.t s.m.t 0 = .error (.trap fmtMismatch s.m.t.pc 0) :=
    blkupMember_mismatch (t0 := s.m.t) (j := 0) (passTags_ok htags (Nat.succ_pos _)) hv hmark _
  exact traps_of_task (exec_blkup_eq_issueT m bf d a s) h
    ((blkupT_eq_vecRun hfit m bf _).trans (vecRun_error hleader _))

/-- BLKUP unpacks each member's block there, and raises its elements' flags. -/
theorem exec_blkup (hq : s.quietFp) {v : Nat → Nat} (hv : ∀ j, (s.m.t.member j).vecNat a.val = v j)
    (hok : ∀ j, j < s.m.t.gangSize → (blkHead (v j)).toNat % 16 = 10 ∧
      s.m.t.ctl.viewV.bad 8 (upRegs bf (blkLen (v j))) d.val = none) :
    ∃ t1, exec (.blkup m bf d a) s = .next (s.done t1) ∧ sameBut s.m.t t1 ∧ ∀ j, j < s.m.t.gangSize →
      let u := (s.m.t.member j).unpacked (s.m.t.fctx m) bf d.val (v j)
      t1.member j = { u with fl := u.fl.or (upFlags (s.m.t.fctx m) bf (v j)) } := by
  have hrun (t : Task) (j : Nat) (hj : j < s.m.t.gangSize) (hs : sameBut s.m.t t) :
      blkupMember m bf d a s.m.t t j =
        .ok (t.setMember j ((t.member j).unpacked (s.m.t.fctx m) bf d.val (v j)), upFlags (s.m.t.fctx m) bf (v j)) :=
    blkupMember_ok (hv j) (passTags_ok htags hj) (hok j hj).1 (hok j hj).2 (hs.region.trans h.1) (hs.size.symm ▸ hj)
  obtain ⟨t1, hvec, hsame, hmem⟩ := vecRun_images (now := s.m.cycle)
    (G := fun j g => g.unpacked (s.m.t.fctx m) bf d.val (v j)) hq hrun
  exact ⟨t1, (exec_blkup_eq_issueT m bf d a s).trans (issueT_same h ((blkupT_eq_vecRun hfit m bf _).trans hvec) hsame),
    hsame, hmem⟩

end

end Sys2Proof.Machine
end

section
/-! PROOFS. O17: BLKPK and BLKUP. -/

namespace Sys2Proof.Machine

/-- Settles O17: BLKPK is a lane write of each member's block (`vecGives_blkpk`); BLKUP traps at a wrong MARK (`traps_blkup`), and
else writes consecutive registers of each member (`exec_blkup`), which read back lane by lane (`Image.lane_setVecs`). -/
theorem blocks : Obligations.Blocks := by
  unfold Obligations.Blocks
  intro s m w nat bf d a h hq c lane
  refine ⟨?_, ?_⟩
  · intro hd ha htags p word
    exact vecGives_blkpk h hq hd ha htags
  intro hfit htags v
  have hv : ∀ j, (s.m.t.member j).vecNat a.val = v j := fun _ => rfl
  -- The blocks stay variables from here on: their sums of large powers of two are not to be evaluated.
  clear_value v
  intro head n e el regs
  have hel : ∀ j i, blkRounded (s.m.t.fctx m) bf (v j) i = el j i := fun _ _ => rfl
  have hregs : ∀ j, upRegs bf (blkLen (v j)) = regs j := fun _ => rfl
  clear_value el regs
  refine ⟨fun hmark => traps_blkup h hfit htags (hv 0) hmark, fun hok => ?_⟩
  simp only [← hregs] at hok
  obtain ⟨t1, hexec, ⟨hlen, hsame⟩, hmem⟩ := exec_blkup h hfit htags hq hv hok
  refine ⟨t1, hexec, hlen, hsame, fun j hj => ?_⟩
  have ht := upTag_ne_unwritten bf
  obtain ⟨hp, hfl, hcell⟩ := (s.m.t.member j).setVecs_frame d.val (upLane (s.m.t.fctx m) bf (v j)) ht (regs j)
  rw [hmem j hj, Image.unpacked, hregs]
  refine ⟨hp, ?_, fun k i hk hi => ?_, fun k hk => Image.tag_setVecs _ _ _ ht hk, hcell⟩
  · rw [← hfl]
    simp only [upFlags, hel]
    rfl
  · simp only [← hel]
    exact Image.lane_setVecs _ _ _ ht hk hi

end Sys2Proof.Machine
end

section
/-! SUPPORT. Vector instructions outside a region (12 R214 to R217): the checks they pass, and what a run in every member leaves. -/

namespace Sys2Proof.Machine

/-- An effect after a check that passes. -/
theorem bind_of_ok {α β : Type} {x : Except Stop α} {v : α} (h : x = .ok v) (k : α → Except Stop β) : (x >>= k) = k v := by
  rw [h]
  rfl

/-! ### Tags (08 R160) -/

/-- Tags that are each unwritten or one of those wanted pass. -/
theorem passTags_of_mem {t : Task} {m : Option XMod} {want : List Tag} {j : Nat} {l : List Tag}
    (h : t.conv m = true ∨ ∀ q ∈ l, q = .unwritten ∨ q ∈ want) : t.passTags m want j l = .ok () := by
  refine if_pos ?_
  rw [Bool.or_eq_true, List.all_eq_true]
  exact h.imp id fun h q hq => by simpa using h q hq

theorem passTags_one {t : Task} {m : Option XMod} {k : Tag} {j : Nat} {l : List Tag}
    (h : t.conv m = true ∨ ∀ q ∈ l, q = .unwritten ∨ q = k) : t.passTags m [k] j l = .ok () :=
  passTags_of_mem (h.imp id fun h q hq => (h q hq).imp id List.mem_singleton.mpr)

/-! ### A run in every member (R217) -/

@[simp] theorem fl_setPred (g : Image) (p : Fin 8) (v : Mask) : (g.setPred p v).fl = g.fl := by
  unfold Image.setPred
  split <;> rfl

section
variable {i : Instr} {s : State} {rule : RRule} {F : Task → Except Stop Task} (he : exec i s = issueT rule F s) (h : s.plain)
include he h

/-- An instruction that changes each member's image by G and raises flags there. -/
theorem exec_images {f : Task → MemberFn} {now : Nat} (hq : s.quietFp) (hF : F s.m.t = vecRun now f s.m.t)
    (G : Nat → Image → Image) (fl : Nat → Flags)
    (hf : ∀ t j, j < s.m.t.gangSize → sameBut s.m.t t → f s.m.t t j = .ok (t.setMember j (G j (t.member j)), fl j)) :
    ∃ t1, exec i s = .next (s.done t1) ∧ sameBut s.m.t t1 ∧ ∀ j, j < s.m.t.gangSize →
      t1.member j = { G j (s.m.t.member j) with fl := (G j (s.m.t.member j)).fl.or (fl j) } := by
  obtain ⟨t1, hrun, hsame, hmem⟩ := vecRun_images (now := now) hq hf
  exact ⟨t1, he.trans (issueT_same h (hF.trans hrun) hsame), hsame, hmem⟩

/-- The same without flags. -/
theorem exec_moves {f : Task → Task → Nat → Except Stop Task} (hF : F s.m.t = vecMove f s.m.t) (G : Nat → Image → Image)
    (hf : ∀ t j, j < s.m.t.gangSize → sameBut s.m.t t → f s.m.t t j = .ok (t.setMember j (G j (t.member j)))) :
    ∃ t1, exec i s = .next (s.done t1) ∧ sameBut s.m.t t1 ∧ ∀ j, j < s.m.t.gangSize → t1.member j = G j (s.m.t.member j) := by
  obtain ⟨t1, hrun, hsame, hmem⟩ := vecMove_images hf
  exact ⟨t1, he.trans (issueT_same h (hF.trans hrun) hsame), hsame, hmem⟩

end

/-- A lane write in every member, after the check of its operands and of one vector's tags. -/
theorem vecGives_checked {i : Instr} {s : State} {m : Option XMod} {rule : RRule} {F : Task → Except Stop Task} {vs : List (Fin 256)} {want : List Tag}
    {l : Nat → List Tag} {d : Nat} {en : Nat → Mask} {v : Nat → Nat → BitVec 32} {tag : Tag} {fl : Nat → Flags}
    (he : exec i s = issueT rule F s) (h : s.plain) (hq : s.quietFp) (hfit : s.vfit vs []) (ht : tag ≠ .unwritten)
    {f : Task → MemberFn} {now : Nat} (hF : F s.m.t = (s.m.t.vbounds vs [] >>= fun _ => vecRun now f s.m.t))
    (hf : ∀ t j, sameBut s.m.t t →
      f s.m.t t j = (s.m.t.passTags m want j (l j) >>= fun _ => .ok (t.putLanes j d (en j) (v j) tag, fl j)))
    (htags : s.vtags m want l) : VecGives i s d en v (fun _ => tag) fl :=
  vecGives_of he h hq (fun _ => ht) (hF.trans (bind_of_ok (vbounds_ok hfit) _))
    fun t j hj hs => (hf t j hs).trans (bind_of_ok (passTags_ok htags hj) _)

end Sys2Proof.Machine
end

section
/-! SUPPORT. Floating and integer elements, signs, dot products and classes (12 R215, R219 to R221, R224, R225): what the instruction
writes in every member of a gang. -/

namespace Sys2Proof.Machine

/-! ### Floating elements (R215, R219) -/

/-- The tags of member j's sources of a floating instruction: a's, b's, and d's where d is a source too. -/
def Task.fpTags (t : Task) (d a : Fin 256) (b : Opnd) (useD : Bool) (j : Nat) : List Tag :=
  ((t.member j).vec a.val).tags ++ (t.srcB j b).tags ++ (if useD then ((t.member j).vec d.val).tags else [])

/-- The tags of the slots that hold FP64 elements. -/
def Task.fpLow (t : Task) (d a : Fin 256) (b : Opnd) (useD : Bool) (j : Nat) : List Tag :=
  ((t.member j).vec a.val).tags.take 4 ++ (t.srcB j b).tags.take 4 ++ (if useD then ((t.member j).vec d.val).tags.take 4 else [])

/-- The tags make member j's elements FP64. -/
def Task.fpWide (t : Task) (d a : Fin 256) (b : Opnd) (useD : Bool) (j : Nat) : Bool :=
  decide (firstTag (t.fpTags d a b useD j) = .f64)

/-- Element i of member j's result in FP32. -/
def Task.fpEl32 (t : Task) (m : Option XMod) (d a : Fin 256) (b : Opnd) (op : FOp) (j i : Nat) : Nat × FSet :=
  op fp32 (t.fctx m) (((t.member j).vec a.val).lane i).toNat ((t.srcB j b).lane i).toNat (((t.member j).vec d.val).lane i).toNat

/-- Element e of member j's result in FP64. -/
def Task.fpEl64 (t : Task) (m : Option XMod) (d a : Fin 256) (b : Opnd) (op : FOp) (j e : Nat) : Nat × FSet :=
  op fp64 (t.fctx m) (((t.member j).vec a.val).el64 e).toNat ((t.srcB j b).el64 e).toNat (((t.member j).vec d.val).el64 e).toNat

/-- A floating instruction in one member whose tags pass. -/
theorem fpMember_ok {m : Option XMod} {g : Fin 8} {d a : Fin 256} {b : Opnd} {useD : Bool} {op : FOp} {t0 : Task} {j : Nat}
    (h : t0.conv m = true ∨ ∀ q ∈ (if t0.fpWide d a b useD j then t0.fpLow d a b useD j else t0.fpTags d a b useD j),
      q = .unwritten ∨ q = (if t0.fpWide d a b useD j then .f64 else .f32)) (t : Task) :
    fpMember m g d a b useD op t0 t j = .ok
      (t.putLanes j d.val (if t0.fpWide d a b useD j then mask64 (t0.gov g j) else t0.gov g j)
        (fun i => if t0.fpWide d a b useD j then lanesOf64 (fun e => BitVec.ofNat 64 (t0.fpEl64 m d a b op j e).1) i
          else BitVec.ofNat 32 (t0.fpEl32 m d a b op j i).1) (if t0.fpWide d a b useD j then .f64 else .f32),
       if t0.fpWide d a b useD j then
         flagsOf (((List.range 4).filter fun e => (t0.gov g j).getLsbD (2 * e)).map fun e => (2 * e, (t0.fpEl64 m d a b op j e).2))
       else flagsOf (((List.range 16).filter fun i => (t0.gov g j).getLsbD i).map fun i => (i, (t0.fpEl32 m d a b op j i).2))) := by
  have hk : firstTag (t0.fpTags d a b useD j) = .f64 ↔ t0.fpWide d a b useD j = true := decide_eq_true_iff.symm
  cases hw : t0.fpWide d a b useD j with
  | true =>
    simp only [hw, if_true] at h hk ⊢
    exact (if_pos (hk.mpr trivial)).trans (bind_of_ok (passTags_one h) _)
  | false =>
    simp only [hw, Bool.false_eq_true, if_false] at h hk ⊢
    exact (if_neg hk.mp).trans (bind_of_ok (passTags_one h) _)

section
variable {s : State} {m : Option XMod} {g : Fin 8} {d a : Fin 256} {b : Opnd}

/-- A floating instruction writes each member's result in the format its tags choose. -/
theorem vecGives_fp {i : Instr} {rule : RRule} {useD : Bool} {op : FOp}
    (he : exec i s = issueT rule (fpT m g d a b useD op s.m.cycle) s) (h : s.plain) (hq : s.quietFp)
    (hfit : s.vfit ([d, a] ++ vecOf b) (scalarOf b)) :
    let wide := s.m.t.fpWide d a b useD
    let en := s.m.t.gov g
    (∀ j, j < s.m.t.gangSize → s.m.t.conv m = true ∨
      ∀ q ∈ (if wide j then s.m.t.fpLow d a b useD j else s.m.t.fpTags d a b useD j),
        q = .unwritten ∨ q = (if wide j then .f64 else .f32)) →
    VecGives i s d.val (fun j => if wide j then mask64 (en j) else en j)
      (fun j i => if wide j then lanesOf64 (fun e => BitVec.ofNat 64 (s.m.t.fpEl64 m d a b op j e).1) i
        else BitVec.ofNat 32 (s.m.t.fpEl32 m d a b op j i).1)
      (fun j => if wide j then .f64 else .f32)
      (fun j => if wide j then
          flagsOf (((List.range 4).filter fun e => (en j).getLsbD (2 * e)).map fun e => (2 * e, (s.m.t.fpEl64 m d a b op j e).2))
        else flagsOf (((List.range 16).filter fun i => (en j).getLsbD i).map fun i => (i, (s.m.t.fpEl32 m d a b op j i).2))) := by
  intro wide en htags
  refine vecGives_of (f := fpMember m g d a b useD op) (now := s.m.cycle) he h hq (fun j => ?_) ?_ fun t j hj _ =>
    fpMember_ok (htags j hj) t
  · split <;> decide
  · exact bind_of_ok (vbounds_ok hfit) _

end

/-! ### Integer elements (R215, R225) -/

/-- The tag of a member's integer result, by the first tag that its sources hold. -/
def intTag (k : Tag) : Tag := if k = .i8 then .i8 else if k = .i16 then .i16 else .i32

/-- The width of its elements. -/
def intWidth (k : Tag) : Nat := if k = .i8 then 8 else if k = .i16 then 16 else 32

theorem intTag_ne_unwritten (k : Tag) : intTag k ≠ .unwritten := by unfold intTag; split_ifs <;> decide

section
variable {s : State} {m : Option XMod} {g : Fin 8} {d a : Fin 256} {b : Opnd}

/-- An integer instruction writes each member's elements, of the width its tags choose. -/
theorem vecGives_int {i : Instr} {rule : RRule} {op : IOp} (he : exec i s = issueT rule (intT m g d a b op) s) (h : s.plain)
    (hfit : s.vfit ([d, a] ++ vecOf b) (scalarOf b)) :
    let A := fun (j : Nat) => (s.m.t.member j).vec a.val
    let B := fun (j : Nat) => s.m.t.srcB j b
    let first := fun j => firstTag ((A j).tags ++ (B j).tags)
    (∀ j, j < s.m.t.gangSize → s.m.t.conv m = true ∨
      ∀ q ∈ (A j).tags ++ (B j).tags, q = .unwritten ∨ q = intTag (first j) ∨ q = .raw ∨ q = .addr) →
    VecGives i s d.val (s.m.t.gov g) (fun j i => laneOp (intWidth (first j)) op ((A j).lane i) ((B j).lane i))
      (fun j => intTag (first j)) fun _ => {} := by
  intro A B first htags
  refine vecGives_move he h (fun j => intTag_ne_unwritten (first j)) (bind_of_ok (vbounds_ok hfit) _) fun t j hj _ => ?_
  have hpass : s.m.t.passTags m [intTag (first j), .raw, .addr] j ((A j).tags ++ (B j).tags) = .ok () :=
    passTags_of_mem ((htags j hj).imp id fun h q hq => by simpa using h q hq)
  dsimp only
  rw [show firstTag (((s.m.t.member j).vec a.val).tags ++ (s.m.t.srcB j b).tags) = first j from rfl]
  generalize first j = k at hpass ⊢
  cases k <;> exact bind_of_ok hpass _

end

/-! ### Signs (R220) -/

/-- The tag of a member's result under VABS and VNEG, by the first tag of its source. -/
def signTag (k : Tag) : Tag := if k = .f64 ∨ k = .bf16 ∨ k = .f16 ∨ k = .e4m3 ∨ k = .e5m2 then k else .f32

/-- The sign bits of the elements in lane i. -/
def signBits (k : Tag) (i : Nat) : BitVec 32 :=
  if k = .f64 then (if i % 2 = 1 then 0x80000000 else 0)
  else if k = .bf16 ∨ k = .f16 then 0x80008000
  else if k = .e4m3 ∨ k = .e5m2 then 0x80808080 else 0x80000000

theorem signTag_ne_unwritten (k : Tag) : signTag k ≠ .unwritten := by cases k <;> decide

theorem signTag_eq (k : Tag) : (if signTags.contains k then k else .f32) = signTag k := by cases k <;> rfl

theorem signTag_eq_f64 {k : Tag} : signTag k = .f64 ↔ k = .f64 := by cases k <;> decide

theorem signMask_eq {k : Tag} (hk : k ≠ .f64) (i : Nat) : signMask (tagWidth (signTag k)) = signBits k i := by
  rw [signBits, if_neg hk]
  cases k <;> rfl

section
variable {s : State} {m : Option XMod} {g : Fin 8} {d a : Fin 256}

/-- VABS and VNEG combine each element with its sign bit. -/
theorem vecGives_sign {i : Instr} {rule : RRule} {f : BitVec 32 → BitVec 32 → BitVec 32}
    (he : exec i s = issueT rule (signT m g d a f) s) (hf : ∀ v, f v 0 = v) (h : s.plain) (hfit : s.vfit [d, a] []) :
    let A := fun (j : Nat) => (s.m.t.member j).vec a.val
    let k := fun j => firstTag (A j).tags
    let en := s.m.t.gov g
    s.vtags m signTags (fun j => if k j = .f64 then (A j).tags.take 4 else (A j).tags) →
    VecGives i s d.val (fun j => if k j = .f64 then mask64 (en j) else en j) (fun j i => f ((A j).lane i) (signBits (k j) i))
      (fun j => signTag (k j)) (fun _ => {}) := by
  intro A k en htags
  refine vecGives_move he h (fun j => signTag_ne_unwritten (k j)) (bind_of_ok (vbounds_ok hfit) _) fun t j hj _ => ?_
  have hpass := passTags_ok htags hj
  dsimp only at hpass ⊢
  rw [signTag_eq]
  by_cases hk : k j = .f64
  · rw [if_pos hk] at hpass
    have hv : (fun i => f ((A j).lane i) (signBits (k j) i)) =
        fun i => if i % 2 = 1 then f ((A j).lane i) 0x80000000 else (A j).lane i := by
      funext i
      rw [signBits, if_pos hk]
      split_ifs
      · rfl
      · exact hf _
    rw [hv, if_pos hk, signTag_eq_f64.mpr hk]
    exact (if_pos rfl).trans (bind_of_ok hpass _)
  · rw [if_neg hk] at hpass
    simp only [← signMask_eq hk]
    rw [if_neg hk]
    exact (if_neg (mt signTag_eq_f64.mp hk)).trans (bind_of_ok hpass _)

/-! ### Dot products (R221) -/

/-- A vector whose every tag is unwritten or its one FP8 tag passes. -/
theorem passTags_fp8 {t : Task} {j : Nat} {l : List Tag}
    (h : t.conv m = true ∨ ∀ q ∈ l, q = .unwritten ∨ (q = firstTag l ∧ (q = .e4m3 ∨ q = .e5m2))) :
    t.passTags m (if firstTag l = .e4m3 ∨ firstTag l = .e5m2 then [firstTag l] else [.e4m3, .e5m2]) j l = .ok () := by
  refine passTags_of_mem (h.imp id fun h q hq => (h q hq).imp id fun ⟨hfirst, hq8⟩ => ?_)
  rw [← hfirst, if_pos hq8]
  exact List.mem_singleton_self q

theorem fp8Of_eq (k : Tag) : fp8Of k = if k = .e5m2 then e5m2 else e4m3 := by cases k <;> rfl

variable {b : Opnd}

/-- VDOT2 adds each lane's two products to d. -/
theorem vecGives_vdot2 (h : s.plain) (hfit : s.vfit ([d, a] ++ vecOf b) (scalarOf b)) (hq : s.quietFp) :
    let A := fun (j : Nat) => (s.m.t.member j).vec a.val
    let B := fun (j : Nat) => s.m.t.srcB j b
    let D := fun (j : Nat) => (s.m.t.member j).vec d.val
    s.vtags m [.f32] (fun j => (D j).tags) → s.vtags m [.bf16] (fun j => (A j).tags ++ (B j).tags) →
    let r := fun j i => dot (s.m.t.fctx m) bf16 bf16 (splitLane 16 ((A j).lane i)) (splitLane 16 ((B j).lane i)) ((D j).lane i).toNat
    VecGives (.vdot2 m g d a b) s d.val (s.m.t.gov g) (fun j i => BitVec.ofNat 32 (r j i).1) (fun _ => .f32)
      (fun j => flagsOf ((enabled (s.m.t.gov g j)).map fun i => (i, (r j i).2))) := by
  intro A B D hD hAB r
  exact vecGives_of (F := dot2T m g d a b s.m.cycle) (now := s.m.cycle) rfl h hq (fun _ => by decide)
    (bind_of_ok (vbounds_ok hfit) _) fun t j hj _ =>
      (bind_of_ok (passTags_ok hAB hj) _).trans (bind_of_ok (passTags_ok hD hj) _)

/-- VDOT4 adds each lane's four products to d. -/
theorem vecGives_vdot4 (h : s.plain) (hfit : s.vfit ([d, a] ++ vecOf b) (scalarOf b)) (hq : s.quietFp) :
    let A := fun (j : Nat) => (s.m.t.member j).vec a.val
    let B := fun (j : Nat) => s.m.t.srcB j b
    let D := fun (j : Nat) => (s.m.t.member j).vec d.val
    let k := fun j => firstTag (A j).tags
    s.vtags m [.f32] (fun j => (D j).tags) →
    (∀ j, j < s.m.t.gangSize → s.m.t.conv m = true ∨
      (∀ q ∈ (A j).tags, q = .unwritten ∨ (q = k j ∧ (q = .e4m3 ∨ q = .e5m2))) ∧
      ∀ q ∈ (B j).tags, q = .unwritten ∨ (q = firstTag (B j).tags ∧ (q = .e4m3 ∨ q = .e5m2))) →
    let r := fun j i => dot (s.m.t.fctx m) (if k j = .e5m2 then e5m2 else e4m3) (if firstTag (B j).tags = .e5m2 then e5m2 else e4m3)
      (splitLane 8 ((A j).lane i)) (splitLane 8 ((B j).lane i)) ((D j).lane i).toNat
    VecGives (.vdot4 m g d a b) s d.val (s.m.t.gov g) (fun j i => BitVec.ofNat 32 (r j i).1) (fun _ => .f32)
      (fun j => flagsOf ((enabled (s.m.t.gov g j)).map fun i => (i, (r j i).2))) := by
  intro A B D k hD hAB r
  refine vecGives_of (F := dot4T m g d a b s.m.cycle) (now := s.m.cycle) rfl h hq (fun _ => by decide)
    (bind_of_ok (vbounds_ok hfit) _) fun t j hj _ => ?_
  simp only [r, ← fp8Of_eq]
  exact (bind_of_ok (passTags_fp8 ((hAB j hj).imp id And.left)) _).trans
    ((bind_of_ok (passTags_fp8 ((hAB j hj).imp id And.right)) _).trans (bind_of_ok (passTags_ok hD hj) _))

/-! ### VCLASS (R224) -/

/-- VCLASS writes the one bit of each element's class, an FP64 element's in its low lane. -/
theorem vecGives_vclass (h : s.plain) (hfit : s.vfit [d, a] []) :
    let A := fun (j : Nat) => (s.m.t.member j).vec a.val
    let k := fun j => firstTag (A j).tags
    let en := s.m.t.gov g
    (∀ j, j < s.m.t.gangSize → s.m.t.conv m = true ∨
      ∀ q ∈ (if k j = .f64 then (A j).tags.take 4 else (A j).tags), q = .unwritten ∨ q = (if k j = .f64 then .f64 else .f32)) →
    VecGives (.vclass m g d a) s d.val (fun j => if k j = .f64 then mask64 (en j) else en j)
      (fun j i => if k j = .f64 then (if i % 2 = 0 then BitVec.ofNat 32 (2 ^ fp64.classBit ((A j).el64 (i / 2)).toNat) else 0)
        else BitVec.ofNat 32 (2 ^ fp32.classBit ((A j).lane i).toNat)) (fun _ => .i32) (fun _ => {}) := by
  intro A k en htags
  refine vecGives_move (F := vclassT m g d a) rfl h (fun _ => by decide) (bind_of_ok (vbounds_ok hfit) _) fun t j hj _ => ?_
  have hpass := passTags_one (j := j) (htags j hj)
  by_cases hk : k j = .f64
  · simp only [hk, if_true] at hpass ⊢
    exact (if_pos hk).trans (bind_of_ok hpass _)
  · simp only [hk, if_false] at hpass ⊢
    exact (if_neg hk).trans (bind_of_ok hpass _)

end

end Sys2Proof.Machine
end

section
/-! PROOFS. O10: vector floating point. -/

namespace Sys2Proof.Machine

/-- Settles O10: each floating form is a lane write in every member, in the format that its tags choose (`vecGives_fp`). -/
theorem vectorFloat : Obligations.VectorFloat := by
  unfold Obligations.VectorFloat
  intro s m g d a b h hq hfit A B D en runs c
  exact ⟨vecGives_fp (op := fun f c x y _ => f.add c false x y) rfl h hq hfit,
    vecGives_fp (op := fun f c x y _ => f.add c true x y) rfl h hq hfit,
    vecGives_fp (op := fun f c x y _ => f.mul c x y) rfl h hq hfit,
    vecGives_fp (op := fun f c x y z => f.fma c false false x y z) rfl h hq hfit,
    vecGives_fp (op := fun f c x y z => f.fma c false true x y z) rfl h hq hfit,
    vecGives_fp (op := fun f c x y z => f.fma c true false x y z) rfl h hq hfit,
    vecGives_fp (op := fun f c x y _ => f.minmax c false x y) rfl h hq hfit,
    vecGives_fp (op := fun f c x y _ => f.minmax c true x y) rfl h hq hfit⟩

end Sys2Proof.Machine
end

section
/-! PROOFS. O11: vector integers. -/

namespace Sys2Proof.Machine

/-- Settles O11: each integer form is a lane write in every member (`vecGives_int`); the statement's clamp is the model's `narrowInt`. -/
theorem vectorIntegers : Obligations.VectorIntegers := by
  unfold Obligations.VectorIntegers
  intro s m g d a b ar h hfit A B first tag w htags runs clamp signed
  refine ⟨vecGives_int (op := satOp (satOf m) fun x y => x + y) rfl h hfit htags,
    vecGives_int (op := satOp (satOf m) fun x y => x - y) rfl h hfit htags,
    vecGives_int (op := satOp (satOf m) fun x y => x * y) rfl h hfit htags,
    vecGives_int (op := fun _ x y => x &&& y) rfl h hfit htags,
    vecGives_int (op := fun _ x y => x ||| y) rfl h hfit htags,
    vecGives_int (op := fun _ x y => x ^^^ y) rfl h hfit htags,
    vecGives_int (op := fun w x y => x * 2 ^ (y % w)) rfl h hfit htags, ?_⟩
  cases ar with
  | false => exact vecGives_int (op := fun w x y => x / 2 ^ (y % w)) rfl h hfit htags
  | true => exact vecGives_int (op := sarOp) rfl h hfit htags

end Sys2Proof.Machine
end

section
/-! PROOFS. O12: VABS, VNEG, the dot products and VCLASS. -/

namespace Sys2Proof.Machine

/-- Settles O12: VABS and VNEG by one lemma over their bit operation (`vecGives_sign`); the dot products and VCLASS by one each. -/
theorem vectorSignsDots : Obligations.VectorSignsDots := by
  unfold Obligations.VectorSignsDots
  intro s m g d a b h A B D en c lanes k
  refine ⟨?_, fun hfit hq => vecGives_vdot2 h hfit hq, fun hfit hq => vecGives_vdot4 h hfit hq, vecGives_vclass h⟩
  intro hfit htags tag sign
  exact ⟨vecGives_sign (f := fun v k => v &&& ~~~k) rfl
      (fun v => (congrArg (v &&& ·) BitVec.not_zero).trans BitVec.and_allOnes) h hfit htags,
    vecGives_sign (f := fun v k => v ^^^ k) rfl (fun _ => BitVec.xor_zero) h hfit htags⟩

end Sys2Proof.Machine
end

section
/-! SUPPORT. Outcomes of VCMP in the predicates of a gang, and slots written with tags of their own (12 R222, R223). -/

namespace Sys2Proof.Machine

/-! ### VCMP (R222) -/

/-- VCMP writes each member's predicate. -/
theorem exec_vcmp {s : State} {m : Option XMod} {g : Fin 8} {c : VCond} {p : Fin 8} {a b : Fin 256} (h : s.plain)
    (hfit : s.vfit [a, b] []) (hq : s.quietFp) :
    let A := fun (j : Nat) => (s.m.t.member j).vec a.val
    let B := fun (j : Nat) => (s.m.t.member j).vec b.val
    let en := s.m.t.gov g
    let wide := fun j => decide (firstTag ((A j).tags ++ (B j).tags) = .f64)
    let f32 := fun j i => fp32.compare (s.m.t.fctx m) c ((A j).lane i).toNat ((B j).lane i).toNat
    let f64 := fun j e => fp64.compare (s.m.t.fctx m) c ((A j).el64 e).toNat ((B j).el64 e).toNat
    (∀ j, j < s.m.t.gangSize → s.m.t.conv m = true ∨
      ∀ t ∈ (if wide j then (A j).tags.take 4 ++ (B j).tags.take 4 else (A j).tags ++ (B j).tags),
        t = .unwritten ∨ t = (if wide j then .f64 else .f32)) →
    ∃ t1, exec (.vcmp m g c p a b) s = .next (s.done t1) ∧ sameBut s.m.t t1 ∧ ∀ j, j < s.m.t.gangSize →
      t1.member j = { (s.m.t.member j).setPred p
          (maskOf fun i => if wide j then decide (i < 8) && (en j).getLsbD (2 * (i / 2)) && (f64 j (i / 2)).1
            else (en j).getLsbD i && (f32 j i).1) with
        fl := (s.m.t.member j).fl.or (if wide j then
            flagsOf (((List.range 4).filter fun e => (en j).getLsbD (2 * e)).map fun e => (2 * e, (f64 j e).2))
          else flagsOf ((enabled (en j)).map fun i => (i, (f32 j i).2))) } := by
  intro A B en wide f32 f64 htags
  have hrun := exec_images (i := .vcmp m g c p a b) (F := vcmpT m g c p a b s.m.cycle) rfl h hq (bind_of_ok (vbounds_ok hfit) _)
    (fun j im => im.setPred p
      (maskOf fun i => if wide j then decide (i < 8) && (en j).getLsbD (2 * (i / 2)) && (f64 j (i / 2)).1
        else (en j).getLsbD i && (f32 j i).1))
    (fun j => if wide j then
        flagsOf (((List.range 4).filter fun e => (en j).getLsbD (2 * e)).map fun e => (2 * e, (f64 j e).2))
      else flagsOf ((enabled (en j)).map fun i => (i, (f32 j i).2))) fun t j hj _ => by
    have hpass := passTags_one (j := j) (htags j hj)
    have hk : firstTag ((A j).tags ++ (B j).tags) = .f64 ↔ wide j = true := decide_eq_true_iff.symm
    cases hw : wide j with
    | true =>
      simp only [hw, if_true] at hpass hk ⊢
      exact (if_pos (hk.mpr trivial)).trans (bind_of_ok hpass _)
    | false =>
      simp only [hw, Bool.false_eq_true, if_false] at hpass hk ⊢
      exact (if_neg hk.mp).trans (bind_of_ok hpass _)
  simpa only [fl_setPred] using hrun

/-! ### VSEL and VMOV (R223) -/

/-- The slots below n of a lane write in which each slot takes a tag of its own. -/
def Image.setSlots (g : Image) (s : Nat) (en : Mask) (f : Nat → BitVec 32) (tag : Nat → Tag) (n : Nat) : Image :=
  (List.range n).foldl (fun a i => a.setSlot s en f (tag i) i) g

theorem getLsbD_slotMask : ∀ i < 8, ∀ n < 16, (BitVec.ofNat 16 (3 * 4 ^ i)).getLsbD n = decide (n / 2 = i) := by decide

section
variable (g : Image) (s : Nat) (en : Mask) (f : Nat → BitVec 32)

theorem Image.setSlots_succ (tag : Nat → Tag) (n : Nat) :
    g.setSlots s en f tag (n + 1) = (g.setSlots s en f tag n).setSlot s en f (tag n) n := by
  simp [Image.setSlots, List.range_succ]

/-- A lane write under a mask of one slot is that slot's. -/
theorem setLanes_slotMask (tag : Tag) {i : Nat} (hi : i < 8) :
    g.setLanes s (en &&& BitVec.ofNat 16 (3 * 4 ^ i)) f tag = g.setSlot s en f tag i := by
  have hslot (a : Image) (k : Nat) (hk : k < 8) :
      a.setSlot s (en &&& BitVec.ofNat 16 (3 * 4 ^ i)) f tag k = if k = i then a.setSlot s en f tag i else a := by
    have h0 : 2 * k / 2 = k := by omega
    have h1 : (2 * k + 1) / 2 = k := by omega
    unfold Image.setSlot
    simp only [BitVec.getLsbD_and, getLsbD_slotMask i hi (2 * k) (by omega), getLsbD_slotMask i hi (2 * k + 1) (by omega), h0, h1]
    by_cases hki : k = i
    · subst hki
      simp
    · simp [hki]
  have hbelow (n : Nat) (hn : n ≤ 8) : setBelow g s (en &&& BitVec.ofNat 16 (3 * 4 ^ i)) f tag n =
      if i < n then g.setSlot s en f tag i else g := by
    induction n with
    | zero => rfl
    | succ n ih =>
      rw [setBelow_succ, ih (by omega), hslot _ n (by omega)]
      by_cases hin : i < n
      · rw [if_pos hin, if_neg (by omega), if_pos (by omega)]
      · rw [if_neg hin]
        exact if_congr (by omega) rfl rfl
  have hlanes : g.setLanes s (en &&& BitVec.ofNat 16 (3 * 4 ^ i)) f tag = setBelow g s (en &&& BitVec.ofNat 16 (3 * 4 ^ i)) f tag 8 := rfl
  rw [hlanes, hbelow 8 le_rfl, if_pos hi]

variable (tag : Nat → Tag)

/-- What is left in each register by a write of the slots below n. -/
theorem Image.cell_setSlots (n : Nat) :
    (∀ k, k < n → (g.setSlots s en f tag n).cell (slotKey (s + k)) =
      if slotOn en k then slotCell g s en f (tag k) k else g.cell (slotKey (s + k))) ∧
    ∀ x, (∀ k, k < n → x ≠ slotKey (s + k)) → (g.setSlots s en f tag n).cell x = g.cell x := by
  induction n with
  | zero => exact ⟨fun _ h => absurd h (Nat.not_lt_zero _), fun _ _ => rfl⟩
  | succ n ih =>
    obtain ⟨hslots, hother⟩ := ih
    have hold : (g.setSlots s en f tag n).cell (slotKey (s + n)) = g.cell (slotKey (s + n)) :=
      hother _ fun i hi => slotKey_ne (by omega)
    have hnew : slotCell (g.setSlots s en f tag n) s en f (tag n) n = slotCell g s en f (tag n) n := by
      have hlo : (g.setSlots s en f tag n).lane s (2 * n) = g.lane s (2 * n) :=
        lane_congr (by rw [Nat.mul_div_cancel_left n two_pos]; exact hold)
      have hhi : (g.setSlots s en f tag n).lane s (2 * n + 1) = g.lane s (2 * n + 1) :=
        lane_congr (by rw [show (2 * n + 1) / 2 = n by omega]; exact hold)
      rw [slotCell, slotCell, hlo, hhi]
    rw [Image.setSlots_succ]
    refine ⟨fun k hk => ?_, fun x hx => ?_⟩
    · rw [cell_setSlot, hnew]
      by_cases hkn : k = n
      · subst hkn
        simp only [and_true, hold]
      · rw [if_neg fun h => slotKey_ne hkn h.2]
        exact hslots k (by omega)
    · rw [cell_setSlot, if_neg fun h => hx n n.lt_succ_self h.2]
      exact hother x fun k hk => hx k (by omega)

theorem Image.setSlots_frame (n : Nat) : (g.setSlots s en f tag n).p = g.p ∧ (g.setSlots s en f tag n).fl = g.fl := by
  induction n with
  | zero => exact ⟨rfl, rfl⟩
  | succ n ih =>
    rw [Image.setSlots_succ]
    unfold Image.setSlot
    split <;> exact ih

end

/-- Outside a region, slots written with tags of their own in a member change its image alone. -/
theorem putSlots_plain {t : Task} (h : t.region = none) {j : Nat} (hj : j < t.gangSize) (s : Nat) (en : Mask)
    (f : Nat → BitVec 32) (tag : Nat → Tag) :
    t.putSlots j s en f tag = t.setMember j ((t.member j).setSlots s en f tag 8) := by
  have hbelow (n : Nat) (hn : n ≤ 8) :
      (List.range n).foldl (fun a i => a.putLanes j s (en &&& BitVec.ofNat 16 (3 * 4 ^ i)) f (tag i)) t =
        t.setMember j ((t.member j).setSlots s en f tag n) := by
    induction n with
    | zero => exact (t.setMember_member j).symm
    | succ n ih =>
      have hs : sameBut t (t.setMember j ((t.member j).setSlots s en f tag n)) := setMember_shape ..
      rw [List.range_succ, List.foldl_append, ih (by omega), List.foldl_cons, List.foldl_nil, putLanes_plain (hs.region.trans h),
        member_setMember _ hj, if_pos rfl, Task.setMember_setMember, setLanes_slotMask _ _ _ _ _ (by omega), Image.setSlots_succ]
  exact hbelow 8 le_rfl

/-- The lanes that VSEL and VMOV take: the enabled ones of VSEL, every one of VMOV. -/
def Task.selMask (t : Task) (q : Option (Fin 8)) (j : Nat) : Mask :=
  match q with
  | some p => (t.member j).pred p
  | none => BitVec.allOnes 16

/-- VSEL and VMOV write the slots of each member that have an enabled lane, with the tags of the source's. -/
theorem exec_vmov {i : Instr} {s : State} {rule : RRule} {g : Fin 8} {d a : Fin 256} {q : Option (Fin 8)}
    (he : exec i s = issueT rule (vmovT g d a q) s) (h : s.plain) (hfit : s.vfit [d, a] []) :
    let A := fun (j : Nat) => (s.m.t.member j).vec a.val
    ∃ t1, exec i s = .next (s.done t1) ∧ sameBut s.m.t t1 ∧ ∀ j, j < s.m.t.gangSize → t1.member j =
      (s.m.t.member j).setSlots d.val (s.m.t.gov g j) (fun n => if (s.m.t.selMask q j).getLsbD n then (A j).lane n else 0)
        (fun k => (A j).tags.getD k .unwritten) 8 :=
  exec_moves he h (bind_of_ok (vbounds_ok hfit) _) (fun j im => im.setSlots d.val (s.m.t.gov g j)
      (fun n => if (s.m.t.selMask q j).getLsbD n then ((s.m.t.member j).vec a.val).lane n else 0)
      (fun k => ((s.m.t.member j).vec a.val).tags.getD k .unwritten) 8)
    fun _ _ hj hs => congrArg Except.ok (putSlots_plain (hs.region.trans h.1) (hs.size.symm ▸ hj) ..)

end Sys2Proof.Machine
end

section
/-! PROOFS. O13: VCMP, VSEL and VMOV. -/

namespace Sys2Proof.Machine

/-- Settles O13: VCMP writes a predicate in each member (`exec_vcmp`); VSEL and VMOV write slots, each under a tag of its own
(`exec_vmov`), which read back by `Image.cell_setSlots`. -/
theorem vectorComparesMoves : Obligations.VectorComparesMoves := by
  unfold Obligations.VectorComparesMoves
  intro s m g c p q d a b h A B en wide f32 f64
  refine ⟨fun hfit hq htags => ?_, ?_⟩
  · obtain ⟨t1, hexec, ⟨hlen, hsame⟩, hmem⟩ := exec_vcmp h hfit hq htags
    exact ⟨t1, hexec, hlen, hsame, hmem⟩
  intro hfit moves
  have hmoves (i : Instr) (q' : Option (Fin 8)) (rule : RRule) (he : exec i s = issueT rule (vmovT g d a q') s) :
      moves i (s.m.t.selMask q') := by
    obtain ⟨t1, hexec, ⟨hlen, hsame⟩, hmem⟩ := exec_vmov he h hfit
    refine ⟨t1, hexec, hlen, hsame, fun j hj => ?_⟩
    rw [hmem j hj]
    obtain ⟨hp, hfl⟩ := (s.m.t.member j).setSlots_frame d.val (en j)
      (fun n => if (s.m.t.selMask q' j).getLsbD n then (A j).lane n else 0) (fun k => (A j).tags.getD k .unwritten) 8
    obtain ⟨hslots, hother⟩ := (s.m.t.member j).cell_setSlots d.val (en j)
      (fun n => if (s.m.t.selMask q' j).getLsbD n then (A j).lane n else 0) (fun k => (A j).tags.getD k .unwritten) 8
    exact ⟨hp, hfl, hslots, hother⟩
  exact ⟨hmoves _ none _ rfl, hmoves _ (some q) _ rfl⟩

end Sys2Proof.Machine
end

section
/-! SUPPORT. Lanes moved within the gang (12 R226, R227, R230). -/

namespace Sys2Proof.Machine

section
variable {s : State} {m : Option XMod} {g : Fin 8} {d a b : Fin 256}

/-! ### VBCAST, VSHUF, VPERM and VLANEI (R226, R227, R230) -/

/-- The lanes that VBCAST writes. -/
def bcastLane (z : BcSize) (x : Word) (i : Nat) : BitVec 32 := match z with
  | .w => x.setWidth 32
  | .d => if i % 2 = 0 then x.setWidth 32 else (x >>> 32).setWidth 32
  | .h => x.setWidth 16 ++ x.setWidth 16
  | .b => x.setWidth 8 ++ x.setWidth 8 ++ (x.setWidth 8 ++ x.setWidth 8)

/-- Their tag. -/
def bcastTag (z : BcSize) (k : Tag) : Tag := match z with
  | .w => if k = .i32 ∨ k = .f32 then k else .i32
  | .d => if k = .unwritten then .raw else k
  | .h => if k = .bf16 ∨ k = .f16 ∨ k = .i16 then k else .i16
  | .b => if k = .e4m3 ∨ k = .e5m2 ∨ k = .i8 then k else .i8

theorem bcastTag_ne_unwritten (z : BcSize) (k : Tag) : bcastTag z k ≠ .unwritten := by cases z <;> cases k <;> decide

theorem vecGives_vbcast {z : BcSize} {o : Opnd} (h : s.plain) (hfit : s.vfit [d] [o]) :
    VecGives (.vbcast m g z d o) s d.val (fun j => if z = .d then maskSlots (s.m.t.gov g j) else s.m.t.gov g j)
      (fun _ => bcastLane z (s.m.t.val o)) (fun _ => bcastTag z (s.m.t.tag o)) (fun _ => {}) := by
  refine vecGives_move (F := vbcastT g z d o)
    (f := fun t0 t j => .ok (t.putLanes j d.val (if z = .d then maskSlots (t0.gov g j) else t0.gov g j)
      (bcastLane z (s.m.t.val o)) (bcastTag z (s.m.t.tag o)))) rfl h (fun _ => bcastTag_ne_unwritten _ _) ?_ fun _ _ _ _ => rfl
  refine (bind_of_ok (vbounds_ok hfit) _).trans ?_
  cases z <;> rfl

theorem shufTag_ne_unwritten (l : List Tag) : shufTag l ≠ .unwritten := by
  unfold shufTag
  split_ifs with h
  · decide
  · exact h

theorem vecGives_vshuf (h : s.plain) (hfit : s.vfit [d, a, b] [])
    (htags : s.vtags m shufTags (fun j => ((s.m.t.member j).vec b.val).tags)) :
    VecGives (.vshuf m d a b) s d.val (fun _ => BitVec.allOnes 16)
      (fun j i => s.m.t.gangLane a.val ((((s.m.t.member j).vec b.val).lane i).toNat % (16 * s.m.t.gangSize)))
      (fun _ => shufTag (s.m.t.gangTags a.val)) (fun _ => {}) :=
  vecGives_move (F := vshufT m d a b) rfl h (fun _ => shufTag_ne_unwritten _) (bind_of_ok (vbounds_ok hfit) _)
    fun _ _ hj _ => bind_of_ok (passTags_ok htags hj) _

theorem vecGives_vperm (h : s.plain) (hfit : s.vfit [d, a, b] [])
    (htags : s.vtags m shufTags (fun j => ((s.m.t.member j).vec b.val).tags)) :
    let A := fun j => (s.m.t.member j).vec a.val
    let B := fun j => (s.m.t.member j).vec b.val
    VecGives (.vperm m d a b) s d.val (fun _ => BitVec.allOnes 16)
      (fun j i => BitVec.ofNat 32 ((List.range 4).map fun q =>
        (if 128 ≤ (B j).byte (4 * i + q) then 0 else (A j).byte ((B j).byte (4 * i + q) % 64)) * 2 ^ (8 * q)).sum)
      (fun j => shufTag (A j).tags) (fun _ => {}) :=
  vecGives_move (F := vpermT m d a b) rfl h (fun _ => shufTag_ne_unwritten _) (bind_of_ok (vbounds_ok hfit) _)
    fun _ _ hj _ => bind_of_ok (passTags_ok htags hj) _

theorem vecGives_vlanei (h : s.plain) (hfit : s.vfit [d] []) :
    VecGives (.vlanei g d) s d.val (s.m.t.gov g) (fun j i => BitVec.ofNat 32 (16 * j + i)) (fun _ => .i32) (fun _ => {}) :=
  vecGives_move (F := vlaneiT g d) (f := fun t0 t j => .ok (t.putLanes j d.val (t0.gov g j) (fun i => BitVec.ofNat 32 (16 * j + i)) .i32))
    rfl h (fun _ => by decide) (bind_of_ok (vbounds_ok hfit) _) fun _ _ _ _ => rfl

/-! ### VINS and VEXT (R230) -/

/-- A write of no lane changes nothing. -/
theorem lanesWritten_refl (im : Image) (s : Nat) (v : Nat → BitVec 32) (tag : Tag) : im.lanesWritten im s 0 v tag := by
  refine ⟨rfl, fun i _ hi => ?_, fun _ _ _ => rfl, fun k _ hk => ?_, fun _ _ _ => rfl, fun _ _ => rfl⟩
  · exact absurd hi (by simp)
  · exact absurd hk (by simp [slotOn])

/-- A lane write in one member of the gang. -/
theorem vecGives_one {i : Instr} {rule : RRule} {F : Task → Except Stop Task} {d k : Nat} {en : Nat → Mask} {v : Nat → BitVec 32}
    {tag : Tag} (he : exec i s = issueT rule F s) (h : s.plain) (ht : tag ≠ .unwritten) (hk : k < s.m.t.gangSize)
    (hF : F s.m.t = .ok (s.m.t.putLanes k d (en k) v tag)) :
    VecGives i s d (fun j => if j = k then en j else 0) (fun _ => v) (fun _ => tag) (fun _ => {}) := by
  rw [putLanes_plain h.1] at hF
  have hsame : sameBut s.m.t (s.m.t.setMember k ((s.m.t.member k).setLanes d (en k) v tag)) := setMember_shape ..
  refine ⟨_, he.trans (issueT_same h hF hsame), hsame.1, hsame.2, fun j hj => ?_⟩
  dsimp only
  rw [member_setMember _ hk, Flags.or_none]
  by_cases hjk : j = k
  · subst hjk
    rw [if_pos rfl, if_pos rfl]
    exact ⟨lanesWritten_setLanes _ _ _ _ _ ht, fl_setLanes ..⟩
  · rw [if_neg hjk, if_neg hjk]
    exact ⟨lanesWritten_refl .., rfl⟩

/-- A gang lane taken modulo the gang's lanes is in one of its members. -/
theorem gangLane_member_lt (x n : Nat) (hn : 0 < n) : x % (16 * n) / 16 < n :=
  Nat.div_lt_of_lt_mul (Nat.mod_lt _ (by omega))

variable {dd aa bb : Opnd}

theorem vecGives_vins (h : s.plain) (hfit : s.vfit [d] [aa, bb]) (hraw : s.rawOk m [bb]) :
    let L := (s.m.t.val bb).toNat % (16 * s.m.t.gangSize)
    VecGives (.vins m g d aa bb) s d.val
      (fun j => if j = L / 16 then s.m.t.gov g j &&& BitVec.ofNat 16 (2 ^ (L % 16)) else 0) (fun _ _ => (s.m.t.val aa).setWidth 32)
      (fun _ => if s.m.t.tag aa = .f32 then .f32 else .i32) (fun _ => {}) := by
  intro L
  refine vecGives_one (F := vinsT m g d aa bb) (en := fun j => s.m.t.gov g j &&& BitVec.ofNat 16 (2 ^ (L % 16))) rfl h ?_
    (gangLane_member_lt _ _ (Nat.succ_pos _)) ?_
  · split <;> decide
  · exact (bind_of_ok (vbounds_ok hfit) _).trans (bind_of_ok (raw_ok (hraw bb (List.mem_singleton_self bb))) _)

theorem vextT_ok (hfit : s.vfit [a] [dd, bb]) (hraw : s.rawOk m [bb]) :
    let L := (s.m.t.val bb).toNat % (16 * s.m.t.gangSize)
    vextT m dd a bb s.m.t = .ok (if ((s.m.t.member (L / 16)).cell (slotKey (a.val + L % 16 / 2))).tag = .f32
      then s.m.t.wr dd ((s.m.t.gangLane a.val L).setWidth 64) .f32
      else s.m.t.wr dd ((s.m.t.gangLane a.val L).signExtend 64) .raw) :=
  (bind_of_ok (vbounds_ok hfit) _).trans (bind_of_ok (raw_ok (hraw bb (List.mem_singleton_self bb))) _)

end

end Sys2Proof.Machine
end

section
/-! PROOFS. O14: VBCAST, VSHUF, VPERM, VINS, VEXT and VLANEI. -/

namespace Sys2Proof.Machine

/-- Settles O14: a lane write in every member, but for VINS, which writes in one (`vecGives_one`), and VEXT, a scalar result. -/
theorem vectorLanes : Obligations.VectorLanes := by
  unfold Obligations.VectorLanes
  intro s m g z d a b dd aa bb h n A B en lane x k L idx out all
  refine ⟨vecGives_vbcast h, fun hfit htags => ⟨vecGives_vshuf h hfit htags, vecGives_vperm h hfit htags⟩,
    vecGives_vins h, fun hfit hraw => ?_, vecGives_vlanei h⟩
  have hext := vextT_ok hfit hraw
  exact ⟨fun ht => gives_of (f := vextT m dd a bb) rfl h (hext.trans (congrArg Except.ok (if_pos ht))),
    fun ht => gives_of (f := vextT m dd a bb) rfl h (hext.trans (congrArg Except.ok (if_neg ht)))⟩

end Sys2Proof.Machine
end

section
/-! SUPPORT. Scalar results with flags, reductions and votes over the enabled lanes of a gang, and conversions (12 R228, R229, R231,
R232, R235, R238). -/

namespace Sys2Proof.Machine

/-! ### A scalar result with flags -/

/-- A task with one element's flags added in lane 0 of the leader. -/
def Task.withFlags (t : Task) (f : FSet) : Task := { t with img := { t.img with fl := t.img.fl.or (f.inLane 0) } }

/-- Where no FP event is enabled, a scalar result and its flags are written (R208). -/
theorem scalarFlags_quiet {t : Task} (hq : t.ctl.flgEn.toNat % 32 = 0) (d : Opnd) (v : Word) (tag : Tag) (f : FSet) (now : Nat) :
    t.scalarFlags d v tag f now = .ok ((t.wr d v tag).withFlags f) :=
  settleFlags_quiet (t := t.wr d v tag) hq [f.inLane 0] now

/-- An instruction whose effect is a scalar result and its flags. -/
theorem exec_withFlags {i : Instr} {s : State} {rule : RRule} {F : Task → Except Stop Task} {d : Opnd} {v : Word} {tag : Tag} {f : FSet}
    (he : exec i s = issueT rule F s) (h : s.plain) (hF : F s.m.t = .ok ((s.m.t.wr d v tag).withFlags f)) :
    exec i s = .next (s.done ((s.m.t.wr d v tag).withFlags f)) := by
  refine he.trans (issueT_ok h hF ?_ h.2)
  rw [Task.withFlags, Task.wr, wrMark_plain h.1]
  exact h.1

/-! ### Reductions (R228, R229) -/

theorem scanFloat_iff (o : ScanOp) : scanFloat o = decide (o = .fadd ∨ o = .fmax ∨ o = .fmin) := by cases o <;> rfl

theorem redTags_scan (o : ScanOp) : redTags (.scan o) = if scanFloat o then [.f32] else [.i32, .raw, .addr] := by cases o <;> rfl

section
variable {s : State} {m : Option XMod} {g : Fin 8} {a : Fin 256}

/-- Tags that pass in every member pass in all. -/
theorem passAll_ok {want : List Tag} (htags : s.vtags m want fun j => ((s.m.t.member j).vec a.val).tags) :
    s.m.t.passAll m want a.val 0 s.m.t.gangSize = .ok () := by
  have hfrom (n : Nat) : ∀ j, j + n ≤ s.m.t.gangSize → s.m.t.passAll m want a.val j n = .ok () := by
    induction n with
    | zero => exact fun _ _ => rfl
    | succ n ih =>
      intro j hj
      exact (bind_of_ok (passTags_ok htags (by omega)) _).trans (ih (j + 1) (by omega))
  exact hfrom _ 0 (by omega)

/-- The enabled lanes of the gang as 32-bit numbers, in gang order. -/
def Task.gangNats (t : Task) (g : Fin 8) (a : Fin 256) : List Nat :=
  (t.gangEnabled g).map fun p => ((t.member p.1).lane a.val p.2).toNat

variable {d : Opnd}

/-- VRED under an operation of R228. -/
theorem exec_vred_scan {o : ScanOp} (h : s.plain) (hfit : s.vfit [a] [d]) (hq : s.quietFp)
    (htags : s.vtags m (if scanFloat o then [.f32] else [.i32, .raw, .addr]) fun j => ((s.m.t.member j).vec a.val).tags) :
    let r := scanValue (s.m.t.fctx m) o (s.m.t.gangNats g a)
    exec (.vred m g d (.lanes (.scan o) a)) s =
      .next (s.done ((s.m.t.wr d r.1 (if scanFloat o then .f32 else .raw)).withFlags r.2)) :=
  exec_withFlags (F := vredT m g d (.lanes (.scan o) a) s.m.cycle) rfl h
    ((bind_of_ok (vbounds_ok hfit) _).trans ((bind_of_ok (passAll_ok ((redTags_scan o).symm ▸ htags)) _).trans (scalarFlags_quiet hq ..)))

/-- VRED under an operation on bits. -/
theorem gives_vred_bits (h : s.plain) (hfit : s.vfit [a] [d])
    (htags : s.vtags m [.i32, .raw, .addr] fun j => ((s.m.t.member j).vec a.val).tags) :
    Gives (.vred m g d (.lanes .and a)) s d (BitVec.ofNat 64 ((s.m.t.gangNats g a).foldl (· &&& ·) (2 ^ 32 - 1))) .raw ∧
    Gives (.vred m g d (.lanes .or a)) s d (BitVec.ofNat 64 ((s.m.t.gangNats g a).foldl (· ||| ·) 0)) .raw ∧
    Gives (.vred m g d (.lanes .xor a)) s d (BitVec.ofNat 64 ((s.m.t.gangNats g a).foldl (· ^^^ ·) 0)) .raw := by
  have hbounds := vbounds_ok hfit
  have hall := passAll_ok htags
  exact ⟨gives_of (f := vredT m g d (.lanes .and a) s.m.cycle) rfl h ((bind_of_ok hbounds _).trans (bind_of_ok hall _)),
    gives_of (f := vredT m g d (.lanes .or a) s.m.cycle) rfl h ((bind_of_ok hbounds _).trans (bind_of_ok hall _)),
    gives_of (f := vredT m g d (.lanes .xor a) s.m.cycle) rfl h ((bind_of_ok hbounds _).trans (bind_of_ok hall _))⟩

theorem ofNat_ite_one_zero (p : Prop) [Decidable p] : BitVec.ofNat 64 (if p then 1 else 0) = if p then 1 else 0 := by
  split <;> rfl

/-- VRED of a flag. -/
theorem gives_vred_flag {f : Flag} (h : s.plain) (hfit : s.fit [d]) :
    Gives (.vred m g d (.flag f)) s d
      (if (s.m.t.gangEnabled g).any fun p => ((s.m.t.member p.1).fl.get f).getLsbD p.2 then 1 else 0) .raw :=
  gives_of (f := vredT m g d (.flag f) s.m.cycle) rfl h (bind_of_ok (bounds_ok hfit) _)

/-- VSCAN writes in each enabled lane the fold up to it, in gang order. -/
theorem vecGives_vscan {o : ScanOp} {d : Fin 256} (h : s.plain) (hfit : s.vfit [d, a] []) (hq : s.quietFp)
    (htags : s.vtags m (if scanFloat o then [.f32] else [.i32, .raw, .addr]) fun j => ((s.m.t.member j).vec a.val).tags) :
    let upto := fun j i => scanValue (s.m.t.fctx m) o (((s.m.t.gangEnabled g).filter
      fun p => decide (16 * p.1 + p.2 ≤ 16 * j + i)).map fun p => ((s.m.t.member p.1).lane a.val p.2).toNat)
    VecGives (.vscan m g o d a) s d.val (s.m.t.gov g) (fun j i => (upto j i).1.setWidth 32)
      (fun _ => if scanFloat o then .f32 else .i32)
      (fun j => flagsOf ((enabled (s.m.t.gov g j)).map fun i => (i, (upto j i).2))) := by
  intro upto
  refine vecGives_of (F := vscanT m g o d a s.m.cycle) (now := s.m.cycle)
    rfl h hq (fun _ => ?_)
    ((bind_of_ok (vbounds_ok hfit) _).trans (bind_of_ok (passAll_ok ((redTags_scan o).symm ▸ htags)) _)) fun _ _ _ _ => rfl
  split <;> decide

/-! ### Votes (R238) -/

/-- The bit that a lane of the gang votes. -/
def Task.voteBit (t : Task) (src : VoteSrc) (p : Nat × Nat) : Bool := match src with
  | .pred q => ((t.member p.1).pred q).getLsbD p.2
  | .flag f => ((t.member p.1).fl.get f).getLsbD p.2

/-- VOTE over the enabled lanes of the gang. -/
theorem gives_vote {src : VoteSrc} (h : s.plain) (hfit : s.fit [d]) :
    let lanes := s.m.t.gangEnabled g
    let bit := s.m.t.voteBit src
    Gives (.vote g .any d src) s d (if lanes.any bit then 1 else 0) .raw ∧
    Gives (.vote g .all d src) s d (if lanes.all bit then 1 else 0) .raw ∧
    Gives (.vote g .cnt d src) s d (BitVec.ofNat 64 (lanes.filter bit).length) .raw ∧
    Gives (.vote g .mask d src) s d (BitVec.ofNat 64 ((lanes.filter bit).map fun p => 2 ^ (16 * p.1 + p.2)).sum) .raw := by
  intro lanes bit
  have hbounds := bounds_ok hfit
  have hany : BitVec.ofNat 64 (if (lanes.filter bit).isEmpty then 0 else 1) = if lanes.any bit then 1 else 0 := by
    cases hb : lanes.any bit with
    | true =>
      have : (lanes.filter bit).isEmpty = false := by simpa using hb
      simp [this]
    | false =>
      have : (lanes.filter bit).isEmpty = true := by simpa using hb
      simp [this]
  have hall : BitVec.ofNat 64 (if (lanes.filter bit).length = lanes.length then 1 else 0) = if lanes.all bit then 1 else 0 := by
    rw [ofNat_ite_one_zero]
    exact if_congr (List.length_filter_eq_length_iff.trans List.all_eq_true.symm) rfl rfl
  exact ⟨hany ▸ gives_of (f := voteT g .any d src) rfl h (bind_of_ok hbounds _),
    hall ▸ gives_of (f := voteT g .all d src) rfl h (bind_of_ok hbounds _),
    gives_of (f := voteT g .cnt d src) rfl h (bind_of_ok hbounds _),
    gives_of (f := voteT g .mask d src) rfl h (bind_of_ok hbounds _)⟩

end

section
variable {s : State} {m : Option XMod} {g : Fin 8} {d a : Fin 256}

/-! ### CVT (R231) -/

/-- CVT of a scalar whose tag names no described block. -/
theorem cvtT_ok {k : CvtTo} {dd aa : Opnd} (hq : s.quietFp) (hfit : s.fit [dd, aa])
    (htag : s.m.t.conv m = true ∨ s.m.t.tag aa ∉ [Tag.s16, .s8, .s4, .s2]) (now : Nat) :
    let r := convertTo (s.m.t.fctx m) (cvtSource (s.m.t.tag aa) (s.m.t.val aa)) (cvtTarget k).1
    cvtT m k dd aa now s.m.t = .ok ((s.m.t.wr dd (BitVec.ofNat 64 r.1) (cvtTarget k).2).withFlags r.2) := by
  have hpass : (!s.m.t.conv m && (s.m.t.tag aa == .s16 || s.m.t.tag aa == .s8 || s.m.t.tag aa == .s4 || s.m.t.tag aa == .s2)) = false := by
    rcases htag with hc | hk
    · rw [hc]
      rfl
    · simp only [List.mem_cons, List.not_mem_nil, or_false, not_or] at hk
      simp [hk]
  refine (bind_of_ok (bounds_ok hfit) _).trans ((if_neg (by rw [hpass]; decide)).trans (scalarFlags_quiet hq ..))

/-! ### VCVT (R232) -/

/-! ### VPACK and VUNPK (R235) -/

theorem packTag_ne_unwritten (k : PackFmt) : (packFmt k).2.2 ≠ .unwritten := by cases k <;> nofun

/-- An element lies in the part of d that a pack writes. -/
theorem packed_iff (h x : Nat) (b : Bool) :
    (decide (16 * h ≤ x) && decide (x - 16 * h < 16) && b) = (decide (16 * h ≤ x) && decide (x < 16 * h + 16) && b) := by
  congr 1
  by_cases hx : 16 * h ≤ x
  · simp only [hx, decide_true, Bool.true_and]
    exact decide_eq_decide.mpr (by omega)
  · simp only [hx, decide_false, Bool.false_and]

/-- VPACK writes the elements of its part of d whose lanes are enabled. -/
theorem vecGives_vpack {k : PackFmt} (h : s.plain) (hq : s.quietFp) (hfit : s.vfit [d, a] [])
    (htags : s.vtags m [.f32] fun j => ((s.m.t.member j).vec a.val).tags) :
    let fmt := (packFmt k).1
    let part := (packFmt k).2.1
    let w := fmt.width
    let per := 32 / w
    let en := s.m.t.gov g
    let p := fun j i => fp32.convert fmt (s.m.t.fctx m) (((s.m.t.member j).vec a.val).lane i).toNat
    let mine := fun j n q => decide (16 * part ≤ n * per + q) && decide (n * per + q < 16 * part + 16) &&
      (en j).getLsbD (n * per + q - 16 * part)
    VecGives (.vpack m g k d a) s d.val (fun j => maskOf fun n => (List.range per).any fun q => mine j n q)
      (fun j n => BitVec.ofNat 32 ((List.range per).map fun q =>
        (if mine j n q then (p j (n * per + q - 16 * part)).1
          else ((s.m.t.member j).lane d.val n).toNat / 2 ^ (w * q) % 2 ^ w) * 2 ^ (w * q)).sum)
      (fun _ => (packFmt k).2.2) (fun j => flagsOf ((enabled (en j)).map fun i => (i, (p j i).2))) := by
  intro fmt part w per en p mine
  refine vecGives_checked rfl h hq hfit (packTag_ne_unwritten k) rfl (fun t j hs => ?_) htags
  simp only [conc_plain (hs.region.trans h.1), ite_self, packed_iff]
  rfl

/-- VUNPK writes each enabled element, converted to FP32. -/
theorem vecGives_vunpk {k : PackFmt} (h : s.plain) (hq : s.quietFp) (hfit : s.vfit [d, a] []) :
    let fmt := (packFmt k).1
    let part := (packFmt k).2.1
    let w := fmt.width
    let per := 32 / w
    let en := s.m.t.gov g
    let A := fun j => (s.m.t.member j).vec a.val
    s.vtags m [(packFmt k).2.2] (fun j => (packSlots w part).map fun i => (A j).tags.getD i .unwritten) →
    let u := fun j i => fmt.convert fp32 (s.m.t.fctx m)
      (((A j).lane ((16 * part + i) / per)).toNat / 2 ^ (w * ((16 * part + i) % per)) % 2 ^ w)
    VecGives (.vunpk m g k d a) s d.val en (fun j i => BitVec.ofNat 32 (u j i).1) (fun _ => .f32)
      (fun j => flagsOf ((enabled (en j)).map fun i => (i, (u j i).2))) := by
  intro fmt part w per en A htags u
  exact vecGives_checked rfl h hq hfit (by decide) rfl (fun _ _ _ => rfl) htags

end

end Sys2Proof.Machine
end

section
/-! PROOFS. O15: VRED, VSCAN and VOTE. -/

namespace Sys2Proof.Machine

/-- Settles O15: the checks pass in every member (`passAll_ok`), and each result is the fold over the gang's enabled lanes. -/
theorem vectorReductions : Obligations.VectorReductions := by
  unfold Obligations.VectorReductions
  intro s m g q o f dd d a h lanes x float r withFl bits votes
  have hfloat : scanFloat o = float := scanFloat_iff o
  simp only [← hfloat]
  exact ⟨exec_vred_scan h, gives_vred_bits h, gives_vred_flag h,
    fun hfit => ⟨gives_vote h hfit, gives_vote h hfit⟩, vecGives_vscan h⟩

end Sys2Proof.Machine
end

section
/-! PROOFS. O16: CVT, VCVT, VPACK and VUNPK. -/

namespace Sys2Proof.Machine

/-- Settles O16: CVT is a scalar result with its flags (`cvtT_ok`); the others are lane writes after one check of tags
(`vecGives_checked`). -/
theorem conversions : Obligations.Conversions := by
  unfold Obligations.Conversions
  intro s m g k f dd aa d a h hq c A en on r withFl lanes nat
  refine ⟨fun hfit htag => exec_withFlags (F := cvtT m k dd aa s.m.cycle) rfl h (cvtT_ok hq hfit htag _), fun hfit => ?_, fun hfit => ?_⟩
  · exact ⟨vecGives_checked rfl h hq hfit (by decide) rfl fun _ _ _ => rfl,
      vecGives_checked rfl h hq hfit (by decide) rfl fun _ _ _ => rfl,
      vecGives_checked rfl h hq hfit (by decide) rfl fun _ _ _ => rfl,
      vecGives_checked rfl h hq hfit (by decide) rfl fun _ _ _ => rfl,
      vecGives_checked rfl h hq hfit (by decide) rfl fun _ _ _ => rfl,
      vecGives_checked rfl h hq hfit (by decide) rfl fun _ _ _ => rfl,
      vecGives_checked rfl h hq hfit (by decide) rfl fun _ _ _ => rfl⟩
  · exact ⟨vecGives_vpack h hq hfit, vecGives_vunpk h hq hfit⟩

end Sys2Proof.Machine
end

section
/-! SUPPORT. The flag instructions, and what the SFU owes a thread (12 R236, R237, R239, R240, R244). -/

namespace Sys2Proof.Machine

/-! ### FLRD, FLCLR, FLEN and DISBAND (R236, R237, R239, R244) -/

section
variable {s : State} {m : Option XMod} {g p : Fin 8} {d a : Opnd}

/-- The flags that FLRD copies. -/
def Flags.sel (l : Flags) (f : FlSel) : Mask := match f with
  | .one k => l.get k
  | .any => l.any

/-- FLRD copies the enabled lanes of each member's flags to its predicate. -/
theorem exec_flrd (h : s.plain) (f : FlSel) : ∃ t1, exec (.flrd g f p) s = .next (s.done t1) ∧ sameBut s.m.t t1 ∧
    ∀ j, j < s.m.t.gangSize → t1.member j =
      (s.m.t.member j).setPred p ((s.m.t.member j).fl.sel f &&& s.m.t.gov g j) :=
  exec_moves (F := flrdT g f p) rfl h rfl (fun j im => im.setPred p ((s.m.t.member j).fl.sel f &&& s.m.t.gov g j)) fun _ _ _ _ => rfl

/-- FLCLR clears the enabled lanes of each member's flags. -/
theorem exec_flclr (h : s.plain) (f : Option Flag) : ∃ t1, exec (.flclr g f) s = .next (s.done t1) ∧ sameBut s.m.t t1 ∧
    ∀ j, j < s.m.t.gangSize → t1.member j =
      { s.m.t.member j with fl := (s.m.t.member j).fl.clear f (s.m.t.gov g j) } :=
  exec_moves (F := flclrT g f) rfl h rfl (fun j im => { im with fl := im.fl.clear f (s.m.t.gov g j) }) fun _ _ _ _ => rfl

theorem exec_disband (h : s.plain) : exec .disband s = .next (s.done { s.m.t with fol := [] }) :=
  issueT_ok h rfl h.1 h.2

/-- FLEN exchanges FLG_EN. -/
theorem exec_flen (h : s.ready m [d, a] [a]) : exec (.flen m d a) s = .next (s.done
    { s.m.t.wr d (BitVec.ofNat 64 s.m.t.ctl.flgEn.toNat) .raw with
      ctl := { s.m.t.ctl with flgEn := BitVec.ofNat 9 ((s.m.t.val a).toNat % 32 + if (s.m.t.val a).getLsbD 8 then 256 else 0) } }) := by
  refine issueT_ok (f := flenT m d a) h.plain
    ((bind_of_ok h.bounds _).trans (bind_of_ok (h.raw (List.mem_singleton_self a)) _)) ?_ h.plain.2
  rw [Task.wr, wrMark_plain h.plain.1]
  exact h.plain.1

end


/-! ### The SFU (R240) -/

section
variable {s : State} {m : Option XMod} {f : Sfu}

/-- An instruction that asks the SFU parks, and its results are owed. -/
theorem exec_parkSfu {i : Instr} {rule : RRule} {F : Task → Except Stop Task} {t1 : Task} (he : exec i s = issueT rule F s)
    (h : s.plain) (hF : F s.m.t = .ok (s.m.t.parkSfu t1)) (h1 : t1 = { s.m.t with img := t1.img, fol := t1.fol }) :
    exec i s = .next (s.owes t1.img t1.fol) := by
  have hpark : s.m.t.parkSfu t1 = { s.m.t with phase := .parked .sfu, owed := some ⟨t1.img, t1.fol, none⟩ } := by
    have hphase : t1.phase = .ready := by rw [h1]; exact h.2
    rw [Task.parkSfu, hphase, h1]
  rw [hpark] at hF
  have ho : onTask F s.m = .ok (s.owes t1.img t1.fol).m := by rw [onTask, hF]; rfl
  exact he.trans (issue_held h.1 ho h.1 rfl (fits_of_ctxs rfl _))

/-- A lane write in every member with its flags, before more is done with the task. -/
theorem run_then {F : Task → Except Stop Task} {mf : Task → MemberFn} {now d : Nat} {K : Task → Except Stop Task} {en : Nat → Mask}
    {v : Nat → Nat → BitVec 32} {tag : Tag} {fl : Nat → Flags} (h : s.plain) (hq : s.quietFp)
    (hF : F s.m.t = (vecRun now mf s.m.t >>= K))
    (hf : ∀ t j, j < s.m.t.gangSize → sameBut s.m.t t → mf s.m.t t j = .ok (t.putLanes j d (en j) (v j) tag, fl j)) :
    ∃ t1, F s.m.t = K t1 ∧ sameBut s.m.t t1 ∧ ∀ j, j < s.m.t.gangSize →
      let im := (s.m.t.member j).setLanes d (en j) (v j) tag
      t1.member j = { im with fl := im.fl.or (fl j) } := by
  obtain ⟨t1, hrun, hsame, hmem⟩ := vecRun_images (now := now) (G := fun j im => im.setLanes d (en j) (v j) tag) (fl := fl) hq
    fun t j hj hs => (hf t j hj hs).trans (by rw [putLanes_plain (hs.region.trans h.1)])
  exact ⟨t1, hF.trans (bind_of_ok hrun K), hsame, hmem⟩

theorem exec_sfn {dd aa : Opnd} (h : s.plain) (hq : s.quietFp) (hfit : s.fit [dd, aa])
    (htag : s.m.t.conv m = true ∨ s.m.t.tag aa = .f32 ∨ s.m.t.tag aa = .unwritten) :
    let r := sfuValue (s.m.t.fctx m) f ((s.m.t.val aa).setWidth 32)
    let t := (s.m.t.wr dd (BitVec.ofNat 64 r.1) .f32).withFlags r.2
    exec (.sfn m f dd aa) s = .next (s.owes t.img s.m.t.fol) := by
  intro r t
  have hread : s.m.t.readAs m [.f32] aa = .ok (s.m.t.val aa) := by
    refine if_pos ?_
    simp only [Task.tag] at htag
    rcases htag with hc | hf32 | hun
    · simp [Task.tagOk, hc]
    · simp [Task.tagOk, hf32]
    · simp [Task.tagOk, hun]
  have ht : t = { s.m.t with img := t.img, fol := t.fol } := by
    simp only [t, Task.withFlags, Task.wr, wrMark_plain h.1]
  exact exec_parkSfu (F := sfnT m f dd aa s.m.cycle) rfl h ((bind_of_ok (bounds_ok hfit) _).trans
    ((bind_of_ok hread _).trans (bind_of_ok (scalarFlags_quiet hq ..) _))) ht

theorem exec_sfnv {g : Fin 8} {d a : Fin 256} (h : s.plain) (hq : s.quietFp) (hfit : s.vfit [d, a] [])
    (htags : s.vtags m [.f32] fun j => ((s.m.t.member j).vec a.val).tags) :
    let en := s.m.t.gov g
    let v := fun j i => sfuValue (s.m.t.fctx m) f (((s.m.t.member j).vec a.val).lane i)
    ∃ t1 : Task, exec (.sfnv m g f d a) s = .next (s.owes t1.img t1.fol) ∧ t1.fol.length = s.m.t.fol.length ∧
      ∀ j, j < s.m.t.gangSize →
        (s.m.t.member j).lanesWritten (t1.member j) d.val (en j) (fun i => BitVec.ofNat 32 (v j i).1) .f32 ∧
        (t1.member j).fl = (s.m.t.member j).fl.or (flagsOf ((enabled (en j)).map fun i => (i, (v j i).2))) := by
  intro en v
  obtain ⟨t1, hrun, hsame, hmem⟩ := run_then (F := sfnvT m g f d a s.m.cycle) h hq (bind_of_ok (vbounds_ok hfit) _)
    (fl := fun j => flagsOf ((enabled (en j)).map fun i => (i, (v j i).2)))
    (fun _ _ hj _ => bind_of_ok (passTags_ok htags hj) _)
  refine ⟨t1, exec_parkSfu rfl h hrun hsame.2, hsame.1, fun j hj => ?_⟩
  rw [hmem j hj]
  exact ⟨lanesWritten_setLanes (s.m.t.member j) d.val (en j) _ _ (by decide), by simp only [fl_setLanes]⟩

/-- The error ring takes nothing from the tasks, memory or the contexts. -/
theorem State.flushErrs_frame (s : State) :
    s.flushErrs.m.t = s.m.t ∧ s.flushErrs.m.mem = s.m.mem ∧ s.flushErrs.m.ctxs = s.m.ctxs := by
  refine List.foldlRecOn _ _ (motive := fun a : State => a.m.t = s.m.t ∧ a.m.mem = s.m.mem ∧ a.m.ctxs = s.m.ctxs) ⟨rfl, rfl, rfl⟩
    fun a ha r _ => ?_
  unfold State.logErr
  split <;> dsimp only <;> split <;> exact ha

/-- The results that the SFU owes the task in focus come with its park's end. -/
theorem parkResolved_owes (s : State) (img : Image) (fol : List Image) :
    (s.owes img fol).m.parkResolved s.m.t.gid = (s.owes img fol).m.mapTask s.m.t.gid Task.sfuDone := by
  have hfind : (s.owes img fol).m.find s.m.t.gid = some (s.owes img fol).m.t :=
    Mach.find_live (m := (s.owes img fol).m) (by simp [State.owes])
  rw [Mach.parkResolved, hfind]
  rfl

theorem exec_parkResolved_owes (s : State) (img : Image) (fol : List Image) :
    ∃ s1, exec (.parkResolved s.m.t.gid) (s.owes img fol) = .next s1 ∧
      s1.m.t = ({ s.m.t with img := img, fol := fol, owed := none } : Task).resume ∧ s1.m.mem = s.m.mem ∧ s1.m.ctxs = s.m.ctxs := by
  have hexec : exec (.parkResolved s.m.t.gid) (s.owes img fol) = .next ({ s.owes img fol with
      m := (s.owes img fol).m.mapTask s.m.t.gid Task.sfuDone } : State).flushErrs := by
    rw [← parkResolved_owes]
    rfl
  obtain ⟨ht, hmem, hctxs⟩ :=
    State.flushErrs_frame { s.owes img fol with m := (s.owes img fol).m.mapTask s.m.t.gid Task.sfuDone }
  refine ⟨_, hexec, ht.trans (if_pos ⟨rfl, by simp [State.owes]⟩), hmem, hctxs⟩

end

end Sys2Proof.Machine
end

section
/-! PROOFS. O18: the flag instructions and DISBAND. -/

namespace Sys2Proof.Machine

/-- Settles O18: FLRD and FLCLR change each member's image (`exec_moves`); FLEN and DISBAND change the task. -/
theorem flagOps : Obligations.FlagOps := by
  unfold Obligations.FlagOps
  intro s m g p f d a h en each any cut
  have heach {i : Instr} (G : Nat → Image → Image) (hi : ∃ t1, exec i s = .next (s.done t1) ∧ sameBut s.m.t t1 ∧
      ∀ j, j < s.m.t.gangSize → t1.member j = G j (s.m.t.member j)) : each i G := by
    obtain ⟨t1, hexec, ⟨hlen, hsame⟩, hmem⟩ := hi
    exact ⟨t1, hexec, hlen, hsame, hmem⟩
  have hclear (k : Option Flag) := heach (fun j im => { im with fl := im.fl.clear k (en j) }) (exec_flclr h k)
  have hread (k : FlSel) := heach (fun j im => im.setPred p (im.fl.sel k &&& en j)) (exec_flrd h k)
  refine ⟨hread (.one f), hread .any, ?_, hclear none, exec_disband h, exec_flen⟩
  have hcut (j : Nat) (l : Flags) : l.clear (some f) (en j) = cut j l := by cases f <;> rfl
  simp only [← hcut]
  exact hclear (some f)

end Sys2Proof.Machine
end

section
/-! PROOFS. O19: SFN and SFNV. -/

namespace Sys2Proof.Machine

/-- Settles O19: the request leaves the results owed (`exec_parkSfu`), and the park's end delivers them
(`exec_parkResolved_owes`). -/
theorem specialFunctions : Obligations.SpecialFunctions := by
  unfold Obligations.SpecialFunctions
  intro s m g f dd aa d a h hq r A en v
  exact ⟨exec_sfn h hq, exec_sfnv h hq, exec_parkResolved_owes s⟩

end Sys2Proof.Machine
end

section
/-! SUPPORT. Tasks found after a change, and the forming of gangs (12 R243, 04 R75, R78). -/

namespace Sys2Proof.Machine

/-! ### Events of the task unit -/

/-- An event that detects no error leaves its effect as the next state. -/
theorem eventM_quiet {s : State} {f : Mach → Mach} (h : (f s.m).errs = []) : eventM f s = .next { s with m := f s.m } :=
  congrArg Host.Outcome.next (State.flushErrs_none h)

/-! ### Tasks found by their identifiers -/

/-- A change of a task that keeps its identifier, and that it lives. -/
def keepsId (f : Task → Task) : Prop := ∀ x, (f x).gid = x.gid ∧ ((f x).phase = .ended ↔ x.phase = .ended)

theorem Mach.tasks_mapTask (m : Mach) (g : Gid) (f : Task → Task) :
    (m.mapTask g f).tasks = m.tasks.map fun x => if x.gid = g ∧ x.phase ≠ .ended then f x else x := rfl

theorem Mach.find_eq_some {m : Mach} {g : Gid} {t : Task} (h : m.find g = some t) : t.gid = g ∧ t.phase ≠ .ended := by
  simpa using List.find?_some h

theorem Mach.mem_tasks_of_find {m : Mach} {g : Gid} {t : Task} (h : m.find g = some t) : t ∈ m.tasks := List.mem_of_find?_eq_some h

/-- A change of one task by its identifier is found there, and nowhere else. -/
theorem Mach.find_mapTask (m : Mach) (g k : Gid) {f : Task → Task} (hf : keepsId f) :
    (m.mapTask g f).find k = if k = g then (m.find k).map f else m.find k := by
  have hsel : ((fun t : Task => t.gid == k && t.phase != .ended) ∘ fun x => if x.gid = g ∧ x.phase ≠ .ended then f x else x) =
      fun t : Task => t.gid == k && t.phase != .ended := by
    funext x
    rw [Function.comp]
    split
    · obtain ⟨hgid, hend⟩ := hf x
      rw [hgid, Bool.eq_iff_iff]
      simp [hend]
    · rfl
  have hmap : (m.mapTask g f).find k = (m.find k).map fun x => if x.gid = g ∧ x.phase ≠ .ended then f x else x := by
    rw [Mach.find, Mach.tasks_mapTask, List.find?_map, hsel, Mach.find]
  rw [hmap]
  cases hfind : m.find k with
  | none => simp
  | some x =>
    obtain ⟨hgid, hlive⟩ := Mach.find_eq_some hfind
    simp only [Option.map_some, hgid, hlive, ne_eq, not_false_eq_true, and_true]
    split <;> rfl

theorem Mach.find_addTask (m : Mach) (q : Task) (k : Gid) :
    (m.addTask q).find k = (m.find k).or (if q.gid = k ∧ q.phase ≠ .ended then some q else none) := by
  have htasks : (m.addTask q).tasks = m.tasks ++ [q] := rfl
  rw [Mach.find, htasks, List.find?_append, Mach.find]
  congr 1
  rw [List.find?_singleton]
  exact if_congr (by simp) rfl rfl

/-! ### GANG and GANG_FORM (12 R243, 04 R75, R78) -/

section
variable {s : State} {n : GangSize}

/-- GANG outside a gang waits for its members' slots. -/
theorem exec_gang_waits (h : s.plain) (hf : s.m.t.fol = []) : exec (.gang n) s =
    .next { s with m := { s.m with t := { s.m.t with phase := .waiting (.gang (gangCount n)) } } } :=
  issueT_error (f := gangT n) h (if_pos (by rw [hf]; rfl))

/-- GANG inside a gang is an illegal operation. -/
theorem traps_gang (h : s.plain) (hf : s.m.t.fol ≠ []) : Traps (.gang n) s 0x01 s.m.t.pc :=
  traps_of_task (f := gangT n) rfl h (if_neg (by rwa [List.isEmpty_iff]))

end

theorem two_le_gangCount (n : GangSize) : 2 ≤ gangCount n := by cases n <;> decide

/-- The leader of a gang of n formed on a slot about a core: with fresh followers, or with those saved. -/
def Task.gangLeader (t : Task) (core slot n : Nat) : Task :=
  let y := { t with seat := some (gangBase core n, slot), lines := some (gangBase core n) }
  if t.regang ≠ 0 then { y with regang := 0 } else { y with fol := List.replicate (n - 1) {} }.resume

section
variable {m : Mach} {core slot n : Nat} (hseat : m.t.seat = some (core, slot)) (hlive : m.t.phase ≠ .ended)
  (hrest : ∀ x ∈ m.others, x.gid ≠ m.t.gid ∧ (x.seatedOn = true → x.slot ≠ slot))
include hrest

/-- Where no other task sits on the slot's number, every slot of a gang about the task in focus can be reserved. -/
theorem Mach.reservable_alone (members : List Nat) (k : Nat) : m.reservable m.t.gid members k slot = true := by
  refine List.all_eq_true.mpr fun x hx => ?_
  rcases List.mem_cons.mp hx with rfl | hx
  · simp
  · cases hs : x.seatedOn with
    | false => simp
    | true => simp [(hrest x hx).2 hs]

include hseat

theorem Mach.occupant_alone {k : Nat} (hk : k ≠ core) : m.occupant k slot = none := by
  refine List.find?_eq_none.mpr fun x hx => ?_
  rcases List.mem_cons.mp hx with rfl | hx
  · simp [hseat, Ne.symm hk]
  · have hslot := (hrest x hx).2
    cases hp : x.seat with
    | none => simp
    | some p =>
      by_cases he : x.phase = .ended
      · simp [he]
      · simp only [Task.seatedOn, Task.slot, hp, Option.isSome_some, Bool.true_and, bne_iff_ne] at hslot
        have : p.2 ≠ slot := hslot he
        simp [Prod.ext_iff, this]

include hlive

/-- The gang forms about the task in focus, and nothing else changes. -/
theorem Mach.formGang_alone : m.formGang m.t core slot n = { m with t := m.t.gangLeader core slot n } := by
  have hres : ((gangOthers core n).all fun k => m.reservable m.t.gid (core :: gangOthers core n) k slot) = true :=
    List.all_eq_true.mpr fun k _ => Mach.reservable_alone hrest _ k
  have hfold (l : List Nat) (hl : ∀ k ∈ l, k ≠ core) : l.foldl (fun a k => match a.occupant k slot with
      | some w => a.unseat w.gid
      | none => a) m = m := by
    induction l with
    | nil => rfl
    | cons k r ih =>
      rw [List.foldl_cons, Mach.occupant_alone hseat hrest (hl k List.mem_cons_self)]
      exact ih fun j hj => hl j (List.mem_cons_of_mem _ hj)
  have hcores : ∀ k ∈ gangOthers core n, k ≠ core := fun k hk => by simpa using (List.mem_filter.mp hk).2
  have hothers : (m.others.map fun x => if x.gid = m.t.gid ∧ x.phase ≠ .ended then x.gangLeader core slot n else x) = m.others := by
    rw [List.map_congr_left fun x hx => if_neg fun h => (hrest x hx).1 h.1]
    exact List.map_id _
  have hmap : m.mapTask m.t.gid (·.gangLeader core slot n) = { m with t := m.t.gangLeader core slot n } := by
    rw [Mach.mapTask, hothers, if_pos ⟨rfl, hlive⟩]
  rw [← hmap, Mach.formGang, hres]
  refine (if_neg (by decide)).trans ?_
  exact congrArg (Mach.mapTask · _ _) (hfold _ hcores)

/-- GANG_FORM of the task in focus, which waits for a gang of n, or must have it again. -/
theorem Mach.gangForm_alone (hn : 2 ≤ n) (hneed : m.t.gangNeed = n) (hwait : m.t.inWait = true) :
    m.gangForm m.t.gid = { m with t := m.t.gangLeader core slot n } := by
  have hgo : ¬ (m.t.gangNeed ≤ 1 ∨ ¬ m.t.inWait = true) := by
    rw [hneed, hwait]
    simp
    omega
  rw [Mach.gangForm, Mach.find_live hlive]
  dsimp only
  rw [hseat]
  dsimp only
  rw [if_neg hgo, hneed]
  exact Mach.formGang_alone hseat hlive hrest

end

/-- GANG_FORM gives a waiting leader fresh followers. -/
theorem exec_gangForm_fresh {s : State} {core slot k : Nat} (herr : s.m.errs = []) (hk : 2 ≤ k)
    (hseat : s.m.t.seat = some (core, slot)) (hrest : ∀ x ∈ s.m.others, x.gid ≠ s.m.t.gid ∧ (x.seatedOn = true → x.slot ≠ slot))
    (hphase : s.m.t.phase = .waiting (.gang k)) (hre : s.m.t.regang = 0) :
    exec (.gangForm s.m.t.gid) s = .next { s with m := { s.m with t := { s.m.t.resume with
      seat := some (core / k * k, slot), lines := some (core / k * k), fol := List.replicate (k - 1) {} } } } := by
  have hform := Mach.gangForm_alone (n := k) hseat (by rw [hphase]; nofun) hrest hk (by simp [Task.gangNeed, hre, hphase])
    (by rw [Task.inWait, hphase])
  have hleader : s.m.t.gangLeader core slot k = { s.m.t.resume with
      seat := some (core / k * k, slot), lines := some (core / k * k), fol := List.replicate (k - 1) {} } := by
    rw [Task.gangLeader, if_neg (not_not_intro hre)]
    rfl
  rw [hleader] at hform
  exact (eventM_quiet (f := (·.gangForm s.m.t.gid)) (by rw [hform]; exact herr)).trans (by rw [hform])

/-- GANG_FORM gives a leader seated again its saved followers. -/
theorem exec_gangForm_saved {s : State} {core slot k : Nat} (herr : s.m.errs = []) (hk : 2 ≤ k)
    (hseat : s.m.t.seat = some (core, slot)) (hrest : ∀ x ∈ s.m.others, x.gid ≠ s.m.t.gid ∧ (x.seatedOn = true → x.slot ≠ slot))
    (hphase : s.m.t.phase = .ready) (hre : s.m.t.regang = k) :
    exec (.gangForm s.m.t.gid) s = .next { s with m := { s.m with t := { s.m.t with
      seat := some (core / k * k, slot), lines := some (core / k * k), regang := 0 } } } := by
  have hne : s.m.t.regang ≠ 0 := by omega
  have hform := Mach.gangForm_alone (n := k) hseat (by rw [hphase]; nofun) hrest hk (by rw [Task.gangNeed, if_pos hne, hre])
    (by simp [Task.inWait, hphase, hne, hseat])
  rw [Task.gangLeader, if_pos hne] at hform
  exact (eventM_quiet (f := (·.gangForm s.m.t.gid)) (by rw [hform]; exact herr)).trans (by rw [hform]; rfl)

end Sys2Proof.Machine
end

section
/-! SUPPORT. The decisions of the task unit: tasks seated and unseated, gates that show ERR, and queued tasks (04 R65, R80, 19 R356,
R361). -/

namespace Sys2Proof.Machine

/-! ### The best of a list (R80, R358) -/

/-- The better of a task and the best so far: R b x says that x takes b's place. -/
def better (R : Task → Task → Prop) [DecidableRel R] (a : Option Task) (x : Task) : Option Task :=
  match a with
  | none => some x
  | some b => if R b x then some x else some b

/-- A task that takes the place of every other, and whose place none takes, is the best. -/
theorem foldl_better {R : Task → Task → Prop} [DecidableRel R] {t : Task} :
    ∀ {ts : List Task} {a : Option Task}, (a = some t ∨ (t ∈ ts ∧ ∀ b, a = some b → R b t)) → (∀ x ∈ ts, x ≠ t → R x t) →
      (∀ x ∈ ts, ¬ R t x) → ts.foldl (better R) a = some t
  | [], _, ha, _, _ => ha.resolve_right fun h => List.not_mem_nil h.1
  | x :: r, a, ha, hbeats, hkeeps => by
    refine foldl_better (a := better R a x) ?_ (fun y hy => hbeats y (List.mem_cons_of_mem x hy))
      fun y hy => hkeeps y (List.mem_cons_of_mem x hy)
    rcases ha with rfl | ⟨hmem, hacc⟩
    · exact .inl (if_neg (hkeeps x List.mem_cons_self))
    · by_cases hx : x = t
      · subst hx
        left
        cases a with
        | none => rfl
        | some b => exact if_pos (hacc b rfl)
      · refine .inr ⟨(List.mem_cons.mp hmem).resolve_left (Ne.symm hx), fun b hb => ?_⟩
        have hxt := hbeats x List.mem_cons_self hx
        cases a with
        | none =>
          obtain rfl : x = b := Option.some.inj hb
          exact hxt
        | some y =>
          by_cases hyx : R y x
          · obtain rfl : x = b := Option.some.inj ((if_pos hyx).symm.trans hb)
            exact hxt
          · obtain rfl : y = b := Option.some.inj ((if_neg hyx).symm.trans hb)
            exact hacc y rfl

/-- A task of a higher priority, or queued earlier at the same, takes another's place. -/
abbrev outranked (b x : Task) : Prop := b.prio < x.prio ∨ (b.prio = x.prio ∧ x.queueNo < b.queueNo)

theorem bestOf_eq (ts : List Task) : bestOf ts = ts.foldl (better outranked) none := rfl

/-- The task that every other eligible one is outranked by is the one a core's task unit would seat. -/
theorem Mach.best_eq_some {m : Mach} {core : Nat} {t : Task} (ht : t ∈ m.tasks) (he : m.eligible core t = true)
    (hbest : ∀ x ∈ m.tasks, m.eligible core x = true → x ≠ t → outranked x t) : m.best core = some t := by
  rw [Mach.best, bestOf_eq]
  refine foldl_better (.inr ⟨List.mem_filter.mpr ⟨ht, he⟩, fun _ h => (Option.some_ne_none _ h.symm).elim⟩)
    (fun x hx hne => ?_) fun x hx => ?_
  · obtain ⟨hx, hxe⟩ := List.mem_filter.mp hx
    exact hbest x hx hxe hne
  · obtain ⟨hx, hxe⟩ := List.mem_filter.mp hx
    by_cases hne : x = t
    · subst hne
      simp [outranked]
    · have := hbest x hx hxe hne
      simp only [outranked] at this ⊢
      omega

/-! ### Slots (R361) -/

section
variable {m : Mach} {core slot : Nat}

theorem Mach.emptySlot_eq (hslot : slot < 16) (hfree : m.taken core slot = false) (hbelow : ∀ j, j < slot → m.taken core j = true) :
    m.emptySlot core = some slot :=
  List.find?_range_eq_some.mpr ⟨by simp [hfree], List.mem_range.mpr hslot, fun j hj => by simp [hbelow j hj]⟩

theorem Mach.emptySlot_none (hall : ∀ j, j < 16 → m.taken core j = true) : m.emptySlot core = none :=
  List.find?_range_eq_none.mpr fun j hj => by simp [hall j hj]

theorem Mach.waiterSlot_eq (hslot : slot < 16) {w : Task} (hw : m.occupant core slot = some w) (hwait : w.inWait = true)
    (hbelow : ∀ j, j < slot → ∃ x, m.occupant core j = some x ∧ x.inWait = false) : m.waiterSlot core = some slot := by
  refine List.find?_range_eq_some.mpr ⟨by rw [hw]; exact hwait, List.mem_range.mpr hslot, fun j hj => ?_⟩
  obtain ⟨x, hx, hwait⟩ := hbelow j hj
  rw [hx]
  simp [hwait]

end

/-! ### Seating and unseating (R65, R361) -/

/-- A task on its slot, before its priority is settled: where it is gated, it acquires as its BWAIT would (R356). -/
def Task.seatedAt (t : Task) (core slot : Nat) (gated : Bool) (no : Nat) : Task :=
  let t1 := { t with seat := some (core, slot), lines := some core, migrates := false, cluster := clusterOf core }
  if gated then t1.acquire .dv no else t1

/-- What of a task is as it was once it takes a slot at its base priority. -/
def Task.seatedFrom (u t : Task) (core slot : Nat) : Prop :=
  u = { t with seat := some (core, slot), lines := some core, migrates := false, cluster := clusterOf core,
               acqCl := u.acqCl, acqDv := u.acqDv, prio := t.basePrio }

theorem Task.seatedFrom_seatedAt (t : Task) (core slot : Nat) (gated : Bool) (no : Nat) :
    Task.seatedFrom { t.seatedAt core slot gated no with prio := (t.seatedAt core slot gated no).basePrio } t core slot := by
  unfold Task.seatedFrom Task.seatedAt
  cases gated <;> rfl

theorem keepsId_seatedAt (core slot : Nat) (gated : Bool) (no : Nat) : keepsId (·.seatedAt core slot gated no) := by
  intro x
  unfold Task.seatedAt
  cases gated <;> exact ⟨rfl, Iff.rfl⟩

theorem keepsId_basePrio : keepsId fun x => { x with prio := x.basePrio } := fun _ => ⟨rfl, Iff.rfl⟩

/-- A task that produces nothing takes its base priority. -/
theorem Mach.settlePrio_eq {m : Mach} {g : Gid} {t : Task} (h : m.find g = some t) (hp : t.produces = none) :
    m.settlePrio g = m.mapTask g fun x => { x with prio := x.basePrio } := by
  rw [Mach.settlePrio, h]
  dsimp only
  rw [show (m.mapTask g fun x => { x with prio := x.basePrio }).produced t = none by rw [Mach.produced, hp]; rfl]

/-- A task that produces nothing is seated by two changes of it. -/
theorem Mach.seatTask_eq {m : Mach} {g : Gid} {t : Task} (h : m.find g = some t) (hp : t.produces = none) (core slot : Nat) :
    m.seatTask g core slot = (m.mapTask g (·.seatedAt core slot (!(m.declsOf t).isEmpty) m.order)).mapTask g
      fun x => { x with prio := x.basePrio } := by
  have hseat : (m.mapTask g (·.seatedAt core slot (!(m.declsOf t).isEmpty) m.order)).find g =
      some (t.seatedAt core slot (!(m.declsOf t).isEmpty) m.order) := by
    rw [Mach.find_mapTask _ _ _ (keepsId_seatedAt _ _ _ _), if_pos rfl, h]
    rfl
  have hnone : (t.seatedAt core slot (!(m.declsOf t).isEmpty) m.order).produces = none := by
    rw [← hp]
    unfold Task.seatedAt
    split <;> rfl
  rw [← Mach.settlePrio_eq hseat hnone, Mach.seatTask, h]
  rfl

/-- What seating leaves: the task on its slot, and everything else as it was. -/
theorem Mach.seatTask_spec {m : Mach} {g : Gid} {t : Task} (h : m.find g = some t) (hp : t.produces = none) (core slot : Nat) :
    (∃ u, (m.seatTask g core slot).find g = some u ∧ u.seatedFrom t core slot) ∧
    (∀ k, k ≠ g → (m.seatTask g core slot).find k = m.find k) ∧
    (m.seatTask g core slot).mem = m.mem ∧ (m.seatTask g core slot).errs = m.errs := by
  rw [Mach.seatTask_eq h hp]
  refine ⟨⟨_, ?_, Task.seatedFrom_seatedAt t core slot (!(m.declsOf t).isEmpty) m.order⟩, fun k hk => ?_, rfl, rfl⟩
  · rw [Mach.find_mapTask _ _ _ keepsId_basePrio, if_pos rfl, Mach.find_mapTask _ _ _ (keepsId_seatedAt _ _ _ _), if_pos rfl, h]
    rfl
  · rw [Mach.find_mapTask _ _ _ keepsId_basePrio, if_neg hk, Mach.find_mapTask _ _ _ (keepsId_seatedAt _ _ _ _), if_neg hk]

theorem Phase.setAside_eq_ended (p : Phase) : p.setAside = .ended ↔ p = .ended := by
  unfold Phase.setAside
  split <;> simp_all

theorem keepsId_setAside (now no : Nat) : keepsId (·.setAside now no) := fun x => ⟨rfl, x.phase.setAside_eq_ended⟩

/-- What unseating leaves: the task off its slot, and the other tasks as they were. -/
theorem Mach.unseat_spec {m : Mach} {g : Gid} {w : Task} (h : m.find g = some w) :
    (m.unseat g).find g = some (w.setAside m.cycle m.order) ∧ (∀ k, k ≠ g → (m.unseat g).find k = m.find k) ∧
    (m.unseat g).errs = m.errs := by
  have htick (k : Gid) : ((m.tick).mapTask g (·.setAside m.cycle m.order)).find k =
      if k = g then (m.find k).map (·.setAside m.cycle m.order) else m.find k :=
    m.tick.find_mapTask g k (keepsId_setAside _ _)
  have hsame (m1 : Mach) (ht : m1.tasks = ((m.tick).mapTask g (·.setAside m.cycle m.order)).tasks) (he : m1.errs = m.errs) :
      m1.find g = some (w.setAside m.cycle m.order) ∧ (∀ k, k ≠ g → m1.find k = m.find k) ∧ m1.errs = m.errs := by
    refine ⟨?_, fun k hk => ?_, he⟩
    · rw [Mach.find, ht]
      exact (htick g).trans (by rw [if_pos rfl, h]; rfl)
    · rw [Mach.find, ht]
      exact (htick k).trans (if_neg hk)
  rw [Mach.unseat, h]
  dsimp only
  split <;> exact hsame _ rfl rfl

/-- A task that takes a slot keeps what TaskUnit says of it. -/
theorem Task.seatedFrom.keeps {u t : Task} {core slot : Nat} (h : u.seatedFrom t core slot) :
    (u.gid = t.gid ∧ u.pc = t.pc ∧ u.img = t.img ∧ u.fol = t.fol ∧ u.ctl = t.ctl ∧ u.phase = t.phase) ∧
    u.seat = some (core, slot) ∧ u.prio = t.basePrio := by
  rw [h]
  exact ⟨⟨rfl, rfl, rfl, rfl, rfl, rfl⟩, rfl, rfl⟩

/-! ### A decision of the task unit (R356, R361) -/

/-- Where no declared object shows ERR, no gate holds the decision up. -/
theorem Mach.gateErr_none {m : Mach} {core : Nat} (h : ∀ x ∈ m.tasks, ∀ p ∈ m.declsOf x, (m.bar core p.1).err = false) :
    m.gateErr core = none := by
  refine List.findSome?_eq_none_iff.mpr fun x hx => ?_
  have hany : ((m.declsOf x).any fun p => (m.bar core p.1).err) = false :=
    List.any_eq_false.mpr fun p hp => by simp [h x hx p hp]
  exact if_neg (by simpa using fun _ => List.any_eq_false.mp hany)

section
variable {m : Mach} {core slot : Nat} {t : Task} (hgate : m.gateErr core = none) (hbest : m.best core = some t)
include hgate hbest

theorem Mach.taskSeat_empty (hslot : m.emptySlot core = some slot) : m.taskSeat core = m.seatTask t.gid core slot := by
  rw [Mach.taskSeat, hgate]
  dsimp only
  rw [hbest]
  dsimp only
  rw [hslot]

theorem Mach.taskSeat_waiter {w : Task} (hslot : m.emptySlot core = none) (hwait : m.waiterSlot core = some slot)
    (hw : m.occupant core slot = some w) : m.taskSeat core = (m.unseat w.gid).seatTask t.gid core slot := by
  rw [Mach.taskSeat, hgate]
  dsimp only
  rw [hbest]
  dsimp only
  rw [hslot]
  dsimp only
  rw [hwait]
  dsimp only
  rw [hw]

end

theorem exec_taskSeat {s : State} {core : Nat} (h : (s.m.taskSeat core).errs = []) :
    exec (.taskSeat core) s = .next { s with m := s.m.taskSeat core } := eventM_quiet (f := (·.taskSeat core)) h

section
variable {s : State} {core slot : Nat} {t : Task} (herr : s.m.errs = []) (hgate : s.m.gateErr core = none)
  (hbest : s.m.best core = some t) (hfind : s.m.find t.gid = some t) (hp : t.produces = none)
include herr hgate hbest hfind hp

/-- The best task takes the lowest empty slot. -/
theorem exec_taskSeat_empty (hslot : s.m.emptySlot core = some slot) : ∃ s1, exec (.taskSeat core) s = .next s1 ∧
    (∃ u, s1.m.find t.gid = some u ∧ u.seatedFrom t core slot) ∧ s1.m.mem = s.m.mem ∧ s1.sys = s.sys ∧
    ∀ g, g ≠ t.gid → s1.m.find g = s.m.find g := by
  obtain ⟨hu, hother, hmem, herrs⟩ := Mach.seatTask_spec hfind hp core slot
  rw [← Mach.taskSeat_empty hgate hbest hslot] at hu hother hmem herrs
  exact ⟨_, exec_taskSeat (herrs.trans herr), hu, hmem, rfl, hother⟩

/-- With no slot empty it takes the one of the lowest waiter, which is unseated. -/
theorem exec_taskSeat_waiter {w : Task} (hslot : s.m.emptySlot core = none) (hwait : s.m.waiterSlot core = some slot)
    (hw : s.m.occupant core slot = some w) (hwfind : s.m.find w.gid = some w) (hne : w.gid ≠ t.gid) :
    ∃ s1 v, exec (.taskSeat core) s = .next s1 ∧ (∃ u, s1.m.find t.gid = some u ∧ u.seatedFrom t core slot) ∧ s1.sys = s.sys ∧
      s1.m.find w.gid = some v ∧ v.seat = none ∧ v.img = w.img ∧ v.pc = w.pc := by
  obtain ⟨hv, hrest, herrs⟩ := Mach.unseat_spec hwfind
  obtain ⟨hu, hother, -, herrs1⟩ := Mach.seatTask_spec ((hrest t.gid hne.symm).trans hfind) hp core slot
  have hout := (hother w.gid hne).trans hv
  rw [← Mach.taskSeat_waiter hgate hbest hslot hwait hw] at hu hout herrs1
  exact ⟨_, _, exec_taskSeat (herrs1.trans (herrs.trans herr)), hu, rfl, hout, rfl, rfl, rfl⟩

end

/-! ### A gate that shows ERR (R356) -/

/-- A task queued behind a declared object that shows ERR holds the decision up, and so does no task but a queued one. -/
theorem Mach.gateErr_some {m : Mach} {core : Nat} {t : Task} (ht : t ∈ m.tasks) (hq : m.queuedFor core t = true)
    (herr : ∃ p ∈ m.declsOf t, (m.bar core p.1).err = true) :
    ∃ x r, m.gateErr core = some (x, r) ∧ x ∈ m.tasks ∧ m.queuedFor core x = true := by
  obtain ⟨p, hp, hperr⟩ := herr
  have hr : ∃ r, t.rec_ = some r := by
    cases hrec : t.rec_ with
    | none =>
      rw [Mach.declsOf, hrec] at hp
      exact absurd hp List.not_mem_nil
    | some r => exact ⟨r, rfl⟩
  obtain ⟨r, hrec⟩ := hr
  have hsome : (m.gateErr core).isSome := by
    rw [Mach.gateErr, List.findSome?_isSome_iff]
    refine ⟨t, ht, ?_⟩
    rw [if_pos]
    · rw [hrec]
      rfl
    · rw [hq, Bool.true_and]
      exact List.any_eq_true.mpr ⟨p, hp, hperr⟩
  obtain ⟨⟨x, k⟩, hx⟩ := Option.isSome_iff_exists.mp hsome
  obtain ⟨y, hy, hyx⟩ := List.exists_of_findSome?_eq_some hx
  split at hyx
  · next hcond =>
    obtain ⟨j, -, hj⟩ := Option.map_eq_some_iff.mp hyx
    obtain ⟨rfl, -⟩ := Prod.mk.inj hj
    exact ⟨y, k, hx, hy, (Bool.and_eq_true _ _ ▸ hcond).1⟩
  · exact absurd hyx (by simp)

/-- A unit's fault raises the halt line of its context. -/
theorem Mach.line_unitFault (m : Mach) (c : Nat) (u : UnitRef) (op addr : Nat) (r : ErrRec) (n : Nat) :
    ((m.unitFault c u op addr r n).ctx c).halt.line = true := by
  simp only [Mach.unitFault, Mach.haltError, Mach.raiseLine, Mach.ctx_setCtx, if_true]
  split
  · assumption
  · rfl

theorem Mach.unitFault_frame (m : Mach) (c : Nat) (u : UnitRef) (op addr : Nat) (r : ErrRec) (n : Nat) :
    (m.unitFault c u op addr r n).t = m.t ∧ (m.unitFault c u op addr r n).others = m.others ∧
    (m.unitFault c u op addr r n).errs = m.errs := by
  simp [Mach.unitFault, Mach.haltError, Mach.raiseLine]

/-- The task unit raises the halt line of a context whose queued task's gate shows ERR. -/
theorem exec_taskSeat_gateErr {s : State} {core : Nat} {t : Task} (herr : s.m.errs = []) (ht : t ∈ s.m.tasks)
    (hq : s.m.queuedFor core t = true) (hgate : ∃ p ∈ s.m.declsOf t, (s.m.bar core p.1).err = true)
    (hall : ∀ x ∈ s.m.tasks, s.m.queuedFor core x = true → ctxOf x.gid = ctxOf t.gid) :
    ∃ s1, exec (.taskSeat core) s = .next s1 ∧ (s1.m.ctx (ctxOf t.gid)).halt.line = true ∧ s1.m.t = s.m.t ∧
      s1.m.others = s.m.others := by
  obtain ⟨x, r, hx, hmem, hxq⟩ := Mach.gateErr_some ht hq hgate
  have hseat : s.m.taskSeat core = s.m.gateFault (ctxOf t.gid) r core := by
    rw [Mach.taskSeat, hx, ← hall x hmem hxq]
  obtain ⟨ht, hothers, herrs⟩ : (s.m.taskSeat core).t = s.m.t ∧ (s.m.taskSeat core).others = s.m.others ∧
      (s.m.taskSeat core).errs = s.m.errs := by
    rw [hseat]
    exact s.m.unitFault_frame ..
  exact ⟨_, exec_taskSeat (herrs.trans herr), by rw [hseat]; exact s.m.line_unitFault .., ht, hothers⟩

/-! ### Queued tasks age and migrate (R80, R361) -/

/-- A task that declares nothing is behind no gate. -/
theorem Mach.isGated_false {m : Mach} {t : Task} (h : m.declsOf t = []) : m.isGated t = false := by
  have hholds (core : Nat) : m.gatesHold t core = true := by rw [Mach.gatesHold, h]; rfl
  have hany : ((m.homeCores t).any fun c => m.gatesHold t c) = true := by
    simp only [hholds, List.any_eq_true, and_true]
    unfold Mach.homeCores
    split
    · exact ⟨_, List.mem_singleton_self _⟩
    · exact ⟨8 * t.cluster + 0, List.mem_map_of_mem (List.mem_range.mpr (by decide))⟩
  rw [Mach.isGated, hany]
  rfl

section
variable {s : State} {t : Task} (herr : s.m.errs = []) (hfind : s.m.find t.gid = some t)
include herr hfind

/-- TASK_AGING of a task queued for more than 40,000 cycles. -/
theorem exec_taskAging_old (hphase : t.phase = .ready) (hseat : t.seat = none) (hdecl : s.m.declsOf t = [])
    (hctx : s.m.seats (ctxOf t.gid) = true) (hprio : t.prio < 3) (hold : t.queuedAt + 40000 < s.m.cycle) :
    ∃ s1, exec (.taskAging t.gid) s = .next s1 ∧ s1.m.mem = s.m.mem ∧ s1.sys = s.sys ∧
      s1.m.find t.gid = some { t with prio := t.prio + 1, queuedAt := s.m.cycle, queueNo := s.m.order } := by
  have hage : s.m.age t.gid = (s.m.tick).mapTask t.gid fun x =>
      { x with prio := x.prio + 1, queuedAt := s.m.cycle, queueNo := s.m.order } := by
    rw [Mach.age, hfind]
    exact if_pos ⟨hphase, by rw [hseat]; rfl, by simp [Mach.isGated_false hdecl], hctx, hprio, hold⟩
  have hkeep : keepsId fun x => { x with prio := x.prio + 1, queuedAt := s.m.cycle, queueNo := s.m.order } :=
    fun _ => ⟨rfl, Iff.rfl⟩
  refine ⟨_, eventM_quiet (f := (·.age t.gid)) (by rw [hage]; exact herr), by rw [hage]; rfl, rfl, ?_⟩
  rw [hage, Mach.find_mapTask _ _ _ hkeep, if_pos rfl]
  exact congrArg (Option.map _) hfind

/-- TASK_AGING of one queued for no longer. -/
theorem exec_taskAging_young (hyoung : s.m.cycle ≤ t.queuedAt + 40000) : exec (.taskAging t.gid) s = .next s := by
  have hage : s.m.age t.gid = s.m := by
    rw [Mach.age, hfind]
    exact if_neg fun h => Nat.not_lt.mpr hyoung h.2.2.2.2.2
  exact (eventM_quiet (f := (·.age t.gid)) (by rw [hage]; exact herr)).trans (by rw [hage])

/-- CONTINUATION_MIGRATE of a task queued for 1,024 cycles. -/
theorem exec_continuationMigrate (hphase : t.phase = .ready) (hseat : t.seat = none) (hbound : s.m.boundTo t = none)
    (hold : t.contAt + 1024 ≤ s.m.cycle) :
    ∃ s1, exec (.continuationMigrate t.gid) s = .next s1 ∧ s1.m.mem = s.m.mem ∧ s1.sys = s.sys ∧
      s1.m.find t.gid = some { t with migrates := true } := by
  have hkeep : keepsId fun x => if x.phase = .ready ∧ x.seat.isNone ∧ s.m.boundTo x = none ∧ x.contAt + 1024 ≤ s.m.cycle
      then { x with migrates := true } else x := by
    intro x
    dsimp only
    split <;> exact ⟨rfl, Iff.rfl⟩
  refine ⟨_, eventM_quiet (f := (·.migrate t.gid)) herr, rfl, rfl, ?_⟩
  refine (s.m.find_mapTask t.gid t.gid hkeep).trans ?_
  rw [if_pos rfl, hfind, Option.map_some]
  exact congrArg some (if_pos ⟨hphase, by rw [hseat]; rfl, hbound, hold⟩)

end

end Sys2Proof.Machine
end

section
/-! SUPPORT. Intervals stolen (04 R70, 19 R357, R358): serials, new tasks of a record, the victim and its halves. -/

namespace Sys2Proof.Machine

/-! ### Serials (R71) -/

/-- A change of one task commutes with the drawing of a serial. -/
theorem Mach.nextSerialOf_mapTask (m : Mach) (g : Gid) (f : Task → Task) (c cl : Nat) :
    (m.mapTask g f).nextSerialOf c cl = ((m.nextSerialOf c cl).1, (m.nextSerialOf c cl).2.mapTask g f) := by
  have hdraw : (m.mapTask g f).drawBlock c cl = (m.drawBlock c cl).mapTask g f := by
    unfold Mach.drawBlock
    rw [show (m.mapTask g f).ctx c = m.ctx c from rfl]
    split <;> rfl
  rw [Mach.nextSerialOf, hdraw]
  rfl

theorem Mach.serialFrom_mapTask (g : Gid) {f : Task → Task} (hf : keepsId f) (c cl : Nat) : ∀ (n : Nat) (m : Mach),
    (m.mapTask g f).serialFrom c cl n = ((m.serialFrom c cl n).1, (m.serialFrom c cl n).2.mapTask g f)
  | 0, m => m.nextSerialOf_mapTask g f c cl
  | n + 1, m => by
    have hfind : ((m.mapTask g f).find (gidOf c (m.nextSerialOf c cl).1)).isSome = (m.find (gidOf c (m.nextSerialOf c cl).1)).isSome := by
      rw [m.find_mapTask g _ hf]
      split
      · exact Option.isSome_map
      · rfl
    rw [Mach.serialFrom, Mach.serialFrom, Mach.nextSerialOf_mapTask]
    dsimp only
    rw [hfind]
    split
    · exact Mach.serialFrom_mapTask g hf c cl n _
    · rfl

theorem Mach.takeSerial_mapTask (m : Mach) (g : Gid) {f : Task → Task} (hf : keepsId f) (c cl : Nat) :
    ((m.mapTask g f).takeSerial c cl).1 = (m.takeSerial c cl).1 := by
  rw [Mach.takeSerial, Mach.serialFrom_mapTask g hf, Mach.tasks_mapTask, List.length_map, Mach.takeSerial]

theorem Mach.errs_nextSerialOf (m : Mach) (c cl : Nat) : (m.nextSerialOf c cl).2.errs = m.errs := by
  show (m.drawBlock c cl).errs = m.errs
  unfold Mach.drawBlock
  split <;> rfl

theorem Mach.errs_serialFrom (c cl : Nat) : ∀ (n : Nat) (m : Mach), (m.serialFrom c cl n).2.errs = m.errs
  | 0, m => m.errs_nextSerialOf c cl
  | n + 1, m => by
    rw [Mach.serialFrom]
    dsimp only
    split
    · exact (Mach.errs_serialFrom c cl n _).trans (m.errs_nextSerialOf c cl)
    · exact m.errs_nextSerialOf c cl

theorem Mach.errs_takeSerial (m : Mach) (c cl : Nat) : (m.takeSerial c cl).2.errs = m.errs := Mach.errs_serialFrom c cl _ m

/-! ### Records and their new tasks (R67, R68) -/

theorem Mach.launch_updRec (m : Mach) (c r d b : Nat) (f : PoolRec → PoolRec) :
    (m.updRec c r f).launch d b = if d = c ∧ b = r then f (m.launch c r) else m.launch d b := by
  rw [Mach.launch, Mach.updRec, Mach.ctx_setCtx]
  by_cases hd : d = c
  · subst hd
    rw [if_pos rfl]
    simp only [Tab.upd, Tab.look_put, true_and]
    rfl
  · rw [if_neg hd, if_neg fun h => hd h.1]
    rfl

theorem Mach.OnlyDraws.launch {m m1 : Mach} (h : m.OnlyDraws m1) (c r : Nat) : m1.launch c r = m.launch c r := by
  obtain ⟨n, b, he⟩ := h.ctx c
  rw [Mach.launch, he, Mach.launch]

/-- What a new range task of a record counts in it. -/
theorem Mach.launch_newRange (m : Mach) (c r : Nat) (kind : Kind) (lo hi : Nat) (isSealed : Bool) (cl d b : Nat) :
    (m.newRange c r kind lo hi isSealed cl).2.launch d b = if d = c ∧ b = r then
      { m.launch c r with live := (m.launch c r).live + 1, created := (m.launch c r).created + 1 } else m.launch d b := by
  have h := m.onlyDraws_takeSerial c cl
  refine (Mach.launch_updRec (m.takeSerial c cl).2.tick c r d b _).trans ?_
  rw [← h.launch c r, ← h.launch d b]
  rfl

theorem Mach.errs_newRange (m : Mach) (c r : Nat) (kind : Kind) (lo hi : Nat) (isSealed : Bool) (cl : Nat) :
    (m.newRange c r kind lo hi isSealed cl).2.errs = m.errs := by
  simp [Mach.newRange, Mach.updRec, m.errs_takeSerial c cl]

theorem Mach.produces_newRange (m : Mach) (c r : Nat) (kind : Kind) (lo hi : Nat) (isSealed : Bool) (cl : Nat) :
    (m.newRange c r kind lo hi isSealed cl).1.produces = none := rfl

/-- The task in focus and the others, one by one, are what a machine finds. -/
theorem Mach.find_of_tasks {m m1 : Mach} (ht : m1.t = m.t) (ho : m1.others = m.others) (k : Gid) : m1.find k = m.find k := by
  rw [Mach.find, Mach.find, Mach.tasks, Mach.tasks, ht, ho]

/-! ### The victim of a steal (R357, R358) -/

/-- A task with a wider interval, or with a lower serial at the same width, takes another's place. -/
abbrev narrower (b x : Task) : Prop :=
  b.hi - b.lo < x.hi - x.lo ∨ (b.hi - b.lo = x.hi - x.lo ∧ serialOf x.gid < serialOf b.gid)

theorem widest_eq (ts : List Task) : widest ts = ts.foldl (better narrower) none := rfl

/-- Of a list whose every task is one, that one is the widest. -/
theorem widest_only {ts : List Task} {t : Task} (ht : t ∈ ts) (hall : ∀ x ∈ ts, x = t) : widest ts = some t := by
  rw [widest_eq]
  refine foldl_better (.inr ⟨ht, fun _ h => (Option.some_ne_none _ h.symm).elim⟩) (fun x hx hne => absurd (hall x hx) hne)
    fun x hx => ?_
  rw [hall x hx]
  simp [narrower]

theorem firstWidest_only {t : Task} : ∀ {ls : List (List Task)}, (∃ l ∈ ls, t ∈ l) → (∀ l ∈ ls, ∀ x ∈ l, x = t) →
    firstWidest ls = some t
  | [], h, _ => by simp at h
  | l :: r, h, hall => by
    rw [firstWidest]
    cases hl : l with
    | nil =>
      refine firstWidest_only (ls := r) ?_ fun k hk => hall k (List.mem_cons_of_mem l hk)
      obtain ⟨k, hk, hmem⟩ := h
      rcases List.mem_cons.mp hk with rfl | hk
      · rw [hl] at hmem
        exact absurd hmem List.not_mem_nil
      · exact ⟨k, hk, hmem⟩
    | cons x xs =>
      have hx := hall l List.mem_cons_self
      rw [hl] at hx
      have : widest (x :: xs) = some t := widest_only (hx x List.mem_cons_self ▸ List.mem_cons_self) hx
      rw [this]

/-- The default row names every cluster of the partition. -/
theorem mem_victims_defaultRow {cls : List Nat} {cl k : Nat} (hcl : cl < 512) (hk : k < 512) (hmem : k ∈ cls) :
    k ∈ (defaultRow cls cl).victims := by
  unfold defaultRow
  dsimp only
  refine List.mem_flatMap.mpr ⟨if k / 128 < cl / 128 then cl / 128 - k / 128 else k / 128 - cl / 128, ?_, ?_⟩
  · rw [List.mem_range]
    split <;> omega
  · exact List.mem_filter.mpr ⟨List.mem_range.mpr hk, by simp [hmem]⟩

section
variable {m : Mach} {c core r : Nat} {p : PoolRec} {t : Task}

/-- The one splittable task of a record is its victim under the default row. -/
theorem Mach.victimOf_only (hcore : core < 4096) (ht : t ∈ m.tasks) (hc : ctxOf t.gid = c) (hr : t.rec_ = some r)
    (hsplit : t.splits = true) (hcl : t.cluster < 512) (hmem : t.cluster ∈ (m.partOf c).clusters)
    (hall : ∀ x ∈ m.tasks, ctxOf x.gid = c → x.rec_ = some r → x.splits = true → x = t) :
    m.victimOf c core (defaultRow (m.partOf c).clusters (clusterOf core)) r = some t := by
  have hcand : ∀ x, x ∈ (m.tasks.filter fun t => ctxOf t.gid == c && t.rec_ == some r && t.splits) → x = t := fun x hx => by
    obtain ⟨hx, hsel⟩ := List.mem_filter.mp hx
    simp only [Bool.and_eq_true, beq_iff_eq] at hsel
    exact hall x hx hsel.1.1 hsel.1.2 hsel.2
  have hthere : t ∈ (m.tasks.filter fun t => ctxOf t.gid == c && t.rec_ == some r && t.splits) :=
    List.mem_filter.mpr ⟨ht, by simp [hc, hr, hsplit]⟩
  have hclcore : clusterOf core < 512 := by unfold clusterOf; omega
  unfold Mach.victimOf
  dsimp only
  refine (if_neg (by simp [defaultRow])).trans ((if_neg (by simp [defaultRow])).trans (firstWidest_only ?_ ?_))
  · by_cases hon : t.onCore = some core
    · exact ⟨_, List.mem_cons_self, List.mem_filter.mpr ⟨hthere, by simp [hon]⟩⟩
    · by_cases hnear : t.cluster = clusterOf core
      · exact ⟨_, List.mem_cons_of_mem _ List.mem_cons_self, List.mem_filter.mpr ⟨hthere, by simp [hon, hnear]⟩⟩
      · exact ⟨_, List.mem_cons_of_mem _ (List.mem_cons_of_mem _ (List.mem_map_of_mem (mem_victims_defaultRow hclcore hcl hmem))),
          List.mem_filter.mpr ⟨hthere, by simp [hnear]⟩⟩
  · intro l hl x hx
    simp only [List.mem_cons, List.mem_map] at hl
    rcases hl with rfl | rfl | ⟨k, -, rfl⟩ <;> exact hcand x (List.mem_filter.mp hx).1

/-- The victim that an idle slot finds where one context runs one record. -/
theorem Mach.victim_only (hcore : core < 4096) (hkeys : Tab.keys m.ctxs = [c]) (howns : m.ownsCore c core = true)
    (hseats : m.seats c = true) (hpool : (m.ctx c).pool = [(r, p)]) (hrun : p.state = .running) (hsteal : p.r.steal = 0)
    (htiles : p.r.tiles = []) (ht : t ∈ m.tasks) (hc : ctxOf t.gid = c) (hr : t.rec_ = some r)
    (hsplit : t.splits = true) (hcl : t.cluster < 512) (hmem : t.cluster ∈ (m.partOf c).clusters)
    (hall : ∀ x ∈ m.tasks, ctxOf x.gid = c → x.rec_ = some r → x.splits = true → x = t) :
    m.victim core = some (c, r, defaultRow (m.partOf c).clusters (clusterOf core), t) := by
  have hlaunch : m.launch c r = p := by simp [Mach.launch, hpool, Tab.look]
  have hctxs : m.ctxsOn core = [c] := by rw [Mach.ctxsOn, hkeys]; simp [howns, hseats]
  have hrecs : m.runningRecs c = [r] := by rw [Mach.runningRecs, hpool]; simp [hrun, insertBy]
  have hrow : m.stealRow c p.r (clusterOf core) = defaultRow (m.partOf c).clusters (clusterOf core) := if_pos hsteal
  have hgates : m.gatesHold t core = true := by
    have hdecl : m.declsOf t = [] := by simp [Mach.declsOf, hr, hc, hlaunch, tileDecls, htiles]
    rw [Mach.gatesHold, hdecl]
    rfl
  rw [Mach.victim, hctxs, List.findSome?_singleton, hrecs, List.findSome?_singleton, hlaunch]
  dsimp only
  rw [hrow, Mach.victimOf_only hcore ht hc hr hsplit hcl hmem hall]
  exact if_pos hgates

end

/-! ### STEAL (R70, R358) -/

/-- A victim's upper half taken: the victim keeps the lower half, and a new range task of its record holds the upper one on the
slot. -/
theorem Mach.steal_spec {m : Mach} {core slot c r : Nat} {row : StealRow} {t : Task} (hfree : m.taken core slot = false)
    (hbest : m.best core = none) (hvictim : m.victim core = some (c, r, row, t)) (htiles : (m.launch c r).r.tiles = [])
    (hfind : m.find t.gid = some t) (hnew : m.find (gidOf c (m.takeSerial c (clusterOf core)).1) = none) :
    (m.steal core slot).find t.gid = some { t with hi := splitAt t.lo t.hi } ∧
    (∃ q, (m.steal core slot).find (gidOf c (m.takeSerial c (clusterOf core)).1) = some q ∧ q.kind = .range ∧ q.rec_ = some r ∧
      q.lo = splitAt t.lo t.hi ∧ q.hi = t.hi ∧ q.seat = some (core, slot) ∧ q.workId = BitVec.ofNat 64 (splitAt t.lo t.hi) ∧
      q.phase = .ready) ∧ (m.steal core slot).mem = m.mem ∧ (m.steal core slot).errs = m.errs := by
  have hkeep : keepsId fun x => { x with hi := splitAt t.lo t.hi } := fun _ => ⟨rfl, Iff.rfl⟩
  generalize hm1 : m.mapTask t.gid (fun x => { x with hi := splitAt t.lo t.hi }) = m1
  have hserial : (m1.takeSerial c (clusterOf core)).1 = (m.takeSerial c (clusterOf core)).1 := by
    rw [← hm1]
    exact m.takeSerial_mapTask _ hkeep c _
  have hcut (k : Gid) : m1.find k = if k = t.gid then (m.find k).map fun x => { x with hi := splitAt t.lo t.hi } else m.find k := by
    rw [← hm1]
    exact m.find_mapTask _ k hkeep
  have hspec := m1.newRange_spec c r .range (splitAt t.lo t.hi) t.hi false (clusterOf core)
  have hframe := m1.newRange_frame c r .range (splitAt t.lo t.hi) t.hi false (clusterOf core)
  have herrs := m1.errs_newRange c r .range (splitAt t.lo t.hi) t.hi false (clusterOf core)
  have hprod := m1.produces_newRange c r .range (splitAt t.lo t.hi) t.hi false (clusterOf core)
  cases hrange : m1.newRange c r .range (splitAt t.lo t.hi) t.hi false (clusterOf core) with
  | mk q m2 =>
  rw [hrange] at hspec hframe herrs hprod
  dsimp only at hspec hframe herrs hprod
  obtain ⟨⟨hgid, hkind, hrec, hlo, hhi, -, -, hphase, hwork⟩, ht, hmem, -⟩ := hspec
  have hsteal : m.steal core slot =
      (m2.addTask { q with bound := if row.core then some core else none }).seatTask q.gid core slot := by
    have hstart : ¬ (m.taken core slot = true ∨ (m.best core).isSome = true) := by simp [hfree, hbest]
    have hdecl : ¬ ((tileDecls (m.launch c r).r).any fun d => (m.bar core d.1).err) = true := by simp [tileDecls, htiles]
    rw [Mach.steal, if_neg hstart, hvictim]
    dsimp only
    rw [if_neg hdecl, hm1, hrange]
  rw [hserial] at hgid
  have hne : t.gid ≠ q.gid := fun he => by rw [← hgid, ← he, hfind] at hnew; cases hnew
  have hold (k : Gid) : m2.find k = m1.find k := Mach.find_of_tasks ht hframe.1 k
  have hq : (m2.addTask { q with bound := if row.core then some core else none }).find q.gid =
      some { q with bound := if row.core then some core else none } := by
    have hnone : m1.find q.gid = none := by rw [hcut, if_neg hne.symm, hgid, hnew]
    rw [Mach.find_addTask, hold, hnone, Option.none_or, if_pos ⟨rfl, by simp [hphase]⟩]
  obtain ⟨⟨u, hu, hseated⟩, hrest, hsmem, hserrs⟩ := Mach.seatTask_spec hq hprod core slot
  rw [hsteal, ← hgid]
  refine ⟨?_, ⟨u, hu, ?_⟩, hsmem.trans (hmem.trans (by rw [← hm1]; rfl)), hserrs.trans (herrs.trans (by rw [← hm1]; rfl))⟩
  · rw [hrest _ hne, Mach.find_addTask, hold, hcut, if_pos rfl, hfind]
    rfl
  · rw [hseated]
    exact ⟨hkind, hrec, hlo, hhi, rfl, hwork, hphase⟩

theorem exec_steal {s : State} {core slot r : Nat} {p : PoolRec} {t : Task} (herr : s.m.errs = [])
    (hfind : s.m.find t.gid = some t) (hfree : s.m.taken core slot = false) (hcore : core < 4096)
    (hidle : ∀ x ∈ s.m.tasks, s.m.eligible core x = false) (hkeys : Tab.keys s.m.ctxs = [ctxOf t.gid])
    (howns : s.m.ownsCore (ctxOf t.gid) core = true) (hseats : s.m.seats (ctxOf t.gid) = true)
    (hpool : (s.m.ctx (ctxOf t.gid)).pool = [(r, p)]) (hrun : p.state = .running) (hsteal : p.r.steal = 0)
    (htiles : p.r.tiles = []) (hr : t.rec_ = some r) (hsplit : t.splits = true) (hcl : t.cluster < 512)
    (hmem : t.cluster ∈ (s.m.partOf (ctxOf t.gid)).clusters)
    (hall : ∀ x ∈ s.m.tasks, ctxOf x.gid = ctxOf t.gid → x.rec_ = some r → x.splits = true → x = t)
    (hnew : s.m.find (gidOf (ctxOf t.gid) (s.m.takeSerial (ctxOf t.gid) (clusterOf core)).1) = none) :
    ∃ s1 q, exec (.steal core slot) s = .next s1 ∧ s1.m.mem = s.m.mem ∧
      s1.m.find t.gid = some { t with hi := splitAt t.lo t.hi } ∧
      s1.m.find (gidOf (ctxOf t.gid) (s.m.takeSerial (ctxOf t.gid) (clusterOf core)).1) = some q ∧ q.kind = .range ∧
      q.rec_ = some r ∧ q.lo = splitAt t.lo t.hi ∧ q.hi = t.hi ∧ q.seat = some (core, slot) ∧
      q.workId = BitVec.ofNat 64 (splitAt t.lo t.hi) ∧ q.phase = .ready := by
  have hbest : s.m.best core = none := by
    rw [Mach.best, List.filter_eq_nil_iff.mpr fun x hx => by rw [hidle x hx]; decide]
    rfl
  have hvictim := Mach.victim_only hcore hkeys howns hseats hpool hrun hsteal htiles (Mach.mem_tasks_of_find hfind) rfl hr hsplit
    hcl hmem hall
  have hlaunch : s.m.launch (ctxOf t.gid) r = p := by simp [Mach.launch, hpool, Tab.look]
  obtain ⟨hcut, ⟨q, hq, hfields⟩, hsame, herrs⟩ := Mach.steal_spec hfree hbest hvictim (by rw [hlaunch, htiles]) hfind hnew
  exact ⟨_, q, eventM_quiet (f := (·.steal core slot)) (herrs.trans herr), hsame, hcut, hq, hfields⟩

end Sys2Proof.Machine
end

section
/-! SUPPORT. Records started, early and in order, and retired (14 R270, 19 R351 to R354). -/

namespace Sys2Proof.Machine

/-! ### The start of a record (R351, R353) -/

/-- A window preset changes windows alone. -/
theorem Mach.preset_eq (m : Mach) (c w : Nat) : m.preset c w = { m with windows := (m.preset c w).windows } := by
  unfold Mach.preset
  split <;> rfl

/-- A record that has been started: it runs, and counts its first task. -/
def PoolRec.started (p : PoolRec) (early : Bool) (no : Nat) : PoolRec :=
  { p with state := .running, earlyOn := early, startNo := no, live := p.live + 1, created := p.created + 1 }

theorem Mach.prio_newRange (m : Mach) (c r : Nat) (kind : Kind) (lo hi : Nat) (isSealed : Bool) (cl : Nat) :
    (m.newRange c r kind lo hi isSealed cl).1.prio = (m.launch c r).prio :=
  congrArg PoolRec.prio ((m.onlyDraws_takeSerial c cl).launch c r)

/-- What starting a record does: a task of its whole range joins those that wait. -/
theorem Mach.startRec_spec (m : Mach) (c r : Nat) (early : Bool) :
    (∃ y : Task, (m.startRec c r early).others = m.others ++ [y] ∧ y.kind = .graph ∧ y.rec_ = some r ∧ y.lo = (m.launch c r).r.lo ∧
      y.hi = (m.launch c r).r.hi ∧ y.prio = ((m.launch c r).started early m.order).prio ∧ y.phase = .ready) ∧
    (∀ d b, (m.startRec c r early).launch d b = if d = c ∧ b = r then (m.launch c r).started early m.order else m.launch d b) ∧
    (m.startRec c r early).mem = m.mem ∧ (m.startRec c r early).errs = m.errs := by
  generalize hm1 : (m.preset c (m.launch c r).r.wpreset).updRec c r (fun p =>
    { p with state := .running, earlyOn := early, startNo := m.order }) = m1
  have hlaunch (d b : Nat) : m1.launch d b = if d = c ∧ b = r then
      { m.launch c r with state := .running, earlyOn := early, startNo := m.order } else m.launch d b := by
    rw [← hm1, Mach.launch_updRec, Mach.preset_eq]
    rfl
  have hrec : m1.launch c r = { m.launch c r with state := .running, earlyOn := early, startNo := m.order } :=
    (hlaunch c r).trans (if_pos ⟨rfl, rfl⟩)
  have hframe : m1.others = m.others ∧ m1.mem = m.mem ∧ m1.errs = m.errs := by
    rw [← hm1, Mach.preset_eq]
    exact ⟨rfl, rfl, rfl⟩
  obtain ⟨hothers, hmem, herrs⟩ := hframe
  have hspec := m1.newRange_spec c r .graph (m1.launch c r).r.lo (m1.launch c r).r.hi false (m1.fewest (m1.partOf c).clusters)
  have hnew := m1.newRange_frame c r .graph (m1.launch c r).r.lo (m1.launch c r).r.hi false (m1.fewest (m1.partOf c).clusters)
  have hprio := m1.prio_newRange c r .graph (m1.launch c r).r.lo (m1.launch c r).r.hi false (m1.fewest (m1.partOf c).clusters)
  have hcount := m1.launch_newRange c r .graph (m1.launch c r).r.lo (m1.launch c r).r.hi false (m1.fewest (m1.partOf c).clusters)
  have hnerr := m1.errs_newRange c r .graph (m1.launch c r).r.lo (m1.launch c r).r.hi false (m1.fewest (m1.partOf c).clusters)
  have hstart : m.startRec c r early =
      (m1.newRange c r .graph (m1.launch c r).r.lo (m1.launch c r).r.hi false (m1.fewest (m1.partOf c).clusters)).2.addTask
        (m1.newRange c r .graph (m1.launch c r).r.lo (m1.launch c r).r.hi false (m1.fewest (m1.partOf c).clusters)).1 := by
    rw [← hm1]
    rfl
  rw [hstart]
  cases hrange : m1.newRange c r .graph (m1.launch c r).r.lo (m1.launch c r).r.hi false (m1.fewest (m1.partOf c).clusters) with
  | mk y m2 =>
  rw [hrange] at hspec hnew hprio hcount hnerr
  dsimp only at hspec hnew hprio hcount hnerr
  obtain ⟨⟨-, hkind, hyrec, hlo, hhi, -, -, hphase, -⟩, -, hnmem, -⟩ := hspec
  rw [hrec] at hlo hhi
  refine ⟨⟨y, congrArg (· ++ [y]) (hnew.1.trans hothers), hkind, hyrec, hlo, hhi, ?_, hphase⟩, fun d b => ?_, hnmem.trans hmem,
    hnerr.trans herrs⟩
  · rw [hprio, hrec]
    rfl
  · refine (hcount d b).trans ?_
    by_cases hdb : d = c ∧ b = r
    · rw [if_pos hdb, if_pos hdb, hrec]
      rfl
    · rw [if_neg hdb, if_neg hdb, hlaunch, if_neg hdb]

/-! ### EARLY_START (R353) -/

/-- The one predecessor of an armed record that permits it runs and is settled: the record starts early. -/
theorem Mach.startsEarly_one {m : Mach} {c r a : Nat} {p q : PoolRec} (hpool : (m.ctx c).pool = [(a, q), (r, p)]) (hne : a ≠ r)
    (hrun : q.state = .running) (hsucc : r ∈ succList q.r.succ) (harmed : p.state = .armed) (hearly : recEarly p.r = true)
    (hpending : p.pending = 1) (hhalt : (m.ctx c).halt.complete = false)
    (hsettled : ∀ x ∈ m.tasks, x.lives c = true → x.rec_ = some a → x.seat.isSome ∧ x.splits = false) :
    m.startsEarly c r = true ∧ m.launch c r = p := by
  have hlaunch : m.launch c r = p := by simp [Mach.launch, hpool, Tab.look, hne.symm]
  have hbefore : m.runningBefore c r = [a] := by simp [Mach.runningBefore, hpool, hrun, hsucc, harmed]
  have hset : m.isSettled c a = true := by
    refine List.all_eq_true.mpr fun x hx => ?_
    obtain ⟨hx, hsel⟩ := List.mem_filter.mp hx
    simp only [Bool.and_eq_true, beq_iff_eq] at hsel
    obtain ⟨hseat, hsplit⟩ := hsettled x hx hsel.1 hsel.2
    simp [hseat, hsplit]
  refine ⟨?_, hlaunch⟩
  rw [Mach.startsEarly, hlaunch, hbefore]
  simp [harmed, hearly, hpending, hset, hhalt]

theorem exec_earlyStart {s : State} {c r : Nat} (herr : s.m.errs = []) (hstarts : s.m.startsEarly c r = true)
    (hpending : (s.m.launch c r).pending = 1) :
    ∃ (s1 : State) (y : Task), exec (.earlyStart c r) s = .next s1 ∧ s1.m.mem = s.m.mem ∧ s1.m.others = s.m.others ++ [y] ∧ y.kind = .graph ∧
      y.rec_ = some r ∧ y.lo = (s.m.launch c r).r.lo ∧ y.hi = (s.m.launch c r).r.hi ∧ y.prio = 0 ∧ y.phase = .ready ∧
      (s1.m.launch c r).state = .running ∧ (s1.m.launch c r).earlyOn = true ∧ (s1.m.launch c r).pending = 1 := by
  have hearly : s.m.earlyStart c r = (s.m.tick).startRec c r true := if_pos hstarts
  obtain ⟨⟨y, hothers, hkind, hrec, hlo, hhi, hprio, hphase⟩, hlaunch, hmem, herrs⟩ := s.m.tick.startRec_spec c r true
  rw [← hearly] at hothers hlaunch hmem herrs
  have hr := (hlaunch c r).trans (if_pos ⟨rfl, rfl⟩)
  have hzero : ((s.m.tick.launch c r).started true s.m.tick.order).prio = 0 :=
    if_pos ⟨rfl, by rw [show ((s.m.tick.launch c r).started true s.m.tick.order).pending = 1 from hpending]; decide⟩
  refine ⟨_, y, eventM_quiet (f := (·.earlyStart c r)) (herrs.trans herr), hmem, hothers, hkind, hrec, hlo, hhi, hprio.trans hzero,
    hphase, ?_, ?_, ?_⟩
  · exact congrArg PoolRec.state hr
  · exact congrArg PoolRec.earlyOn hr
  · exact (congrArg PoolRec.pending hr).trans hpending

/-! ### RECORD_RETIRE (R270, R352, R354) -/

/-- A record one of whose predecessors, r, has retired, as did those of a list. -/
def PoolRec.lessOne (q : PoolRec) (r : Nat) (reached : List Nat) : PoolRec :=
  { q with pending := q.pending - 1, reached := (r :: reached).foldl (fun l n => if n ∈ l then l else l ++ [n]) q.reached }

section
variable {m : Mach} {c b r : Nat} {reached : List Nat} (harmed : (m.launch c b).state = .armed)
include harmed

/-- An armed successor with more predecessors pending waits on. -/
theorem Mach.predecessorDone_more (hmore : 1 < (m.launch c b).pending) :
    m.predecessorDone c r reached b = m.updRec c b (·.lessOne r reached) := by
  have hgo : ¬ ((m.launch c b).state ≠ .armed ∧ (m.launch c b).state ≠ .running) := fun h => h.1 harmed
  have hq : (m.updRec c b (·.lessOne r reached)).launch c b = (m.launch c b).lessOne r reached :=
    (Mach.launch_updRec ..).trans (if_pos ⟨rfl, rfl⟩)
  refine (if_neg hgo).trans (if_pos ?_)
  exact (congrArg PoolRec.pending hq).trans_ne (Nat.sub_ne_zero_of_lt hmore)

/-- An armed successor whose last predecessor has retired starts. -/
theorem Mach.predecessorDone_last (hlast : (m.launch c b).pending = 1) :
    m.predecessorDone c r reached b = (m.updRec c b (·.lessOne r reached)).startRec c b false := by
  have hgo : ¬ ((m.launch c b).state ≠ .armed ∧ (m.launch c b).state ≠ .running) := fun h => h.1 harmed
  have hq : (m.updRec c b (·.lessOne r reached)).launch c b = (m.launch c b).lessOne r reached :=
    (Mach.launch_updRec ..).trans (if_pos ⟨rfl, rfl⟩)
  have hzero : ¬ ((m.updRec c b (·.lessOne r reached)).launch c b).pending ≠ 0 :=
    not_not_intro ((congrArg PoolRec.pending hq).trans (by simp [PoolRec.lessOne, hlast]))
  have hstate : ((m.updRec c b (·.lessOne r reached)).launch c b).state = .armed := by
    rw [hq]
    exact harmed
  exact (if_neg hgo).trans ((if_neg hzero).trans (if_pos hstate))

end

/-- The machine in which a record has just retired, before its successors hear of it. -/
def Mach.retireRec (m : Mach) (c r : Nat) : Mach := (m.tick).updRec c r fun q => { q with state := .retired }

@[simp] theorem Mach.retireRec_mem (m : Mach) (c r : Nat) : (m.retireRec c r).mem = m.mem := rfl
@[simp] theorem Mach.retireRec_others (m : Mach) (c r : Nat) : (m.retireRec c r).others = m.others := rfl
@[simp] theorem Mach.retireRec_errs (m : Mach) (c r : Nat) : (m.retireRec c r).errs = m.errs := rfl

theorem Mach.launch_retireRec (m : Mach) (c r d b : Nat) :
    (m.retireRec c r).launch d b = if d = c ∧ b = r then { m.launch c r with state := .retired } else m.launch d b :=
  Mach.launch_updRec ..

theorem Mach.recordRetire_waits {m : Mach} {c r : Nat} (h : m.recordDone c r = false) : m.recordRetire c r = m :=
  if_pos (by rw [h]; rfl)

theorem Mach.recordDone_false {m : Mach} {c r : Nat}
    (h : (m.launch c r).state ≠ .running ∨ (m.launch c r).live ≠ 0 ∨ (m.launch c r).pending ≠ 0) : m.recordDone c r = false := by
  rw [← Bool.not_eq_true]
  intro hdone
  simp only [Mach.recordDone, Bool.and_eq_true, beq_iff_eq] at hdone
  obtain ⟨⟨⟨⟨⟨⟨⟨hstate, hlive⟩, hpending⟩, -⟩, -⟩, -⟩, -⟩, -⟩ := hdone
  rcases h with h | h | h
  · exact h hstate
  · exact h hlive
  · exact h hpending

section
variable {m : Mach} {c r : Nat} (hdone : m.recordDone c r = true) (hhalt : (m.ctx c).halt.complete = false)
include hdone hhalt

theorem Mach.recordRetire_one {b : Nat} (hsucc : succList (m.launch c r).r.succ = [b]) (hsink : recSink (m.launch c r).r = false) :
    m.recordRetire c r = (m.retireRec c r).tick.predecessorDone c r ((m.launch c r).counted r) b := by
  refine (if_neg (by rw [hdone, hhalt]; decide)).trans ?_
  dsimp only
  rw [hsucc, hsink]
  rfl

theorem Mach.recordRetire_sink (hsucc : succList (m.launch c r).r.succ = []) (hsink : recSink (m.launch c r).r = true) :
    m.recordRetire c r = m.orHold c ((m.retireRec c r).sinkDone c r) := by
  refine (if_neg (by rw [hdone, hhalt]; decide)).trans ?_
  dsimp only
  rw [hsucc, if_pos hsink, List.foldl_nil, Mach.retireRec]

end

section
variable {s : State} {c r b : Nat} (herr : s.m.errs = []) (hdone : s.m.recordDone c r = true)
  (hhalt : (s.m.ctx c).halt.complete = false)

theorem exec_recordRetire (h : (s.m.recordRetire c r).errs = []) :
    exec (.recordRetire c r) s = .next { s with m := s.m.recordRetire c r } := eventM_quiet (f := (·.recordRetire c r)) h

include herr in
theorem exec_recordRetire_waits (h : (s.m.launch c r).state ≠ .running ∨ (s.m.launch c r).live ≠ 0 ∨ (s.m.launch c r).pending ≠ 0) :
    exec (.recordRetire c r) s = .next s := by
  have hm : s.m.recordRetire c r = s.m := Mach.recordRetire_waits (Mach.recordDone_false h)
  exact (exec_recordRetire (by rw [hm]; exact herr)).trans (by rw [hm])

variable (hne : b ≠ r) (hsucc : succList (s.m.launch c r).r.succ = [b]) (hsink : recSink (s.m.launch c r).r = false)
  (harmed : (s.m.launch c b).state = .armed)
include herr hdone hhalt hne hsucc hsink harmed

/-- A record retires, and its successor waits for others. -/
theorem exec_recordRetire_more (hmore : 1 < (s.m.launch c b).pending) :
    ∃ s1 : State, exec (.recordRetire c r) s = .next s1 ∧ s1.m.mem = s.m.mem ∧ s1.m.others = s.m.others ∧
      (s1.m.launch c r).state = .retired ∧ (s1.m.launch c b).state = .armed ∧
      (s1.m.launch c b).pending = (s.m.launch c b).pending - 1 := by
  have hb : (s.m.retireRec c r).tick.launch c b = s.m.launch c b :=
    (s.m.launch_retireRec c r c b).trans (if_neg fun h => hne h.2)
  have hm := Mach.recordRetire_one hdone hhalt hsucc hsink
  rw [Mach.predecessorDone_more (by rw [hb]; exact harmed) (by rw [hb]; exact hmore)] at hm
  refine ⟨_, exec_recordRetire (by simpa [hm] using herr), by simp [hm], by simp [hm], ?_, ?_, ?_⟩
  · rw [hm, Mach.launch_updRec, if_neg fun h => hne h.2.symm]
    exact congrArg PoolRec.state ((s.m.launch_retireRec c r c r).trans (if_pos ⟨rfl, rfl⟩))
  · rw [hm, Mach.launch_updRec, if_pos ⟨rfl, rfl⟩, hb]
    exact harmed
  · rw [hm, Mach.launch_updRec, if_pos ⟨rfl, rfl⟩, hb]
    rfl

/-- A record retires, and its successor, which waited for it alone, starts. -/
theorem exec_recordRetire_last (hlast : (s.m.launch c b).pending = 1) :
    ∃ (s1 : State) (y : Task), exec (.recordRetire c r) s = .next s1 ∧ s1.m.mem = s.m.mem ∧ s1.m.others = s.m.others ++ [y] ∧
      (s1.m.launch c r).state = .retired ∧ (s1.m.launch c b).state = .running ∧ (s1.m.launch c b).pending = 0 ∧
      y.kind = .graph ∧ y.rec_ = some b ∧ y.lo = (s.m.launch c b).r.lo ∧ y.hi = (s.m.launch c b).r.hi ∧ y.phase = .ready := by
  have hb : (s.m.retireRec c r).tick.launch c b = s.m.launch c b :=
    (s.m.launch_retireRec c r c b).trans (if_neg fun h => hne h.2)
  have hm := Mach.recordRetire_one hdone hhalt hsucc hsink
  rw [Mach.predecessorDone_last (by rw [hb]; exact harmed) (by rw [hb]; exact hlast)] at hm
  generalize hm1 : (s.m.retireRec c r).tick.updRec c b (·.lessOne r ((s.m.launch c r).counted r)) = m1 at hm
  have hframe : m1.mem = s.m.mem ∧ m1.others = s.m.others ∧ m1.errs = s.m.errs := by
    simp [← hm1]
  obtain ⟨hmem, hothers, herrs⟩ := hframe
  have hb1 : m1.launch c b = (s.m.launch c b).lessOne r ((s.m.launch c r).counted r) := by
    rw [← hm1, Mach.launch_updRec, if_pos ⟨rfl, rfl⟩, hb]
  have hr1 : (m1.launch c r).state = .retired := by
    rw [← hm1, Mach.launch_updRec, if_neg fun h => hne h.2.symm]
    exact congrArg PoolRec.state ((s.m.launch_retireRec c r c r).trans (if_pos ⟨rfl, rfl⟩))
  obtain ⟨⟨y, hyothers, hkind, hrec, hlo, hhi, -, hphase⟩, hlaunch, hsmem, hserrs⟩ := m1.startRec_spec c b false
  rw [← hm] at hyothers hlaunch hsmem hserrs
  rw [hb1] at hlo hhi
  have hb2 := (hlaunch c b).trans (if_pos ⟨rfl, rfl⟩)
  rw [hb1] at hb2
  refine ⟨_, y, exec_recordRetire (hserrs.trans (herrs.trans herr)), hsmem.trans hmem, hyothers.trans (by rw [hothers]), ?_, ?_, ?_,
    hkind, hrec, hlo, hhi, hphase⟩
  · exact (congrArg PoolRec.state ((hlaunch c r).trans (if_neg fun h => hne h.2.symm))).trans hr1
  · exact congrArg PoolRec.state hb2
  · exact (congrArg PoolRec.pending hb2).trans (by simp [PoolRec.started, PoolRec.lessOne, hlast])

end

/-! ### A sink's report (R354) -/

theorem DoneRec.length_bytes (d : DoneRec) : d.bytes.length = 64 := by simp [DoneRec.bytes]

/-- The log after a sink's retirement: a marker is asked for, and the completion record has left its external mark. -/
def Silt.sunk (x : Silt) (key unit : Nat) : Silt := ({ x with requests := x.requests ++ [(2, 0)] } : Silt).mark .external key unit 0

theorem Silt.sunk_spec (x : Silt) (key unit : Nat) :
    (2, 0) ∈ (x.sunk key unit).requests ∧ (∃ y ∈ (x.sunk key unit).recs, y.kind = .external) ∧
    (x.room 32 = true → (x.sunk key unit).room 0 = true) := by
  have hrequests : (x.sunk key unit).requests = if x.xw then x.requests ++ [(2, 0)] ++ [(6, 0)] else x.requests ++ [(2, 0)] := rfl
  refine ⟨?_, ?_, fun hroom => ?_⟩
  · rw [hrequests]
    split <;> simp
  · exact ⟨_, List.mem_append_right _ (List.mem_singleton_self _), rfl⟩
  · simp only [Silt.room, decide_eq_true_eq] at hroom ⊢
    have hused : (x.sunk key unit).used = x.used + 32 := by
      simp [Silt.used, Silt.sunk, Silt.mark, Silt.append, SRec.bytes]
    have hsize : (x.sunk key unit).size = x.size := rfl
    omega

/-- The completion record of a sink that no other record reached. -/
def Mach.soleDone (m : Mach) (c r : Nat) : DoneRec :=
  let p := m.launch c r
  { status := 0, ctx := c, sink := r, armedAt := p.armedAt, retiredAt := m.cycle, tasks := p.created,
    activeUj := p.energy - p.sharedUj, sharedUj := p.sharedUj, armer := p.armer, addr := p.r.completion }

theorem Mach.doneRec_retireRec {m : Mach} {c r : Nat} (hreached : (m.launch c r).reached = []) :
    (m.retireRec c r).doneRec c r 0 = m.soleDone c r := by
  have hr : (m.retireRec c r).launch c r = { m.launch c r with state := .retired } :=
    (m.launch_retireRec c r c r).trans (if_pos ⟨rfl, rfl⟩)
  simp [Mach.doneRec, Mach.soleDone, hr, PoolRec.counted, hreached]
  rfl

@[simp] theorem Mach.retireRec_done (m : Mach) (c r : Nat) : (m.retireRec c r).done = m.done := rfl
@[simp] theorem Mach.retireRec_irqs (m : Mach) (c r : Nat) : (m.retireRec c r).irqs = m.irqs := rfl
@[simp] theorem Mach.retireRec_t (m : Mach) (c r : Nat) : (m.retireRec c r).t = m.t := rfl

/-- Retirement changes nothing of a context but its pool. -/
theorem Mach.ctx_retireRec (m : Mach) (c r : Nat) :
    ∃ pool, (m.retireRec c r).ctx c = { m.ctx c with pool := pool } :=
  ⟨_, (Mach.ctx_setCtx ..).trans (if_pos rfl)⟩

/-- The context of a sink whose completion record has been written. -/
theorem Mach.ctx_sinkDone (m : Mach) (c r : Nat) : ∃ key unit,
    (m.sinkDone c r).ctx c = { m.ctx c with silt := (m.ctx c).silt.sunk key unit, loam := (m.ctx c).loam.bounded } := by
  refine ⟨(m.launch c r).r.completion, unitCode (.taskUnit ((m.partOf c).clusters.headD 0)), ?_⟩
  have hwrite (m1 : Mach) (d : DoneRec) : (m1.writeDone d).ctx c = m1.ctx c := rfl
  simp only [Mach.sinkDone, Mach.ctx_setCtx, if_true, hwrite, Mach.setSilt, Silt.sunk]

theorem Mach.sinkDone_frame (m : Mach) (c r : Nat) :
    (m.sinkDone c r).done = m.done ++ [m.doneRec c r 0] ∧
    (m.sinkDone c r).mem = pokeMem m.mem ((m.doneRec c r 0).addr % 2 ^ 52) (m.doneRec c r 0).bytes ∧
    (m.sinkDone c r).irqs = m.irqs ++ [(3, c)] ∧ (m.sinkDone c r).t = m.t ∧ (m.sinkDone c r).others = m.others ∧
    (m.sinkDone c r).errs = m.errs := by
  simp [Mach.sinkDone, Mach.writeDone]
  rfl

/-- What the report of a sink leaves. -/
theorem Mach.sinkDone_spec {m : Mach} {c r : Nat} (hreached : (m.launch c r).reached = []) :
    let m1 := (m.retireRec c r).sinkDone c r
    let d := m.soleDone c r
    (m1.launch c r).state = .retired ∧ m1.done = m.done ++ [d] ∧ m1.mem = pokeMem m.mem (d.addr % 2 ^ 52) d.bytes ∧
    (m1.ctx c).loam = (m.ctx c).loam.bounded ∧ (∃ key unit, (m1.ctx c).silt = (m.ctx c).silt.sunk key unit) ∧
    m1.irqs = m.irqs ++ [(3, c)] ∧ m1.t = m.t ∧ m1.others = m.others ∧ m1.errs = m.errs := by
  dsimp only
  obtain ⟨pool, hpool⟩ := m.ctx_retireRec c r
  obtain ⟨key, unit, hctx⟩ := (m.retireRec c r).ctx_sinkDone c r
  obtain ⟨hdone, hmem, hirqs, ht, hothers, herrs⟩ := (m.retireRec c r).sinkDone_frame c r
  rw [Mach.doneRec_retireRec hreached] at hdone hmem
  have hr := (m.launch_retireRec c r c r).trans (if_pos ⟨rfl, rfl⟩)
  have hlaunch : ((m.retireRec c r).sinkDone c r).launch c r = (m.retireRec c r).launch c r := by
    rw [Mach.launch, hctx, Mach.launch]
  refine ⟨by rw [hlaunch, hr], hdone, hmem, by rw [hctx, hpool], ⟨key, unit, by rw [hctx, hpool]⟩, hirqs, ht, hothers, herrs⟩

section
variable {s : State} {c r : Nat} (herr : s.m.errs = []) (hdone : s.m.recordDone c r = true)
  (hhalt : (s.m.ctx c).halt.complete = false) (hsucc : succList (s.m.launch c r).r.succ = [])
  (hsink : recSink (s.m.launch c r).r = true) (hreached : (s.m.launch c r).reached = []) (hroom : (s.m.ctx c).silt.room 32 = true)
include herr hdone hhalt hsucc hsink hreached hroom

/-- A sink retires, and reports. -/
theorem exec_recordRetire_sink : ∃ s1, exec (.recordRetire c r) s = .next s1 ∧ (s1.m.launch c r).state = .retired ∧
    s1.m.done = s.m.done ++ [s.m.soleDone c r] ∧
    s.m.storedAt s1.m ((s.m.launch c r).r.completion % 2 ^ 52) 64 (fun i => (s.m.soleDone c r).bytes.getD i 0) ∧
    (s1.m.ctx c).loam = (s.m.ctx c).loam.bounded ∧ (∃ y ∈ (s1.m.ctx c).silt.recs, y.kind = .external) ∧
    (3, c) ∈ s1.m.irqs ∧ (2, 0) ∈ (s1.m.ctx c).silt.requests ∧ s1.m.t = s.m.t ∧ s1.m.others = s.m.others := by
  obtain ⟨hretired, hrecs, hmem, hloam, ⟨key, unit, hsilt⟩, hirqs, ht, hothers, herrs⟩ := Mach.sinkDone_spec hreached
  obtain ⟨hrequest, hmark, hfull⟩ := (s.m.ctx c).silt.sunk_spec key unit
  have hfits : s.m.fits ((s.m.retireRec c r).sinkDone c r) c = true := by
    rw [Mach.fits, hsilt, hfull hroom, Bool.or_true]
  have hm : s.m.recordRetire c r = (s.m.retireRec c r).sinkDone c r :=
    (Mach.recordRetire_sink hdone hhalt hsucc hsink).trans (if_pos hfits)
  rw [← hm] at hretired hrecs hmem hloam hsilt hirqs ht hothers herrs
  have hbyte (j : Nat) : (s.m.recordRetire c r).byte j = Tab.look emptyByte (s.m.recordRetire c r).mem j := rfl
  refine ⟨_, exec_recordRetire (herrs.trans herr), hretired, hrecs, ⟨fun i hi => ?_, fun j hj => ?_⟩, hloam, by rw [hsilt]; exact hmark,
    by rw [hirqs]; exact List.mem_append_right _ (List.mem_singleton_self _), by rw [hsilt]; exact hrequest, ht, hothers⟩
  · rw [hbyte, hmem, look_pokeMem, DoneRec.length_bytes, if_pos ⟨Nat.le_add_right .., Nat.add_lt_add_left hi _⟩]
    exact congrArg (List.getD _ · 0) (Nat.add_sub_cancel_left ..)
  · rw [hbyte, hmem, look_pokeMem, DoneRec.length_bytes]
    refine if_neg fun h => ?_
    have hkey : (s.m.soleDone c r).addr = (s.m.launch c r).r.completion := rfl
    rw [hkey] at h
    omega

end

end Sys2Proof.Machine
end

section
/-! PROOFS. O45: gangs and the task unit. -/

namespace Sys2Proof.Machine

/-- Settles O45: each event of the task unit by the lemma that says what it leaves. -/
theorem taskUnit : Obligations.TaskUnit := by
  unfold Obligations.TaskUnit
  intro s n core slot t herr hfind k f c now same queued
  have hmem := Mach.mem_tasks_of_find hfind
  refine ⟨exec_gang_waits, traps_gang, fun hseat hrest => ?formed, fun he hp hgates hbest hslot hbelow => ?seated,
    fun hq hgate hall => exec_taskSeat_gateErr herr hmem hq hgate hall, ?aged, ?migrated, ?stolen, ?early, fun r => ?retired⟩
  case formed =>
    have hk : 2 ≤ k := two_le_gangCount n
    exact ⟨exec_gangForm_fresh herr hk hseat hrest, exec_gangForm_saved herr hk hseat hrest⟩
  case seated =>
    have hgate := Mach.gateErr_none hgates
    have hb := Mach.best_eq_some hmem he hbest
    refine ⟨fun hfree => ?_, fun w hfull hw hwait hwfind hne hlower => ?_⟩
    · obtain ⟨s1, hexec, ⟨u, hu, hseated⟩, hrest⟩ :=
        exec_taskSeat_empty herr hgate hb hfind hp (Mach.emptySlot_eq hslot hfree hbelow)
      exact ⟨s1, hexec, ⟨u, hu, hseated.keeps⟩, hrest⟩
    · obtain ⟨s1, v, hexec, ⟨u, hu, hseated⟩, hrest⟩ := exec_taskSeat_waiter herr hgate hb hfind hp
        (Mach.emptySlot_none hfull) (Mach.waiterSlot_eq hslot hw hwait hlower) hw hwfind hne
      exact ⟨s1, v, hexec, ⟨u, hu, hseated.keeps⟩, hrest⟩
  case aged =>
    rintro ⟨hphase, hseat⟩ hdecl hctx hprio
    exact ⟨exec_taskAging_old herr hfind hphase hseat hdecl hctx hprio, exec_taskAging_young herr hfind⟩
  case migrated =>
    rintro ⟨hphase, hseat⟩
    exact exec_continuationMigrate herr hfind hphase hseat
  case stolen =>
    intro r p hfree hcore hidle hkeys howns hseats hpool hrun hsteal htiles hr hsplit hcl hin hall _ _ hnew
    exact exec_steal herr hfind hfree hcore hidle hkeys howns hseats hpool hrun hsteal htiles hr hsplit hcl hin hall hnew
  case early =>
    intro r p a q hpool hne hrun hsucc harmed hearly hpending hhalt hsettled
    obtain ⟨hstarts, hlaunch⟩ := Mach.startsEarly_one hpool hne hrun hsucc harmed hearly hpending hhalt hsettled
    have hstart := exec_earlyStart herr hstarts (by rw [hlaunch]; exact hpending)
    rwa [hlaunch] at hstart
  case retired =>
    refine ⟨exec_recordRetire_waits herr, fun b hdone hhalt hne hsucc hsink harmed => ?_, exec_recordRetire_sink herr⟩
    exact ⟨exec_recordRetire_more herr hdone hhalt hne hsucc hsink harmed,
      exec_recordRetire_last herr hdone hhalt hne hsucc hsink harmed⟩

end Sys2Proof.Machine
end

section
/-! SUPPORT. The parts of the system die that an event may change: its lifecycle moves by LIFECYCLE_TRANSITION alone, and only
forward (24 R425, 26 R450). -/

namespace Sys2Proof.Machine

/-! ### What an encoded instruction reaches -/

/-- Every encoded instruction is issued: its effect is on the chip alone. -/
theorem exec_encoded {i : Instr} (h : i.enc.isSome) (s : State) : ∃ rule f, exec i s = issue rule f s := by
  cases i
  case faultResolved | faultRefused | syscServe | parkResolved | accessPerformed | taskSeat | taskAging | continuationMigrate
      | steal | gangForm | earlyStart | recordRetire | tableClearFailed | tableGrow | messageArrival | msendRetryTimer
      | tileOpStart | tileOpFinal | mconvComplete | metadataStallTimeout | scheduleEntry | scheduleEnd | kaolinLoad
      | kaolinLoadComplete | kick | registerWrite | commandForward | engineOperationStart | chunkComplete | engineOperationEnd
      | engineFault | metadataPush | streamTileLoad | streamTileStore | streamEnd | commitAtHome | collectiveStep
      | collectiveHold | collectiveResume | memberAbort | dump | haltLine | unitStop | haltComplete | contextResume | preempt
      | contextSwitch | watchStrike | step | windowMarker | siltThreshold | siltShed | siltStall | rstep | rfwd | rwin
      | uncorrData | correctedMemoryError | checkpoint | checkpointCopyEnd | linkGridDump | energyInterval | powerDoze
      | powerRetain | powerOff | powerWake | wakeTimeout | clockStretch | thermalTrip | supplyFault | attestation | debugGrant
      | debugRequest | lifecycleTransition | rinairFlitError | portDown | remoteAccessArrival | msiXInterrupt | dmaWrite
      | completionTimeout | surpriseRemoval | powerOnReset | watchdogExpiry | registryReadopt | killContext | contextCreate
      | shaleFlitError | shaleEndpointFailure | kernelMemoryError | offlineBlock | portRetrain | portUp | hotPlug | aerError
      | checkpointRestore | siltRegionEnlarge => cases h
  all_goals exact ⟨_, _, rfl⟩

/-- The system die and the agenda stand as they were after an instruction that is issued. -/
theorem exec_encoded_frame {i : Instr} {s s1 : State} (h : i.enc.isSome) (hx : exec i s = .next s1) :
    s1.sys = s.sys ∧ s1.agenda = s.agenda := by
  obtain ⟨rule, f, he⟩ := exec_encoded h s
  obtain rfl := Host.Outcome.next.inj (he.symm.trans hx)
  exact ⟨rfl, rfl⟩

/-! ### The lifecycle under the operations of the system die -/

@[simp] theorem Sys.logError_lifecycle (y : Sys) (r : ErrRec) : (y.logError r).lifecycle = y.lifecycle := by
  unfold Sys.logError
  split
  · split
    · rfl
    · split <;> rfl
  · rfl

@[simp] theorem State.flushErrs_lifecycle (s : State) : s.flushErrs.sys.lifecycle = s.sys.lifecycle :=
  List.foldlRecOn _ _ (motive := fun a : State => a.sys.lifecycle = s.sys.lifecycle) rfl
    fun a ha _ _ => (a.sys.logError_lifecycle _).trans ha

@[simp] theorem State.kernelReads_lifecycle (s : State) (w : KWork) : (s.kernelReads w).sys.lifecycle = s.sys.lifecycle := rfl

@[simp] theorem State.linkGrid_lifecycle (s : State) (rows : List LinkCount) (uj : Nat) (room : Bool) :
    (s.linkGrid rows uj room).sys.lifecycle = s.sys.lifecycle := by
  unfold State.linkGrid
  split <;> rfl

@[simp] theorem State.doze_lifecycle (s : State) (b : Block) : (s.doze b).sys.lifecycle = s.sys.lifecycle := by
  unfold State.doze
  split_ifs <;> rfl

@[simp] theorem State.retain_lifecycle (s : State) (b : Block) : (s.retain b).sys.lifecycle = s.sys.lifecycle := by
  unfold State.retain
  dsimp only
  split_ifs <;> rfl

@[simp] theorem State.wake_lifecycle (s : State) (b : Block) : (s.wake b).sys.lifecycle = s.sys.lifecycle := rfl

@[simp] theorem State.energyInterval_lifecycle (s : State) (active : List Charge) (blocks : List BlockEnergy) :
    (s.energyInterval active blocks).sys.lifecycle = s.sys.lifecycle := rfl

@[simp] theorem State.off_lifecycle (s : State) (b : Block) : (s.off b).sys.lifecycle = s.sys.lifecycle := by
  unfold State.off
  split <;> rfl

@[simp] theorem State.wakeTimeout_lifecycle (s : State) (b : Block) : (s.wakeTimeout b).sys.lifecycle = s.sys.lifecycle := by
  unfold State.wakeTimeout
  split <;> rfl

@[simp] theorem State.stretch_lifecycle (s : State) (b : Block) (on : Bool) (temp : Nat) :
    (s.stretch b on temp).sys.lifecycle = s.sys.lifecycle := by
  unfold State.stretch
  dsimp only
  split <;> rfl

@[simp] theorem State.attest_lifecycle (s : State) (c nonce : Nat) : (s.attest c nonce).sys.lifecycle = s.sys.lifecycle := by
  unfold State.attest
  split <;> rfl

@[simp] theorem State.debugGrant_lifecycle (s : State) (ses : Nat) (lv : DbgLevel) (c token : Nat) :
    (s.debugGrant ses lv c token).sys.lifecycle = s.sys.lifecycle := by
  cases lv with
  | d0 => rfl
  | d1 =>
    simp only [State.debugGrant]
    split <;> rfl
  | d2 =>
    simp only [State.debugGrant]
    split <;> rfl

@[simp] theorem State.resetWith_lifecycle (s : State) (cause : Nat) : (s.resetWith cause).sys.lifecycle = s.sys.lifecycle :=
  s.flushErrs_lifecycle

@[simp] theorem State.fatal_lifecycle (s : State) (r : ErrRec) (cause : Nat) : (s.fatal r cause).sys.lifecycle = s.sys.lifecycle :=
  State.resetWith_lifecycle _ cause

@[simp] theorem State.debugActs_lifecycle (s : State) (c : Nat) (op : DbgOp) (b : Block) :
    (s.debugActs c op b).sys.lifecycle = s.sys.lifecycle := by
  unfold State.debugActs
  split <;> rfl

@[simp] theorem State.debugRequest_lifecycle (s : State) (ses c : Nat) (op : DbgOp) (b : Block) :
    (s.debugRequest ses c op b).sys.lifecycle = s.sys.lifecycle := by
  unfold State.debugRequest
  cases s.sys.levelOf ses c with
  | d0 =>
    dsimp only
    split_ifs <;> rfl
  | d1 =>
    dsimp only
    split_ifs
    · rfl
    · rfl
    · exact s.debugActs_lifecycle c op b
  | d2 =>
    dsimp only
    split_ifs
    · exact s.resetWith_lifecycle 6
    · rfl
    · exact s.debugActs_lifecycle c op b

@[simp] theorem State.portDown_lifecycle (s : State) (p : Nat) : (s.portDown p).sys.lifecycle = s.sys.lifecycle := by
  unfold State.portDown
  dsimp only
  split <;> rfl

@[simp] theorem State.portUp_lifecycle (s : State) (p : Nat) (ok : Bool) : (s.portUp p ok).sys.lifecycle = s.sys.lifecycle := by
  unfold State.portUp
  split
  · rfl
  · split <;> rfl

@[simp] theorem State.msiX_lifecycle (s : State) (v : Nat) : (s.msiX v).sys.lifecycle = s.sys.lifecycle := by
  unfold State.msiX
  split <;> rfl

@[simp] theorem State.hotPlug_lifecycle (s : State) (p : Nat) : (s.hotPlug p).sys.lifecycle = s.sys.lifecycle := by
  unfold State.hotPlug
  split <;> rfl

@[simp] theorem State.bootFails_lifecycle (s : State) (n : Nat) : (s.bootFails n).sys.lifecycle = s.sys.lifecycle :=
  State.fatal_lifecycle s _ 5

/-- A boot ends from a state whose lifecycle is that before it, power having come on or not. -/
@[simp] theorem State.boot_lifecycle (s : State) (fail : Nat) : (s.boot fail).sys.lifecycle = s.sys.lifecycle := by
  unfold State.boot
  dsimp only
  split
  · rfl
  · by_cases hon : (s.sys.booted || !s.sys.restarting) = true
    · rw [if_pos hon, if_pos hon, if_pos hon]
      split
      · exact State.bootFails_lifecycle _ 1
      · split
        · exact State.bootFails_lifecycle _ fail
        · rfl
    · rw [if_neg hon, if_neg hon, if_neg hon]
      split
      · exact State.bootFails_lifecycle _ 1
      · split
        · exact State.bootFails_lifecycle _ fail
        · rfl

@[simp] theorem State.warmReboot_lifecycle (s : State) : s.warmReboot.sys.lifecycle = s.sys.lifecycle := s.flushErrs_lifecycle

@[simp] theorem State.watchdogExpiry_lifecycle (s : State) (panic : Bool) :
    (s.watchdogExpiry panic).sys.lifecycle = s.sys.lifecycle := by
  unfold State.watchdogExpiry
  dsimp only
  split
  · rfl
  · split
    · exact State.resetWith_lifecycle _ 3
    · exact State.warmReboot_lifecycle _

@[simp] theorem State.kill_lifecycle (s : State) (c : Nat) : (s.kill c).sys.lifecycle = s.sys.lifecycle := by
  unfold State.kill
  dsimp only
  split <;> rfl

@[simp] theorem State.registryReadopt_lifecycle (s : State) (c found : Nat) :
    (s.registryReadopt c found).sys.lifecycle = s.sys.lifecycle := by
  unfold State.registryReadopt
  dsimp only
  split
  · rfl
  · split
    · exact State.kill_lifecycle _ c
    · split <;> rfl

@[simp] theorem State.dump_lifecycle (s : State) (c : Nat) (bad : Option (Nat × Nat)) :
    (s.dump c bad).sys.lifecycle = s.sys.lifecycle := by
  unfold State.dump
  split
  · rfl
  · dsimp only
    split <;> rfl

/-- Creating a context changes the chip alone. -/
@[simp] theorem State.createCtx_sys (s : State) (ci : CtxInit) : (s.createCtx ci).sys = s.sys := by
  unfold State.createCtx
  split
  · rfl
  · split <;> rfl

@[simp] theorem State.withSnapshot_sys (s : State) (c : Nat) : (s.withSnapshot c).sys = s.sys := by
  unfold State.withSnapshot
  split <;> rfl

/-- Restoring a context changes the chip alone. -/
@[simp] theorem State.restoreCtx_sys (s : State) (ci : CtxInit) (mac : Nat) : (s.restoreCtx ci mac).sys = s.sys := by
  unfold State.restoreCtx
  dsimp only
  split
  · rfl
  · split
    · split
      · exact (State.withSnapshot_sys _ _).trans (s.createCtx_sys ci)
      · exact s.createCtx_sys ci
    · rfl

@[simp] theorem State.offlineBlock_lifecycle (s : State) (b : Block) : (s.offlineBlock b).sys.lifecycle = s.sys.lifecycle := by
  unfold State.offlineBlock
  split
  · rfl
  · exact List.foldlRecOn _ _ (motive := fun a : State => a.sys.lifecycle = s.sys.lifecycle) rfl
      fun a ha c _ => (a.kill_lifecycle c).trans ha

@[simp] theorem State.correctedError_lifecycle (s : State) (unit addr : Nat) (syn : Word) :
    (s.correctedError unit addr syn).sys.lifecycle = s.sys.lifecycle := by
  unfold State.correctedError
  dsimp only
  split
  · rfl
  · split <;> rfl

@[simp] theorem State.copyEnd_lifecycle (s : State) (c : Nat) : (s.copyEnd c).sys.lifecycle = s.sys.lifecycle := by
  unfold State.copyEnd
  split <;> rfl

/-- LIFECYCLE_TRANSITION moves forward or not at all (R425). -/
theorem State.lifecycle_forward (s : State) (dst : Lifecycle) (token release : Nat) :
    lifeRank s.sys.lifecycle ≤ lifeRank (s.lifecycle dst token release).sys.lifecycle := by
  unfold State.lifecycle
  split
  case h_1 h => rw [h]; exact Nat.zero_le _
  case h_2 h => rw [h]; exact Nat.le_succ 1
  case h_3 h | h_4 h =>
    split
    · rw [h]; exact Nat.le_of_ble_eq_true rfl
    · exact le_rfl
  case h_5 => exact le_rfl

/-! ### The lifecycle under a step -/

/-- What a step of the machine must do for the lifecycle: the state reached is kept. -/
def State.forward (s s1 : State) : Prop := lifeRank s.sys.lifecycle ≤ lifeRank s1.sys.lifecycle

theorem State.forward_of_eq {s s1 : State} (h : s1.sys.lifecycle = s.sys.lifecycle) : s.forward s1 := by
  rw [State.forward, h]

/-- Every event keeps the state the lifecycle has reached. -/
theorem exec_event_forward {i : Instr} (hi : i.enc = none) {s s1 : State} (h : exec i s = .next s1) : s.forward s1 := by
  cases i
  case lifecycleTransition dst token release =>
    obtain rfl := Host.Outcome.next.inj h
    rw [State.forward, State.flushErrs_lifecycle]
    exact s.lifecycle_forward dst token release
  case faultResolved | contextResume | linkGridDump | energyInterval | powerDoze | powerRetain | powerOff | powerWake
      | wakeTimeout | clockStretch | thermalTrip | supplyFault | attestation | debugGrant | debugRequest | portDown | portUp
      | msiXInterrupt | hotPlug | powerOnReset | watchdogExpiry | registryReadopt | killContext | dump | contextCreate
      | checkpointRestore | kernelMemoryError | offlineBlock | correctedMemoryError | checkpointCopyEnd =>
    obtain rfl := Host.Outcome.next.inj h
    refine State.forward_of_eq ((State.flushErrs_lifecycle _).trans ?_)
    simp only [State.kernelReads_lifecycle, State.linkGrid_lifecycle, State.energyInterval_lifecycle, State.doze_lifecycle,
      State.retain_lifecycle, State.off_lifecycle, State.wake_lifecycle, State.wakeTimeout_lifecycle, State.stretch_lifecycle,
      State.thermalTrip, State.supplyFault, State.kernelMemoryError, State.fatal_lifecycle, State.attest_lifecycle,
      State.debugGrant_lifecycle, State.debugRequest_lifecycle, State.portDown_lifecycle, State.portUp_lifecycle,
      State.msiX_lifecycle, State.hotPlug_lifecycle, State.boot_lifecycle, State.watchdogExpiry_lifecycle,
      State.registryReadopt_lifecycle, State.kill_lifecycle, State.dump_lifecycle, State.createCtx_sys, State.restoreCtx_sys,
      State.offlineBlock_lifecycle, State.correctedError_lifecycle, State.copyEnd_lifecycle]
  case faultRefused | syscServe | parkResolved | accessPerformed | taskSeat | taskAging | continuationMigrate
      | steal | gangForm | earlyStart | recordRetire | tableClearFailed | tableGrow | messageArrival | msendRetryTimer
      | tileOpStart | tileOpFinal | mconvComplete | metadataStallTimeout | scheduleEntry | scheduleEnd | kaolinLoad
      | kaolinLoadComplete | kick | registerWrite | commandForward | engineOperationStart | chunkComplete | engineOperationEnd
      | engineFault | metadataPush | streamTileLoad | streamTileStore | streamEnd | commitAtHome | collectiveStep
      | collectiveHold | collectiveResume | memberAbort | haltLine | unitStop | haltComplete | preempt
      | contextSwitch | watchStrike | step | windowMarker | siltThreshold | siltShed | siltStall | rstep | rfwd | rwin
      | uncorrData | checkpoint | rinairFlitError | remoteAccessArrival | dmaWrite
      | completionTimeout | surpriseRemoval | shaleFlitError | shaleEndpointFailure | portRetrain | aerError
      | siltRegionEnlarge =>
    obtain rfl := Host.Outcome.next.inj h
    exact State.forward_of_eq (State.flushErrs_lifecycle _)
  all_goals cases hi

/-- What is carried on from an outcome. -/
theorem onNext_eq_next {f : State → State} {o : Step State} {s1 : State} (h : onNext f o = .next s1) :
    ∃ s2, o = .next s2 ∧ s1 = f s2 := by
  cases o with
  | next s2 => exact ⟨s2, rfl, (Host.Outcome.next.inj h).symm⟩
  | fault r => cases h
  | refused r => cases h

theorem State.after_lifecycle (s : State) : s.after.sys.lifecycle = s.sys.lifecycle := by
  rw [← s.flushErrs_lifecycle]
  show s.flushErrs.withDue.sys.lifecycle = _
  unfold State.withDue
  split <;> rfl

theorem State.forward.orMiss {s s1 : State} (h : s.forward s1) (i : Instr) : s.forward (s.orMiss i s1) := by
  unfold State.orMiss
  split
  · exact State.forward_of_eq rfl
  · exact h

/-- Whatever an instruction or an event does, the state the lifecycle has reached is kept. -/
theorem exec_forward {i : Instr} {s s1 : State} (h : exec i s = .next s1) : s.forward s1 := by
  cases he : i.enc with
  | none => exact exec_event_forward he h
  | some p =>
    obtain ⟨hsys, -⟩ := exec_encoded_frame (by rw [he]; rfl) h
    exact State.forward_of_eq (by rw [hsys])

/-- A thread's step: a trap, a stop, a park, or its instruction. -/
theorem stepThread_forward {s s1 : State} (h : stepThread s = .next s1) : s.forward s1 := by
  have alone : ∀ m1 : Mach, Host.Outcome.next { s with m := m1 } = (.next s1 : Step State) → s.forward s1 := fun m1 hm =>
    State.forward_of_eq (by rw [← Host.Outcome.next.inj hm])
  unfold stepThread at h
  split at h
  · exact alone _ h
  · split at h
    · exact alone _ h
    · split at h
      · exact alone _ h
      · split at h
        · exact alone _ h
        · obtain ⟨s2, hx, rfl⟩ := onNext_eq_next h
          have hf : State.forward _ s2 := exec_forward hx
          exact State.forward.orMiss (s := s) hf _

/-- No step takes the lifecycle back. -/
theorem step_forward {s s1 : State} (h : step s = .next s1) : s.forward s1 := by
  unfold step at h
  split at h
  · split at h
    · cases h
    · obtain ⟨s2, hx, rfl⟩ := onNext_eq_next h
      have hf : State.forward _ s2 := exec_forward hx
      exact hf
  · split at h
    · obtain ⟨s2, hx, rfl⟩ := onNext_eq_next h
      have hf : s.forward s2 := stepThread_forward hx
      rwa [State.forward, State.after_lifecycle]
    · refine State.forward_of_eq ?_
      split at h
      · rw [← Host.Outcome.next.inj h]
      · split at h <;> rw [← Host.Outcome.next.inj h]

end Sys2Proof.Machine
end

section
/-! PROOFS. O59: the lifecycle. -/

namespace Sys2Proof.Machine

/-- Settles O59: an encoded instruction is issued on the chip alone (`exec_encoded_frame`), and a step runs instructions and events of
which none takes the lifecycle back (`exec_forward`). -/
theorem lifecycleInvariant : Obligations.LifecycleInvariant := by
  unfold Obligations.LifecycleInvariant
  exact ⟨fun i s s1 hi hx => exec_encoded_frame hi hx, fun l s s1 hl hs => Nat.le_trans hl (step_forward hs)⟩

end Sys2Proof.Machine
end

section
/-! PROOFS. O36: the messages a thread sends. -/

namespace Sys2Proof.Machine

/-- An effect whose access is refused raises the fault and does nothing else. -/
theorem faults_of {i : Instr} {s : State} {rule : RRule} {f : Mach → Except Stop Mach} {cause acc : Nat} {va : Word}
    (he : exec i s = issue rule f s) (h : s.plain) (hf : f s.m = .error (.xfault cause acc va 0)) : Faults i s cause acc va :=
  he.trans (issue_error h.1 hf)

section
variable {m : Mach} {h : Word}

theorem Mach.checkHandle_reserved (hh : 2 ^ 42 ≤ h.toNat) : m.checkHandle h = .error (.trap 0x01 m.t.pc 0) :=
  if_pos (by omega)

theorem Mach.checkHandle_foreign (hh : h.toNat < 2 ^ 42) (ho : m.ownsCore m.cur (msgCore h) = false) :
    m.checkHandle h = .error (.xfault 1 0 h 0) := by
  rw [Mach.checkHandle, if_neg (by omega), ho]; rfl

theorem Mach.checkHandle_events (hh : h.toNat < 2 ^ 42) (ho : m.ownsCore m.cur (msgCore h) = true) (hc : msgChan h = 63) :
    m.checkHandle h = .error (.trap 0x09 h 0) := by
  rw [Mach.checkHandle, if_neg (by omega), ho]; exact if_pos hc

theorem Mach.checkHandle_ok (hh : h.toNat < 2 ^ 42) (ho : m.ownsCore m.cur (msgCore h) = true) (hc : msgChan h ≠ 63) :
    m.checkHandle h = .ok () := by
  rw [Mach.checkHandle, if_neg (by omega), ho]; exact if_neg hc

end

/-- The words that go with a message of a kind: c1 to c4 with MSEND (R360). -/
def Task.sentWords (t : Task) (op : Nat) : List Word :=
  if op = sendMsg then (List.range 4).map fun i => t.val (.code (Fin.ofNat 8 (i + 1))) else []

section
variable {m : Mach} {mod : Option XMod} {a : Opnd} (hb : m.t.bounds [a] = .ok ()) (ha : m.t.raw mod a = .ok (m.t.val a)) (op : Nat)
include hb ha

theorem sendM_error {e : Stop} (he : m.checkHandle (m.t.val a) = .error e) : sendM op mod a m = .error e := by
  simp [sendM, hb, ha, he, bind, Except.bind]

theorem sendM_ok (hw : m.weak = []) (he : m.checkHandle (m.t.val a) = .ok ()) : sendM op mod a m =
    .ok { m with t := { m.t with phase := .sending { op := op, handle := m.t.val a, words := m.t.sentWords op } } } := by
  simp [sendM, hb, ha, he, releaseAt_none hw, Task.sentWords, bind, Except.bind]

end

section
variable {s : State} {m : Option XMod} {a : Opnd} (h : s.ready m [a] [a])

/-- The instructions of R360 with their kinds. -/
theorem exec_sends {i : Instr} (hi : i ∈ [Instr.msend m a, .tblk m a, .tunblk m a]) (s : State) :
    ∃ op, exec i s = issue (.abort abForbidden) (sendM op m a) s := by
  simp only [List.mem_cons, List.not_mem_nil, or_false] at hi
  rcases hi with rfl | rfl | rfl
  · exact ⟨sendMsg, rfl⟩
  · exact ⟨sendBlk, rfl⟩
  · exact ⟨sendUnblk, rfl⟩

include h

/-- A message to a handle that stands: its thread parks. -/
theorem issue_sends (hr : s.atRest) (he : s.m.checkHandle (s.m.t.val a) = .ok ()) {op : Nat} (hop : op ≠ sendEvent) :
    issue (.abort abForbidden) (sendM op m a) s = .next { s with m := { s.m with t := { s.m.t with
      phase := .sending { op := op, handle := s.m.t.val a, words := s.m.t.sentWords op } } } } := by
  refine issue_held h.plain.1 (sendM_ok h.bounds (h.raw (List.mem_singleton.mpr rfl)) op hr.weak he) h.plain.1 ?_ (fits_of_ctxs rfl _)
  simpa [Task.isHeld] using hop

/-- A handle that is refused stops the three instructions alike. -/
theorem sends_error {e : Stop} (he : s.m.checkHandle (s.m.t.val a) = .error e) (op : Nat) : sendM op m a s.m = .error e :=
  sendM_error h.bounds (h.raw (List.mem_singleton.mpr rfl)) op he

end

/-- Settles O36: the three instructions differ in their kind alone (`exec_sends`), and stop or send as the checks of their handle say
(`Mach.checkHandle_ok` and the three refusals). -/
theorem messages : Obligations.Messages := by
  unfold Obligations.Messages
  intro s m a h hr hd core chan sends all
  have hcore : core = msgCore hd := by simp [core, msgCore, Sys2Proof.Machine.fieldOf]
  have hchan : chan = msgChan hd := by simp [chan, msgChan, Sys2Proof.Machine.fieldOf]
  rw [hcore, hchan]
  refine ⟨fun hh ho hc => ?_, fun hh i hi => ?_, fun hh ho i hi => ?_, fun hh ho hc i hi => ?_⟩
  · have he := Mach.checkHandle_ok hh ho hc
    exact ⟨issue_sends h hr he (op := sendMsg) (by decide), issue_sends h hr he (op := sendBlk) (by decide),
      issue_sends h hr he (op := sendUnblk) (by decide)⟩
  · obtain ⟨op, hx⟩ := exec_sends hi s
    exact traps_of hx h.plain (sends_error h (Mach.checkHandle_reserved hh) op)
  · obtain ⟨op, hx⟩ := exec_sends hi s
    exact faults_of hx h.plain (sends_error h (Mach.checkHandle_foreign hh ho) op)
  · obtain ⟨op, hx⟩ := exec_sends hi s
    exact traps_of hx h.plain (sends_error h (Mach.checkHandle_events hh ho hc) op)

end Sys2Proof.Machine
end

section
/-! SUPPORT. The error ring after an event (26 R446, R447): what it changes, and that a detected error is found in it. -/

namespace Sys2Proof.Machine

/-- The ring changes its own fields and adds interrupts; nothing else. -/
theorem State.flushErrs_shape (s : State) : ∃ irqs ring lost seq last, s.flushErrs =
    { s with m := { s.m with errs := [], irqs := irqs }
             sys := { s.sys with ring := ring, ringLost := lost, ringSeq := seq, lastErr := last } } := by
  refine List.foldlRecOn _ _ (motive := fun a : State => ∃ irqs ring lost seq last, a =
    { s with m := { s.m with errs := [], irqs := irqs }
             sys := { s.sys with ring := ring, ringLost := lost, ringSeq := seq, lastErr := last } }) ?_ fun a ha r _ => ?_
  · exact ⟨_, _, _, _, _, rfl⟩
  · obtain ⟨irqs, ring, lost, seq, last, rfl⟩ := ha
    have hlog : ∀ y : Sys, ∀ x : ErrRec, ∃ ring lost seq last, y.logError x =
        { y with ring := ring, ringLost := lost, ringSeq := seq, lastErr := last } := fun y x => by
      unfold Sys.logError
      split
      · split
        · exact ⟨_, _, _, _, rfl⟩
        · split <;> exact ⟨_, _, _, _, rfl⟩
      · exact ⟨_, _, _, _, rfl⟩
    unfold State.logErr
    obtain ⟨ring1, lost1, seq1, last1, hy⟩ := hlog { s.sys with ring := ring, ringLost := lost, ringSeq := seq, lastErr := last }
      (if r.valid % 2 = 1 ∧ (Tab.look {} s.m.ctxs r.ctx).isSealed then r.hide else r)
    dsimp only
    rw [hy]
    split <;> exact ⟨_, _, _, _, _, rfl⟩

/-- What the ring leaves of the chip. -/
theorem State.flushErrs_m (s : State) : ∃ irqs, s.flushErrs.m = { s.m with errs := [], irqs := irqs } := by
  obtain ⟨irqs, _, _, _, _, h⟩ := s.flushErrs_shape
  exact ⟨irqs, congrArg State.m h⟩

/-- What the ring leaves of the system die. -/
theorem State.flushErrs_sys (s : State) : ∃ ring lost seq last, s.flushErrs.sys =
    { s.sys with ring := ring, ringLost := lost, ringSeq := seq, lastErr := last } := by
  obtain ⟨_, ring, lost, seq, last, h⟩ := s.flushErrs_shape
  exact ⟨ring, lost, seq, last, congrArg State.sys h⟩

/-- A record of a code and a unit stands unread in the ring. -/
def Sys.tells (y : Sys) (code unit : Nat) : Prop := ∃ r ∈ y.ring, r.code = code ∧ r.unit = unit

/-- A record logged keeps what the ring tells. -/
theorem Sys.tells_logError {y : Sys} {code unit : Nat} (h : y.tells code unit) (r : ErrRec) : (y.logError r).tells code unit := by
  obtain ⟨x, hx, hcode, hunit⟩ := h
  unfold Sys.logError
  split
  · next n hn =>
    split
    · rw [← List.dropLast_append_getLast? n hn, List.mem_append, List.mem_singleton] at hx
      rcases hx with hx | rfl
      · exact ⟨x, List.mem_append_left _ hx, hcode, hunit⟩
      · exact ⟨_, List.mem_append_right _ (List.mem_singleton.mpr rfl), hcode, hunit⟩
    · split
      · exact ⟨x, hx, hcode, hunit⟩
      · exact ⟨x, List.mem_append_left _ hx, hcode, hunit⟩
  · exact ⟨x, List.mem_append_left _ hx, hcode, hunit⟩

/-- A ring with room takes a record, or folds it into the newest of its code and unit. -/
theorem Sys.logError_tells {y : Sys} (h : y.ring.length < 4096) (r : ErrRec) : (y.logError r).tells r.code r.unit := by
  have happend : (y.appendError r).tells r.code r.unit :=
    ⟨{ r with seq := y.ringSeq }, List.mem_append_right _ (List.mem_singleton.mpr rfl), rfl, rfl⟩
  unfold Sys.logError
  split
  · next n hn =>
    split
    · next hf =>
      simp only [ErrRec.folds, Bool.and_eq_true, beq_iff_eq] at hf
      exact ⟨_, List.mem_append_right _ (List.mem_singleton.mpr rfl), hf.1.1.1, hf.1.1.2⟩
    · rw [if_neg (by omega)]
      exact happend
  · exact happend

theorem Sys.logError_ring_length_le (y : Sys) (r : ErrRec) : (y.logError r).ring.length ≤ y.ring.length + 1 := by
  unfold Sys.logError
  split
  · split
    · simp only [List.length_append, List.length_dropLast, List.length_singleton]; omega
    · split
      · exact Nat.le_succ _
      · simp [Sys.appendError]
  · simp [Sys.appendError]

/-- What is logged for an error has its code and unit. -/
theorem State.logErr_sys (s : State) (r : ErrRec) : ∃ x : ErrRec, x.code = r.code ∧ x.unit = r.unit ∧
    (s.logErr r).sys = s.sys.logError x := by
  refine ⟨_, ?_, ?_, rfl⟩ <;> split <;> rfl

theorem State.tells_foldl_logErr {code unit : Nat} : ∀ (l : List ErrRec) (s : State), s.sys.tells code unit →
    (l.foldl State.logErr s).sys.tells code unit
  | [], _, h => h
  | r :: l, s, h => by
    obtain ⟨x, -, -, hx⟩ := s.logErr_sys r
    exact State.tells_foldl_logErr l _ (hx ▸ Sys.tells_logError h x)

theorem State.foldl_logErr_tells {r : ErrRec} (l : List ErrRec) (s : State) (hr : r ∈ l)
    (hl : s.sys.ring.length + l.length ≤ 4096) : (l.foldl State.logErr s).sys.tells r.code r.unit := by
  induction l generalizing s with
  | nil => exact absurd hr List.not_mem_nil
  | cons q l ih =>
    obtain ⟨x, hcode, hunit, hx⟩ := s.logErr_sys q
    rw [List.length_cons] at hl
    rcases List.mem_cons.mp hr with rfl | hr
    · refine State.tells_foldl_logErr l _ ?_
      rw [hx, ← hcode, ← hunit]
      exact Sys.logError_tells (by omega) x
    · refine ih _ hr ?_
      have := Sys.logError_ring_length_le s.sys x
      rw [hx]
      omega

/-- A detected error stands in the ring, where it has room for all of them. -/
theorem State.flushErrs_tells {s : State} {r : ErrRec} (hr : r ∈ s.m.errs) (hl : s.sys.ring.length + s.m.errs.length ≤ 4096) :
    s.flushErrs.sys.tells r.code r.unit := State.foldl_logErr_tells _ _ hr hl

/-- What the ring told before the chip's errors it tells after them. -/
theorem State.tells_flushErrs {s : State} {code unit : Nat} (h : s.sys.tells code unit) : s.flushErrs.sys.tells code unit :=
  State.tells_foldl_logErr _ _ h

/-- An event that detects nothing. -/
theorem eventS_quiet {s : State} {f : State → State} (h : (f s).m.errs = []) : eventS f s = .next (f s) :=
  congrArg Host.Outcome.next (State.flushErrs_none h)

/-- An event that has no effect where nothing was left to detect. -/
theorem eventS_stays {s : State} {f : State → State} (herr : s.m.errs = []) (h : f s = s) : eventS f s = .next s := by
  rw [eventS_quiet (by rw [h]; exact herr), h]

/-- An event that has no effect on the chip where nothing was left to detect. -/
theorem eventM_stays {s : State} {f : Mach → Mach} (herr : s.m.errs = []) (h : f s.m = s.m) : eventM f s = .next s := by
  rw [eventM_quiet (by rw [h]; exact herr), h]

/-- A record among the chip's errors beside none. -/
@[simp] theorem Mach.noteUnit_errs (m : Mach) (r : ErrRec) :
    (m.noteUnit r).errs = m.errs ++ [{ r with ctx := 0, time := m.cycle, window := 0 }] := rfl

/-- An event that notes one error of a unit leaves it in the ring, and of the chip changes the interrupts alone. -/
theorem flushErrs_noteUnit {s : State} (herr : s.m.errs = []) (hl : s.sys.ring.length < 4096) (y : Sys) (hy : y.ring = s.sys.ring)
    (r : ErrRec) : ({ s with m := s.m.noteUnit r, sys := y } : State).flushErrs.sys.tells r.code r.unit ∧
      ∃ irqs, ({ s with m := s.m.noteUnit r, sys := y } : State).flushErrs.m = { s.m with irqs := irqs } := by
  refine ⟨State.flushErrs_tells (r := { r with ctx := 0, time := s.m.cycle, window := 0 }) ?_ ?_, ?_⟩
  · exact List.mem_append_right _ (List.mem_singleton.mpr rfl)
  · rw [Mach.noteUnit_errs, herr, hy]
    exact hl
  · obtain ⟨irqs, h⟩ := State.flushErrs_m { s with m := s.m.noteUnit r, sys := y }
    refine ⟨irqs, h.trans ?_⟩
    rw [← herr]
    rfl

/-! ### Tables whose keys are filtered -/

theorem Tab.look_filter_key {α : Type} (d : α) (p : Nat → Bool) : ∀ (t : Tab α) (i : Nat),
    Tab.look d (t.filter fun q => p q.1) i = if p i then Tab.look d t i else d
  | [], i => by simp [Tab.look]
  | (k, v) :: r, i => by
    have ih := Tab.look_filter_key d p r i
    rw [List.filter_cons]
    by_cases hi : i = k
    · subst hi
      by_cases hp : p i = true
      · rw [if_pos hp, if_pos hp]; simp [Tab.look]
      · rw [if_neg hp, ih, if_neg hp, if_neg hp]
    · have hk : Tab.look d ((k, v) :: r) i = Tab.look d r i := if_neg hi
      rw [hk, ← ih]
      split
      · exact if_neg hi
      · rfl

end Sys2Proof.Machine
end

section
/-! PROOFS. O50: power states, energy and clock stretching. -/

namespace Sys2Proof.Machine

/-! ### Power states (24 R421, R422) -/

/-- A block's power state changed, and no other's. -/
theorem Sys.look_setPower (y : Sys) (b : Block) (p : PState4) (k : Nat) :
    Tab.look .retain (y.setPower b p).power k = if k = blockUnit b then p else Tab.look .retain y.power k :=
  Tab.look_put ..

@[simp] theorem Sys.pstate_setPower (y : Sys) (b : Block) (p : PState4) : (y.setPower b p).pstate b = p :=
  (y.look_setPower b p _).trans (if_pos rfl)

section
variable {s : State} {b : Block}

theorem State.doze_ok (hport : ¬ ∃ p, b = .port p) (hon : s.sys.pstate b = .run) (hidle : s.m.blockIdle b = true) :
    s.doze b = { s with sys := s.sys.setPower b .doze } := by
  unfold State.doze
  rw [if_neg, if_pos ⟨hon, hidle⟩]
  intro hb
  cases b with
  | port p => exact hport ⟨p, rfl⟩
  | _ => cases hb

theorem State.doze_stays (h : (∃ p, b = .port p) ∨ s.sys.pstate b ≠ .run ∨ ¬ s.m.blockIdle b = true) : s.doze b = s := by
  unfold State.doze
  rcases h with ⟨p, rfl⟩ | h | h
  · exact if_pos rfl
  · exact (ite_eq_left_iff.mpr fun _ => if_neg fun hc => h hc.1)
  · exact (ite_eq_left_iff.mpr fun _ => if_neg fun hc => h hc.2)

/-- The power state from which a block enters RETAIN: a Rinair port from ON. -/
def beforeRetain (b : Block) : PState4 := if b matches .port _ then .run else .doze

theorem State.retain_eq (s : State) (b : Block) : s.retain b =
    if s.sys.pstate b = beforeRetain b ∧ s.m.blockIdle b then { s with sys := s.sys.setPower b .retain } else s := rfl

theorem beforeRetain_port (h : ∃ p, b = .port p) : beforeRetain b = .run := by
  obtain ⟨p, rfl⟩ := h; rfl

theorem beforeRetain_of_not_port (h : ¬ ∃ p, b = .port p) : beforeRetain b = .doze := by
  cases b with
  | port p => exact absurd ⟨p, rfl⟩ h
  | _ => rfl

theorem State.retain_ok (hidle : s.m.blockIdle b = true)
    (h : (¬ ∃ p, b = .port p) ∧ s.sys.pstate b = .doze ∨ (∃ p, b = .port p) ∧ s.sys.pstate b = .run) :
    s.retain b = { s with sys := s.sys.setPower b .retain } := by
  rw [State.retain_eq, if_pos]
  rcases h with ⟨hp, hs⟩ | ⟨hp, hs⟩
  · exact ⟨hs.trans (beforeRetain_of_not_port hp).symm, hidle⟩
  · exact ⟨hs.trans (beforeRetain_port hp).symm, hidle⟩

theorem State.retain_stays (h : ¬ s.m.blockIdle b = true ∨ s.sys.pstate b = .retain ∨ s.sys.pstate b = .off) : s.retain b = s := by
  rw [State.retain_eq, if_neg]
  rintro ⟨hs, hidle⟩
  have hb : beforeRetain b = .run ∨ beforeRetain b = .doze := by
    by_cases hp : ∃ p, b = .port p
    · exact .inl (beforeRetain_port hp)
    · exact .inr (beforeRetain_of_not_port hp)
  rcases h with h | h | h
  · exact h hidle
  all_goals rw [h] at hs; rw [← hs] at hb; simp at hb

theorem State.off_stays (h : s.sys.pstate b ≠ .retain ∨ ¬ s.m.blockIdle b = true ∨ s.m.blockLive b = true) : s.off b = s := by
  refine if_neg fun ⟨hs, hidle, hlive⟩ => ?_
  rcases h with h | h | h
  · exact h hs
  · exact h hidle
  · exact hlive h

theorem State.off_ok (hs : s.sys.pstate b = .retain) (hidle : s.m.blockIdle b = true) (hlive : s.m.blockLive b = false) :
    s.off b = { s with m := s.m.blockWiped b, sys := s.sys.setPower b .off } :=
  if_pos ⟨hs, hidle, by simp [hlive]⟩

/-- A block OFF leaves the tasks and the contexts. -/
theorem Mach.blockWiped_frame (m : Mach) (b : Block) : (m.blockWiped b).t = m.t ∧ (m.blockWiped b).others = m.others ∧
    (m.blockWiped b).ctxs = m.ctxs ∧ (m.blockWiped b).errs = m.errs := by
  cases b <;> exact ⟨rfl, rfl, rfl, rfl⟩

/-- A block OFF loses bytes of its own SRAM and Kaolin alone, none of HBM. -/
theorem Mach.byte_blockWiped (m : Mach) (b : Block) {k : Nat} (hk : k < 2 ^ 52) : (m.blockWiped b).byte k = m.byte k := by
  cases b with
  | core n =>
    refine (Tab.look_filter_key emptyByte (fun k => !inRanges (coreRanges n) k) m.mem k).trans (if_pos ?_)
    simp only [inRanges, coreRanges, scratchKey, actKey, accKey, spaceBase, List.any_cons, List.any_nil, Bool.not_eq_true',
      Bool.or_eq_false_iff, Bool.and_eq_false_iff, decide_eq_false_iff_not]
    refine ⟨.inl ?_, .inl ?_, .inl ?_, .inl ?_, trivial⟩ <;> omega
  | matrix cl =>
    refine (Tab.look_filter_key emptyByte (fun k => !inRanges (kaolinRange cl) k) m.mem k).trans (if_pos ?_)
    simp only [inRanges, kaolinRange, kaolinKey, spaceBase, List.any_cons, List.any_nil, Bool.not_eq_true',
      Bool.or_eq_false_iff, Bool.and_eq_false_iff, decide_eq_false_iff_not]
    exact ⟨.inl (by omega), trivial⟩
  | _ => rfl

/-- A core OFF has its SRAM at its reset values. -/
theorem Mach.byte_coreWiped (m : Mach) (n : Nat) {k : Nat} (hk : inRanges (coreRanges n) k = true) : (m.blockWiped (.core n)).byte k = 0 :=
  (Tab.look_filter_key emptyByte (fun k => !inRanges (coreRanges n) k) m.mem k).trans (if_neg (by simp [hk]))

theorem inRanges_of_mem {l : List (Nat × Nat)} {a n off : Nat} (h : (a, n) ∈ l) (hk : off < n) : inRanges l (a + off) = true :=
  List.any_eq_true.mpr ⟨(a, n), h, by simpa using hk⟩

theorem inRanges_core {n off : Nat} (h : off < 65536) : inRanges (coreRanges n) (scratchKey false n off) = true ∧
    inRanges (coreRanges n) (scratchKey true n off) = true ∧ inRanges (coreRanges n) (actKey n off) = true ∧
    inRanges (coreRanges n) (accKey n off) = true :=
  ⟨inRanges_of_mem (a := scratchKey false n 0) (by simp [coreRanges]) h, inRanges_of_mem (a := scratchKey true n 0) (by simp [coreRanges]) h,
    inRanges_of_mem (a := actKey n 0) (by simp [coreRanges]) h, inRanges_of_mem (a := accKey n 0) (by simp [coreRanges]) h⟩

end

/-! ### Energy (19 R355) -/

theorem energyInterval_shares {q : Charge} {uj k j o n l : Nat} (ho : o ≠ q.ctx) :
    let b : BlockEnergy := { uj := uj, cycles := [(q.ctx, k), (o, j)], slots := [(q.ctx, q.rec_, n), (q.ctx, q.rec_ + 1, l)] }
    (∀ slots, idleShare b q.ctx slots = uj * k * slots / ((k + j) * (n + l))) ∧
    (([b].filter noHolder).map (·.uj)).sum = if k + j = 0 then uj else 0 := by
  intro b
  refine ⟨fun slots => ?_, ?_⟩
  · simp [idleShare, cyclesOf, slotsOf, b, ho]
  · by_cases hk : k + j = 0
    · rw [if_pos hk]; simp [noHolder, b, hk]
    · have hheld : noHolder b = false := by simp only [noHolder, b, List.map_cons, List.map_nil, List.sum_cons, List.sum_nil]; simpa using hk
      rw [if_neg hk, List.filter_cons_of_neg (by simp [hheld])]
      rfl

/-- What an interval adds to the records of a context: the active energy to its own, and to each of two records its share of a block. -/
theorem launch_energyInterval (s : State) (q : Charge) (b : BlockEnergy) {n l : Nat}
    (hb : b.slots = [(q.ctx, q.rec_, n), (q.ctx, q.rec_ + 1, l)]) (r : Nat) :
    (s.energyInterval [q] [b]).m.launch q.ctx r =
      if r = q.rec_ then { s.m.launch q.ctx r with
        energy := (s.m.launch q.ctx r).energy + q.active + idleShare b q.ctx n
        sharedUj := (s.m.launch q.ctx r).sharedUj + idleShare b q.ctx n }
      else if r = q.rec_ + 1 then { s.m.launch q.ctx r with
        energy := (s.m.launch q.ctx r).energy + idleShare b q.ctx l
        sharedUj := (s.m.launch q.ctx r).sharedUj + idleShare b q.ctx l }
      else s.m.launch q.ctx r := by
  simp only [State.energyInterval, List.foldl_cons, List.foldl_nil, Mach.divide, hb, Mach.charge, Mach.launch_updRec, true_and]
  by_cases h0 : r = q.rec_
  · subst h0
    simp
  · by_cases h1 : r = q.rec_ + 1
    · subst h1
      simp
    · simp [h0, h1]

/-! ### Clock stretching (24 R424) -/

section
variable {s : State} {b : Block} (temp : Nat)

theorem stretches_unit (h : ∃ n, b = .core n ∨ b = .matrix n ∨ b = .sfu n) : stretches b = true := by
  obtain ⟨n, rfl | rfl | rfl⟩ := h <;> rfl

theorem State.stretch_begins (hb : stretches b = true) (hu : blockUnit b ∉ s.sys.stretched) (hh : s.m.haltsAt b = false) :
    ∃ r l, r.code = 0x7001 ∧ r.unit = blockUnit b ∧
      s.stretch b true temp = { s with m := s.m.noteUnit r, sys := { s.sys with stretched := l } } := by
  have hu' : s.sys.stretched.contains (blockUnit b) = false := by simpa using hu
  refine ⟨_, _, ?_, ?_, if_neg ?_⟩
  · rfl
  · rfl
  · rw [hu', hb, hh]; decide

theorem State.stretch_halting (hh : s.m.haltsAt b = true) : s.stretch b true temp = s := if_pos (by simp [hh])

theorem State.stretch_ended (hu : blockUnit b ∉ s.sys.stretched) : s.stretch b false temp = s := by
  have hu' : s.sys.stretched.contains (blockUnit b) = false := by simpa using hu
  exact if_pos (by rw [hu']; simp)

end

/-- A row of counts below 2^32 is dumped as it is. -/
theorem map_sat32 {rows : List LinkCount} (hlen : rows.length ≤ 2816) (h : ∀ r ∈ rows, r.1 < 2 ^ 32 ∧ r.2 < 2 ^ 32) :
    ((rows.take 2816).map fun r => (sat32 r.1, sat32 r.2)) = rows := by
  rw [List.take_of_length_le hlen]
  refine (List.map_congr_left fun r hr => ?_).trans (List.map_id rows)
  obtain ⟨h1, h2⟩ := h r hr
  have hs : ∀ n, n < 2 ^ 32 → sat32 n = n := fun n hn => Nat.min_eq_left (by omega)
  rw [hs _ h1, hs _ h2]
  rfl

section
variable {s : State} {b : Block} (herr : s.m.errs = [])
include herr

/-- An event that changes a block's power state alone. -/
theorem puts_of {i : Instr} {f : State → State} {p : PState4} (he : exec i s = eventS f s)
    (hf : f s = { s with sys := s.sys.setPower b p }) : ∃ s1, exec i s = .next s1 ∧ s1.m = s.m ∧ s1.agenda = s.agenda ∧
      s1.sys = { s.sys with power := s1.sys.power } ∧
      ∀ k, Tab.look .retain s1.sys.power k = if k = blockUnit b then p else Tab.look .retain s.sys.power k := by
  refine ⟨_, he.trans (eventS_quiet (by rw [hf]; exact herr)), ?_⟩
  rw [hf]
  exact ⟨rfl, rfl, rfl, s.sys.look_setPower b p⟩

/-- An event that notes an error of a block, the power states as they were. -/
theorem reports_of {i : Instr} {f : State → State} {r : ErrRec} {y : Sys} (he : exec i s = eventS f s)
    (hl : s.sys.ring.length < 4096) (hf : f s = { s with m := s.m.noteUnit r, sys := y }) (hy : y.ring = s.sys.ring)
    (hp : y.power = s.sys.power) : ∃ s1, exec i s = .next s1 ∧ s1.m.t = s.m.t ∧ s1.m.mem = s.m.mem ∧ s1.m.ctxs = s.m.ctxs ∧
      s1.sys.power = s.sys.power ∧ ∃ x ∈ s1.sys.ring, x.code = r.code ∧ x.unit = r.unit := by
  refine ⟨_, he, ?_⟩
  rw [hf]
  obtain ⟨htells, irqs, hm⟩ := flushErrs_noteUnit herr hl y hy r
  obtain ⟨_, _, _, _, hsys⟩ := State.flushErrs_sys { s with m := s.m.noteUnit r, sys := y }
  rw [hm]
  exact ⟨rfl, rfl, rfl, by rw [hsys]; exact hp, htells⟩

theorem exec_powerOff_ok (hs : s.sys.pstate b = .retain) (hidle : s.m.blockIdle b = true) (hlive : s.m.blockLive b = false) :
    exec (.powerOff b) s = .next { s with m := s.m.blockWiped b, sys := s.sys.setPower b .off } := by
  have hoff := State.off_ok hs hidle hlive
  refine (eventS_quiet (f := (·.off b)) ?_).trans (congrArg _ hoff)
  show (s.off b).m.errs = []
  rw [hoff]
  exact (s.m.blockWiped_frame b).2.2.2.trans herr

omit herr in
theorem exec_energyInterval (active : List Charge) (blocks : List BlockEnergy)
    (h : (s.energyInterval active blocks).m.errs = []) :
    exec (.energyInterval active blocks) s = .next (s.energyInterval active blocks) :=
  eventS_quiet (f := (·.energyInterval active blocks)) h

end

/-- Settles O50: each event of the power states changes a block's state (`puts_of`), reports (`reports_of`) or has no effect
(`eventS_stays`), as the guard of its function says. -/
theorem powerEvents : Obligations.PowerEvents := by
  unfold Obligations.PowerEvents
  intro s b herr hl y puts stays is port idle reports
  refine ⟨?grid, ?energy, fun hp hs hi => puts_of herr (f := (·.doze b)) rfl (State.doze_ok hp hs hi),
    fun h => eventS_stays (f := (·.doze b)) herr (State.doze_stays h), fun hi h => puts_of herr (f := (·.retain b)) rfl (State.retain_ok hi h),
    fun h => eventS_stays (f := (·.retain b)) herr (State.retain_stays h), fun h => eventS_stays (f := (·.off b)) herr (State.off_stays h), ?off,
    puts_of herr (f := (·.wake b)) rfl rfl, fun hs => eventS_stays (f := (·.wakeTimeout b)) herr (if_pos hs),
    fun hs => reports_of herr (f := (·.wakeTimeout b)) rfl hl (if_neg hs) rfl rfl, fun temp hb hu => ⟨?stretch,
      fun hh => eventS_stays (f := (·.stretch b true temp)) herr (State.stretch_halting temp hh), eventS_stays (f := (·.stretch b false temp)) herr (State.stretch_ended temp hu)⟩⟩
  case grid =>
    intro rows uj hlen hrows d
    refine ⟨(eventS_quiet (f := (·.linkGrid rows uj true)) herr).trans ?_,
      ⟨_, eventS_quiet (f := (·.linkGrid rows uj false)) herr, rfl, rfl, rfl, rfl⟩⟩
    simp only [State.linkGrid, map_sat32 hlen hrows]
    rfl
  case energy =>
    intro q uj k j o n l ho divided share p
    obtain ⟨hshare, hheld⟩ := energyInterval_shares (uj := uj) (k := k) (j := j) (n := n) (l := l) ho
    refine ⟨_, exec_energyInterval [q] [divided] herr, rfl, rfl, ?_, fun r => ?_⟩
    · simp only [State.energyInterval]
      rw [hheld]
    · rw [launch_energyInterval s q divided rfl r, hshare n, hshare l]
  case off =>
    intro hs hi hlive
    obtain ⟨ht, ho, hc, -⟩ := s.m.blockWiped_frame b
    refine ⟨_, exec_powerOff_ok herr hs hi hlive, s.sys.pstate_setPower b .off, ht, ho, hc, ?_, fun k hk => s.m.byte_blockWiped b hk⟩
    rintro n rfl off hoff
    obtain ⟨h1, h2, h3, h4⟩ := inRanges_core (n := n) hoff
    exact ⟨s.m.byte_coreWiped n h1, s.m.byte_coreWiped n h2, s.m.byte_coreWiped n h3, s.m.byte_coreWiped n h4⟩
  case stretch =>
    intro hh
    obtain ⟨r, l, hcode, hunit, hst⟩ := State.stretch_begins temp (stretches_unit hb) hu hh
    have h := reports_of (i := .clockStretch b true temp) herr (f := (·.stretch b true temp)) rfl hl hst rfl rfl
    rwa [hcode, hunit] at h

end Sys2Proof.Machine
end

section
/-! SUPPORT. A halted context resumed with no work of the kernel (09 R174). -/

namespace Sys2Proof.Machine

@[simp] theorem Mach.ctx_setSilt (m : Mach) (c d : Nat) (f : Silt → Silt) :
    (m.setSilt c f).ctx d = if d = c then { m.ctx c with silt := f (m.ctx c).silt } else m.ctx d := m.ctx_setCtx ..

/-- Work of the kernel that writes nothing leaves everything but the contexts' order as it was. -/
theorem Mach.work_idle (m : Mach) (c : Nat) : ∃ f : Ctx → Ctx, m.work c {} = m.setCtx c f ∧ ∀ x, f x = x := by
  refine ⟨_, rfl, fun x => ?_⟩
  have h : (x.deadGroups.filter fun g => !(([] : List (Nat × List Member)).any fun p => p.1 == g)) = x.deadGroups := by simp
  simp only [List.foldl_nil, List.append_nil]
  exact congrArg (fun l => { x with deadGroups := l }) h

/-- The line lowered with no entry of its table in evaluation: HALT at its reset value, memory as it was. -/
theorem Mach.lowerLine_spec {m : Mach} {c : Nat} (h : (m.ctx c).loam.entries = []) :
    (m.lowerLine c).mem = m.mem ∧ (m.lowerLine c).errs = m.errs ∧ (m.lowerLine c).ctx c = { m.ctx c with halt := {} } := by
  have key : ∀ m2 : Mach, m2.mem = m.mem → m2.errs = m.errs → m2.ctx c = { m.ctx c with halt := {} } →
      (m2.reevalGroups c).mem = m.mem ∧ (m2.reevalGroups c).errs = m.errs ∧
        (m2.reevalGroups c).ctx c = { m.ctx c with halt := {} } := fun m2 hm he hc => by
    have hr : m2.reevalGroups c = m2 := by rw [Mach.reevalGroups, hc]; simp only [h]; rfl
    rw [hr]
    exact ⟨hm, he, hc⟩
  exact key _ rfl rfl ((Mach.ctx_setCtx ..).trans (if_pos rfl))

/-- A complete halt of a context that was neither rewound nor edited is resumed (09 R174). -/
theorem Mach.resume_idle {m : Mach} {c : Nat} (hv : (m.ctx c).valid = true) (hk : (m.ctx c).killed = false)
    (hc : (m.ctx c).halt.complete = true) (hu : (m.ctx c).silt.undone = []) (hr : (m.ctx c).silt.rewound = none)
    (he : (m.ctx c).silt.edited = false) (hl : (m.ctx c).loam.entries = []) :
    (m.resume c {}).mem = m.mem ∧ (m.resume c {}).errs = m.errs ∧ ((m.resume c {}).ctx c).halt = {} := by
  have hopen : (m.ctx c).silt.stepsOpen = false := by simp [Silt.stepsOpen, hr, hu]
  have hsettle : (m.setSilt c Silt.settleRewind).ctx c = m.ctx c := by
    rw [Mach.ctx_setSilt, if_pos rfl]
    simp [Silt.settleRewind, hr]
  obtain ⟨f, hf, hid⟩ := (m.setSilt c Silt.settleRewind).work_idle c
  have hres : m.resume c {} =
      m.orHold c (((((m.setSilt c Silt.settleRewind).work c {}).imageWork c {}).ctlWork c {}).lowerLine c) := by
    unfold Mach.resume
    dsimp only
    rw [if_neg (by simp [hv, hk, hc, hopen]), if_pos (by simp [he, isIdle])]
  have hctx : ((((m.setSilt c Silt.settleRewind).work c {}).imageWork c {}).ctlWork c {}).ctx c = m.ctx c := by
    show (Mach.ctx ((m.setSilt c Silt.settleRewind).work c {}) c) = _
    rw [hf, Mach.ctx_setCtx, if_pos rfl, hid, hsettle]
  obtain ⟨hmem, herrs, hhalt⟩ := Mach.lowerLine_spec (m := (((m.setSilt c Silt.settleRewind).work c {}).imageWork c {}).ctlWork c {})
    (c := c) (by rw [hctx]; exact hl)
  have hfits : m.fits (((((m.setSilt c Silt.settleRewind).work c {}).imageWork c {}).ctlWork c {}).lowerLine c) c = true := by
    rw [Mach.fits, hhalt, hctx]
    simp
  rw [hres, Mach.orHold, if_pos hfits]
  refine ⟨hmem.trans ?_, herrs.trans ?_, by rw [hhalt]⟩
  · show ((m.setSilt c Silt.settleRewind).work c {}).mem = m.mem
    rw [hf]; rfl
  · show ((m.setSilt c Silt.settleRewind).work c {}).errs = m.errs
    rw [hf]; rfl

end Sys2Proof.Machine
end

section
/-! SUPPORT. An event that detects one error. -/

namespace Sys2Proof.Machine

/-- An event that leaves one error to the ring: of what its function gives, the ring changes its own fields and the interrupts, and
the error stands in it. -/
theorem exec_notes {s : State} {i : Instr} {f : State → State} (he : exec i s = eventS f s) {x : ErrRec} (hx : (f s).m.errs = [x])
    (hl : (f s).sys.ring.length < 4096) : ∃ s1, exec i s = .next s1 ∧ (∃ irqs, s1.m = { (f s).m with errs := [], irqs := irqs }) ∧
      (∃ ring lost seq last, s1.sys = { (f s).sys with ring := ring, ringLost := lost, ringSeq := seq, lastErr := last }) ∧
      s1.sys.tells x.code x.unit :=
  ⟨_, he, (f s).flushErrs_m, (f s).flushErrs_sys, State.flushErrs_tells (by rw [hx]; exact List.mem_singleton.mpr rfl) (by rw [hx]; exact hl)⟩

end Sys2Proof.Machine
end

section
/-! PROOFS. O53: lifecycle, attestation, grants and debug requests. -/

namespace Sys2Proof.Machine

/-! ### The lifecycle (24 R425) -/

section
variable {s : State} {dst : Lifecycle} {token release : Nat}

theorem exec_lifecycleTransition_stays (herr : s.m.errs = []) (h : s.lifecycle dst token release = s) :
    exec (.lifecycleTransition dst token release) s = .next s := eventS_stays (f := (·.lifecycle dst token release)) herr h

theorem exec_lifecycleTransition_rma (h : s.lifecycle .rma token release = s.enterRma) :
    ∃ s1, exec (.lifecycleTransition .rma token release) s = .next s1 ∧ s1.sys.lifecycle = .rma ∧ s1.m.mem = [] ∧
      s1.m.ctxs = [] ∧ s1.m.others = [] ∧ s1.sys.kernel = false ∧ s1.sys.ring = [] ∧ s1.sys.grants = [] := by
  refine ⟨_, eventS_quiet (f := (·.lifecycle .rma token release)) (by rw [h]; rfl), ?_⟩
  rw [h]
  exact ⟨rfl, rfl, rfl, rfl, rfl, rfl, rfl⟩

theorem State.lifecycle_blank (h : s.sys.lifecycle = .blank) (hd : dst ≠ .provisioned) : s.lifecycle dst token release = s := by
  unfold State.lifecycle
  rw [h]
  cases dst with
  | provisioned => exact absurd rfl hd
  | _ => rfl

theorem State.lifecycle_next (h : s.sys.lifecycle = .blank ∧ dst = .provisioned ∨ s.sys.lifecycle = .provisioned ∧ dst = .locked) :
    s.lifecycle dst token release = { s with sys := { s.sys with lifecycle := dst } } := by
  unfold State.lifecycle
  rcases h with ⟨h, rfl⟩ | ⟨h, rfl⟩ <;> rw [h]

theorem exec_lifecycleTransition_next (herr : s.m.errs = [])
    (h : s.sys.lifecycle = .blank ∧ dst = .provisioned ∨ s.sys.lifecycle = .provisioned ∧ dst = .locked) :
    exec (.lifecycleTransition dst token release) s = .next { s with sys := { s.sys with lifecycle := dst } } := by
  have hl := State.lifecycle_next (token := token) (release := release) h
  exact (eventS_quiet (f := (·.lifecycle dst token release)) (by rw [hl]; exact herr)).trans (congrArg _ hl)

theorem State.lifecycle_provisioned_rma (h : s.sys.lifecycle = .provisioned) :
    s.lifecycle .rma token release = if s.vendorToken token then s.enterRma else s := by
  unfold State.lifecycle
  rw [h]

theorem State.lifecycle_provisioned_blank (h : s.sys.lifecycle = .provisioned) : s.lifecycle .blank token release = s := by
  unfold State.lifecycle
  rw [h]

theorem State.lifecycle_locked_rma (h : s.sys.lifecycle = .locked) :
    s.lifecycle .rma token release = if s.vendorToken token && s.ownerRelease release then s.enterRma else s := by
  unfold State.lifecycle
  rw [h]

theorem State.lifecycle_locked (h : s.sys.lifecycle = .locked) (hd : dst ≠ .rma) : s.lifecycle dst token release = s := by
  unfold State.lifecycle
  rw [h]
  cases dst with
  | rma => exact absurd rfl hd
  | _ => rfl

theorem State.lifecycle_rma (h : s.sys.lifecycle = .rma) : s.lifecycle dst token release = s := by
  unfold State.lifecycle
  rw [h]

end

/-! ### Refusals and grants (24 R428) -/

section
variable {s : State} {i : Instr} {f : State → State} (he : exec i s = eventS f s)
include he

/-- A refusal leaves its record, and nothing else but what follows from it. -/
theorem exec_refused {m : Mach} (herr : m.errs = []) (hl : s.sys.ring.length < 4096) {lv : DbgLevel} {c : Nat}
    (hf : f s = ({ s with m := m } : State).refuseDebug lv c) (hm : m.mem = s.m.mem) (hc : m.ctxs = s.m.ctxs) (ht : m.t = s.m.t) :
    ∃ s1, exec i s = .next s1 ∧ s1.m.mem = s.m.mem ∧ s1.m.ctxs = s.m.ctxs ∧ s1.m.t = s.m.t ∧
      s1.sys.grants = s.sys.grants ∧ s1.sys.power = s.sys.power ∧ ∃ r ∈ s1.sys.ring, r.code = 0x8001 := by
  obtain ⟨x, hcode, hshape⟩ : ∃ x : ErrRec, x.code = 0x8001 ∧ f s = { s with m := { m with errs := [x] } } := by
    have herrs : ∀ x : ErrRec, ({ m with errs := m.errs ++ [x] } : Mach) = { m with errs := [x] } := fun x => by rw [herr]; rfl
    rw [hf, State.refuseDebug]
    by_cases hv : (m.ctx c).valid = true
    · exact ⟨_, rfl, (congrArg (fun a : Mach => ({ s with m := a } : State)) ((if_pos hv).trans (herrs _)))⟩
    · exact ⟨_, rfl, (congrArg (fun a : Mach => ({ s with m := a } : State)) ((if_neg hv).trans (herrs _)))⟩
  obtain ⟨s1, hx, ⟨irqs, hm1⟩, ⟨_, _, _, _, hs1⟩, r, hr, hrcode, -⟩ := exec_notes he (x := x) (by rw [hshape]) (by rw [hshape]; exact hl)
  rw [hshape] at hm1 hs1
  refine ⟨s1, hx, ?_, ?_, ?_, ?_, ?_, r, hr, hrcode.trans hcode⟩
  · rw [hm1]; exact hm
  · rw [hm1]; exact hc
  · rw [hm1]; exact ht
  · rw [hs1]
  · rw [hs1]

/-- A grant is recorded. -/
theorem exec_granted {m : Mach} (herr : m.errs = []) {ses ctx : Nat} {lv : DbgLevel}
    (hf : f s = ({ s with m := m } : State).grant ses lv ctx) (hm : m = { s.m with free := m.free }) : ∃ s1, exec i s = .next s1 ∧
      s1.sys = { s.sys with grants := s.sys.grants ++ [⟨ses, lv, ctx⟩] } ∧ s1.m = { s.m with free := s1.m.free } :=
  ⟨_, he.trans ((eventS_quiet (by rw [hf]; exact herr)).trans (congrArg _ hf)), rfl, hm⟩

end

theorem ownedState_iff (l : Lifecycle) : ownedState l = true ↔ l = .provisioned ∨ l = .locked := by cases l <;> simp [ownedState]

/-- The state with the security block's next nonce drawn. -/
def State.nonceDrawn (s : State) : State := { s with m := { s.m with free := s.m.free + 1 } }

/-- The owner's signature over the security block's nonce, a grant of D1 to a context's session (R428). -/
def State.ownerSigned (s : State) (c token : Nat) : Bool :=
  Config.sm2 (s.m.ctx c).ownerHash (Config.sm3 [Config.nonce s.m.free, Config.device, c, 1]) token

theorem State.debugGrant_d1 (s : State) (ses c token : Nat) : s.debugGrant ses .d1 c token =
    if ownedState s.sys.lifecycle && (s.m.ctx c).valid && s.ownerSigned c token then s.nonceDrawn.grant ses .d1 c
    else s.nonceDrawn.refuseDebug .d1 c := rfl

theorem State.debugGrant_d2 (s : State) (ses c token : Nat) : s.debugGrant ses .d2 c token =
    if !ownedState s.sys.lifecycle || s.vendorToken token then s.grant ses .d2 0 else s.refuseDebug .d2 c := rfl

/-! ### Debug requests (24 R430) -/

section
variable {y : Sys} {ses c : Nat}

theorem Sys.levelOf_none (h : ∀ g ∈ y.grants, g.ses ≠ ses) : y.levelOf ses c = .d0 ∧ y.holdsOther ses = false := by
  have hh : ∀ q : Grant → Bool, (y.grants.any fun g => g.ses == ses && q g) = false := fun q =>
    List.any_eq_false.mpr fun g hg => by simp [h g hg]
  refine ⟨?_, List.any_eq_false.mpr fun g hg => by simp [h g hg]⟩
  simp only [Sys.levelOf, Bool.and_assoc, hh]
  rfl

theorem Sys.levelOf_other (h : ∀ g ∈ y.grants, g.ses = ses → g.lv = .d1 ∧ g.ctx ≠ c) (he : ∃ g ∈ y.grants, g.ses = ses) :
    y.levelOf ses c = .d0 ∧ y.holdsOther ses = true := by
  refine ⟨?_, by simpa [Sys.holdsOther] using he⟩
  rw [Sys.levelOf, if_neg, if_neg]
  · rw [List.any_eq_true]
    rintro ⟨g, hg, hq⟩
    simp only [Bool.and_eq_true, beq_iff_eq] at hq
    exact (h g hg hq.1.1).2 hq.2
  · rw [List.any_eq_true]
    rintro ⟨g, hg, hq⟩
    simp only [Bool.and_eq_true, beq_iff_eq] at hq
    have := (h g hg hq.1).1.symm.trans hq.2
    cases this

theorem Sys.levelOf_d1 (he : ∃ g ∈ y.grants, g.ses = ses ∧ g.lv = .d1 ∧ g.ctx = c) (h : ∀ g ∈ y.grants, g.ses = ses → g.lv ≠ .d2) :
    y.levelOf ses c = .d1 := by
  rw [Sys.levelOf, if_neg, if_pos]
  · obtain ⟨g, hg, h1, h2, h3⟩ := he
    exact List.any_eq_true.mpr ⟨g, hg, by simp [h1, h2, h3]⟩
  · rw [List.any_eq_true]
    rintro ⟨g, hg, hq⟩
    simp only [Bool.and_eq_true, beq_iff_eq] at hq
    exact h g hg hq.1 hq.2

theorem Sys.levelOf_d2 (he : ∃ g ∈ y.grants, g.ses = ses ∧ g.lv = .d2) : y.levelOf ses c = .d2 := by
  obtain ⟨g, hg, h1, h2⟩ := he
  exact if_pos (List.any_eq_true.mpr ⟨g, hg, by simp [h1, h2]⟩)

end

section
variable {s : State} {ses c : Nat} {b : Block}

theorem State.debugRequest_d0 (op : DbgOp) (h : s.sys.levelOf ses c = .d0) :
    s.debugRequest ses c op b = if s.sys.holdsOther ses then s.refuseDebug .d1 c else s := by
  unfold State.debugRequest
  dsimp only
  rw [h]

theorem State.debugRequest_d1_reset (h : s.sys.levelOf ses c = .d1) : s.debugRequest ses c .reset b = s.refuseDebug .d2 c := by
  rw [State.debugRequest, h]
  rfl

theorem State.debugRequest_d2_reset (h : s.sys.levelOf ses c = .d2) : s.debugRequest ses c .reset b = s.resetWith 6 := by
  rw [State.debugRequest, h]
  rfl

/-- A request other than a reset, at the level D1 or D2: refused where the context is sealed. -/
theorem State.debugRequest_acts {lv : DbgLevel} (h : s.sys.levelOf ses c = lv) (hlv : lv ≠ .d0) {op : DbgOp} (hop : op ≠ .reset) :
    s.debugRequest ses c op b = if (s.m.ctx c).isSealed then s.refuseDebug lv c else s.debugActs c op b := by
  unfold State.debugRequest
  dsimp only
  rw [h]
  cases lv with
  | d0 => exact absurd rfl hlv
  | d1 | d2 =>
    cases op with
    | reset => exact absurd rfl hop
    | _ => rfl

/-- A block that is OFF holds nothing of the context. -/
theorem State.debugActs_off (op : DbgOp) (h : s.sys.pstate b = .off) : s.debugActs c op b = s := by
  rw [State.debugActs, h]

/-- A request wakes its block and acts. -/
theorem State.debugActs_on (op : DbgOp) (h : s.sys.pstate b ≠ .off) :
    s.debugActs c op b = { s.wake b with m := s.m.debugOp c op } := by
  unfold State.debugActs
  split
  · next ho => exact absurd ho h
  · rfl

end

/-! ### What a request does to a context (22 R387, 24 R411, R412) -/

section
variable {m : Mach} {c : Nat} (hv : (m.ctx c).valid = true)
include hv

theorem Mach.debugOp_halt : m.debugOp c .halt = m.raiseLine c true none := by simp [Mach.debugOp, hv]

/-- Before the halt is complete nothing but halting acts. -/
theorem Mach.debugOp_waits (hc : (m.ctx c).halt.complete = false) {op : DbgOp} (hop : op ≠ .halt) : m.debugOp c op = m := by
  unfold Mach.debugOp
  dsimp only
  rw [if_neg (by simp [hv])]
  cases op with
  | halt => exact absurd rfl hop
  | _ => exact if_pos (by simp [hc])

section
variable (hc : (m.ctx c).halt.complete = true)
include hc

theorem Mach.debugOp_setBreak (i a k : Nat) (en : Bool) : m.debugOp c (.setBreak i a k en) = m.setBreak c i a k en := by
  simp [Mach.debugOp, hv, hc]

theorem Mach.debugOp_setStep {g : Gid} (hg : ctxOf g = c) (v : Nat) : m.debugOp c (.setStep g v) = m.setStep g v := by
  simp [Mach.debugOp, hv, hc, hg]

theorem Mach.debugOp_setWatch {g : Gid} (hg : ctxOf g = c) (a k v : Nat) : m.debugOp c (.setWatch g a k v) = m.setWatch g a k v := by
  simp [Mach.debugOp, hv, hc, hg]

theorem Mach.debugOp_reads (g : Gid) : m.debugOp c (.readTask g) = m ∧ m.debugOp c (.counters g) = m := by
  simp [Mach.debugOp, hv, hc]

theorem Mach.debugOp_editReg {g : Gid} (hg : ctxOf g = c) (ho : (m.ctx c).silt.stepsOpen = false) (k : Nat) (p : ImgPart) :
    m.debugOp c (.editReg g k p) = m.editReg g k p := by
  simp [Mach.debugOp, hv, hc, hg, ho]

theorem Mach.debugOp_editMem (ho : (m.ctx c).silt.stepsOpen = false) (pa : Nat) (b : Byte) :
    m.debugOp c (.editMem pa b) = m.editByte c pa b := by
  simp [Mach.debugOp, hv, hc, ho]

theorem Mach.debugOp_siltLevel (full : Bool) : m.debugOp c (.siltLevel full) = m.setSilt c fun s => { s with full := full } := by
  simp [Mach.debugOp, hv, hc]

theorem Mach.debugOp_resume : m.debugOp c .resume = m.resume c {} := by
  simp [Mach.debugOp, hv, hc]

end

end

/-- A breakpoint set, and no other. -/
theorem Mach.look_setBreak (m : Mach) (c : Nat) {i : Nat} (hi : i < 16) (a k : Nat) (en : Bool) (j : Nat) :
    Tab.look {} ((m.setBreak c i a k en).ctx c).breaks j =
      if j = i then ⟨a % 2 ^ 52 / 2 * 2, k % 2 ^ 48, en⟩ else Tab.look {} (m.ctx c).breaks j := by
  rw [Mach.setBreak, Mach.ctx_setCtx, if_pos rfl, Tab.look_put, Nat.mod_eq_of_lt hi]

/-- A byte of memory edited. -/
theorem Mach.byte_editByte (m : Mach) (c pa : Nat) (b : Byte) (j : Nat) :
    (m.editByte c pa b).byte j = if j = pa then b else m.byte j := by
  refine (look_pokeMem [b] m.mem pa j).trans ?_
  by_cases hj : j = pa
  · subst hj
    simp
  · rw [if_neg hj, if_neg (by simp only [List.length_singleton]; omega)]
    rfl

/-- The task in focus, while it lives, changes with its identifier. -/
theorem Mach.mapTask_focus {m : Mach} (h : m.t.phase ≠ .ended) (f : Task → Task) : (m.mapTask m.t.gid f).t = f m.t :=
  if_pos ⟨rfl, h⟩

theorem Mach.setWatch_focus {m : Mach} (h : m.t.phase ≠ .ended) (a k v : Nat) : ∃ phys, m.setWatch m.t.gid a k v =
    m.mapTask m.t.gid fun t => { t with
      ctl := { t.ctl with wpAddr := BitVec.ofNat 52 (a % 2 ^ 52 / 64 * 64), wpMask := BitVec.ofNat 64 k
                          wpCtl := BitVec.ofNat 6 (v % 64 / 4 * 4 + v % 2) }
      wpPhys := phys } := by
  refine ⟨m.watchBlock (ctxOf m.t.gid) m.t.cluster (a % 2 ^ 52 / 64 * 64) (v % 64 / 4 * 4 + v % 2), ?_⟩
  rw [Mach.setWatch, Mach.find_live h]

/-- A register of the task edited, and no other. -/
theorem Task.cell_edit (t : Task) (j : Nat) (v : Word) (k : Tag) (i : Nat) :
    (t.edit 0 (.reg j v k)).cell i = if i = j then ⟨v, k, none⟩ else t.cell i := Tab.look_put ..

section
variable {s : State} {ses c : Nat} {b : Block}

/-- What a request that acts leaves: the block awake, the ring as it was, the context as the operation left it. -/
theorem exec_debugRequest_acts {lv : DbgLevel} (hlevel : s.sys.levelOf ses c = lv) (hlv : lv ≠ .d0)
    (hseal : (s.m.ctx c).isSealed = false) (hon : s.sys.pstate b ≠ .off) {op : DbgOp} (hop : op ≠ .reset) {m1 : Mach}
    (hm : s.m.debugOp c op = m1) (he : m1.errs = []) {f : State → Prop} (hf : f { s.wake b with m := m1 }) :
    ∃ s1, exec (.debugRequest ses c op b) s = .next s1 ∧ s1.sys.pstate b = .run ∧ s1.sys.ring = s.sys.ring ∧ f s1 := by
  have hreq : s.debugRequest ses c op b = { s.wake b with m := m1 } := by
    rw [State.debugRequest_acts hlevel hlv hop, if_neg (by simp [hseal]), State.debugActs_on op hon, hm]
  refine ⟨{ s.wake b with m := m1 }, (eventS_quiet (f := (·.debugRequest ses c op b)) ?_).trans (congrArg _ hreq), ?_, rfl, hf⟩
  · show (s.debugRequest ses c op b).m.errs = []
    rw [hreq]
    exact he
  · exact s.sys.pstate_setPower b .run

end

/-- Settles O53: a transition, a grant and a request take the row that the lifecycle, the signature and the level name; a request that
acts does its operation on the context (`exec_debugRequest_acts`). -/
theorem securityEvents : Obligations.SecurityEvents := by
  unfold Obligations.SecurityEvents
  intro s ses c token release nonce b herr hl y x owned vendor owner stays becomes erased refused granted req acts d1 d2 still
  have refuses : ∀ {op : DbgOp} {lv : DbgLevel}, s.debugRequest ses c op b = s.refuseDebug lv c → refused (req op) := fun {op} {lv} h =>
    exec_refused (m := s.m) (f := (·.debugRequest ses c op b)) rfl herr hl h rfl rfl rfl
  have quiet : ∀ {op : DbgOp}, s.debugRequest ses c op b = s → stays (req op) := fun {op} h =>
    eventS_stays (f := (·.debugRequest ses c op b)) herr h
  have level1 : d1 → s.sys.levelOf ses c = .d1 := fun h => Sys.levelOf_d1 h.1 h.2
  have level2 : d2 → s.sys.levelOf ses c = .d2 := fun h => Sys.levelOf_d2 h
  have level : d1 ∨ d2 → ∃ lv, s.sys.levelOf ses c = lv ∧ lv ≠ .d0 := fun h => by
    rcases h with h | h
    · exact ⟨_, level1 h, by decide⟩
    · exact ⟨_, level2 h, by decide⟩
  refine ⟨fun h => ⟨exec_lifecycleTransition_next herr (.inl ⟨h, rfl⟩),
      fun d hd => exec_lifecycleTransition_stays herr (State.lifecycle_blank h hd)⟩,
    fun h => ⟨exec_lifecycleTransition_next herr (.inr ⟨h, rfl⟩),
      fun hv => exec_lifecycleTransition_rma ((State.lifecycle_provisioned_rma h).trans (if_pos hv)),
      fun hv => exec_lifecycleTransition_stays herr ((State.lifecycle_provisioned_rma h).trans (if_neg hv)),
      exec_lifecycleTransition_stays herr (State.lifecycle_provisioned_blank h)⟩,
    fun h => ⟨fun hv ho => exec_lifecycleTransition_rma
        ((State.lifecycle_locked_rma h).trans (if_pos (Bool.and_eq_true_iff.mpr ⟨hv, ho⟩))),
      fun hv => exec_lifecycleTransition_stays herr
        ((State.lifecycle_locked_rma h).trans (if_neg fun hc => hv (Bool.and_eq_true_iff.mp hc))),
      fun d hd => exec_lifecycleTransition_stays herr (State.lifecycle_locked h hd)⟩,
    fun h d => exec_lifecycleTransition_stays herr (State.lifecycle_rma h), fun hk => ?attest,
    fun hk => eventS_stays (f := (·.attest c nonce)) herr (if_pos (by rw [show s.sys.kernel = false from hk]; rfl)),
    eventS_stays (f := (·.debugGrant ses .d0 c token)) herr rfl, ⟨fun ho hv hk => ?grant1, fun h => ?refuse1⟩, fun h => ?grant2,
    fun ho hv => ?refuse2, fun h op => ?_, fun h he op => ?_, fun h => ⟨?_, fun hs op => ?_⟩, fun h hs op hop => ?_, fun h => ?reset,
    fun h hs ho op hop => ?off, fun h hs ho hv => ⟨fun hline => ?halt, fun hc => ?complete, fun hc op hr hh => ?waits⟩⟩
  case attest =>
    have hat : s.attest c nonce = _ := if_neg (by rw [show s.sys.kernel = true from hk]; decide)
    exact ⟨_, (eventS_quiet (f := (·.attest c nonce)) (by rw [hat]; exact herr)).trans (congrArg _ hat)⟩
  case grant1 =>
    refine exec_granted (f := (·.debugGrant ses .d1 c token)) rfl (m := s.nonceDrawn.m) herr ?_ rfl
    refine (s.debugGrant_d1 ses c token).trans (if_pos ?_)
    rw [(ownedState_iff _).mpr ho, hv]
    exact hk
  case refuse1 =>
    refine exec_refused (f := (·.debugGrant ses .d1 c token)) rfl (m := s.nonceDrawn.m) herr hl (lv := .d1) (c := c) ?_ rfl rfl rfl
    refine (s.debugGrant_d1 ses c token).trans (if_neg ?_)
    rw [Bool.and_eq_true, Bool.and_eq_true, ownedState_iff]
    rintro ⟨⟨ho, hv⟩, hk⟩
    rcases h with h | h | h
    · exact h ho
    · exact Bool.false_ne_true (h.symm.trans hv)
    · exact h hk
  case grant2 =>
    refine exec_granted (f := (·.debugGrant ses .d2 c token)) rfl (m := s.m) herr ?_ rfl
    refine (s.debugGrant_d2 ses c token).trans (if_pos ?_)
    rw [Bool.or_eq_true, Bool.not_eq_true', ← Bool.not_eq_true, ownedState_iff]
    exact h
  case refuse2 =>
    refine exec_refused (f := (·.debugGrant ses .d2 c token)) rfl (m := s.m) herr hl (lv := .d2) (c := c) ?_ rfl rfl rfl
    refine (s.debugGrant_d2 ses c token).trans (if_neg ?_)
    rw [Bool.or_eq_true, Bool.not_eq_true', ← Bool.not_eq_true, ownedState_iff]
    exact fun hc => hc.elim (fun h => h ho) hv
  · obtain ⟨h0, hn⟩ := Sys.levelOf_none (y := s.sys) (c := c) h
    exact quiet ((State.debugRequest_d0 op h0).trans (if_neg (by rw [hn]; decide)))
  · obtain ⟨h0, hn⟩ := Sys.levelOf_other (y := s.sys) h he
    exact refuses ((State.debugRequest_d0 op h0).trans (if_pos hn))
  · exact refuses (State.debugRequest_d1_reset (level1 h))
  · by_cases hop : op = .reset
    · subst hop
      exact refuses (State.debugRequest_d1_reset (level1 h))
    · exact refuses ((State.debugRequest_acts (level1 h) (by decide) hop).trans (if_pos hs))
  · exact refuses ((State.debugRequest_acts (level2 h) (by decide) hop).trans (if_pos hs))
  case reset =>
    have hreq := State.debugRequest_d2_reset (b := b) (level2 h)
    refine ⟨_, (eventS_quiet (f := (·.debugRequest ses c .reset b)) (by rw [hreq]; rfl)).trans (congrArg _ hreq), rfl, ?_, rfl⟩
    obtain ⟨_, _, _, _, hsys⟩ := s.flushErrs_sys
    show s.flushErrs.sys.boots + 1 = _
    rw [hsys]
  case off =>
    obtain ⟨lv, hlevel, hlv⟩ := level h
    exact quiet ((State.debugRequest_acts hlevel hlv hop).trans (
      (if_neg (by rw [show (s.m.ctx c).isSealed = false from hs]; decide)).trans (State.debugActs_off op ho)))
  case halt =>
    obtain ⟨lv, hlevel, hlv⟩ := level h
    refine exec_debugRequest_acts hlevel hlv hs ho (by simp) (Mach.debugOp_halt hv) herr ⟨⟨rfl, fun k hk => ?_⟩, ?_, ?_⟩
    · exact (Mach.ctx_raiseLine hline true none k).trans (if_neg hk)
    · exact congrArg (·.halt.line) ((Mach.ctx_raiseLine hline true none c).trans (if_pos rfl))
    · exact congrArg (·.halt.dbg) ((Mach.ctx_raiseLine hline true none c).trans (if_pos rfl))
  case waits =>
    obtain ⟨lv, hlevel, hlv⟩ := level h
    exact exec_debugRequest_acts hlevel hlv hs ho hr (Mach.debugOp_waits hv hc hh) herr rfl
  case complete =>
    obtain ⟨lv, hlevel, hlv⟩ := level h
    have does : ∀ {op : DbgOp} {m1 : Mach} {f : State → Prop}, op ≠ .reset → s.m.debugOp c op = m1 → m1.errs = [] →
        f { s.wake b with m := m1 } → acts op f := fun {op m1 f} hop hm he hf =>
      exec_debugRequest_acts hlevel hlv hs ho hop hm he hf
    have others : ∀ (g : Ctx → Ctx) k, k ≠ c → (s.m.setCtx c g).ctx k = s.m.ctx k := fun g k hk =>
      (s.m.ctx_setCtx c k g).trans (if_neg hk)
    refine ⟨fun i a k en hi => does (by simp) (Mach.debugOp_setBreak hv hc i a k en) herr ⟨⟨rfl, others _⟩, ?_⟩,
      fun hg hp => ⟨fun v => ?_, fun a k v => ?_, ?_, ?_, fun j v k hopen => ?_⟩,
      fun pa v hopen => does (by simp) (Mach.debugOp_editMem hv hc hopen pa v) herr fun j => s.m.byte_editByte c pa v j,
      fun full => does (by simp) (Mach.debugOp_siltLevel hv hc full) herr ⟨⟨rfl, others _⟩, ?_⟩, fun hk hu hr he hl => ?_⟩
    · exact ⟨(s.m.look_setBreak c hi a k en i).trans (if_pos rfl), fun j hj => (s.m.look_setBreak c hi a k en j).trans (if_neg hj)⟩
    · exact does (by simp) (Mach.debugOp_setStep hv hc hg v) herr ⟨⟨rfl, fun _ _ => rfl⟩, Mach.mapTask_focus hp _⟩
    · obtain ⟨phys, hw⟩ := Mach.setWatch_focus hp a k v
      exact does (by simp) ((Mach.debugOp_setWatch hv hc hg a k v).trans hw) herr
        ⟨⟨rfl, fun _ _ => rfl⟩, congrArg Task.ctl (Mach.mapTask_focus hp _)⟩
    · exact does (by simp) (Mach.debugOp_reads hv hc _).1 herr rfl
    · exact does (by simp) (Mach.debugOp_reads hv hc _).2 herr rfl
    · refine does (by simp) (Mach.debugOp_editReg hv hc hg hopen 0 (.reg j v k)) herr ⟨⟨rfl, fun q hq => ?_⟩, fun i => ?_⟩
      · exact (Mach.ctx_setSilt _ _ q _).trans (if_neg (hg ▸ hq))
      · exact (congrArg (·.cell i) (Mach.mapTask_focus hp (·.edit 0 (.reg j v k)))).trans (s.m.t.cell_edit j v k i)
    · exact congrArg Ctx.silt ((s.m.ctx_setSilt c c _).trans (if_pos rfl))
    · obtain ⟨hmem, herrs, hhalt⟩ := Mach.resume_idle hv hk hc hu hr he hl
      exact does (by simp) (Mach.debugOp_resume hv hc) (herrs.trans herr) ⟨hmem, hhalt⟩

end Sys2Proof.Machine
end

section
/-! PROOFS. O51: resets, the boot, the watchdog and re-adoption. -/

namespace Sys2Proof.Machine

/-- What a rewind of an empty log left (23 R404). -/
def emptySnap : Snap :=
  { window := 0, seq := 0, tasks := [], pool := [], loam := {}, chans := [], matrix := [], engines := [], nodes := [], colls := [] }

/-- Context 0 in re-adoption, its halt complete, its log rewound: one write was undone by the rewind, and none stands undone now. -/
def State.steppedReadopt : State :=
  { m := { ctxs := [(0, { valid := true, halt := { line := true, complete := true }
                          silt := { rewound := some { left := emptySnap, undone := 0, place := 1, since := 0, requests := [] } } })] }
    sys := { readopt := [0] } }

/-- A context whose steps are not all taken back is not resumed (22 R392): its halt stays complete. -/
theorem halt_readopt_stepped :
    (((State.steppedReadopt.registryReadopt 0 0).flushErrs.m).ctx 0).halt = { line := true, complete := true } := by decide

/-- Refutes O51: REGISTRY_READOPT resumes its context as the kernel would, and no context resumes while its log stands at another
write than the one its rewind left (22 R392, 23 R404). The statement asks that no write stand undone and leaves out that the
log be not rewound: where a rewind undid one write, the halt stays as it was. -/
theorem not_resetEvents : ¬ Obligations.ResetEvents := by
  unfold Obligations.ResetEvents
  intro h
  obtain ⟨-, -, -, -, -, -, -, hreadopt⟩ := h .steppedReadopt rfl (by decide)
  obtain ⟨-, hvalid⟩ := hreadopt 0 0
  obtain ⟨-, -, hresumes⟩ := hvalid (List.mem_singleton.mpr rfl) rfl
  obtain ⟨s1, hx, hhalt, -⟩ := hresumes rfl rfl rfl rfl rfl rfl
  obtain rfl := Host.Outcome.next.inj hx
  exact absurd (halt_readopt_stepped.symm.trans hhalt) (by decide)

end Sys2Proof.Machine
end

section
/-! PROOFS. O37: reconciling regions. -/

namespace Sys2Proof.Machine

/-- A region whose one store record covers 129 bytes. -/
def wideRegion : Region :=
  { fail := 0, saved := ⟨{}, [], [], {}⟩, stores := [{ at_ := ⟨0, 129⟩, va := 0, val := 0, mark := none, remote := none }] }

/-- A task parked in the commit of that region; its context's log stands at level FULL and has room for two records of 96 bytes. -/
def State.wideCommit : State :=
  { m := { t := { region := some wideRegion, phase := .parked .commit }, ctxs := [(0, { silt := { full := true, size := 192 } })] } }

theorem atRest_wideCommit : State.wideCommit.atRest where
  weak := rfl
  entries := by decide +kernel
  room := by decide +kernel
  watch := rfl
  others := fun _ ht => absurd ht List.not_mem_nil
  struck := by decide +kernel

/-- The group record of the commit, of 200 bytes, finds no room, and the commit waits for it (23 R401). -/
theorem region_wideCommit {s1 : State} (hx : exec (.commitAtHome State.wideCommit.m.t.gid) .wideCommit = .next s1) :
    s1.m.t.region = some wideRegion := by
  obtain rfl := Host.Outcome.next.inj hx
  rw [(State.flushErrs_frame _).1]
  decide +kernel

/-- Refutes O37: at level FULL a record keeps every byte its store replaces (23 R396), so a store of more than 64 bytes takes more than the
96 bytes that the statement asks room for, and the commit waits for room (23 R401) where the statement has it decided. The
statement bounds the sizes of the loads' slots, and of the stores bounds the place alone. -/
theorem not_regions : ¬ Obligations.Regions := by
  unfold Obligations.Regions
  intro h
  obtain ⟨-, -, hcommit⟩ := h .wideCommit (.code 0) 0 0
  have hstores : ∀ w ∈ wideRegion.stores, w.remote = none ∧ w.at_.key < 2 ^ 52 := by decide
  obtain ⟨hagree, -⟩ := hcommit wideRegion rfl rfl atRest_wideCommit hstores (by decide +kernel) nofun
  obtain ⟨s1, hx, hregion, -⟩ := hagree ⟨fun i q hq => absurd hq (by simp [wideRegion]), nofun⟩
  exact absurd ((region_wideCommit hx).symm.trans hregion) (by simp)

end Sys2Proof.Machine
end

section
/-! PROOFS. O41: the engine instructions. -/

namespace Sys2Proof.Machine

theorem State.rawOk.raw {s : State} {m : Option XMod} {os : List Opnd} (h : s.rawOk m os) {o : Opnd} (ho : o ∈ os) :
    s.m.t.raw m o = .ok (s.m.t.val o) := raw_ok (h o ho)

/-! ### The checks of R342 -/

theorem opndAligned_ok {v : Word} {n : Nat} (h : v.toNat % n = 0) : opndAligned v n = .ok () := if_pos h

theorem opndAligned_error {v : Word} {n : Nat} (h : v.toNat % n ≠ 0) : opndAligned v n = .error (.trap 0x05 v 0) := if_neg h

theorem opndProt_ok {b : Bool} (h : b = true) (v : Word) : opndProt b v = .ok () := if_pos h

theorem opndProt_error {b : Bool} (h : b = false) (v : Word) : opndProt b v = .error (.xfault 1 0 v 0) :=
  if_neg (Bool.eq_false_iff.mp h)

theorem barOk_iff (z : Word) : barOk z = true ↔ z.toNat ≤ 0xFFF0 := decide_eq_true_iff

theorem bufferOk_dst {ds : EDst} {x : Word} (h : ds = .a → x.toNat < 65536) : bufferOk (edstCode ds) x = true := by
  cases ds
  · rfl
  · rfl
  · exact decide_eq_true (h rfl)

theorem bufferOk_src {ss : ESrc} {y : Word} (h : ss = .c → y.toNat < 32768) : bufferOk (esrcCode ss) y = true := by
  cases ss
  · rfl
  · rfl
  · exact decide_eq_true (h rfl)

theorem shapeFits_iff (v : Nat) : shapeFits v = true ↔ 8 ≤ v % 65536 ∧ v % 65536 ≤ 4096 ∧ v % 8 = 0 ∧ 1 ≤ v / 2 ^ 32 ∧ v / 2 ^ 48 = 0 ∧
    v / 65536 % 65536 = 0 := by simp only [shapeFits, Bool.and_eq_true, decide_eq_true_eq, and_assoc]

theorem lenFits_iff (v : Nat) : lenFits v = true ↔ 8 ≤ v ∧ v ≤ 2 ^ 32 - 8 ∧ v % 8 = 0 := by
  simp only [lenFits, Bool.and_eq_true, decide_eq_true_eq, and_assoc]

/-- The header of a command whose barrier is in reach (R335). -/
theorem headerOf_eq (op var : Nat) (nb : Bool) {bar : Word} (h : bar.toNat ≤ 0xFFF0) : headerOf op var nb bar =
    BitVec.ofNat 64 (op + var * 2 ^ 8 + (if nb then 2 ^ 12 else 0) + bar.toNat * 2 ^ 16) := by
  rw [headerOf, Nat.mod_eq_of_lt (by omega : bar.toNat < 65536)]

/-! ### The command sent -/

/-- The command that the task in focus sends (R335). -/
def Mach.ownCommand (m : Mach) (hdr dst src len : Word) : ECmd :=
  { hdr := hdr, dst := dst, src := src, len := len, ctx := m.cur, core := m.t.core,
    serial := Tab.look 0 (m.ctx m.cur).serials m.t.core, gid := m.t.gid, rec_ := m.t.rec_, op := m.t.pc.toNat }

/-- What an engine instruction has done (R337, R342): its command is at the combining node, its ticket in lt alone. -/
def Sends (i : Instr) (s : State) (e : EngRef) (hdr dst src len : Word) : Prop :=
  let no := Tab.look 0 (s.m.ctx s.m.cur).serials s.m.t.core
  ∃ s1, exec i s = .next s1 ∧ s1.m.mem = s.m.mem ∧
    s1.m.t = (s.m.t.putCell 0 ⟨BitVec.ofNat 64 (kindCode e.kind * 2 ^ 36 + s.m.t.core % 4096 * 2 ^ 24 + no % 65536), .raw, none⟩).retire ∧
    Tab.look [] s1.m.nodes (clusterOf s.m.t.core) =
      joinNode s.m.cycle e (s.m.ownCommand hdr dst src len) (Tab.look [] s.m.nodes (clusterOf s.m.t.core)) ∧
    Tab.look 0 (s1.m.ctx s.m.cur).serials s.m.t.core = (no + 1) % 65536

/-- A task whose node has room sends its command. -/
theorem Mach.command_spec {m : Mach} (hw : m.weak = []) (hn : m.heldOf m.t.core < 16) (e : EngRef) (hdr dst src len : Word) :
    ∃ m1, m.command e hdr dst src len = .ok m1 ∧ m1.mem = m.mem ∧ m1.ctxs = (m.takeTicket m.cur m.t.core).2.ctxs ∧
      m1.nodes = Tab.upd [] m.nodes (clusterOf m.t.core) (joinNode m.cycle e (m.ownCommand hdr dst src len)) ∧
      m1.t = m.t.putCell 0 ⟨BitVec.ofNat 64 (ticketOf e.kind m.t.core (Tab.look 0 (m.ctx m.cur).serials m.t.core)), .raw, none⟩ := by
  refine ⟨{ (m.takeTicket m.cur m.t.core).2 with
    nodes := Tab.upd [] m.nodes (clusterOf m.t.core) (joinNode m.cycle e (m.ownCommand hdr dst src len))
    t := m.t.putCell 0 ⟨BitVec.ofNat 64 (ticketOf e.kind m.t.core (Tab.look 0 (m.ctx m.cur).serials m.t.core)), .raw, none⟩ },
    ?_, rfl, rfl, rfl, rfl⟩
  rw [Mach.command, releaseAt_none hw]
  simp only [bind, Except.bind, Mach.send, if_neg (Nat.not_le.mpr hn), Mach.takeTicket, Mach.ownCommand, Mach.setCtx]

/-- An instruction that comes down to a command sends it, whatever translations were made on the way. -/
theorem sends_of {i : Instr} {s : State} {rule : RRule} {f : Mach → Except Stop Mach} {e : EngRef} {hdr dst src len : Word} {m0 : Mach}
    (he : exec i s = issue rule f s) (h : s.plain) (hr : s.atRest) (hn : s.m.heldOf s.m.t.core < 16)
    (h0 : m0 = { s.m with tlb := m0.tlb, dtlb := m0.dtlb }) (hf : f s.m = m0.command e hdr dst src len) : Sends i s e hdr dst src len := by
  have ht : m0.t = s.m.t := by rw [h0]
  have hctxs : m0.ctxs = s.m.ctxs := by rw [h0]
  have hnodes : m0.nodes = s.m.nodes := by rw [h0]
  have hcycle : m0.cycle = s.m.cycle := by rw [h0]
  have hcur : m0.cur = s.m.cur := by rw [Mach.cur, ht]; rfl
  have hweak : m0.weak = [] := by rw [h0]; exact hr.weak
  have hheld : m0.heldOf m0.t.core < 16 := by rw [ht, Mach.heldOf, hnodes]; exact hn
  have hcmd : m0.ownCommand hdr dst src len = s.m.ownCommand hdr dst src len := by
    simp only [Mach.ownCommand, ht, hcur, Mach.ctx_of_ctxs hctxs]
  obtain ⟨m1, hm1, hmem1, hctxs1, hnodes1, ht1⟩ := Mach.command_spec hweak hheld e hdr dst src len
  rw [ht, hcur, Mach.ctx_of_ctxs hctxs] at ht1
  have hctx1 : m1.ctx s.m.cur = (s.m.takeTicket s.m.cur s.m.t.core).2.ctx s.m.cur :=
    Mach.ctx_of_ctxs (by rw [hctxs1]; simp [Mach.takeTicket, hcur, ht, hctxs, Mach.ctx_of_ctxs hctxs]) _
  refine ⟨_, he.trans (issue_ok h.1 (hf.trans hm1) ?_ ?_ ?_), ?_, ?_, ?_, ?_⟩
  · rw [ht1, putCell_region h.1]
    exact h.1
  · refine ready_not_held ?_
    rw [ht1, Task.putCell_phase]
    exact h.2
  · refine fits_of_nextSeq ?_
    rw [hctx1]
    simp [Mach.takeTicket]
  · show m1.mem = _
    rw [hmem1, h0]
  · show m1.t.retire = _
    rw [ht1, ticketOf]
  · show Tab.look [] m1.nodes _ = _
    rw [hnodes1, ht, hnodes, hcycle, hcmd, Tab.upd, Tab.look_put, if_pos rfl]
  · show Tab.look 0 (m1.ctx s.m.cur).serials s.m.t.core = _
    rw [hctx1]
    simp [Mach.takeTicket, Tab.look_put]

/-! ### The instructions -/

section
variable {s : State} {m : Option XMod} {ds : EDst} {ss : ESrc} {d a b c : Opnd}

/-- What the transfers between memories check before their length or shape (R342). -/
structure Transfer (s : State) (m : Option XMod) (d a b c : Opnd) : Prop where
  bounds : s.m.t.bounds [d, a, b, c] = .ok ()
  raw : ∀ o ∈ [d, a, b, c], s.m.t.raw m o = .ok (s.m.t.val o)
  dst : (s.m.t.val d).toNat % 8 = 0
  src : (s.m.t.val a).toNat % 8 = 0

section
variable (h : Transfer s m d a b c)
include h

theorem ecpyM_aligned (hz : (s.m.t.val b).toNat % 16 = 0) (hd : ds = .a → (s.m.t.val d).toNat < 65536)
    (hs : ss = .c → (s.m.t.val a).toNat < 32768) : ecpyM m ds ss d a b c s.m =
      opndProt (barOk (s.m.t.val b)) (s.m.t.val b) >>= fun _ =>
        if !lenFits (s.m.t.val c).toNat then .error (illValue s.m.t)
        else s.m.command (copyOf s.m.t.core) (headerOf 1 (edstCode ds + 4 * esrcCode ss) false (s.m.t.val b))
          (s.m.t.val d) (s.m.t.val a) (s.m.t.val c) := by
  simp only [ecpyM, h.bounds, h.raw d (by simp), h.raw a (by simp), h.raw b (by simp), h.raw c (by simp), opndAligned_ok h.dst,
    opndAligned_ok h.src, opndAligned_ok hz, opndProt_ok (bufferOk_dst hd), opndProt_ok (bufferOk_src hs), bind, Except.bind]

theorem ecpyM_misaligned (hz : (s.m.t.val b).toNat % 16 ≠ 0) : ecpyM m ds ss d a b c s.m = .error (.trap 0x05 (s.m.t.val b) 0) := by
  simp only [ecpyM, h.bounds, h.raw d (by simp), h.raw a (by simp), h.raw b (by simp), h.raw c (by simp), opndAligned_ok h.dst,
    opndAligned_ok h.src, opndAligned_error hz, bind, Except.bind]

theorem egathM_ok (hz : (s.m.t.val b).toNat % 16 = 0) (hb : (s.m.t.val b).toNat ≤ 0xFFF0)
    (hd : ds = .a → (s.m.t.val d).toNat < 65536) (hn : shapeFits (s.m.t.val c).toNat = true) : egathM m ds d a b c s.m =
      s.m.command (copyOf s.m.t.core) (headerOf 2 (edstCode ds) false (s.m.t.val b)) (s.m.t.val d) (s.m.t.val a) (s.m.t.val c) := by
  simp only [egathM, h.bounds, h.raw d (by simp), h.raw a (by simp), h.raw b (by simp), h.raw c (by simp), opndAligned_ok h.dst,
    opndAligned_ok h.src, opndAligned_ok hz, opndProt_ok (bufferOk_dst hd), opndProt_ok ((barOk_iff _).mpr hb), hn, Bool.not_true,
    Bool.false_eq_true, if_false, bind, Except.bind]

theorem escatM_ok (hz : (s.m.t.val b).toNat % 16 = 0) (hb : (s.m.t.val b).toNat ≤ 0xFFF0)
    (hs : ss = .c → (s.m.t.val a).toNat < 32768) (hn : shapeFits (s.m.t.val c).toNat = true) : escatM m ss d a b c s.m =
      s.m.command (copyOf s.m.t.core) (headerOf 3 (esrcCode ss) false (s.m.t.val b)) (s.m.t.val d) (s.m.t.val a) (s.m.t.val c) := by
  simp only [escatM, h.bounds, h.raw d (by simp), h.raw a (by simp), h.raw b (by simp), h.raw c (by simp), opndAligned_ok h.dst,
    opndAligned_ok h.src, opndAligned_ok hz, opndProt_ok (bufferOk_src hs), opndProt_ok ((barOk_iff _).mpr hb), hn, Bool.not_true,
    Bool.false_eq_true, if_false, bind, Except.bind]

end

section
variable (hfit : s.m.t.bounds [a, b] = .ok ()) (ha : s.m.t.raw m a = .ok (s.m.t.val a)) (hb : s.m.t.raw m b = .ok (s.m.t.val b))
  (hy : (s.m.t.val a).toNat % 64 = 0)
include hfit ha hb hy

theorem esubM_eq : esubM m a b s.m =
    opndProt (decide ((s.m.t.val b).toNat < 256) && (s.m.partOf s.m.cur).hbmStacks.contains ((s.m.t.val b).toNat / 16)) (s.m.t.val b) >>=
      fun _ => s.m.command (streamUnit (s.m.t.val b).toNat) (headerOf 4 0 true 0) (s.m.t.val b) (s.m.t.val a) 0 := by
  simp only [esubM, hfit, ha, hb, opndAligned_ok hy, bind, Except.bind]

theorem ecollM_ok (hz : (s.m.t.val b).toNat % 16 = 0) (hbar : (s.m.t.val b).toNat ≤ 0xFFF0) : ecollM m a b s.m =
    s.m.command ⟨.collective, dieOf s.m.t.core⟩ (headerOf 5 0 false (s.m.t.val b)) 0 (s.m.t.val a) 0 := by
  simp only [ecollM, hfit, ha, hb, opndAligned_ok hy, opndAligned_ok hz, opndProt_ok ((barOk_iff _).mpr hbar), bind, Except.bind]

end

theorem mloadbM_eq (hfit : s.m.t.bounds [d, a, b] = .ok ()) (hraw : ∀ o ∈ [d, a, b], s.m.t.raw m o = .ok (s.m.t.val o))
    (hy : (s.m.t.val a).toNat % 64 = 0) (hz : (s.m.t.val b).toNat % 16 = 0) (hbar : (s.m.t.val b).toNat ≤ 0xFFF0) : mloadbM m d a b s.m =
      opndProt (decide ((s.m.t.val d).toNat < 64)) (s.m.t.val d) >>= fun _ =>
        s.m.command (copyOf s.m.t.core) (headerOf 6 0 false (s.m.t.val b)) (s.m.t.val d) (s.m.t.val a) 8192 := by
  simp only [mloadbM, hfit, hraw d (by simp), hraw a (by simp), hraw b (by simp), opndAligned_ok hy, opndAligned_ok hz,
    opndProt_ok ((barOk_iff _).mpr hbar), bind, Except.bind]

/-- The page of an engine's commands names it (R341). -/
theorem ecmdM_ok (hfit : s.m.t.bounds [a] = .ok ()) (ha : s.m.t.raw m a = .ok (s.m.t.val a)) {l : Loc} {m1 : Mach} {e : EngRef} {k : Nat}
    (hr : s.m.reach s.m.cur (clusterOf s.m.t.core) (s.m.t.val a) 8 2 = .ok (l, m1)) (hl : l.home = .dev) (he : l.eng = true)
    (hp : devPage l.key = some (e, k, 0)) : ecmdM m a s.m =
      m1.command e (s.m.t.val (.code 1)) (s.m.t.val (.code 2)) (s.m.t.val (.code 3)) (s.m.t.val (.code 4)) := by
  have hpage : s.m.pageEngine (s.m.t.val a) = .ok (e, m1) := by simp only [Mach.pageEngine, accWrite, hr, hl, hp, he, if_true]
  have ht : m1.t = s.m.t := by rw [Mach.reach_frame hr]
  simp only [ecmdM, hfit, ha, hpage, ht, bind, Except.bind]

theorem ebmpM_ok (hfit : s.m.t.bounds [d, a] = .ok ()) (ha : s.m.t.raw m a = .ok (s.m.t.val a)) {v : BitVec 64}
    (hk : (s.m.t.val a).toNat / 2 ^ 16 % 2 ^ 8 = 0) (hv : s.m.bitsOf s.m.cur (s.m.t.val a).toNat = some v) : ebmpM m d a s.m =
      .ok { s.m with t := { s.m.t.wr d v .raw with phase := .parked .mem } } := by
  simp only [ebmpM, hfit, ha, if_pos hk, hv, bind, Except.bind]

theorem ebmpM_stale (hfit : s.m.t.bounds [d, a] = .ok ()) (ha : s.m.t.raw m a = .ok (s.m.t.val a))
    (h : (s.m.t.val a).toNat / 2 ^ 16 % 2 ^ 8 ≠ 0 ∨ s.m.bitsOf s.m.cur (s.m.t.val a).toNat = none) : ebmpM m d a s.m =
      .error (.trap 0x09 (s.m.t.val a) 0) := by
  have hnone : (if (s.m.t.val a).toNat / 2 ^ 16 % 2 ^ 8 = 0 then s.m.bitsOf s.m.cur (s.m.t.val a).toNat else none) = none := by
    rcases h with h | h
    · exact if_neg h
    · rw [h, ite_self]
  simp only [ebmpM, hfit, ha, hnone, bind, Except.bind, staleHandle]

/-- EBMP delivers and parks (R343). -/
theorem exec_ebmp_ok (h : s.plain) (hfit : s.m.t.bounds [d, a] = .ok ()) (ha : s.m.t.raw m a = .ok (s.m.t.val a)) {v : BitVec 64}
    (hk : (s.m.t.val a).toNat / 2 ^ 16 % 2 ^ 8 = 0) (hv : s.m.bitsOf s.m.cur (s.m.t.val a).toNat = some v) :
    exec (.ebmp m d a) s = .next (s.done { s.m.t.wr d v .raw with phase := .parked .mem }) := by
  refine issue_ok h.1 (ebmpM_ok hfit ha hk hv) ?_ rfl (fits_of_ctxs rfl _)
  exact (Task.wr_region h.1 d v .raw).trans h.1

end

theorem ok_bind {α β : Type} (x : α) (f : α → Except Stop β) : ((Except.ok x : Except Stop α) >>= f) = f x := rfl

theorem error_bind {α β : Type} (e : Stop) (f : α → Except Stop β) : ((Except.error e : Except Stop α) >>= f) = .error e := rfl

/-- Settles O41: each instruction comes down to its checks and one command. -/
theorem engineCommands : Obligations.EngineCommands := by
  intro s m ds ss d a b c h hr hn t x y z n home copy sends hdr dc sc dOk sOk bOk shape length
  have h0 : s.m = { s.m with tlb := s.m.tlb, dtlb := s.m.dtlb } := rfl
  have hdc : edstCode ds = dc := by cases ds <;> rfl
  have hsc : esrcCode ss = sc := by cases ss <;> rfl
  have hbar : z.toNat ≤ 0xFFF0 → opndProt (barOk z) z = .ok () := fun hb => opndProt_ok ((barOk_iff z).mpr hb) z
  have hfar : 0xFFF0 < z.toNat → opndProt (barOk z) z = .error (.xfault 1 0 z 0) := fun hb =>
    opndProt_error (decide_eq_false (Nat.not_le.mpr hb)) z
  refine ⟨fun hfit hraw hx hy => ?transfer, fun hfit hraw hy => ⟨fun hz hstack => ?esub, fun hz => ?esubFar, fun hb => ?ecoll⟩,
    fun hfit hraw hy hb => ⟨fun hslot => ?load, fun hslot => ?loadFar⟩, fun hfit hraw l m1 e k hreach hl heng hp => ?ecmd,
    fun hfit hraw => ⟨fun v hk hv => ?ebmp, fun hk => ?stale⟩⟩
  case transfer =>
    have ht : Transfer s m d a b c := ⟨hfit.bounds, fun o ho => hraw.raw ho, hx, hy⟩
    refine ⟨fun hb hd hs hlen => ?_, fun hb hd hn' => ?_, fun hb hs hn' => ?_, fun hb hd hs hlen => ?_, fun hz => ?_, fun hz hb hd hs => ?_⟩
    · refine sends_of rfl h hr hn h0 ((ecpyM_aligned ht hb.1 hd hs).trans ?_)
      rw [hbar hb.2, ok_bind, (lenFits_iff _).mpr hlen, headerOf_eq 1 _ false hb.2, hdc, hsc]
      rfl
    · refine sends_of rfl h hr hn h0 ((egathM_ok ht hb.1 hb.2 hd ((shapeFits_iff _).mpr hn')).trans ?_)
      rw [headerOf_eq 2 _ false hb.2, hdc]
      rfl
    · refine sends_of rfl h hr hn h0 ((escatM_ok ht hb.1 hb.2 hs ((shapeFits_iff _).mpr hn')).trans ?_)
      rw [headerOf_eq 3 _ false hb.2, hsc]
      rfl
    · refine traps_of rfl h ((ecpyM_aligned ht hb.1 hd hs).trans ?_)
      rw [hbar hb.2, ok_bind, Bool.eq_false_iff.mpr fun hl => hlen ((lenFits_iff _).mp hl)]
      rfl
    · exact traps_of rfl h (ecpyM_misaligned ht hz)
    · refine faults_of rfl h ((ecpyM_aligned ht hz hd hs).trans ?_)
      rw [hfar hb, error_bind]
  case esub =>
    refine sends_of rfl h hr hn h0 ((esubM_eq hfit.bounds (hraw.raw (by simp)) (hraw.raw (by simp)) hy).trans ?_)
    rw [opndProt_ok (by rw [decide_eq_true hz]; exact List.contains_iff_mem.mpr hstack), ok_bind]
    rfl
  case esubFar =>
    refine faults_of rfl h ((esubM_eq hfit.bounds (hraw.raw (by simp)) (hraw.raw (by simp)) hy).trans ?_)
    rw [opndProt_error (by rw [decide_eq_false (Nat.not_lt.mpr hz)]; rfl), error_bind]
  case ecoll =>
    refine sends_of rfl h hr hn h0 ((ecollM_ok hfit.bounds (hraw.raw (by simp)) (hraw.raw (by simp)) hy hb.1 hb.2).trans ?_)
    rw [headerOf_eq 5 _ false hb.2]
  case load =>
    refine sends_of rfl h hr hn h0 ((mloadbM_eq hfit.bounds (fun o ho => hraw.raw ho) hy hb.1 hb.2).trans ?_)
    rw [opndProt_ok (decide_eq_true hslot), ok_bind, headerOf_eq 6 _ false hb.2]
    rfl
  case loadFar =>
    refine faults_of rfl h ((mloadbM_eq hfit.bounds (fun o ho => hraw.raw ho) hy hb.1 hb.2).trans ?_)
    rw [opndProt_error (decide_eq_false (Nat.not_lt.mpr hslot)), error_bind]
  case ecmd => exact sends_of rfl h hr hn (Mach.reach_frame hreach) (ecmdM_ok hfit.bounds (hraw.raw (by simp)) hreach hl heng hp)
  case ebmp => exact exec_ebmp_ok h hfit.bounds (hraw.raw (by simp)) hk hv
  case stale => exact traps_of rfl h (ebmpM_stale hfit.bounds (hraw.raw (by simp)) hk)

end Sys2Proof.Machine
end

section
/-! SUPPORT. Engines' writes where no watchpoint is armed (18 R339, 23 R393, R397): the bytes they write, and the room they take in the
logs. -/

namespace Sys2Proof.Machine

/-- y is x but for its log, which holds at most n bytes more, and for the skid its watch records count (22 R391). -/
structure Ctx.Logs (n : Nat) (x y : Ctx) : Prop where
  frame : y = { x with silt := y.silt, stops := y.stops }
  size : y.silt.size = x.silt.size
  used : y.silt.used ≤ x.silt.used + n

theorem Ctx.Logs.refl (x : Ctx) : Ctx.Logs 0 x x := ⟨rfl, rfl, Nat.le_refl _⟩

theorem Ctx.Logs.mono {a b : Nat} {x y : Ctx} (h : Ctx.Logs a x y) (hab : a ≤ b) : Ctx.Logs b x y :=
  ⟨h.frame, h.size, h.used.trans (Nat.add_le_add_left hab _)⟩

theorem Ctx.Logs.trans {a b : Nat} {x y z : Ctx} (h : Ctx.Logs a x y) (h1 : Ctx.Logs b y z) : Ctx.Logs (a + b) x z := by
  refine ⟨?_, h1.size.trans h.size, ?_⟩
  · rw [h1.frame, h.frame]
  · have := h.used
    have := h1.used
    omega

theorem Ctx.Logs.halt {n : Nat} {x y : Ctx} (h : Ctx.Logs n x y) : y.halt = x.halt := by rw [h.frame]

/-- What of a log's room is left. -/
theorem Ctx.Logs.room {a b : Nat} {x y : Ctx} (h : Ctx.Logs a x y) (hr : x.silt.room (a + b) = true) : y.silt.room b = true := by
  have := h.used
  simp only [Silt.room, decide_eq_true_eq, h.size] at hr ⊢
  omega

theorem Silt.used_append (x : Silt) (rs : List SRec) : (x.append rs).used = x.used + (rs.map SRec.bytes).sum := by
  have hb : ∀ (r : SRec) (q w : Nat), SRec.bytes { r with seq := q, window := w } = r.bytes := fun _ _ _ => rfl
  simp only [Silt.append, Silt.used, List.map_append, List.sum_append, List.map_map]
  congr 2

/-- Records appended to a log. -/
theorem Ctx.logs_append {n : Nat} (x : Ctx) (rs : List SRec) (h : (rs.map SRec.bytes).sum ≤ n) :
    Ctx.Logs n x { x with silt := x.silt.append rs } := by
  refine ⟨rfl, rfl, ?_⟩
  rw [Silt.used_append]
  omega

/-- A mark takes a record's header alone (23 R402). -/
theorem Silt.mark_spec (x : Silt) (k : SKind) (key party : Nat) (g : Gid) :
    (x.mark k key party g).size = x.size ∧ (x.mark k key party g).used = x.used + 32 := by
  have h := x.used_append [{ seq := 0, kind := k, key := key, party := party, gid := g }]
  have hb : SRec.bytes { seq := 0, kind := k, key := key, party := party, gid := g } = 32 := by simp [SRec.bytes]
  simp only [List.map_cons, List.map_nil, List.sum_cons, List.sum_nil, hb] at h
  unfold Silt.mark
  split
  · exact ⟨rfl, h⟩
  · exact ⟨rfl, h⟩

/-- The record of a write of at most 64 bytes takes at most 96 (23 R395, R397). -/
theorem Mach.siltRec_bytes_le (m : Mach) (x : Silt) (space k party : Nat) (g : Gid) {n : Nat} (hn : n ≤ 64) :
    ((m.siltRec x space k n party g).map SRec.bytes).sum ≤ 96 := by
  unfold Mach.siltRec
  split
  · simp [SRec.bytes, Mach.peek]; omega
  · split
    · simp
    · simp [SRec.bytes, Mach.peek]

/-- A chip whose logs alone have grown, by at most n bytes each. -/
structure Mach.Logs (n : Nat) (m m1 : Mach) : Prop where
  frame : m1 = { m with ctxs := m1.ctxs }
  ctx : ∀ c, Ctx.Logs n (m.ctx c) (m1.ctx c)

theorem Mach.Logs.refl (m : Mach) : Mach.Logs 0 m m := ⟨rfl, fun _ => .refl _⟩

theorem Mach.Logs.trans {a b : Nat} {m m1 m2 : Mach} (h : Mach.Logs a m m1) (h1 : Mach.Logs b m1 m2) : Mach.Logs (a + b) m m2 :=
  ⟨by rw [h1.frame, h.frame], fun c => (h.ctx c).trans (h1.ctx c)⟩

theorem Mach.logs_setCtx {n : Nat} (m : Mach) (c : Nat) {f : Ctx → Ctx} (h : Ctx.Logs n (m.ctx c) (f (m.ctx c))) :
    Mach.Logs n m (m.setCtx c f) := by
  refine ⟨rfl, fun d => ?_⟩
  rw [Mach.ctx_setCtx]
  split
  · next hd => exact hd ▸ h
  · exact (Ctx.Logs.refl _).mono (Nat.zero_le n)

theorem Mach.logs_mark (m : Mach) (c : Nat) (k : SKind) (key party : Nat) (g : Gid) :
    Mach.Logs 32 m (m.setCtx c fun x => { x with silt := x.silt.mark k key party g }) := by
  obtain ⟨hsize, hused⟩ := (m.ctx c).silt.mark_spec k key party g
  exact m.logs_setCtx c ⟨rfl, hsize, Nat.le_of_eq hused⟩

theorem Mach.logs_siltWrite (m : Mach) (c space k party : Nat) (g : Gid) {n : Nat} (hn : n ≤ 64) :
    Mach.Logs 96 m (m.siltWrite c space k n party g) := by
  unfold Mach.siltWrite
  dsimp only
  split
  · exact ⟨rfl, fun _ => (Ctx.Logs.refl _).mono (Nat.zero_le _)⟩
  · exact m.logs_setCtx c (Ctx.logs_append _ _ (m.siltRec_bytes_le _ space k party g hn))

/-- Where no watchpoint is armed, a write counts at most the skid of the strikes before. -/
theorem Mach.logs_strikes {m : Mach} (h : ∀ t ∈ m.tasks, t.watchEn = false) (c : Nat) (l : Loc) (n : Nat) (offs : List Nat) (g : Gid)
    (party : Nat) (old : Word) (seq : Nat) : Mach.Logs 0 m (m.strikes c l n offs g party old seq) := by
  by_cases hs : m.hasStruck c party g = true
  · rw [Mach.strikes, if_pos hs]
    exact m.logs_setCtx c ⟨rfl, rfl, Nat.le_refl _⟩
  · rw [strikes_none h (hs := Bool.eq_false_iff.mpr hs)]
    exact .refl m

/-- What a write changes where no watchpoint is armed: memory, the logs, and the places in the order. -/
structure Mach.Wrote (n : Nat) (m m1 : Mach) : Prop where
  frame : m1 = { m with order := m1.order, ctxs := m1.ctxs, codeOld := m1.codeOld, mem := m1.mem }
  ctx : ∀ c, Ctx.Logs n (m.ctx c) (m1.ctx c)

section
variable {n : Nat} {m m1 : Mach} (h : Mach.Wrote n m m1)
include h

theorem Mach.Wrote.t : m1.t = m.t := by rw [h.frame]
theorem Mach.Wrote.others : m1.others = m.others := by rw [h.frame]
theorem Mach.Wrote.engines : m1.engines = m.engines := by rw [h.frame]
theorem Mach.Wrote.matrix : m1.matrix = m.matrix := by rw [h.frame]
theorem Mach.Wrote.colls : m1.colls = m.colls := by rw [h.frame]
theorem Mach.Wrote.gbars : m1.gbars = m.gbars := by rw [h.frame]
theorem Mach.Wrote.front : m1.front = m.front := by rw [h.frame]
theorem Mach.Wrote.errs : m1.errs = m.errs := by rw [h.frame]
theorem Mach.Wrote.eng (e : EngRef) : m1.eng e = m.eng e := by rw [Mach.eng, h.engines, ← Mach.eng]

theorem Mach.Wrote.hasStruck (c party : Nat) (g : Gid) : m1.hasStruck c party g = m.hasStruck c party g := by
  rw [Mach.hasStruck, (h.ctx c).halt, ← Mach.hasStruck]

end

theorem Mach.Logs.wrote {n : Nat} {m m1 : Mach} (h : Mach.Logs n m m1) : Mach.Wrote n m m1 :=
  ⟨by rw [h.frame], h.ctx⟩

theorem Mach.Wrote.trans {a b : Nat} {m m1 m2 : Mach} (h : Mach.Wrote a m m1) (h1 : Mach.Wrote b m1 m2) : Mach.Wrote (a + b) m m2 :=
  ⟨by rw [h1.frame, h.frame], fun c => (h.ctx c).trans (h1.ctx c)⟩

/-- The record that a write leaves in its context's log, or its mark (23 R393, R402). -/
def Mach.recorded (m : Mach) (g : Gid) (party : Nat) (l : Loc) (n : Nat) : Mach :=
  if l.irrev then m.setCtx (ctxOf g) fun x => { x with silt := x.silt.mark .external l.key party g }
  else m.siltWrite (ctxOf g) l.space l.key n party g

theorem Mach.logs_recorded (m : Mach) (g : Gid) (party : Nat) (l : Loc) {n : Nat} (hn : n ≤ 64) :
    Mach.Logs 96 m (m.recorded g party l n) := by
  unfold Mach.recorded
  split
  · exact ⟨rfl, fun c => ((m.logs_mark (ctxOf g) .external l.key party g).ctx c).mono (by omega)⟩
  · exact m.logs_siltWrite (ctxOf g) l.space l.key party g hn

/-- A write at its home in the module: its record, its bytes, its strikes (16 R299). -/
theorem Mach.writeCells_inside {l : Loc} (hl : l.inside) (hf : l.frontOwner = none) (m : Mach) (g : Gid) (party n : Nat)
    (cells : List (Nat × Byte)) : ∃ old seq offs, m.writeCells g party l n cells =
      ({ (m.tick.recorded g party l n).noteCode (ctxOf g) l cells with
        mem := pokeCells ((m.tick.recorded g party l n).noteCode (ctxOf g) l cells).mem cells } : Mach).strikes
          (ctxOf g) l n offs g party old seq := by
  refine ⟨BitVec.ofNat 64 (m.tick.word l.key), (m.tick.ctx (ctxOf g)).silt.nextSeq, cells.map fun p => p.1 - l.key, ?_⟩
  unfold Mach.writeCells
  rcases hl with hl | ⟨c, hl⟩
  · simp only [hl, hf]
    rfl
  · simp only [hl, hf]
    rfl

/-- A write of at most 64 bytes to a place of the module that no requests wait at (16 R299). -/
theorem Mach.write_wrote {m : Mach} (hw : ∀ t ∈ m.tasks, t.watchEn = false) {l : Loc} (hl : l.inside) (hf : l.frontOwner = none)
    (g : Gid) (party : Nat) {bs : List Byte} (hn : bs.length ≤ 64) :
    Mach.Wrote 96 m (m.write g party l bs) ∧ (m.write g party l bs).mem = pokeMem m.mem l.key bs := by
  obtain ⟨old, seq, offs, he⟩ := Mach.writeCells_inside hl hf m g party bs.length (cellsFrom l.key bs)
  rw [Mach.write, he]
  have hrec := m.tick.logs_recorded g party l hn
  generalize m.tick.recorded g party l bs.length = a at hrec
  rw [noteCode_shape]
  generalize (a.noteCode (ctxOf g) l (cellsFrom l.key bs)).codeOld = code
  have hs := Mach.logs_strikes (m := { a with codeOld := code, mem := pokeCells a.mem (cellsFrom l.key bs) })
    (by rw [hrec.frame]; exact hw) (ctxOf g) l bs.length offs g party old seq
  generalize Mach.strikes _ (ctxOf g) l bs.length offs g party old seq = b at hs
  refine ⟨⟨?_, fun c => ?_⟩, ?_⟩
  · rw [hs.frame, hrec.frame]
    rfl
  · exact (hrec.ctx c).trans (hs.ctx c)
  · rw [hs.frame, hrec.frame, pokeCells_cellsFrom]
    rfl

/-- An engine's write leaves what a write does; a marker request that it makes waits for the end (18 R339, 23 R402). -/
theorem Mach.engWrite_wrote {m : Mach} (hw : ∀ t ∈ m.tasks, t.watchEn = false) {l : Loc} (hl : l.inside) (hf : l.frontOwner = none)
    (e : EngRef) (c : ECmd) {bs : List Byte} (hn : bs.length ≤ 64) :
    Mach.Wrote 96 m (m.engWrite e c l bs).1 ∧ (m.engWrite e c l bs).1.mem = pokeMem m.mem l.key bs := by
  obtain ⟨hwrote, hmem⟩ := Mach.write_wrote hw hl hf c.gid (engParty e) hn
  have hreq := Mach.logs_setCtx (n := 0) (m.write c.gid (engParty e) l bs) c.ctx
    (f := fun x => { x with silt := { x.silt with requests := (m.ctx c.ctx).silt.requests } }) ⟨rfl, rfl, Nat.le_refl _⟩
  exact ⟨hwrote.trans hreq.wrote, hmem⟩

/-- What a write into the module's memory or buffers leaves there. -/
theorem storedAt_of_pokeMem {m m1 : Mach} {k : Nat} {bs : List Byte} (h : m1.mem = pokeMem m.mem k bs) :
    m.storedAt m1 k bs.length (fun i => bs.getD i 0) := by
  refine ⟨fun i hi => ?_, fun j hj => ?_⟩
  · rw [Mach.byte, h, look_pokeMem, if_pos ⟨by omega, by omega⟩, Nat.add_sub_cancel_left]
  · rw [Mach.byte, h, look_pokeMem, if_neg (by omega), ← Mach.byte]

/-- An effect whose records the log has room for is not held back (23 R401). -/
theorem Mach.orHold_of_used {n : Nat} {m m1 : Mach} {c : Nat} (hsize : (m1.ctx c).silt.size = (m.ctx c).silt.size)
    (hused : (m1.ctx c).silt.used ≤ (m.ctx c).silt.used + n) (hr : (m.ctx c).silt.room n = true) : m.orHold c m1 = m1 := by
  have hroom : (m1.ctx c).silt.room 0 = true := by
    simp only [Silt.room, decide_eq_true_eq, hsize] at hr ⊢
    omega
  rw [Mach.orHold, if_pos (by rw [Mach.fits, hroom, Bool.or_true])]

theorem Mach.orHold_eq {n : Nat} {m m1 : Mach} {c : Nat} (h : Ctx.Logs n (m.ctx c) (m1.ctx c)) (hr : (m.ctx c).silt.room n = true) :
    m.orHold c m1 = m1 := Mach.orHold_of_used h.size h.used hr

theorem Mach.storedAt.congr {m m1 : Mach} {k n : Nat} {f f1 : Nat → Byte} (h : m.storedAt m1 k n f) (hf : ∀ i, i < n → f i = f1 i) :
    m.storedAt m1 k n f1 := ⟨fun i hi => (h.1 i hi).trans (hf i hi), h.2⟩

/-! ### The accesses of an engine (18 R340) -/

theorem walkFrom_of_mem {m m1 : Mach} (h : m1.mem = m.mem) (p : Part) (c va : Nat) : ∀ (ls : List Level) (table : Nat),
    walkFrom m1 p c va ls table = walkFrom m p c va ls table
  | [], _ => rfl
  | l :: ls, table => by
    have hword : ∀ k, m1.word k = m.word k := fun k => by simp only [Mach.word, Mach.peek, Mach.byte, h]
    simp only [walkFrom, hword, walkFrom_of_mem h p c va ls]

/-- A chip that another one translates as: the same memory, contexts, partitions and translations held. -/
structure Mach.MapsAs (m m1 : Mach) : Prop where
  mem : m1.mem = m.mem
  ctxs : m1.ctxs = m.ctxs
  parts : m1.parts = m.parts
  tlb : m1.tlb = m.tlb
  dtlb : m1.dtlb = m.dtlb

theorem Mach.mapsAs_free (m : Mach) (f : Nat) : m.MapsAs { m with free := f } := ⟨rfl, rfl, rfl, rfl, rfl⟩

theorem Mach.MapsAs.translate {m m1 m2 : Mach} (h : m.MapsAs m1) {c cl va : Nat} {e : TlbEnt}
    (ht : m.translate c cl va = .ok (e, m2)) :
    m1.translate c cl va = .ok (e, { m1 with tlb := m2.tlb, dtlb := m2.dtlb }) := by
  have hctx : ∀ d, m1.ctx d = m.ctx d := Mach.ctx_of_ctxs h.ctxs
  have hpart : m1.partOf c = m.partOf c := by simp only [Mach.partOf, Mach.part, hctx, h.parts]
  have hself : ({ m1 with tlb := m.tlb, dtlb := m.dtlb } : Mach) = m1 := by rw [← h.tlb, ← h.dtlb]
  unfold Mach.translate at ht ⊢
  simp only [h.tlb, h.dtlb, hctx, hpart, walkFrom_of_mem h.mem] at ht ⊢
  split at ht
  · obtain ⟨rfl, rfl⟩ := Prod.mk.inj (Except.ok.inj ht)
    rw [hself]
  · split at ht
    · obtain ⟨rfl, rfl⟩ := Prod.mk.inj (Except.ok.inj ht)
      rw [← h.dtlb]
    · split at ht
      · exact absurd ht nofun
      · obtain ⟨rfl, rfl⟩ := Prod.mk.inj (Except.ok.inj ht)
        rfl

theorem Mach.MapsAs.reach {m m1 m2 : Mach} (h : m.MapsAs m1) {c cl n acc : Nat} {va : Word} {l : Loc}
    (hr : m.reach c cl va n acc = .ok (l, m2)) :
    m1.reach c cl va n acc = .ok (l, { m1 with tlb := m2.tlb, dtlb := m2.dtlb }) := by
  have hguard : ∀ pa, m1.guarded c pa n = m.guarded c pa n := fun pa => by simp only [Mach.guarded, Mach.ctx_of_ctxs h.ctxs]
  unfold Mach.reach at hr ⊢
  split at hr
  · exact absurd hr nofun
  · next hva =>
    rw [if_neg hva]
    split at hr
    · exact absurd hr nofun
    · next e m3 ht =>
      rw [h.translate ht]
      dsimp only at hr ⊢
      rw [hguard]
      split_ifs at hr ⊢
      obtain ⟨rfl, rfl⟩ := Prod.mk.inj (Except.ok.inj hr)
      rfl

/-- An access that an engine makes in HBM is one that its context may make there. -/
theorem Mach.engReach_hbm {m m1 : Mach} {e : EngRef} {c : ECmd} {va : Word} {n acc : Nat} {l : Loc}
    (h : m.engReach e c va n acc = .ok (l, m1)) (hl : l.home = .hbm) : m.reach c.ctx (engCluster e c) va n acc = .ok (l, m1) := by
  unfold Mach.engReach at h
  split at h
  · split at h <;> exact absurd h nofun
  · next l1 m2 hr =>
    rw [hr]
    split at h
    · exact absurd h nofun
    · next p hp =>
      split at h
      · exact absurd h nofun
      · split at h
        · exact absurd h nofun
        · obtain ⟨rfl, -⟩ := Prod.mk.inj (Except.ok.inj h)
          rw [hl] at hp
          exact absurd hp nofun
    · next p hp =>
      split at h
      · obtain ⟨rfl, -⟩ := Prod.mk.inj (Except.ok.inj h)
        rw [hl] at hp
        exact absurd hp nofun
      · exact absurd h nofun
    · exact congrArg Except.ok (Except.ok.inj h)

theorem Mach.engReach_frame {m m1 : Mach} {e : EngRef} {c : ECmd} {va : Word} {n acc : Nat} {l : Loc}
    (h : m.engReach e c va n acc = .ok (l, m1)) (hl : l.home = .hbm) : m1 = { m with tlb := m1.tlb, dtlb := m1.dtlb } :=
  Mach.reach_frame (Mach.engReach_hbm h hl)

/-- An access in HBM reaches the same place of a chip that translates alike. -/
theorem Mach.MapsAs.engReach {m m1 m2 : Mach} (h : m.MapsAs m1) {e : EngRef} {c : ECmd} {va : Word} {n acc : Nat} {l : Loc}
    (hr : m.engReach e c va n acc = .ok (l, m2)) (hl : l.home = .hbm) :
    m1.engReach e c va n acc = .ok (l, { m1 with tlb := m2.tlb, dtlb := m2.dtlb }) := by
  unfold Mach.engReach
  rw [h.reach (Mach.engReach_hbm hr hl)]
  simp only [hl]

/-- A place in HBM is one of the module's, and no scratchpad's. -/
theorem Mach.engReach_place {m m1 : Mach} {e : EngRef} {c : ECmd} {va : Word} {n acc : Nat} {l : Loc}
    (h : m.engReach e c va n acc = .ok (l, m1)) (hl : l.home = .hbm) : l.space = 0 := by
  have hr := Mach.engReach_hbm h hl
  unfold Mach.reach at hr
  split at hr
  · exact absurd hr nofun
  · split at hr
    · exact absurd hr nofun
    · dsimp only at hr
      split_ifs at hr
      obtain ⟨rfl, -⟩ := Prod.mk.inj (Except.ok.inj hr)
      rfl

theorem frontOwner_of_space {l : Loc} (h : l.space ≠ 1) : l.frontOwner = none := if_neg h

/-- An event that gives a chip with no error left to note. -/
theorem exec_quiet {i : Instr} {s : State} {f : Mach → Mach} {m1 : Mach} (he : exec i s = eventM f s) (hf : f s.m = m1)
    (herr : m1.errs = []) : exec i s = .next { s with m := m1 } := by
  subst hf
  exact he.trans (eventM_quiet herr)

/-- No watchpoint is armed at rest (22 R387). -/
theorem State.atRest.unwatched {s : State} (h : s.atRest) : ∀ t ∈ s.m.tasks, t.watchEn = false := fun t ht => by
  rcases List.mem_cons.mp ht with rfl | ht
  · exact h.watch
  · exact (h.others t ht).1

/-! ### Engines changed, and the end of an operation (18 R338, R339) -/

theorem Mach.eng_setEng (m : Mach) (e d : EngRef) (f : Engine → Engine) :
    (m.setEng e f).eng d = if engKey d = engKey e then f (m.eng e) else m.eng d := by
  simp only [Mach.eng, Mach.setEng_engines, Tab.upd, Tab.look_put]

@[simp] theorem Mach.eng_setEng_same (m : Mach) (e : EngRef) (f : Engine → Engine) : (m.setEng e f).eng e = f (m.eng e) :=
  (m.eng_setEng e e f).trans (if_pos rfl)

@[simp] theorem Mach.eng_setCtx (m : Mach) (c : Nat) (f : Ctx → Ctx) (e : EngRef) : (m.setCtx c f).eng e = m.eng e := rfl

theorem Mach.eng_of_engines {m m1 : Mach} (h : m1.engines = m.engines) (e : EngRef) : m1.eng e = m.eng e := by simp only [Mach.eng, h]

@[simp] theorem Mach.ctx_setEng (m : Mach) (e : EngRef) (f : Engine → Engine) (c : Nat) : (m.setEng e f).ctx c = m.ctx c := rfl

/-- An operation ended with a status: its mailbox and its record in the engine, and a mark in its context's log. -/
structure Mach.EndsOp (e : EngRef) (c : ECmd) (status : Nat) (m m1 : Mach) : Prop where
  frame : m1 = { m with ctxs := m1.ctxs, engines := m1.engines }
  ctx : ∀ d, Ctx.Logs 32 (m.ctx d) (m1.ctx d)
  eng : ∃ l, m1.eng e = { m.eng e with
    finished := l
    mail := Tab.upd {} (m.eng e).mail c.ctx fun b =>
      ⟨(b.count + 1) % 65536, status, if status = 0 then ticketOf e.kind c.core c.serial % 2 ^ 36 else b.ticket⟩ }

theorem Mach.logs_extRequest (m : Mach) (c : Nat) (g : Gid) (ext : Bool) : Mach.Logs 0 m (m.extRequest c g ext) := by
  unfold Mach.extRequest
  split
  · exact m.logs_setCtx c ⟨rfl, rfl, Nat.le_refl _⟩
  · exact .refl m

theorem Mach.endsOp_endOp (m : Mach) (e : EngRef) {c : ECmd} (h : c.bySched = false) (status : Nat) (b : BitVec 64) (ext : Bool) :
    Mach.EndsOp e c status m (m.endOp e c status b ext) := by
  have he : m.endOp e c status b ext = ((m.mailStore e c status).setEng e fun x => x.noteEnd e.kind c b).extRequest c.ctx c.gid ext := by
    rw [Mach.endOp, h]
    rfl
  have hx := ((m.mailStore e c status).setEng e fun x => x.noteEnd e.kind c b).logs_extRequest c.ctx c.gid ext
  have hmark := m.logs_mark c.ctx .module (mailAt e c.ctx) (engParty e) c.gid
  rw [he]
  generalize Mach.extRequest _ c.ctx c.gid ext = m1 at hx
  refine ⟨?_, fun d => ?_, ?_⟩
  · rw [hx.frame]
    rfl
  · exact (hmark.ctx d).trans (hx.ctx d)
  · refine ⟨Tab.upd [] (m.eng e).finished c.ctx fun l => ((cmdTickets e.kind c, b) :: l).take 64, ?_⟩
    rw [Mach.eng_of_engines hx.wrote.engines, Mach.eng_setEng_same, Mach.mailStore,
      Mach.eng_setEng_same]
    rfl

section
variable {e : EngRef} {c : ECmd} {status : Nat} {m m1 : Mach} (h : Mach.EndsOp e c status m m1)
include h

theorem Mach.EndsOp.mail : Tab.look {} (m1.eng e).mail c.ctx = ⟨((Tab.look {} (m.eng e).mail c.ctx).count + 1) % 65536, status,
    if status = 0 then ticketOf e.kind c.core c.serial % 2 ^ 36 else (Tab.look {} (m.eng e).mail c.ctx).ticket⟩ := by
  obtain ⟨l, hl⟩ := h.eng
  rw [hl]
  simp only [Tab.upd, Tab.look_put, if_true]

theorem Mach.EndsOp.active : (m1.eng e).active = (m.eng e).active := by
  obtain ⟨l, hl⟩ := h.eng
  rw [hl]

theorem Mach.EndsOp.streams : (m1.eng e).streams = (m.eng e).streams := by
  obtain ⟨l, hl⟩ := h.eng
  rw [hl]

end

/-- A command that credits no barrier owes none (18 R335). -/
theorem Mach.creditSome_nil (m : Mach) (e : EngRef) (c : ECmd) (n err : Nat) : m.creditSome e c n err [] = (m, 0) := rfl

theorem ECmd.credited_nb {c : ECmd} (h : c.nb = true) : c.credited = [] := if_pos h

/-! ### A unit's fault (26 R449) -/

theorem Mach.silt_setCtx_eq (m : Mach) (c d : Nat) {f : Ctx → Ctx} (hf : ∀ x, (f x).silt = x.silt) :
    ((m.setCtx c f).ctx d).silt = (m.ctx d).silt := by
  rw [Mach.ctx_setCtx]
  split
  · next h => rw [hf, h]
  · rfl

/-- m1 is m but for its contexts, and holds the same logs. -/
structure Mach.SameLogs (m m1 : Mach) : Prop where
  frame : m1 = { m with ctxs := m1.ctxs }
  silt : ∀ d, (m1.ctx d).silt = (m.ctx d).silt

theorem Mach.SameLogs.trans {m m1 m2 : Mach} (h : m.SameLogs m1) (h1 : m1.SameLogs m2) : m.SameLogs m2 :=
  ⟨by rw [h1.frame, h.frame], fun d => (h1.silt d).trans (h.silt d)⟩

theorem Mach.sameLogs_setCtx (m : Mach) (c : Nat) {f : Ctx → Ctx} (hf : ∀ x, (f x).silt = x.silt) : m.SameLogs (m.setCtx c f) :=
  ⟨rfl, fun d => m.silt_setCtx_eq c d hf⟩

theorem Mach.sameLogs_raiseLine (m : Mach) (c : Nat) (dbg : Bool) (o : Option Gid) : m.SameLogs (m.raiseLine c dbg o) :=
  m.sameLogs_setCtx c fun x => by split <;> rfl

theorem Mach.sameLogs_haltError (m : Mach) (c : Nat) (r : ErrRec) : m.SameLogs (m.haltError c r) := m.sameLogs_setCtx c fun _ => rfl

/-- A fault of a unit changes its context alone, and no log (09 R170, R172). -/
theorem Mach.sameLogs_unitFault (m : Mach) (c : Nat) (u : UnitRef) (op addr : Nat) (r : ErrRec) (n : Nat) :
    m.SameLogs (m.unitFault c u op addr r n) :=
  (m.sameLogs_raiseLine c false none).trans ((Mach.sameLogs_haltError _ c _).trans (Mach.sameLogs_setCtx _ c fun _ => rfl))

end Sys2Proof.Machine
end

section
/-! PROOFS. O44: collectives. -/

namespace Sys2Proof.Machine

/-! ### A sum of int32 elements (25 R437) -/

theorem signedOf_emod (v : Nat) : signedOf 32 v % 2 ^ 32 = (v : Int) % 2 ^ 32 := by
  unfold signedOf
  split <;> omega

theorem sum_signedOf_emod : ∀ l : List Nat, (l.map (signedOf 32)).sum % 2 ^ 32 = (l.sum : Int) % 2 ^ 32
  | [] => rfl
  | v :: l => by
    have ih := sum_signedOf_emod l
    have hv := signedOf_emod v
    simp only [List.map_cons, List.sum_cons, Nat.cast_add]
    omega

theorem redElem_sum (l : List Nat) : redElem 1 0 l = (l.sum % 2 ^ 32, {}) := by
  have h := sum_signedOf_emod l
  simp only [redElem, Prod.mk.injEq, and_true]
  omega

theorem peerBytes_all (free : Nat) (bs : List Byte) : peerBytes free bs.length bs = bs := by
  refine List.ext_getElem (by simp [peerBytes]) fun i h1 h2 => ?_
  simp [peerBytes, h2]

theorem Coll.contributions_int32 {k : Coll} (h : k.type = 1) (own : Nat) (bs : List Byte) : k.contributions own bs =
    (List.range k.n).map fun r => if r = k.rank then own
      else leNat ((bs.drop (4 * (if r < k.rank then r else r - 1))).take 4) := by
  simp only [Coll.contributions, collSize, h, Nat.mul_comm 4]
  rfl

/-! ### The n-th collective of a die -/

section
variable {m : Mach} {die : Nat} {k : Coll} (hk : Tab.look [] m.colls die = [k])
include hk

theorem Mach.collsAt_zero : (m.collsAt die)[0]? = some k := by rw [Mach.collsAt, hk]; rfl

theorem Mach.look_setColl (f : Coll → Coll) : Tab.look [] (m.setColl die 0 f).colls die = [f k] := by
  simp [Mach.setColl, Tab.upd, Tab.look_put, hk]

theorem Mach.collHold_eq {c : Nat} {on : Bool} (hc : k.cmd.ctx = c) (h : (m.ctx c).halt.line = on) :
    m.collHold die c on = { m with colls := Tab.put [] m.colls die [{ k with held := on }] } := by
  simp only [Mach.collHold, h, ne_eq, not_true_eq_false, if_false, Tab.upd, hk, List.map_cons, List.map_nil, hc, if_true]

end

theorem Mach.collGoes_iff {m : Mach} {die : Nat} {k : Coll} : m.collGoes die k = true ↔
    (∃ o, (m.eng (collEng die)).active = some o ∧ o.cmd = k.cmd) ∧ k.cmd.ctx ∉ (m.eng (collEng die)).stopped ∧
    (m.ctx k.cmd.ctx).halt.line = false ∧ (m.ctx k.cmd.ctx).killed = false ∧ k.held = false ∧ k.waiting = none ∧ k.failed = none ∧
    k.aborted = false ∧ Tab.look 0 (m.ctx k.cmd.ctx).tags k.group = k.tag := by
  simp only [Mach.collGoes, Mach.engRuns, Option.any_eq_true, Bool.and_eq_true, Bool.not_eq_true', beq_iff_eq, and_assoc,
    Option.isNone_iff_eq_none, List.contains_eq_mem, decide_eq_false_iff_not]

/-! ### The start and the steps of a collective -/

/-- A chip of which the logs have grown and the collectives have changed. -/
structure Mach.LogsColls (n : Nat) (m m1 : Mach) : Prop where
  frame : m1 = { m with ctxs := m1.ctxs, colls := m1.colls }
  ctx : ∀ c, Ctx.Logs n (m.ctx c) (m1.ctx c)

theorem Mach.logs_startColl (m : Mach) (die n : Nat) (k : Coll) : Mach.LogsColls 32 m (m.startColl die n k) := by
  obtain ⟨hsize, hused⟩ := (m.ctx k.cmd.ctx).silt.mark_spec .external k.cmd.src.toNat (engParty (collEng die)) k.cmd.gid
  have hlog := m.logs_setCtx (n := 32) k.cmd.ctx (f := fun x => { x with silt :=
    { x.silt.mark .external k.cmd.src.toNat (engParty (collEng die)) k.cmd.gid with requests := x.silt.requests } })
    ⟨rfl, hsize, Nat.le_of_eq hused⟩
  exact ⟨rfl, hlog.ctx⟩

section
variable {m : Mach} {die : Nat} {k : Coll} (hk : Tab.look [] m.colls die = [k]) (hg : m.collGoes die k = true)
  (hd : k.group ∉ (m.ctx k.cmd.ctx).deadGroups)
include hk hg hd

theorem Mach.collStep_starts (hs : k.started = false) {r : Nat} (hr : (m.ctx k.cmd.ctx).silt.room (32 + r) = true) (bs : List Byte) :
    m.collStep die 0 bs = m.startColl die 0 k := by
  have hlog : Ctx.Logs 32 (m.ctx k.cmd.ctx) ((m.startColl die 0 k).ctx k.cmd.ctx) := (m.logs_startColl die 0 k).ctx _
  have hdead : (m.ctx k.cmd.ctx).deadGroups.contains k.group = false := by simpa using hd
  simp only [Mach.collStep, Mach.collsAt_zero hk, hg, Bool.not_true, Bool.false_eq_true, if_false, hdead, hs, Bool.not_false, if_true]
  exact Mach.orHold_eq hlog (Silt.room_mono hr (Nat.le_add_right _ _))

/-- The step of a sum (25 R437): the members' elements read, and their sum written. -/
theorem Mach.collStep_sum (hs : k.started = true) (hop : k.op = 1) (htype : k.type = 1) (hred : k.red = 0) (hstep : k.step < k.count)
    (hw : ∀ t ∈ m.tasks, t.watchEn = false) {r : Nat} (hr : (m.ctx k.cmd.ctx).silt.room (96 + r) = true)
    {bs : List Byte} (hbs : bs.length = 4 * (k.n - 1)) {l l2 : Loc} {m1 m2 : Mach}
    (h1 : m.engReach (collEng die) k.cmd (BitVec.ofNat 64 (k.src + 4 * k.step)) 4 1 = .ok (l, m1)) (hl : l.home = .hbm)
    (h2 : { m1 with free := m1.free + 4 * (k.n - 1) }.engReach (collEng die) k.cmd (BitVec.ofNat 64 (k.dst + 4 * k.step)) 4 2 = .ok (l2, m2))
    (hl2 : l2.home = .hbm) : ∃ a, Mach.Wrote 96 m2 a ∧
      a.mem = pokeMem m2.mem l2.key (leBytes ((k.contributions (m.number l.key 4) bs).sum % 2 ^ 32) 4) ∧
      m.collStep die 0 bs = a.setColl die 0 fun t => { t with step := t.step + 1, flags := t.flags ||| flagWord {} } := by
  have hf1 := Mach.engReach_frame h1 hl
  have hf2 := Mach.engReach_frame h2 hl2
  have hread : m1.read l 4 = (m.peek l.key 4, m1) := by
    rw [Mach.read, hl, hf1]
    rfl
  have hz : collSize k.type = 4 := by rw [htype]; rfl
  have hneed : (k.n - 1) * 4 = 4 * (k.n - 1) := Nat.mul_comm _ _
  have hindex : k.srcIndex k.step = k.step := by simp [Coll.srcIndex, hop]
  have hres : k.results k.step (k.contributions (m.number l.key 4) bs) =
      ([(k.dst + 4 * k.step, (k.contributions (m.number l.key 4) bs).sum % 2 ^ 32)], {}) := by
    simp [Coll.results, hop, htype, hred, redElem_sum, collSize]
  have htasks : ∀ t ∈ m2.tasks, t.watchEn = false := by rw [hf2, hf1]; exact hw
  obtain ⟨hwrote, hmem⟩ := Mach.engWrite_wrote htasks (.inl hl2) (frontOwner_of_space (by rw [Mach.engReach_place h2 hl2]; decide))
    (collEng die) k.cmd (bs := leBytes ((k.contributions (m.number l.key 4) bs).sum % 2 ^ 32) 4) (by simp)
  refine ⟨_, hwrote, hmem, ?_⟩
  have helem : m.collElem die k bs = .ok
      ((m2.engWrite (collEng die) k.cmd l2 (leBytes ((k.contributions (m.number l.key 4) bs).sum % 2 ^ 32) 4)).1, {}) := by
    simp only [Mach.collElem, hz, hindex, accRead, h1, bind, Except.bind, hread, leNat_peek, hneed, ← hbs, peerBytes_all, hres]
    rw [hbs]
    simp only [Mach.writeElems, bind, Except.bind, accWrite, h2]
  have hsteps : ¬ k.steps ≤ k.step := by simp [Coll.steps, hop, hstep]
  have hdead : (m.ctx k.cmd.ctx).deadGroups.contains k.group = false := by simpa using hd
  have hctx : ∀ c, m2.ctx c = m.ctx c := fun c => by rw [hf2, hf1]; rfl
  simp only [Mach.collStep, Mach.collsAt_zero hk, hg, Bool.not_true, Bool.false_eq_true, if_false, hdead, hs, hsteps, helem]
  refine Mach.orHold_eq (n := 96) ?_ (Silt.room_mono hr (Nat.le_add_right _ _))
  have := hwrote.ctx k.cmd.ctx
  rw [hctx] at this
  exact this

end

/-! ### The abort of a group's collectives (25 R439) -/

/-- The error record of an abort. -/
def Coll.abortRec (k : Coll) (die : Nat) : ErrRec :=
  { code := 0x4004, severity := 1, action := 1, unit := engParty (collEng die), valid := 3, task := k.cmd.gid,
    detail := k.group % 256 + k.tag % 2 ^ 32 * 2 ^ 32 }

/-- A collective that credits no barrier leaves its engine, with its record and its mailbox. -/
structure Mach.Aborted (die : Nat) (k : Coll) (m m1 : Mach) : Prop where
  frame : m1 = { m with ctxs := m1.ctxs, engines := m1.engines, colls := m1.colls, errs := m1.errs }
  errs : m1.errs = m.errs ++ [{ k.abortRec die with ctx := k.cmd.ctx, time := m.cycle, window := (m.ctx k.cmd.ctx).silt.current }]
  colls : Tab.look [] m1.colls die = []
  dead : (m1.ctx k.cmd.ctx).deadGroups = (m.ctx k.cmd.ctx).deadGroups
  size : (m1.ctx k.cmd.ctx).silt.size = (m.ctx k.cmd.ctx).silt.size
  used : (m1.ctx k.cmd.ctx).silt.used ≤ (m.ctx k.cmd.ctx).silt.used + 32
  mail : (Tab.look {} (m1.eng (collEng die)).mail k.cmd.ctx).status = 0

theorem Mach.ctx_dropColl (m : Mach) (die n : Nat) (k : Coll) : (m.dropColl die n k).ctx k.cmd.ctx =
    { m.ctx k.cmd.ctx with tags := Tab.put 0 (m.ctx k.cmd.ctx).tags k.group (k.tag + 1) } := by
  rw [Mach.dropColl, Mach.ctx_setCtx, if_pos rfl]
  rfl

theorem Mach.ctx_setCollOp (m : Mach) (die : Nat) (k : Coll) (f : EOp → EOp) (c : Nat) : (m.setCollOp die k f).ctx c = m.ctx c := rfl

theorem Mach.ctx_note (m : Mach) (c d : Nat) (r : ErrRec) : (m.note c r).ctx d = m.ctx d := rfl

/-- A collective that leaves its engine with nothing to credit. -/
def Mach.collGone (m : Mach) (die : Nat) (k : Coll) : Mach :=
  ((m.note k.cmd.ctx (k.abortRec die)).setCollOp die k fun o => { o with credits := o.credits + 0 }).dropColl die 0 k

theorem Mach.collGone_frame (m : Mach) (die : Nat) (k : Coll) : m.collGone die k = { m with
    ctxs := (m.collGone die k).ctxs
    engines := (m.collGone die k).engines
    colls := (m.collGone die k).colls
    errs := m.errs ++ [{ k.abortRec die with ctx := k.cmd.ctx, time := m.cycle, window := (m.ctx k.cmd.ctx).silt.current }] } := rfl

theorem Mach.colls_collGone {m : Mach} {die : Nat} {k : Coll} (hk : Tab.look [] m.colls die = [k]) :
    Tab.look [] (m.collGone die k).colls die = [] := by
  simp [Mach.collGone, Mach.dropColl, Mach.setCollOp, Mach.note, Tab.upd, Tab.look_put, hk]

theorem Mach.ctx_collGone (m : Mach) (die : Nat) (k : Coll) : (m.collGone die k).ctx k.cmd.ctx =
    { m.ctx k.cmd.ctx with tags := Tab.put 0 (m.ctx k.cmd.ctx).tags k.group (k.tag + 1) } := by
  rw [Mach.collGone, Mach.ctx_dropColl, Mach.ctx_setCollOp, Mach.ctx_note]

theorem Mach.aborted_abortColl {m : Mach} {die : Nat} {k : Coll} (hk : Tab.look [] m.colls die = [k]) (hnb : k.cmd.nb = true)
    (hs : k.cmd.bySched = false) : Mach.Aborted die k m (m.abortColl die 0 k) := by
  have he : m.abortColl die 0 k = (m.collGone die k).endOp (collEng die) k.cmd 0 0 k.started := by
    simp only [Mach.abortColl, Mach.payColl, ECmd.credited_nb hnb, List.drop_nil, Mach.creditSome_nil, Coll.abortRec, Mach.collGone]
  have hend := Mach.endsOp_endOp (m.collGone die k) (collEng die) hs 0 0 k.started
  rw [he]
  generalize Mach.endOp _ (collEng die) k.cmd 0 0 k.started = m1 at hend
  have hlog := hend.ctx k.cmd.ctx
  have hcolls := Mach.colls_collGone hk
  have hframe := m.collGone_frame die k
  rw [Mach.ctx_collGone] at hlog
  generalize m.collGone die k = a at hend hcolls hframe
  have herrs : m1.errs = a.errs := by rw [hend.frame]
  have hcolls1 : m1.colls = a.colls := by rw [hend.frame]
  refine ⟨?_, ?_, ?_, ?_, hlog.size, hlog.used, ?_⟩
  · rw [hend.frame, hframe]
  · rw [herrs, hframe]
  · rw [hcolls1, hcolls]
  · rw [hlog.frame]
  · rw [hend.mail]

/-- A group's mark of a member that has gone. -/
def Ctx.withDead (g : Nat) (x : Ctx) : Ctx :=
  { x with deadGroups := if x.deadGroups.contains g then x.deadGroups else x.deadGroups ++ [g] }

theorem Ctx.mem_withDead (g : Nat) (x : Ctx) : g ∈ (x.withDead g).deadGroups := by
  unfold Ctx.withDead
  dsimp only
  split
  · next h => exact List.contains_iff_mem.mp h
  · exact List.mem_append_right _ (List.mem_singleton.mpr rfl)

theorem exec_memberAbort {s : State} {die : Nat} {k : Coll} (herr : s.m.errs = []) (hk : Tab.look [] s.m.colls die = [k])
    (hs : k.started = true) (hnb : k.cmd.nb = true) (hby : k.cmd.bySched = false) {r : Nat}
    (hr : (s.m.ctx k.cmd.ctx).silt.room (32 + r) = true) (hl : s.sys.ring.length < 4096) :
    ∃ s1, exec (.memberAbort die k.cmd.ctx k.group) s = .next s1 ∧ Tab.look [] s1.m.colls die = [] ∧
      k.group ∈ (s1.m.ctx k.cmd.ctx).deadGroups ∧ s1.m.mem = s.m.mem ∧ s1.m.t = s.m.t ∧
      (Tab.look {} (s1.m.eng (collEng die)).mail k.cmd.ctx).status = 0 ∧ ∃ q ∈ s1.sys.ring, q.code = 0x4004 := by
  have ha := Mach.aborted_abortColl (m := s.m.setCtx k.cmd.ctx (Ctx.withDead k.group)) (die := die) hk hnb hby
  have hctx : (s.m.setCtx k.cmd.ctx (Ctx.withDead k.group)).ctx k.cmd.ctx = (s.m.ctx k.cmd.ctx).withDead k.group := by simp
  have hf : s.m.memberAbort die k.cmd.ctx k.group = (s.m.setCtx k.cmd.ctx (Ctx.withDead k.group)).abortColl die 0 k := by
    have hfind : (((s.m.setCtx k.cmd.ctx (Ctx.withDead k.group)).collsAt die).zipIdx.find? fun p =>
        p.1.cmd.ctx == k.cmd.ctx && p.1.group == k.group && p.1.started) = some (k, 0) := by
      rw [Mach.collsAt, Mach.setCtx_colls, hk]
      simp [hs]
    have hhold := Mach.orHold_of_used ha.size ha.used (Silt.room_mono (b := 32 + r) (by rw [hctx]; exact hr) (Nat.le_add_right _ _))
    unfold Mach.memberAbort
    dsimp only
    rw [show (s.m.setCtx k.cmd.ctx fun x => { x with deadGroups := if x.deadGroups.contains k.group then x.deadGroups
      else x.deadGroups ++ [k.group] }) = s.m.setCtx k.cmd.ctx (Ctx.withDead k.group) from rfl, hfind]
    exact hhold
  generalize Mach.abortColl _ die 0 k = m1 at ha hf
  have herrs := ha.errs
  rw [Mach.setCtx_errs, herr, List.nil_append] at herrs
  obtain ⟨s1, he, ⟨irqs, hm⟩, -, q, hq, hcode, -⟩ := exec_notes (i := .memberAbort die k.cmd.ctx k.group) (s := s)
    (f := fun s => { s with m := s.m.memberAbort die k.cmd.ctx k.group }) rfl (by rw [hf]; exact herrs) hl
  rw [hf] at hm
  refine ⟨s1, he, ?_, ?_, ?_, ?_, ?_, q, hq, hcode⟩
  · rw [hm]
    exact ha.colls
  · rw [hm]
    show k.group ∈ (m1.ctx k.cmd.ctx).deadGroups
    rw [ha.dead, hctx]
    exact Ctx.mem_withDead _ _
  · rw [hm]
    exact (congrArg Mach.mem ha.frame : m1.mem = _)
  · rw [hm]
    exact (congrArg Mach.t ha.frame : m1.t = _)
  · rw [hm]
    exact ha.mail

/-- Settles O44: each event by what its operation does at its place. -/
theorem collectives : Obligations.Collectives := by
  intro s die k bs herr hrest hk c e here goes step
  refine ⟨fun hgoes hdead hroom => ⟨fun hstart => ?start, fun l m1 l2 m2 hstart hop htype hred hrank hstep hbs h1 hl h2 hl2 hsp => ?step⟩,
    fun hline => ?hold, fun hline => ?resume, fun hstart hnb hby hroom hring => ?abort⟩
  case start =>
    have hm := Mach.collStep_starts hk (Mach.collGoes_iff.mpr hgoes) hdead hstart
      (r := 96 * (k.n + 2) - 32) (by rw [show 32 + (96 * (k.n + 2) - 32) = 96 * (k.n + 2) by omega]; exact hroom) bs
    have hlog := s.m.logs_startColl die 0 k
    refine ⟨_, exec_quiet (f := (·.collStep die 0 bs)) rfl hm (by rw [hlog.frame]; exact herr), ?_, ?_, ?_, rfl⟩
    · exact Mach.look_setColl (m := s.m.setCtx c _) hk _
    · rw [hlog.frame]
    · rw [hlog.frame]
  case step =>
    obtain ⟨a, hwrote, hmem, hm⟩ := Mach.collStep_sum hk (Mach.collGoes_iff.mpr hgoes) hdead hstart hop htype hred hstep hrest.unwatched
      (r := 96 * (k.n + 1)) (by rw [show 96 + 96 * (k.n + 1) = 96 * (k.n + 2) by omega]; exact hroom) hbs h1 hl h2 hl2
    have hf2 := Mach.engReach_frame h2 hl2
    have hf1 := Mach.engReach_frame h1 hl
    have hmem2 : m2.mem = s.m.mem := by rw [hf2, hf1]
    have hcolls : a.colls = s.m.colls := by rw [hwrote.colls, hf2, hf1]
    have herrs : a.errs = [] := by rw [hwrote.errs, hf2, hf1]; exact herr
    have ht : a.t = s.m.t := by rw [hwrote.t, hf2, hf1]
    refine ⟨_, exec_quiet (f := (·.collStep die 0 bs)) rfl hm herrs, ?_, ?_, ht⟩
    · have hst : s.m.storedAt a l2.key _ _ := storedAt_of_pokeMem (by rw [hmem, hmem2])
      rw [leBytes_length] at hst
      refine hst.congr fun i hi => ?_
      rw [leBytes_getD _ _ _ hi]
      rw [Coll.contributions_int32 htype]
    · exact (Mach.look_setColl (by rw [hcolls]; exact hk) _).trans (by simp [flagWord])
  case hold => exact exec_quiet (f := (·.collHold die c true)) rfl (Mach.collHold_eq hk rfl hline) herr
  case resume => exact exec_quiet (f := (·.collHold die c false)) rfl (Mach.collHold_eq hk rfl hline) herr
  case abort => exact exec_memberAbort herr hk hstart hnb hby (r := 64) hroom hring

end Sys2Proof.Machine
end

section
/-! PROOFS. O42: combining nodes, SHADOW and the operations of an engine. -/

namespace Sys2Proof.Machine

/-! ### Combining nodes (18 R337, R338) -/

theorem holdsOf_eq_false_iff {e : EngRef} {core : Nat} {l : List HeldCmd} :
    holdsOf e core l = false ↔ ∀ k ∈ l, k.eng = e → core ∉ k.cmd.cores := by
  simp only [holdsOf, List.any_eq_false, Bool.and_eq_true, beq_iff_eq, List.contains_iff_mem, not_and]

/-- A command that no held one takes is held behind them. -/
theorem joinNode_alone {now : Nat} {e : EngRef} {cmd : ECmd} : ∀ {l : List HeldCmd},
    (∀ h ∈ l, ¬ (cmd.merges = true ∧ h.eng = e ∧ h.cmd.same cmd = true ∧ now < h.since + 64)) → joinNode now e cmd l = l ++ [⟨e, cmd, now⟩]
  | [], _ => rfl
  | h :: l, hl => by
    have hh := hl h (List.mem_cons_self ..)
    rw [joinNode, if_neg fun hc => hh ⟨hc.1, hc.2.1, hc.2.2.1, hc.2.2.2.1⟩, joinNode_alone fun k hk => hl k (List.mem_cons_of_mem _ hk)]
    rfl

theorem joinNode_merges {now : Nat} {e : EngRef} {cmd : ECmd} {h : HeldCmd} {l : List HeldCmd} (hm : cmd.merges = true) (he : h.eng = e)
    (hs : h.cmd.same cmd = true) (hn : now < h.since + 64) (hl : ∀ k ∈ l, k.eng = e → cmd.core ∉ k.cmd.cores) :
    joinNode now e cmd (h :: l) =
      { h with cmd := { h.cmd with merged := h.cmd.merged ++ [⟨cmd.core, cmd.serial, cmd.gid, cmd.rec_⟩] } } :: l :=
  if_pos ⟨hm, he, hs, hn, holdsOf_eq_false_iff.mpr hl⟩

/-! ### SHADOW (18 R334) -/

theorem leNat_leBytes : ∀ (n v : Nat), leNat (leBytes v n) = v % 256 ^ n
  | 0, v => by simp [leBytes, leNat, Nat.mod_one]
  | n + 1, v => by
    have h : v % (256 * 256 ^ n) = v % 256 + 256 * (v / 256 % 256 ^ n) := Nat.mod_mul
    rw [leBytes, leNat, leNat_leBytes n, BitVec.toNat_ofNat, show 256 ^ (n + 1) = 256 * 256 ^ n from Nat.pow_succ']
    exact h.symm

theorem ofNat_leBytes (v : Word) : BitVec.ofNat 64 (leNat (leBytes v.toNat 8)) = v := by
  rw [leNat_leBytes, Nat.mod_eq_of_lt (by have := v.isLt; omega), BitVec.ofNat_toNat, BitVec.setWidth_eq]

/-- Bytes set one after the other in a list. -/
theorem foldl_set_cellsFrom : ∀ (bs old : List Byte) (k : Nat), k + bs.length ≤ old.length →
    (cellsFrom k bs).foldl (fun l p => l.set p.1 p.2) old = old.take k ++ bs ++ old.drop (k + bs.length)
  | [], old, k, _ => by simp [cellsFrom]
  | b :: bs, old, k, h => by
    rw [List.length_cons] at h
    rw [cellsFrom, List.foldl_cons, foldl_set_cellsFrom bs _ (k + 1) (by rw [List.length_set]; omega), List.length_cons]
    have hk : k < old.length := by omega
    have htake : (old.set k b).take (k + 1) = old.take k ++ [b] := by
      rw [List.take_set, List.take_succ_eq_append_getElem hk, List.set_append_right _ _ (by simp)]
      simp [Nat.min_eq_left (Nat.le_of_lt hk)]
    rw [htake, List.drop_set_of_lt (by omega), show k + 1 + bs.length = k + (bs.length + 1) by omega]
    simp

/-- One word of 8 bytes replaced, and the others kept. -/
theorem word_replaced {old bs : List Byte} {i : Nat} (h : 8 * i + 8 ≤ old.length) (hbs : bs.length = 8) (j : Nat) :
    ((old.take (8 * i) ++ bs ++ old.drop (8 * i + 8)).drop (8 * j)).take 8 = if j = i then bs else (old.drop (8 * j)).take 8 := by
  refine List.ext_getElem? fun p => ?_
  have htake : (old.take (8 * i)).length = 8 * i := by rw [List.length_take]; omega
  simp only [List.getElem?_take, List.getElem?_drop, List.append_assoc, List.getElem?_append, htake, hbs]
  rcases Nat.lt_trichotomy j i with hj | rfl | hj
  · rw [if_neg (by omega : j ≠ i)]
    by_cases hp : p < 8
    · simp [hp, List.getElem?_drop, show 8 * j + p < 8 * i by omega]
    · simp [hp]
  · by_cases hp : p < 8
    · simp [hp, show ¬ 8 * j + p < 8 * j by omega]
    · simp [hp, hbs]
  · rw [if_neg (by omega : j ≠ i)]
    by_cases hp : p < 8
    · simp [hp, List.getElem?_drop, show ¬ 8 * j + p < 8 * i by omega, show ¬ 8 * j + p - 8 * i < 8 by omega,
        show 8 * i + 8 + (8 * j + p - 8 * i - 8) = 8 * j + p by omega]
    · simp [hp]

/-- The words of SHADOW stand one after the other. -/
theorem Engine.shadow_word (x : Engine) (c : Nat) {j : Nat} (hj : j < 4) :
    (((List.range 4).flatMap fun i => leBytes (Tab.look 0 x.regs (4 * c + i)).toNat 8).drop (8 * j)).take 8 =
      leBytes (Tab.look 0 x.regs (4 * c + j)).toNat 8 := by
  rw [show List.range 4 = [0, 1, 2, 3] from rfl]
  interval_cases j <;> simp [List.drop_append, List.drop_eq_nil_of_le]

/-- A word of SHADOW written, and the others kept. -/
theorem Engine.look_putShadow (x : Engine) (c i : Nat) {bs : List Byte} (hi : i < 4) (hbs : bs.length = 8) (j : Nat) :
    Tab.look 0 (x.putShadow c (cellsFrom (8 * i) bs)).regs j =
      if j = 4 * c + i then BitVec.ofNat 64 (leNat bs) else Tab.look 0 x.regs j := by
  have hlen : ((List.range 4).flatMap fun i => leBytes (Tab.look 0 x.regs (4 * c + i)).toNat 8).length = 32 := by simp
  have hword : ∀ k, k < 4 → BitVec.ofNat 64 (leNat ((((cellsFrom (8 * i) bs).foldl (fun l p => l.set p.1 p.2)
      ((List.range 4).flatMap fun i => leBytes (Tab.look 0 x.regs (4 * c + i)).toNat 8)).drop (8 * k)).take 8)) =
      if k = i then BitVec.ofNat 64 (leNat bs) else Tab.look 0 x.regs (4 * c + k) := fun k hk => by
    rw [foldl_set_cellsFrom bs _ _ (by omega), hbs, word_replaced (by omega) hbs, apply_ite leNat, apply_ite (BitVec.ofNat 64),
      x.shadow_word c hk, ofNat_leBytes]
  unfold Engine.putShadow
  dsimp only
  rw [show ((List.range 4).foldl (fun r k => Tab.put 0 r (4 * c + k) (BitVec.ofNat 64 (leNat ((((cellsFrom (8 * i) bs).foldl
    (fun l p => l.set p.1 p.2) ((List.range 4).flatMap fun i => leBytes (Tab.look 0 x.regs (4 * c + i)).toNat 8)).drop (8 * k)).take 8)))) x.regs) =
    (List.range 4).foldl (fun r k => Tab.put 0 r (4 * c + k) (if k = i then BitVec.ofNat 64 (leNat bs) else Tab.look 0 x.regs (4 * c + k))) x.regs
    from List.foldl_ext _ _ _ fun r k hk => by rw [hword k (List.mem_range.mp hk)]]
  rw [show List.range 4 = [0, 1, 2, 3] from rfl]
  simp only [List.foldl_cons, List.foldl_nil, Tab.look_put]
  grind

/-! ### Commands on their way (18 R334, R337, R338) -/

/-- What the events on the commands' way keep: the task in focus and the others, the system die and memory. -/
def State.still (s s1 : State) : Prop := s1.m.t = s.m.t ∧ s1.sys = s.sys ∧ s1.m.others = s.m.others

section
variable {s : State} {e : EngRef}

/-- REGISTER_WRITE of a word of SHADOW. -/
theorem exec_registerWrite (herr : s.m.errs = []) (c : Nat) {i : Nat} {bs : List Byte} (hi : i < 4) (hbs : bs.length = 8) :
    ∃ s1, exec (.registerWrite e c (8 * i) bs) s = .next s1 ∧ s1.m.mem = s.m.mem ∧ s.still s1 ∧
      ∀ j, Tab.look 0 (s1.m.eng e).regs j = if j = 4 * c + i then BitVec.ofNat 64 (leNat bs) else Tab.look 0 (s.m.eng e).regs j := by
  obtain ⟨x, hx⟩ : ∃ x : Ctx → Ctx, ∀ m : Mach, m.regWrite e c (cellsFrom (8 * i) bs) (gidOf c 0)
      ⟨mailAt e c - 0x30 + 8 * i, BitVec.ofNat 64 (mailAt e c - 0x30 + 8 * i), .dev, 0, false, true, none⟩ 0 8 =
      (m.tick.setCtx (ctxOf (gidOf c 0)) x).setEng e fun y => y.putShadow c (cellsFrom (8 * i) bs) := ⟨_, fun m => rfl⟩
  refine ⟨{ s with m := (s.m.tick.setCtx (ctxOf (gidOf c 0)) x).setEng e fun y => y.putShadow c (cellsFrom (8 * i) bs) }, ?_, rfl, ⟨rfl, rfl, rfl⟩, ?_⟩
  · show execRegisterWrite e c (8 * i) bs s = _
    unfold execRegisterWrite
    rw [eventM_quiet]
    · simp only [hbs, show 8 * i + 8 ≤ 0x20 by omega, if_true, hx]
    · simp only [hbs, show 8 * i + 8 ≤ 0x20 by omega, if_true, hx]
      exact herr
  · intro j
    show Tab.look 0 ((Mach.setEng _ e fun y => y.putShadow c (cellsFrom (8 * i) bs)).eng e).regs j = _
    rw [Mach.eng_setEng_same]
    exact Engine.look_putShadow _ c i hi hbs j

/-- KICK where the node has room for the core's command. -/
theorem exec_kick (herr : s.m.errs = []) (c : Nat) {core : Nat} (g : Gid) (h : s.m.heldOf core < 16) :
    ∃ s1, exec (.kick e c core g) s = .next s1 ∧ s1.m.mem = s.m.mem ∧ s.still s1 ∧
      Tab.look [] s1.m.nodes (clusterOf core) = joinNode s.m.cycle e
        { (s.m.eng e).shadowCmd c core g ((s.m.find g).bind (·.rec_)) (((s.m.find g).map fun t => t.pc.toNat).getD 0) with
          serial := Tab.look 0 (s.m.ctx c).serials core } (Tab.look [] s.m.nodes (clusterOf core)) := by
  have hkick : ∀ (r : Option Nat) (pc : Nat), s.m.kickOp e c core g r pc = .ok { (s.m.takeTicket c core).2 with
      nodes := Tab.upd [] s.m.nodes (clusterOf core) (joinNode s.m.cycle e
        { (s.m.eng e).shadowCmd c core g r pc with serial := Tab.look 0 (s.m.ctx c).serials core }) } := fun r pc => by
    have hsend : ¬ 16 ≤ s.m.heldOf ((s.m.eng e).shadowCmd c core g r pc).core := Nat.not_le.mpr h
    simp only [Mach.kickOp, Mach.send, if_neg hsend]
    rfl
  refine ⟨_, (eventM_quiet ?_ : execKick e c core g s = _), ?_, ?_, ?_⟩
  · simp only [hkick]
    exact herr
  · simp only [hkick]
    rfl
  · simp only [hkick]
    exact ⟨rfl, rfl, rfl⟩
  · simp only [hkick, Tab.upd, Tab.look_put, if_true]

/-- COMMAND_FORWARD of a command whose time has come. -/
theorem exec_commandForward (herr : s.m.errs = []) {cl n : Nat} {h : HeldCmd} (hn : (Tab.look [] s.m.nodes cl)[n]? = some h) :
    (s.m.forwards (Tab.look [] s.m.nodes cl) n h = true → ∃ s1, exec (.commandForward cl n) s = .next s1 ∧ s1.m.mem = s.m.mem ∧
      s.still s1 ∧ Tab.look [] s1.m.nodes cl = (Tab.look [] s.m.nodes cl).eraseIdx n ∧
      s1.m.eng h.eng = (s.m.eng h.eng).accept h.cmd) ∧
    (s.m.forwards (Tab.look [] s.m.nodes cl) n h = false → exec (.commandForward cl n) s = .next s) := by
  refine ⟨fun hf => ?_, fun hf => ?_⟩
  · have hm : s.m.forward cl n = { s.m.setEng h.eng fun x => x.accept h.cmd with
        nodes := Tab.put [] s.m.nodes cl ((Tab.look [] s.m.nodes cl).eraseIdx n) } := by
      simp only [Mach.forward, hn, hf, if_true]
    refine ⟨_, exec_quiet (f := (·.forward cl n)) rfl hm herr, rfl, ⟨rfl, rfl, rfl⟩, ?_, ?_⟩
    · simp [Tab.look_put]
    · show (s.m.setEng h.eng fun x => x.accept h.cmd).eng h.eng = _
      rw [Mach.eng_setEng_same]
  · refine eventM_stays (f := (·.forward cl n)) herr ?_
    simp only [Mach.forward, hn, hf, Bool.false_eq_true, if_false]

/-- ENGINE_OPERATION_START of the command that stands in the shadow set. -/
theorem exec_engineOperationStart (herr : s.m.errs = []) {c : ECmd} (ha : (s.m.eng e).active = none) (hsaved : (s.m.eng e).saved = [])
    (hsh : (s.m.eng e).shadow = some c) (hr : s.m.engRuns e c.ctx = true) (h4 : c.opc ≠ 4) (h5 : c.opc ≠ 5) :
    ∃ s1, exec (.engineOperationStart e) s = .next s1 ∧ s1.m.mem = s.m.mem ∧ s.still s1 ∧ s1.m.eng e =
      { s.m.eng e with active := some { cmd := c, bitmap := c.freshBits, failed := c.fault e }
                       shadow := (s.m.eng e).pend.head?, pend := (s.m.eng e).pend.tail } := by
  have hnext : s.m.nextOp e = some ({ cmd := c, bitmap := c.freshBits, failed := c.fault e },
      { s.m.eng e with active := some { cmd := c, bitmap := c.freshBits, failed := c.fault e }
                       shadow := (s.m.eng e).pend.head?, pend := (s.m.eng e).pend.tail }) := by
    simp [Mach.nextOp, hsaved, hsh, hr]
  have hinstall : ∀ (m : Mach) (o : EOp), o.cmd = c → m.install e o = m := fun m o ho => by
    simp only [Mach.install, ho, if_neg h4, if_neg h5, ite_self]
  have hm : s.m.engineStart e = s.m.setEng e fun _ =>
      { s.m.eng e with active := some { cmd := c, bitmap := c.freshBits, failed := c.fault e }
                       shadow := (s.m.eng e).pend.head?, pend := (s.m.eng e).pend.tail } := by
    simp only [Mach.engineStart, ha, hnext]
    exact hinstall _ _ rfl
  exact ⟨_, exec_quiet (f := (·.engineStart e)) rfl hm herr, rfl, ⟨rfl, rfl, rfl⟩, Mach.eng_setEng_same _ _ _⟩

end

/-! ### The chunk of a copy of one word (18 R339) -/

theorem Mach.orHold_of_ctxs {m m1 : Mach} (h : m1.ctxs = m.ctxs) (c : Nat) : m.orHold c m1 = m1 := if_pos (fits_of_ctxs h c)

/-- The active operation of an engine changed. -/
theorem Mach.active_setOp (m : Mach) (e : EngRef) (f : EOp → EOp) : ((m.setOp e f).eng e).active = (m.eng e).active.map f := by
  rw [Mach.setOp, Mach.eng_setEng_same]

theorem Mach.opGoes_iff {m : Mach} {e : EngRef} {o : EOp} : m.opGoes e o = true ↔
    (o.cmd.ctx ∉ (m.eng e).stopped ∧ (m.ctx o.cmd.ctx).halt.line = false ∧ (m.ctx o.cmd.ctx).killed = false) ∧ o.waiting = none ∧
    o.failed = none := by
  simp only [Mach.opGoes, Mach.engRuns, Bool.and_eq_true, Bool.not_eq_true', Option.isNone_iff_eq_none, List.contains_eq_mem,
    decide_eq_false_iff_not, and_assoc]

/-- A copy of one word in memory, none of which is done. -/
structure ECmd.oneWord (c : ECmd) : Prop where
  opc : c.opc = 1
  var : c.var = 0
  len : c.len = 8
  merged : c.merged = []

section
variable {m m1 : Mach} {e : EngRef} {o : EOp} {l : Loc} (hc : o.cmd.oneWord)
include hc

theorem ECmd.oneWord.chunkSpan : o.cmd.chunkSpan 0 = (0, 8) := by
  simp [ECmd.chunkSpan, hc.opc, hc.len, copyChunk, ceilDiv]

theorem Mach.chunkComplete_word (ha : (m.eng e).active = some o) (hg : m.opGoes e o = true) (hb : o.bitmap.getLsbD 0 = false)
    (hp : o.part = none ∨ ∃ x, o.part = some (0, x)) : m.chunkComplete e 0 = m.orHold o.cmd.ctx (m.chunkAccess e o 0 0 8) := by
  have hgoes : m.chunkGoes e o = true := by simp only [Mach.chunkGoes, hg, hc.opc, Bool.and_self]
  unfold Mach.chunkComplete
  simp only [ha, hgoes, hb, hc.chunkSpan, Bool.not_true, Bool.false_or, Bool.or_false, Nat.reduceLeDiff, decide_false]
  rcases hp with hp | ⟨x, hp⟩ <;> simp only [hp, ne_eq, not_true_eq_false, decide_false, Bool.false_eq_true, if_false]

/-- The word read (R339). -/
theorem Mach.chunkAccess_reads (hp : o.part = none) (hh : o.held = [])
    (hr : m.engReach e o.cmd o.cmd.src 8 1 = .ok (l, m1)) (hl : l.home = .hbm) : m.chunkAccess e o 0 0 8 =
      ({ m with free := m.free + 1, tlb := m1.tlb, dtlb := m1.dtlb } : Mach).setOp e fun p =>
        { p with held := p.held ++ [⟨0, o.cmd.dst, m.peek l.key 8⟩], part := some (0, 8) } := by
  have hr0 := (m.mapsAs_free (m.free + 1)).engReach hr hl
  have hread : ∀ a : Mach, a.read l 8 = (a.peek l.key 8, a) := fun a => by rw [Mach.read, hl]
  have hfetch : ({ m with free := m.free + 1 } : Mach).engFetch e o.cmd 0 =
      .ok (⟨0, o.cmd.dst, m.peek l.key 8⟩, { m with free := m.free + 1, tlb := m1.tlb, dtlb := m1.dtlb }) := by
    simp only [Mach.engFetch, Mach.readWord, Mach.wordEnds, hc.opc, ECmd.srcSpace, hc.var, Mach.engLoc,
      BitVec.add_zero, accRead, hr0, hread, bind, Except.bind, Nat.reduceEqDiff, if_false, if_true, Nat.zero_div, Bool.false_eq_true]
    rfl
  unfold Mach.chunkAccess
  simp only [hp, hh, hfetch, Mach.engTurn, Nat.zero_add, Nat.ofNat_pos, decide_true, List.isEmpty_nil, Bool.true_or, Bool.and_self, if_true]

/-- The engine holds the word that it has read. -/
theorem Mach.chunkComplete_reads (ha : (m.eng e).active = some o) (hg : m.opGoes e o = true) (hb : o.bitmap.getLsbD 0 = false)
    (hp : o.part = none) (hh : o.held = []) (hr : m.engReach e o.cmd o.cmd.src 8 1 = .ok (l, m1)) (hl : l.home = .hbm) :
    ∃ a, m.chunkComplete e 0 = a ∧ a.t = m.t ∧ a.others = m.others ∧ a.mem = m.mem ∧ a.errs = m.errs ∧
      (a.eng e).active = some { o with held := [⟨0, o.cmd.dst, m.peek l.key 8⟩], part := some (0, 8) } := by
  obtain ⟨m2, hm2⟩ : ∃ m2 : Mach, m2 = { m with free := m.free + 1, tlb := m1.tlb, dtlb := m1.dtlb } := ⟨_, rfl⟩
  have hacc := Mach.chunkAccess_reads hc hp hh hr hl
  rw [← hm2] at hacc
  have hctxs : m2.ctxs = m.ctxs := by rw [hm2]
  have heng : m2.eng e = m.eng e := Mach.eng_of_engines (by rw [hm2]) e
  refine ⟨_, (Mach.chunkComplete_word hc ha hg hb (.inl hp)).trans ((congrArg _ hacc).trans (if_pos (fits_of_ctxs hctxs _))), ?_, ?_, ?_, ?_, ?_⟩
  · exact (congrArg Mach.t hm2 : m2.t = _)
  · exact (congrArg Mach.others hm2 : m2.others = _)
  · exact (congrArg Mach.mem hm2 : m2.mem = _)
  · exact (congrArg Mach.errs hm2 : m2.errs = _)
  · rw [Mach.active_setOp, heng, ha, Option.map_some, hh]
    rfl

/-- The word written, and the chunk's bit (R339). -/
theorem Mach.chunkAccess_writes (hw : ∀ t ∈ m.tasks, t.watchEn = false) (hp : o.part = some (0, 8)) {bs : List Byte}
    (hh : o.held = [⟨0, o.cmd.dst, bs⟩]) (hbs : bs.length = 8) (ha : (m.eng e).active = some o)
    (hr : m.engReach e o.cmd o.cmd.dst 8 2 = .ok (l, m1)) (hl : l.home = .hbm) : ∃ a, m.chunkAccess e o 0 0 8 = a ∧
      a.mem = pokeMem m.mem l.key bs ∧ a.t = m.t ∧ a.errs = m.errs ∧ (∀ c, Ctx.Logs 96 (m.ctx c) (a.ctx c)) ∧
      (a.eng e).active.map (·.bitmap) = some (o.bitmap ||| 1) := by
  have hr0 := (m.mapsAs_free (m.free + 1)).engReach hr hl
  obtain ⟨m2, hm2⟩ : ∃ m2 : Mach, m2 = { m with free := m.free + 1, tlb := m1.tlb, dtlb := m1.dtlb } := ⟨_, rfl⟩
  obtain ⟨hwrote, hmem⟩ := Mach.engWrite_wrote (m := m2) (by rw [hm2]; exact hw) (.inl hl)
    (frontOwner_of_space (by rw [Mach.engReach_place hr hl]; decide)) e o.cmd (bs := bs) (by omega)
  have hstore : ({ m with free := m.free + 1 } : Mach).engStore e o.cmd ⟨0, o.cmd.dst, bs⟩ =
      .ok ((m2.engWrite e o.cmd l bs).1, (m2.engWrite e o.cmd l bs).2 || false) := by
    simp only [Mach.engStore, hc.opc, ECmd.dstSpace, hc.var, ECmd.cores, hc.merged, List.map_nil, Mach.engDests, Mach.engLoc, accWrite, hr0,
      ← hm2, bind, Except.bind, Mach.engWrites, Nat.reduceEqDiff, if_false, if_true, List.contains_nil, Bool.false_eq_true, Nat.zero_mod]
  generalize m2.engWrite e o.cmd l bs = w at hwrote hmem hstore
  have herase : List.erase [(⟨0, o.cmd.dst, bs⟩ : EWord)] ⟨0, o.cmd.dst, bs⟩ = [] := by simp
  refine ⟨_, rfl, ?_⟩
  unfold Mach.chunkAccess
  simp only [hp, hh, hstore, Mach.engTurn, Nat.zero_add, Nat.lt_irrefl, decide_false, Bool.false_and, Bool.false_eq_true, if_false,
    nextHeld, herase, List.isEmpty_nil, Bool.not_false, Bool.and_self, if_true]
  refine ⟨?_, ?_, ?_, fun c => ?_, ?_⟩
  · show w.1.mem = _
    rw [hmem, hm2]
  · show w.1.t = _
    rw [hwrote.t, hm2]
  · show w.1.errs = _
    rw [hwrote.errs, hm2]
  · have := hwrote.ctx c
    rw [hm2] at this
    exact this
  · rw [Mach.active_setOp, hwrote.eng, hm2]
    show ((m.eng e).active.map _).map _ = _
    rw [ha]
    rfl

end

/-! ### The end and the fault of a copy (18 R339, R340) -/

/-- An operation that credits no barrier leaves the active set, with its mailbox and its record. -/
def Mach.opEnded (m : Mach) (e : EngRef) (o : EOp) (status : Nat) : Mach :=
  ((m.setOp e fun p => { p with credits := p.credits + 0 }).setEng e fun x => { x with active := none }).endOp e o.cmd status o.bitmap o.ext

section
variable {m : Mach} {e : EngRef} {o : EOp} (hnb : o.cmd.nb = true)
include hnb

theorem Mach.creditOwed_nb (n err : Nat) : m.creditOwed e o n err = m.setOp e fun p => { p with credits := p.credits + 0 } := by
  simp only [Mach.creditOwed, ECmd.credited_nb hnb, List.drop_nil, Mach.creditSome_nil]

theorem Mach.paidUp_nb (ha : (m.eng e).active = some o) (hs : m.hasStruck o.cmd.ctx (engParty e) o.cmd.gid = false) :
    (m.setOp e fun p => { p with credits := p.credits + 0 }).paidUp e = true := by
  have hstruck : (m.setOp e fun p => { p with credits := p.credits + 0 }).hasStruck o.cmd.ctx (engParty e) o.cmd.gid = false := hs
  simp only [Mach.paidUp, Mach.active_setOp, ha, Option.map_some, ECmd.credited_nb hnb, List.length_nil, Nat.zero_le, decide_true, hstruck,
    Bool.not_false, Bool.and_self]

end

/-- What an operation's end leaves. -/
structure Mach.OpEnds (e : EngRef) (o : EOp) (status : Nat) (m m1 : Mach) : Prop where
  frame : m1 = { m with ctxs := m1.ctxs, engines := m1.engines }
  ctx : ∀ c, Ctx.Logs 32 (m.ctx c) (m1.ctx c)
  active : (m1.eng e).active = none
  mail : Tab.look {} (m1.eng e).mail o.cmd.ctx = ⟨((Tab.look {} (m.eng e).mail o.cmd.ctx).count + 1) % 65536, status,
    if status = 0 then ticketOf e.kind o.cmd.core o.cmd.serial % 2 ^ 36 else (Tab.look {} (m.eng e).mail o.cmd.ctx).ticket⟩

theorem Mach.opEnds_opEnded (m : Mach) (e : EngRef) {o : EOp} (h : o.cmd.bySched = false) (status : Nat) :
    Mach.OpEnds e o status m (m.opEnded e o status) := by
  have hend := Mach.endsOp_endOp ((m.setOp e fun p => { p with credits := p.credits + 0 }).setEng e fun x => { x with active := none }) e
    h status o.bitmap o.ext
  have hactive := hend.active
  have hmail := hend.mail
  rw [Mach.eng_setEng_same] at hactive hmail
  rw [Mach.setOp, Mach.eng_setEng_same] at hmail
  refine ⟨?_, hend.ctx, hactive, hmail⟩
  rw [Mach.opEnded, hend.frame]
  rfl

theorem exec_engineOperationEnd {s : State} {e : EngRef} {o : EOp} (herr : s.m.errs = []) (ha : (s.m.eng e).active = some o)
    (hg : s.m.opGoes e o = true) (hb : o.bitmap = BitVec.allOnes 64) (hop : o.cmd.opc = 1) (hk : e.kind = .copy) (hnb : o.cmd.nb = true)
    (hby : o.cmd.bySched = false) (hs : s.m.hasStruck o.cmd.ctx (engParty e) o.cmd.gid = false) {r : Nat}
    (hr : (s.m.ctx o.cmd.ctx).silt.room (32 + r) = true) :
    ∃ s1, exec (.engineOperationEnd e) s = .next s1 ∧ s1.m.mem = s.m.mem ∧ s.still s1 ∧ Mach.OpEnds e o 0 s.m s1.m := by
  have hends := s.m.opEnds_opEnded e hby 0
  have hm : s.m.engineEnd e = s.m.opEnded e o 0 := by
    have hcond : ¬ (o.bitmap ≠ BitVec.allOnes 64 ∨ o.cmd.chunks.isNone = true ∨ ¬ s.m.opGoes e o = true ∨ (o.cmd.opc = 6 ∧ o.isReady = false)) := by
      simp [hb, ECmd.chunks, hop, hg]
    simp only [Mach.engineEnd, ha, if_neg hcond, Mach.creditOwed_nb hnb, Mach.paidUp_nb hnb ha hs, if_true]
    exact Mach.orHold_eq (hends.ctx _) (Silt.room_mono hr (Nat.le_add_right _ _))
  refine ⟨_, exec_quiet (f := fun m => if e.kind = .collective then m.collEnd e.unit else m.engineEnd e) rfl
    ((if_neg (by rw [hk]; decide)).trans hm) (by rw [hends.frame]; exact herr), ?_, ⟨?_, rfl, ?_⟩, hends⟩
  · rw [hends.frame]
  · rw [hends.frame]
  · rw [hends.frame]

theorem exec_engineFault {s : State} {e : EngRef} {o : EOp} {f : EFail} (herr : s.m.errs = []) (ha : (s.m.eng e).active = some o)
    (hf : o.failed = some f) (hop : o.cmd.opc = 1) (hk : e.kind = .copy) (hnb : o.cmd.nb = true)
    (hby : o.cmd.bySched = false) (hs : s.m.hasStruck o.cmd.ctx (engParty e) o.cmd.gid = false) {r : Nat}
    (hr : (s.m.ctx o.cmd.ctx).silt.room (32 + r) = true) :
    ∃ s1, exec (.engineFault e) s = .next s1 ∧ s1.m.mem = s.m.mem ∧ s1.m.t = s.m.t ∧ (s1.m.eng e).active = none ∧
      (Tab.look {} (s1.m.eng e).mail o.cmd.ctx).status = 2 ∧
      (Tab.look {} (s1.m.eng e).mail o.cmd.ctx).ticket = (Tab.look {} (s.m.eng e).mail o.cmd.ctx).ticket ∧
      (s1.m.ctx o.cmd.ctx).halt.line = true := by
  have hends := s.m.opEnds_opEnded e hby 2
  have hfault : (s.m.opEnded e o 2).SameLogs ((s.m.opEnded e o 2).engUnitFault e o.cmd f o.bitmap.toNat) := Mach.sameLogs_unitFault _ _ _ _ _ _ _
  have hline : (((s.m.opEnded e o 2).engUnitFault e o.cmd f o.bitmap.toNat).ctx o.cmd.ctx).halt.line = true := Mach.line_unitFault _ _ _ _ _ _ _
  have hm : s.m.engineFaults e = (s.m.opEnded e o 2).engUnitFault e o.cmd f o.bitmap.toNat := by
    have hfind : (s.m.eng e).active.bind (fun o => o.failed.map fun f => (o, f)) = some (o, f) := by simp [ha, hf]
    have hop : s.m.opFault e o f = (s.m.opEnded e o 2).engUnitFault e o.cmd f o.bitmap.toNat := by
      simp only [Mach.opFault, hop, Nat.reduceEqDiff, false_and, if_false, Mach.creditOwed_nb hnb, Mach.paidUp_nb hnb ha hs, if_true]
      rfl
    simp only [Mach.engineFaults, hfind, hs, Bool.false_eq_true, if_false, hop]
    refine Mach.orHold_of_used (n := 32) ?_ ?_ (Silt.room_mono hr (Nat.le_add_right _ _))
    · rw [hfault.silt]
      exact (hends.ctx _).size
    · rw [hfault.silt]
      exact (hends.ctx _).used
  generalize Mach.engUnitFault _ e o.cmd f o.bitmap.toNat = m1 at hline hm hfault
  have hx := hfault.frame
  have heng : m1.eng e = (s.m.opEnded e o 2).eng e := Mach.eng_of_engines (by rw [hx]) e
  refine ⟨_, exec_quiet (f := fun m => if e.kind = .collective ∧ ((m.eng e).active.bind (·.failed)).isNone then m.collFaults e.unit
    else m.engineFaults e) rfl ((if_neg (by rw [hk]; simp)).trans hm) ?_, ?_, ?_, ?_, ?_, ?_, hline⟩
  · rw [hx, hends.frame]
    exact herr
  · show m1.mem = _
    rw [hx, hends.frame]
  · show m1.t = _
    rw [hx, hends.frame]
  · show (m1.eng e).active = none
    rw [heng, hends.active]
  · show (Tab.look {} (m1.eng e).mail o.cmd.ctx).status = 2
    rw [heng, hends.mail]
  · show (Tab.look {} (m1.eng e).mail o.cmd.ctx).ticket = _
    rw [heng, hends.mail]
    rfl

theorem Engine.accept_eq (x : Engine) (c : ECmd) : x.accept c =
    if x.shadow = none ∧ x.pend = [] then { x with shadow := some c } else { x with pend := x.pend ++ [c] } := by
  unfold Engine.accept
  simp only [Bool.and_eq_true, Option.isNone_iff_eq_none, List.isEmpty_iff]

/-- A command whose 64 cycles are over waits for the older ones of its cores alone. -/
theorem Mach.forwards_iff {m : Mach} {l : List HeldCmd} {n : Nat} {h : HeldCmd} {e : EngRef} (he : h.eng = e)
    (hm : h.cmd.merges = false ∨ h.since + 64 ≤ m.cycle) (hp : (m.eng e).pend.length < 128) :
    m.forwards l n h = false ↔ ∃ k ∈ l.take n, k.eng = e ∧ ∃ core ∈ h.cmd.cores, core ∈ k.cmd.cores := by
  have h1 : (!h.cmd.merges || decide (h.since + 64 ≤ m.cycle)) = true := by rcases hm with hm | hm <;> simp [hm]
  have h2 : (!(m.eng e).full) = true := by simp [Engine.full, hp]
  simp only [Mach.forwards, he, h1, h2, Bool.true_and, Bool.not_eq_false', List.any_eq_true, holdsOf, Bool.and_eq_true, beq_iff_eq,
    List.contains_iff_mem]
  constructor
  · rintro ⟨core, hcore, k, hk, hke, hkc⟩
    exact ⟨k, hk, hke, core, hcore, hkc⟩
  · rintro ⟨k, hk, hke, core, hcore, hkc⟩
    exact ⟨core, hcore, k, hk, hke, hkc⟩

theorem exec_chunkComplete {s : State} {e : EngRef} {m1 : Mach} (hm : s.m.chunkComplete e 0 = m1) (herr : m1.errs = []) :
    exec (.chunkComplete e 0) s = .next { s with m := m1 } := exec_quiet (f := (·.chunkComplete e 0)) rfl hm herr

/-- Settles O42: each event by what its operation does to the node, the engine and memory. -/
theorem engineOperations : Obligations.EngineOperations := by
  intro s e herr hrest x still runs goes word quiet
  have hgo : ∀ {o}, goes o → s.m.opGoes e o = true := fun h => Mach.opGoes_iff.mpr h.2
  have hword : ∀ {o}, word o → o.cmd.oneWord := fun h => ⟨h.1, h.2.1, h.2.2.1, h.2.2.2.1⟩
  refine ⟨fun now cmd l hl => joinNode_alone hl, fun now cmd h l hm he hs hn hl => joinNode_merges hm he hs hn hl,
    fun c i bs hi hbs => exec_registerWrite herr c hi hbs, fun c core g hh => exec_kick herr c g hh, fun cl n h hn he hm hp => ?forward,
    fun c ha hsaved hsh hr h4 h5 => exec_engineOperationStart herr ha hsaved hsh ?runs h4 h5,
    fun o l m1 hg hw hp hh hr hl => ?read, fun o bs l m1 hg hw hp hh hbs hroom hr hl hsp => ?write,
    fun o hg hb hop hq hk => ?ended, fun o f ha hf hop hq hk => ?fault⟩
  case forward =>
    obtain ⟨hgoes, hwaits⟩ := exec_commandForward herr hn
    intro older waits
    have hiff : s.m.forwards (Tab.look [] s.m.nodes cl) n h = false ↔ waits := Mach.forwards_iff he hm hp
    refine ⟨fun hw => ?_, fun hw => hwaits (hiff.mpr hw)⟩
    obtain ⟨s1, hs1, hmem, hstill, hnodes, heng⟩ := hgoes (by simpa using fun hf => hw (hiff.mp hf))
    rw [he, Engine.accept_eq] at heng
    exact ⟨s1, hs1, hmem, hstill, hnodes, heng⟩
  case runs =>
    simp only [Mach.engRuns, Bool.and_eq_true, Bool.not_eq_true', List.contains_eq_mem, decide_eq_false_iff_not, and_assoc]
    exact hr
  case read =>
    obtain ⟨a, hm, ht, hothers, hmem, herrs, hactive⟩ := Mach.chunkComplete_reads (hword hw) hg.1 (hgo hg) hw.2.2.2.2 hp hh hr hl
    exact ⟨_, exec_chunkComplete hm (herrs.trans herr), ⟨ht, rfl, hothers⟩, hmem, hactive⟩
  case write =>
    obtain ⟨a, ha, hmem, ht, herrs, hlogs, hbits⟩ := Mach.chunkAccess_writes (hword hw) hrest.unwatched hp hh hbs hg.1 hr hl
    have hm : s.m.chunkComplete e 0 = a := (Mach.chunkComplete_word (hword hw) hg.1 (hgo hg) hw.2.2.2.2 (.inr ⟨8, hp⟩)).trans
      (by rw [ha]; exact Mach.orHold_eq (hlogs _) hroom)
    have hst := storedAt_of_pokeMem hmem
    rw [hbs] at hst
    exact ⟨_, exec_chunkComplete hm (herrs.trans herr), rfl, hst, hbits⟩
  case ended =>
    obtain ⟨hnb, hby, hs, hroom⟩ := hq
    obtain ⟨s1, hs1, hmem, hstill, hends⟩ := exec_engineOperationEnd herr hg.1 (hgo hg) hb hop hk hnb hby hs
      (r := 96 * (o.cmd.merged.length + 2) - 32) (by rw [show 32 + (96 * (o.cmd.merged.length + 2) - 32) = 96 * (o.cmd.merged.length + 2) by omega]; exact hroom)
    refine ⟨s1, hs1, hmem, hstill, hends.active, hends.mail.trans ?_⟩
    rw [hk, if_pos rfl, ticketOf, kindCode]
  case fault =>
    obtain ⟨hnb, hby, hs, hroom⟩ := hq
    exact exec_engineFault herr ha hf hop hk hnb hby hs
      (r := 96 * (o.cmd.merged.length + 2) - 32) (by rw [show 32 + (96 * (o.cmd.merged.length + 2) - 32) = 96 * (o.cmd.merged.length + 2) by omega]; exact hroom)

end Sys2Proof.Machine
end

section
/-! PROOFS. O43: Kaolin loads, metadata and streams. -/

namespace Sys2Proof.Machine

/-! ### Matrix units changed -/

theorem Mach.mtx_setMtx (m : Mach) (cl d : Nat) (f : Matrix → Matrix) : (m.setMtx cl f).mtx d = if d = cl then f (m.mtx cl) else m.mtx d := by
  simp only [Mach.mtx, Mach.setMtx_matrix, Tab.upd, Tab.look_put]

@[simp] theorem Mach.mtx_setMtx_same (m : Mach) (cl : Nat) (f : Matrix → Matrix) : (m.setMtx cl f).mtx cl = f (m.mtx cl) :=
  (m.mtx_setMtx cl cl f).trans (if_pos rfl)

theorem Mach.mtx_of_matrix {m m1 : Mach} (h : m1.matrix = m.matrix) (cl : Nat) : m1.mtx cl = m.mtx cl := by simp only [Mach.mtx, h]

theorem Mach.slot_setSlot (m : Mach) (cl j : Nat) (f : KSlot → KSlot) (k : Nat) : Tab.look {} ((m.setSlot cl j f).mtx cl).slots k =
    if k = j then f (Tab.look {} (m.mtx cl).slots j) else Tab.look {} (m.mtx cl).slots k := by
  rw [Mach.setSlot, Mach.mtx_setMtx_same]
  simp only [Tab.upd, Tab.look_put]

@[simp] theorem Mach.mtx_setOp (m : Mach) (e : EngRef) (f : EOp → EOp) (cl : Nat) : (m.setOp e f).mtx cl = m.mtx cl := rfl

/-! ### Kaolin loads and metadata (13 R247, 18 R335) -/

section
variable {m : Mach} {cl : Nat} {o : EOp} (ha : (m.eng (copyEng cl)).active = some o) (hg : m.opGoes (copyEng cl) o = true)
include ha hg

/-- A load's first word makes its slot LOADING (13 R247). -/
theorem Mach.kaolinLoad_spec (hop : o.cmd.opc = 6) (hr : o.reach = none) : ∃ m1, m.kaolinLoad cl = m1 ∧
    m1 = { m with order := m1.order, matrix := m1.matrix, engines := m1.engines } ∧
    ∀ k, Tab.look {} (m1.mtx cl).slots k = if k = o.cmd.dst.toNat % 64 then ⟨.loading, o.cmd.ctx⟩ else Tab.look {} (m.mtx cl).slots k := by
  have hcond : ¬ (o.cmd.opc ≠ 6 ∨ o.reach.isSome = true ∨ ¬ m.opGoes (copyEng cl) o = true) := by simp [hop, hr, hg]
  obtain ⟨m0, hm0⟩ : ∃ m0, m0 = m.tick.setSlot cl (o.cmd.dst.toNat % 64) fun _ => ⟨.loading, o.cmd.ctx⟩ := ⟨_, rfl⟩
  have hframe : m0 = { m with order := m0.order, matrix := m0.matrix } := by rw [hm0]; rfl
  have hslots := Mach.slot_setSlot m.tick cl (o.cmd.dst.toNat % 64) fun _ => ⟨.loading, o.cmd.ctx⟩
  rw [← hm0] at hslots
  refine ⟨m0.setOp (copyEng cl) fun p => { p with reach := some m.tick.order }, ?_, ?_, hslots⟩
  · simp only [Mach.kaolinLoad, ha, if_neg hcond, hm0]
  · rw [hframe]
    rfl

/-- A load that has written its slot makes it READY (13 R247). -/
theorem Mach.kaolinDone_spec (hop : o.cmd.opc = 6) (hr : o.isReady = false) (hb : o.bitmap = BitVec.allOnes 64) (hnb : o.cmd.nb = true) :
    ∃ m1, m.kaolinDone cl = m1 ∧ m1 = { m with matrix := m1.matrix, engines := m1.engines } ∧
    ∀ k, Tab.look {} (m1.mtx cl).slots k = if k = o.cmd.dst.toNat % 64 then ⟨.ready, o.cmd.ctx⟩ else Tab.look {} (m.mtx cl).slots k := by
  have hcond : ¬ (o.cmd.opc ≠ 6 ∨ o.isReady = true ∨ o.bitmap ≠ BitVec.allOnes 64 ∨ ¬ m.opGoes (copyEng cl) o = true) := by
    simp [hop, hr, hb, hg]
  obtain ⟨m0, hm0⟩ : ∃ m0, m0 = m.setSlot cl (o.cmd.dst.toNat % 64) fun _ => ⟨.ready, o.cmd.ctx⟩ := ⟨_, rfl⟩
  have hframe : m0 = { m with matrix := m0.matrix } := by rw [hm0]; rfl
  have hslots := Mach.slot_setSlot m cl (o.cmd.dst.toNat % 64) fun _ => ⟨.ready, o.cmd.ctx⟩
  rw [← hm0] at hslots
  obtain ⟨m1, hm1⟩ : ∃ m1, m1 = (m0.setOp (copyEng cl) fun p => { p with isReady := true }).setOp (copyEng cl) fun p =>
    { p with credits := p.credits + 0 } := ⟨_, rfl⟩
  have hframe1 : m1 = { m0 with engines := m1.engines } := by rw [hm1]; rfl
  refine ⟨m1, ?_, ?_, fun k => ?_⟩
  · simp only [Mach.kaolinDone, ha, if_neg hcond, Mach.creditOwed_nb hnb, ← hm0, ← hm1]
    exact Mach.orHold_of_ctxs (by rw [hframe1, hframe]) _
  · rw [hframe1, hframe]
  · rw [Mach.mtx_of_matrix (by rw [hframe1] : m1.matrix = m0.matrix)]
    exact hslots k

/-- The next access of a metadata fill (R335). -/
theorem Mach.metadataPush_eq {k : Nat} (hop : o.cmd.opc = 7) (hk : k < 64) (hc : o.bitmap.getLsbD k = false)
    (hbelow : ∀ j, j < k → o.bitmap.getLsbD j = true)
    (hq : (Tab.look [] (m.mtx (clusterOf o.cmd.core)).metaq (coreIdx o.cmd.core)).length < 64) {l : Loc} {m1 : Mach}
    (hr : m.engReach (copyEng cl) o.cmd (o.cmd.src + BitVec.ofNat 64 (16 * k + 8 * o.held.length)) 8 1 = .ok (l, m1)) (hl : l.home = .hbm) :
    (o.held = [] → m.metadataPush cl = m1.setOp (copyEng cl) fun p => { p with held := [⟨16 * k, 0, m.peek l.key 8⟩] }) ∧
    (∀ w r, o.held = w :: r → m.metadataPush cl = (m1.setMtx (clusterOf o.cmd.core) fun x =>
      { x with metaq := Tab.upd [] x.metaq (coreIdx o.cmd.core) (· ++ [leNat (w.bytes ++ m.peek l.key 8)]) }).setOp (copyEng cl)
        fun p => { p with held := [], bitmap := p.bitmap ||| BitVec.ofNat 64 (2 ^ k) }) := by
  have hclear : firstClear o.bitmap = some k := by
    rw [firstClear, List.find?_range_eq_some]
    refine ⟨by simp [hc], by simpa using hk, fun j hj => by simp [hbelow j hj]⟩
  have hcond : ¬ (o.cmd.opc ≠ 7 ∨ 64 ≤ (Tab.look [] (m.mtx (clusterOf o.cmd.core)).metaq (coreIdx o.cmd.core)).length ∨
      ¬ m.opGoes (copyEng cl) o = true) := by simp [hop, hg, hq]
  have hread : m1.read l 8 = (m.peek l.key 8, m1) := by
    rw [Mach.engReach_frame hr hl, Mach.read, hl]
    rfl
  unfold Mach.metadataPush
  simp only [ha, hclear, if_neg hcond, accRead, hr, hread]
  refine ⟨fun hh => ?_, fun w r hh => ?_⟩
  · rw [hh]
  · rw [hh]

end

/-! ### A credit where no task waits (15 R282) -/

/-- No task waits for a word or a barrier. -/
def Mach.unwaited (m : Mach) : Prop := ∀ t ∈ m.tasks, ∀ w, t.phase ≠ .waiting w

theorem Mach.dropNotes_unwaited {m1 m : Mach} (h : m1.unwaited) : m1.dropNotes m = m1 := by
  have hmoved : ∀ t : Task, (∀ w, t.phase ≠ .waiting w) → m.noteMoved m1 t = false := fun t ht => by
    unfold Mach.noteMoved
    split
    · next hp => exact absurd hp (ht _)
    · next hp => exact absurd hp (ht _)
    · next hp => exact absurd hp (ht _)
    · rfl
  have hid : ∀ l : List Task, (∀ t ∈ l, ∀ w, t.phase ≠ .waiting w) →
      l.map (fun t => if m.noteMoved m1 t then t.noteDropped m1.cycle m1.order else t) = l := fun l hl => by
    conv_rhs => rw [← List.map_id l]
    exact List.map_congr_left fun t ht => if_neg (by rw [hmoved t (hl t ht)]; decide)
  unfold Mach.dropNotes Mach.mapTasks
  simp only [hid m1.others (fun t ht => h t (List.mem_cons_of_mem _ ht)), hmoved m1.t (h m1.t (List.mem_cons_self ..)),
    Bool.false_eq_true, if_false]

theorem Mach.settleAll_unwaited {m : Mach} (h : m.unwaited) (core : Nat) : m.settleAll core = m := by
  have hseq : ∀ t ∈ m.tasks, t.waitSeq core = none := fun t ht => by
    unfold Task.waitSeq
    split
    · rfl
    · split
      · next hp => exact absurd hp (h t ht _)
      · next hp => exact absurd hp (h t ht _)
      · next hp => exact absurd hp (h t ht _)
      · rfl
  have nil : ∀ f : Task → Option (Nat × Task), (∀ t ∈ m.tasks, f t = none) → m.tasks.filterMap f = [] :=
    fun f hf => List.filterMap_eq_nil_iff.mpr hf
  have hnext : m.nextServed core = none := by
    unfold Mach.nextServed
    rw [nil _ (fun t ht => by simp only [hseq t ht])]
    rfl
  simp [Mach.settleAll, Mach.settle, hnext]

theorem Bar.bytes_length (b : Bar) : b.bytes.length = 12 := by simp [Bar.bytes]

/-- A credit writes its object's first bytes, with a record; one that ends no epoch does no more. -/
theorem Mach.credit_records {m : Mach} (hw : ∀ t ∈ m.tasks, t.watchEn = false) (g : Gid) (party core off n err : Nat) :
    ∃ a, a = { m with order := a.order, ctxs := a.ctxs, mem := a.mem } ∧ (∀ c, Ctx.Logs 96 (m.ctx c) (a.ctx c)) ∧
      a.mem = pokeMem m.mem (m.frontKey core off) ((m.bar core off).credit n err).bytes ∧
      ((m.bar core off).completes n err = 0 → m.credit g party core off n err = a) ∧
      ((m.bar core off).completes n err ≠ 0 → m.unwaited → Tab.look [] m.gbars (core * 65536 + off) = [] →
        m.credit g party core off n err = { a with gbars := Tab.put [] a.gbars (core * 65536 + off) [] }) := by
  have hrec := m.tick.logs_siltWrite (ctxOf g) 1 (m.frontLoc core off).key party g (n := 16) (by decide)
  obtain ⟨m0, hm0⟩ : ∃ m0, m0 = m.tick.siltWrite (ctxOf g) 1 (m.frontLoc core off).key 16 party g := ⟨_, rfl⟩
  rw [← hm0] at hrec
  have hs := Mach.logs_strikes (m := { m0 with mem := pokeMem m0.mem (m.frontLoc core off).key ((m.bar core off).credit n err).bytes })
    (by rw [hrec.frame]; exact hw) (ctxOf g) (m.frontLoc core off) 16 (span 12) g party (BitVec.ofNat 64 (m.word (m.frontLoc core off).key))
    (m.ctx (ctxOf g)).silt.nextSeq
  obtain ⟨m2, hm2⟩ : ∃ m2, m2 = ({ m0 with mem := pokeMem m0.mem (m.frontLoc core off).key ((m.bar core off).credit n err).bytes } : Mach).strikes
    (ctxOf g) (m.frontLoc core off) 16 (span 12) g party (BitVec.ofNat 64 (m.word (m.frontLoc core off).key)) (m.ctx (ctxOf g)).silt.nextSeq := ⟨_, rfl⟩
  rw [← hm2] at hs
  have hframe : m2 = { m with order := m2.order, ctxs := m2.ctxs, mem := m2.mem } := by
    rw [hs.frame, hrec.frame]
    rfl
  have hmem : m2.mem = pokeMem m.mem (m.frontKey core off) ((m.bar core off).credit n err).bytes := by
    rw [hs.frame, hrec.frame]
    rfl
  refine ⟨m2, hframe, fun c => (hrec.ctx c).trans (hs.ctx c), hmem, fun hc => ?_, fun hc hu hb => ?_⟩
  · unfold Mach.credit
    dsimp only
    rw [if_pos hc, ← hm0, ← hm2]
  · have hu2 : m2.unwaited := by
      rw [hs.frame, hrec.frame]
      exact hu
    unfold Mach.credit
    dsimp only
    rw [if_neg hc, ← hm0, ← hm2, Mach.dropNotes_unwaited hu2, Mach.settleAll_unwaited hu2, hb]
    rfl

/-- A credit where no task waits and no GBAR counts on its object. -/
theorem Mach.credit_unwaited {m : Mach} (hw : ∀ t ∈ m.tasks, t.watchEn = false) (hu : m.unwaited) {core off : Nat}
    (hb : Tab.look [] m.gbars (core * 65536 + off) = []) (g : Gid) (party n err : Nat) : ∃ a, m.credit g party core off n err = a ∧
      a = { m with order := a.order, ctxs := a.ctxs, mem := a.mem, gbars := a.gbars } ∧ (∀ c, Ctx.Logs 96 (m.ctx c) (a.ctx c)) ∧
      a.mem = pokeMem m.mem (m.frontKey core off) ((m.bar core off).credit n err).bytes := by
  obtain ⟨a, hframe, hlogs, hmem, hnone, hsome⟩ := Mach.credit_records hw g party core off n err
  by_cases hc : (m.bar core off).completes n err = 0
  · exact ⟨a, hnone hc, by rw [hframe], hlogs, hmem⟩
  · exact ⟨_, hsome hc hu hb, by rw [hframe], hlogs, hmem⟩

/-! ### Streams (15 R293 to R295) -/

theorem Mach.streams_setStream {m : Mach} {e : EngRef} {y : Stream} (h : (m.eng e).streams = [y]) (f : Stream → Stream) :
    ((m.setStream e 0 f).eng e).streams = [f y] := by
  rw [Mach.setStream, Mach.eng_setEng_same, h]
  rfl

theorem Mach.setStream_frame (m : Mach) (e : EngRef) (n : Nat) (f : Stream → Stream) :
    m.setStream e n f = { m with engines := (m.setStream e n f).engines } := rfl

@[simp] theorem Mach.ctxs_setStream (m : Mach) (e : EngRef) (n : Nat) (f : Stream → Stream) : (m.setStream e n f).ctxs = m.ctxs := rfl

@[simp] theorem Mach.ctx_setStream (m : Mach) (e : EngRef) (n : Nat) (f : Stream → Stream) (c : Nat) : (m.setStream e n f).ctx c = m.ctx c := rfl

@[simp] theorem Mach.hasStruck_setStream (m : Mach) (e : EngRef) (n : Nat) (f : Stream → Stream) (c party : Nat) (g : Gid) :
    (m.setStream e n f).hasStruck c party g = m.hasStruck c party g := rfl

/-- The global address of a one-block tile. -/
def Stream.nextVa (y : Stream) : Word := BitVec.ofInt 64 ((y.addr : Int) + y.k * y.stride)

/-- The place in the ring of a one-block tile. -/
def Stream.nextRing (y : Stream) : Nat := y.ringBase + y.k % (y.ringSize / 64) * 64

theorem Stream.blockAt_zero {y : Stream} (h : y.tile = 64) : y.blockAt 0 = (y.nextVa, y.nextRing) := by
  simp [Stream.blockAt, Stream.nextVa, Stream.nextRing, Stream.slots, h]

/-- The stream as its unit sees it at the next access: DONE read again. -/
def Mach.seenStream (m : Mach) (y : Stream) : Stream := { y with seen := m.doneOf y }

/-- The chip at a stream's next access. -/
def Mach.tileTurn (m : Mach) (e : EngRef) (y : Stream) : Mach :=
  { m.setStream e 0 fun t => { t with seen := m.doneOf y } with free := m.free + 1 }

theorem Mach.tileTurn_frame (m : Mach) (e : EngRef) (y : Stream) : m.tileTurn e y =
    { m with engines := (m.tileTurn e y).engines, free := m.free + 1 } := rfl

theorem Mach.mapsAs_tileTurn (m : Mach) (e : EngRef) (y : Stream) : m.MapsAs (m.tileTurn e y) := ⟨rfl, rfl, rfl, rfl, rfl⟩

section
variable {m : Mach} {e : EngRef} {y : Stream} (hy : (m.eng e).streams = [y])
include hy

theorem Mach.streams_tileTurn : ((m.tileTurn e y).eng e).streams = [m.seenStream y] := Mach.streams_setStream hy (fun t => { t with seen := m.doneOf y })

theorem Mach.streamTile_eq (hg : m.streamGoes e y = true) (hr : m.tileReady y = true) : m.streamTile e 0 y.store = m.orHold y.cmd.ctx
    ((m.setStream e 0 fun t => { t with seen := m.doneOf y }).streamAccess e 0 (m.seenStream y)) := by
  have hcond : ¬ (y.store ≠ y.store ∨ ¬ m.streamGoes e y = true ∨ ¬ m.tileReady y = true) := by simp [hg, hr]
  unfold Mach.streamTile
  simp only [hy, List.getElem?_cons_zero, if_neg hcond]
  rfl

/-- A read of the next word of a tile, where none is held. -/
theorem Mach.streamTile_reads (hg : m.streamGoes e y = true) (hr : m.tileReady y = true) (htile : y.tile = 64) (hh : y.held = [])
    (hmv : y.moved < 64) {w : EWord} {a : Mach} (hread : (m.tileTurn e y).streamRead e (m.seenStream y) y.moved = .ok (w, a))
    (ha : a.ctxs = m.ctxs) : m.streamTile e 0 y.store = a.setStream e 0 fun t => { t with held := t.held ++ [w], moved := t.moved + 8 } := by
  have hturn : ∀ b : Mach, b.engTurn [] true = none := fun b => by simp [Mach.engTurn]
  have hacc : (m.setStream e 0 fun t => { t with seen := m.doneOf y }).streamAccess e 0 (m.seenStream y) =
      a.setStream e 0 fun t => { t with held := t.held ++ [w], moved := t.moved + 8 } := by
    have hmore : decide ((m.seenStream y).moved < (m.seenStream y).tile) = true := decide_eq_true (by
      show y.moved < y.tile
      omega)
    have hheld : (m.seenStream y).held = [] := hh
    unfold Mach.streamAccess
    simp only [hmore, hheld, hturn]
    rw [show (m.seenStream y).moved = y.moved from rfl]
    unfold Mach.tileTurn at hread
    rw [show (m.setStream e 0 fun t => { t with seen := m.doneOf y }).free = m.free from rfl, hread]
  rw [Mach.streamTile_eq hy hg hr, hacc]
  exact Mach.orHold_of_ctxs ((Mach.ctxs_setStream ..).trans ha) _

end

/-- A read of a word of the ring (R294). -/
theorem Mach.streamRead_store (m : Mach) (e : EngRef) {y : Stream} (hs : y.store = true) (hc : y.check = false) (ht : y.tile = 64)
    (hcore : y.cmd.core = 0) {o : Nat} (ho : o < 64) : m.streamRead e y o =
      .ok (⟨o, y.nextVa + BitVec.ofNat 64 o, m.peek (accKey 0 (y.nextRing + o)) 8⟩, m) := by
  simp only [Mach.streamRead, Nat.div_eq_of_lt ho, Nat.mod_eq_of_lt ho, Stream.blockAt_zero ht, hs, hc, hcore, Bool.false_and,
    Bool.false_eq_true, if_false, if_true]

/-- A read of a word of global memory (R294). -/
theorem Mach.streamRead_load {m m1 : Mach} {e : EngRef} {y : Stream} (hs : y.store = false) (hc : y.check = false) (ht : y.tile = 64)
    {o : Nat} (ho : o < 64) {l : Loc} (hr : m.engReach e y.cmd (y.nextVa + BitVec.ofNat 64 o) 8 1 = .ok (l, m1)) (hl : l.home = .hbm) :
    m.streamRead e y o = .ok (⟨o, BitVec.ofNat 64 (y.nextRing + o), m1.peek l.key 8⟩, m1) := by
  have hread : m1.read l 8 = (m1.peek l.key 8, m1) := by rw [Mach.read, hl]
  simp only [Mach.streamRead, Nat.div_eq_of_lt ho, Nat.mod_eq_of_lt ho, Stream.blockAt_zero ht, hs, hc, accRead, hr, hread,
    bind, Except.bind, Bool.false_and, Bool.false_eq_true, if_false]

/-- The stream's counters once its tile has moved (R293, R294). -/
def Stream.tileMoved (y t : Stream) : Stream := if y.store then { t with k := t.k + 1 } else t.loaded

theorem Stream.k_tileMoved (y t : Stream) : (y.tileMoved t).k = t.k + 1 := by
  unfold Stream.tileMoved
  split
  · rfl
  · rfl

/-- A stream of one-block tiles that holds its tile's last word, where its context's log has room. -/
structure Stream.LastWord (m : Mach) (e : EngRef) (y : Stream) (w : EWord) : Prop where
  streams : (m.eng e).streams = [y]
  goes : m.streamGoes e y = true
  ready : m.tileReady y = true
  tile : y.tile = 64
  held : y.held = [w]
  moved : 64 ≤ y.moved
  core : y.cmd.core = 0
  room : (m.ctx y.cmd.ctx).silt.room 192 = true
  struck : m.hasStruck y.cmd.ctx (engParty e) y.cmd.gid = false

section
variable {m : Mach} {e : EngRef} {y : Stream} {w : EWord} (h : y.LastWord m e w) {a b : Mach} {x : Bool}
  (hb : b = { m.tileTurn e y with tlb := b.tlb, dtlb := b.dtlb }) (ha : Mach.Wrote 96 b a)
include h hb ha

/-- The word written, the stream holds none and its tile has moved. -/
theorem Stream.LastWord.moves : ∃ m3, ((a.setStream e 0 fun t => { t with ext := t.ext || x, held := [], moved := 0 }).setStream e 0 y.tileMoved) = m3 ∧
    m3 = { a with engines := m3.engines } ∧ (m3.eng e).streams.map (·.k) = [y.k + 1] := by
  have hbe : (b.eng e).streams = [m.seenStream y] :=
    (congrArg Engine.streams (Mach.eng_of_engines (congrArg Mach.engines hb) e)).trans (Mach.streams_tileTurn h.streams)
  have hae : (a.eng e).streams = [m.seenStream y] := (congrArg Engine.streams (ha.eng e)).trans hbe
  refine ⟨_, rfl, rfl, ?_⟩
  rw [Mach.streams_setStream (Mach.streams_setStream hae _), List.map_singleton, Stream.k_tileMoved]
  rfl

/-- The access that writes a tile's last word credits the tile (R294). -/
theorem Stream.LastWord.streamTile_eq (hwrite : (m.tileTurn e y).streamWrite e (m.seenStream y) w = .ok (a, x)) : m.streamTile e 0 y.store =
    m.orHold y.cmd.ctx (((a.setStream e 0 fun t => { t with ext := t.ext || x, held := [], moved := 0 }).setStream e 0 y.tileMoved).credit
      y.cmd.gid (engParty e) 0 y.barrier 64 0) := by
  have hmore : decide ((m.seenStream y).moved < (m.seenStream y).tile) = false := decide_eq_false (by
    have := h.moved
    have := h.tile
    show ¬ y.moved < y.tile
    omega)
  have hheld : (m.seenStream y).held = [w] := h.held
  have hturn : ∀ c : Mach, c.engTurn [w] false = some w := fun c => by simp [Mach.engTurn, nextHeld]
  have hs : ∀ f : Stream → Stream, (a.setStream e 0 f).hasStruck y.cmd.ctx (engParty e) y.cmd.gid = false := fun f => by
    rw [Mach.hasStruck_setStream, ha.hasStruck, hb]
    exact h.struck
  have herase : List.erase [w] w = [] := by simp
  rw [Mach.streamTile_eq h.streams h.goes h.ready]
  congr 1
  unfold Mach.streamAccess
  simp only [hmore, hheld, hturn]
  unfold Mach.tileTurn at hwrite
  rw [show (m.setStream e 0 fun t => { t with seen := m.doneOf y }).free = m.free from rfl, hwrite]
  simp only [herase, List.isEmpty_nil, Bool.not_false, Bool.and_true, if_true]
  rw [show (m.seenStream y).cmd = y.cmd from rfl, hs]
  simp only [Bool.not_false, Bool.true_and, if_true]
  rw [Mach.tileDone]
  rw [show (m.seenStream y).cmd = y.cmd from rfl, h.core, show (m.seenStream y).tile = 64 from h.tile]
  rfl

theorem Stream.LastWord.streamTile (hw : ∀ t ∈ m.tasks, t.watchEn = false) (hu : m.unwaited) (hg : ∀ k, Tab.look [] m.gbars k = [])
    (hwrite : (m.tileTurn e y).streamWrite e (m.seenStream y) w = .ok (a, x)) {k : Nat} (hmem : a.mem = pokeMem m.mem k w.bytes) :
    ∃ m1, m.streamTile e 0 y.store = m1 ∧ m1.t = m.t ∧ m1.errs = m.errs ∧ (m1.eng e).streams.map (·.k) = [y.k + 1] ∧
      ∃ bs, bs.length = 12 ∧ m1.mem = pokeMem (pokeMem m.mem k w.bytes) (m.frontKey 0 y.barrier) bs := by
  have heq := h.streamTile_eq hb ha hwrite
  obtain ⟨m3, hm3, hframe, hk⟩ := h.moves hb ha (x := x)
  rw [hm3] at heq
  have hframe3 : m3 = { m with
      order := a.order, ctxs := a.ctxs, codeOld := a.codeOld, free := a.free, engines := m3.engines, mem := a.mem, tlb := b.tlb, dtlb := b.dtlb } := by
    rw [hframe, ha.frame, hb]
    rfl
  have htasks : m3.tasks = m.tasks := by rw [hframe3]; rfl
  have hgbars : m3.gbars = m.gbars := by rw [hframe3]
  obtain ⟨m4, hm4, hf4, hlogs, hmem4⟩ := Mach.credit_unwaited (m := m3) (by rw [htasks]; exact hw) (by unfold Mach.unwaited; rw [htasks]; exact hu)
    (core := 0) (off := y.barrier) (by rw [hgbars]; exact hg _) y.cmd.gid (engParty e) 64 0
  have hkeep : m.orHold y.cmd.ctx m4 = m4 := by
    refine Mach.orHold_eq (n := 96 + 96) ((?_ : Ctx.Logs 96 _ (m3.ctx y.cmd.ctx)).trans (hlogs _)) h.room
    have hctx : b.ctx y.cmd.ctx = m.ctx y.cmd.ctx := Mach.ctx_of_ctxs (congrArg Mach.ctxs hb) _
    rw [Mach.ctx_of_ctxs (by rw [hframe] : m3.ctxs = a.ctxs), ← hctx]
    exact ha.ctx _
  refine ⟨m4, ?_, ?_, ?_, ?_, ((m3.bar 0 y.barrier).credit 64 0).bytes, Bar.bytes_length _, ?_⟩
  · rw [heq, hm4, hkeep]
  · rw [hf4, hframe3]
  · rw [hf4, hframe3]
  · rw [Mach.eng_of_engines (by rw [hf4] : m4.engines = m3.engines)]
    exact hk
  · have hm3mem : m3.mem = a.mem := by rw [hframe]
    have hfront : m3.frontKey 0 y.barrier = m.frontKey 0 y.barrier := by
      unfold Mach.frontKey Mach.frontOf
      rw [show m3.front = m.front by rw [hframe3]]
    rw [hmem4, hm3mem, hmem, hfront]

end

section
variable {m : Mach} (hw : ∀ t ∈ m.tasks, t.watchEn = false) {e : EngRef} {y : Stream} {w : EWord} (hbs : w.bytes.length = 8)
include hw hbs

/-- A store stream's write of a word to global memory. -/
theorem Mach.streamWrite_store (hs : y.store = true) {l : Loc} {m1 : Mach} (hr : m.engReach e y.cmd w.dst 8 2 = .ok (l, m1))
    (hl : l.home = .hbm) : ∃ a x b, (m.tileTurn e y).streamWrite e (m.seenStream y) w = .ok (a, x) ∧
      b = { m.tileTurn e y with tlb := b.tlb, dtlb := b.dtlb } ∧ Mach.Wrote 96 b a ∧ a.mem = pokeMem m.mem l.key w.bytes := by
  have hr0 := (m.mapsAs_tileTurn e y).engReach hr hl
  obtain ⟨b, hb⟩ : ∃ b : Mach, b = { m.tileTurn e y with tlb := m1.tlb, dtlb := m1.dtlb } := ⟨_, rfl⟩
  rw [← hb] at hr0
  obtain ⟨hwrote, hmem⟩ := Mach.engWrite_wrote (m := b) (by rw [hb]; exact hw) (.inl hl)
    (frontOwner_of_space (by rw [Mach.engReach_place hr hl]; decide)) e y.cmd (bs := w.bytes) (by omega)
  have hst : (m.seenStream y).store = true := hs
  refine ⟨_, (b.engWrite e y.cmd l w.bytes).2, b, ?_, by rw [hb], hwrote, by rw [hmem, hb]; rfl⟩
  simp only [Mach.streamWrite, hst, if_true, accWrite]
  rw [show (m.seenStream y).cmd = y.cmd from rfl, hr0]
  rfl

/-- A load stream's write of a word to its ring. -/
theorem Mach.streamWrite_load (hs : y.store = false) (hcore : y.cmd.core = 0) :
    ∃ a x, (m.tileTurn e y).streamWrite e (m.seenStream y) w = .ok (a, x) ∧ Mach.Wrote 96 (m.tileTurn e y) a ∧
      a.mem = pokeMem m.mem (actKey 0 w.dst.toNat) w.bytes := by
  obtain ⟨b, hb⟩ : ∃ b, b = m.tileTurn e y := ⟨_, rfl⟩
  obtain ⟨hwrote, hmem⟩ := Mach.engWrite_wrote (m := b) (by rw [hb]; exact hw) (l := ringLoc 0 w.dst.toNat) (.inr ⟨_, rfl⟩)
    (frontOwner_of_space (by decide : (3 : Nat) ≠ 1)) e y.cmd (bs := w.bytes) (by omega)
  have hst : (m.seenStream y).store = false := hs
  rw [← hb]
  refine ⟨_, (b.engWrite e y.cmd (ringLoc 0 w.dst.toNat) w.bytes).2, ?_, hwrote, by rw [hmem, hb]; rfl⟩
  simp only [Mach.streamWrite, hst, Bool.false_eq_true, if_false]
  rw [show (m.seenStream y).cmd = y.cmd from rfl, hcore]

end

/-- The four counters of a load stream, as its descriptor holds them (R293). -/
def Stream.counterBytes (y : Stream) : List Byte := leBytes y.pushed 4 ++ leBytes y.used 4 ++ leBytes y.timely 4 ++ leBytes y.demanded 4

theorem Stream.counterBytes_length (y : Stream) : y.counterBytes.length = 16 := by simp [Stream.counterBytes]

/-- A stream that has moved its tiles writes its counters, stores its mailbox and leaves its engine (R295). -/
theorem Mach.streamEnd_ends {m : Mach} (hw : ∀ t ∈ m.tasks, t.watchEn = false) {e : EngRef} {y : Stream} (hy : (m.eng e).streams = [y])
    (hg : m.streamGoes e y = true) (hk : y.count ≤ y.k) (hroom : (m.ctx y.cmd.ctx).silt.room 192 = true) (hby : y.cmd.bySched = false)
    (hs : m.hasStruck y.cmd.ctx (engParty e) y.cmd.gid = false) {l : Loc} {m1 : Mach}
    (hr : m.engReach e y.cmd (y.cmd.src + 0x30) 16 2 = .ok (l, m1)) (hl : l.home = .hbm) : ∃ a, m.streamEnd e 0 = a ∧
      a.t = m.t ∧ a.errs = m.errs ∧ a.mem = pokeMem m.mem l.key y.counterBytes ∧ (a.eng e).streams = [] ∧
      (Tab.look {} (a.eng e).mail y.cmd.ctx).status = 0 := by
  have hm1 := Mach.engReach_frame hr hl
  obtain ⟨hwrote, hmem⟩ := Mach.engWrite_wrote (m := m1) (by rw [hm1]; exact hw) (.inl hl)
    (frontOwner_of_space (by rw [Mach.engReach_place hr hl]; decide)) e y.cmd (bs := y.counterBytes) (by rw [y.counterBytes_length]; omega)
  have hcount : m.writeCounters e y = .ok (m1.engWrite e y.cmd l y.counterBytes) := by
    simp only [Mach.writeCounters, accWrite, hr]
    rfl
  obtain ⟨⟨b, x⟩, hbx⟩ : ∃ p, p = m1.engWrite e y.cmd l y.counterBytes := ⟨_, rfl⟩
  rw [← hbx] at hwrote hmem hcount
  dsimp only at hwrote hmem
  have hstreams : (b.eng e).streams = [y] := by
    rw [hwrote.eng, Mach.eng_of_engines (by rw [hm1])]
    exact hy
  obtain ⟨b1, hb1⟩ : ∃ b1, b1 = (b.setStream e 0 fun t => { t with ext := t.ext || x }).dropStream e 0 := ⟨_, rfl⟩
  have hframe : b1 = { b with engines := b1.engines } := by rw [hb1]; rfl
  have hgone : (b1.eng e).streams = [] := by
    rw [hb1, Mach.dropStream, Mach.eng_setEng_same, Mach.streams_setStream hstreams]
    rfl
  have hend := Mach.endsOp_endOp b1 e hby 0 (BitVec.allOnes 64) (y.ext || x)
  have hstruck : (b.setStream e 0 fun t => { t with ext := t.ext || x }).hasStruck y.cmd.ctx (engParty e) y.cmd.gid = false := by
    rw [Mach.hasStruck_setStream, hwrote.hasStruck, hm1]
    exact hs
  have hcond : ¬ (y.k < y.count ∨ ¬ m.streamGoes e y = true) := by simp [hg, hk]
  obtain ⟨a, ha⟩ : ∃ a, a = b1.endOp e y.cmd 0 (BitVec.allOnes 64) (y.ext || x) := ⟨_, rfl⟩
  rw [← ha] at hend
  have hkeep : m.orHold y.cmd.ctx a = a := by
    refine Mach.orHold_eq (n := 96 + 32) ((?_ : Ctx.Logs 96 _ (b1.ctx y.cmd.ctx)).trans (hend.ctx _)) (Silt.room_mono hroom (by decide))
    have hctx : m1.ctx y.cmd.ctx = m.ctx y.cmd.ctx := Mach.ctx_of_ctxs (by rw [hm1]) _
    rw [Mach.ctx_of_ctxs (by rw [hframe] : b1.ctxs = b.ctxs), ← hctx]
    exact hwrote.ctx _
  refine ⟨a, ?_, ?_, ?_, ?_, hend.streams.trans hgone, ?_⟩
  · unfold Mach.streamEnd
    simp only [hy, List.getElem?_cons_zero, if_neg hcond, hcount, hstruck, Bool.false_eq_true, if_false]
    rw [← hb1, ← ha, hkeep]
  · rw [hend.frame, hframe, hwrote.frame, hm1]
  · rw [hend.frame, hframe, hwrote.frame, hm1]
  · rw [hend.frame, hframe, hmem, hm1]
  · rw [hend.mail]

theorem Mach.streamGoes_iff {m : Mach} {e : EngRef} {y : Stream} : m.streamGoes e y = true ↔
    (y.cmd.ctx ∉ (m.eng e).stopped ∧ (m.ctx y.cmd.ctx).halt.line = false ∧ (m.ctx y.cmd.ctx).killed = false) ∧ y.waiting = none ∧
      y.failed = none := by
  simp only [Mach.streamGoes, Mach.engRuns, Bool.and_eq_true, Bool.not_eq_true', List.contains_eq_mem, decide_eq_false_iff_not,
    Option.isNone_iff_eq_none, and_assoc]

theorem Mach.tileReady_iff {m : Mach} {y : Stream} (ht : y.tile = 64) (hk : y.k < y.count) (hcore : y.cmd.core = 0) :
    m.tileReady y = true ↔ if y.store then y.k < max y.seen (m.word (m.frontKey 0 y.done))
      else y.k < max y.seen (m.word (m.frontKey 0 y.done)) + y.ringSize / 64 := by
  have hdone : m.doneOf y = max y.seen (m.word (m.frontKey 0 y.done)) := by rw [Mach.doneOf, hcore]
  rw [Mach.tileReady, hdone, Stream.slots, ht, decide_eq_true hk, Bool.true_and]
  split
  · exact decide_eq_true_iff
  · exact decide_eq_true_iff

/-- The bytes of a moved word and of the barrier credited after it. -/
theorem byte_of_pokes {m m1 : Mach} {k bar : Nat} {bs cs : List Byte} (hbs : bs.length = 8) (hcs : cs.length = 12)
    (h : m1.mem = pokeMem (pokeMem m.mem k bs) bar cs) (hfar : k + 8 ≤ bar ∨ bar + 12 ≤ k) :
    (∀ i, i < 8 → m1.byte (k + i) = bs.getD i 0) ∧
      ∀ j, (j < k ∨ k + 8 ≤ j) → (j < bar ∨ bar + 16 ≤ j) → m1.byte j = m.byte j := by
  refine ⟨fun i hi => ?_, fun j hj hj1 => ?_⟩
  · rw [Mach.byte, h, look_pokeMem, if_neg (by omega), look_pokeMem, if_pos (by omega), Nat.add_sub_cancel_left]
  · rw [Mach.byte, h, look_pokeMem, if_neg (by omega), look_pokeMem, if_neg (by omega), ← Mach.byte]

/-- A word outside the scratchpads is not in a core's barriers. -/
theorem far_from_barrier (m : Mach) {off k : Nat} (hoff : off ≤ 0xFFF0) (hk : k < 2 ^ 52 - 64 ∨ 2 * 2 ^ 52 ≤ k) :
    k + 8 ≤ m.frontKey 0 off ∨ m.frontKey 0 off + 12 ≤ k := by
  simp only [Mach.frontKey, scratchKey, spaceBase]
  split
  · omega
  · omega

theorem exec_streamTile {s : State} {e : EngRef} {y : Stream} {m1 : Mach} (hm : s.m.streamTile e 0 y.store = m1) (herr : m1.errs = []) :
    (if y.store then exec (.streamTileStore e 0) s else exec (.streamTileLoad e 0) s) = .next { s with m := m1 } := by
  split
  · next hs => exact exec_quiet (f := (·.streamTile e 0 true)) rfl (hs ▸ hm) herr
  · next hs => exact exec_quiet (f := (·.streamTile e 0 false)) rfl (Bool.eq_false_iff.mpr hs ▸ hm) herr

theorem leNat_append : ∀ a b : List Byte, leNat (a ++ b) = leNat a + 256 ^ a.length * leNat b
  | [], b => by simp [leNat]
  | x :: a, b => by
    simp only [List.cons_append, leNat, leNat_append a b, List.length_cons, Nat.pow_succ]
    ring

section
variable {s : State} {cl : Nat} {o : EOp} (herr : s.m.errs = []) (ha : (s.m.eng (copyEng cl)).active = some o)
  (hg : s.m.opGoes (copyEng cl) o = true) {k : Nat} (hop : o.cmd.opc = 7) (hk : k < 64) (hc : o.bitmap.getLsbD k = false)
  (hbelow : ∀ j, j < k → o.bitmap.getLsbD j = true)
  (hq : (Tab.look [] (s.m.mtx (clusterOf o.cmd.core)).metaq (coreIdx o.cmd.core)).length < 64) {l : Loc} {m1 : Mach}
  (hr : s.m.engReach (copyEng cl) o.cmd (o.cmd.src + BitVec.ofNat 64 (16 * k + 8 * o.held.length)) 8 1 = .ok (l, m1)) (hl : l.home = .hbm)
include herr ha hg hop hk hc hbelow hq hr hl

/-- The first word of an entry is held (18 R335). -/
theorem exec_metadataPush_first (hh : o.held = []) : ∃ s1, exec (.metadataPush cl) s = .next s1 ∧
    (s1.m.t = s.m.t ∧ s1.sys = s.sys ∧ s1.m.mem = s.m.mem) ∧ s1.m.matrix = s.m.matrix ∧
    (s1.m.eng (copyEng cl)).active = some { o with held := [⟨16 * k, 0, s.m.peek l.key 8⟩] } := by
  have hm := (Mach.metadataPush_eq ha hg hop hk hc hbelow hq hr hl).1 hh
  have hm1 := Mach.engReach_frame hr hl
  refine ⟨_, exec_quiet (f := (·.metadataPush cl)) rfl hm ?_, ⟨?_, rfl, ?_⟩, ?_, ?_⟩
  · exact (by rw [hm1] : m1.errs = s.m.errs).trans herr
  · exact (by rw [hm1] : m1.t = s.m.t)
  · exact (by rw [hm1] : m1.mem = s.m.mem)
  · exact (by rw [hm1] : m1.matrix = s.m.matrix)
  · rw [Mach.active_setOp, Mach.eng_of_engines (by rw [hm1] : m1.engines = s.m.engines), ha]
    rfl

/-- The second word of an entry lets it enter the queue (18 R335). -/
theorem exec_metadataPush_second {w : EWord} (hh : o.held = [w]) (hw : w.bytes.length = 8) : ∃ s1, exec (.metadataPush cl) s = .next s1 ∧
    (s1.m.t = s.m.t ∧ s1.sys = s.sys ∧ s1.m.mem = s.m.mem) ∧
    Tab.look [] (s1.m.mtx (clusterOf o.cmd.core)).metaq (coreIdx o.cmd.core) =
      Tab.look [] (s.m.mtx (clusterOf o.cmd.core)).metaq (coreIdx o.cmd.core) ++ [leNat w.bytes + 2 ^ 64 * s.m.number l.key 8] ∧
    (s1.m.eng (copyEng cl)).active = some { o with held := [], bitmap := o.bitmap ||| BitVec.ofNat 64 (2 ^ k) } := by
  have hm := (Mach.metadataPush_eq ha hg hop hk hc hbelow hq hr hl).2 w [] hh
  have hm1 := Mach.engReach_frame hr hl
  refine ⟨_, exec_quiet (f := (·.metadataPush cl)) rfl hm ?_, ⟨?_, rfl, ?_⟩, ?_, ?_⟩
  · exact (by rw [hm1] : m1.errs = s.m.errs).trans herr
  · exact (by rw [hm1] : m1.t = s.m.t)
  · exact (by rw [hm1] : m1.mem = s.m.mem)
  · rw [Mach.mtx_setOp, Mach.mtx_setMtx_same, Mach.mtx_of_matrix (by rw [hm1] : m1.matrix = s.m.matrix)]
    simp only [Tab.upd, Tab.look_put, if_true, leNat_append, hw, leNat_peek]
    norm_num
  · rw [Mach.active_setOp]
    show Option.map _ (m1.eng _).active = _
    rw [Mach.eng_of_engines (by rw [hm1] : m1.engines = s.m.engines), ha]
    rfl

end

/-- The next word of a stream's tile is read, from the ring or from global memory (R294). -/
theorem exec_streamTile_reads {s : State} {e : EngRef} {y : Stream} (herr : s.m.errs = []) (hy : (s.m.eng e).streams = [y])
    (hg : s.m.streamGoes e y = true) (hr : s.m.tileReady y = true) (htile : y.tile = 64) (hcheck : y.check = false) (hcore : y.cmd.core = 0)
    (hh : y.held = []) (hmv : y.moved < 64) {l : Loc} {m1 : Mach} (hreach : y.store = false →
      s.m.engReach e y.cmd (y.nextVa + BitVec.ofNat 64 y.moved) 8 1 = .ok (l, m1) ∧ l.home = .hbm) :
    ∃ s1, (if y.store then exec (.streamTileStore e 0) s else exec (.streamTileLoad e 0) s) = .next s1 ∧
      (s1.m.t = s.m.t ∧ s1.sys = s.sys ∧ s1.m.mem = s.m.mem) ∧ (s1.m.eng e).streams = [{ y with
        seen := s.m.doneOf y, moved := y.moved + 8
        held := [if y.store then ⟨y.moved, y.nextVa + BitVec.ofNat 64 y.moved, s.m.peek (accKey 0 (y.nextRing + y.moved)) 8⟩
          else ⟨y.moved, BitVec.ofNat 64 (y.nextRing + y.moved), s.m.peek l.key 8⟩] }] := by
  obtain ⟨w, hw⟩ : ∃ w : EWord, w = if y.store then ⟨y.moved, y.nextVa + BitVec.ofNat 64 y.moved, s.m.peek (accKey 0 (y.nextRing + y.moved)) 8⟩
    else ⟨y.moved, BitVec.ofNat 64 (y.nextRing + y.moved), s.m.peek l.key 8⟩ := ⟨_, rfl⟩
  obtain ⟨a, hread, ha⟩ : ∃ a, (s.m.tileTurn e y).streamRead e (s.m.seenStream y) y.moved = .ok (w, a) ∧
      a = { s.m.tileTurn e y with tlb := a.tlb, dtlb := a.dtlb } := by
    cases hs : y.store with
    | true =>
      rw [hs, if_pos rfl] at hw
      exact ⟨_, (Mach.streamRead_store (s.m.tileTurn e y) e (y := s.m.seenStream y) hs hcheck htile hcore hmv).trans (by rw [hw]; rfl), rfl⟩
    | false =>
      obtain ⟨hr1, hl⟩ := hreach hs
      rw [hs, if_neg Bool.false_ne_true] at hw
      exact ⟨_, (Mach.streamRead_load (y := s.m.seenStream y) hs hcheck htile hmv ((s.m.mapsAs_tileTurn e y).engReach hr1 hl) hl).trans
        (by rw [hw]; rfl), rfl⟩
  have hfr : a = { s.m with engines := (s.m.tileTurn e y).engines, free := s.m.free + 1, tlb := a.tlb, dtlb := a.dtlb } := ha
  have hm := Mach.streamTile_reads hy hg hr htile hh hmv hread (by rw [hfr])
  have hstreams : (a.eng e).streams = [s.m.seenStream y] :=
    (congrArg Engine.streams (Mach.eng_of_engines (by rw [hfr]) e)).trans (Mach.streams_tileTurn hy)
  rw [← hw]
  refine ⟨_, exec_streamTile hm ?_, ⟨?_, rfl, ?_⟩, ?_⟩
  · exact (by rw [hfr] : a.errs = s.m.errs).trans herr
  · exact (by rw [hfr] : a.t = s.m.t)
  · exact (by rw [hfr] : a.mem = s.m.mem)
  · rw [Mach.streams_setStream hstreams, Mach.seenStream, hh]
    rfl

/-- The last word of a stream's tile is written, and the tile credited (R294). -/
theorem exec_streamTile_writes {s : State} {e : EngRef} {y : Stream} {w : EWord} (herr : s.m.errs = [])
    (hwatch : ∀ t ∈ s.m.tasks, t.watchEn = false) (hu : s.m.unwaited) (hgbars : ∀ k, Tab.look [] s.m.gbars k = [])
    (hlast : y.LastWord s.m e w) (hw8 : w.bytes.length = 8) (hbar16 : y.barrier ≤ 0xFFF0) {l : Loc} {m1 : Mach} (hreach : y.store = true →
      s.m.engReach e y.cmd w.dst 8 2 = .ok (l, m1) ∧ l.home = .hbm ∧ l.key < 2 ^ 52 - 64) :
    ∃ s1, (if y.store then exec (.streamTileStore e 0) s else exec (.streamTileLoad e 0) s) = .next s1 ∧ s1.m.t = s.m.t ∧
      (s1.m.eng e).streams.map (·.k) = [y.k + 1] ∧
      (∀ i, i < 8 → s1.m.byte ((if y.store then l.key else actKey 0 w.dst.toNat) + i) = w.bytes.getD i 0) ∧
      ∀ j, (j < (if y.store then l.key else actKey 0 w.dst.toNat) ∨ (if y.store then l.key else actKey 0 w.dst.toNat) + 8 ≤ j) →
        (j < s.m.frontKey 0 y.barrier ∨ s.m.frontKey 0 y.barrier + 16 ≤ j) → s1.m.byte j = s.m.byte j := by
  obtain ⟨k, hk⟩ : ∃ k, k = if y.store then l.key else actKey 0 w.dst.toNat := ⟨_, rfl⟩
  rw [← hk]
  obtain ⟨a, x, b, hwrite, hb, hwrote, hmem, hfar⟩ : ∃ a x b, (s.m.tileTurn e y).streamWrite e (s.m.seenStream y) w = .ok (a, x) ∧
      b = { s.m.tileTurn e y with tlb := b.tlb, dtlb := b.dtlb } ∧ Mach.Wrote 96 b a ∧ a.mem = pokeMem s.m.mem k w.bytes ∧
      (k < 2 ^ 52 - 64 ∨ 2 * 2 ^ 52 ≤ k) := by
    cases hs : y.store with
    | true =>
      obtain ⟨hr2, hl, hkey⟩ := hreach hs
      rw [hs, if_pos rfl] at hk
      obtain ⟨a, x, b, hwrite, hb, hwrote, hmem⟩ := Mach.streamWrite_store hwatch hw8 hs hr2 hl
      exact ⟨a, x, b, hwrite, hb, hwrote, hk ▸ hmem, .inl (hk ▸ hkey)⟩
    | false =>
      rw [hs, if_neg Bool.false_ne_true] at hk
      obtain ⟨a, x, hwrite, hwrote, hmem⟩ := Mach.streamWrite_load hwatch hw8 hs hlast.core (e := e)
      exact ⟨a, x, _, hwrite, rfl, hwrote, hk ▸ hmem, .inr (by rw [hk]; unfold actKey spaceBase; omega)⟩
  obtain ⟨m2, hm2, ht, herrs, hk1, bs, hbs, hmem2⟩ := hlast.streamTile hb hwrote hwatch hu hgbars hwrite hmem
  obtain ⟨hin, hout⟩ := byte_of_pokes hw8 hbs hmem2 (far_from_barrier s.m hbar16 hfar)
  exact ⟨_, exec_streamTile hm2 (herrs.trans herr), ht, hk1, hin, hout⟩

/-- Settles O43: each event by what its unit reads or writes next. -/
theorem loadsAndStreams : Obligations.LoadsAndStreams := by
  intro s cl e herr hrest copy still runs slot
  have hwatch := hrest.unwatched
  refine ⟨fun o ha hruns hwait hfail => ?_, fun y hy hruns hwait hfail hcheck htile hk hroom hcore hready hgbars hbar hbar16 hstruck => ?_,
    fun y l m1 hy hruns hwait hfail hk hroom hby hstruck hr hl hsp => ?ended⟩
  · have hg : s.m.opGoes (copyEng cl) o = true := Mach.opGoes_iff.mpr ⟨hruns, hwait, hfail⟩
    refine ⟨fun hop hr => ?load, fun hop hr hb hnb => ?done, ?metadata⟩
    case load =>
      obtain ⟨m1, hm1, hframe, hslots⟩ := Mach.kaolinLoad_spec ha hg hop hr
      exact ⟨_, exec_quiet (f := (·.kaolinLoad cl)) rfl hm1 (by rw [hframe]; exact herr), ⟨(by rw [hframe] : m1.t = s.m.t), rfl,
        (by rw [hframe] : m1.mem = s.m.mem)⟩, hslots⟩
    case done =>
      obtain ⟨m1, hm1, hframe, hslots⟩ := Mach.kaolinDone_spec ha hg hop hr hb hnb
      exact ⟨_, exec_quiet (f := (·.kaolinDone cl)) rfl hm1 (by rw [hframe]; exact herr), ⟨(by rw [hframe] : m1.t = s.m.t), rfl,
        (by rw [hframe] : m1.mem = s.m.mem)⟩, hslots⟩
    case metadata =>
      intro k hop hk hc hbelow q reads hq
      refine ⟨fun l hh hrd => ?_, fun l w hh hw8 hrd => ?_⟩
      · obtain ⟨hl, m1, hr⟩ := hrd
        obtain ⟨s1, hs1, hstill, hmatrix, hactive⟩ := exec_metadataPush_first herr ha hg hop hk hc hbelow hq (by rw [hh]; exact hr) hl hh
        refine ⟨s1, hs1, hstill, ?_, hactive⟩
        exact congrArg (fun x : Matrix => Tab.look [] x.metaq (o.cmd.core % 8)) (Mach.mtx_of_matrix hmatrix _)
      · obtain ⟨hl, m1, hr⟩ := hrd
        exact exec_metadataPush_second herr ha hg hop hk hc hbelow hq (by rw [hh]; exact hr) hl hh hw8
  · intro done ring va bar moves hgoes
    have hg : s.m.streamGoes e y = true := Mach.streamGoes_iff.mpr ⟨hruns, hwait, hfail⟩
    have hr : s.m.tileReady y = true := (Mach.tileReady_iff htile hk hcore).mpr hgoes
    have hdone : s.m.doneOf y = done := by rw [Mach.doneOf, hcore]
    refine ⟨fun l m1 hh hmv hreach => ?reads, fun l m1 w hh hw8 hmv hreach => ?writes⟩
    case reads =>
      obtain ⟨s1, hs1, hstill, hstreams⟩ := exec_streamTile_reads herr hy hg hr htile hcheck hcore hh hmv hreach
      rw [hdone] at hstreams
      exact ⟨s1, hs1, hstill, hstreams⟩
    case writes =>
      have hu : s.m.unwaited := fun t ht v => by
        rcases List.mem_cons.mp ht with rfl | ht
        · rw [hready]
          exact nofun
        · intro hp
          have := (hrest.others t ht).2
          rw [Task.inWait, hp] at this
          exact absurd this Bool.noConfusion
      have hlast : y.LastWord s.m e w := ⟨hy, hg, hr, htile, hh, hmv, hcore, hroom, hstruck⟩
      exact exec_streamTile_writes herr hwatch hu hgbars hlast hw8 hbar16 fun hs => ⟨(hreach hs).1, (hreach hs).2.1, (hreach hs).2.2.2⟩
  case ended =>
    obtain ⟨a, ha, ht, herrs, hmem, hstreams, hmail⟩ := Mach.streamEnd_ends hwatch hy (Mach.streamGoes_iff.mpr ⟨hruns, hwait, hfail⟩) hk hroom
      hby hstruck hr hl
    have hst := storedAt_of_pokeMem hmem
    rw [y.counterBytes_length] at hst
    exact ⟨_, exec_quiet (f := (·.streamEnd e 0)) rfl ha (herrs.trans herr), ht, hstreams, hmail, hst⟩

end Sys2Proof.Machine
end

section
/-! PROOFS. O40: the events of a matrix unit. -/

namespace Sys2Proof.Machine

/-! ### One unit changed (13 R245 to R250) -/

/-- m1 is m but for the matrix unit of one cluster. -/
structure Mach.OnlyUnit (cl : Nat) (m m1 : Mach) : Prop where
  frame : m1 = { m with matrix := m1.matrix }
  mtx : ∀ j, j ≠ cl → m1.mtx j = m.mtx j

theorem Mach.onlyUnit_setMtx (m : Mach) (cl : Nat) (f : Matrix → Matrix) : Mach.OnlyUnit cl m (m.setMtx cl f) :=
  ⟨rfl, fun j hj => (m.mtx_setMtx cl j f).trans (if_neg hj)⟩

theorem Mach.OnlyUnit.trans {cl : Nat} {m m1 m2 : Mach} (h : Mach.OnlyUnit cl m m1) (h1 : Mach.OnlyUnit cl m1 m2) : Mach.OnlyUnit cl m m2 :=
  ⟨by rw [h1.frame, h.frame], fun j hj => (h1.mtx j hj).trans (h.mtx j hj)⟩

section
variable {cl : Nat} {m m1 : Mach} (h : Mach.OnlyUnit cl m m1)
include h

theorem Mach.OnlyUnit.t : m1.t = m.t := by rw [h.frame]
theorem Mach.OnlyUnit.errs : m1.errs = m.errs := by rw [h.frame]
theorem Mach.OnlyUnit.mem : m1.mem = m.mem := by rw [h.frame]
theorem Mach.OnlyUnit.ctxs : m1.ctxs = m.ctxs := by rw [h.frame]
theorem Mach.OnlyUnit.find (g : Gid) : m1.find g = m.find g := by rw [h.frame]; rfl

end

section
variable {cl i : Nat} (hi : i < 8)
include hi

theorem clusterOf_core : clusterOf (8 * cl + i) = cl := by unfold clusterOf; omega

theorem coreIdx_core : coreIdx (8 * cl + i) = i := by unfold coreIdx; omega

theorem Mach.mqueue_core (m : Mach) : m.mqueue (8 * cl + i) = Tab.look [] (m.mtx cl).queues i := by
  rw [Mach.mqueue, clusterOf_core hi, coreIdx_core hi]

theorem Mach.tile_core (m : Mach) (q : Nat) : m.tile (8 * cl + i) q = Tab.look {} (m.mtx cl).tiles (2 * i + q) := by
  rw [Mach.tile, tileKey, clusterOf_core hi, coreIdx_core hi]

theorem Mach.setQueue_core (m : Mach) (f : List QEnt → List QEnt) : m.setQueue (8 * cl + i) f =
    m.setMtx cl fun x => { x with queues := Tab.upd [] x.queues i f } := by
  rw [Mach.setQueue, clusterOf_core hi, coreIdx_core hi]

theorem Mach.setTile_core (m : Mach) (q : Nat) (f : MTile → MTile) : m.setTile (8 * cl + i) q f =
    m.setMtx cl fun x => { x with tiles := Tab.upd {} x.tiles (2 * i + q) f } := by
  rw [Mach.setTile, tileKey, clusterOf_core hi, coreIdx_core hi]

/-- A queue without MZEROs that are due stays as it is (R250, R261). -/
theorem Mach.applyZeros_core {m : Mach} (h : dueZeros [] (m.mqueue (8 * cl + i)) = ([], m.mqueue (8 * cl + i))) :
    m.applyZeros (8 * cl + i) = m.setMtx cl fun x => { x with queues := Tab.upd [] x.queues i fun _ => m.mqueue (8 * cl + i) } := by
  unfold Mach.applyZeros
  rw [h, ← Mach.setQueue_core hi]
  rfl

/-- The last command of a queue leaves it (R250). -/
theorem Mach.leaveQueue_last {m : Mach} {e : QEnt} (hq : m.mqueue (8 * cl + i) = [e]) (hf : (m.find e.gid).isSome = true) :
    ∃ m1, m.leaveQueue (8 * cl + i) e = m1 ∧ Mach.OnlyUnit cl m m1 ∧ m1.mqueue (8 * cl + i) = [] ∧
      ∃ l, m1.mtx cl = { m.mtx cl with queues := l } := by
  have hempty : (m.setQueue (8 * cl + i) fun l => l.erase e).mqueue (8 * cl + i) = [] := by
    rw [Mach.mqueue_core hi, Mach.setQueue_core hi, Mach.mtx_setMtx_same]
    simp only [Tab.upd, Tab.look_put, if_true]
    rw [← Mach.mqueue_core hi, hq]
    simp
  have hzeros := Mach.applyZeros_core hi (m := m.setQueue (8 * cl + i) fun l => l.erase e) (by rw [hempty]; rfl)
  have hfind : (((m.setQueue (8 * cl + i) fun l => l.erase e).applyZeros (8 * cl + i)).find e.gid).isSome = true := by
    rw [hzeros, Mach.setQueue_core hi]
    exact hf
  refine ⟨_, if_pos hfind, ?_, ?_, ?_⟩
  · rw [hzeros, Mach.setQueue_core hi]
    exact (m.onlyUnit_setMtx cl _).trans (Mach.onlyUnit_setMtx _ cl _)
  · rw [hzeros, Mach.mqueue_core hi, Mach.mtx_setMtx_same]
    simp only [Tab.upd, Tab.look_put, if_true]
    exact hempty
  · rw [hzeros, Mach.mtx_setMtx_same, Mach.setQueue_core hi, Mach.mtx_setMtx_same]
    exact ⟨_, rfl⟩

end

/-! ### Feeds and starts (R251 to R253, R257) -/

theorem Mach.mtxRuns_iff {m : Mach} {cl c : Nat} : m.mtxRuns cl c = true ↔
    c ∉ (m.mtx cl).stopped ∧ (m.ctx c).halt.line = false ∧ (m.ctx c).killed = false := by
  simp only [Mach.mtxRuns, Bool.and_eq_true, Bool.not_eq_true', List.contains_eq_mem, decide_eq_false_iff_not, and_assoc]

section
variable {m : Mach} {cl i : Nat} (hi : i < 8) {e : QEnt} {sparse : Bool} {q a slot : Nat} {w : Blk} {ha hb : List Hdr} {rest : List QEnt}
  (hrun : (m.mtx cl).run = none) (hgoes : m.mtxRuns cl (ctxOf e.gid) = true) (hq : Tab.look [] (m.mtx cl).queues i = e :: rest)
  (he : e.cmd = .mop sparse q a slot w ha hb)

/-- Block k of the operation's A tile is not in its core's row buffer. -/
def Mach.lacks (m : Mach) (cl i : Nat) (sparse : Bool) (e : QEnt) (k : Nat) : Prop :=
  k < mopBlocks sparse ∧ Tab.look [] (blocksHeld (Tab.look none (m.mtx cl).rows i) e) k = []

include hrun hgoes hq he

theorem Mach.feeding_head : m.feeding cl i = some (e, a, (List.range (mopBlocks sparse)).filter fun k =>
    (Tab.look [] (blocksHeld (Tab.look none (m.mtx cl).rows i) e) k).isEmpty) := by
  simp only [Mach.feeding, hq, he, hgoes, hrun, Option.any_none, Bool.not_true, Bool.or_self, Bool.false_eq_true, if_false]

include hi in
/-- A block that the first core to be fed lacks is read into its row buffer (R253). -/
theorem Mach.feedNext_head (hbefore : ∀ j, j < i → m.feeding cl j = none) (hl : ∃ k, m.lacks cl i sparse e k) :
    ∃ k, m.lacks cl i sparse e k ∧ m.feedNext cl = some (m.feedBlock cl i e a k) := by
  obtain ⟨blocks, hblocks⟩ : ∃ l, l = (List.range (mopBlocks sparse)).filter fun k =>
    (Tab.look [] (blocksHeld (Tab.look none (m.mtx cl).rows i) e) k).isEmpty := ⟨_, rfl⟩
  have hmem : ∀ k, k ∈ blocks ↔ m.lacks cl i sparse e k := fun k => by simp [hblocks, Mach.lacks]
  have hfeed := Mach.feeding_head hrun hgoes hq he
  rw [← hblocks] at hfeed
  cases hb : blocks with
  | nil =>
    obtain ⟨k, hk⟩ := hl
    rw [← hmem, hb] at hk
    exact absurd hk List.not_mem_nil
  | cons k ks =>
    rw [hb] at hfeed
    refine ⟨(k :: ks).getD (Config.feedNext m.free % (ks.length + 1)) k, ?_, ?_⟩
    · rw [← hmem, hb]
      have hlt : Config.feedNext m.free % (ks.length + 1) < (k :: ks).length := Nat.mod_lt _ (Nat.succ_pos _)
      rw [List.getD_eq_getElem _ _ hlt]
      exact List.getElem_mem hlt
    · have hsplit : List.range 8 = List.range i ++ i :: (List.range (7 - i)).map (i + 1 + ·) := by
        rw [show 8 = i + (1 + (7 - i)) by omega, List.range_add, List.range_add]
        simp [Function.comp_def, Nat.add_assoc]
      unfold Mach.feedNext
      rw [List.findSome?_eq_some_iff]
      refine ⟨List.range i, i, _, hsplit, by simp only [hfeed], fun j hj => ?_⟩
      simp only [hbefore j (List.mem_range.mp hj)]

omit hrun in
theorem Mach.walkHeads_head {u : Nat} (hu : u < (m.mtx cl).weight i (ctxOf e.gid)) (n : Nat) : m.walkHeads cl i u (n + 1) =
    (i, u, if sparse && decide ((Tab.look [] (m.mtx cl).metaq i).length < metaNeed w) then .stall e else .start e) := by
  have hhead : m.headOf cl i u = if sparse && decide ((Tab.look [] (m.mtx cl).metaq i).length < metaNeed w) then .stall e else .start e := by
    simp only [Mach.headOf, hq, he, hgoes, decide_eq_false (Nat.not_le.mpr hu), Bool.not_true, Bool.or_self, Bool.false_eq_true, if_false]
  rw [Mach.walkHeads, hhead]
  by_cases hs : (sparse && decide ((Tab.look [] (m.mtx cl).metaq i).length < metaNeed w)) = true
  · simp only [hs, if_true]
  · rw [if_neg hs]

section
variable (hfed : m.feedNext cl = none) (hvisit : (m.mtx cl).visit = i) (hu : (m.mtx cl).used < (m.mtx cl).weight i (ctxOf e.gid))
include hfed hvisit hu

/-- The arbiter waits for the metadata that an operation lacks (R257). -/
theorem Mach.tileOpStart_stalls (hlack : (Tab.look [] (m.mtx cl).metaq i).length < if sparse then metaNeed w else 0) : m.tileOpStart cl =
    m.setMtx cl fun y => { y with visit := i, used := (m.mtx cl).used, stalledAt := some (y.stalledAt.getD m.cycle) } := by
  have hs : (sparse && decide ((Tab.look [] (m.mtx cl).metaq i).length < metaNeed w)) = true := by
    cases sparse with
    | true => simpa using hlack
    | false => exact absurd hlack (Nat.not_lt_zero _)
  have hwalk := Mach.walkHeads_head hgoes hq he hu 8
  rw [hs] at hwalk
  unfold Mach.tileOpStart
  simp only [hfed, hrun, hvisit, hwalk, Option.isSome_none, Bool.false_eq_true, if_false, if_true]

omit hrun hfed in
/-- After 2^20 cycles the wait for metadata is a fault of the unit (R257). -/
theorem Mach.metaTimeout_faults (hlack : (Tab.look [] (m.mtx cl).metaq i).length < if sparse then metaNeed w else 0) {at_ : Nat}
    (hst : (m.mtx cl).stalledAt = some at_) (hlate : at_ + 2 ^ 20 ≤ m.cycle) : ∃ r, m.metaTimeout cl =
      (m.setMtx cl fun y => { y with stalledAt := none }).unitFault (ctxOf e.gid) (.matrix cl) e.op 0 r := by
  have hs : (sparse && decide ((Tab.look [] (m.mtx cl).metaq i).length < metaNeed w)) = true := by
    cases sparse with
    | true => simpa using hlack
    | false => exact absurd hlack (Nat.not_lt_zero _)
  have hwalk := Mach.walkHeads_head hgoes hq he hu 8
  rw [hs] at hwalk
  have hnow : ¬ m.cycle < at_ + 1048576 := Nat.not_lt.mpr hlate
  unfold Mach.metaTimeout
  simp only [hst, hnow, hvisit, hwalk, if_true, if_false]
  exact ⟨_, rfl⟩

/-- The arbiter starts the operation (R251, R252). -/
theorem Mach.tileOpStart_starts (hhas : (if sparse then metaNeed w else 0) ≤ (Tab.look [] (m.mtx cl).metaq i).length) : m.tileOpStart cl =
    (m.setMtx cl fun y => { y with visit := i, used := (m.mtx cl).used + 1, stalledAt := none }).startOp cl i e := by
  have hs : (sparse && decide ((Tab.look [] (m.mtx cl).metaq i).length < metaNeed w)) = false := by
    cases sparse with
    | true => simpa using hhas
    | false => rfl
  have hwalk := Mach.walkHeads_head hgoes hq he hu 8
  rw [hs] at hwalk
  unfold Mach.tileOpStart
  simp only [hfed, hrun, hvisit, hwalk, Option.isSome_none, Bool.false_eq_true, if_false]

end

end

/-- The payload that a row buffer broadcasts (R253). -/
def rowData : Option RowBuf → List Byte
  | some r => r.bytes
  | none => []

/-- An operation started: it runs with its row buffer's payload and the metadata popped, and its bound term is added (R204, R252). -/
structure Mach.OpStarts (cl i q : Nat) (e : QEnt) (data : List Byte) (metas : List Nat) (grow : MTile → MTile) (m m1 : Mach) : Prop where
  only : Mach.OnlyUnit cl m m1
  run : (m1.mtx cl).run = some ⟨8 * cl + i, e, data, metas⟩
  rows : Tab.look none (m1.mtx cl).rows i = none
  metaq : Tab.look [] (m1.mtx cl).metaq i = (Tab.look [] (m.mtx cl).metaq i).drop metas.length
  queues : (m1.mtx cl).queues = (m.mtx cl).queues
  used : (m1.mtx cl).used = (m.mtx cl).used
  tile : m1.tile (8 * cl + i) q = grow (m.tile (8 * cl + i) q)

theorem Mach.opStarts_startOp (m : Mach) {cl i : Nat} (hi : i < 8) {e : QEnt} {sparse : Bool} {q a slot : Nat} {w : Blk} {ha hb : List Hdr}
    (he : e.cmd = .mop sparse q a slot w ha hb) {metas : List Nat}
    (hm : metas = if sparse then (Tab.look [] (m.mtx cl).metaq i).take (metaNeed w) else []) :
    Mach.OpStarts cl i q e (rowData (Tab.look none (m.mtx cl).rows i)) metas
      (fun t => if sparse then t.grown (sparseTerm t.e0 w metas ha hb) else t) m (m.startOp cl i e) := by
  obtain ⟨m1, hm1⟩ : ∃ m1, m1 = m.setMtx cl fun x => { x with
      metaq := Tab.upd [] x.metaq i (·.drop metas.length)
      rows := Tab.put none x.rows i none
      run := some ⟨8 * cl + i, e, rowData (Tab.look none (m.mtx cl).rows i), metas⟩ } := ⟨_, rfl⟩
  have hx : m1.mtx cl = { m.mtx cl with
      metaq := Tab.upd [] (m.mtx cl).metaq i (·.drop metas.length)
      rows := Tab.put none (m.mtx cl).rows i none
      run := some ⟨8 * cl + i, e, rowData (Tab.look none (m.mtx cl).rows i), metas⟩ } := by rw [hm1, Mach.mtx_setMtx_same]
  have honly : Mach.OnlyUnit cl m m1 := hm1 ▸ m.onlyUnit_setMtx cl _
  have hstart : m.startOp cl i e = if sparse then m1.setTile (8 * cl + i) q fun t => t.grown (sparseTerm t.e0 w metas ha hb) else m1 := by
    simp only [Mach.startOp, he, hm1, hm]
    rfl
  rw [hstart]
  cases sparse with
  | true =>
    rw [if_pos rfl, Mach.setTile_core hi]
    refine ⟨honly.trans (m1.onlyUnit_setMtx cl _), ?_, ?_, ?_, ?_, ?_, ?_⟩
    · rw [Mach.mtx_setMtx_same, hx]
    · rw [Mach.mtx_setMtx_same, hx]
      simp only [Tab.look_put, if_true]
    · rw [Mach.mtx_setMtx_same, hx]
      simp only [Tab.upd, Tab.look_put, if_true]
    · rw [Mach.mtx_setMtx_same, hx]
    · rw [Mach.mtx_setMtx_same, hx]
    · rw [Mach.tile_core hi, Mach.tile_core hi, Mach.mtx_setMtx_same, hx]
      simp only [Tab.upd, Tab.look_put, if_true]
  | false =>
    rw [if_neg Bool.false_ne_true]
    refine ⟨honly, ?_, ?_, ?_, ?_, ?_, ?_⟩
    · rw [hx]
    · rw [hx]
      simp only [Tab.look_put, if_true]
    · rw [hx]
      simp only [Tab.upd, Tab.look_put, if_true]
    · rw [hx]
    · rw [hx]
    · rw [Mach.tile_core hi, Mach.tile_core hi, hx]
      simp only [Bool.false_eq_true, if_false]

/-- A row buffer with block k of an operation's A tile. -/
def rowWith (e : QEnt) (k : Nat) (bs : List Byte) (r : Option RowBuf) : RowBuf := ⟨e, Tab.put [] (blocksHeld r e) k bs⟩

/-- A block read into a core's row buffer (R253). -/
theorem Mach.feedBlock_spec (m : Mach) (cl i : Nat) (e : QEnt) (a k : Nat) : ∃ m1 r, m.feedBlock cl i e a k = m1 ∧ m1.t = m.t ∧
    m1.errs = m.errs ∧ m1.mem = m.mem ∧ (∀ j, j ≠ cl → m1.mtx j = m.mtx j) ∧ (m1.mtx cl).run = (m.mtx cl).run ∧
    (m1.mtx cl).queues = (m.mtx cl).queues ∧ Tab.look none (m1.mtx cl).rows i = some r ∧ r.ent = e ∧
    ∀ j, Tab.look [] r.blocks j = if j = k then m.peek (actKey (8 * cl + i) (a + 64 * k)) 64
      else Tab.look [] (blocksHeld (Tab.look none (m.mtx cl).rows i) e) j := by
  obtain ⟨m0, hm0⟩ : ∃ m0, m0 = m.noteAct (8 * cl + i) (a + 64 * k) 64 := ⟨_, rfl⟩
  have hframe : m0 = { m with engines := m0.engines } := by rw [hm0]; rfl
  have hmtx : ∀ j, m0.mtx j = m.mtx j := Mach.mtx_of_matrix (by rw [hframe])
  obtain ⟨bs, hbs⟩ : ∃ bs, bs = m.peek (actKey (8 * cl + i) (a + 64 * k)) 64 := ⟨_, rfl⟩
  obtain ⟨m1, hm1⟩ : ∃ m1, m1 = m0.setMtx cl fun x => { x with rows := Tab.upd none x.rows i fun r => some (rowWith e k bs r) } := ⟨_, rfl⟩
  have honly : Mach.OnlyUnit cl m0 m1 := hm1 ▸ m0.onlyUnit_setMtx cl _
  have hx : m1.mtx cl = { m.mtx cl with
      rows := Tab.put none (m.mtx cl).rows i (some (rowWith e k bs (Tab.look none (m.mtx cl).rows i))) } := by
    rw [hm1, Mach.mtx_setMtx_same, hmtx]
    rfl
  have hfeed : m.feedBlock cl i e a k = { m1 with free := m1.free + 1 } := by
    unfold Mach.feedBlock
    rw [hm1, hm0, hbs]
    rfl
  refine ⟨_, rowWith e k bs (Tab.look none (m.mtx cl).rows i), hfeed, ?_, ?_, ?_, fun j hj => ?_, ?_, ?_, ?_, ?_, fun j => ?_⟩
  · exact honly.t.trans (by rw [hframe])
  · exact honly.errs.trans (by rw [hframe])
  · exact honly.mem.trans (by rw [hframe])
  · exact (honly.mtx j hj).trans (hmtx j)
  · exact (by rw [hx] : (m1.mtx cl).run = (m.mtx cl).run)
  · exact (by rw [hx] : (m1.mtx cl).queues = (m.mtx cl).queues)
  · exact (congrArg (fun x : Matrix => Tab.look none x.rows i) hx).trans (by simp only [Tab.look_put, if_true])
  · rfl
  · rw [← hbs]
    simp only [rowWith, Tab.look_put]

/-! ### Ends (R252, R258, R262) -/

theorem MTile.addOp_keeps (t : MTile) (w : Blk) (sparse : Bool) (metas : List Nat) (ha hb : List Hdr) (ad bd : List Nat) :
    (t.addOp w sparse metas ha hb ad bd).holder = t.holder ∧ (t.addOp w sparse metas ha hb ad bd).e0 = t.e0 ∧
      (t.addOp w sparse metas ha hb ad bd).bound = t.bound ∧ (t.addOp w sparse metas ha hb ad bd).ops = (t.ops + 1) % 65536 := by
  unfold MTile.addOp
  split
  · exact ⟨rfl, rfl, rfl, rfl⟩
  · exact ⟨rfl, rfl, rfl, rfl⟩

/-- An operation that is final enters its tile and leaves its queue (R252, R262). -/
theorem Mach.tileOpFinal_spec {m : Mach} {cl i : Nat} (hi : i < 8) {r : MRun} {e : QEnt} {sparse : Bool} {q a slot : Nat} {w : Blk}
    {ha hb : List Hdr} (hrun : (m.mtx cl).run = some r) (hcore : r.core = 8 * cl + i) (hent : r.ent = e)
    (he : e.cmd = .mop sparse q a slot w ha hb) (hf : (m.find e.gid).isSome = true) (hq : m.mqueue (8 * cl + i) = [e]) :
    ∃ m1, m.tileOpFinal cl = m1 ∧ Mach.OnlyUnit cl m m1 ∧ (m1.mtx cl).run = none ∧ m1.mqueue (8 * cl + i) = [] ∧
      m1.tile (8 * cl + i) q = (m.tile (8 * cl + i) q).addOp w sparse r.metas ha hb ((blocksOf r.adata (mopBlocks sparse)).map payloadOf)
        ((blocksOf (m.peek (kaolinKey cl (8192 * slot)) 8192) 128).map payloadOf) := by
  obtain ⟨f, hfun⟩ : ∃ f : MTile → MTile, f = fun t => t.addOp w sparse r.metas ha hb ((blocksOf r.adata (mopBlocks sparse)).map payloadOf)
    ((blocksOf (m.peek (kaolinKey cl (8192 * slot)) 8192) 128).map payloadOf) := ⟨_, rfl⟩
  obtain ⟨m0, hm0⟩ : ∃ m0, m0 = m.setMtx cl fun x =>
    { x with run := none, finished := Tab.upd 0 x.finished (ctxOf e.gid) (· + 1) } := ⟨_, rfl⟩
  obtain ⟨m1, hm1⟩ : ∃ m1, m1 = m0.setTile (8 * cl + i) q f := ⟨_, rfl⟩
  have hfinal : m.tileOpFinal cl = m1.leaveQueue (8 * cl + i) e := by
    unfold Mach.tileOpFinal
    simp only [hrun, hent, he, hcore, hm1, hm0, hfun]
  have honly : Mach.OnlyUnit cl m m1 := by
    rw [hm1, Mach.setTile_core hi, hm0]
    exact (m.onlyUnit_setMtx cl _).trans (Mach.onlyUnit_setMtx _ cl _)
  have hx : (m1.mtx cl).run = none ∧ (m1.mtx cl).queues = (m.mtx cl).queues ∧
      (m1.mtx cl).tiles = Tab.upd {} (m.mtx cl).tiles (2 * i + q) f := by
    rw [hm1, Mach.setTile_core hi, Mach.mtx_setMtx_same, hm0, Mach.mtx_setMtx_same]
    exact ⟨rfl, rfl, rfl⟩
  obtain ⟨hnone, hqueues, htiles⟩ := hx
  have hqueue : m1.mqueue (8 * cl + i) = [e] := by
    rw [Mach.mqueue_core hi, hqueues, ← Mach.mqueue_core hi]
    exact hq
  obtain ⟨m2, hm2, honly2, hempty, l, hl⟩ := Mach.leaveQueue_last hi hqueue (by rw [honly.find]; exact hf)
  refine ⟨m2, hfinal.trans hm2, honly.trans honly2, ?_, hempty, ?_⟩
  · rw [hl]
    exact hnone
  · rw [Mach.tile_core hi, hl, Mach.tile_core hi]
    show Tab.look {} (m1.mtx cl).tiles _ = _
    rw [htiles]
    simp only [Tab.upd, Tab.look_put, if_true, hfun]

/-! ### Conversions (R249, R263) -/

theorem pokeMem_append : ∀ (a b : List Byte) (mem : Tab Byte) (k : Nat), pokeMem mem k (a ++ b) = pokeMem (pokeMem mem k a) (k + a.length) b
  | [], _, _, _ => rfl
  | x :: a, b, mem, k => by
    simp only [List.cons_append, pokeMem, pokeMem_append a b, List.length_cons]
    rw [show k + 1 + a.length = k + (a.length + 1) by omega]

theorem blocksOf_spec : ∀ (n : Nat) (bs : List Byte), bs.length = 64 * n → (blocksOf bs n).flatten = bs ∧
    (blocksOf bs n).length = n ∧ ∀ b ∈ blocksOf bs n, b.length = 64
  | 0, bs, h => ⟨(List.eq_nil_of_length_eq_zero h).symm, rfl, by simp [blocksOf]⟩
  | n + 1, bs, h => by
    obtain ⟨hflat, hlen, hall⟩ := blocksOf_spec n (bs.drop 64) (by rw [List.length_drop]; omega)
    refine ⟨?_, ?_, fun b hb => ?_⟩
    · rw [blocksOf, List.flatten_cons, hflat, List.take_append_drop]
    · rw [blocksOf, List.length_cons, hlen]
    · rcases List.mem_cons.mp hb with rfl | hb
      · rw [List.length_take]
        omega
      · exact hall b hb

/-- Blocks written to an accumulator buffer stand there in order (R249). -/
theorem Mach.writeAcc_wrote (g : Gid) (core : Nat) : ∀ (l : List (List Byte)) (a : Nat) (m : Mach), (∀ t ∈ m.tasks, t.watchEn = false) →
    (∀ b ∈ l, b.length = 64) → Mach.Wrote (96 * l.length) m (m.writeAcc g core a l) ∧
      (m.writeAcc g core a l).mem = pokeMem m.mem (accKey core a) l.flatten
  | [], _, m, _, _ => ⟨(Mach.Logs.refl m).wrote, rfl⟩
  | b :: r, a, m, hw, hl => by
    obtain ⟨hlb, hlr⟩ := List.forall_mem_cons.mp hl
    obtain ⟨hwrote, hmem⟩ := Mach.write_wrote hw
      (l := ⟨accKey core a, BitVec.ofNat 64 (core * 2 ^ 20 + a), .cluster (clusterOf core), 4, false, false, none⟩) (.inr ⟨_, rfl⟩)
      (frontOwner_of_space (by decide : (4 : Nat) ≠ 1)) g (mtxParty (clusterOf core)) (bs := b) (by omega)
    rw [Mach.writeAcc]
    generalize m.write g (mtxParty (clusterOf core)) _ b = m1 at hwrote hmem
    have htasks : m1.tasks = m.tasks := by rw [hwrote.frame]; rfl
    obtain ⟨hwrote1, hmem1⟩ := Mach.writeAcc_wrote g core r (a + 64) m1 (by rw [htasks]; exact hw) hlr
    refine ⟨?_, ?_⟩
    · rw [List.length_cons, show 96 * (r.length + 1) = 96 + 96 * r.length by ring]
      exact hwrote.trans hwrote1
    · rw [hmem1, hmem, List.flatten_cons, pokeMem_append, hlb]
      rfl

theorem convColumn_length (f : McFmt) (c : FCtx) (t : MTile) (ac : Bool) (n : Nat) (old : List Byte) :
    (convColumn f c t ac n old).1.length = 32 * (mcFmt f).2 := by
  unfold convColumn
  generalize mcFmt f = p
  obtain ⟨fm, k⟩ := p
  simp only [List.length_flatMap, leBytes_length, List.map_const', List.length_map, List.length_range, List.sum_replicate, smul_eq_mul]

section
variable {m : Mach} {cl i : Nat} (hi : i < 8) {e : QEnt} (hq : m.mqueue (8 * cl + i) = [e]) (hf : (m.find e.gid).isSome = true)
include hi hq hf

/-- A conversion's column written: its count of columns goes on, or it leaves the queue after its last (R263). -/
def Mach.columnDone (m : Mach) (core : Nat) (e : QEnt) : Mach :=
  if e.cols < 127 then m.setEnt core e { e with cols := e.cols + 1 } else m.leaveQueue core e

theorem Mach.columnDone_spec : ∃ m1, m.columnDone (8 * cl + i) e = m1 ∧ Mach.OnlyUnit cl m m1 ∧
    m1.mqueue (8 * cl + i) = if e.cols < 127 then [{ e with cols := e.cols + 1 }] else [] := by
  unfold Mach.columnDone
  split
  · refine ⟨_, rfl, ?_, ?_⟩
    · rw [Mach.setEnt, Mach.setQueue_core hi]
      exact m.onlyUnit_setMtx cl _
    · rw [Mach.setEnt, Mach.setQueue_core hi, Mach.mqueue_core hi, Mach.mtx_setMtx_same]
      simp only [Tab.upd, Tab.look_put, if_true]
      rw [← Mach.mqueue_core hi, hq]
      simp
  · obtain ⟨m1, hm1, honly, hempty, -⟩ := Mach.leaveQueue_last hi hq hf
    exact ⟨m1, hm1, honly, hempty⟩

end

section
variable {m : Mach} {cl i : Nat} (hi : i < 8) {e : QEnt} (hq : m.mqueue (8 * cl + i) = [e]) (hgoes : m.mtxRuns cl (ctxOf e.gid) = true)
include hi hq hgoes

/-- The next column of the conversion at a queue's head is written (R263). -/
theorem Mach.mconvComplete_spec {q a : Nat} {f : McFmt} {ac : Bool} {rnd : Rnd} {fl : Bool} (he : e.cmd = .mconv q a f ac rnd fl)
    (hs : m.stalled cl = false) (hf : (m.find e.gid).isSome = true) (hr : (m.ctx (ctxOf e.gid)).silt.room 192 = true)
    (hw : ∀ t ∈ m.tasks, t.watchEn = false) {n : Nat} (hn : n = 32 * (mcFmt f).2) : ∃ m1, m.mconvComplete (8 * cl + i) = m1 ∧
      m1.errs = m.errs ∧ m1.mqueue (8 * cl + i) = (if e.cols < 127 then [{ e with cols := e.cols + 1 }] else []) ∧
      m.storedAt m1 (accKey (8 * cl + i) (a + n * e.cols)) n (fun b => ((convColumn f { rnd := rnd, flush := fl } (m.tile (8 * cl + i) q) ac
        e.cols (m.peek (accKey (8 * cl + i) (a + n * e.cols)) n)).1).getD b 0) := by
  obtain ⟨p, hp⟩ : ∃ p, p = convColumn f { rnd := rnd, flush := fl } (m.tile (8 * cl + i) q) ac e.cols
    (m.peek (accKey (8 * cl + i) (a + n * e.cols)) n) := ⟨_, rfl⟩
  have hlen : p.1.length = n := by rw [hp, convColumn_length, hn]
  have h64 : n = 64 * (n / 64) ∧ n / 64 ≤ 2 := by
    cases f with
    | f32 => rw [hn]; decide
    | bf16 => rw [hn]; decide
  obtain ⟨hflat, hcount, hall⟩ := blocksOf_spec (n / 64) p.1 (by rw [hlen]; exact h64.1)
  obtain ⟨hwrote, hmem⟩ := Mach.writeAcc_wrote e.gid (8 * cl + i) (blocksOf p.1 (n / 64)) (a + n * e.cols) m hw hall
  rw [hflat] at hmem
  rw [hcount] at hwrote
  obtain ⟨m1, hm1⟩ : ∃ m1, m1 = m.writeAcc e.gid (8 * cl + i) (a + n * e.cols) (blocksOf p.1 (n / 64)) := ⟨_, rfl⟩
  rw [← hm1] at hwrote hmem
  obtain ⟨m2, hm2⟩ : ∃ m2, m2 = m1.setTile (8 * cl + i) q (·.flagged p.2) := ⟨_, rfl⟩
  have honly : Mach.OnlyUnit cl m1 m2 := by
    rw [hm2, Mach.setTile_core hi]
    exact m1.onlyUnit_setMtx cl _
  have hq2 : m2.mqueue (8 * cl + i) = [e] := by
    rw [hm2, Mach.setTile_core hi, Mach.mqueue_core hi, Mach.mtx_setMtx_same]
    show Tab.look [] (m1.mtx cl).queues i = _
    rw [Mach.mtx_of_matrix hwrote.matrix, ← Mach.mqueue_core hi]
    exact hq
  have hf2 : (m2.find e.gid).isSome = true := by
    rw [honly.find, hwrote.frame]
    exact hf
  obtain ⟨m3, hm3, honly3, hq3⟩ := Mach.columnDone_spec hi hq2 hf2
  have hhead : m.headConv (8 * cl + i) = some (e, q, a, f, ac, { rnd := rnd, flush := fl }) := by
    unfold Mach.headConv
    simp only [hq, he, clusterOf_core hi, hgoes, hs, Bool.not_false, Bool.and_self, if_true]
  have hkeep : m.orHold (ctxOf e.gid) m3 = m3 := by
    have hctx : Ctx.Logs (96 * (n / 64)) (m.ctx (ctxOf e.gid)) (m3.ctx (ctxOf e.gid)) := by
      rw [Mach.ctx_of_ctxs (honly3.ctxs.trans honly.ctxs)]
      exact hwrote.ctx _
    exact Mach.orHold_eq (hctx.mono (by omega : _ ≤ 192)) hr
  refine ⟨m3, ?_, ?_, hq3, ?_⟩
  · unfold Mach.mconvComplete
    simp only [hhead, ← hn, ← hp]
    rw [← hm1, ← hm2]
    exact (congrArg _ hm3).trans hkeep
  · rw [honly3.errs, honly.errs, hwrote.errs]
  · have hst := storedAt_of_pokeMem ((honly3.mem.trans honly.mem).trans hmem)
    rw [hlen] at hst
    rw [← hp]
    exact hst

end

/-! ### Schedules (R267, R268) -/

/-- A command put before the running schedule that issued it (R268). -/
def beforeSched (z : QEnt) (l : List QEnt) : List QEnt :=
  l.takeWhile (fun x => x.cmd.tile.isSome) ++ z :: l.dropWhile (fun x => x.cmd.tile.isSome)

theorem beforeSched_msched {e : QEnt} {y : Sched} (he : e.cmd = .msched y) (z : QEnt) : beforeSched z [e] = [z, e] := by
  have htile : e.cmd.tile.isSome = false := by rw [he]; rfl
  simp [beforeSched, htile]

/-- A command put into a queue, at its tail or before the running schedule that issued it (R250, R268). -/
def putCmd (bySched : Bool) (z : QEnt) (l : List QEnt) : List QEnt := if bySched then beforeSched z l else l ++ [z]

/-- An MZERO with no command before it in a queue that takes effect there at once. -/
structure ZeroFirst (q : Nat) (z : Int) (bySched : Bool) (l : List QEnt) : Prop where
  put : ∀ x, putCmd bySched x l = x :: l
  due : ∀ x : QEnt, x.cmd = .mzero q z → dueZeros [] (x :: l) = ([(q, z)], l)
  terms : ∀ e0, queuedTerms q e0 l = []

theorem zeroFirst_nil (q : Nat) (z : Int) : ZeroFirst q z false [] :=
  ⟨fun _ => rfl, fun x hx => by simp [dueZeros, hx], fun _ => rfl⟩

theorem zeroFirst_msched {e : QEnt} {y : Sched} (he : e.cmd = .msched y) (q : Nat) (z : Int) : ZeroFirst q z true [e] :=
  ⟨fun x => beforeSched_msched he x, fun x hx => by simp [dueZeros, hx, he], fun _ => by simp [queuedTerms, he]⟩

section
variable {m : Mach} {cl i : Nat} (hi : i < 8) {q : Nat} {z : Int} {bySched : Bool} {l : List QEnt} (hq : m.mqueue (8 * cl + i) = l)
  (hz : ZeroFirst q z bySched l)
include hi hq hz

/-- An MZERO with nothing before it takes effect at once (R250, R261). -/
theorem Mach.enqueueZero_spec (g : Gid) (r : Option Nat) (op : Nat) : ∃ m1,
    m.enqueueCmd (8 * cl + i) g r op bySched (.mzero q z) = m1 ∧ m1 = { m with order := m1.order, matrix := m1.matrix } ∧
    m1.mqueue (8 * cl + i) = l ∧ m1.tile (8 * cl + i) q = MTile.zeroed { m.tile (8 * cl + i) q with lastQ := m.order + 1 } z := by
  obtain ⟨z1, hz1⟩ : ∃ z1 : QEnt, z1 = { gid := g, rec_ := r, op := op, reach := m.tick.order, bySched := bySched, cmd := .mzero q z } :=
    ⟨_, rfl⟩
  have hdue := hz.due z1 (by rw [hz1])
  obtain ⟨m2, hm2⟩ : ∃ m2, m2 = (m.tick.setQueue (8 * cl + i) (putCmd bySched z1)).setTile (8 * cl + i) q
    fun t => { t with lastQ := m.tick.order } := ⟨_, rfl⟩
  have hx : m2.mtx cl = { m.mtx cl with
      queues := Tab.upd [] (m.mtx cl).queues i (putCmd bySched z1)
      tiles := Tab.upd {} (m.mtx cl).tiles (2 * i + q) fun t => { t with lastQ := m.order + 1 } } := by
    rw [hm2, Mach.setTile_core hi, Mach.setQueue_core hi, Mach.mtx_setMtx_same, Mach.mtx_setMtx_same]
    rfl
  have hq2 : m2.mqueue (8 * cl + i) = z1 :: l := by
    rw [Mach.mqueue_core hi, hx]
    simp only [Tab.upd, Tab.look_put, if_true]
    rw [← Mach.mqueue_core hi, hq, hz.put]
  have henq : m.enqueueCmd (8 * cl + i) g r op bySched (.mzero q z) = m2.applyZeros (8 * cl + i) := by
    rw [hm2, hz1]
    rfl
  obtain ⟨m3, hm3⟩ : ∃ m3, m3 = (m2.setQueue (8 * cl + i) fun _ => l).setTile (8 * cl + i) q (·.zeroed z) := ⟨_, rfl⟩
  have hzeros : m2.applyZeros (8 * cl + i) = m3.setTile (8 * cl + i) q fun t => (queuedTerms q t.e0 l).foldl MTile.grown t := by
    unfold Mach.applyZeros
    rw [hq2, hdue, hm3]
    rfl
  obtain ⟨m4, hm4⟩ : ∃ m4, m4 = m2.applyZeros (8 * cl + i) := ⟨_, rfl⟩
  have honly : Mach.OnlyUnit cl m.tick m4 := by
    rw [hm4, hzeros, hm3, hm2, Mach.setTile_core hi, Mach.setTile_core hi, Mach.setTile_core hi, Mach.setQueue_core hi, Mach.setQueue_core hi]
    exact (((m.tick.onlyUnit_setMtx cl _).trans (Mach.onlyUnit_setMtx _ cl _)).trans (Mach.onlyUnit_setMtx _ cl _)).trans
      ((Mach.onlyUnit_setMtx _ cl _).trans (Mach.onlyUnit_setMtx _ cl _))
  have hx4 : (m4.mtx cl).queues = Tab.upd [] (m2.mtx cl).queues i (fun _ => l) ∧
      (m4.mtx cl).tiles = Tab.upd {} (Tab.upd {} (m2.mtx cl).tiles (2 * i + q) (·.zeroed z)) (2 * i + q)
        fun t => (queuedTerms q t.e0 l).foldl MTile.grown t := by
    rw [hm4, hzeros, hm3, Mach.setTile_core hi, Mach.setTile_core hi, Mach.setQueue_core hi, Mach.mtx_setMtx_same, Mach.mtx_setMtx_same,
      Mach.mtx_setMtx_same]
    exact ⟨rfl, rfl⟩
  obtain ⟨hqueues, htiles⟩ := hx4
  refine ⟨m4, henq.trans hm4.symm, ?_, ?_, ?_⟩
  · rw [honly.frame]
    rfl
  · rw [Mach.mqueue_core hi, hqueues]
    simp only [Tab.upd, Tab.look_put, if_true]
  · rw [Mach.tile_core hi, htiles, hx]
    simp only [Tab.upd, Tab.look_put, if_true, hz.terms, List.foldl_nil]
    rw [Mach.tile_core hi]

/-- An MZERO on a tile that is free or its task's, with nothing before it (R261). -/
theorem Mach.zeroTile_spec {g : Gid} (hh : (m.tile (8 * cl + i) q).holder = none ∨ (m.tile (8 * cl + i) q).holder = some g)
    (r : Option Nat) (op : Nat) : ∃ (m1 : Mach) (t : MTile),
    m.zeroTile g r (8 * cl + i) q op z bySched = .ok m1 ∧ m1 = { m with order := m1.order, matrix := m1.matrix } ∧
    m1.mqueue (8 * cl + i) = l ∧ m1.tile (8 * cl + i) q = t.zeroed z ∧ t.holder = some g := by
  rcases hh with hh | hh
  · obtain ⟨m0, hm0⟩ : ∃ m0, m0 = m.setTile (8 * cl + i) q (·.live g) := ⟨_, rfl⟩
    have hx : m0.mtx cl = { m.mtx cl with tiles := Tab.upd {} (m.mtx cl).tiles (2 * i + q) (·.live g) } := by
      rw [hm0, Mach.setTile_core hi, Mach.mtx_setMtx_same]
    have hq0 : m0.mqueue (8 * cl + i) = l := by
      rw [Mach.mqueue_core hi, hx, ← hq, Mach.mqueue_core hi]
    have hlive : (m0.tile (8 * cl + i) q).holder = some g := by
      rw [Mach.tile_core hi, hx]
      simp only [Tab.upd, Tab.look_put, if_true]
      rw [← Mach.tile_core hi, MTile.live, hh]
      rfl
    obtain ⟨m1, hm1, hframe, hq1, htile⟩ := Mach.enqueueZero_spec hi hq0 hz g r op
    refine ⟨m1, _, ?_, ?_, hq1, htile, hlive⟩
    · simp only [Mach.zeroTile, hh]
      rw [← hm0, hm1]
    · rw [hframe, hm0]
      rfl
  · obtain ⟨m1, hm1, hframe, hq1, htile⟩ := Mach.enqueueZero_spec hi hq hz g r op
    refine ⟨m1, _, ?_, hframe, hq1, htile, hh⟩
    simp only [Mach.zeroTile, hh, if_true, hm1]

end

section
variable {m : Mach} {cl i : Nat} (hi : i < 8) {e : QEnt} {y : Sched} (hq : m.mqueue (8 * cl + i) = [e]) (he : e.cmd = .msched y)
include hi hq he

variable (hgoes : m.mtxRuns cl (ctxOf e.gid) = true)
include hgoes

theorem Mach.headSched_head : m.headSched (8 * cl + i) = some (e, y) := by
  have hd : ([e].dropWhile fun e => e.bySched && e.cmd.tile.isSome) = [e] := by
    have htile : e.cmd.tile.isSome = false := by rw [he]; rfl
    simp [htile]
  unfold Mach.headSched
  simp only [hq, hd, he, clusterOf_core hi, hgoes, if_true]

/-- The next entry of a schedule is an MZERO (R268). -/
theorem Mach.scheduleEntry_spec (hstart : y.started = true) (hw : m.seqWaits (8 * cl + i) (ctxOf e.gid) = false) (hs : m.stalled cl = false)
    (hn : y.next < y.count) {l : Loc} {m1 : Mach} {q : Nat} {z : Int}
    (hr : m.reach (ctxOf e.gid) (clusterOf (8 * cl + i)) (BitVec.ofNat 64 (y.table + 64 + 16 * y.next)) 16 1 = .ok (l, m1)) (hl : l.inside)
    (hent : schedEntry (m.peek l.key 16) = some (.mzero q z))
    (hh : (m.tile (8 * cl + i) q).holder = none ∨ (m.tile (8 * cl + i) q).holder = some e.gid) :
    ∃ m3, m.scheduleEntry (8 * cl + i) = m3 ∧ m3.errs = m.errs ∧ m3.mem = m.mem ∧
      m3.mqueue (8 * cl + i) = [{ e with cmd := .msched { y with next := y.next + 1 } }] ∧ (m3.tile (8 * cl + i) q).holder = some e.gid ∧
      (m3.tile (8 * cl + i) q).els = [] ∧ (m3.tile (8 * cl + i) q).e0 = z := by
  have hm1 := Mach.reach_frame hr
  have hread : m1.read l 16 = (m.peek l.key 16, m1) := by
    have hpeek : m1.peek l.key 16 = m.peek l.key 16 := by
      rw [hm1]
      rfl
    rcases hl with hl | ⟨c, hl⟩
    · rw [Mach.read, hl, hpeek]
    · rw [Mach.read, hl, hpeek]
  have hmatrix : ∀ j, m1.mtx j = m.mtx j := Mach.mtx_of_matrix (by rw [hm1])
  have hq1 : m1.mqueue (8 * cl + i) = [e] := by rw [Mach.mqueue_core hi, hmatrix, ← Mach.mqueue_core hi, hq]
  have htile : ∀ k, m1.tile (8 * cl + i) k = m.tile (8 * cl + i) k := fun k => by
    rw [Mach.tile_core hi, hmatrix, ← Mach.tile_core hi]
  obtain ⟨m2, u, hm2, hframe, hq2, hzero, hholder⟩ := Mach.zeroTile_spec hi hq1 (zeroFirst_msched he q z) (g := e.gid) (by rw [htile]; exact hh)
    e.rec_ (y.table + 64 + 16 * y.next)
  have hhead := Mach.headSched_head hi hq he hgoes
  have hentry : m.scheduleEntry (8 * cl + i) = m2.setSched (8 * cl + i) e { y with next := y.next + 1 } := by
    have hn1 : ¬ y.count ≤ y.next := Nat.not_le.mpr hn
    unfold Mach.scheduleEntry
    simp only [hhead, hw, clusterOf_core hi, hs, hstart, hn1, Mach.seqRead, accRead, Bool.or_self, Bool.not_true, Bool.false_eq_true, if_false]
    rw [clusterOf_core hi] at hr
    simp only [hr, hread, hent, Mach.runEntry, hm2]
  rw [hentry, Mach.setSched, Mach.setQueue_core hi]
  refine ⟨_, rfl, ?_, ?_, ?_, ?_, ?_, ?_⟩
  · exact (by rw [hframe, hm1] : m2.errs = m.errs)
  · exact (by rw [hframe, hm1] : m2.mem = m.mem)
  · rw [Mach.mqueue_core hi, Mach.mtx_setMtx_same]
    simp only [Tab.upd, Tab.look_put, if_true]
    rw [← Mach.mqueue_core hi, hq2]
    simp
  all_goals rw [Mach.tile_core hi, Mach.mtx_setMtx_same, ← Mach.tile_core hi, hzero]
  · exact hholder
  · rfl
  · rfl

/-- A schedule that has issued its entries and credits nothing leaves its queue (R268). -/
theorem Mach.scheduleEnd_spec (hstart : y.started = true) (hs : m.stalled cl = false) (hn : y.count ≤ y.next) (hc : y.credit = 0)
    (hf : (m.find e.gid).isSome = true) : ∃ m1, m.scheduleEnd (8 * cl + i) = m1 ∧ Mach.OnlyUnit cl m m1 ∧ m1.mqueue (8 * cl + i) = [] := by
  have hhead := Mach.headSched_head hi hq he hgoes
  obtain ⟨m1, hm1, honly, hempty, -⟩ := Mach.leaveQueue_last hi hq hf
  have hdone : m.schedDone (8 * cl + i) = some (e, y) := by
    unfold Mach.schedDone
    simp only [hhead, hq, hstart, hn, and_self, if_true]
  refine ⟨m1, ?_, honly, hempty⟩
  unfold Mach.scheduleEnd
  simp only [hdone, clusterOf_core hi, hs, hc, Bool.false_eq_true, if_false, if_true]
  exact hm1

end

/-! ### The events -/

/-- A unit's event that gives a chip: its task and the system die unchanged, and the other units too. -/
theorem exec_onlyUnit {s : State} {k : Instr} {f : Mach → Mach} {cl : Nat} {m1 : Mach} (herr : s.m.errs = []) (hx : exec k s = eventM f s)
    (hf : f s.m = m1) (h : Mach.OnlyUnit cl s.m m1) : exec k s = .next { s with m := m1 } ∧ (m1.t = s.m.t ∧ s.sys = s.sys ∧
      ∀ j, j ≠ cl → m1.mtx j = s.m.mtx j) ∧ m1.mem = s.m.mem :=
  ⟨exec_quiet hx hf (h.errs.trans herr), ⟨h.t, rfl, h.mtx⟩, h.mem⟩

/-- Settles O40: each event by what it does at the head of its core's queue. -/
theorem matrixUnitEvents : Obligations.MatrixEvents := by
  intro s cl i e herr hi core x c runs others
  have hmod : 8 * cl + i % 8 = core := by rw [Nat.mod_eq_of_lt hi]
  refine ⟨fun sparse q a slot w ha hb rest hrun hruns hq he => ?starts, fun r sparse q a slot w ha hb hrun hcore hent he _ hf hq => ?final,
    fun q a f ac rnd fl hq he _ hruns hs hf hr hw => ?conv, fun y hq he hruns hstart hw hs => ⟨fun hn l m1 q z hreach hl hent hh => ?entry,
      fun hn hc hf => ?ended⟩⟩
  case starts =>
    intro n entries held lacks bound
    have hgoes : s.m.mtxRuns cl (ctxOf e.gid) = true := Mach.mtxRuns_iff.mpr hruns
    have hq0 : Tab.look [] (s.m.mtx cl).queues i = e :: rest := (s.m.mqueue_core hi).symm.trans hq
    have hqueue : ∀ m1 : Mach, (m1.mtx cl).queues = (s.m.mtx cl).queues → m1.mqueue core = e :: rest := fun m1 h1 => by
      rw [Mach.mqueue_core hi, h1]
      exact hq0
    refine ⟨fun hbefore hlack => ?_, fun hfed hvisit hu => ⟨fun hhas => ?_, fun hlack hst => ?_, fun hlack at_ hst hlate => ?_⟩⟩
    · obtain ⟨k, hk, hnext⟩ := Mach.feedNext_head hi hrun hgoes hq0 he hbefore hlack
      obtain ⟨m1, r, hm1, ht, herrs, hmem, hmtx, hrun1, hqueues, hrows, hent, hblocks⟩ := s.m.feedBlock_spec cl i e a k
      have hm : s.m.tileOpStart cl = m1 := by
        unfold Mach.tileOpStart
        simp only [hnext, hm1]
      exact ⟨_, k, r, hk, exec_quiet (f := (·.tileOpStart cl)) rfl hm (herrs.trans herr), ⟨ht, rfl, hmtx⟩, hmem, hrun1.trans hrun,
        hqueue m1 hqueues, hrows, hent, hblocks⟩
    · have hstart := Mach.tileOpStart_starts hrun hgoes hq0 he hfed hvisit hu hhas
      obtain ⟨m0, hm0⟩ : ∃ m0, m0 = s.m.setMtx cl fun y => { y with visit := i, used := (s.m.mtx cl).used + 1, stalledAt := none } := ⟨_, rfl⟩
      have honly : Mach.OnlyUnit cl s.m m0 := hm0 ▸ s.m.onlyUnit_setMtx cl _
      have hused : (m0.mtx cl).used = x.used + 1 := by rw [hm0, Mach.mtx_setMtx_same]
      have hmetaq : (m0.mtx cl).metaq = x.metaq := by rw [hm0, Mach.mtx_setMtx_same]
      have hrows : (m0.mtx cl).rows = x.rows := by rw [hm0, Mach.mtx_setMtx_same]
      have hqueues : (m0.mtx cl).queues = x.queues := by rw [hm0, Mach.mtx_setMtx_same]
      have htile : m0.tile core q = s.m.tile core q := by
        rw [Mach.tile_core hi, Mach.tile_core hi, hm0, Mach.mtx_setMtx_same]
      have hmetas : entries.take n = if sparse then (Tab.look [] (m0.mtx cl).metaq i).take (metaNeed w) else [] := by
        rw [hmetaq]
        cases sparse with
        | true => rfl
        | false => rfl
      have hop := Mach.opStarts_startOp m0 hi he hmetas
      rw [← hm0] at hstart
      generalize m0.startOp cl i e = m1 at hstart hop
      obtain ⟨hexec, hothers, hmem⟩ := exec_onlyUnit (k := .tileOpStart cl) (f := (·.tileOpStart cl)) herr rfl hstart (honly.trans hop.only)
      refine ⟨_, hexec, hothers, hmem, ?_, hop.rows, ?_, hop.used.trans hused, hqueue m1 (hop.queues.trans hqueues), ?_⟩
      · rw [hop.run, hrows]
        cases hr : Tab.look none x.rows i with
        | none => rfl
        | some r => rfl
      · rw [hop.metaq, hmetaq, List.length_take, Nat.min_eq_left hhas]
      · show (m1.tile core q).bound = _
        rw [hop.tile, htile]
        cases sparse with
        | true => rfl
        | false => rfl
    · have hm := Mach.tileOpStart_stalls hrun hgoes hq0 he hfed hvisit hu hlack
      obtain ⟨hexec, hothers, hmem⟩ := exec_onlyUnit (k := .tileOpStart cl) (f := (·.tileOpStart cl)) herr rfl hm (s.m.onlyUnit_setMtx cl _)
      refine ⟨_, hexec, hothers, hmem, ?_, ?_, hqueue _ ?_⟩
      · rw [Mach.mtx_setMtx_same]
        exact hrun
      · rw [Mach.mtx_setMtx_same, hst]
        rfl
      · rw [Mach.mtx_setMtx_same]
    · obtain ⟨r, hm⟩ := Mach.metaTimeout_faults hgoes hq0 he hvisit hu hlack hst hlate
      obtain ⟨m0, hm0⟩ : ∃ m0, m0 = s.m.setMtx cl fun y => { y with stalledAt := none } := ⟨_, rfl⟩
      have honly : Mach.OnlyUnit cl s.m m0 := hm0 ▸ s.m.onlyUnit_setMtx cl _
      have hnone : (m0.mtx cl).stalledAt = none := by rw [hm0, Mach.mtx_setMtx_same]
      rw [← hm0] at hm
      have hline := m0.line_unitFault c (.matrix cl) e.op 0 r 0
      have hlogs := m0.sameLogs_unitFault c (.matrix cl) e.op 0 r 0
      generalize m0.unitFault c (.matrix cl) e.op 0 r = m1 at hm hline hlogs
      have herrs : m1.errs = [] := by
        rw [hlogs.frame]
        exact honly.errs.trans herr
      refine ⟨_, exec_quiet (f := (·.metaTimeout cl)) rfl hm herrs, hline, ?_, ?_⟩
      · exact (congrArg Matrix.stalledAt (Mach.mtx_of_matrix (by rw [hlogs.frame] : m1.matrix = m0.matrix) cl)).trans hnone
      · exact (by rw [hlogs.frame] : m1.mem = m0.mem).trans honly.mem
  case final =>
    obtain ⟨m1, hm1, honly, hnone, hempty, htile⟩ := Mach.tileOpFinal_spec hi hrun hcore hent he hf hq
    obtain ⟨hexec, hothers, hmem⟩ := exec_onlyUnit (k := .tileOpFinal cl) (f := (·.tileOpFinal cl)) herr rfl hm1 honly
    obtain ⟨hholder, he0, hbound, hops⟩ := (s.m.tile core q).addOp_keeps w sparse r.metas ha hb
      ((blocksOf r.adata (mopBlocks sparse)).map payloadOf) ((blocksOf (s.m.peek (kaolinKey cl (8192 * slot)) 8192) 128).map payloadOf)
    rw [← htile] at hholder he0 hbound hops
    exact ⟨_, hexec, hothers, hmem, hnone, hempty, hholder, he0, hbound, hops, htile⟩
  case conv =>
    intro n at_
    have hn : n = 32 * (mcFmt f).2 := by
      cases f with
      | f32 => rfl
      | bf16 => rfl
    obtain ⟨m1, hm1, herrs, hqueue, hst⟩ := Mach.mconvComplete_spec hi hq (Mach.mtxRuns_iff.mpr hruns) he hs hf hr hw hn
    exact ⟨_, exec_quiet (f := (·.mconvComplete (8 * cl + i % 8))) rfl (by rw [hmod]; exact hm1) (herrs.trans herr), rfl, hqueue, hst⟩
  case entry =>
    obtain ⟨m3, hm3, herrs, hmem, hqueue, hholder, hels, he0⟩ := Mach.scheduleEntry_spec hi hq he (Mach.mtxRuns_iff.mpr hruns) hstart hw hs hn
      hreach hl hent hh
    exact ⟨_, _, exec_quiet (f := (·.scheduleEntry (8 * cl + i % 8))) rfl (by rw [hmod]; exact hm3) (herrs.trans herr), hmem, hqueue, rfl,
      hholder, hels, he0⟩
  case ended =>
    obtain ⟨m1, hm1, honly, hempty⟩ := Mach.scheduleEnd_spec hi hq he (Mach.mtxRuns_iff.mpr hruns) hstart hs hn hc hf
    obtain ⟨hexec, hothers, hmem⟩ := exec_onlyUnit (k := .scheduleEnd cl i) (f := (·.scheduleEnd (8 * cl + i % 8))) herr rfl
      (by rw [hmod]; exact hm1) honly
    exact ⟨_, hexec, hempty, hmem, hothers⟩

end Sys2Proof.Machine
end

section
/-! PROOFS. O38: the matrix instructions. -/

namespace Sys2Proof.Machine

theorem exists_core (core : Nat) : ∃ cl i, i < 8 ∧ core = 8 * cl + i := ⟨core / 8, core % 8, by omega, by omega⟩

/-! ### One tile or queue changed -/

section
variable {cl i : Nat} (hi : i < 8) (m : Mach)
include hi

theorem Mach.onlyUnit_setTile (q : Nat) (f : MTile → MTile) : Mach.OnlyUnit cl m (m.setTile (8 * cl + i) q f) := by
  rw [Mach.setTile_core hi]
  exact m.onlyUnit_setMtx cl _

theorem Mach.onlyUnit_setQueue (f : List QEnt → List QEnt) : Mach.OnlyUnit cl m (m.setQueue (8 * cl + i) f) := by
  rw [Mach.setQueue_core hi]
  exact m.onlyUnit_setMtx cl _

theorem Mach.tile_setTile (q : Nat) (f : MTile → MTile) (k : Nat) : (m.setTile (8 * cl + i) q f).tile (8 * cl + i) k =
    if k = q then f (m.tile (8 * cl + i) k) else m.tile (8 * cl + i) k := by
  rw [Mach.tile_core hi, Mach.setTile_core hi, Mach.mtx_setMtx_same, Mach.tile_core hi]
  simp only [Tab.upd, Tab.look_put, Nat.add_left_cancel_iff]
  split
  · next h => rw [h]
  · rfl

theorem Mach.mqueue_setTile (q : Nat) (f : MTile → MTile) : (m.setTile (8 * cl + i) q f).mqueue (8 * cl + i) = m.mqueue (8 * cl + i) := by
  rw [Mach.mqueue_core hi, Mach.setTile_core hi, Mach.mtx_setMtx_same, Mach.mqueue_core hi]

theorem Mach.mqueue_setQueue (f : List QEnt → List QEnt) :
    (m.setQueue (8 * cl + i) f).mqueue (8 * cl + i) = f (m.mqueue (8 * cl + i)) := by
  rw [Mach.mqueue_core hi, Mach.setQueue_core hi, Mach.mtx_setMtx_same, Mach.mqueue_core hi]
  simp only [Tab.upd, Tab.look_put, if_true]

theorem Mach.tile_setQueue (f : List QEnt → List QEnt) (k : Nat) : (m.setQueue (8 * cl + i) f).tile (8 * cl + i) k = m.tile (8 * cl + i) k := by
  rw [Mach.tile_core hi, Mach.setQueue_core hi, Mach.mtx_setMtx_same, Mach.tile_core hi]

end

/-! ### A command joins its core's queue (13 R250, R253) -/

/-- A queue without MZEROs keeps its order (R250). -/
theorem dueZeros_counted : ∀ (l seen : List QEnt), (∀ e ∈ l, e.counts = true) → dueZeros seen l = ([], l)
  | [], _, _ => rfl
  | e :: r, seen, h => by
    obtain ⟨he, hr⟩ := List.forall_mem_cons.mp h
    rw [dueZeros]
    split
    · next hc => simp [QEnt.counts, hc] at he
    · rw [dueZeros_counted r _ hr]

theorem Mach.growAt_counted {m : Mach} {core : Nat} (h : ∀ e ∈ m.mqueue core, e.counts = true) {e : QEnt} {q a slot : Nat} {w : Blk}
    {ha hb : List Hdr} (he : e.cmd = .mop false q a slot w ha hb) :
    m.growAt core e = m.setTile core q fun t => t.grown (tileTerm t.e0 w ha hb) := by
  simp only [Mach.growAt, he]
  refine if_neg fun hany => ?_
  obtain ⟨x, hx, hp⟩ := List.any_eq_true.mp hany
  have hc := h x ((List.takeWhile_subset _) hx)
  cases hcmd : x.cmd with
  | mzero k z => simp [QEnt.counts, hcmd] at hc
  | mop => simp [hcmd] at hp
  | mconv => simp [hcmd] at hp
  | msched => simp [hcmd] at hp

/-- What an operation's enqueuing adds to its tile's bound (R204). -/
def MCmd.grows (c : MCmd) (t : MTile) : MTile := match c with
  | .mop false _ _ _ w ha hb => t.grown (tileTerm t.e0 w ha hb)
  | _ => t

/-- A command counts as one of a queue's 16 (R250). -/
def MCmd.counts (c : MCmd) : Bool := match c with
  | .mzero _ _ => false
  | _ => true

/-- The tiles of a core changed by their number, and nothing else. -/
structure Mach.TilesBy (cl i : Nat) (f : Nat → MTile → MTile) (m m1 : Mach) : Prop where
  only : Mach.OnlyUnit cl m m1
  queue : m1.mqueue (8 * cl + i) = m.mqueue (8 * cl + i)
  tile : ∀ k, m1.tile (8 * cl + i) k = f k (m.tile (8 * cl + i) k)

theorem Mach.tilesBy_refl {cl i : Nat} {f : Nat → MTile → MTile} (hf : ∀ k t, f k t = t) (m : Mach) : Mach.TilesBy cl i f m m :=
  ⟨⟨rfl, fun _ _ => rfl⟩, rfl, fun k => (hf k _).symm⟩

theorem Mach.tilesBy_setTile {cl i : Nat} (hi : i < 8) (m : Mach) (q : Nat) (f : MTile → MTile) :
    Mach.TilesBy cl i (fun k t => if k = q then f t else t) m (m.setTile (8 * cl + i) q f) :=
  ⟨Mach.onlyUnit_setTile hi m q f, Mach.mqueue_setTile hi m q f, Mach.tile_setTile hi m q f⟩

/-- The bound of a command's tile grows where it is enqueued (R204). -/
theorem Mach.tilesBy_growAt {m : Mach} {cl i : Nat} (hi : i < 8) {e : QEnt} (h : ∀ x ∈ m.mqueue (8 * cl + i), x.counts = true) :
    Mach.TilesBy cl i (fun k t => if e.cmd.tile = some k then e.cmd.grows t else t) m (m.growAt (8 * cl + i) e) := by
  have hsame : (∀ t, e.cmd.grows t = t) → m.growAt (8 * cl + i) e = m →
      Mach.TilesBy cl i (fun k t => if e.cmd.tile = some k then e.cmd.grows t else t) m (m.growAt (8 * cl + i) e) := fun hg hm => by
    rw [hm]
    exact Mach.tilesBy_refl (fun k t => by rw [hg, ite_self]) m
  cases hcmd : e.cmd with
  | mop sparse q a slot w ha hb =>
    cases sparse with
    | true => exact hcmd ▸ hsame (fun t => by rw [hcmd]; rfl) (by simp only [Mach.growAt, hcmd])
    | false =>
      rw [Mach.growAt_counted h hcmd]
      simp only [MCmd.tile, MCmd.grows, Option.some.injEq, eq_comm (a := q)]
      exact Mach.tilesBy_setTile hi m q _
  | mconv => exact hcmd ▸ hsame (fun t => by rw [hcmd]; rfl) (by simp only [Mach.growAt, hcmd])
  | mzero => exact hcmd ▸ hsame (fun t => by rw [hcmd]; rfl) (by simp only [Mach.growAt, hcmd])
  | msched => exact hcmd ▸ hsame (fun t => by rw [hcmd]; rfl) (by simp only [Mach.growAt, hcmd])

/-- The place of the last command queued on a tile (R265). -/
def Mach.markLast (m : Mach) (core : Nat) (c : MCmd) (now : Nat) : Mach := match c.tile with
  | some q => m.setTile core q fun t => { t with lastQ := now }
  | none => m

theorem Mach.tilesBy_markLast {cl i : Nat} (hi : i < 8) (m : Mach) (c : MCmd) (now : Nat) :
    Mach.TilesBy cl i (fun k t => if c.tile = some k then { t with lastQ := now } else t) m (m.markLast (8 * cl + i) c now) := by
  unfold Mach.markLast
  cases hc : c.tile with
  | none => exact Mach.tilesBy_refl (fun _ _ => if_neg nofun) m
  | some q =>
    simp only [Option.some.injEq, eq_comm (a := q)]
    exact Mach.tilesBy_setTile hi m q _

/-- A command has joined the tail of its core's queue: its tile's bound has grown, and the other tile is as it was. -/
structure Mach.Joined (core : Nat) (e : QEnt) (m m1 : Mach) : Prop where
  frame : m1 = { m with order := m1.order, matrix := m1.matrix }
  queue : m1.mqueue core = m.mqueue core ++ [e]
  bound : ∀ q, (m1.tile core q).bound = if e.cmd.tile = some q then (e.cmd.grows (m.tile core q)).bound else (m.tile core q).bound
  other : ∀ q, e.cmd.tile ≠ some q → m1.tile core q = m.tile core q

theorem Mach.joined_enqueueCmd {m : Mach} {core : Nat} (hq : ∀ e ∈ m.mqueue core, e.counts = true) {c : MCmd} (hc : c.counts = true)
    (g : Gid) (r : Option Nat) (op : Nat) :
    Mach.Joined core ⟨g, r, op, m.order + 1, false, c, 0⟩ m (m.enqueueCmd core g r op false c) := by
  obtain ⟨cl, i, hi, rfl⟩ := exists_core core
  obtain ⟨e, he⟩ : ∃ e : QEnt, e = ⟨g, r, op, m.order + 1, false, c, 0⟩ := ⟨_, rfl⟩
  obtain ⟨l, hl⟩ : ∃ l, l = m.mqueue (8 * cl + i) ++ [e] := ⟨_, rfl⟩
  have hcmd : e.cmd = c := by rw [he]
  have hall : ∀ x ∈ l, x.counts = true := fun x hx => by
    rw [hl] at hx
    rcases List.mem_append.mp hx with hx | hx
    · exact hq x hx
    · rw [List.mem_singleton.mp hx, QEnt.counts, hcmd]
      exact hc
  obtain ⟨m1, hm1⟩ : ∃ m1, m1 = m.tick.setQueue (8 * cl + i) (· ++ [e]) := ⟨_, rfl⟩
  have hq1 : m1.mqueue (8 * cl + i) = l := by
    rw [hm1, Mach.mqueue_setQueue hi, hl]
    rfl
  have ht1 : ∀ k, m1.tile (8 * cl + i) k = m.tile (8 * cl + i) k := fun k => by
    rw [hm1, Mach.tile_setQueue hi]
    rfl
  have ho1 : Mach.OnlyUnit cl m.tick m1 := hm1 ▸ Mach.onlyUnit_setQueue hi _ _
  have h2 := Mach.tilesBy_growAt hi (m := m1) (e := e) (by rw [hq1]; exact hall)
  have h3 := Mach.tilesBy_markLast (cl := cl) hi (m1.growAt (8 * cl + i) e) c m.tick.order
  obtain ⟨m3, hm3⟩ : ∃ m3, m3 = (m1.growAt (8 * cl + i) e).markLast (8 * cl + i) c m.tick.order := ⟨_, rfl⟩
  rw [← hm3] at h3
  have hq3 : m3.mqueue (8 * cl + i) = l := h3.queue.trans (h2.queue.trans hq1)
  have henq : m.enqueueCmd (8 * cl + i) g r op false c = m3.setQueue (8 * cl + i) fun _ => l := by
    have hzeros : m3.applyZeros (8 * cl + i) = m3.setQueue (8 * cl + i) fun _ => l := by
      rw [Mach.applyZeros_core hi (by rw [hq3, dueZeros_counted l [] hall]), hq3, Mach.setQueue_core hi]
    rw [← hzeros, hm3, hm1, he]
    rfl
  have ht3 : ∀ k, (m.enqueueCmd (8 * cl + i) g r op false c).tile (8 * cl + i) k = if c.tile = some k then
      { (if c.tile = some k then c.grows (m.tile (8 * cl + i) k) else m.tile (8 * cl + i) k) with lastQ := m.tick.order }
      else if c.tile = some k then c.grows (m.tile (8 * cl + i) k) else m.tile (8 * cl + i) k := fun k => by
    rw [henq, Mach.tile_setQueue hi, h3.tile, h2.tile, hcmd, ht1]
  rw [← he]
  refine ⟨?_, ?_, fun q => ?_, fun q hne => ?_⟩
  · rw [henq, (Mach.onlyUnit_setQueue hi m3 fun _ => l).frame, h3.only.frame, h2.only.frame, ho1.frame]
    rfl
  · rw [henq, Mach.mqueue_setQueue hi, hl]
  · rw [ht3, hcmd]
    split
    · rfl
    · rfl
  · rw [hcmd] at hne
    rw [ht3, if_neg hne, if_neg hne]

/-! ### The checks of R260 -/

theorem firstHdr_none {p : Hdr → Bool} : ∀ {l : List Hdr} {i : Nat}, (∀ h ∈ l, p h = false) → firstHdr p l i = none
  | [], _, _ => rfl
  | h :: r, i, hl => by
    obtain ⟨hh, hr⟩ := List.forall_mem_cons.mp hl
    rw [firstHdr, hh]
    exact firstHdr_none hr

theorem offsetOk_ok {a : Word} {n lim : Nat} (ha : a.toNat % 64 = 0) (hn : a.toNat + n ≤ lim) : offsetOk a n lim = .ok () := by
  rw [offsetOk, if_neg (not_not.mpr ha), if_neg (Nat.not_lt.mpr hn)]

theorem offsetOk_misaligned {a : Word} {n lim : Nat} (ha : a.toNat % 64 ≠ 0) : offsetOk a n lim = .error (.trap 0x05 a 0) := if_pos ha

theorem Mach.ownsTile_ok {m : Mach} {g : Gid} {core q : Nat} (h : (m.tile core q).holder = some g) : m.ownsTile g core q = .ok () := if_pos h

theorem Mach.ownsTile_error {m : Mach} {g : Gid} {core q : Nat} (h : (m.tile core q).holder ≠ some g) :
    m.ownsTile g core q = .error (tileProt q) := if_neg h

theorem Mach.queueRoom_ok {m : Mach} (hall : ∀ e ∈ m.mqueue m.t.core, e.counts = true) (hlen : (m.mqueue m.t.core).length < 16) :
    m.queueRoom = .ok () := by
  rw [Mach.queueRoom, queueFull, List.filter_eq_self.mpr hall, decide_eq_false (Nat.not_le.mpr hlen)]
  rfl

/-- The checks of a MOP that hold (R260). -/
theorem Mach.checkMop_ok {m : Mach} {g : Gid} {core q : Nat} {sparse : Bool} {w : Blk} {a b pc : Word} (hs : ¬ (sparse = true ∧ w = .s16))
    (hown : (m.tile core q).holder = some g) (ha : a.toNat % 64 = 0) (hn : a.toNat + 64 * mopBlocks sparse ≤ 65536) (hb : b.toNat < 64)
    (hready : (Tab.look {} (m.mtx (clusterOf core)).slots b.toNat).state = .ready)
    (howner : (Tab.look {} (m.mtx (clusterOf core)).slots b.toNat).owner = ctxOf g) {ha' hb' : List Hdr}
    (hha : ha' = (List.range (mopBlocks sparse)).map fun i => m.hdrAt (actKey core (a.toNat + 64 * i)))
    (hhb : hb' = (List.range 128).map fun n => m.hdrAt (kaolinKey (clusterOf core) (8192 * b.toNat + 64 * n)))
    (hmarks : ∀ h ∈ ha', blkMark h.1 = true ∧ blkWidth h.1 = w) (hwidths : ∀ h ∈ hb', blkWidth h.1 = w) :
    m.checkMop g core q sparse w w a b pc = .ok (.mop sparse q a.toNat b.toNat w ha' hb') := by
  have hcombo : ¬ (w ≠ w ∨ (sparse = true ∧ w = .s16)) := by simpa using hs
  have hoff : offsetOk a (if sparse = true then 4096 else 2048) 65536 = .ok () := offsetOk_ok ha (by
    cases sparse with
    | true => exact hn
    | false => exact hn)
  have hslot : m.slotReady (clusterOf core) (ctxOf g) b.toNat = true := by simp [Mach.slotReady, hready, howner]
  have hfa : firstHdr (fun h => !blkMark h.1 || blkWidth h.1 != w) ha' 0 = none := firstHdr_none fun h hh => by simp [hmarks h hh]
  have hfb : firstHdr (fun h => blkWidth h.1 != w) hb' 0 = none := firstHdr_none fun h hh => by simp [hwidths h hh]
  have hblocks : (if sparse = true then 64 else 32) = mopBlocks sparse := rfl
  unfold Mach.checkMop
  simp only [if_neg hcombo, Mach.ownsTile_ok hown, hoff, if_neg (Nat.not_le.mpr hb), hblocks, ← hha, ← hhb, hfa, hslot, hfb, Bool.not_true,
    Bool.false_eq_true, if_false, bind, Except.bind]

section
variable {s : State} {m : Option XMod} {q : Fin 2} {a b : Opnd}

/-- The operands of a matrix instruction read, with room in the queue (R260). -/
structure MatrixReady (s : State) (m : Option XMod) (a b : Opnd) : Prop where
  bounds : s.m.t.bounds [a, b] = .ok ()
  fst : s.m.t.raw m a = .ok (s.m.t.val a)
  snd : s.m.t.raw m b = .ok (s.m.t.val b)
  counts : ∀ e ∈ s.m.mqueue s.m.t.core, e.counts = true
  short : (s.m.mqueue s.m.t.core).length < 16

theorem MatrixReady.mopM_eq (h : MatrixReady s m a b) (sparse : Bool) (ta tb : Blk) : mopM sparse m ta tb q a b s.m =
    s.m.checkMop s.m.t.gid s.m.t.core q.val sparse ta tb (s.m.t.val a) (s.m.t.val b) s.m.t.pc >>= fun c => s.m.issueCmd .cl c := by
  simp only [mopM, h.bounds, h.fst, h.snd, Mach.queueRoom_ok h.counts h.short, bind, Except.bind]

theorem mconvM_ok {f : McFmt} {ac : Bool} (hb : s.m.t.bounds [a] = .ok ()) (ha : s.m.t.raw none a = .ok (s.m.t.val a))
    (hall : ∀ e ∈ s.m.mqueue s.m.t.core, e.counts = true) (hlen : (s.m.mqueue s.m.t.core).length < 16)
    (hown : (s.m.tile s.m.t.core q.val).holder = some s.m.t.gid) (hx : (s.m.t.val a).toNat % 64 = 0)
    (hn : (s.m.t.val a).toNat + (if f = .f32 then 16384 else 8192) ≤ 32768) : mconvM m f ac q a s.m =
      s.m.issueCmd .cl (.mconv q.val (s.m.t.val a).toNat f ac (s.m.t.fctx m).rnd (s.m.t.fctx m).flush) := by
  simp only [mconvM, hb, ha, Mach.queueRoom_ok hall hlen, Mach.checkMconv, Mach.ownsTile_ok hown, offsetOk_ok hx hn, bind, Except.bind]

theorem MatrixReady.mschedM_ok (h : MatrixReady s m a b) (hx : (s.m.t.val a).toNat % 64 = 0) (hy : (s.m.t.val b).toNat % 16 = 0)
    (hn : (s.m.t.val b).toNat + 16 ≤ 65536) : mschedM m a b s.m = s.m.issueCmd .dv (.msched
      { table := (s.m.t.val a).toNat, bar := (s.m.t.val b).toNat, rnd := (s.m.t.fctx none).rnd, flush := (s.m.t.fctx none).flush }) := by
  simp only [mschedM, h.bounds, h.fst, h.snd, Mach.queueRoom_ok h.counts h.short, if_neg (not_not.mpr hx), if_neg (not_not.mpr hy),
    if_neg (Nat.not_lt.mpr hn), bind, Except.bind]

end

/-- A task's command has joined its core's queue. -/
theorem exec_joins {s : State} (h : s.plain) (hr : s.atRest) {i : Instr} {rule : RRule} {f : Mach → Except Stop Mach} {sc : Scope} {c : MCmd}
    (he : exec i s = issue rule f s) (hf : f s.m = s.m.issueCmd sc c) (hall : ∀ e ∈ s.m.mqueue s.m.t.core, e.counts = true)
    (hc : c.counts = true) {q : Nat} (hq : c.tile = some q ∨ c.tile = none) {bound : Nat}
    (hb : bound = if c.tile = some q then (c.grows (s.m.tile s.m.t.core q)).bound else (s.m.tile s.m.t.core q).bound) :
    ∃ s1, exec i s = .next s1 ∧ s1.m.t = s.m.t.retire ∧ s1.m.mem = s.m.mem ∧
      s1.m.mqueue s.m.t.core = s.m.mqueue s.m.t.core ++ [⟨s.m.t.gid, s.m.t.rec_, s.m.t.pc.toNat, s.m.order + 1, false, c, 0⟩] ∧
      (s1.m.tile s.m.t.core q).bound = bound ∧ ∀ j, j < 2 → j ≠ q → s1.m.tile s.m.t.core j = s.m.tile s.m.t.core j := by
  have hj := Mach.joined_enqueueCmd hall hc s.m.t.gid s.m.t.rec_ s.m.t.pc.toNat
  have hcmd : s.m.issueCmd sc c = .ok (s.m.enqueueCmd s.m.t.core s.m.t.gid s.m.t.rec_ s.m.t.pc.toNat false c) := by
    simp only [Mach.issueCmd, releaseAt_none hr.weak, bind, Except.bind]
  generalize s.m.enqueueCmd s.m.t.core s.m.t.gid s.m.t.rec_ s.m.t.pc.toNat false c = m1 at hj hcmd
  have ht : m1.t = s.m.t := by rw [hj.frame]
  refine ⟨_, he.trans (issue_ok h.1 (hf.trans hcmd) (by rw [ht]; exact h.1) (ready_not_held (by rw [ht]; exact h.2))
    (fits_of_ctxs (by rw [hj.frame]) _)), ?_, ?_, hj.queue, (hj.bound q).trans hb.symm, fun j _ hne => hj.other j ?_⟩
  · show m1.t.retire = _
    rw [ht]
  · show m1.mem = _
    rw [hj.frame]
  · rcases hq with hq | hq
    · rw [hq]
      exact fun he => hne (Option.some.inj he).symm
    · rw [hq]
      exact nofun

/-! ### MZERO, MWAIT and MQW (R261, R264, R265) -/

section
variable {s : State} (h : s.plain) {q : Fin 2}
include h

/-- MZERO on a tile that is free or the task's, with nothing queued (R261). -/
theorem exec_mzero_ok (e : Int) (hq : s.m.mqueue s.m.t.core = [])
    (hh : (s.m.tile s.m.t.core q.val).holder = none ∨ (s.m.tile s.m.t.core q.val).holder = some s.m.t.gid) :
    ∃ (s1 : State) (t : MTile), exec (.mzero q e) s = .next s1 ∧ s1.m.t = s.m.t.retire ∧ s1.m.mem = s.m.mem ∧
      s1.m.mqueue s.m.t.core = [] ∧ s1.m.tile s.m.t.core q.val = t.zeroed e ∧ t.holder = some s.m.t.gid := by
  obtain ⟨cl, i, hi, hcore⟩ := exists_core s.m.t.core
  rw [hcore] at hq hh
  obtain ⟨m1, t, hm1, hframe, hq1, htile, hholder⟩ := Mach.zeroTile_spec hi hq (zeroFirst_nil q.val e) hh s.m.t.rec_ s.m.t.pc.toNat
  have hm : mzeroM q e s.m = .ok m1 := by rw [mzeroM, hcore, hm1]
  have ht : m1.t = s.m.t := by rw [hframe]
  refine ⟨_, t, issue_ok h.1 hm (by rw [ht]; exact h.1) (ready_not_held (by rw [ht]; exact h.2)) (fits_of_ctxs (by rw [hframe]) _), ?_, ?_, ?_, ?_,
    hholder⟩
  · show m1.t.retire = _
    rw [ht]
  · show m1.mem = _
    rw [hframe]
  · rw [hcore]
    exact hq1
  · rw [hcore]
    exact htile

/-- MWAIT on a tile with no command queued (R246, R265). -/
theorem exec_mwait_done (hh : (s.m.tile s.m.t.core q.val).holder = some s.m.t.gid)
    (hq : ∀ c ∈ s.m.mqueue s.m.t.core, c.cmd.tile ≠ some q.val) : ∃ s1, exec (.mwait q) s = .next s1 ∧ s1.m.mem = s.m.mem ∧
      s1.m.t = { s.m.t.retire with acqCl := s.m.order } ∧ (s1.m.tile s.m.t.core q.val).holder =
        if (s.m.tile s.m.t.core q.val).lastQ ≤ (s.m.tile s.m.t.core q.val).waited then none else (s.m.tile s.m.t.core q.val).holder := by
  have hopen : s.m.openOn s.m.t.core q.val s.m.order = false := by
    rw [Mach.openOn, List.any_eq_false]
    intro c hc
    simp [hq c hc]
  have hm : mwaitM q s.m = .ok (s.m.waited q.val s.m.order) := by
    simp only [mwaitM, hh, hopen, ne_eq, not_true_eq_false, Bool.false_eq_true, if_false]
  obtain ⟨cl, i, hi, hcore⟩ := exists_core s.m.t.core
  obtain ⟨m1, hm1⟩ : ∃ m1 : Mach, m1 = { s.m with t := s.m.t.acquire .cl s.m.order } := ⟨_, rfl⟩
  have ht : m1.t = { s.m.t with acqCl := s.m.order } := by rw [hm1]; rfl
  obtain ⟨f, hf⟩ : ∃ f : MTile → MTile, f = fun t =>
    { t with holder := if t.lastQ ≤ t.waited then none else t.holder, waited := s.m.order } := ⟨_, rfl⟩
  have hw : s.m.waited q.val s.m.order = m1.setTile (8 * cl + i) q.val f := by
    rw [Mach.waited, ← hm1, hcore, hf]
  have honly := Mach.onlyUnit_setTile (cl := cl) hi m1 q.val f
  have htile := Mach.tile_setTile (cl := cl) hi m1 q.val f q.val
  rw [← hw] at honly htile
  rw [if_pos rfl] at htile
  generalize s.m.waited q.val s.m.order = m2 at hm honly htile
  have ht2 : m2.t = { s.m.t with acqCl := s.m.order } := honly.t.trans ht
  refine ⟨_, issue_ok h.1 hm (by rw [ht2]; exact h.1) (ready_not_held (by rw [ht2]; exact h.2))
    (fits_of_ctxs (honly.ctxs.trans (by rw [hm1])) _), ?_, ?_, ?_⟩
  · exact honly.mem.trans (by rw [hm1])
  · show m2.t.retire = _
    rw [ht2]
    rfl
  · rw [hcore]
    show (m2.tile (8 * cl + i) q.val).holder = _
    rw [htile, hf, hm1]
    rfl

/-- MWAIT parks while a command on the tile is queued (R265). -/
theorem exec_mwait_parks (hh : (s.m.tile s.m.t.core q.val).holder = some s.m.t.gid)
    (hq : ∃ c ∈ s.m.mqueue s.m.t.core, c.cmd.tile = some q.val ∧ c.reach ≤ s.m.order) :
    exec (.mwait q) s = .next { s with m := { s.m with t := { s.m.t with phase := .parked (.mwait q.val s.m.order) } } } := by
  have hopen : s.m.openOn s.m.t.core q.val s.m.order = true := by
    obtain ⟨c, hc, htile, hreach⟩ := hq
    exact List.any_eq_true.mpr ⟨c, hc, by simp [htile, hreach]⟩
  have hm : mwaitM q s.m = .ok { s.m with t := { s.m.t with phase := .parked (.mwait q.val s.m.order) } } := by
    simp only [mwaitM, hh, hopen, ne_eq, not_true_eq_false, if_true, if_false]
  exact issue_held h.1 hm h.1 rfl (fits_of_ctxs rfl _)

theorem exec_mwait_free (hh : (s.m.tile s.m.t.core q.val).holder = none) : exec (.mwait q) s = .next (s.done s.m.t) := by
  have hm : mwaitM q s.m = .ok s.m := by simp only [mwaitM, hh]
  exact issue_ok h.1 hm h.1 (ready_not_held h.2) (fits_of_ctxs rfl _)

theorem faults_held {g : Gid} (hh : (s.m.tile s.m.t.core q.val).holder = some g) (hg : g ≠ s.m.t.gid) (e : Int) :
    Faults (.mzero q e) s 1 0 (tileAddr q.val) ∧ Faults (.mwait q) s 1 0 (tileAddr q.val) := by
  refine ⟨faults_of rfl h ?_, faults_of rfl h ?_⟩
  · simp only [mzeroM, Mach.zeroTile, hh, if_neg hg]
    rfl
  · simp only [mwaitM, hh, ne_eq, hg, not_false_eq_true, if_true]
    rfl

theorem exec_mqw (k : Nat) : ∃ s1, exec (.mqw k) s = .next s1 ∧ s1.m.t = s.m.t.retire ∧ s1.m.mem = s.m.mem ∧
    (s1.m.mtx (clusterOf s.m.t.core)).weight (coreIdx s.m.t.core) s.m.cur = k ∧ s1.m.mqueue s.m.t.core = s.m.mqueue s.m.t.core := by
  obtain ⟨m1, hm1⟩ : ∃ m1, m1 = s.m.setMtx (clusterOf s.m.t.core) fun x =>
    { x with weights := Tab.put 1 x.weights (256 * coreIdx s.m.t.core + s.m.cur) k } := ⟨_, rfl⟩
  have honly : Mach.OnlyUnit (clusterOf s.m.t.core) s.m m1 := hm1 ▸ s.m.onlyUnit_setMtx _ _
  have hx : m1.mtx (clusterOf s.m.t.core) = { s.m.mtx (clusterOf s.m.t.core) with
      weights := Tab.put 1 (s.m.mtx (clusterOf s.m.t.core)).weights (256 * coreIdx s.m.t.core + s.m.cur) k } := by
    rw [hm1, Mach.mtx_setMtx_same]
  have hm : mqwM k s.m = .ok m1 := by rw [mqwM, hm1]
  refine ⟨_, issue_ok h.1 hm (by rw [honly.t]; exact h.1) (ready_not_held (by rw [honly.t]; exact h.2)) (fits_of_ctxs honly.ctxs _), ?_,
    honly.mem, ?_, ?_⟩
  · show m1.t.retire = _
    rw [honly.t]
  · show (m1.mtx _).weight _ _ = k
    rw [hx, Matrix.weight]
    simp only [Tab.look_put, if_true]
  · show m1.mqueue _ = _
    rw [Mach.mqueue, hx]
    rfl

end

/-- Settles O38: each instruction by its checks and what it leaves in its core's queue or tile. -/
theorem matrixCommands : Obligations.MatrixCommands := by
  intro s m q a b d w f ac e k h hr t core tile queue mine x y at_ joins open_ need ha hb slot
  have hready : open_ → s.fit [a, b] → s.rawOk m [a, b] → MatrixReady s m a b := fun ho hf hraw =>
    ⟨hf.bounds, hraw.raw (by simp), hraw.raw (by simp), ho.1, ho.2⟩
  refine ⟨fun ho hm hf hraw => ⟨fun sparse i hi hs hx hn hy hst how hha hhb => ?mop, fun hx => ?align⟩, fun ho hm hf hraw => ?prot,
    fun ho hf hraw => ⟨?combo, ?combo2⟩, fun ho hm hf htag hx hn => ?conv, fun ho hf hraw hx hy hn => ?sched, fun hq hh => ?zero,
    fun g hg hne => faults_held h hg hne e, fun hh => exec_mwait_free h hh, fun hm hq => exec_mwait_done h hm hq,
    fun hm hq => exec_mwait_parks h hm hq, fun hf => ?stat, exec_mqw h k⟩
  case mop =>
    have hready := hready ho hf hraw
    have hblocks : need sparse = mopBlocks sparse := rfl
    have hcheck : s.m.checkMop t.gid core q.val sparse w w (t.val a) (t.val b) t.pc = .ok (.mop sparse q.val x y w (ha sparse) hb) :=
      Mach.checkMop_ok hs hm hx (by rw [← hblocks, Nat.mul_comm 64 (need sparse), Nat.mul_comm (need sparse)]; exact hn) hy hst how rfl rfl hha hhb
    have he : exec i s = issue (.abort abForbidden) (mopM sparse m w w q a b) s := by
      rw [hi]
      cases sparse with
      | true => rfl
      | false => rfl
    refine exec_joins h hr (sc := .cl) he ((hready.mopM_eq sparse w w).trans ?_) hready.counts rfl (.inl rfl) ?_
    · rw [hcheck, ok_bind]
    · cases sparse with
      | true => exact (if_pos rfl).symm
      | false => exact (if_pos rfl).symm
  case align =>
    refine traps_of rfl h (((hready ho hf hraw).mopM_eq false w w).trans ?_)
    have hcombo : ¬ (w ≠ w ∨ (false = true ∧ w = .s16)) := by simp
    unfold Mach.checkMop
    rw [if_neg hcombo, Mach.ownsTile_ok hm, ok_bind, offsetOk_misaligned hx]
    rfl
  case prot =>
    refine faults_of rfl h (((hready ho hf hraw).mopM_eq false w w).trans ?_)
    have hcombo : ¬ (w ≠ w ∨ (false = true ∧ w = .s16)) := by simp
    unfold Mach.checkMop
    rw [if_neg hcombo, Mach.ownsTile_error hm]
    rfl
  case combo =>
    refine traps_of rfl h (((hready ho hf hraw).mopM_eq true .s16 .s16).trans ?_)
    unfold Mach.checkMop
    rw [if_pos (.inr ⟨rfl, rfl⟩)]
    rfl
  case combo2 =>
    refine traps_of rfl h (((hready ho hf hraw).mopM_eq false .s8 .s4).trans ?_)
    unfold Mach.checkMop
    rw [if_pos (.inl (by decide))]
    rfl
  case conv =>
    exact exec_joins h hr rfl (mconvM_ok hf.bounds (raw_ok (.inr htag)) ho.1 ho.2 hm hx hn) ho.1 rfl (.inl rfl) (if_pos rfl).symm
  case sched =>
    have hready := hready ho hf hraw
    exact exec_joins h hr rfl (hready.mschedM_ok hx hy hn) hready.counts rfl (.inr rfl) (if_neg nofun).symm
  case zero =>
    obtain ⟨s1, u, hs1, ht, hmem, hqueue, htile, hholder⟩ := exec_mzero_ok h e hq hh
    refine ⟨s1, hs1, ht, hmem, hqueue, ?_⟩
    rw [htile]
    exact ⟨hholder, rfl, rfl, rfl, rfl, rfl, rfl, rfl, rfl, rfl, rfl, rfl⟩
  case stat =>
    have hb : t.bounds [d] = .ok () := hf.bounds
    have hm : mstatT s.m d q t = .ok (t.wr d (BitVec.ofNat 64 (s.m.tileStatus core q.val t.gid)) .raw) := by
      rw [mstatT, hb]
      rfl
    intro bit
    refine ⟨fun hl => gives_of rfl h (hm.trans ?_), fun hl => gives_of rfl h (hm.trans ?_)⟩
    · exact congrArg (fun v => Except.ok (t.wr d (BitVec.ofNat 64 v) .raw)) (if_pos hl)
    · exact congrArg (fun v => Except.ok (t.wr d (BitVec.ofNat 64 v) .raw)) (if_neg (not_not.mpr hl))

end Sys2Proof.Machine
end

section
/-! PROOFS. O47: a message at its owner. -/

namespace Sys2Proof.Machine

/-! ### Tasks named by their identifier -/

theorem Mach.map_others_of_ne {l : List Task} {g : Gid} (h : ∀ y ∈ l, y.gid ≠ g) (f : Task → Task) :
    l.map (fun t => if t.gid = g ∧ t.phase ≠ .ended then f t else t) = l := by
  conv_rhs => rw [← List.map_id l]
  exact List.map_congr_left fun t ht => if_neg fun hg => h t ht hg.1

/-- A change of the task in focus alone, where no other has its identifier. -/
theorem Mach.mapTask_alone {m : Mach} (hp : m.t.phase ≠ .ended) (h : ∀ y ∈ m.others, y.gid ≠ m.t.gid) (f : Task → Task) :
    m.mapTask m.t.gid f = { m with t := f m.t } := by
  rw [Mach.mapTask, Mach.map_others_of_ne h, if_pos ⟨rfl, hp⟩]

theorem Mach.focus_self {m : Mach} {g : Gid} (hg : m.t.gid = g) (hp : m.t.phase ≠ .ended) : m.focus g = m := if_pos ⟨hg, hp⟩

/-! ### A trap that has a handler (09 R167) -/

/-- A trap delivered to its task's handler raises no error, and leaves the task in focus. -/
theorem Mach.raise_handled {m : Mach} (hr : m.t.region = none) (hin : m.t.ctl.trapCode.inH = false) (hv : m.t.ctl.trapVec.getLsbD 0 = true)
    (hp : m.t.phase ≠ .ended) {code : Nat} (hc : route code = .handler) (addr : Word) : (m.raise code addr 0 0 0).errs = m.errs ∧
      (m.raise code addr 0 0 0).t.gid = m.t.gid ∧ (m.raise code addr 0 0 0).t.phase ≠ .ended := by
  obtain ⟨t0, ht0⟩ : ∃ t0 : Task, t0 = Task.deliver { m.t with fol := [], regang := 0, answered := false } code addr 0 := ⟨_, rfl⟩
  have hroute : m.takeRoute code addr 0 0 0 = { m with t := t0 } := by
    have hab : m.t.aborted abFault = m.t := by rw [Task.aborted, hr]
    simp only [Mach.takeRoute, hab, hin, hc, hv, if_true, Bool.false_eq_true, if_false, ht0]
  have hg : t0.gid = m.t.gid := by rw [ht0]; rfl
  have hp0 : t0.phase ≠ .ended := by rw [ht0]; exact hp
  have ht := Mach.raise_t hroute hg hp0
  obtain ⟨l, hframe, -⟩ := Mach.raise_frame hroute
  refine ⟨?_, ?_, ?_⟩
  · rw [hframe]
  · rw [ht]
    exact hg
  · rw [ht]
    exact hp0

/-! ### A new message task (R67, R68, R360) -/

theorem Mach.takeSerial_frame (m : Mach) (c cl : Nat) :
    (m.takeSerial c cl).2 = { m with ctxs := (m.takeSerial c cl).2.ctxs, free := (m.takeSerial c cl).2.free } := by
  have hnext : ∀ m : Mach, (m.nextSerialOf c cl).2 = { m with ctxs := (m.nextSerialOf c cl).2.ctxs, free := (m.nextSerialOf c cl).2.free } := by
    intro m
    have hdraw : m.drawBlock c cl = { m with ctxs := (m.drawBlock c cl).ctxs, free := (m.drawBlock c cl).free } := by
      unfold Mach.drawBlock
      split
      · rfl
      · rfl
    unfold Mach.nextSerialOf
    dsimp only
    rw [hdraw]
    rfl
  have hfrom : ∀ (n : Nat) (m : Mach), (m.serialFrom c cl n).2 =
      { m with ctxs := (m.serialFrom c cl n).2.ctxs, free := (m.serialFrom c cl n).2.free } := by
    intro n
    induction n with
    | zero => exact hnext
    | succ n ih =>
      intro m
      unfold Mach.serialFrom
      dsimp only
      split
      · rw [ih, hnext]
      · exact hnext m
  exact hfrom _ m

/-- A message task of a channel's entry, with the message in a1 to a4 and the sender in a5 (R360). -/
def Task.isMessage (y : Task) (e : ChanEntry) (core : Nat) (ws : List Word) (from_ : Word) : Prop :=
  y.kind = .message ∧ ctxOf y.gid = e.ctx ∧ y.pc = BitVec.ofNat 64 e.entry ∧ y.bound = some core ∧ y.phase = .ready ∧ y.prio = e.prio % 4 ∧
    ∀ j, y.cell j = if 1 ≤ j ∧ j ≤ 4 then ⟨ws.getD (j - 1) 0, .raw, none⟩ else if j = 5 then ⟨from_, .raw, none⟩ else .fresh

/-- The registers that a message's words and its sender are passed in. -/
theorem look_messageRegs {ws : List Word} (h : ws.length = 4) (from_ : Word) (j : Nat) :
    Tab.look RCell.fresh (setArgs (setArgs [] 1 ws) 5 [from_]) j =
      if 1 ≤ j ∧ j ≤ 4 then ⟨ws.getD (j - 1) 0, .raw, none⟩ else if j = 5 then ⟨from_, .raw, none⟩ else .fresh := by
  match ws, h with
  | [a, b, c, d], _ =>
    simp only [setArgs, Tab.look_put, Nat.reduceAdd]
    rcases (by omega : j = 0 ∨ j = 1 ∨ j = 2 ∨ j = 3 ∨ j = 4 ∨ j = 5 ∨ 5 < j) with rfl | rfl | rfl | rfl | rfl | rfl | hj
    · rfl
    · rfl
    · rfl
    · rfl
    · rfl
    · rfl
    · have h1 : ¬ (1 ≤ j ∧ j ≤ 4) := by omega
      have h5 : j ≠ 5 := by omega
      have h4 : j ≠ 4 := by omega
      have h3 : j ≠ 3 := by omega
      have h2 : j ≠ 2 := by omega
      have h0 : j ≠ 1 := by omega
      simp only [h0, h1, h2, h3, h4, h5, if_false]
      rfl

theorem Mach.newMessage_spec (m : Mach) (core : Nat) (e : ChanEntry) {ws : List Word} (hw : ws.length = 4) (from_ : Word) :
    ∃ (y : Task) (m1 : Mach), m.newMessage core e ws from_ = m1 ∧
      m1 = { m with ctxs := m1.ctxs, free := m1.free, order := m1.order, others := m.others ++ [y] } ∧ y.isMessage e core ws from_ ∧
      y.npc = y.pc ∧ ∀ c, (m1.ctx c).silt = (m.ctx c).silt := by
  have hdraw := m.onlyDraws_takeSerial e.ctx (clusterOf core)
  have hframe := m.takeSerial_frame e.ctx (clusterOf core)
  unfold Mach.newMessage
  dsimp only
  generalize (m.takeSerial e.ctx (clusterOf core)).1 = n
  generalize (m.takeSerial e.ctx (clusterOf core)).2 = m0 at hdraw hframe
  refine ⟨?y, _, rfl, ?frame, ?message, ?npc, fun c => (hdraw.silt_loam c).1⟩
  case frame =>
    rw [hframe]
    rfl
  case message => exact ⟨rfl, ctxOf_gidOf _ _, rfl, rfl, rfl, rfl, fun j => look_messageRegs hw from_ j⟩
  case npc => rfl

/-- A message task stays one where its first instruction's completion is counted for it. -/
theorem Task.isMessage.resume {y : Task} {e : ChanEntry} {core : Nat} {ws : List Word} {from_ : Word} (h : y.isMessage e core ws from_)
    (hpc : y.npc = y.pc) : y.resume.isMessage e core ws from_ := by
  obtain ⟨hkind, hctx, hy, hbound, -, hprio, hcells⟩ := h
  exact ⟨hkind, hctx, hpc.trans hy, hbound, rfl, hprio, hcells⟩

/-! ### The owner's answer (R360) -/

section
variable {m : Mach} {x : Sending} (hx : m.t.phase = .sending x) (hb : x.backoff = false) (hop : x.op < 3)

/-- The channel a message names. -/
def Mach.chanOf (m : Mach) (x : Sending) : Chan := m.chan (msgCore x.handle) (msgChan x.handle)

/-- The message names the channel's generation. -/
def Mach.msgNamed (m : Mach) (x : Sending) : Prop :=
  (m.chanOf x).e.valid = true ∧ (m.chanOf x).e.gen % 2 ^ 24 = msgGen x.handle

include hop

theorem Sending.place_eq : x.place = (msgCore x.handle, msgChan x.handle) := by
  rw [Sending.place, if_neg (by unfold sendEvent; omega)]

theorem Mach.answer_nack (h : ¬ m.msgNamed x) : (m.chanOf x).answer x = .nack := by
  have hev : x.op ≠ sendEvent := by unfold sendEvent; omega
  unfold Mach.msgNamed at h
  unfold Chan.answer
  by_cases hv : (m.chanOf x).e.valid = true
  · have hg : ¬ (m.chanOf x).e.gen % 2 ^ 24 = msgGen x.handle := fun hg => h ⟨hv, hg⟩
    rw [if_pos (by simp only [hev, hv, hg, or_self, decide_false, Bool.not_true, Bool.not_false, Bool.or_true])]
  · rw [if_pos (by simp [hv])]

theorem Mach.answer_named (h : m.msgNamed x) : (m.chanOf x).answer x =
    if (m.chanOf x).e.paged then .retry
    else if x.op = 0 ∧ (m.chanOf x).e.blocked = true ∧ 256 ≤ (m.chanOf x).queue.length then .retry else .accept := by
  have hev : x.op ≠ sendEvent := by unfold sendEvent; omega
  unfold Chan.answer
  simp only [h.1, h.2, or_true, decide_true, Bool.not_true, Bool.or_self, Bool.false_eq_true, if_false, hev, or_false, sendMsg]

include hx hb

theorem Mach.messageArrival_nack (h : (m.chanOf x).answer x = .nack) : m.messageArrival m.t.gid = m.sendFails m.t.gid x x.handle := by
  have hev : ¬ (x.op = sendEvent ∧ ¬ m.ownsCore (ctxOf m.t.gid) (msgCore x.handle) = true) := fun h => by unfold sendEvent at h; omega
  unfold Mach.chanOf at h
  unfold Mach.messageArrival
  simp only [Mach.find_live (by rw [hx]; exact nofun : m.t.phase ≠ .ended), hx, Sending.place_eq hop, hb, hev, h, Bool.false_eq_true, if_false]

theorem Mach.messageArrival_retry (h : (m.chanOf x).answer x = .retry) : m.messageArrival m.t.gid =
    if 16 ≤ x.retries then m.sendFails m.t.gid x (x.handle ||| BitVec.ofNat 64 (2 ^ 63))
    else m.mapTask m.t.gid fun t => { t with phase := .sending { x with retries := x.retries + 1, backoff := true } } := by
  have hev : ¬ (x.op = sendEvent ∧ ¬ m.ownsCore (ctxOf m.t.gid) (msgCore x.handle) = true) := fun h => by unfold sendEvent at h; omega
  unfold Mach.chanOf at h
  unfold Mach.messageArrival
  simp only [Mach.find_live (by rw [hx]; exact nofun : m.t.phase ≠ .ended), hx, Sending.place_eq hop, hb, hev, h, Bool.false_eq_true, if_false]

theorem Mach.messageArrival_accept (h : (m.chanOf x).answer x = .accept) : m.messageArrival m.t.gid =
    m.orHold (ctxOf m.t.gid) ((m.accepted m.t.gid x).mapTask m.t.gid Task.resume) := by
  have hne : x.op ≠ sendEvent := by unfold sendEvent; omega
  unfold Mach.chanOf at h
  unfold Mach.messageArrival
  simp only [Mach.find_live (by rw [hx]; exact nofun : m.t.phase ≠ .ended), hx, Sending.place_eq hop, hb, h, hne, Bool.false_eq_true, false_and,
    if_false]

end

/-! ### What an accepted message does (R360) -/

/-- The channels with one of them changed. -/
theorem Mach.look_setChan (m : Mach) (core n : Nat) (f : Chan → Chan) (k : Nat) : Tab.look {} (m.setChan core n f).chans k =
    if k = 64 * core + n then f (m.chan core n) else Tab.look {} m.chans k := by
  simp only [Mach.setChan, Tab.upd, Tab.look_put, Mach.chan]

/-- The message's mark in the sender's log, where the channel is another context's (23 R402). -/
def Mach.messageMarked (m : Mach) (g : Gid) (x : Sending) : Mach :=
  if (m.chanOf x).e.ctx = ctxOf g then m
  else m.setSilt (ctxOf g) fun l => l.mark .external x.handle.toNat (m.partyOf g) g

theorem Mach.logs_messageMarked (m : Mach) (g : Gid) (x : Sending) : Mach.Logs 32 m (m.messageMarked g x) := by
  unfold Mach.messageMarked
  split
  · exact ⟨rfl, fun _ => (Ctx.Logs.refl _).mono (Nat.zero_le _)⟩
  · exact m.logs_mark (ctxOf g) .external x.handle.toNat (m.partyOf g) g

section
variable {m : Mach} {x : Sending} (g : Gid) (hop : x.op < 3)
include hop

theorem Mach.accepted_blocks (h : x.op = 1) : m.accepted g x = m.setChan (msgCore x.handle) (msgChan x.handle) fun k =>
    { k with e := { k.e with blocked := true } } := by
  simp only [Mach.accepted, Sending.place_eq hop, sendBlk, h, if_true]

theorem Mach.accepted_unblocks (h : x.op = 2) : m.accepted g x = m.unblock (msgCore x.handle) (msgChan x.handle) := by
  simp only [Mach.accepted, Sending.place_eq hop, sendBlk, sendUnblk, h, Nat.reduceEqDiff, if_true, if_false]

theorem Mach.accepted_sends (h : x.op = 0) : m.accepted g x = if (m.chanOf x).e.blocked then
    (m.messageMarked g x).setChan (msgCore x.handle) (msgChan x.handle) fun k => { k with queue := k.queue ++ [(x.words, BitVec.ofNat 64 g)] }
    else (m.messageMarked g x).newMessage (msgCore x.handle) (m.chanOf x).e x.words (BitVec.ofNat 64 g) := by
  simp only [Mach.accepted, Sending.place_eq hop, sendBlk, sendUnblk, h, Nat.reduceEqDiff, if_false]
  rfl

end

/-- A channel's message turned into a task, and its sender resumed: the new task is the last. -/
theorem Mach.message_delivered {m m0 : Mach} (hp : m.t.phase ≠ .ended) (hothers : ∀ y ∈ m.others, y.gid ≠ m.t.gid)
    (ht : m0.t = m.t) (ho : m0.others = m.others) (core : Nat) (e : ChanEntry) {ws : List Word} (hw : ws.length = 4) (from_ : Word) :
    ∃ (y : Task) (m1 : Mach), (m0.newMessage core e ws from_).mapTask m.t.gid Task.resume = m1 ∧ m1.t = m.t.resume ∧
      m1.others = m.others ++ [y] ∧ y.isMessage e core ws from_ ∧ m1.mem = m0.mem ∧ m1.errs = m0.errs ∧ m1.chans = m0.chans ∧
      ∀ c, (m1.ctx c).silt = (m0.ctx c).silt := by
  obtain ⟨y, m1, hm1, hframe, hmsg, hpc, hsilt⟩ := m0.newMessage_spec core e hw from_
  have ht1 : m1.t = m.t := by rw [hframe]; exact ht
  have ho1 : m1.others = m.others ++ [y] := by rw [hframe, ho]
  have hmap : (m1.mapTask m.t.gid Task.resume).others =
      m.others ++ [if y.gid = m.t.gid ∧ y.phase ≠ .ended then y.resume else y] := by
    simp only [Mach.mapTask, ho1, List.map_append, Mach.map_others_of_ne hothers, List.map_singleton]
  refine ⟨_, _, congrArg (fun a => a.mapTask m.t.gid Task.resume) hm1, ?_, hmap, ?_, ?_, ?_, ?_, hsilt⟩
  · exact (if_pos ⟨by rw [ht1], by rw [ht1]; exact hp⟩).trans (by rw [ht1])
  · split
    · exact hmsg.resume hpc
    · exact hmsg
  · exact (by rw [hframe] : m1.mem = m0.mem)
  · exact (by rw [hframe] : m1.errs = m0.errs)
  · exact (by rw [hframe] : m1.chans = m0.chans)

theorem exec_messageArrival {s : State} {m1 : Mach} (hm : s.m.messageArrival s.m.t.gid = m1) (herr : m1.errs = []) :
    exec (.messageArrival s.m.t.gid) s = .next { s with m := m1 } := exec_quiet (f := (·.messageArrival s.m.t.gid)) rfl hm herr

/-- A message refused for good traps its sender, which has a handler (R360). -/
theorem Mach.sendFails_handled {m : Mach} {x : Sending} (hx : m.t.phase = .sending x) (hop : x.op < 3) (hr : m.t.region = none)
    (hin : m.t.ctl.trapCode.inH = false) (hv : m.t.ctl.trapVec.getLsbD 0 = true) (addr : Word) :
    m.sendFails m.t.gid x addr = ({ m with t := { m.t with phase := .ready } } : Mach).raise 0x09 addr 0 0 0 ∧
      (({ m with t := { m.t with phase := .ready } } : Mach).raise 0x09 addr 0 0 0).errs = m.errs := by
  have hne : x.op ≠ sendEvent := by unfold sendEvent; omega
  obtain ⟨herrs, hg, hp⟩ := Mach.raise_handled (m := { m with t := { m.t with phase := .ready } }) hr hin hv nofun
    (code := 0x09) (by decide) addr
  refine ⟨?_, herrs⟩
  rw [Mach.sendFails, if_neg hne, Mach.focus_self rfl (by rw [hx]; exact nofun)]
  exact Mach.focus_self hg hp

/-- Settles O47: the owner's answer first, then what an accepted message does. -/
theorem messageEvents : Obligations.MessageEvents := by
  intro s x herr hx hb hop hothers t arrives core chan q from_ named at_ isTask traps free room handler full
  have hp : s.m.t.phase ≠ .ended := by rw [hx]; exact nofun
  have hcore : msgCore x.handle = core := by simp [msgCore, fieldOf, core]
  have hchanOf : s.m.chanOf x = q := by rw [Mach.chanOf, hcore]; rfl
  have hnamed : s.m.msgNamed x ↔ named := by rw [Mach.msgNamed, hchanOf]; rfl
  have hchans : ∀ (m1 : Mach) (f : Chan → Chan), m1.chans = s.m.chans → ∀ k,
      Tab.look {} (m1.setChan core chan f).chans k = if k = 64 * core + chan then f q else Tab.look {} s.m.chans k := fun m1 f h k => by
    rw [Mach.look_setChan, Mach.chan, h]
  have hfails : handler → ∀ a, s.m.messageArrival t.gid = s.m.sendFails t.gid x a → traps a := fun ⟨hv, hin, hr⟩ a hm => by
    obtain ⟨heq, herrs⟩ := Mach.sendFails_handled hx hop hr hin hv a
    exact exec_messageArrival (hm.trans heq) (herrs.trans herr)
  have hresume : ∀ m1 : Mach, m1.t = s.m.t → m1.others = s.m.others → m1.mapTask t.gid Task.resume = { m1 with t := t.resume } :=
    fun m1 ht ho => by
      have hg : t.gid = m1.t.gid := by rw [ht]
      rw [hg, Mach.mapTask_alone (by rw [ht]; exact hp) (by rw [ho, ht]; exact hothers), ht]
  refine ⟨fun hn hh => ?nack, fun hn hr => ?retry, fun hn hpg hf => ?accept, ?timer, ?timer2⟩
  case nack => exact hfails hh _ (Mach.messageArrival_nack hx hb hop (Mach.answer_nack hop (mt hnamed.mp hn)))
  case retry =>
    have hanswer : (s.m.chanOf x).answer x = .retry := by
      rw [Mach.answer_named hop (hnamed.mpr hn), hchanOf]
      rcases hr with hr | hr
      · exact if_pos hr
      · by_cases hpg : q.e.paged = true
        · exact if_pos hpg
        · rw [if_neg hpg]
          exact if_pos hr
    have hm := Mach.messageArrival_retry hx hb hop hanswer
    refine ⟨fun hlt => ?_, fun hle hh => ?_⟩
    · rw [if_neg (Nat.not_le.mpr hlt), Mach.mapTask_alone hp hothers] at hm
      exact exec_messageArrival hm herr
    · rw [if_pos hle] at hm
      exact hfails hh _ hm
  case accept =>
    have hanswer : (s.m.chanOf x).answer x = .accept := by
      rw [Mach.answer_named hop (hnamed.mpr hn), hchanOf, if_neg (Bool.eq_false_iff.mp hpg)]
      exact if_neg hf
    have hm := Mach.messageArrival_accept hx hb hop hanswer
    refine ⟨fun h0 hbl hw _ hroom => ?task, fun h0 hbl hroom => ?queued, fun h1 => ?blocks, fun h2 ws w hq hw _ => ?unblocks⟩
    case task =>
      have hlogs := s.m.logs_messageMarked t.gid x
      have hacc : s.m.accepted t.gid x = (s.m.messageMarked t.gid x).newMessage core q.e x.words from_ := by
        rw [Mach.accepted_sends t.gid hop h0, hchanOf, hbl, hcore]
        rfl
      rw [hacc] at hm
      generalize s.m.messageMarked t.gid x = m0 at hlogs hm
      obtain ⟨y, m1, hm1, ht1, ho1, hmsg, hmem, herrs, hchans, hsilt⟩ := Mach.message_delivered hp hothers (by rw [hlogs.frame] : m0.t = s.m.t)
        (by rw [hlogs.frame]) core q.e hw from_
      rw [hm1, Mach.orHold_of_used (n := 32) (by rw [hsilt]; exact (hlogs.ctx _).size) (by rw [hsilt]; exact (hlogs.ctx _).used) hroom] at hm
      refine ⟨_, y, exec_messageArrival hm ?_, ht1, ho1, hmsg, ?_, ?_⟩
      · rw [herrs, hlogs.frame]
        exact herr
      · exact hmem.trans (by rw [hlogs.frame])
      · exact hchans.trans (by rw [hlogs.frame])
    case queued =>
      have hlogs := s.m.logs_messageMarked t.gid x
      have hacc : s.m.accepted t.gid x = (s.m.messageMarked t.gid x).setChan core chan fun k => { k with queue := k.queue ++ [(x.words, from_)] } := by
        rw [Mach.accepted_sends t.gid hop h0, hchanOf, hbl, hcore]
        rfl
      rw [hacc] at hm
      generalize s.m.messageMarked t.gid x = m0 at hlogs hm
      have hkeep : ∀ m1 : Mach, m1.ctxs = m0.ctxs → s.m.orHold (ctxOf t.gid) m1 = m1 := fun m1 h1 =>
        Mach.orHold_eq (n := 32) (by rw [Mach.ctx_of_ctxs h1]; exact hlogs.ctx _) hroom
      rw [hresume _ (by rw [hlogs.frame]; rfl) (by rw [hlogs.frame]; rfl)] at hm
      refine ⟨_, exec_messageArrival (hm.trans (hkeep _ rfl)) ?_, rfl, ?_, ?_, hchans m0 (fun k => { k with queue := k.queue ++ [(x.words, from_)] })
        (by rw [hlogs.frame])⟩
      · exact (by rw [hlogs.frame] : m0.errs = s.m.errs).trans herr
      · exact (by rw [hlogs.frame] : m0.others = s.m.others)
      · exact (by rw [hlogs.frame] : m0.mem = s.m.mem)
    case blocks =>
      have hkeep : ∀ m1 : Mach, m1.ctxs = s.m.ctxs → s.m.orHold (ctxOf t.gid) m1 = m1 := fun m1 h1 => Mach.orHold_of_ctxs h1 _
      have hacc : s.m.accepted t.gid x = s.m.setChan core chan fun k => { k with e := { k.e with blocked := true } } := by
        rw [Mach.accepted_blocks t.gid hop h1, hcore]
        rfl
      rw [hacc, hresume (s.m.setChan core chan fun k => { k with e := { k.e with blocked := true } }) rfl rfl] at hm
      exact ⟨_, exec_messageArrival (hm.trans (hkeep _ rfl)) herr, rfl, rfl, rfl,
        hchans s.m (fun k => { k with e := { k.e with blocked := true } }) rfl⟩
    case unblocks =>
      obtain ⟨m0, hm0⟩ : ∃ m0, m0 = s.m.setChan core chan fun k => { e := { k.e with blocked := false }, queue := [] } := ⟨_, rfl⟩
      have hun : s.m.accepted t.gid x = m0.newMessage core q.e ws w := by
        have hchan : s.m.chan core chan = q := rfl
        rw [Mach.accepted_unblocks t.gid hop h2, Mach.unblock, hcore, hm0]
        show List.foldl _ _ (s.m.chan core chan).queue = _
        rw [hchan, hq]
        rfl
      obtain ⟨y, m1, hm1, ht1, ho1, hmsg, hmem, herrs, hc1, hsilt⟩ := Mach.message_delivered hp hothers (by rw [hm0]; rfl : m0.t = s.m.t)
        (by rw [hm0]; rfl) core q.e hw w
      have hctx : ∀ c, m0.ctx c = s.m.ctx c := Mach.ctx_of_ctxs (by rw [hm0]; rfl)
      have hkeep : s.m.orHold (ctxOf t.gid) m1 = m1 := if_pos (fits_of_nextSeq (by rw [hsilt, hctx]))
      rw [hun, hm1, hkeep] at hm
      refine ⟨_, y, exec_messageArrival hm ?_, ht1, ho1, hmsg, ?_, fun k => ?_⟩
      · exact herrs.trans ((by rw [hm0]; rfl : m0.errs = s.m.errs).trans herr)
      · exact hmem.trans (by rw [hm0]; rfl)
      · show Tab.look {} m1.chans k = _
        rw [hc1, hm0]
        exact hchans s.m (fun k => { e := { k.e with blocked := false }, queue := [] }) rfl k
  case timer =>
    refine eventM_stays (f := (·.retryTimer t.gid)) herr ?_
    rw [Mach.retryTimer, Mach.mapTask_alone hp hothers]
    have hsame : ({ s.m.t with phase := .sending { x with backoff := false } } : Task) = s.m.t := by
      rw [← hb, ← hx]
    simp only [hx]
    rw [hsame]
  case timer2 =>
    refine exec_quiet (f := (·.retryTimer t.gid)) rfl ?_ herr
    obtain ⟨m0, hm0⟩ : ∃ m0 : Mach, m0 = { s.m with t := { s.m.t with phase := .sending { x with backoff := true } } } := ⟨_, rfl⟩
    have ht0 : m0.t = { s.m.t with phase := .sending { x with backoff := true } } := by rw [hm0]
    have hgid : t.gid = m0.t.gid := by rw [ht0]
    have hsame : ({ s.m.t with phase := .sending { x with backoff := false } } : Task) = s.m.t := by
      rw [← hb, ← hx]
    rw [← hm0, Mach.retryTimer, hgid, Mach.mapTask_alone (by rw [ht0]; exact nofun) (by rw [ht0, hm0]; exact hothers), ht0]
    simp only
    rw [hsame, hm0]

end Sys2Proof.Machine
end

section
/-! PROOFS. O35: LPATCH and LARM. -/

namespace Sys2Proof.Machine

/-! ### A launch mark (19 R345, 23 R397) -/

/-- The old bytes of a line that changes are no more than the lines hold. -/
theorem changedLines_short {old new : List (Nat × List Byte)} (h : ∀ p ∈ old, p.2.length ≤ 64) :
    ∀ q ∈ changedLines old new, q.2.1.length ≤ 64 := by
  intro q hq
  obtain ⟨a, -, ha⟩ := List.mem_filterMap.mp hq
  obtain ⟨s, -, rfl⟩ := Option.map_eq_some_iff.mp ha
  show (lineOf old a).length ≤ 64
  unfold lineOf
  cases hf : old.find? (·.1 == a) with
  | none => simp
  | some p => exact h p (List.mem_of_find?_eq_some hf)

theorem PoolRec.lines_short (p : PoolRec) (k : Nat) : ∀ q ∈ p.lines k, q.2.length ≤ 64 := by
  intro q hq
  obtain ⟨i, -, rfl⟩ := List.mem_map.mp hq
  exact List.length_take_le _ _

/-- What a mark's first member saves of the state counts nothing beside its line (23 R395). -/
theorem lineRecs_launch_bytes (s : Silt) (k : SKind) (sp party : Nat) (g : Gid) (r : Nat) (p : LaunchRec)
    (ls : List (Nat × List Byte × Nat × Nat)) :
    (s.lineRecs k sp party g (.launch r p) ls).map SRec.bytes = (s.lineRecs k sp party g (.entry 0 {} []) ls).map SRec.bytes := by
  unfold Silt.lineRecs
  dsimp only
  split <;> rfl

/-- A launch mark: the record changed, and its lines in the log. -/
theorem Mach.markRec_spec (m : Mach) (c r : Nat) (g : Gid) (f : PoolRec → PoolRec) :
    (∃ ctxs, m.markRec c r g f = { m with ctxs := ctxs }) ∧
    (∀ d b, (m.markRec c r g f).launch d b = if d = c ∧ b = r then f (m.launch c r) else m.launch d b) ∧
    m.Appends (m.markRec c r g f) c (32 + 96 * 8) := by
  generalize hms : (m.ctx c).silt.lineRecs .launch 7 (m.partyOf g) g (.launch r (m.launch c r).r)
    (changedLines ((m.launch c r).lines ((m.ctx c).poolAt + 256 * r))
      (((m.updRec c r f).launch c r).lines ((m.ctx c).poolAt + 256 * r))) = ms
  have hmark : m.markRec c r g f = (m.updRec c r f).appendGroup c (m.partyOf g) g ms := by rw [← hms]; rfl
  have hlen : (changedLines ((m.launch c r).lines ((m.ctx c).poolAt + 256 * r))
      (((m.updRec c r f).launch c r).lines ((m.ctx c).poolAt + 256 * r))).length ≤ 8 := changedLines_length_le _ _
  have hbytes : (ms.map SRec.bytes).sum ≤ 96 * 8 := by
    rw [← hms, lineRecs_launch_bytes]
    exact (lineRecs_bytes_le _ _ _ _ _ (changedLines_short (PoolRec.lines_short _ _))).trans (Nat.mul_le_mul_left 96 hlen)
  rw [hmark]
  refine ⟨⟨_, rfl⟩, fun d b => ?_, ?_⟩
  · have hpool : (((m.updRec c r f).appendGroup c (m.partyOf g) g ms).ctx d).pool = ((m.updRec c r f).ctx d).pool := by
      rw [Mach.appendGroup, Mach.ctx_setCtx]
      split
      · next h => subst h; rfl
      · rfl
    rw [Mach.launch, hpool]
    exact m.launch_updRec c r d b f
  · exact ((m.updRec c r f).appends_appendGroup c _ g ms).congr (m.updRec_ctx c r c f).1.symm rfl (by omega)

/-! ### Arming (19 R349, R351) -/

/-- What a started record's first task stands at, and what starting leaves as it was. -/
theorem Mach.startRec_task (m : Mach) (c r : Nat) (early : Bool) :
    (∃ y : Task, (m.startRec c r early).others = m.others ++ [y] ∧ y.workId = BitVec.ofNat 64 (m.launch c r).r.lo ∧
      y.pc = BitVec.ofNat 64 (m.launch c r).r.entry) ∧
    (m.startRec c r early).t = m.t ∧ ∀ d, ((m.startRec c r early).ctx d).silt = (m.ctx d).silt := by
  generalize hm1 : (m.preset c (m.launch c r).r.wpreset).updRec c r (fun p =>
    { p with state := .running, earlyOn := early, startNo := m.order }) = m1
  have hframe : m1.t = m.t ∧ m1.others = m.others ∧ (m1.launch c r).r = (m.launch c r).r ∧ ∀ d, (m1.ctx d).silt = (m.ctx d).silt := by
    rw [← hm1, Mach.preset_eq, Mach.launch_updRec, if_pos ⟨rfl, rfl⟩]
    exact ⟨rfl, rfl, rfl, fun d => (Mach.updRec_ctx _ c r d _).1⟩
  obtain ⟨ht, hothers, hrec, hsilt⟩ := hframe
  have hstart : m.startRec c r early =
      (m1.newRange c r .graph (m1.launch c r).r.lo (m1.launch c r).r.hi false (m1.fewest (m1.partOf c).clusters)).2.addTask
        (m1.newRange c r .graph (m1.launch c r).r.lo (m1.launch c r).r.hi false (m1.fewest (m1.partOf c).clusters)).1 := by
    rw [← hm1]
    rfl
  rw [hstart]
  generalize m1.fewest (m1.partOf c).clusters = cl
  have hspec := m1.newRange_spec c r .graph (m1.launch c r).r.lo (m1.launch c r).r.hi false cl
  have hnew := m1.newRange_frame c r .graph (m1.launch c r).r.lo (m1.launch c r).r.hi false cl
  have hpc : (m1.newRange c r .graph (m1.launch c r).r.lo (m1.launch c r).r.hi false cl).1.pc =
      BitVec.ofNat 64 (m1.launch c r).r.entry :=
    congrArg (fun p : PoolRec => BitVec.ofNat 64 p.r.entry) ((m1.onlyDraws_takeSerial c cl).launch c r)
  cases hrange : m1.newRange c r .graph (m1.launch c r).r.lo (m1.launch c r).r.hi false cl with
  | mk y m2 =>
  rw [hrange] at hspec hnew hpc
  obtain ⟨⟨-, -, -, -, -, -, -, -, hwork⟩, hnt, -, hnsilt⟩ := hspec
  exact ⟨⟨y, congrArg (· ++ [y]) (hnew.1.trans hothers), hwork.trans (by rw [hrec]), hpc.trans (by rw [hrec])⟩, hnt.trans ht,
    fun d => (hnsilt d).trans (hsilt d)⟩

/-- The context of an armed record remembers the first arming (03 R60). -/
theorem Mach.launch_firstArm (m : Mach) (c : Nat) (f : Ctx → Option Nat) (d b : Nat) :
    (m.setCtx c fun x => { x with firstArm := f x }).launch d b = m.launch d b ∧
    ((m.setCtx c fun x => { x with firstArm := f x }).ctx d).silt = (m.ctx d).silt := by
  rw [Mach.launch, Mach.ctx_setCtx]
  split
  · next h => subst h; exact ⟨rfl, rfl⟩
  · exact ⟨rfl, rfl⟩

/-- The record after arming, before it starts. -/
def Mach.asArmed (m : Mach) (c r : Nat) (g : Gid) : Mach :=
  (m.markRec c r g fun p => p.armed m.cycle (m.order + 1) g).tick.setCtx c fun x => { x with firstArm := some (x.firstArm.getD m.order) }

theorem Mach.arm_eq (m : Mach) (c r : Nat) (g : Gid) : m.arm c r g (m.markRec c r g) =
    if ((m.asArmed c r g).launch c r).pending = 0 then (m.asArmed c r g).startRec c r false else m.asArmed c r g := rfl

theorem Mach.asArmed_spec (m : Mach) (c r : Nat) (g : Gid) :
    (m.asArmed c r g).t = m.t ∧ (m.asArmed c r g).others = m.others ∧ (m.asArmed c r g).mem = m.mem ∧
    (m.asArmed c r g).launch c r = (m.launch c r).armed m.cycle (m.order + 1) g ∧ m.Appends (m.asArmed c r g) c (32 + 96 * 8) := by
  obtain ⟨⟨ctxs, hm1⟩, hlaunch, happ⟩ := m.markRec_spec c r g fun p => p.armed m.cycle (m.order + 1) g
  unfold Mach.asArmed
  generalize m.markRec c r g (fun p => p.armed m.cycle (m.order + 1) g) = m1 at hm1 hlaunch happ
  obtain ⟨hsame, hsilt⟩ := m1.tick.launch_firstArm c (fun x => some (x.firstArm.getD m.order)) c r
  exact ⟨by rw [hm1]; rfl, by rw [hm1]; rfl, by rw [hm1]; rfl, hsame.trans ((hlaunch c r).trans (if_pos ⟨rfl, rfl⟩)),
    happ.congr rfl hsilt (le_refl _)⟩

/-! ### The checks (R349, R362) -/

section
variable {m : Mach} {v : Word}

theorem Mach.openRec_beyond (h : 4095 < v.toNat) : m.openRec v = .error (.xfault 1 2 v 0) := if_pos h

theorem Mach.openRec_busy (h : v.toNat ≤ 4095)
    (hs : ¬ ((m.launch m.cur v.toNat).state = .idle ∨ (m.launch m.cur v.toNat).state = .retired)) :
    m.openRec v = .error (.xfault 1 2 (BitVec.ofNat 64 (m.recAddr m.cur v.toNat)) 0) := by
  have hbusy : (m.launch m.cur v.toNat).state = .armed ∨ (m.launch m.cur v.toNat).state = .running := by
    cases hst : (m.launch m.cur v.toNat).state <;> simp [hst] at hs ⊢
  rw [Mach.openRec, if_neg (by omega)]
  exact if_pos hbusy

theorem Mach.openRec_ok (h : v.toNat ≤ 4095)
    (hs : (m.launch m.cur v.toNat).state = .idle ∨ (m.launch m.cur v.toNat).state = .retired) : m.openRec v = .ok v.toNat := by
  have hfree : ¬ ((m.launch m.cur v.toNat).state = .armed ∨ (m.launch m.cur v.toNat).state = .running) := by
    rcases hs with hs | hs <;> simp [hs]
  rw [Mach.openRec, if_neg (by omega)]
  exact if_neg hfree

end

/-- An odd ENTRY is the first field refused. -/
theorem recordFault_entry {r : LaunchRec} (h : r.entry % 2 = 1) : recordFault r = some 0 := by
  simp [recordFault, h]

/-- Then HI below LO. -/
theorem recordFault_range {r : LaunchRec} (h : r.entry % 2 = 0) (hr : r.hi < r.lo) : recordFault r = some 8 := by
  simp [recordFault, h, Nat.not_le.mpr hr]

theorem raw_mismatch {t : Task} {m : Option XMod} {o : Opnd}
    (h : ¬ (t.conv m = true ∨ t.tag o = .raw ∨ t.tag o = .addr ∨ t.tag o = .unwritten)) : t.raw m o = .error (.trap 0x04 t.pc 0) := by
  refine if_neg fun hok => h ?_
  simp only [Task.tagOk, rawTags, Bool.or_eq_true, beq_iff_eq, List.contains_iff_mem, List.mem_cons, List.not_mem_nil, or_false] at hok
  rcases hok with (hconv | hunwritten) | hraw | haddr | hunwritten
  · exact .inl hconv
  · exact .inr (.inr (.inr hunwritten))
  · exact .inr (.inl hraw)
  · exact .inr (.inr (.inl haddr))
  · exact .inr (.inr (.inr hunwritten))

/-! ### The two instructions -/

section
variable {m : Mach} {mod : Option XMod} {d a : Opnd} {k : Nat} (ha : m.t.raw mod a = .ok (m.t.val a))
include ha

theorem larmM_unopened (hb : m.t.bounds [a] = .ok ()) {e : Stop} (he : m.openRec (m.t.val a) = .error e) :
    larmM mod a m = .error e := by
  simp only [larmM, hb, ha, he, ok_bind, error_bind]

theorem larmM_refused (hb : m.t.bounds [a] = .ok ()) {r off : Nat} (hr : m.openRec (m.t.val a) = .ok r)
    (hf : recordFault (m.launch m.cur r).r = some off) :
    larmM mod a m = .error (.trap 0x01 (BitVec.ofNat 64 (m.recAddr m.cur r + off)) 0) := by
  simp only [larmM, hb, ha, hr, hf, ok_bind, illOp]

theorem larmM_arms (hb : m.t.bounds [a] = .ok ()) (hw : m.weak = []) {r : Nat} (hr : m.openRec (m.t.val a) = .ok r)
    (hf : recordFault (m.launch m.cur r).r = none) :
    larmM mod a m = .ok (m.arm m.cur r m.t.gid (m.markRec m.cur r m.t.gid)) := by
  simp only [larmM, hb, ha, hr, hf, ok_bind, releaseAt_none hw]

theorem lpatchM_mismatch (hb : m.t.bounds [d, a] = .ok ()) {e : Stop} (hd : m.t.raw mod d = .error e) :
    lpatchM mod d a k m = .error e := by
  simp only [lpatchM, hb, ha, hd, ok_bind, error_bind]

theorem lpatchM_unopened (hb : m.t.bounds [d, a] = .ok ()) (hd : m.t.raw mod d = .ok (m.t.val d)) {e : Stop}
    (he : m.openRec (m.t.val a) = .error e) : lpatchM mod d a k m = .error e := by
  simp only [lpatchM, hb, ha, hd, he, ok_bind, error_bind]

theorem lpatchM_patches (hb : m.t.bounds [d, a] = .ok ()) (hd : m.t.raw mod d = .ok (m.t.val d)) (hw : m.weak = []) {r : Nat}
    (hr : m.openRec (m.t.val a) = .ok r) : lpatchM mod d a k m =
      .ok (m.markRec m.cur r m.t.gid fun p => { p with r := patchRec p.r k (m.t.val d) }) := by
  simp only [lpatchM, hb, ha, hd, hr, ok_bind, releaseAt_none hw]

end

/-! ### The field that LPATCH replaces (R347) -/

theorem getD_setPad {α : Type} (x : α) (l : List α) (i j : Nat) (v : α) :
    (setPad x l i v).getD j x = if j = i then v else l.getD j x := by
  have hlen : i < (l ++ List.replicate (i + 1 - l.length) x).length := by simp; omega
  rw [setPad, List.getD_eq_getElem?_getD, List.getElem?_set]
  by_cases hij : i = j
  · rw [if_pos hij, if_pos hij.symm, if_pos hlen, Option.getD_some]
  · rw [if_neg hij, if_neg fun h => hij h.symm, List.getElem?_append, List.getD_eq_getElem?_getD]
    split
    · rfl
    · next h =>
      rw [List.getElem?_eq_none (Nat.not_lt.mp h), List.getElem?_replicate]
      split <;> rfl

theorem patchRec_spec (r : LaunchRec) (k : Nat) (v : Word) :
    (k < 6 → (∀ j, (patchRec r k v).args.getD j 0 = if j = k then v else r.args.getD j 0) ∧
      patchRec r k v = { r with args := (patchRec r k v).args }) ∧
    (k = 6 → patchRec r k v = { r with lo := v.toNat }) ∧ (k = 7 → patchRec r k v = { r with hi := v.toNat }) ∧
    (8 ≤ k → (∀ j, (patchRec r k v).tiles.getD j 0 = if j = k - 8 then v.toNat else r.tiles.getD j 0) ∧
      patchRec r k v = { r with tiles := (patchRec r k v).tiles }) := by
  refine ⟨fun h => ?_, fun h => ?_, fun h => ?_, fun h => ?_⟩
  · rw [patchRec, if_pos h]
    exact ⟨fun j => getD_setPad 0 r.args k j v, rfl⟩
  · rw [patchRec, if_neg (by omega), if_pos h]
  · rw [patchRec, if_neg (by omega), if_neg (by omega), if_pos h]
  · rw [patchRec, if_neg (by omega), if_neg (by omega), if_neg (by omega)]
    exact ⟨fun j => getD_setPad 0 r.tiles (k - 8) j v.toNat, rfl⟩

/-! ### The clauses -/

section
variable {s : State} {m : Option XMod} {d a : Opnd} {k : Nat} (hrest : s.atRest) (h : s.ready m [d, a] [a]) (hroom : s.roomy 8)
include h

theorem exec_lpatch_fault {cause acc : Nat} {va : Word} (hd : s.rawOk m [d])
    (he : s.m.openRec (s.m.t.val a) = .error (.xfault cause acc va 0)) : Faults (.lpatch m d a k) s cause acc va :=
  faults_of (f := lpatchM m d a k) rfl h.1
    (lpatchM_unopened (h.2.2.raw (List.mem_singleton_self a)) h.2.1.bounds (hd.raw (List.mem_singleton_self d)) he)

theorem exec_lpatch_mismatch (hd : ¬ s.rawOk m [d]) : Traps (.lpatch m d a k) s 0x04 s.m.t.pc := by
  refine traps_of (f := lpatchM m d a k) rfl h.1
    (lpatchM_mismatch (h.2.2.raw (List.mem_singleton_self a)) h.2.1.bounds (raw_mismatch fun hok => hd fun o ho => ?_))
  obtain rfl := List.mem_singleton.mp ho
  exact hok

theorem State.ready.bounds_last : s.m.t.bounds [a] = .ok () :=
  State.fit.bounds fun j hj => h.2.1 j (List.mem_cons_of_mem _ hj)

theorem exec_larm_fault {cause acc : Nat} {va : Word} (he : s.m.openRec (s.m.t.val a) = .error (.xfault cause acc va 0)) :
    Faults (.larm m a) s cause acc va :=
  faults_of (f := larmM m a) rfl h.1 (larmM_unopened (h.2.2.raw (List.mem_singleton_self a)) h.bounds_last he)

theorem exec_larm_refused {r off n : Nat} (hr : s.m.openRec (s.m.t.val a) = .ok r)
    (hf : recordFault (s.m.launch s.m.cur r).r = some off) (hn : n = s.m.recAddr s.m.cur r + off) :
    Traps (.larm m a) s 0x01 (BitVec.ofNat 64 n) :=
  hn ▸ traps_of (f := larmM m a) rfl h.1 (larmM_refused (h.2.2.raw (List.mem_singleton_self a)) h.bounds_last hr hf)

include hrest hroom

theorem exec_lpatch_patches (hd : s.rawOk m [d]) {r : Nat} (hr : s.m.openRec (s.m.t.val a) = .ok r) :
    ∃ s1, exec (.lpatch m d a k) s = .next s1 ∧ s1.m.t = s.m.t.retire ∧ s1.m.mem = s.m.mem ∧ s1.m.others = s.m.others ∧
      ∀ b, s1.m.launch s.m.cur b = if b = r then
        { s.m.launch s.m.cur r with r := patchRec (s.m.launch s.m.cur r).r k (s.m.t.val d) } else s.m.launch s.m.cur b := by
  have hf : lpatchM m d a k s.m = _ := lpatchM_patches (h.2.2.raw (List.mem_singleton_self a)) h.2.1.bounds
    (hd.raw (List.mem_singleton_self d)) hrest.weak hr
  obtain ⟨⟨ctxs, hm1⟩, hlaunch, happ⟩ := s.m.markRec_spec s.m.cur r s.m.t.gid fun p => { p with r := patchRec p.r k (s.m.t.val d) }
  generalize s.m.markRec s.m.cur r s.m.t.gid (fun p => { p with r := patchRec p.r k (s.m.t.val d) }) = m1 at hf hm1 hlaunch happ
  have ht : m1.t = s.m.t := by rw [hm1]
  refine ⟨_, issue_ok (f := lpatchM m d a k) h.1.1 hf (ht ▸ h.1.1) (ht ▸ ready_not_held h.1.2) (happ.fits hroom), congrArg Task.retire ht,
    by rw [hm1], by rw [hm1], fun b => (hlaunch s.m.cur b).trans ?_⟩
  simp only [true_and]

theorem exec_larm_waits {r : Nat} (hr : s.m.openRec (s.m.t.val a) = .ok r) (hf : recordFault (s.m.launch s.m.cur r).r = none)
    (hpred : 0 < (s.m.launch s.m.cur r).r.npred) :
    ∃ s1, exec (.larm m a) s = .next s1 ∧ s1.m.t = s.m.t.retire ∧ s1.m.mem = s.m.mem ∧ s1.m.others = s.m.others ∧
      s1.m.launch s.m.cur r = (s.m.launch s.m.cur r).armed s.m.cycle (s.m.order + 1) s.m.t.gid := by
  have hm := larmM_arms (h.2.2.raw (List.mem_singleton_self a)) h.bounds_last hrest.weak hr hf
  obtain ⟨ht, ho, hmem, hlaunch, happ⟩ := s.m.asArmed_spec s.m.cur r s.m.t.gid
  rw [Mach.arm_eq, if_neg (by rw [hlaunch]; exact hpred.ne')] at hm
  generalize s.m.asArmed s.m.cur r s.m.t.gid = m1 at hm ht ho hmem hlaunch happ
  exact ⟨_, issue_ok (f := larmM m a) h.1.1 hm (ht ▸ h.1.1) (ht ▸ ready_not_held h.1.2) (happ.fits hroom), congrArg Task.retire ht,
    hmem, ho, hlaunch⟩

theorem exec_larm_starts {r : Nat} (hr : s.m.openRec (s.m.t.val a) = .ok r) (hf : recordFault (s.m.launch s.m.cur r).r = none)
    (hpred : (s.m.launch s.m.cur r).r.npred = 0) :
    ∃ s1, ∃ q : Task, exec (.larm m a) s = .next s1 ∧ s1.m.mem = s.m.mem ∧ s1.m.t = s.m.t.retire ∧ s1.m.others = s.m.others ++ [q] ∧
      q.kind = .graph ∧ q.rec_ = some r ∧ q.lo = (s.m.launch s.m.cur r).r.lo ∧ q.hi = (s.m.launch s.m.cur r).r.hi ∧
      q.workId = BitVec.ofNat 64 (s.m.launch s.m.cur r).r.lo ∧ q.pc = BitVec.ofNat 64 (s.m.launch s.m.cur r).r.entry ∧
      q.phase = .ready ∧ ∃ no, s1.m.launch s.m.cur r =
        ((s.m.launch s.m.cur r).armed s.m.cycle (s.m.order + 1) s.m.t.gid).started false no := by
  have hm := larmM_arms (h.2.2.raw (List.mem_singleton_self a)) h.bounds_last hrest.weak hr hf
  obtain ⟨ht, ho, hmem, hlaunch, happ⟩ := s.m.asArmed_spec s.m.cur r s.m.t.gid
  rw [Mach.arm_eq, if_pos (by rw [hlaunch]; exact hpred)] at hm
  generalize s.m.asArmed s.m.cur r s.m.t.gid = m1 at hm ht ho hmem hlaunch happ
  obtain ⟨⟨q, hq, hkind, hrec, hlo, hhi, -, hphase⟩, hstart, hsmem, -⟩ := m1.startRec_spec s.m.cur r false
  obtain ⟨⟨y, hy, hwork, hpc⟩, hst, hsilt⟩ := m1.startRec_task s.m.cur r false
  obtain rfl : q = y := List.singleton_injective (List.append_cancel_left (hq.symm.trans hy))
  have hr1 : (m1.launch s.m.cur r).r = (s.m.launch s.m.cur r).r := by rw [hlaunch]; rfl
  have hst1 := hst.trans ht
  refine ⟨_, q, issue_ok (f := larmM m a) h.1.1 hm (hst1 ▸ h.1.1) (hst1 ▸ ready_not_held h.1.2)
    ((happ.congr rfl (hsilt _) (le_refl _)).fits hroom), hsmem.trans hmem, congrArg Task.retire hst1, hq.trans (by rw [ho]), hkind, hrec,
    hlo.trans (by rw [hr1]), hhi.trans (by rw [hr1]), hwork.trans (by rw [hr1]), hpc.trans (by rw [hr1]), hphase, m1.order, ?_⟩
  rw [← hlaunch]
  exact (hstart s.m.cur r).trans (if_pos ⟨rfl, rfl⟩)

end

/-- Settles O35: the checks by `Mach.openRec_beyond` and `Mach.openRec_busy`, the effects by what a launch mark does
(`Mach.markRec_spec`) and by the first task of a started record. -/
theorem records : Obligations.Records := by
  unfold Obligations.Records
  intro s m d a k hrest h hroom
  dsimp only
  refine ⟨fun hle hidle => ?_, exec_lpatch_mismatch h, fun hgt => ?_, fun hle hbusy => ?_⟩
  case refine_2 =>
    exact ⟨exec_larm_fault h (Mach.openRec_beyond hgt), fun hd => exec_lpatch_fault h hd (Mach.openRec_beyond hgt)⟩
  case refine_3 =>
    exact ⟨exec_larm_fault h (Mach.openRec_busy hle hbusy), fun hd => exec_lpatch_fault h hd (Mach.openRec_busy hle hbusy)⟩
  have hr := Mach.openRec_ok hle hidle
  refine ⟨fun hd => ?_, fun hf hpred => ?_, fun hf hpred => ?_, fun hodd => ?_, fun heven hlt => ?_⟩
  · obtain ⟨s1, hexec, ht, hmem, ho, hlaunch⟩ := exec_lpatch_patches (k := k) hrest h hroom hd hr
    have hrec := (hlaunch _).trans (if_pos rfl)
    refine ⟨s1, hexec, ⟨ht, hmem⟩, ho, by rw [hrec], fun q hq => (hlaunch q).trans (if_neg hq), ?_⟩
    rw [hrec]
    exact patchRec_spec _ k _
  · obtain ⟨s1, hexec, ht, hmem, ho, hlaunch⟩ := exec_larm_waits hrest h hroom hr hf hpred
    refine ⟨s1, hexec, ⟨ht, hmem⟩, ho, ?_⟩
    rw [hlaunch]
    exact ⟨rfl, rfl, rfl, rfl, rfl, rfl⟩
  · obtain ⟨s1, q, hexec, hmem, ht, ho, hkind, hrec, hlo, hhi, hwork, hpc, hphase, no, hlaunch⟩ :=
      exec_larm_starts hrest h hroom hr hf hpred
    refine ⟨s1, q, hexec, hmem, by rw [ht]; rfl, by rw [ht]; rfl, ho, hkind, hrec, hlo, hhi, hwork, hpc, hphase, ?_⟩
    rw [hlaunch]
    exact ⟨rfl, hpred, rfl, rfl, rfl⟩
  · exact exec_larm_refused h hr (recordFault_entry hodd) rfl
  · exact exec_larm_refused h hr (recordFault_range heven hlt) rfl

end Sys2Proof.Machine
end

section
/-! PROOFS. O24: FENCE and PVIS. -/

namespace Sys2Proof.Machine

/-! ### A store performed makes no store wait (16 R302, R303) -/

theorem Mach.foldl_weak {α : Type} {f : Mach → α → Mach} (hf : ∀ m a, (f m a).weak = m.weak) : ∀ (l : List α) (m : Mach),
    (l.foldl f m).weak = m.weak
  | [], _ => rfl
  | a :: r, m => (Mach.foldl_weak hf r (f m a)).trans (hf m a)

theorem Mach.dropNotes_weak (m1 m : Mach) : (m1.dropNotes m).weak = m1.weak := rfl

theorem Mach.strike_weak (m : Mach) (w : Task) (striker : Nat) (who : Gid) (addr : Word) (n : Nat) (old : Word) (seq : Nat) :
    (m.strike w striker who addr n old seq).weak = m.weak := rfl

theorem Mach.strikes_weak (m : Mach) (c : Nat) (l : Loc) (n : Nat) (offs : List Nat) (g : Gid) (party : Nat) (old : Word)
    (seq : Nat) : (m.strikes c l n offs g party old seq).weak = m.weak := by
  have hfold := Mach.foldl_weak (f := fun a w => a.strike w party g l.va n old seq) fun m w => m.strike_weak w party g l.va n old seq
  unfold Mach.strikes
  dsimp only
  split
  · rfl
  · split
    · exact hfold _ m
    · exact hfold _ m

theorem Mach.performFe_weak (m : Mach) (g : Gid) (party op core off : Nat) (v : Word) :
    (m.performFe g party op core off v).1.weak = m.weak := by
  unfold Mach.performFe
  dsimp only
  split
  · rfl
  · rw [Mach.dropNotes_weak, Mach.strikes_weak]
    split <;> simp

theorem Mach.orHold_weak {m m1 : Mach} (h : m1.weak = m.weak) (c : Nat) : (m.orHold c m1).weak = m.weak := by
  unfold Mach.orHold
  split
  · exact h
  · rfl

theorem Mach.serve_weak (m : Mach) (t : Task) : (m.serve t).weak = m.weak := by
  unfold Mach.serve
  split
  · dsimp only
    exact Mach.orHold_weak (m1 := (Mach.performFe _ _ _ _ _ _ _).1.mapTask _ _) (m.performFe_weak _ _ _ _ _ _) _
  · rfl
  · rfl
  · rfl

theorem Mach.settle_weak (core : Nat) : ∀ (n : Nat) (m : Mach), (m.settle core n).weak = m.weak
  | 0, _ => rfl
  | n + 1, m => by
    unfold Mach.settle
    split
    · rfl
    · next t _ =>
      dsimp only
      rw [Mach.settle_weak core n]
      split
      · exact m.serve_weak t
      · exact m.serve_weak t
      · exact m.serve_weak t

theorem Mach.noteCode_weak (m : Mach) (c : Nat) (l : Loc) (cells : List (Nat × Byte)) : (m.noteCode c l cells).weak = m.weak := by
  rw [noteCode_shape]

theorem Mach.writeCells_weak (m : Mach) (g : Gid) (party : Nat) (l : Loc) (n : Nat) (cells : List (Nat × Byte)) :
    (m.writeCells g party l n cells).weak = m.weak := by
  have hrecord : ∀ m0 : Mach, (if l.irrev then m0.setCtx (ctxOf g) fun x => { x with silt := x.silt.mark .external l.key party g }
      else m0.siltWrite (ctxOf g) l.space l.key n party g).weak = m0.weak := by
    intro m0
    split
    · rfl
    · simp
  unfold Mach.writeCells
  dsimp only
  split
  · rfl
  · rfl
  · rfl
  · split
    · rw [Mach.settleAll, Mach.settle_weak, Mach.dropNotes_weak, Mach.strikes_weak]
      exact (Mach.noteCode_weak _ _ _ _).trans (hrecord _)
    · rw [Mach.strikes_weak]
      exact (Mach.noteCode_weak _ _ _ _).trans (hrecord _)

theorem Mach.performWeak_weak (m : Mach) (w : WStore) : (m.performWeak w).weak = m.weak := by
  unfold Mach.performWeak
  split
  · exact m.writeCells_weak _ _ _ _ _
  · rfl

/-- What waits once the stores that satisfy p have been performed: none that satisfies p. -/
theorem drained_rest (p : WStore → Bool) : ∀ ws : List WStore, ∀ w ∈ (drained p ws).2, p w = false
  | [], w, hw => absurd hw List.not_mem_nil
  | v :: r, w, hw => by
    unfold drained at hw
    dsimp only at hw
    split at hw
    · exact drained_rest p r w hw
    · next hv =>
      rcases List.mem_cons.mp hw with rfl | hw
      · simp only [Bool.or_eq_true, not_or] at hv
        exact Bool.eq_false_iff.mpr hv.1
      · exact drained_rest p r w hw

theorem Mach.drain_rest (m : Mach) (p : WStore → Bool) : ∀ w ∈ (m.drain p).weak, p w = false := by
  have hweak : (m.drain p).weak = (drained p m.weak).2 := Mach.foldl_weak Mach.performWeak_weak _ _
  rw [hweak]
  exact drained_rest p m.weak

/-! ### The release of an instruction (R303) -/

/-- A release that goes through leaves none of the thread's stores within its scope. -/
theorem releaseAt_rest {m m1 : Mach} {sc : Scope} (h : m.releaseAt (some sc) = .ok m1) :
    ∀ w ∈ m1.weak, w.gid = m.t.gid → w.loc.home.within (clusterOf m.t.core) sc = false := by
  intro w hw hg
  simp only [Mach.releaseAt] at h
  split at h
  · exact absurd h nofun
  · split at h
    · next hmine =>
      obtain rfl := Except.ok.inj h
      have hnot := List.filter_eq_nil_iff.mp (List.isEmpty_iff.mp hmine) w hw
      simpa [hg] using hnot
    · obtain rfl := Except.ok.inj h
      have hnot := Mach.drain_rest m _ w hw
      simpa [hg] using hnot

/-- What stops a release: a port that retrains, or one that is down (25 R434). -/
theorem releaseAt_stops {m : Mach} {sc : Option Scope} {e : Stop} (h : m.releaseAt sc = .error e) :
    (∃ p, e = .retry p) ∨ ∃ acc va, e = .xfault 1 acc va 0 := by
  cases sc with
  | none => exact absurd h nofun
  | some sc =>
    simp only [Mach.releaseAt] at h
    split at h
    · split at h
      · exact .inl ⟨_, (Except.error.inj h).symm⟩
      · exact .inr ⟨_, _, (Except.error.inj h).symm⟩
    · split at h <;> exact absurd h nofun

/-! ### An instruction that stops does not advance -/

theorem Mach.haltRoute_pc (m : Mach) {code : Nat} (hc : code ≠ brkTrap) (g : Gid) (addr : Word) (own : Nat) :
    (m.haltRoute g code addr 0 own).t.pc = m.t.pc := by
  have hmap : ∀ f : Task → Task, (∀ t, (f t).pc = t.pc) → (m.mapTask g f).t.pc = m.t.pc := by
    intro f hf
    rw [Mach.mapTask_t]
    split
    · exact hf _
    · rfl
  unfold Mach.haltRoute
  simp only [if_neg hc]
  split
  · exact (congrArg Task.pc (Mach.raiseLine_t _ _ _ _)).trans (hmap _ fun _ => rfl)
  · exact (congrArg Task.pc ((Mach.haltError_t _ _ _).trans (Mach.raiseLine_t _ _ _ _))).trans (hmap _ fun _ => rfl)

theorem Mach.enterFault_task (m : Mach) (c : Nat) (va : Word) (cause acc : Nat) (g : Option Gid) (e : Option EngRef) :
    (m.enterFault c va cause acc g e).2.t = m.t := by
  unfold Mach.enterFault
  dsimp only
  split
  · rfl
  · split <;> rfl

/-- PROT takes the kernel's route, or inside a handler the halt route: the pc stays (R165, R166). -/
theorem Mach.raise_prot_pc {m : Mach} (hr : m.t.region = none) (addr : Word) (cause acc : Nat) :
    (m.raise prot addr 0 cause acc).t.pc = m.t.pc := by
  have hroute : (m.takeRoute prot addr 0 cause acc).t.pc = m.t.pc := by
    have habort : m.t.aborted abFault = m.t := by rw [Task.aborted, hr]
    unfold Mach.takeRoute
    simp only [habort]
    split
    · exact Mach.haltRoute_pc _ (by decide) _ _ _
    · show ((_ : Mach).kernelRoute prot addr cause acc).t.pc = m.t.pc
      unfold Mach.kernelRoute
      dsimp only
      rw [if_neg (by decide), if_neg (by decide)]
      dsimp only
      rw [Mach.enterFault_task]
  unfold Mach.raise
  dsimp only
  split
  · rw [Mach.mapTask_t]
    split
    · exact hroute
    · exact hroute
  · exact hroute

/-! ### FENCE -/

theorem fenceM_ok {m m1 : Mach} {x : Option XMod} (h : m.releaseAt (relOf x) = .ok m1) :
    fenceM x m = .ok { m1 with t := m1.t.acquireAt (acqOf x) m1.order } := by simp only [fenceM, h, ok_bind]

theorem fenceM_error {m : Mach} {x : Option XMod} {e : Stop} (h : m.releaseAt (relOf x) = .error e) : fenceM x m = .error e := by
  simp only [fenceM, h, error_bind]

theorem Task.acquireAt_keeps (t : Task) (sc : Option Scope) (n : Nat) :
    (t.acquireAt sc n).region = t.region ∧ (t.acquireAt sc n).phase = t.phase := by
  unfold Task.acquireAt
  cases sc with
  | none => exact ⟨rfl, rfl⟩
  | some sc => cases sc <;> exact ⟨rfl, rfl⟩

theorem acqOf_some (x : XMod) : acqOf (some x) = if x.ord = .acq ∨ x.ord = .acqrel then some x.scope else none := rfl

/-- What an effect that goes through outside a region leaves waiting, and that one whose log is full, or that exceeds a region it
finds itself in, leaves the pc. -/
theorem conclude_attempt_weak {m m1 : Mach} {rule : RRule} {f : Mach → Except Stop Mach} (hr : m.t.region = none) (hf : f m = .ok m1) :
    (m.conclude (m.attempt rule f)).weak = m1.weak ∨ (m.conclude (m.attempt rule f)).t.pc = m.t.pc := by
  have hattempt : m.attempt rule f = (do
      let t2 ← m1.t.within
      if m.fits m1 m.cur then .ok { m1 with t := t2 } else .error (.wait .silt)) := by
    simp only [Mach.attempt, Task.allow, hr, hf, ok_bind]
  rw [hattempt]
  cases hw : m1.t.within with
  | error e =>
    have he : ∃ c, e = .abort c := by
      unfold Task.within at hw
      split at hw
      · exact absurd hw nofun
      · split at hw
        · exact ⟨_, (Except.error.inj hw).symm⟩
        · exact absurd hw nofun
    obtain ⟨c, rfl⟩ := he
    rw [error_bind]
    exact .inr (congrArg Task.pc (show m.t.aborted c = m.t by rw [Task.aborted, hr]))
  | ok t2 =>
    rw [ok_bind]
    split
    · left
      unfold Mach.conclude
      dsimp only
      split <;> rfl
    · exact .inr rfl

/-- Settles O24: FENCE by what a release leaves waiting (`releaseAt_rest`), and by the pc's standing still where one stops. -/
theorem fences : Obligations.Fences := by
  unfold Obligations.Fences
  intro s x h
  have hdone : ∀ sc, pvisM s.m = .ok { s.m with t := s.m.t.acquire sc s.m.order } →
      exec .pvis s = .next (s.done (s.m.t.acquire sc s.m.order)) := fun sc hm => by
    obtain ⟨hr, hp⟩ := s.m.t.acquireAt_keeps (some sc) s.m.order
    exact issue_ok (f := pvisM) h.1 hm (hr.trans h.1) (ready_not_held (hp.trans h.2)) (fits_of_ctxs rfl _)
  refine ⟨fun hw => ?_, fun hrel s1 hx hpc hne _ w hw hown => ?_, fun hrec => hdone .dv ?_, fun r hrec hpend => hdone .dv ?_,
    fun r hrec hpend => ?_⟩
  · obtain ⟨hr, hp⟩ := s.m.t.acquireAt_keeps (acqOf (some x)) s.m.order
    have hfence : exec (.fence (some x)) s = .next (s.done (s.m.t.acquireAt (acqOf (some x)) s.m.order)) :=
      issue_ok (f := fenceM (some x)) h.1 (fenceM_ok (releaseAt_none hw _)) (hr.trans h.1) (ready_not_held (hp.trans h.2))
        (fits_of_ctxs rfl _)
    rw [hfence, acqOf_some]
    by_cases hacq : x.ord = .acq ∨ x.ord = .acqrel
    · simp only [if_pos hacq]
      cases x.scope <;> rfl
    · simp only [if_neg hacq]
      rfl
  · have hsc : relOf (some x) = some x.scope := if_pos hrel
    have hs1 : s1.m = s.m.conclude (s.m.attempt (.abort abForbidden) (fenceM (some x))) := by
      rw [← Host.Outcome.next.inj hx]
    cases hm : s.m.releaseAt (relOf (some x)) with
    | ok m1 =>
      rcases conclude_attempt_weak (rule := .abort abForbidden) h.1 (fenceM_ok hm) with hweak | hstay
      · rw [hsc] at hm
        rw [hs1, hweak] at hw
        exact releaseAt_rest hm w hw hown
      · exact absurd (hpc.symm.trans (hs1 ▸ hstay)) hne
    | error e =>
      have hstay : s1.m.t.pc = s.m.t.pc := by
        rw [hs1, attempt_error h.1 (fenceM_error hm)]
        obtain ⟨p, rfl⟩ | ⟨acc, va, rfl⟩ := releaseAt_stops hm
        · rfl
        · exact Mach.raise_prot_pc h.1 va 1 acc
      exact absurd (hpc.symm.trans hstay) hne
  · rw [pvisM, hrec]
  · rw [pvisM, hrec]
    exact if_neg (by rw [Mach.predecessorsOpen, hpend]; decide)
  · have hm : pvisM s.m = .error (.retry .order) := by
      rw [pvisM, hrec]
      exact if_pos (decide_eq_true hpend)
    exact issue_error h.1 hm

end Sys2Proof.Machine
end

section
/-! SUPPORT. Memory at rest (15 R292, 16 R298 to R302, 17 R320): the checks of an access that nothing holds up, and a write that no
watchpoint and no waiting task reacts to. -/

namespace Sys2Proof.Machine

/-- No watchpoint is armed, and no task waits for a word or a barrier. -/
def Mach.Calm (m : Mach) : Prop := (∀ t ∈ m.tasks, t.watchEn = false) ∧ m.unwaited

theorem State.atRest.calm {s : State} (h : s.atRest) (hp : s.m.t.phase = .ready) : s.m.Calm := by
  refine ⟨h.unwatched, fun t ht w hw => ?_⟩
  rcases List.mem_cons.mp ht with rfl | ht
  · exact absurd (hp.symm.trans hw) nofun
  · have hin := (h.others t ht).2
    simp [Task.inWait, hw] at hin

/-- A chip with the same tasks, or with one in focus that neither waits nor watches. -/
theorem Mach.Calm.of {m m1 : Mach} (h : m.Calm) (ho : m1.others = m.others) (hw : m1.t.watchEn = m.t.watchEn)
    (hp : ∀ w, m1.t.phase ≠ .waiting w) : m1.Calm := by
  refine ⟨fun t ht => ?_, fun t ht => ?_⟩
  · rcases List.mem_cons.mp ht with rfl | ht
    · exact hw.trans (h.1 _ (List.mem_cons_self ..))
    · exact h.1 t (List.mem_cons_of_mem _ (ho ▸ ht))
  · rcases List.mem_cons.mp ht with rfl | ht
    · exact hp
    · exact h.2 t (List.mem_cons_of_mem _ (ho ▸ ht))

theorem Mach.Calm.congr {m m1 : Mach} (h : m.Calm) (ho : m1.others = m.others) (ht : m1.t = m.t) : m1.Calm :=
  h.of ho (congrArg Task.watchEn ht) (ht ▸ h.2 _ (List.mem_cons_self ..))

/-! ### The checks (16 R298) -/

theorem Task.watchCheck_off {t : Task} (h : t.watchEn = false) (l : Loc) (n : Nat) (offs : List Nat) (write : Bool) :
    t.watchCheck l n offs write = .ok () := by
  have hnone : t.watches l offs write = none := by simp [Task.watches, h]
  rw [Task.watchCheck, hnone]
  split <;> rfl

theorem effective_ok {t : Task} {m : Option XMod} {a : Opnd} {n : Nat} (hr : t.raw m a = .ok (t.val a)) (hn : (t.val a).toNat % n = 0) :
    t.effective m a n = .ok (t.val a) := by
  simp only [Task.effective, hr, aligned, if_pos hn, ok_bind]

/-! ### The order of an access (16 R302, R321) -/

/-- An access of n bytes has taken its place: the thread's own stores there are performed, and its later loads barred. -/
def Mach.touched (m : Mach) (g : Gid) (k n : Nat) : Mach := (m.tick.drainOwn g k n).touchLine g k n

theorem Mach.touched_eq {m : Mach} (hw : m.weak = []) (g : Gid) (k n : Nat) :
    ∃ reqs, m.touched g k n = { m with order := m.order + 1, reqs := reqs } := by
  have hd : m.tick.drainOwn g k n = m.tick := drain_none (m := m.tick) hw _
  rw [Mach.touched, hd]
  exact ⟨_, rfl⟩

/-! ### Records (23 R393, R397) -/

/-- The record of a write is of the bytes, the bits and the log it finds. -/
theorem Mach.siltWrite_congr {m m1 : Mach} (hmem : m1.mem = m.mem) (hfe : m1.fe = m.fe) (hctxs : m1.ctxs = m.ctxs) (c space k n party : Nat)
    (g : Gid) : (m1.siltWrite c space k n party g).ctxs = (m.siltWrite c space k n party g).ctxs := by
  have hctx : m1.ctx c = m.ctx c := by rw [Mach.ctx, hctxs, ← Mach.ctx]
  have hrec : m1.siltRec (m.ctx c).silt space k n party g = m.siltRec (m.ctx c).silt space k n party g := by
    simp only [Mach.siltRec, Mach.peek, Mach.byte, Mach.feBits, Mach.full, hmem, hfe]
  unfold Mach.siltWrite
  dsimp only
  rw [hctx, hrec]
  split
  · exact hctxs
  · rw [Mach.setCtx, Mach.setCtx, hctxs]

theorem Mach.recorded_congr {m m1 : Mach} (hmem : m1.mem = m.mem) (hfe : m1.fe = m.fe) (hctxs : m1.ctxs = m.ctxs) (g : Gid) (party : Nat)
    (l : Loc) (n : Nat) : (m1.recorded g party l n).ctxs = (m.recorded g party l n).ctxs := by
  unfold Mach.recorded
  split
  · rw [Mach.setCtx, Mach.setCtx, hctxs]
  · exact Mach.siltWrite_congr hmem hfe hctxs _ _ _ _ _ _

theorem Mach.hasStruck_of_logs {n : Nat} {m m1 : Mach} (h : Mach.Logs n m m1) (c party : Nat) (g : Gid) :
    m1.hasStruck c party g = m.hasStruck c party g := h.wrote.hasStruck c party g

/-- The effect of an instruction whose records the log has room for is done (23 R401). -/
theorem fits_of_logs {n : Nat} {m m1 : Mach} {c : Nat} (h : Ctx.Logs n (m.ctx c) (m1.ctx c)) (hr : (m.ctx c).silt.room n = true) :
    m.fits m1 c = true := by
  have hroom := h.room (a := n) (b := 0) hr
  rw [Mach.fits, hroom, Bool.or_true]

/-! ### Writes and the full/empty bit (16 R299, R309) -/

/-- A write to a scratchpad, whose owner then serves the requests it holds (16 R310). -/
theorem Mach.writeCells_front {l : Loc} (hl : l.inside) {core : Nat} (hf : l.frontOwner = some core) (m : Mach) (g : Gid) (party n : Nat)
    (cells : List (Nat × Byte)) : ∃ old seq offs, m.writeCells g party l n cells =
      ((({ (m.tick.recorded g party l n).noteCode (ctxOf g) l cells with
        mem := pokeCells ((m.tick.recorded g party l n).noteCode (ctxOf g) l cells).mem cells } : Mach).strikes
          (ctxOf g) l n offs g party old seq).dropNotes m).settleAll core := by
  refine ⟨BitVec.ofNat 64 (m.tick.word l.key), (m.tick.ctx (ctxOf g)).silt.nextSeq, cells.map fun p => p.1 - l.key, ?_⟩
  unfold Mach.writeCells
  rcases hl with hl | ⟨c, hl⟩
  · simp only [hl, hf]
    rfl
  · simp only [hl, hf]
    rfl

/-- A write at its home in a calm chip: its record or its mark, and its bytes. -/
theorem Mach.writeCells_calm {m : Mach} (h : m.Calm) {l : Loc} (hl : l.inside) (g : Gid) (party n : Nat) (cells : List (Nat × Byte))
    (hs : m.hasStruck (ctxOf g) party g = false) (hn : n ≤ 64) : ∃ code ctxs, m.writeCells g party l n cells =
      { m with order := m.order + 1, ctxs := ctxs, codeOld := code, mem := pokeCells m.mem cells } ∧
      ctxs = (m.recorded g party l n).ctxs := by
  have hrec := m.tick.logs_recorded g party l hn
  have hcong := m.recorded_congr (m1 := m.tick) rfl rfl rfl g party l n
  obtain ⟨a, ha⟩ : ∃ a, a = m.tick.recorded g party l n := ⟨_, rfl⟩
  rw [← ha] at hrec hcong
  obtain ⟨b, hb⟩ : ∃ b, b = ({ a.noteCode (ctxOf g) l cells with mem := pokeCells (a.noteCode (ctxOf g) l cells).mem cells } : Mach) := ⟨_, rfl⟩
  have hbeq : b = { m with order := m.order + 1, ctxs := a.ctxs, codeOld := b.codeOld, mem := pokeCells m.mem cells } := by
    rw [hb, noteCode_shape, hrec.frame]
    rfl
  have hcalm : b.Calm := h.congr (by rw [hbeq]) (by rw [hbeq])
  have hstruck : b.hasStruck (ctxOf g) party g = false := by
    have hb1 : b.hasStruck (ctxOf g) party g = a.hasStruck (ctxOf g) party g := by rw [hbeq]; rfl
    exact hb1.trans ((Mach.hasStruck_of_logs hrec _ _ _).trans hs)
  have hstrikes : ∀ offs old seq, b.strikes (ctxOf g) l n offs g party old seq = b := fun offs old seq =>
    strikes_none hcalm.1 (hs := hstruck) ..
  have hwrite : m.writeCells g party l n cells = b := by
    cases hf : l.frontOwner with
    | none =>
      obtain ⟨old, seq, offs, he⟩ := Mach.writeCells_inside hl hf m g party n cells
      rw [he, ← ha, ← hb, hstrikes]
    | some core =>
      obtain ⟨old, seq, offs, he⟩ := Mach.writeCells_front hl hf m g party n cells
      rw [he, ← ha, ← hb, hstrikes, Mach.dropNotes_unwaited hcalm.2, Mach.settleAll_unwaited hcalm.2]
  exact ⟨b.codeOld, a.ctxs, hwrite.trans hbeq, hcong⟩

/-- A full/empty operation that writes its word's bit, in a calm chip. -/
theorem Mach.performFe_calm {m : Mach} (h : m.Calm) (g : Gid) (party core off : Nat) (v : Word) {op : Nat} (hop : op ≠ 1)
    (hs : m.hasStruck (ctxOf g) party g = false) : ∃ ctxs, m.performFe g party op core off v =
      ({ m with ctxs := ctxs, mem := if op = 2 then pokeMem m.mem (m.frontKey core off) (leBytes v.toNat 8) else m.mem,
                fe := Tab.put false m.fe (m.frontKey core off / 8) (decide (op = 2 ∨ op = 4)) },
        BitVec.ofNat 64 (m.word (m.frontKey core off))) ∧
      ctxs = (m.siltWrite (ctxOf g) 1 (m.frontKey core off) 8 party g).ctxs := by
  have hrec := m.logs_siltWrite (ctxOf g) 1 (m.frontKey core off) party g (n := 8) (by decide)
  obtain ⟨a, ha⟩ : ∃ a, a = m.siltWrite (ctxOf g) 1 (m.frontKey core off) 8 party g := ⟨_, rfl⟩
  rw [← ha] at hrec ⊢
  obtain ⟨b, hb⟩ : ∃ b, b = (if op = 2 then { a with mem := pokeMem a.mem (m.frontKey core off) (leBytes v.toNat 8) } else a).setFull
    (m.frontKey core off) (decide (op = 2 ∨ op = 4)) := ⟨_, rfl⟩
  have hbeq : b = { m with ctxs := a.ctxs, mem := if op = 2 then pokeMem m.mem (m.frontKey core off) (leBytes v.toNat 8) else m.mem,
                           fe := Tab.put false m.fe (m.frontKey core off / 8) (decide (op = 2 ∨ op = 4)) } := by
    rw [hb, hrec.frame]
    by_cases h2 : op = 2
    · rw [if_pos h2, if_pos h2]
      rfl
    · rw [if_neg h2, if_neg h2]
      rfl
  have hcalm : b.Calm := h.congr (by rw [hbeq]) (by rw [hbeq])
  have hstruck : b.hasStruck (ctxOf g) party g = false := by
    have hb1 : b.hasStruck (ctxOf g) party g = a.hasStruck (ctxOf g) party g := by rw [hbeq]; rfl
    exact hb1.trans ((Mach.hasStruck_of_logs hrec _ _ _).trans hs)
  refine ⟨a.ctxs, ?_, rfl⟩
  unfold Mach.performFe
  rw [if_neg hop]
  show ((Mach.strikes _ _ _ _ _ _ _ _ _).dropNotes m, _) = _
  rw [← hbeq]
  refine congrArg (·, BitVec.ofNat 64 (m.word (m.frontKey core off))) ?_
  rw [show (m.frontLoc core off).key = m.frontKey core off from rfl, ← ha, ← hb, strikes_none hcalm.1 (hs := hstruck),
    Mach.dropNotes_unwaited hcalm.2]

end Sys2Proof.Machine
end

section
/-! PROOFS. O22: the full/empty operations. -/

namespace Sys2Proof.Machine

/-! ### An access performed, whose thread waits for the answer of a home outside its core (16 R307) -/

/-- The task once its access is under way. -/
def Task.parkedBy (t : Task) (l : Loc) : Task := if parks l then { t with phase := .parked .mem } else t

theorem Mach.parkMem_eq (m : Mach) (l : Loc) : m.parkMem l = { m with t := m.t.parkedBy l } := by
  unfold Mach.parkMem Task.parkedBy
  split <;> rfl

theorem Task.parkedBy_keeps (t : Task) (l : Loc) : (t.parkedBy l).region = t.region ∧ (t.parkedBy l).npc = t.npc ∧
    ∀ j, (t.parkedBy l).cell j = t.cell j := by
  unfold Task.parkedBy
  split <;> exact ⟨rfl, rfl, fun _ => rfl⟩

theorem Task.parkedBy_phase {t : Task} (h : t.phase = .ready) (l : Loc) :
    (t.parkedBy l).phase = if parks l then .parked .mem else .ready := by
  unfold Task.parkedBy
  split
  · rfl
  · exact h

theorem Task.parkedBy_not_held {t : Task} (h : t.phase = .ready) (l : Loc) : (t.parkedBy l).isHeld = false := by
  rw [Task.isHeld, Task.parkedBy_phase h]
  cases parks l <;> rfl

/-- An access that goes through completes its instruction, and parks its thread where the home is outside the core. -/
theorem issue_parks {s : State} {m1 : Mach} {l : Loc} {rule : RRule} {f : Mach → Except Stop Mach} (h : s.m.t.region = none)
    (hf : f s.m = .ok (m1.parkMem l)) (hr : m1.t.region = none) (hp : m1.t.phase = .ready) (hs : s.m.fits m1 s.m.cur = true) :
    issue rule f s = .next { s with m := { m1 with t := (m1.t.parkedBy l).retire } } := by
  rw [Mach.parkMem_eq] at hf
  exact issue_ok (m1 := { m1 with t := m1.t.parkedBy l }) h hf ((m1.t.parkedBy_keeps l).1.trans hr) (Task.parkedBy_not_held hp l) hs

theorem Task.acquireAt_img (t : Task) (sc : Option Scope) (n : Nat) :
    (t.acquireAt sc n).img = t.img ∧ (t.acquireAt sc n).npc = t.npc := by
  unfold Task.acquireAt
  cases sc with
  | none => exact ⟨rfl, rfl⟩
  | some sc => cases sc <;> exact ⟨rfl, rfl⟩

/-- What a result leaves of a task outside a region. -/
theorem Task.wr_keeps {t : Task} (h : t.region = none) (d : Opnd) (v : Word) (g : Tag) :
    (t.wr d v g).region = none ∧ (t.wr d v g).phase = t.phase ∧ (t.wr d v g).npc = t.npc := by
  rw [Task.wr, wrMark_plain h]
  exact ⟨h, rfl, rfl⟩

/-- The task that a full/empty operation has given its result, if it has one, and the acquire. -/
def Task.feDone (t : Task) (op : Nat) (d : Opnd) (old : Word) (sc : Option Scope) (n : Nat) : Task :=
  (if op = 2 then t else t.wr d old .raw).acquireAt sc n

theorem Task.feDone_spec {t : Task} (h : t.region = none) (op : Nat) (d : Opnd) (old : Word) (sc : Option Scope) (n : Nat) :
    (t.feDone op d old sc n).region = none ∧ (t.feDone op d old sc n).phase = t.phase ∧ (t.feDone op d old sc n).npc = t.npc ∧
    ∀ j, (t.feDone op d old sc n).cell j = if op ≠ 2 ∧ (j = 0 ∨ j = d.key) then ⟨old, .raw, none⟩ else t.cell j := by
  obtain ⟨hregion, hphase⟩ := Task.acquireAt_keeps (if op = 2 then t else t.wr d old .raw) sc n
  obtain ⟨himg, hnpc⟩ := Task.acquireAt_img (if op = 2 then t else t.wr d old .raw) sc n
  have hcell : ∀ j, (t.feDone op d old sc n).cell j = (if op = 2 then t else t.wr d old .raw).cell j := fun j => by
    rw [Task.cell, Task.feDone, himg, ← Task.cell]
  by_cases h2 : op = 2
  · simp only [if_pos h2] at hregion hphase hnpc hcell
    exact ⟨(congrArg Task.region (by rw [Task.feDone, if_pos h2])).trans (hregion.trans h),
      (congrArg Task.phase (by rw [Task.feDone, if_pos h2])).trans hphase,
      (congrArg Task.npc (by rw [Task.feDone, if_pos h2])).trans hnpc, fun j => (hcell j).trans (if_neg fun hn => hn.1 h2).symm⟩
  · simp only [if_neg h2] at hregion hphase hnpc hcell
    obtain ⟨hwr, hwp, hwn⟩ := Task.wr_keeps h d old .raw
    refine ⟨(congrArg Task.region (by rw [Task.feDone, if_neg h2])).trans (hregion.trans hwr),
      (congrArg Task.phase (by rw [Task.feDone, if_neg h2])).trans (hphase.trans hwp),
      (congrArg Task.npc (by rw [Task.feDone, if_neg h2])).trans (hnpc.trans hwn), fun j => (hcell j).trans ?_⟩
    simp only [ne_eq, h2, not_false_eq_true, true_and]
    exact cell_wrMark t d old .raw none j

/-! ### Their effect -/

section
variable {m : Mach} (hcalm : m.Calm) (hweak : m.weak = [])
include hcalm hweak

/-- A full/empty operation performed: LDFF changes nothing; the others write the bit, under a record. -/
theorem Mach.touched_performFe (g : Gid) (k party core off op : Nat) (v : Word) (hs : m.hasStruck (ctxOf g) party g = false) :
    ∃ reqs ctxs mem fe, (m.touched g k 8).performFe g party op core off v =
      ({ m with order := m.order + 1, reqs := reqs, ctxs := ctxs, mem := mem, fe := fe }, BitVec.ofNat 64 (m.word (m.frontKey core off))) ∧
      (op = 1 → ctxs = m.ctxs ∧ mem = m.mem ∧ fe = m.fe) ∧
      (op ≠ 1 → ctxs = (m.siltWrite (ctxOf g) 1 (m.frontKey core off) 8 party g).ctxs ∧
        mem = (if op = 2 then pokeMem m.mem (m.frontKey core off) (leBytes v.toNat 8) else m.mem) ∧
        fe = Tab.put false m.fe (m.frontKey core off / 8) (decide (op = 2 ∨ op = 4))) := by
  obtain ⟨reqs, ht⟩ := Mach.touched_eq hweak g k 8
  by_cases hop : op = 1
  · refine ⟨reqs, m.ctxs, m.mem, m.fe, ?_, fun _ => ⟨rfl, rfl, rfl⟩, fun h => absurd hop h⟩
    rw [Mach.performFe, if_pos hop, ht]
    rfl
  · generalize m.touched g k 8 = m2 at ht
    have hcalm2 : m2.Calm := hcalm.congr (by rw [ht]) (by rw [ht])
    have hs2 : m2.hasStruck (ctxOf g) party g = false := by
      rw [ht]
      exact hs
    obtain ⟨ctxs, he, hctxs⟩ := Mach.performFe_calm hcalm2 g party core off v hop hs2
    have hcong := Mach.siltWrite_congr (m := m) (m1 := m2) (by rw [ht]) (by rw [ht]) (by rw [ht]) (ctxOf g) 1 (m2.frontKey core off) 8 party g
    have hkey : m2.frontKey core off = m.frontKey core off := by
      rw [ht]
      rfl
    rw [hkey] at he hctxs hcong
    refine ⟨reqs, ctxs, _, _, ?_, fun h => absurd h hop, fun _ => ⟨hctxs.trans hcong, rfl, rfl⟩⟩
    rw [he, ht]
    rfl

end

/-- The log has room for the record of a full/empty operation. -/
theorem fits_siltWrite {m m1 : Mach} {c space k n party : Nat} {g : Gid} (h : m1.ctxs = (m.siltWrite c space k n party g).ctxs)
    (hn : n ≤ 64) (hr : (m.ctx c).silt.room 96 = true) : m.fits m1 c = true := by
  have hlogs := (m.logs_siltWrite c space k party g hn).ctx c
  have hc : m1.ctx c = (m.siltWrite c space k n party g).ctx c := by rw [Mach.ctx, h, ← Mach.ctx]
  rw [← hc] at hlogs
  exact fits_of_logs hlogs hr

section
variable {m : Mach} {mod : Option XMod} {d a : Opnd} {l : Loc} {core off : Nat} {ad : Word} (hweak : m.weak = [])
  (hnamed : m.named ad = (core, off))
include hweak hnamed

theorem feM_performs {op : Nat} (hb : m.t.bounds [d, a] = .ok ()) (hl : m.feLoc mod a 8 needRW (op != 1) = .ok (ad, l))
    (hfull : m.full l.key = (op != 2)) {m3 : Mach} {old : Word}
    (hp : (m.touched m.t.gid l.key 8).performFe m.t.gid (threadParty m.t.core) op core off (m.t.val d) = (m3, old)) :
    feM op mod d a m = .ok ((({ m3 with
      t := m3.t.feDone op d old (acqOf mod) m3.order } : Mach).settleAll core).parkMem l) := by
  have hfull2 : (m.touched m.t.gid l.key 8).full l.key = (op != 2) := by
    obtain ⟨reqs, ht⟩ := Mach.touched_eq hweak m.t.gid l.key 8
    rw [ht]
    exact hfull
  simp only [feM, hb, hl, ok_bind, releaseAt_none hweak, hnamed]
  rw [← Mach.touched, if_pos hfull2, hp]
  rfl

theorem feM_waits {op : Nat} (hb : m.t.bounds [d, a] = .ok ()) (hl : m.feLoc mod a 8 needRW (op != 1) = .ok (ad, l))
    (hfull : m.full l.key ≠ (op != 2)) : ∃ reqs, feM op mod d a m = .ok { m with
      order := m.order + 1, reqs := reqs
      t := { m.t with phase := .waiting (.word op core off d (m.t.val d) (m.order + 1) true (acqOf mod)) } } := by
  obtain ⟨reqs, ht⟩ := Mach.touched_eq hweak m.t.gid l.key 8
  have hfull2 : ¬ (m.touched m.t.gid l.key 8).full l.key = (op != 2) := by
    rw [ht]
    exact hfull
  refine ⟨reqs, ?_⟩
  simp only [feM, hb, hl, ok_bind, releaseAt_none hweak, hnamed]
  rw [← Mach.touched, if_neg hfull2, ht]

theorem feSetM_performs {b : Bool} (hb : m.t.bounds [a] = .ok ()) (hl : m.feLoc mod a 8 needRW true = .ok (ad, l)) {m3 : Mach} {old : Word}
    (hp : (m.touched m.t.gid l.key 8).performFe m.t.gid (threadParty m.t.core) (if b then 4 else 3) core off 0 = (m3, old)) :
    feSetM b mod a m = .ok ((m3.settleAll core).parkMem l) := by
  simp only [feSetM, hb, hl, ok_bind, releaseAt_none hweak, hnamed]
  rw [← Mach.touched, hp]

end

/-! ### The instructions -/

section
variable {s : State} {m : Option XMod} {d a : Opnd} {core off : Nat} (hrest : s.atRest) (h : s.ready m [d, a] [a])
  (halign : (s.m.t.val a).toNat % 8 = 0) (hscratch : scratchOf s.m.t.core (s.m.t.val a) = some (core, off))
  (hreach : ∀ need, need ≤ 3 → ∃ l, s.m.reachS s.m.cur s.m.t.core (s.m.t.val a) 8 need false = .ok l ∧ l.key = s.m.frontKey core off)

include hscratch in
theorem Mach.named_eq : s.m.named (s.m.t.val a) = (core, off) := by rw [Mach.named, hscratch, Option.getD_some]

include hrest h halign hreach

theorem feLoc_ok (write : Bool) : ∃ l, s.m.feLoc m a 8 needRW write = .ok (s.m.t.val a, l) ∧ l.key = s.m.frontKey core off := by
  obtain ⟨l, hl, hkey⟩ := hreach needRW (le_refl 3)
  refine ⟨l, ?_, hkey⟩
  simp only [Mach.feLoc, effective_ok (h.2.2.raw (List.mem_singleton_self a)) halign, hl, Task.watchCheck_off hrest.watch,
    needEntries_ok hrest.weak [l] (by simp) hrest.entries, ok_bind]

include hscratch

/-- LDFE (0), LDFF (1) and STFE (2) where the condition holds. -/
theorem exec_fe_done {i : Instr} {op : Nat} (hi : exec i s = issue (.abort abForbidden) (feM op m d a) s)
    (hfull : s.m.full (s.m.frontKey core off) = (op != 2)) : ∃ s1, exec i s = .next s1 ∧ s1.m.t.pc = s.m.t.npc ∧
      (∀ j, s1.m.t.cell j = if op ≠ 2 ∧ (j = 0 ∨ j = d.key) then ⟨BitVec.ofNat 64 (s.m.word (s.m.frontKey core off)), .raw, none⟩
        else s.m.t.cell j) ∧
      (op = 1 → s1.m.ctxs = s.m.ctxs ∧ s1.m.mem = s.m.mem ∧ s1.m.fe = s.m.fe) ∧
      (op ≠ 1 → s1.m.ctxs = (s.m.siltWrite s.m.cur 1 (s.m.frontKey core off) 8 (threadParty s.m.t.core) s.m.t.gid).ctxs ∧
        s1.m.mem = (if op = 2 then pokeMem s.m.mem (s.m.frontKey core off) (leBytes (s.m.t.val d).toNat 8) else s.m.mem) ∧
        s1.m.fe = Tab.put false s.m.fe (s.m.frontKey core off / 8) (decide (op = 2 ∨ op = 4))) := by
  have hcalm := hrest.calm h.1.2
  obtain ⟨l, hl, hkey⟩ := feLoc_ok hrest h halign hreach (op != 1)
  obtain ⟨reqs, ctxs, mem, fe, hp, hsame, hdone⟩ := Mach.touched_performFe hcalm hrest.weak s.m.t.gid l.key (threadParty s.m.t.core)
    core off op (s.m.t.val d) hrest.struck
  have hm := feM_performs hrest.weak (Mach.named_eq hscratch) h.2.1.bounds hl (hkey ▸ hfull) hp
  obtain ⟨hreg, hphase, hnpc, hcell⟩ := Task.feDone_spec h.1.1 op d (BitVec.ofNat 64 (s.m.word (s.m.frontKey core off))) (acqOf m)
    (s.m.order + 1)
  obtain ⟨t1, ht1⟩ : ∃ t1, t1 = s.m.t.feDone op d (BitVec.ofNat 64 (s.m.word (s.m.frontKey core off))) (acqOf m) (s.m.order + 1) := ⟨_, rfl⟩
  rw [← ht1] at hreg hphase hnpc hcell
  replace hphase := hphase.trans h.1.2
  have hcalm1 : ({ s.m with order := s.m.order + 1, reqs := reqs, ctxs := ctxs, mem := mem, fe := fe, t := t1 } : Mach).unwaited := by
    intro t ht w hw
    rcases List.mem_cons.mp ht with rfl | ht
    · exact absurd (hphase.symm.trans hw) nofun
    · exact hcalm.2 t (List.mem_cons_of_mem _ ht) w hw
  have hm2 : feM op m d a s.m =
      .ok (({ s.m with order := s.m.order + 1, reqs := reqs, ctxs := ctxs, mem := mem, fe := fe, t := t1 } : Mach).parkMem l) := by
    rw [hm, ← Mach.settleAll_unwaited hcalm1 core, ht1]
  have hfits : s.m.fits { s.m with order := s.m.order + 1, reqs := reqs, ctxs := ctxs, mem := mem, fe := fe, t := t1 } s.m.cur = true := by
    by_cases hop : op = 1
    · exact fits_of_ctxs (hsame hop).1 _
    · exact fits_siltWrite (hdone hop).1 (by decide) hrest.room
  obtain ⟨-, hpnpc, hpcell⟩ := t1.parkedBy_keeps l
  exact ⟨_, hi.trans (issue_parks h.1.1 hm2 hreg hphase hfits), hpnpc.trans hnpc, fun j => (hpcell j).trans (hcell j), hsame, hdone⟩

/-- LDFE (0), LDFF (1) and STFE (2) where it does not. -/
theorem exec_fe_waits {i : Instr} {op : Nat} (hi : exec i s = issue (.abort abForbidden) (feM op m d a) s)
    (hfull : s.m.full (s.m.frontKey core off) ≠ (op != 2)) : ∃ s1 o, exec i s = .next s1 ∧ s1.m.mem = s.m.mem ∧ s1.m.fe = s.m.fe ∧
      s1.m.ctxs = s.m.ctxs ∧ s1.m.t = { s.m.t with phase := .waiting (.word op core off d (s.m.t.val d) o true (acqOf m)) } := by
  obtain ⟨l, hl, hkey⟩ := feLoc_ok hrest h halign hreach (op != 1)
  obtain ⟨reqs, hm⟩ := feM_waits hrest.weak (Mach.named_eq hscratch) h.2.1.bounds hl (hkey ▸ hfull)
  exact ⟨_, s.m.order + 1, hi.trans (issue_held h.1.1 hm h.1.1 rfl (fits_of_ctxs rfl _)), rfl, rfl, rfl, rfl⟩

/-- FESET and FECLR write the bit under a record. -/
theorem exec_feSet {i : Instr} {b : Bool} (hi : exec i s = issue (.abort abForbidden) (feSetM b m a) s) :
    ∃ s1, exec i s = .next s1 ∧ s1.m.t.pc = s.m.t.npc ∧ (∀ j, s1.m.t.cell j = s.m.t.cell j) ∧ s1.m.mem = s.m.mem ∧
      s1.m.ctxs = (s.m.siltWrite s.m.cur 1 (s.m.frontKey core off) 8 (threadParty s.m.t.core) s.m.t.gid).ctxs ∧
      s1.m.fe = Tab.put false s.m.fe (s.m.frontKey core off / 8) b := by
  have hcalm := hrest.calm h.1.2
  obtain ⟨l, hl, -⟩ := feLoc_ok hrest h halign hreach true
  obtain ⟨reqs, ctxs, mem, fe, hp, -, hdone⟩ := Mach.touched_performFe hcalm hrest.weak s.m.t.gid l.key (threadParty s.m.t.core)
    core off (if b then 4 else 3) 0 hrest.struck
  have hop : (if b then 4 else 3) ≠ 1 := by cases b <;> decide
  obtain ⟨hctxs, hmem, hfe⟩ := hdone hop
  rw [if_neg (by cases b <;> decide)] at hmem
  have hbit : decide ((if b then 4 else 3) = 2 ∨ (if b then 4 else 3) = 4) = b := by cases b <;> rfl
  rw [hbit] at hfe
  have hm := feSetM_performs hrest.weak (Mach.named_eq hscratch) (State.ready.bounds_last h) hl hp
  have hcalm1 : ({ s.m with order := s.m.order + 1, reqs := reqs, ctxs := ctxs, mem := mem, fe := fe } : Mach).unwaited := hcalm.2
  rw [Mach.settleAll_unwaited hcalm1] at hm
  obtain ⟨-, hpnpc, hpcell⟩ := s.m.t.parkedBy_keeps l
  exact ⟨_, hi.trans (issue_parks h.1.1 hm h.1.1 h.1.2 (fits_siltWrite hctxs (by decide) hrest.room)), hpnpc, hpcell, hmem, hctxs, hfe⟩

end

theorem word_eq_number (m : Mach) (k : Nat) : m.word k = m.number k 8 := leNat_peek m k 8

/-- Settles O22: the operations by `exec_fe_done` where the condition holds, by `exec_fe_waits` where it does not. -/
theorem fullEmpty : Obligations.FullEmpty := by
  unfold Obligations.FullEmpty
  intro s m d a hrest h halign core off hscratch hreach
  dsimp only
  have hbit : ∀ b j, Tab.look false (Tab.put false s.m.fe (s.m.frontKey core off / 8) b) j =
      if j = s.m.frontKey core off / 8 then b else Tab.look false s.m.fe j := fun b j => Tab.look_put ..
  have hnum := word_eq_number s.m (s.m.frontKey core off)
  refine ⟨fun hfull => ⟨?_, ?_, ?_⟩, fun hempty => ⟨?_, ?_, ?_⟩, ?_, ?_⟩
  · obtain ⟨s1, hx, hpc, hcell, -, hdone⟩ := exec_fe_done (i := .ldfe m d a) (op := 0) hrest h halign hscratch hreach rfl hfull
    obtain ⟨hctxs, hmem, hfe⟩ := hdone (by decide)
    refine ⟨s1, hx, hpc, fun j => (hcell j).trans ?_, fun j => (congrArg (Tab.look false · j) hfe).trans (hbit _ j), hmem, hctxs⟩
    simp [hnum]
  · obtain ⟨s1, hx, hpc, hcell, hsame, -⟩ := exec_fe_done (i := .ldff m d a) (op := 1) hrest h halign hscratch hreach rfl hfull
    obtain ⟨hctxs, hmem, hfe⟩ := hsame rfl
    refine ⟨s1, hx, hpc, fun j => (hcell j).trans ?_, hfe, hmem, hctxs⟩
    simp [hnum]
  · exact exec_fe_waits (i := .stfe m d a) (op := 2) hrest h halign hscratch hreach rfl fun hn => absurd (hfull.symm.trans hn) (by decide)
  · exact exec_fe_waits (i := .ldfe m d a) (op := 0) hrest h halign hscratch hreach rfl fun hn => absurd (hempty.symm.trans hn) (by decide)
  · exact exec_fe_waits (i := .ldff m d a) (op := 1) hrest h halign hscratch hreach rfl fun hn => absurd (hempty.symm.trans hn) (by decide)
  · obtain ⟨s1, hx, hpc, hcell, -, hdone⟩ := exec_fe_done (i := .stfe m d a) (op := 2) hrest h halign hscratch hreach rfl hempty
    obtain ⟨hctxs, hmem, hfe⟩ := hdone (by decide)
    exact ⟨s1, hx, hpc, fun j => (hcell j).trans (if_neg fun hn => hn.1 rfl), fun j => (congrArg (Tab.look false · j) hfe).trans (hbit _ j),
      storedAt_pokeMem _ _ _ _ _ hmem, hctxs⟩
  · obtain ⟨s1, hx, hpc, hcell, hmem, hctxs, hfe⟩ := exec_feSet (i := .feset m a) (b := true) hrest h halign hscratch hreach rfl
    exact ⟨s1, hx, hpc, hcell, fun j => (congrArg (Tab.look false · j) hfe).trans (hbit _ j), hmem, hctxs⟩
  · obtain ⟨s1, hx, hpc, hcell, hmem, hctxs, hfe⟩ := exec_feSet (i := .feclr m a) (b := false) hrest h halign hscratch hreach rfl
    exact ⟨s1, hx, hpc, hcell, fun j => (congrArg (Tab.look false · j) hfe).trans (hbit _ j), hmem, hctxs⟩

end Sys2Proof.Machine
end

section
/-! PROOFS. O25: barrier objects. -/

namespace Sys2Proof.Machine

/-! ### The object as its bytes hold it (15 R281) -/

theorem peek_pokeMem {m m1 : Mach} {k : Nat} {bs : List Byte} (h : m1.mem = pokeMem m.mem k bs) (a n : Nat) (ha : a + n ≤ bs.length) :
    m1.peek (k + a) n = (bs.drop a).take n := by
  refine List.ext_getElem (by simp [Mach.peek]; omega) fun i hi _ => ?_
  have hin : i < n := by simpa [Mach.peek] using hi
  simp only [Mach.peek, List.getElem_map, List.getElem_range, List.getElem_take, List.getElem_drop]
  rw [Mach.byte, h, look_pokeMem, if_pos (by omega), show k + a + i - k = a + i by omega, List.getD_eq_getElem?_getD,
    List.getElem?_eq_getElem (by omega), Option.getD_some]

/-- An object's first twelve bytes written, its EPOCH and ERR read back. -/
theorem Mach.bar_written {m m1 : Mach} {core off : Nat} {b : Bar} (hf : m1.frontKey core off = m.frontKey core off)
    (h : m1.mem = pokeMem m.mem (m.frontKey core off) b.bytes) :
    (m1.bar core off).epoch = b.epoch % 65536 ∧ (m1.bar core off).err = b.err := by
  have hepoch : m1.peek (m.frontKey core off + 8) 2 = leBytes b.epoch 2 := peek_pokeMem h 8 2 (by rw [Bar.bytes_length]; omega)
  have herr : m1.byte (m.frontKey core off + 10) = b.bytes.getD 10 0 := by
    rw [Mach.byte, h, look_pokeMem, if_pos (by rw [Bar.bytes_length]; omega), Nat.add_sub_cancel_left]
  constructor
  · show leNat (m1.peek (m1.frontKey core off + 8) 2) = _
    rw [hf, hepoch, leNat_leBytes]
    norm_num
  · show (m1.byte (m1.frontKey core off + 10)).getLsbD 0 = _
    rw [hf, herr]
    cases hb : b.err <;> simp [Bar.bytes, hb, leBytes]

/-- An object whose first twelve bytes stand is the same but for its WAITERS. -/
theorem Mach.bar_congr {m m1 : Mach} {core off : Nat} (hf : m1.frontKey core off = m.frontKey core off)
    (h : ∀ j, j < m.frontKey core off + 12 → m1.byte j = m.byte j) :
    m1.bar core off = { m.bar core off with waiters := (m1.bar core off).waiters } := by
  have hpeek : ∀ a n, a + n ≤ 12 → m1.peek (m.frontKey core off + a) n = m.peek (m.frontKey core off + a) n := fun a n ha =>
    List.map_congr_left fun i hi => h _ (by have := List.mem_range.mp hi; omega)
  have hbyte : ∀ a, a < 12 → m1.byte (m.frontKey core off + a) = m.byte (m.frontKey core off + a) := fun a ha => h _ (by omega)
  have hquota := hpeek 0 4 (by omega)
  rw [Nat.add_zero] at hquota
  simp only [Mach.bar, hf, hquota, hpeek 4 4 (by omega), hpeek 8 2 (by omega), hbyte 10 (by omega), hbyte 11 (by omega)]

theorem Mach.bar_of_mem {m m1 : Mach} (hmem : m1.mem = m.mem) (hf : m1.front = m.front) (core off : Nat) : m1.bar core off = m.bar core off := by
  simp only [Mach.bar, Mach.frontKey, Mach.frontOf, Mach.peek, Mach.byte, hmem, hf]

theorem Mach.frontKey_of_front {m m1 : Mach} (hf : m1.front = m.front) (core off : Nat) : m1.frontKey core off = m.frontKey core off := by
  simp only [Mach.frontKey, Mach.frontOf, hf]

/-- A credit does not see WAITERS. -/
theorem Bar.credit_waiters (b : Bar) (w n err : Nat) : ({ b with waiters := w }.credit n err).bytes = (b.credit n err).bytes := by
  unfold Bar.credit
  dsimp only
  split
  · rfl
  · split
    · rfl
    · split <;> rfl

theorem Mach.waitersOn_unwaited {m : Mach} (h : m.unwaited) (core off : Nat) : m.waitersOn core off = 0 := by
  have hnone : ∀ t ∈ m.tasks, (t.phase != .ended && match t.phase with
      | .waiting (.barrier c o _ _ _ h) => c == core && o == off && h
      | .waiting (.gbar c o _ _ _ h) => c == core && o == off && h
      | _ => false) = false := fun t ht => by
    split
    · next hp => exact absurd hp (h t ht _)
    · next hp => exact absurd hp (h t ht _)
    · exact Bool.and_false _
  unfold Mach.waitersOn
  rw [List.length_eq_zero_iff, List.filter_eq_nil_iff]
  exact fun t ht => Bool.eq_false_iff.mp (hnone t ht)

/-- WAITERS rewritten changes two bytes alone. -/
theorem Mach.byte_setWaiters {m : Mach} {core off k j : Nat} (hk : m.frontKey core off = k) (hj : j < k + 12 ∨ k + 14 ≤ j) :
    (m.setWaiters core off).byte j = m.byte j := by
  refine (look_pokeMem _ _ _ _).trans (if_neg ?_)
  rw [leBytes_length, hk]
  omega

/-! ### Places in the scratchpads (15 R276) -/

theorem reachS_inside {m : Mach} {c core n need : Nat} {a : Word} {back : Bool} {l : Loc} (h : m.reachS c core a n need back = .ok l) :
    l.inside := by
  unfold Mach.reachS at h
  split at h
  · exact absurd h nofun
  · dsimp only at h
    split at h
    · exact .inr ⟨_, by rw [← Except.ok.inj h]⟩
    · split at h
      · exact .inr ⟨_, by rw [← Except.ok.inj h]⟩
      · exact absurd h nofun

/-- The access of an instruction that takes no place in the order: the thread's own stores there performed, its later loads barred. -/
def Mach.reached (m : Mach) (g : Gid) (k n : Nat) : Mach := (m.drainOwn g k n).touchLine g k n

theorem Mach.reached_eq {m : Mach} (hw : m.weak = []) (g : Gid) (k n : Nat) : ∃ reqs, m.reached g k n = { m with reqs := reqs } := by
  rw [Mach.reached, Mach.drainOwn, drain_none hw]
  exact ⟨_, rfl⟩

theorem count32_ok {t : Task} {v : Word} (h : v.toNat < 2 ^ 32) : count32 t v = .ok v.toNat := if_neg (Nat.not_le.mpr h)

theorem count32_error {t : Task} {v : Word} (h : 2 ^ 32 ≤ v.toNat) : count32 t v = .error (.trap 0x01 t.pc 0) := if_pos h

/-- A write after the places its access took in the order. -/
theorem Mach.writeCells_after {m : Mach} (h : m.Calm) {l : Loc} (hl : l.inside) (g : Gid) (party n : Nat) (cells : List (Nat × Byte))
    (hs : m.hasStruck (ctxOf g) party g = false) (hn : n ≤ 64) (order : Nat) (reqs : List MReq) : ∃ code ctxs,
      ({ m with order := order, reqs := reqs } : Mach).writeCells g party l n cells =
        { m with order := order + 1, reqs := reqs, ctxs := ctxs, codeOld := code, mem := pokeCells m.mem cells } ∧
      ctxs = (m.recorded g party l n).ctxs := by
  have hcalm : ({ m with order := order, reqs := reqs } : Mach).Calm := h.congr rfl rfl
  obtain ⟨code, ctxs, he, hctxs⟩ := Mach.writeCells_calm hcalm hl g party n cells hs hn
  exact ⟨code, ctxs, he, hctxs.trans (Mach.recorded_congr (m := m) (m1 := { m with order := order, reqs := reqs }) rfl rfl rfl g party l n)⟩

/-- The log has room for the record or the mark of a write. -/
theorem fits_recorded {m m1 : Mach} {g : Gid} {party n : Nat} {l : Loc} (h : m1.ctxs = (m.recorded g party l n).ctxs) (hn : n ≤ 64)
    (hr : (m.ctx (ctxOf g)).silt.room 96 = true) : m.fits m1 (ctxOf g) = true := by
  have hlogs := (m.logs_recorded g party l hn).ctx (ctxOf g)
  have hc : m1.ctx (ctxOf g) = (m.recorded g party l n).ctx (ctxOf g) := by rw [Mach.ctx, h, ← Mach.ctx]
  rw [← hc] at hlogs
  exact fits_of_logs hlogs hr

/-! ### The effects -/

section
variable {m : Mach} {mod : Option XMod} {a b d : Opnd} {l : Loc} {core off : Nat} (hweak : m.weak = []) (hwatch : m.t.watchEn = false)
  (hentries : m.tracked (clusterOf m.t.core) + 8 ≤ 750) (ha : m.t.raw mod a = .ok (m.t.val a))
  (halign : (m.t.val a).toNat % 16 = 0) (hnamed : m.named (m.t.val a) = (core, off))
include ha

theorem binitM_count (hb : m.t.bounds [a, b] = .ok ()) (hy : m.t.raw mod b = .ok (m.t.val b)) (hq : 2 ^ 32 ≤ (m.t.val b).toNat) :
    binitM mod a b m = .error (.trap 0x01 m.t.pc 0) := by
  simp only [binitM, hb, ha, hy, count32_error hq, ok_bind, error_bind]

theorem barrM_count (hb : m.t.bounds [a, b] = .ok ()) (hy : m.t.raw mod b = .ok (m.t.val b)) (hq : 2 ^ 32 ≤ (m.t.val b).toNat) :
    barrM mod a b m = .error (.trap 0x01 m.t.pc 0) := by
  simp only [barrM, hb, ha, hy, count32_error hq, ok_bind, error_bind]

include hweak hwatch hentries halign hnamed

theorem binitM_ok (hb : m.t.bounds [a, b] = .ok ()) (hy : m.t.raw mod b = .ok (m.t.val b)) (hq : (m.t.val b).toNat < 2 ^ 32)
    (hl : m.reachS m.cur m.t.core (m.t.val a) 16 needW false = .ok l) : binitM mod a b m =
      .ok ((((m.reached m.t.gid l.key 16).write m.t.gid (threadParty m.t.core) l
        ((⟨(m.t.val b).toNat, (m.t.val b).toNat, 0, false, 0, 0⟩ : Bar).bytes ++ leBytes ((m.reached m.t.gid l.key 16).waitersOn core off) 2 ++
          [0, 0])).setWaiters core off).parkMem l) := by
  simp only [binitM, hb, ha, hy, count32_ok hq, aligned, if_pos halign, hl, Task.watchCheck_off hwatch,
    needEntries_ok hweak [l] (by simp) hentries, hnamed, ok_bind]
  rfl

theorem barrM_ok (hb : m.t.bounds [a, b] = .ok ()) (hy : m.t.raw mod b = .ok (m.t.val b)) (hq : (m.t.val b).toNat < 2 ^ 32)
    (hl : m.reachS m.cur m.t.core (m.t.val a) 16 needRW false = .ok l) : barrM mod a b m =
      .ok (((m.reached m.t.gid l.key 16).credit m.t.gid (threadParty m.t.core) core off (m.t.val b).toNat 0).parkMem l) := by
  simp only [barrM, hb, ha, hy, count32_ok hq, aligned, if_pos halign, hl, Task.watchCheck_off hwatch,
    needEntries_ok hweak [l] (by simp) hentries, hnamed, releaseAt_none hweak, ok_bind]
  rfl

theorem bwaitM_ok {k : Fin 16} (hb : m.t.bounds [d, a] = .ok ()) (hl : m.reachS m.cur m.t.core (m.t.val a) 16 needR false = .ok l) :
    ∃ reqs, bwaitM mod k d a m = .ok (if (m.bar core off).satisfies ((k.val + 1) % 16) then
      ({ m with order := m.order + 1, reqs := reqs, t := (m.t.wr d (m.bar core off).answer .raw).acquire .dv (m.order + 1) } : Mach).parkMem l
    else ({ m with order := m.order + 1, reqs := reqs, t := { m.t with
      phase := .waiting (.barrier core off ((k.val + 1) % 16) d (m.order + 1) true) } } : Mach).setWaiters core off) := by
  obtain ⟨reqs, ht⟩ := Mach.touched_eq hweak m.t.gid l.key 16
  have hbar : (m.touched m.t.gid l.key 16).bar core off = m.bar core off := by
    rw [ht]
    exact Mach.bar_of_mem rfl rfl core off
  refine ⟨reqs, ?_⟩
  simp only [bwaitM, hb, effective_ok ha halign, hl, Task.watchCheck_off hwatch, needEntries_ok hweak [l] (by simp) hentries, hnamed, ok_bind]
  rw [← Mach.touched, hbar, ht]
  split <;> rfl

theorem gbarM_ok (hg : m.t.gbarE = none) (hb : m.t.bounds [d, a] = .ok ()) (hl : m.reachS m.cur m.t.core (m.t.val a) 16 needRW false = .ok l) :
    ∃ reqs, gbarM mod d a m = .ok (((({ m with
      order := m.order + 1, reqs := reqs
      gbars := Tab.upd [] m.gbars (core * 65536 + off) fun l => if l.contains m.t.core then l else l ++ [m.t.core]
      t := { m.t with phase := .waiting (.gbar core off (((m.bar core off).epoch + 1) % 16) d (m.order + 1) true)
                      gbarE := some (core, off, ((m.bar core off).epoch + 1) % 16) } } : Mach).setWaiters core off).credit m.t.gid
        (threadParty m.t.core) core off 1 0).settleAll core) := by
  obtain ⟨reqs, ht⟩ := Mach.reached_eq hweak m.t.gid l.key 16
  have hbar : (m.reached m.t.gid l.key 16).bar core off = m.bar core off := by
    rw [ht]
    exact Mach.bar_of_mem rfl rfl core off
  refine ⟨reqs, ?_⟩
  simp only [gbarM, hg, hb, effective_ok ha halign, hl, gbarCredit, Task.watchCheck_off hwatch,
    needEntries_ok hweak [l] (by simp) hentries, hnamed, releaseAt_none hweak, ok_bind]
  rw [← Mach.reached, hbar, ht]
  rfl

end

/-! ### The bytes of an object -/

/-- What two writes leave, the second of which writes what the first wrote there. -/
theorem storedAt_of_rewrite {m m1 : Mach} {k a : Nat} {bs cs : List Byte} (h : m1.mem = pokeMem (pokeMem m.mem k bs) (k + a) cs)
    (hlen : a + cs.length ≤ bs.length) (hsame : ∀ i, i < cs.length → cs.getD i 0 = bs.getD (a + i) 0) :
    m.storedAt m1 k bs.length (fun i => bs.getD i 0) := by
  refine ⟨fun i hi => ?_, fun j hj => ?_⟩
  · rw [Mach.byte, h, look_pokeMem]
    split
    · next hin =>
      rw [hsame _ (by omega), show a + (k + i - (k + a)) = i by omega]
    · rw [look_pokeMem, if_pos (by omega), Nat.add_sub_cancel_left]
  · rw [Mach.byte, h, look_pokeMem, if_neg (by omega), look_pokeMem, if_neg (by omega), ← Mach.byte]

/-- The bytes of a fresh object: quota and owed, and zeros. -/
theorem fresh_bytes (q : Nat) : (⟨q, q, 0, false, 0, 0⟩ : Bar).bytes ++ leBytes 0 2 ++ [0, 0] =
    leBytes q 4 ++ leBytes q 4 ++ [0, 0, 0, 0, 0, 0, 0, 0] := by
  simp [Bar.bytes, leBytes]

/-! ### The instructions -/

section
variable {s : State} {m : Option XMod} {k : Fin 16} {d a b : Opnd} {core off : Nat} (hrest : s.atRest) (hfit : s.fit [d, a, b])
  (hp : s.plain) (hraw : s.rawOk m [a, b]) (halign : (s.m.t.val a).toNat % 16 = 0)
  (hscratch : scratchOf s.m.t.core (s.m.t.val a) = some (core, off))
  (hreach : ∀ need, need ≤ 3 → ∃ l, s.m.reachS s.m.cur s.m.t.core (s.m.t.val a) 16 need false = .ok l ∧ l.key = s.m.frontKey core off)

include hfit in
theorem State.fit.bounds_da : s.m.t.bounds [d, a] = .ok () :=
  State.fit.bounds fun j hj => hfit j (by simp only [List.mem_cons, List.not_mem_nil, or_false] at hj ⊢; tauto)

include hfit in
theorem State.fit.bounds_ab : s.m.t.bounds [a, b] = .ok () := State.fit.bounds fun j hj => hfit j (List.mem_cons_of_mem _ hj)

include hfit hp hraw in
theorem exec_bar_count (hq : 2 ^ 32 ≤ (s.m.t.val b).toNat) :
    Traps (.binit m a b) s 0x01 s.m.t.pc ∧ Traps (.barr m a b) s 0x01 s.m.t.pc :=
  ⟨traps_of (f := binitM m a b) rfl hp (binitM_count (hraw.raw (List.mem_cons_self ..)) hfit.bounds_ab (hraw.raw (by simp)) hq),
    traps_of (f := barrM m a b) rfl hp (barrM_count (hraw.raw (List.mem_cons_self ..)) hfit.bounds_ab (hraw.raw (by simp)) hq)⟩

include hrest hfit hp hraw halign hscratch hreach

theorem exec_binit (hq : (s.m.t.val b).toNat < 2 ^ 32) : ∃ s1, exec (.binit m a b) s = .next s1 ∧ s1.m.t.pc = s.m.t.npc ∧
    (∀ j, s1.m.t.cell j = s.m.t.cell j) ∧ s.m.storedAt s1.m (s.m.frontKey core off) 16 (fun i =>
      (leBytes (s.m.t.val b).toNat 4 ++ leBytes (s.m.t.val b).toNat 4 ++ [0, 0, 0, 0, 0, 0, 0, 0]).getD i 0) := by
  have hcalm := hrest.calm hp.2
  obtain ⟨l, hl, hkey⟩ := hreach needW (by decide)
  have hm := binitM_ok hrest.weak hrest.watch hrest.entries (hraw.raw (List.mem_cons_self ..)) halign (Mach.named_eq hscratch) hfit.bounds_ab
    (hraw.raw (by simp)) hq hl
  obtain ⟨reqs, hr⟩ := Mach.reached_eq hrest.weak s.m.t.gid l.key 16
  have hwaiters : (s.m.reached s.m.t.gid l.key 16).waitersOn core off = 0 := Mach.waitersOn_unwaited (by rw [hr]; exact hcalm.2) core off
  rw [hwaiters, fresh_bytes, hr] at hm
  obtain ⟨bs, hbs⟩ : ∃ bs, bs = leBytes (s.m.t.val b).toNat 4 ++ leBytes (s.m.t.val b).toNat 4 ++ ([0, 0, 0, 0, 0, 0, 0, 0] : List Byte) := ⟨_, rfl⟩
  have hlen : bs.length = 16 := by rw [hbs]; simp
  rw [← hbs] at hm
  obtain ⟨code, ctxs, hw, hctxs⟩ := Mach.writeCells_after hcalm (reachS_inside hl) s.m.t.gid (threadParty s.m.t.core) bs.length
    (cellsFrom l.key bs) hrest.struck (by omega) s.m.order reqs
  rw [pokeCells_cellsFrom, hkey] at hw
  have hwrite : ({ s.m with reqs := reqs } : Mach).write s.m.t.gid (threadParty s.m.t.core) l bs = { s.m with
      order := s.m.order + 1, reqs := reqs, ctxs := ctxs, codeOld := code, mem := pokeMem s.m.mem (s.m.frontKey core off) bs } := by
    rw [Mach.write, hkey]
    exact hw
  rw [hwrite] at hm
  obtain ⟨m1, hm1⟩ : ∃ m1, m1 = ({ s.m with order := s.m.order + 1, reqs := reqs, ctxs := ctxs, codeOld := code,
                                            mem := pokeMem s.m.mem (s.m.frontKey core off) bs } : Mach) := ⟨_, rfl⟩
  rw [← hm1] at hm
  have hzero : m1.waitersOn core off = 0 := Mach.waitersOn_unwaited (by rw [hm1]; exact hcalm.2) core off
  have hfront : m1.frontKey core off = s.m.frontKey core off := Mach.frontKey_of_front (by rw [hm1]) core off
  have hmem : (m1.setWaiters core off).mem = pokeMem (pokeMem s.m.mem (s.m.frontKey core off) bs) (s.m.frontKey core off + 12) (leBytes 0 2) := by
    show pokeMem m1.mem (m1.frontKey core off + 12) (leBytes (m1.waitersOn core off) 2) = _
    rw [hzero, hfront, hm1]
  have ht : (m1.setWaiters core off).t = s.m.t := by
    show m1.t = s.m.t
    rw [hm1]
  have hfits : s.m.fits (m1.setWaiters core off) s.m.cur = true := by
    refine fits_recorded (l := l) (party := threadParty s.m.t.core) (n := bs.length) ?_ (by omega) hrest.room
    show m1.ctxs = _
    rw [hm1]
    exact hctxs
  generalize m1.setWaiters core off = m2 at hm hmem ht hfits
  obtain ⟨-, hnpc, hcell⟩ := m2.t.parkedBy_keeps l
  refine ⟨_, issue_parks (f := binitM m a b) hp.1 hm (ht ▸ hp.1) (ht ▸ hp.2) hfits, hnpc.trans (by rw [ht]), fun j => (hcell j).trans (by rw [ht]), ?_⟩
  have hst : s.m.storedAt m2 (s.m.frontKey core off) bs.length fun i => bs.getD i 0 := by
    refine storedAt_of_rewrite hmem (by rw [leBytes_length, hlen]; decide) fun i hi => ?_
    rw [leBytes_length] at hi
    rw [hbs]
    interval_cases i <;> simp [leBytes]
  rw [hlen] at hst
  rw [← hbs]
  exact hst

theorem exec_barr (hq : (s.m.t.val b).toNat < 2 ^ 32) (hg : Tab.look [] s.m.gbars (core * 65536 + off) = []) :
    ∃ s1, exec (.barr m a b) s = .next s1 ∧ s1.m.t.pc = s.m.t.npc ∧ (∀ j, s1.m.t.cell j = s.m.t.cell j) ∧
      s.m.storedAt s1.m (s.m.frontKey core off) 12 (fun i => ((s.m.bar core off).credit (s.m.t.val b).toNat 0).bytes.getD i 0) := by
  have hcalm := hrest.calm hp.2
  obtain ⟨l, hl, hkey⟩ := hreach needRW (by decide)
  have hm := barrM_ok hrest.weak hrest.watch hrest.entries (hraw.raw (List.mem_cons_self ..)) halign (Mach.named_eq hscratch) hfit.bounds_ab
    (hraw.raw (by simp)) hq hl
  obtain ⟨reqs, hr⟩ := Mach.reached_eq hrest.weak s.m.t.gid l.key 16
  generalize s.m.reached s.m.t.gid l.key 16 = m1 at hm hr
  have hcalm1 : m1.Calm := hcalm.congr (by rw [hr]) (by rw [hr])
  have hfront : m1.frontKey core off = s.m.frontKey core off := Mach.frontKey_of_front (by rw [hr]) core off
  have hbar : m1.bar core off = s.m.bar core off := Mach.bar_of_mem (by rw [hr]) (by rw [hr]) core off
  obtain ⟨m2, hm2, hframe, hlogs, hmem⟩ := Mach.credit_unwaited hcalm1.1 hcalm1.2 (core := core) (off := off) (by rw [hr]; exact hg) s.m.t.gid
    (threadParty s.m.t.core) (s.m.t.val b).toNat 0
  rw [hm2] at hm
  have ht : m2.t = s.m.t := by rw [hframe, hr]
  have hfits : s.m.fits m2 s.m.cur = true := by
    have hctx : m1.ctx s.m.cur = s.m.ctx s.m.cur := Mach.ctx_of_ctxs (by rw [hr]) _
    exact fits_of_logs (hctx ▸ hlogs s.m.cur) hrest.room
  have hmem1 : m2.mem = pokeMem s.m.mem (s.m.frontKey core off) ((s.m.bar core off).credit (s.m.t.val b).toNat 0).bytes := by
    rw [hmem, hfront, hbar, hr]
  obtain ⟨-, hnpc, hcell⟩ := m2.t.parkedBy_keeps l
  have hst := storedAt_of_pokeMem hmem1
  rw [Bar.bytes_length] at hst
  exact ⟨_, issue_parks (f := barrM m a b) hp.1 hm (ht ▸ hp.1) (ht ▸ hp.2) hfits, hnpc.trans (by rw [ht]), fun j => (hcell j).trans (by rw [ht]), hst⟩

theorem exec_bwait_done (hsat : (s.m.bar core off).satisfies ((k.val + 1) % 16) = true) : ∃ s1, exec (.bwait m k d a) s = .next s1 ∧
    s1.m.mem = s.m.mem ∧ s1.m.t.pc = s.m.t.npc ∧
    ∀ j, s1.m.t.cell j = if j = 0 ∨ j = d.key then ⟨(s.m.bar core off).answer, .raw, none⟩ else s.m.t.cell j := by
  obtain ⟨l, hl, -⟩ := hreach needR (by decide)
  obtain ⟨reqs, hm⟩ := bwaitM_ok (k := k) (d := d) hrest.weak hrest.watch hrest.entries (hraw.raw (List.mem_cons_self ..)) halign
    (Mach.named_eq hscratch) hfit.bounds_da hl
  rw [if_pos hsat] at hm
  obtain ⟨hwr, hwp, hwn⟩ := Task.wr_keeps hp.1 d (s.m.bar core off).answer .raw
  obtain ⟨hregion, hphase⟩ := Task.acquireAt_keeps (s.m.t.wr d (s.m.bar core off).answer .raw) (some .dv) (s.m.order + 1)
  obtain ⟨himg, hnpc⟩ := Task.acquireAt_img (s.m.t.wr d (s.m.bar core off).answer .raw) (some .dv) (s.m.order + 1)
  have hcell : ∀ j, (((s.m.t.wr d (s.m.bar core off).answer .raw).acquireAt (some .dv) (s.m.order + 1))).cell j =
      if j = 0 ∨ j = d.key then ⟨(s.m.bar core off).answer, .raw, none⟩ else s.m.t.cell j := fun j => by
    rw [Task.cell, himg, ← Task.cell]
    exact cell_wrMark s.m.t d _ .raw none j
  obtain ⟨t1, ht1⟩ : ∃ t1, t1 = (s.m.t.wr d (s.m.bar core off).answer .raw).acquireAt (some .dv) (s.m.order + 1) := ⟨_, rfl⟩
  rw [← ht1] at hregion hphase hnpc hcell
  have hm2 : bwaitM m k d a s.m = .ok (({ s.m with order := s.m.order + 1, reqs := reqs, t := t1 } : Mach).parkMem l) := by rw [hm, ht1]; rfl
  obtain ⟨-, hpnpc, hpcell⟩ := t1.parkedBy_keeps l
  exact ⟨_, issue_parks (f := bwaitM m k d a) hp.1 hm2 (hregion.trans hwr) ((hphase.trans hwp).trans hp.2) (fits_of_ctxs rfl _), rfl,
    hpnpc.trans (hnpc.trans hwn), fun j => (hpcell j).trans (hcell j)⟩

theorem exec_bwait_waits (hsat : (s.m.bar core off).satisfies ((k.val + 1) % 16) = false) : ∃ s1 n, exec (.bwait m k d a) s = .next s1 ∧
    s1.m.t = { s.m.t with phase := .waiting (.barrier core off ((k.val + 1) % 16) d n true) } ∧
    ∀ j, (j < s.m.frontKey core off + 12 ∨ s.m.frontKey core off + 14 ≤ j) → s1.m.byte j = s.m.byte j := by
  obtain ⟨l, hl, -⟩ := hreach needR (by decide)
  obtain ⟨reqs, hm⟩ := bwaitM_ok (k := k) (d := d) hrest.weak hrest.watch hrest.entries (hraw.raw (List.mem_cons_self ..)) halign
    (Mach.named_eq hscratch) hfit.bounds_da hl
  rw [if_neg (Bool.eq_false_iff.mp hsat)] at hm
  refine ⟨_, s.m.order + 1, issue_held (f := bwaitM m k d a) hp.1 hm hp.1 rfl (fits_of_ctxs rfl _), rfl, fun j hj => ?_⟩
  exact Mach.byte_setWaiters (Mach.frontKey_of_front (m := s.m) rfl core off) hj

end

/-- Requests none of whose conditions holds stay held (16 R310). -/
theorem Mach.settleAll_unheld {m : Mach} {core : Nat} (h : ∀ t ∈ m.tasks, t.waitSeq core = none ∨ m.holds t = false) : m.settleAll core = m := by
  have nil : ∀ f : Task → Option (Nat × Task), (∀ t ∈ m.tasks, f t = none) → m.tasks.filterMap f = [] :=
    fun f hf => List.filterMap_eq_nil_iff.mpr hf
  have hnext : m.nextServed core = none := by
    unfold Mach.nextServed
    rw [nil _ (fun t ht => by
      rcases h t ht with hs | hh
      · simp only [hs]
      · cases hw : t.waitSeq core with
        | none => simp only
        | some n => simp only [hh, Bool.false_eq_true, if_false])]
    rfl
  simp [Mach.settleAll, Mach.settle, hnext]

theorem Task.waitSeq_unwaited {t : Task} (h : ∀ w, t.phase ≠ .waiting w) (core : Nat) : t.waitSeq core = none := by
  unfold Task.waitSeq
  split
  · rfl
  · split
    · next hp => exact absurd hp (h _)
    · next hp => exact absurd hp (h _)
    · next hp => exact absurd hp (h _)
    · rfl

theorem Bar.credit_one {b : Bar} (hq : b.quota ≠ 0) (ho : 1 < b.owed) : b.credit 1 0 = { b with owed := b.owed - 1 } := by
  rw [Bar.credit, if_neg (by decide), if_neg hq, if_pos ho]

/-- A waiter for the epoch after the current one is not satisfied. -/
theorem Bar.next_unsatisfied {b : Bar} {n : Nat} (he : b.err = false) (hb : b.epoch = n % 65536) :
    b.satisfies ((n + 1) % 16) = false := by
  rw [Bar.satisfies, he, Bool.false_or, decide_eq_false_iff_not, hb]
  omega

section
variable {s : State} {m : Option XMod} {d a b : Opnd} {core off : Nat} (hrest : s.atRest) (hfit : s.fit [d, a, b])
  (hp : s.plain) (hraw : s.rawOk m [a, b]) (halign : (s.m.t.val a).toNat % 16 = 0)
  (hscratch : scratchOf s.m.t.core (s.m.t.val a) = some (core, off))
  (hreach : ∀ need, need ≤ 3 → ∃ l, s.m.reachS s.m.cur s.m.t.core (s.m.t.val a) 16 need false = .ok l ∧ l.key = s.m.frontKey core off)
include hrest hfit hp hraw halign hscratch hreach

theorem exec_gbar (hg : s.m.t.gbarE = none) (herr : (s.m.bar core off).err = false) (hq : (s.m.bar core off).quota ≠ 0)
    (ho : 1 < (s.m.bar core off).owed) : ∃ s1 n, exec (.gbar m d a) s = .next s1 ∧
      s1.m.t = { s.m.t with phase := .waiting (.gbar core off (((s.m.bar core off).epoch + 1) % 16) d n true)
                            gbarE := some (core, off, ((s.m.bar core off).epoch + 1) % 16) } ∧
      (∀ j, (j < s.m.frontKey core off ∨ s.m.frontKey core off + 16 ≤ j) → s1.m.byte j = s.m.byte j) ∧
      (∀ i, i < 12 → s1.m.byte (s.m.frontKey core off + i) =
        ({ s.m.bar core off with owed := (s.m.bar core off).owed - 1 } : Bar).bytes.getD i 0) ∧
      s.m.t.core ∈ Tab.look [] s1.m.gbars (core * 65536 + off) := by
  have hcalm := hrest.calm hp.2
  obtain ⟨l, hl, -⟩ := hreach needRW (by decide)
  obtain ⟨reqs, hm⟩ := gbarM_ok (d := d) hrest.weak hrest.watch hrest.entries (hraw.raw (List.mem_cons_self ..)) halign
    (Mach.named_eq hscratch) hg hfit.bounds_da hl
  obtain ⟨t1, ht1⟩ : ∃ t1, t1 = ({ s.m.t with
    phase := .waiting (.gbar core off (((s.m.bar core off).epoch + 1) % 16) d (s.m.order + 1) true)
    gbarE := some (core, off, ((s.m.bar core off).epoch + 1) % 16) } : Task) := ⟨_, rfl⟩
  obtain ⟨gs, hgs⟩ : ∃ gs, gs = Tab.upd [] s.m.gbars (core * 65536 + off) fun l => if l.contains s.m.t.core then l else l ++ [s.m.t.core] := ⟨_, rfl⟩
  rw [← ht1, ← hgs] at hm
  obtain ⟨m1, hm1⟩ : ∃ m1, m1 = ({ s.m with order := s.m.order + 1, reqs := reqs, gbars := gs, t := t1 } : Mach).setWaiters core off := ⟨_, rfl⟩
  rw [← hm1] at hm
  have hfront : m1.frontKey core off = s.m.frontKey core off := Mach.frontKey_of_front (by rw [hm1]; rfl) core off
  have hmem1 : ∃ w, m1.mem = pokeMem s.m.mem (s.m.frontKey core off + 12) (leBytes w 2) := ⟨_, by rw [hm1]; rfl⟩
  obtain ⟨w, hmem1⟩ := hmem1
  have hbar := Mach.bar_congr (m := s.m) (m1 := m1) (core := core) (off := off) hfront fun j hj => by
    rw [Mach.byte, hmem1, look_pokeMem, if_neg (by omega), ← Mach.byte]
  have hkeep : m1.t = t1 ∧ m1.others = s.m.others ∧ m1.ctxs = s.m.ctxs ∧ m1.gbars = gs := by
    rw [hm1]
    exact ⟨rfl, rfl, rfl, rfl⟩
  obtain ⟨hkt, hko, hkc, hkg⟩ := hkeep
  have hunwatched : ∀ t ∈ m1.tasks, t.watchEn = false := fun t ht => by
    rcases List.mem_cons.mp ht with rfl | ht
    · rw [hkt, ht1]
      exact hrest.watch
    · exact hcalm.1 t (List.mem_cons_of_mem _ (hko ▸ ht))
  obtain ⟨m2, hframe, hlogs, hmem2, hnone, -⟩ := Mach.credit_records hunwatched s.m.t.gid (threadParty s.m.t.core) core off 1 0
  have hcomp : (m1.bar core off).completes 1 0 = 0 := by
    rw [hbar, Bar.completes, if_neg (by decide)]
    exact if_pos (.inr ho)
  rw [hnone hcomp] at hm
  have hmem3 : m2.mem = pokeMem m1.mem (m1.frontKey core off) ({ s.m.bar core off with owed := (s.m.bar core off).owed - 1 } : Bar).bytes := by
    rw [hmem2, hbar, Bar.credit_waiters, Bar.credit_one hq ho]
  obtain ⟨hepoch, hberr⟩ := Mach.bar_written (m := m1) (m1 := m2) (Mach.frontKey_of_front (by rw [hframe]) core off) hmem3
  have hsat := Bar.next_unsatisfied (hberr.trans herr) hepoch
  have ht2 : m2.t = t1 := (by rw [hframe] : m2.t = m1.t).trans hkt
  have hidle : m2.settleAll core = m2 := Mach.settleAll_unheld fun t ht => by
    rcases List.mem_cons.mp ht with rfl | ht
    · right
      rw [ht2, Mach.holds, ht1]
      exact hsat
    · left
      rw [(by rw [hframe] : m2.others = m1.others), hko] at ht
      exact Task.waitSeq_unwaited (hcalm.2 t (List.mem_cons_of_mem _ ht)) core
  rw [hidle] at hm
  have hfits : s.m.fits m2 s.m.cur = true := by
    have hctx : m1.ctx s.m.cur = s.m.ctx s.m.cur := Mach.ctx_of_ctxs hkc _
    exact fits_of_logs (hctx ▸ hlogs s.m.cur) hrest.room
  have hregion : m2.t.region = none := by
    rw [ht2, ht1]
    exact hp.1
  have hheld : m2.t.isHeld = true := by
    rw [ht2, ht1]
    rfl
  rw [hfront] at hmem3
  refine ⟨_, s.m.order + 1, issue_held (f := gbarM m d a) hp.1 hm hregion hheld hfits, ht2.trans ht1, fun j hj => ?_, fun i hi => ?_, ?_⟩
  · rw [Mach.byte, hmem3, look_pokeMem, if_neg (by rw [Bar.bytes_length]; omega), hmem1, look_pokeMem,
      if_neg (by rw [leBytes_length]; omega), ← Mach.byte]
  · rw [Mach.byte, hmem3, look_pokeMem, if_pos (by rw [Bar.bytes_length]; omega), Nat.add_sub_cancel_left]
  · rw [(by rw [hframe] : m2.gbars = m1.gbars), hkg, hgs, Tab.upd, Tab.look_put, if_pos rfl]
    split
    · next hin => exact List.contains_iff_mem.mp hin
    · exact List.mem_append_right _ (List.mem_singleton_self _)

end

/-- Settles O25: each instruction by what it writes of the object (`exec_binit`, `exec_barr`, `exec_gbar`) or waits for. -/
theorem barriers : Obligations.Barriers := by
  unfold Obligations.Barriers
  intro s m k d a b hrest hfit hp hraw halign core off hscratch hreach
  dsimp only
  refine ⟨fun hq => ?_, exec_bar_count hfit hp hraw, fun hq hg => ?_, fun hsat => ?_, fun herr hlow => ?_, fun hg herr hq ho => ?_⟩
  · obtain ⟨s1, hx, hpc, hcell, hbytes, hstill⟩ := exec_binit hrest hfit hp hraw halign hscratch hreach hq
    exact ⟨s1, hx, hpc, hcell, hstill, fun i hi => hbytes i (by simpa using hi)⟩
  · obtain ⟨s1, hx, hpc, hcell, hbytes, hstill⟩ := exec_barr hrest hfit hp hraw halign hscratch hreach hq hg
    refine ⟨s1, hx, hpc, hcell, fun j hj => hstill j (by omega), fun hquota hlt i hi => ?_, fun hquota hle i hi => ?_⟩
    · rw [hbytes i (by simpa using hi), Bar.credit, if_neg (by decide), if_neg hquota, if_pos hlt]
      rfl
    · rw [hbytes i (by simpa using hi), Bar.credit, if_neg (by decide), if_neg hquota, if_neg (by omega)]
      rfl
  · exact exec_bwait_done hrest hfit hp hraw halign hscratch hreach (by simpa [Bar.satisfies] using hsat)
  · exact exec_bwait_waits hrest hfit hp hraw halign hscratch hreach (by simp [Bar.satisfies, herr]; omega)
  · obtain ⟨s1, n, hx, ht, hstill, hbytes, hmem⟩ := exec_gbar hrest hfit hp hraw halign hscratch hreach hg herr hq ho
    exact ⟨s1, n, hx, hstill, ht, fun i hi => hbytes i (by simpa using hi), hmem⟩

end Sys2Proof.Machine
end

section
/-! PROOFS. O23: the atomics. -/

namespace Sys2Proof.Machine

/-! ### An access that its translation and its place in the order have changed (16 R298, R302) -/

/-- m1 is m but for the translations held and the places in the order of requests. -/
def Mach.Under (m m1 : Mach) : Prop := m1 = { m with order := m1.order, reqs := m1.reqs, tlb := m1.tlb, dtlb := m1.dtlb }

section
variable {m m1 : Mach} (h : m.Under m1)
include h

theorem Mach.Under.t : m1.t = m.t := by rw [Mach.Under] at h; rw [h]
theorem Mach.Under.others : m1.others = m.others := by rw [Mach.Under] at h; rw [h]
theorem Mach.Under.mem : m1.mem = m.mem := by rw [Mach.Under] at h; rw [h]
theorem Mach.Under.fe : m1.fe = m.fe := by rw [Mach.Under] at h; rw [h]
theorem Mach.Under.ctxs : m1.ctxs = m.ctxs := by rw [Mach.Under] at h; rw [h]
theorem Mach.Under.weak : m1.weak = m.weak := by rw [Mach.Under] at h; rw [h]

theorem Mach.Under.trans {m2 : Mach} (h1 : m1.Under m2) : m.Under m2 := by
  rw [Mach.Under] at h h1 ⊢
  rw [h1, h]

theorem Mach.Under.calm (hc : m.Calm) : m1.Calm := hc.congr h.others h.t

theorem Mach.Under.tracked (cl : Nat) : m1.tracked cl = m.tracked cl := by
  rw [Mach.tracked, Mach.tracked, Mach.tasks, Mach.tasks, h.weak, h.others, h.t]

theorem Mach.Under.hasStruck (c party : Nat) (g : Gid) : m1.hasStruck c party g = m.hasStruck c party g := by
  simp only [Mach.hasStruck, Mach.ctx, h.ctxs]

theorem Mach.Under.peek (k n : Nat) : m1.peek k n = m.peek k n := by simp only [Mach.peek, Mach.byte, h.mem]

/-- A write at the end of an access. -/
theorem Mach.Under.writeCells (hc : m.Calm) {l : Loc} (hl : l.inside) (g : Gid) (party n : Nat) (cells : List (Nat × Byte))
    (hs : m.hasStruck (ctxOf g) party g = false) (hn : n ≤ 64) : ∃ code ctxs,
      m1.writeCells g party l n cells = { m1 with order := m1.order + 1, ctxs := ctxs, codeOld := code, mem := pokeCells m.mem cells } ∧
      ctxs = (m.recorded g party l n).ctxs := by
  obtain ⟨code, ctxs, he, hctxs⟩ := Mach.writeCells_calm (h.calm hc) hl g party n cells ((h.hasStruck _ _ _).trans hs) hn
  rw [h.mem] at he
  exact ⟨code, ctxs, he, hctxs.trans (Mach.recorded_congr h.mem h.fe h.ctxs g party l n)⟩

end

theorem Mach.Under.refl (m : Mach) : m.Under m := rfl

theorem Mach.under_of_tlb {m m1 : Mach} (h : m1 = { m with tlb := m1.tlb, dtlb := m1.dtlb }) : m.Under m1 := by
  rw [Mach.Under, h]

theorem Mach.under_reached {m : Mach} (hw : m.weak = []) (g : Gid) (k n : Nat) : m.Under (m.reached g k n) := by
  obtain ⟨reqs, he⟩ := Mach.reached_eq hw g k n
  rw [Mach.Under, he]

theorem Mach.under_touched {m : Mach} (hw : m.weak = []) (g : Gid) (k n : Nat) : m.Under (m.touched g k n) := by
  obtain ⟨reqs, he⟩ := Mach.touched_eq hw g k n
  rw [Mach.Under, he]

/-- Accesses inside the module go on. -/
theorem outside_ok {l : Loc} (hl : l.inside) (m : Mach) (write : Bool) : m.outside l write = .ok m := by
  unfold Mach.outside
  rcases hl with hl | ⟨c, hl⟩ <;> rw [hl]

/-- A strong load inside the module reads memory. -/
theorem read_inside {l : Loc} (hl : l.inside) (m : Mach) (n : Nat) : m.read l n = (m.peek l.key n, m) := by
  unfold Mach.read
  rcases hl with hl | ⟨c, hl⟩ <;> rw [hl]

/-- The append that a write makes, as the statements say it. -/
theorem State.logged_of_recorded {s s1 : State} {l : Loc} {n : Nat}
    (h : s1.m.ctxs = (s.m.recorded s.m.t.gid (threadParty s.m.t.core) l n).ctxs) : s.logged s1 l n := by
  rw [State.logged, h, Mach.recorded]
  split <;> rfl

/-- The parts of a read-only effect (16 R304). -/
theorem State.onlyRead_of {s : State} {m1 : Mach} (h : ∃ m0, s.m.Under m0 ∧ ∃ t free, m1 = { m0 with t := t, free := free }) :
    s.onlyRead { s with m := m1 } := by
  obtain ⟨m0, h0, t, free, rfl⟩ := h
  rw [Mach.Under] at h0
  rw [h0]
  exact ⟨rfl, rfl, rfl, rfl, rfl, rfl, rfl, rfl, rfl, rfl, rfl, rfl, rfl, rfl⟩

/-! ### The place of an atomic -/

theorem Mach.atomicLoc_under {m m1 : Mach} {sp : ASpace} {a : Word} {n : Nat} {l : Loc} (h : m.atomicLoc sp a n = .ok (l, m1)) :
    m.Under m1 := by
  cases sp with
  | s =>
    simp only [Mach.atomicLoc] at h
    split at h
    · rw [← (Prod.mk.inj (Except.ok.inj h)).2]
      exact .refl m
    · exact absurd h nofun
  | g =>
    simp only [Mach.atomicLoc] at h
    split at h
    · exact absurd h nofun
    · next l1 m2 hreach =>
      split at h
      · exact absurd h nofun
      · split at h
        · exact absurd h nofun
        · rw [← (Prod.mk.inj (Except.ok.inj h)).2]
          exact Mach.under_of_tlb (Mach.reach_frame hreach)

/-- What an atomic delivers of the old value. -/
def atomicResult (n : Nat) (nat : Bool) (old : Word) : Word := if n = 8 then old else if nat then zextBits 32 old else sextBits 32 old

/-- The new value of an atomic written, where there is one. -/
def Mach.writeNew (m : Mach) (g : Gid) (party : Nat) (l : Loc) (n : Nat) : Option Word → Mach
  | some w => m.write g party l (leBytes w.toNat n)
  | none => m

/-- A result delivered to the task in focus, and the acquire of its instruction. -/
def Mach.result (m : Mach) (d : Opnd) (v : Word) (g : Tag) (sc : Option Scope) : Mach :=
  { m with t := (m.t.wr d v g).acquireAt sc m.order }

section
variable {m m0 : Mach} {mod : Option XMod} {n : Nat} {nat : Bool} {sp : ASpace} {d a : Opnd} {srcs : List Opnd}
  {f : Task → Word → Except Stop (Option Word)} {l : Loc} {new zero : Option Word}

/-- An atomic inside the module, step by step. -/
theorem atomicM_ok (hweak : m.weak = []) (hwatch : m.t.watchEn = false) (hentries : m.tracked (clusterOf m.t.core) + 8 ≤ 750)
    (hb : m.t.bounds ([d, a] ++ srcs) = .ok ()) (ha : m.t.raw mod a = .ok (m.t.val a)) (hz : f m.t 0 = .ok zero)
    (halign : (m.t.val a).toNat % n = 0) (hloc : m.atomicLoc sp (m.t.val a) n = .ok (l, m0)) (hl : l.inside)
    (hnew : f m.t (BitVec.ofNat 64 (m.number l.key n)) = .ok new) : ∃ m1, m.Under m1 ∧ atomicM mod n nat sp d a srcs f m =
      .ok (((m1.writeNew m.t.gid (threadParty m.t.core) l n new).result d
        (atomicResult n nat (BitVec.ofNat 64 (m.number l.key n))) .raw (acqOf mod)).parkMem l) := by
  have h0 := Mach.atomicLoc_under hloc
  have hw0 : m0.weak = [] := h0.weak.trans hweak
  have hwatch0 : m0.t.watchEn = false := h0.t ▸ hwatch
  have hent0 : m0.tracked (clusterOf m0.t.core) + 8 ≤ 750 := by rw [h0.tracked, h0.t]; exact hentries
  have h1 := h0.trans (Mach.under_reached hw0 m.t.gid l.key n)
  refine ⟨m0.reached m.t.gid l.key n, h1, ?_⟩
  have hold : leNat ((m0.reached m.t.gid l.key n).peek l.key n) = m.number l.key n := by rw [h1.peek]; exact leNat_peek m l.key n
  simp only [atomicM, hb, ha, hz, aligned, if_pos halign, hloc, Task.watchCheck_off hwatch0, needEntries_ok hw0 [l] (by simp) hent0,
    outside_ok hl, releaseAt_none hw0, ok_bind]
  rw [← Mach.reached, read_inside hl]
  dsimp only
  rw [hold, hnew]
  cases new <;> rfl

end

/-- What a result leaves of the task in focus. -/
theorem Mach.result_task {m : Mach} (hr : m.t.region = none) (d : Opnd) (v : Word) (g : Tag) (sc : Option Scope) :
    (m.result d v g sc).t.region = none ∧ (m.result d v g sc).t.phase = m.t.phase ∧ (m.result d v g sc).t.npc = m.t.npc ∧
    ∀ j, (m.result d v g sc).t.cell j = if j = 0 ∨ j = d.key then ⟨v, g, none⟩ else m.t.cell j := by
  obtain ⟨hwr, hwp, hwn⟩ := Task.wr_keeps hr d v g
  obtain ⟨hregion, hphase⟩ := Task.acquireAt_keeps (m.t.wr d v g) sc m.order
  obtain ⟨himg, hnpc⟩ := Task.acquireAt_img (m.t.wr d v g) sc m.order
  refine ⟨hregion.trans hwr, hphase.trans hwp, hnpc.trans hwn, fun j => ?_⟩
  rw [Task.cell, show (m.result d v g sc).t.img = (m.t.wr d v g).img from himg, ← Task.cell]
  exact cell_wrMark m.t d v g none j

section
variable {s : State} {m : Option XMod} {n : Nat} {nat : Bool} {sp : ASpace} {d a : Opnd} {srcs : List Opnd}
  {f : Task → Word → Except Stop (Option Word)} {l : Loc} {m0 : Mach} {zero : Option Word} {i : Instr} {rule : RRule}
  (hrest : s.atRest) (hp : s.plain) (hb : s.m.t.bounds ([d, a] ++ srcs) = .ok ()) (ha : s.m.t.raw m a = .ok (s.m.t.val a))
  (halign : (s.m.t.val a).toNat % n = 0) (hloc : s.m.atomicLoc sp (s.m.t.val a) n = .ok (l, m0)) (hl : l.inside)
  (hz : f s.m.t 0 = .ok zero) (hi : exec i s = issue rule (atomicM m n nat sp d a srcs f) s)
include hrest hp hb ha halign hloc hl hz hi

/-- An atomic that stores a new value. -/
theorem exec_atomic_stores {w : Word} (hn : n ≤ 64) (hnew : f s.m.t (BitVec.ofNat 64 (s.m.number l.key n)) = .ok (some w)) :
    ∃ s1, exec i s = .next s1 ∧ s1.m.t.pc = s.m.t.npc ∧
      (∀ k, s1.m.t.cell k = if k = 0 ∨ k = d.key then ⟨atomicResult n nat (BitVec.ofNat 64 (s.m.number l.key n)), .raw, none⟩
        else s.m.t.cell k) ∧
      s.m.storedAt s1.m l.key n (byteOf w) ∧ s.logged s1 l n ∧ s1.m.fe = s.m.fe := by
  have hcalm := hrest.calm hp.2
  obtain ⟨m1, h1, hm⟩ := atomicM_ok (nat := nat) hrest.weak hrest.watch hrest.entries hb ha hz halign hloc hl hnew
  obtain ⟨code, ctxs, hw, hctxs⟩ := h1.writeCells hcalm hl s.m.t.gid (threadParty s.m.t.core) (leBytes w.toNat n).length
    (cellsFrom l.key (leBytes w.toNat n)) hrest.struck (by rw [leBytes_length]; exact hn)
  rw [pokeCells_cellsFrom] at hw
  rw [leBytes_length] at hctxs
  obtain ⟨m5, hm5⟩ : ∃ m5, m5 = m1.writeNew s.m.t.gid (threadParty s.m.t.core) l n (some w) := ⟨_, rfl⟩
  rw [← hm5] at hm
  have hframe : m5 = { m1 with order := m1.order + 1, ctxs := ctxs, codeOld := code, mem := pokeMem s.m.mem l.key (leBytes w.toNat n) } :=
    hm5.trans hw
  have ht : m5.t = s.m.t := (by rw [hframe] : m5.t = m1.t).trans h1.t
  obtain ⟨hregion, hphase, hnpc, hcell⟩ := Mach.result_task (m := m5) (ht ▸ hp.1) d
    (atomicResult n nat (BitVec.ofNat 64 (s.m.number l.key n))) .raw (acqOf m)
  obtain ⟨m6, hm6⟩ : ∃ m6, m6 = m5.result d (atomicResult n nat (BitVec.ofNat 64 (s.m.number l.key n))) .raw (acqOf m) := ⟨_, rfl⟩
  have hkeep : m6.mem = m5.mem ∧ m6.ctxs = m5.ctxs ∧ m6.fe = m5.fe := by
    rw [hm6]
    exact ⟨rfl, rfl, rfl⟩
  obtain ⟨hkm, hkc, hkf⟩ := hkeep
  rw [← hm6] at hm hregion hphase hnpc hcell
  rw [ht] at hphase hnpc hcell
  have hmem : m6.mem = pokeMem s.m.mem l.key (leBytes w.toNat n) := hkm.trans (by rw [hframe])
  have hlog : m6.ctxs = (s.m.recorded s.m.t.gid (threadParty s.m.t.core) l n).ctxs := hkc.trans ((by rw [hframe] : m5.ctxs = ctxs).trans hctxs)
  have hfe : m6.fe = s.m.fe := hkf.trans ((by rw [hframe] : m5.fe = m1.fe).trans h1.fe)
  obtain ⟨-, hpnpc, hpcell⟩ := m6.t.parkedBy_keeps l
  exact ⟨_, hi.trans (issue_parks hp.1 hm hregion (hphase.trans hp.2) (fits_recorded hlog hn hrest.room)), hpnpc.trans hnpc,
    fun k => (hpcell k).trans (hcell k), storedAt_pokeMem _ _ _ _ _ hmem, State.logged_of_recorded hlog, hfe⟩

/-- An atomic that stores nothing. -/
theorem exec_atomic_reads (hnew : f s.m.t (BitVec.ofNat 64 (s.m.number l.key n)) = .ok none) : ∃ s1, exec i s = .next s1 ∧ s.onlyRead s1 ∧
    s1.m.t.pc = s.m.t.npc ∧ s1.m.t.cell d.key = ⟨atomicResult n nat (BitVec.ofNat 64 (s.m.number l.key n)), .raw, none⟩ := by
  obtain ⟨m1, h1, hm⟩ := atomicM_ok (nat := nat) hrest.weak hrest.watch hrest.entries hb ha hz halign hloc hl hnew
  rw [show m1.writeNew s.m.t.gid (threadParty s.m.t.core) l n none = m1 from rfl] at hm
  obtain ⟨hregion, hphase, hnpc, hcell⟩ := Mach.result_task (m := m1) (h1.t ▸ hp.1) d
    (atomicResult n nat (BitVec.ofNat 64 (s.m.number l.key n))) .raw (acqOf m)
  obtain ⟨t1, ht1⟩ : ∃ t1, t1 = (m1.result d (atomicResult n nat (BitVec.ofNat 64 (s.m.number l.key n))) .raw (acqOf m)).t := ⟨_, rfl⟩
  have hres : m1.result d (atomicResult n nat (BitVec.ofNat 64 (s.m.number l.key n))) .raw (acqOf m) = { m1 with t := t1 } := by
    rw [ht1]
    rfl
  rw [← ht1] at hregion hphase hnpc hcell
  rw [hres] at hm
  rw [h1.t] at hphase hnpc
  obtain ⟨-, hpnpc, hpcell⟩ := t1.parkedBy_keeps l
  exact ⟨_, hi.trans (issue_parks hp.1 hm hregion (hphase.trans hp.2) (fits_of_ctxs h1.ctxs _)), State.onlyRead_of ⟨m1, h1, _, m1.free, rfl⟩,
    hpnpc.trans hnpc, (hpcell d.key).trans ((hcell d.key).trans (if_pos (.inr rfl)))⟩

end

/-! ### The values (16 R313) -/

theorem leNat_lt : ∀ l : List Byte, leNat l < 256 ^ l.length
  | [] => by simp [leNat]
  | b :: r => by
    have hr := leNat_lt r
    have hb := b.isLt
    simp only [leNat, List.length_cons, Nat.pow_succ]
    omega

theorem Mach.number_lt (m : Mach) (k n : Nat) : m.number k n < 256 ^ n := by
  have h := leNat_lt (m.peek k n)
  rw [leNat_peek] at h
  simpa [Mach.peek] using h

theorem loaded_signed (m : Mach) (k n : Nat) : m.loaded k n false = (BitVec.ofNat (8 * n) (m.number k n)).signExtend 64 := rfl

theorem atomicResult_d (m : Mach) (k : Nat) : atomicResult 8 false (BitVec.ofNat 64 (m.number k 8)) = m.loaded k 8 false := by
  rw [atomicResult, if_pos rfl, loaded_signed]
  exact (BitVec.signExtend_eq _).symm

theorem atomicResult_w (m : Mach) (k : Nat) : atomicResult 4 false (BitVec.ofNat 64 (m.number k 4)) = m.loaded k 4 false := by
  rw [atomicResult, if_neg (by decide), if_neg (by decide), loaded_signed, sextBits, BitVec.setWidth_ofNat_of_le (by decide)]

/-- The natural reading is the number itself. -/
theorem atomicResult_natural (m : Mach) (k : Nat) {n : Nat} (hn : n = 8 ∨ n = 4) :
    atomicResult n true (BitVec.ofNat 64 (m.number k n)) = BitVec.ofNat 64 (m.number k n) := by
  rcases hn with rfl | rfl
  · exact if_pos rfl
  · have hlt := m.number_lt k 4
    generalize m.number k 4 = x at hlt
    rw [atomicResult, if_neg (by decide), if_pos rfl, zextBits]
    refine BitVec.eq_of_toNat_eq ?_
    simp only [BitVec.toNat_setWidth, BitVec.toNat_ofNat]
    omega

/-- A size's natural reading, and the other one, of the bytes at a place. -/
theorem atomicResult_eq (m : Mach) (k : Nat) {n : Nat} (hn : n = 8 ∨ n = 4) (nat : Bool) :
    atomicResult n nat (BitVec.ofNat 64 (m.number k n)) = if nat then BitVec.ofNat 64 (m.number k n) else m.loaded k n false := by
  cases nat
  · rw [if_neg (by decide)]
    rcases hn with rfl | rfl
    · exact atomicResult_d m k
    · exact atomicResult_w m k
  · rw [if_pos rfl]
    exact atomicResult_natural m k hn

theorem byteOf_congr {x y : Word} {n : Nat} (h : x.toNat % 256 ^ n = y.toNat % 256 ^ n) {i : Nat} (hi : i < n) : byteOf x i = byteOf y i := by
  have hlow : ∀ v : Nat, v / 256 ^ i % 256 = v % 256 ^ n / 256 ^ i % 256 := fun v => by
    obtain ⟨j, rfl⟩ : ∃ j, n = i + 1 + j := ⟨n - (i + 1), by omega⟩
    rw [Nat.pow_add, Nat.pow_succ, Nat.mul_assoc, Nat.mod_mul_right_div_self, Nat.mod_mul_right_mod]
  refine BitVec.eq_of_toNat_eq ?_
  simp only [byteOf, BitVec.toNat_ofNat]
  rw [show 2 ^ 8 = 256 from rfl, hlow, h, ← hlow]

/-- The signed reading of a size's low bits. -/
theorem lowInt_signed (x : Word) : lowInt 8 false x = x.toInt ∧ lowInt 4 false x = (x.setWidth 32).toInt := by
  refine ⟨congrArg BitVec.toInt ?_, BitVec.toInt_signExtend_of_le (by decide)⟩
  rw [sextBits, BitVec.signExtend_eq, BitVec.setWidth_eq]

/-- The natural reading of a size's low bits. -/
theorem lowInt_natural (x : Word) : lowInt 8 true x = x.toNat ∧ lowInt 4 true x = (x.setWidth 32).toNat := by
  constructor
  · simp [lowInt, zextBits]
  · have hlt := (x.setWidth 32).isLt
    show (((x.setWidth 32).setWidth 64).toNat : Int) = (x.setWidth 32).toNat
    rw [BitVec.toNat_setWidth_of_le (by decide)]

theorem lowInt_eq {n : Nat} {nat : Bool} {x y : Word} (hn : n = 8 ∨ n = 4) (h : lowInt n nat x = lowInt n nat y) :
    x.toNat % 256 ^ n = y.toNat % 256 ^ n := by
  have hword : ∀ {x y : Word}, (x.setWidth 32).toNat = (y.setWidth 32).toNat → x.toNat % 256 ^ 4 = y.toNat % 256 ^ 4 := fun hxy => by
    simpa [BitVec.toNat_setWidth] using hxy
  rcases hn with rfl | rfl
  · cases nat
    · rw [(lowInt_signed x).1, (lowInt_signed y).1] at h
      rw [BitVec.eq_of_toInt_eq h]
    · rw [(lowInt_natural x).1, (lowInt_natural y).1] at h
      rw [Int.ofNat_inj.mp h]
  · cases nat
    · rw [(lowInt_signed x).2, (lowInt_signed y).2] at h
      exact hword (congrArg BitVec.toNat (BitVec.eq_of_toInt_eq h))
    · rw [(lowInt_natural x).2, (lowInt_natural y).2] at h
      exact hword (Int.ofNat_inj.mp h)

theorem minMax_least (n : Nat) (nat : Bool) (x y : Word) : minMax n nat false x y = if lowInt n nat y < lowInt n nat x then y else x := by
  unfold minMax
  refine if_congr ?_ rfl rfl
  simp

/-- Of two values with the same low bits either may be written. -/
theorem minMax_greatest {n : Nat} (hn : n = 8 ∨ n = 4) (nat : Bool) (x y : Word) {i : Nat} (hi : i < n) :
    byteOf (minMax n nat true x y) i = byteOf (if lowInt n nat x < lowInt n nat y then y else x) i := by
  unfold minMax
  by_cases hlt : lowInt n nat x < lowInt n nat y
  · rw [if_pos hlt, if_pos (eq_true (le_of_lt hlt) |>.trans (eq_self true).symm)]
  · rw [if_neg hlt]
    split
    · next hle => exact (byteOf_congr (lowInt_eq hn (le_antisymm (hle.mpr rfl) (not_lt.mp hlt))) hi).symm
    · rfl

theorem rmw_ok {t : Task} {m : Option XMod} {b : Opnd} (h : t.raw m b = .ok (t.val b)) (g : Word → Word → Word) (x : Word) :
    rmw m b g t x = .ok (some (g x (t.val b))) := by simp only [rmw, h, ok_bind]

theorem casNew_ok {t : Task} {m : Option XMod} {b c : Opnd} (hb : t.raw m b = .ok (t.val b)) (hc : t.raw m c = .ok (t.val c)) (n : Nat)
    (x : Word) : casNew m n b c t x = .ok (if x.toNat % 2 ^ (8 * n) = (t.val b).toNat % 2 ^ (8 * n) then some (t.val c) else none) := by
  simp only [casNew, hb, hc, ok_bind]

/-- What an atomic does that delivers v and stores the low bytes of a new value (16 R313). -/
def AtomicGives (i : Instr) (s : State) (l : Loc) (n : Nat) (d : Opnd) (v new : Word) : Prop :=
  ∃ s1, exec i s = .next s1 ∧ s1.m.t.pc = s.m.t.npc ∧
    (∀ k, s1.m.t.cell k = if k = 0 ∨ k = d.key then ⟨v, .raw, none⟩ else s.m.t.cell k) ∧
    s.m.storedAt s1.m l.key n (byteOf new) ∧ s.logged s1 l n ∧ s1.m.fe = s.m.fe

section
variable {s : State} {m : Option XMod} {n : Nat} {nat : Bool} {sp : ASpace} {d a b c : Opnd} {l : Loc} {m0 : Mach} {i : Instr} {rule : RRule}
  (hrest : s.atRest) (hfit : s.fit [d, a, b, c]) (hp : s.plain) (hraw : s.rawOk m [a, b, c]) (hn : n = 8 ∨ n = 4)
  (halign : (s.m.t.val a).toNat % n = 0) (hloc : s.m.atomicLoc sp (s.m.t.val a) n = .ok (l, m0)) (hl : l.inside)
include hrest hfit hp hraw hn halign hloc hl

/-- An atomic with one operand: it delivers the old value, and writes the new one's bytes. -/
theorem exec_rmw {g : Word → Word → Word} {new : Word} (hi : exec i s = issue rule (atomicM m n nat sp d a [b] (rmw m b g)) s)
    (hnew : ∀ j, j < n → byteOf (g (BitVec.ofNat 64 (s.m.number l.key n)) (s.m.t.val b)) j = byteOf new j) :
    AtomicGives i s l n d (if nat then BitVec.ofNat 64 (s.m.number l.key n) else s.m.loaded l.key n false) new := by
  have hb : s.m.t.bounds ([d, a] ++ [b]) = .ok () :=
    State.fit.bounds fun j hj => hfit j (by simp only [List.cons_append, List.nil_append, List.mem_cons, List.not_mem_nil, or_false] at hj ⊢; tauto)
  have hy := hraw.raw (o := b) (by simp)
  obtain ⟨s1, hx, hpc, hcell, hst, hlog, hfe⟩ := exec_atomic_stores hrest hp hb (hraw.raw (List.mem_cons_self ..)) halign hloc hl
    (rmw_ok hy g 0) hi (by omega) (rmw_ok hy g _)
  rw [atomicResult_eq s.m l.key hn] at hcell
  exact ⟨s1, hx, hpc, hcell, hst.congr hnew, hlog, hfe⟩

theorem exec_rmw_low {g : Word → Word → Word} {new : Word} (hi : exec i s = issue rule (atomicM m n false sp d a [b] (rmw m b g)) s)
    (hnew : ∀ j, j < n → byteOf (g (BitVec.ofNat 64 (s.m.number l.key n)) (s.m.t.val b)) j = byteOf new j) :
    AtomicGives i s l n d (s.m.loaded l.key n false) new := exec_rmw hrest hfit hp hraw hn halign hloc hl hi hnew

theorem exec_rmw_natural {g : Word → Word → Word} {new : Word} (hi : exec i s = issue rule (atomicM m n true sp d a [b] (rmw m b g)) s)
    (hnew : ∀ j, j < n → byteOf (g (BitVec.ofNat 64 (s.m.number l.key n)) (s.m.t.val b)) j = byteOf new j) :
    AtomicGives i s l n d (BitVec.ofNat 64 (s.m.number l.key n)) new := exec_rmw hrest hfit hp hraw hn halign hloc hl hi hnew

/-- ACAS where the comparison holds. -/
theorem exec_acas_stores (hi : exec i s = issue rule (atomicM m n false sp d a [b, c] (casNew m n b c)) s)
    (heq : (BitVec.ofNat 64 (s.m.number l.key n)).toNat % 2 ^ (8 * n) = (s.m.t.val b).toNat % 2 ^ (8 * n)) :
    AtomicGives i s l n d (s.m.loaded l.key n false) (s.m.t.val c) := by
  have hnew := casNew_ok (hraw.raw (o := b) (by simp)) (hraw.raw (o := c) (by simp)) n
  obtain ⟨s1, hx, hpc, hcell, hst, hlog, hfe⟩ := exec_atomic_stores hrest hp (srcs := [b, c]) hfit.bounds (hraw.raw (List.mem_cons_self ..))
    halign hloc hl (hnew 0) hi (by omega) ((hnew _).trans (by rw [if_pos heq]))
  rw [atomicResult_eq s.m l.key hn] at hcell
  exact ⟨s1, hx, hpc, hcell, hst, hlog, hfe⟩

/-- ACAS where it fails. -/
theorem exec_acas_reads (hi : exec i s = issue rule (atomicM m n false sp d a [b, c] (casNew m n b c)) s)
    (hne : (BitVec.ofNat 64 (s.m.number l.key n)).toNat % 2 ^ (8 * n) ≠ (s.m.t.val b).toNat % 2 ^ (8 * n)) :
    ∃ s1, exec i s = .next s1 ∧ s.onlyRead s1 ∧ s1.m.t.pc = s.m.t.npc ∧ s1.m.t.cell d.key = ⟨s.m.loaded l.key n false, .raw, none⟩ := by
  have hnew := casNew_ok (hraw.raw (o := b) (by simp)) (hraw.raw (o := c) (by simp)) n
  obtain ⟨s1, hx, hread, hpc, hcell⟩ := exec_atomic_reads hrest hp (srcs := [b, c]) hfit.bounds (hraw.raw (List.mem_cons_self ..))
    halign hloc hl (hnew 0) hi ((hnew _).trans (by rw [if_neg hne]))
  rw [atomicResult_eq s.m l.key hn] at hcell
  exact ⟨s1, hx, hread, hpc, hcell⟩

end

/-- AMIN and AMAX by an order of the low bits. -/
theorem least_bytes {n : Nat} {nat : Bool} {x y : Word} {p : Prop} [Decidable p] (h : lowInt n nat y < lowInt n nat x ↔ p) (j : Nat) :
    byteOf (minMax n nat false x y) j = byteOf (if p then y else x) j := by
  rw [minMax_least]
  exact congrArg (byteOf · j) (if_congr h rfl rfl)

theorem greatest_bytes {n : Nat} (hn : n = 8 ∨ n = 4) {nat : Bool} {x y : Word} {p : Prop} [Decidable p]
    (h : lowInt n nat x < lowInt n nat y ↔ p) {j : Nat} (hj : j < n) :
    byteOf (minMax n nat true x y) j = byteOf (if p then y else x) j := by
  rw [minMax_greatest hn nat x y hj]
  exact congrArg (byteOf · j) (if_congr h rfl rfl)

theorem signed_d_lt (x y : Word) : lowInt 8 false x < lowInt 8 false y ↔ x.toInt < y.toInt := by
  rw [(lowInt_signed x).1, (lowInt_signed y).1]

theorem signed_w_lt (x y : Word) : lowInt 4 false x < lowInt 4 false y ↔ (x.setWidth 32).toInt < (y.setWidth 32).toInt := by
  rw [(lowInt_signed x).2, (lowInt_signed y).2]

theorem natural_d_lt (x y : Word) : lowInt 8 true x < lowInt 8 true y ↔ x.toNat < y.toNat := by
  rw [(lowInt_natural x).1, (lowInt_natural y).1, Int.ofNat_lt]

theorem natural_w_lt (x y : Word) : lowInt 4 true x < lowInt 4 true y ↔ (x.setWidth 32).toNat < (y.setWidth 32).toNat := by
  rw [(lowInt_natural x).2, (lowInt_natural y).2, Int.ofNat_lt]

theorem low_d_eq (x y : Word) : x.toNat % 2 ^ (8 * 8) = y.toNat % 2 ^ (8 * 8) ↔ x.toNat = y.toNat := by
  rw [Nat.mod_eq_of_lt x.isLt, Nat.mod_eq_of_lt y.isLt]

theorem low_w_eq (x y : Word) : x.toNat % 2 ^ (8 * 4) = y.toNat % 2 ^ (8 * 4) ↔ (x.setWidth 32).toNat = (y.setWidth 32).toNat := by
  rw [BitVec.toNat_setWidth, BitVec.toNat_setWidth]

/-- Settles O23: each atomic by what its operation makes of the old value (`exec_rmw`, `exec_acas_stores`). -/
theorem atomics : Obligations.Atomics := by
  unfold Obligations.Atomics
  intro s m w sp d a b c hrest
  dsimp only
  intro hfit hp hraw halign l m0 hloc hl
  cases w with
  | false =>
    simp only [Bool.false_eq_true, if_false, if_true] at halign hloc ⊢
    have hn : 8 = 8 ∨ 8 = 4 := .inl rfl
    exact ⟨exec_rmw_low hrest hfit hp hraw hn halign hloc hl rfl fun _ _ => rfl,
      exec_rmw_low hrest hfit hp hraw hn halign hloc hl rfl fun _ _ => rfl,
      exec_rmw_low hrest hfit hp hraw hn halign hloc hl rfl fun _ _ => rfl,
      exec_rmw_low hrest hfit hp hraw hn halign hloc hl rfl fun _ _ => rfl,
      exec_rmw_low hrest hfit hp hraw hn halign hloc hl rfl fun _ _ => rfl,
      exec_rmw_low hrest hfit hp hraw hn halign hloc hl rfl fun j _ => least_bytes (signed_d_lt _ _) j,
      exec_rmw_low hrest hfit hp hraw hn halign hloc hl rfl fun _ hj => greatest_bytes hn (signed_d_lt _ _) hj,
      exec_rmw_natural hrest hfit hp hraw hn halign hloc hl rfl fun j _ => least_bytes (natural_d_lt _ _) j,
      exec_rmw_natural hrest hfit hp hraw hn halign hloc hl rfl fun _ hj => greatest_bytes hn (natural_d_lt _ _) hj,
      fun heq => exec_acas_stores hrest hfit hp hraw hn halign hloc hl rfl ((low_d_eq _ _).mpr heq),
      fun hne => exec_acas_reads hrest hfit hp hraw hn halign hloc hl rfl fun heq => hne ((low_d_eq _ _).mp heq)⟩
  | true =>
    simp only [Bool.false_eq_true, if_false, if_true] at halign hloc ⊢
    have hn : 4 = 8 ∨ 4 = 4 := .inr rfl
    exact ⟨exec_rmw_low hrest hfit hp hraw hn halign hloc hl rfl fun _ _ => rfl,
      exec_rmw_low hrest hfit hp hraw hn halign hloc hl rfl fun _ _ => rfl,
      exec_rmw_low hrest hfit hp hraw hn halign hloc hl rfl fun _ _ => rfl,
      exec_rmw_low hrest hfit hp hraw hn halign hloc hl rfl fun _ _ => rfl,
      exec_rmw_low hrest hfit hp hraw hn halign hloc hl rfl fun _ _ => rfl,
      exec_rmw_low hrest hfit hp hraw hn halign hloc hl rfl fun j _ => least_bytes (signed_w_lt _ _) j,
      exec_rmw_low hrest hfit hp hraw hn halign hloc hl rfl fun _ hj => greatest_bytes hn (signed_w_lt _ _) hj,
      exec_rmw_natural hrest hfit hp hraw hn halign hloc hl rfl fun j _ => least_bytes (natural_w_lt _ _) j,
      exec_rmw_natural hrest hfit hp hraw hn halign hloc hl rfl fun _ hj => greatest_bytes hn (natural_w_lt _ _) hj,
      fun heq => exec_acas_stores hrest hfit hp hraw hn halign hloc hl rfl ((low_w_eq _ _).mpr heq),
      fun hne => exec_acas_reads hrest hfit hp hraw hn halign hloc hl rfl fun heq => hne ((low_w_eq _ _).mp heq)⟩

end Sys2Proof.Machine
end

section
/-! PROOFS. O21: the stores. -/

namespace Sys2Proof.Machine

/-! ### What a store does (16 R304) -/

theorem Mach.resolve_under {m m1 : Mach} {c core n : Nat} {sp : Space} {a : Word} {write : Bool} {l : Loc}
    (h : m.resolve c core sp a n write = .ok (l, m1)) : m.Under m1 := by
  cases sp with
  | g =>
    simp only [Mach.resolve] at h
    split at h
    · next r hr =>
      obtain rfl := Except.ok.inj h
      exact Mach.under_of_tlb (Mach.reach_frame hr)
    · exact absurd h nofun
  | s =>
    simp only [Mach.resolve] at h
    split at h
    · rw [← (Prod.mk.inj (Except.ok.inj h)).2]
      exact .refl m
    · exact absurd h nofun
  | a =>
    simp only [Mach.resolve] at h
    split at h
    · rw [← (Prod.mk.inj (Except.ok.inj h)).2]
      exact .refl m
    · exact absurd h nofun
  | c =>
    simp only [Mach.resolve] at h
    split at h
    · rw [← (Prod.mk.inj (Except.ok.inj h)).2]
      exact .refl m
    · exact absurd h nofun

theorem Mach.under_touchLine (m : Mach) (g : Gid) (k n : Nat) : m.Under (m.touchLine g k n) := by
  rw [Mach.Under]
  rfl

theorem Loc.inside.not_dev {l : Loc} (h : l.inside) : l.home ≠ .dev := by
  rcases h with h | ⟨c, h⟩ <;> rw [h] <;> nofun

section
variable {m : Mach} {mod : Option XMod} {l : Loc} (hweak : m.weak = []) (hl : l.inside)
include hweak hl

theorem storeCells_strong (hs : isWeak mod l = false) (n : Nat) (cells : List (Nat × Byte)) : ∃ m1, m.Under m1 ∧
    m.storeCells mod l n cells = .ok (m1.writeCells m.t.gid (threadParty m.t.core) l n cells) := by
  have hd : (m.touchLine m.t.gid l.key n).drainOwn m.t.gid l.key n = m.touchLine m.t.gid l.key n :=
    drain_none (m := m.touchLine m.t.gid l.key n) hweak _
  refine ⟨m.touchLine m.t.gid l.key n, m.under_touchLine _ _ _, ?_⟩
  simp only [Mach.storeCells, outside_ok hl, releaseAt_none hweak, if_neg hl.not_dev, hs, hd, ok_bind, Bool.false_eq_true, if_false]

theorem storeCells_weak (hs : isWeak mod l = true) (n : Nat) (cells : List (Nat × Byte)) : ∃ m1, m.Under m1 ∧
    m.storeCells mod l n cells = .ok { m1 with weak := [⟨m.t.gid, m.t.core, m.t.rec_, l, n, cells⟩] } := by
  refine ⟨m.touchLine m.t.gid l.key n, m.under_touchLine _ _ _, ?_⟩
  have hjoin : ∀ w, (m.touchLine m.t.gid l.key n).joinable w = none := fun w => by
    have hw : (m.touchLine m.t.gid l.key n).weak = [] := hweak
    simp [Mach.joinable, hw]
  simp only [Mach.storeCells, outside_ok hl, releaseAt_none hweak, if_neg hl.not_dev, hs, ok_bind, if_true, Mach.issueWeak, hjoin,
    Option.bind_none]
  rw [show (m.touchLine m.t.gid l.key n).weak = [] from hweak, List.nil_append]

end

/-- An instruction that ends in one write inside the module: its record, its bytes, and the wait for a home outside the core. -/
theorem exec_stores {s : State} (hrest : s.atRest) (hp : s.plain) {i : Instr} {rule : RRule} {f : Mach → Except Stop Mach} {m1 : Mach}
    {l : Loc} {n : Nat} {cells : List (Nat × Byte)} (hi : exec i s = issue rule f s) (h1 : s.m.Under m1)
    (hf : f s.m = .ok ((m1.writeCells s.m.t.gid (threadParty s.m.t.core) l n cells).parkMem l)) (hl : l.inside) (hn : n ≤ 64) :
    ∃ s1, exec i s = .next s1 ∧ s.onlyWrote s1 l ∧ s1.m.fe = s.m.fe ∧ s.logged s1 l n ∧ s1.m.mem = pokeCells s.m.mem cells := by
  obtain ⟨code, ctxs, hw, hctxs⟩ := h1.writeCells (hrest.calm hp.2) hl s.m.t.gid (threadParty s.m.t.core) n cells hrest.struck hn
  obtain ⟨m2, hm2⟩ : ∃ m2, m2 = m1.writeCells s.m.t.gid (threadParty s.m.t.core) l n cells := ⟨_, rfl⟩
  rw [← hm2] at hf
  have hframe : m2 = { m1 with order := m1.order + 1, ctxs := ctxs, codeOld := code, mem := pokeCells s.m.mem cells } := hm2.trans hw
  have hlog : m2.ctxs = (s.m.recorded s.m.t.gid (threadParty s.m.t.core) l n).ctxs := (by rw [hframe] : m2.ctxs = ctxs).trans hctxs
  have ht : m2.t = s.m.t := (by rw [hframe] : m2.t = m1.t).trans h1.t
  refine ⟨_, hi.trans (issue_parks hp.1 hf (ht ▸ hp.1) (ht ▸ hp.2) (fits_recorded hlog hn hrest.room)), ?_,
    (by rw [hframe] : m2.fe = m1.fe).trans h1.fe, State.logged_of_recorded hlog, by rw [hframe]⟩
  rw [Mach.Under] at h1
  refine ⟨rfl, rfl, ?_, ?_, ?_, ?_, ?_, ?_, ?_, ?_, ?_, congrArg (fun t : Task => (t.parkedBy l).retire) ht⟩
  all_goals
    dsimp only
    rw [hframe, h1]

/-! ### ST (16 R304) -/

section
variable {s : State} {m : Option XMod} {sp : Space} {d a : Opnd} {n : Nat} {l : Loc} {m1 : Mach} (hrest : s.atRest)
  (h : s.ready m [d, a] [a]) (halign : (s.m.t.val a).toNat % n = 0)
  (hres : s.m.resolve s.m.cur s.m.t.core sp (s.m.t.val a) n true = .ok (l, m1)) (hl : l.inside)
include hrest h halign hres

theorem stM_eq : s.m.Under m1 ∧ stM m sp n d a s.m =
    (m1.storeCells m l n (cellsFrom l.key (leBytes (s.m.t.val d).toNat n))).bind fun m2 => .ok (m2.parkStore m l) := by
  have h1 := Mach.resolve_under hres
  have hwatch : m1.t.watchEn = false := h1.t ▸ hrest.watch
  have hent : m1.tracked (clusterOf m1.t.core) + 8 ≤ 750 := by rw [h1.tracked, h1.t]; exact hrest.entries
  refine ⟨h1, ?_⟩
  have hreg : s.m.t.region = none := h.1.1
  simp only [stM, h.2.1.bounds, effective_ok (h.2.2.raw (List.mem_singleton_self a)) halign, conc_plain hreg, hreg, Mach.storeOut, hres,
    Task.watchCheck_off hwatch, needEntries_ok (h1.weak.trans hrest.weak) [l] (by simp) hent, ok_bind]
  rfl

include hl

theorem exec_st_strong {z : Size} (hz : sizeBytes z = n) (hn : n ≤ 64) (hs : isWeak m l = false) : ∃ s1, exec (.st m z sp d a) s = .next s1 ∧
    s.onlyWrote s1 l ∧ s1.m.fe = s.m.fe ∧ s.logged s1 l n ∧ s.m.storedAt s1.m l.key n (byteOf (s.m.t.val d)) := by
  subst hz
  obtain ⟨h1, hm⟩ := stM_eq hrest h halign hres
  obtain ⟨m2, h2, hst⟩ := storeCells_strong (h1.weak.trans hrest.weak) hl hs (sizeBytes z) (cellsFrom l.key (leBytes (s.m.t.val d).toNat (sizeBytes z)))
  rw [hst, h1.t] at hm
  have hm2 : stM m sp (sizeBytes z) d a s.m = .ok ((m2.writeCells s.m.t.gid (threadParty s.m.t.core) l (sizeBytes z)
      (cellsFrom l.key (leBytes (s.m.t.val d).toNat (sizeBytes z)))).parkMem l) :=
    hm.trans (congrArg Except.ok (if_neg (Bool.eq_false_iff.mp hs)))
  obtain ⟨s1, hx, hw, hfe, hlog, hmem⟩ := exec_stores hrest h.1 (i := .st m z sp d a) rfl (h1.trans h2) hm2 hl hn
  rw [pokeCells_cellsFrom] at hmem
  exact ⟨s1, hx, hw, hfe, hlog, storedAt_pokeMem _ _ _ _ _ hmem⟩

theorem exec_st_weak {z : Size} (hz : sizeBytes z = n) (hs : isWeak m l = true) : ∃ s1, exec (.st m z sp d a) s = .next s1 ∧
    s1.m.mem = s.m.mem ∧ s1.m.ctxs = s.m.ctxs ∧ s1.m.t = s.m.t.retire ∧ s1.m.weak =
      [⟨s.m.t.gid, s.m.t.core, s.m.t.rec_, l, n, cellsFrom l.key (leBytes (s.m.t.val d).toNat n)⟩] := by
  subst hz
  obtain ⟨h1, hm⟩ := stM_eq hrest h halign hres
  obtain ⟨m2, h2, hst⟩ := storeCells_weak (h1.weak.trans hrest.weak) hl hs (sizeBytes z) (cellsFrom l.key (leBytes (s.m.t.val d).toNat (sizeBytes z)))
  rw [hst, h1.t] at hm
  have h12 := h1.trans h2
  have hm2 : stM m sp (sizeBytes z) d a s.m = .ok { m2 with weak :=
      [⟨s.m.t.gid, s.m.t.core, s.m.t.rec_, l, sizeBytes z, cellsFrom l.key (leBytes (s.m.t.val d).toNat (sizeBytes z))⟩] } :=
    hm.trans (congrArg Except.ok (if_pos hs))
  exact ⟨_, issue_ok (f := stM m sp (sizeBytes z) d a) h.1.1 hm2 (h12.t ▸ h.1.1) (ready_not_held (h12.t ▸ h.1.2)) (fits_of_ctxs h12.ctxs _),
    h12.mem, h12.ctxs, congrArg Task.retire h12.t, rfl⟩

end

/-! ### The bytes of a vector (16 R305) -/

/-- The bytes of words of four bytes each. -/
theorem getD_flatMap_four {f : Nat → List Byte} (hf : ∀ i, (f i).length = 4) : ∀ n i, i < 4 * n →
    ((List.range n).flatMap f).getD i 0 = (f (i / 4)).getD (i % 4) 0
  | 0, _, h => absurd h (by omega)
  | n + 1, i, h => by
    have hlen : ((List.range n).flatMap f).length = 4 * n := by
      simp only [List.length_flatMap, hf, List.map_const', List.length_range, List.sum_replicate, smul_eq_mul]
      omega
    rw [List.range_succ, List.flatMap_append, List.flatMap_singleton]
    by_cases hi : i < 4 * n
    · rw [List.getD_append _ _ _ _ (by omega)]
      exact getD_flatMap_four hf n i hi
    · rw [List.getD_append_right _ _ _ _ (by omega), hlen, show i / 4 = n by omega, show i % 4 = i - 4 * n by omega]

theorem pokeCells_append : ∀ (cs ds : List (Nat × Byte)) (mem : List Host.Cell), pokeCells mem (cs ++ ds) = pokeCells (pokeCells mem cs) ds
  | [], _, _ => rfl
  | (_, _) :: r, ds, _ => pokeCells_append r ds _

/-- Words of four bytes written where a predicate holds. -/
theorem look_pokeCells_words (p : Nat → Bool) (v : Nat → Nat) (k : Nat) (mem : List Host.Cell) (j : Nat) : ∀ n,
    Tab.look emptyByte (pokeCells mem ((List.range n).flatMap fun i => if p i then cellsFrom (k + 4 * i) (leBytes (v i) 4) else [])) j =
      if k ≤ j ∧ j < k + 4 * n ∧ p ((j - k) / 4) = true then BitVec.ofNat 8 (v ((j - k) / 4) / 256 ^ ((j - k) % 4)) else Tab.look emptyByte mem j
  | 0 => by
    rw [if_neg (by omega)]
    rfl
  | n + 1 => by
    rw [List.range_succ, List.flatMap_append, List.flatMap_singleton, pokeCells_append]
    have ih := look_pokeCells_words p v k mem j n
    by_cases hn : p n = true
    · rw [if_pos hn, pokeCells_cellsFrom, look_pokeMem, leBytes_length, ih]
      by_cases hj : k + 4 * n ≤ j ∧ j < k + 4 * n + 4
      · have hdiv : (j - k) / 4 = n := by omega
        have hmod : (j - k) % 4 = j - (k + 4 * n) := by omega
        rw [if_pos hj, if_pos ⟨by omega, by omega, by rw [hdiv]; exact hn⟩, leBytes_getD _ _ _ (by omega), hdiv, hmod]
      · rw [if_neg hj]
        exact if_congr (by constructor <;> rintro ⟨h1, h2, h3⟩ <;> exact ⟨h1, by omega, h3⟩) rfl rfl
    · rw [if_neg hn]
      refine ih.trans (if_congr ⟨fun ⟨h1, h2, h3⟩ => ⟨h1, by omega, h3⟩, fun ⟨h1, h2, h3⟩ => ⟨h1, ?_, h3⟩⟩ rfl rfl)
      by_contra hge
      rw [show (j - k) / 4 = n by omega] at h3
      exact hn h3

/-! ### XST (16 R311) -/

section
variable {s : State} {m : Option XMod} {a : Opnd} {src : XstSrc} {n : Nat} {bs : List Byte} {l : Loc} (hrest : s.atRest) (hp : s.plain)
  (hraw : s.rawOk m [a]) (halign : (s.m.t.val a).toNat % n = 0) (hl : s.m.reachS s.m.cur s.m.t.core (s.m.t.val a) n needX true = .ok l)
include hrest hp hl

/-- XST of some bytes, once its checks hold. -/
theorem exec_xst (hm : xstM m a src s.m =
      .ok (((s.m.touchLine s.m.t.gid l.key n).write s.m.t.gid (threadParty s.m.t.core) l bs).parkMem l))
    (hlen : bs.length = n) (hn : n ≤ 64) {f : Nat → Byte} (hf : ∀ i, i < n → bs.getD i 0 = f i) :
    ∃ s1, exec (.xst m a src) s = .next s1 ∧ s.onlyWrote s1 l ∧ s1.m.fe = s.m.fe ∧ s.logged s1 l n ∧ s.m.storedAt s1.m l.key n f := by
  rw [Mach.write, hlen] at hm
  obtain ⟨s1, hx, hw, hfe, hlog, hmem⟩ := exec_stores hrest hp (i := .xst m a src) rfl (s.m.under_touchLine _ _ _) hm (reachS_inside hl) hn
  rw [pokeCells_cellsFrom] at hmem
  have hst := storedAt_of_pokeMem hmem
  rw [hlen] at hst
  exact ⟨s1, hx, hw, hfe, hlog, hst.congr hf⟩

end

section
variable {s : State} {m : Option XMod} {a d : Opnd} {v : Fin 256} {l : Loc} (hrest : s.atRest) (hp : s.plain) (hraw : s.rawOk m [a])
include hrest hp hraw

theorem exec_xst_d (hfit : s.fit [d, a]) (halign : (s.m.t.val a).toNat % 8 = 0)
    (hl : s.m.reachS s.m.cur s.m.t.core (s.m.t.val a) 8 needX true = .ok l) : ∃ s1, exec (.xst m a (.d d)) s = .next s1 ∧
      s.onlyWrote s1 l ∧ s1.m.fe = s.m.fe ∧ s.logged s1 l 8 ∧ s.m.storedAt s1.m l.key 8 (byteOf (s.m.t.val d)) := by
  refine exec_xst hrest hp hl (bs := leBytes (s.m.t.val d).toNat 8) ?_ (leBytes_length _ _) (by decide) fun i hi => leBytes_getD _ _ _ hi
  simp only [xstM, hfit.bounds, effective_ok (hraw.raw (List.mem_singleton_self a)) halign, hl, Task.watchCheck_off hrest.watch,
    needEntries_ok hrest.weak [l] (by simp) hrest.entries, releaseAt_none hrest.weak, ok_bind]

theorem exec_xst_w (hfit : s.fit [d, a]) (halign : (s.m.t.val a).toNat % 4 = 0)
    (hl : s.m.reachS s.m.cur s.m.t.core (s.m.t.val a) 4 needX true = .ok l) : ∃ s1, exec (.xst m a (.w d)) s = .next s1 ∧
      s.onlyWrote s1 l ∧ s1.m.fe = s.m.fe ∧ s.logged s1 l 4 ∧ s.m.storedAt s1.m l.key 4 (byteOf (s.m.t.val d)) := by
  refine exec_xst hrest hp hl (bs := leBytes (s.m.t.val d).toNat 4) ?_ (leBytes_length _ _) (by decide) fun i hi => leBytes_getD _ _ _ hi
  simp only [xstM, hfit.bounds, effective_ok (hraw.raw (List.mem_singleton_self a)) halign, hl, Task.watchCheck_off hrest.watch,
    needEntries_ok hrest.weak [l] (by simp) hrest.entries, releaseAt_none hrest.weak, ok_bind]

theorem exec_xst_v (hfit : s.vfit [v] [a]) (halign : (s.m.t.val a).toNat % 64 = 0)
    (hl : s.m.reachS s.m.cur s.m.t.core (s.m.t.val a) 64 needX true = .ok l) : ∃ s1, exec (.xst m a (.v v)) s = .next s1 ∧
      s.onlyWrote s1 l ∧ s1.m.fe = s.m.fe ∧ s.logged s1 l 64 ∧ s.m.storedAt s1.m l.key 64
        (fun i => BitVec.ofNat 8 ((s.m.t.img.lane v.val (i / 4)).toNat / 256 ^ (i % 4))) := by
  refine exec_xst hrest hp hl (bs := (List.range 16).flatMap fun i => leBytes (s.m.t.img.lane v.val i).toNat 4) ?_ (by simp) (by decide)
    fun i hi => ?_
  · simp only [xstM, vbounds_ok hfit, effective_ok (hraw.raw (List.mem_singleton_self a)) halign, hl, Task.watchCheck_off hrest.watch,
      needEntries_ok hrest.weak [l] (by simp) hrest.entries, releaseAt_none hrest.weak, ok_bind]
  · rw [getD_flatMap_four (fun _ => leBytes_length _ _) 16 i (by omega), leBytes_getD _ _ _ (by omega)]

end

/-! ### STV (16 R305) -/

/-- A predicate that is not all zeros stores some lane. -/
theorem stvCells_ne_nil {g : Image} {p : Mask} (hp : p ≠ 0) (s k : Nat) : stvCells g p s k ≠ [] := by
  intro hnil
  refine hp (BitVec.eq_of_getLsbD_eq fun i hi => ?_)
  have hi := List.flatMap_eq_nil_iff.mp hnil i (List.mem_range.mpr hi)
  show p.getLsbD i = (0#16).getLsbD i
  rw [BitVec.getLsbD_zero]
  by_contra hbit
  rw [if_pos (Bool.not_eq_false _ ▸ hbit)] at hi
  exact absurd hi nofun

theorem Mach.parkAny_one (m : Mach) (l : Loc) : m.parkAny [l] = m.parkMem l := by
  unfold Mach.parkAny Mach.parkMem
  by_cases hl : parks l = true
  · simp only [List.filter_cons_of_pos hl, List.filter_nil, List.length_singleton, if_pos hl]
  · simp only [List.filter_cons_of_neg hl, List.filter_nil, List.length_nil, if_neg hl]

section
variable {s : State} {m : Option XMod} {a : Opnd} {g : Fin 8} {sp : Space} {v : Fin 256} {l : Loc} {m1 : Mach} (hrest : s.atRest)
  (hp : s.plain) (hraw : s.rawOk m [a]) (halone : s.m.t.fol = []) (hfit : s.vfit [v] [a]) (halign : (s.m.t.val a).toNat % 64 = 0)
  (hres : s.m.resolve s.m.cur s.m.t.core sp (s.m.t.val a) 64 true = .ok (l, m1)) (hl : l.inside) (hs : isWeak m l = false)
  (hgov : s.m.t.gov g 0 ≠ 0)
include hrest hraw halone hfit halign hres hl hs hgov

theorem stvM_eq : ∃ m2, s.m.Under m2 ∧ stvM m sp g v a s.m = .ok ((m2.writeCells s.m.t.gid (threadParty s.m.t.core) l 64
    (stvCells s.m.t.img (s.m.t.gov g 0) v.val l.key)).parkMem l) := by
  have h1 := Mach.resolve_under hres
  have hwatch : m1.t.watchEn = false := h1.t ▸ hrest.watch
  have hent : m1.tracked (clusterOf m1.t.core) + 8 ≤ 750 := by rw [h1.tracked, h1.t]; exact hrest.entries
  have hw1 : m1.weak = [] := h1.weak.trans hrest.weak
  have hsize : s.m.t.gangSize = 1 := by rw [Task.gangSize, halone]; rfl
  have hpred : s.m.t.img.pred g = s.m.t.gov g 0 := rfl
  have hmem0 : ∀ t : Task, t = s.m.t → t.member 0 = s.m.t.img := fun t ht => by rw [ht]; rfl
  have hcells : (stvCells s.m.t.img (s.m.t.gov g 0) v.val l.key).isEmpty = false :=
    List.isEmpty_eq_false_iff.mpr (stvCells_ne_nil hgov _ _)
  have hoffs : ((stvCells s.m.t.img (s.m.t.gov g 0) v.val 0).map Prod.fst).isEmpty = false :=
    List.isEmpty_eq_false_iff.mpr fun hn => stvCells_ne_nil hgov _ _ (List.map_eq_nil_iff.mp hn)
  obtain ⟨m2, h2, hst⟩ := storeCells_strong hw1 hl hs 64 (stvCells s.m.t.img (s.m.t.gov g 0) v.val l.key)
  rw [h1.t] at hst
  refine ⟨m2, h1.trans h2, ?_⟩
  have hloc : ∀ offs : Nat → List Nat, s.m.memberLocs sp (s.m.t.val a) true offs 0 1 = .ok ([l], m1) := fun offs => by
    simp only [Mach.memberLocs, Mach.memberLoc, if_true, Nat.add_zero, hres, forMember, Task.watchCheck_off hwatch, ok_bind]
  have hstore : m1.storeMembers m g v.val 0 [l] =
      .ok (m2.writeCells s.m.t.gid (threadParty s.m.t.core) l 64 (stvCells s.m.t.img (s.m.t.gov g 0) v.val l.key)) := by
    simp only [Mach.storeMembers, hmem0 _ h1.t, hpred, hcells, Bool.false_eq_true, if_false, hst, forMember, ok_bind]
  rw [← Mach.parkAny_one]
  simp only [stvM, vbounds_ok hfit, effective_ok (hraw.raw (List.mem_singleton_self a)) halign, hsize, hloc,
    needEntries_ok hw1 [l] (by simp) hent, releaseAt_none hw1, hstore, ok_bind]
  refine congrArg Except.ok (congrArg (Mach.parkAny _) ?_)
  simp only [List.length_singleton, List.range_one, List.zip_cons_cons, List.zip_nil_right, hmem0 _ rfl, hpred, hs, hoffs, List.filter_cons,
    Bool.not_false, Bool.and_true, if_true, List.filter_nil, List.map_cons, List.map_nil]

include hp

theorem exec_stv : ∃ s1, exec (.stv m g sp v a) s = .next s1 ∧ s.onlyWrote s1 l ∧ s1.m.fe = s.m.fe ∧ s.logged s1 l 64 ∧
    s.m.storedAt s1.m l.key 64 (fun i => if (s.m.t.gov g 0).getLsbD (i / 4)
      then BitVec.ofNat 8 ((s.m.t.img.lane v.val (i / 4)).toNat / 256 ^ (i % 4)) else s.m.byte (l.key + i)) := by
  obtain ⟨m2, h2, hm⟩ := stvM_eq hrest hraw halone hfit halign hres hl hs hgov
  obtain ⟨s1, hx, hw, hfe, hlog, hmem⟩ := exec_stores hrest hp (i := .stv m g sp v a) rfl h2 hm hl (by decide)
  refine ⟨s1, hx, hw, hfe, hlog, fun i hi => ?_, fun j hj => ?_⟩
  · rw [Mach.byte, hmem]
    refine (look_pokeCells_words (fun i => (s.m.t.gov g 0).getLsbD i) (fun i => (s.m.t.img.lane v.val i).toNat) l.key s.m.mem _ 16).trans ?_
    rw [Nat.add_sub_cancel_left]
    refine if_congr ⟨fun h => h.2.2, fun h => ⟨by omega, by omega, h⟩⟩ rfl rfl
  · rw [Mach.byte, hmem]
    exact (look_pokeCells_words (fun i => (s.m.t.gov g 0).getLsbD i) (fun i => (s.m.t.img.lane v.val i).toNat) l.key s.m.mem _ 16).trans
      (if_neg fun h => by omega)

end

/-- Settles O21: each store by the one write it ends in (`exec_stores`), and a weak one by what it leaves waiting. -/
theorem stores : Obligations.Stores := by
  unfold Obligations.Stores
  intro s m g z sp d a v hrest
  dsimp only
  refine ⟨fun h halign l m1 hres hl => ?_, fun hp hraw halone => ⟨fun l hfit halign hl => exec_xst_d hrest hp hraw hfit halign hl,
    fun l hfit halign hl => exec_xst_w hrest hp hraw hfit halign hl, fun l hfit halign hl => exec_xst_v hrest hp hraw hfit halign hl,
    fun l m1 hfit halign hres hl hs hgov => exec_stv hrest hp hraw halone hfit halign hres hl hs hgov⟩⟩
  cases z with
  | b => exact ⟨exec_st_strong hrest h halign hres hl rfl (by decide), exec_st_weak hrest h halign hres hl rfl⟩
  | h => exact ⟨exec_st_strong hrest h halign hres hl rfl (by decide), exec_st_weak hrest h halign hres hl rfl⟩
  | w => exact ⟨exec_st_strong hrest h halign hres hl rfl (by decide), exec_st_weak hrest h halign hres hl rfl⟩
  | d => exact ⟨exec_st_strong hrest h halign hres hl rfl (by decide), exec_st_weak hrest h halign hres hl rfl⟩

end Sys2Proof.Machine
end

section
/-! PROOFS. O20: the loads. -/

namespace Sys2Proof.Machine

/-! ### What a load may change -/

/-- m1 is m but for the task in focus, the translations held, the places in the order of requests, the free choices and what the
streams have seen. -/
def Mach.Reads (m m1 : Mach) : Prop :=
  m1 = { m with t := m1.t, order := m1.order, reqs := m1.reqs, tlb := m1.tlb, dtlb := m1.dtlb, engines := m1.engines, free := m1.free }

section
variable {m m1 : Mach} (h : m.Reads m1)
include h

theorem Mach.Reads.mem : m1.mem = m.mem := by rw [Mach.Reads] at h; rw [h]
theorem Mach.Reads.ctxs : m1.ctxs = m.ctxs := by rw [Mach.Reads] at h; rw [h]
theorem Mach.Reads.weak : m1.weak = m.weak := by rw [Mach.Reads] at h; rw [h]
theorem Mach.Reads.peek (k n : Nat) : m1.peek k n = m.peek k n := by simp only [Mach.peek, Mach.byte, h.mem]

theorem Mach.Reads.trans {m2 : Mach} (h1 : m1.Reads m2) : m.Reads m2 := by
  rw [Mach.Reads] at h h1 ⊢
  rw [h1, h]

theorem Mach.Reads.task (t : Task) : m.Reads { m1 with t := t } := by
  rw [Mach.Reads] at h ⊢
  rw [h]

theorem State.onlyRead_of_reads {s : State} (hs : s.m = m) : s.onlyRead { s with m := m1 } := by
  subst hs
  rw [Mach.Reads] at h
  rw [State.onlyRead, h]
  exact ⟨rfl, rfl, rfl, rfl, rfl, rfl, rfl, rfl, rfl, rfl, rfl, rfl, rfl, rfl⟩

end

theorem Mach.Under.reads {m m1 : Mach} (h : m.Under m1) : m.Reads m1 := by
  rw [Mach.Under] at h
  rw [Mach.Reads, h]

/-- A translation leaves the requests in flight. -/
theorem Mach.resolve_reqs {m m1 : Mach} {c core n : Nat} {sp : Space} {a : Word} {write : Bool} {l : Loc}
    (h : m.resolve c core sp a n write = .ok (l, m1)) : m1.reqs = m.reqs := by
  cases sp with
  | g =>
    simp only [Mach.resolve] at h
    split at h
    · next r hr =>
      obtain rfl := Except.ok.inj h
      rw [Mach.reach_frame hr]
    · exact absurd h nofun
  | s =>
    simp only [Mach.resolve] at h
    split at h
    · rw [← (Prod.mk.inj (Except.ok.inj h)).2]
    · exact absurd h nofun
  | a =>
    simp only [Mach.resolve] at h
    split at h
    · rw [← (Prod.mk.inj (Except.ok.inj h)).2]
    · exact absurd h nofun
  | c =>
    simp only [Mach.resolve] at h
    split at h
    · rw [← (Prod.mk.inj (Except.ok.inj h)).2]
    · exact absurd h nofun

theorem Mach.mergeable_congr {m m1 : Mach} (h : m1.reqs = m.reqs) (t : Task) (l : Loc) (n : Nat) : m1.mergeable t l n = m.mergeable t l n := by
  rw [Mach.mergeable, h, ← Mach.mergeable]

/-! ### The bytes of a load (17 R320) -/

/-- The streams see a read of an activation buffer. -/
def Mach.noted (m : Mach) (l : Loc) (n : Nat) : Mach :=
  if l.space = 3 then m.noteAct ((l.key - spaceBase 2) / 65536) (l.key % 65536) n else m

theorem Mach.noted_eq (m : Mach) (l : Loc) (n : Nat) : ∃ es, m.noted l n = { m with engines := es } := by
  unfold Mach.noted
  split
  · exact ⟨_, rfl⟩
  · exact ⟨m.engines, rfl⟩

section
variable {m : Mach} {mod : Option XMod} {l : Loc} {n : Nat} (hweak : m.weak = [])
include hweak

theorem fetchBytes_inside (hl : l.inside) (hown : isWeak mod l = false ∨ m.mergeable m.t l n = none) :
    ∃ m1, m.fetchBytes mod l n = .ok (m.peek l.key n, m1) ∧ m.Reads m1 ∧ m1.t = m.t := by
  obtain ⟨es, hes⟩ := m.noted_eq l n
  obtain ⟨m2, hm2⟩ : ∃ m2, m2 = m.noted l n := ⟨_, rfl⟩
  have hm2e : m2 = { m with engines := es } := hm2.trans hes
  have hd : m2.drainOwn m.t.gid l.key n = m2 := drain_none (m := m2) (by rw [hm2e]; exact hweak) _
  have hpeek : ∀ k i, m2.peek k i = m.peek k i := fun k i => by simp only [Mach.peek, Mach.byte, hm2e]
  have hfetch : m.fetchBytes mod l n =
      .ok (if isWeak mod l then m2.readWeak l n else (m2.touchLine m.t.gid l.key n).read l n) := by
    simp only [Mach.fetchBytes, outside_ok hl, if_neg hl.not_dev, ok_bind]
    rw [← Mach.noted, ← hm2, hd]
  rw [hfetch]
  cases hw : isWeak mod l with
  | false =>
    refine ⟨m2.touchLine m.t.gid l.key n, ?_, ?_, ?_⟩
    · rw [if_neg (by decide), read_inside hl]
      exact congrArg (fun bs => Except.ok (bs, m2.touchLine m.t.gid l.key n)) (hpeek l.key n)
    · rw [Mach.Reads, hm2e]
      rfl
    · show m2.t = m.t
      rw [hm2e]
  | true =>
    have hnone : m2.mergeable m2.t l n = none := by
      rw [hm2e]
      exact hown.resolve_left (by rw [hw]; decide)
    have hread : m2.readWeak l n = (m2.peek l.key n, { m2.touchLine m2.t.gid l.key n with
        order := m2.order + 1
        reqs := (m2.touchLine m2.t.gid l.key n).reqs ++ [⟨m2.t.gid, clusterOf m2.t.core, l.key / 64,
          (m2.touchLine m2.t.gid l.key n).peek (l.key / 64 * 64) 64, l.home, m2.order, [(m2.t.gid, l.key, n)]⟩] }) := by
      unfold Mach.readWeak
      rcases hl with hl | ⟨c, hl⟩
      · simp only [hl, hnone]
        rfl
      · simp only [hl, hnone]
        rfl
    rw [if_pos rfl, hread, hpeek]
    refine ⟨_, rfl, ?_, ?_⟩
    · rw [Mach.Reads, hm2e]
      rfl
    · show m2.t = m.t
      rw [hm2e]

/-- A load from a peer or a root port, whose bytes are free (17 R320). -/
theorem fetchBytes_outside {m0 : Mach} (hout : m.outside l false = .ok m0) (h0 : m.Reads m0) (ht0 : m0.t = m.t)
    (hl : (∃ p, l.home = .peer p) ∨ ∃ p, l.home = .root p) (hsp : l.space ≠ 3) :
    ∃ bs m1, m.fetchBytes mod l n = .ok (bs, m1) ∧ m.Reads m1 ∧ m1.t = m.t := by
  have hdev : l.home ≠ .dev := by
    rcases hl with ⟨p, hl⟩ | ⟨p, hl⟩ <;> rw [hl] <;> nofun
  have hd : m0.drainOwn m0.t.gid l.key n = m0 := drain_none (m := m0) (h0.weak.trans hweak) _
  have hread : ∀ m3 : Mach, m.Reads m3 → m3.t = m.t → ∃ bs m1, m3.read l n = (bs, m1) ∧ m.Reads m1 ∧ m1.t = m.t := by
    intro m3 h3 ht3
    refine ⟨outsideBytes m3.free n, { m3 with free := m3.free + n }, ?_, ?_, ht3⟩
    · unfold Mach.read
      rcases hl with ⟨p, hl⟩ | ⟨p, hl⟩ <;> simp only [hl]
    · rw [Mach.Reads] at h3 ⊢
      rw [h3]
  have hreads : ∃ bs m1, (if isWeak mod l then m0.readWeak l n else (m0.touchLine m0.t.gid l.key n).read l n) = (bs, m1) ∧
      m.Reads m1 ∧ m1.t = m.t := by
    split
    · have hrw : m0.readWeak l n = m0.read l n := by
        unfold Mach.readWeak
        rcases hl with ⟨p, hl⟩ | ⟨p, hl⟩ <;> simp only [hl]
      rw [hrw]
      exact hread m0 h0 ht0
    · exact hread _ (h0.trans (m0.under_touchLine _ _ _).reads) ht0
  obtain ⟨bs, m1, he, h1, ht1⟩ := hreads
  refine ⟨bs, m1, ?_, h1, ht1⟩
  simp only [Mach.fetchBytes, hout, if_neg hdev, if_neg hsp, hd, ok_bind, he]

end

/-- What a load of a size delivers. -/
theorem extend_peek (m : Mach) (k : Nat) {n : Nat} (hn : n ≤ 8) (zext : Bool) : extend zext n (m.peek k n) = m.loaded k n zext := by
  have hle : 8 * n ≤ 64 := by omega
  unfold extend Mach.loaded
  rw [leNat_peek]
  cases zext
  · rw [if_neg (by decide), if_neg (by decide), sextBits, BitVec.setWidth_ofNat_of_le hle]
  · have hlt := m.number_lt k n
    rw [show 256 ^ n = 2 ^ (8 * n) by rw [Nat.pow_mul]] at hlt
    have hlt64 : m.number k n < 2 ^ 64 := lt_of_lt_of_le hlt (Nat.pow_le_pow_right (by decide) hle)
    rw [if_pos rfl, if_pos rfl, zextBits, BitVec.setWidth_ofNat_of_le hle]
    refine BitVec.eq_of_toNat_eq ?_
    rw [BitVec.toNat_setWidth, BitVec.toNat_ofNat, BitVec.toNat_ofNat, Nat.mod_eq_of_lt hlt]

/-- The place that a virtual address names is global. -/
theorem Mach.reach_space {m m1 : Mach} {c cl n acc : Nat} {va : Word} {l : Loc} (h : m.reach c cl va n acc = .ok (l, m1)) : l.space = 0 := by
  unfold Mach.reach at h
  split at h
  · exact absurd h nofun
  · split at h
    · exact absurd h nofun
    · dsimp only at h
      split at h
      · exact absurd h nofun
      · split at h
        · exact absurd h nofun
        · rw [← (Prod.mk.inj (Except.ok.inj h)).1]

/-! ### LD (16 R304) -/

section
variable {s : State} {m : Option XMod} {tag : Tag} {sp : Space} {d a : Opnd} {n : Nat} {zext : Bool} {l : Loc} {m1 : Mach} (hrest : s.atRest)
  (h : s.ready m [d, a] [a]) (halign : (s.m.t.val a).toNat % n = 0)
  (hres : s.m.resolve s.m.cur s.m.t.core sp (s.m.t.val a) n false = .ok (l, m1))
include hrest h halign hres

theorem ldM_ok {bs : List Byte} {m2 : Mach} (hfetch : m1.fetchBytes m l n = .ok (bs, m2)) :
    ldM m sp n zext tag d a s.m = .ok ((m2.result d (extend zext n bs) tag (acqOf m)).parkMem l) := by
  have h1 := Mach.resolve_under hres
  have hwatch : m1.t.watchEn = false := h1.t ▸ hrest.watch
  have hent : m1.tracked (clusterOf m1.t.core) + 8 ≤ 750 := by rw [h1.tracked, h1.t]; exact hrest.entries
  have hreg : s.m.t.region = none := h.1.1
  simp only [ldM, h.2.1.bounds, effective_ok (h.2.2.raw (List.mem_singleton_self a)) halign, conc_plain hreg, hreg, Mach.loadOut, hres,
    Task.watchCheck_off hwatch, needEntries_ok (h1.weak.trans hrest.weak) [l] (by simp) hent, hfetch, ok_bind]
  rfl

theorem exec_ld_of {i : Instr} {rule : RRule} (hi : exec i s = issue rule (ldM m sp n zext tag d a) s) {bs : List Byte} {m2 : Mach}
    (hfetch : m1.fetchBytes m l n = .ok (bs, m2)) (h2 : s.m.Reads m2) (ht : m2.t = s.m.t) : ∃ s1, exec i s = .next s1 ∧ s.onlyRead s1 ∧
      s1.m.t.pc = s.m.t.npc ∧ s1.m.t.phase = (if parks l then .parked .mem else .ready) ∧
      ∀ k, s1.m.t.cell k = if k = 0 ∨ k = d.key then ⟨extend zext n bs, tag, none⟩ else s.m.t.cell k := by
  have hm := ldM_ok (tag := tag) (zext := zext) hrest h halign hres hfetch
  obtain ⟨hregion, hphase, hnpc, hcell⟩ := Mach.result_task (m := m2) (ht ▸ h.1.1) d (extend zext n bs) tag (acqOf m)
  obtain ⟨t1, ht1⟩ : ∃ t1, t1 = (m2.result d (extend zext n bs) tag (acqOf m)).t := ⟨_, rfl⟩
  have hresult : m2.result d (extend zext n bs) tag (acqOf m) = { m2 with t := t1 } := by
    rw [ht1]
    rfl
  rw [← ht1, ht] at hphase hnpc hcell
  rw [← ht1] at hregion
  rw [hresult] at hm
  have hready := hphase.trans h.1.2
  obtain ⟨-, hpnpc, hpcell⟩ := t1.parkedBy_keeps l
  exact ⟨_, hi.trans (issue_parks h.1.1 hm hregion hready (fits_of_ctxs h2.ctxs _)), State.onlyRead_of_reads (h2.task _) rfl,
    hpnpc.trans hnpc, Task.parkedBy_phase hready l, fun k => (hpcell k).trans (hcell k)⟩

/-- A load inside the module. -/
theorem exec_ld_inside {i : Instr} {rule : RRule} (hi : exec i s = issue rule (ldM m sp n zext tag d a) s) (hn : n ≤ 8) (hl : l.inside)
    (hown : isWeak m l = false ∨ s.m.mergeable s.m.t l n = none) : ∃ s1, exec i s = .next s1 ∧ s.onlyRead s1 ∧
      s1.m.t.pc = s.m.t.npc ∧ s1.m.t.phase = (if parks l then .parked .mem else .ready) ∧
      ∀ k, s1.m.t.cell k = if k = 0 ∨ k = d.key then ⟨s.m.loaded l.key n zext, tag, none⟩ else s.m.t.cell k := by
  have h1 := Mach.resolve_under hres
  have hown1 : isWeak m l = false ∨ m1.mergeable m1.t l n = none := by
    rw [h1.t, Mach.mergeable_congr (Mach.resolve_reqs hres)]
    exact hown
  obtain ⟨m2, hfetch, h2, ht⟩ := fetchBytes_inside (h1.weak.trans hrest.weak) hl hown1
  rw [h1.peek] at hfetch
  have hex := exec_ld_of hrest h halign hres hi hfetch (h1.reads.trans h2) (ht.trans h1.t)
  rw [extend_peek s.m l.key hn] at hex
  exact hex

end

/-- A load from a peer or a root port: free bytes (17 R320, 25 R434, R441). -/
theorem exec_ld_outside {s : State} {m : Option XMod} {tag : Tag} {d a : Opnd} {l : Loc} {m1 : Mach} {p : Nat} (hrest : s.atRest)
    (h : s.ready m [d, a] [a]) (halign : (s.m.t.val a).toNat % 8 = 0)
    (hres : s.m.resolve s.m.cur s.m.t.core .g (s.m.t.val a) 8 false = .ok (l, m1))
    (hl : (l.home = .peer p ∧ p ∈ s.m.portsUp ∧ p ∉ s.m.portsTrain ∧ Config.peerRefuses s.m.free = false) ∨
      (l.home = .root p ∧ s.m.t.answered = true)) :
    ∃ s1 w, exec (.ld m tag .d .g d a) s = .next s1 ∧ s.onlyRead s1 ∧ s1.m.t.pc = s.m.t.npc ∧
      s1.m.t.cell d.key = ⟨w, tag, none⟩ ∧ s1.m.t.cell 0 = ⟨w, tag, none⟩ := by
  have h1 := Mach.resolve_under hres
  have h1e := h1
  rw [Mach.Under] at h1e
  have hspace : l.space ≠ 3 := by
    simp only [Mach.resolve] at hres
    split at hres
    · next r hr =>
      obtain rfl := Except.ok.inj hres
      rw [Mach.reach_space hr]
      decide
    · exact absurd hres nofun
  have hout : ∃ m2, m1.outside l false = .ok m2 ∧ m1.Reads m2 ∧ m2.t = m1.t := by
    unfold Mach.outside
    rcases hl with ⟨hhome, hup, htrain, hrefuse⟩ | ⟨hhome, hans⟩
    · have hup1 : m1.portsUp = s.m.portsUp := by rw [h1e]
      have htrain1 : m1.portsTrain = s.m.portsTrain := by rw [h1e]
      have hfree1 : m1.free = s.m.free := by rw [h1e]
      refine ⟨{ m1 with free := m1.free + 1 }, ?_, rfl, rfl⟩
      have hupc : s.m.portsUp.contains p = true := List.contains_iff_mem.mpr hup
      have htrainc : s.m.portsTrain.contains p = false := Bool.eq_false_iff.mpr fun hn => htrain (List.contains_iff_mem.mp hn)
      simp only [hhome, hup1, htrain1, hfree1, hupc, htrainc, hrefuse, Bool.not_true, Bool.or_false, Bool.false_eq_true, if_false]
    · refine ⟨m1, ?_, rfl, rfl⟩
      simp [hhome, h1.t, hans]
  obtain ⟨m2, hm2, h2, ht2⟩ := hout
  have hplace : (∃ p, l.home = .peer p) ∨ ∃ p, l.home = .root p := hl.imp (fun h => ⟨p, h.1⟩) fun h => ⟨p, h.1⟩
  obtain ⟨bs, m3, hfetch, h3, ht3⟩ := fetchBytes_outside (mod := m) (n := 8) (h1.weak.trans hrest.weak) hm2 h2 ht2 hplace hspace
  obtain ⟨s1, hx, hread, hpc, -, hcell⟩ := exec_ld_of (i := .ld m tag .d .g d a) (tag := tag) (zext := false) hrest h halign hres rfl hfetch
    (h1.reads.trans h3) (ht3.trans h1.t)
  exact ⟨s1, _, hx, hread, hpc, (hcell _).trans (if_pos (.inr rfl)), (hcell _).trans (if_pos (.inl rfl))⟩

/-! ### LDV (16 R305, R308) -/

/-- The members' places resolved change the translations alone. -/
theorem Mach.memberLocs_under {sp : Space} {a : Word} {write : Bool} {offs : Nat → List Nat} : ∀ {n j : Nat} {m m1 : Mach} {ls : List Loc},
    m.memberLocs sp a write offs j n = .ok (ls, m1) → m.Under m1 ∧ ls.length = n
  | 0, j, m, m1, ls, h => by
    obtain ⟨rfl, rfl⟩ := Prod.mk.inj (Except.ok.inj h)
    exact ⟨.refl m, rfl⟩
  | n + 1, j, m, m1, ls, h => by
    rw [Mach.memberLocs] at h
    cases hl : m.memberLoc sp a write j with
    | error e => rw [hl] at h; exact absurd h nofun
    | ok r =>
      obtain ⟨l, m2⟩ := r
      rw [hl, ok_bind] at h
      dsimp only at h
      have h2 : m.Under m2 := by
        unfold Mach.memberLoc forMember at hl
        dsimp only at hl
        split at hl
        · next x hres =>
          obtain rfl := Except.ok.inj hl
          exact Mach.resolve_under hres
        · exact absurd hl nofun
      cases hw : m2.t.watchCheck l 64 (offs j) write with
      | error e => rw [hw] at h; exact absurd h nofun
      | ok u =>
        rw [hw, ok_bind] at h
        cases hr : m2.memberLocs sp a write offs (j + 1) n with
        | error e => rw [hr] at h; exact absurd h nofun
        | ok q =>
          obtain ⟨ls2, m3⟩ := q
          rw [hr, ok_bind] at h
          obtain ⟨rfl, rfl⟩ := Prod.mk.inj (Except.ok.inj h)
          obtain ⟨h3, hlen⟩ := Mach.memberLocs_under hr
          exact ⟨h2.trans h3, congrArg (· + 1) hlen⟩

/-- The 32-bit elements of a vector's bytes. -/
theorem element_peek (m : Mach) (k : Nat) {i : Nat} (hi : i < 16) :
    BitVec.ofNat 32 (leNat (((m.peek k 64).drop (4 * i)).take 4)) = BitVec.ofNat 32 (m.number (k + 4 * i) 4) := by
  have hbytes : ((m.peek k 64).drop (4 * i)).take 4 = m.peek (k + 4 * i) 4 := by
    refine List.ext_getElem (by simp [Mach.peek]; omega) fun j hj _ => ?_
    simp only [Mach.peek, List.getElem_take, List.getElem_drop, List.getElem_map, List.getElem_range, Nat.add_assoc]
  rw [hbytes, leNat_peek]

/-- The elements of the vector at a place. -/
def Mach.elements (m : Mach) (l : Loc) (i : Nat) : BitVec 32 := BitVec.ofNat 32 (leNat (((m.peek l.key 64).drop (4 * i)).take 4))

/-- The members from number j on load their vectors, each into its own image. -/
theorem loadMembers_ok {s : State} {mod : Option XMod} (g : Fin 8) (tag : Tag) (d : Nat) (hweak : s.m.weak = []) (hregion : s.m.t.region = none) :
    ∀ (ls : List Loc) (j : Nat) (m : Mach), (∀ l ∈ ls, l.inside ∧ isWeak mod l = false) → s.m.Reads m → sameBut s.m.t m.t →
      j + ls.length ≤ s.m.t.gangSize → (∀ k, j ≤ k → m.t.member k = s.m.t.member k) →
      ∃ m1, m.loadMembers mod g tag d j ls = .ok m1 ∧ s.m.Reads m1 ∧ sameBut s.m.t m1.t ∧ (∀ k, k < j → m1.t.member k = m.t.member k) ∧
        ∀ k l, ls[k]? = some l →
          m1.t.member (j + k) = (s.m.t.member (j + k)).setLanes d (s.m.t.gov g (j + k)) (s.m.elements l) tag
  | [], _, m, _, hr, hs, _, _ => ⟨m, rfl, hr, hs, fun _ _ => rfl, fun _ _ hk => absurd hk nofun⟩
  | l :: ls, j, m, hls, hr, hs, hj, hsame => by
    obtain ⟨hl, hstrong⟩ := hls l (List.mem_cons_self ..)
    obtain ⟨m1, hfetch, h1, ht1⟩ := fetchBytes_inside (mod := mod) (n := 64) (hr.weak.trans hweak) hl (.inl hstrong)
    rw [hr.peek] at hfetch
    have hlt : j < m.t.gangSize := by
      rw [hs.size]
      simp only [List.length_cons] at hj
      omega
    obtain ⟨m2, hm2⟩ : ∃ m2, m2 = ({ m1 with
      t := m1.t.putLanes j d ((m1.t.member j).pred g) (s.m.elements l) tag } : Mach) := ⟨_, rfl⟩
    have hput : m2.t = m.t.setMember j ((s.m.t.member j).setLanes d (s.m.t.gov g j) (s.m.elements l) tag) := by
      have hpred : (m1.t.member j).pred g = s.m.t.gov g j := by rw [ht1, hsame j (Nat.le_refl j)]; rfl
      rw [hm2]
      show m1.t.putLanes j d ((m1.t.member j).pred g) (s.m.elements l) tag = _
      rw [hpred, ht1, putLanes_plain (hs.region.trans hregion), hsame j (Nat.le_refl j)]
    have hmember : ∀ k, m2.t.member k = if k = j then (s.m.t.member j).setLanes d (s.m.t.gov g j) (s.m.elements l) tag else m.t.member k := by
      intro k
      rw [hput, member_setMember _ hlt]
    have hr2 : s.m.Reads m2 := by
      rw [hm2]
      exact (hr.trans h1).task _
    have hs2 : sameBut s.m.t m2.t := hput ▸ hs.trans (setMember_shape m.t j _)
    obtain ⟨m3, hrest, hr3, hs3, hlow, hhigh⟩ := loadMembers_ok g tag d hweak hregion ls (j + 1) m2
      (fun l hl => hls l (List.mem_cons_of_mem _ hl)) hr2 hs2 (by simp only [List.length_cons] at hj; omega) fun k hk => by
        rw [hmember, if_neg (by omega)]
        exact hsame k (by omega)
    refine ⟨m3, ?_, hr3, hs3, fun k hk => ?_, fun k l1 hk => ?_⟩
    · rw [Mach.loadMembers, hfetch, forMember, ok_bind]
      show Mach.loadMembers _ mod g tag d (j + 1) ls = _
      rw [← hrest, hm2]
      rfl
    · rw [hlow k (by omega), hmember, if_neg (by omega)]
    · cases k with
      | zero =>
        obtain rfl := Option.some.inj hk
        rw [Nat.add_zero, hlow j (by omega), hmember, if_pos rfl]
      | succ k =>
        have hk1 := hhigh k l1 hk
        rw [show j + 1 + k = j + (k + 1) by omega] at hk1
        exact hk1

/-- How a gang waits for its members' accesses. -/
def anyPhase (ls : List Loc) : Phase := match (ls.filter parks).length with
  | 0 => .ready
  | 1 => .parked .mem
  | k => .parked (.members k)

theorem Mach.parkAny_eq {m : Mach} (h : m.t.phase = .ready) (ls : List Loc) : m.parkAny ls = { m with t := { m.t with phase := anyPhase ls } } := by
  unfold Mach.parkAny anyPhase
  rcases hn : (ls.filter parks).length with _ | _ | n
  · exact (by rw [← h] : m = { m with t := { m.t with phase := .ready } })
  · rfl
  · rfl

theorem anyPhase_not_held (t : Task) (ls : List Loc) : ({ t with phase := anyPhase ls } : Task).isHeld = false := by
  unfold anyPhase
  split <;> rfl

theorem Task.acquireAt_member (t : Task) (sc : Option Scope) (n j : Nat) : (t.acquireAt sc n).member j = t.member j := by
  unfold Task.acquireAt
  cases sc with
  | none => rfl
  | some sc => cases sc <;> rfl

theorem lanesWritten_congr {g g1 : Image} {d : Nat} {en : Mask} {v w : Nat → BitVec 32} {tag : Tag} (h : g.lanesWritten g1 d en v tag)
    (hv : ∀ i, i < 16 → v i = w i) : g.lanesWritten g1 d en w tag := by
  obtain ⟨hp, hlane, hrest⟩ := h
  exact ⟨hp, fun i hi hen => (hlane i hi hen).trans (hv i hi), hrest⟩

section
variable {s : State} {m : Option XMod} {g : Fin 8} {tag : Tag} {sp : Space} {v : Fin 256} {a : Opnd} {ls : List Loc} {m1 : Mach}

theorem exec_ldv (hrest : s.atRest) (htag : tag ≠ .unwritten) (hp : s.plain) (hfit : s.vfit [v] [a]) (hraw : s.rawOk m [a])
    (hfol : s.m.t.fol.length ≤ 7) (halign : (s.m.t.val a).toNat % 64 = 0)
    (hlocs : s.m.memberLocs sp (s.m.t.val a) false (fun _ => span 64) 0 s.m.t.gangSize = .ok (ls, m1))
    (hls : ∀ l ∈ ls, l.inside ∧ isWeak m l = false) :
    ∃ s1, exec (.ldv m g tag sp v a) s = .next s1 ∧ s.onlyRead s1 ∧ s1.m.t.pc = s.m.t.npc ∧ s1.m.t.phase = anyPhase ls ∧
      ∀ j l, ls[j]? = some l → (s.m.t.member j).lanesWritten (s1.m.t.member j) v.val (s.m.t.gov g j)
        (fun i => BitVec.ofNat 32 (s.m.number (l.key + 4 * i) 4)) tag := by
  obtain ⟨h1, hlen⟩ := Mach.memberLocs_under hlocs
  have hent : m1.tracked (clusterOf m1.t.core) + 8 ≤ 750 := by rw [h1.tracked, h1.t]; exact hrest.entries
  have hle : ls.length ≤ 8 := by
    rw [hlen, Task.gangSize]
    omega
  obtain ⟨m2, hload, h2, hs2, -, hmember⟩ := loadMembers_ok (mod := m) g tag v.val hrest.weak hp.1 ls 0 m1 hls h1.reads (by rw [h1.t]; exact ⟨rfl, rfl⟩)
    (by omega) fun k _ => by rw [h1.t]
  obtain ⟨hregion, hphase⟩ := Task.acquireAt_keeps m2.t (acqOf m) m2.order
  obtain ⟨-, hnpc⟩ := Task.acquireAt_img m2.t (acqOf m) m2.order
  have hmem := Task.acquireAt_member m2.t (acqOf m) m2.order
  obtain ⟨t1, ht1⟩ : ∃ t1, t1 = m2.t.acquireAt (acqOf m) m2.order := ⟨_, rfl⟩
  rw [← ht1] at hregion hphase hnpc hmem
  have hready : t1.phase = .ready := hphase.trans ((by rw [hs2.2] : m2.t.phase = s.m.t.phase).trans hp.2)
  have hm : ldvM m sp g tag v a s.m = .ok { m2 with t := { t1 with phase := anyPhase ls } } := by
    simp only [ldvM, vbounds_ok hfit, effective_ok (hraw.raw (List.mem_singleton_self a)) halign, hlocs,
      needEntries_ok (h1.weak.trans hrest.weak) ls hle hent, hload, ok_bind]
    rw [← ht1, Mach.parkAny_eq (m := { m2 with t := t1 }) hready]
  refine ⟨_, issue_ok (f := ldvM m sp g tag v a) hp.1 hm (hregion.trans (hs2.region.trans hp.1)) (anyPhase_not_held t1 ls)
    (fits_of_ctxs h2.ctxs _), State.onlyRead_of_reads (h2.task _) rfl, hnpc.trans (by rw [hs2.2]), rfl, fun j l hj => ?_⟩
  have hj2 := hmember j l hj
  rw [Nat.zero_add] at hj2
  refine lanesWritten_congr (v := s.m.elements l) ?_ fun i hi => element_peek s.m l.key hi
  show (s.m.t.member j).lanesWritten (t1.member j) v.val (s.m.t.gov g j) (s.m.elements l) tag
  rw [hmem, hj2]
  exact lanesWritten_setLanes _ _ _ _ _ htag

end

/-- Settles O20: LD by `exec_ld_inside` and `exec_ld_outside`, LDV by `exec_ldv`. -/
theorem loads : Obligations.Loads := by
  unfold Obligations.Loads
  intro s m g tag z y sp d a v hrest htag
  dsimp only
  refine ⟨fun h halign l m1 hres hl hown => ?_, fun h halign l m1 hres hl hown => ?_,
    fun hp hfit hraw hfol halign ls m1 hlocs hls => exec_ldv hrest htag hp hfit hraw hfol halign hlocs hls,
    fun h halign l m1 p hres hl => exec_ld_outside hrest h halign hres hl⟩
  · cases z with
    | b => exact exec_ld_inside hrest h halign hres rfl (by decide) hl hown
    | h => exact exec_ld_inside hrest h halign hres rfl (by decide) hl hown
    | w => exact exec_ld_inside hrest h halign hres rfl (by decide) hl hown
    | d => exact exec_ld_inside hrest h halign hres rfl (by decide) hl hown
  · cases y with
    | b => exact exec_ld_inside hrest h halign hres rfl (by decide) hl hown
    | h => exact exec_ld_inside hrest h halign hres rfl (by decide) hl hown
    | w => exact exec_ld_inside hrest h halign hres rfl (by decide) hl hown

end Sys2Proof.Machine
end

section
/-! PROOFS. O54: ports, peers, devices and their errors. -/

namespace Sys2Proof.Machine

theorem Task.gid_acquireAt (t : Task) (sc : Option Scope) (n : Nat) : (t.acquireAt sc n).gid = t.gid := by
  unfold Task.acquireAt
  cases sc with
  | none => rfl
  | some sc => cases sc <;> rfl

theorem Task.gid_wr (t : Task) (d : Opnd) (v : Word) (g : Tag) : (t.wr d v g).gid = t.gid := rfl

/-! ### What an abort of collectives keeps: the ports, the errors noted so far, the groups marked, the contexts that stand, and the
tasks that have ended (25 R439) -/

/-- A task that has the identifier of another, and has ended where that one has. -/
def Task.Follows (t t1 : Task) : Prop := t1.gid = t.gid ∧ (t.phase = .ended → t1.phase = .ended)

theorem Task.Follows.refl (t : Task) : t.Follows t := ⟨rfl, id⟩

structure Mach.Steady (m m1 : Mach) : Prop where
  up : m1.portsUp = m.portsUp
  train : m1.portsTrain = m.portsTrain
  errs : m.errs <+: m1.errs
  dead : ∀ c g, g ∈ (m.ctx c).deadGroups → g ∈ (m1.ctx c).deadGroups
  valid : ∀ c, (m1.ctx c).valid = (m.ctx c).valid
  tasks : ∀ t1 ∈ m1.tasks, ∃ t ∈ m.tasks, t.Follows t1

theorem Mach.Steady.refl (m : Mach) : m.Steady m := ⟨rfl, rfl, List.prefix_rfl, fun _ _ h => h, fun _ => rfl, fun t ht => ⟨t, ht, .refl t⟩⟩

theorem Mach.Steady.trans {m m1 m2 : Mach} (h : m.Steady m1) (h1 : m1.Steady m2) : m.Steady m2 := by
  refine ⟨h1.up.trans h.up, h1.train.trans h.train, h.errs.trans h1.errs, fun c g hg => h1.dead c g (h.dead c g hg),
    fun c => (h1.valid c).trans (h.valid c), fun t2 ht2 => ?_⟩
  obtain ⟨t1, ht1, hgid1, hend1⟩ := h1.tasks t2 ht2
  obtain ⟨t, ht, hgid, hend⟩ := h.tasks t1 ht1
  exact ⟨t, ht, hgid1.trans hgid, fun h => hend1 (hend h)⟩

/-- A chip that differs in none of what these speak of. -/
theorem Mach.Steady.of_same {m m1 : Mach} (hup : m1.portsUp = m.portsUp) (htrain : m1.portsTrain = m.portsTrain)
    (herrs : m1.errs = m.errs) (hctxs : m1.ctxs = m.ctxs) (htasks : ∀ t1 ∈ m1.tasks, ∃ t ∈ m.tasks, t.Follows t1) : m.Steady m1 :=
  ⟨hup, htrain, herrs ▸ List.prefix_rfl, fun c g hg => by rwa [Mach.ctx_of_ctxs hctxs], fun c => by rw [Mach.ctx_of_ctxs hctxs], htasks⟩

/-- One whose tasks are the same among them. -/
theorem Mach.Steady.of_rest {m m1 : Mach} (hup : m1.portsUp = m.portsUp) (htrain : m1.portsTrain = m.portsTrain)
    (herrs : m1.errs = m.errs) (hctxs : m1.ctxs = m.ctxs) (ht : m1.t = m.t) (hothers : m1.others = m.others) : m.Steady m1 :=
  .of_same hup htrain herrs hctxs fun t1 ht1 => ⟨t1, by rwa [Mach.tasks, ht, hothers] at ht1, .refl t1⟩

theorem Mach.steady_setCtx (m : Mach) (c : Nat) {f : Ctx → Ctx} (hf : ∀ x g, g ∈ x.deadGroups → g ∈ (f x).deadGroups)
    (hv : ∀ x, (f x).valid = x.valid) : m.Steady (m.setCtx c f) := by
  refine ⟨rfl, rfl, List.prefix_rfl, fun d g hg => ?_, fun d => ?_, fun t ht => ⟨t, ht, .refl t⟩⟩
  · rw [Mach.ctx_setCtx]
    split
    · next hd => exact hf _ g (hd ▸ hg)
    · exact hg
  · rw [Mach.ctx_setCtx]
    split
    · next hd => exact (hv _).trans (by rw [hd])
    · rfl

theorem Mach.steady_foldl {α : Type} {f : Mach → α → Mach} (hf : ∀ (m : Mach) a, m.Steady (f m a)) : ∀ (l : List α) (m : Mach),
    m.Steady (l.foldl f m)
  | [], m => .refl m
  | a :: r, m => (hf m a).trans (Mach.steady_foldl hf r (f m a))

theorem Mach.Steady.orHold {m m1 : Mach} (h : m.Steady m1) (c : Nat) : m.Steady (m.orHold c m1) := by
  unfold Mach.orHold
  split
  · exact h
  · exact m.steady_setCtx c (fun _ _ h => h) fun _ => rfl

theorem Mach.steady_mapTasks (m : Mach) {f : Task → Task} (hf : ∀ t : Task, t.Follows (f t)) : m.Steady (m.mapTasks f) := by
  refine .of_same rfl rfl rfl rfl fun t1 ht1 => ?_
  obtain ⟨t, ht, rfl⟩ := List.mem_map.mp (show t1 ∈ m.tasks.map f from ht1)
  exact ⟨t, ht, hf t⟩

/-- A change of a live task that keeps its identifier. -/
theorem Mach.steady_mapTask (m : Mach) (g : Gid) {f : Task → Task} (hf : ∀ t : Task, (f t).gid = t.gid) : m.Steady (m.mapTask g f) := by
  refine .of_same rfl rfl rfl rfl fun t1 ht1 => ?_
  rw [Mach.tasks_mapTask] at ht1
  obtain ⟨t, ht, rfl⟩ := List.mem_map.mp ht1
  refine ⟨t, ht, ?_⟩
  split
  · next hlive => exact ⟨hf t, fun h => absurd h hlive.2⟩
  · exact .refl t

theorem Mach.steady_dropNotes (m1 m : Mach) : m1.Steady (m1.dropNotes m) := by
  refine m1.steady_mapTasks fun t => ?_
  split
  · next hmoved =>
    refine ⟨rfl, fun hend => ?_⟩
    simp [Mach.noteMoved, hend] at hmoved
  · exact .refl t

theorem Mach.steady_siltWrite (m : Mach) (c space k n party : Nat) (g : Gid) : m.Steady (m.siltWrite c space k n party g) := by
  unfold Mach.siltWrite
  dsimp only
  split
  · exact .refl m
  · exact m.steady_setCtx c (fun _ _ h => h) fun _ => rfl

theorem Mach.steady_raiseLine (m : Mach) (c : Nat) (dbg : Bool) (o : Option Gid) : m.Steady (m.raiseLine c dbg o) := by
  refine m.steady_setCtx c (fun x g h => ?_) fun x => ?_
  · split
    · exact h
    · exact h
  · split
    · rfl
    · rfl

theorem Mach.steady_addStop (m : Mach) (c : Nat) (q : StopRec) : m.Steady (m.addStop c q) := by
  refine m.steady_setCtx c (fun x g h => ?_) fun x => ?_
  · dsimp only
    split
    · exact h
    · split
      · exact h
      · exact h
  · dsimp only
    split
    · rfl
    · split
      · rfl
      · rfl

theorem Mach.steady_strike (m : Mach) (w : Task) (striker : Nat) (who : Gid) (addr : Word) (n : Nat) (old : Word) (seq : Nat) :
    m.Steady (m.strike w striker who addr n old seq) := by
  unfold Mach.strike
  refine Mach.Steady.trans ?_ (Mach.steady_addStop _ _ _)
  refine (m.steady_raiseLine (ctxOf w.gid) false (some w.gid)).trans ?_
  exact Mach.steady_setCtx _ _ (fun _ _ h => h) fun _ => rfl

theorem Mach.steady_strikes (m : Mach) (c : Nat) (l : Loc) (n : Nat) (offs : List Nat) (g : Gid) (party : Nat) (old : Word)
    (seq : Nat) : m.Steady (m.strikes c l n offs g party old seq) := by
  have hfold := Mach.steady_foldl (f := fun a w => a.strike w party g l.va n old seq) fun m w => m.steady_strike w party g l.va n old seq
  unfold Mach.strikes
  dsimp only
  split
  · exact m.steady_setCtx c (fun _ _ h => h) fun _ => rfl
  · split
    · exact hfold _ m
    · exact (hfold _ m).trans (Mach.steady_mapTask _ g fun _ => rfl)

theorem Mach.steady_performFe (m : Mach) (g : Gid) (party op core off : Nat) (v : Word) :
    m.Steady (m.performFe g party op core off v).1 := by
  have hsilt := m.steady_siltWrite (ctxOf g) 1 (m.frontLoc core off).key 8 party g
  unfold Mach.performFe
  dsimp only
  split
  · exact .refl m
  · refine ((hsilt.trans ?_).trans (Mach.steady_strikes _ _ _ _ _ _ _ _ _)).trans (Mach.steady_dropNotes _ m)
    split
    · exact .of_rest rfl rfl rfl rfl rfl rfl
    · exact .of_rest rfl rfl rfl rfl rfl rfl

theorem Mach.steady_serve (m : Mach) (t : Task) : m.Steady (m.serve t) := by
  unfold Mach.serve
  split
  · next op c o d v _ _ acq _ =>
    refine Mach.Steady.orHold (Mach.Steady.trans (m.steady_performFe t.gid (threadParty t.core) op c o v) ?_) _
    refine Mach.steady_mapTask _ t.gid fun x => ?_
    rw [Task.resume_gid, Task.gid_acquireAt]
    split
    · rfl
    · exact x.gid_wr d _ .raw
  · next c o k d seq held _ =>
    exact m.steady_mapTask t.gid fun x => (Task.gid_acquireAt _ (some .dv) m.order).trans (x.gid_wr d (m.bar c o).answer .raw)
  · next c o k d seq held _ =>
    exact m.steady_mapTask t.gid fun x =>
      (Task.gid_acquireAt _ (some .dv) m.order).trans (Task.gid_wr { x with gbarE := none } d (m.bar c o).answer .raw)
  · exact .refl m

theorem Mach.steady_setWaiters (m : Mach) (core off : Nat) : m.Steady (m.setWaiters core off) := .of_rest rfl rfl rfl rfl rfl rfl

theorem Mach.steady_settle (core : Nat) : ∀ (n : Nat) (m : Mach), m.Steady (m.settle core n)
  | 0, m => .refl m
  | n + 1, m => by
    unfold Mach.settle
    split
    · exact .refl m
    · next t _ =>
      refine Mach.Steady.trans ?_ (Mach.steady_settle core n _)
      split
      · exact (m.steady_serve t).trans (Mach.steady_setWaiters _ _ _)
      · exact (m.steady_serve t).trans (Mach.steady_setWaiters _ _ _)
      · exact m.steady_serve t

theorem Mach.steady_swapFront (m : Mach) (core : Nat) : m.Steady (m.swapFront core) :=
  (m.steady_mapTasks (f := fun t => { t with region := t.region.map (·.swapped core) }) fun _ => ⟨rfl, id⟩).trans
    (.of_rest rfl rfl rfl rfl rfl rfl)

theorem Mach.steady_settled (m1 m : Mach) (core : Nat) : m1.Steady ((m1.dropNotes m).settleAll core) :=
  (m1.steady_dropNotes m).trans (Mach.steady_settle _ _ _)

theorem Mach.steady_credit (m : Mach) (g : Gid) (party core off n err : Nat) : m.Steady (m.credit g party core off n err) := by
  have hsilt : m.Steady (m.tick.siltWrite (ctxOf g) 1 (m.frontLoc core off).key 16 party g) :=
    Mach.Steady.trans (m1 := m.tick) (.of_rest rfl rfl rfl rfl rfl rfl) (Mach.steady_siltWrite _ _ _ _ _ _ _)
  unfold Mach.credit
  dsimp only
  generalize m.tick.siltWrite (ctxOf g) 1 (m.frontLoc core off).key 16 party g = m0 at hsilt
  have hwritten : m.Steady { m0 with mem := pokeMem m0.mem (m.frontLoc core off).key ((m.bar core off).credit n err).bytes } :=
    hsilt.trans (.of_rest rfl rfl rfl rfl rfl rfl)
  have hstrikes := hwritten.trans (Mach.steady_strikes _ (ctxOf g) (m.frontLoc core off) 16 (span 12) g party
    (BitVec.ofNat 64 (m.word (m.frontLoc core off).key)) (m.ctx (ctxOf g)).silt.nextSeq)
  generalize Mach.strikes _ (ctxOf g) (m.frontLoc core off) 16 (span 12) g party _ _ = m2 at hstrikes
  split
  · exact hstrikes
  · have hsettled := hstrikes.trans (m2.steady_settled m core)
    generalize (m2.dropNotes m).settleAll core = m3 at hsettled
    have hcleared : m.Steady { m3 with gbars := Tab.put [] m3.gbars (core * 65536 + off) [] } :=
      hsettled.trans (.of_rest rfl rfl rfl rfl rfl rfl)
    split
    · exact hcleared
    · refine Mach.Steady.trans ?_ (Mach.steady_foldl (fun a c => a.steady_settled _ c) _ _)
      refine Mach.Steady.trans ?_ (Mach.steady_setCtx _ _ (fun _ _ h => h) fun _ => rfl)
      exact hcleared.trans (Mach.steady_foldl Mach.steady_swapFront _ _)

theorem Mach.steady_creditSome (e : EngRef) (c : ECmd) (n err : Nat) : ∀ (l : List Nat) (m : Mach),
    m.Steady (m.creditSome e c n err l).1
  | [], m => .refl m
  | core :: r, m => by
    have hcredit := m.steady_credit c.gid (engParty e) core c.bar n err
    unfold Mach.creditSome
    dsimp only
    split
    · exact hcredit
    · exact hcredit.trans (Mach.steady_creditSome e c n err r _)

theorem Mach.steady_setEng (m : Mach) (e : EngRef) (f : Engine → Engine) : m.Steady (m.setEng e f) := .of_rest rfl rfl rfl rfl rfl rfl

theorem Mach.steady_payColl (m : Mach) (die : Nat) (k : Coll) (n err : Nat) : m.Steady (m.payColl die k n err).1 :=
  (Mach.steady_creditSome (collEng die) k.cmd n err _ m).trans (Mach.steady_setEng _ _ _)

theorem Mach.steady_dropColl (m : Mach) (die n : Nat) (k : Coll) : m.Steady (m.dropColl die n k) := by
  unfold Mach.dropColl
  refine Mach.Steady.trans ?_ (Mach.steady_setCtx _ k.cmd.ctx (fun _ _ h => h) fun _ => rfl)
  exact .of_rest rfl rfl rfl rfl rfl rfl

theorem Mach.steady_extRequest (m : Mach) (c : Nat) (g : Gid) (ext : Bool) : m.Steady (m.extRequest c g ext) := by
  unfold Mach.extRequest
  split
  · exact m.steady_setCtx c (fun _ _ h => h) fun _ => rfl
  · exact .refl m

theorem Mach.steady_endOp (m : Mach) (e : EngRef) (c : ECmd) (status : Nat) (b : BitVec 64) (ext : Bool) :
    m.Steady (m.endOp e c status b ext) := by
  unfold Mach.endOp
  split
  · exact .refl m
  · refine Mach.Steady.trans (Mach.Steady.trans ?_ (Mach.steady_setEng _ _ _)) (Mach.steady_extRequest _ _ _ _)
    unfold Mach.mailStore
    refine Mach.Steady.trans ?_ (Mach.steady_setEng _ _ _)
    exact m.steady_setCtx c.ctx (fun _ _ h => h) fun _ => rfl

theorem Mach.steady_abortColl (m : Mach) (die n : Nat) (k : Coll) : m.Steady (m.abortColl die n k) := by
  have hnote : ∀ (c : Nat) (r : ErrRec), m.Steady (m.note c r) := fun c r =>
    ⟨rfl, rfl, List.prefix_append _ _, fun _ _ h => h, fun _ => rfl, fun t ht => ⟨t, ht, .refl t⟩⟩
  have he : m.abortColl die n k = (((m.note k.cmd.ctx (k.abortRec die)).payColl die k 0 1).1.dropColl die n k).endOp
      (collEng die) k.cmd 0 0 k.started := rfl
  rw [he]
  exact (((hnote k.cmd.ctx (k.abortRec die)).trans (Mach.steady_payColl _ die k 0 1)).trans (Mach.steady_dropColl _ die n k)).trans
    (Mach.steady_endOp _ _ _ _ _ _)

/-- The abort of a group's collectives at a die keeps these, and marks the group. -/
theorem Mach.steady_memberAbort (m : Mach) (die c g : Nat) :
    m.Steady (m.memberAbort die c g) ∧ g ∈ ((m.memberAbort die c g).ctx c).deadGroups := by
  have hmark : m.Steady (m.setCtx c (Ctx.withDead g)) := by
    refine m.steady_setCtx c (fun x d hd => ?_) fun _ => rfl
    unfold Ctx.withDead
    dsimp only
    split
    · exact hd
    · exact List.mem_append_left _ hd
  have hmarked : g ∈ ((m.setCtx c (Ctx.withDead g)).ctx c).deadGroups := by
    rw [Mach.ctx_setCtx, if_pos rfl]
    exact Ctx.mem_withDead g _
  have habort : (m.setCtx c (Ctx.withDead g)).Steady (m.memberAbort die c g) := by
    unfold Mach.memberAbort
    dsimp only
    split
    · exact (Mach.steady_abortColl _ _ _ _).orHold c
    · exact .refl _
  exact ⟨hmark.trans habort, habort.dead c g hmarked⟩

/-- The abort of a group's collectives at every die of the module. -/
def Mach.abortGroup (m : Mach) (q : Nat × Nat) : Mach := (List.range 4).foldl (fun b die => b.memberAbort die q.1 q.2) m

theorem Mach.abortGroups_eq (m : Mach) (gs : List (Nat × Nat)) : m.abortGroups gs = gs.foldl Mach.abortGroup m := rfl

theorem Mach.steady_abortGroup (m : Mach) (q : Nat × Nat) : m.Steady (m.abortGroup q) ∧ q.2 ∈ ((m.abortGroup q).ctx q.1).deadGroups := by
  have hstep : ∀ (b : Mach) (die : Nat), b.Steady (b.memberAbort die q.1 q.2) := fun b die => (b.steady_memberAbort die q.1 q.2).1
  have hrest := Mach.steady_foldl hstep [1, 2, 3] (m.memberAbort 0 q.1 q.2)
  have he : m.abortGroup q = [1, 2, 3].foldl (fun b die => b.memberAbort die q.1 q.2) (m.memberAbort 0 q.1 q.2) := rfl
  obtain ⟨hfirst, hdead⟩ := m.steady_memberAbort 0 q.1 q.2
  rw [he]
  exact ⟨hfirst.trans hrest, hrest.dead _ _ hdead⟩

theorem Mach.steady_abortGroups (m : Mach) (gs : List (Nat × Nat)) : m.Steady (m.abortGroups gs) := by
  rw [Mach.abortGroups_eq]
  exact Mach.steady_foldl (fun a q => (a.steady_abortGroup q).1) gs m

/-- Every group aborted is marked. -/
theorem Mach.abortGroups_dead {c g : Nat} (gs : List (Nat × Nat)) (m : Mach) (h : (c, g) ∈ gs) :
    g ∈ ((m.abortGroups gs).ctx c).deadGroups := by
  rw [Mach.abortGroups_eq]
  induction gs generalizing m with
  | nil => exact absurd h List.not_mem_nil
  | cons q r ih =>
    rw [List.foldl_cons]
    rcases List.mem_cons.mp h with rfl | h
    · rw [← Mach.abortGroups_eq]
      exact (Mach.steady_abortGroups _ r).dead c g (m.steady_abortGroup (c, g)).2
    · exact ih _ h

end Sys2Proof.Machine
end

section
/-! PROOFS. O54, the rest: peers' accesses, devices and errors. -/

namespace Sys2Proof.Machine

section
variable {s : State} (herr : s.m.errs = []) (hl : s.sys.ring.length < 4096)
include herr

/-- An event of the chip that leaves it as it was leaves the state so. -/
theorem exec_stays_of {i : Instr} {f : Mach → Mach} (he : exec i s = eventM f s) (h : f s.m = s.m) : exec i s = .next s :=
  he.trans (eventM_stays herr h)

include hl

/-- An event of the chip that notes an error of a unit, and does nothing else. -/
theorem exec_noted {i : Instr} {f : Mach → Mach} (r : ErrRec) (he : exec i s = eventM f s) (hf : f s.m = s.m.noteUnit r) :
    ∃ s1, exec i s = .next s1 ∧ s1.m.mem = s.m.mem ∧ s1.m.t = s.m.t ∧ s1.m.ctxs = s.m.ctxs ∧ s1.sys.tells r.code r.unit := by
  obtain ⟨htells, irqs, hm⟩ := flushErrs_noteUnit herr hl s.sys rfl r
  have hexec : exec i s = .next ({ s with m := s.m.noteUnit r, sys := s.sys } : State).flushErrs := by
    rw [he, eventM, hf]
  exact ⟨_, hexec, by rw [hm], by rw [hm], by rw [hm], htells⟩

end

/-! ### Rinair's ports (25 R431, R434, R439) -/

section
variable {s : State} {p : Nat}

theorem exec_portRetrain_up (herr : s.m.errs = []) (h : p ∈ s.m.portsUp) : ∃ s1, exec (.portRetrain p) s = .next s1 ∧ s1.sys = s.sys ∧
    s1.m = { s.m with portsUp := s.m.portsUp.filter (· != p), portsTrain := s.m.portsTrain ++ [p] } := by
  have hf : s.m.portRetrain p = { s.m with portsUp := s.m.portsUp.filter (· != p), portsTrain := s.m.portsTrain ++ [p] } :=
    if_pos (List.contains_iff_mem.mpr h)
  exact ⟨_, exec_quiet (f := (·.portRetrain p)) rfl hf herr, rfl, rfl⟩

/-- A port's aborts: its ports, keys and error record, and each group routed over it. -/
theorem exec_portDown (herr : s.m.errs = []) (hl : s.sys.ring.length < 4096) (h : p ∈ s.m.portsUp ∨ p ∈ s.m.portsTrain) :
    ∃ s1, exec (.portDown p) s = .next s1 ∧ s1.m.portsUp = s.m.portsUp.filter (· != p) ∧
      s1.m.portsTrain = s.m.portsTrain.filter (· != p) ∧ s1.sys.portKeys = s.sys.portKeys.filter (· != p) ∧
      s1.sys.tells 0x4002 (portUnit p) ∧
      ∀ c g, (c, g) ∈ s.m.groupsWith (fun q => routedVia q p) 256 → g ∈ (s1.m.ctx c).deadGroups := by
  have hup : (!(s.m.portsUp.contains p || s.m.portsTrain.contains p)) = false := by
    simp only [Bool.not_eq_false', Bool.or_eq_true, List.contains_iff_mem]
    exact h
  obtain ⟨m1, hm1⟩ : ∃ m1 : Mach, m1 = { s.m.noteUnit { code := 0x4002, severity := 1, action := 4, unit := portUnit p, valid := 0, detail := p }
    with portsUp := s.m.portsUp.filter (· != p), portsTrain := s.m.portsTrain.filter (· != p) } := ⟨_, rfl⟩
  have hgroups : m1.groupsWith (fun q => routedVia q p) 256 = s.m.groupsWith (fun q => routedVia q p) 256 := by
    rw [hm1]
    rfl
  have hf : s.portDown p = { s with
      m := m1.abortGroups (s.m.groupsWith (fun q => routedVia q p) 256)
      sys := { s.sys with portKeys := s.sys.portKeys.filter (· != p) } } := by
    rw [← hgroups, hm1]
    simp only [State.portDown, hup, Bool.false_eq_true, if_false]
  have hsteady := m1.steady_abortGroups (s.m.groupsWith (fun q => routedVia q p) 256)
  have hdead : ∀ c g, (c, g) ∈ s.m.groupsWith (fun q => routedVia q p) 256 →
      g ∈ ((m1.abortGroups (s.m.groupsWith (fun q => routedVia q p) 256)).ctx c).deadGroups :=
    fun c g => Mach.abortGroups_dead _ m1
  generalize m1.abortGroups (s.m.groupsWith (fun q => routedVia q p) 256) = m2 at hf hsteady hdead
  have herrs : m1.errs = [{ code := 0x4002, severity := 1, action := 4, unit := portUnit p, valid := 0, detail := p, ctx := 0, time := s.m.cycle, window := 0 }] := by
    rw [hm1]
    exact congrArg (· ++ _) herr
  obtain ⟨rest, hrest⟩ := herrs ▸ hsteady.errs
  have hexec : exec (.portDown p) s = .next (s.portDown p).flushErrs := rfl
  obtain ⟨irqs, hm⟩ := (s.portDown p).flushErrs_m
  obtain ⟨ring, lost, seq, last, hsys⟩ := (s.portDown p).flushErrs_sys
  refine ⟨_, hexec, ?_, ?_, ?_, ?_, fun c g hg => ?_⟩
  · rw [hm, hf]
    exact hsteady.up.trans (by rw [hm1])
  · rw [hm, hf]
    exact hsteady.train.trans (by rw [hm1])
  · rw [hsys, hf]
  · rw [hf, State.flushErrs, ← hrest]
    obtain ⟨x, hcode, hunit, hx⟩ := State.logErr_sys { s with m := { m2 with errs := [] }, sys := { s.sys with portKeys := s.sys.portKeys.filter (· != p) } }
      { code := 0x4002, severity := 1, action := 4, unit := portUnit p, valid := 0, detail := p, ctx := 0, time := s.m.cycle, window := 0 }
    refine State.tells_foldl_logErr rest _ ?_
    rw [hx]
    have := Sys.logError_tells (y := { s.sys with portKeys := s.sys.portKeys.filter (· != p) }) hl x
    rwa [hcode, hunit] at this
  · rw [hm, hf]
    exact hdead c g hg

/-- The groups of a valid context, the only one, with a member that a port's routes reach. -/
theorem Mach.mem_groupsWith {m : Mach} {c : Nat} {x : Ctx} (hc : m.ctxs = [(c, x)]) (hv : x.valid = true) {but : Nat} (hbut : c ≠ but)
    {g : Nat} {l : List Member} (hg : (g, l) ∈ x.groups) {f : Member → Bool} (hf : ∃ q ∈ l, f q = true) : (c, g) ∈ m.groupsWith f but := by
  have hstands : ¬ (c = but ∨ (!x.valid) = true) := by simp [hbut, hv]
  rw [Mach.groupsWith, hc, List.flatMap_cons, List.flatMap_nil, List.append_nil]
  dsimp only
  rw [if_neg hstands, List.mem_filterMap]
  exact ⟨(g, l), hg, if_pos (List.any_eq_true.mpr hf)⟩

theorem exec_portUp_ok (herr : s.m.errs = []) (hboot : s.sys.booted = true) (hp : p ≤ 15) (hup : p ∉ s.m.portsUp)
    (hoff : .port p ∉ s.sys.offline) : exec (.portUp p true) s = .next { s with
      m := { s.m with portsUp := s.m.portsUp ++ [p], portsTrain := s.m.portsTrain.filter (· != p) }
      sys := { s.sys with portKeys := s.sys.portKeys.filter (· != p) ++ [p] } } := by
  have hf : s.portUp p true = { s with
      m := { s.m with portsUp := s.m.portsUp ++ [p], portsTrain := s.m.portsTrain.filter (· != p) }
      sys := { s.sys with portKeys := s.sys.portKeys.filter (· != p) ++ [p] } } := by
    simp [State.portUp, hboot, hup, hoff, Nat.not_lt.mpr hp]
  have hq : exec (.portUp p true) s = .next (s.portUp p true) := eventS_quiet (f := (·.portUp p true)) (by rw [hf]; exact herr)
  rw [hq, hf]

theorem exec_portUp_fails (herr : s.m.errs = []) (hl : s.sys.ring.length < 4096) (hboot : s.sys.booted = true) (hp : p ≤ 15)
    (hup : p ∉ s.m.portsUp) (hoff : .port p ∉ s.sys.offline) : ∃ s1, exec (.portUp p false) s = .next s1 ∧ s1.m.mem = s.m.mem ∧
      s1.m.t = s.m.t ∧ s1.m.ctxs = s.m.ctxs ∧ s1.sys.tells 0x8002 (portUnit p) := by
  have hf : s.portUp p false =
      { s with m := s.m.noteUnit { code := 0x8002, severity := 1, action := 4, unit := portUnit p, valid := 0, detail := p }, sys := s.sys } := by
    simp [State.portUp, hboot, hup, hoff, Nat.not_lt.mpr hp]
  obtain ⟨htells, irqs, hm⟩ := flushErrs_noteUnit herr hl s.sys rfl
    { code := 0x8002, severity := 1, action := 4, unit := portUnit p, valid := 0, detail := p }
  have hexec : exec (.portUp p false) s = .next (s.portUp p false).flushErrs := rfl
  rw [← hf] at htells hm
  exact ⟨_, hexec, by rw [hm], by rw [hm], by rw [hm], htells⟩

theorem exec_portUp_stays (herr : s.m.errs = []) (ok : Bool)
    (h : s.sys.booted = false ∨ 15 < p ∨ p ∈ s.m.portsUp ∨ .port p ∈ s.sys.offline) : exec (.portUp p ok) s = .next s := by
  refine eventS_stays (f := (·.portUp p ok)) herr (if_pos ?_)
  simp only [Bool.or_eq_true, Bool.not_eq_true', decide_eq_true_eq, List.contains_iff_mem]
  tauto

end

/-! ### Writes by a party outside the module (25 R433, R441) -/

/-- A log with an EXTERNAL mark (23 R402). -/
structure Silt.Marked (key : Nat) (x y : Silt) : Prop where
  lastExt : y.lastExt = x.nextSeq
  nextSeq : y.nextSeq = x.nextSeq + 1
  recs : ∃ r, y.recs = x.recs ++ [r] ∧ r.kind = .external ∧ r.key = key
  size : y.size = x.size
  used : y.used = x.used + 32

theorem Silt.marked_mark (x : Silt) (key party : Nat) (g : Gid) : x.Marked key (x.mark .external key party g) := by
  obtain ⟨hsize, hused⟩ := x.mark_spec .external key party g
  exact ⟨rfl, rfl, ⟨_, rfl, rfl, rfl⟩, hsize, hused⟩

theorem Mach.sameLogs_addStop (m : Mach) (c : Nat) (q : StopRec) : m.SameLogs (m.addStop c q) :=
  m.sameLogs_setCtx c fun x => by
    dsimp only
    split
    · rfl
    · split
      · rfl
      · rfl

theorem Mach.sameLogs_strike (m : Mach) (w : Task) (striker : Nat) (who : Gid) (addr : Word) (n : Nat) (old : Word) (seq : Nat) :
    m.SameLogs (m.strike w striker who addr n old seq) := by
  unfold Mach.strike
  refine Mach.SameLogs.trans ?_ (Mach.sameLogs_addStop _ _ _)
  refine (m.sameLogs_raiseLine (ctxOf w.gid) false (some w.gid)).trans ?_
  exact Mach.sameLogs_setCtx _ _ fun _ => rfl

/-- Strikes leave memory and every log as they are (22 R390, R391). -/
theorem Mach.strikes_keeps (m : Mach) (c : Nat) (l : Loc) (n : Nat) (offs : List Nat) (g : Gid) (party : Nat) (old : Word) (seq : Nat) :
    (m.strikes c l n offs g party old seq).mem = m.mem ∧ (m.strikes c l n offs g party old seq).errs = m.errs ∧
      ∀ d, ((m.strikes c l n offs g party old seq).ctx d).silt = (m.ctx d).silt := by
  have hfold : ∀ (ws : List Task) (a : Mach), a.SameLogs (ws.foldl (fun a w => a.strike w party g l.va n old seq) a) := by
    intro ws
    induction ws with
    | nil => exact fun a => ⟨rfl, fun _ => rfl⟩
    | cons w ws ih => exact fun a => (a.sameLogs_strike w party g l.va n old seq).trans (ih _)
  have hkeeps : ∀ m1 : Mach, m.SameLogs m1 → m1.mem = m.mem ∧ m1.errs = m.errs ∧ ∀ d, (m1.ctx d).silt = (m.ctx d).silt :=
    fun m1 h => ⟨by rw [h.frame], by rw [h.frame], h.silt⟩
  unfold Mach.strikes
  dsimp only
  split
  · exact hkeeps _ (m.sameLogs_setCtx c fun _ => rfl)
  · split
    · exact hkeeps _ (hfold _ m)
    · obtain ⟨hmem, herrs, hsilt⟩ := hkeeps _ (hfold _ m)
      exact ⟨hmem, herrs, hsilt⟩

/-- A write by a party outside the module: its bytes, and its mark in the context's log. -/
structure Mach.Foreign (c pa : Nat) (bs : List Byte) (m m1 : Mach) : Prop where
  mem : m1.mem = pokeMem m.mem pa bs
  errs : m1.errs = m.errs
  silt : (m.ctx c).silt.Marked pa (m1.ctx c).silt

theorem Mach.foreign_foreignWrite (m : Mach) (c party pa : Nat) (bs : List Byte) : m.Foreign c pa bs (m.foreignWrite c party pa bs) := by
  have hctx : ((m.foreignWrite c party pa bs).ctx c).silt = (m.ctx c).silt.mark .external pa party 0 := by
    have hwrite : (m.foreignWrite c party pa bs).ctxs = (m.tick.setSilt c fun s => s.mark .external pa party 0).ctxs := rfl
    rw [Mach.ctx_of_ctxs hwrite, Mach.setSilt, Mach.ctx_setCtx, if_pos rfl]
    rfl
  exact ⟨rfl, rfl, hctx ▸ Silt.marked_mark _ _ _ _⟩

theorem Mach.foreign_peerWrite (m : Mach) (c p pa : Nat) (bs : List Byte) : m.Foreign c pa bs (m.peerWrite c p pa bs) := by
  have h := m.foreign_foreignWrite c (portUnit p) pa bs
  unfold Mach.peerWrite
  dsimp only
  generalize m.foreignWrite c (portUnit p) pa bs = a at h
  obtain ⟨hmem, herrs, hsilt⟩ := a.strikes_keeps c { key := pa, va := BitVec.ofNat 64 pa, home := .hbm, space := 0 } bs.length
    (span bs.length) 0 (portUnit p) (BitVec.ofNat 64 (m.word pa)) (m.ctx c).silt.nextSeq
  exact ⟨hmem.trans h.mem, herrs.trans h.errs, by rw [hsilt]; exact h.silt⟩

/-- A log with room for the mark takes the write. -/
theorem Mach.Foreign.orHold {m m1 : Mach} {c pa n : Nat} {bs : List Byte} (h : m.Foreign c pa bs m1) (hn : 32 ≤ n)
    (hr : (m.ctx c).silt.room n = true) : m.orHold c m1 = m1 :=
  Mach.orHold_of_used (n := n) h.silt.size (by rw [h.silt.used]; omega) hr

/-- A log without it is starved, and nothing is written (23 R401). -/
theorem Mach.Foreign.orHold_starved {m m1 : Mach} {c pa : Nat} {bs : List Byte} (h : m.Foreign c pa bs m1)
    (hr : (m.ctx c).silt.room 32 = false) : m.orHold c m1 = m.setCtx c fun x => { x with silt := { x.silt with starved := true } } := by
  have hroom : (m1.ctx c).silt.room 0 = false := by
    simp only [Silt.room, decide_eq_false_iff_not, h.silt.size, h.silt.used] at hr ⊢
    omega
  have hseq : ((m1.ctx c).silt.nextSeq == (m.ctx c).silt.nextSeq) = false := by simp [h.silt.nextSeq]
  have hfits : ¬ m.fits m1 c = true := by simp [Mach.fits, hroom, hseq]
  exact if_neg hfits

end Sys2Proof.Machine
end

section
/-! PROOFS. O54, the rest: what a peer's atomic leaves, the import table, and reads of root ports without an answer. -/

namespace Sys2Proof.Machine

/-! ### The new value of a peer's atomic (25 R433) -/

/-- The number that n bytes hold, read natural or signed. -/
def lowSigned (n : Nat) (nat : Bool) (q : Nat) : Int := if nat = true ∨ q < 2 ^ (8 * n - 1) then (q : Int) else q - 2 ^ (8 * n)

theorem toInt_lowSigned (n : Nat) (x : BitVec (8 * (n + 1))) : x.toInt = lowSigned (n + 1) false x.toNat := by
  have hpow : 2 ^ (8 * (n + 1)) = 2 * 2 ^ (8 * (n + 1) - 1) := (Nat.pow_succ' (n := 8 * n + 7) (m := 2))
  rw [BitVec.toInt_eq_toNat_cond, lowSigned]
  refine if_congr ?_ rfl ?_
  · simp only [Bool.false_eq_true, false_or]
    omega
  · push_cast
    rfl

theorem lowInt_low {n : Nat} (hn : n = 8 ∨ n = 4) (nat : Bool) (w : Word) : lowInt n nat w = lowSigned n nat (w.toNat % 2 ^ (8 * n)) := by
  have hnatural : ∀ n q, lowSigned n true q = q := fun n q => if_pos (.inl rfl)
  have hd : w.toNat % 2 ^ (8 * 8) = w.toNat := Nat.mod_eq_of_lt w.isLt
  have hw : w.toNat % 2 ^ (8 * 4) = (w.setWidth 32).toNat := (BitVec.toNat_setWidth 32 w).symm
  rcases hn with rfl | rfl
  · rw [hd]
    cases nat
    · rw [(lowInt_signed w).1]
      exact toInt_lowSigned 7 w
    · rw [(lowInt_natural w).1, hnatural]
  · rw [hw]
    cases nat
    · rw [(lowInt_signed w).2]
      exact toInt_lowSigned 3 (w.setWidth 32)
    · rw [(lowInt_natural w).2, hnatural]

theorem byteOf_low {n : Nat} (hn : n = 8 ∨ n = 4) {w : Word} {r : Nat} (h : w.toNat % 2 ^ (8 * n) = r % 2 ^ (8 * n)) {i : Nat} (hi : i < n) :
    byteOf w i = byteOf (BitVec.ofNat 64 r) i := by
  have hpow : 2 ^ (8 * n) = 256 ^ n := Nat.pow_mul 2 8 n
  refine byteOf_congr (n := n) ?_ hi
  rw [BitVec.toNat_ofNat, ← hpow, h, Nat.mod_mod_of_dvd _ (Nat.pow_dvd_pow 2 (by omega))]

/-- What an atomic leaves of x with its operand z, both of n bytes; nothing where its comparison fails. -/
def peerLeft (n x z : Nat) : PeerOp → Option Nat
  | .add => some ((x + z) % 2 ^ (8 * n))
  | .and => some (x &&& z)
  | .or => some (x ||| z)
  | .xor => some (x ^^^ z)
  | .xchg => some z
  | .min nat => some (if lowSigned n nat z < lowSigned n nat x then z else x)
  | .max nat => some (if lowSigned n nat x < lowSigned n nat z then z else x)
  | .cas was => if x = was.toNat % 2 ^ (8 * n) then some z else none

section
variable {n : Nat} (hn : n = 8 ∨ n = 4) (old v : Word)
include hn

/-- The new word's low bytes are those of the new number. -/
theorem peerNew_some {op : PeerOp} {r : Nat} (h : peerLeft n (old.toNat % 2 ^ (8 * n)) (v.toNat % 2 ^ (8 * n)) op = some r) :
    ∃ w, peerNew n old v op = some w ∧ ∀ i, i < n → byteOf w i = byteOf (BitVec.ofNat 64 r) i := by
  have hchoice : ∀ (p : Prop) [Decidable p], (if p then v else old).toNat % 2 ^ (8 * n) =
      (if p then v.toNat % 2 ^ (8 * n) else old.toNat % 2 ^ (8 * n)) % 2 ^ (8 * n) := fun p _ => by
    split
    · rw [Nat.mod_mod]
    · rw [Nat.mod_mod]
  cases op with
  | add =>
    obtain rfl := Option.some.inj h
    refine ⟨_, rfl, fun i => byteOf_low hn ?_⟩
    rw [BitVec.toNat_add, Nat.mod_mod_of_dvd _ (Nat.pow_dvd_pow 2 (by omega)), Nat.mod_mod, ← Nat.add_mod]
  | and =>
    obtain rfl := Option.some.inj h
    refine ⟨_, rfl, fun i => byteOf_low hn ?_⟩
    rw [BitVec.toNat_and, Nat.and_mod_two_pow, Nat.and_mod_two_pow, Nat.mod_mod, Nat.mod_mod]
  | or =>
    obtain rfl := Option.some.inj h
    refine ⟨_, rfl, fun i => byteOf_low hn ?_⟩
    rw [BitVec.toNat_or, Nat.or_mod_two_pow, Nat.or_mod_two_pow, Nat.mod_mod, Nat.mod_mod]
  | xor =>
    obtain rfl := Option.some.inj h
    refine ⟨_, rfl, fun i => byteOf_low hn ?_⟩
    rw [BitVec.toNat_xor, Nat.xor_mod_two_pow, Nat.xor_mod_two_pow, Nat.mod_mod, Nat.mod_mod]
  | xchg =>
    obtain rfl := Option.some.inj h
    exact ⟨_, rfl, fun i => byteOf_low hn (Nat.mod_mod _ _).symm⟩
  | min nat =>
    obtain rfl := Option.some.inj h
    refine ⟨_, rfl, fun i => byteOf_low hn ?_⟩
    rw [minMax_least, lowInt_low hn, lowInt_low hn]
    exact hchoice _
  | max nat =>
    obtain rfl := Option.some.inj h
    refine ⟨_, rfl, fun i hi => ?_⟩
    rw [minMax_greatest hn nat old v hi, lowInt_low hn, lowInt_low hn]
    exact byteOf_low hn (hchoice _) hi
  | cas was =>
    rw [peerLeft] at h
    split at h
    · next heq =>
      obtain rfl := Option.some.inj h
      exact ⟨v, if_pos heq, fun i => byteOf_low hn (Nat.mod_mod _ _).symm⟩
    · exact absurd h nofun

omit hn in
theorem peerNew_none {op : PeerOp} (h : peerLeft n (old.toNat % 2 ^ (8 * n)) (v.toNat % 2 ^ (8 * n)) op = none) :
    peerNew n old v op = none := by
  cases op with
  | cas was =>
    rw [peerLeft] at h
    split at h
    · exact absurd h nofun
    · next hne => exact if_neg hne
  | _ => exact absurd h nofun

end

/-- The low bytes of a place. -/
theorem number_low (m : Mach) (k : Nat) {n : Nat} (hn : n = 8 ∨ n = 4) : m.number k 8 % 2 ^ (8 * n) = m.number k n := by
  have hlt := m.number_lt k
  rcases hn with rfl | rfl
  · exact Nat.mod_eq_of_lt (hlt 8)
  · have hsplit : m.peek k 8 = m.peek k 4 ++ m.peek (k + 4) 4 := by
      simp [Mach.peek, List.range_succ, Nat.add_assoc]
    have hlen : (m.peek k 4).length = 4 := by simp [Mach.peek]
    rw [← leNat_peek, hsplit, leNat_append, hlen, leNat_peek, leNat_peek]
    rw [show 2 ^ (8 * 4) = 256 ^ 4 from by decide, Nat.add_mul_mod_self_left]
    exact Nat.mod_eq_of_lt (hlt 4)

/-! ### The import table (25 R433) -/

/-- The first entry of a port that has a limit admits an access it grants. -/
theorem Mach.importFor_first {m : Mach} {p pa i : Nat} {e : Import} {acc : PeerAcc} (hi : i < 64)
    (he : Tab.look {} m.imports (64 * p + i) = e) (hfree : ∀ j, j < i → Tab.look {} m.imports (64 * p + j) = {})
    (hsize : 0 < accSize acc) (hg : importGrants e pa acc = true) : m.importFor p pa acc = some e := by
  have hrange : List.range 64 = List.range i ++ i :: (List.range (63 - i)).map (i + 1 + ·) := by
    have h64 : 64 = i + (63 - i + 1) := by omega
    rw [h64, List.range_add, List.range_succ_eq_map, List.map_cons, List.map_map]
    simp only [Nat.add_zero, List.append_cancel_left_eq, List.cons.injEq, true_and]
    refine List.map_congr_left fun j _ => ?_
    simp only [Function.comp]
    omega
  have hempty : importGrants {} pa acc = false := by
    simp [importGrants]
    omega
  unfold Mach.importFor
  rw [List.findSome?_eq_some_iff]
  refine ⟨_, i, _, hrange, ?_, fun j hj => ?_⟩
  · simp [he, hg]
  · simp [hfree j (List.mem_range.mp hj), hempty]

section
variable {s : State} {p pa : Nat} {e : Import} {acc : PeerAcc}

theorem remoteAccess_off (h : p ∉ s.m.portsUp ∨ 2 ^ 48 ≤ pa ∨ s.m.importFor p pa acc = none) : s.m.remoteAccess p pa acc = s.m := by
  unfold Mach.remoteAccess
  split
  · rfl
  · next hin =>
    simp only [Bool.or_eq_true, Bool.not_eq_true', decide_eq_true_eq, not_or, Bool.not_eq_false, List.contains_iff_mem] at hin
    obtain ⟨hup, hpa⟩ := hin
    have hnone : s.m.importFor p pa acc = none := by tauto
    rw [hnone]

theorem remoteAccess_load (n : Nat) : s.m.remoteAccess p pa (.load n) = s.m := by
  unfold Mach.remoteAccess
  split
  · rfl
  · split
    · rfl
    · split <;> rfl

/-- The access of an entry's peer to its valid context. -/
theorem remoteAccess_in (hup : p ∈ s.m.portsUp) (hpa : pa < 2 ^ 48) (hin : s.m.importFor p pa acc = some e)
    (hv : (s.m.ctx e.ctx).valid = true) :
    (∀ bs, acc = .store bs → s.m.remoteAccess p pa acc = s.m.orHold e.ctx (s.m.peerWrite e.ctx p pa bs)) ∧
    (∀ op n v, acc = .atomic op n v →
      (∀ w, peerNew n (BitVec.ofNat 64 (s.m.word pa)) v op = some w →
        s.m.remoteAccess p pa acc = s.m.orHold e.ctx (s.m.peerWrite e.ctx p pa (leBytes w.toNat n))) ∧
      (peerNew n (BitVec.ofNat 64 (s.m.word pa)) v op = none → s.m.remoteAccess p pa acc = s.m)) := by
  have hreach : (!s.m.portsUp.contains p || decide (2 ^ 48 ≤ pa)) = false := by
    rw [List.contains_iff_mem.mpr hup, decide_eq_false (by omega)]
    rfl
  refine ⟨?_, ?_⟩
  · rintro bs rfl
    simp only [Mach.remoteAccess, hreach, hin, hv, Bool.not_true, Bool.false_eq_true, if_false]
  · rintro op n v rfl
    refine ⟨fun w hw => ?_, fun hw => ?_⟩
    · simp only [Mach.remoteAccess, hreach, hin, hv, hw, Bool.not_true, Bool.false_eq_true, if_false]
    · simp only [Mach.remoteAccess, hreach, hin, hv, hw, Bool.not_true, Bool.false_eq_true, if_false]

/-- A peer's write is performed, with its mark. -/
theorem exec_remote_writes (herr : s.m.errs = []) (hr : (s.m.ctx e.ctx).silt.room 96 = true) {bs : List Byte} (hf : s.m.remoteAccess p pa acc = s.m.orHold e.ctx (s.m.peerWrite e.ctx p pa bs)) :
    ∃ s1, exec (.remoteAccessArrival p pa acc) s = .next s1 ∧ s.m.storedAt s1.m pa bs.length (fun i => bs.getD i 0) ∧ s1.sys = s.sys ∧
      (s.m.ctx e.ctx).silt.Marked pa (s1.m.ctx e.ctx).silt := by
  have hw := s.m.foreign_peerWrite e.ctx p pa bs
  rw [hw.orHold (by decide) hr] at hf
  exact ⟨_, exec_quiet (f := (·.remoteAccess p pa acc)) rfl hf (hw.errs.trans herr), storedAt_of_pokeMem hw.mem, rfl, hw.silt⟩

end

/-! ### Reads of root-port space without an answer (25 R441) -/

/-- A task that waits with its PROT at the kernel, as it was but for what its trap takes from it (09 R166). -/
structure Mach.Refused (va : Word) (m m1 : Mach) : Prop where
  waits : ∃ part i, m1.t.phase = .waiting (.fault part i prot va)
  pc : m1.t.pc = m.t.pc
  img : m1.t.img = m.t.img
  gid : m1.t.gid = m.t.gid
  frame : m1 = { m with t := m1.t, others := m1.others, faults := m1.faults }

/-- A chip that faults changes the fault buffer alone. -/
theorem Mach.enterFault_frame (m : Mach) (c : Nat) (va : Word) (cause acc : Nat) (g : Option Gid) (e : Option EngRef) :
    (m.enterFault c va cause acc g e).2 = { m with faults := (m.enterFault c va cause acc g e).2.faults } := by
  unfold Mach.enterFault
  dsimp only
  split
  · rfl
  · split <;> rfl

/-- PROT outside a handler and a region takes the kernel's route. -/
theorem Mach.takeRoute_prot {m : Mach} (hr : m.t.region = none) (hin : m.t.ctl.trapCode.inH = false) (va : Word) (cause acc : Nat) :
    m.Refused va (m.takeRoute prot va 0 cause acc) := by
  obtain ⟨t, ht⟩ : ∃ t : Task, t = { m.t with fol := [], regang := 0, answered := false } := ⟨_, rfl⟩
  have habort : m.t.aborted abFault = m.t := by rw [Task.aborted, hr]
  have hroute : m.takeRoute prot va 0 cause acc = ({ m with t := t } : Mach).kernelRoute prot va cause acc := by
    rw [Mach.takeRoute, if_pos rfl, habort, ← ht]
    have hhandler : t.ctl.trapCode.inH = false := by rw [ht]; exact hin
    simp only [hhandler, Bool.false_eq_true, if_false]
    rfl
  obtain ⟨i, m1, hm1⟩ : ∃ i m1, ({ m with t := t } : Mach).enterFault (ctxOf t.gid) va cause acc (some t.gid) none = (i, m1) := ⟨_, _, rfl⟩
  have hframe := ({ m with t := t } : Mach).enterFault_frame (ctxOf t.gid) va cause acc (some t.gid) none
  have hkernel : ({ m with t := t } : Mach).kernelRoute prot va cause acc =
      { m1 with t := { m1.t with phase := .waiting (.fault (m.ctx (ctxOf t.gid)).part i prot va) } } := by
    rw [Mach.kernelRoute, hm1]
    rfl
  rw [hm1] at hframe
  replace hframe : m1 = { m with t := t, faults := m1.faults } := hframe
  rw [hroute, hkernel]
  have ht1 : m1.t = t := by rw [hframe]
  refine ⟨⟨_, _, rfl⟩, ?_, ?_, ?_, ?_⟩
  · rw [ht1, ht]
  · rw [ht1, ht]
  · rw [ht1, ht]
  · rw [hframe]

theorem Mach.raise_prot {m : Mach} (hr : m.t.region = none) (hin : m.t.ctl.trapCode.inH = false) (va : Word) (cause acc : Nat) :
    m.Refused va (m.raise prot va 0 cause acc) := by
  have h := Mach.takeRoute_prot hr hin va cause acc
  obtain ⟨part, i, hwait⟩ := h.waits
  obtain ⟨l, hframe, -⟩ := Mach.raise_frame (rfl : m.takeRoute prot va 0 cause acc = _)
  have ht := Mach.raise_t (rfl : m.takeRoute prot va 0 cause acc = _) h.gid (by rw [hwait]; nofun)
  generalize m.takeRoute prot va 0 cause acc = m0 at h hwait hframe ht
  generalize m.raise prot va 0 cause acc = m1 at hframe ht
  refine ⟨⟨part, i, ?_⟩, ?_, ?_, ?_, ?_⟩
  · rw [ht]
    exact hwait
  · rw [ht]
    exact h.pc
  · rw [ht]
    exact h.img
  · rw [ht]
    exact h.gid
  · rw [hframe, h.frame]

/-- The read in focus fails. -/
theorem Mach.rootFails_focus {m : Mach} {p : Nat} {va : Word} (hp : m.t.phase = .parked (.root p va)) (hr : m.t.region = none)
    (hin : m.t.ctl.trapCode.inH = false) : m.Refused va (m.rootFails m.t.gid va) := by
  have h := Mach.raise_prot (m := { m with t := { m.t with phase := .ready } }) hr hin va 1 accRead
  obtain ⟨part, i, hwait⟩ := h.waits
  have hf : m.rootFails m.t.gid va = ({ m with t := { m.t with phase := .ready } } : Mach).raise prot va 0 1 accRead := by
    rw [Mach.rootFails, Mach.focus_self rfl (by rw [hp]; nofun)]
    exact Mach.focus_self h.gid (by rw [hwait]; nofun)
  rw [hf]
  exact ⟨h.waits, h.pc, h.img, h.gid, h.frame⟩

end Sys2Proof.Machine
end

section
/-! PROOFS. O54, settled. -/

namespace Sys2Proof.Machine

/-- What the removal of a root port does to a task: its read of the port fails. -/
def Mach.portGone (p : Nat) (a : Mach) (t : Task) : Mach :=
  match t.phase with
  | .parked (.root q va) => if q = p then a.rootFails t.gid va else a
  | _ => a

theorem Mach.portGone_reader {p : Nat} {t : Task} {va : Word} (a : Mach) (h : t.phase = .parked (.root p va)) :
    a.portGone p t = a.rootFails t.gid va := by
  rw [Mach.portGone, h]
  exact if_pos rfl

theorem Mach.portGone_other {p : Nat} {t : Task} (a : Mach) (h : ∀ w, t.phase ≠ .parked (.root p w)) : a.portGone p t = a := by
  unfold Mach.portGone
  split
  · next q w hq =>
    have hne : q ≠ p := fun hqp => h w (hqp ▸ hq)
    exact if_neg hne
  · rfl

theorem Mach.foldl_portGone {p : Nat} (a : Mach) : ∀ l : List Task, (∀ t ∈ l, ∀ w, t.phase ≠ .parked (.root p w)) →
    l.foldl (Mach.portGone p) a = a
  | [], _ => rfl
  | t :: l, h => by
    rw [List.foldl_cons, a.portGone_other (h t (List.mem_cons_self ..))]
    exact Mach.foldl_portGone a l fun t ht => h t (List.mem_cons_of_mem _ ht)

theorem Mach.surpriseRemoval_eq {m : Mach} {p : Nat} (h : p ∈ m.rootsUp) : m.surpriseRemoval p =
    m.tasks.foldl (Mach.portGone p) { m.aer p true 0 with rootsUp := m.rootsUp.filter (· != p) } := by
  have hin : (!m.rootsUp.contains p) = false := by rw [List.contains_iff_mem.mpr h]; rfl
  unfold Mach.surpriseRemoval
  rw [hin]
  rfl

section
variable {s : State} {p : Nat} {va : Word} (herr : s.m.errs = []) (hl : s.sys.ring.length < 4096)
  (hp : s.m.t.phase = .parked (.root p va)) (hr : s.m.t.region = none) (hin : s.m.t.ctl.trapCode.inH = false)
include herr hl hp hr hin

/-- A root port's error is noted, and the read in focus fails: m0 is the chip with the error noted. -/
theorem exec_rootFails {i : Instr} {f : Mach → Mach} {m0 : Mach} (he : exec i s = eventM f s)
    (hm0 : ∃ roots, m0 = { s.m.aer p true 0 with rootsUp := roots }) (hf : f s.m = m0.rootFails s.m.t.gid va) :
    ∃ s1, exec i s = .next s1 ∧ ((∃ part i, s1.m.t.phase = .waiting (.fault part i 7 va)) ∧ s1.m.t.pc = s.m.t.pc ∧
      s1.m.t.img = s.m.t.img ∧ s1.m.mem = s.m.mem ∧ s1.sys.tells 0x9003 (rootUnit p)) ∧ s1.m.rootsUp = m0.rootsUp := by
  obtain ⟨roots, hroots⟩ := hm0
  have ht : m0.t = s.m.t := by rw [hroots]; rfl
  have hmem : m0.mem = s.m.mem := by rw [hroots]; rfl
  have herrs : ∃ x : ErrRec, m0.errs = [x] ∧ x.code = 0x9003 ∧ x.unit = rootUnit p := by
    rw [hroots]
    exact ⟨_, congrArg (· ++ _) herr, rfl, rfl⟩
  obtain ⟨x, herrs, hcode, hunit⟩ := herrs
  have h := Mach.rootFails_focus (m := m0) (by rw [ht]; exact hp) (by rw [ht]; exact hr) (by rw [ht]; exact hin)
  rw [ht, ← hf] at h
  have hx : (f s.m).errs = [x] := by rw [h.frame]; exact herrs
  obtain ⟨s1, hexec, ⟨irqs, hm⟩, -, htells⟩ := exec_notes (i := i) (s := s) (f := fun s => { s with m := f s.m }) he hx hl
  rw [hcode, hunit] at htells
  replace hm : s1.m = { f s.m with errs := [], irqs := irqs } := hm
  generalize f s.m = m1 at hm h
  refine ⟨s1, hexec, ⟨?_, ?_, ?_, ?_, htells⟩, ?_⟩
  · rw [hm]
    exact h.waits
  · rw [hm]
    exact h.pc.trans (by rw [ht])
  · rw [hm]
    exact h.img.trans (by rw [ht])
  · rw [hm, h.frame]
    exact hmem
  · rw [hm, h.frame]

theorem exec_completionTimeout : ∃ s1, exec (.completionTimeout s.m.t.gid) s = .next s1 ∧
    ((∃ part i, s1.m.t.phase = .waiting (.fault part i 7 va)) ∧ s1.m.t.pc = s.m.t.pc ∧
      s1.m.t.img = s.m.t.img ∧ s1.m.mem = s.m.mem ∧ s1.sys.tells 0x9003 (rootUnit p)) ∧ s1.m.rootsUp = s.m.rootsUp := by
  have hfind : s.m.find s.m.t.gid = some s.m.t := by
    have hlive : (s.m.t.gid == s.m.t.gid && s.m.t.phase != .ended) = true := by simp [hp]
    rw [Mach.find, Mach.tasks, List.find?_cons, hlive]
  refine exec_rootFails herr hl hp hr hin (f := (·.completionTimeout s.m.t.gid)) (m0 := s.m.aer p true 0) rfl ⟨_, rfl⟩ ?_
  simp only [Mach.completionTimeout, hfind, hp]

theorem exec_surpriseRemoval (hothers : ∀ t ∈ s.m.others, t.gid ≠ s.m.t.gid ∧ ∀ w, t.phase ≠ .parked (.root p w)) (hup : p ∈ s.m.rootsUp) :
    ∃ s1, exec (.surpriseRemoval p) s = .next s1 ∧ ((∃ part i, s1.m.t.phase = .waiting (.fault part i 7 va)) ∧ s1.m.t.pc = s.m.t.pc ∧
      s1.m.t.img = s.m.t.img ∧ s1.m.mem = s.m.mem ∧ s1.sys.tells 0x9003 (rootUnit p)) ∧ s1.m.rootsUp = s.m.rootsUp.filter (· != p) := by
  refine exec_rootFails herr hl hp hr hin (f := (·.surpriseRemoval p)) rfl ⟨s.m.rootsUp.filter (· != p), rfl⟩ ?_
  dsimp only
  rw [Mach.surpriseRemoval_eq hup, Mach.tasks, List.foldl_cons, Mach.portGone_reader _ hp]
  exact Mach.foldl_portGone _ _ fun t ht => (hothers t ht).2

end

/-! ### Devices (25 R441) -/

section
variable {s : State} {p pa : Nat} (herr : s.m.errs = []) (hroot : p ∈ s.m.rootsUp) (hpa : pa < 2 ^ 48) (bs : List Byte)
include hroot hpa

theorem dmaWrite_in (c : Option Nat) : s.m.dmaWrite p pa bs c = match c with
    | none => { s.m.tick with mem := pokeMem s.m.mem pa bs }
    | some c =>
      if !(s.m.ctx c).valid then { s.m.tick with mem := pokeMem s.m.mem pa bs }
      else s.m.orHold c (s.m.foreignWrite c (rootUnit p) pa bs) := by
  have hreach : (!s.m.rootsUp.contains p || decide (2 ^ 48 ≤ pa)) = false := by
    rw [List.contains_iff_mem.mpr hroot, decide_eq_false (by omega)]
    rfl
  unfold Mach.dmaWrite
  rw [hreach]
  rfl

include herr

theorem exec_dmaWrite_plain : ∃ s1, exec (.dmaWrite p pa bs none) s = .next s1 ∧
    s.m.storedAt s1.m pa bs.length (fun i => bs.getD i 0) ∧ s1.m.ctxs = s.m.ctxs ∧ s1.m.t = s.m.t ∧ s1.sys = s.sys :=
  ⟨_, exec_quiet (f := (·.dmaWrite p pa bs none)) rfl (dmaWrite_in hroot hpa bs none) herr, storedAt_of_pokeMem rfl, rfl, rfl, rfl⟩

variable {c : Nat} (hv : (s.m.ctx c).valid = true)
include hv

theorem exec_dmaWrite_marked (hr : (s.m.ctx c).silt.room 96 = true) : ∃ s1, exec (.dmaWrite p pa bs (some c)) s = .next s1 ∧
    s.m.storedAt s1.m pa bs.length (fun i => bs.getD i 0) ∧ (s1.m.ctx c).silt.lastExt = (s.m.ctx c).silt.nextSeq ∧ s1.m.t = s.m.t ∧
    s1.sys = s.sys := by
  have hw := s.m.foreign_foreignWrite c (rootUnit p) pa bs
  have hf := dmaWrite_in hroot hpa bs (some c)
  simp only [hv, Bool.not_true, Bool.false_eq_true, if_false, hw.orHold (by decide) hr] at hf
  exact ⟨_, exec_quiet (f := (·.dmaWrite p pa bs (some c))) rfl hf (hw.errs.trans herr), storedAt_of_pokeMem hw.mem, hw.silt.lastExt, rfl, rfl⟩

theorem exec_dmaWrite_starved (hr : (s.m.ctx c).silt.room 32 = false) : exec (.dmaWrite p pa bs (some c)) s =
    .next { s with m := s.m.setCtx c fun x => { x with silt := { x.silt with starved := true } } } := by
  have hw := s.m.foreign_foreignWrite c (rootUnit p) pa bs
  have hf := dmaWrite_in hroot hpa bs (some c)
  simp only [hv, Bool.not_true, Bool.false_eq_true, if_false, hw.orHold_starved hr] at hf
  exact exec_quiet (f := (·.dmaWrite p pa bs (some c))) rfl hf herr

end

section
variable {s : State} (herr : s.m.errs = [])
include herr

theorem exec_msiXInterrupt (v : Nat) (h : s.sys.msix.length < 4096) :
    exec (.msiXInterrupt v) s = .next { s with sys := { s.sys with msix := s.sys.msix ++ [v] } } := by
  have hf : s.msiX v = { s with sys := { s.sys with msix := s.sys.msix ++ [v] } } := if_pos h
  have hq : exec (.msiXInterrupt v) s = .next (s.msiX v) := eventS_quiet (f := (·.msiX v)) (by rw [hf]; exact herr)
  rw [hq, hf]

theorem exec_msiXInterrupt_lost (hl : s.sys.ring.length < 4096) (v : Nat) (h : 4096 ≤ s.sys.msix.length) :
    ∃ s1, exec (.msiXInterrupt v) s = .next s1 ∧ s1.sys.msix = s.sys.msix ∧ s1.sys.msixLost = true ∧ s1.sys.tells 0x9004 kernelUnit := by
  have hf : s.msiX v = { s with
      m := s.m.noteUnit { code := 0x9004, severity := 1, action := 1, unit := kernelUnit, valid := 0, detail := 1 }
      sys := { s.sys with msixLost := true } } := if_neg (by omega)
  have htells := (flushErrs_noteUnit herr hl { s.sys with msixLost := true } rfl
    { code := 0x9004, severity := 1, action := 1, unit := kernelUnit, valid := 0, detail := 1 }).1
  have hexec : exec (.msiXInterrupt v) s = .next (s.msiX v).flushErrs := rfl
  obtain ⟨ring, lost, seq, last, hsys⟩ := (s.msiX v).flushErrs_sys
  refine ⟨_, hexec, ?_, ?_, ?_⟩
  · rw [hsys, hf]
  · rw [hsys, hf]
  · rw [hf]
    exact htells

theorem exec_hotPlug {p : Nat} (hboot : s.sys.booted = true) (hp : p ≤ 7) (h : p ∉ s.m.rootsUp) :
    exec (.hotPlug p) s = .next { s with m := { s.m with rootsUp := s.m.rootsUp ++ [p] } } := by
  have hf : s.hotPlug p = { s with m := { s.m with rootsUp := s.m.rootsUp ++ [p] } } := by
    simp [State.hotPlug, hboot, h, Nat.not_lt.mpr hp]
  have hq : exec (.hotPlug p) s = .next (s.hotPlug p) := eventS_quiet (f := (·.hotPlug p)) (by rw [hf]; exact herr)
  rw [hq, hf]

/-- A peer's atomic by the number it leaves. -/
theorem exec_remote_atomic {p pa n : Nat} {e : Import} {op : PeerOp} {v : Word} (hn : n = 8 ∨ n = 4) (hup : p ∈ s.m.portsUp)
    (hpa : pa < 2 ^ 48) (hin : s.m.importFor p pa (.atomic op n v) = some e) (hv : (s.m.ctx e.ctx).valid = true)
    (hr : (s.m.ctx e.ctx).silt.room 96 = true) :
    (∀ r, peerLeft n (s.m.number pa n) (v.toNat % 2 ^ (8 * n)) op = some r → ∃ s1, exec (.remoteAccessArrival p pa (.atomic op n v)) s = .next s1 ∧
      s.m.storedAt s1.m pa n (byteOf (BitVec.ofNat 64 r)) ∧ s1.sys = s.sys ∧ (s.m.ctx e.ctx).silt.Marked pa (s1.m.ctx e.ctx).silt) ∧
    (peerLeft n (s.m.number pa n) (v.toNat % 2 ^ (8 * n)) op = none → exec (.remoteAccessArrival p pa (.atomic op n v)) s = .next s) := by
  have hold : (BitVec.ofNat 64 (s.m.word pa)).toNat % 2 ^ (8 * n) = s.m.number pa n := by
    have hlt : s.m.number pa 8 < 2 ^ 64 := s.m.number_lt pa 8
    rw [BitVec.toNat_ofNat, word_eq_number, Nat.mod_eq_of_lt hlt, number_low s.m pa hn]
  obtain ⟨hsome, hnone⟩ := (remoteAccess_in hup hpa hin hv).2 op n v rfl
  rw [← hold]
  refine ⟨fun r h => ?_, fun h => ?_⟩
  · obtain ⟨w, hw, hbytes⟩ := peerNew_some hn _ v h
    obtain ⟨s1, hexec, hst, hsys, hmark⟩ := exec_remote_writes herr hr (hsome w hw)
    rw [leBytes_length] at hst
    exact ⟨s1, hexec, hst.congr fun i hi => (leBytes_getD n _ i hi).trans (hbytes i hi), hsys, hmark⟩
  · exact exec_stays_of herr (f := (·.remoteAccess p pa (.atomic op n v))) rfl (hnone (peerNew_none _ v h))

end

theorem not_mem_filter_ne (l : List Nat) (p : Nat) : p ∉ l.filter (· != p) := by simp

/-- Settles O54: each event by what its function does to the chip; a port that goes down by what the aborts of its groups keep
(`Mach.Steady`). -/
theorem portEvents : Obligations.PortEvents := by
  unfold Obligations.PortEvents
  intro s p herr hl
  dsimp only
  refine ⟨exec_noted herr hl (f := (·.flitError p)) _ rfl rfl, fun hup => ?_,
    fun hup => exec_stays_of herr (f := (·.portRetrain p)) rfl (if_neg (by simpa using hup)),
    fun hup htrain => eventS_stays (f := (·.portDown p)) herr (if_pos (by simp [hup, htrain])), fun h => ?_,
    fun ok hboot hp hup hoff => ⟨?_, ?_⟩, fun ok h => exec_portUp_stays herr ok h,
    fun pa acc h => exec_stays_of herr (f := (·.remoteAccess p pa acc)) rfl (remoteAccess_off h), ?_,
    fun v => ⟨exec_msiXInterrupt herr v, fun h => ?_⟩, ?_, ?_,
    fun h => exec_stays_of herr (f := (·.surpriseRemoval p)) rfl (if_pos (by simpa using h)),
    fun hboot hp h => ⟨_, exec_hotPlug herr hboot hp h, rfl, rfl, rfl⟩,
    fun w => ⟨exec_noted herr hl (f := (·.aer p true w)) _ rfl rfl, exec_noted herr hl (f := (·.aer p false w)) _ rfl rfl⟩,
    fun vc => exec_noted herr hl (f := (·.shaleFlit p vc)) _ rfl rfl, exec_noted herr hl (f := (·.shaleFails p)) _ rfl rfl⟩
  · obtain ⟨s1, hexec, hsys, hm⟩ := exec_portRetrain_up herr hup
    exact ⟨s1, hexec, hsys, by rw [hm], by rw [hm]; exact not_mem_filter_ne _ p, by rw [hm]⟩
  · obtain ⟨s1, hexec, hup, htrain, hkeys, ⟨r, hr, hcode, -⟩, hdead⟩ := exec_portDown herr hl h
    refine ⟨s1, hexec, hup ▸ not_mem_filter_ne _ p, htrain ▸ not_mem_filter_ne _ p, hkeys ▸ not_mem_filter_ne _ p, ⟨r, hr, hcode⟩, ?_⟩
    rintro c x g l hc hv hbut hg ⟨q, hq, hroute⟩
    exact hdead c g (Mach.mem_groupsWith hc hv hbut hg ⟨q, hq, beq_iff_eq.mpr hroute⟩)
  · rintro rfl
    exact ⟨_, exec_portUp_ok herr hboot hp hup hoff, rfl, not_mem_filter_ne _ p, rfl, List.mem_append_right _ (List.mem_singleton.mpr rfl)⟩
  · rintro rfl
    exact exec_portUp_fails herr hl hboot hp hup hoff
  · intro i e pa bs v hup hi he hfree hlimit hpa hbase hend hbs hv hr
    have hpa48 : pa < 2 ^ 48 := by omega
    refine ⟨fun hw => ?_, fun _ hnone => exec_stays_of herr (f := (·.remoteAccess p pa (.store bs))) rfl (remoteAccess_off (.inr (.inr hnone))),
      fun ha op n hn => ?_, exec_stays_of herr (f := (·.remoteAccess p pa (.load 8))) rfl (remoteAccess_load 8)⟩
    · have hg : importGrants e pa (.store bs) = true := by simp [importGrants, accSize, hw, hbase, hbs, hend]
      have hentry := Mach.importFor_first (acc := .store bs) hi he hfree (by simp [accSize, hbs]) hg
      obtain ⟨s1, hexec, hst, hsys, hmark⟩ := exec_remote_writes herr hr ((remoteAccess_in hup hpa48 hentry hv).1 bs rfl)
      rw [hbs] at hst
      exact ⟨s1, hexec, hst, hsys, hmark.lastExt, hmark.recs⟩
    · have hg : importGrants e pa (.atomic op n v) = true := by
        have hfit : pa + n ≤ e.limit := by omega
        simp [importGrants, accSize, ha, hbase, hfit]
      have hentry := Mach.importFor_first (acc := .atomic op n v) hi he hfree (by simp only [accSize]; omega) hg
      obtain ⟨hsome, hnone⟩ := exec_remote_atomic herr hn.symm hup hpa48 hentry hv hr
      refine ⟨fun r h => ?_, fun h => hnone ?_⟩
      · obtain ⟨s1, hexec, hst, hsys, hmark⟩ := hsome r (by cases op <;> exact h)
        exact ⟨s1, hexec, hst, hsys, hmark.lastExt, hmark.recs⟩
      · cases op <;> exact h
  · obtain ⟨s1, hexec, hmsix, hlost, r, hr, hcode, -⟩ := exec_msiXInterrupt_lost herr hl v h
    exact ⟨s1, hexec, hmsix, hlost, r, hr, hcode⟩
  · intro pa bs c hroot hpa
    exact ⟨exec_dmaWrite_plain herr hroot hpa bs, exec_dmaWrite_marked herr hroot hpa bs, exec_dmaWrite_starved herr hroot hpa bs⟩
  · intro va hp hr hin hothers
    refine ⟨exec_completionTimeout herr hl hp hr hin, fun hup => ?_⟩
    obtain ⟨s1, hexec, hwaits, hroots⟩ := exec_surpriseRemoval herr hl hp hr hin hothers hup
    exact ⟨s1, hexec, hwaits, hroots ▸ not_mem_filter_ne _ p⟩

end Sys2Proof.Machine
end

section
/-! PROOFS. O52: contexts killed and dumped, and blocks offline. -/

namespace Sys2Proof.Machine

/-! ### What performing stores and waking tasks keeps -/

theorem Mach.steady_noteCode (m : Mach) (c : Nat) (l : Loc) (cells : List (Nat × Byte)) : m.Steady (m.noteCode c l cells) := by
  rw [noteCode_shape]
  exact .of_rest rfl rfl rfl rfl rfl rfl

theorem Mach.steady_mark (m : Mach) (c : Nat) (k : SKind) (key party : Nat) (g : Gid) :
    m.Steady (m.setCtx c fun x => { x with silt := x.silt.mark k key party g }) := m.steady_setCtx c (fun _ _ h => h) fun _ => rfl

theorem Mach.steady_tick (m : Mach) : m.Steady m.tick := .of_rest rfl rfl rfl rfl rfl rfl

theorem Mach.steady_writeOut (m : Mach) (g : Gid) (party : Nat) (l : Loc) (cells : List (Nat × Byte)) :
    m.Steady (m.writeOut g party l cells) :=
  (Mach.steady_mark m (ctxOf g) .external l.key party g).trans (.of_rest rfl rfl rfl rfl rfl rfl)

theorem Mach.steady_writeCells (m : Mach) (g : Gid) (party : Nat) (l : Loc) (n : Nat) (cells : List (Nat × Byte)) :
    m.Steady (m.writeCells g party l n cells) := by
  have hrecord : m.Steady (if l.irrev then m.tick.setCtx (ctxOf g) fun x => { x with silt := x.silt.mark .external l.key party g }
      else m.tick.siltWrite (ctxOf g) l.space l.key n party g) := by
    refine m.steady_tick.trans ?_
    split
    · exact Mach.steady_mark _ _ _ _ _ _
    · exact Mach.steady_siltWrite _ _ _ _ _ _ _
  unfold Mach.writeCells
  dsimp only
  generalize (if l.irrev then m.tick.setCtx (ctxOf g) fun x => { x with silt := x.silt.mark .external l.key party g }
      else m.tick.siltWrite (ctxOf g) l.space l.key n party g) = m1 at hrecord
  have hstored : m.Steady { m1.noteCode (ctxOf g) l cells with mem := pokeCells (m1.noteCode (ctxOf g) l cells).mem cells } :=
    (hrecord.trans (m1.steady_noteCode (ctxOf g) l cells)).trans (.of_rest rfl rfl rfl rfl rfl rfl)
  have hstruck := hstored.trans (Mach.steady_strikes _ (ctxOf g) l n (cells.map fun p => p.1 - l.key) g party
    (BitVec.ofNat 64 (m.tick.word l.key)) (m.tick.ctx (ctxOf g)).silt.nextSeq)
  split
  · exact m.steady_tick.trans (Mach.steady_writeOut _ _ _ _ _)
  · exact m.steady_tick.trans (Mach.steady_writeOut _ _ _ _ _)
  · exact m.steady_tick.trans (Mach.steady_mark _ _ _ _ _ _)
  · split
    · exact hstruck.trans (Mach.steady_settled _ m _)
    · exact hstruck

theorem Mach.steady_performWeak (m : Mach) (w : WStore) : m.Steady (m.performWeak w) := by
  unfold Mach.performWeak
  split
  · exact m.steady_writeCells _ _ _ _ _
  · exact m.steady_mapTask w.gid fun _ => rfl

theorem Mach.steady_drain (m : Mach) (p : WStore → Bool) : m.Steady (m.drain p) :=
  Mach.Steady.trans (m1 := { m with weak := (drained p m.weak).2 }) (.of_rest rfl rfl rfl rfl rfl rfl)
    (Mach.steady_foldl Mach.steady_performWeak _ _)

theorem Task.gid_wake (t : Task) (now no : Nat) : (t.wake now no).gid = t.gid := by
  unfold Task.wake Task.enqueue
  split
  · rfl
  · rfl

theorem Mach.steady_wakeTask (m : Mach) (g : Gid) : m.Steady (m.wakeTask g) :=
  m.steady_tick.trans (Mach.steady_mapTask m.tick g (f := (·.wake m.cycle m.order)) fun t => t.gid_wake _ _)

theorem Mach.steady_freeFault (m : Mach) (part idx : Nat) : m.Steady (m.freeFault part idx) :=
  Mach.Steady.trans (m1 := { m with faults := Tab.put none m.faults (4096 * part + idx) none }) (.of_rest rfl rfl rfl rfl rfl rfl)
    (Mach.steady_foldl (fun (a : Mach) (t : Task) => a.steady_wakeTask t.gid) _ _)

theorem Mach.steady_dropFaults (m : Mach) (c : Nat) : m.Steady (m.dropFaults c) :=
  Mach.steady_foldl (fun a k => a.steady_freeFault (k / 4096) (k % 4096)) _ m

theorem Mach.steady_killDone (m : Mach) (c : Nat) : m.Steady (m.killDone c) := by
  unfold Mach.killDone
  split
  · exact .refl m
  · refine Mach.steady_foldl (f := fun a (p : Nat × PoolRec) => a.writeDone (a.doneRec c p.1 1)) (fun a p => ?_) _ m
    exact .of_rest rfl rfl rfl rfl rfl rfl

/-! ### The end of a context (26 R448) -/

/-- The chip without a context's tasks and work, before the units its end concerns are told. -/
structure Mach.Bereft (c : Nat) (m m1 : Mach) : Prop where
  ctxs : m1.ctxs = m.ctxs
  ends : ∀ t ∈ m1.tasks, ctxOf t.gid = c → t.phase = .ended

/-- A context that has ended: it is not valid, none of its tasks lives, and no other context has come to stand. -/
theorem Mach.endCtx_spec (m : Mach) (c : Nat) : ((m.endCtx c).ctx c).valid = false ∧
    (∀ t ∈ (m.endCtx c).tasks, ctxOf t.gid = c → t.phase = .ended) ∧
    ∀ k, (m.ctx k).valid = false → ((m.endCtx c).ctx k).valid = false := by
  have hdrained : m.Steady ((m.drainCtx c).killDone c) := (m.steady_drain _).trans (Mach.steady_killDone _ c)
  obtain ⟨m1, he, hbereft⟩ : ∃ m1, m.endCtx c = ((m1.dropFaults c).setCtx c fun _ => {}).abortGroups
      (((m1.dropFaults c).setCtx c fun _ => {}).groupsWith (fun q => q.route.isEmpty && q.ctx == c) c) ∧
      Mach.Bereft c ((m.drainCtx c).killDone c) m1 := by
    refine ⟨_, rfl, rfl, fun t ht hc => ?_⟩
    rcases List.mem_cons.mp ht with rfl | ht
    · dsimp only at hc ⊢
      split
      · rfl
      · next hmine =>
        rw [if_neg hmine] at hc
        exact absurd (beq_iff_eq.mpr hc) hmine
    · have hmine := (List.mem_filter.mp ht).2
      simp [hc] at hmine
  have hfaults := m1.steady_dropFaults c
  have hgroups := Mach.steady_abortGroups ((m1.dropFaults c).setCtx c fun _ => {})
    (((m1.dropFaults c).setCtx c fun _ => {}).groupsWith (fun q => q.route.isEmpty && q.ctx == c) c)
  rw [he]
  refine ⟨?_, fun t2 ht2 hc => ?_, fun k hk => ?_⟩
  · rw [hgroups.valid, Mach.ctx_setCtx, if_pos rfl]
  · obtain ⟨t1, ht1, hgid1, hend1⟩ := hgroups.tasks t2 ht2
    obtain ⟨t, ht, hgid, hend⟩ := hfaults.tasks t1 ht1
    exact hend1 (hend (hbereft.ends t ht (by rw [← hgid, ← hgid1]; exact hc)))
  · rw [hgroups.valid, Mach.ctx_setCtx]
    split
    · rfl
    · rw [hfaults.valid, Mach.ctx_of_ctxs hbereft.ctxs, hdrained.valid]
      exact hk

/-- The dump that a context's end queues (26 R451). -/
def State.dumpOf (s : State) (c : Nat) : Dump :=
  { ctx := c, images := s.m.tasks.filter (·.lives c), silt := (s.m.ctx c).silt, stops := (s.m.ctx c).stops }

theorem State.kill_valid {s : State} {c : Nat} (h : (s.m.ctx c).valid = true) : s.kill c = { s with
    m := s.m.endCtx c
    sys := { s.sys with
      dumpQueue := s.sys.dumpQueue ++ [s.dumpOf c]
      grants := s.sys.grants.filter fun g => !(g.ctx == c && g.lv == .d1)
      readopt := s.sys.readopt.filter (· != c) } } := by
  unfold State.kill
  dsimp only
  rw [h]
  rfl

theorem State.kill_invalid {s : State} {c : Nat} (h : (s.m.ctx c).valid = false) : s.kill c = s := by
  unfold State.kill
  dsimp only
  rw [h]
  rfl

theorem exec_killContext {s : State} {c : Nat} (hv : (s.m.ctx c).valid = true) : ∃ s1 d, exec (.killContext c) s = .next s1 ∧
    (s1.m.ctx c).valid = false ∧ (∀ t ∈ s1.m.tasks, ctxOf t.gid = c → t.phase = .ended) ∧
    s1.sys.dumpQueue = s.sys.dumpQueue ++ [d] ∧ d.ctx = c ∧ d.silt = (s.m.ctx c).silt ∧ d.stops = (s.m.ctx c).stops ∧
    d.images = s.m.tasks.filter (fun t => t.lives c) ∧ (∀ g ∈ s1.sys.grants, g.lv = .d1 → g.ctx ≠ c) ∧ c ∉ s1.sys.readopt := by
  obtain ⟨hvalid, htasks, -⟩ := s.m.endCtx_spec c
  have hf := State.kill_valid hv
  have hexec : exec (.killContext c) s = .next (s.kill c).flushErrs := rfl
  obtain ⟨irqs, hm⟩ := (s.kill c).flushErrs_m
  obtain ⟨ring, lost, seq, last, hsys⟩ := (s.kill c).flushErrs_sys
  generalize s.m.endCtx c = m1 at hvalid htasks hf
  refine ⟨_, s.dumpOf c, hexec, ?_, ?_, ?_, rfl, rfl, rfl, rfl, ?_, ?_⟩
  · rw [hm, hf]
    exact hvalid
  · rw [hm, hf]
    exact htasks
  · rw [hsys, hf]
  · rw [hsys, hf]
    intro g hg hlv hc
    have hkept := (List.mem_filter.mp hg).2
    simp [hlv, hc] at hkept
  · rw [hsys, hf]
    exact not_mem_filter_ne _ c

/-! ### Dumps (26 R451) -/

section
variable {s : State} {d : Dump} {rest : List Dump} (herr : s.m.errs = []) (hq : s.sys.dumpQueue = d :: rest)
include hq

/-- The module with the oldest queued dump made. -/
def Sys.dumped (y : Sys) (d : Dump) (rest : List Dump) (bad : Option (Nat × Nat)) : Sys := { y with
  dumpQueue := rest
  dumps := y.dumps ++ [{ d with errors := y.ringHeld.filter fun r => r.ctx == d.ctx && r.valid % 2 == 1, ended := bad }] }

theorem State.dump_none : s.dump d.ctx none = { s with sys := s.sys.dumped d rest none } := by
  unfold State.dump
  rw [hq]
  exact if_neg fun h => h rfl

theorem State.dump_bad (off code : Nat) : s.dump d.ctx (some (off, code)) = { s with
    m := s.m.noteUnit { code := code, severity := 2, action := 3, unit := dumpUnit, detail := 2 }
    sys := s.sys.dumped d rest (some (off, code)) } := by
  unfold State.dump
  rw [hq]
  exact if_neg fun h => h rfl

include herr

theorem exec_dump : exec (.dump d.ctx none) s = .next { s with sys := s.sys.dumped d rest none } := by
  have hf := State.dump_none hq
  have he : exec (.dump d.ctx none) s = .next (s.dump d.ctx none) := eventS_quiet (f := (·.dump d.ctx none)) (by rw [hf]; exact herr)
  rw [he, hf]

theorem exec_dump_other {c : Nat} (hc : c ≠ d.ctx) : exec (.dump c none) s = .next s := by
  refine eventS_stays (f := (·.dump c none)) herr ?_
  unfold State.dump
  rw [hq]
  exact if_pos (Ne.symm hc)

theorem exec_dump_bad (hl : s.sys.ring.length < 4096) (off code : Nat) : ∃ s1, exec (.dump d.ctx (some (off, code))) s = .next s1 ∧
    s1.sys.dumpQueue = rest ∧ s1.sys.dumps = (s.sys.dumped d rest (some (off, code))).dumps ∧ ∃ r ∈ s1.sys.ring, r.code = code := by
  have hf := State.dump_bad hq off code
  have hexec : exec (.dump d.ctx (some (off, code))) s = .next (s.dump d.ctx (some (off, code))).flushErrs := rfl
  obtain ⟨⟨r, hr, hcode, -⟩, -⟩ := flushErrs_noteUnit herr hl (s.sys.dumped d rest (some (off, code))) rfl
    { code := code, severity := 2, action := 3, unit := dumpUnit, detail := 2 }
  obtain ⟨ring, lost, seq, last, hsys⟩ := (s.dump d.ctx (some (off, code))).flushErrs_sys
  rw [← hf] at hr
  refine ⟨_, hexec, ?_, ?_, r, hr, hcode⟩
  · rw [hsys, hf]
    rfl
  · rw [hsys, hf]

end

end Sys2Proof.Machine
end

section
/-! PROOFS. O52, the rest: contexts created and restored, and blocks offline. -/

namespace Sys2Proof.Machine

/-! ### Partitions changed one by one -/

theorem Tab.look_foldl_put {α : Type} [DecidableEq α] (d : α) (f : α → α) (k : Nat) : ∀ (l t : Tab α),
    (∃ q, Tab.look d (l.foldl (fun t p => Tab.put d t p.1 (f p.2)) t) k = f q) ∨
      Tab.look d (l.foldl (fun t p => Tab.put d t p.1 (f p.2)) t) k = Tab.look d t k ∧ ∀ p ∈ l, p.1 ≠ k
  | [], t => .inr ⟨rfl, fun _ h => absurd h List.not_mem_nil⟩
  | p :: l, t => by
    rw [List.foldl_cons]
    rcases Tab.look_foldl_put d f k l (Tab.put d t p.1 (f p.2)) with h | ⟨hlook, hkeys⟩
    · exact .inl h
    · by_cases hk : k = p.1
      · exact .inl ⟨p.2, by rw [hlook, Tab.look_put, if_pos hk]⟩
      · refine .inr ⟨by rw [hlook, Tab.look_put, if_neg hk], fun q hq => ?_⟩
        rcases List.mem_cons.mp hq with rfl | hq
        · exact Ne.symm hk
        · exact hkeys q hq

/-- Every entry of a table changed: what a key looks up is some changed entry, or the default. -/
theorem Tab.look_changed {α : Type} [DecidableEq α] (d : α) (f : α → α) (t : Tab α) (k : Nat) :
    (∃ q, Tab.look d (t.foldl (fun t p => Tab.put d t p.1 (f p.2)) t) k = f q) ∨
      Tab.look d (t.foldl (fun t p => Tab.put d t p.1 (f p.2)) t) k = d := by
  rcases Tab.look_foldl_put d f k t t with h | ⟨hlook, hkeys⟩
  · exact .inl h
  · refine .inr (hlook.trans ?_)
    by_contra hne
    exact hkeys _ (Tab.mem_of_look_ne d t k hne) rfl

/-! ### What the kernel and the loader write for a context (23 R393) -/

/-- A context as the kernel's work leaves it, where no record is armed. -/
def Ctx.worked (w : KWork) (x : Ctx) : Ctx :=
  { x with
    pool := w.recs.foldl (fun t (r, v) => Tab.upd {} t r fun p => { p with r := v }) x.pool
    groups := w.groups.foldl (fun t (g, l) => Tab.put [] t g l) x.groups
    tags := w.groups.foldl (fun t p => Tab.put 0 t p.1 0) x.tags
    deadGroups := x.deadGroups.filter fun g => !(w.groups.any fun p => p.1 == g)
    guards := x.guards ++ w.guards }

/-- The scratchpad bytes that the loader fills. -/
def Mach.filled (m : Mach) (w : KWork) : List (Nat × Byte) := w.scratch.map fun (core, off, b) => (m.frontKey core off, b)

theorem Mach.work_armless (m : Mach) (c : Nat) {w : KWork} (h : w.arms = []) : ∃ m1 : Mach, m.work c w = m1.setCtx c (Ctx.worked w) ∧
    m1 = { m with mem := pokeCells (pokeCells m.mem w.mem) (m.filled w), fe := m1.fe, chans := m1.chans, imports := m1.imports
                  tlb := m1.tlb, dtlb := m1.dtlb } := by
  unfold Mach.work
  simp only [h, List.foldl_nil]
  split
  · exact ⟨_, rfl, rfl⟩
  · exact ⟨_, rfl, rfl⟩

/-! ### A context created (25 R444) -/

/-- The chip with a context created on it. -/
def Mach.created (m : Mach) (ci : CtxInit) : Mach :=
  ((({ m with windows := m.windows.filter fun p => p.1 / 4 % 256 != ci.ctx } : Mach).setCtx ci.ctx fun _ => freshCtx ci).work
    ci.ctx ci.work).resnap ci.ctx

/-- What is said of a context newly created: halted, its table and log empty, its guarded ranges the kernel's. -/
structure Ctx.Fresh (ci : CtxInit) (x : Ctx) : Prop where
  valid : x.valid = true
  halt : x.halt = { line := true, complete := true }
  isSealed : x.isSealed = ci.isSealed
  part : x.part = ci.part
  root : x.root = ci.root
  recs : x.silt.recs = []
  size : x.silt.size = ci.siltSize
  full : x.silt.full = decide (ci.siltCtl % 2 = 1)
  current : x.silt.current = 1
  ownerHash : x.ownerHash = ci.ownerHash
  loam : x.loam = ctxTable ci
  guards : ctxGuards ci ⊆ x.guards

structure Mach.Created (ci : CtxInit) (m m1 : Mach) : Prop where
  frame : m1 = { m with windows := m.windows.filter fun p => p.1 / 4 % 256 != ci.ctx, ctxs := m1.ctxs, mem := m1.mem, fe := m1.fe
                        chans := m1.chans, imports := m1.imports, tlb := m1.tlb, dtlb := m1.dtlb }
  mem : m1.mem = pokeCells (pokeCells m.mem ci.work.mem) (m.filled ci.work)
  others : ∀ k, k ≠ ci.ctx → m1.ctx k = m.ctx k
  fresh : (m1.ctx ci.ctx).Fresh ci

theorem Mach.created_created (m : Mach) {ci : CtxInit} (h : ci.work.arms = []) : Mach.Created ci m (m.created ci) := by
  obtain ⟨m1, hwork, hframe⟩ := Mach.work_armless
    (({ m with windows := m.windows.filter fun p => p.1 / 4 % 256 != ci.ctx } : Mach).setCtx ci.ctx fun _ => freshCtx ci) ci.ctx h
  have hctxs : m1.ctxs = (m.setCtx ci.ctx fun _ => freshCtx ci).ctxs := by rw [hframe]; rfl
  have hother : ∀ k, k ≠ ci.ctx → m1.ctx k = m.ctx k := fun k hk => by
    rw [Mach.ctx_of_ctxs hctxs, Mach.ctx_setCtx, if_neg hk]
  have hown : m1.ctx ci.ctx = freshCtx ci := by
    rw [Mach.ctx_of_ctxs hctxs, Mach.ctx_setCtx, if_pos rfl]
  rw [Mach.created, hwork]
  have hmem : m1.mem = pokeCells (pokeCells m.mem ci.work.mem) (m.filled ci.work) := by rw [hframe]; rfl
  replace hframe : m1 = { m with windows := m.windows.filter fun p => p.1 / 4 % 256 != ci.ctx, ctxs := m1.ctxs, mem := m1.mem, fe := m1.fe
                                 chans := m1.chans, imports := m1.imports, tlb := m1.tlb, dtlb := m1.dtlb } := by
    rw [hframe]
    rfl
  refine ⟨?_, hmem, fun k hk => ?_, ?_⟩
  · rw [hframe]
    rfl
  · rw [Mach.resnap, Mach.setSilt, Mach.ctx_setCtx, if_neg hk, Mach.ctx_setCtx, if_neg hk, hother k hk]
  · rw [Mach.resnap, Mach.setSilt, Mach.ctx_setCtx, if_pos rfl, Mach.ctx_setCtx, if_pos rfl, hown]
    exact ⟨rfl, rfl, rfl, rfl, rfl, rfl, rfl, rfl, rfl, rfl, rfl, List.subset_append_left _ _⟩

end Sys2Proof.Machine
end

section
/-! PROOFS. O52, settled. -/

namespace Sys2Proof.Machine

/-! ### CONTEXT_CREATE (25 R444) -/

section
variable {s : State} {ci : CtxInit} {m0 : Mach} (hkernel : s.sys.kernel = true) (hctx : ci.ctx ≤ 255) (hpart : ci.part ≤ 7)
  (hfree : (s.m.ctx ci.ctx).valid = false) (harms : ci.work.arms = []) (hsound : soundInit ci = true)
  (hfence : s.m.refence ci.part ci.fence = some m0)
include hkernel hctx hpart hfree hsound hfence

theorem State.createCtx_new : s.createCtx ci = { s with m := m0.created ci } := by
  have hopen : (!s.sys.kernel || !soundInit ci || decide (255 < ci.ctx) || decide (7 < ci.part) || (s.m.ctx ci.ctx).valid) = false := by
    rw [hkernel, hsound, hfree, decide_eq_false (by omega), decide_eq_false (by omega)]
    rfl
  unfold State.createCtx
  rw [hopen, hfence]
  rfl

include harms

theorem exec_contextCreate (herr : m0.errs = []) : ∃ s1, exec (.contextCreate ci) s = .next s1 ∧ s1.sys = s.sys ∧
    Mach.Created ci m0 s1.m := by
  have hcreated := m0.created_created harms
  have hf := State.createCtx_new hkernel hctx hpart hfree hsound hfence
  have herrs : (m0.created ci).errs = [] := by rw [hcreated.frame]; exact herr
  have he : exec (.contextCreate ci) s = .next (s.createCtx ci) := eventS_quiet (f := (·.createCtx ci)) (by rw [hf]; exact herrs)
  exact ⟨{ s with m := m0.created ci }, he.trans (by rw [hf]), rfl, hcreated⟩

end

section
variable {ci : CtxInit} {m m1 : Mach} (h : Mach.Created ci m m1)
include h

theorem Mach.Created.t : m1.t = m.t := by rw [h.frame]
theorem Mach.Created.othertasks : m1.others = m.others := by rw [h.frame]
theorem Mach.Created.parts : m1.parts = m.parts := by rw [h.frame]

/-- The new context has no windows yet (15 R278). -/
theorem Mach.Created.window (hctx : ci.ctx ≤ 255) (core n : Nat) (hn : n < 4) : m1.window ci.ctx core n = {} := by
  have hkey : (((core * 256 + ci.ctx) * 4 + n) / 4 % 256 != ci.ctx) = false := by
    have hmod : ((core * 256 + ci.ctx) * 4 + n) / 4 % 256 = ci.ctx := by omega
    rw [hmod]
    simp
  rw [Mach.window, h.frame]
  dsimp only
  rw [Tab.look_filter_key (p := fun i => i / 4 % 256 != ci.ctx), hkey]
  rfl

/-- One byte that the loader writes. -/
theorem Mach.Created.byte {k : Nat} {b : Byte} (hmem : ci.work.mem = [(k, b)]) (hscratch : ci.work.scratch = []) (j : Nat) :
    m1.byte j = if j = k then b else m.byte j := by
  have hpoke : m1.mem = pokeCells m.mem [(k, b)] := by rw [h.mem, hmem, Mach.filled, hscratch]; rfl
  have hcells : pokeCells m.mem [(k, b)] = Tab.put emptyByte m.mem k b := rfl
  rw [Mach.byte, hpoke, hcells, Tab.look_put]
  rfl

end

/-! ### The fence of a partition (04 R79) -/

/-- A partition that gives up clusters and stacks. -/
def Part.ceding (cls sts : List Nat) (q : Part) : Part :=
  { q with clusters := q.clusters.filter (!cls.contains ·), hbmStacks := q.hbmStacks.filter (!sts.contains ·) }

theorem Mach.refence_idle {m : Mach} (h : ∀ q ∈ m.ctxs, q.2.valid = false) (p : Nat) (cls sts : List Nat) :
    m.refence p (some (cls, sts)) = some { m with
      parts := Tab.upd {} (m.parts.foldl (fun t q => Tab.put {} t q.1 (q.2.ceding cls sts)) m.parts) p fun q =>
        { q with clusters := cls.filter (decide <| · < 512), hbmStacks := sts.filter (decide <| · < 12) } } := by
  have hused : (m.ctxs.any fun (_, x) => x.valid && (x.part == p ||
      (m.part x.part).clusters.any (cls.contains ·) || (m.part x.part).hbmStacks.any (sts.contains ·))) = false := by
    rw [List.any_eq_false]
    intro q hq
    simp [h q hq]
  unfold Mach.refence
  simp only [hused, Bool.false_eq_true, if_false]
  rfl

/-! ### CHECKPOINT_RESTORE (24 R427) -/

section
variable {s : State} {ci : CtxInit}

theorem exec_checkpointRestore_stands (herr : s.m.errs = []) (mac : Nat) (h : (s.m.ctx ci.ctx).valid = true) :
    exec (.checkpointRestore ci mac) s = .next s := eventS_stays (f := (·.restoreCtx ci mac)) herr (if_pos h)

theorem exec_checkpointRestore_refused (herr : s.m.errs = []) (hl : s.sys.ring.length < 4096) {mac : Nat}
    (h : (s.m.ctx ci.ctx).valid = false) (hmac : mac ≠ Config.hmac ci.ctx (ctxImage ci (s.sys.lastCheckpoint ci.ctx))) :
    ∃ s1, exec (.checkpointRestore ci mac) s = .next s1 ∧ s1.m.mem = s.m.mem ∧ s1.m.ctxs = s.m.ctxs ∧ ∃ r ∈ s1.sys.ring, r.code = 0x8004 := by
  have hf : s.restoreCtx ci mac =
      { s with m := s.m.note ci.ctx { code := 0x8004, severity := 2, action := 3, unit := securityUnit, valid := 1 } } := by
    unfold State.restoreCtx
    rw [h]
    exact (if_neg Bool.false_ne_true).trans (if_neg hmac)
  obtain ⟨s1, hexec, ⟨irqs, hm⟩, -, r, hr, hcode, -⟩ := exec_notes (i := .checkpointRestore ci mac) (f := (·.restoreCtx ci mac)) rfl
    (x := { code := 0x8004, severity := 2, action := 3, unit := securityUnit, valid := 1, ctx := ci.ctx, time := s.m.cycle, window := (s.m.ctx ci.ctx).silt.current })
    (by rw [hf]; exact congrArg (· ++ _) herr) (by rw [hf]; exact hl)
  refine ⟨s1, hexec, ?_, ?_, r, hr, hcode⟩
  · rw [hm, hf]
    rfl
  · rw [hm, hf]
    rfl

variable (hkernel : s.sys.kernel = true) (hctx : ci.ctx ≤ 255) (hpart : ci.part ≤ 7)
  (hfree : (s.m.ctx ci.ctx).valid = false) (harms : ci.work.arms = []) (hsound : soundInit ci = true) (hfence : ci.fence = none)
include hkernel hctx hpart hfree harms hsound hfence

theorem State.restoreCtx_matches : s.restoreCtx ci (Config.hmac ci.ctx (ctxImage ci (s.sys.lastCheckpoint ci.ctx))) =
    ({ s with m := s.m.created ci } : State).withSnapshot ci.ctx := by
  have hf := State.createCtx_new (m0 := s.m) hkernel hctx hpart hfree hsound (by rw [hfence]; rfl)
  have hv := (s.m.created_created harms).fresh.valid
  unfold State.restoreCtx
  rw [hfree, hf]
  refine (if_neg Bool.false_ne_true).trans ((if_pos rfl).trans ?_)
  dsimp only
  exact if_pos hv

theorem exec_checkpointRestore_plain (herr : s.m.errs = []) (hnone : ∀ k ∈ s.sys.checkpoints, k.ctx ≠ ci.ctx) :
    ∃ s1, exec (.checkpointRestore ci (Config.hmac ci.ctx (ctxImage ci (s.sys.lastCheckpoint ci.ctx)))) s = .next s1 ∧ s1.sys = s.sys ∧
      Mach.Created ci s.m s1.m := by
  have hcreated := s.m.created_created harms
  have hlast : s.sys.lastCheckpoint ci.ctx = none := by
    rw [Sys.lastCheckpoint, List.filter_eq_nil_iff.mpr fun k hk => by simpa using hnone k hk]
    rfl
  have hf : s.restoreCtx ci (Config.hmac ci.ctx (ctxImage ci (s.sys.lastCheckpoint ci.ctx))) = { s with m := s.m.created ci } := by
    rw [State.restoreCtx_matches hkernel hctx hpart hfree harms hsound hfence, State.withSnapshot]
    dsimp only
    rw [hlast]
  have herrs : (s.m.created ci).errs = [] := by rw [hcreated.frame]; exact herr
  refine ⟨{ s with m := s.m.created ci }, ?_, rfl, hcreated⟩
  exact (eventS_quiet (f := (·.restoreCtx ci _)) (by rw [hf]; exact herrs)).trans (by rw [hf])

/-- A chip with the bytes and the snapshot that a checkpoint carries. -/
def Mach.replayed (m : Mach) (c : Nat) (k : Checkpoint) : Mach :=
  ((((m.withBytes c k.bytes).restore c k.snap true).setCtx c fun x => { x with loam := k.snap.loam.placed x.loam })).resnap c

omit hkernel hctx hpart hfree harms hsound hfence in
theorem Mach.ctx_restore (m : Mach) (c : Nat) (k : Snap) (halted : Bool) : (m.restore c k halted).ctx c =
    { m.ctx c with pool := k.pool, loam := k.loam.restored (m.ctx c).loam } := by
  obtain ⟨m1, he, hctxs⟩ : ∃ m1 : Mach, m.restore c k halted = m1.setCtx c (fun x => { x with pool := k.pool, loam := k.loam.restored x.loam }) ∧
      m1.ctxs = m.ctxs := ⟨_, rfl, rfl⟩
  rw [he, Mach.ctx_setCtx, if_pos rfl, Mach.ctx_of_ctxs hctxs]

omit hkernel hctx hpart hfree harms hsound hfence in
/-- The live tasks of a context restored are the snapshot's. -/
theorem Mach.mem_tasks_restore {m : Mach} {c : Nat} {k : Snap} {halted : Bool} {t : Task} (ht : t ∈ (m.restore c k halted).tasks)
    (hc : ctxOf t.gid = c) (hlive : t.phase ≠ .ended) : ∃ t0 ∈ k.tasks, { m.reseated c t0 with halted := halted } = t := by
  have htasks : (m.restore c k halted).tasks = (if ctxOf m.t.gid == c then blankTask else m.t) ::
      (m.others.filter (fun t => !(ctxOf t.gid == c)) ++ k.tasks.map fun t => { m.reseated c t with halted := halted }) := rfl
  rw [htasks] at ht
  rcases List.mem_cons.mp ht with rfl | ht
  · split at hlive
    · exact absurd rfl hlive
    · next hmine =>
      rw [if_neg hmine] at hc
      exact absurd (beq_iff_eq.mpr hc) hmine
  · rcases List.mem_append.mp ht with ht | ht
    · have hmine := (List.mem_filter.mp ht).2
      simp [hc] at hmine
    · exact List.mem_map.mp ht

omit hkernel hctx hpart hfree harms hsound hfence in
/-- Of a context that stands, its pool and table are the snapshot's, and its tasks halted. -/
theorem Mach.replayed_spec (m : Mach) (c : Nat) (k : Checkpoint) :
    (m.replayed c k).errs = m.errs ∧ (m.replayed c k).mem = (m.withBytes c k.bytes).mem ∧
    ((m.replayed c k).ctx c).valid = (m.ctx c).valid ∧ ((m.replayed c k).ctx c).halt = (m.ctx c).halt ∧
    ((m.replayed c k).ctx c).pool = k.snap.pool ∧ ((m.replayed c k).ctx c).loam = k.snap.loam.placed (m.ctx c).loam ∧
    ∀ t ∈ (m.replayed c k).tasks, ctxOf t.gid = c → t.phase ≠ .ended → t.halted = true := by
  have hctx : ∃ z : Silt, (m.replayed c k).ctx c = { m.ctx c with
      pool := k.snap.pool, loam := k.snap.loam.placed (k.snap.loam.restored (m.ctx c).loam), silt := z } := by
    have hbytes : (m.withBytes c k.bytes).ctx c = m.ctx c := Mach.ctx_of_ctxs rfl c
    rw [Mach.replayed, Mach.resnap, Mach.setSilt, Mach.ctx_setCtx, if_pos rfl, Mach.ctx_setCtx, if_pos rfl, Mach.ctx_restore, hbytes]
    exact ⟨_, rfl⟩
  obtain ⟨z, hctx⟩ := hctx
  refine ⟨rfl, rfl, by rw [hctx], by rw [hctx], by rw [hctx], by rw [hctx]; rfl, fun t ht hc hlive => ?_⟩
  obtain ⟨t0, -, rfl⟩ := Mach.mem_tasks_restore (m := m.withBytes c k.bytes) (k := k.snap) (halted := true) ht hc hlive
  rfl

theorem exec_checkpointRestore_carries (herr : s.m.errs = []) {l : List Checkpoint} {k : Checkpoint} (hk : s.sys.checkpoints = l ++ [k])
    (hkc : k.ctx = ci.ctx) : ∃ s1, exec (.checkpointRestore ci (Config.hmac ci.ctx (ctxImage ci (s.sys.lastCheckpoint ci.ctx)))) s = .next s1 ∧
      s1.sys = s.sys ∧ s1.m = (s.m.created ci).replayed ci.ctx k := by
  have hcreated := s.m.created_created harms
  have hlast : s.sys.lastCheckpoint ci.ctx = some k := by
    rw [Sys.lastCheckpoint, hk, List.filter_append, List.filter_cons_of_pos (by simpa using hkc)]
    exact List.getLast?_concat
  have hf : s.restoreCtx ci (Config.hmac ci.ctx (ctxImage ci (s.sys.lastCheckpoint ci.ctx))) =
      { s with m := (s.m.created ci).replayed ci.ctx k } := by
    rw [State.restoreCtx_matches hkernel hctx hpart hfree harms hsound hfence, State.withSnapshot]
    dsimp only
    rw [hlast]
    rfl
  have herrs : ((s.m.created ci).replayed ci.ctx k).errs = [] := by
    rw [((s.m.created ci).replayed_spec ci.ctx k).1, hcreated.frame]
    exact herr
  refine ⟨{ s with m := (s.m.created ci).replayed ci.ctx k }, ?_, rfl, rfl⟩
  exact (eventS_quiet (f := (·.restoreCtx ci _)) (by rw [hf]; exact herrs)).trans (by rw [hf])

end

/-! ### OFFLINE_BLOCK (26 R448) -/

theorem State.kill_keeps_invalid (s : State) (c k : Nat) (h : (s.m.ctx k).valid = false) : (((s.kill c).m).ctx k).valid = false := by
  cases hv : (s.m.ctx c).valid with
  | false => rwa [State.kill_invalid hv]
  | true =>
    rw [State.kill_valid hv]
    exact (s.m.endCtx_spec c).2.2 k h

theorem State.kill_ends (s : State) (c : Nat) : (((s.kill c).m).ctx c).valid = false := by
  cases hv : (s.m.ctx c).valid with
  | false => rwa [State.kill_invalid hv]
  | true =>
    rw [State.kill_valid hv]
    exact (s.m.endCtx_spec c).1

/-- Contexts killed one after the other. -/
theorem State.foldl_kill (cs : List Nat) (s : State) : (cs.foldl State.kill s).sys.offline = s.sys.offline ∧
    (∀ k, (s.m.ctx k).valid = false → ((cs.foldl State.kill s).m.ctx k).valid = false) ∧
    ∀ k ∈ cs, ((cs.foldl State.kill s).m.ctx k).valid = false := by
  induction cs generalizing s with
  | nil => exact ⟨rfl, fun _ h => h, fun _ h => absurd h List.not_mem_nil⟩
  | cons c cs ih =>
    obtain ⟨hoffline, hkeeps, hends⟩ := ih (s.kill c)
    rw [List.foldl_cons]
    refine ⟨hoffline.trans ?_, fun k h => hkeeps k (s.kill_keeps_invalid c k h), fun k hk => ?_⟩
    · cases hv : (s.m.ctx c).valid with
      | false => rw [State.kill_invalid hv]
      | true => rw [State.kill_valid hv]
    · rcases List.mem_cons.mp hk with rfl | hk
      · exact hkeeps k (s.kill_ends k)
      · exact hends k hk

section
variable {s : State} {b : Block}

/-- A block taken out of every partition, its contexts killed. -/
theorem exec_offlineBlock (h : b ∉ s.sys.offline) : ∃ s1, exec (.offlineBlock b) s = .next s1 ∧ s1.sys.offline = s.sys.offline ++ [b] ∧
    (∀ k ∈ s.m.blockCtxs b, (s1.m.ctx k).valid = false) ∧ (∀ k, (∃ q : Part, s1.m.part k = q.without b) ∨ s1.m.part k = {}) ∧
    ∀ p, b = .port p → p ∉ s1.m.portsUp := by
  obtain ⟨hoffline, -, hends⟩ := State.foldl_kill (s.m.blockCtxs b) s
  have hnew : ¬ s.sys.offline.contains b = true := fun hc => h (List.contains_iff_mem.mp hc)
  obtain ⟨m1, hf, hctxs, hports⟩ : ∃ m1 : Mach, s.offlineBlock b = { (s.m.blockCtxs b).foldl State.kill s with
        m := { m1 with parts := m1.parts.foldl (fun t p => Tab.put {} t p.1 (p.2.without b)) m1.parts }
        sys := { ((s.m.blockCtxs b).foldl State.kill s).sys with offline := ((s.m.blockCtxs b).foldl State.kill s).sys.offline ++ [b] } } ∧
      m1.ctxs = ((s.m.blockCtxs b).foldl State.kill s).m.ctxs ∧ ∀ p, b = .port p → p ∉ m1.portsUp := by
    refine ⟨_, if_neg hnew, ?_, ?_⟩
    · cases b <;> rfl
    · rintro p rfl
      exact not_mem_filter_ne _ p
  have hexec : exec (.offlineBlock b) s = .next (s.offlineBlock b).flushErrs := rfl
  obtain ⟨irqs, hm⟩ := (s.offlineBlock b).flushErrs_m
  obtain ⟨ring, lost, seq, last, hsys⟩ := (s.offlineBlock b).flushErrs_sys
  refine ⟨_, hexec, ?_, fun k hk => ?_, fun k => ?_, fun p hp => ?_⟩
  · rw [hsys, hf]
    exact congrArg (· ++ [b]) hoffline
  · rw [hm, hf]
    exact (congrArg Ctx.valid (Mach.ctx_of_ctxs hctxs k)).trans (hends k hk)
  · rw [hm, hf]
    exact Tab.look_changed {} (·.without b) m1.parts k
  · rw [hm, hf]
    exact hports p hp

/-- A partition without a core does not hold it, nor without a cluster or a stack. -/
theorem Part.without_core (q : Part) (n : Nat) : ((q.without (.core n)).clusters.contains (clusterOf n) && !(q.without (.core n)).fenced.contains n) = false := by
  by_cases hc : q.clusters.contains (clusterOf n) = true
  · have hfenced : (q.without (.core n)).fenced = q.fenced ++ [n] := if_pos hc
    simp [hfenced]
  · have hclusters : (q.without (.core n)).clusters = q.clusters := rfl
    rw [hclusters, Bool.eq_false_iff.mpr hc]
    rfl

end

/-- Settles O52: a context created by what the kernel's work leaves of it (`Mach.Created`), one killed by what its end leaves
(`Mach.endCtx_spec`), blocks offline by the partitions without them. -/
theorem contextEvents : Obligations.ContextEvents := by
  unfold Obligations.ContextEvents
  intro s ci mac c herr hl
  dsimp only
  have hfresh : ∀ x : Ctx, x.Fresh ci → x.valid = true ∧ x.halt = { line := true, complete := true } ∧ x.isSealed = ci.isSealed ∧
      x.part = ci.part ∧ x.root = ci.root ∧
      x.silt.recs = [] ∧ x.silt.size = ci.siltSize ∧ x.silt.full = decide (ci.siltCtl % 2 = 1) ∧ x.silt.current = 1 ∧
      x.ownerHash = ci.ownerHash ∧ x.loam.nsets = ci.nsets ∧ x.loam.entries = [] ∧ x.loam.ansFree = ci.ansCells ∧
      x.loam.keyFree = ci.keyCells ∧ x.loam.base = ci.loam ∧ x.loam.va = ci.loamVa ∧ (ci.loam, ci.loam + 2048 * ci.nsets +
        64 * ci.ansCells + 64 * ci.keyCells) ∈ x.guards ∧ (ci.images, ci.images + 8 * 0x900 * ci.frames) ∈ x.guards := fun x h =>
    ⟨h.valid, h.halt, h.isSealed, h.part, h.root, h.recs, h.size, h.full, h.current, h.ownerHash, by rw [h.loam]; rfl, by rw [h.loam]; rfl,
      by rw [h.loam]; rfl, by rw [h.loam]; rfl, by rw [h.loam]; rfl, by rw [h.loam]; rfl, h.guards (by simp [ctxGuards]),
      h.guards (by simp [ctxGuards, imageSize])⟩
  refine ⟨?_, ?_, fun h => ?_, exec_checkpointRestore_stands herr mac, exec_checkpointRestore_refused herr hl, ?_, fun h => ?_,
    exec_killContext, fun d rest hq => ⟨exec_dump herr hq, exec_dump_other herr hq, exec_dump_bad herr hq hl⟩, fun b => ⟨fun h => ?_, fun h => ?_⟩⟩
  · rintro ⟨hkernel, hctx, hpart, hfree, harms, hsound⟩ hfence
    obtain ⟨s1, hexec, hsys, hc⟩ := exec_contextCreate (m0 := s.m) hkernel hctx hpart hfree harms hsound (by rw [hfence]; rfl) herr
    exact ⟨s1, hexec, ⟨hc.t, hc.othertasks, hsys, hc.others⟩, hfresh _ hc.fresh, hc.parts, hc.window hctx, fun k b => hc.byte⟩
  · rintro cls sts ⟨hkernel, hctx, hpart, hfree, harms, hsound⟩ hfence hidle
    have hre := Mach.refence_idle hidle ci.part cls sts
    rw [← hfence] at hre
    obtain ⟨s1, hexec, hsys, hc⟩ := exec_contextCreate hkernel hctx hpart hfree harms hsound hre herr
    have hnew : s1.m.part ci.part = { Tab.look {} (s.m.parts.foldl (fun t q => Tab.put {} t q.1 (q.2.ceding cls sts)) s.m.parts) ci.part with
        clusters := cls.filter (decide <| · < 512), hbmStacks := sts.filter (decide <| · < 12) } := by
      rw [Mach.part, hc.parts, Tab.upd, Tab.look_put, if_pos rfl]
    refine ⟨s1, hexec, ⟨hc.t, hc.othertasks, hsys, hc.others⟩, hfresh _ hc.fresh, fun n => ?_, fun n => ?_, fun p hp n hn hin => ?_⟩
    · rw [hnew]
      simp [List.mem_filter]
    · rw [hnew]
      simp [List.mem_filter]
    · have hrest : s1.m.part p = Tab.look {} (s.m.parts.foldl (fun t q => Tab.put {} t q.1 (q.2.ceding cls sts)) s.m.parts) p := by
        rw [Mach.part, hc.parts, Tab.upd, Tab.look_put, if_neg hp]
      rw [hrest] at hin
      rcases Tab.look_changed {} (Part.ceding cls sts) s.m.parts p with ⟨q, hq⟩ | hq
      · rw [hq] at hin
        have hkept := (List.mem_filter.mp hin).2
        simp [hn] at hkept
      · rw [hq] at hin
        exact absurd hin List.not_mem_nil
  · refine eventS_stays (f := (·.createCtx ci)) herr (if_pos ?_)
    rcases h with h | h | h | h
    · simp [h]
    · simp [h]
    · simp [h]
    · simp [h]
  · rintro ⟨hkernel, hctx, hpart, hfree, harms, hsound⟩ hfence rfl
    refine ⟨fun hnone => ?_, fun l k hk hkc => ?_⟩
    · obtain ⟨s1, hexec, hsys, hc⟩ := exec_checkpointRestore_plain hkernel hctx hpart hfree harms hsound hfence herr hnone
      exact ⟨s1, hexec, ⟨hc.t, hc.othertasks, hsys, hc.others⟩, hfresh _ hc.fresh⟩
    · obtain ⟨s1, hexec, hsys, hm⟩ := exec_checkpointRestore_carries hkernel hctx hpart hfree harms hsound hfence herr hk hkc
      obtain ⟨-, hmem, hvalid, hhalt, hpool, hloam, htasks⟩ := (s.m.created ci).replayed_spec ci.ctx k
      have hc := (s.m.created_created harms).fresh
      rw [← hm] at hmem hvalid hhalt hpool hloam htasks
      refine ⟨s1, hexec, hsys, hvalid.trans hc.valid, hhalt.trans hc.halt, hpool, hloam.trans (by rw [hc.loam]), fun j b hb => ?_, htasks⟩
      rw [Mach.byte, hmem, hb]
      exact (Tab.look_put _ _ _ _ _).trans (if_pos rfl)
  · exact eventS_stays (f := (·.kill c)) herr (State.kill_invalid h)
  · exact eventS_stays (f := (·.offlineBlock b)) herr (if_pos (List.contains_iff_mem.mpr h))
  · obtain ⟨s1, hexec, hoffline, hends, hparts, hports⟩ := exec_offlineBlock h
    refine ⟨s1, hexec, hoffline, hends, ?_, ?_, ?_, hports⟩
    · rintro n rfl k
      rw [Mach.ownsCore, Mach.partOf]
      rcases hparts (s1.m.ctx k).part with ⟨q, hq⟩ | hq
      · rw [hq]
        exact q.without_core n
      · rw [hq]
        rfl
    · rintro n rfl k
      rcases hparts k with ⟨q, hq⟩ | hq
      · rw [hq]
        exact not_mem_filter_ne _ n
      · rw [hq]
        exact List.not_mem_nil
    · rintro n rfl k
      rcases hparts k with ⟨q, hq⟩ | hq
      · rw [hq]
        exact not_mem_filter_ne _ (n / 16)
      · rw [hq]
        exact List.not_mem_nil

end Sys2Proof.Machine
end

section
/-! PROOFS. O48: markers, and a log's room. -/

namespace Sys2Proof.Machine

/-- Interrupts pending stay so while errors are logged. -/
theorem State.irqs_flushErrs {s : State} {q : Nat × Nat} (h : q ∈ s.m.irqs) : q ∈ s.flushErrs.m.irqs := by
  refine List.foldlRecOn _ _ (motive := fun a : State => q ∈ a.m.irqs) h fun a ha r _ => ?_
  unfold State.logErr
  dsimp only
  generalize Sys.logError _ _ = y
  split
  · exact ha
  · exact List.mem_append_left _ ha

/-! ### The instant of a marker, with nothing under way (23 R399) -/

section
variable {m : Mach} (hweak : m.weak = []) (hrun : ∀ cl, (m.mtx cl).run = none) (hcommit : ∀ t ∈ m.tasks, t.phase ≠ .parked .commit)

include hweak in
theorem Mach.drainCtx_idle (c : Nat) : m.drainCtx c = m := by
  have hself : ({ m with weak := [] } : Mach) = m := by rw [← hweak]
  rw [Mach.drainCtx, Mach.drain, hweak]
  exact hself

include hcommit in
theorem Mach.decideCommits_idle (c : Nat) : m.decideCommits c = m := by
  have hnone : (m.tasks.filter fun t => t.lives c && t.phase == .parked .commit) = [] := by
    rw [List.filter_eq_nil_iff]
    intro t ht
    simp [hcommit t ht]
  rw [Mach.decideCommits, hnone]
  rfl

include hrun in
theorem Mach.finishTiles_idle (c : Nat) : m.finishTiles c = m := by
  unfold Mach.finishTiles
  refine List.foldlRecOn _ _ (motive := fun a : Mach => a = m) rfl fun a ha cl _ => ?_
  rw [ha, hrun cl]

/-- The task in focus once a marker has served its WMARK (23 R409). -/
def Task.marked (t : Task) (c w : Nat) : Task :=
  if ctxOf t.gid = c then
    match t.phase with
    | .parked (.marker d) => (t.wr d (BitVec.ofNat 64 w) .raw).resume
    | _ => t
  else t

/-- A log whose next window a marker has opened, for the task that asked for it. -/
structure Silt.Opened (c k : Nat) (g : Gid) (x y : Silt) : Prop where
  current : y.current = x.current + 1
  requests : y.requests = []
  since : y.since = 0
  nextSeq : y.nextSeq = x.nextSeq + 1
  recs : y.recs = x.recs ++
    [{ seq := x.nextSeq, kind := .marker, key := Config.snapAt c (x.current + 1), window := x.current + 1, party := k, gid := g }]
  size : y.size = x.size
  used : y.used = x.used + 32

include hweak hrun hcommit in
/-- A marker taken: its record, its snapshot and the WMARKs it serves. -/
theorem Mach.takeMarker_idle (c cause : Nat) (g : Gid) {k : Nat} {h : Gid} (hreq : (m.ctx c).silt.requests.headD (cause, g) = (k, h)) :
    ∃ m1, m.takeMarker c cause g = m1 ∧ m1.mem = m.mem ∧ m1.errs = m.errs ∧ m1.t = m.t.marked c ((m.ctx c).silt.current + 1) ∧
      (6, c) ∈ m1.irqs ∧ Silt.Opened c k h (m.ctx c).silt (m1.ctx c).silt ∧
      ∃ p : Snap, (m1.ctx c).silt.snaps = (m.ctx c).silt.snaps ++ [p] ∧ p.window = (m.ctx c).silt.current + 1 ∧
        p.seq = (m.ctx c).silt.nextSeq ∧ p.pool = (m.ctx c).pool ∧ p.loam = (m.ctx c).loam := by
  have hidle : ((m.finishTiles c).decideCommits c).drainCtx c = m := by
    rw [Mach.finishTiles_idle hrun, Mach.decideCommits_idle hcommit, Mach.drainCtx_idle hweak]
  obtain ⟨f, snap, hf, hsilt, hsnap⟩ : ∃ (f : Silt → Silt) (snap : Snap), m.takeMarker c cause g =
      { ((((m.setSilt c f).serveMarks c ((m.ctx c).silt.current + 1)).setSilt c fun x => { x with snaps := x.snaps ++ [snap] }).setCtx c
        fun x => { x with uncorr := false }) with irqs := m.irqs ++ [(6, c)] } ∧
      (Silt.Opened c k h (m.ctx c).silt (f (m.ctx c).silt) ∧ (f (m.ctx c).silt).snaps = (m.ctx c).silt.snaps) ∧
      (snap.window = (m.ctx c).silt.current + 1 ∧ snap.seq = (m.ctx c).silt.nextSeq ∧
        snap.pool = ((m.setSilt c f).ctx c).pool ∧ snap.loam = ((m.setSilt c f).ctx c).loam) := by
    unfold Mach.takeMarker
    rw [hidle]
    dsimp only
    rw [hreq]
    refine ⟨_, _, rfl, ⟨⟨rfl, rfl, rfl, rfl, rfl, rfl, ?_⟩, rfl⟩, rfl, rfl, rfl, rfl⟩
    have hused := ({ (m.ctx c).silt with current := (m.ctx c).silt.current + 1 } : Silt).used_append
      [{ seq := 0, kind := .marker, key := Config.snapAt c ((m.ctx c).silt.current + 1), party := k, gid := h }]
    have hbytes : SRec.bytes { seq := 0, kind := .marker, key := Config.snapAt c ((m.ctx c).silt.current + 1), party := k, gid := h } = 32 := by
      simp [SRec.bytes]
    rw [List.map_singleton, List.sum_singleton, hbytes] at hused
    exact hused
  have hserve : ∀ a : Mach, (a.serveMarks c ((m.ctx c).silt.current + 1)).ctxs = a.ctxs := fun _ => rfl
  obtain ⟨m2, hm2, hctxs, ht, hmem, herrs⟩ : ∃ m2 : Mach, (m.setSilt c f).serveMarks c ((m.ctx c).silt.current + 1) = m2 ∧
      m2.ctxs = (m.setSilt c f).ctxs ∧ m2.t = m.t.marked c ((m.ctx c).silt.current + 1) ∧ m2.mem = m.mem ∧ m2.errs = m.errs :=
    ⟨_, rfl, rfl, rfl, rfl, rfl⟩
  have hctx2 : m2.ctx c = { m.ctx c with silt := f (m.ctx c).silt } := by
    rw [Mach.ctx_of_ctxs hctxs, Mach.ctx_setSilt, if_pos rfl]
  have hctx : (((m2.setSilt c fun x => { x with snaps := x.snaps ++ [snap] }).setCtx c fun x => { x with uncorr := false }).ctx c).silt =
      { f (m.ctx c).silt with snaps := (m.ctx c).silt.snaps ++ [snap] } := by
    rw [Mach.ctx_setCtx, if_pos rfl, Mach.ctx_setSilt, if_pos rfl, hctx2]
    dsimp only
    rw [hsilt.2]
  rw [hm2] at hf
  obtain ⟨hopened, hsnaps⟩ := hsilt
  obtain ⟨hwindow, hseq, hpool, hloam⟩ := hsnap
  rw [Mach.ctx_setSilt, if_pos rfl] at hpool hloam
  refine ⟨_, hf, hmem, herrs, ht, List.mem_append_right _ (List.mem_singleton.mpr rfl), ?_, snap, ?_, hwindow, hseq, hpool, hloam⟩
  · refine (congrArg (Silt.Opened c k h (m.ctx c).silt) hctx).mpr ?_
    exact ⟨hopened.current, hopened.requests, hopened.since, hopened.nextSeq, hopened.recs, hopened.size, hopened.used⟩
  · exact congrArg Silt.snaps hctx

end

section
variable {s : State} {c : Nat} (herr : s.m.errs = [])
include herr

theorem exec_windowMarker (hweak : s.m.weak = []) (hrun : ∀ cl, (s.m.mtx cl).run = none) (hcommit : ∀ t ∈ s.m.tasks, t.phase ≠ .parked .commit)
    (hwaits : s.m.markerWaits c = false) (hv : (s.m.ctx c).valid = true) (hroom : (s.m.ctx c).silt.room 32 = true)
    (hundone : (s.m.ctx c).silt.undone = []) (hrewound : (s.m.ctx c).silt.rewound = none) {k : Nat} {g : Gid} {rest : List (Nat × Gid)} {cause : Nat}
    (hreq : (s.m.ctx c).silt.requests = (k, g) :: rest ∨ ((s.m.ctx c).silt.requests = [] ∧ cause = 5 ∧ k = 5 ∧ g = 0)) :
    ∃ s1, exec (.windowMarker c cause) s = .next s1 ∧ s1.sys = s.sys ∧ s1.m.mem = s.m.mem ∧
      s1.m.t = s.m.t.marked c ((s.m.ctx c).silt.current + 1) ∧
      (6, c) ∈ s1.m.irqs ∧ Silt.Opened c k g (s.m.ctx c).silt (s1.m.ctx c).silt ∧
      ∃ p : Snap, (s1.m.ctx c).silt.snaps = (s.m.ctx c).silt.snaps ++ [p] ∧ p.window = (s.m.ctx c).silt.current + 1 ∧
        p.seq = (s.m.ctx c).silt.nextSeq ∧ p.pool = (s.m.ctx c).pool ∧ p.loam = (s.m.ctx c).loam := by
  have hhead : (s.m.ctx c).silt.requests.headD (5, 0) = (k, g) := by
    rcases hreq with h | ⟨h, -, rfl, rfl⟩
    · rw [h]; rfl
    · rw [h]; rfl
  have hasked : ¬ ((s.m.ctx c).silt.requests.isEmpty = true ∧ cause ≠ 5) := by
    rcases hreq with h | ⟨-, hc, -, -⟩
    · simp [h]
    · exact fun hne => hne.2 hc
  obtain ⟨m1, hm1, hmem, herrs, ht, hirq, hopened, hsnap⟩ := Mach.takeMarker_idle hweak hrun hcommit c 5 0 hhead
  have hf : s.m.windowMarker c cause = m1 := by
    unfold Mach.windowMarker
    dsimp only
    rw [if_neg (by simp [hwaits, hundone, hrewound, hv]), if_neg hasked, hm1]
    exact Mach.orHold_of_used (n := 32) hopened.size (by rw [hopened.used]) hroom
  exact ⟨_, exec_quiet (f := (·.windowMarker c cause)) rfl hf (herrs.trans herr), rfl, hmem, ht, hirq, hopened, hsnap⟩

theorem exec_windowMarker_unasked {cause : Nat} (hreq : (s.m.ctx c).silt.requests = []) (hcause : cause ≠ 5) :
    exec (.windowMarker c cause) s = .next s := by
  refine exec_stays_of herr (f := (·.windowMarker c cause)) rfl ?_
  unfold Mach.windowMarker
  dsimp only
  split
  · rfl
  · exact if_pos ⟨by rw [hreq]; rfl, hcause⟩

/-- An event that changes a context's log alone. -/
theorem exec_setSilt {i : Instr} {g : Mach → Mach} {f : Silt → Silt} (he : exec i s = eventM g s) (hg : g s.m = s.m.setSilt c f) :
    ∃ s1, exec i s = .next s1 ∧ (s1.m.mem = s.m.mem ∧ s1.sys = s.sys) ∧ (s1.m.ctx c).silt = f (s.m.ctx c).silt := by
  refine ⟨_, exec_quiet he hg herr, ⟨rfl, rfl⟩, ?_⟩
  dsimp only
  rw [Mach.ctx_setSilt, if_pos rfl]

theorem exec_siltThreshold (hthresh : (s.m.ctx c).silt.thresh ≠ 0) (hsince : 2 ^ (s.m.ctx c).silt.thresh ≤ (s.m.ctx c).silt.since)
    (hreq : ∀ p ∈ (s.m.ctx c).silt.requests, p.1 ≠ 3) : ∃ s1, exec (.siltThreshold c) s = .next s1 ∧ (s1.m.mem = s.m.mem ∧ s1.sys = s.sys) ∧
      (s1.m.ctx c).silt = { (s.m.ctx c).silt with requests := (s.m.ctx c).silt.requests ++ [(3, 0)] } := by
  have hnone : ((s.m.ctx c).silt.requests.any fun p => p.1 == 3) = false := by
    rw [List.any_eq_false]
    intro p hp
    simp [hreq p hp]
  refine exec_setSilt (c := c) (f := fun x => { x with requests := x.requests ++ [(3, 0)] }) herr (g := (·.siltThreshold c)) rfl (if_neg ?_)
  rw [hnone]
  simp only [Bool.false_eq_true, or_false, not_or]
  omega

theorem exec_siltThreshold_below (h : (s.m.ctx c).silt.thresh = 0 ∨ (s.m.ctx c).silt.since < 2 ^ (s.m.ctx c).silt.thresh) :
    exec (.siltThreshold c) s = .next s := exec_stays_of herr (f := (·.siltThreshold c)) rfl (if_pos (by tauto))

end

/-! ### Writers that wait for room go on (23 R401) -/

theorem Mach.find_wakeTask (m : Mach) (g k : Gid) : (m.wakeTask g).find k = if k = g then (m.find k).map (·.wake m.cycle m.order) else m.find k := by
  have hsel : ((fun t : Task => t.gid == k && t.phase != .ended) ∘ fun x => if x.gid = g ∧ x.phase ≠ .ended then x.wake m.cycle m.order else x) =
      fun t : Task => t.gid == k && t.phase != .ended := by
    funext x
    rw [Function.comp]
    split
    · next h =>
      have hphase : (x.wake m.cycle m.order).phase = .ready := by
        unfold Task.wake Task.enqueue
        split
        · rfl
        · rfl
      rw [x.gid_wake, hphase, Bool.eq_iff_iff]
      simp [h.2]
    · rfl
  have hmap : (m.wakeTask g).find k = (m.find k).map fun x => if x.gid = g ∧ x.phase ≠ .ended then x.wake m.cycle m.order else x := by
    rw [Mach.wakeTask, Mach.find, Mach.tasks_mapTask, List.find?_map, hsel, Mach.find]
    rfl
  rw [hmap]
  cases hfind : m.find k with
  | none => simp
  | some x =>
    obtain ⟨hgid, hlive⟩ := Mach.find_eq_some hfind
    simp only [Option.map_some, hgid, hlive, ne_eq, not_false_eq_true, and_true]
    split
    · rfl
    · rfl

/-- A task that is woken, or as it was: where it stands, and what it holds. -/
structure Task.Woken (t u : Task) : Prop where
  pc : u.pc = t.pc
  img : u.img = t.img
  ready : t.phase = .ready → u.phase = .ready

theorem Task.woken_wake (t : Task) (now no : Nat) : t.Woken (t.wake now no) ∧ (t.wake now no).phase = .ready := by
  unfold Task.wake Task.enqueue
  split
  · exact ⟨⟨rfl, rfl, fun _ => rfl⟩, rfl⟩
  · exact ⟨⟨rfl, rfl, fun _ => rfl⟩, rfl⟩

theorem Task.Woken.trans {t u v : Task} (h : t.Woken u) (h1 : u.Woken v) : t.Woken v :=
  ⟨h1.pc.trans h.pc, h1.img.trans h.img, fun ht => h1.ready (h.ready ht)⟩

/-- Of tasks woken one after the other, each of theirs is ready. -/
theorem Mach.find_foldl_wake {g : Gid} (l : List Task) (m : Mach) {t : Task} (h : m.find g = some t) :
    ∃ u, (l.foldl (fun a q => a.wakeTask q.gid) m).find g = some u ∧ t.Woken u ∧ ((∃ q ∈ l, q.gid = g) → u.phase = .ready) := by
  induction l generalizing m t with
  | nil => exact ⟨t, h, ⟨rfl, rfl, id⟩, fun ⟨q, hq, _⟩ => absurd hq List.not_mem_nil⟩
  | cons q l ih =>
    rw [List.foldl_cons]
    by_cases hg : g = q.gid
    · obtain ⟨hwoken, hready⟩ := t.woken_wake m.cycle m.order
      obtain ⟨u, hu, hu1, -⟩ := ih (m.wakeTask q.gid) (t := t.wake m.cycle m.order) (by rw [Mach.find_wakeTask, if_pos hg, h]; rfl)
      exact ⟨u, hu, hwoken.trans hu1, fun _ => hu1.ready hready⟩
    · obtain ⟨u, hu, hu1, hall⟩ := ih (m.wakeTask q.gid) (t := t) (by rw [Mach.find_wakeTask, if_neg hg, h])
      refine ⟨u, hu, hu1, fun ⟨p, hp, hpg⟩ => ?_⟩
      rcases List.mem_cons.mp hp with rfl | hp
      · exact absurd hpg.symm hg
      · exact hall ⟨p, hp, hpg⟩

/-- What waking the writers of a context changes: its tasks and the places in the order, and that its log lacks room no more. -/
theorem Mach.wakeSilt_spec (m : Mach) (c : Nat) : (m.wakeSilt c).mem = m.mem ∧ (m.wakeSilt c).errs = m.errs ∧
    (m.wakeSilt c).ctxs = (m.setSilt c fun s => { s with starved := false }).ctxs ∧
    ∀ t, t ∈ m.tasks → ctxOf t.gid = c → t.phase = .waiting .silt → m.find t.gid = some t →
      ∃ u, (m.wakeSilt c).find t.gid = some u ∧ u.phase = .ready ∧ u.pc = t.pc ∧ u.img = t.img := by
  have hfold : ∀ (l : List Task) (a : Mach), (l.foldl (fun a t => a.wakeTask t.gid) a).mem = a.mem ∧
      (l.foldl (fun a t => a.wakeTask t.gid) a).errs = a.errs ∧ (l.foldl (fun a t => a.wakeTask t.gid) a).ctxs = a.ctxs := by
    intro l
    induction l with
    | nil => exact fun a => ⟨rfl, rfl, rfl⟩
    | cons t l ih => exact fun a => ih (a.wakeTask t.gid)
  obtain ⟨hmem, herrs, hctxs⟩ := hfold (m.tasks.filter fun t => t.lives c && t.phase == .waiting .silt) (m.setSilt c fun s => { s with starved := false })
  refine ⟨hmem, herrs, hctxs, fun t ht hc hphase hfind => ?_⟩
  obtain ⟨u, hu, hwoken, hready⟩ := Mach.find_foldl_wake (m.tasks.filter fun t => t.lives c && t.phase == .waiting .silt)
    (m.setSilt c fun s => { s with starved := false }) (g := t.gid) (t := t) hfind
  refine ⟨u, hu, hready ⟨t, List.mem_filter.mpr ⟨ht, ?_⟩, rfl⟩, hwoken.pc, hwoken.img⟩
  simp [Task.lives, hc, hphase]

section
variable {s : State} {c : Nat} (herr : s.m.errs = [])
include herr

/-- A log that changes, whose waiting writers go on. -/
theorem exec_wakeSilt {i : Instr} {g : Mach → Mach} {f : Silt → Silt} {m0 : Mach} (he : exec i s = eventM g s)
    (hm0 : m0 = { s.m with irqs := m0.irqs }) (hg : g s.m = (m0.setSilt c f).wakeSilt c) :
    ∃ s1, exec i s = .next s1 ∧ (s1.m.mem = s.m.mem ∧ s1.sys = s.sys) ∧
      (∀ t, (t ∈ s.m.tasks ∧ ctxOf t.gid = c ∧ t.phase = .waiting .silt ∧ s.m.find t.gid = some t) →
        ∃ u, s1.m.find t.gid = some u ∧ u.phase = .ready ∧ u.pc = t.pc ∧ u.img = t.img) ∧
      (s1.m.ctx c).silt = { f (s.m.ctx c).silt with starved := false } := by
  obtain ⟨hmem, herrs, hctxs, hwakes⟩ := (m0.setSilt c f).wakeSilt_spec c
  have hctx0 : m0.ctx c = s.m.ctx c := by rw [hm0]; rfl
  have ht0 : m0.tasks = s.m.tasks := by rw [hm0]; rfl
  have hfind0 : ∀ k, m0.find k = s.m.find k := fun k => by rw [Mach.find, ht0, ← Mach.find]
  have hmem0 : m0.mem = s.m.mem := by rw [hm0]
  have herr0 : m0.errs = s.m.errs := by rw [hm0]
  refine ⟨_, exec_quiet he hg (herrs.trans (herr0.trans herr)), ⟨hmem.trans hmem0, rfl⟩, ?_, ?_⟩
  · rintro t ⟨ht, hc, hphase, hfind⟩
    exact hwakes t (by rw [← ht0] at ht; exact ht) hc hphase ((hfind0 _).trans hfind)
  · dsimp only
    rw [Mach.ctx_of_ctxs hctxs, Mach.ctx_setSilt, if_pos rfl, Mach.ctx_setSilt, if_pos rfl, hctx0]

theorem exec_siltShed (hv : (s.m.ctx c).valid = true) (hw : s.m.siltWaits c = true) (hpolicy : (s.m.ctx c).silt.shedPolicy = true)
    (hheld : (s.m.ctx c).silt.held ≠ some (s.m.ctx c).silt.horizon) (hmore : (s.m.ctx c).silt.horizon < (s.m.ctx c).silt.current) :
    ∃ s1, exec (.siltShed c) s = .next s1 ∧ (s1.m.mem = s.m.mem ∧ s1.sys = s.sys) ∧
      (∀ t, (t ∈ s.m.tasks ∧ ctxOf t.gid = c ∧ t.phase = .waiting .silt ∧ s.m.find t.gid = some t) →
        ∃ u, s1.m.find t.gid = some u ∧ u.phase = .ready ∧ u.pc = t.pc ∧ u.img = t.img) ∧
      (s1.m.ctx c).silt = { (s.m.ctx c).silt.shedOne with starved := false } := by
  have hdrops : (s.m.ctx c).silt.drops = true := by simp [Silt.drops, hheld]
  have hg : s.m.siltShed c = (s.m.setSilt c Silt.shedOne).wakeSilt c := by
    unfold Mach.siltShed
    dsimp only
    rw [if_neg (by simp [hpolicy, hw, hdrops, hv]), if_pos hmore]
  exact exec_wakeSilt herr (g := (·.siltShed c)) (m0 := s.m) rfl rfl hg

theorem exec_siltShed_idle (hw : s.m.siltWaits c = false) : exec (.siltShed c) s = .next s ∧ exec (.siltStall c) s = .next s := by
  refine ⟨exec_stays_of herr (f := (·.siltShed c)) rfl (if_pos ?_), exec_stays_of herr (f := (·.siltStall c)) rfl (if_pos ?_)⟩
  · simp [hw]
  · simp [hw]

theorem exec_siltStall (hl : s.sys.ring.length < 4096) (hv : (s.m.ctx c).valid = true) (hw : s.m.siltWaits c = true)
    (hpolicy : (s.m.ctx c).silt.shedPolicy = false) : ∃ s1, exec (.siltStall c) s = .next s1 ∧ s1.m.mem = s.m.mem ∧ s1.m.ctxs = s.m.ctxs ∧
      (4, c) ∈ s1.m.irqs ∧ ∃ r ∈ s1.sys.ring, r.code = 0x2005 := by
  have hf : s.m.siltStall c = { s.m.note c { code := 0x2005, severity := 1, action := 1, unit := 0xB000, valid := 1, detail := (s.m.ctx c).silt.size } with
      irqs := s.m.irqs ++ [(4, c)] } := by
    unfold Mach.siltStall
    dsimp only
    rw [if_neg (by simp [hw, hpolicy, hv])]
  obtain ⟨x, hx, hcode⟩ : ∃ x : ErrRec, (s.m.siltStall c).errs = [x] ∧ x.code = 0x2005 := by
    rw [hf]
    exact ⟨_, congrArg (· ++ _) herr, rfl⟩
  have hexec : exec (.siltStall c) s = .next ({ s with m := s.m.siltStall c } : State).flushErrs := rfl
  obtain ⟨irqs, hm⟩ := ({ s with m := s.m.siltStall c } : State).flushErrs_m
  obtain ⟨r, hr, hrcode, -⟩ := State.flushErrs_tells (s := { s with m := s.m.siltStall c }) (r := x)
    (by rw [hx]; exact List.mem_singleton.mpr rfl) (by rw [hx]; exact hl)
  refine ⟨_, hexec, ?_, ?_, State.irqs_flushErrs ?_, r, hr, hrcode.trans hcode⟩
  · rw [hm, hf]
    rfl
  · rw [hm, hf]
    rfl
  · dsimp only
    rw [hf]
    exact List.mem_append_right _ (List.mem_singleton.mpr rfl)

theorem exec_siltRegionEnlarge (n : Nat) : ∃ s1, exec (.siltRegionEnlarge c n false) s = .next s1 ∧ (s1.m.mem = s.m.mem ∧ s1.sys = s.sys) ∧
    (∀ t, (t ∈ s.m.tasks ∧ ctxOf t.gid = c ∧ t.phase = .waiting .silt ∧ s.m.find t.gid = some t) →
      ∃ u, s1.m.find t.gid = some u ∧ u.phase = .ready ∧ u.pc = t.pc ∧ u.img = t.img) ∧
    (s1.m.ctx c).silt = { (s.m.ctx c).silt with size := (s.m.ctx c).silt.size + n, starved := false } :=
  exec_wakeSilt herr (g := (·.siltEnlarge c n false)) (f := fun x => { x with size := x.size + n })
    (m0 := { s.m with irqs := s.m.irqs.filter (· != (4, c)) }) rfl rfl rfl

theorem exec_checkpoint (hv : (s.m.ctx c).valid = true) (hheld : (s.m.ctx c).silt.held = none) : ∃ s1, exec (.checkpoint c) s = .next s1 ∧
    (s1.m.mem = s.m.mem ∧ s1.sys = s.sys) ∧
    (s1.m.ctx c).silt = { (s.m.ctx c).silt with requests := (s.m.ctx c).silt.requests ++ [(4, 0)] } :=
  exec_setSilt (c := c) (f := fun x => { x with requests := x.requests ++ [(4, 0)] }) herr (g := (·.checkpoint c)) rfl (if_neg (by simp [hv, hheld]))

theorem exec_checkpointCopyEnd {n : Nat} {p : Snap} (hheld : (s.m.ctx c).silt.held = some n) (hsnap : (s.m.ctx c).silt.snap n = some p) :
    ∃ s1, exec (.checkpointCopyEnd c) s = .next s1 ∧ s1.m.mem = s.m.mem ∧
      s1.sys = { s.sys with checkpoints := s.sys.checkpoints ++ [⟨c, n, s.m.imageOf c p.seq, p⟩] } ∧
      (s1.m.ctx c).silt = { (s.m.ctx c).silt with held := none, pin := false } := by
  have hf : s.copyEnd c = { s with
      m := s.m.copyEnd c, sys := { s.sys with checkpoints := s.sys.checkpoints ++ [⟨c, n, s.m.imageOf c p.seq, p⟩] } } := by
    unfold State.copyEnd
    rw [hheld]
    dsimp only
    rw [hsnap]
  have he : exec (.checkpointCopyEnd c) s = .next (s.copyEnd c) := eventS_quiet (f := (·.copyEnd c)) (by rw [hf]; exact herr)
  refine ⟨_, he.trans (congrArg Host.Outcome.next hf), rfl, rfl, ?_⟩
  dsimp only
  rw [Mach.copyEnd, Mach.ctx_setSilt, if_pos rfl]

end

end Sys2Proof.Machine
end

section
/-! PROOFS. O48: writes undone and re-applied, and windows rewound. -/

namespace Sys2Proof.Machine

/-- n bytes from a key on meet the WAITERS of no barrier object that its owner keeps (15 R282). -/
def Mach.apart (m : Mach) (k n : Nat) : Prop := ∀ o ∈ m.objects,
  let w := m.frontKey (o / 65536) (o % 65536) + 12
  w + 2 ≤ k ∨ k + n ≤ w

theorem Mach.keepWaiters_apart {m : Mach} {k n : Nat} (h : m.apart k n) : m.keepWaiters k n = m := by
  refine List.foldlRecOn _ _ (motive := fun a : Mach => a = m) rfl fun a ha o ho => ?_
  subst ha
  have hw := h o ho
  dsimp only at hw ⊢
  exact if_neg (by omega)

theorem Mach.putBytes_apart {m : Mach} {k : Nat} {bs : List Byte} (h : m.apart k bs.length) :
    m.putBytes k bs [] = { m with mem := pokeMem m.mem k bs } :=
  Mach.keepWaiters_apart (m := { m with mem := pokeMem m.mem k bs }) h

theorem takeWhile_none {α : Type} {p : α → Bool} : ∀ {l : List α}, (∀ x ∈ l, p x = false) → l.takeWhile p = []
  | [], _ => rfl
  | x :: l, h => by rw [List.takeWhile_cons, h x (List.mem_cons_self ..)]; rfl

/-! ### One record undone or re-applied (23 R403, 22 R392) -/

section
variable {m : Mach} {c : Nat}

/-- The chip with the newest write undone. -/
def Mach.unwritten (m : Mach) (c : Nat) (r : SRec) (bs : List Byte) : Mach :=
  ({ m with mem := pokeMem m.mem r.key bs } : Mach).setSilt c fun s =>
    { s with recs := s.recs.dropLast, undone := ⟨r, .bytes (m.peek r.key bs.length) []⟩ :: s.undone }

/-- The chip with the write last undone made again. -/
def Mach.rewritten (m : Mach) (c : Nat) (u : Undone) (rest : List Undone) (bs : List Byte) : Mach :=
  ({ m with mem := pokeMem m.mem u.r.key bs } : Mach).setSilt c fun s => { s with recs := s.recs ++ [u.r], undone := rest }

theorem Mach.undoLast_write {pre : List SRec} {r : SRec} {bs : List Byte} (hrecs : (m.ctx c).silt.recs = pre ++ [r])
    (hold : r.old = .bytes bs []) (hapart : m.apart r.key bs.length) : m.undoLast c = m.unwritten c r bs := by
  unfold Mach.undoLast
  rw [hrecs, List.getLast?_concat]
  dsimp only
  rw [hold, Mach.putOld, Mach.putBytes_apart hapart]
  rfl

theorem Mach.redoLast_write {u : Undone} {rest : List Undone} {bs : List Byte} (hundone : (m.ctx c).silt.undone = u :: rest)
    (hwas : u.was = .bytes bs []) (hapart : m.apart u.r.key bs.length) : m.redoLast c = m.rewritten c u rest bs := by
  unfold Mach.redoLast
  rw [hundone]
  dsimp only
  rw [hwas, Mach.putOld, Mach.putBytes_apart hapart]
  rfl

theorem lastStep_one {pre : List SRec} {r : SRec} (h : ∀ q ∈ pre, q.seq < r.seq) : lastStep (pre ++ [r]) = 1 := by
  have hnone : pre.reverse.takeWhile (fun q => q.seq == r.seq) = [] := takeWhile_none fun q hq => by
    have := h q (List.mem_reverse.mp hq)
    simp only [beq_eq_false_iff_ne]
    omega
  unfold lastStep
  rw [List.getLast?_concat]
  dsimp only
  rw [List.reverse_append, List.reverse_singleton, List.singleton_append, List.takeWhile_cons, beq_self_eq_true, if_pos rfl, hnone]
  rfl

theorem headStep_one {u : Undone} {rest : List Undone} (h : ∀ q ∈ rest, q.r.seq ≠ u.r.seq) : headStep (u :: rest) = 1 := by
  have hnone : rest.takeWhile (fun q => q.r.seq == u.r.seq) = [] := takeWhile_none fun q hq => beq_eq_false_iff_ne.mpr (h q hq)
  unfold headStep
  dsimp only
  rw [List.takeWhile_cons, beq_self_eq_true, if_pos rfl, hnone]
  rfl

theorem Mach.rsteps_zero (m : Mach) (c fuel : Nat) : m.rsteps c 0 fuel = m := by cases fuel <;> rfl

theorem Mach.rfwds_zero (m : Mach) (c fuel : Nat) : m.rfwds c 0 fuel = m := by cases fuel <;> rfl

end

/-- The steps of kamdb are allowed on a context. -/
theorem Mach.stepsOk_of {m : Mach} {c : Nat} (h : (m.ctx c).halt.complete = true ∧ (m.ctx c).isSealed = false ∧ (m.ctx c).valid = true) :
    m.stepsOk c = true := by
  obtain ⟨hhalt, hsealed, hvalid⟩ := h
  simp [Mach.stepsOk, hhalt, hsealed, hvalid]

section
variable {s : State} {c : Nat} (herr : s.m.errs = [])
include herr

theorem exec_rstep (hsteps : (s.m.ctx c).halt.complete = true ∧ (s.m.ctx c).isSealed = false ∧ (s.m.ctx c).valid = true)
    (hfull : (s.m.ctx c).silt.full = true) {pre : List SRec} {r : SRec} {bs : List Byte} (hrecs : (s.m.ctx c).silt.recs = pre ++ [r])
    (hseq : ∀ q ∈ pre, q.seq < r.seq) (hkind : r.kind = .write) (hold : r.old = .bytes bs []) (hapart : s.m.apart r.key bs.length) :
    ∃ s1, exec (.rstep c 1) s = .next s1 ∧ s.m.storedAt s1.m r.key bs.length (fun i => bs.getD i 0) ∧ (s1.m.ctx c).silt.recs = pre ∧
      (s1.m.ctx c).silt.undone = ⟨r, .bytes (s.m.peek r.key bs.length) []⟩ :: (s.m.ctx c).silt.undone ∧ s1.m.t = s.m.t := by
  have hone : s.m.rsteps c 1 ((s.m.ctx c).silt.recs.length + 1) = s.m.unwritten c r bs := by
    rw [Mach.rsteps, hrecs, List.getLast?_concat]
    dsimp only
    rw [if_neg (by simp [hkind]), if_neg (by simp [hkind]), lastStep_one hseq, Mach.rsteps_zero]
    exact Mach.undoLast_write hrecs hold hapart
  have hf : s.m.rstep c 1 = s.m.unwritten c r bs := (if_neg (by simp [Mach.stepsOk_of hsteps, hfull])).trans hone
  have hctx : ((s.m.unwritten c r bs).ctx c).silt = { (s.m.ctx c).silt with
      recs := (s.m.ctx c).silt.recs.dropLast, undone := ⟨r, .bytes (s.m.peek r.key bs.length) []⟩ :: (s.m.ctx c).silt.undone } := by
    rw [Mach.unwritten, Mach.ctx_setSilt, if_pos rfl]
    rfl
  refine ⟨_, exec_quiet (f := (·.rstep c 1)) rfl hf herr, storedAt_of_pokeMem rfl, ?_, ?_, rfl⟩
  · exact (congrArg Silt.recs hctx).trans (by rw [hrecs]; exact List.dropLast_concat)
  · exact congrArg Silt.undone hctx

theorem exec_rstep_stays {pre : List SRec} {r : SRec} (hrecs : (s.m.ctx c).silt.recs = pre ++ [r])
    (h : r.kind = .external ∨ r.kind = .module ∨ (s.m.ctx c).silt.full = false) : exec (.rstep c 1) s = .next s := by
  refine exec_stays_of herr (f := (·.rstep c 1)) rfl ?_
  unfold Mach.rstep
  dsimp only
  split
  · rfl
  · next hopen =>
    have hkind : r.kind = .module ∨ r.kind = .external := by
      rcases h with h | h | h
      · exact .inr h
      · exact .inl h
      · exact absurd (by simp [h]) hopen
    rw [Mach.rsteps, hrecs, List.getLast?_concat]
    exact if_pos hkind

theorem exec_rfwd (hsteps : (s.m.ctx c).halt.complete = true ∧ (s.m.ctx c).isSealed = false ∧ (s.m.ctx c).valid = true)
    (hrewound : (s.m.ctx c).silt.rewound = none) {u : Undone} {rest : List Undone} {bs : List Byte}
    (hundone : (s.m.ctx c).silt.undone = u :: rest) (hseq : ∀ q ∈ rest, q.r.seq ≠ u.r.seq) (hkind : u.r.kind = .write)
    (hwas : u.was = .bytes bs []) (hapart : s.m.apart u.r.key bs.length) :
    ∃ s1, exec (.rfwd c 1) s = .next s1 ∧ s.m.storedAt s1.m u.r.key bs.length (fun i => bs.getD i 0) ∧
      (s1.m.ctx c).silt.recs = (s.m.ctx c).silt.recs ++ [u.r] ∧ (s1.m.ctx c).silt.undone = rest ∧ s1.m.t = s.m.t := by
  have hone : s.m.rfwds c 1 ((s.m.ctx c).silt.undone.length + 1) = s.m.rewritten c u rest bs := by
    rw [Mach.rfwds, hundone]
    dsimp only
    rw [if_neg (by simp [hkind]), headStep_one hseq, Mach.rfwds_zero]
    exact Mach.redoLast_write hundone hwas hapart
  have hf : s.m.rfwd c 1 = s.m.rewritten c u rest bs := by
    unfold Mach.rfwd
    dsimp only
    rw [if_neg (by simp [Mach.stepsOk_of hsteps]), hrewound]
    exact hone
  have hctx : ((s.m.rewritten c u rest bs).ctx c).silt = { (s.m.ctx c).silt with
      recs := (s.m.ctx c).silt.recs ++ [u.r], undone := rest } := by
    rw [Mach.rewritten, Mach.ctx_setSilt, if_pos rfl]
    rfl
  refine ⟨_, exec_quiet (f := (·.rfwd c 1)) rfl hf herr, storedAt_of_pokeMem rfl, ?_, ?_, rfl⟩
  · exact congrArg Silt.recs hctx
  · exact congrArg Silt.undone hctx

end

/-! ### Rewinds (23 R404) -/

/-- A task restored keeps what its snapshot holds of it. -/
theorem Mach.reseated_keeps (m : Mach) (c : Nat) (t : Task) : (m.reseated c t).gid = t.gid ∧ (m.reseated c t).img = t.img ∧
    (m.reseated c t).pc = t.pc := by
  unfold Mach.reseated
  dsimp only
  split
  · split
    · exact ⟨rfl, rfl, rfl⟩
    · exact ⟨rfl, rfl, rfl⟩
  · split
    · exact ⟨rfl, rfl, rfl⟩
    · exact ⟨rfl, rfl, rfl⟩

/-- Of a context whose records are undone, restored to a snapshot. -/
theorem Mach.rewindTo_spec {m m0 : Mach} {c : Nat} {p : Snap} {halted : Bool}
    (h : m.undoneTo c (((m.ctx c).silt.recs.filter fun r => decide (p.seq < r.seq)).length +
      ((m.ctx c).silt.undone.filter fun u => decide (p.seq < u.r.seq)).length) = m0) :
    m.rewindTo c p halted = (m0.restore c p halted).setSilt c (fun s => { s with current := p.window, since := 0, requests := [] }) ∧
    (m.rewindTo c p halted).ctx c = { m0.ctx c with
      pool := p.pool, loam := p.loam.restored (m0.ctx c).loam
      silt := { (m0.ctx c).silt with current := p.window, since := 0, requests := [] } } := by
  have hf : m.rewindTo c p halted = (m0.restore c p halted).setSilt c (fun s => { s with current := p.window, since := 0, requests := [] }) := by
    rw [← h]
    rfl
  refine ⟨hf, ?_⟩
  rw [hf, Mach.ctx_setSilt, if_pos rfl, Mach.ctx_restore]

section
variable {s : State} {c n : Nat} {p : Snap} {pre : List SRec} {r : SRec} {bs : List Byte} (herr : s.m.errs = [])
  (hsteps : (s.m.ctx c).halt.complete = true ∧ (s.m.ctx c).isSealed = false ∧ (s.m.ctx c).valid = true)
  (hundone : (s.m.ctx c).silt.undone = []) (hhorizon : (s.m.ctx c).silt.horizon ≤ n) (hcurrent : n ≤ (s.m.ctx c).silt.current)
  (hsnap : (s.m.ctx c).silt.snap n = some p) (hrecs : (s.m.ctx c).silt.recs = pre ++ [r]) (hpre : ∀ q ∈ pre, q.seq ≤ p.seq)
  (hseq : p.seq < r.seq)
include herr hsteps hhorizon hcurrent hsnap hrecs hseq

theorem exec_rwin_external (hkind : r.kind = .external) : exec (.rwin c n) s = .next s := by
  refine exec_stays_of herr (f := (·.rwin c n)) rfl ?_
  unfold Mach.rwin
  dsimp only
  rw [if_neg (by simp [Mach.stepsOk_of hsteps, hhorizon, hcurrent]), hsnap]
  exact if_pos (by rw [hrecs]; simp [hkind, hseq])

include hundone hpre

theorem exec_rwin (hkind : r.kind = .write) (hold : r.old = .bytes bs []) (hapart : s.m.apart r.key bs.length) :
    ∃ s1, exec (.rwin c n) s = .next s1 ∧ s.m.storedAt s1.m r.key bs.length (fun i => bs.getD i 0) ∧
      (s1.m.ctx c).silt.current = p.window ∧ (s1.m.ctx c).silt.recs = pre ∧ (s1.m.ctx c).silt.rewound.isSome ∧ (s1.m.ctx c).pool = p.pool ∧
      (s1.m.ctx c).loam = p.loam.restored (s.m.ctx c).loam ∧ ∀ t ∈ s1.m.tasks, ctxOf t.gid = c → t.phase ≠ .ended →
        ∃ t0 ∈ p.tasks, t.gid = t0.gid ∧ t.img = t0.img ∧ t.pc = t0.pc ∧ t.halted = true := by
  have habove : pre.filter (fun r => decide (p.seq < r.seq)) = [] := by
    rw [List.filter_eq_nil_iff]
    intro q hq
    simp [hpre q hq]
  have hlast : s.m.undoneTo c (((s.m.ctx c).silt.recs.filter fun r => decide (p.seq < r.seq)).length +
      ((s.m.ctx c).silt.undone.filter fun u => decide (p.seq < u.r.seq)).length) = s.m.unwritten c r bs := by
    have hcount : ((s.m.ctx c).silt.recs.filter fun r => decide (p.seq < r.seq)).length +
        ((s.m.ctx c).silt.undone.filter fun u => decide (p.seq < u.r.seq)).length = 1 := by
      rw [hrecs, hundone, List.filter_append, habove]
      simp [hseq]
    rw [hcount, Mach.undoneTo, hundone]
    exact Mach.undoLast_write hrecs hold hapart
  obtain ⟨hrewind, hctx⟩ := Mach.rewindTo_spec (halted := true) hlast
  have hext : ((s.m.ctx c).silt.recs.any fun r => r.kind == .external && decide (p.seq < r.seq)) = false := by
    rw [hrecs, List.any_eq_false]
    intro q hq
    rcases List.mem_append.mp hq with hq | hq
    · simp [hpre q hq]
    · simp [List.mem_singleton.mp hq, hkind]
  obtain ⟨w, hf⟩ : ∃ w : Rewound, s.m.rwin c n = (s.m.rewindTo c p true).setSilt c fun x => { x with rewound := some w } := by
    unfold Mach.rwin
    dsimp only
    rw [if_neg (by simp [Mach.stepsOk_of hsteps, hhorizon, hcurrent]), hsnap]
    dsimp only
    rw [hext]
    exact ⟨_, rfl⟩
  have hun : (s.m.unwritten c r bs).ctx c = { s.m.ctx c with silt := { (s.m.ctx c).silt with
      recs := (s.m.ctx c).silt.recs.dropLast, undone := ⟨r, .bytes (s.m.peek r.key bs.length) []⟩ :: (s.m.ctx c).silt.undone } } := by
    rw [Mach.unwritten, Mach.ctx_setSilt, if_pos rfl]
    rfl
  have hmem : (s.m.rewindTo c p true).mem = pokeMem s.m.mem r.key bs := by rw [hrewind]; rfl
  have herrs : (s.m.rewindTo c p true).errs = s.m.errs := by rw [hrewind]; rfl
  have htasks : (s.m.rewindTo c p true).tasks = ((s.m.unwritten c r bs).restore c p true).tasks := by rw [hrewind]; rfl
  generalize s.m.rewindTo c p true = m1 at hf hctx hmem herrs htasks
  rw [hun, hrecs, List.dropLast_concat] at hctx
  have hctx1 : (m1.setSilt c fun x => { x with rewound := some w }).ctx c = { m1.ctx c with silt := { (m1.ctx c).silt with rewound := some w } } := by
    rw [Mach.ctx_setSilt, if_pos rfl]
  refine ⟨_, exec_quiet (f := (·.rwin c n)) rfl hf (herrs.trans herr), storedAt_of_pokeMem hmem, ?_, ?_, ?_, ?_, ?_, fun t ht hc hlive => ?_⟩
  · dsimp only
    rw [hctx1, hctx]
  · dsimp only
    rw [hctx1, hctx]
  · dsimp only
    rw [hctx1]
    rfl
  · dsimp only
    rw [hctx1, hctx]
  · dsimp only
    rw [hctx1, hctx]
  · obtain ⟨t0, ht0, rfl⟩ := Mach.mem_tasks_restore (t := t) (by rw [← htasks]; exact ht) hc hlive
    obtain ⟨hgid, himg, hpc⟩ := Mach.reseated_keeps (s.m.unwritten c r bs) c t0
    exact ⟨t0, ht0, hgid, himg, hpc, rfl⟩

end

end Sys2Proof.Machine
end

section
/-! PROOFS. O48, settled. -/

namespace Sys2Proof.Machine

/-! ### Errors in a context's data (23 R405) -/

theorem Mach.entry_dropEntry (m : Mach) (c i j : Nat) : (m.dropEntry c i).entry c j = if j = i then {} else m.entry c j := by
  have hentries : ((m.dropEntry c i).ctx c).loam.entries = Tab.upd {} (m.ctx c).loam.entries i fun _ => {} := by
    rw [Mach.dropEntry]
    dsimp only
    rw [Mach.ctx_setCtx, if_pos rfl, Mach.updEntry, Mach.ctx_setCtx, if_pos rfl]
  rw [Mach.entry, hentries, Tab.upd, Tab.look_put]
  rfl

section
variable {s : State} {c : Nat} (herr : s.m.errs = []) (hl : s.sys.ring.length < 4096)
  (hv : (s.m.ctx c).valid = true) (hk : (s.m.ctx c).killed = false)

include hl in
/-- An event of the chip that detects one error. -/
theorem exec_tells {i : Instr} {f : Mach → Mach} {m1 : Mach} {x : ErrRec} (he : exec i s = eventM f s) (hf : f s.m = m1)
    (hx : m1.errs = [x]) : ∃ s1 irqs, exec i s = .next s1 ∧ s1.m = { m1 with errs := [], irqs := irqs } ∧ ∃ r ∈ s1.sys.ring, r.code = x.code := by
  subst hf
  obtain ⟨irqs, hm⟩ := ({ s with m := f s.m } : State).flushErrs_m
  obtain ⟨r, hr, hcode, -⟩ := State.flushErrs_tells (s := { s with m := f s.m }) (r := x)
    (by rw [hx]; exact List.mem_singleton.mpr rfl) (by rw [hx]; exact hl)
  exact ⟨_, irqs, he, hm, r, hr, hcode⟩

include hv hk

theorem Mach.uncorrData_drops {st : Storage} {w : Word} {i : Nat} (h : (s.m.struckEntry c st).filter (fun i => (s.m.entry c i).state == .complete) = some i) :
    s.m.uncorrData c st w = (s.m.dropEntry c i).note c ((s.m.errPlace c st).record 0x5002 0 0x81 i w) := by
  unfold Mach.uncorrData
  dsimp only
  rw [if_neg (by simp [hv, hk]), h]

theorem Mach.uncorrData_settles {st : Storage} {w : Word} (h : s.m.struckEntry c st = none) : s.m.uncorrData c st w = s.m.uncorrSettle c st w := by
  unfold Mach.uncorrData
  dsimp only
  rw [if_neg (by simp [hv, hk]), h]
  dsimp only [Option.filter]

include herr hl

theorem exec_uncorrData_entry (w : Word) {i : Nat} (he : (s.m.entry c i).state = .complete) :
    ∃ s1, exec (.uncorrData c (.entry i) w) s = .next s1 ∧ s1.m.mem = s.m.mem ∧
      (∀ j, s1.m.entry c j = if j = i then {} else s.m.entry c j) ∧ (∃ r ∈ s1.sys.ring, r.code = 0x5002) ∧ s1.m.t = s.m.t := by
  have hhit : (s.m.struckEntry c (.entry i)).filter (fun i => (s.m.entry c i).state == .complete) = some i := by
    have hcomplete : ((s.m.entry c i).state == EState.complete) = true := by rw [he]; rfl
    exact Option.filter_some_pos hcomplete
  have hf : s.m.uncorrData c (.entry i) w = (s.m.dropEntry c i).note c ((s.m.errPlace c (.entry i)).record 0x5002 0 0x81 i w) :=
    Mach.uncorrData_drops hv hk hhit
  obtain ⟨s1, irqs, hexec, hm, hr⟩ := exec_tells hl (i := .uncorrData c (.entry i) w) (f := (·.uncorrData c (.entry i) w)) rfl hf
    (congrArg (· ++ _) herr)
  refine ⟨s1, hexec, ?_, fun j => ?_, hr, ?_⟩
  · rw [hm]
    rfl
  · rw [hm]
    exact s.m.entry_dropEntry c i j
  · rw [hm]
    rfl

variable (hweak : s.m.weak = []) (hcommit : ∀ t ∈ s.m.tasks, t.phase ≠ .parked .commit)
include hweak hcommit

omit herr hl in
/-- Commits decided and the context's stores performed: nothing to do here. -/
theorem Mach.uncorrData_kills {st : Storage} {w : Word} {k : Nat} (hst : s.m.struckEntry c st = none) (hreason : s.m.killReason c st = some k) :
    s.m.uncorrData c st w = s.m.uncorrKill c ((s.m.errPlace c st).record 0x2003 2 0x83 k w) := by
  rw [Mach.uncorrData_settles hv hk hst, Mach.uncorrSettle, Mach.decideCommits_idle hcommit, Mach.drainCtx_idle hweak]
  rw [hreason]

omit herr hl in
theorem Mach.uncorrData_replays {st : Storage} {w : Word} {p : Snap} (hst : s.m.struckEntry c st = none) (hreason : s.m.killReason c st = none)
    (hsnap : (s.m.ctx c).silt.snap (s.m.ctx c).silt.current = some p) :
    s.m.uncorrData c st w = s.m.uncorrReplay c p ((s.m.errPlace c st).record 0x2002 1 0x82 p.seq w) := by
  rw [Mach.uncorrData_settles hv hk hst, Mach.uncorrSettle, Mach.decideCommits_idle hcommit, Mach.drainCtx_idle hweak]
  rw [hreason]
  dsimp only
  rw [hsnap]

omit hl in
/-- An error in the log itself kills: nothing restores a line of it. -/
theorem exec_uncorrData_log (w : Word) (pa : Nat) (hhalt : (s.m.ctx c).halt.complete = false) :
    ∃ s1, exec (.uncorrData c (.log pa) w) s = .next s1 ∧ (s1.m.ctx c).killed = true ∧ (s1.m.ctx c).halt.line = true ∧ s1.m.mem = s.m.mem := by
  have hreason : ∃ k, s.m.killReason c (.log pa) = some k := by
    unfold Mach.killReason
    dsimp only
    split
    · exact ⟨_, rfl⟩
    · split
      · exact ⟨_, rfl⟩
      · split
        · exact ⟨_, rfl⟩
        · split
          · exact ⟨_, rfl⟩
          · exact ⟨_, rfl⟩
  obtain ⟨k, hreason⟩ := hreason
  obtain ⟨r, hf⟩ : ∃ r : ErrRec, s.m.uncorrData c (.log pa) w =
      ((s.m.raiseLine c false none).haltError c r).setCtx c fun x => { x with killed := true } := by
    refine ⟨(s.m.errPlace c (.log pa)).record 0x2003 2 0x83 k w, ?_⟩
    rw [Mach.uncorrData_kills hv hk hweak hcommit rfl hreason, Mach.uncorrKill, if_neg (by simp [hhalt])]
  have hline : (((s.m.raiseLine c false none).haltError c r).ctx c).halt.line = true :=
    (Mach.line_haltError _ c c r).trans (s.m.line_raiseLine c false none)
  refine ⟨_, exec_quiet (f := (·.uncorrData c (.log pa) w)) rfl hf herr, ?_, ?_, rfl⟩
  · dsimp only
    rw [Mach.ctx_setCtx, if_pos rfl]
  · dsimp only
    rw [Mach.ctx_setCtx, if_pos rfl]
    exact hline

/-- An error in a register image with nothing written since the last marker: the snapshot is restored, and the context goes on. -/
theorem exec_uncorrData_image (w : Word) {g : Gid} {pa : Nat} {b : Bool} {p : Snap} (hsnap : (s.m.ctx c).silt.snap (s.m.ctx c).silt.current = some p)
    (hrewound : (s.m.ctx c).silt.rewound = none) (hundone : (s.m.ctx c).silt.undone = []) (hentries : (s.m.ctx c).loam.entries = [])
    (herrors : (s.m.ctx c).halt.errors = []) (huncorr : (s.m.ctx c).uncorr = false) (hext : (s.m.ctx c).silt.lastExt ≤ p.seq)
    (hrecs : ∀ q ∈ (s.m.ctx c).silt.recs, q.seq ≤ p.seq) :
    ∃ s1, exec (.uncorrData c (.image g pa b) w) s = .next s1 ∧ s1.m.mem = s.m.mem ∧ (s1.m.ctx c).uncorr = true ∧
      (s1.m.ctx c).pool = p.pool ∧ (s1.m.ctx c).loam = p.loam.restored (s.m.ctx c).loam ∧ (s1.m.ctx c).halt = {} ∧
      (s1.m.ctx c).silt.current = p.window ∧ ∃ r ∈ s1.sys.ring, r.code = 0x2002 := by
  have hreason : s.m.killReason c (.image g pa b) = none := by
    unfold Mach.killReason
    dsimp only
    rw [hsnap]
    simp [huncorr, Nat.not_lt.mpr hext, Mach.restorable]
  obtain ⟨r, hr, hf⟩ : ∃ r : ErrRec, r.code = 0x2002 ∧ s.m.uncorrData c (.image g pa b) w = s.m.uncorrReplay c p r :=
    ⟨_, rfl, Mach.uncorrData_replays hv hk hweak hcommit rfl hreason hsnap⟩
  obtain ⟨m0, hm0, hctx0, hmem0, herrs0⟩ : ∃ m0 : Mach, m0 = ({ s.m with errs := s.m.errs ++ (s.m.ctx c).halt.errors } : Mach).setCtx c
      (fun x => { x with halt := {}, silt := x.silt.settleRewind }) ∧ m0.ctx c = { s.m.ctx c with halt := {} } ∧ m0.mem = s.m.mem ∧ m0.errs = [] := by
    refine ⟨_, rfl, ?_, rfl, ?_⟩
    · rw [Mach.ctx_setCtx, if_pos rfl]
      have hself : ({ s.m with errs := s.m.errs ++ (s.m.ctx c).halt.errors } : Mach).ctx c = s.m.ctx c := rfl
      have hsettle : (s.m.ctx c).silt.settleRewind = (s.m.ctx c).silt := by simp [Silt.settleRewind, hrewound]
      rw [hself, hsettle]
    · exact (congrArg₂ (· ++ ·) herr herrors).trans (List.append_nil [])
  have hundo : m0.undoneTo c (((m0.ctx c).silt.recs.filter fun r => decide (p.seq < r.seq)).length +
      ((m0.ctx c).silt.undone.filter fun u => decide (p.seq < u.r.seq)).length) = m0 := by
    have hnone : (s.m.ctx c).silt.recs.filter (fun r => decide (p.seq < r.seq)) = [] := by
      rw [List.filter_eq_nil_iff]
      intro q hq
      simp [hrecs q hq]
    rw [hctx0]
    dsimp only
    rw [hnone, hundone, Mach.undoneTo, hctx0]
    dsimp only
    rw [hundone]
    rfl
  obtain ⟨hrewind, hctx1⟩ := Mach.rewindTo_spec (halted := false) hundo
  have hmem1 : (m0.rewindTo c p false).mem = s.m.mem := by rw [hrewind]; exact hmem0
  have herrs1 : (m0.rewindTo c p false).errs = [] := by rw [hrewind]; exact herrs0
  have hreplay : s.m.uncorrReplay c p r = (((m0.rewindTo c p false).setCtx c fun x => { x with uncorr := true, silt := { x.silt with undone := [] } }).lowerLine c).note c r := by
    rw [hm0]
    rfl
  generalize m0.rewindTo c p false = m1 at hctx1 hmem1 herrs1 hreplay
  have hctx2 : (m1.setCtx c fun x => { x with uncorr := true, silt := { x.silt with undone := [] } }).ctx c =
      { m1.ctx c with uncorr := true, silt := { (m1.ctx c).silt with undone := [] } } := by rw [Mach.ctx_setCtx, if_pos rfl]
  have hempty : ((m1.setCtx c fun x => { x with uncorr := true, silt := { x.silt with undone := [] } }).ctx c).loam.entries = [] := by
    rw [hctx2, hctx1, hctx0]
    dsimp only [Loam.restored]
    rw [hentries]
    rfl
  obtain ⟨hmem2, herrs2, hctx3⟩ := Mach.lowerLine_spec hempty
  rw [hctx2, hctx1, hctx0] at hctx3
  generalize Mach.lowerLine _ c = m2 at hmem2 herrs2 hctx3 hreplay
  obtain ⟨s1, irqs, hexec, hm, hring⟩ := exec_tells hl (i := .uncorrData c (.image g pa b) w) (f := (·.uncorrData c (.image g pa b) w)) rfl
    (hf.trans hreplay) (congrArg (· ++ _) (herrs2.trans herrs1))
  have hctx : s1.m.ctx c = m2.ctx c := by rw [hm]; rfl
  refine ⟨s1, hexec, ?_, ?_, ?_, ?_, ?_, ?_, ?_⟩
  · rw [hm]
    exact hmem2.trans hmem1
  · rw [hctx, hctx3]
  · rw [hctx, hctx3]
  · rw [hctx, hctx3]
  · rw [hctx, hctx3]
  · rw [hctx, hctx3]
  · exact hr ▸ hring

end

/-! ### Corrected errors (26 R449) -/

/-- A corrected error is noted; one more record where sixteen others have struck its region within a second. -/
theorem exec_correctedMemoryError {s : State} (herr : s.m.errs = []) (hl : s.sys.ring.length < 4095) (unit a : Nat) (w : Word) :
    ∃ s1, exec (.correctedMemoryError unit a w) s = .next s1 ∧ s1.m.mem = s.m.mem ∧
      s1.m.ctxs = s.m.ctxs ∧ s1.m.t = s.m.t ∧ (∃ r ∈ s1.sys.ring, r.code = 0x2001) ∧ ((unit / 4096 = 0xB ∨ unit / 4096 = 0xC) →
        16 ≤ (s.sys.corrected.filter fun p => decide (s.m.cycle < p.2 + 2400000000) && p.1 == a / 65536 * 65536).length →
        ∃ r ∈ s1.sys.ring, r.code = 0x2004) := by
  obtain ⟨irqs, hm⟩ := (s.correctedError unit a w).flushErrs_m
  have hframe : ∃ errs, (s.correctedError unit a w).m = { s.m with errs := errs } ∧ errs.length ≤ 2 ∧ (∃ x ∈ errs, x.code = 0x2001) ∧
      (s.correctedError unit a w).sys.ring = s.sys.ring ∧ ((unit / 4096 = 0xB ∨ unit / 4096 = 0xC) →
        16 ≤ (s.sys.corrected.filter fun p => decide (s.m.cycle < p.2 + 2400000000) && p.1 == a / 65536 * 65536).length →
        ∃ x ∈ errs, x.code = 0x2004) := by
    unfold State.correctedError
    dsimp only
    split
    · next hphys =>
      refine ⟨_, rfl, by rw [herr]; exact Nat.le_succ 1, ⟨_, by rw [herr]; exact List.mem_singleton.mpr rfl, rfl⟩, rfl, fun hunit => ?_⟩
      rcases hunit with h | h
      · simp [physUnit, h] at hphys
      · simp [physUnit, h] at hphys
    · split
      · next hfew =>
        refine ⟨_, rfl, by rw [herr]; exact Nat.le_succ 1, ⟨_, by rw [herr]; exact List.mem_singleton.mpr rfl, rfl⟩, rfl, fun _ hmany => ?_⟩
        rw [List.filter_append, List.filter_filter, List.length_append] at hfew
        have hnew : ([(a / 65536 * 65536, s.m.cycle)].filter fun p => p.1 == a / 65536 * 65536).length = 1 := by simp
        have hseen : (s.sys.corrected.filter fun p => decide (s.m.cycle < p.2 + 2400000000) && p.1 == a / 65536 * 65536).length =
            (s.sys.corrected.filter fun p => p.1 == a / 65536 * 65536 && decide (s.m.cycle < p.2 + secCycles)).length :=
          congrArg List.length (List.filter_congr fun p _ => Bool.and_comm _ _)
        omega
      · exact ⟨_, rfl, by rw [Mach.noteUnit_errs, herr]; exact Nat.le_refl 2, ⟨_, by rw [Mach.noteUnit_errs, herr]; exact List.mem_append_left _ (List.mem_singleton.mpr rfl), rfl⟩, rfl,
          fun _ _ => ⟨_, List.mem_append_right _ (List.mem_singleton.mpr rfl), rfl⟩⟩
  obtain ⟨errs, hframe, hlen, ⟨x, hx, hxcode⟩, hring, hmany⟩ := hframe
  have hroom : (s.correctedError unit a w).sys.ring.length + (s.correctedError unit a w).m.errs.length ≤ 4096 := by
    rw [hring, hframe]
    dsimp only
    omega
  have htells : ∀ y ∈ errs, ∃ r ∈ (s.correctedError unit a w).flushErrs.sys.ring, r.code = y.code := fun y hy => by
    obtain ⟨r, hr, hcode, -⟩ := State.flushErrs_tells (s := s.correctedError unit a w) (r := y) (by rw [hframe]; exact hy) hroom
    exact ⟨r, hr, hcode⟩
  rw [hframe] at hm
  refine ⟨(s.correctedError unit a w).flushErrs, rfl, by rw [hm], by rw [hm], by rw [hm], hxcode ▸ htells x hx, fun hunit h16 => ?_⟩
  obtain ⟨y, hy, hycode⟩ := hmany hunit h16
  exact hycode ▸ htells y hy

/-! ### Bytes as they stood at a marker (23 R406) -/

theorem Mach.byteAt_current {m : Mach} {c q : Nat} (k : Nat) (h : ∀ r ∈ (m.ctx c).silt.recs, r.seq ≤ q) : m.byteAt c q k = m.byte k := by
  have hnone : (m.ctx c).silt.recs.filter (fun r => decide (q < r.seq)) = [] := by
    rw [List.filter_eq_nil_iff]
    intro r hr
    simp [h r hr]
  rw [Mach.byteAt, hnone]
  rfl

theorem Mach.byteAt_written {m : Mach} {c q : Nat} {pre : List SRec} {r : SRec} {b : Byte} {bs : List Byte}
    (hrecs : (m.ctx c).silt.recs = pre ++ [r]) (hpre : ∀ r ∈ pre, r.seq ≤ q) (hq : q < r.seq) (hkind : r.kind = .write) (hspace : r.space = 0)
    (hold : r.old = .bytes (b :: bs) []) : m.byteAt c q r.key = b := by
  have hlast : (m.ctx c).silt.recs.filter (fun r => decide (q < r.seq)) = [r] := by
    have hnone : pre.filter (fun r => decide (q < r.seq)) = [] := by
      rw [List.filter_eq_nil_iff]
      intro x hx
      simp [hpre x hx]
    rw [hrecs, List.filter_append, hnone]
    simp [hq]
  have hat : r.oldAt r.key = some b := by simp [SRec.oldAt, hkind, hspace, hold]
  rw [Mach.byteAt, hlast]
  simp [hat]

/-- Settles O48: each event of the log by what it does to the log and to memory. -/
theorem siltEvents : Obligations.SiltEvents := by
  unfold Obligations.SiltEvents
  intro s c herr hweak hrun hcommit hwaits
  dsimp only
  refine ⟨fun k g rest cause hv hroom hundone hrewound hreq => ?_, ⟨exec_siltThreshold herr, exec_siltThreshold_below herr⟩,
    fun cause => exec_windowMarker_unasked herr, fun hv hw => ⟨fun hpolicy hheld hmore => ?_, fun hpolicy hl => exec_siltStall herr hl hv hw hpolicy⟩,
    exec_siltShed_idle herr, exec_siltRegionEnlarge herr, fun pre r bs hsteps hfull => exec_rstep herr hsteps hfull, fun pre r => exec_rstep_stays herr,
    fun u rest bs hopen hrewound => exec_rfwd herr hopen hrewound,
    fun n p pre r bs hsteps hundone hhorizon hcurrent hsnap hrecs hpre hseq hold =>
      ⟨fun hkind hapart => exec_rwin herr hsteps hundone hhorizon hcurrent hsnap hrecs hpre hseq hkind hold hapart,
        exec_rwin_external herr hsteps hhorizon hcurrent hsnap hrecs hseq⟩,
    fun st w hv hk hl => ⟨fun i => exec_uncorrData_entry herr hl hv hk w, fun hst => ?_, fun g pa b p => exec_uncorrData_image herr hl hv hk hweak hcommit w⟩,
    fun unit a w hl => exec_correctedMemoryError herr hl unit a w, exec_checkpoint herr, fun q k h => Mach.byteAt_current k h,
    fun q k pre r b bs hrecs hpre hq hkind hspace hkey hold => ?_, fun n p => exec_checkpointCopyEnd herr⟩
  · obtain ⟨s1, hexec, hsys, hmem, ht, hirq, hopened, hsnap⟩ := exec_windowMarker herr hweak hrun hcommit hwaits hv hroom hundone hrewound hreq
    refine ⟨s1, hexec, ⟨hmem, hsys⟩, hopened.current, hopened.requests, hopened.since, hopened.nextSeq, hirq, hopened.recs, hsnap, fun d hc hp => ?_⟩
    rw [ht, Task.marked, if_pos hc, hp]
  · obtain ⟨s1, hexec, hstill, hwakes, hlog⟩ := exec_siltShed herr hv hw hpolicy hheld hmore
    refine ⟨s1, hexec, hstill, hwakes, ?_, ?_, ?_, ?_, ?_⟩
    · rw [hlog]
      rfl
    · rw [hlog]
      rfl
    · rw [hlog]
      rfl
    · rw [hlog]
      rfl
    · rw [hlog]
      rfl
  · obtain ⟨pa, rfl⟩ := hst
    exact exec_uncorrData_log herr hv hk hweak hcommit w pa
  · subst hkey
    exact Mach.byteAt_written hrecs hpre hq hkind hspace hold

end Sys2Proof.Machine
end
